-- ==== Sys2Proof/Word.lean ====
section
/-! DEFINITION. The words of the device: bytes, 64-bit registers and store words (R26, R390). -/

namespace Sys2Proof

/-- One byte of a memory, a record or a message. -/
abbrev Byte := BitVec 8

/-- A 64-bit register or general register (R26, R390). -/
abbrev Word := BitVec 64

/-- Identifier of a job (Table 0-6). -/
abbrev JobId := BitVec 32

/-- A layout epoch or a weight generation; both wrap modulo 65,536 (R10). -/
abbrev Epoch := BitVec 16

/-- A device ID (Table 0-6). -/
abbrev DevId := BitVec 18

end Sys2Proof
end

