-- ==== Sys2Proof/Syntax.lean ====
section
/-! DEFINITION. The commands of the block: one constructor of `Instr` for each row of
spec/opcode_table.json, with the operands that the row's rule names. -/

namespace Sys2Proof

/-- Outcome of an HBM read or of a scrub, Table 7-4 (R139). -/
inductive HbmOutcome where
  | correctedOnDie
  | correctedByController
  | uncorrectablePayload
  | uncorrectableCollar
  deriving DecidableEq, Repr

/-- An engine in the layout of Table 14-3, type 0xC: die number, engine kind (Table 14-8), instance. -/
structure EngineId where
  die  : Nat
  kind : Nat
  inst : Nat
  deriving DecidableEq, Repr

/-- A memory error that is found inside a step (file 95: SRAM_UE, HBM_UNCORRECTABLE_READ). -/
inductive MemFault where
  /-- An uncorrectable word of a core or cluster store, at a store address of Table 7-3 (R332). -/
  | storeWord (addr : Nat)
  /-- A corrected word of a core or cluster store (R332). -/
  | storeFixed (addr : Nat)
  /-- A word of the memory-side cache (R332): in line `line` (0 to 15) of the payload of tile `tile` of partition `part`, or
  for 16 in its collar's line; uncorrectable when `hard`. -/
  | cacheWord (part tile line word : Nat) (hard : Bool)
  /-- A corrected word of other SRAM, owned by an engine (R332). -/
  | engineFixed (e : EngineId)
  /-- An uncorrectable word of other SRAM, owned by an engine (R332, R354). -/
  | engineSram (e : EngineId)
  /-- An HBM read of 64-byte block `block` of a tile of partition `part`, with its outcome and the
  die it is charged to. -/
  | hbm (part tile block die : Nat) (o : HbmOutcome)
  deriving DecidableEq, Repr

/-- A Nyzan message: the header of Table 8-9 and what follows it (R176). With `enc` the payload and
the collar are ciphertext and `tag` is the GCM tag (R179). -/
structure Msg where
  mtype   : Nat
  status  : Nat
  tag     : BitVec 16
  job     : JobId
  dst     : DevId
  srcCtx  : BitVec 6
  srcPart : BitVec 4
  srcDie  : Bool
  src     : DevId
  addr    : BitVec 44
  len     : Nat
  epoch   : Epoch
  enc     : Bool
  col     : Bool
  asz     : Bool
  aop     : BitVec 5
  ctr     : Word
  payload : List Byte
  collar  : List Byte
  gtag    : List Byte
  deriving DecidableEq, Repr

/-- The receive buffer that a flit occupies (R167): its port, virtual channel and dateline class, and whether it is one
of the shared pool. -/
structure Home where
  port   : Nat
  vc     : Nat
  dl     : Bool
  shared : Bool
  deriving DecidableEq, Repr

/-- A flit (Tables 8-2 and 8-3) as it stands after Reed-Solomon decoding. The last four fields are the model's notes and no
part of the flit: the device that a HOLD for its message goes to (R172), whether it is a HELLO's, the number of its message
within the router, and the buffer that it still occupies. -/
structure Flit where
  ftype   : Nat
  vc      : Nat
  dl      : Bool
  seq     : Nat
  ack     : Nat
  payload : List Byte
  held    : Option DevId
  hello   : Bool
  mid     : Nat
  home    : Option Home
  deriving DecidableEq, Repr

/-- What a port's decoder reports of one received codeword (R164): the flit's 256 bytes when it
could be corrected, and the corrected bytes of each lane. -/
structure RxCodeword where
  bytes : Option (List Byte)
  corr0 : Nat
  corr1 : Nat
  corr2 : Nat
  corr3 : Nat
  deriving DecidableEq, Repr

/-- A tunnel datagram (Tables 8-18 and 8-19) and the service port it came on; `fcsOk` tells that FCS and UDP checksum are
good. -/
structure Datagram where
  sp    : Nat
  tver  : Nat
  tkind : Nat
  tseq  : BitVec 32
  tack  : BitVec 32
  sgw   : DevId
  flits : List (List Byte)
  fcsOk : Bool
  deriving DecidableEq, Repr

/-- A frame received on a service port, without FCS (R193). -/
structure SvcFrame where
  mac    : BitVec 48
  vlan   : BitVec 12
  bytes  : List Byte
  fcsOk  : Bool
  udp    : Option Bool
  deriving DecidableEq, Repr

/-- A management access frame, Table 16-19 (R409). -/
structure MgmtFrame where
  /-- The VC3 message's port and source, or `none` for the UDP management port. -/
  via    : Option DevId
  mdev   : DevId
  mseq   : Word
  maddr  : BitVec 32
  mlen   : Nat
  mdata  : List Byte
  /-- The header bytes and data the tag covers. -/
  signed : List Byte
  mtag   : List Byte
  deriving DecidableEq, Repr

/-- Units that `LAT_TOL` governs, Table 10-9. -/
inductive PowerUnit where
  | cluster (h : Nat)
  | channel (panel idx : Nat)
  | port (code : Nat)
  deriving DecidableEq, Repr

/-- What a recompute core of a vote delivered (R341): column sums as FP32 pairs or INT32 totals of
an audit, or a kernel digest. -/
inductive Recompute where
  | audit (cols : List (BitVec 32 × BitVec 32))
  | digest (d : BitVec 384)
  deriving DecidableEq, Repr

/-- How a host link trained: its rate in GT/s, and the logical devices that the fabric manager binds on it (R223, R224). -/
structure Training where
  rate : Nat
  lds  : BitVec 16
  deriving DecidableEq, Repr

/-- An FM-API command on host port `port`: its code (R224). -/
structure FmRequest where
  port : Nat
  code : Nat
  deriving DecidableEq, Repr

/-- What the self-test found (R359, Table 14-11): MISR signatures, failing islands and repairs. -/
structure BistOutcome where
  misr    : BitVec 384
  cluFail : BitVec 640
  othFail : BitVec 32
  iodFail : BitVec 2
  repairs : Nat
  deriving DecidableEq, Repr

/-- Where a register write lands (R390, R402). -/
inductive RegSpace where
  /-- BAR0 of partition `part`, written by its host. -/
  | bar0 (part : Nat)
  /-- The management space. -/
  | mgmt
  deriving DecidableEq, Repr

/-- The 213 commands of the opcode table, in its order. `p` is a partition number, `c` a context,
`g` a global core number, `h` a global cluster number, `i` a place in a list of operations. -/
inductive Instr where
  -- cores
  | bundleIssue (g : Nat) (faults : List MemFault)
  | barCRelease (h : Nat)
  | barPRelease (p c b : Nat)
  | fenceComplete (g : Nat)
  | watchdog (g : Nat)
  | spLate (g : Nat)
  -- matrix arrays
  | mmaDescriptorRead (g : Nat)
  | mmaStart (g : Nat)
  | mmaSegmentEnd (g : Nat)
  | mmaComplete (g : Nat)
  | auditCopy (g : Nat)
  -- path units
  | dmaStart (g i : Nat)
  | dmaTileTransfer (g i : Nat) (faults : List MemFault)
  | dmaComplete (g i : Nat)
  -- memory and Wardrobe
  | hbmScrub (p tile block die : Nat) (o : HbmOutcome)
  | eviction (p bolt : Nat)
  | flashCopyComplete (p bolt : Nat)
  | flashFetchComplete (p bolt : Nat) (bad : BitVec 16) (retries us : Nat)
  | wearSave
  | wantHint (p : Nat)
  | keepHint (p : Nat)
  | unkeepHint (p : Nat)
  | spareHint (p : Nat)
  | evictHint (p : Nat)
  | dropHint (p : Nat)
  | hintRecordComplete (p : Nat)
  -- Nyzan links
  | flitTransmit (port : Nat)
  | flitReceive (port : Nat) (w : RxCodeword)
  | replayTimeout (port : Nat)
  | hem (port : Nat) (lost : BitVec 4)
  | hemComplete (port : Nat) (kept : BitVec 4)
  | hold (m : Msg)
  | retrain (port : Nat)
  | retrainComplete (port : Nat) (lanes : BitVec 4)
  -- remote access
  | rdReq (via : Option Nat) (m : Msg)
  | rdRsp (via : Option Nat) (m : Msg)
  | wrReq (via : Option Nat) (m : Msg)
  | wrAck (via : Option Nat) (m : Msg)
  | amoReq (via : Option Nat) (m : Msg)
  | amoRsp (via : Option Nat) (m : Msg)
  | requestDeadline (die : Bool) (tag : BitVec 16)
  | tagReuse (die : Bool) (tag : BitVec 16)
  | portNarrow (port : Nat) (peer : Bool)
  | portSleep (port : Nat) (peer : Bool)
  | portWake (port : Nat)
  | tunnelData (d : Datagram)
  | tunnelAck (d : Datagram)
  | tunnelResend (gw : DevId)
  | serviceFrameReceive (s : Nat) (f : SvcFrame)
  | serviceFrameTransmit (p s : Nat)
  -- discovery and routes
  | helloSend (port : Nat)
  | hello (port : Nat) (m : Msg)
  | discoveryTimeout (port : Nat)
  | rtSwap
  -- collectives
  | load (p gix : Nat)
  | clear (p gix : Nat)
  | collectiveSubmit (p c h : Nat) (desc : List Byte)
  | collectiveStart (p gix : Nat) (opseq : BitVec 16)
  | ready (via : Option Nat) (m : Msg)
  | dataR (via : Option Nat) (m : Msg)
  | dataG (via : Option Nat) (m : Msg)
  | abort (via : Option Nat) (m : Msg)
  | collAck (via : Option Nat) (m : Msg)
  | wlimTimeout (p gix : Nat) (opseq : BitVec 16)
  | collectiveComplete (p gix : Nat) (opseq : BitVec 16)
  -- grants
  | create (p slot : Nat)
  | grantPinned (p slot : Nat)
  | revoke (p slot : Nat)
  | revokeDrained (p slot : Nat)
  | tombstoneExpiry (p : Nat) (eoff : Nat)
  -- partitions
  | pmCreate
  | pmDestroy
  | park
  | parkComplete (p : Nat)
  | unpark
  | unparkComplete (p : Nat)
  | debugOn
  | debugOff
  -- contexts
  | start (p c : Nat)
  | startComplete (p c : Nat)
  | preempt (p c : Nat)
  | preemptSaveComplete (p c : Nat)
  | resume (p c : Nat)
  | restoreComplete (p c : Nat)
  | restart (p c : Nat)
  | contextAbort (p c : Nat)
  | release (p c : Nat)
  | teardownComplete (p c : Nat)
  | contextHalted (p c : Nat)
  | dbRing (p c : Nat) (val : Word)
  -- hosts
  | functionLevelReset (p : Nat)
  | hostLinkDown (h : Nat) (unbound : Option Nat)
  | getLdInfo (q : FmRequest)
  | getLdAllocations (h : Nat)
  | setLdAllocations (h : Nat) (alloc : List Nat)
  | hostWindowRead (p off len : Nat)
  | hostWindowWrite (p off : Nat) (data : List Byte)
  | hostRequestTimeout (p id : Nat)
  -- power states
  | latTolWrite (p : Nat) (val : Word)
  | powerStateEntry (u : PowerUnit)
  | powerStateWake (u : PowerUnit)
  -- Tailor
  | eset (p : Nat) (val : Word)
  | sset (p : Nat) (val : Word)
  | gset (p : Nat) (val : Word)
  | layoutRelease (p slot : Nat)
  | submit (p : Nat)
  | planAbort (p : Nat)
  | planResourcesFree (p : Nat)
  | pull (via : Option Nat) (m : Msg)
  | pullRetry (p xfer : Nat)
  | data (via : Option Nat) (m : Msg)
  | tdone (via : Option Nat) (m : Msg)
  | digestReadback (p xfer : Nat)
  | transferTimeout (p xfer : Nat)
  | done (via : Option Nat) (m : Msg)
  | commit (via : Option Nat) (m : Msg)
  | fail (via : Option Nat) (m : Msg)
  | planDeadline (p : Nat)
  | sealedTimeout (p : Nat)
  | commitResend (p rank : Nat)
  | digestScrub (p rec : Nat)
  -- seams
  | seam (p : Nat)
  | seamInPulse (now : Nat)
  | sreq (p : Nat)
  | seamWindowExpiry (p : Nat)
  | scaleRecordClose (p : Nat)
  -- Pocket
  | stash (p : Nat)
  | stashComplete (p idx : Nat)
  | fetch (p : Nat)
  | fetchComplete (p idx : Nat)
  | back (p : Nat)
  | claim (p : Nat)
  | keep (p : Nat)
  | drop (p : Nat)
  | watermarkDrop (p : Nat)
  -- Ringmaster
  | rmEnable (p : Nat) (val : Word)
  | rmDisable (p : Nat)
  | requestSubmit (p : Nat)
  | requestCancel (p : Nat)
  | stepRecordPublish (p : Nat)
  | stepRecordReceive (via : Option Nat) (m : Msg)
  -- reliability
  | knownAnswerKernel (g k : Nat)
  | kernelComplete (g : Nat) (digest : BitVec 384)
  | voteRecomputeComplete (vid : BitVec 32) (r1 r2 : Recompute) (g1 g2 : Nat)
  | voteNoneTimeout (vid : BitVec 32)
  | engineWatchdog (e : EngineId)
  | heartbeatMiss (p role : Nat)
  | faultAgentWatchdog
  | managementAgentRestart
  | engineResetHang (e : EngineId)
  | preset (p : Nat)
  | partitionResetComplete (p : Nat)
  | partitionResetHang (p : Nat)
  | dreset
  | deviceResetComplete
  | deviceResetHang
  | returnToService
  | fence (ut idx : Nat)
  | unfence (ut idx : Nat)
  | pset
  | pclr
  | run
  | bistComplete (o : BistOutcome)
  | bistConditionLost (why : BitVec 2)
  | periodic
  | wwinBucketRoll
  -- security
  | powerOnBoot
  | securityCounterBump
  | enroll (klen : Nat)
  | transfer (klen : Nat)
  | unlock (klen : Nat)
  | erase64KiB
  | program256Bytes
  | jkCreate (p slot : Nat) (job : JobId)
  | jkRequest (p slot : Nat) (job : JobId)
  | jkIssue (p slot : Nat)
  | jkAccept (p slot : Nat)
  | jkErase (p slot : Nat)
  | hinowenReportObject (p h : Nat) (kind : Nat) (nonce : List Byte)
  | spdmRequest (p h : Nat) (req : List Byte)
  | ideKm (h : Nat) (mem : Bool) (key : BitVec 256) (secured : Bool)
  | glitch
  -- management
  | read (f : MgmtFrame)
  | write (f : MgmtFrame)
  | report (f : MgmtFrame)
  | session (f : MgmtFrame)
  | registerWrite (sp : RegSpace) (off len : Nat) (val : Word)
  -- power, pins and board interfaces
  | pwrEnAssert
  | pgoodRelease
  | pwrEnDeassert
  | vinUndervoltage
  | vinOvervoltage
  | resetNAssert (ns : Nat)
  | resetNRelease
  | perstAssert (h : Nat)
  | perstRelease (h : Nat)
  | powerLimit (slow : Bool) (fmin : BitVec 16)
  | thermalThreshold (tmax : BitVec 16)
  | thermtrip
  | setdasa (addr : BitVec 7)
  | entdaa (addr : BitVec 7)
  | hostCompletion (p id : Nat) (data : List Byte) (poison : Bool)
  | teardownLimitExceeded (p c : Nat)
  | engineResetComplete (e : EngineId)
  | resetHistoryAgeOut (device : Bool)
  | servicePortLinkUp (s : Nat)
  | servicePortLinkDown (s : Nat)
  | hostLinkTrained (h width : Nat) (link : Training)
  | flashCommandComplete
  | undervoltageLockoutRelease
  | vinOutOfRangeBeforePgood
  | refokWrite (ok : Bool)
  | panelRelease (panel : Nat)
  deriving DecidableEq, Repr

end Sys2Proof
end

