-- ==== Sys2Proof/Machine/Bits.lean ====
section
/-! DEFINITION. Bit fields, byte order and sign extension (chapter 0, Numbers and notation), status
codes (R7) and their priority (R8), and the two CRCs of the device (R146, R164). -/

namespace Sys2Proof.Machine

/-- Bits [hi:lo] of a natural number, bit 0 the least significant (chapter 0). -/
def nfld (w hi lo : Nat) : Nat := (w >>> lo) % 2 ^ (hi + 1 - lo)

/-- Bits [hi:lo] of a bit vector. -/
def fld {n : Nat} (w : BitVec n) (hi lo : Nat) : Nat := nfld w.toNat hi lo

/-- Bit [i] of a bit vector. -/
def bit {n : Nat} (w : BitVec n) (i : Nat) : Bool := w.getLsbD i

/-- `w` with bits [hi:lo] replaced by `v`. -/
def setFld {n : Nat} (w : BitVec n) (hi lo v : Nat) : BitVec n :=
  let width := 2 ^ (hi + 1 - lo)
  BitVec.ofNat n (w.toNat - fld w hi lo * 2 ^ lo + (v % width) * 2 ^ lo)

/-- 1 for true. -/
def b2n (b : Bool) : Nat := if b then 1 else 0

/-- The two's-complement value of the low `w` bits of `v`. -/
def sext (w v : Nat) : Int :=
  let u := v % 2 ^ w
  if w ≠ 0 ∧ 2 ^ (w - 1) ≤ u then (u : Int) - (2 ^ w : Nat) else (u : Int)

/-- The low `w` bits of an integer, as an unsigned number. -/
def wrapTo (w : Nat) (i : Int) : Nat := (i % ((2 ^ w : Nat) : Int)).toNat

/-- The little-endian value of a byte string (chapter 0). -/
def le : List Byte → Nat
  | [] => 0
  | b :: bs => b.toNat + 256 * le bs

/-- The `n` little-endian bytes of a number. -/
def toLE : Nat → Nat → List Byte
  | 0, _ => []
  | n + 1, v => BitVec.ofNat 8 v :: toLE n (v / 256)

/-- `n` zero bytes. -/
def zeros (n : Nat) : List Byte := List.replicate n 0

/-- Bytes [off, off + n) of a byte string, zero beyond its end. -/
def slice (bs : List Byte) (off n : Nat) : List Byte :=
  let part := (bs.drop off).take n
  part ++ zeros (n - part.length)

/-- The little-endian field of `n` bytes at `off` (descriptors, records, headers). -/
def leAt (bs : List Byte) (off n : Nat) : Nat := le (slice bs off n)

/-- ⌈a / b⌉. -/
def cdiv (a b : Nat) : Nat := (a + b - 1) / b

/-- a saturating at 2^w − 1. -/
def satTo (w a : Nat) : Nat := min a (2 ^ w - 1)

/-- Whether `v` is a power of two between `a` and `b`. -/
def isPow2In (a b v : Nat) : Bool := a ≤ v && v ≤ b && 2 ^ v.log2 == v

/-! ### Status codes, Table 0-5 (R7) -/

namespace Status
def ok : Nat := 0x00
def alreadyComplete : Nat := 0x01
def busy : Nat := 0x02
def timeout : Nat := 0x03
def poison : Nat := 0x04
def denied : Nat := 0x05
def epochMismatch : Nat := 0x06
def noMemory : Nat := 0x07
def digestFail : Nat := 0x08
def aborted : Nat := 0x09
def notRun : Nat := 0x0A
def scaleReset : Nat := 0x0B
def fenced : Nat := 0x0C
end Status

/-- The order in which R8 reports codes that apply together. -/
def statusOrder : List Nat :=
  [Status.fenced, Status.poison, Status.timeout, Status.digestFail, Status.epochMismatch,
   Status.noMemory, Status.denied, Status.busy, Status.aborted, Status.notRun, Status.scaleReset,
   Status.alreadyComplete]

/-- A status that arrives in a message: the device writes no reserved code into a status field (R7), so a reserved one counts
as POISON (DESIGN CHOICE, log 140). -/
def knownStatus (st : Nat) : Nat := if st ≤ Status.fenced then st else Status.poison

/-- The status reported when all of `l` apply (R8); OK when none other does. -/
def worst (l : List Nat) : Nat := (statusOrder.find? fun c => l.contains c).getD Status.ok

/-! ### CRCs -/

/-- Eight steps of a reflected CRC register with polynomial `poly`. -/
def crcShift (poly : Nat) : Nat → Nat → Nat
  | 0, r => r
  | k + 1, r => crcShift poly k (if r % 2 = 1 then (r / 2) ^^^ poly else r / 2)

/-- A reflected 32-bit CRC with initial value and final XOR of all ones. -/
def crc32 (poly : Nat) (bs : List Byte) : Nat :=
  (bs.foldl (fun r b => crcShift poly 8 (r ^^^ b.toNat)) 0xFFFFFFFF) ^^^ 0xFFFFFFFF

/-- CRC-32C, polynomial 0x1EDC_6F41 reflected (R146). -/
def crc32c (bs : List Byte) : Nat := crc32 0x82F63B78 bs

/-- The flit CRC, polynomial 0x04C1_1DB7 reflected (R164). -/
def flitCrc (bs : List Byte) : Nat := crc32 0xEDB88320 bs

/-- CRC-32C of the 4,096 zero bytes of a zero tile (R146). -/
def zeroTileCrc : Nat := 0x98F94189

end Sys2Proof.Machine
end

