-- ==== Sys2Proof/Machine/Regs.lean ====
section
/-! DEFINITION. The field maps of chapter 16 and of the tables it places: for each register offset
its Reset value and its fields with access type (Table 0-4) and permitted values (R5). Bits that no
field covers are RSV. -/

namespace Sys2Proof.Machine

/-- Access types of Table 0-4 (R3). RSV bits have no field. -/
inductive Acc where
  | ro | rw | wo | w1c
  deriving DecidableEq, Repr

/-- The values that the manual permits in a field (R5). -/
inductive Rng where
  | any
  | between (a b : Nat)
  | zeroOr (a : Nat)
  | pow2 (a b : Nat)
  | stepped (a b step : Nat)
  | nibbles
  deriving DecidableEq, Repr

/-- Whether a value is permitted (R5). -/
def Rng.ok : Rng → Nat → Bool
  | .any, _ => true
  | .between a b, v => a ≤ v && v ≤ b
  | .zeroOr a, v => v == 0 || a ≤ v
  | .pow2 a b, v => isPow2In a b v
  | .stepped a b st, v => a ≤ v && v ≤ b && v % st == 0
  | .nibbles, v => nfld v 3 0 != 0 && nfld v 7 4 != 0 && nfld v 11 8 != 0 && nfld v 15 12 != 0

/-- A field of a register: bits [hi:lo], access and permitted values. -/
structure Fld where
  hi  : Nat
  lo  : Nat
  acc : Acc
  rng : Rng
  deriving DecidableEq, Repr

/-- A register: its Reset column and its fields. -/
structure RegDef where
  reset  : Word
  fields : List Fld
  deriving DecidableEq, Repr

def ro (hi lo : Nat) : Fld := ⟨hi, lo, .ro, .any⟩
def rw (hi lo : Nat) : Fld := ⟨hi, lo, .rw, .any⟩
def rwr (hi lo : Nat) (r : Rng) : Fld := ⟨hi, lo, .rw, r⟩
def wo (hi lo : Nat) : Fld := ⟨hi, lo, .wo, .any⟩
def w1c (hi lo : Nat) : Fld := ⟨hi, lo, .w1c, .any⟩

/-- An offset that no table lists (R390). -/
def rsv : RegDef := ⟨0, []⟩

/-- What a write of `new` leaves in a field of `cur` (R3, R5). -/
def Fld.write (f : Fld) (new cur : Word) : Word :=
  match f.acc with
  | .ro | .wo => cur
  | .rw => if f.rng.ok (fld new f.hi f.lo) then setFld cur f.hi f.lo (fld new f.hi f.lo) else cur
  | .w1c => setFld cur f.hi f.lo (fld (cur &&& ~~~ new) f.hi f.lo)

/-- What a read returns of a field of `cur`: WO fields read zero (R3). -/
def Fld.read (f : Fld) (cur acc : Word) : Word :=
  match f.acc with
  | .wo => acc
  | _ => setFld acc f.hi f.lo (fld cur f.hi f.lo)

/-- A whole aligned 8-byte write (R390): each field on its own (R5). -/
def RegDef.write (d : RegDef) (new cur : Word) : Word :=
  d.fields.foldl (fun acc f => f.write new acc) cur

/-- A read: WO and RSV bits read zero. -/
def RegDef.read (d : RegDef) (cur : Word) : Word :=
  d.fields.foldl (fun acc f => f.read cur acc) 0

/-! ### BAR0 offsets -/

namespace R
def pcStat : Nat := 0x1000
def pcLattol : Nat := 0x1008
def pcHtmo : Nat := 0x1010
def pcSeam : Nat := 0x1018
def pcSrl : Nat := 0x1020
def pcShrb : Nat := 0x1028
def pcShrs : Nat := 0x1030
def hwOff (k : Nat) : Nat := 0x1100 + 0x20 * k
def hwBase (k : Nat) : Nat := 0x1108 + 0x20 * k
def hwCtl (k : Nat) : Nat := 0x1110 + 0x20 * k
def cxJob (c : Nat) : Nat := 0x10000 + 256 * c
def cxCode (c : Nat) : Nat := 0x10008 + 256 * c
def cxClus (c : Nat) : Nat := 0x10010 + 256 * c
def cxCimg (c : Nat) : Nat := 0x10018 + 256 * c
def cxVbase (c : Nat) : Nat := 0x10020 + 256 * c
def cxVsize (c : Nat) : Nat := 0x10028 + 256 * c
def cxSave (c : Nat) : Nat := 0x10030 + 256 * c
def cxStat (c : Nat) : Nat := 0x10038 + 256 * c
def cxFault (c : Nat) : Nat := 0x10040 + 256 * c
def dbCmd (c : Nat) : Nat := 0x20000 + 4096 * c
def dbRing (c : Nat) : Nat := 0x20008 + 4096 * c
def rmCtl : Nat := 0x60000
def rmStat : Nat := 0x60008
def rmQbase : Nat := 0x60010
def rmQsize : Nat := 0x60018
def rmSbase : Nat := 0x60020
def rmCbase : Nat := 0x60028
def rmKvbase : Nat := 0x60030
def rmKvpg : Nat := 0x60038
def rmPages : Nat := 0x60040
def rmCap : Nat := 0x60048
def rmSrec : Nat := 0x60050
def rmResb : Nat := 0x60058
def rmSem : Nat := 0x60060
def rmBint : Nat := 0x60068
def rmCnt : Nat := 0x60070
def rmCls (c : Nat) : Nat := 0x60080 + 8 * c
def tlJob : Nat := 0x70000
def tlEpoch : Nat := 0x70008
def tlStep : Nat := 0x70010
def tlLay (i : Nat) : Nat := 0x70018 + 8 * i
def tlLgm (i : Nat) : Nat := 0x70028 + 8 * i
def tpAddr : Nat := 0x70038
def tpCtl : Nat := 0x70040
def tpCnt : Nat := 0x70048
def wsBase (i : Nat) : Nat := 0x70050 + 0x18 * i
def wsSize (i : Nat) : Nat := 0x70058 + 0x18 * i
def wsStat (i : Nat) : Nat := 0x70060 + 0x18 * i
def qcCur : Nat := 0x70080
def qcGen : Nat := 0x70088
def tlDgint : Nat := 0x70090
def brBase : Nat := 0x70098
def brSize : Nat := 0x700A0
def adOff : Nat := 0x700A8
def adCnt : Nat := 0x700B0
def pkTbase : Nat := 0x80000
def pkTcnt : Nat := 0x80008
def pkRbase : Nat := 0x80010
def pkRsize : Nat := 0x80018
def pkTgt : Nat := 0x80020
def pkTsize : Nat := 0x80028
def pkCtl : Nat := 0x80030
def pkGwm : Nat := 0x80038
def pkStat : Nat := 0x80040
def nyTmo : Nat := 0x90000
def nyJcls (i : Nat) : Nat := 0x90008 + 8 * i
def cgrpAddr : Nat := 0x90018
def cgrpCtl : Nat := 0x90020
def jkCtl : Nat := 0x90028
def jkAddr : Nat := 0x90030
def jkPeer : Nat := 0x90038
def svTxb (s : Nat) : Nat := 0x90100 + 0x40 * s
def svTxp (s : Nat) : Nat := 0x90108 + 0x40 * s
def svRxb (s : Nat) : Nat := 0x90110 + 0x40 * s
def svRxp (s : Nat) : Nat := 0x90118 + 0x40 * s
def svCtl (s : Nat) : Nat := 0x90120 + 0x40 * s
def svCnt (s : Nat) : Nat := 0x90128 + 0x40 * s
def gntBase (g : Nat) : Nat := 0x91000 + 32 * g
def gntSize (g : Nat) : Nat := 0x91008 + 32 * g
def gntJob (g : Nat) : Nat := 0x91010 + 32 * g
def gntCtl (g : Nat) : Nat := 0x91018 + 32 * g
def amoWin : Nat := 0x94000
def collWin : Nat := 0x95000
def migFreelow : Nat := 0xA0000
def migHqBase : Nat := 0xA0008
def migHqSize : Nat := 0xA0010
def migHqTail : Nat := 0xA0018
def migHqHead : Nat := 0xA0020
def migStall : Nat := 0xA0028
def migUse : Nat := 0xA0030
def migWr : Nat := 0xA0038
def migProg : Nat := 0xA0040
def migWear : Nat := 0xA0048
def migRetry : Nat := 0xA0050
def errEvents : Nat := 0xB0000
def errMask : Nat := 0xB0008
def errCwd : Nat := 0xB0010
def errHbeat : Nat := 0xB0018
def errVote : Nat := 0xB0020
def errUsel : Nat := 0xB0028
def errUcnt : Nat := 0xB0030
def errUwt : Nat := 0xB0038
def errCnt (i : Nat) : Nat := 0xB0100 + 8 * i
def dbgEn : Nat := 0xC0000
def dbgSel : Nat := 0xC0008
def dbgCore : Nat := 0xC0010
end R

/-- Fields of the `CTX` entry (Table 10-2) at offset `o` of an entry. -/
def ctxReg (o : Nat) : RegDef :=
  match o with
  | 0x00 => ⟨0, [rw 31 0]⟩
  | 0x08 => ⟨0, [rwr 47 32 (.between 1 32768), rw 30 16, rw 14 0]⟩
  | 0x10 => ⟨0, [rwr 41 32 (.between 1 640), rw 9 0]⟩
  | 0x18 => ⟨0, [rw 43 6]⟩
  | 0x20 => ⟨0, [rw 43 16]⟩
  | 0x28 => ⟨0, [rw 31 0]⟩
  | 0x30 => ⟨0, [rw 43 16]⟩
  | 0x38 => ⟨0, [ro 31 16, ro 15 8, ro 3 0]⟩
  | 0x40 => ⟨0, [ro 63 56, ro 55 55, ro 54 40, ro 39 36, ro 35 30, ro 29 14, ro 13 0]⟩
  | _ => rsv

/-- Fields of a doorbell page (Table 10-5). -/
def dbellReg (o : Nat) : RegDef :=
  match o with
  | 0x000 => ⟨0, [wo 3 0]⟩
  | 0x008 => ⟨0, [wo 47 32, wo 25 16, wo 5 0]⟩
  | _ => rsv

/-- The `PCTL` block (Table 16-3). -/
def pctlReg (o : Nat) : RegDef :=
  match o with
  | 0x000 => ⟨0, [ro 7 7, ro 6 4, ro 3 2, ro 1 1, ro 0 0]⟩
  | 0x008 => ⟨0, [rw 31 0]⟩
  | 0x010 => ⟨100, [rwr 9 0 (.between 1 500)]⟩
  | 0x018 => ⟨0, [wo 32 32, rwr 31 0 (.zeroOr 100)]⟩
  | 0x020 => ⟨0, [rwr 62 48 (.between 0 16384), rw 43 3]⟩
  | 0x028 => ⟨0, [rw 43 16]⟩
  | 0x030 => ⟨0, [rw 31 0]⟩
  | _ =>
    if 0x100 ≤ o ∧ o < 0x300 then
      match o % 0x20 with
      | 0x00 => ⟨0, [rw 39 16]⟩
      | 0x08 => ⟨0, [rw 43 16]⟩
      | 0x10 => ⟨0, [rw 33 33, rw 32 32, rw 31 0]⟩
      | _ => rsv
    else rsv

/-- The `RMST` block (Table 13-10). -/
def rmstReg (o : Nat) : RegDef :=
  match o with
  | 0x000 => ⟨0, [rw 21 16, rw 15 10, rwr 9 8 (.between 0 2), rw 0 0]⟩
  | 0x008 => ⟨0, [ro 47 32, ro 31 24, ro 12 0]⟩
  | 0x010 => ⟨0, [rw 63 6]⟩
  | 0x018 => ⟨0, [rwr 16 0 (.pow2 16 65536)]⟩
  | 0x020 => ⟨0, [rw 43 16]⟩
  | 0x028 => ⟨0, [rw 43 16]⟩
  | 0x030 => ⟨0, [rw 43 16]⟩
  | 0x038 => ⟨0, [rwr 55 32 (.between 1 0xFFFFFF), rwr 13 0 (.stepped 4 16380 4)]⟩
  | 0x040 => ⟨0, [ro 55 32, ro 23 0]⟩
  | 0x048 => ⟨0, [rwr 47 32 (.between 1 65535), rwr 20 16 (.between 0 16),
      rwr 15 0 (.stepped 64 65472 64)]⟩
  | 0x050 => ⟨0, [rw 43 16]⟩
  | 0x058 => ⟨0, [rw 43 16]⟩
  | 0x060 => ⟨0, [rw 15 6, rw 5 0]⟩
  | 0x068 => ⟨1, [rwr 5 0 (.between 1 60)]⟩
  | 0x070 => ⟨0, [ro 63 32, ro 31 0]⟩
  | _ => if 0x080 ≤ o ∧ o < 0x0C0 then ⟨0, [rw 63 32, rw 31 0]⟩ else rsv

/-- The `TLR` block (Table 11-12). -/
def tlrReg (o : Nat) : RegDef :=
  match o with
  | 0x000 => ⟨0, [rw 31 0]⟩
  | 0x008 => ⟨0, [wo 31 16, ro 15 0]⟩
  | 0x010 => ⟨0, [wo 63 32, ro 31 0]⟩
  | 0x018 | 0x020 => ⟨0, [ro 63 32, ro 31 24, ro 19 18, wo 17 16, ro 15 0]⟩
  | 0x028 | 0x030 => ⟨0, [rw 63 0]⟩
  | 0x038 => ⟨0, [rw 63 6]⟩
  | 0x040 => ⟨0, [ro 63 32, ro 31 24, ro 23 20, ro 19 12, wo 1 0]⟩
  | 0x048 => ⟨0, [ro 63 32, ro 31 16, ro 0 0]⟩
  | 0x050 | 0x068 => ⟨0, [rw 43 16]⟩
  | 0x058 | 0x070 => ⟨0, [rw 31 0]⟩
  | 0x060 | 0x078 => ⟨0, [ro 51 32, w1c 23 23, ro 22 20, ro 15 0]⟩
  | 0x080 => ⟨0, [ro 31 16, ro 1 1, ro 0 0]⟩
  | 0x088 => ⟨0, [wo 31 16, ro 15 0]⟩
  | 0x090 => ⟨600, [rw 15 0]⟩
  | 0x098 => ⟨0, [rw 43 16]⟩
  | 0x0A0 => ⟨0, [rw 31 0]⟩
  | 0x0A8 => ⟨0, [rw 43 5]⟩
  | 0x0B0 => ⟨0, [rwr 9 0 (.between 0 512)]⟩
  | _ => rsv

/-- The `PKT` block (Table 12-3). -/
def pktReg (o : Nat) : RegDef :=
  match o with
  | 0x000 => ⟨0, [rw 63 6]⟩
  | 0x008 => ⟨0, [rwr 12 0 (.between 0 4096)]⟩
  | 0x010 => ⟨0, [rw 63 6]⟩
  | 0x018 => ⟨0, [rwr 16 0 (.pow2 16 65536)]⟩
  | 0x020 => ⟨0, [rw 63 16]⟩
  | 0x028 => ⟨0, [rw 31 0]⟩
  | 0x030 => ⟨0, [rw 15 10, rw 7 4, rw 0 0]⟩
  | 0x038 => ⟨0, [rw 31 0]⟩
  | 0x040 => ⟨0, [ro 63 32, ro 31 16]⟩
  | _ => rsv

/-- The `NYZ` block (Tables 16-4, 16-5, 8-13, 9-9, 15-10). -/
def nyzReg (o : Nat) : RegDef :=
  match o with
  | 0x0000 => ⟨0x2818, [rwr 15 8 (.between 10 255), rwr 6 0 (.between 2 64)]⟩
  | 0x0008 | 0x0010 => ⟨0, [rw 63 0]⟩
  | 0x0018 => ⟨0, [rw 63 6]⟩
  | 0x0020 => ⟨0, [ro 23 16, ro 15 14, rw 13 8, wo 1 0]⟩
  | 0x0028 => ⟨0, [rw 63 32, ro 31 24, ro 23 22, rw 21 16, wo 2 0]⟩
  | 0x0030 => ⟨0, [rw 63 9]⟩
  | 0x0038 => ⟨0, [rw 63 4]⟩
  | _ =>
    if 0x100 ≤ o ∧ o < 0x180 then
      match o % 0x40 with
      | 0x00 => ⟨0, [rw 43 6]⟩
      | 0x08 => ⟨0, [ro 63 32, rw 31 0]⟩
      | 0x10 => ⟨0, [rw 43 6]⟩
      | 0x18 => ⟨0, [ro 63 32, rw 31 0]⟩
      | 0x20 => ⟨0, [rw 32 32, rwr 28 16 (.pow2 16 4096), rwr 12 0 (.pow2 16 4096)]⟩
      | 0x28 => ⟨0, [ro 63 32, ro 31 0]⟩
      | _ => rsv
    else if 0x1000 ≤ o ∧ o < 0x3000 then
      match o % 32 with
      | 0x00 => ⟨0, [rw 43 16]⟩
      | 0x08 => ⟨0, [rwr 31 0 (.between 1 0xFFFFFFFF)]⟩
      | 0x10 => ⟨0, [rw 34 34, rw 33 33, rw 32 32, rw 31 0]⟩
      | _ => ⟨0, [ro 63 20, ro 19 12, ro 11 10, wo 1 0]⟩
    else rsv

/-- The `MIG` block (Table 16-7). -/
def migReg (o : Nat) : RegDef :=
  match o with
  | 0x000 => ⟨1024, [rwr 31 0 (.between 64 65536)]⟩
  | 0x008 => ⟨0, [rw 43 6]⟩
  | 0x010 => ⟨0, [rwr 16 0 (.pow2 16 65536)]⟩
  | 0x018 => ⟨0, [rw 31 0]⟩
  | 0x020 => ⟨0, [ro 31 0]⟩
  | 0x028 | 0x030 => ⟨0, [ro 63 32, ro 31 0]⟩
  | 0x038 | 0x040 => ⟨0, [ro 63 0]⟩
  | 0x048 => ⟨0, [ro 63 48, ro 47 32, ro 31 16, ro 1 1, ro 0 0]⟩
  | 0x050 => ⟨0, [ro 63 32, ro 31 0]⟩
  | _ => rsv

/-- The `ERR` block (Table 16-8). -/
def errReg (o : Nat) : RegDef :=
  match o with
  | 0x000 => ⟨0, [w1c 16 0]⟩
  | 0x008 => ⟨0, [rw 16 0]⟩
  | 0x010 => ⟨10, [rwr 9 0 (.between 0 1000)]⟩
  | 0x018 => ⟨0, [ro 63 0]⟩
  | 0x020 => ⟨0, [ro 63 32, ro 2 0]⟩
  | 0x028 => ⟨0, [rwr 31 24 (.between 1 0x17), rwr 23 20 (.between 0 0xC), rw 19 0]⟩
  | 0x030 => ⟨0, [ro 31 0]⟩
  | 0x038 => ⟨0, [ro 63 32, ro 31 0]⟩
  | _ => if 0x100 ≤ o ∧ o < 0x188 then ⟨0, [ro 31 0]⟩ else rsv

/-- The `DBG` block (Table 16-10). -/
def dbgReg (o : Nat) : RegDef :=
  match o with
  | 0x000 => ⟨0, [ro 0 0]⟩
  | 0x008 => ⟨0, [rw 21 16, rw 13 0]⟩
  | 0x010 => ⟨0, [ro 46 32, ro 23 16, ro 1 0]⟩
  | _ => rsv

/-- The register at an 8-byte-aligned BAR0 offset (R393); RO registers of the `ID` block are read
from the partition itself. -/
def bar0Reg (off : Nat) : RegDef :=
  if off < 0x40 then ⟨0, [ro 63 0]⟩
  else if off < 0x1000 then rsv
  else if off < 0x2000 then pctlReg (off - 0x1000)
  else if off < 0x10000 then rsv
  else if off < 0x14000 then ctxReg (off % 256)
  else if off < 0x20000 then rsv
  else if off < 0x60000 then dbellReg (off % 4096)
  else if off < 0x70000 then rmstReg (off - 0x60000)
  else if off < 0x80000 then tlrReg (off - 0x70000)
  else if off < 0x90000 then pktReg (off - 0x80000)
  else if off < 0xA0000 then nyzReg (off - 0x90000)
  else if off < 0xB0000 then migReg (off - 0xA0000)
  else if off < 0xC0000 then errReg (off - 0xB0000)
  else if off < 0xD0000 then dbgReg (off - 0xC0000)
  else rsv

/-! ### Management space (R402) -/

namespace M
def pmPanel : Nat := 0x000
def pmPused : Nat := 0x008
def pmArg0 : Nat := 0x010
def pmArg1 : Nat := 0x018
def pmArg2 : Nat := 0x020
def pmAmac (s : Nat) : Nat := 0x028 + 8 * s
def pmCmd : Nat := 0x038
def pmDviol : Nat := 0x040
def pmEnt (n : Nat) : Nat := 0x100 + 0x40 * n
def fnCmd : Nat := 0x100000
def fnStat : Nat := 0x100008
def fnPort : Nat := 0x100010
def rsCmd : Nat := 0x200000
def rsStat : Nat := 0x200008
def rsOos : Nat := 0x200010
def rsHist : Nat := 0x200018
def rsLim : Nat := 0x200020
def rsPph : Nat := 0x200028
def biCmd : Nat := 0x300000
def biStat : Nat := 0x300008
def kyBuf : Nat := 0x400000
def kyCmd : Nat := 0x400200
def paStat : Nat := 0x500000
def paNonce (i : Nat) : Nat := 0x500020 + 8 * i
def paPdgst (i : Nat) : Nat := 0x500040 + 8 * i
def flCtl : Nat := 0x500100
def flBuf : Nat := 0x500200
def hrDest (i : Nat) : Nat := 0x600000 + 8 * i
def hrCfg : Nat := 0x600010
def hrKak : Nat := 0x600018
def hrHwarn (j : Nat) : Nat := 0x600020 + 8 * j
def hrWgt (j : Nat) : Nat := 0x600100 + 8 * j
def hrUsel : Nat := 0x600200
def hrUcnt : Nat := 0x600208
def hrUwt : Nat := 0x600210
def hrSeq : Nat := 0x600218
def pwLim : Nat := 0x700000
def pwMeas : Nat := 0x700008
def pwThr : Nat := 0x700010
def pwSeam : Nat := 0x700018
def ptState (c : Nat) : Nat := 0x800000 + 0x100 * c
def ptWgt (c : Nat) : Nat := 0x800008 + 0x100 * c
def ptPlan (c i : Nat) : Nat := 0x800010 + 0x100 * c + 8 * i
def ptPeer (c : Nat) : Nat := 0x800020 + 0x100 * c
def ptLane (c : Nat) : Nat := 0x800028 + 0x100 * c
def ptDrop (c : Nat) : Nat := 0x800030 + 0x100 * c
def ptReplay (c : Nat) : Nat := 0x800038 + 0x100 * c
def ptSvc (s : Nat) : Nat := 0x801200 + 0x100 * s
def ptHost (h : Nat) : Nat := 0x801400 + 0x100 * h
def ptRtsw : Nat := 0x810000
def rtInact : Nat := 0x820000
def dtInact : Nat := 0x860000
def rtAct : Nat := 0x880000
def dtAct : Nat := 0x8C0000
def view (n : Nat) : Nat := 0x10000000 + 0x1000000 * n
end M

/-- The default weight of an event class (Table 14-2). -/
def defaultWeight : Nat → Nat
  | 0x01 => 1 | 0x02 => 64 | 0x03 => 1 | 0x04 => 64 | 0x05 => 1024 | 0x06 => 1 | 0x07 => 32
  | 0x08 => 4 | 0x09 => 1 | 0x0A => 1 | 0x0B => 16 | 0x0C => 32 | 0x0D => 32 | 0x0E => 8
  | 0x0F => 32 | 0x10 => 32 | 0x11 => 32 | 0x12 => 128 | 0x13 => 256 | 0x14 => 32 | 0x15 => 16
  | 0x16 => 128 | 0x17 => 512 | _ => 0

/-- `HR_WGTj` at reset: four default weights, class 4j + i at [16i+15:16i] (R406). -/
def wgtReset (j : Nat) : Word :=
  BitVec.ofNat 64 (defaultWeight (4 * j) + defaultWeight (4 * j + 1) * 2 ^ 16 +
    defaultWeight (4 * j + 2) * 2 ^ 32 + defaultWeight (4 * j + 3) * 2 ^ 48)

/-- The `PMAP` block (Table 16-13). -/
def pmapReg (o : Nat) : RegDef :=
  match o with
  | 0x000 => ⟨0, [ro 63 0]⟩
  | 0x008 => ⟨0, [ro 15 0]⟩
  | 0x010 => ⟨0, [rw 19 16, rw 15 0]⟩
  | 0x018 => ⟨0, [rw 63 32, rw 31 0]⟩
  | 0x020 => ⟨0, [rw 12 0]⟩
  | 0x028 | 0x030 => ⟨0, [rw 59 48, rw 47 0]⟩
  | 0x038 => ⟨0, [ro 15 8, ro 4 4, wo 3 0]⟩
  | 0x040 => ⟨0, [ro 31 0]⟩
  | _ => if 0x100 ≤ o ∧ o < 0x500 ∧ o % 0x40 ≤ 0x28 then ⟨0, [ro 63 0]⟩ else rsv

/-- The `HREC` block (Table 16-16). -/
def hrecReg (o : Nat) : RegDef :=
  match o with
  | 0x000 | 0x008 => ⟨0, [rw 63 0]⟩
  | 0x010 => ⟨0x0000000A00050040, [rw 63 48, rwr 43 32 (.between 1 3600), rwr 22 16 (.between 1 100),
      rwr 9 0 (.between 0 640)]⟩
  | 0x018 => ⟨3600, [rwr 16 0 (.between 60 86400)]⟩
  | 0x020 | 0x028 | 0x030 => ⟨0x0100010001000100, [rw 63 48, rw 47 32, rw 31 16, rw 15 0]⟩
  | 0x038 => ⟨0x100, [rw 15 0]⟩
  | 0x100 => ⟨wgtReset 0, [rw 63 48, rw 47 32, rw 31 16]⟩
  | 0x108 | 0x110 | 0x118 | 0x120 | 0x128 =>
    ⟨wgtReset ((o - 0x100) / 8), [rw 63 48, rw 47 32, rw 31 16, rw 15 0]⟩
  | 0x200 => ⟨0, [rwr 31 24 (.between 1 0x17), rwr 23 20 (.between 0 0xC), rw 19 0]⟩
  | 0x208 => ⟨0, [ro 63 0]⟩
  | 0x210 => ⟨0, [ro 63 0]⟩
  | 0x218 => ⟨0, [ro 63 32, ro 31 0]⟩
  | _ => rsv

/-- The registers of one Nyzan port (Table 16-18). Bits of the plan that Table 9-3 reserves are RSV. -/
def nyzPortReg (o : Nat) : RegDef :=
  match o with
  | 0x00 => ⟨0, [ro 63 48, wo 25 24, ro 19 16, ro 11 8, ro 3 0]⟩
  | 0x08 => ⟨0x11110101, [rwr 31 16 .nibbles, rwr 11 8 (.between 1 15), rwr 3 0 (.between 1 15)]⟩
  | 0x10 => ⟨0, [rw 63 32, rw 31 31, rw 17 0]⟩
  | 0x18 => ⟨0, [rw 19 16, rwr 12 8 (.between 0 17), rwr 3 0 (.between 0 8)]⟩
  | 0x20 => ⟨0, [ro 63 32, ro 26 22, ro 21 18, ro 17 0]⟩
  | 0x28 => ⟨0, [ro 63 0]⟩
  | 0x30 | 0x38 => ⟨0, [ro 63 32, ro 31 0]⟩
  | _ => rsv

/-- The `PORT` block below its table windows (Table 16-18). -/
def portReg (o : Nat) : RegDef :=
  if o < 0x1200 then nyzPortReg (o % 0x100)
  else if o = 0x1200 ∨ o = 0x1300 then ⟨0, [ro 63 32, ro 31 16, ro 1 0]⟩
  else if o = 0x1400 ∨ o = 0x1500 then ⟨0, [ro 23 16, ro 15 12, ro 1 0]⟩
  else if o = 0x10000 then ⟨0, [ro 8 8, wo 0 0]⟩
  else rsv

/-- The register at an 8-byte-aligned management address, route-table windows and partition views
apart (R402). -/
def mgmtReg (a : Nat) : RegDef :=
  if a < 0x100000 then pmapReg a
  else if a < 0x200000 then
    match a - 0x100000 with
    | 0x000 => ⟨0, [wo 31 16, wo 11 8, wo 1 0]⟩
    | 0x008 => ⟨0, [ro 47 32, ro 31 16, ro 15 8, wo 2 2, wo 1 1, ro 0 0]⟩
    | 0x010 => ⟨0, [ro 21 20, ro 19 18, ro 17 0]⟩
    | _ => rsv
  else if a < 0x300000 then
    match a - 0x200000 with
    | 0x000 => ⟨0, [wo 7 4, wo 2 0]⟩
    | 0x008 => ⟨0, [ro 63 56, ro 55 48, ro 1 0]⟩
    | 0x010 => ⟨0, [ro 0 0]⟩
    | 0x018 => ⟨0, [ro 31 16, ro 15 0]⟩
    | 0x020 => ⟨0x0E10030602580000, [ro 63 48, ro 47 40, ro 39 32, ro 31 16]⟩
    | 0x028 => ⟨0, [ro 31 0]⟩
    | _ => rsv
  else if a < 0x400000 then
    match a - 0x300000 with
    | 0x000 => ⟨0, [wo 1 0]⟩
    | 0x008 => ⟨0, [ro 23 16, ro 15 8, ro 1 0]⟩
    | _ => rsv
  else if a < 0x500000 then
    if a < 0x400200 then ⟨0, [wo 63 0]⟩
    else if a = 0x400200 then ⟨0, [wo 24 16, wo 7 0]⟩ else rsv
  else if a < 0x600000 then
    if a = 0x500000 then ⟨1, [ro 31 24, ro 23 16, ro 11 10, ro 9 9, ro 8 8, ro 3 0]⟩
    else if 0x500020 ≤ a ∧ a < 0x500070 then ⟨0, [ro 63 0]⟩
    else if a = 0x500100 then ⟨0, [rw 63 32, ro 15 8, ro 2 2, wo 1 0]⟩
    else if 0x500200 ≤ a ∧ a < 0x500300 then ⟨0, [wo 63 0]⟩
    else rsv
  else if a < 0x700000 then hrecReg (a - 0x600000)
  else if a < 0x800000 then
    match a - 0x700000 with
    | 0x000 => ⟨3600, [rwr 11 0 (.between 1000 3600)]⟩
    | 0x008 => ⟨0, [ro 63 48, ro 47 32, ro 31 16, ro 15 0]⟩
    | 0x010 => ⟨850 * 2 ^ 16, [ro 31 16, ro 0 0]⟩
    | 0x018 => ⟨0, [ro 63 32, rw 4 4, rw 3 0]⟩
    | _ => rsv
  else if a < 0x900000 then portReg (a - 0x800000)
  else rsv

/-- Whether a management address lies in a listed range (Table 16-12). -/
def mgmtListed (a : Nat) : Bool :=
  a < 0x900000 || (0x10000000 ≤ a && a < 0x20000000)

end Sys2Proof.Machine
end

