-- ==== Sys2Proof/Config.lean ====
section
/-! DEFINITION. What the spec leaves to one device or to a published standard: free values and
uninterpreted primitives. None of the opaque constants has a body, so no proof can use a value of
one of them. -/

namespace Sys2Proof

/-- One partition that the pattern presets (R221): number, panels, V and Q in bolts, `HWCAP` in
units of 256 MiB, and the MAC/VLAN word of S0 and S1 in the layout of `PM_AMAC0` (Table 16-13). -/
structure Preset where
  number : Nat
  panels : BitVec 16
  v      : Nat
  q      : Nat
  hwcap  : Nat
  mac0   : BitVec 60
  mac1   : BitVec 60
  deriving DecidableEq, Repr, Inhabited

/-- A port plan entry, Table 9-3 (R200). -/
structure PlanEntry where
  used   : Bool
  edev   : DevId
  eboard : BitVec 32
  epos   : BitVec 4
  eport  : BitVec 5
  emask  : BitVec 4
  deriving DecidableEq, Repr, Inhabited

/-- An entry that expects no neighbour. -/
def PlanEntry.unused : PlanEntry := { used := false, edev := 0, eboard := 0, epos := 0, eport := 0, emask := 0 }

/-- A gateway of another domain as the pattern names it (R194): the first device ID of its domain, the service port by which
it is reached, its device ID and its addresses. -/
structure TunnelPeer where
  base : DevId
  sp   : Nat
  dev  : DevId
  mac  : BitVec 48
  ip   : BitVec 128
  deriving DecidableEq, Repr, Inhabited

/-- The pattern as the firmware reads it: what R196, R200, R221, R194, R355, R408 and R428 say the
pattern supplies. The byte layout of its body is in no chapter (log 17). -/
structure Pattern where
  domain    : BitVec 5
  dbase     : DevId
  dcount    : Nat
  board     : BitVec 32
  position  : BitVec 4
  spare     : Option (BitVec 4)
  plan      : List PlanEntry
  presets   : List Preset
  seamMask  : BitVec 16
  soen      : Bool
  sosel     : BitVec 4
  plim      : Nat
  hrdest    : BitVec 128
  hrport    : BitVec 16
  drwin     : Nat
  drlim     : Nat
  prwin     : Nat
  prlim     : Nat
  tunPort   : BitVec 16
  peers     : List TunnelPeer
  tunMac    : List (BitVec 48)
  tunIp     : List (BitVec 128)
  tunVlan   : BitVec 12
  goldMisr  : BitVec 384
  deriving DecidableEq, Repr, Inhabited

namespace Config

/-- The free values: the n-th draw of a 64-bit value that the spec leaves open (log 5). -/
opaque freeWord : Nat → Word

/-- The hashed set index of a line of the memory-side cache (R140). -/
opaque cacheSet : Nat → Word

/-- The place in a partition's list of channels of the collars of the bolt in a frame (R137 gives them the device area
and no address). -/
opaque collarSpot : Nat → Word

/-- SHA-384 of a byte string, as a 384-bit value whose first byte is the least significant one
(named by R252, R271, R368; the standard is not in the spec, log 4). -/
opaque sha384 : List Byte → BitVec 384

/-- ECDSA on brainpoolP384r1 with SHA-384: public key, message, signature (R199, R368, R372). -/
opaque ecdsaVerify : List Byte → List Byte → List Byte → Bool

/-- Whether a signature over a message verifies under the owner key whose SHA-384 digest OTP holds (R371, R372). -/
opaque ownerVerify : BitVec 384 → List Byte → List Byte → Bool

/-- The signature that the private key makes over a message (R373). -/
opaque ecdsaSign : BitVec 384 → List Byte → List Byte

/-- The public key of a private key, 97 bytes uncompressed (Table 15-4). -/
opaque publicKey : BitVec 384 → List Byte

/-- AES-256-GCM open: key, nonce, additional data, ciphertext, tag (R179, R289, R380). -/
opaque gcmOpen : BitVec 256 → BitVec 96 → List Byte → List Byte → List Byte → Option (List Byte)

/-- AES-256-GCM seal: key, nonce, additional data, plaintext; the ciphertext and the 16-byte tag. -/
opaque gcmSeal : BitVec 256 → BitVec 96 → List Byte → List Byte → List Byte × List Byte

/-- HKDF with SHA-384: salt, input key, info, output length in bytes (R373, R380, R410). -/
opaque hkdf : List Byte → List Byte → List Byte → Nat → List Byte

/-- AES-256-XTS of one 64-byte data unit: key pair, tweak, plaintext (R378). -/
opaque xtsSeal : BitVec 512 → BitVec 128 → List Byte → List Byte

/-- The x-coordinate of the ECDH product of a private and a public key (R380, R410). -/
opaque ecdhX : BitVec 384 → List Byte → List Byte

/-- HMAC-SHA-384 cut to 16 bytes (Table 16-19). -/
opaque hmac16 : BitVec 256 → List Byte → List Byte

/-- Whether a certificate chains to the Hinowen device root (R201, R373, R381). -/
opaque certChains : List Byte → Bool

/-- The subject public key of a certificate (R373). -/
opaque certKey : List Byte → List Byte

/-- The digests of the four Hinowen image keys in the boot ROM (R368). -/
opaque imageKeyDigest : Nat → BitVec 384

/-- Whether the Hinowen debug signature inside an UNLOCK request verifies (Table 15-6). -/
opaque debugSigOk : List Byte → Bool

/-- The pattern that a verified pattern body stands for (log 17). -/
opaque parsePattern : List Byte → Pattern

/-- The 14 parity bytes of a flit's Reed-Solomon codeword (R164): the chapter names no generator (log 132). -/
opaque rsParity : List Byte → List Byte

/-- The JTAG port's parts that R434 leaves to the device (log 137): the length of its instruction register, what an
instruction word selects (0 BYPASS, 1 IDCODE, 2 SAMPLE/PRELOAD, 3 EXTEST, 4 further access), and its boundary cells. -/
opaque tapIrLen : Nat
opaque tapSelect : List Bool → Nat
opaque tapCells : Nat

/-- What Table 8-18 leaves open in a datagram's headers (log 135): the flow label and the source port's hash of the source
and destination device IDs, the traffic class, and an acknowledgement's `TSEQ` and 802.1Q priority. -/
opaque flowHash : Nat → Nat → BitVec 20
opaque portHash : Nat → Nat → BitVec 14
opaque tunnelClass : BitVec 8
opaque tunnelAckSeq : BitVec 32
opaque tunnelAckPrio : BitVec 3

/-- The hash by which R204 picks a gateway and a service port. -/
opaque routeHash : Nat → Nat

/-- The answer of the SPDM responder to a request (Table 15-9): partition, port, request. -/
opaque spdmAnswer : Nat → Nat → List Byte → List Byte

/-- The golden digests of the 24 known-answer kernels (R339). -/
opaque goldenDigest : Nat → BitVec 384

/-- The unique device secret, the identity certificate and the device serial of this module
(Table 15-5; written at manufacture). -/
opaque uds : BitVec 256
opaque identityCert : List Byte

/-- Whether the SFDP table of the boot flash offers octal DTR mode (R431). -/
opaque sfdpOctal : Bool

/-- Whether the OTP integrity code agrees with the OTP contents (Table 15-5). -/
opaque otpIntact : Bool

end Config

end Sys2Proof
end

