-- ==== Sys2Proof/Machine/State.lean ====
section
/-! DEFINITION. The state of the block as plain data, and its state after reset. Registers stand in
`bar0` and `mregs` as the 64-bit words of chapter 16 (an unlisted word holds its Reset value); what
the spec gives the machine beside its registers stands in named fields. -/

namespace Sys2Proof.Machine

/-- Sparse data by key: strictly rising keys, and no entry equal to the default of its map. -/
abbrev Sparse (α : Type) := List (Nat × α)

/-- A byte memory: addresses strictly rising, no entry equal to `Mem.unlisted` (Ops). -/
abbrev Mem := List Host.Cell

/-- A 16-byte collar, Table 7-6 (R145), bit 0 being bit 0 of byte 0. -/
abbrev Collar := BitVec 128

/-- Why the machine stops. -/
inductive Fault where
  /-- Raised by a meaning whose command names a unit, slot or register that the device does not
  have (see `WellFormed`): no such command exists. Safe: the model only stops. -/
  | noSuchUnit
  deriving DecidableEq, Repr

/-- Why the model refuses a command. -/
inductive Refusal where
  /-- Raised by the dispatcher for a command without a meaning. Safe. -/
  | notModelled (mnemonic : String)
  deriving DecidableEq, Repr

/-! ### Cores -/

/-- An active zero-overhead loop (R42): counter number, start and end bundle index. -/
structure Loop where
  n     : Nat
  first : Nat
  last  : Nat
  deriving DecidableEq, Repr

/-- What a core waits for after it issued a bundle (R44-R47, Table 2-8). A fence waits for the DMAs issued before
it: those of a lower identifier than `n`. -/
inductive Wait where
  | sem (sid n : Nat)
  | barC (mask : BitVec 16)
  | barP (b : Nat)
  | mwait
  | dma (mask : BitVec 16)
  | fenceC (n : Nat)
  | fenceP (n : Nat)
  deriving DecidableEq, Repr

/-- Run state of a core (R49, R50, Table 16-10); a bundle may start two waits (B and M slot). -/
inductive RunState where
  | idle
  | issuing
  | waiting (ws : List Wait)
  | stopped
  | halted
  deriving DecidableEq, Repr

/-- One cell of a capture buffer or of a seed, Table 5-4 (R111, R112). -/
structure CaptureCell where
  hi   : BitVec 32
  lo   : BitVec 32
  itot : BitVec 32
  cflg : BitVec 32
  deriving DecidableEq, Repr

/-- The audit record and completion word held back for a vote copy (R337). -/
structure AuditHold where
  record : List Byte
  cword  : BitVec 32
  cols   : List (BitVec 32 × BitVec 32)
  check  : List (BitVec 32 × BitVec 32)
  tol    : List (BitVec 32)
  p0     : List (BitVec 32 × BitVec 32)
  deriving DecidableEq, Repr

/-- One accumulator set of a cell (R52, R96): its FP32 and its INT32 total, whether the total saturated
(R105, R106) or was flushed (R103), and whether it stands for a preload that INT32 cannot represent (R94). -/
structure AccSet where
  fp    : BitVec 32
  it    : BitVec 32
  sat   : Bool
  flush : Bool
  unrep : Bool
  deriving DecidableEq, Repr

def AccSet.zero : AccSet := { fp := 0, it := 0, sat := false, flush := false, unrep := false }

/-- The total of a cell as the sequencer holds it (R107, R111): the FP32 pair, its low part +0 when the
pass is not segmented, the INT32 total, and the marks of the accumulator set. -/
structure CellTotal where
  hi    : BitVec 32
  lo    : BitVec 32
  itot  : BitVec 32
  sat   : Bool
  flush : Bool
  unrep : Bool
  deriving DecidableEq, Repr

def CellTotal.zero : CellTotal := { hi := 0, lo := 0, itot := 0, sat := false, flush := false, unrep := false }

/-- An M operation in flight (R36, R55-R59): its slot fields, the register values read at issue,
the sequencer's copy of the descriptor (R56) and its progress: the segments of passes that ended (R107),
the free words that its orders of summing take from `draw` on (R104), C as it stood when the operation started (R60),
the live accumulator sets by array, cell and set (R52), the running pairs of the pass by array and cell (R107),
the totals by pass, array and cell, and the bytes that a store of R40 reached. -/
structure MOp where
  op      : Nat
  fmtA    : Nat
  fmtB    : Nat
  fmtC    : Nat
  sclA    : Nat
  sclB    : Nat
  shape   : Nat
  chunk   : Nat
  iovf    : Bool
  audit   : Bool
  zero    : Bool
  accInt  : Bool
  m       : Nat
  n       : Nat
  k       : Nat
  offA    : Nat
  offB    : Nat
  offC    : Nat
  offS    : Nat
  pc      : Nat
  desc    : Option (List Byte)
  started : Bool
  failed  : Bool
  segs    : Nat
  draw    : Nat
  c0      : Mem
  acc     : Sparse AccSet
  pairs   : Sparse CellTotal
  tots    : Sparse CellTotal
  hazard  : Bool
  touched : List (Nat × Nat)
  hold    : Option AuditHold
  deriving DecidableEq, Repr

/-- A DMA in flight (R36, R86, R182): registers read at issue, the entry copied at its start, its
progress in units of transfer, the address up to which it has written its destination, and the source data staged
from another module or from the host. -/
structure Dma where
  id      : Nat
  tag     : Nat
  sid     : Nat
  semen   : Bool
  xf      : Nat
  src     : Word
  dst     : Word
  len     : Nat
  pc      : Nat
  entry   : Option (List Byte)
  active  : BitVec 32
  unit    : Nat
  edge    : Nat
  status  : List Nat
  finished : Bool
  aborted : Bool
  parked  : Bool
  beforeSeam : Option Nat
  asked   : List Nat
  ahead   : List Nat
  waiting : Nat
  buf     : Mem
  bufCol  : Sparse Collar
  bufTag  : Sparse (BitVec 3)
  deriving DecidableEq, Repr

/-- The architectural state of one core (R26) with its run state, its operations in flight and the
debug buffers of its arrays. `snap` is the cluster store as it stood when the instruction buffer
was last emptied, `mids` the bundles that writes replaced since then: the old bundles of R29. -/
structure Core where
  g       : Sparse Word
  v       : Sparse (BitVec 1024)
  p       : Sparse (BitVec 32)
  lc      : Sparse (BitVec 32)
  loops   : List Loop
  pc      : Nat
  vflag   : BitVec 2
  exc     : BitVec 8
  cb      : Sparse (BitVec 16)
  snap    : Mem
  mids    : Sparse (List (BitVec 512))
  run     : RunState
  preReq  : Bool
  atSafe  : Bool
  skip    : Bool
  mops    : List MOp
  dmas    : List Dma
  nextDma : Nat
  cfg     : Nat
  caps    : Sparse CaptureCell
  seeds   : Sparse CaptureCell
  seeded  : BitVec 4
  deriving DecidableEq, Repr

/-- A core as START leaves it: everything zero (R232), arrays square (R67). -/
def Core.zero : Core :=
  { g := [], v := [], p := [], lc := [], loops := [], pc := 0, vflag := 0, exc := 0, cb := [],
    snap := [], mids := [], run := .idle, preReq := false, atSafe := false, skip := false, mops := [],
    dmas := [], nextDma := 0, cfg := 0, caps := [], seeds := [], seeded := 0 }

/-- The context that holds a cluster: partition, context, context cluster index (R229). -/
structure Holder where
  part : Nat
  ctx  : Nat
  cli  : Nat
  deriving DecidableEq, Repr

/-- What a cluster holds beside its stores: holder, semaphores (R44), the cluster barrier in
progress (R45), and its power state (R247: 0 awake, 1 clock-gated, 2 retention, 3 off). -/
structure Cluster where
  holder  : Option Holder
  sem     : Sparse (BitVec 16)
  barMask : BitVec 16
  barArr  : BitVec 16
  power   : Nat
  since   : Nat
  deriving DecidableEq, Repr

def Cluster.zero : Cluster := { holder := none, sem := [], barMask := 0, barArr := 0, power := 0, since := 0 }

/-! ### Partitions -/

/-- Bolt states, Table 7-7 (R150). -/
inductive BoltState where
  | zero | hbmDirty | hbmClean | out | flash | in_
  deriving DecidableEq, Repr

/-- An access that stalls on a bolt (R151, R153). -/
inductive Stalled where
  | dma (g id : Nat)
  | hostRead (places : List (Option Nat))
  | hostWrite (places : List (Option Nat)) (data : List Byte)
  | hint
  | other
  deriving DecidableEq, Repr

/-- A bolt: its state, its HBM frame (R138; 0 where it holds none), the number of its last access, whether the device
wrote to it while it came in, KEEP pin, pins of grants, SPARE mark, whether it lies in a KEPT or CLAIMED
region of the Pocket (R292), and the accesses that wait for it. -/
structure Bolt where
  st      : BoltState
  frame   : Nat
  seen    : Nat
  wrote   : Bool
  keep    : Bool
  gpins   : Nat
  spare   : Bool
  gather  : Bool
  stalled : List Stalled
  deriving DecidableEq, Repr

def Bolt.unwritten : Bolt :=
  { st := .zero, frame := 0, seen := 0, wrote := false, keep := false, gpins := 0, spare := false, gather := false, stalled := [] }

/-- A line slot of the memory-side cache (R140): the line it holds, none while it is empty, and whether HBM still lacks
what was written to it. The bytes of a line are those of the partition's memory, which is what every requester sees. -/
structure CacheLine where
  line  : Option Nat
  dirty : Bool
  deriving DecidableEq, Repr

def CacheLine.empty : CacheLine := { line := none, dirty := false }

/-- A data tile that another module writes together with its block scales, in messages of their own (R144, R181): the
elements written, once they have come, and the scale bytes that have come. -/
structure Merge where
  data : Option Nat
  seen : Nat
  deriving DecidableEq, Repr

def Merge.none_ : Merge := { data := none, seen := 0 }

/-- A partition barrier in progress (R46): its count and the cores that arrived, by context core index. -/
structure BarP where
  n    : Nat
  arr  : List Nat
  deriving DecidableEq, Repr

/-- The first cause of a context's fault record (R49). -/
structure Cause where
  fstat  : Nat
  fpc    : Nat
  ftag   : Nat
  fcause : Nat
  fcid   : Nat
  deriving DecidableEq, Repr

/-- The saved image of one cluster (R235): semaphores and the cluster barrier. -/
structure ClusterSave where
  sem     : Sparse (BitVec 16)
  barMask : BitVec 16
  barArr  : BitVec 16
  deriving DecidableEq, Repr

/-- A parked outcome (R236): issuing core (context core index), DMA id and status. -/
structure ParkRec where
  core   : Nat
  id     : Nat
  status : Nat
  deriving DecidableEq, Repr

/-- The save image of a context (R235): cores by context core index, clusters by context cluster
index, store bytes and tags at context cluster index × 8 MiB + (core store of core k at
k × 256 KiB, cluster store at 4 MiB). -/
structure SaveImage where
  stopped  : Bool
  cores    : Sparse Core
  clusters : Sparse ClusterSave
  bytes    : Mem
  tags     : Sparse (BitVec 3)
  park     : List ParkRec
  deriving DecidableEq, Repr

/-- What a context holds beside its registers (R231, R235, R245). -/
structure Ctx where
  starting : Bool
  waitCmds : List Nat
  barP     : Sparse BarP
  cause    : Option Cause
  more     : Nat
  stopReq  : Bool
  cmdRun   : Nat
  save     : Option SaveImage
  deriving DecidableEq, Repr

def Ctx.fresh : Ctx :=
  { starting := false, waitCmds := [], barP := [], cause := none, more := 0, stopReq := false,
    cmdRun := 0, save := none }

/-- A READY or ABORT that came for a collective not yet submitted here (R213): its `OPSEQ`, the rank
of its sender, whether it is an ABORT, its payload. -/
structure EarlyColl where
  opseq   : BitVec 16
  rank    : Nat
  abort   : Bool
  payload : List Byte
  deriving DecidableEq, Repr

/-- A collective group slot (R206-R208): 0 EMPTY, 1 LOADED, 2 DRAINING. -/
structure Group where
  st      : Nat
  job     : JobId
  epoch   : Epoch
  alg     : Nat
  n       : Nat
  rank    : Nat
  members : Sparse DevId
  ports   : BitVec 18
  opseq   : BitVec 16
  early   : List EarlyColl
  deriving DecidableEq, Repr

def Group.empty : Group :=
  { st := 0, job := 0, epoch := 0, alg := 0, n := 0, rank := 0, members := [], ports := 0, opseq := 0
    early := [] }

/-- A COLL message that waits for its receiver's READY (R213): `CKIND`, tile index, rank, payload and
collar (an empty collar for a sum-of-squares pair). `die` is the I/O die whose engine moves it (R217). -/
structure CollSend where
  die     : Bool
  kind    : Nat
  idx     : Nat
  dst     : Nat
  payload : List Byte
  collar  : List Byte
  deriving DecidableEq, Repr

/-- An accepted collective (R210-R217); `refused` says that it is not performed (R212). `acc` holds carrier tiles: under DIRECT what each member
sent (key tile·2^19 + rank), and everywhere the reduced tile (key tile·2^19 + 2^18). `fin` holds the
output tiles that are final, `pois` the carrier tiles that depend on a POISON input. -/
structure Coll where
  gix     : Nat
  opseq   : BitVec 16
  ctx     : Nat
  cluster : Nat
  desc    : List Byte
  refused : Bool
  running : Bool
  ready   : List Nat
  acc     : Sparse (List (BitVec 32))
  fin     : List Nat
  pois    : List Nat
  outq    : List CollSend
  statuses : List Nat
  cflags  : BitVec 8
  ssqOwn  : Option (BitVec 32 × BitVec 32)
  ssqIn   : Sparse (BitVec 32 × BitVec 32)
  ssqTot  : Option (BitVec 32 × BitVec 32)
  unacked : Nat
  aborted : Bool
  ended   : Bool
  deriving DecidableEq, Repr

/-- What a grant slot holds beside its registers while it is PINNING: the status its CREATE will
report, and whether its bolts carry its pins (R186). -/
structure GrantRun where
  status : Nat
  pinned : Bool
  deriving DecidableEq, Repr

/-- The export range of a revoked grant (R186). -/
structure Tombstone where
  eoff  : Nat
  nbolt : Nat
  job   : JobId
  deriving DecidableEq, Repr

/-- A job key slot (R379): 0 EMPTY, 1 REQUESTED, 2 KEYED. -/
structure JobKey where
  st     : Nat
  job    : JobId
  leader : Bool
  key    : BitVec 256
  eph    : BitVec 384
  nonce  : BitVec 256
  issued : List (Nat × Nat)
  deriving DecidableEq, Repr

def JobKey.empty : JobKey :=
  { st := 0, job := 0, leader := false, key := 0, eph := 0, nonce := 0, issued := [] }

/-- A PULL sent and not yet ended by its TDONE (R259, R261): `FIRST` and `COUNT`, whether it was answered
BUSY, and the digest of the TDONE whose tiles are still to be read back (R271). -/
structure Ask where
  first  : Nat
  count  : Nat
  busy   : Bool
  digest : Option (BitVec 384)
  deriving DecidableEq, Repr

/-- A transfer at its receiver (R257-R261): tensor and source part, the rank it is asked from and the
ranks still to try, its tiles, those missing, those that came with `POISON` in this try (`bad`), those of runs that failed
their digest (`redo`), the PULLs that have no TDONE yet, and the runs whose digest awaits the read-back (`held`). -/
structure Xfer where
  tensor  : Nat
  part    : Nat
  src     : Nat
  order   : List Nat
  tiles   : List Nat
  missing : List Nat
  bad     : List Nat
  redo    : List Nat
  asks    : List Ask
  held    : List Ask
  digBad  : Bool
  closed  : Bool
  deriving DecidableEq, Repr

def Xfer.none_ : Xfer :=
  { tensor := 0, part := 0, src := 0, order := [], tiles := [], missing := [], bad := [], redo := [], asks := [], held := [],
    digBad := false, closed := true }

/-- A PULL being served by its sender (R259-R261): tensor, rank of the puller, the tiles asked for,
those still to send, the DATA not yet answered, and what their digest covers (R271). -/
structure PlanSend where
  tensor : Nat
  puller : Nat
  tiles  : List Nat
  queue  : List Nat
  out    : Nat
  dig    : List Byte
  deriving DecidableEq, Repr

/-- A shard plan in progress (R252-R265): the layout slot that it builds, the weight slot that it loads,
its transfers and sends, and at rank 0 the members whose DONE it holds. -/
structure Plan where
  planid  : BitVec 32
  phash   : BitVec 128
  job     : JobId
  members : List DevId
  rank    : Nat
  header  : List Byte
  tensors : List (List Byte)
  epoch   : Epoch
  layout  : Option Nat
  slot    : Option Nat
  xfers   : List Xfer
  sends   : List PlanSend
  doneBy  : List Nat
  swseam  : BitVec 32
  deriving DecidableEq, Repr

/-- A COMMIT or FAIL of rank 0 that members have not acknowledged (R263). -/
structure Told where
  planid : BitVec 32
  phash  : BitVec 128
  job    : JobId
  gix    : Nat
  epoch  : Epoch
  code   : Nat
  status : Nat
  swseam : BitVec 32
  left   : List (Nat × DevId)
  deriving DecidableEq, Repr

/-- A DONE or FAIL that reached rank 0 before its own plan (R263): plan, sender, and the status of a
FAIL. -/
structure EarlyPlan where
  planid : BitVec 32
  phash  : BitVec 128
  src    : DevId
  status : Option Nat
  deriving DecidableEq, Repr

/-- A shard that a digest record covers (R271, R272): the record's address, the shard's first tile in the
bolt range, and the weight slot that holds it, none for the base range. -/
structure DigestRec where
  addr  : Nat
  tile  : Nat
  slot  : Option Nat
  deriving DecidableEq, Repr

/-- The Tailor beside its registers: the plan, what rank 0 still announces, what came early, a written
SSET, and the shards with digest records. -/
structure Tailor where
  plan  : Option Plan
  told  : List Told
  early : List EarlyPlan
  sset  : Option (BitVec 32)
  records : List DigestRec
  deriving DecidableEq, Repr

/-- A STASH or FETCH of entry `idx` in progress (R289, R290): the next unit to ask for (a bolt of a
host target, a tile of a peer target), the requests outstanding and the statuses of what failed. -/
structure PocketOp where
  idx   : Nat
  fetch : Bool
  next  : Nat
  out   : Nat
  fails : List Nat
  mem   : Mem
  collars : Sparse Collar
  cold  : List Nat
  deriving DecidableEq, Repr

/-- The Pocket beside its registers and its table in memory (R287-R290): the next stash count, its
own `HEAD` while memory holds an older one (R439), the GATHER entries in KEPT, the operations in
progress, and those waiting. -/
structure Pocket where
  sctr    : Nat
  head    : Option Nat
  kept    : List Nat
  running : List PocketOp
  waiting : List PocketOp
  deriving DecidableEq, Repr

/-- A queued request or paused sequence (R303-R313). `fork` is set for a paused sequence. -/
structure QReq where
  reqid  : BitVec 32
  cust   : Nat
  cls    : Nat
  nfork  : Nat
  dlen   : Nat
  nopfx  : Bool
  note   : Nat
  aid    : BitVec 16
  paddr  : Nat
  plen   : Nat
  maxnew : Nat
  obuf   : Nat
  caddr  : Word
  clog   : Nat
  samp   : List Byte
  fork   : Option Nat
  len    : Nat
  new    : Nat
  lastTok : BitVec 32
  clock  : Nat
  order  : Nat
  deriving DecidableEq, Repr

/-- A running sequence (R305-R323): its request, its table entry's fields and its counters. -/
structure Seq where
  req     : QReq
  fork    : Nat
  sstate  : Nat
  doff    : Bool
  rebuild : Bool
  len     : Nat
  new     : Nat
  lastTok : BitVec 32
  gen     : Epoch
  batch   : Nat
  pages   : List Nat
  pos     : Nat
  miss    : Nat
  probe   : Nat
  draft   : Nat
  order   : Nat
  cancel  : Bool
  leave   : Option (Nat × Nat)
  deriving DecidableEq, Repr

/-- A page of the prefix index (R319, R321). -/
structure PfxPage where
  gen    : Epoch
  aid    : BitVec 16
  tokens : List (BitVec 32)
  page   : Nat
  used   : Nat
  deriving DecidableEq, Repr

/-- An entry of the current step record (Table 13-5): kind, sequence, draft, sample, pos, ntok. -/
structure StepEntry where
  kind   : Nat
  seq    : Nat
  draft  : Nat
  sample : Bool
  pos    : Nat
  ntok   : Nat
  gen    : Epoch
  wsl    : Nat
  deriving DecidableEq, Repr

/-- A batch and the weight slot it references (R267, R310). -/
structure Batch where
  id   : Nat
  slot : Nat
  gen  : Epoch
  deriving DecidableEq, Repr

/-- The Ringmaster instance of a partition beside its registers (R300-R331). `core` is the control core that carries it
(R25), 16 while there is none. `broken` holds the
requests whose Carousel writes to host space ended POISON (R324), `head` the request ring's own `HEAD`
while memory holds an older one (R439), `produced` the records written to each Carousel ring, `dirty` and
`notes` the rings whose `PROD` and the requests whose vector are due. -/
structure Ring where
  on       : Bool
  core     : Nat
  queue    : List QReq
  seqs     : Sparse Seq
  refs     : Sparse Nat
  index    : List PfxPage
  cur      : List StepEntry
  curStep  : Option (BitVec 32)
  publish  : Bool
  broken   : List (BitVec 32)
  batches  : List Batch
  finished : List (BitVec 32)
  ivals    : List Nat
  enAt     : Nat
  refills  : Nat
  tick     : Nat
  pieces   : Sparse (List Byte)
  produced : Sparse (BitVec 32)
  head     : Option Nat
  bint     : Nat
  dirty    : List QReq
  notes    : List (BitVec 32)
  deriving DecidableEq, Repr

def Ring.off : Ring :=
  { on := false, core := 16, queue := [], seqs := [], refs := [], index := [], cur := [], curStep := none,
    publish := false, broken := [], batches := [], finished := [], ivals := [], enAt := 0, refills := 0,
    tick := 0, pieces := [], produced := [], head := none, bint := 1, dirty := [], notes := [] }

/-- Seam planning of a partition (R427, R428); times are IO-A counter values in ns. `closing` holds,
oldest first, the seams whose scale records are still to be closed (R128): a number, and `PC_SRL` as the seam found it
(R395). -/
structure SeamPlan where
  last     : Option Nat
  pulse    : Option Nat
  interval : Option Nat
  pending  : Option Nat
  byPulse  : Option Nat
  planned  : Option Nat
  acquire  : Bool
  locked   : Bool
  closing  : List (Nat × Word)
  deriving DecidableEq, Repr

def SeamPlan.none_ : SeamPlan :=
  { last := none, pulse := none, interval := none, pending := none, byPulse := none,
    planned := none, acquire := false, locked := false, closing := [] }

/-- A hint record being acted on (R156): `DONE` and `STATUS` so far. -/
structure HintRun where
  done   : Nat
  status : Nat
  deriving DecidableEq, Repr

/-- What an outstanding host request was made for (R225, R438); `late` after a partition reset, which
awaits none (R352). -/
inductive HostKind where
  | dmaRead (g id addr : Nat)
  | dmaWrite (g id : Nat)
  | pocketRead (idx bolt : Nat)
  | pocketWrite (idx : Nat)
  | carousel (reqid : Nat)
  | svcRead (s : Nat)
  | svcWrite (s : Nat)
  | late
  deriving DecidableEq, Repr

structure HostReq where
  id   : Nat
  port : Nat
  kind : HostKind
  len  : Nat
  deriving DecidableEq, Repr

/-- A partition (R221) and everything that belongs to it alone. While it is RESETTING, `dying` says that
it is being destroyed (R222) and `rcount` that the reset history counts the reset (R355). `cache` holds its panels' ways of
the memory-side cache by die, way and set (R16), `merged` holds by tile the
writes of other modules whose data or block scales are still to come (R144), `clock` numbers its accesses, and `evicting` says that the engine
restores `FREE_LOW` (R152). -/
structure Partition where
  ptstate : Nat
  dying   : Bool
  rcount  : Bool
  panels  : BitVec 16
  parkP   : Nat
  vbolts  : Nat
  qbolts  : Nat
  hwcap   : Nat
  mac0    : BitVec 60
  mac1    : BitVec 60
  dbgen   : Bool
  bound   : BitVec 2
  viol    : BitVec 32
  xtsKey  : BitVec 512
  pktKey  : BitVec 256
  keyed   : Bool
  bar0    : Sparse Word
  mem     : Mem
  collars : Sparse Collar
  bolts   : Sparse Bolt
  cache   : Sparse CacheLine
  merged  : Sparse Merge
  clock   : Nat
  evicting : Bool
  ctxs    : Sparse Ctx
  grants  : Sparse GrantRun
  tombs   : List Tombstone
  groups  : Sparse Group
  colls   : List Coll
  jkeys   : Sparse JobKey
  tailor  : Tailor
  pocket  : Pocket
  ring    : Ring
  seam    : SeamPlan
  hint    : Option HintRun
  hostReqs : List HostReq
  nextHost : Nat
  pph     : Nat
  msix    : BitVec 64
  deriving DecidableEq, Repr

/-- A partition that does not exist (R223): `PTSTATE` NONE, every register at its Reset value. -/
def Partition.none_ : Partition :=
  { ptstate := 0, dying := false, rcount := false, panels := 0, parkP := 0, vbolts := 0, qbolts := 0, hwcap := 0, mac0 := 0,
    mac1 := 0, dbgen := false, bound := 0, viol := 0, xtsKey := 0, pktKey := 0, keyed := false,
    bar0 := [], mem := [], collars := [], bolts := [], cache := [], merged := [], clock := 0, evicting := false, ctxs := [], grants := [], tombs := [],
    groups := [], colls := [], jkeys := [], tailor := { plan := none, told := [], early := [], sset := none, records := [] },
    pocket := { sctr := 0, head := none, kept := [], running := [], waiting := [] }, ring := .off,
    seam := .none_, hint := none, hostReqs := [], nextHost := 0, pph := 0, msix := 0 }

/-! ### Links -/

/-- What becomes of a message that is arriving (R190, R191): discarded, gathered for this module, passed to a port under a
dateline action, or gathered for a datagram on a service port. -/
inductive RxWay where
  | drop
  | gather
  | out (port mid dla : Nat)
  | tunnel (sp : Nat) (gw : DevId)
  deriving DecidableEq, Repr

/-- A message that is arriving: its way, what of it is gathered, the buffers held, and who hears of a hold (R172). -/
structure RxMsg where
  way   : RxWay
  bytes : List Byte
  flits : List Flit
  homes : List Home
  held  : Option DevId
  deriving DecidableEq, Repr

def RxMsg.idle : RxMsg := { way := .drop, bytes := [], flits := [], homes := [], held := none }

/-- One direction pair of a Nyzan port (R162-R175, R198-R202) beside its PORT registers. `narrow`
holds the trained lanes of a narrowed port (R425), `fec` the corrected bytes of each lane that have
not yet made a LANE_FEC event. -/
structure Port where
  pstate   : Nat
  lanes    : BitVec 4
  dres     : Nat
  txNext   : Nat
  rxNext   : Nat
  replay   : List Flit
  resend   : List Flit
  nakOut   : Bool
  discard  : Bool
  ackOut   : Bool
  txq      : Sparse (List Flit)
  txOpen   : Sparse Nat
  hellos   : List Flit
  rx       : Sparse RxMsg
  rxDed    : Sparse Nat
  rxSh     : Sparse Nat
  lctl     : Bool
  dedUsed  : Sparse Nat
  shUsed   : Sparse Nat
  dcred    : Sparse Nat
  scred    : Nat
  dcredRx  : Sparse Nat
  scredRx  : Nat
  wrrVc    : Nat
  wrrLeft  : Nat
  fails    : Nat
  nonce    : BitVec 128
  echo     : BitVec 128
  verified : Bool
  seenMe   : Bool
  peer     : Word
  prevPeer : Option Word
  narrow   : BitVec 4
  fec      : Sparse Nat
  plan     : PlanEntry
  lastOut  : Nat
  deriving DecidableEq, Repr

def Port.down : Port :=
  { pstate := 0, lanes := 0, dres := 0, txNext := 0, rxNext := 0, replay := [], resend := [],
    nakOut := false, discard := false, ackOut := false, txq := [], txOpen := [], hellos := [],
    rx := [], rxDed := [], rxSh := [], lctl := false, dedUsed := [],
    shUsed := [], dcred := [], scred := 0, dcredRx := [], scredRx := 0, wrrVc := 0, wrrLeft := 0,
    fails := 0, nonce := 0, echo := 0, verified := false, seenMe := false,
    peer := 0, prevPeer := none, narrow := 0, fec := [], plan := .unused, lastOut := 0 }

/-- What an outstanding remote request was made for (R189). -/
inductive ReqKind where
  | dmaRead (g id addr : Nat)
  | dmaWrite (g id : Nat)
  | amo (g id res : Nat)
  | coll (p gix : Nat) (opseq : BitVec 16)
  | plan (p : Nat) (planid : BitVec 32) (phash : BitVec 128) (tcode tensor rank : Nat)
  | planData (p : Nat) (planid : BitVec 32) (phash : BitVec 128) (tensor rank : Nat)
  | pocketRead (p idx tile : Nat)
  | pocketWrite (p idx : Nat)
  | stepRec (p : Nat)
  deriving DecidableEq, Repr

/-- An outstanding remote request (R189): `mid` is the number of its message in this module's router (0 where it left by
no port), and `fenced` tells that a fenced port discarded flits of it (R175, R8). -/
structure Req where
  die      : Bool
  tag      : BitVec 16
  job      : JobId
  dst      : DevId
  addr     : BitVec 44
  part     : Nat
  ctx      : Nat
  kind     : ReqKind
  deadline : Nat
  extended : Bool
  timedOut : Bool
  mid      : Nat
  fenced   : Bool
  deriving DecidableEq, Repr

/-- A message that waits at an I/O die for a free request tag (R189). -/
structure WaitMsg where
  mask : BitVec 18
  die  : Bool
  part : Nat
  ctx  : Nat
  kind : ReqKind
  msg  : Msg
  deriving DecidableEq, Repr

/-- A DATA datagram that stands unacknowledged: its number, service port, virtual channel, the message's device IDs and its
flits (R194, R195). -/
structure TunnelGram where
  seq   : BitVec 32
  sp    : Nat
  vc    : Nat
  src   : DevId
  dst   : DevId
  flits : List (List Byte)
  deriving DecidableEq, Repr

/-- A gateway pair (R195). -/
structure Gateway where
  tseq  : BitVec 32
  tack  : BitVec 32
  unack : List TunnelGram
  rx    : Sparse RxMsg
  deriving DecidableEq, Repr

/-- Everything of the fabric that is not one port's. `nextMid` numbers the messages within the router. The counts that the spec
asks for and gives no register (log 133): messages discarded for want of a route (R190), messages of a tunnel discarded under
R166 and R179, frames of a service port for no partition (R193), management frames of reserved `MKIND` (R409), CTRL
messages of reserved `TCODE` (R258). `paused` holds,
for priority `p` of service port `n` at `8n + p`, how long it is paused, in µs (R192). `collPart` is the partition whose turn the collective engines are at,
and `collLeft` how many collectives more it may start in this turn (R217). -/
structure Fabric where
  ports    : Sparse Port
  reqs     : List Req
  waiting  : List WaitMsg
  ctrA     : Word
  ctrB     : Word
  routes0  : Sparse (BitVec 32)
  routes1  : Sparse (BitVec 32)
  doms0    : Sparse (BitVec 128)
  doms1    : Sparse (BitVec 128)
  abank    : Bool
  gateways : Sparse Gateway
  inbox    : List Msg
  collPart : Nat
  collLeft : Nat
  nextMid  : Nat
  noRoute  : Nat
  tunDrop  : Nat
  strays   : Sparse Nat
  badKinds : Nat
  badCodes : Nat
  paused   : Sparse Nat
  deriving DecidableEq, Repr

/-! ### Reliability, security, power -/

/-- The three counters of a unit and class (R333); `win` holds the 60 buckets, newest first. -/
structure UnitCount where
  cnt  : BitVec 32
  wtot : BitVec 32
  win  : List Nat
  deriving DecidableEq, Repr

/-- Error state of an HBM die (R139): distinct corrected blocks with their age in 60 s buckets, the
ages of uncorrectable events, and the failed mark. -/
structure HbmDie where
  blocks : List (Nat × Nat)
  uncor  : List Nat
  failed : Bool
  deriving DecidableEq, Repr

/-- A vote in progress (R337-R343). `part` is 16 for a core of no partition. -/
structure Vote where
  vid    : BitVec 32
  part   : Nat
  core   : Nat
  kernel : Option Nat
  orig   : Recompute
  check  : Recompute
  tol    : List (BitVec 32)
  p0     : List (BitVec 32 × BitVec 32)
  deriving DecidableEq, Repr

/-- Errors, resets, recovery and self-test (chapter 14). `rcmd` lists the partitions whose
PRESET has not completed, `kernels` the core of each known-answer run with one more than its kernel,
`fwSilent` partition, role and IO-A time of each restart of a silent firmware role (R349), `evSec` and `evCnt`
the IO-A second of the last EVENT datagram and how many left in it (R344). -/
structure Rel where
  counts    : Sparse UnitCount
  changed   : List Nat
  hbmDies   : Sparse HbmDie
  votes     : List Vote
  nextVid   : BitVec 32
  kernels   : Sparse Nat
  badKern   : List Nat
  fencedCores : List Nat
  fencedPanels : BitVec 16
  fencedNyz : BitVec 18
  fencedSvc : BitVec 2
  fencedHost : BitVec 2
  oosFences : BitVec 20
  lifting   : BitVec 16
  prob      : Bool
  engResets : List EngineId
  fwSilent  : List (Nat × Nat × Nat)
  dph       : Nat
  dcount    : Bool
  rcmd      : List Nat
  drcnt     : Nat
  prcnt     : Nat
  oos       : Bool
  oosr      : Nat
  bst       : Nat
  bres      : Nat
  hrseq     : BitVec 32
  lost      : BitVec 32
  lostNow   : Nat
  evSec     : Nat
  evCnt     : Nat
  resets    : BitVec 32
  freshBoot : Bool
  deriving DecidableEq, Repr

/-- One owner slot in OTP (Table 15-5). -/
structure OwnerSlot where
  digest  : BitVec 384
  used    : Bool
  revoked : Bool
  psvc    : Nat
  deriving DecidableEq, Repr

/-- Boot, identity and protection (chapter 15). `frun` is the flash command in progress: whether it erases,
its address, and the bytes of a PROGRAM as they stood when it began. -/
structure Sec where
  owners   : Sparse OwnerSlot
  revokedImg : BitVec 4
  isvc     : Nat
  jtag     : Nat
  flash    : Mem
  frun     : Option (Bool × Nat × List Byte)
  kybuf    : Mem
  octal    : Bool
  flbuf    : Mem
  bstat    : Nat
  pst      : Nat
  icopy    : Bool
  pcopy    : Bool
  fwd      : BitVec 384
  patd     : BitVec 384
  isvn     : Nat
  psvn     : Nat
  ibump    : Bool
  irvk     : BitVec 4
  ikey     : Nat
  pbump    : Bool
  powerBoot : Bool
  mnonce   : BitVec 256
  idKey    : Option (BitVec 384)
  ideIo    : Sparse (BitVec 256)
  ideMem   : Sparse (BitVec 256)
  sessKey  : Option (BitVec 256)
  sessSeq  : Option Word
  unlocked : Bool
  deriving DecidableEq, Repr

/-- Power, pins and board interfaces (chapter 17). `rails` 0 off, 1 ramping, 2 in regulation. -/
structure Pwr where
  pwrEn    : Bool
  vinOk    : Bool
  rails    : Nat
  blocked  : Bool
  pgood    : Bool
  resetN   : Bool
  onReset  : Bool
  perst0   : Bool
  perst1   : Bool
  faultN   : Bool
  fcause   : Nat
  thermN   : Bool
  thermtripN : Bool
  tmax     : BitVec 16
  vin      : Nat
  thr      : Bool
  fmin     : BitVec 16
  refok    : Bool
  i3cAddr  : Option (BitVec 7)
  chPower  : Sparse Nat
  deriving DecidableEq, Repr

/-- Wardrobe translation layer figures (Table 7-12); `gbw` and `gbp` hold bytes, which the
registers show in GB. -/
structure Wear where
  gbw   : Nat
  gbp   : Nat
  mec   : Nat
  life  : Nat
  spare : Nat
  uncor : Nat
  retry : Nat
  deriving DecidableEq, Repr

/-- A flash block (R158; log 18): the partition and bolt last programmed into it, its erases, its reads since it was
programmed, how often it needed more than two retries, and whether it is retired. -/
structure FlashBlock where
  owner   : Option (Nat × Nat)
  erases  : Nat
  reads   : Nat
  hard    : Nat
  retired : Bool
  deriving DecidableEq, Repr

def FlashBlock.fresh : FlashBlock := { owner := none, erases := 0, reads := 0, hard := 0, retired := false }

structure Wardrobe where
  wear   : Wear
  saved  : Wear
  blocks : Sparse FlashBlock
  deriving DecidableEq, Repr

/-- What the block drives outward, oldest first. -/
inductive Emit where
  /-- MSI-X vector `v` of logical device `p` (R401). -/
  | msix (p v : Nat)
  /-- A flit's codeword on a Nyzan port: the bytes of each active lane (R164). -/
  | flit (port : Nat) (lanes : List (Nat × List Byte))
  /-- A message handed to this module's own units or to the other router port. -/
  | local_ (m : Msg)
  /-- A write request to the host of partition `p`; `poison` is the CXL.io poisoned indication. -/
  | hostWrite (p id : Nat) (addr : Nat) (data : List Byte) (poison : Bool)
  /-- A read request to the host of partition `p`. -/
  | hostRead (p id : Nat) (addr len : Nat)
  /-- Data returned to a CXL.mem read, with its poison indication (R228). -/
  | hdmData (p : Nat) (data : List Byte) (poison : Bool)
  /-- Answer to an FM-API, DOE or SPDM request. -/
  | answer (port : Nat) (code : Nat) (data : List Byte)
  /-- A response frame on the management port (R409). -/
  | mgmt (frame : List Byte)
  /-- A health datagram (Table 14-7). -/
  | health (bytes : List Byte)
  /-- An Ethernet frame on a service port. -/
  | frame (s : Nat) (bytes : List Byte)
  /-- A 200 ns pulse on SEAM_OUT (R429). -/
  | seamOut
  /-- An I3C in-band interrupt with mandatory byte 0x01 (R432). -/
  | ibi
  deriving DecidableEq, Repr

/-- The oscillator of a die (R22): the part of a count that the counter has not shown yet, in millionths, and its rates
of the last second, newest first, one for each microsecond, in ppb above -1,000 ppm. -/
structure Osc where
  frac  : Nat
  rates : List Nat
  deriving DecidableEq, Repr

def Osc.zero : Osc := { frac := 0, rates := [] }

/-- The states of an IEEE 1149.1 test access port (R434). -/
inductive TapState where
  | reset | idle
  | selectDr | captureDr | shiftDr | exit1Dr | pauseDr | exit2Dr | updateDr
  | selectIr | captureIr | shiftIr | exit1Ir | pauseIr | exit2Ir | updateIr
  deriving DecidableEq, Repr

/-- The instructions of the JTAG port (R434), and one that only an unlock opens (R389). -/
inductive TapInstr where
  | bypass | idcode | sample | extest | further
  deriving DecidableEq, Repr

/-- The JTAG port: its state, its instruction, the instruction bits shifted in, the data register between `TDI` and `TDO`,
and the boundary cells with the values that EXTEST drives. -/
structure Tap where
  st    : TapState
  ir    : TapInstr
  irReg : List Bool
  drReg : List Bool
  cells : List Bool
  deriving DecidableEq, Repr

/-- `TRST_N`, which the board holds low while JTAG is unused, keeps the port in Test-Logic-Reset with IDCODE selected (R434). -/
def Tap.reset : Tap := { st := .reset, ir := .idcode, irReg := [], drReg := [], cells := [] }

/-- The whole block. -/
structure State where
  pending  : List Instr
  freeIx   : Nat
  out      : List Emit
  dieCtr   : Sparse Word
  osc      : Sparse Osc
  cores    : Sparse Core
  clusters : Sparse Cluster
  stores   : Mem
  tags     : Sparse (BitVec 3)
  parts    : Sparse Partition
  fabric   : Fabric
  wardrobe : Wardrobe
  rel      : Rel
  sec      : Sec
  pwr      : Pwr
  mregs    : Sparse Word
  pattern  : Option Pattern
  tap      : Tap
  deriving DecidableEq, Repr

def Fabric.reset : Fabric :=
  { ports := [], reqs := [], waiting := [], ctrA := 0, ctrB := 0, routes0 := [], routes1 := [], doms0 := [],
    doms1 := [], abank := false, gateways := [], inbox := [], collPart := 0, collLeft := 0, nextMid := 0, noRoute := 0,
    tunDrop := 0, strays := [], badKinds := 0, badCodes := 0, paused := [] }

/-- The figures of unused flash: 3 of the 11 TiB of raw capacity are spare, 272 steps of 0.1 %
(DESIGN CHOICE, log 18). -/
def Wear.fresh : Wear :=
  { gbw := 0, gbp := 0, mec := 0, life := 0, spare := 272, uncor := 0, retry := 0 }

def Rel.reset : Rel :=
  { counts := [], changed := [], hbmDies := [], votes := [], nextVid := 1, kernels := [],
    badKern := [], fencedCores := [], fencedPanels := 0, fencedNyz := 0, fencedSvc := 0,
    fencedHost := 0, oosFences := 0, lifting := 0, prob := false, engResets := [], fwSilent := [],
    dph := 0, dcount := false, rcmd := [], drcnt := 0, prcnt := 0, oos := false, oosr := 0,
    bst := 0, bres := 0, hrseq := 0, lost := 0, lostNow := 0, evSec := 0, evCnt := 0, resets := 0, freshBoot := false }

def Sec.reset : Sec :=
  { owners := [], revokedImg := 0, isvc := 0, jtag := 0, flash := [], frun := none, kybuf := [],
    octal := false, flbuf := [], bstat := 0, pst := 1, icopy := false, pcopy := false, fwd := 0, patd := 0,
    isvn := 0, psvn := 0, ibump := false, irvk := 0, ikey := 0, pbump := false, powerBoot := false,
    mnonce := 0, idKey := none, ideIo := [], ideMem := [], sessKey := none, sessSeq := none,
    unlocked := false }

def Pwr.reset : Pwr :=
  { pwrEn := true, vinOk := true, rails := 2, blocked := false, pgood := true, resetN := false,
    onReset := true, perst0 := false, perst1 := false, faultN := true, fcause := 0, thermN := true,
    thermtripN := true, tmax := 0, vin := 0, thr := false, fmin := 850, refok := false,
    i3cAddr := none, chPower := [] }

/-- The block right after reset: power is good, `RESET_N` is still held low at the end of the
power-on hold (R422), every register reads its Reset column, no partition exists, OTP is unblown
and the boot flash is empty (log 8). -/
def State.reset : State :=
  { pending := [], freeIx := 0, out := [], dieCtr := [], osc := [], cores := [], clusters := [], stores := [],
    tags := [], parts := [], fabric := .reset,
    wardrobe := { wear := .fresh, saved := .fresh, blocks := [] }, rel := .reset, sec := .reset, pwr := .reset,
    mregs := [], pattern := none, tap := .reset }

end Sys2Proof.Machine
end

