-- ==== Sys2Proof/WellFormed.lean ====
section
/-! DEFINITION. Which commands name units that the device has: operand ranges from Tables 0-1, 0-6,
1-3, 14-3 and 14-8. A command outside them names nothing (log 3). -/

namespace Sys2Proof

/-- A global core number (R134). -/
def coreOk (g : Nat) : Bool := g < 10240

/-- A global cluster number (R134). -/
def clusterOk (h : Nat) : Bool := h < 640

/-- A partition number (Table 0-6). -/
def partOk (p : Nat) : Bool := p < 16

/-- A partition and a context of it (Table 0-6). -/
def ctxOk (p c : Nat) : Bool := p < 16 && c < 64

/-- A Nyzan port code (Table 8-1). -/
def portOk (p : Nat) : Bool := p < 18

/-- The port a message came in on; none for this module's own messages. -/
def viaOk : Option Nat → Bool
  | none => true
  | some p => portOk p

/-- Device and job fields are bounded by their types; an 8-bit type and status remain (Table 8-9). -/
def msgOk (m : Msg) : Bool := m.mtype < 256 && m.status < 256 && m.len < 2 ^ 28

/-- An engine of Table 1-1 by kind (Table 14-8); an array sequencer is named by its core in the
die, of which the unit index of Table 14-3 holds the low 8 bits (log 19). -/
def engineOk (e : EngineId) : Bool :=
  match e.kind with
  | 0 => e.die < 4 && e.inst < 160
  | 1 => e.die < 4 && e.inst < 2560
  | 2 => (e.die == 4 || e.die == 5) && e.inst < 8
  | 3 | 4 => e.die == 5 && e.inst == 0
  | 5 | 6 => (e.die == 4 || e.die == 5) && e.inst == 0
  | 7 => (e.die == 4 || e.die == 5) && e.inst < 8
  | _ => false

/-- A unit of Table 14-8 that a fence names. -/
def fenceUnitOk (ut idx : Nat) : Bool := ut < 16 && idx < 65536

/-- A memory error that a step met. -/
def memFaultOk : MemFault → Bool
  | .storeWord a => a < 0xF0280000
  | .storeFixed a => a < 0xF0280000
  | .cacheWord p _ l w _ => partOk p && l ≤ 16 && w < 32
  | .engineFixed e => engineOk e
  | .engineSram e => engineOk e
  | .hbm p _ b d _ => partOk p && b < 64 && d < 144

/-- A unit that `LAT_TOL` governs (Table 10-9). -/
def powerUnitOk : PowerUnit → Bool
  | .cluster h => clusterOk h
  | .channel p i => p < 16 && i < 24
  | .port c => portOk c

/-- Where a register write lands. -/
def spaceOk : RegSpace → Nat → Nat → Bool
  | .bar0 p, off, len => partOk p && off + len ≤ 0x1000000
  | .mgmt, off, len => off + len ≤ 0x100000000

/-- Whether a command names only units of the device. -/
def Instr.wf : Instr → Bool
  | .bundleIssue g fs => coreOk g && fs.all memFaultOk
  | .barCRelease h => clusterOk h
  | .barPRelease p c b => ctxOk p c && b < 16
  | .fenceComplete g | .watchdog g | .spLate g => coreOk g
  | .mmaDescriptorRead g | .mmaStart g | .mmaSegmentEnd g | .mmaComplete g | .auditCopy g => coreOk g
  | .dmaStart g _ | .dmaComplete g _ => coreOk g
  | .dmaTileTransfer g _ fs => coreOk g && fs.all memFaultOk
  | .hbmScrub p _ b d _ => partOk p && b < 64 && d < 144
  | .eviction p _ | .flashCopyComplete p _ | .flashFetchComplete p _ _ _ _ => partOk p
  | .wearSave => true
  | .wantHint p | .keepHint p | .unkeepHint p | .spareHint p | .evictHint p | .dropHint p
  | .hintRecordComplete p => partOk p
  | .flitTransmit p | .flitReceive p _ | .replayTimeout p | .hem p _ | .hemComplete p _ | .retrain p
  | .retrainComplete p _ => portOk p
  | .hold m => msgOk m
  | .rdReq v m | .rdRsp v m | .wrReq v m | .wrAck v m | .amoReq v m | .amoRsp v m => viaOk v && msgOk m
  | .requestDeadline _ _ | .tagReuse _ _ => true
  | .portNarrow p _ | .portSleep p _ | .portWake p => portOk p
  | .tunnelData d | .tunnelAck d => d.sp < 2
  | .tunnelResend _ => true
  | .serviceFrameReceive s _ => s < 2
  | .serviceFrameTransmit p s => partOk p && s < 2
  | .helloSend p | .discoveryTimeout p => portOk p
  | .hello p m => portOk p && msgOk m
  | .rtSwap => true
  | .load p g | .clear p g | .collectiveStart p g _ | .wlimTimeout p g _
  | .collectiveComplete p g _ => partOk p && g < 64
  | .collectiveSubmit p c h _ => ctxOk p c && clusterOk h
  | .ready v m | .dataR v m | .dataG v m | .abort v m | .collAck v m => viaOk v && msgOk m
  | .create p g | .grantPinned p g | .revoke p g | .revokeDrained p g => partOk p && g < 256
  | .tombstoneExpiry p _ => partOk p
  | .pmCreate | .pmDestroy | .park | .unpark | .debugOn | .debugOff => true
  | .parkComplete p | .unparkComplete p => partOk p
  | .start p c | .startComplete p c | .preempt p c | .preemptSaveComplete p c | .resume p c
  | .restoreComplete p c | .restart p c | .contextAbort p c | .release p c | .teardownComplete p c
  | .contextHalted p c | .dbRing p c _ | .teardownLimitExceeded p c => ctxOk p c
  | .functionLevelReset p => partOk p
  | .hostLinkDown h u => h < 2 && (u.getD 0) < 16
  | .getLdInfo q => q.port < 2
  | .getLdAllocations h | .setLdAllocations h _ => h < 2
  | .hostWindowRead p _ _ | .hostWindowWrite p _ _ | .hostRequestTimeout p _
  | .hostCompletion p _ _ _ => partOk p
  | .latTolWrite p _ => partOk p
  | .powerStateEntry u | .powerStateWake u => powerUnitOk u
  | .eset p _ | .sset p _ | .gset p _ => partOk p
  | .layoutRelease p s => partOk p && s < 2
  | .submit p | .planAbort p | .planResourcesFree p | .planDeadline p | .sealedTimeout p
  | .commitResend p _ | .digestScrub p _ => partOk p
  | .pull v m | .data v m | .tdone v m | .done v m | .commit v m | .fail v m => viaOk v && msgOk m
  | .pullRetry p _ | .digestReadback p _ | .transferTimeout p _ => partOk p
  | .seam p | .sreq p | .seamWindowExpiry p | .scaleRecordClose p => partOk p
  | .seamInPulse _ => true
  | .stash p | .stashComplete p _ | .fetch p | .fetchComplete p _ | .back p | .claim p | .keep p
  | .drop p | .watermarkDrop p => partOk p
  | .rmEnable p _ | .rmDisable p | .requestSubmit p | .requestCancel p | .stepRecordPublish p => partOk p
  | .stepRecordReceive v m => viaOk v && msgOk m
  | .knownAnswerKernel g k => coreOk g && k < 24
  | .kernelComplete g _ => coreOk g
  | .voteRecomputeComplete _ _ _ g1 g2 => coreOk g1 && coreOk g2
  | .voteNoneTimeout _ => true
  | .engineWatchdog e | .engineResetHang e | .engineResetComplete e => engineOk e
  | .heartbeatMiss p r => partOk p && r < 16
  | .faultAgentWatchdog | .managementAgentRestart => true
  | .preset p | .partitionResetComplete p | .partitionResetHang p => partOk p
  | .dreset | .deviceResetComplete | .deviceResetHang | .returnToService => true
  | .fence u i | .unfence u i => fenceUnitOk u i
  | .pset | .pclr | .run | .bistComplete _ | .bistConditionLost _ | .periodic | .wwinBucketRoll => true
  | .powerOnBoot | .securityCounterBump | .enroll _ | .transfer _ | .unlock _ | .erase64KiB
  | .program256Bytes => true
  | .jkCreate p s _ | .jkRequest p s _ | .jkIssue p s | .jkAccept p s | .jkErase p s => partOk p && s < 64
  | .hinowenReportObject p h _ _ | .spdmRequest p h _ => partOk p && h < 2
  | .ideKm h _ _ _ => h < 2
  | .glitch => true
  | .read _ | .write _ | .report _ | .session _ => true
  | .registerWrite sp off len _ => spaceOk sp off len
  | .pwrEnAssert | .pgoodRelease | .pwrEnDeassert | .vinUndervoltage | .vinOvervoltage
  | .resetNAssert _ | .resetNRelease => true
  | .perstAssert h | .perstRelease h => h < 2
  | .powerLimit _ _ | .thermalThreshold _ | .thermtrip | .setdasa _ | .entdaa _ => true
  | .resetHistoryAgeOut _ => true
  | .servicePortLinkUp s | .servicePortLinkDown s => s < 2
  | .hostLinkTrained h _ _ => h < 2
  | .flashCommandComplete | .undervoltageLockoutRelease | .vinOutOfRangeBeforePgood
  | .refokWrite _ => true
  | .panelRelease p => p < 16

end Sys2Proof
end

