-- ==== Sys2Proof/Machine/Ops.lean ====
section
/-! DEFINITION. The named operations that every family uses: sparse data and byte memories in their
canonical form, register words, free values, outward effects, events and violations, the partition
virtual range, semaphores, and the stop of a context by an exception (R48, R49, R231, R245). -/

namespace Sys2Proof.Machine

/-! ### Sparse data and memories -/

/-- The entry of key `i`, or the default. -/
def sget {α : Type} (d : α) : Sparse α → Nat → α
  | [], _ => d
  | (k, v) :: t, i => if k = i then v else sget d t i

/-- Writing key `i`: what lies before, the entry unless it is the default, what lies after. -/
def sset {α : Type} [DecidableEq α] (d : α) (m : Sparse α) (i : Nat) (v : α) : Sparse α :=
  m.filter (fun c => c.1 < i) ++ (if v = d then [] else [(i, v)]) ++ m.filter (fun c => i < c.1)

/-- Changing the entry of key `i`. -/
def smod {α : Type} [DecidableEq α] (d : α) (m : Sparse α) (i : Nat) (f : α → α) : Sparse α :=
  sset d m i (f (sget d m i))

/-- The value of an unlisted byte: zero (R146 for bolts; log 6 for the other memories). -/
def Mem.unlisted : Byte := 0

/-- The byte at an address. -/
def mget (m : Mem) (a : Nat) : Byte := sget Mem.unlisted m a

/-- Writing one byte. -/
def mset (m : Mem) (a : Nat) (b : Byte) : Mem := sset Mem.unlisted m a b

/-- The cells that `n` bytes list from address `a` on. -/
def cellsOf : Nat → List Byte → Mem
  | _, [] => []
  | a, b :: bs => if b = Mem.unlisted then cellsOf (a + 1) bs else (a, b) :: cellsOf (a + 1) bs

/-- Writing a run of bytes at `a`: what lies before, the run, what lies after. -/
def mput (m : Mem) (a : Nat) (bs : List Byte) : Mem :=
  m.filter (fun c => c.1 < a) ++ cellsOf a bs ++ m.filter (fun c => a + bs.length ≤ c.1)

/-- The `n` bytes at `a`. -/
def mread (m : Mem) (a n : Nat) : List Byte :=
  let seg := m.filter fun c => a ≤ c.1 && c.1 < a + n
  (List.range n).map fun i => mget seg (a + i)

/-- The little-endian number in the `n` bytes at `a`. -/
def mle (m : Mem) (a n : Nat) : Nat := le (mread m a n)

/-- The canonical form of a byte memory. -/
def Mem.wf (m : Mem) : Bool :=
  decide (m.Pairwise fun x y => x.1 < y.1) && m.all fun c => c.2 != Mem.unlisted

/-- Sparse data in their canonical form. -/
def sparseWf {α : Type} [DecidableEq α] (d : α) (m : Sparse α) : Bool :=
  decide (m.Pairwise fun x y => x.1 < y.1) && m.all fun c => decide (c.2 ≠ d)

/-! ### Outcomes -/

/-- A command that names only units of the device answers a next state (log 3). -/
def guarded (i : Instr) (t : State) : Host.Outcome State Fault Refusal :=
  if i.wf then .next t else .fault .noSuchUnit

/-- An event whose condition does not hold does not occur (log 2). -/
def when_ (c : Bool) (s t : State) : State := if c then t else s

/-! ### Access to the parts of the state -/

def partOf (s : State) (p : Nat) : Partition := sget .none_ s.parts p
def putPart (s : State) (p : Nat) (x : Partition) : State := { s with parts := sset .none_ s.parts p x }
def onPart (s : State) (p : Nat) (f : Partition → Partition) : State := putPart s p (f (partOf s p))

def coreOf (s : State) (g : Nat) : Core := sget .zero s.cores g
def putCore (s : State) (g : Nat) (x : Core) : State := { s with cores := sset .zero s.cores g x }
def onCore (s : State) (g : Nat) (f : Core → Core) : State := putCore s g (f (coreOf s g))

def clusOf (s : State) (h : Nat) : Cluster := sget .zero s.clusters h
def putClus (s : State) (h : Nat) (x : Cluster) : State :=
  { s with clusters := sset .zero s.clusters h x }
def onClus (s : State) (h : Nat) (f : Cluster → Cluster) : State := putClus s h (f (clusOf s h))

def portOf (s : State) (c : Nat) : Port := sget .down s.fabric.ports c
def putPort (s : State) (c : Nat) (x : Port) : State :=
  { s with fabric := { s.fabric with ports := sset .down s.fabric.ports c x } }
def onPort (s : State) (c : Nat) (f : Port → Port) : State := putPort s c (f (portOf s c))

def Partition.ctxOf (x : Partition) (c : Nat) : Ctx := sget .fresh x.ctxs c
def Partition.putCtx (x : Partition) (c : Nat) (y : Ctx) : Partition :=
  { x with ctxs := sset .fresh x.ctxs c y }

def ctxOf (s : State) (p c : Nat) : Ctx := (partOf s p).ctxOf c
def onCtx (s : State) (p c : Nat) (f : Ctx → Ctx) : State :=
  onPart s p fun x => x.putCtx c (f (x.ctxOf c))

/-- The word of a BAR0 register of a partition. -/
def Partition.reg (x : Partition) (off : Nat) : Word := sget (bar0Reg off).reset x.bar0 off

/-- A BAR0 register with another word. -/
def Partition.setReg (x : Partition) (off : Nat) (w : Word) : Partition :=
  { x with bar0 := sset (bar0Reg off).reset x.bar0 off w }

/-- Bits [hi:lo] of a BAR0 register. -/
def Partition.get (x : Partition) (off hi lo : Nat) : Nat := fld (x.reg off) hi lo

/-- A BAR0 register with other bits [hi:lo]. -/
def Partition.put (x : Partition) (off hi lo v : Nat) : Partition :=
  x.setReg off (setFld (x.reg off) hi lo v)

def reg (s : State) (p off hi lo : Nat) : Nat := (partOf s p).get off hi lo
def putReg (s : State) (p off hi lo v : Nat) : State := onPart s p fun x => x.put off hi lo v

/-- The word of a management register. -/
def mregOf (s : State) (a : Nat) : Word := sget (mgmtReg a).reset s.mregs a
def setMreg (s : State) (a : Nat) (w : Word) : State :=
  { s with mregs := sset (mgmtReg a).reset s.mregs a w }
def mreg (s : State) (a hi lo : Nat) : Nat := fld (mregOf s a) hi lo
def putMreg (s : State) (a hi lo v : Nat) : State := setMreg s a (setFld (mregOf s a) hi lo v)

/-! ### Free values and outward effects -/

/-- The k-th free value from here on (log 5). -/
def freeAt (s : State) (k : Nat) : Word := Config.freeWord (s.freeIx + k)

/-- `n` free values have been used. -/
def spend (s : State) (n : Nat) : State := { s with freeIx := s.freeIx + n }

/-- A free choice below `n`; 0 when there is none. -/
def freeBelow (s : State) (k n : Nat) : Nat := (freeAt s k).toNat % n

/-- Something driven outward. -/
def emit (s : State) (e : Emit) : State := { s with out := s.out ++ [e] }

/-- MSI-X vector `v` of logical device `p` is raised (R401, log 15). -/
def msix (s : State) (p v : Nat) : State :=
  emit (onPart s p fun x => { x with msix := setFld x.msix v v 1 }) (.msix p v)

/-- The vector of context `c` (Table 16-11). -/
def ctxVector (s : State) (p c : Nat) : State := msix s p (16 + c % 48)

/-- An event of row `i` of Table 16-9 in partition `p` (R399). -/
def errEvent (s : State) (p i : Nat) : State :=
  let s1 := putReg s p R.errEvents i i 1
  let s2 := putReg s1 p (R.errCnt i) 31 0 (satTo 32 (reg s1 p (R.errCnt i) 31 0 + 1))
  if reg s2 p R.errMask i i = 1 then msix s2 p 1 else s2

/-- A violation counted against partition `p` (R386). -/
def violation (s : State) (p : Nat) : State :=
  onPart s p fun x => { x with viol := BitVec.ofNat 32 (satTo 32 (x.viol.toNat + 1)) }

/-- A violation with no partition addressed (R386). -/
def devViolation (s : State) : State :=
  putMreg s M.pmDviol 31 0 (satTo 32 (mreg s M.pmDviol 31 0 + 1))

/-- One violation when `b` says that some part of an access was one. -/
def violationIf (b : Bool) (s : State) (p : Nat) : State := if b then violation s p else s

/-- The rate of an oscillator in the next microsecond, from a free word: within 1,000 ppm of nominal, and within 10 ppm
of every rate of the last second (R22). In ppb above -1,000 ppm. -/
def Osc.next (o : Osc) (f : Nat) : Nat :=
  let lo := o.rates.foldl max 0 - 10000
  let hi := o.rates.foldl min 2000000 + 10000
  if o.rates = [] then f % 2000001 else min 2000000 (lo + f % (min hi 2000000 + 1 - lo))

/-- What a counter gains in one nominal microsecond at a rate: 1,000 counts, less 1,000 ppm, plus the rate. -/
def Osc.gain (o : Osc) (r : Nat) : Nat := (o.frac % 1000000 + 999000000 + r) / 1000000

/-- The oscillator after that microsecond. -/
def Osc.run (o : Osc) (r : Nat) : Osc :=
  { frac := (o.frac % 1000000 + 999000000 + r) % 1000000, rates := (r :: o.rates).take 1000000 }

/-- The rate of a die's oscillator in the next microsecond. -/
def rateOf (s : State) (die : Nat) : Nat := (sget .zero s.osc die).next (freeAt s die).toNat

/-- What a die's counter gains in the next microsecond: 999 to 1,001 counts (R22). -/
def tickOf (s : State) (die : Nat) : Nat := (sget .zero s.osc die).gain (rateOf s die)

/-- Whether IO-A's counter enters another millisecond with the next microsecond. -/
def msEnds (s : State) : Bool :=
  let c := (sget 0 s.dieCtr 4).toNat
  decide (c / 1000000 < (c + tickOf s 4) / 1000000)

/-- Whether every service that acts for a LIVE partition marked in the millisecond that ends (R349): nothing here tells
(log 16), but none did while one of the firmware's cores restarts. -/
def beats (s : State) (p : Nat) : Bool :=
  msEnds s && (partOf s p).ptstate == 1 && bit (freeAt s (6 + p)) 0 && !s.rel.engResets.any fun e => e.kind == 7

/-- `HBEAT` counts one millisecond more. -/
def Partition.beat (x : Partition) : Partition := x.setReg R.errHbeat (x.reg R.errHbeat + 1)

/-- One nominal microsecond in which no command acts (log 1): the six local counters run on (R22), pauses of a service
port's priorities run out (R192), and heartbeats are counted (R349). Without power nothing does. -/
def idle (s : State) : State :=
  let ds := List.range 6
  if !s.pwr.pgood then s
  else spend { s with
    dieCtr := ds.foldl (fun m d => smod 0 m d fun w => w + BitVec.ofNat 64 (tickOf s d)) s.dieCtr
    osc := ds.foldl (fun m d => smod .zero m d fun o => o.run (rateOf s d)) s.osc
    parts := ((List.range 16).filter (beats s)).foldl (fun m p => smod .none_ m p Partition.beat) s.parts
    fabric := { s.fabric with
      paused := s.fabric.paused.foldl (fun m e => sset 0 m e.1 (e.2 - 1)) s.fabric.paused } } 22

/-! ### Firmware roles (R25) -/

/-- The roles of Table 1-7. -/
inductive CoreRole where
  | management | tailor | fault | migration | ringmaster
  deriving DecidableEq, Repr

/-- The role on a control core: cores 0 to 7 of IO-A are 0 to 7, those of IO-B 8 to 15 (Table 1-7). -/
def coreRole (core : Nat) : CoreRole :=
  match core with
  | 0 => .management
  | 1 => .tailor
  | 8 => .fault
  | 9 => .migration
  | _ => .ringmaster

/-! ### Panels and clusters -/

/-- The panels of a partition in ascending order. -/
def panelList (x : Partition) : List Nat := (List.range 16).filter fun i => bit x.panels i

/-- The panel of a global cluster (R15). -/
def panelOfCluster (h : Nat) : Nat := h % 160 / 10

/-- The global cluster of partition cluster index `i` (Table 10-2). -/
def clusterAt (x : Partition) (i : Nat) : Option Nat :=
  (panelList x)[i / 40]?.map fun pn => i % 40 / 10 * 160 + 10 * pn + i % 10

/-- Whether cluster `h` belongs to the partition. -/
def hasCluster (x : Partition) (h : Nat) : Bool := decide (h < 640) && bit x.panels (panelOfCluster h)

/-- The global clusters of a context, by context cluster index (Table 10-2). -/
def ctxClusters (x : Partition) (c : Nat) : List Nat :=
  (List.range (x.get (R.cxClus c) 41 32)).filterMap fun i =>
    clusterAt x (x.get (R.cxClus c) 9 0 + i)

/-- The 16 cores of a cluster. -/
def coresOf (h : Nat) : List Nat := (List.range 16).map fun k => 16 * h + k

/-- The cores of a context. -/
def ctxCores (x : Partition) (c : Nat) : List Nat := (ctxClusters x c).flatMap coresOf

/-- The `cid` layout of a global core number (Table 2-6). -/
def cidOf (g : Nat) : Nat := g / 2560 * 2 ^ 12 + g / 16 % 160 * 2 ^ 4 + g % 16

/-- The global core number that a `cid` names. -/
def coreOfCid (v : Nat) : Nat := nfld v 13 12 * 2560 + nfld v 11 4 * 16 + nfld v 3 0

/-- The context that holds the cluster of core `g`. -/
def holderOf (s : State) (g : Nat) : Option Holder := (clusOf s (g / 16)).holder

/-- This module's device ID (R196); 0 before a pattern is known. -/
def ownId (s : State) : DevId :=
  match s.pattern with
  | some t => t.dbase + BitVec.ofNat 18 (9 * t.board.toNat + t.position.toNat)
  | none => 0

/-! ### Unit events (R333) -/

/-- The key of a unit and class: class, unit type and index. -/
def unitKey (cls ut idx : Nat) : Nat := cls * 2 ^ 24 + ut * 2 ^ 20 + idx

def UnitCount.zero : UnitCount := { cnt := 0, wtot := 0, win := [] }

/-- `WWIN`, saturating. -/
def UnitCount.wwin (u : UnitCount) : Nat := satTo 32 u.win.sum

/-- The weight of a class, in `HREC`. -/
def weightOf (s : State) (cls : Nat) : Nat :=
  mreg s (M.hrWgt (cls / 4)) (16 * (cls % 4) + 15) (16 * (cls % 4))

/-- The warning level of a unit type, in `HREC`. -/
def warnOf (s : State) (ut : Nat) : Nat :=
  mreg s (M.hrHwarn (ut / 4)) (16 * (ut % 4) + 15) (16 * (ut % 4))

/-- `n` more events of weight `w`. -/
def UnitCount.add (u : UnitCount) (n w : Nat) : UnitCount :=
  { cnt := BitVec.ofNat 32 (satTo 32 (u.cnt.toNat + n))
    wtot := BitVec.ofNat 32 (satTo 32 (u.wtot.toNat + n * w))
    win := match u.win with
      | [] => if n * w = 0 then [] else [n * w]
      | b :: bs => (b + n * w) :: bs }

/-- An entry of a health record (Table 14-7), stamped with the counter of IO-A. -/
def healthEntry (s : State) (cls ut idx flg det : Nat) : List Byte :=
  let u := sget .zero s.rel.counts (unitKey cls ut idx)
  toLE 1 cls ++ toLE 1 ut ++ toLE 2 flg ++ toLE 4 idx ++ toLE 4 u.cnt.toNat ++ toLE 4 u.wtot.toNat
    ++ toLE 4 u.wwin ++ toLE 4 det ++ toLE 8 (4 * 2 ^ 61 + (sget 0 s.dieCtr 4).toNat % 2 ^ 61)

/-- One datagram of at most 40 entries (Table 14-7). -/
def healthSend (s : State) (kind : Nat) (entries : List (List Byte)) : State :=
  let q := s.rel.hrseq + 1
  let st := 4 * b2n s.rel.oos + 2 * b2n s.rel.prob + b2n s.rel.freshBoot
  let hdr := toLE 1 1 ++ toLE 1 kind ++ toLE 2 entries.length ++ toLE 4 (ownId s).toNat ++ toLE 4 q.toNat
    ++ toLE 1 st ++ toLE 1 4 ++ toLE 2 0 ++ toLE 8 (sget 0 s.dieCtr 4).toNat ++ toLE 4 s.rel.resets.toNat
    ++ toLE 4 s.rel.lostNow ++ zeros 16
  emit { s with rel := { s.rel with hrseq := q, lostNow := 0 } } (.health (hdr ++ entries.flatten))

/-- A health record (R344): as many datagrams as its entries need, at least one; with a zero
destination nothing is sent (Table 16-16). `fuel` bounds the datagrams. -/
def healthRecord (kind : Nat) : Nat → State → List (List Byte) → State
  | 0, s, _ => s
  | fuel + 1, s, es =>
    if mregOf s (M.hrDest 0) = 0 ∧ mregOf s (M.hrDest 1) = 0 then s
    else
      let s1 := healthSend s kind (es.take 40)
      if es.length ≤ 40 then s1 else healthRecord kind fuel s1 (es.drop 40)

/-- An EVENT record of one entry (R344): of at most 2,000 datagrams per second of IO-A's counter (log 115), entries
beyond which are counted as lost. -/
def eventRecord (s : State) (cls ut idx flg det : Nat) : State :=
  let sec := (sget 0 s.dieCtr 4).toNat / 1000000000
  let n := if s.rel.evSec = sec then s.rel.evCnt else 0
  if mregOf s (M.hrDest 0) = 0 ∧ mregOf s (M.hrDest 1) = 0 then s
  else if 2000 ≤ n then
    { s with rel := { s.rel with lost := BitVec.ofNat 32 (satTo 32 (s.rel.lost.toNat + 1)), lostNow := satTo 32 (s.rel.lostNow + 1) } }
  else
    healthRecord 2 1 { s with rel := { s.rel with evSec := sec, evCnt := n + 1 } } [healthEntry s cls ut idx flg det]

/-- The partition that holds a core, cluster or panel (R399). -/
def unitPart (s : State) (ut idx : Nat) : Option Nat :=
  let pn := match ut with
    | 1 => some (panelOfCluster (idx / 16))
    | 2 => some (panelOfCluster idx)
    | 3 => some idx
    | _ => none
  pn.bind fun q => (List.range 16).find? fun p => (partOf s p).ptstate != 0 && bit (partOf s p).panels q

/-- `n` events of class `cls` are charged to a unit (R333): counters, `HWARN` (R344, Table 16-9 bit
14), and an EVENT entry for every event while in probation (R346). -/
def chargeN (s : State) (cls ut idx n : Nat) : State :=
  let k := unitKey cls ut idx
  let u := sget .zero s.rel.counts k
  let u' := u.add n (weightOf s cls)
  let s1 := { s with rel := { s.rel with
    counts := sset .zero s.rel.counts k u'
    changed := if s.rel.changed.contains k then s.rel.changed else s.rel.changed ++ [k] } }
  let crossed := decide (u.wwin < warnOf s ut ∧ warnOf s ut ≤ u'.wwin)
  let s2 := if crossed || s.rel.prob then eventRecord s1 cls ut idx (2 * b2n crossed + b2n (!crossed)) 0 else s1
  if crossed then
    match unitPart s ut idx with
    | some p => errEvent s2 p 14
    | none => s2
  else s2

/-- One event. -/
def charge (s : State) (cls ut idx : Nat) : State := chargeN s cls ut idx 1

/-- Whether a partition exists (R223). -/
def exists_ (s : State) (p : Nat) : Bool := (partOf s p).ptstate != 0

/-! ### Flash (R158, R160) -/

/-- Life used, in 0.1 % steps: the larger of bytes written and mean erase count against rating
(Table 7-12: 28.5 PB, 3,500 cycles). -/
def lifeUsed (w : Wear) : Nat := max (w.gbw / 28500000000000) (w.mec * 1000 / 3500)

/-- Whether the Wardrobe accepts writes (R160). -/
def flashWritable (s : State) : Bool := decide (2 ≤ s.wardrobe.wear.spare)

/-- Vector 4 of every partition when `WARN` or `NOWR` becomes 1 (Table 16-11), and an EVENT record
(R344). -/
def wearVectors (s : State) (was : Wear) : State :=
  let now := s.wardrobe.wear
  let rises := decide ((10 ≤ was.spare ∧ now.spare < 10) ∨ (2 ≤ was.spare ∧ now.spare < 2))
  if rises then
    eventRecord (((List.range 16).filter (exists_ s)).foldl (fun t p => msix t p 4) s) 0x08 10 0 1 now.spare
  else s

/-- `n` events of a class, charged to a flash package of the layer's choice (Table 14-3). -/
def chargeFlash (s : State) (cls n : Nat) : State :=
  if n = 0 then s else chargeN (spend s 1) cls 10 (freeBelow s 0 4) n

/-- The flash blocks: 11 TiB of raw capacity, one for the 64 KiB of a bolt (log 18). -/
def flashBlocks : Nat := 184549376

def blockOf_ (s : State) (k : Nat) : FlashBlock := sget .fresh s.wardrobe.blocks k
def onBlock (s : State) (k : Nat) (f : FlashBlock → FlashBlock) : State :=
  { s with wardrobe := { s.wardrobe with blocks := smod .fresh s.wardrobe.blocks k f } }

/-- Changes the wear figures. -/
def onWear (s : State) (f : Wear → Wear) : State :=
  { s with wardrobe := { s.wardrobe with wear := f s.wardrobe.wear } }

/-- Whether a flash block holds the Wardrobe copy of a bolt (Table 7-7). -/
def blockUsed (s : State) (k : FlashBlock) : Bool :=
  match k.owner with
  | none => false
  | some o =>
    match (sget Bolt.unwritten (partOf s o.1).bolts o.2).st with
    | .hbmClean | .flash | .in_ => true
    | _ => false

/-- The erase count of the least-worn free blocks. -/
def leastErased (s : State) : Nat :=
  let l := s.wardrobe.blocks
  if l.length < flashBlocks then 0
  else ((l.filter fun e => !e.2.retired && !blockUsed s e.2).map (·.2.erases)).min?.getD 0

/-- One of the least-worn free blocks, of the layer's choice (R158). -/
def pickBlock (s : State) : Nat :=
  let w := freeBelow s 0 flashBlocks
  let least := leastErased s
  (((List.range (s.wardrobe.blocks.length + 1)).map fun i => (w + i) % flashBlocks).find? fun k =>
    let b := blockOf_ s k
    !b.retired && b.erases == least && !blockUsed s b).getD w

/-- The block that holds the copy of a bolt. -/
def blockFor (s : State) (p b : Nat) : Option Nat :=
  (s.wardrobe.blocks.find? fun e => e.2.owner == some (p, b)).map (·.1)

/-- The copy of a bolt is programmed into block `k`, which is erased first; no other block holds one. -/
def programBlock (s : State) (p b k : Nat) : State :=
  let s1 := match blockFor s p b with
    | some j => onBlock s j fun q => { q with owner := none }
    | none => s
  onBlock s1 k fun q => { q with owner := some (p, b), erases := q.erases + 1, reads := 0, hard := 0 }

/-- A block is retired (R158); the spare figure may fall by a step. -/
def retireBlock (s : State) (k : Nat) : State :=
  let s1 := onWear (onBlock s k fun q => { q with retired := true }) fun w => { w with spare := w.spare - freeBelow s 0 2 }
  chargeFlash (spend s1 1) 0x08 1

/-- The copy of a bolt is moved inside the layer, into block `k` (R158): bytes programmed, no bytes written. -/
def rewriteBlock (s : State) (p b k : Nat) : State :=
  onWear (programBlock s p b k) fun w => { w with gbp := w.gbp + 65536 }

/-- Wear levelling (R158): cold data leave the least-worn block in use for the most-worn free one when the erase counts of
two blocks differ by more than 200. -/
def levelWear (s : State) : State :=
  let l := s.wardrobe.blocks.filter fun e => !e.2.retired
  let cold := (l.filter fun e => blockUsed s e.2).foldl (fun (a : Option (Nat × FlashBlock)) e => match a with
    | some c => if e.2.erases < c.2.erases then some e else a
    | none => some e) none
  let worn := (l.filter fun e => !blockUsed s e.2).foldl (fun (a : Option (Nat × FlashBlock)) e => match a with
    | some c => if c.2.erases < e.2.erases then some e else a
    | none => some e) none
  match cold, worn with
  | some c, some w =>
    if c.2.erases + 200 < w.2.erases then
      match c.2.owner with
      | some o => rewriteBlock s o.1 o.2 w.1
      | none => s
    else s
  | _, _ => s

/-- A bolt has been written to flash (R158, R160): its bytes, a free amplification of at most 1.3, and the block that
takes it; a block that fails to program is retired first. -/
def programBolt (s : State) (p b : Nat) : State :=
  let was := s.wardrobe.wear
  let s1 := if freeBelow s 0 2 = 1 then retireBlock (spend s 2) (pickBlock (spend s 1)) else spend s 2
  let s2 := levelWear (spend (programBlock s1 p b (pickBlock s1)) 1)
  let s3 := onWear s2 fun w =>
    let w1 := { w with gbw := w.gbw + 65536, gbp := w.gbp + 65536 + freeBelow s2 0 19661, mec := w.mec + freeBelow s2 1 2 }
    { w1 with life := lifeUsed w1 }
  wearVectors (spend s3 2) was

/-- A bolt has been read from flash after `retries` retries (R153, R158): a block read 200,000 times is rewritten, one
that needed more than two retries again may be retired, its data moved first. -/
def readFlash (s : State) (p b retries : Nat) : State :=
  let s0 := if retries ≤ 2 then s
    else chargeFlash (onWear s fun w => { w with retry := w.retry + 1 }) 0x06 1
  match blockFor s0 p b with
  | none => s0
  | some k =>
    let s1 := onBlock s0 k fun q => { q with reads := q.reads + 1, hard := q.hard + b2n (decide (2 < retries)) }
    let q := blockOf_ s1 k
    let s2 := if 200000 ≤ q.reads then rewriteBlock (spend s1 1) p b (pickBlock s1) else s1
    if decide (2 < retries) && decide (2 ≤ q.hard) && freeBelow s2 0 2 == 1 then
      retireBlock (rewriteBlock (spend s2 2) p b (pickBlock (spend s2 1))) k
    else spend s2 1

/-! ### Bolts (R150-R154) -/

/-- Where the bolt range begins (Table 7-3). -/
def boltBase : Nat := 0x100000000

/-- Bytes of a bolt. -/
def boltSize : Nat := 0x10000

/-- Whether a partition virtual address lies in the base range, which only a plan writes (R273). -/
def inBase (x : Partition) (a : Nat) : Bool :=
  let b := x.get R.brBase 43 16 * boltSize
  decide (b ≤ a ∧ a < b + x.get R.brSize 31 0 * boltSize)

/-- The usable HBM of a partition in bolts (R137). -/
def usableBolts (x : Partition) : Nat :=
  let p := (panelList x).length
  16 * (p * 27648 - (p * 108 + cdiv (16 * (p * 27648) + x.qbolts) (16 * 16384) + p * 64))

def Partition.bolt (x : Partition) (b : Nat) : Bolt := sget .unwritten x.bolts b
def Partition.setBolt (x : Partition) (b : Nat) (y : Bolt) : Partition :=
  { x with bolts := sset .unwritten x.bolts b y }

/-- Whether a bolt holds an HBM frame (Table 7-7). -/
def Bolt.framed (b : Bolt) : Bool :=
  match b.st with
  | .hbmDirty | .hbmClean | .out | .in_ => true
  | .zero | .flash => false

/-- Whether a bolt holds a Wardrobe block (R150). -/
def Bolt.charged (b : Bolt) : Bool :=
  match b.st with
  | .hbmClean | .out | .flash | .in_ => true
  | .zero | .hbmDirty => false

/-- Whether a bolt is pinned by KEEP or by a grant. -/
def Bolt.pinned (b : Bolt) : Bool := b.keep || decide (0 < b.gpins)

/-- Whether a bolt may be chosen for eviction (R152, R292). -/
def Bolt.movable (b : Bolt) : Bool := !b.pinned && !b.gather

/-- Frames in use. -/
def framesUsed (x : Partition) : Nat := (x.bolts.filter fun e => e.2.framed).length

/-- Wardrobe blocks charged against Q. -/
def blocksUsed (x : Partition) : Nat := (x.bolts.filter fun e => e.2.charged).length

/-- Pinned bolts. -/
def pinnedCount (x : Partition) : Nat := (x.bolts.filter fun e => e.2.pinned).length

/-- Whether the quota takes one more block once clean bolts have released theirs (R152). -/
def quotaRoom (x : Partition) : Bool :=
  decide (blocksUsed x < x.qbolts) || x.bolts.any fun e => e.2.st == .hbmClean

/-- One more quota block, taken from a clean bolt if the quota is full (R152). -/
def releaseForQuota (x : Partition) : Partition :=
  if blocksUsed x < x.qbolts then x
  else match x.bolts.find? fun e => e.2.st == .hbmClean with
    | some e => x.setBolt e.1 { e.2 with st := .hbmDirty }
    | none => x

/-- Whether a bolt may be evicted at all: resident, unpinned and not on the move. -/
def evictable (y : Bolt) : Bool := (y.st == .hbmDirty || y.st == .hbmClean) && y.movable

/-- The class of an eviction candidate (R152): SPARE, then HBM_CLEAN, then the others. -/
def evictClass (y : Bolt) : Nat := if y.spare then 0 else if y.st == .hbmClean then 1 else 2

/-! ### The memory-side cache (R11, R15, R16, R140) -/

/-- Lines of 256 bytes are numbered: line i of tile t is 2 × (16t + i), and the line of a bolt's collars is 2b + 1. -/
def payloadLine (t i : Nat) : Nat := 2 * (16 * t + i)
def collarLine (b : Nat) : Nat := 2 * b + 1

/-- The bolt of a line. -/
def lineBolt (l : Nat) : Nat := if l % 2 = 0 then l / 512 else l / 2

/-- Entry k of a partition's list of channels (R138): panel and stack. -/
def channelAt (x : Partition) (k : Nat) : Nat × Nat :=
  let n := k % max (24 * (panelList x).length) 1
  ((panelList x).getD (n / 24) 0, n % 24 / 2)

/-- The channel of tile t of a resident bolt: tile j of frame f lies on entry 16f + j of the list (R138). -/
def tileChannel (x : Partition) (t : Nat) : Nat × Nat := channelAt x (16 * (x.bolt (t / 16)).frame + t % 16)

/-- The channel of a line; where collars lie in the device area is open. -/
def lineChannel (x : Partition) (l : Nat) : Nat × Nat :=
  if l % 2 = 0 then tileChannel x (l / 32) else channelAt x (Config.collarSpot (x.bolt (l / 2)).frame).toNat

/-- The compute die whose cache may hold a line: the one that drives its stack (R12, R16). -/
def lineDie (x : Partition) (l : Nat) : Nat := (lineChannel x l).2 / 3

/-- Lines of one way on one die: 6 MiB (R15). -/
def wayLines : Nat := 24576

/-- The slot that may hold a line: its die, the way of its panel, and its hashed set (R16, R140). -/
def cacheKey (x : Partition) (l : Nat) : Nat :=
  (lineDie x l * 16 + (lineChannel x l).1) * wayLines + (Config.cacheSet l).toNat % wayLines

/-- A line is read or written through the cache, which allocates it and writes back what stood in its slot. -/
def touchLine (wr : Bool) (x : Partition) (l : Nat) : Partition :=
  let k := cacheKey x l
  let c := sget CacheLine.empty x.cache k
  { x with cache := sset .empty x.cache k { line := some l, dirty := wr || (c.line == some l && c.dirty) } }

/-- An access to tile t of a resident bolt: its lines and its collar's pass through the cache, and the bolt's last access is
now (R140, R152). -/
def touchTile (wr : Bool) (x : Partition) (t : Nat) : Partition :=
  if !(x.bolt (t / 16)).framed then x
  else
    let y := (collarLine (t / 16) :: (List.range 16).map (payloadLine t)).foldl (touchLine wr) x
    { y.setBolt (t / 16) { y.bolt (t / 16) with seen := y.clock + 1 } with clock := y.clock + 1 }

/-- Accesses to tiles that read them. -/
def touchTiles (s : State) (p : Nat) (ts : List Nat) : State :=
  if ts = [] then s else onPart s p fun x => ts.foldl (touchTile false) x

/-- The lines of a bolt are written back. -/
def flushLines (x : Partition) (b : Nat) : Partition :=
  { x with cache := x.cache.map fun e =>
      (e.1, if e.2.line.any fun l => lineBolt l == b then { e.2 with dirty := false } else e.2) }

/-- The lines of a bolt are written back and invalidated (R140). -/
def dropLines (x : Partition) (b : Nat) : Partition :=
  { x with cache := x.cache.filter fun e => !(e.2.line.any fun l => lineBolt l == b) }

/-! ### Frames (R138, R150-R154) -/

/-- Free frames of a partition. -/
def freeFrames (x : Partition) : Nat := usableBolts x - framesUsed x

/-- `FREE_LOW` of all panels, in frames. -/
def freeLow (x : Partition) : Nat := x.get R.migFreelow 31 0 * (panelList x).length

/-- The engine restores `FREE_LOW` from when the free frames fall below it until they reach twice its number (R152). -/
def restoring (x : Partition) : Bool :=
  decide (freeFrames x < freeLow x) || (x.evicting && decide (freeFrames x < 2 * freeLow x))

/-- The number of free frames has changed. -/
def noteFrames (x : Partition) : Partition := { x with evicting := restoring x }

/-- A bolt without a frame: its lines are invalidated. -/
def leaveHbm (x : Partition) (b : Nat) (st : BoltState) : Partition :=
  noteFrames ((dropLines x b).setBolt b { x.bolt b with st := st, frame := 0 })

/-- A frame of the migration engine's free choice among those in no use (R138). -/
def pickFrame (s : State) (p : Nat) : Nat :=
  let x := partOf s p
  let n := max (usableBolts x) 1
  let w := freeBelow s 0 n
  let used := (x.bolts.filter fun e => e.2.framed).map (·.2.frame)
  (((List.range (used.length + 1)).map fun i => (w + i) % n).find? fun f => !used.contains f).getD w

/-- A bolt that had no frame takes one. -/
def giveFrame (s : State) (p b : Nat) (st : BoltState) : State :=
  spend (onPart s p fun x => noteFrames (x.setBolt b { x.bolt b with st := st, frame := pickFrame s p })) 1

/-- A bolt on its way out has been written to flash, and its frame is free. -/
def copiedOut (s : State) (p b : Nat) : State := programBolt (onPart s p fun x => leaveHbm x b .flash) p b

/-- The bolt whose frame is taken for another one when none is free: SPARE first, then clean ones, then others, the
least recently accessed first, as far as quota and flash allow the move (R152, R154). -/
def victim (s : State) (p b : Nat) : Option Nat :=
  let x := partOf s p
  let may := fun e : Nat × Bolt => e.1 != b && e.2.movable
    && (e.2.st == .hbmClean || e.2.st == .out || (e.2.st == .hbmDirty && flashWritable s && quotaRoom x))
  let before := fun u v : Bolt => evictClass u < evictClass v || (evictClass u == evictClass v && u.seen < v.seen)
  ((x.bolts.filter may).foldl (fun (a : Option (Nat × Bolt)) e => match a with
    | some c => if before e.2 c.2 then some e else a
    | none => some e) none).map (·.1)

/-- A frame is free for bolt `b`, if need be that of another bolt whose move to the Wardrobe runs to its end inside the
access that waits for it (log 18); none is NO_MEMORY. -/
def freeFrame (s : State) (p b : Nat) : Option State :=
  let x := partOf s p
  if framesUsed x < usableBolts x then some s
  else (victim s p b).map fun v =>
    match (x.bolt v).st with
    | .hbmClean => onPart s p fun y => leaveHbm y v .flash
    | .out => copiedOut s p v
    | _ => copiedOut (onPart s p releaseForQuota) p v

/-- The device itself reads or writes a bolt: one in the Wardrobe starts to come in, and the command that waits for it sees
its contents (log 18). -/
def readyRead (s : State) (p b : Nat) : Option State :=
  match ((partOf s p).bolt b).st with
  | .flash => (freeFrame s p b).map fun t => giveFrame t p b .in_
  | _ => some s

/-- A bolt made ready for a write by the device itself (Table 7-8); one that is coming in will be dirty. -/
def readyWrite (s : State) (p b : Nat) : Option State :=
  let to_ := fun (f : Bolt → Bolt) => onPart s p fun x => x.setBolt b (f (x.bolt b))
  match ((partOf s p).bolt b).st with
  | .hbmDirty => some s
  | .hbmClean | .out => some (to_ fun y => { y with st := .hbmDirty })
  | .in_ => some (to_ fun y => { y with wrote := true })
  | .zero => (freeFrame s p b).map fun t => giveFrame t p b .hbmDirty
  | .flash => (freeFrame s p b).map fun t =>
      onPart (giveFrame t p b .in_) p fun x => x.setBolt b { x.bolt b with wrote := true }

/-- Makes bolts ready one after the other; none is NO_MEMORY. -/
def readyAll (f : State → Nat → Nat → Option State) (s : State) (p : Nat) (bs : List Nat) : Option State :=
  bs.foldl (fun acc b => acc.bind fun t => f t p b) (some s)

/-! ### Tiles and collars (R145, R146, R148) -/

/-- The collar of a zero tile (R146). -/
def zeroCollar : Collar := BitVec.ofNat 128 zeroTileCrc

namespace Collar
def crc (c : Collar) : Nat := fld c 31 0
def fmt (c : Collar) : Nat := fld c 35 32
def scl (c : Collar) : Nat := fld c 37 36
def xovr (c : Collar) : Int := sext 8 (fld c 47 40)
def miss (c : Collar) : Bool := bit c 48
def accSat (c : Collar) : Bool := bit c 49
def auditFail (c : Collar) : Bool := bit c 50
def poison (c : Collar) : Bool := bit c 51
def stile (c : Collar) : Bool := bit c 52
def cbi (c : Collar) : Nat := fld c 62 56
def bind (c : Collar) : Nat := fld c 63 63
def bscale (c : Collar) : Nat := fld c 95 64
def nelem (c : Collar) : Nat := fld c 111 96
end Collar

/-- A collar with the fields of Table 7-6. -/
def mkCollar (crc fmt scl : Nat) (xovr : Int) (miss accSat auditFail poison stile : Bool)
    (cbi bind bscale nelem : Nat) : Collar :=
  BitVec.ofNat 128 (crc + (fmt + scl * 2 ^ 4) * 2 ^ 32 + wrapTo 8 xovr * 2 ^ 40 +
    (b2n miss + 2 * b2n accSat + 4 * b2n auditFail + 8 * b2n poison + 16 * b2n stile) * 2 ^ 48 +
    (cbi + bind * 2 ^ 7) * 2 ^ 56 + bscale * 2 ^ 64 + nelem % 2 ^ 16 * 2 ^ 96)

/-- Whether reserved bits and the reserved override of a collar are clear (R146). -/
def collarClean (c : Collar) : Bool :=
  fld c 39 38 == 0 && fld c 55 53 == 0 && fld c 127 112 == 0 && fld c 47 40 != 128

/-- A zero tile (R146). -/
def isZeroTile (payload : List Byte) (c : Collar) : Bool :=
  fld c 127 32 == 0 && payload.all (· == 0)

/-- The checks of R146 without the format check; entry 0 checks `CRC` only. -/
def crcOk (payload : List Byte) (c : Collar) : Bool := crc32c payload == c.crc

/-- The 4,096 payload bytes of tile `t` of the bolt range. -/
def tileBytes (x : Partition) (t : Nat) : List Byte := mread x.mem (4096 * t) 4096

/-- Its collar. -/
def tileCollar (x : Partition) (t : Nat) : Collar := sget zeroCollar x.collars t

/-- A tile written whole, payload and collar as one (R149). -/
def putTile (x : Partition) (t : Nat) (payload : List Byte) (c : Collar) : Partition :=
  let y := touchTile true x t
  { y with mem := mput x.mem (4096 * t) payload, collars := sset zeroCollar x.collars t c }

/-- Flags of a collar as (ACC_SAT, AUDIT_FAIL, POISON); a failing collar counts as POISON (R148). -/
def flagsOf (payload : List Byte) (c : Collar) : Bool × Bool × Bool :=
  (c.accSat, c.auditFail, c.poison || !crcOk payload c || !collarClean c)

/-- A write of bytes inside one tile as plain data (R148): `FMT` 0, kept flags when partial. -/
def plainTileWrite (x : Partition) (off : Nat) (bs : List Byte) (sat aud poi : Bool) : Partition :=
  let t := off / 4096
  let old := tileBytes x t
  let oc := tileCollar x t
  let part := decide (bs.length < 4096)
  let fs := flagsOf old oc
  let new := old.take (off % 4096) ++ bs ++ old.drop (off % 4096 + bs.length)
  putTile x t new (mkCollar (crc32c new) 0 0 0 false (sat || part && fs.1) (aud || part && fs.2.1)
    (poi || part && fs.2.2) false 0 0 0 0)

/-- The runs of `n` bytes at `a` cut at multiples of `unit`: (address, offset in the run, length). -/
def cutRuns (unit_ : Nat) : Nat → Nat → Nat → List (Nat × Nat × Nat)
  | 0, _, _ => []
  | fuel + 1, a, n =>
    if n = 0 then []
    else
      let k := min n (unit_ - a % unit_)
      (a, 0, k) :: (cutRuns unit_ fuel (a + k) (n - k)).map fun e => (e.1, e.2.1 + k, e.2.2)

/-- The runs that a span makes in tiles. -/
def tileRuns (a n : Nat) : List (Nat × Nat × Nat) := cutRuns 4096 (n / 4096 + 2) a n

/-! ### The partition virtual range (R134, R135, R440) -/

/-- What stands at an offset of the partition virtual range. -/
inductive PvKind where
  | store
  | table (writable : Bool)
  | bolt
  | outside
  deriving DecidableEq, Repr

/-- The kind of a partition virtual address, for a partition (Table 7-3, R135). -/
def pvKind (x : Partition) (a : Nat) : PvKind :=
  if a < 0xA0000000 then
    if hasCluster x (a / 0x400000) then .store else .outside
  else if a < 0xA0000000 + 640 * 0x200000 then
    if hasCluster x ((a - 0xA0000000) / 0x200000) then .store else .outside
  else if a < 0xF0000000 then .outside
  else if a < 0xF0280000 then
    if hasCluster x ((a - 0xF0000000) / 0x1000) then
      .table (decide (32 ≤ a % 0x1000 ∧ a % 0x1000 < 512)) else .outside
  else if a < boltBase then .outside
  else if a < boltBase + x.vbolts * boltSize then .bolt
  else .outside

/-- Where the window of Table 7-3 that holds a partition virtual address ends: an access that runs past it is a violation
there (R135). -/
def windowEnd (a : Nat) : Nat :=
  if a < 0xA0000000 then a / 0x40000 * 0x40000 + 0x40000
  else if a < 0xF0000000 then (a - 0xA0000000) / 0x200000 * 0x200000 + 0xA0200000
  else if a < boltBase then (a - 0xF0000000) / 0x1000 * 0x1000 + 0xF0001000
  else 2 ^ 44

/-- The byte at a partition virtual address; `none` where there is nothing (R135). -/
def pvByte (s : State) (x : Partition) (a : Nat) : Option Byte :=
  match pvKind x a with
  | .store => some (mget s.stores a)
  | .table w => some (if w then mget s.stores a else 0)
  | .bolt => some (mget x.mem (a - boltBase))
  | .outside => none

/-- A read by the device of `n` bytes at `a`, where `ok` says which addresses the requester may
address: the bytes, and whether some part was a violation (R440). -/
def pvPeek (s : State) (p : Nat) (ok : Nat → Bool) (a n : Nat) : List Byte × Bool :=
  let x := partOf s p
  let bs := (List.range n).map fun i => if ok (a + i) && decide (a + i < windowEnd a) then pvByte s x (a + i) else none
  (bs.map fun b => b.getD 0, bs.any fun b => b.isNone)

/-- The bolts that a span of partition virtual addresses touches. -/
def boltsOf (x : Partition) (a n : Nat) : List Nat :=
  if n = 0 then [] else
    let lo := (max a boltBase - boltBase) / boltSize
    let hi := (a + n - 1 - boltBase) / boltSize
    if a + n ≤ boltBase then [] else
      (List.range (hi + 1 - lo)).filterMap fun i => if lo + i < x.vbolts then some (lo + i) else none

/-- The tiles that a span of partition virtual addresses touches. -/
def tilesOfSpan (x : Partition) (a n : Nat) : List Nat :=
  if n = 0 ∨ a + n ≤ boltBase then [] else
    let lo := (max a boltBase - boltBase) / 4096
    let hi := (a + n - 1 - boltBase) / 4096
    (List.range (hi + 1 - lo)).filterMap fun i => if lo + i < 16 * x.vbolts then some (lo + i) else none

/-- A structure that the device reads (R440): bolts are brought in, violations counted. A span
that needs a frame that cannot be freed reads zero (log 18). -/
def devRead (s : State) (p a n : Nat) : List Byte × State :=
  let r := pvPeek s p (fun _ => true) a n
  match readyAll readyRead s p (boltsOf (partOf s p) a n) with
  | none => (zeros n, s)
  | some t => (r.1, violationIf r.2 (touchTiles t p (tilesOfSpan (partOf t p) a n)) p)

/-- The little-endian number that the device reads. -/
def devReadLE (s : State) (p a n : Nat) : Nat × State :=
  let r := devRead s p a n
  (le r.1, r.2)

/-- The tag key of a store address: its 8-byte word. -/
def tagKey (a : Nat) : Nat := a / 8

/-- Store words that a run touches take these tags. -/
def setTags (s : State) (a n tags : Nat) : State :=
  let ks := List.range ((a + n + 7) / 8 - a / 8)
  { s with tags := ks.foldl (fun m i => sset 0 m (a / 8 + i) (BitVec.ofNat 3 tags)) s.tags }

/-! ### Scale-record lists (R127, R395) -/

/-- The entries of the list that a value of `PC_SRL` names. -/
def listCount (w : Word) : Nat := min (fld w 62 48) 16384

/-- The address of entry `i` of that list. -/
def listEntry (w : Word) (i : Nat) : Nat := fld w 43 3 * 8 + 8 * i

/-! ### Code in the cluster store (R28, R29) -/

/-- The code region of the context that holds a cluster: first bundle and length. -/
def codeRegion (s : State) (hd : Holder) : Nat × Nat :=
  (reg s hd.part (R.cxCode hd.ctx) 14 0, reg s hd.part (R.cxCode hd.ctx) 47 32)

/-- Where bundle index `pc` lies in the cluster store of `h`. -/
def bundleAddr (h pc : Nat) : Nat := 0xA0000000 + h * 0x200000 + pc * 64

/-- Whether a DMA in flight has written a bundle of cluster `h` in part (R29): its destination run has reached into
the bundle and goes on. -/
def tornBundle (s : State) (h pc : Nat) : Bool :=
  s.cores.any fun e => e.2.dmas.any fun d =>
    !d.finished && decide (bundleAddr h pc < d.edge ∧ d.edge < bundleAddr h pc + 64)

/-- The bundle at index `pc` as the store holds it. -/
def bundleNow (s : State) (h pc : Nat) : Nat := mle s.stores (bundleAddr h pc) 64

/-- What a write of `n` bytes at `a` replaces in a code region: a bundle that stood whole remains a version for the
cores of its cluster until their next `ifl` (R29). -/
def noteCode (s : State) (a n : Nat) : State :=
  if a < 0xA0000000 ∨ n = 0 then s
  else
    let h := (a - 0xA0000000) / 0x200000
    match (clusOf s h).holder with
    | none => s
    | some hd =>
      let cr := codeRegion s hd
      let lo := (a - bundleAddr h 0) / 64
      let pcs := ((List.range ((a + n - 1 - bundleAddr h 0) / 64 + 1 - lo)).map (lo + ·)).filter fun pc =>
        decide (cr.1 ≤ pc ∧ pc < cr.1 + cr.2) && !tornBundle s h pc
      let add := fun (m : Sparse (List (BitVec 512))) pc => sset [] m pc (sget [] m pc ++ [BitVec.ofNat 512 (bundleNow s h pc)])
      if pcs = [] then s
      else (coresOf h).foldl (fun t g => onCore t g fun k => { k with mids := pcs.foldl add k.mids }) s

/-- Bytes written into the stores: what they replace of a code region is noted (R29). -/
def putStore (s : State) (a : Nat) (bs : List Byte) : State :=
  let t := noteCode s a bs.length
  { t with stores := mput t.stores a bs }

/-- One run of a device-internal write, inside one tile or one store window; `base` tells that it may write the base range
(R273). -/
def devWriteRun (base : Bool) (s : State) (p a : Nat) (bs : List Byte) : State × Bool :=
  let x := partOf s p
  match pvKind x a with
  | .store => (setTags (putStore s a bs) a bs.length 0, false)
  | .table w => (if w then { s with stores := mput s.stores a bs } else s, false)
  | .bolt =>
    if inBase x a && !base then (s, true)
    else match readyWrite s p ((a - boltBase) / boltSize) with
    | some t => (onPart t p fun y => plainTileWrite y (a - boltBase) bs false false false, false)
    | none => (errEvent s p 11, false)
  | .outside => (s, true)

/-- A structure that the device writes (R439, R440): a bolt run that needs a frame that cannot be
freed is dropped and counted, a violating part writes nothing and is counted. -/
def devWriteBy (base : Bool) (s : State) (p a : Nat) (bs : List Byte) : State :=
  let unit_ := if a < 0x100000000 then 32 else 4096
  let runs := cutRuns unit_ (bs.length / unit_ + 2) a bs.length
  let r := runs.foldl (fun acc e =>
    let w := if e.1 < windowEnd a then devWriteRun base acc.1 p e.1 ((bs.drop e.2.1).take e.2.2) else (acc.1, true)
    (w.1, acc.2 || w.2)) (s, false)
  violationIf r.2 r.1 p

/-- A write of the device that is no plan's over the base: one to the base range is a violation (R273). -/
def devWrite (s : State) (p a : Nat) (bs : List Byte) : State := devWriteBy false s p a bs

/-! ### Context state (R229, R231) -/

namespace Cs
def free : Nat := 0
def running : Nat := 1
def preempting : Nat := 2
def preempted : Nat := 3
def resuming : Nat := 4
def stopped : Nat := 5
def halted : Nat := 6
def teardown : Nat := 7
def ended : Nat := 8
end Cs

/-- `CSTATE` of a context. -/
def cstate (s : State) (p c : Nat) : Nat := reg s p (R.cxStat c) 3 0

/-- A change of `CSTATE`. -/
def setCstate (s : State) (p c v : Nat) : State := putReg s p (R.cxStat c) 3 0 v

/-- A command of the context completes: `LSTAT` is written and the vector raised (R231). -/
def lstat (s : State) (p c code : Nat) : State := ctxVector (putReg s p (R.cxStat c) 15 8 code) p c

/-! Exception codes, Table 2-17. -/

namespace Exc
def illegal : Nat := 0x01
def dupWrite : Nat := 0x02
def misalign : Nat := 0x03
def bounds : Nat := 0x04
def poisonLoad : Nat := 0x05
def semOvf : Nat := 0x06
def barMismatch : Nat := 0x07
def debugOnly : Nat := 0x08
def dmaFault : Nat := 0x09
def spLate : Nat := 0x0A
def watchdog : Nat := 0x0B
def fenced : Nat := 0x0C
def trap : Nat := 0x0D
def brk : Nat := 0x0E
end Exc

/-- `FSTAT` of a cause (R49). -/
def fstatOf (cause dmaStatus : Nat) : Nat :=
  if cause = Exc.dmaFault then dmaStatus
  else if cause = Exc.poisonLoad then Status.poison
  else if cause = Exc.spLate ∨ cause = Exc.watchdog then Status.timeout
  else if cause = Exc.fenced then Status.fenced
  else 0

/-- A core at the start of a tear-down (R245 steps 1 and 2): it stops, its arrays abandon their M
operations, its DMAs stop sending. -/
def Core.abandon (k : Core) : Core :=
  { k with
    run := if k.run = .halted then .halted else .stopped
    preReq := false
    mops := []
    dmas := k.dmas.map fun d => { d with aborted := true } }

/-- The collectives of a context are to end with a status (R245, R351); they end as R215 states at
their completion. -/
def markColls (x : Partition) (pick : Coll → Bool) (status : Nat) : Partition :=
  { x with colls := x.colls.map fun k =>
      if pick k && !k.ended then { k with aborted := true, statuses := k.statuses ++ [status] } else k }

/-- Tear-down of a context begins (R245); a command in progress ends with `interrupted` (R231). -/
def beginTeardown (s : State) (p c interrupted : Nat) (cause : Option Cause) : State :=
  let st := cstate s p c
  let s1 := if st = Cs.preempting ∨ st = Cs.resuming then lstat s p c interrupted else s
  let s2 := if st = Cs.preempted then s1
    else (ctxCores (partOf s p) c).foldl (fun t g => onCore t g Core.abandon) s1
  let s3 := onCtx s2 p c fun y => { y with cause := cause, more := 0 }
  setCstate (onPart s3 p fun x => markColls x (fun k => k.ctx == c) Status.aborted) p c Cs.teardown

/-- Taking an exception that faults a context: the ONE operation for every cause of Table 2-17 with
outcome "context fault". The first cause starts the tear-down; a later one that arrives before its
end counts as `MORE` (R48, R49, Table 10-4). -/
def contextFault (s : State) (p c : Nat) (cause : Cause) : State :=
  let st := cstate s p c
  if st = Cs.running ∨ st = Cs.stopped ∨ st = Cs.resuming then
    beginTeardown s p c Status.aborted (some cause)
  else if st = Cs.preempting then
    beginTeardown s p c (if cause.fcause = Exc.spLate then Status.timeout else Status.aborted) (some cause)
  else if st = Cs.teardown then
    onCtx s p c fun y => { y with more := min 65535 (y.more + 1) }
  else s

/-- A core raises a faulting exception (R48): its code is its last one (R400), and its context, if
its cluster is held, takes the fault. -/
def coreFault (s : State) (g cause pc ftag dmaStatus : Nat) : State :=
  let s1 := onCore s g fun k => { k with exc := BitVec.ofNat 8 cause }
  match holderOf s g with
  | some hd => contextFault s1 hd.part hd.ctx
      { fstat := fstatOf cause dmaStatus, fpc := pc % 32768, ftag := ftag, fcause := cause, fcid := cidOf g }
  | none => s1

/-- A core stops with its context kept: `trap` and `BRK` (R49, Table 10-4). While the context is
PREEMPTING the stop serves as the core's safe point and the save records STOPPED. -/
def coreStop (s : State) (g cause : Nat) (tcode : Option Nat) : State :=
  let s1 := onCore s g fun k => { k with exc := BitVec.ofNat 8 cause, run := .stopped, skip := true }
  match holderOf s g with
  | none => s1
  | some hd =>
    let s2 := match tcode with
      | some t => putReg s1 hd.part (R.cxStat hd.ctx) 31 16 t
      | none => s1
    if cstate s2 hd.part hd.ctx = Cs.running then
      let s3 := (ctxCores (partOf s2 hd.part) hd.ctx).foldl (fun t k => onCore t k fun q =>
        { q with run := if q.run = .issuing then .stopped else q.run }) s2
      ctxVector (setCstate s3 hd.part hd.ctx Cs.stopped) hd.part hd.ctx
    else if cstate s2 hd.part hd.ctx = Cs.preempting then
      onCore (onCtx s2 hd.part hd.ctx fun y => { y with stopReq := true }) g fun q => { q with atSafe := true }
    else s2

/-! ### Semaphores (R44, R234, R240) -/

/-- The waits of core `g`. -/
def waitsOf (s : State) (g : Nat) : List Wait :=
  match (coreOf s g).run with
  | .waiting ws => ws
  | _ => []

/-- The count that core `g` waits for on semaphore `sid`, if it does. -/
def semWaiting (s : State) (sid g : Nat) : Option Nat :=
  (waitsOf s g).findSome? fun w => match w with
    | .sem i n => if i = sid then some n else none
    | _ => none

/-- The run state that a core takes when its last wait ends: it issues unless its context is stopped. -/
def resumeRun (s : State) (g : Nat) : RunState :=
  match holderOf s g with
  | some hd => if cstate s hd.part hd.ctx = Cs.stopped then .stopped else .issuing
  | none => .issuing

/-- Ends the waits of core `g` that `done` picks. -/
def endWaits (s : State) (g : Nat) (done : Wait → Bool) : State :=
  match (coreOf s g).run with
  | .waiting ws =>
    let rest := ws.filter fun w => !done w
    onCore s g fun k => { k with run := if rest = [] then resumeRun s g else .waiting rest }
  | _ => s

/-- Whether a wait is for semaphore `sid`. -/
def isSemWait (sid : Nat) : Wait → Bool
  | .sem i _ => i == sid
  | _ => false

/-- Releases waiters of a semaphore of cluster `h` as long as the count allows, in a free order. -/
def semRelease (h sid : Nat) : Nat → State → State
  | 0, s => s
  | fuel + 1, s =>
    let cnt := (sget 0 (clusOf s h).sem sid).toNat
    let ready := (coresOf h).filter fun g =>
      !(coreOf s g).atSafe && match semWaiting s sid g with | some n => decide (n ≤ cnt) | none => false
    match ready[freeBelow s 0 ready.length]? with
    | none => s
    | some g =>
      let n := (semWaiting s sid g).getD 0
      let s1 := onClus (spend s 1) h fun q => { q with sem := sset 0 q.sem sid (BitVec.ofNat 16 (cnt - n)) }
      semRelease h sid fuel (endWaits s1 g (isSemWait sid))

/-- Adds `n` to a live semaphore that can take it, and releases waiters. -/
def semAdd (s : State) (h sid n : Nat) : State :=
  semRelease h sid 16 (onClus s h fun q =>
    { q with sem := sset 0 q.sem sid (BitVec.ofNat 16 ((sget 0 q.sem sid).toNat + n)) })

/-- A post to semaphore `sid` of context cluster `cli` from a source other than a core's `sem.post`
(R44, R234, R240): to the live count while the clusters are held, to the saved one after the save;
dropped and counted when it would overflow, or when there is no such cluster or no such state. -/
def postSem (s : State) (p c cli sid n : Nat) : State :=
  let st := cstate s p c
  let x := partOf s p
  if !(st == Cs.running || st == Cs.stopped || st == Cs.preempting || st == Cs.preempted || st == Cs.resuming) then
    errEvent s p 9
  else match (ctxClusters x c)[cli]? with
  | none => errEvent s p 9
  | some h =>
    match (x.ctxOf c).save with
    | some im =>
      let q : ClusterSave := sget { sem := [], barMask := 0, barArr := 0 } im.clusters cli
      let v := (sget 0 q.sem sid).toNat + n
      if 65535 < v then errEvent s p 9
      else
        let q' : ClusterSave := { q with sem := sset 0 q.sem sid (BitVec.ofNat 16 v) }
        let cs := sset { sem := [], barMask := 0, barArr := 0 } im.clusters cli q'
        onCtx s p c fun y => { y with save := some { im with clusters := cs } }
    | none =>
      if 65535 < (sget 0 (clusOf s h).sem sid).toNat + n then errEvent s p 9
      else semAdd s h sid n

end Sys2Proof.Machine
end

