-- ==== Sys2Proof/Machine/Fabric.lean ====
section
/-! DEFINITION. Messages and their ways (R163-R168, R176-R180, R188-R191, R203-R205): headers,
flits, virtual channels, encryption, routes, outstanding requests. -/

namespace Sys2Proof.Machine

/-! ### Identity -/

/-- The domain base. -/
def dbase (s : State) : Nat := ((s.pattern.map fun t => t.dbase.toNat)).getD 0

/-- The number of device IDs of the own domain. -/
def dcount (s : State) : Nat := ((s.pattern.map fun t => t.dcount)).getD 0

/-- The board's spare position: the one that the pattern names, 8 by default (R196). The device takes no action for it. -/
def sparePosition (s : State) : BitVec 4 := (s.pattern.bind (·.spare)).getD 8

/-- The I/O die of a port code: 0 IO-A (B0-B3, X0-X4), 1 IO-B (Table 1-3). -/
def ioDieOf (c : Nat) : Nat := if c < 4 ∨ (8 ≤ c ∧ c < 13) then 0 else 1

/-! ### Message types (Table 8-10) -/

namespace Mt
def rdReq : Nat := 0x01
def rdRsp : Nat := 0x02
def wrReq : Nat := 0x03
def wrAck : Nat := 0x04
def amoReq : Nat := 0x05
def amoRsp : Nat := 0x06
def coll : Nat := 0x07
def collAck : Nat := 0x08
def hold : Nat := 0x09
def mgmt : Nat := 0x0A
end Mt

/-- Whether a message type is reserved (Table 8-10). -/
def mtReserved (t : Nat) : Bool := t == 0 || 0x0A < t

/-- Whether a type is a request whose lack of a route is answered (R190). -/
def mtRequest (t : Nat) : Bool := t == Mt.rdReq || t == Mt.wrReq || t == Mt.amoReq

/-- The job class of a context (R166, `NY_JCLS`). -/
def jobClass (s : State) (p c : Nat) : Nat := reg s p (R.nyJcls (c / 32)) (2 * (c % 32) + 1) (2 * (c % 32))

/-- The virtual channel of a message (Table 8-6); for a WR_REQ the class of its context. -/
def vcOf (s : State) (m : Msg) : Nat :=
  if m.mtype = Mt.rdReq ∨ m.mtype = Mt.amoReq then 0
  else if m.mtype = Mt.rdRsp ∨ m.mtype = Mt.wrAck ∨ m.mtype = Mt.amoRsp ∨ m.mtype = Mt.collAck then 1
  else if m.mtype = Mt.coll then 2
  else if m.mtype = Mt.wrReq then 4 + jobClass s m.srcPart.toNat m.srcCtx.toNat
  else 3

/-- The 48 header bytes (Table 8-9). -/
def headerBytes (m : Msg) : List Byte :=
  toLE 1 m.mtype ++ toLE 1 m.status ++ toLE 2 m.tag.toNat ++ toLE 4 m.job.toNat ++ toLE 4 m.dst.toNat
  ++ toLE 4 (m.srcCtx.toNat * 2 ^ 23 + m.srcPart.toNat * 2 ^ 19 + b2n m.srcDie * 2 ^ 18 + m.src.toNat)
  ++ toLE 8 m.addr.toNat ++ toLE 2 m.len ++ toLE 2 m.epoch.toNat
  ++ toLE 1 (2 * b2n m.enc + b2n m.col) ++ toLE 1 (32 * b2n m.asz + m.aop.toNat) ++ toLE 2 0
  ++ toLE 8 m.ctr.toNat ++ toLE 8 0

/-- Whether a type carries no payload, whatever its `LEN` says (Table 8-10). -/
def mtBare (t : Nat) : Bool := t == Mt.rdReq || t == Mt.wrAck || t == Mt.hold

/-- All bytes of a message (R176). -/
def msgBytes (m : Msg) : List Byte := headerBytes m ++ m.payload ++ m.collar ++ m.gtag

/-- A message from its bytes. -/
def parseMsg (bs : List Byte) : Msg :=
  let src := leAt bs 0x0C 4
  let fl := leAt bs 0x1C 1
  let ao := leAt bs 0x1D 1
  let len := leAt bs 0x18 2 % 8192
  let col := nfld fl 0 0 == 1
  let enc := nfld fl 1 1 == 1
  let n := if col then 16 else 0
  let pay := if mtBare (leAt bs 0 1) then 0 else len
  { mtype := leAt bs 0 1, status := leAt bs 1 1, tag := BitVec.ofNat 16 (leAt bs 2 2)
    job := BitVec.ofNat 32 (leAt bs 4 4), dst := BitVec.ofNat 18 (leAt bs 8 4)
    srcCtx := BitVec.ofNat 6 (nfld src 28 23), srcPart := BitVec.ofNat 4 (nfld src 22 19)
    srcDie := nfld src 18 18 == 1, src := BitVec.ofNat 18 (nfld src 17 0)
    addr := BitVec.ofNat 44 (leAt bs 0x10 8), len := len, epoch := BitVec.ofNat 16 (leAt bs 0x1A 2)
    enc := enc, col := col, asz := nfld ao 5 5 == 1, aop := BitVec.ofNat 5 (nfld ao 4 0)
    ctr := BitVec.ofNat 64 (leAt bs 0x20 8), payload := slice bs 48 pay
    collar := slice bs (48 + pay) n, gtag := slice bs (48 + pay + n) (if enc then 16 else 0) }

/-- A byte string cut into payload areas of 248 bytes, the last filled with zeros (R165). -/
def payloadAreas : Nat → List Byte → List (List Byte)
  | 0, _ => []
  | n + 1, bs => slice bs 0 248 :: payloadAreas n (bs.drop 248)

/-- The device that hears of a held message: the source of a request, the destination of a response
(R172). -/
def heldFor (bs : List Byte) : Option DevId :=
  let t := leAt bs 0 1
  if mtRequest t then some (BitVec.ofNat 18 (leAt bs 0x0C 4))
  else if t == Mt.rdRsp || t == Mt.wrAck || t == Mt.amoRsp || t == Mt.collAck then
    some (BitVec.ofNat 18 (leAt bs 8 4))
  else if t == Mt.coll then some (BitVec.ofNat 18 (leAt bs 0x0C 4))
  else none

/-- The flits of a message (R165, R178); `mid` numbers the message within the router. -/
def flitsOf (mid vc : Nat) (dl : Bool) (bs : List Byte) : List Flit :=
  let n := cdiv bs.length 248
  let areas := payloadAreas n bs
  (List.range n).map fun i =>
    { ftype := if n = 1 then 4 else if i = 0 then 1 else if i + 1 = n then 3 else 2
      vc := vc, dl := dl, seq := 0, ack := 0, payload := areas.getD i [], held := heldFor bs
      hello := vc = 3 ∧ leAt bs 0 1 = Mt.mgmt ∧ leAt bs 48 1 = 1, mid := mid, home := none }

/-! ### Encryption (R179) -/

/-- The key that a partition holds for a job: that of a slot of its own that is KEYED for it (R17, R221, R379). -/
def partKey (x : Partition) (job : JobId) : Option (BitVec 256) :=
  x.jkeys.findSome? fun k => if k.2.st = 2 ∧ k.2.job = job then some k.2.key else none

/-- The key of a job on this module, which all partitions that hold it share (R379): for what arrives, and for the
responses to it. -/
def jobKey (s : State) (job : JobId) : Option (BitVec 256) := s.parts.findSome? fun e => partKey e.2 job

/-- The key under which a message leaves (R179): a request and a COLL message leave under the key of the partition that
issues them, a response under the job's. -/
def sendKey (s : State) (m : Msg) : Option (BitVec 256) :=
  if mtRequest m.mtype || m.mtype == Mt.coll then partKey (partOf s m.srcPart.toNat) m.job else jobKey s m.job

/-- The nonce of a message. -/
def nonceOf (m : Msg) : BitVec 96 :=
  BitVec.ofNat 96 (b2n m.srcDie * 2 ^ 18 + m.src.toNat + m.ctr.toNat * 2 ^ 32)

/-- A message sealed for the wire under its job's key; none without a key. -/
def sealMsg (s : State) (m : Msg) : Option Msg :=
  (sendKey s m).map fun k =>
    let m1 := { m with enc := true }
    let r := Config.gcmSeal k (nonceOf m1) (headerBytes m1) (m.payload ++ m.collar)
    { m1 with payload := r.1.take m.payload.length, collar := r.1.drop m.payload.length, gtag := r.2 }

/-- A message as the target reads it (R179): none when it is discarded. -/
def openMsg (s : State) (m : Msg) : Option Msg :=
  if m.enc then
    (jobKey s m.job).bind fun k =>
      (Config.gcmOpen k (nonceOf m) (headerBytes m) (m.payload ++ m.collar) m.gtag).map fun pt =>
        { m with payload := pt.take m.payload.length, collar := pt.drop m.payload.length, gtag := [] }
  else none

/-! ### Routes (R190, R203, R204) -/

/-- Whether a port is UP1 to UP4. -/
def portUp (s : State) (c : Nat) : Bool := 1 ≤ (portOf s c).pstate && (portOf s c).pstate ≤ 4

/-- Whether a message may take a port: UP1 to UP4, or SLEEP, where it wakes the port and waits (R190,
R425). -/
def portUsable (s : State) (c : Nat) : Bool := portUp s c || (portOf s c).pstate == 8

/-- The reset entry of the route table: LOCAL for the own ID, else INVALID (R203). -/
def routeReset (s : State) (i : Nat) : BitVec 32 :=
  if dbase s + i = (ownId s).toNat then 0x80000000 else 0

/-- An entry of a route bank. -/
def routeOf (s : State) (bank : Bool) (i : Nat) : BitVec 32 :=
  sget (routeReset s i) (if bank then s.fabric.routes1 else s.fabric.routes0) i

/-- A route bank entry written. -/
def setRoute (s : State) (bank : Bool) (i : Nat) (w : BitVec 32) : State :=
  let f := s.fabric
  if bank then { s with fabric := { f with routes1 := sset (routeReset s i) f.routes1 i w } }
  else { s with fabric := { f with routes0 := sset (routeReset s i) f.routes0 i w } }

/-- An entry of a domain bank. -/
def domainOf (s : State) (bank : Bool) (i : Nat) : BitVec 128 :=
  sget 0 (if bank then s.fabric.doms1 else s.fabric.doms0) i

/-- Where a message goes. -/
inductive Route where
  | here
  | port (c : Nat) (dla : Nat)
  | tunnel (sp : Nat) (gw : DevId)
  | nowhere
  deriving DecidableEq, Repr

/-- The route of a route table entry; `mask` limits the ports (R209). -/
def entryRoute (s : State) (mask : BitVec 18) (e : BitVec 32) : Route :=
  match fld e 31 30 with
  | 1 =>
    let ps := [(fld e 29 25, fld e 9 8), (fld e 24 20, fld e 7 6), (fld e 19 15, fld e 5 4), (fld e 14 10, fld e 3 2)]
    match ps.find? fun x => decide (x.1 < 18) && portUsable s x.1 && bit mask x.1 with
    | some x => .port x.1 x.2
    | none => .nowhere
  | 2 => .here
  | _ => .nowhere

/-- Whether an ID lies in the own domain. -/
def ownDomain (s : State) (d : DevId) : Bool :=
  decide (dbase s ≤ d.toNat ∧ d.toNat < dbase s + dcount s)

/-- The gateway of the domain that begins at `base`, by a service port, as the pattern names it (R194). -/
def tunnelPeer (s : State) (base sp : Nat) : Option TunnelPeer :=
  (s.pattern.map (·.peers)).bind fun l => l.find? fun e => e.base.toNat == base && e.sp == sp

/-- The route of a destination (R204), on ports of `mask`. The hash that picks the gateway picks the service port. -/
def routeTo (s : State) (mask : BitVec 18) (dst : DevId) : Route :=
  let bank := s.fabric.abank
  let own := fun d : DevId => entryRoute s mask (routeOf s bank (d.toNat - dbase s))
  if dst = ownId s then .here
  else if ownDomain s dst then own dst
  else
    let hit := (List.range 32).find? fun i =>
      let e := domainOf s bank i
      bit e 31 && decide (fld e 17 0 ≤ dst.toNat ∧ dst.toNat < fld e 17 0 + fld e 49 32)
    match hit with
    | none => .nowhere
    | some i =>
      let e := domainOf s bank i
      let gws := (if bit e 95 then [BitVec.ofNat 18 (fld e 81 64)] else [])
        ++ (if bit e 127 then [BitVec.ofNat 18 (fld e 113 96)] else [])
      let h := Config.routeHash dst.toNat
      let k := h % (max gws.length 1)
      let order := gws.drop k ++ gws.take k
      let out := match tunnelPeer s (fld e 17 0) (h % 2) with
        | some g => Route.tunnel (h % 2) g.dev
        | none => .nowhere
      let way := fun g : DevId => if g = ownId s then out else own g
      match order.find? fun g => way g != .nowhere with
      | some g => way g
      | none => .nowhere

/-- Whether a destination lies in another domain (R188, R204). -/
def otherDomain (s : State) (dst : DevId) : Bool := dst != ownId s && !ownDomain s dst

/-- `DL` after the dateline action of the port (Table 9-5). -/
def dateline (a : Nat) (dl : Bool) : Bool := if a = 1 then true else if a = 2 then false else dl

/-! ### Service-port frames (R192-R194) -/

/-- `SST` of a service port: 0 DOWN, 1 TRAINING, 2 UP, 3 FENCED (Table 16-18). -/
def sst (s : State) (p : Nat) : Nat := mreg s (M.ptSvc p) 1 0

/-- Whether a service port sends frames of a priority: it is UP and the priority is not paused (R192). -/
def svcSends (s : State) (n prio : Nat) : Bool := sst s n == 2 && sget 0 s.fabric.paused (8 * n + prio) == 0

/-- A big-endian field of `k` bytes. -/
def beBytes (k v : Nat) : List Byte := (toLE k v).reverse

/-- Whether the frame is UDP over IPv6. -/
def isUdp6 (f : List Byte) : Bool := slice f 12 2 == [0x86, 0xDD] && leAt f 20 1 == 17

/-- A big-endian 16-bit field. -/
def be16 (f : List Byte) (o : Nat) : Nat := leAt f o 1 * 256 + leAt f (o + 1) 1

/-- The sum of the 16-bit big-endian words of `n` bytes at `o`, an odd last byte padded with zero. -/
def wordSum (f : List Byte) (o n : Nat) : Nat :=
  let bs := slice f o n ++ (if n % 2 = 1 then [0] else [])
  ((List.range (bs.length / 2)).map fun i => be16 bs (2 * i)).sum

/-- Folds carries into 16 bits. -/
def foldSum : Nat → Nat → Nat
  | 0, v => v
  | n + 1, v => if v < 65536 then v else foldSum n (v / 65536 + v % 65536)

/-- The UDP checksum over IPv6 of a frame, its own field taken as zero (R193). -/
def udpChecksum (f : List Byte) : Nat :=
  let len := be16 f 58
  let body := wordSum f 54 len - be16 f 60
  let c := 65535 - foldSum 8 (wordSum f 22 32 + len + 17 + body)
  if c = 0 then 65535 else c

/-- A frame with its UDP checksum filled in. -/
def withChecksum (f : List Byte) : List Byte := f.take 60 ++ beBytes 2 (udpChecksum f) ++ f.drop 62

/-- A frame with its 802.1Q tag, padding to 60 bytes, and FCS (R193, R397). -/
def taggedFrame (prio vlan : Nat) (f : List Byte) : List Byte :=
  let b := f.take 12 ++ [0x81, 0x00] ++ beBytes 2 (prio * 8192 + vlan) ++ f.drop 12
  let padded := b ++ zeros (60 - b.length)
  padded ++ toLE 4 (flitCrc padded)

/-! ### The tunnel's sending side (R194, R195) -/

/-- The gateway state of a pair. -/
def Gateway.fresh : Gateway := { tseq := 0, tack := 0, unack := [], rx := [] }

/-- The gateway pair of a device. -/
def gatewayOf (s : State) (g : DevId) : Gateway := sget .fresh s.fabric.gateways g.toNat
def putGateway (s : State) (g : DevId) (x : Gateway) : State :=
  { s with fabric := { s.fabric with gateways := sset .fresh s.fabric.gateways g.toNat x } }

/-- The frame of a datagram to the gateway `gw` (Tables 8-18, 8-19); `kind` is 0 for DATA and 1 for ACK. The priority of
DATA is the number of its virtual channel (DEDUCED, log 135). -/
def tunnelFrame (s : State) (gw : DevId) (kind : Nat) (g : TunnelGram) : List Byte :=
  let t := s.pattern.getD default
  let e := (t.peers.find? fun e => e.dev == gw && e.sp == g.sp).getD default
  let flow := (Config.flowHash g.src.toNat g.dst.toNat).toNat
  let pay := toLE 1 1 ++ toLE 1 kind ++ toLE 2 g.flits.length ++ toLE 4 g.seq.toNat
    ++ toLE 4 (gatewayOf s gw).tack.toNat ++ toLE 3 (ownId s).toNat ++ [0] ++ g.flits.flatten
  let udp := beBytes 2 (49152 + (Config.portHash g.src.toNat g.dst.toNat).toNat) ++ beBytes 2 t.tunPort.toNat
    ++ beBytes 2 (8 + pay.length) ++ [0, 0] ++ pay
  let ip := beBytes 4 (6 * 2 ^ 28 + Config.tunnelClass.toNat * 2 ^ 20 + flow) ++ beBytes 2 udp.length ++ [17, 64]
    ++ beBytes 16 (t.tunIp.getD g.sp 0).toNat ++ beBytes 16 e.ip.toNat
  let eth := beBytes 6 e.mac.toNat ++ beBytes 6 (t.tunMac.getD g.sp 0).toNat ++ [0x86, 0xDD]
  taggedFrame g.vc t.tunVlan.toNat (withChecksum (eth ++ ip ++ udp))

/-- A datagram goes onto its service port if that sends; one that does not leave is resent under R195. -/
def sendGram (s : State) (gw : DevId) (kind : Nat) (g : TunnelGram) : State :=
  if svcSends s g.sp g.vc then emit s (.frame g.sp (tunnelFrame s gw kind g)) else s

/-- The 256 bytes of a flit (Tables 8-2 and 8-3). -/
def flitBytes (f : Flit) : List Byte :=
  let w := toLE 4 (f.ftype * 2 ^ 28 + f.vc * 2 ^ 25 + b2n f.dl * 2 ^ 24 + f.seq % 4096 * 2 ^ 12 + f.ack % 4096)
    ++ slice f.payload 0 248
  w ++ toLE 4 (flitCrc w)

/-- Groups of at most 32 flits, as many as one datagram carries. -/
def gramsOf : Nat → List Flit → List (List Flit)
  | 0, _ => []
  | n + 1, fs => if fs = [] then [] else fs.take 32 :: gramsOf n (fs.drop 32)

/-- A message's flits leave for the gateway `gw`, whole, with `SEQ`, `ACK` and `DL` zero; at most 256 datagrams stand
unacknowledged, and a further one waits (R194, R195). -/
def tunnelOut (s : State) (sp : Nat) (gw src dst : DevId) (fs : List Flit) : State :=
  (gramsOf fs.length fs).foldl (fun t l =>
    let q := gatewayOf t gw
    let g : TunnelGram :=
      { seq := q.tseq + 1, sp := sp, vc := (l.map (·.vc)).headD 0, src := src, dst := dst
        flits := l.map fun f => flitBytes { f with seq := 0, ack := 0, dl := false } }
    let t1 := putGateway t gw { q with tseq := g.seq, unack := q.unack ++ [g] }
    if q.unack.length < 256 then sendGram t1 gw 0 g else t1) s

/-! ### Sending -/

/-- A count in a field of a management register, saturating where it stops. -/
def bumpMreg (s : State) (a hi lo n : Nat) : State :=
  putMreg s a hi lo (satTo (hi + 1 - lo) (mreg s a hi lo + n))

/-- A message that R166 or R179 discards is counted: of a port in its registers, of a tunnel in a count of its own. -/
def countBadType (s : State) (via : Option Nat) : State :=
  match via with
  | some c => bumpMreg s (M.ptDrop c) 31 0 1
  | none => { s with fabric := { s.fabric with tunDrop := s.fabric.tunDrop + 1 } }

def countNoKey (s : State) (via : Option Nat) : State :=
  match via with
  | some c => bumpMreg s (M.ptDrop c) 63 32 1
  | none => { s with fabric := { s.fabric with tunDrop := s.fabric.tunDrop + 1 } }

/-- A response or COLL message without a usable port is discarded and counted (R190). -/
def countNoRoute (s : State) : State := { s with fabric := { s.fabric with noRoute := s.fabric.noRoute + 1 } }

/-- Whether R190 counts a message that finds no route: a response or a COLL message. -/
def mtCounted (t : Nat) : Bool :=
  t == Mt.rdRsp || t == Mt.wrAck || t == Mt.amoRsp || t == Mt.collAck || t == Mt.coll

/-- A new message number. -/
def newMid (s : State) : State := { s with fabric := { s.fabric with nextMid := s.fabric.nextMid + 1 } }

/-- A message of this module joins the queue of a port's virtual channel (R168). A fenced port sends nothing (R175). -/
def enqueue (s : State) (c vc : Nat) (dl : Bool) (bs : List Byte) : State :=
  if (portOf s c).pstate = 9 then s
  else onPort (newMid s) c fun q =>
    { q with txq := smod [] q.txq vc fun l => l ++ flitsOf (s.fabric.nextMid + 1) vc dl bs }

/-- A message reaches this module's own units. -/
def deliver (s : State) (m : Msg) : State :=
  emit { s with fabric := { s.fabric with inbox := s.fabric.inbox ++ [m] } } (.local_ m)

/-- The response that a request gets where no listed port is usable (R190), from the device `src`. -/
def fencedResponse (src : DevId) (m : Msg) : Msg :=
  { m with
    mtype := if m.mtype = Mt.rdReq then Mt.rdRsp else if m.mtype = Mt.wrReq then Mt.wrAck else Mt.amoRsp
    status := Status.fenced, dst := m.src, src := src, enc := false, col := false, payload := []
    collar := [], gtag := [], len := 0 }

/-- A message that was formed for the wire goes onto its way; without a usable port a request of this module is
answered FENCED, and a response or COLL message is discarded and counted (R190). -/
def routeOut (s : State) (mask : BitVec 18) (m wire : Msg) : State :=
  let vc := vcOf s m
  match routeTo s mask m.dst with
  | .here => deliver s m
  | .port c a => enqueue s c vc (dateline a false) (msgBytes wire)
  | .tunnel n g => if vc = 3 then s else tunnelOut s n g wire.src wire.dst (flitsOf 0 vc false (msgBytes wire))
  | .nowhere =>
    if mtRequest m.mtype && m.src == ownId s then deliver s (fencedResponse m.dst m)
    else if mtCounted m.mtype then countNoRoute s else s

/-- Every port may be used. -/
def anyPort : BitVec 18 := BitVec.allOnes 18

/-- The I/O die that issues a message to `dst`: that of the port it leaves on, S0 on IO-A and S1 on IO-B (Table 1-3). -/
def issueDie (s : State) (mask : BitVec 18) (dst : DevId) : Bool :=
  match routeTo s mask dst with
  | .port c _ => ioDieOf c == 1
  | .tunnel n _ => n == 1
  | _ => false

/-- The message counter of an I/O die, and its next value (R179). -/
def ctrOf (s : State) (die : Bool) : Word := if die then s.fabric.ctrB else s.fabric.ctrA
def countMsg (s : State) (die : Bool) : State :=
  if die then { s with fabric := { s.fabric with ctrB := s.fabric.ctrB + 1 } }
  else { s with fabric := { s.fabric with ctrA := s.fabric.ctrA + 1 } }

/-- An I/O die of this module sends a message (R179): inside the module in the clear, to a port with the next `CTR` of the
die, sealed under the job's key on every channel but VC3. A message for which there is no key cannot leave. -/
def sendOnDie (s : State) (mask : BitVec 18) (die : Bool) (m : Msg) : State :=
  if m.dst = ownId s then deliver s m
  else
    let m1 := { m with ctr := ctrOf s die, srcDie := die }
    if vcOf s m = 3 then routeOut (countMsg s die) mask m1 m1
    else match sealMsg s m1 with
      | none => s
      | some w => routeOut (countMsg s die) mask m1 w

def sendOn (s : State) (mask : BitVec 18) (m : Msg) : State := sendOnDie s mask (issueDie s mask m.dst) m
def sendMsg (s : State) (m : Msg) : State := sendOn s anyPort m

/-! ### Outstanding requests (R188, R189) -/

/-- A free tag of an I/O die; none when all 65,536 are taken. -/
def freeTag (s : State) (die : Bool) : Option (BitVec 16) :=
  let used := fun i : Nat => s.fabric.reqs.any fun r => r.die == die && r.tag == BitVec.ofNat 16 i
  ((List.range (min (s.fabric.reqs.length + 1) 65536)).find? fun i => !used i).map (BitVec.ofNat 16)

/-- The deadline of a request in µs (R188). -/
def deadlineOf (s : State) (p : Nat) (dst : DevId) : Nat :=
  if otherDomain s dst then 10 * reg s p R.nyTmo 15 8 else reg s p R.nyTmo 6 0

/-- A blank message of a type to an address. -/
def blankMsg (mtype : Nat) (job : JobId) (dst : DevId) (addr : Nat) : Msg :=
  { mtype := mtype, status := 0, tag := 0, job := job, dst := dst, srcCtx := 0, srcPart := 0
    srcDie := false, src := 0, addr := BitVec.ofNat 44 addr, len := 0, epoch := 0, enc := false
    col := false, asz := false, aop := 0, ctr := 0, payload := [], collar := [], gtag := [] }

/-- A request of context `c` of partition `p` leaves an I/O die: it takes a tag and becomes outstanding (R189).
Answers false where no tag is free. -/
def sendRequestOn (s : State) (mask : BitVec 18) (die : Bool) (p c : Nat) (kind : ReqKind) (m : Msg) : State × Bool :=
  match freeTag s die with
  | none => (s, false)
  | some t =>
    let m1 := { m with tag := t, srcDie := die, src := ownId s, srcPart := BitVec.ofNat 4 p
                       srcCtx := BitVec.ofNat 6 c }
    let r : Req := { die := die, tag := t, job := m.job, dst := m.dst, addr := m.addr, part := p, ctx := c
                     kind := kind, deadline := deadlineOf s p m.dst, extended := false, timedOut := false, mid := 0
                     fenced := false }
    let s1 := sendOnDie s mask die m1
    let n := if s1.fabric.nextMid = s.fabric.nextMid then 0 else s1.fabric.nextMid
    ({ s1 with fabric := { s1.fabric with reqs := s1.fabric.reqs ++ [{ r with mid := n }] } }, true)

/-- A message that waits at its die where no tag is free, and leaves when one frees (R189). -/
def sendWaiting (s : State) (mask : BitVec 18) (die : Bool) (p c : Nat) (kind : ReqKind) (m : Msg) : State :=
  let r := sendRequestOn s mask die p c kind m
  if r.2 then r.1
  else
    let w : WaitMsg := { mask := mask, die := die, part := p, ctx := c, kind := kind, msg := m }
    { s with fabric := { s.fabric with waiting := s.fabric.waiting ++ [w] } }

/-- The first message that waits at a die leaves, once a tag is free. -/
def sendWaited (s : State) (die : Bool) : State :=
  match s.fabric.waiting.find? fun w => w.die == die with
  | none => s
  | some w =>
    let s1 := { s with fabric := { s.fabric with waiting := s.fabric.waiting.erase w } }
    sendWaiting s1 w.mask w.die w.part w.ctx w.kind w.msg

/-- A request that leaves the die of its port. -/
def sendRequest (s : State) (mask : BitVec 18) (p c : Nat) (kind : ReqKind) (m : Msg) : State × Bool :=
  sendRequestOn s mask (issueDie s mask m.dst) p c kind m

/-- The response to a request: fields copied (Table 8-9). -/
def responseTo (s : State) (m : Msg) (mtype status : Nat) (payload collar : List Byte) : Msg :=
  { m with mtype := mtype, status := status, dst := m.src, src := ownId s, enc := false
           col := collar != [], payload := payload, len := payload.length, collar := collar, gtag := []
           ctr := 0 }

/-- The request that a response answers: `TAG`, `JOB`, `DST` and `ADDR` must match (Table 8-15). A FENCED answer may come
from a router on the way, which is not the request's destination (R190, log 134). -/
def findReq (s : State) (m : Msg) : Option Req :=
  s.fabric.reqs.find? fun r => r.tag == m.tag && r.job == m.job && (r.dst == m.src || m.status == Status.fenced)
    && r.addr == m.addr

/-- Removes an outstanding request. -/
def dropReq (s : State) (r : Req) : State :=
  { s with fabric := { s.fabric with reqs := s.fabric.reqs.filter fun x => !(x.die == r.die && x.tag == r.tag) } }

/-- A message arrives at its target: removed from the inbox if it stood there. -/
def takeInbox (s : State) (m : Msg) : State :=
  { s with fabric := { s.fabric with inbox := s.fabric.inbox.erase m } }

/-- Whether a message of port `c` may be taken: it stands received in the inbox, or the port carries traffic now. A fenced
port accepts nothing (R174, R175). -/
def portGives (s : State) (c : Nat) (m : Msg) : Bool := s.fabric.inbox.contains m || portUp s c

/-- A message of the fabric as its target takes it (R166, R179): from a port it must be sealed under
an installed key; from inside the module it is in the clear. None is a discard, counted per port. -/
def acceptMsg (s : State) (via : Option Nat) (m : Msg) : Option Msg × State :=
  let s0 := takeInbox s m
  match via with
  | none => (if m.enc then none else some m, s0)
  | some c =>
    if !portGives s c m then (none, s)
    else if mtReserved m.mtype then (none, countBadType s0 via)
    else
      match openMsg s m with
      | some x => (some x, s0)
      | none => (none, countNoKey s0 via)

end Sys2Proof.Machine
end

