-- ==== Sys2Proof/Machine/Links.lean ====
section
/-! DEFINITION. Nyzan ports and tunnels (R162-R175, R190, R194, R195, R425): flits with credits and
go-back-N retry, hemming, retrains, power states, datagrams. -/

namespace Sys2Proof.Machine

/-! ### Automatic routes and the plan -/

/-- The number of lanes of a set. -/
def laneCount (l : BitVec 4) : Nat := ((List.range 4).filter fun i => bit l i).length

/-- A one-hop entry by a port, written by the device (R205). -/
def autoEntry (c : Nat) : BitVec 32 :=
  BitVec.ofNat 32 (2 ^ 30 + c * 2 ^ 25 + 0x1F * 2 ^ 20 + 0x1F * 2 ^ 15 + 0x1F * 2 ^ 10 + 2)

/-- Whether a route entry is INVALID (Table 9-5; kind 3 is treated as INVALID). -/
def entryInvalid (e : BitVec 32) : Bool := fld e 31 30 == 0 || fld e 31 30 == 3

/-- A MATCH on a port gives its peer a one-hop entry where the active bank has none (R205). -/
def autoSet (s : State) (c : Nat) (dev : DevId) : State :=
  let i := dev.toNat - dbase s
  if ownDomain s dev && entryInvalid (routeOf s s.fabric.abank i) then
    setRoute s s.fabric.abank i (autoEntry c)
  else s

/-- A port leaves the UP states: every automatic entry that names it becomes INVALID (R205). -/
def autoClear (s : State) (c : Nat) : State :=
  let bank := s.fabric.abank
  let l := if bank then s.fabric.routes1 else s.fabric.routes0
  (l.filter fun e => bit e.2 1 && fld e.2 31 30 == 1 && fld e.2 29 25 == c).foldl
    (fun t e => setRoute t bank e.1 0) s

/-- The plan entry of a port as `PT_PLAN0` and `PT_PLAN1` hold it (R200, Table 9-3). -/
def planOf (s : State) (c : Nat) : PlanEntry :=
  let a := mregOf s (M.ptPlan c 0)
  let b := mregOf s (M.ptPlan c 1)
  { used := bit a 31, edev := BitVec.ofNat 18 (fld a 17 0), eboard := BitVec.ofNat 32 (fld a 63 32)
    epos := BitVec.ofNat 4 (fld b 3 0), eport := BitVec.ofNat 5 (fld b 12 8), emask := BitVec.ofNat 4 (fld b 19 16) }

/-! ### Messages under way (R165, R167, R191)

A message passes flit by flit. Each flit keeps its receive buffer until it has left on the port that its message takes, or
until the message is whole where it ends at this module; then the buffer's credit is due back to the sender. -/

/-- A receive buffer is free: its credit is due, as dedicated or shared as it was (R167). -/
def freeHome (s : State) (h : Home) : State :=
  onPort s h.port fun q =>
    if h.shared then
      { q with rxSh := smod 0 q.rxSh h.vc (· - 1), scredRx := (q.scredRx + 1) % 65536, lctl := true }
    else
      { q with
        rxDed := smod 0 q.rxDed (2 * h.vc + b2n h.dl) (· - 1)
        dcredRx := smod 0 q.dcredRx h.vc fun n => (n + 1) % 65536
        lctl := true }

def freeHomes (s : State) (l : List Home) : State := l.foldl freeHome s

/-- A flit joins a channel's queue behind the flits of its own message; `cur` is the message that the channel is amid, so
that the flits of one message leave back to back (R165). -/
def joinQueue (cur : Nat) (l : List Flit) (f : Flit) : List Flit :=
  match l.reverse.findIdx? fun g => g.mid == f.mid with
  | some k => l.take (l.length - k) ++ f :: l.drop (l.length - k)
  | none => if cur = f.mid then f :: l else l ++ [f]

/-- A flit under way joins the queue of the port it goes out on. -/
def passFlit (s : State) (c : Nat) (f : Flit) : State :=
  onPort s c fun q => { q with txq := smod [] q.txq f.vc fun l => joinQueue (sget 0 q.txOpen f.vc) l f }

/-- The flits of message `m` leave every queue, and no channel stays amid it. -/
def cutMid (s : State) (m : Nat) : State :=
  (List.range 18).foldl (fun t d =>
    let q := portOf t d
    let gone := q.txq.flatMap fun e => e.2.filter fun f => f.mid == m
    let t1 := onPort t d fun q =>
      { q with
        txq := q.txq.foldl (fun l e => sset [] l e.1 (e.2.filter fun f => f.mid != m)) q.txq
        txOpen := q.txOpen.filter fun e => e.2 != m }
    freeHomes t1 (gone.filterMap (·.home))) s

/-- Arriving messages that go out under a number of `ms` are discarded from here on. -/
def dropWays (ms : List Nat) (l : Sparse RxMsg) : Sparse RxMsg :=
  l.filter fun e => match e.2.way with
    | .out _ m _ => !ms.contains m
    | _ => true

/-- The messages of `ms` go no further on any port. -/
def dropMids (s : State) (ms : List Nat) : State :=
  let s1 := ms.foldl cutMid s
  let s2 := (List.range 18).foldl (fun t c => onPort t c fun q => { q with rx := dropWays ms q.rx }) s1
  { s2 with fabric := { s2.fabric with gateways := s2.fabric.gateways.map fun e => (e.1, { e.2 with rx := dropWays ms e.2.rx }) } }

/-- A message whose arrival breaks off is given up: its buffers are free, and what of it waits on another port is cut
(DESIGN CHOICE, log 132). -/
def stopRx (s : State) (r : RxMsg) : State :=
  let s1 := freeHomes s r.homes
  match r.way with
  | .out _ m _ => cutMid s1 m
  | _ => s1

/-- No flit under way counts as standing in a buffer of port `c` any more. -/
def forgetHomes (s : State) (c : Nat) : State :=
  let f := fun x : Flit => { x with home := x.home.filter fun h => h.port != c }
  (List.range 18).foldl (fun t d => onPort t d fun q => { q with txq := q.txq.map fun e => (e.1, e.2.map f) }) s

/-- The messages that a port is amid sending. -/
def openMids (q : Port) : List Nat := q.txOpen.map (·.2)

/-- The link of a port starts afresh: messages that arrive over it break off, those it is amid sending go no further, and
its receive buffers are empty. -/
def breakLink (s : State) (c : Nat) : State :=
  let s1 := (portOf s c).rx.foldl (fun t e => stopRx t e.2) s
  forgetHomes (dropMids s1 (openMids (portOf s1 c))) c

/-- The outstanding requests of the messages of `ms` have lost flits to a fence. -/
def markFenced (s : State) (ms : List Nat) : State :=
  { s with fabric := { s.fabric with reqs := s.fabric.reqs.map fun r => if ms.contains r.mid && r.mid != 0 then { r with fenced := true } else r } }

/-- A port is fenced (R175): it sends and accepts nothing, and what it holds to send is discarded. -/
def fencePort (s : State) (c : Nat) : State :=
  let q := portOf s c
  let mids := (q.txq.flatMap fun e => e.2.map (·.mid)).eraseDups
  let s1 := markFenced (autoClear s c) (mids ++ (q.replay.map (·.mid)).eraseDups)
  onPort (dropMids (breakLink s1 c) mids) c fun _ => { Port.down with pstate := 9 }

/-! ### Retrains (R173) -/

/-- A retrain begins: counted and charged, the port leaves the UP states. -/
def startRetrain (s : State) (c : Nat) : State :=
  let q := portOf s c
  if q.pstate = 9 then s
  else
    let s1 := charge (bumpMreg s (M.ptState c) 63 48 1) 0x0C 7 c
    let s2 := onPort (autoClear s1 c) c fun q =>
      { q with
        pstate := 6
        fails := 0
        prevPeer := if q.dres = 1 then some q.peer else q.prevPeer
        resend := []
        narrow := 0 }
    s2

/-- RETRAIN: commanded through `PCMD` (R173). A fenced port accepts nothing (R175). -/
def execRetrain (port : Nat) (s : State) : Host.Outcome State Fault Refusal :=
  guarded (.retrain port) (startRetrain s port)

/-- REPLAY_TIMEOUT: a sequenced flit stays unacknowledged (R170). -/
def execReplayTimeout (port : Nat) (s : State) : Host.Outcome State Fault Refusal :=
  guarded (.replayTimeout port) (when_ (portUp s port && (portOf s port).replay != []) s (startRetrain s port))

/-- RETRAIN_COMPLETE: with lanes, discovery begins afresh under the plan entry as it stands; without, it is tried twice
more and then the port is DOWN (R173, R198, R200). -/
def retrainComplete (s : State) (c : Nat) (lanes : BitVec 4) : State :=
  let q := portOf s c
  if q.pstate != 6 then s
  else if lanes = 0 then
    onPort s c fun q => { q with pstate := if 2 ≤ q.fails then 0 else 6, fails := q.fails + 1, lanes := 0 }
  else
    let n : BitVec 128 := (freeAt s 0 ++ freeAt s 1).cast rfl
    spend (onPort s c fun q =>
      { q with pstate := 7, fails := 0, lanes := lanes, dres := 0, nonce := n, echo := 0
               verified := false, seenMe := false, hellos := [], plan := planOf s c }) 2

def execRetrainComplete (port : Nat) (lanes : BitVec 4) (s : State) : Host.Outcome State Fault Refusal :=
  guarded (.retrainComplete port lanes) (retrainComplete s port lanes)

/-! ### Hemming (R171, R172) -/

/-- The devices whose held requests or responses stand at a port (R172). -/
def heldDevices (q : Port) : List DevId :=
  ((q.replay ++ q.txq.flatMap (·.2)).filterMap (·.held)).eraseDups

/-- One HOLD to a device over another working port; one that cannot be routed is discarded (R172). -/
def sendHold (s : State) (c : Nat) (d : DevId) : State :=
  let mask := setFld anyPort c c 0
  sendOn s mask { blankMsg Mt.hold 0 d 0 with src := ownId s }

/-- HEM: lanes are lost; both ends stop sending sequenced flits and HOLDs go out. The last lane's
loss is a retrain (R171, R173). -/
def hem (s : State) (c : Nat) (lost : BitVec 4) : State :=
  let q := portOf s c
  let gone := lost &&& q.lanes
  if !portUp s c || gone == 0 || q.narrow != 0 then s
  else if gone == q.lanes then startRetrain s c
  else
    let s1 := onPort (autoClear s c) c fun q => { q with pstate := 5 }
    (heldDevices q).foldl (fun t d => sendHold t c d) s1

def execHem (port : Nat) (lost : BitVec 4) (s : State) : Host.Outcome State Fault Refusal :=
  guarded (.hem port lost) (hem s port lost)

/-- HEM_COMPLETE: the kept lanes carry the link, the sender replays from the first
unacknowledged flit, and link control restates the credits (R171). -/
def hemComplete (s : State) (c : Nat) (kept : BitVec 4) : State :=
  let q := portOf s c
  let k := kept &&& q.lanes
  if q.pstate != 5 then s
  else
    let dropped := (List.range 4).filter fun i => bit q.lanes i && !bit k i
    let s1 := dropped.foldl (fun t i => charge t 0x0B 6 (c * 4 + i)) s
    if k = 0 then startRetrain s1 c
    else onPort s1 c fun q =>
      { q with pstate := laneCount k, lanes := k, resend := q.replay, ackOut := true, lctl := true }

def execHemComplete (port : Nat) (kept : BitVec 4) (s : State) : Host.Outcome State Fault Refusal :=
  guarded (.hemComplete port kept) (hemComplete s port kept)

/-- HOLD: deadlines not yet extended gain 64 µs (R172, Table 8-15). -/
def hold (s : State) (m : Msg) : State :=
  if m.mtype = Mt.hold ∧ m.dst = ownId s then
    let s1 := takeInbox s m
    let ext := fun r : Req => if r.extended || r.timedOut then r
      else { r with deadline := r.deadline + 64, extended := true }
    { s1 with fabric := { s1.fabric with reqs := s1.fabric.reqs.map ext } }
  else s

def execHold (m : Msg) (s : State) : Host.Outcome State Fault Refusal := guarded (.hold m) (hold s m)

/-! ### Sending flits (R167-R169) -/

/-- `SEQ` of the last flit received good and in order. -/
def ackOf (q : Port) : Nat := (q.rxNext + 4095) % 4096

/-- Whether a flit finds a dedicated credit, else a shared one (R167): its kind, 0 dedicated, 1 shared. -/
def creditFor (q : Port) (f : Flit) : Option Nat :=
  if sget 0 q.dedUsed (2 * f.vc + b2n f.dl) < 8 then some 0
  else if sget 0 q.shUsed f.vc < 1024 ∧ (q.shUsed.map (·.2)).sum < 1920 then some 1
  else none

/-- The queue of a virtual channel; 8 stands for the HELLOs, which travel on VC3. -/
def queueOf (q : Port) (v : Nat) : List Flit := if v = 8 then q.hellos else sget [] q.txq v

/-- The flit of a virtual channel that may leave next: the first of its queue, which belongs to the message that the channel
is amid, if it is amid one (R165). -/
def nextFlit (q : Port) (v : Nat) : Option Flit :=
  let cur := sget 0 q.txOpen (if v = 8 then 3 else v)
  (queueOf q v).head?.filter fun f => cur == 0 || cur == f.mid

/-- Whether a virtual channel has a flit that may leave against a credit (R167, R169). -/
def vcReady (q : Port) (v : Nat) : Bool :=
  match nextFlit q v with
  | some f => (creditFor q f).isSome && decide (q.replay.length < 2048)
  | none => false

/-- The weight of a virtual channel of the round robin (R168). -/
def vcWeight (s : State) (c v : Nat) : Nat :=
  let w := M.ptWgt c
  if v = 0 then mreg s w 3 0 else if v = 2 then mreg s w 11 8 else mreg s w (4 * v + 3) (4 * v)

/-- The channels of the round robin, from the one after `v` on. -/
def wrrOrder (v : Nat) : List Nat :=
  let l := [0, 2, 4, 5, 6, 7]
  let k := (l.findIdx? (· == v)).getD 0
  l.drop (k + 1) ++ l.take (k + 1)

/-- Whether a port carries nothing but HELLOs: its discovery is not a MATCH (R174, R202). -/
def helloOnly (q : Port) : Bool := q.pstate == 7 || q.pstate == 10

/-- The channel that sends next, with the round robin's place and what is left of its turn (R168). -/
def nextVc (s : State) (c : Nat) : Option (Nat × Nat × Nat) :=
  let q := portOf s c
  if vcReady q 8 then some (8, q.wrrVc, q.wrrLeft)
  else if helloOnly q then none
  else if vcReady q 3 then some (3, q.wrrVc, q.wrrLeft)
  else if vcReady q 1 then some (1, q.wrrVc, q.wrrLeft)
  else if q.wrrLeft ≠ 0 && vcReady q q.wrrVc then some (q.wrrVc, q.wrrVc, q.wrrLeft - 1)
  else ((wrrOrder q.wrrVc).find? (vcReady q)).map fun v => (v, v, vcWeight s c v - 1)

/-- A link-control flit: a NAK when one is due, and the running credit totals (Table 8-5). -/
def lctlFlit (q : Port) : Flit :=
  let nak := if q.nakOut then 0x8000 + q.rxNext else 0
  let creds := (List.range 8).flatMap fun v => toLE 2 (sget 0 q.dcredRx v)
  { ftype := 5, vc := 0, dl := false, seq := 0, ack := ackOf q
    payload := slice (toLE 2 nak ++ creds ++ toLE 2 q.scredRx) 0 248, held := none, hello := false, mid := 0, home := none }

/-- An IDLE flit, which carries `ACK` (Table 8-4). -/
def idleFlit (q : Port) : Flit :=
  { ftype := 0, vc := 0, dl := false, seq := 0, ack := ackOf q, payload := zeros 248, held := none, hello := false, mid := 0, home := none }

/-- A flit on the wire: 256 bytes and 14 of parity, byte `i` of the codeword on the `i mod n`-th of the `n` active lanes
(R164; where a codeword begins, log 132). -/
def codeword (q : Port) (f : Flit) : List (Nat × List Byte) :=
  let w := flitBytes f
  let cw := w ++ slice (Config.rsParity w) 0 14
  let ls := (List.range 4).filter fun i => bit q.lanes i
  ls.zipIdx.map fun e => (e.1, (cw.zipIdx.filter fun b => b.2 % ls.length == e.2).map (·.1))

/-- A flit leaves on a port. Any flit carries what is to be acknowledged. -/
def putFlit (s : State) (c : Nat) (f : Flit) : State :=
  emit (onPort s c fun q => { q with ackOut := false }) (.flit c (codeword (portOf s c) f))

/-- A flit of a channel leaves: numbered, kept for replay, charged to its credit; the receive buffer that it stood in is
free (R167, R169). -/
def sendData (s : State) (c v wv wl : Nat) : State :=
  let q := portOf s c
  match queueOf q v with
  | [] => s
  | f :: rest =>
    let f' := { f with seq := q.txNext, ack := ackOf q, home := none }
    let ded := creditFor q f == some 0
    let k := 2 * f.vc + b2n f.dl
    let more := f.ftype == 1 || f.ftype == 2
    let q' := { q with
      txq := if v = 8 then q.txq else sset [] q.txq v rest
      hellos := if v = 8 then rest else q.hellos
      txOpen := sset 0 q.txOpen f.vc (if more then f.mid else 0)
      txNext := (q.txNext + 1) % 4096
      replay := q.replay ++ [f']
      dedUsed := if ded then smod 0 q.dedUsed k (· + 1) else q.dedUsed
      shUsed := if ded then q.shUsed else smod 0 q.shUsed f.vc (· + 1)
      wrrVc := wv
      wrrLeft := wl }
    freeHomes (putFlit (putPort s c q') c f') f.home.toList

/-- The flits to resend: all of them on a port that carries traffic, only HELLOs before a MATCH (R173, R202). -/
def resendNext (q : Port) : Option (Flit × List Flit) :=
  match q.resend with
  | f :: rest => if helloOnly q && !f.hello then none else some (f, rest)
  | [] => none

/-- FLIT_TRANSMIT: a NAK first, then credits that are due, then flits to resend, then the next channel, else IDLE
(R168, R169; the place of link control is a DESIGN CHOICE, log 132). -/
def flitTransmit (s : State) (c : Nat) : State :=
  let q := portOf s c
  if !(portUp s c || q.pstate == 7 || (q.pstate == 10 && q.lanes != 0)) then s
  else if q.nakOut || q.lctl then
    let s1 := if q.nakOut then charge (bumpMreg s (M.ptReplay c) 63 32 1) 0x0A 7 c else s
    putFlit (onPort s1 c fun q => { q with nakOut := false, lctl := false }) c (lctlFlit q)
  else match resendNext q with
    | some (f, rest) => putFlit (onPort s c fun q => { q with resend := rest }) c { f with ack := ackOf q }
    | none => match nextVc s c with
      | some (v, wv, wl) => sendData s c v wv wl
      | none => putFlit s c (idleFlit q)

def execFlitTransmit (port : Nat) (s : State) : Host.Outcome State Fault Refusal :=
  guarded (.flitTransmit port) (flitTransmit s port)

/-! ### Receiving flits (R164, R166, R169, R170) -/

/-- The flits after an acknowledged one; all of them stay when `ack` names none (R169). -/
def afterAck (l : List Flit) (ack : Nat) : List Flit :=
  match l.findIdx? (fun f => f.seq == ack) with
  | some i => l.drop (i + 1)
  | none => l

/-- Acknowledged flits leave the replay buffer. -/
def takeAck (q : Port) (ack : Nat) : Port :=
  { q with replay := afterAck q.replay ack, resend := afterAck q.resend ack }

/-- A NAK: everything unacknowledged from the named `SEQ` is sent again (R169). -/
def takeNak (q : Port) (n : Nat) : Port :=
  match q.replay.findIdx? (fun f => f.seq == n) with
  | some i => { q with replay := q.replay.drop i, resend := q.replay.drop i }
  | none => if n = q.txNext then { q with replay := [], resend := [] } else q

/-- Credits of channel `v` returned up to a running total. Which dateline class a returned dedicated
credit belongs to is a free choice (log 5). -/
def takeDed (k : Nat) (q : Port) (v total : Nat) : Port :=
  let n := (total + 65536 - sget 0 q.dcred v) % 65536
  let u0 := sget 0 q.dedUsed (2 * v)
  let u1 := sget 0 q.dedUsed (2 * v + 1)
  let lo := n - min n u1
  let n0 := min u0 (lo + k % (min n u0 + 1 - min lo (min n u0)))
  { q with
    dcred := sset 0 q.dcred v total
    dedUsed := sset 0 (sset 0 q.dedUsed (2 * v) (u0 - n0)) (2 * v + 1) (u1 - (n - n0)) }

/-- Shared credits returned; which channel used them is a free choice (log 5). -/
def takeShared (ks : Nat → Nat) (q : Port) (total : Nat) : Port :=
  let n := (total + 65536 - q.scred) % 65536
  let one := fun (u : Sparse Nat) (i : Nat) =>
    match u[ks i % max u.length 1]? with
    | some e => sset 0 u e.1 (e.2 - 1)
    | none => u
  { q with scred := total, shUsed := (List.range n).foldl one q.shUsed }

/-- Link control (Table 8-5). -/
def takeLctl (s : State) (c : Nat) (f : Flit) : State :=
  let nak := leAt f.payload 0 2
  let q := portOf s c
  let q1 := if 0x8000 ≤ nak then takeNak q (nak % 4096) else q
  let q2 := (List.range 8).foldl (fun q v => takeDed (freeAt s v).toNat q v (leAt f.payload (2 + 2 * v) 2)) q1
  let q3 := takeShared (fun i => (freeAt s (8 + i)).toNat) q2 (leAt f.payload 18 2)
  spend (putPort s c q3) 8200

/-- Whether a VC3 message is a HELLO (Table 9-2). -/
def isHello (m : Msg) : Bool := m.mtype == Mt.mgmt && leAt m.payload 0 1 == 1

/-- A router's answer to a request in transit that finds no usable port (R190): sealed like every message that leaves
(R179), from this module. A module that holds no key of the job can send none (log 134). -/
def answerFenced (s : State) (m : Msg) : State :=
  sendOnDie s anyPort (issueDie s anyPort m.src) (fencedResponse (ownId s) m)

/-- The way of a message whose head a router takes (R190). -/
def routeWay (s : State) (vc : Nat) (m : Msg) : RxWay × State :=
  if m.dst = ownId s then (.gather, s)
  else match routeTo s anyPort m.dst with
    | .here => (.gather, s)
    | .port c a => (.out c (s.fabric.nextMid + 1) a, newMid s)
    | .tunnel n g => (if vc = 3 then .drop else .tunnel n g, s)
    | .nowhere =>
      (.drop, if mtRequest m.mtype then answerFenced s m else if mtCounted m.mtype then countNoRoute s else s)

/-- What becomes of a message, from its head flit (R166, R179, R190, R202): `via` is the port it comes in on, none for a
tunnel, which carries no VC3 (R194). -/
def headWay (s : State) (via : Option Nat) (vc : Nat) (m : Msg) : RxWay × State :=
  let q := (via.map (portOf s)).getD .down
  if mtReserved m.mtype then (.drop, countBadType s via)
  else if vc = 3 then
    if via.isNone then (.drop, s)
    else if m.enc then (.drop, countNoKey s via)
    else if isHello m then (.gather, s)
    else if q.dres != 1 then (.drop, s)
    else routeWay s vc m
  else if !m.enc then (.drop, countNoKey s via)
  else if via.any fun c => !portUp s c then (.drop, s)
  else routeWay s vc m

/-- A flit joins the message of its channel, `r`: a head gives it its way, and the last flit ends it (R165, R191). -/
def takeFlit (s : State) (via : Option Nat) (r : RxMsg) (home : Option Home) (f : Flit) : RxMsg × State :=
  let first := f.ftype == 1 || f.ftype == 4
  let last := f.ftype == 3 || f.ftype == 4
  let head := if first then headWay (stopRx s r) via f.vc (parseMsg f.payload) else (r.way, s)
  let x : RxMsg := if first then { RxMsg.idle with way := head.1, held := heldFor f.payload } else r
  let s1 := head.2
  match x.way with
  | .drop => (.idle, freeHomes s1 home.toList)
  | .gather =>
    let y := { x with bytes := x.bytes ++ f.payload, homes := x.homes ++ home.toList }
    if last then (.idle, deliver (freeHomes s1 y.homes) (parseMsg y.bytes)) else (y, s1)
  | .out c m a =>
    let g := { f with dl := dateline a f.dl, held := x.held, mid := m, home := home }
    (if last then .idle else x, passFlit s1 c g)
  | .tunnel n gw =>
    let y := { x with flits := x.flits ++ [f], homes := x.homes ++ home.toList
                      bytes := if first then f.payload else x.bytes }
    let m := parseMsg y.bytes
    if last then (.idle, tunnelOut (freeHomes s1 y.homes) n gw m.src m.dst y.flits) else (y, s1)

/-- The place of an arriving flit's message: its channel, 8 for a HELLO before a MATCH, which stands apart from what the
link held back. -/
def rxSlot (q : Port) (f : Flit) : Nat := if helloOnly q then 8 else f.vc

/-- A flit that is accepted joins its message. -/
def joinMsg (s : State) (c : Nat) (home : Option Home) (f : Flit) : State :=
  let k := rxSlot (portOf s c) f
  let r := takeFlit s (some c) (sget .idle (portOf s c).rx k) home f
  onPort r.2 c fun q => { q with rx := sset .idle q.rx k r.1 }

/-- The receive buffer that an arriving flit takes: a dedicated one of its channel and dateline class while one is free,
else a shared one (R167, log 132). -/
def homeFor (q : Port) (c : Nat) (f : Flit) : Option Home :=
  if sget 0 q.rxDed (2 * f.vc + b2n f.dl) < 8 then some { port := c, vc := f.vc, dl := f.dl, shared := false }
  else if sget 0 q.rxSh f.vc < 1024 ∧ (q.rxSh.map (·.2)).sum < 1920 then
    some { port := c, vc := f.vc, dl := f.dl, shared := true }
  else none

/-- A sequenced flit good and in order takes its buffer and joins its message (R167, R169). -/
def takeInOrder (s : State) (c : Nat) (h : Home) (f : Flit) : State :=
  let s1 := onPort s c fun q =>
    { q with
      rxNext := (q.rxNext + 1) % 4096
      discard := false
      ackOut := true
      rxDed := if h.shared then q.rxDed else smod 0 q.rxDed (2 * h.vc + b2n h.dl) (· + 1)
      rxSh := if h.shared then smod 0 q.rxSh h.vc (· + 1) else q.rxSh }
  joinMsg s1 c (some h) f

/-- A flit that is discarded: the first one calls for a NAK (R169). -/
def flitDiscard (s : State) (c : Nat) : State :=
  onPort s c fun q => { q with nakOut := q.nakOut || !q.discard, discard := true }

/-- A flit's fields from its 252 bytes before `FCRC`. -/
def parseFlit (bs : List Byte) : Flit :=
  let l := leAt bs 0 4
  { ftype := nfld l 31 28, vc := nfld l 27 25, dl := nfld l 24 24 == 1, seq := nfld l 23 12
    ack := nfld l 11 0, payload := slice bs 4 248, held := none, hello := false, mid := 0, home := none }

/-- Corrected bytes of one lane; every 1,000 of them make one LANE_FEC event (R164, Table 14-2). -/
def laneCorrected (s : State) (c lane n : Nat) : State :=
  let t := sget 0 (portOf s c).fec lane + n
  let s1 := onPort s c fun q => { q with fec := sset 0 q.fec lane (t % 1000) }
  if t / 1000 = 0 then s1
  else chargeN (bumpMreg s1 (M.ptLane c) (16 * lane + 15) (16 * lane) (t / 1000)) 0x09 6 (c * 4 + lane) (t / 1000)

/-- A sequenced flit with a good `FCRC` (R169). Before a MATCH only VC3 is taken; a HELLO's flit is taken there even
behind flits that a retrain holds back, without being acknowledged (R173, R202, log 132). -/
def takeSequenced (s : State) (c : Nat) (f : Flit) : State :=
  let q := portOf s c
  match homeFor q c f with
  | none => flitDiscard s c
  | some h =>
    if helloOnly q && f.vc != 3 then flitDiscard s c
    else if f.seq = q.rxNext then takeInOrder s c h f
    else if helloOnly q then joinMsg (flitDiscard s c) c none f
    else flitDiscard s c

/-- FLIT_RECEIVE (R164, R169, R170). A codeword of which more than 7 bytes would need correction is not corrected. -/
def flitReceive (s : State) (c : Nat) (w : RxCodeword) : State :=
  let q := portOf s c
  if !(portUp s c || q.pstate == 7 || q.pstate == 10) then s
  else
    match w.bytes with
    | none => flitDiscard s c
    | some bs =>
      if 7 < w.corr0 + w.corr1 + w.corr2 + w.corr3 then flitDiscard s c
      else
        let s1 := laneCorrected (laneCorrected (laneCorrected (laneCorrected s c 0 w.corr0) c 1 w.corr1) c 2 w.corr2) c 3 w.corr3
        if flitCrc (slice bs 0 252) != leAt bs 252 4 then flitDiscard s1 c
        else
          let f := parseFlit bs
          let s2 := onPort s1 c fun q => takeAck q f.ack
          if 5 < f.ftype then startRetrain s2 c
          else if f.ftype = 5 then takeLctl s2 c f
          else if f.ftype = 0 then s2
          else takeSequenced s2 c f

def execFlitReceive (port : Nat) (w : RxCodeword) (s : State) : Host.Outcome State Fault Refusal :=
  guarded (.flitReceive port w) (flitReceive s port w)

/-! ### Power states of a port (R247, R425) -/

/-- The smallest `LAT_TOL` over the existing partitions; zero where none exists would allow nothing. -/
def portLimit (s : State) : Nat :=
  let l := ((List.range 16).filter fun p => (partOf s p).ptstate != 0).map fun p => reg s p R.pcLattol 31 0
  l.foldl min (l.headD 0)

/-- A narrowed port keeps one lane, of a free choice, active; the others stay trained (R173, R425). -/
def narrow (s : State) (c : Nat) : State :=
  let q := portOf s c
  let ls := (List.range 4).filter fun i => bit q.lanes i
  let k := ls.getD (freeBelow s 0 ls.length) 0
  spend (onPort s c fun q => { q with pstate := 1, narrow := q.lanes, lanes := BitVec.ofNat 4 (2 ^ k) }) 1

/-- PORT_NARROW: an idle port that both ends allow to narrow (R425). -/
def execPortNarrow (port : Nat) (peer : Bool) (s : State) : Host.Outcome State Fault Refusal :=
  guarded (.portNarrow port peer) (
    when_ (peer && portUp s port && (portOf s port).narrow == 0 && decide (10 ≤ portLimit s)
      && (portOf s port).replay.isEmpty && (portOf s port).txq.isEmpty) s (narrow s port))

/-- Whether an entry that the device did not write names a port in the active route table (R425). -/
def routeNames (s : State) (c : Nat) : Bool :=
  (if s.fabric.abank then s.fabric.routes1 else s.fabric.routes0).any fun e =>
    fld e.2 31 30 == 1 && !bit e.2 1 &&
    (fld e.2 29 25 == c || fld e.2 24 20 == c || fld e.2 19 15 == c || fld e.2 14 10 == c)

/-- Whether some partition of this module holds a job key. -/
def anyJobKey (s : State) : Bool := s.parts.any fun e => e.2.jkeys.any fun k => k.2.st == 2

/-- PORT_SLEEP: the conditions of R425 hold at both ends. -/
def execPortSleep (port : Nat) (peer : Bool) (s : State) : Host.Outcome State Fault Refusal :=
  guarded (.portSleep port peer) (
    when_ (peer && portUp s port && decide (2000 ≤ portLimit s) && !anyJobKey s && !routeNames s port
      && (portOf s port).replay.isEmpty && (portOf s port).txq.isEmpty) s
      (onPort s port fun q =>
        { q with pstate := 8, lanes := if q.narrow = 0 then q.lanes else q.narrow, narrow := 0 }))

/-- A narrowed port widens and a sleeping one is UP again on its lanes (R424, R425). -/
def wakePort (s : State) (c : Nat) : State :=
  onPort s c fun q =>
    if q.narrow != 0 then { q with pstate := laneCount q.narrow, lanes := q.narrow, narrow := 0 }
    else if q.pstate = 8 then { q with pstate := laneCount q.lanes }
    else q

/-- PORT_WAKE -/
def execPortWake (port : Nat) (s : State) : Host.Outcome State Fault Refusal :=
  guarded (.portWake port) (wakePort s port)

/-! ### Tunnels between domains (R194, R195) -/

/-- Datagrams acknowledged by a `TACK` leave the list. -/
def tunnelAcked (l : List TunnelGram) (tack : BitVec 32) : List TunnelGram :=
  match l.findIdx? (fun e => e.seq == tack) with
  | some i => l.drop (i + 1)
  | none => l

/-- The checks of R195 on a datagram whatever its kind: it came on a working port, from a gateway that the pattern names. -/
def tunnelOk (s : State) (d : Datagram) : Bool :=
  d.tver == 1 && d.fcsOk && sst s d.sp == 2 && ((s.pattern.map (·.peers)).getD []).any fun e => e.dev == d.sgw

/-- A `TACK` releases datagrams, and as many that waited leave (R195). -/
def tunnelTake (s : State) (g : DevId) (tack : BitVec 32) : State :=
  let x := gatewayOf s g
  let rest := tunnelAcked x.unack tack
  let had := min 256 x.unack.length - (x.unack.length - rest.length)
  ((rest.take 256).drop had).foldl (fun t e => sendGram t g 0 e) (putGateway s g { x with unack := rest })

/-- One flit from the tunnel: it joins its message, which goes on under R190 flit by flit. -/
def tunnelFlit (g : DevId) (s : State) (bs : List Byte) : State :=
  let f := parseFlit bs
  let r := takeFlit s none (sget .idle (gatewayOf s g).rx f.vc) none f
  let x := gatewayOf r.2 g
  putGateway r.2 g { x with rx := sset .idle x.rx f.vc r.1 }

/-- An acknowledgement alone (R195). -/
def sendTack (s : State) (sp : Nat) (g : DevId) : State :=
  sendGram s g 1 { seq := Config.tunnelAckSeq, sp := sp, vc := Config.tunnelAckPrio.toNat, src := ownId s, dst := g, flits := [] }

/-- TUNNEL_DATA: in order and good, it is taken, its flits go to the router in order, and it is acknowledged; anything
else is discarded, unacknowledged (R195). -/
def tunnelData (s : State) (d : Datagram) : State :=
  let x := gatewayOf s d.sgw
  let good := d.flits.all fun w => flitCrc (slice w 0 252) == leAt w 252 4
  if tunnelOk s d && d.tkind == 0 && good && decide (1 ≤ d.flits.length ∧ d.flits.length ≤ 32)
      && d.tseq == x.tack + 1 then
    let s1 := tunnelTake (putGateway s d.sgw { x with tack := d.tseq }) d.sgw d.tack
    sendTack (d.flits.foldl (tunnelFlit d.sgw) s1) d.sp d.sgw
  else s

def execTunnelData (d : Datagram) (s : State) : Host.Outcome State Fault Refusal :=
  guarded (.tunnelData d) (tunnelData s d)

/-- TUNNEL_ACK: acknowledged datagrams are released (R195). -/
def tunnelAck (s : State) (d : Datagram) : State :=
  if tunnelOk s d && d.tkind == 1 then tunnelTake s d.sgw d.tack else s

def execTunnelAck (d : Datagram) (s : State) : Host.Outcome State Fault Refusal :=
  guarded (.tunnelAck d) (tunnelAck s d)

/-- TUNNEL_RESEND: everything from the first unacknowledged datagram goes out again (R195). -/
def tunnelResend (s : State) (g : DevId) : State :=
  ((gatewayOf s g).unack.take 256).foldl (fun t e => sendGram t g 0 e) s

def execTunnelResend (gw : DevId) (s : State) : Host.Outcome State Fault Refusal :=
  guarded (.tunnelResend gw) (tunnelResend s gw)

end Sys2Proof.Machine
end

