-- ==== Sys2Proof/Machine/MemErrors.lean ====
section
/-! DEFINITION. Memory errors (R139, R146, R147, R332): HBM read outcomes, uncorrectable store words,
tiles that fail their collar checks. -/

namespace Sys2Proof.Machine

def HbmDie.fresh : HbmDie := { blocks := [], uncor := [], failed := false }

/-- The error state of an HBM die replaced. -/
def putDie (s : State) (d : Nat) (x : HbmDie) : State :=
  { s with rel := { s.rel with hbmDies := sset .fresh s.rel.hbmDies d x } }

/-- `n` bytes that the spec leaves open. -/
def freeBytes (s : State) (n : Nat) : List Byte :=
  ((List.range (cdiv n 8)).flatMap fun i => toLE 8 (freeAt s i).toNat).take n

/-- The HBM die that an error of a tile's channel is charged to (Table 14-3): the stack is that of the channel (R138). -/
def dieOfTile (x : Partition) (t d : Nat) : Nat := (tileChannel x t).2 * 12 + d % 12

/-- A die takes the failed mark when it meets a condition of R139, once. -/
def markDie (s : State) (d : Nat) : State :=
  let x := sget .fresh s.rel.hbmDies d
  if !x.failed && (decide (256 ≤ x.blocks.length) || decide (2 ≤ x.uncor.length)) then
    charge (putDie s d { x with failed := true }) 0x05 5 d
  else s

/-- A tile keeps its payload as it is now read and its collar says POISON: `CRC` is computed over that payload, the other
fields are those of `old`, and a clean bolt becomes dirty (R139). -/
def markTile (x : Partition) (t : Nat) (pay : List Byte) (old : Collar) : Partition :=
  let y := putTile x t pay (setFld (setFld old 51 51 1) 31 0 (crc32c pay))
  let b := y.bolt (t / 16)
  if b.st = .hbmClean then y.setBolt (t / 16) { b with st := .hbmDirty } else y

/-- The payload of a tile with `n` free bytes at `off`, where a block or a word could not be corrected. -/
def brokenTile (s : State) (x : Partition) (t off n : Nat) : List Byte :=
  let pay := tileBytes x t
  pay.take off ++ freeBytes s n ++ pay.drop (off + n)

/-- One HBM read outcome (Table 7-4) on block `b` of tile `t` of partition `p`, charged to die `d0` of the stack of the
tile's channel. -/
def hbmEvent (s : State) (p t b d0 : Nat) (o : HbmOutcome) : State :=
  let d := dieOfTile (partOf s p) t d0
  let x := sget .fresh s.rel.hbmDies d
  let key := (p * 2 ^ 40 + t) * 64 + b
  match o with
  | .correctedOnDie => s
  | .correctedByController =>
    let x' := { x with blocks := (key, 0) :: x.blocks.filter fun e => e.1 != key }
    let s1 := putDie s d x'
    markDie (errEvent (charge s1 0x03 5 d) p 0) d
  | .uncorrectablePayload | .uncorrectableCollar =>
    let x' := { x with uncor := 0 :: x.uncor }
    let s1 := putDie s d x'
    let s2 := markDie (errEvent (charge s1 0x04 5 d) p 1) d
    let q := partOf s2 p
    if o = .uncorrectableCollar then putPart s2 p (markTile q t (tileBytes q t) 0)
    else spend (putPart s2 p (markTile q t (brokenTile s2 q t (64 * (b % 64)) 64) (tileCollar q t))) 8

/-- An SRAM word of the memory-side cache, in payload line `l` of tile `t` or for `l` = 16 in its collar's line (R332):
corrected, or its tile reads as POISON from now on (log 129). A line that is not in the cache has no error. -/
def cacheEvent (s : State) (p t l word : Nat) (hard : Bool) : State :=
  let x := partOf s p
  let ln := if l < 16 then payloadLine t l else collarLine (t / 16)
  let die := lineDie x ln
  if (sget CacheLine.empty x.cache (cacheKey x ln)).line != some ln then s
  else if !hard then charge s 0x01 4 die
  else
    let s1 := errEvent (charge s 0x02 4 die) p 1
    let q := partOf s1 p
    if l < 16 then spend (putPart s1 p (markTile q t (brokenTile s1 q t (256 * l + 8 * (word % 32)) 8) (tileCollar q t))) 1
    else putPart s1 p (markTile q t (tileBytes q t) 0)

/-- The unit that a store word belongs to (Table 14-3): a core or a cluster. -/
def storeUnit (a : Nat) : Nat × Nat :=
  if a < 0xA0000000 then (1, a / 0x40000) else (2, (a - 0xA0000000) / 0x200000)

/-- An uncorrectable word of a core or cluster store: its P tag is set (R139, R332). -/
def storeEvent (s : State) (a : Nat) : State :=
  let s1 := { s with tags := smod 0 s.tags (tagKey a) fun t => t ||| 1 }
  let u := storeUnit a
  let s2 := charge s1 0x02 u.1 u.2
  match unitPart s2 u.1 u.2 with
  | some p => errEvent s2 p 1
  | none => s2

/-- A tile of partition `p` failed its collar checks (R146): counted, and charged to the panel whose
channel held it. -/
def tileFailed (s : State) (p t : Nat) : State :=
  charge (errEvent s p 2) 0x0E 3 (tileChannel (partOf s p) t).1

/-- A reader of tiles that interprets nothing checks their `CRC` and counts those that fail (R146). -/
def checkTiles (s : State) (p : Nat) (ts : List Nat) : State :=
  ts.foldl (fun u t => if crcOk (tileBytes (partOf u p) t) (tileCollar (partOf u p) t) then u else tileFailed u p t) s

/-! Vote outcomes, `VOUT` (Table 16-8). -/

namespace Vout
def checker : Nat := 1
def original : Nat := 2
def split : Nat := 3
def none_ : Nat := 4
def aborted : Nat := 5
end Vout

/-- An outcome is entered in the partition's `ERR` view and sent as an EVENT record of the
class charged and the original core (R343). -/
def voteResult (s : State) (p : Nat) (vid : BitVec 32) (code cls core : Nat) : State :=
  let s1 := if p < 16 then
      errEvent (onPart s p fun x => x.setReg R.errVote (BitVec.ofNat 64 (vid.toNat * 2 ^ 32 + code))) p 8
    else s
  eventRecord s1 cls 1 core 1 (vid.toNat * 8 + code)

end Sys2Proof.Machine
end

