-- ==== Sys2Proof/Machine/HostMem.lean ====
section
/-! DEFINITION. Accesses to the bolt range from outside the cores: stalls on bolts (R151, R153,
R154), host windows (R227, R228), what a fenced panel or a lost key does to them (R345, R387). -/

namespace Sys2Proof.Machine

/-- Whether a partition holds a fenced panel: an access to any of its bolts is FENCED (Table 14-8). -/
def panelFenced (s : State) (p : Nat) : Bool := ((partOf s p).panels &&& s.rel.fencedPanels) != 0

/-! ### Stalls (R151, R153) -/

/-- Whether an access to bolt `b` stalls. -/
def stalls (x : Partition) (b : Nat) : Bool :=
  match (x.bolt b).st with
  | .flash | .in_ => true
  | _ => false

/-- A fetch of a bolt in the Wardrobe begins; none is NO_MEMORY (Table 7-8). -/
def beginFetch (s : State) (p b : Nat) : Option State :=
  match ((partOf s p).bolt b).st with
  | .flash => (freeFrame s p b).map fun t => giveFrame t p b .in_
  | _ => some s

/-- A stall is counted in `MIG` (R153). -/
def countStall (s : State) (p : Nat) : State :=
  onPart s p fun x => x.put R.migStall 63 32 (satTo 32 (x.get R.migStall 63 32 + 1))

/-- An access waits for a bolt in FLASH or IN: the fetch is under way and the stall is counted. None is NO_MEMORY (R154). -/
def stallOn (s : State) (p b : Nat) (w : Stalled) : Option State :=
  (beginFetch s p b).map fun t =>
    countStall (onPart t p fun x => x.setBolt b { x.bolt b with stalled := (x.bolt b).stalled ++ [w] }) p

/-! ### Host windows (R227, R228, R395) -/

/-- The window that applies at an HDM offset: the lowest-numbered enabled one that covers it. -/
def windowAt (x : Partition) (off : Nat) : Option Nat :=
  (List.range 16).find? fun k =>
    let o := x.get (R.hwOff k) 39 16 * 65536
    x.get (R.hwCtl k) 33 32 != 0 && decide (o ≤ off ∧ off < o + x.get (R.hwCtl k) 31 0 * 65536)

/-- The bolt-range offset that a host access at an HDM offset reaches; none is a violation (R227, R273). -/
def hdmPlace (x : Partition) (wr : Bool) (off : Nat) : Option Nat :=
  (windowAt x off).bind fun k =>
    let a := x.get (R.hwBase k) 43 16 * 65536 + (off - x.get (R.hwOff k) 39 16 * 65536)
    let may := if wr then x.get (R.hwCtl k) 33 33 == 1 else x.get (R.hwCtl k) 32 32 == 1
    if may && decide (boltBase ≤ a ∧ a < boltBase + x.vbolts * boltSize) && !(wr && inBase x a) then some (a - boltBase) else none

/-- What each byte of a host access reaches. -/
def hdmPlaces (x : Partition) (wr : Bool) (off n : Nat) : List (Option Nat) :=
  (List.range n).map fun i => hdmPlace x wr (off + i)

/-- The tiles that a list of places touches, once each. -/
def tilesTouched (ps : List (Option Nat)) : List Nat :=
  (ps.filterMap fun q => q.map (· / 4096)).eraseDups

/-- Whether host accesses are served: LIVE; otherwise they are treated as under NO_MEMORY (R297). -/
def hostServed (x : Partition) : Bool := x.ptstate == 1

/-- A tile marks its data poisoned: its collar says so, its `CRC` fails or the keys are gone. -/
def tilePoisoned (x : Partition) (t : Nat) : Bool :=
  (tileCollar x t).poison || !crcOk (tileBytes x t) (tileCollar x t) || !x.keyed

/-- An access that meets NO_MEMORY: poisoned data of no stated value, counted (R228). -/
def hostReadNone (s : State) (p n : Nat) : State :=
  errEvent (spend (emit s (.hdmData p (freeBytes s n) true)) (cdiv n 8)) p 11

/-- A CXL.mem read whose bytes have been placed (R227, R228, Table 15-12). -/
def hostReadAt (s : State) (p : Nat) (ps : List (Option Nat)) : State :=
  let x := partOf s p
  let n := ps.length
  if x.ptstate = 0 then devViolation (emit s (.hdmData p (zeros n) false))
  else if !hostServed x then hostReadNone s p n
  else if panelFenced s p && ps.any (·.isSome) then
    spend (emit s (.hdmData p (freeBytes s n) true)) (cdiv n 8)
  else
    match (tilesTouched ps).find? fun t => stalls x (t / 16) with
    | some t => (stallOn s p (t / 16) (.hostRead ps)).getD (hostReadNone s p n)
    | none =>
      let data := ps.map fun q => match q with
        | some a => mget x.mem a
        | none => 0
      let bad := (tilesTouched ps).any (tilePoisoned x)
      let s1 := checkTiles (touchTiles s p (tilesTouched ps)) p (tilesTouched ps)
      violationIf (ps.any (·.isNone)) (emit s1 (.hdmData p data bad)) p

/-- A CXL.mem read at an HDM offset: the windows are those of its arrival (R227). -/
def hostRead (s : State) (p off n : Nat) : State := hostReadAt s p (hdmPlaces (partOf s p) false off n)

/-- One byte of a host write into its tile as plain data (R148). -/
def hostPutByte (x : Partition) (a : Nat) (b : Byte) : Partition :=
  plainTileWrite x a [b] false false false

/-- A CXL.mem write whose bytes have been placed (R227, R228). -/
def hostWriteAt (s : State) (p : Nat) (ps : List (Option Nat)) (data : List Byte) : State :=
  let x := partOf s p
  let bolts := (tilesTouched ps).map (· / 16)
  if x.ptstate = 0 then devViolation s
  else if !hostServed x then errEvent s p 11
  else if panelFenced s p && ps.any (·.isSome) then s
  else
    match bolts.find? (stalls x) with
    | some b => (stallOn s p b (.hostWrite ps data)).getD (errEvent s p 11)
    | none =>
      match readyAll readyWrite s p bolts with
      | none => errEvent s p 11
      | some t =>
        violationIf (ps.any (·.isNone)) (onPart t p fun y => (ps.zip data).foldl (fun z e => match e.1 with
          | some a => hostPutByte z a e.2
          | none => z) y) p

/-- A CXL.mem write at an HDM offset: the windows are those of its arrival (R227). -/
def hostWrite (s : State) (p off : Nat) (data : List Byte) : State :=
  hostWriteAt s p (hdmPlaces (partOf s p) true off data.length) data

/-- A host access that waited for a bolt goes on (R151). -/
def serve (s : State) (p : Nat) : Stalled → State
  | .hostRead ps => hostReadAt s p ps
  | .hostWrite ps data => hostWriteAt s p ps data
  | _ => s

/-- The stalled accesses of a bolt proceed in arrival order (Table 7-8). -/
def serveStalled (f : State → Nat → Stalled → State) (s : State) (p b : Nat) : State :=
  let y := (partOf s p).bolt b
  y.stalled.foldl (fun t w => f t p w) (onPart s p fun x => x.setBolt b { x.bolt b with stalled := [] })

/-! ### Requests to the host (R225, R226, R438) -/

/-- `HST` of a host port: UP is 1 (Table 16-18). -/
def hostUp (s : State) (h : Nat) : Bool := mreg s (M.ptHost h) 1 0 == 1

/-- Whether a partition's logical device is bound on a host port that works. -/
def boundUp (s : State) (p h : Nat) : Bool := bit (partOf s p).bound h && hostUp s h

/-- The port that a request to a host address leaves on (R225). -/
def hostPort (s : State) (p a : Nat) : Option Nat :=
  match boundUp s p 0, boundUp s p 1 with
  | true, true => some (a / 4096 % 2)
  | true, false => some 0
  | false, true => some 1
  | false, false => none

/-- A request becomes outstanding and leaves; none where no port works (R225). -/
def hostAsk (s : State) (p : Nat) (kind : HostKind) (a n : Nat) (e : Nat → Emit) : Option State :=
  (hostPort s p a).map fun h =>
    let id := (partOf s p).nextHost
    let r : HostReq := { id := id, port := h, kind := kind, len := n }
    emit (onPart s p fun x => { x with hostReqs := x.hostReqs ++ [r], nextHost := id + 1 }) (e id)

/-- A read request to the host. -/
def hostGet (s : State) (p : Nat) (kind : HostKind) (a n : Nat) : Option State :=
  hostAsk s p kind a n fun id => .hostRead p id a n

/-- A write request to the host, with its poisoned indication (R438). -/
def hostPut (s : State) (p : Nat) (kind : HostKind) (a : Nat) (bs : List Byte) (poison : Bool) : Option State :=
  hostAsk s p kind a bs.length fun id => .hostWrite p id a bs poison

/-- HOST_WINDOW_READ -/
def execHostWindowRead (p off len : Nat) (s : State) : Host.Outcome State Fault Refusal :=
  guarded (.hostWindowRead p off len) (hostRead s p off len)

/-- HOST_WINDOW_WRITE -/
def execHostWindowWrite (p off : Nat) (data : List Byte) (s : State) : Host.Outcome State Fault Refusal :=
  guarded (.hostWindowWrite p off data) (hostWrite s p off data)

end Sys2Proof.Machine
end

