-- ==== Sys2Proof/Machine/Flags.lean ====
section
/-! DEFINITION. Flag words: store tags against collar flags (R147), the completion word (Table 3-5). -/

namespace Sys2Proof.Machine

/-- Tag bits of a store word: P, S, A (R147). -/
def tagWord (p s a : Bool) : Nat := b2n p + 2 * b2n s + 4 * b2n a

/-- The tag of the store word at address `a`. -/
def tagAt (s : State) (a : Nat) : BitVec 3 := sget 0 s.tags (tagKey a)

/-- The words that `n` bytes at `a` touch, as word keys. -/
def wordsOf (a n : Nat) : List Nat :=
  if n = 0 then [] else (List.range ((a + n - 1) / 8 + 1 - a / 8)).map fun i => a / 8 + i

/-- The OR of the tags of the words that `n` bytes at `a` touch. -/
def tagsOver (s : State) (a n : Nat) : BitVec 3 :=
  (wordsOf a n).foldl (fun t w => t ||| sget 0 s.tags w) 0

/-- Sets tag bits on every word that `n` bytes at `a` touch. -/
def orTags (s : State) (a n : Nat) (t : BitVec 3) : State :=
  { s with tags := (wordsOf a n).foldl (fun m w => smod 0 m w fun x => x ||| t) s.tags }

/-- Replaces the tags of every word that `n` bytes at `a` touch. -/
def replaceTags (s : State) (a n : Nat) (t : BitVec 3) : State :=
  { s with tags := (wordsOf a n).foldl (fun m w => sset 0 m w t) s.tags }

/-- Tags of the words that `n` bytes at `a` touch: a word written whole takes its new tags, one written in
part keeps what it had as well (log 21). -/
def mergeTags (s : State) (a n : Nat) (tag : Nat → BitVec 3) : State :=
  { s with tags := (wordsOf a n).foldl (fun m w =>
      if a ≤ 8 * w ∧ 8 * w + 8 ≤ a + n then sset 0 m w (tag w) else smod 0 m w fun t => t ||| tag w) s.tags }

/-- Tags after an L-slot store: S and A clear on every word written, P only on whole words (R147). -/
def storeTags (s : State) (a n : Nat) : State :=
  let f := fun (m : Sparse (BitVec 3)) w =>
    if a ≤ 8 * w ∧ 8 * w + 8 ≤ a + n then sset 0 m w 0 else smod 0 m w fun x => x &&& 1
  { s with tags := (wordsOf a n).foldl f s.tags }

/-- The completion word (Table 3-5). -/
def cword (status : Nat) (auditFail poison accSat : Bool) : BitVec 32 :=
  BitVec.ofNat 32 (status * 2 ^ 24 + 4 * b2n auditFail + 2 * b2n poison + b2n accSat)

end Sys2Proof.Machine
end

