-- ==== Sys2Proof/Machine/Formats.lean ====
section
/-! DEFINITION. Element formats, exact values, rounding and conversion (R69-R81, R95). Values are
exact rationals (n/d) times a power of two; every rounding is `roundNum`, once. -/

namespace Sys2Proof.Machine

/-- An exact number of the arithmetic: (-1)^neg times (n/d) times 2^e, with d > 0; a zero keeps its sign. -/
inductive Num where
  | nan
  | inf (neg : Bool)
  | fin (neg : Bool) (n d : Nat) (e : Int)
  deriving DecidableEq, Repr

namespace Num

def zero (neg : Bool) : Num := .fin neg 0 1 0

def isNan : Num → Bool
  | .nan => true
  | _ => false

def isInf : Num → Bool
  | .inf _ => true
  | _ => false

def isFin : Num → Bool
  | .fin _ _ _ _ => true
  | _ => false

def isZero : Num → Bool
  | .fin _ n _ _ => n == 0
  | _ => false

def sign : Num → Bool
  | .nan => false
  | .inf s | .fin s _ _ _ => s

def neg : Num → Num
  | .nan => .nan
  | .inf s => .inf (!s)
  | .fin s n d e => .fin (!s) n d e

def abs : Num → Num
  | .nan => .nan
  | .inf _ => .inf false
  | .fin _ n d e => .fin false n d e

/-- 2^k for a non-negative integer exponent. -/
def p2 (k : Int) : Nat := 2 ^ k.toNat

/-- The exact product; a zero times an infinity is NaN (R78), signs combine (R75). -/
def mul : Num → Num → Num
  | .nan, _ | _, .nan => .nan
  | .inf s, y => if y.isZero then .nan else .inf (xor s y.sign)
  | x, .inf s => if x.isZero then .nan else .inf (xor s x.sign)
  | .fin s n d e, .fin s' n' d' e' => .fin (xor s s') (n * n') (d * d') (e + e')

/-- The exact quotient, as IEEE 754 gives its special cases. -/
def div : Num → Num → Num
  | .nan, _ | _, .nan => .nan
  | .inf s, y => if y.isInf then .nan else .inf (xor s y.sign)
  | x, .inf s => .zero (xor s x.sign)
  | .fin s n d e, .fin s' n' d' e' =>
    if n' = 0 then (if n = 0 then .nan else .inf (xor s s'))
    else .fin (xor s s') (n * d') (d * n') (e - e')

/-- The signed numerator over the common denominator d·d' at exponent `m`. -/
def scaled (s : Bool) (n other : Nat) (e m : Int) : Int :=
  let v : Int := (n * other * p2 (e - m) : Nat)
  if s then -v else v

/-- The exact sum; an exact zero of unlike signs is +0, two zeros of one sign keep it (R75). -/
def add : Num → Num → Num
  | .nan, _ | _, .nan => .nan
  | .inf s, .inf s' => if s = s' then .inf s else .nan
  | .inf s, _ => .inf s
  | _, .inf s => .inf s
  | .fin s n d e, .fin s' n' d' e' =>
    let m := min e e'
    let v := scaled s n d' e m + scaled s' n' d e' m
    if v = 0 then .zero (s && s')
    else .fin (decide (v < 0)) v.natAbs (d * d') m

def sub (x y : Num) : Num := add x y.neg

/-- The order of two numbers that are not NaN, -0 equal to +0. -/
def lt : Num → Num → Bool
  | .nan, _ | _, .nan => false
  | .inf s, .inf s' => s && !s'
  | .inf s, _ => s
  | _, .inf s => !s
  | .fin s n d e, .fin s' n' d' e' =>
    let m := min e e'
    decide (scaled s n d' e m < scaled s' n' d e' m)

def eq (x y : Num) : Bool := !x.isNan && !y.isNan && !lt x y && !lt y x

def le (x y : Num) : Bool := lt x y || eq x y

/-- IEEE 754 maximum: NaN wins, -0 counts below +0 (R76). -/
def max (x y : Num) : Num :=
  if x.isNan || y.isNan then .nan
  else if lt x y then y else if lt y x then x
  else if x.sign then y else x

/-- IEEE 754 minimum (R76). -/
def min' (x y : Num) : Num :=
  if x.isNan || y.isNan then .nan
  else if lt x y then x else if lt y x then y
  else if x.sign then x else y

/-- An integer as a number. -/
def ofInt (i : Int) : Num := .fin (decide (i < 0)) i.natAbs 1 0

/-- 2^e. -/
def pow2 (e : Int) : Num := .fin false 1 1 e

end Num

/-! ### Rounding (R73) -/

/-- num/den to the nearest integer, ties to even. -/
def rne (num den : Nat) : Nat :=
  let q := num / den
  let r := num % den
  if 2 * r < den then q else if den < 2 * r then q + 1 else if q % 2 = 0 then q else q + 1

/-- The E with 2^E ≤ n/d < 2^(E+1), for n > 0. -/
def flog2Frac (n d : Nat) : Int :=
  let l : Int := (n.log2 : Int) - (d.log2 : Int)
  if d * Num.p2 l ≤ n * Num.p2 (-l) then l else l - 1

/-- ⌊log2⌋ of a finite non-zero magnitude. -/
def flog2 (n d : Nat) (e : Int) : Int := flog2Frac n d + e

/-- n/d·2^e over 2^q, rounded to an integer. -/
def quantise (n d : Nat) (e q : Int) : Nat := rne (n * Num.p2 (e - q)) (d * Num.p2 (q - e))

/-- Rounds a positive magnitude to `p` significand bits, and not below the grid 2^qmin when one is
given; answers (k, q) for k·2^q. -/
def roundMag (p : Nat) (qmin : Option Int) (n d : Nat) (e : Int) : Nat × Int :=
  let q0 := flog2 n d e - ((p : Int) - 1)
  let q := match qmin with
    | some m => if q0 < m then m else q0
    | none => q0
  (quantise n d e q, q)

/-! ### Formats (Table 4-2) -/

/-- A floating format. -/
structure FpFmt where
  ebits : Nat
  mbits : Nat
  bias  : Nat
  flush : Bool
  inf   : Bool
  nan   : Option Nat
  maxc  : Nat
  deriving DecidableEq, Repr

def fp32 : FpFmt := ⟨8, 23, 127, true, true, some 0x7FC00000, 0x7F7FFFFF⟩
def bf16 : FpFmt := ⟨8, 7, 127, true, true, some 0x7FC0, 0x7F7F⟩
def fp16 : FpFmt := ⟨5, 10, 15, false, true, some 0x7E00, 0x7BFF⟩
def e4m3 : FpFmt := ⟨4, 3, 7, false, false, some 0x7F, 0x7E⟩
def e5m2 : FpFmt := ⟨5, 2, 15, false, true, some 0x7E, 0x7B⟩
def e3m2 : FpFmt := ⟨3, 2, 3, false, false, none, 0x1F⟩
def e2m3 : FpFmt := ⟨2, 3, 1, false, false, none, 0x1F⟩
def e2m1 : FpFmt := ⟨2, 1, 1, false, false, none, 0x7⟩

/-- The kinds of Table 4-1. -/
inductive FmtKind where
  | fp (f : FpFmt)
  | int (width : Nat) (signed : Bool)
  | codebook (width : Nat)
  | reserved
  deriving DecidableEq, Repr

/-- The `FMT` encoding (Table 4-1). -/
def fmtKind : Nat → FmtKind
  | 0x0 => .fp fp32 | 0x1 => .fp bf16 | 0x2 => .fp fp16 | 0x3 => .fp e4m3 | 0x4 => .fp e5m2
  | 0x5 => .fp e3m2 | 0x6 => .fp e2m3 | 0x7 => .fp e2m1
  | 0x8 => .int 8 true | 0x9 => .int 4 true | 0xA => .int 8 false
  | 0xB => .codebook 4 | 0xC => .codebook 8 | 0xD => .int 32 true
  | _ => .reserved

/-- Bits per element. -/
def fmtWidth (f : Nat) : Nat :=
  match fmtKind f with
  | .fp g => 1 + g.ebits + g.mbits
  | .int w _ => w
  | .codebook w => w
  | .reserved => 0

def fmtIsFloat (f : Nat) : Bool := match fmtKind f with | .fp _ => true | _ => false
def fmtIsInt (f : Nat) : Bool := match fmtKind f with | .int _ _ => true | _ => false

/-- The value of a code of a floating format (R71, R74). -/
def FpFmt.decode (f : FpFmt) (c : Nat) : Num :=
  let m := c % 2 ^ f.mbits
  let e := c / 2 ^ f.mbits % 2 ^ f.ebits
  let s := c / 2 ^ (f.mbits + f.ebits) % 2 = 1
  if f.inf && e = 2 ^ f.ebits - 1 then (if m = 0 then .inf s else .nan)
  else if !f.inf && f.nan.isSome && e = 2 ^ f.ebits - 1 && m = 2 ^ f.mbits - 1 then .nan
  else if e = 0 then
    (if f.flush then .zero s else .fin s m 1 (1 - (f.bias : Int) - (f.mbits : Int)))
  else .fin s (2 ^ f.mbits + m) 1 ((e : Int) - (f.bias : Int) - (f.mbits : Int))

/-- The sign bit in place. -/
def FpFmt.signBit (f : FpFmt) (s : Bool) : Nat := if s then 2 ^ (f.mbits + f.ebits) else 0

/-- The code of k·2^q, which has at most mbits + 1 significant bits and lies on the format's grid. -/
def FpFmt.pack (f : FpFmt) (s : Bool) (k : Nat) (q : Int) : Nat :=
  if k = 0 then f.signBit s
  else
    let e := (k.log2 : Int) + q
    let qmin := 1 - (f.bias : Int) - (f.mbits : Int)
    if e < 1 - (f.bias : Int) then f.signBit s + k * Num.p2 (q - qmin)
    else
      f.signBit s + (e + (f.bias : Int)).toNat * 2 ^ f.mbits + (k * 2 ^ f.mbits / 2 ^ k.log2 - 2 ^ f.mbits)

/-- Whether k·2^q exceeds the largest finite value. -/
def FpFmt.over (f : FpFmt) (k : Nat) (q : Int) : Bool :=
  Num.lt (f.decode f.maxc) (.fin false k 1 q)

/-- Rounds a finite value into the format (R73, R74); `none` says that it exceeds the largest
finite value. -/
def FpFmt.round (f : FpFmt) (s : Bool) (n d : Nat) (e : Int) : Option Nat :=
  if n = 0 then some (f.signBit s)
  else
    let qmin := 1 - (f.bias : Int) - (f.mbits : Int)
    let r := roundMag (f.mbits + 1) (if f.flush then none else some qmin) n d e
    if f.over r.1 r.2 then none
    else if f.flush && decide ((r.1.log2 : Int) + r.2 < 1 - (f.bias : Int)) then some (f.signBit s)
    else some (f.pack s r.1 r.2)

/-- Conversion of a value into a floating format (R77, R78); `none` is unrepresentable. -/
def FpFmt.conv (f : FpFmt) : Num → Option Nat
  | .nan => f.nan
  | .inf s => if f.inf then some (f.signBit s + (2 ^ f.ebits - 1) * 2 ^ f.mbits) else f.nan
  | .fin s n d e => some ((f.round s n d e).getD (f.signBit s + f.maxc))

/-- The range of an integer format (R79). -/
def intRange (w : Nat) (signed : Bool) : Int × Int :=
  if signed then (-(2 ^ (w - 1) : Nat), (2 ^ (w - 1) : Nat) - 1) else (0, (2 ^ w : Nat) - 1)

/-- A finite value rounded to an integer (R73). -/
def roundInt (s : Bool) (n d : Nat) (e : Int) : Int :=
  let v : Int := quantise n d e 0
  if s then -v else v

/-- An exact integer into `w` bits under `IOVF`: the pattern, and whether it was clamped (R79). -/
def intFit (w : Nat) (signed wrap : Bool) (i : Int) : Nat × Bool :=
  let r := intRange w signed
  if wrap then (wrapTo w i, false)
  else if i < r.1 then (wrapTo w r.1, true)
  else if r.2 < i then (wrapTo w r.2, true)
  else (wrapTo w i, false)

/-- Conversion of a value into an integer format (R78, R79): the pattern and whether it saturated;
`none` for NaN. -/
def intConv (w : Nat) (signed wrap : Bool) : Num → Option (Nat × Bool)
  | .nan => none
  | .inf s => let r := intRange w signed; some (wrapTo w (if s then r.1 else r.2), true)
  | .fin s n d e => some (intFit w signed wrap (roundInt s n d e))

/-- The value of a code of format `f` (R71, R79). -/
def decodeFmt (f c : Nat) : Num :=
  match fmtKind f with
  | .fp g => g.decode c
  | .int w true => .ofInt (sext w c)
  | .int w false => .ofInt (c % 2 ^ w : Nat)
  | .codebook _ | .reserved => .nan

/-- The code of a value in format `f` (R78, R79); `none` is unrepresentable. -/
def encodeFmt (f : Nat) (wrap : Bool) (x : Num) : Option Nat :=
  match fmtKind f with
  | .fp g => g.conv x
  | .int w sg => (intConv w sg wrap x).map (·.1)
  | .codebook _ | .reserved => none

/-! ### FP32 arithmetic -/

/-- The FP32 result of an exact value in the vector unit: overflow gives an infinity (R78). -/
def toFp32 : Num → Nat
  | .nan => 0x7FC00000
  | .inf s => fp32.signBit s + 0x7F800000
  | .fin s n d e => (fp32.round s n d e).getD (fp32.signBit s + 0x7F800000)

/-- The value of an FP32 pattern (R74). -/
def ofFp32 (c : Nat) : Num := fp32.decode c

/-- Whether an FP32 pattern is a finite positive value of at least 2^-126 (R88, R212). -/
def positiveNormal (c : Nat) : Bool := 0x00800000 ≤ c && c ≤ 0x7F7FFFFF

/-! ### Approximations behind the functions that are given within 2 ulp (Table 2-10) -/

/-- The integer square root of `x`, by binary digits from `bits` on. -/
def isqrt (x : Nat) : Nat → Nat → Nat
  | 0, r => r
  | b + 1, r => if (r + 2 ^ b) * (r + 2 ^ b) ≤ x then isqrt x b (r + 2 ^ b) else isqrt x b r

/-- 1/√v to far more than 24 bits, for a positive finite v = n·2^e. -/
def rsqrtNum (n : Nat) (e : Int) : Num :=
  let n' := if e % 2 = 0 then n else 2 * n
  let e' := if e % 2 = 0 then e else e - 1
  .fin false (2 ^ 80) (isqrt (n' * 2 ^ 80) 80 0) (-40 - e' / 2)

/-- The sum of (y^k / k!) in units of 2^-64, from term `t` on. -/
def expSeries (y : Nat) : Nat → Nat → Nat → Nat
  | 0, _, acc => acc
  | fuel + 1, t, acc =>
    let k := 26 - fuel
    expSeries y fuel (t * y / 2 ^ 64 / k) (acc + t)

/-- 2^x for a finite x: ⌊x⌋ in the exponent, the fraction by its series (ln 2 in units of 2^-64). -/
def exp2Num (s : Bool) (n d : Nat) (e : Int) : Num :=
  let v := Num.scaled s n 1 e (min e 0)
  let den : Int := (d * Num.p2 (-(min e 0)) : Nat)
  let i := v / den
  let f := ((v - i * den) * 2 ^ 64 / den).toNat
  if 512 < i then .fin false 1 1 512
  else if i < -512 then .fin false 1 1 (-512)
  else .fin false (expSeries (f * 0xB17217F7D1CF79AC / 2 ^ 64) 26 (2 ^ 64) 0) 1 (i - 64)

/-- The binary digits of log2 of m/2^128, m/2^128 in [1, 2), by squaring. -/
def logDigits : Nat → Nat → Nat → Nat
  | 0, _, acc => acc
  | k + 1, m, acc =>
    let q := m * m / 2 ^ 128
    if 2 ^ 129 ≤ q then logDigits k (q / 2) (2 * acc + 1) else logDigits k q (2 * acc)

/-- log2 of a positive finite n·2^e. -/
def log2Num (n : Nat) (e : Int) : Num :=
  let l := n.log2
  let f := logDigits 72 (n * 2 ^ 128 / 2 ^ l) 0
  Num.add (.ofInt ((l : Int) + e)) (.fin false f 1 (-72))

/-- The FP32 codes within 2 ulp of an approximation of a positive or negative finite value: the
code that rounds it moved by -2 to 2, kept when the distance stays within the limit (log 11). -/
def near2 (x : Num) : List Nat :=
  match x with
  | .fin s n d e =>
    let c := toFp32 (.fin false n d e)
    let ulp : Int := if n = 0 then -149 else max (flog2 n d e) (-126) - 23
    let cands := (List.range 5).filterMap fun i => if 2 ≤ c + i then some (c + i - 2) else none
    let good := cands.filter fun k => k ≤ 0x7F800000 && (k == c ||
      ((k == 0 || 0x00800000 ≤ k) && k < 0x7F800000 &&
        Num.le (Num.sub (ofFp32 k) (.fin false n d e)).abs (.fin false (2 ^ 21 + 1) 1 (ulp - 20))))
    good.map fun k => k + fp32.signBit s
  | y => [toFp32 y]

/-! ### Block scales (Table 4-5) -/

/-- Elements of a block, 0 for the whole tensor or a B128 tile. -/
def blockSize : Nat → Nat
  | 1 => 32
  | 2 => 16
  | _ => 0

/-- Bytes of one block scale. -/
def scaleBytes : Nat → Nat
  | 1 | 2 => 1
  | 3 => 4
  | _ => 0

/-- The value of a block-scale code (R80). -/
def scaleValue (scl c : Nat) : Num :=
  match scl with
  | 1 => if c % 256 = 255 then .nan else .pow2 ((c % 256 : Nat) - 127)
  | 2 => e4m3.decode (c % 128)
  | 3 => ofFp32 c
  | _ => .pow2 0

/-- The code of a block scale of 1, written by a flat destination (R92). -/
def scaleOne : Nat → Nat
  | 1 => 0x7F
  | 2 => 0x38
  | 3 => 0x3F800000
  | _ => 0

/-- The NaN code of a block scale (R93). -/
def scaleNan : Nat → Nat
  | 1 => 0xFF
  | 2 => 0x7F
  | _ => 0x7FC00000

/-- A collar exponent override applied to a block scale (R441). -/
def overrideScale (scl : Nat) (e : Int) (c : Nat) : Nat :=
  match scl with
  | 1 => if c = 255 then 255 else (max 0 (min 254 ((c : Int) + e))).toNat
  | 2 =>
    if c % 128 = 127 then 0x7F
    else match e4m3.decode (c % 128) with
      | .fin _ n d x =>
        if n = 0 then c
        else
          let k := ((e4m3.round false n d (x + e)).getD 0x7E)
          if k = 0 then 1 else k
      | _ => 0x7F
  | 3 =>
    match ofFp32 c with
    | .fin s n d x => if n = 0 then c else (fp32.conv (.fin s n d (x + e))).getD 0x7FC00000
    | .inf _ => c
    | .nan => 0x7FC00000
  | _ => c

/-- A scaled element: code value times block scale; under a NaN scale NaN, under a zero scale a zero with the element's
own sign, or NaN where the element is not finite (R80). -/
def scaleElem (x sc : Num) : Num :=
  if sc.isNan then .nan
  else if sc.isZero then (if x.isFin then .zero x.sign else .nan)
  else Num.mul x sc

/-- The largest finite value of a floating format number, 1 for others. -/
def fmtMax (f : Nat) : Num :=
  match fmtKind f with
  | .fp g => g.decode g.maxc
  | .int w sg => .ofInt (intRange w sg).2
  | _ => .pow2 0

/-- `emax` of R92. -/
def mxEmax : Nat → Int
  | 0x3 => 8
  | 0x4 => 15
  | 0x5 => 4
  | _ => 2

/-- The block-scale code that the store path chooses from A and the tensor scale t (R92). -/
def chooseScale (scl fmt : Nat) (a t : Num) : Nat :=
  match scl with
  | 1 =>
    match Num.div a t with
    | .fin _ n d e => if n = 0 then 0 else (max 0 (min 254 (flog2 n d e - mxEmax fmt + 127))).toNat
    | _ => 0
  | 2 =>
    match Num.div a (Num.mul t (fmtMax fmt)) with
    | .fin _ n d e =>
      if n = 0 then 0x38
      else
        let k := (e4m3.round false n d e).getD 0x7E
        if k = 0 then 1 else k
    | _ => 0x38
  | 3 =>
    match Num.div a (Num.mul t (fmtMax fmt)) with
    | .fin _ n d e =>
      if n = 0 then 0x3F800000
      else
        let k := (fp32.round false n d e).getD 0x7F7FFFFF
        if k = 0 then 0x00800000 else k
    | _ => 0x3F800000
  | _ => 0

/-- Bits [lo, lo + w) of a byte string: element i of width w at bit w·i (R70). -/
def elemAt (bs : List Byte) (w i : Nat) : Nat := nfld (leAt bs (w * i / 8) ((w + 7) / 8 + 1)) (w * i % 8 + w - 1) (w * i % 8)

/-- Codes of width `w` packed without gaps, as one number (R70). -/
def packCodes (w : Nat) : List Nat → Nat
  | [] => 0
  | c :: cs => c % 2 ^ w + 2 ^ w * packCodes w cs

/-- The bytes of packed codes. -/
def packBytes (w : Nat) (cs : List Nat) : List Byte := toLE (cdiv (w * cs.length) 8) (packCodes w cs)

end Sys2Proof.Machine
end

