-- ==== Sys2Proof/Machine/Transform.lean ====
section
/-! DEFINITION. Transform entries, tensor layout and the checks before a DMA (R82-R93, R114-R117,
R121, R132, R133, R141-R144). -/

namespace Sys2Proof.Machine

/-! ### Addresses (R132) -/

/-- Spaces of Table 7-2. -/
inductive Space where
  | pv | nyzan | host | regs
  deriving DecidableEq, Repr

def spaceOf (a : Word) : Space :=
  match fld a 63 62 with
  | 0 => .pv
  | 1 => .nyzan
  | 2 => .host
  | _ => .regs

/-- Bits that Table 7-2 requires zero are zero. -/
def addrOk (a : Word) : Bool :=
  match spaceOf a with
  | .pv => fld a 61 44 == 0
  | .nyzan => true
  | .host => fld a 61 52 == 0
  | .regs => fld a 61 24 == 0

/-- The offset within the space. -/
def addrOff (a : Word) : Nat :=
  match spaceOf a with
  | .host => fld a 51 0
  | .regs => fld a 23 0
  | _ => fld a 43 0

/-- The device of a Nyzan global address. -/
def addrDev (a : Word) : DevId := BitVec.ofNat 18 (fld a 61 44)

/-- Whether an address is in memory in the sense of R87: the bolt range or an exported window. -/
def isMemory (a : Word) : Bool :=
  match spaceOf a with
  | .pv => decide (boltBase ≤ addrOff a)
  | .nyzan => true
  | _ => false

/-! ### The transform entry (Tables 4-7, 6-1) -/

/-- A transform entry's 32 bytes. -/
structure Entry where
  w0 : Nat
  ts : Nat
  w2 : Nat
  w3 : Nat
  deriving DecidableEq, Repr

def Entry.ofBytes (bs : List Byte) : Entry :=
  { w0 := leAt bs 0 8, ts := leAt bs 8 8, w2 := leAt bs 16 8, w3 := leAt bs 24 8 }

namespace Entry
def sfmt (e : Entry) : Nat := nfld e.w0 3 0
def dfmt (e : Entry) : Nat := nfld e.w0 7 4
def sscl (e : Entry) : Nat := nfld e.w0 9 8
def dscl (e : Entry) : Nat := nfld e.w0 11 10
def iovf (e : Entry) : Bool := nfld e.w0 12 12 == 1
def bind (e : Entry) : Nat := nfld e.w0 13 13
def cbs (e : Entry) : Nat := nfld e.w0 22 16
def cbl (e : Entry) : Nat := nfld e.w0 41 24
def sts (e : Entry) : Nat := nfld e.ts 31 0
def dts (e : Entry) : Nat := nfld e.ts 63 32
def sren (e : Entry) : Bool := nfld e.w2 0 0 == 1
def sra (e : Entry) : Nat := nfld e.w2 63 6 * 64
def roten (e : Entry) : Bool := nfld e.w3 0 0 == 1
def rdir (e : Entry) : Nat := nfld e.w3 2 2
def hsz (e : Entry) : Nat := nfld e.w3 4 3
def axis (e : Entry) : Nat := nfld e.w3 5 5
def sgnen (e : Entry) : Bool := nfld e.w3 6 6 == 1
def smoen (e : Entry) : Bool := nfld e.w3 7 7 == 1
def rlen (e : Entry) : Nat := nfld e.w3 27 12
def sgn (e : Entry) : Nat := nfld e.w3 45 28
def smo (e : Entry) : Nat := nfld e.w3 63 46
/-- Reserved bits set. -/
def reserved (e : Entry) : Bool :=
  nfld e.w0 63 42 != 0 || nfld e.w0 23 23 != 0 || nfld e.w0 15 14 != 0
  || nfld e.w2 5 1 != 0 || nfld e.w3 11 8 != 0 || nfld e.w3 1 1 != 0
/-- A bit-exact copy (R90). -/
def exact (e : Entry) : Bool :=
  e.sfmt == e.dfmt && e.sscl == e.dscl && e.sts == e.dts && !e.roten && !e.sren
/-- The rotation block length (R115). -/
def rotN (e : Entry) : Nat := 4 * 2 ^ (e.hsz + 3)
/-- Whether the transfer stages B128 scale tiles (R114). -/
def stagesB128 (e : Entry) : Bool := (e.sscl == 3 || e.dscl == 3) && !e.exact
end Entry

/-! ### Tensor layout (R141-R143) -/

/-- Elements per tile, E_t (Table 7-5). -/
def elemsPerTile (f : Nat) : Nat :=
  match fmtWidth f with
  | 32 => 1024
  | 16 => 2048
  | 8 => 4096
  | 6 => 5440
  | _ => 8192

/-- Data tiles per bolt and scale bytes per data tile under `SCL` 1 or 2 (Table 7-5). -/
def scaleGeom (f scl : Nat) : Nat × Nat :=
  match fmtWidth f, scl with
  | 6, 2 => (14, 340)
  | 4, 2 => (14, 512)
  | 8, 2 => (15, 256)
  | 6, _ => (15, 170)
  | 4, _ => (15, 256)
  | _, _ => (15, 128)

/-- Combinations permitted in memory (Table 4-6). -/
def comboOk (f scl : Nat) : Bool :=
  match f, scl with
  | _, 0 => f ≤ 0xD
  | 1, 3 | 2, 3 => true
  | 0x8, 3 | 0x9, 3 | 0xA, 3 => true
  | f, _ => 3 ≤ f && f ≤ 7

/-- A B128 grid: row length, elements (R92, R143). A zero row length stands for one column of scale
tiles (log 20). With `run` above zero the elements are counted as they lie in memory tiles of `run` elements: a bit-exact
copy between memory and memory that names no row length moves whole tiles (R90, log 128). -/
structure Grid where
  rlen : Nat
  n    : Nat
  run  : Nat
  deriving DecidableEq, Repr

namespace Grid
def row (g : Grid) : Nat := if g.rlen = 0 then 128 else g.rlen
def rows (g : Grid) : Nat := cdiv g.n g.row
def cols (g : Grid) : Nat := cdiv g.row 128
def count (g : Grid) : Nat := if 0 < g.run then cdiv g.n g.run else cdiv g.rows 128 * g.cols
def height (g : Grid) (t : Nat) : Nat := min 128 (g.rows - 128 * (t / g.cols))
def width (g : Grid) (t : Nat) : Nat := min 128 (g.row - 128 * (t % g.cols))
/-- The scale tile of element i and its place inside. -/
def place (g : Grid) (i : Nat) : Nat × Nat :=
  let r := i / g.row
  let c := i % g.row
  let t := r / 128 * g.cols + c / 128
  if 0 < g.run then (i / g.run, i % g.run) else (t, r % 128 * g.width t + c % 128)
/-- The stream indices of the elements of scale tile t, in its own order. -/
def elems (g : Grid) (t : Nat) : List Nat :=
  if 0 < g.run then (List.range (min g.run (g.n - g.run * t))).map fun i => g.run * t + i
  else ((List.range (g.height t)).flatMap fun r => (List.range (g.width t)).map fun c =>
    (128 * (t / g.cols) + r) * g.row + 128 * (t % g.cols) + c).filter fun i => i < g.n
/-- Memory tiles of scale tile t, and of all before it. -/
def tiles (g : Grid) (f t : Nat) : Nat := if 0 < g.run then 1 else cdiv (g.height t * g.width t) (elemsPerTile f)
def tilesBefore (g : Grid) (f t : Nat) : Nat := ((List.range t).map (g.tiles f)).sum
end Grid

/-- The memory tile, relative to tile `t0`, of the q-th data tile of a tensor (R142). -/
def dataTile (f scl t0 q : Nat) : Nat :=
  if scl = 1 ∨ scl = 2 then
    let d := (scaleGeom f scl).1
    t0 / 16 * 16 + (t0 % 16 + q) / d * 16 + (t0 % 16 + q) % d
  else t0 + q

/-- Where element i of a tensor that begins at tile `t0` stands: memory tile and place in it. -/
def elemPlace (f scl t0 : Nat) (g : Grid) (i : Nat) : Nat × Nat :=
  let et := elemsPerTile f
  if scl = 3 then
    let p := g.place i
    (t0 + g.tilesBefore f p.1 + p.2 / et, p.2 % et)
  else (dataTile f scl t0 (i / et), i % et)

/-- The scale tile and byte of the block scale of element i under `SCL` 1 or 2. -/
def scalePlace (f scl t0 i : Nat) : Nat × Nat :=
  let et := elemsPerTile f
  let q := scaleGeom f scl
  let j := (t0 % 16 + i / et) % q.1
  let bolt := dataTile f scl t0 (i / et) / 16
  let byte := j * q.2 + i % et / blockSize scl
  (bolt * 16 + q.1 + byte / 4096, byte % 4096)

/-- The block of element i for a block scaling. -/
def blockOf (scl : Nat) (g : Grid) (i : Nat) : Nat :=
  if scl = 3 then (g.place i).1 else if scl = 0 then 0 else i / blockSize scl

/-- Where the block scales of a flat copy stand: after its elements, rounded up to 16 (log 21). -/
def flatScales (f n : Nat) : Nat := cdiv (cdiv (n * fmtWidth f) 8) 16 * 16

/-! ### Rights of a context (R230) -/

/-- Whether a context may address an offset of the partition virtual range. -/
def ctxMay (s : State) (p c a : Nat) : Bool :=
  let x := partOf s p
  if a < boltBase then
    let h := if a < 0xA0000000 then a / 0x400000
      else if a < 0xF0000000 then (a - 0xA0000000) / 0x200000 else (a - 0xF0000000) / 0x1000
    match (clusOf s h).holder with
    | some hd => hd.part == p && hd.ctx == c
    | none => false
  else
    let vb := x.get (R.cxVbase c) 43 16 * 65536
    let vs := x.get (R.cxVsize c) 31 0 * 65536
    let sb := x.get R.pcShrb 43 16 * 65536
    let ss := x.get R.pcShrs 31 0 * 65536
    (decide (vb ≤ a) && decide (a < vb + vs)) || (decide (sb ≤ a) && decide (a < sb + ss))

/-! ### Checks at the start of a DMA -/

/-- The codebook slots that a transfer names (R84). -/
def boundSlots (s : State) (g : Nat) (e : Entry) : List Nat :=
  if e.bind = 0 then [e.cbs]
  else (mread s.stores (g * 0x40000 + e.cbl) (cdiv e.rlen 128)).map (·.toNat)

/-- Codebook slots are in range for a format (R84). -/
def slotsOk (s : State) (g : Nat) (e : Entry) (f : Nat) : Bool :=
  if f = 0xB then (boundSlots s g e).all fun c => decide (c < 64)
  else if f = 0xC then (boundSlots s g e).all fun c => decide (64 ≤ c ∧ c < 72)
  else true

/-- The policy of a scale record is free of reserved values (R121, Table 6-3). -/
def policyOk (pol : Nat) : Bool :=
  nfld pol 31 30 != 3 && decide (1 ≤ nfld pol 9 6 ∧ nfld pol 9 6 ≤ 7) && nfld pol 5 0 == 0

/-- A memory end begins at the first element of a data tile (R144). -/
def tileStart (a : Word) (f scl : Nat) : Bool :=
  !isMemory a || (addrOff a % 4096 == 0 &&
    ((scl != 1 && scl != 2) || decide (addrOff a / 4096 % 16 < (scaleGeom f scl).1)))

/-- The rotation conditions (R117). -/
def rotOk (e : Entry) (n : Nat) : Bool :=
  let rows := n / (max e.rlen 1)
  e.rlen != 0
  && (if e.axis = 0 then e.rlen % e.rotN == 0 else decide (e.rlen * e.rotN ≤ 262144))
  && n % (max e.rlen 1) == 0 && (e.axis == 0 || rows % e.rotN == 0)
  && (!e.sgnen || (e.sgn % 16 == 0 && decide (e.sgn + e.rotN / 8 ≤ 262144)))
  && (!e.smoen || (e.smo % 16 == 0 &&
      decide (e.smo + 4 * (if e.axis = 0 then e.rlen else rows) ≤ 262144)))
  && fmtIsCode e.sfmt == false && fmtIsCode e.dfmt == false
where
  /-- Whether a format is a codebook format. -/
  fmtIsCode (f : Nat) : Bool := f == 0xB || f == 0xC

/-- Whether a DMA through an entry other than 0 is rejected (R88, R114, R117, R121, R144). -/
def entryRejects (s : State) (p g : Nat) (e : Entry) (src dst : Word) (len : Nat) : Bool :=
  let w := fmtWidth e.sfmt
  let n := len * 8 / (max w 1)
  let recOk :=
    let pol := le (pvPeek s p (fun _ => true) (e.sra + 0x14) 4).1
    let act := le (pvPeek s p (fun _ => true) e.sra 4).1
    isMemory dst && decide (e.sra < 2 ^ 44) && policyOk pol && nfld pol 9 6 == e.dfmt && positiveNormal act
  e.reserved || 0xD < e.sfmt || 0xD < e.dfmt || e.sfmt == 0xD
  || (isMemory src && !comboOk e.sfmt e.sscl) || (isMemory dst && !comboOk e.dfmt e.dscl)
  || !slotsOk s g e e.sfmt || !slotsOk s g e e.dfmt
  || (!e.exact && !e.sren && !positiveNormal e.dts)
  || (e.bind == 1 && e.rlen == 0)
  || (e.stagesB128 && (e.rlen == 0 || n % (max e.rlen 1) != 0))
  || (e.roten && !rotOk e n)
  || (e.sren && !recOk)
  || len * 8 % (max w 1) != 0 || !tileStart src e.sfmt e.sscl || !tileStart dst e.dfmt e.dscl

/-- Whether a DMA completes NOT_RUN before anything moves (R88, R133, R144, R180). -/
def dmaRejects (s : State) (p c g : Nat) (d : Dma) : Bool :=
  let regs := spaceOf d.src == .regs || spaceOf d.dst == .regs
  let job := BitVec.ofNat 32 (reg s p (R.cxJob c) 31 0)
  let e := Entry.ofBytes (d.entry.getD [])
  !addrOk d.src || !addrOk d.dst
  || (regs && (d.xf != 0 || d.len % 8 != 0 || addrOff d.src % 8 != 0 || addrOff d.dst % 8 != 0))
  || ((spaceOf d.src == .nyzan || spaceOf d.dst == .nyzan) && (partKey (partOf s p) job).isNone)
  || (!regs && d.xf != 0 && entryRejects s p g e d.src d.dst d.len)

end Sys2Proof.Machine
end

