-- ==== Sys2Proof/Machine/Tiles.lean ====
section
/-! DEFINITION. Tiles as units of conversion: elements of a tile, the check of R146, the update of a
tile that is written in part (R144). -/

namespace Sys2Proof.Machine

/-- The 16 bytes of a collar. -/
def collarBytes (c : Collar) : List Byte := toLE 16 c.toNat

/-- A collar from its bytes. -/
def collarOf (bs : List Byte) : Collar := BitVec.ofNat 128 (le (slice bs 0 16))

/-- What a reader of a tile finds (R146): its payload, its collar, whether it is a zero tile, and
whether it must be treated as POISON. -/
structure TileView where
  payload : List Byte
  collar  : Collar
  zero    : Bool
  bad     : Bool
  deriving DecidableEq, Repr

/-- A tile against the format that its reader expects (R146). -/
def viewTile (payload : List Byte) (c : Collar) (fmt scl : Nat) : TileView :=
  let z := isZeroTile payload c
  let ok := crcOk payload c && collarClean c && (z || (c.fmt == fmt && c.scl == scl))
  { payload := payload, collar := c, zero := z, bad := !ok }

/-- The flag bits P, S, A of a tile (R147). -/
def TileView.tags (v : TileView) : BitVec 3 :=
  BitVec.ofNat 3 (tagWord (v.bad || v.collar.poison) v.collar.accSat v.collar.auditFail)

/-- The exponent override with which a tile is read: -128 reads as 0 (R125). -/
def TileView.over (v : TileView) : Int := if v.zero || v.collar.xovr = -128 then 0 else v.collar.xovr

/-- The number of valid elements of a tile; a zero tile counts as none (R144). -/
def TileView.extent (v : TileView) (fmt : Nat) : Nat :=
  if v.zero then 0 else if v.collar.nelem = 0 then elemsPerTile fmt else min v.collar.nelem (elemsPerTile fmt)

/-- The payload of a tile with these codes; what they do not cover is zero (R141). -/
def tilePayload (fmt : Nat) (codes : List Nat) : List Byte := slice (packBytes (fmtWidth fmt) codes) 0 4096

/-- `NELEM` of a number of valid elements. -/
def nelemOf (fmt n : Nat) : Nat := if elemsPerTile fmt ≤ n then 0 else n

/-- One kept element under a new override and block scale: its stored value, encoded again (R144). -/
def rescaled (fmt : Nat) (old new : Int) (bold bnew : Nat) (c : Nat) : Option Nat :=
  let sc := fun (e : Int) (b : Nat) => Num.mul (Num.pow2 e) (if b = 0 then Num.pow2 0 else ofFp32 b)
  encodeFmt fmt false (Num.div (Num.mul (decodeFmt fmt c) (sc old bold)) (sc new bnew))

/-- A part of a tile written from another module with its collar, merged at the target's cache
(R144, R181): the elements beyond it are kept, and take the new override and block scale. -/
def mergeTile (old : List Byte) (oc : Collar) (new : List Byte) (nc : Collar) : List Byte × Collar :=
  let f := nc.fmt
  let w := fmtWidth f
  let v := viewTile old oc f nc.scl
  let n := if nc.nelem = 0 then elemsPerTile f else nc.nelem
  let m := v.extent f
  let again := decide (v.over ≠ nc.xovr) || (nc.scl == 3 && oc.bscale != nc.bscale)
  let kept := ((List.range m).drop n).map fun i =>
    let c := elemAt old w i
    if again then rescaled f v.over nc.xovr oc.bscale nc.bscale c else some c
  let codes := ((List.range n).map fun i => elemAt new w i) ++ kept.map fun c => c.getD 0
  let pay := tilePayload f codes
  let poi := nc.poison || v.bad || oc.poison || kept.any (·.isNone)
  (pay, mkCollar (crc32c pay) f nc.scl nc.xovr nc.miss (nc.accSat || oc.accSat)
    (nc.auditFail || oc.auditFail) poi nc.stile nc.cbi nc.bind nc.bscale (nelemOf f (max n m)))

/-- A scale tile updated in part: bytes beyond the written ones stand when the old tile is a scale
tile of the same format or a zero tile, else they are zero (log 22). -/
def mergeScales (old : List Byte) (oc : Collar) (off : Nat) (bs : List Byte) (fmt scl : Nat)
    (poi : Bool) : List Byte × Collar :=
  let v := viewTile old oc fmt scl
  let keep := v.zero || (!v.bad && oc.stile)
  let base := if keep then old else zeros 4096
  let pay := base.take off ++ bs ++ base.drop (off + bs.length)
  (pay, mkCollar (crc32c pay) fmt scl 0 false false false (poi || (keep && oc.poison)) true 0 0 0 0)

/-! ### What HBM and the Wardrobe hold (R378) -/

/-- The XTS tweaks: of unit `u` of the bolt range, of the collars from `4 k` on, of unit `u` of the rest of the device
area. -/
def payloadTweak (u : Nat) : BitVec 128 := BitVec.ofNat 128 u
def collarTweak (k : Nat) : BitVec 128 := BitVec.ofNat 128 (2 ^ 62 + k)
def deviceTweak (u : Nat) : BitVec 128 := BitVec.ofNat 128 (2 ^ 63 + u)

/-- The ciphertext of 64-byte unit `u` of the bolt range: it follows from key, offset and plaintext, so a bolt is the same
ciphertext in HBM and in the Wardrobe. -/
def heldPayload (x : Partition) (u : Nat) : List Byte :=
  Config.xtsSeal x.xtsKey (payloadTweak u) (mread x.mem (64 * u) 64)

/-- The ciphertext of collars `4 k` to `4 k + 3`. -/
def heldCollars (x : Partition) (k : Nat) : List Byte :=
  Config.xtsSeal x.xtsKey (collarTweak k) ((List.range 4).flatMap fun i => collarBytes (tileCollar x (4 * k + i)))

end Sys2Proof.Machine
end

