-- ==== Sys2Proof/Machine/Wardrobe.lean ====
section
/-! DEFINITION. The migration engine and the Wardrobe (R138, R139, R150-R160, R415): scrubbing,
evictions, copies to and from flash, wear figures, the hint queue. -/

namespace Sys2Proof.Machine

/-! ### Bolts as the migration engine moves them -/

/-- A bolt loses its frame and flash copy and reads as zero tiles; a grant's pins stay. -/
def clearBolt (x : Partition) (b : Nat) : Partition :=
  let a := b * boltSize
  let out := fun k : Nat => decide (k < a ∨ a + boltSize ≤ k)
  let x1 := { x with
    mem := x.mem.filter fun c => out c.1
    collars := x.collars.filter fun e => out (4096 * e.1) }
  leaveHbm x1 b .zero

/-- A DROP (Table 7-8); accesses that waited see zero tiles. -/
def dropBolt (s : State) (p b : Nat) : State := serveStalled serve (onPart s p fun x => clearBolt x b) p b

/-- HBM_SCRUB: the scrubber reads a block of a resident bolt (R139). -/
def hbmScrub (s : State) (p t b d : Nat) (o : HbmOutcome) : State :=
  let x := partOf s p
  when_ (exists_ s p && decide (t / 16 < x.vbolts) && (x.bolt (t / 16)).framed) s (hbmEvent s p t b d o)

def execHbmScrub (p tile block die : Nat) (o : HbmOutcome) (s : State) : Host.Outcome State Fault Refusal :=
  guarded (.hbmScrub p tile block die o) (hbmScrub s p tile block die o)

/-- Moves a bolt out of HBM (Table 7-8); none when quota or flash refuse it. -/
def evictBolt (s : State) (p b : Nat) : Option State :=
  let x := partOf s p
  match (x.bolt b).st with
  | .hbmClean => some (putPart s p (leaveHbm x b .flash))
  | .hbmDirty =>
    if flashWritable s && quotaRoom x then
      let y := flushLines (releaseForQuota x) b
      some (putPart s p (y.setBolt b { y.bolt b with st := .out }))
    else none
  | _ => some s

/-- EVICTION: while it restores `FREE_LOW` the engine evicts a bolt of the first class that has one (R152; which of the
least recently accessed ones is left to the command), once the Pocket has dropped what it keeps (R292). -/
def eviction (s : State) (p b : Nat) : State :=
  let x := partOf s p
  let y := x.bolt b
  let first := x.bolts.all fun e => !evictable e.2 || decide (evictClass y ≤ evictClass e.2)
  let pocketFirst := decide (freeFrames x < freeLow x) && x.pocket.kept != []
  when_ (exists_ s p && evictable y && first && !pocketFirst && restoring x) s ((evictBolt s p b).getD s)

def execEviction (p bolt : Nat) (s : State) : Host.Outcome State Fault Refusal :=
  guarded (.eviction p bolt) (eviction s p bolt)

/-- The tiles of a bolt. -/
def boltTiles (b : Nat) : List Nat := (List.range 16).map fun i => 16 * b + i

/-- FLASH_COPY_COMPLETE: the migration engine has read the tiles and written them, and the frame is freed (Table 7-8,
R146). -/
def flashCopyComplete (s : State) (p b : Nat) : State :=
  when_ (((partOf s p).bolt b).st == .out) s (copiedOut (checkTiles s p (boltTiles b)) p b)

def execFlashCopyComplete (p bolt : Nat) (s : State) : Host.Outcome State Fault Refusal :=
  guarded (.flashCopyComplete p bolt) (flashCopyComplete s p bolt)

/-- A tile whose pages failed to decode arrives with `POISON` set and payload of no stated value
(R153). -/
def poisonedTile (s : State) (p t : Nat) : State :=
  let pay := freeBytes s 4096
  spend (onPart s p fun x =>
    putTile x t pay (setFld (setFld (tileCollar x t) 51 51 1) 31 0 (crc32c pay))) 512

/-- The pages of a bolt that could not be decoded (R153, R160): the tiles of `bad` arrive POISON. -/
def undecoded (s : State) (p b : Nat) (bad : BitVec 16) : State :=
  let tiles := (List.range 16).filter fun i => bit bad i
  if tiles = [] then s
  else
    let s1 := tiles.foldl (fun t i => poisonedTile t p (16 * b + i)) s
    let pages := 1 + freeBelow s1 0 16
    errEvent (chargeFlash (onWear (spend s1 1) fun w => { w with uncor := w.uncor + pages }) 0x07 pages) p 1

/-- A bolt has arrived after `retries` read retries and `us` µs (R146, R153, Table 7-8): what was stalled on it goes on, as
`f` serves it. -/
def fetchDone (f : State → Nat → Stalled → State) (s : State) (p b : Nat) (bad : BitVec 16) (retries us : Nat) : State :=
  let y := (partOf s p).bolt b
  if y.st = .in_ then
    let s1 := onPart s p fun x => x.setBolt b { y with st := if y.wrote then .hbmDirty else .hbmClean, wrote := false }
    let s2 := checkTiles (readFlash (undecoded s1 p b bad) p b retries) p (boltTiles b)
    let s3 := onPart s2 p fun x => (boltTiles b).foldl (touchTile true) x
    let s4 := if y.stalled = [] then s3
      else putReg s3 p R.migStall 31 0 (max (reg s3 p R.migStall 31 0) (satTo 32 us))
    serveStalled f s4 p b
  else s

/-- An access of a collective engine that stalls on a bolt (R151, R153): the fetch runs to its end inside the command, with
free retries, pages and duration (log 18). None is NO_MEMORY. -/
def fetchNow (s : State) (p b : Nat) : Option State :=
  if stalls (partOf s p) b then
    (beginFetch s p b).map fun t =>
      let bad := if freeBelow t 0 2 = 0 then 0 else BitVec.ofNat 16 (freeBelow t 1 65536)
      let us := freeBelow t 3 2001
      let u := fetchDone serve (spend (countStall t p) 4) p b bad (freeBelow t 2 16) us
      putReg u p R.migStall 31 0 (max (reg u p R.migStall 31 0) us)
  else some s

/-- A bolt made ready for a write by a collective engine. -/
def engineReady (s : State) (p b : Nat) : Option State := (fetchNow s p b).bind fun t => readyWrite t p b

/-- WEAR_SAVE: the figures are saved (R415). -/
def execWearSave (s : State) : Host.Outcome State Fault Refusal :=
  guarded .wearSave { s with wardrobe := { s.wardrobe with saved := s.wardrobe.wear } }

/-! ### The hint queue (R156) -/

/-- A hint record, Table 7-9. -/
structure HintRec where
  base  : Nat
  nbolt : Nat
  kind  : Nat
  clean : Bool
  deriving DecidableEq, Repr

/-- The address of the record at `MIG_HQ_HEAD`; none when the queue holds no record. -/
def hintAddr (x : Partition) : Option Nat :=
  let size := x.get R.migHqSize 16 0
  let head := x.get R.migHqHead 31 0
  if size = 0 ∨ head = x.get R.migHqTail 31 0 then none
  else some (x.get R.migHqBase 43 6 * 64 + 32 * (head % size))

/-- The record at the head. -/
def hintRec (s : State) (p : Nat) : Option HintRec :=
  (hintAddr (partOf s p)).map fun a =>
    let bs := (devRead s p a 32).1
    { base := leAt bs 0 8, nbolt := leAt bs 8 4, kind := leAt bs 0x0C 1
      clean := leAt bs 0x0E 2 == 0 && leAt bs 0x14 12 == 0 }

/-- Whether a record passes the checks of R156. -/
def HintRec.ok (r : HintRec) (x : Partition) : Bool :=
  r.clean && r.kind ≤ 5 && r.base % boltSize == 0 && boltBase ≤ r.base && r.nbolt != 0
  && decide ((r.base - boltBase) / boltSize + r.nbolt ≤ x.vbolts)

/-- The bolts of a record. -/
def HintRec.bolts (r : HintRec) : List Nat :=
  (List.range r.nbolt).map fun i => (r.base - boltBase) / boltSize + i

/-- A bolt that is to stay: brought in, given a frame, or taken off its way out (Table 7-8). -/
def heldBolt (s : State) (p b : Nat) : Option State :=
  match ((partOf s p).bolt b).st with
  | .zero => (freeFrame s p b).map fun t => giveFrame t p b .hbmDirty
  | .out => some (onPart s p fun x => x.setBolt b { x.bolt b with st := .hbmDirty })
  | _ => beginFetch s p b

/-- WANT on one bolt (Table 7-8); none stops the record. -/
def wantBolt (s : State) (p b : Nat) : Option State := beginFetch s p b

/-- KEEP on one bolt: brought in, given a frame or taken off its way out, and pinned, unless the pin
limit of R156 is reached. -/
def keepBolt (s : State) (p b : Nat) : Option State :=
  let x := partOf s p
  if !(x.bolt b).pinned && decide (usableBolts x - freeLow x ≤ pinnedCount x) then none
  else (heldBolt s p b).map fun t => onPart t p fun z => z.setBolt b { z.bolt b with keep := true }

/-- A step over bolts that stops at the first one that cannot be placed: the state, how many
were acted on, and whether it stopped. -/
def hintOver (f : State → Nat → Nat → Option State) (p : Nat) : List Nat → State → Nat → State × Nat × Bool
  | [], s, n => (s, n, false)
  | b :: bs, s, n => match f s p b with
    | some t => hintOver f p bs t (n + 1)
    | none => (s, n, true)

/-- The record at the head, when it is valid, of kind `k` and not yet acted on. -/
def hintTurn (s : State) (p k : Nat) : Option HintRec :=
  let x := partOf s p
  if x.ptstate = 1 ∧ x.hint = none then
    (hintRec s p).bind fun r => if r.ok x && r.kind == k then some r else none
  else none

/-- A record of kind `k` is acted on bolt by bolt, those that `pick` leaves in, until one cannot be placed. -/
def hintPlace (s : State) (p k : Nat) (pick : Partition → Nat → Bool) (f : State → Nat → Nat → Option State) : State :=
  match hintTurn s p k with
  | none => s
  | some r =>
    let q := hintOver f p (r.bolts.filter (pick (partOf s p))) s 0
    onPart q.1 p fun x => { x with hint := some { done := q.2.1, status := if q.2.2 then Status.noMemory else Status.ok } }

/-- Every bolt of a record. -/
def anyBolt (_ : Partition) (_ : Nat) : Bool := true

def execWantHint (p : Nat) (s : State) : Host.Outcome State Fault Refusal :=
  guarded (.wantHint p) (hintPlace s p 0 anyBolt wantBolt)

def execKeepHint (p : Nat) (s : State) : Host.Outcome State Fault Refusal :=
  guarded (.keepHint p) (hintPlace s p 1 anyBolt keepBolt)

def execUnkeepHint (p : Nat) (s : State) : Host.Outcome State Fault Refusal :=
  guarded (.unkeepHint p) (hintPlace s p 2 anyBolt fun t q b => some (onPart t q fun x => x.setBolt b { x.bolt b with keep := false }))

def execSpareHint (p : Nat) (s : State) : Host.Outcome State Fault Refusal :=
  guarded (.spareHint p) (hintPlace s p 3 anyBolt fun t q b => some (onPart t q fun x => x.setBolt b { x.bolt b with spare := true }))

/-- EVICT: the unpinned bolts of the range move to the Wardrobe; over the quota it stops NO_MEMORY
(R156, R157). -/
def execEvictHint (p : Nat) (s : State) : Host.Outcome State Fault Refusal :=
  guarded (.evictHint p) (hintPlace s p 4 (fun x b => !(x.bolt b).pinned) evictBolt)

/-- DROP: the contents of the unpinned bolts are discarded (R156). -/
def execDropHint (p : Nat) (s : State) : Host.Outcome State Fault Refusal :=
  guarded (.dropHint p) (
    match hintTurn s p 5 with
    | none => s
    | some r =>
      let x := partOf s p
      let bs := r.bolts.filter fun b => !(x.bolt b).pinned
      let s1 := putPart s p { x with hint := some { done := bs.length, status := Status.ok } }
      bs.foldl (fun t b => dropBolt t p b) s1)

/-- Whether the bolts of a record have arrived (WANT, KEEP) or left (EVICT). -/
def hintSettled (x : Partition) (r : HintRec) : Bool :=
  r.bolts.all fun b =>
    let st := (x.bolt b).st
    if r.kind ≤ 1 then st != .in_ else if r.kind = 4 then st != .out else true

/-- Writes `STATUS` and `DONE` of the record at the head and advances `MIG_HQ_HEAD`; vector 4 when
the queue is consumed. -/
def hintEnd (s : State) (p a status done : Nat) : State :=
  let s1 := devWrite (devWrite s p (a + 0x0D) [BitVec.ofNat 8 status]) p (a + 0x10) (toLE 4 done)
  let s2 := onPart s1 p fun x => { x.put R.migHqHead 31 0 (x.get R.migHqHead 31 0 + 1) with hint := none }
  if reg s2 p R.migHqHead 31 0 = reg s2 p R.migHqTail 31 0 then msix s2 p 4 else s2

/-- HINT_RECORD_COMPLETE: a record that fails a check completes NOT_RUN; one that was acted on
completes when its moves have (R156). -/
def hintRecordComplete (s : State) (p : Nat) : State :=
  let x := partOf s p
  match hintAddr x, hintRec s p with
  | some a, some r =>
    let s0 := (devRead s p a 32).2
    if x.ptstate != 1 then s
    else if !r.ok x then (if x.hint = none then hintEnd s0 p a Status.notRun 0 else s)
    else match x.hint with
      | some h => when_ (hintSettled x r) s (hintEnd s0 p a h.status h.done)
      | none => s
  | _, _ => s

def execHintRecordComplete (p : Nat) (s : State) : Host.Outcome State Fault Refusal :=
  guarded (.hintRecordComplete p) (hintRecordComplete s p)

/-- The fuel that walks a whole hint queue. -/
def hintCount (x : Partition) : Nat := (x.get R.migHqTail 31 0 + 2 ^ 32 - x.get R.migHqHead 31 0) % 2 ^ 32

/-- A partition reset abandons the queue: records not consumed complete ABORTED (R156). -/
def abandonHints : Nat → State → Nat → State
  | 0, s, _ => s
  | n + 1, s, p =>
    match hintAddr (partOf s p) with
    | none => s
    | some a =>
      let done := ((partOf s p).hint.map (·.done)).getD 0
      let s1 := devWrite (devWrite s p (a + 0x0D) [BitVec.ofNat 8 Status.aborted]) p (a + 0x10) (toLE 4 done)
      abandonHints n (onPart s1 p fun x => { x.put R.migHqHead 31 0 (x.get R.migHqHead 31 0 + 1) with hint := none }) p

end Sys2Proof.Machine
end

