-- ==== Sys2Proof/Machine/Remote.lean ====
section
/-! DEFINITION. Grants and the target's side of remote access (R155, R181-R187): checks of Table
8-14, reads, writes, atomics, and the grant commands. -/

namespace Sys2Proof.Machine

/-! ### Grants (R185, R186) -/

namespace Gs
def free : Nat := 0
def pinning : Nat := 1
def active : Nat := 2
def revoking : Nat := 3
end Gs

def gstate (x : Partition) (g : Nat) : Nat := x.get (R.gntCtl g) 11 10
def gEoff (x : Partition) (g : Nat) : Nat := x.get (R.gntCtl g) 63 20
def gBolts (x : Partition) (g : Nat) : Nat := x.get (R.gntSize g) 31 0
def gBase (x : Partition) (g : Nat) : Nat := x.get (R.gntBase g) 43 16 * boltSize
def gJob (x : Partition) (g : Nat) : Nat := x.get (R.gntJob g) 31 0

/-- The bolts of a grant. -/
def grantBolts (x : Partition) (g : Nat) : List Nat :=
  (List.range (gBolts x g)).map fun i => (gBase x g - boltBase) / boltSize + i

/-- Export ranges in use, as (offset, bolts): grants that are ACTIVE or REVOKING, and tombstones. -/
def exportsInUse (s : State) : List (Nat × Nat) :=
  s.parts.flatMap fun e =>
    let x := e.2
    (((List.range 256).filter fun g => 2 ≤ gstate x g).map fun g => (gEoff x g, gBolts x g))
      ++ x.tombs.map fun t => (t.eoff, t.nbolt)

/-- Bytes of the export window (R185). -/
def exportWindow : Nat := 2 ^ 44

/-- Whether a range fits the export window beside those in use. -/
def exportFits (used : List (Nat × Nat)) (off n : Nat) : Bool :=
  decide (off + n * boltSize ≤ exportWindow) &&
  used.all fun u => decide (off + n * boltSize ≤ u.1 ∨ u.1 + u.2 * boltSize ≤ off)

/-- An export offset of the device's free choice (log 5): the first fitting one from a free place on. -/
def placeExport (s : State) (n : Nat) : Option Nat :=
  let used := exportsInUse s
  let c := freeBelow s 0 (2 ^ 28) * boltSize
  let ends := used.map fun u => u.1 + u.2 * boltSize
  (c :: (ends.filter fun e => c ≤ e) ++ 0 :: ends).find? fun o => exportFits used o n

/-- The number of active grants of the device. -/
def activeGrants (s : State) : Nat :=
  (s.parts.map fun e => ((List.range 256).filter fun g => gstate e.2 g == Gs.active).length).sum

/-- One more pin of a grant on a bolt: a bolt in the Wardrobe is brought in, one never written gets
a frame, one on its way out stays (R155). -/
def pinBolt (s : State) (p b : Nat) : Option State :=
  (heldBolt s p b).map fun t => onPart t p fun x => x.setBolt b { x.bolt b with gpins := (x.bolt b).gpins + 1 }

/-- One pin less. -/
def unpinBolt (x : Partition) (b : Nat) : Partition := x.setBolt b { x.bolt b with gpins := (x.bolt b).gpins - 1 }

/-- Whether a grant's settings pass the checks of CREATE (R186). -/
def grantOk (x : Partition) (g : Nat) : Bool :=
  gBolts x g != 0 && decide (boltBase ≤ gBase x g)
  && decide (gBase x g + gBolts x g * boltSize ≤ boltBase + x.vbolts * boltSize)
  && x.get (R.gntJob g) 34 32 != 0

/-- A grant command ends: `GSTAT` and vector 5 (Table 16-11). -/
def grantEnd (s : State) (p g st status : Nat) : State :=
  msix (putReg (putReg s p (R.gntCtl g) 11 10 st) p (R.gntCtl g) 19 12 status) p 5

/-- A command in a state that does not take it (R186). -/
def grantBusy (s : State) (p g : Nat) : State := msix (putReg s p (R.gntCtl g) 19 12 Status.busy) p 5

/-- CREATE: a FREE slot starts PINNING (R186). -/
def grantCreate (s : State) (p g : Nat) : State :=
  let x := partOf s p
  if x.ptstate != 1 then s
  else if gstate x g != Gs.free then grantBusy s p g
  else
    let pins := if grantOk x g then readyAll pinBolt s p (grantBolts x g) else none
    let run : GrantRun :=
      { status := if !grantOk x g then Status.notRun else if pins.isSome then Status.ok else Status.noMemory
        pinned := pins.isSome }
    putReg (onPart (pins.getD s) p fun y => { y with grants := sset ⟨0, false⟩ y.grants g run }) p (R.gntCtl g) 11 10 Gs.pinning

def execCreate (p slot : Nat) (s : State) : Host.Outcome State Fault Refusal :=
  guarded (.create p slot) (grantCreate s p slot)

/-- GRANT_PINNED: pinning ends, and the slot is ACTIVE with an export offset, or FREE (R186). -/
def grantPinned (s : State) (p g : Nat) : State :=
  let x := partOf s p
  if gstate x g != Gs.pinning then s
  else
    let run := sget ⟨0, false⟩ x.grants g
    let clear := fun (t : State) => onPart t p fun y => { y with grants := sset ⟨0, false⟩ y.grants g ⟨0, false⟩ }
    let unpin := fun (t : State) => onPart t p fun y =>
      if run.pinned then (grantBolts x g).foldl unpinBolt y else y
    if run.status != Status.ok then grantEnd (clear (unpin s)) p g Gs.free run.status
    else if (grantBolts x g).any fun b => (x.bolt b).st == .in_ then s
    else
      match (if activeGrants s < 1024 then placeExport s (gBolts x g) else none) with
      | some o => grantEnd (putReg (clear (spend s 1)) p (R.gntCtl g) 63 20 o) p g Gs.active Status.ok
      | none => grantEnd (clear (unpin s)) p g Gs.free Status.noMemory

def execGrantPinned (p slot : Nat) (s : State) : Host.Outcome State Fault Refusal :=
  guarded (.grantPinned p slot) (grantPinned s p slot)

/-- REVOKE: an ACTIVE slot drains (R186). -/
def grantRevoke (s : State) (p g : Nat) : State :=
  let x := partOf s p
  if x.ptstate != 1 then s
  else if gstate x g != Gs.active then grantBusy s p g
  else putReg s p (R.gntCtl g) 11 10 Gs.revoking

def execRevoke (p slot : Nat) (s : State) : Host.Outcome State Fault Refusal :=
  guarded (.revoke p slot) (grantRevoke s p slot)

/-- REVOKE_DRAINED: bolts are unpinned, the slot is FREE, its range a tombstone (R186). -/
def revokeDrained (s : State) (p g : Nat) : State :=
  let x := partOf s p
  if gstate x g != Gs.revoking then s
  else
    let t : Tombstone := { eoff := gEoff x g, nbolt := gBolts x g, job := BitVec.ofNat 32 (gJob x g) }
    let s1 := onPart s p fun y =>
      { (grantBolts x g).foldl unpinBolt y with tombs := y.tombs ++ [t] }
    grantEnd s1 p g Gs.free Status.ok

def execRevokeDrained (p slot : Nat) (s : State) : Host.Outcome State Fault Refusal :=
  guarded (.revokeDrained p slot) (revokeDrained s p slot)

/-- TOMBSTONE_EXPIRY: the range may be used again (R186). -/
def execTombstoneExpiry (p : Nat) (eoff : Nat) (s : State) : Host.Outcome State Fault Refusal :=
  guarded (.tombstoneExpiry p eoff)
    (onPart s p fun x => { x with tombs := x.tombs.filter fun t => t.eoff != eoff })

/-! ### Checks at the target (Table 8-14) -/

/-- The ACTIVE or REVOKING grant that holds an export offset. -/
def grantAt (s : State) (a : Nat) : Option (Nat × Nat) :=
  s.parts.findSome? fun e =>
    ((List.range 256).find? fun g => 2 ≤ gstate e.2 g &&
      decide (gEoff e.2 g ≤ a ∧ a < gEoff e.2 g + gBolts e.2 g * boltSize)).map fun g => (e.1, g)

/-- The partition of a tombstone that holds an export offset, and its job. -/
def tombAt (s : State) (a : Nat) : Option (Nat × JobId) :=
  s.parts.findSome? fun e =>
    (e.2.tombs.find? fun t => decide (t.eoff ≤ a ∧ a < t.eoff + t.nbolt * boltSize)).map fun t => (e.1, t.job)

/-- What the target decides about a request before it acts. -/
inductive Verdict where
  | status (code : Nat)
  | violation (part : Option Nat)
  | perform (p off : Nat)
  deriving DecidableEq, Repr

/-- The checks of Table 8-14, in order; `perm` is the bit of `GNT_JOB` that the request needs. -/
def verdict (s : State) (m : Msg) (perm n : Nat) : Verdict :=
  let a := m.addr.toNat
  match grantAt s a with
  | some (p, g) =>
    let x := partOf s p
    let mine := gJob x g == m.job.toNat
    if panelFenced s p then .status Status.fenced
    else if gstate x g == Gs.revoking then
      if mine then .status Status.poison else .violation (some p)
    else if mine && x.get (R.gntJob g) perm perm == 1 && decide (a + n ≤ gEoff x g + gBolts x g * boltSize) then
      if x.keyed then .perform p (gBase x g - boltBase + (a - gEoff x g)) else .status Status.poison
    else .violation (some p)
  | none =>
    match tombAt s a with
    | some (p, job) => if job = m.job then .status Status.poison else .violation (some p)
    | none => .violation none

/-- A write or atomic to the base range is a violation (R273). -/
def baseVerdict (s : State) : Verdict → Verdict
  | .perform p off => if inBase (partOf s p) (boltBase + off) then .violation (some p) else .perform p off
  | v => v

/-- A violation at the target is counted (R386). -/
def countViolation (s : State) : Option Nat → State
  | some p => violation s p
  | none => devViolation s

/-- Answers a request. -/
def answer (s : State) (m : Msg) (mtype status : Nat) (payload collar : List Byte) : State :=
  sendMsg s (responseTo s m mtype status payload collar)

/-- Whether this module is the target of a message of type `t`. -/
def forMe (s : State) (m : Msg) (t : Nat) : Bool := m.mtype == t && m.dst == ownId s

/-! ### Reads and writes -/

/-- RD_REQ at the target (R181, R187). -/
def serveRead (s : State) (via : Option Nat) (m : Msg) : State :=
  if !forMe s m Mt.rdReq then s
  else match acceptMsg s via m with
    | (none, s0) => s0
    | (some q, s0) =>
      match verdict s0 q 32 q.len with
      | .status c => answer s0 q Mt.rdRsp c [] []
      | .violation p => answer (countViolation s0 p) q Mt.rdRsp Status.ok (zeros q.len) (collarBytes zeroCollar)
      | .perform p off =>
        let x := partOf s0 p
        answer (touchTiles s0 p [off / 4096]) q Mt.rdRsp Status.ok (mread x.mem off q.len)
          (collarBytes (tileCollar x (off / 4096)))

def execRdReq (via : Option Nat) (m : Msg) (s : State) : Host.Outcome State Fault Refusal :=
  guarded (.rdReq via m) (serveRead s via m)

/-- Kept elements of data tile `t`, from element `n` on, whose block scales change from `old` to `new`: each is encoded again
at its value (R144); a block with one that cannot be represented is NaN (R93), and the scales are answered. -/
def rescaleKept (x : Partition) (t f scl n : Nat) (old new : Nat → Nat) : Partition × (Nat → Nat) :=
  let c := tileCollar x t
  let v := viewTile (tileBytes x t) c f scl
  let w := fmtWidth f
  let bs := max (blockSize scl) 1
  let kept := fun i => decide (n ≤ i) && old (i / bs) != new (i / bs)
  let code := fun i =>
    let k := elemAt v.payload w i
    if kept i then encodeFmt f false (Num.div (Num.mul (decodeFmt f k) (scaleValue scl (old (i / bs)))) (scaleValue scl (new (i / bs))))
    else some k
  let is := List.range (v.extent f)
  if v.bad || c.stile || !is.any kept then (x, new)
  else
    let pay := tilePayload f (is.map fun i => (code i).getD 0)
    let broken := (is.filter fun i => (code i).isNone).map (· / bs)
    (putTile x t pay (setFld c 31 0 (crc32c pay)), fun b => if broken.contains b then scaleNan scl else new b)

/-- The data or the scale bytes of a tile have come; with both the write is complete. -/
def noteMerge (x : Partition) (t scl : Nat) (m : Merge) : Partition :=
  let done := match m.data with
    | some n => decide (cdiv n (max (blockSize scl) 1) ≤ m.seen)
    | none => false
  { x with merged := sset .none_ x.merged t (if done then .none_ else m) }

/-- Block scales that another module writes (R142, R181): the kept elements of the data tile that they belong to follow. -/
def applyScales (x : Partition) (t off : Nat) (c : Collar) (bs : List Byte) : Partition :=
  let g := scaleGeom c.fmt c.scl
  let at_ := (t % 16 - g.1) * 4096 + off
  let dt := t / 16 * 16 + at_ / g.2
  let first := at_ % g.2
  let q := sget Merge.none_ x.merged dt
  let old := tileBytes x t
  let inRun := fun b => decide (first ≤ b ∧ b < first + bs.length)
  let oldS := fun b => (old.getD (off + (b - first)) 0).toNat
  let newS := fun b => if inRun b then (bs.getD (b - first) 0).toNat else oldS b
  let r := if (c.scl = 1 ∨ c.scl = 2) ∧ g.1 ≤ t % 16 then
      rescaleKept x dt c.fmt c.scl (q.data.getD 0) (fun b => if inRun b then oldS b else newS b) newS
    else (x, newS)
  let m := mergeScales old (tileCollar x t) off ((List.range bs.length).map fun i => BitVec.ofNat 8 (r.2 (first + i))) c.fmt c.scl
    c.poison
  let y := putTile r.1 t m.1 m.2
  noteMerge y dt c.scl { q with seen := q.seen + bs.length }

/-- A write performed at the target: with a collar the tile is stored whole or merged, without one
as plain data (R144, R148, R181). -/
def applyWrite (x : Partition) (off : Nat) (m : Msg) : Partition :=
  let t := off / 4096
  if m.col then
    let c := collarOf m.collar
    let n := if c.nelem = 0 then elemsPerTile c.fmt else c.nelem
    let note := fun y : Partition =>
      if c.scl = 1 ∨ c.scl = 2 then noteMerge y t c.scl { sget Merge.none_ y.merged t with data := some n } else y
    if c.stile then applyScales x t (off % 4096) c m.payload
    else if m.len = 4096 then note (putTile x t m.payload c)
    else
      let r := mergeTile (tileBytes x t) (tileCollar x t) m.payload c
      note (putTile x t r.1 r.2)
  else plainTileWrite x off m.payload false false false

/-- WR_REQ at the target (R181, R182, R187). -/
def serveWrite (s : State) (via : Option Nat) (m : Msg) : State :=
  if !forMe s m Mt.wrReq then s
  else match acceptMsg s via m with
    | (none, s0) => s0
    | (some q, s0) =>
      match baseVerdict s0 (verdict s0 q 33 q.len) with
      | .status c => answer s0 q Mt.wrAck c [] []
      | .violation p => answer (countViolation s0 p) q Mt.wrAck Status.ok [] []
      | .perform p off =>
        match readyWrite s0 p (off / boltSize) with
        | some t => answer (onPart t p fun x => applyWrite x off q) q Mt.wrAck Status.ok [] []
        | none => answer s0 q Mt.wrAck Status.noMemory [] []

def execWrReq (via : Option Nat) (m : Msg) (s : State) : Host.Outcome State Fault Refusal :=
  guarded (.wrReq via m) (serveWrite s via m)

/-! ### Atomics (R183, R184) -/

/-- The new value of an atomic (Table 8-12) on words of `bits` bits; none for a reserved operation
or a floating one on 8 bytes. -/
def amoNew (aop bits old a b : Nat) : Option Nat :=
  let m := 2 ^ bits
  let a := a % m
  let b := b % m
  let so := sext bits old
  let sa := sext bits a
  let fp := fun (f : Num → Num → Num) => if bits = 32 then some (toFp32 (f (ofFp32 old) (ofFp32 a))) else none
  match aop with
  | 0x00 => some ((old + a) % m)
  | 0x01 => fp Num.add
  | 0x02 => some a
  | 0x03 => some (if old = a then b else old)
  | 0x04 => some (old &&& a)
  | 0x05 => some (old ||| a)
  | 0x06 => some (old ^^^ a)
  | 0x07 => some (if so < sa then a else old)
  | 0x08 => some (if sa < so then a else old)
  | 0x09 => some (max old a)
  | 0x0A => some (min old a)
  | 0x0B => fp Num.max
  | 0x0C => fp Num.min'
  | _ => none

/-- An atomic on the bolt range of a partition in one indivisible step: status and old value (R184). -/
def amoBolt (s : State) (p off aop bits a b : Nat) : State × Nat × Nat :=
  let x := partOf s p
  let t := off / 4096
  let n := bits / 8
  if panelFenced s p then (s, Status.fenced, 0)
  else if !x.keyed then (s, Status.poison, 0)
  else
    match readyWrite s p (off / boltSize) with
    | none => (s, Status.noMemory, 0)
    | some s1 =>
      let y := partOf s1 p
      let pay := tileBytes y t
      let c := tileCollar y t
      let fails := !crcOk pay c || !collarClean c
      if fails || c.poison then ((if fails then tileFailed s p t else s), Status.poison, 0)
      else
        let old := le (slice pay (off % 4096) n)
        match amoNew aop bits old a b with
        | none => (s, Status.notRun, 0)
        | some v =>
          let pay' := pay.take (off % 4096) ++ toLE n v ++ pay.drop (off % 4096 + n)
          (putPart s1 p (putTile y t pay' (setFld c 31 0 (crc32c pay'))), Status.ok, old)

/-- AMO_REQ at the target (R184, R187). -/
def serveAmo (s : State) (via : Option Nat) (m : Msg) : State :=
  if !forMe s m Mt.amoReq then s
  else match acceptMsg s via m with
    | (none, s0) => s0
    | (some q, s0) =>
      let bits := if q.asz then 64 else 32
      let reply := fun (t : State) (st old : Nat) => answer t q Mt.amoRsp st (toLE 8 old) []
      match baseVerdict s0 (verdict s0 q 34 (bits / 8)) with
      | .status c => reply s0 c 0
      | .violation p => reply (countViolation s0 p) Status.ok 0
      | .perform p off =>
        if off % (bits / 8) != 0 || (amoNew q.aop.toNat bits 0 0 0).isNone then reply s0 Status.notRun 0
        else
          let r := amoBolt s0 p off q.aop.toNat bits (leAt q.payload 0 8) (leAt q.payload 8 8)
          reply r.1 r.2.1 r.2.2

def execAmoReq (via : Option Nat) (m : Msg) (s : State) : Host.Outcome State Fault Refusal :=
  guarded (.amoReq via m) (serveAmo s via m)

end Sys2Proof.Machine
end

