-- ==== Sys2Proof/Machine/Pocket.lean ====
section
/-! DEFINITION. The Pocket (R285-R293): table entries, the command ring, stashes and fetches to a host
or a peer, gathered regions. -/

namespace Sys2Proof.Machine

/-! ### Device rings in memory (R287, R303, R439) -/

/-- The device's `HEAD` of a ring whose header holds `inMem`: its own while memory is behind. -/
def ringHead (own : Option Nat) (inMem : Nat) : Nat := own.getD inMem

/-- `HEAD` written to the header; what memory then lacks, the device keeps (R439). -/
def ringAdvance (s : State) (p hdr head : Nat) : State × Option Nat :=
  let s1 := devWrite s p (hdr + 8) (toLE 4 head)
  (s1, if (devReadLE s1 p (hdr + 8) 4).1 = head then none else some head)

/-! ### Table entries (R286, Tables 12-4 and 12-6) -/

namespace Pk
def inn : Nat := 0
def stashing : Nat := 1
def away : Nat := 2
def fetching : Nat := 3
def kept : Nat := 4
def claimed : Nat := 5
def dropped : Nat := 6
end Pk

/-- A pocket table entry, Table 12-4. -/
structure PkEntry where
  addr   : Nat
  haddr  : Nat
  nbolt  : Nat
  kind   : Nat
  estate : Nat
  toff   : Nat
  semen  : Bool
  cli    : Nat
  sid    : Nat
  layer  : Nat
  sctr   : Nat
  clean  : Bool
  deriving DecidableEq, Repr

/-- Entry `i` of the table. -/
def pkEntry (s : State) (p i : Nat) : PkEntry :=
  let a := (partOf s p).get R.pkTbase 63 6 * 64 + 64 * i
  let b := (devRead s p a 64).1
  let c := leAt b 0x18 2
  { addr := a, haddr := leAt b 0 8, nbolt := leAt b 8 4, kind := leAt b 0x0C 1, estate := leAt b 0x0D 1
    toff := leAt b 0x10 8, semen := nfld c 15 15 == 1, cli := nfld c 9 0, sid := nfld (leAt b 0x1A 1) 5 0
    layer := leAt b 0x1C 2, sctr := leAt b 0x20 8
    clean := leAt b 0x0F 1 == 0 && nfld c 14 10 == 0 && nfld (leAt b 0x1A 1) 7 6 == 0
      && leAt b 0x1B 1 == 0 && leAt b 0x1E 2 == 0 && le (slice b 0x28 24) == 0 && leAt b 0x0C 1 ≤ 2
      && leAt b 0 8 % boltSize == 0 && leAt b 8 4 != 0 }

/-- The bolts of the region that the partition has (R440 for the rest). -/
def PkEntry.bolts (e : PkEntry) (x : Partition) : List Nat :=
  if e.haddr < boltBase then []
  else ((List.range e.nbolt).map fun i => (e.haddr - boltBase) / boltSize + i).filter fun b => b < x.vbolts

/-- Bolt `k` of the region, none where the region leaves the bolt range (R440). -/
def PkEntry.boltAt (e : PkEntry) (x : Partition) (k : Nat) : Option Nat :=
  let b := (e.haddr - boltBase) / boltSize + k
  if e.haddr < boltBase ∨ x.vbolts ≤ b then none else some b

/-- `ESTATE` written. -/
def pkState (s : State) (p : Nat) (e : PkEntry) (v : Nat) : State := devWrite s p (e.addr + 0x0D) (toLE 1 v)

/-- `ESTATE` and `ESTAT` written, the semaphore posted (R288), vector 3 unless OK (Table 16-11). -/
def pkOutcome (s : State) (p : Nat) (e : PkEntry) (v status : Nat) : State :=
  let s1 := devWrite s p (e.addr + 0x0D) (toLE 1 v ++ toLE 1 status)
  let s2 := if e.semen then postSem s1 p (reg s1 p R.pkCtl 15 10) e.cli e.sid 1 else s1
  if status = Status.ok then s2 else msix s2 p 3

/-- One bolt under a Pocket drop (Table 7-8): frame, flash copy and KEEP pin go; a bolt that a grant
pins is passed over. -/
def pocketDropBolt (s : State) (p b : Nat) : State :=
  if 0 < ((partOf s p).bolt b).gpins then s
  else
    let s1 := onPart s p fun x => x.setBolt b { x.bolt b with keep := false, gather := false }
    dropBolt s1 p b

/-- A Pocket drop of a region (R288). -/
def pocketDrop (s : State) (p : Nat) (e : PkEntry) : State :=
  (e.bolts (partOf s p)).foldl (fun t b => pocketDropBolt t p b) s

/-- Marks the bolts of a region as KEPT or CLAIMED, or not (R292). -/
def gatherMark (s : State) (p : Nat) (e : PkEntry) (v : Bool) : State :=
  onPart s p fun x => (e.bolts x).foldl (fun y b => y.setBolt b { y.bolt b with gather := v }) x

/-- Entry `i` joins or leaves the KEPT ones. -/
def keptMark (s : State) (p i : Nat) (v : Bool) : State :=
  onPart s p fun x => { x with pocket := { x.pocket with
    kept := (x.pocket.kept.filter (· != i)) ++ (if v then [i] else []) } }

/-! ### The target (R289) -/

/-- The job of the Pocket. -/
def pkJob (x : Partition) : JobId := BitVec.ofNat 32 (x.get (R.cxJob (x.get R.pkCtl 15 10)) 31 0)

/-- The target base. -/
def pkTarget (x : Partition) : Nat := x.get R.pkTgt 63 16 * 65536

/-- Whether the target is host space. -/
def pkHost (x : Partition) : Bool := nfld (pkTarget x) 63 62 == 2

/-- Bytes of one bolt in the target. -/
def pkStride (x : Partition) : Nat := if pkHost x then 66560 else 65536

/-- The device ID in a Nyzan global address (Table 7-2). -/
def globalDev (a : Nat) : DevId := BitVec.ofNat 18 (nfld a 61 44)

/-- Whether a target in this module is granted to the job with `PRD` and `PWR`; what another module
grants, only it can tell. -/
def pkGranted (s : State) (x : Partition) (a : Nat) : Bool :=
  globalDev a != ownId s ||
    match grantAt s (nfld a 43 0) with
    | some (q, g) =>
      let y := partOf s q
      gJob y g == (pkJob x).toNat && gstate y g == Gs.active && y.get (R.gntJob g) 33 32 == 3
    | none => false

/-- The checks of a STASH on its target and region (R288). -/
def stashOk (s : State) (p : Nat) (e : PkEntry) : Bool :=
  let x := partOf s p
  let a := pkTarget x + e.toff
  decide (e.toff + e.nbolt * pkStride x ≤ x.get R.pkTsize 31 0 * 1024)
  && (if pkHost x then e.toff % 4096 == 0 && (hostPort s p (nfld a 51 0)).isSome && nfld a 61 52 == 0
      else nfld (pkTarget x) 63 62 == 1 && e.toff % 65536 == 0 && pkGranted s x a)
  && !((e.bolts x).any fun b => decide (0 < (x.bolt b).gpins))

/-- The GCM nonce of a tile of a stash (R289). -/
def pkNonce (idx sctr unit_ : Nat) : BitVec 96 :=
  BitVec.ofNat 96 (idx % 2 ^ 12 + sctr % 2 ^ 48 * 2 ^ 12 + unit_ % 2 ^ 36 * 2 ^ 60)

/-- The 66,560 bytes of bolt `k` of a region in a host target, whose tiles `tile` gives (R289). -/
def pkHostBolt (key : BitVec 256) (idx sctr k : Nat) (tile : Nat → List Byte × Collar) : List Byte :=
  let tiles := (List.range 16).map fun i =>
    let col := collarBytes (tile i).2
    let r := Config.gcmSeal key (pkNonce idx sctr (16 * k + i)) col (tile i).1
    (r.1, col ++ r.2 ++ zeros 32)
  tiles.flatMap (·.1) ++ tiles.flatMap (·.2)

/-- What asking for one unit came to. -/
inductive Asked where
  | sent
  | failed (status : Nat)
  | later
  deriving DecidableEq, Repr

/-- The bolt that unit `u` of an entry lies in, counted in the region. -/
def unitBolt (x : Partition) (u : Nat) : Nat := if pkHost x then u else u / 16

/-- The number of units of an entry. -/
def unitCount (x : Partition) (e : PkEntry) : Nat := if pkHost x then e.nbolt else 16 * e.nbolt

/-- The region as it stood when the record of a STASH was taken; a bolt that lay in FLASH then is copied as it comes
from there (R289). -/
def stashView (x : Partition) (o : PocketOp) (b : Nat) : Partition :=
  if o.cold.contains b then x else { x with mem := o.mem, collars := o.collars }

/-- The region's tiles of unit `u` are at hand, its bolt being brought in (R289); beyond the bolt range stand zero tiles,
which is a violation (R440). -/
def stashRead (s : State) (p : Nat) (e : PkEntry) (o : PocketOp) (u : Nat) : State × Option (Nat → List Byte × Collar) :=
  let x := partOf s p
  match e.boltAt x (unitBolt x u) with
  | none => (violation s p, some fun _ => (zeros 4096, zeroCollar))
  | some b =>
    match fetchNow s p b with
    | none => (s, none)
    | some s0 =>
      let s1 := if pkHost x then touchTiles s0 p (boltTiles b) else touchTiles s0 p [16 * b + u % 16]
      let y := stashView (partOf s1 p) o b
      (s1, some fun i => (tileBytes y (16 * b + i), tileCollar y (16 * b + i)))

/-- Unit `u` of a STASH leaves. -/
def stashUnit (s : State) (p idx : Nat) (e : PkEntry) (o : PocketOp) (u : Nat) : State × Asked :=
  let x := partOf s p
  let k := unitBolt x u
  let a := pkTarget x + e.toff + k * pkStride x
  if panelFenced s p then (s, .failed Status.fenced)
  else match stashRead s p e o u with
    | (_, none) => (s, .failed Status.noMemory)
    | (s1, some tile) =>
      if pkHost x then
        match hostPut s1 p (.pocketWrite idx) (nfld a 51 0) (pkHostBolt x.pktKey idx e.sctr k tile) false with
        | some s2 => (s2, .sent)
        | none => (s1, .failed Status.notRun)
      else
        let t := tile (u % 16)
        let m := { blankMsg Mt.wrReq (pkJob x) (globalDev a) (nfld a 43 0 + 4096 * (u % 16)) with
          len := 4096, col := true, payload := t.1, collar := collarBytes t.2 }
        let r := sendRequest s1 anyPort p (x.get R.pkCtl 15 10) (.pocketWrite p idx) m
        if r.2 then (r.1, .sent) else (s, .later)

/-- Unit `u` of a FETCH is asked for. -/
def fetchUnit (s : State) (p idx : Nat) (e : PkEntry) (u : Nat) : State × Asked :=
  let x := partOf s p
  let k := unitBolt x u
  let a := pkTarget x + e.toff + k * pkStride x
  if pkHost x then
    match hostGet s p (.pocketRead idx k) (nfld a 51 0) 66560 with
    | some s2 => (s2, .sent)
    | none => (s, .failed Status.poison)
  else
    let m := { blankMsg Mt.rdReq (pkJob x) (globalDev a) (nfld a 43 0 + 4096 * (u % 16)) with len := 4096 }
    let r := sendRequest s anyPort p (x.get R.pkCtl 15 10) (.pocketRead p idx u) m
    if r.2 then (r.1, .sent) else (s, .later)

/-- Tile `i` of bolt `k` of the region, none beyond the bolt range. -/
def PkEntry.tileAt (e : PkEntry) (x : Partition) (k i : Nat) : Option Nat := (e.boltAt x k).map fun b => 16 * b + i

/-- A tile of a FETCH that failed is POISON in HBM, with no stated payload (Table 12-6). -/
def fetchPoison (s : State) (p : Nat) : Option Nat → State
  | none => violation s p
  | some t =>
    match engineReady s p (t / 16) with
    | none => errEvent s p 11
    | some s1 => poisonedTile s1 p t

/-- A tile of a FETCH arrives: its `CRC` is checked (R289); false where it failed. -/
def fetchTile (s : State) (p : Nat) (pay : List Byte) (c : Collar) : Option Nat → State × Bool
  | none => (violation s p, crcOk pay c)
  | some t =>
    if crcOk pay c then
      match engineReady s p (t / 16) with
      | some s1 => (onPart s1 p fun y => putTile y t pay c, true)
      | none => (errEvent s p 11, false)
    else (fetchPoison (tileFailed s p t) p (some t), false)

/-- The operation on entry `idx` changed. -/
def onPkOp (s : State) (p idx : Nat) (f : PocketOp → PocketOp) : State :=
  onPart s p fun x => { x with pocket := { x.pocket with
    running := x.pocket.running.map fun o => if o.idx = idx then f o else o } }

/-- The operation on entry `idx`. -/
def pkOp (s : State) (p idx : Nat) : Option PocketOp :=
  (partOf s p).pocket.running.find? fun o => o.idx == idx

/-- Requests of one operation in flight at once; what is beyond waits. -/
def pkWindow : Nat := 64

/-- Sends what an operation may send. -/
def pkPump (p idx : Nat) : Nat → State → State
  | 0, s => s
  | fuel + 1, s =>
    match pkOp s p idx with
    | none => s
    | some o =>
      let e := pkEntry s p idx
      if unitCount (partOf s p) e ≤ o.next || pkWindow ≤ o.out then s
      else
        let r := if o.fetch then fetchUnit s p idx e o.next else stashUnit s p idx e o o.next
        match r.2 with
        | .later => s
        | .sent => pkPump p idx fuel (onPkOp r.1 p idx fun o => { o with next := o.next + 1, out := o.out + 1 })
        | .failed c =>
          let x := partOf s p
          let ts := if pkHost x then (List.range 16).map fun i => e.tileAt x o.next i else [e.tileAt x (o.next / 16) (o.next % 16)]
          let s1 := if o.fetch then ts.foldl (fun t i => fetchPoison t p i) r.1 else r.1
          pkPump p idx fuel (onPkOp s1 p idx fun o => { o with next := o.next + 1, fails := o.fails ++ [c] })

/-- Enough turns of `pkPump` for every unit of an entry. -/
def pkFuel (s : State) (p idx : Nat) : Nat := 16 * (pkEntry s p idx).nbolt + 1

/-- One request of an operation is over; the next one leaves. -/
def pkReply (s : State) (p idx : Nat) (fails : List Nat) : State :=
  let s1 := onPkOp s p idx fun o => { o with out := o.out - 1, fails := o.fails ++ fails }
  pkPump p idx (pkFuel s1 p idx) s1

/-- A bolt arrives from the host, or its request ended POISON (R289). -/
def pkHostArrive (s : State) (p idx k : Nat) (data : List Byte) (bad : Bool) : State :=
  match pkOp s p idx with
  | none => s
  | some _ =>
    let e := pkEntry s p idx
    let r := (List.range 16).foldl (fun (acc : State × Bool) i =>
      let t := e.tileAt (partOf s p) k i
      let col := slice data (65536 + 64 * i) 16
      let plain := if bad then none
        else Config.gcmOpen (partOf s p).pktKey (pkNonce idx e.sctr (16 * k + i)) col (slice data (4096 * i) 4096)
          (slice data (65536 + 64 * i + 16) 16)
      match plain with
      | some pay =>
        let w := fetchTile acc.1 p pay (collarOf col) t
        (w.1, acc.2 && w.2)
      | none => (fetchPoison acc.1 p t, false)) (s, true)
    pkReply r.1 p idx (if r.2 then [] else [Status.poison])

/-- A tile arrives from a peer, or its request ended otherwise than OK. -/
def pkPeerArrive (s : State) (p idx u status : Nat) (pay : List Byte) (c : Collar) : State :=
  match pkOp s p idx with
  | none => s
  | some _ =>
    let t := (pkEntry s p idx).tileAt (partOf s p) (u / 16) (u % 16)
    if status = Status.ok then
      let w := fetchTile s p pay c t
      pkReply w.1 p idx (if w.2 then [] else [Status.poison])
    else pkReply (fetchPoison s p t) p idx [Status.poison]

/-- Starts what waits, four at a time (R290). -/
def pkNext : Nat → State → Nat → State
  | 0, s, _ => s
  | n + 1, s, p =>
    let q := (partOf s p).pocket
    match q.waiting with
    | [] => s
    | w :: ws =>
      if 4 ≤ q.running.length then s
      else
        let s1 := onPart s p fun x => { x with pocket := { x.pocket with running := q.running ++ [w], waiting := ws } }
        pkNext n (pkPump p w.idx (pkFuel s1 p w.idx) s1) p

/-- A FETCH of entry `idx` that has not begun. -/
def PocketOp.fetchOf (idx : Nat) : PocketOp :=
  { idx := idx, fetch := true, next := 0, out := 0, fails := [], mem := [], collars := [], cold := [] }

/-- A STASH of entry `idx` that has not begun, with its region as it stands (R289). -/
def PocketOp.stashOf (x : Partition) (idx : Nat) (e : PkEntry) : PocketOp :=
  let first := (e.haddr - boltBase) / boltSize
  let within := fun t => decide (first ≤ t / 16 ∧ t / 16 < first + e.nbolt)
  { idx := idx, fetch := false, next := 0, out := 0, fails := [], mem := x.mem.filter fun c => within (c.1 / 4096)
    collars := x.collars.filter fun c => within c.1
    cold := (e.bolts x).filter fun b => (x.bolt b).st == .flash || (x.bolt b).st == .in_ }

/-- A STASH or FETCH is queued, and starts if fewer than four run (R290). -/
def pkQueue (s : State) (p : Nat) (o : PocketOp) : State :=
  pkNext 4 (onPart s p fun x => { x with pocket := { x.pocket with waiting := x.pocket.waiting ++ [o] } }) p

/-! ### The command ring (R287, R288) -/

/-- The ring header. -/
def pkRing (x : Partition) : Nat := x.get R.pkRbase 63 6 * 64

/-- The Pocket's `HEAD`. -/
def pkHead (s : State) (p : Nat) : Nat :=
  ringHead (partOf s p).pocket.head (devReadLE s p (pkRing (partOf s p) + 8) 4).1

/-- The record at `HEAD`: its address, command and index; none when the ring is empty. -/
def pkRecord (s : State) (p : Nat) : Option (Nat × Nat × Nat) :=
  let x := partOf s p
  let size := x.get R.pkRsize 16 0
  let head := pkHead s p
  if x.ptstate ≠ 1 ∨ x.get R.pkCtl 0 0 = 0 ∨ size = 0 ∨ (devReadLE s p (pkRing x) 4).1 = head then none
  else
    let a := pkRing x + 64 + 16 * (head % size)
    let b := (devRead s p a 16).1
    some (a, leAt b 0 1, leAt b 4 2)

/-- The device reads the ring while it is enabled: the header and the record at `HEAD` (R287, R440). -/
def pkPoll (s : State) (p : Nat) : State :=
  let x := partOf s p
  if x.ptstate ≠ 1 ∨ x.get R.pkCtl 0 0 = 0 ∨ x.get R.pkRsize 16 0 = 0 then s
  else
    let s1 := (devRead s p (pkRing x) 16).2
    match pkRecord s p with
    | none => s1
    | some r => (devRead s1 p r.1 16).2

/-- The device reads entry `i` of the table (R440). -/
def pkLook (s : State) (p i : Nat) : State := (devRead s p (pkEntry s p i).addr 64).2

/-- A record is done: `STATUS` is written, `HEAD` advances; vector 3 for NOT_RUN. -/
def pkRecordEnd (s : State) (p a status : Nat) : State :=
  let s1 := devWrite s p (a + 1) (toLE 1 status)
  let r := ringAdvance s1 p (pkRing (partOf s p)) ((pkHead s p + 1) % 2 ^ 32)
  let s2 := onPart r.1 p fun x => { x with pocket := { x.pocket with head := r.2 } }
  if status = Status.notRun then msix s2 p 3 else s2

/-- The record at the head is taken when it holds `cmd`; one with a reserved command is NOT_RUN
whichever command takes it (Table 12-5). -/
def pkTake (s : State) (p cmd : Nat) (act : State → Nat → State × Nat) : State :=
  let s0 := pkPoll s p
  match pkRecord s p with
  | none => s0
  | some (a, c, i) =>
    if c = cmd then
      let r := act s0 i
      pkRecordEnd r.1 p a r.2
    else if c = 0 ∨ 7 ≤ c then pkRecordEnd s0 p a Status.notRun
    else s

/-- An entry that the command may act on (R288). -/
def pkOn (s : State) (p i kind : Nat) (f : State → PkEntry → State × Nat) : State × Nat :=
  let e := pkEntry s p i
  if reg s p R.pkTcnt 12 0 ≤ i then (s, Status.notRun)
  else if e.clean && e.kind == kind then f (pkLook s p i) e
  else (pkLook s p i, Status.notRun)

/-- STASH: the entry becomes STASHING under the next stash count (Table 12-6). -/
def pkStash (p : Nat) (s : State) (i : Nat) : State × Nat :=
  pkOn s p i 1 fun s e =>
    let n := (partOf s p).pocket.sctr
    if !stashOk s p e || 2 ^ 48 - 1 ≤ n then (s, Status.notRun)
    else if e.estate ≠ Pk.inn then (s, Status.busy)
    else
      let s1 := onPart s p fun x => { x with pocket := { x.pocket with sctr := n + 1 } }
      let s2 := devWrite (pkState s1 p e Pk.stashing) p (e.addr + 0x20) (toLE 8 (n + 1))
      (pkQueue s2 p (.stashOf (partOf s2 p) i e), Status.ok)

def execStash (p : Nat) (s : State) : Host.Outcome State Fault Refusal :=
  guarded (.stash p) (pkTake s p 1 (pkStash p))

/-- An AWAY entry starts to come back. -/
def startFetch (s : State) (p i : Nat) : State := pkQueue (pkState s p (pkEntry s p i) Pk.fetching) p (.fetchOf i)

/-- FETCH: an entry that is IN ends at once, since nothing moves (Table 12-6, R288). -/
def pkFetch (p : Nat) (s : State) (i : Nat) : State × Nat :=
  pkOn s p i 1 fun s e =>
    if e.estate = Pk.inn then (pkOutcome s p e Pk.inn Status.ok, Status.ok)
    else if e.estate = Pk.away then (startFetch s p i, Status.ok)
    else (s, Status.busy)

def execFetch (p : Nat) (s : State) : Host.Outcome State Fault Refusal :=
  guarded (.fetch p) (pkTake s p 2 (pkFetch p))

/-- BACK k: AWAY entries of layers k − `DIST` to k come back, from the highest layer down (R291). -/
def pkBack (p : Nat) (s : State) (k : Nat) : State × Nat :=
  let dist := reg s p R.pkCtl 7 4
  let ok := fun i =>
    let e := pkEntry s p i
    e.clean && e.kind == 1 && e.estate == Pk.away && decide (k - dist ≤ e.layer ∧ e.layer ≤ k)
  let cand := (List.range (reg s p R.pkTcnt 12 0)).filter ok
  let order := ((List.range (dist + 1)).map fun j => k - j).eraseDups
  let seq := order.flatMap fun l => cand.filter fun i => (pkEntry s p i).layer == l
  let s1 := (List.range (reg s p R.pkTcnt 12 0)).foldl (fun t i => pkLook t p i) s
  (seq.foldl (fun t i => startFetch t p i) s1, Status.ok)

def execBack (p : Nat) (s : State) : Host.Outcome State Fault Refusal :=
  guarded (.back p) (pkTake s p 3 (pkBack p))

/-- CLAIM (Table 12-6). -/
def pkClaim (p : Nat) (s : State) (i : Nat) : State × Nat :=
  pkOn s p i 2 fun s e =>
    let claim := fun t : State => gatherMark (keptMark (pkState t p e Pk.claimed) p i false) p e true
    if e.estate = Pk.kept then (claim s, Status.ok)
    else if e.estate = Pk.dropped then (claim s, Status.noMemory)
    else (s, Status.busy)

def execClaim (p : Nat) (s : State) : Host.Outcome State Fault Refusal :=
  guarded (.claim p) (pkTake s p 4 (pkClaim p))

/-- KEEP (Table 12-6). -/
def pkKeep (p : Nat) (s : State) (i : Nat) : State × Nat :=
  pkOn s p i 2 fun s e =>
    if e.estate = Pk.claimed then (keptMark (pkState s p e Pk.kept) p i true, Status.ok)
    else (s, Status.busy)

def execKeep (p : Nat) (s : State) : Host.Outcome State Fault Refusal :=
  guarded (.keep p) (pkTake s p 5 (pkKeep p))

/-- A GATHER region is dropped. -/
def gatherDrop (s : State) (p i : Nat) (e : PkEntry) : State :=
  pkState (pocketDrop (gatherMark (keptMark s p i false) p e false) p e) p e Pk.dropped

/-- DROP (Table 12-6). -/
def pkDrop (p : Nat) (s : State) (i : Nat) : State × Nat :=
  pkOn s p i 2 fun s e => (gatherDrop s p i e, Status.ok)

def execDrop (p : Nat) (s : State) : Host.Outcome State Fault Refusal :=
  guarded (.drop p) (pkTake s p 6 (pkDrop p))

/-- The entry that a watermark drop takes: lowest layer, then lowest index (R292). -/
def watermarkPick (s : State) (p : Nat) : Option Nat :=
  let key := fun i => (pkEntry s p i).layer * 4096 + i
  let ks := (partOf s p).pocket.kept
  ks.find? fun i => ks.all fun j => decide (key i ≤ key j)

/-- WATERMARK_DROP: below `GWM` or `FREE_LOW` × P a KEPT region is dropped and counted (R292). -/
def watermarkDrop (s : State) (p : Nat) : State :=
  let x := partOf s p
  let free := freeFrames x
  match watermarkPick s p with
  | some i =>
    when_ (x.ptstate == 1 && decide (free < x.get R.pkGwm 31 0 ∨ free < freeLow x)) s
      (putReg (gatherDrop s p i (pkEntry s p i)) p R.pkStat 31 16 (satTo 16 (x.get R.pkStat 31 16 + 1)))
  | none => s

def execWatermarkDrop (p : Nat) (s : State) : Host.Outcome State Fault Refusal :=
  guarded (.watermarkDrop p) (watermarkDrop s p)

/-! ### Ends (Table 12-6) -/

/-- The operation on an entry, when every request of it is over. -/
def pkDone (s : State) (p idx : Nat) (fetch : Bool) : Option PocketOp :=
  (pkOp s p idx).bind fun o =>
    if o.fetch == fetch && o.out == 0 && decide (unitCount (partOf s p) (pkEntry s p idx) ≤ o.next) then some o
    else none

/-- Leaves the list of running operations; the next one starts. -/
def pkRetire (s : State) (p idx : Nat) : State :=
  pkNext 4 (onPart s p fun x => { x with pocket := { x.pocket with
    running := x.pocket.running.filter fun o => o.idx != idx } }) p

/-- STASH_COMPLETE: the region is dropped, or HBM is kept. -/
def stashComplete (s : State) (p idx : Nat) : State :=
  let s0 := pkPump p idx (pkFuel s p idx) s
  match pkDone s0 p idx false with
  | none => s
  | some o =>
    let e := pkEntry s0 p idx
    let s1 := if o.fails = [] then pkOutcome (pocketDrop s0 p e) p e Pk.away Status.ok
      else pkOutcome s0 p e Pk.inn (worst o.fails)
    pkRetire s1 p idx

def execStashComplete (p idx : Nat) (s : State) : Host.Outcome State Fault Refusal :=
  guarded (.stashComplete p idx) (stashComplete s p idx)

/-- FETCH_COMPLETE: the region is IN, or its failed tiles are POISON and the target copy is kept. -/
def fetchComplete (s : State) (p idx : Nat) : State :=
  let s0 := pkPump p idx (pkFuel s p idx) s
  match pkDone s0 p idx true with
  | none => s
  | some o =>
    let e := pkEntry s0 p idx
    let s1 := if o.fails = [] then pkOutcome s0 p e Pk.inn Status.ok else pkOutcome s0 p e Pk.away Status.poison
    pkRetire s1 p idx

def execFetchComplete (p idx : Nat) (s : State) : Host.Outcome State Fault Refusal :=
  guarded (.fetchComplete p idx) (fetchComplete s p idx)

/-- A partition reset ends every operation ABORTED without a post, and abandons the ring (R290). -/
def pkAbandon (s : State) (p : Nat) : State :=
  let q := (partOf s p).pocket
  let ops := (q.running.map (·.idx)) ++ q.waiting.map (·.idx)
  let s1 := ops.foldl (fun t i => devWrite t p ((pkEntry t p i).addr + 0x0E) (toLE 1 Status.aborted)) s
  onPart s1 p fun x => { x with pocket := { x.pocket with head := none, running := [], waiting := [] } }

end Sys2Proof.Machine
end

