-- ==== Sys2Proof/Machine/Service.lean ====
section
/-! DEFINITION. Service ports (R192, R193, R397, Table 16-6): links and the frame rings of the
partitions. -/

namespace Sys2Proof.Machine

/-- SERVICE_PORT_LINK_UP: auto-negotiation and training end; a fenced or held port stays down
(R192, R372, Table 14-8). -/
def execServicePortLinkUp (n : Nat) (s : State) : Host.Outcome State Fault Refusal :=
  guarded (.servicePortLinkUp n)
    (when_ (sst s n != 3 && s.sec.pst == 0) s (putMreg s (M.ptSvc n) 1 0 2))

/-- SERVICE_PORT_LINK_DOWN (R192). -/
def execServicePortLinkDown (n : Nat) (s : State) : Host.Outcome State Fault Refusal :=
  guarded (.servicePortLinkDown n) (when_ (sst s n != 3) s (putMreg s (M.ptSvc n) 1 0 0))

/-- The MAC/VLAN word of a partition on a port (R193). -/
def macWord (x : Partition) (n : Nat) : BitVec 60 := if n = 0 then x.mac0 else x.mac1

/-- A ring descriptor, Table 16-6. -/
structure SvcDesc where
  addr : Word
  len  : Nat
  flg  : Nat
  resv : Nat
  deriving DecidableEq, Repr

/-- The descriptor at an address. -/
def svcDesc (s : State) (p a : Nat) : SvcDesc :=
  let bs := (devRead s p a 16).1
  { addr := BitVec.ofNat 64 (leAt bs 0 8), len := leAt bs 8 2, flg := leAt bs 0x0A 1, resv := leAt bs 0x0C 4 }

/-- The device reads a descriptor (R440). -/
def svcLook (s : State) (p a : Nat) : State := (devRead s p a 16).2

/-- The address of transmit descriptor `TXHEAD`. -/
def txAddr (x : Partition) (n : Nat) : Nat :=
  x.get (R.svTxb n) 43 6 * 64 + 16 * (x.get (R.svTxp n) 63 32 % max 1 (x.get (R.svCtl n) 12 0))

/-- The address of receive descriptor `RXHEAD`. -/
def rxAddr (x : Partition) (n : Nat) : Nat :=
  x.get (R.svRxb n) 43 6 * 64 + 16 * (x.get (R.svRxp n) 63 32 % max 1 (x.get (R.svCtl n) 28 16))

/-! ### Receiving -/

/-- The partition that a received frame is for (R193). -/
def frameOwner (s : State) (n : Nat) (f : SvcFrame) : Option Nat :=
  (List.range 16).find? fun p => exists_ s p &&
    macWord (partOf s p) n == BitVec.ofNat 60 (f.vlan.toNat * 2 ^ 48 + f.mac.toNat)

/-- `DFLG` of a received frame: checksum failed, verified. -/
def rxFlags : Option Bool → Nat
  | none => 0
  | some true => 1
  | some false => 2

/-- A discarded frame is counted in `RXDROP`. -/
def rxDrop (s : State) (p n : Nat) : State :=
  putReg s p (R.svCnt n) 63 32 (satTo 32 (reg s p (R.svCnt n) 63 32 + 1))

/-- A frame into the next posted buffer (R397). -/
def rxDeliver (s : State) (p n : Nat) (f : SvcFrame) : State :=
  let x := partOf s p
  let posted := x.get (R.svRxp n) 63 32 != x.get (R.svRxp n) 31 0
  if x.ptstate != 1 || x.get (R.svCtl n) 32 32 == 0 || x.get (R.svCtl n) 28 16 == 0 || !posted then rxDrop s p n
  else
    let a := rxAddr x n
    let d := svcDesc s p a
    let s0 := svcLook s p a
    if d.len < f.bytes.length then rxDrop s0 p n
    else
      let s1 := if fld d.addr 63 62 = 2 then (hostPut s0 p (.svcWrite n) (fld d.addr 51 0) f.bytes false).getD s0
        else devWrite s0 p d.addr.toNat f.bytes
      let s2 := devWrite s1 p (a + 8) (toLE 2 f.bytes.length ++ toLE 1 (rxFlags f.udp) ++ toLE 1 Status.ok)
      msix (putReg s2 p (R.svRxp n) 63 32 (reg s2 p (R.svRxp n) 63 32 + 1)) p 7

/-- Whether a frame is MAC control with an opcode (IEEE 802.3): 0x0001 PAUSE, 0x0101 priority flow control. -/
def macControl (f : SvcFrame) (op : Nat) : Bool := be16 f.bytes 12 == 0x8808 && be16 f.bytes 14 == op

/-- A pause time of `q` quanta of 512 bit times at 800 Gb/s, in whole µs. -/
def pauseTime (q : Nat) : Nat := cdiv (q * 64) 100000

/-- Priority flow control (R192): each priority that the frame names is paused for its time, or runs again at time zero. The
layout of the frame is IEEE 802.1Qbb's (PRESUMED, log 136). -/
def takePfc (s : State) (n : Nat) (f : SvcFrame) : State :=
  (List.range 8).foldl (fun t i =>
    if nfld (be16 f.bytes 16) i i = 1 then
      { t with fabric := { t.fabric with
        paused := sset 0 t.fabric.paused (8 * n + i) (pauseTime (be16 f.bytes (18 + 2 * i))) } }
    else t) s

/-- A frame that matches no partition is discarded and counted (R193, log 133). -/
def strayFrame (s : State) (n : Nat) : State :=
  { s with fabric := { s.fabric with strays := smod 0 s.fabric.strays n (· + 1) } }

/-- SERVICE_FRAME_RECEIVE: frames with a bad FCS, or for no partition, are discarded and counted; flow control acts on the
port; PAUSE frames and frames over 9,216 bytes with tag and FCS are discarded (R192, R193). -/
def frameReceive (s : State) (n : Nat) (f : SvcFrame) : State :=
  if sst s n != 2 then s
  else if !f.fcsOk then bumpMreg s (M.ptSvc n) 31 16 1
  else if macControl f 0x0101 then takePfc s n f
  else if macControl f 0x0001 || decide (9208 < f.bytes.length) then s
  else match frameOwner s n f with
    | some p => rxDeliver s p n f
    | none => strayFrame s n

def execServiceFrameReceive (n : Nat) (f : SvcFrame) (s : State) : Host.Outcome State Fault Refusal :=
  guarded (.serviceFrameReceive n f) (frameReceive s n f)

/-! ### Transmitting -/

/-- A frame to the tunnel UDP port: no partition may send one (R193). -/
def toTunnel (s : State) (f : List Byte) : Bool :=
  isUdp6 f && match s.pattern with
    | some t => be16 f 56 == t.tunPort.toNat
    | none => false

/-- The frame on the wire: the partition's source address and 802.1Q tag, the checksum when asked,
padding to 60 bytes, FCS (R193, R397). -/
def wireFrame (x : Partition) (n flg : Nat) (f : List Byte) : List Byte :=
  let m := macWord x n
  let g := if nfld flg 0 0 = 1 && isUdp6 f then withChecksum f else f
  taggedFrame (nfld flg 3 1) (fld m 59 48) (g.take 6 ++ beBytes 6 (fld m 47 0) ++ g.drop 12)

/-- Whether every byte of a span stands in the partition's address space. -/
def spanInside (x : Partition) (a n : Nat) : Bool :=
  (List.range n).all fun i => pvKind x (a + i) != .outside

/-- Whether a span of the partition virtual range reads as POISON. -/
def spanPoison (s : State) (p a n : Nat) : Bool :=
  let x := partOf s p
  if boltBase ≤ a then ((tileRuns (a - boltBase) n).map fun e => e.1 / 4096).any (tilePoisoned x)
  else bit (tagsOver s a n) 0

/-- The descriptor at `TXHEAD` ends with a status; the ring advances (R397). -/
def txEnd (s : State) (p n status : Nat) : State :=
  let a := txAddr (partOf s p) n
  let s1 := devWrite s p (a + 0x0B) [BitVec.ofNat 8 status]
  let s2 := if status = Status.ok then s1
    else putReg s1 p (R.svCnt n) 31 0 (satTo 32 (reg s1 p (R.svCnt n) 31 0 + 1))
  msix (putReg s2 p (R.svTxp n) 63 32 (reg s2 p (R.svTxp n) 63 32 + 1)) p 7

/-- A frame whose bytes are known is sent or turned away (R193, R397). -/
def txSend (s : State) (p n flg : Nat) (f : List Byte) : State :=
  if toTunnel s f then txEnd s p n Status.notRun
  else txEnd (emit s (.frame n (wireFrame (partOf s p) n flg f))) p n Status.ok

/-- Whether the transmit ring waits for a frame buffer of the host. -/
def txWaiting (x : Partition) (n : Nat) : Bool := x.hostReqs.any fun r => r.kind == .svcRead n

/-- SERVICE_FRAME_TRANSMIT: the next posted descriptor is taken (R397). -/
def frameTransmit (s : State) (p n : Nat) : State :=
  let x := partOf s p
  let posted := x.get (R.svTxp n) 63 32 != x.get (R.svTxp n) 31 0
  let d := svcDesc s p (txAddr x n)
  if x.ptstate != 1 || sst s n != 2 || x.get (R.svCtl n) 32 32 == 0 || x.get (R.svCtl n) 12 0 == 0 || !posted
      || txWaiting x n || !svcSends s n (nfld d.flg 3 1) then s
  else
    let host := fld d.addr 63 62 == 2
    if d.len < 14 || 9208 < d.len || 16 ≤ d.flg || d.resv != 0 || (host && fld d.addr 61 52 != 0)
        || (!host && (fld d.addr 63 44 != 0 || !spanInside x d.addr.toNat d.len)) then txEnd s p n Status.notRun
    else if host then
      (hostGet s p (.svcRead n) (fld d.addr 51 0) d.len).getD (txEnd s p n Status.notRun)
    else if spanPoison s p d.addr.toNat d.len then txEnd s p n Status.poison
    else
      let r := devRead s p d.addr.toNat d.len
      txSend r.2 p n d.flg r.1

def execServiceFrameTransmit (p n : Nat) (s : State) : Host.Outcome State Fault Refusal :=
  guarded (.serviceFrameTransmit p n) (frameTransmit s p n)

/-- A frame buffer arrives from the host; a poisoned completion makes the descriptor POISON. -/
def svcReadDone (s : State) (p n : Nat) (data : List Byte) (poison : Bool) : State :=
  let d := svcDesc s p (txAddr (partOf s p) n)
  if poison then txEnd s p n Status.poison else txSend s p n d.flg (slice data 0 d.len)

end Sys2Proof.Machine
end

