-- ==== Sys2Proof/Machine/HostEnd.lean ====
section
/-! DEFINITION. The end of requests: source data that reach a DMA, and what a host request completes
(R225, R226, R438); host links (R223, R226, R423). -/

namespace Sys2Proof.Machine

/-! ### Outcomes at a DMA (R86, R182) -/

/-- The DMA `id` of core `g` changed. -/
def onDma (s : State) (g id : Nat) (f : Dma → Dma) : State :=
  onCore s g fun k => { k with dmas := k.dmas.map fun d => if d.id = id then f d else d }

/-- Source bytes `a` onward of a DMA arrive, with the tag of every word they touch. -/
def Dma.stage (d : Dma) (a : Nat) (bs : List Byte) (tag : BitVec 3) : Dma :=
  { d with
    buf := mput d.buf a bs
    bufTag := (List.range ((a + bs.length + 7) / 8 - a / 8)).foldl (fun m i => smod 0 m (a / 8 + i) fun w => w ||| tag) d.bufTag }

/-- One request of a DMA is over. -/
def Dma.reply (d : Dma) (status : Nat) : Dma :=
  { d with waiting := d.waiting - 1, status := if status = Status.ok then d.status else d.status ++ [status] }

/-- Source data of a DMA that did not arrive: bytes of no stated value marked POISON (Table 8-15). -/
def stagePoison (s : State) (g id a n : Nat) : State :=
  spend (onDma s g id fun d => if d.aborted then d else d.stage a (freeBytes s n) 1) (cdiv n 8)

/-! ### Host requests -/

/-- A host request leaves the list of outstanding ones. -/
def dropHostReq (s : State) (p id : Nat) : State :=
  onPart s p fun x => { x with hostReqs := x.hostReqs.filter fun r => r.id != id }

/-- A host request is over: with its completion, or with none in time or no port (R225, R226), which
is POISON. -/
def hostEnd (s : State) (p : Nat) (r : HostReq) (res : Option (List Byte × Bool)) : State :=
  let s0 := dropHostReq s p r.id
  match r.kind with
  | .dmaRead g id a =>
    match res with
    | some (bs, poison) =>
      onDma s0 g id fun d =>
        (if d.aborted then d else d.stage a (slice bs 0 r.len) (if poison then 1 else 0)).reply Status.ok
    | none => onDma (stagePoison s0 g id a r.len) g id fun d => d.reply Status.poison
  | .dmaWrite g id => onDma s0 g id fun d => d.reply (if res.isSome then Status.ok else Status.poison)
  | .pocketRead idx k =>
    let bs := (res.map (·.1)).getD []
    pkHostArrive s0 p idx k bs (res.isNone || (res.map (·.2)).getD true)
  | .pocketWrite idx => pkReply s0 p idx (if res.isSome then [] else [Status.poison])
  | .carousel q =>
    if res.isSome then s0
    else onPart s0 p fun x => { x with ring := { x.ring with broken := x.ring.broken ++ [BitVec.ofNat 32 q] } }
  | .svcRead n => svcReadDone s0 p n ((res.map (·.1)).getD []) (res.isNone || (res.map (·.2)).getD true)
  | .svcWrite _ => s0
  | .late => if res.isSome && exists_ s0 p then errEvent s0 p 3 else s0

/-- Whether nothing waits any more for what a DMA has asked for: it is gone or aborted (R244). -/
def unwanted (s : State) (g id : Nat) : Bool := !((coreOf s g).dmas.any fun d => d.id == id && !d.aborted)

/-- A read whose result nothing wants any more and that ends TIMED_OUT is counted (R244, Table 16-9 bit 10). -/
def readAheadEnd (s : State) (p : Nat) (un : Bool) : State := if un && exists_ s p then errEvent s p 10 else s

/-- Whether a host request is a read that nothing wants any more. -/
def hostUnwanted (s : State) (r : HostReq) : Bool :=
  match r.kind with
  | .dmaRead g id _ => unwanted s g id
  | _ => false

/-- The outstanding host request of an identifier. -/
def hostReq (s : State) (p id : Nat) : Option HostReq := (partOf s p).hostReqs.find? fun r => r.id == id

/-- HOST_COMPLETION (R438). -/
def execHostCompletion (p id : Nat) (data : List Byte) (poison : Bool) (s : State) :
    Host.Outcome State Fault Refusal :=
  guarded (.hostCompletion p id data poison)
    (match hostReq s p id with
    | some r => hostEnd s p r (some (data, poison))
    | none => s)

/-- A request without a completion in time: it completes POISON, and is TIMED_OUT from then on, so that a completion that
still comes is discarded and counted (R225, Table 8-15). -/
def hostTimeout (s : State) (p : Nat) (r : HostReq) : State :=
  if r.kind = .late then s
  else onPart (readAheadEnd (hostEnd s p r none) p (hostUnwanted s r)) p fun x => { x with hostReqs := x.hostReqs ++ [{ r with kind := .late }] }

/-- HOST_REQUEST_TIMEOUT: `HTMO` has passed (R225). -/
def execHostRequestTimeout (p id : Nat) (s : State) : Host.Outcome State Fault Refusal :=
  guarded (.hostRequestTimeout p id)
    (match hostReq s p id with
    | some r => hostTimeout s p r
    | none => s)

/-! ### Host links -/

/-- The requests of partition `p` on port `h` end POISON (R226). -/
def endHostReqs (s : State) (p h : Nat) : State :=
  ((partOf s p).hostReqs.filter fun r => r.port == h).foldl (fun t r => hostEnd t p r none) s

/-- Logical device `p` loses its binding on port `h` (R226). -/
def unbindLd (s : State) (h p : Nat) : State :=
  endHostReqs (onPart s p fun x => { x with bound := setFld x.bound h h 0 }) p h

/-- A host link goes down (R226); one that was UP is charged HOST_LINK (Table 14-2), a fenced port
keeps `HST` FENCED. -/
def hostDown (s : State) (h : Nat) : State :=
  let st := mreg s (M.ptHost h) 1 0
  let s1 := if st = 1 then charge (putMreg s (M.ptHost h) 1 0 0) 0x15 9 h else s
  (List.range 16).foldl (fun t p => unbindLd t h p) s1

/-- HOST_LINK_DOWN: the link goes down, or the fabric manager unbinds one logical device (R226). -/
def execHostLinkDown (h : Nat) (unbound : Option Nat) (s : State) : Host.Outcome State Fault Refusal :=
  guarded (.hostLinkDown h unbound) (match unbound with
    | some p => unbindLd s h p
    | none => hostDown s h)

/-- Whether `PERSTh_N` is low. -/
def perstLow (s : State) (h : Nat) : Bool := if h = 0 then s.pwr.perst0 else s.pwr.perst1

/-- HOST_LINK_TRAINED: `HST` is UP at the negotiated width and rate, ×8 or ×4 at 64 or 32 GT/s, and the fabric manager binds
the logical devices of `lds`, on a link that is UP already some more of them (R223, R224, R423, log 27). While `PERST` is
low or the port fenced, no link trains. -/
def hostTrained (s : State) (h width rate : Nat) (lds : BitVec 16) : State :=
  if perstLow s h || mreg s (M.ptHost h) 1 0 == 2 || !((width == 8 || width == 4) && (rate == 64 || rate == 32)) then s
  else
    let s1 := putMreg (putMreg (putMreg s (M.ptHost h) 1 0 1) (M.ptHost h) 15 12 width) (M.ptHost h) 23 16 rate
    ((List.range 16).filter fun p => bit lds p).foldl (fun t p => onPart t p fun x => { x with bound := setFld x.bound h h 1 }) s1

def execHostLinkTrained (h width : Nat) (link : Training) (s : State) : Host.Outcome State Fault Refusal :=
  guarded (.hostLinkTrained h width link) (hostTrained s h width link.rate link.lds)

/-- PERST_ASSERT: the host link is down while the line is low (R423). -/
def execPerstAssert (h : Nat) (s : State) : Host.Outcome State Fault Refusal :=
  guarded (.perstAssert h)
    (hostDown { s with pwr := if h = 0 then { s.pwr with perst0 := true } else { s.pwr with perst1 := true } } h)

/-- PERST_RELEASE: the link may train again (R423). -/
def execPerstRelease (h : Nat) (s : State) : Host.Outcome State Fault Refusal :=
  guarded (.perstRelease h)
    { s with pwr := if h = 0 then { s.pwr with perst0 := false } else { s.pwr with perst1 := false } }

end Sys2Proof.Machine
end

