-- ==== Sys2Proof/Machine/EngineReset.lean ====
section
/-! DEFINITION. Engine resets (R348, R350, R351): what an engine's operations come to. -/

namespace Sys2Proof.Machine

/-- The index of an engine in the unit layout of Table 14-3, type 0xC: die, kind and the low 8 bits
of the instance (log 19). -/
def engineIndex (e : EngineId) : Nat := e.die * 2 ^ 12 + e.kind * 2 ^ 8 + e.inst % 256

/-- The cluster of a path unit, or of the core of an array sequencer. -/
def engineCluster (e : EngineId) : Nat := if e.kind = 0 then e.die * 160 + e.inst else e.die * 160 + e.inst / 16

/-- The partition that an engine serves alone: that of the panel of its cluster. -/
def enginePart (s : State) (e : EngineId) : Option Nat :=
  if e.kind ≤ 1 then unitPart s 2 (engineCluster e) else none

/-- DMAs of a path unit end TIMEOUT (R351); those that a `dma.ab` ended keep that end. -/
def resetPathUnit (s : State) (h : Nat) : State :=
  (coresOf h).foldl (fun t g => onCore t g fun k => { k with
    dmas := k.dmas.map fun d => { d with finished := true, waiting := 0, status := d.status ++ [Status.timeout] } }) s

/-- Operations of an array sequencer end POISON (R351) and the arrays are square (R67). -/
def resetSequencer (s : State) (g : Nat) : State :=
  onCore s g fun k => { k with
    cfg := 0
    mops := k.mops.map fun m => { m with started := true, failed := true, acc := [], pairs := [] } }

/-- The collective that a collective engine runs: the engines are taken in the order of the
partitions and of their collectives (R217); which engine of the die runs which is free (log 5). -/
def resetCollEngine (s : State) : State :=
  let run := s.parts.flatMap fun e => (e.2.colls.filter fun k => k.running && !k.ended).map fun k => (e.1, k.gix, k.opseq)
  match run[freeBelow s 0 run.length]? with
  | none => s
  | some (p, g, o) =>
    onPart (spend s 1) p fun x => markColls x (fun k => k.gix == g && k.opseq == o) Status.timeout

/-- An EVENT record for an engine reset (R344): partition, 16 for none, and status (log 34). -/
def engineEvent (s : State) (e : EngineId) (status : Nat) : State :=
  eventRecord s 0x10 12 (engineIndex e) 1 (((enginePart s e).getD 16) * 2 ^ 8 + status)

/-- An engine reset begins (R351). A reset of an engine that is resetting joins it (R354). -/
def beginEngineReset (s0 : State) (e : EngineId) : State :=
  if s0.rel.engResets.contains e then s0
  else
    let s := engineEvent s0 e Status.ok
    let s1 := { s with rel := { s.rel with engResets := s.rel.engResets ++ [e] } }
    match e.kind with
    | 0 => resetPathUnit s1 (engineCluster e)
    | 1 => resetSequencer s1 (2560 * e.die + e.inst)
    | 2 => resetCollEngine s1
    | 5 => hostDown s1 (e.die - 4)
    | 6 =>
      let a := M.ptSvc (e.die - 4)
      if mreg s1 a 1 0 = 3 then s1 else putMreg s1 a 1 0 0
    | _ => s1

end Sys2Proof.Machine
end

