-- ==== Sys2Proof/Machine/Operands.lean ====
section
/-! DEFINITION. The Epelm bundle: slots, fields, register access, encoding checks and destination
registers (R26-R28, R31-R38, R436). A slot is its field bits as a number, bit 0 the lowest of the slot. -/

namespace Sys2Proof.Machine

/-! ### The bundle (Tables 2-2, 2-3) -/

/-- A bundle as its 512-bit number. -/
abbrev Bundle := Nat

namespace Bundle
def s (b : Bundle) : Nat := nfld b 95 32
def b (w : Bundle) : Nat := nfld w 143 96
def v (w : Bundle) : Nat := nfld w 255 144
def m (w : Bundle) : Nat := nfld w 383 256
def l (w : Bundle) : Nat := nfld w 511 384
def svs (w : Bundle) : Bool := nfld w 31 31 == 1
def svb (w : Bundle) : Bool := nfld w 30 30 == 1
def svv (w : Bundle) : Bool := nfld w 29 29 == 1
def svm (w : Bundle) : Bool := nfld w 28 28 == 1
def svl (w : Bundle) : Bool := nfld w 27 27 == 1
def sp (w : Bundle) : Bool := nfld w 26 26 == 1
def brk (w : Bundle) : Bool := nfld w 25 25 == 1
def ver (w : Bundle) : Nat := nfld w 24 23
/-- A reserved `VER` or a set reserved header bit (R49). -/
def badHeader (w : Bundle) : Bool := ver w != 1 || nfld w 18 0 != 0
end Bundle

/-! ### Registers of a core (Table 2-1) -/

/-- A general register; g0 reads as zero. -/
def Core.gr (k : Core) (i : Nat) : Word := if i = 0 then 0 else sget 0 k.g i

/-- Writing a general register; g0 ignores writes. -/
def Core.setG (k : Core) (i : Nat) (w : Word) : Core := if i = 0 then k else { k with g := sset 0 k.g i w }

/-- A predicate register; p0 reads as all ones. -/
def Core.pr (k : Core) (i : Nat) : BitVec 32 := if i = 0 then BitVec.allOnes 32 else sget 0 k.p i

/-- Writing a predicate register; p0 ignores writes. -/
def Core.setP (k : Core) (i : Nat) (w : BitVec 32) : Core :=
  if i = 0 then k else { k with p := sset 0 k.p i w }

/-- A vector register. -/
def Core.vr (k : Core) (i : Nat) : BitVec 1024 := sget 0 k.v i

/-- Writing a vector register. -/
def Core.setV (k : Core) (i : Nat) (w : BitVec 1024) : Core := { k with v := sset 0 k.v i w }

/-- A loop counter. -/
def Core.lcr (k : Core) (i : Nat) : BitVec 32 := sget 0 k.lc i

/-- Writing a loop counter. -/
def Core.setLc (k : Core) (i : Nat) (w : BitVec 32) : Core := { k with lc := sset 0 k.lc i w }

/-- The 32 lanes of a vector register, lane 0 first. -/
def lanesOf (w : BitVec 1024) : List Nat := (List.range 32).map fun i => fld w (32 * i + 31) (32 * i)

/-- A vector register from its lanes. -/
def ofLanes (ls : List Nat) : BitVec 1024 := BitVec.ofNat 1024 (packCodes 32 ls)

/-- The guard of an S, B or M slot or an L slot other than `vst`: bit 0 of the predicate (R27, R37). -/
def guardBit (k : Core) (pr pn : Nat) : Bool := xor (bit (k.pr pr) 0) (pn == 1)

/-- The lane mask of a V slot or a `vst`. -/
def guardMask (k : Core) (pr pn : Nat) : BitVec 32 := if pn = 1 then ~~~ (k.pr pr) else k.pr pr

/-! ### S slot (Tables 2-4, 2-5) -/

namespace S
def op (w : Nat) : Nat := nfld w 63 58
def pr (w : Nat) : Nat := nfld w 57 55
def pn (w : Nat) : Nat := nfld w 54 54
def gd (w : Nat) : Nat := nfld w 53 49
def ga (w : Nat) : Nat := nfld w 48 44
def i (w : Nat) : Nat := nfld w 43 43
def gb (w : Nat) : Nat := nfld w 42 38
def imm (w : Nat) : Nat := nfld w 42 11
/-- `IMM` sign-extended to 64 bits. -/
def immX (w : Nat) : Word := BitVec.ofInt 64 (sext 32 (imm w))
/-- The special-register index. -/
def csr (w : Nat) : Nat := nfld (imm w) 11 0
/-- Whether the operation writes a predicate. -/
def toPred (w : Nat) : Bool := 0x14 ≤ op w && op w ≤ 0x1D
/-- Whether the operation writes a general register. -/
def toG (w : Nat) : Bool := (0x01 ≤ op w && op w ≤ 0x13) || op w == 0x1E || op w == 0x21
/-- Encoding checks (Table 2-5, R33, R436). -/
def illegal (w : Nat) : Bool :=
  if op w = 0 then nfld w 53 0 != 0
  else if 0x21 < op w then true
  else
    (i w == 0 && nfld w 37 0 != 0) || (i w == 1 && nfld w 10 0 != 0)
    || ((op w == 0x12 || op w == 0x13 || op w == 0x1E || op w == 0x1F) && i w == 0)
    || ((0x1A ≤ op w && op w ≤ 0x1D) && i w == 1)
    || (op w == 0x1D && gb w != 0)
    || (toPred w && nfld (gd w) 4 3 != 0)
    || ((op w == 0x1E || op w == 0x1F) && 4 < csr w)
/-- The second source. -/
def src2 (k : Core) (w : Nat) : Word := if i w = 1 then immX w else k.gr (gb w)
end S

/-! ### B slot (Tables 2-7, 2-8) -/

namespace B
def op (w : Nat) : Nat := nfld w 47 42
def pr (w : Nat) : Nat := nfld w 41 39
def pn (w : Nat) : Nat := nfld w 38 38
/-- The signed offset of a branch, in bundles. -/
def off (w : Nat) : Int := sext 16 (nfld w 37 22)
def ga37 (w : Nat) : Nat := nfld w 37 33
def lcn (w : Nat) : Nat := nfld w 37 36
def loopI (w : Nat) : Nat := nfld w 35 35
def loopGa (w : Nat) : Nat := nfld w 34 30
def loopImm (w : Nat) : Nat := nfld w 34 19
def len (w : Nat) : Nat := nfld w 18 7
def sid (w : Nat) : Nat := nfld w 37 32
def semI (w : Nat) : Nat := nfld w 31 31
def semGa (w : Nat) : Nat := nfld w 30 26
def semImm (w : Nat) : Nat := nfld w 30 15
def pd (w : Nat) : Nat := nfld w 14 12
def mask (w : Nat) : Nat := nfld w 37 22
def bid (w : Nat) : Nat := nfld w 37 34
def barGa (w : Nat) : Nat := nfld w 33 29
def code (w : Nat) : Nat := nfld w 37 22
/-- Encoding checks: reserved opcodes and unused operand bits (Table 2-8, R42, R436). -/
def illegal (w : Nat) : Bool :=
  match op w with
  | 0x00 | 0x04 | 0x0B | 0x0C | 0x0E | 0x0F | 0x11 => nfld w 37 0 != 0
  | 0x01 | 0x03 | 0x09 | 0x0D | 0x10 => nfld w 21 0 != 0
  | 0x02 => nfld w 32 0 != 0
  | 0x05 => (if loopI w = 1 then nfld w 6 0 != 0 else nfld w 29 19 != 0 || nfld w 6 0 != 0) || len w == 0
  | 0x06 | 0x07 => if semI w = 1 then nfld w 14 0 != 0 else nfld w 25 0 != 0
  | 0x08 => if semI w = 1 then nfld w 11 0 != 0 else nfld w 25 15 != 0 || nfld w 11 0 != 0
  | 0x0A => nfld w 28 0 != 0
  | _ => true
/-- The count n of a semaphore operation. -/
def semN (k : Core) (w : Nat) : Nat := if semI w = 1 then semImm w else (k.gr (semGa w)).toNat
/-- The count of a loop. -/
def loopN (k : Core) (w : Nat) : Nat :=
  if loopI w = 1 then loopImm w else fld (k.gr (loopGa w)) 31 0
end B

/-! ### V slot (Tables 2-9, 2-10) -/

namespace V
def op (w : Nat) : Nat := nfld w 111 106
def pr (w : Nat) : Nat := nfld w 105 103
def pn (w : Nat) : Nat := nfld w 102 102
def vd (w : Nat) : Nat := nfld w 101 97
def va (w : Nat) : Nat := nfld w 96 92
def vb (w : Nat) : Nat := nfld w 91 87
def vc (w : Nat) : Nat := nfld w 86 82
def ety (w : Nat) : Nat := nfld w 81 80
def fmt (w : Nat) : Nat := nfld w 79 76
def iovf (w : Nat) : Bool := nfld w 75 75 == 1
def ga (w : Nat) : Nat := nfld w 74 70
def lane (w : Nat) : Nat := nfld w 69 65
/-- Whether `FMT` and `ETY` go together in `vpack` and `vunpk` (R95, Table 4-1). -/
def packPair (f e : Nat) : Bool :=
  (1 ≤ f && f ≤ 7 && e == 0) || (8 ≤ f && f ≤ 0xA && (e == 1 || e == 2))
/-- Encoding checks (Table 2-10, R95, R280, R436, R437). `ETY` 3 is reserved for every operation; a reserved `FMT` is
refused where `FMT` is used and ignored elsewhere (log 126). -/
def illegal (w : Nat) : Bool :=
  if op w = 0 then nfld w 101 0 != 0
  else if 0x21 < op w then true
  else
    nfld w 64 0 != 0 || ety w == 3
    || ((0x09 ≤ op w && op w ≤ 0x0C) && ety w != 0)
    || ((0x0D ≤ op w && op w ≤ 0x0F) && nfld (vd w) 4 3 != 0)
    || ((op w == 0x17 || op w == 0x18) && !packPair (fmt w) (ety w))
    || (op w == 0x1F && (vd w % 2 == 1 || ety w != 0))
    || (op w == 0x21 && (vd w % 4 != 0 || ety w != 0 || fmt w != 0 || iovf w || ga w != 0 || lane w != 0))
end V

/-! ### M slot (Tables 2-11, 2-12) -/

namespace M4
def op (w : Nat) : Nat := nfld w 127 122
def pr (w : Nat) : Nat := nfld w 121 119
def pn (w : Nat) : Nat := nfld w 118 118
def fmtA (w : Nat) : Nat := nfld w 117 114
def fmtB (w : Nat) : Nat := nfld w 113 110
def sclA (w : Nat) : Nat := nfld w 109 108
def sclB (w : Nat) : Nat := nfld w 107 106
def shape (w : Nat) : Nat := nfld w 105 104
def chunk (w : Nat) : Nat := nfld w 103 102
def iovf (w : Nat) : Bool := nfld w 101 101 == 1
def audit (w : Nat) : Bool := nfld w 100 100 == 1
def zero (w : Nat) : Bool := nfld w 99 99 == 1
def m (w : Nat) : Nat := nfld w 98 91 + 1
def n (w : Nat) : Nat := nfld w 90 83 + 1
def gk (w : Nat) : Nat := nfld w 82 78
def ga (w : Nat) : Nat := nfld w 77 73
def gb (w : Nat) : Nat := nfld w 72 68
def gc (w : Nat) : Nat := nfld w 67 63
def gs (w : Nat) : Nat := nfld w 62 58
def fmtC (w : Nat) : Nat := nfld w 57 54
def accf (w : Nat) : Bool := nfld w 53 53 == 1
/-- Encoding checks (R35, R436), the same for every M-slot instruction but `nop`. -/
def illegal (w : Nat) : Bool :=
  match op w with
  | 0x00 => nfld w 117 0 != 0
  | 0x01 | 0x02 | 0x03 | 0x04 | 0x05 =>
    0xD < fmtA w || 0xD < fmtB w || 0xD < fmtC w
    || (0xB ≤ fmtA w && fmtA w ≤ 0xD) || (0xB ≤ fmtB w && fmtB w ≤ 0xD)
    || fmtC w == 0xB || fmtC w == 0xC
    || fmtIsInt (fmtA w) != fmtIsInt (fmtB w)
    || accf w != fmtIsInt (fmtA w)
    || shape w == 3 || chunk w == 3 || nfld w 52 0 != 0
  | _ => true
end M4

/-! ### L slot (Tables 2-13, 2-14) -/

namespace L
def op (w : Nat) : Nat := nfld w 127 122
def pr (w : Nat) : Nat := nfld w 121 119
def pn (w : Nat) : Nat := nfld w 118 118
def gd (w : Nat) : Nat := nfld w 117 113
def ga (w : Nat) : Nat := nfld w 112 108
def off (w : Nat) : Int := sext 19 (nfld w 107 89)
def gsrc (w : Nat) : Nat := nfld w 117 113
def gdst (w : Nat) : Nat := nfld w 112 108
def glen (w : Nat) : Nat := nfld w 107 103
def tag (w : Nat) : Nat := nfld w 102 99
def sid (w : Nat) : Nat := nfld w 98 93
def semen (w : Nat) : Bool := nfld w 92 92 == 1
def xf (w : Nat) : Nat := nfld w 91 88
/-- Whether the slot has the load and store form. -/
def isMem (w : Nat) : Bool := 1 ≤ op w && op w ≤ 0x0E
/-- Whether the operation loads. -/
def isLoad (w : Nat) : Bool := (1 ≤ op w && op w ≤ 7) || op w == 0x0C || op w == 0x0E
/-- Bytes of the access; `vld` and `vst` count as 128 (R30). -/
def size (w : Nat) : Nat :=
  match op w with
  | 0x01 | 0x05 | 0x08 => 1
  | 0x02 | 0x06 | 0x09 => 2
  | 0x03 | 0x07 | 0x0A | 0x0E => 4
  | 0x04 | 0x0B => 8
  | _ => 128
/-- Encoding checks (Table 2-13, R436). -/
def illegal (w : Nat) : Bool :=
  if op w = 0 then nfld w 117 0 != 0
  else if 0x11 < op w then true
  else if isMem w then nfld w 88 0 != 0
  else nfld w 87 0 != 0
/-- The byte offset `ga` + `OFF` (R30): `ga` as an unsigned 64-bit number, the sum exact (log 126). -/
def addr (k : Core) (w : Nat) : Int := ((k.gr (ga w)).toNat : Int) + off w
/-- Bytes of a codebook image for a run of `n` tables from `slot` (R82, R83). -/
def cbBytes (slot n : Nat) : Nat := if slot < 64 then 32 * n else 512 * n
end L

/-! ### Destinations (R38) -/

/-- Destination registers: `g`, `v` or `p` with a number. -/
inductive Dest where
  | g (i : Nat)
  | v (i : Nat)
  | p (i : Nat)
  deriving DecidableEq, Repr

/-- Destinations that the S slot names. -/
def destS (w : Nat) : List Dest :=
  if S.toPred w then [.p (nfld (S.gd w) 2 0)] else if S.toG w then [.g (S.gd w)] else []

/-- Destinations that the B slot names. -/
def destB (w : Nat) : List Dest :=
  match B.op w with
  | 0x03 => [.g 31]
  | 0x08 => [.p (B.pd w)]
  | _ => []

/-- Destinations that the V slot names (R280, R437). -/
def destV (w : Nat) : List Dest :=
  match V.op w with
  | 0x00 => []
  | 0x0D | 0x0E | 0x0F => [.p (nfld (V.vd w) 2 0)]
  | 0x1A => [.g (V.vd w)]
  | 0x1F => [.v (V.vd w), .v ((V.vd w + 1) % 32)]
  | 0x21 => [.v (V.vd w), .v ((V.vd w + 1) % 32), .v ((V.vd w + 2) % 32)]
  | _ => [.v (V.vd w)]

/-- Destinations that the L slot names. -/
def destL (w : Nat) : List Dest :=
  if 1 ≤ L.op w ∧ L.op w ≤ 7 then [.g (L.gd w)]
  else if L.op w = 0x0C ∨ L.op w = 0x0E then [.v (L.gd w)] else []

/-- Whether two lists share a destination. -/
def shares (a b : List Dest) : Bool := a.any fun d => b.contains d

/-! ### Fetch (R28, R29) -/

/-- The code region of cluster `h` as it stands now, keyed by cluster-store offset. -/
def codeNow (s : State) (h start len : Nat) : Mem :=
  let a := bundleAddr h start
  (s.stores.filter fun c => a ≤ c.1 && c.1 < a + 64 * len).map fun c => (c.1 - bundleAddr h 0, c.2)

/-- The bundles that core `g` may execute at `pc` (R29): the one that its last `ifl` took, those that writes since then
replaced, and the one in the store, each whole. -/
def bundleVersions (s : State) (g pc : Nat) : List Nat :=
  let k := coreOf s g
  mle k.snap (pc * 64) 64 :: (sget [] k.mids pc).map (·.toNat)
    ++ (if tornBundle s (g / 16) pc then [] else [bundleNow s (g / 16) pc])

/-- The bundle that core `g` fetches at `pc`, by a free choice among its versions (R29, log 12). -/
def fetchBundle (s : State) (g pc : Nat) : Bundle × Nat :=
  let vs := bundleVersions s g pc
  let old := vs.headD 0
  if vs.all (· == old) then (old, 0) else (vs.getD (freeBelow s 0 vs.length) old, 1)

/-- `ifl`: the core drops the bundles that it holds; of one that a DMA has written in part it keeps them (R29). -/
def flushCode (s : State) (g : Nat) (hd : Holder) : State :=
  let h := g / 16
  let cr := codeRegion s hd
  let torn := (List.range cr.2).filter fun i => tornBundle s h (cr.1 + i)
  onCore s g fun k =>
    let snap := codeNow s h cr.1 cr.2
    { k with
      snap := torn.foldl (fun m i => mput m ((cr.1 + i) * 64) (mread k.snap ((cr.1 + i) * 64) 64)) snap
      mids := k.mids.filter fun e => torn.contains (e.1 - cr.1) }

end Sys2Proof.Machine
end

