-- ==== Sys2Proof/Machine/MatrixOps.lean ====
section
/-! DEFINITION. Operands of M operations: the descriptor, the bytes an operation reads and writes,
and the hazards of R40 and R59. -/

namespace Sys2Proof.Machine

/-- ⌈j × bits(F) / 8⌉ (R55). -/
def rowbytes (j f : Nat) : Nat := cdiv (j * fmtWidth f) 8

/-- Where the core store of core `g` begins (Table 7-3). -/
def coreBase (g : Nat) : Nat := g * 0x40000

/-! Fields of the operand descriptor (Table 3-4). -/

namespace Desc
def tsa (d : List Byte) : Nat := leAt d 0x00 4
def tsb (d : List Byte) : Nat := leAt d 0x04 4
def tsc (d : List Byte) : Nat := leAt d 0x08 4
def lda (d : List Byte) : Nat := leAt d 0x0C 4
def ldb (d : List Byte) : Nat := leAt d 0x10 4
def ldc (d : List Byte) : Nat := leAt d 0x14 4
def bsa (d : List Byte) : Nat := leAt d 0x18 4
def bsb (d : List Byte) : Nat := leAt d 0x1C 4
def audo (d : List Byte) : Nat := leAt d 0x20 4
/-- Whether the reserved bytes are zero (R57). -/
def clean (d : List Byte) : Bool := leAt d 0x24 12 == 0 && leAt d 0x34 12 == 0
end Desc

/-- The descriptor of an operation: its copy, or what the store holds before the copy is taken. -/
def MOp.descNow (s : State) (g : Nat) (m : MOp) : List Byte :=
  match m.desc with
  | some d => d
  | none => mread s.stores (coreBase g + m.offS) 64

/-- Whether the operation multiplies. -/
def MOp.multiplies (m : MOp) : Bool := m.op == 1 || m.op == 2

/-- Bytes of block scales of A (R56). -/
def MOp.scaleBytesA (m : MOp) : Nat :=
  if m.accInt || m.sclA = 0 then 0
  else if m.sclA = 3 then 4 * cdiv m.m 128 * cdiv m.k 128
  else m.m * cdiv m.k (blockSize m.sclA)

/-- Bytes of block scales of B (R56). -/
def MOp.scaleBytesB (m : MOp) : Nat :=
  if m.accInt || m.sclB = 0 then 0
  else if m.sclB = 3 then 4 * cdiv m.k 128 * cdiv m.n 128
  else m.n * cdiv m.k (blockSize m.sclB)

/-- `rows` spans of `len` bytes with a stride. -/
def rowSpans (base stride rows len : Nat) : List (Nat × Nat) :=
  (List.range rows).map fun i => (base + i * stride, len)

/-- Core-store spans of A. -/
def MOp.spansA (m : MOp) (d : List Byte) : List (Nat × Nat) :=
  rowSpans m.offA (Desc.lda d) m.m (rowbytes m.k m.fmtA)

/-- Core-store spans of B: columns for `mma`, rows for `mma.bt`. -/
def MOp.spansB (m : MOp) (d : List Byte) : List (Nat × Nat) :=
  if m.op = 2 then rowSpans m.offB (Desc.ldb d) (min m.k 262144) (rowbytes m.n m.fmtB)
  else rowSpans m.offB (Desc.ldb d) m.n (rowbytes m.k m.fmtB)

/-- Core-store spans of C. -/
def MOp.spansC (m : MOp) (d : List Byte) : List (Nat × Nat) :=
  rowSpans m.offC (Desc.ldc d) m.m (rowbytes m.n m.fmtC)

/-- The bytes the operation writes: C, the audit record and `CWORD`; a capture for `mrd`. -/
def MOp.writes (m : MOp) (d : List Byte) : List (Nat × Nat) :=
  if m.multiplies then
    m.spansC d ++ (if m.audit then [(Desc.audo d, 32)] else []) ++ [(m.offS + 0x30, 4)]
  else if m.op = 4 then [(m.offC, 1024)] else []

/-- The bytes the operation reads; the descriptor only until its copy is taken (R56). -/
def MOp.reads (m : MOp) (d : List Byte) : List (Nat × Nat) :=
  if m.multiplies then
    m.spansA d ++ m.spansB d ++ (if m.zero then [] else m.spansC d)
      ++ [(Desc.bsa d, m.scaleBytesA), (Desc.bsb d, m.scaleBytesB)]
      ++ (if m.desc.isNone then [(m.offS, 64)] else [])
  else if m.op = 5 then [(m.offC, 1024)] else []

/-- Whether two lists of spans share a byte. -/
def overlap (a b : List (Nat × Nat)) : Bool :=
  a.any fun x => b.any fun y => x.1 < y.1 + y.2 && y.1 < x.1 + x.2 && 0 < x.2 && 0 < y.2

/-- Whether a byte lies in one of the spans. -/
def inSpans (l : List (Nat × Nat)) (a : Nat) : Bool := l.any fun e => decide (e.1 ≤ a ∧ a < e.1 + e.2)

/-- Those of `n` bytes at core-store offset `off` that lie in the spans take free values. -/
def scramble (s : State) (g off n : Nat) (spans : List (Nat × Nat)) : State :=
  let bs := (List.range n).map fun i =>
    if inSpans spans (off + i) then BitVec.ofNat 8 (freeAt s i).toNat else mget s.stores (coreBase g + off + i)
  spend { s with stores := mput s.stores (coreBase g + off) bs } n

/-- A store or DMA write of `n` bytes at core-store offset `off` of core `g` (R40): the bytes that an
uncompleted M operation reads or writes, and that operation's output, become free values. An operation that enters
the arrays with the store's own bundle is not yet in flight (log 121). -/
def storeHazard (s : State) (g off n : Nat) : State :=
  let hit := fun m : MOp => overlap [(off, n)] (m.reads (m.descNow s g) ++ m.writes (m.descNow s g))
  let k := coreOf s g
  if k.mops.any hit then
    let mark := fun m : MOp => if hit m then { m with hazard := true, touched := (off, n) :: m.touched } else m
    let s1 := onCore s g fun q => { q with mops := q.mops.map mark }
    scramble s1 g off n ((k.mops.filter hit).flatMap fun m => m.reads (m.descNow s g) ++ m.writes (m.descNow s g))
  else s

/-- The bytes of A, B and C that an operation reads or writes (R59); for `mrd` and `mwr` the 1,024 bytes at `gc`. -/
def MOp.operands (m : MOp) (d : List Byte) : List (Nat × Nat) :=
  if m.multiplies then m.spansA d ++ m.spansB d ++ m.spansC d else [(m.offC, 1024)]

/-- Where the output of an operation lies. -/
def MOp.output (m : MOp) (d : List Byte) : List (Nat × Nat) :=
  if m.multiplies then m.spansC d else if m.op = 4 then [(m.offC, 1024)] else []

/-- An M operation joins those in flight: a later one that touches what an earlier one writes makes
both outputs free values (R59, R68). -/
def joinMop (s : State) (g : Nat) (new : MOp) : State :=
  let k := coreOf s g
  let nd := new.descNow s g
  let hit := fun m : MOp => overlap (new.operands nd) (m.writes (m.descNow s g))
  let any_ := k.mops.any hit
  let mark := fun m : MOp => if hit m then { m with hazard := true } else m
  onCore s g fun q => { q with mops := q.mops.map mark ++ [{ new with hazard := any_ }] }

end Sys2Proof.Machine
end

