-- ==== Sys2Proof/Machine/Vector.lean ====
section
/-! DEFINITION. The V slot (Tables 2-9, 2-10; R34, R73-R79, R95, R280, R281, R437). -/

namespace Sys2Proof.Machine

/-- A lane result: its 32-bit pattern, whether an integer result saturated, and whether it is a NaN
from inputs that are not NaN. -/
structure LaneRes where
  val : Nat
  sat : Bool
  nan : Bool
  deriving DecidableEq, Repr

/-- An FP32 lane result of an exact value; `ins` are the inputs it was made from. -/
def fpRes (ins : List Num) (x : Num) : LaneRes :=
  let c := toFp32 x
  ⟨c, false, (fp32.decode c).isNan && !ins.any Num.isNan⟩

/-- An integer lane result (R79). -/
def intRes (ety : Nat) (wrap : Bool) (i : Int) : LaneRes :=
  let r := intFit 32 (ety == 1) wrap i
  ⟨r.1, r.2, false⟩

/-- A bit pattern moved or formed without arithmetic. -/
def rawRes (v : Nat) : LaneRes := ⟨v, false, false⟩

/-- The integer value of a lane for `ETY` INT32 or UINT32. -/
def laneInt (ety v : Nat) : Int := if ety = 1 then sext 32 v else ((v % 2 ^ 32 : Nat) : Int)

/-- Operations of two or three lanes with a sum, product, minimum or maximum (0x01 to 0x08, 0x20). -/
def arithLane (op ety : Nat) (wrap : Bool) (a b c d : Nat) : LaneRes :=
  if ety = 0 then
    let x := ofFp32 a; let y := ofFp32 b; let z := ofFp32 c; let w := ofFp32 d
    match op with
    | 0x01 => fpRes [x, y] (Num.add x y)
    | 0x02 => fpRes [x, y] (Num.sub x y)
    | 0x03 => fpRes [x, y] (Num.mul x y)
    | 0x04 => fpRes [x, y, z] (Num.add (Num.mul x y) z)
    | 0x05 => fpRes [x, y] (Num.min' x y)
    | 0x06 => fpRes [x, y] (Num.max x y)
    | 0x07 => fpRes [x] x.abs
    | 0x08 => fpRes [x] x.neg
    | _ => fpRes [w, x] (Num.max w x.abs)
  else
    let x := laneInt ety a; let y := laneInt ety b; let z := laneInt ety c; let w := laneInt ety d
    match op with
    | 0x01 => intRes ety wrap (x + y)
    | 0x02 => intRes ety wrap (x - y)
    | 0x03 => intRes ety wrap (x * y)
    | 0x04 => intRes ety wrap (x * y + z)
    | 0x05 => intRes ety wrap (min x y)
    | 0x06 => intRes ety wrap (max x y)
    | 0x07 => intRes ety wrap x.natAbs
    | 0x08 => intRes ety wrap (-x)
    | _ =>
      let t := intRes ety wrap x.natAbs
      ⟨(intRes ety wrap (max w (laneInt ety t.val))).val, t.sat, false⟩

/-- The approximations of `vrcp`, `vrsqrt`, `vexp2`, `vlog2`: the permitted codes (Table 2-10). -/
def approxLane (op a : Nat) : List Nat :=
  match ofFp32 a with
  | .nan => [0x7FC00000]
  | .inf s =>
    match op with
    | 0x09 => [fp32.signBit s]
    | 0x0A => [if s then 0x7FC00000 else 0]
    | 0x0B => [if s then 0 else 0x7F800000]
    | _ => [if s then 0x7FC00000 else 0x7F800000]
  | .fin s n d e =>
    if n = 0 then
      match op with
      | 0x09 | 0x0A => [fp32.signBit s + 0x7F800000]
      | 0x0B => near2 (.pow2 0)
      | _ => [0xFF800000]
    else
      match op with
      | 0x09 => near2 (.fin s d n (-e))
      | 0x0A => if s then [0x7FC00000] else near2 (rsqrtNum n e)
      | 0x0B => near2 (exp2Num s n d e)
      | _ => if s then [0x7FC00000] else near2 (log2Num n e)

/-- One of the permitted codes, by the k-th free value. -/
def pickCode (s : State) (k : Nat) (cs : List Nat) : Nat := cs.getD (freeBelow s k cs.length) 0x7FC00000

/-- Comparison of a lane (R76). -/
def cmpLane (op ety a b : Nat) : Bool :=
  if ety = 0 then
    let x := ofFp32 a; let y := ofFp32 b
    match op with
    | 0x0D => Num.eq x y
    | 0x0E => Num.lt x y
    | _ => Num.le x y
  else
    let x := laneInt ety a; let y := laneInt ety b
    match op with
    | 0x0D => decide (x = y)
    | 0x0E => decide (x < y)
    | _ => decide (x ≤ y)

/-- Bitwise operations and shifts (R437). -/
def bitLane (op ety a b : Nat) : Nat :=
  match op with
  | 0x11 => a &&& b
  | 0x12 => a ||| b
  | 0x13 => a ^^^ b
  | 0x14 => a * 2 ^ (b % 32) % 2 ^ 32
  | _ => if ety = 1 then wrapTo 32 (sext 32 a / ((2 ^ (b % 32) : Nat) : Int)) else a / 2 ^ (b % 32)

/-- `vcvt` (R95). -/
def cvtLane (ety : Nat) (wrap : Bool) (a : Nat) : LaneRes :=
  if ety = 0 then
    match intConv 32 true wrap (ofFp32 a) with
    | some r => ⟨r.1, r.2, false⟩
    | none => ⟨0, true, false⟩
  else rawRes (toFp32 (.ofInt (laneInt ety a)))

/-- `vpack` of one lane into `FMT` (R95): the code and its flags. -/
def packLane (fmt ety : Nat) (wrap : Bool) (a : Nat) : LaneRes :=
  match fmtKind fmt with
  | .fp f =>
    let x := ofFp32 a
    match f.conv x with
    | some c => ⟨c, false, (f.decode c).isNan && !x.isNan⟩
    | none => if x.isNan then ⟨0, true, false⟩ else rawRes (f.signBit x.sign + f.maxc)
  | .int w sg =>
    let r := intFit w sg wrap (laneInt ety a)
    ⟨r.1, r.2, false⟩
  | .codebook _ | .reserved => rawRes 0

/-- `vunpk` of one code to a lane (R95). -/
def unpkLane (fmt ety : Nat) (wrap : Bool) (c : Nat) : LaneRes :=
  match fmtKind fmt with
  | .fp f => rawRes (toFp32 (f.decode c))
  | .int w sg => intRes ety wrap (if sg then sext w c else ((c % 2 ^ w : Nat) : Int))
  | .codebook _ | .reserved => rawRes 0

/-- Reductions over all 32 lanes (R437). -/
def reduceLanes (op ety : Nat) (wrap : Bool) (ls : List Nat) : LaneRes :=
  if ety = 0 then
    let xs := ls.map ofFp32
    let f := match op with
      | 0x1B => Num.add
      | 0x1C => Num.max
      | _ => Num.min'
    match xs with
    | [] => rawRes 0
    | x :: t => fpRes xs (t.foldl f x)
  else
    let xs := ls.map (laneInt ety)
    match xs with
    | [] => rawRes 0
    | x :: t =>
      match op with
      | 0x1B => intRes ety wrap (t.foldl (· + ·) x)
      | 0x1C => intRes ety wrap (t.foldl max x)
      | _ => intRes ety wrap (t.foldl min x)

/-- The rounded sum of a `vtsum` lane and its exact error (Table 2-10). -/
def tsumLane (a b : Nat) : LaneRes × Nat :=
  let x := ofFp32 a; let y := ofFp32 b
  let r := fpRes [x, y] (Num.add x y)
  let h := ofFp32 r.val
  (r, if h.isFin then toFp32 (Num.sub (Num.add x y) h) else 0)

/-- One rounding to FP32 (R281). -/
def rnd (x : Num) : Num := ofFp32 (toFp32 x)

/-- The correctly rounded square root: one extra bit and a sticky bit decide the rounding. -/
def sqrtRnd (x : Num) : Num :=
  match x with
  | .nan => .nan
  | .inf s => if s then .nan else .inf false
  | .fin s n d e =>
    if n = 0 then .zero s
    else if s then .nan
    else
      let q := n * 2 ^ 100 / d
      let sticky := n * 2 ^ 100 % d != 0
      let q' := if e % 2 = 0 then q else 2 * q
      let e' := if e % 2 = 0 then e else e - 1
      let r := isqrt q' (q'.log2 / 2 + 1) 0
      let k := 2 * r + b2n (sticky || r * r != q')
      rnd (.fin false k 1 (e' / 2 - 51))

/-- The fused optimizer step of one lane (R281): w', m', s' from the parameters in lanes 0 to 7,
8 and 9 of `vb`. -/
def optLane (ps : List Nat) (w m sv g r : Nat) : LaneRes × LaneRes × LaneRes :=
  let par := fun i => ofFp32 (ps.getD i 0)
  let x := ofFp32 w; let y := ofFp32 m; let z := ofFp32 sv; let gi := ofFp32 g; let rr := ofFp32 r
  let mIn := [par 1, y, par 2, par 7, gi]
  let sIn := [par 3, z, par 4, par 7, gi]
  let wIn := [x, par 0, rr, par 6, par 8, par 9, par 5] ++ mIn ++ sIn
  let g1 := rnd (Num.mul (par 7) gi)
  let m' := rnd (Num.add (Num.mul (par 1) y) (rnd (Num.mul (par 2) g1)))
  let v := rnd (Num.add (Num.mul (par 3) (rnd (Num.mul z z))) (rnd (Num.mul (rnd (Num.mul (par 4) g1)) g1)))
  let s' := sqrtRnd v
  let den := rnd (Num.add (Num.mul (par 9) s') (par 5))
  let u := rnd (Num.div (rnd (Num.mul (par 8) m')) den)
  let step := rnd (Num.mul (rnd (Num.mul (par 0) rr)) (rnd (Num.add (Num.mul (par 6) x) u)))
  (fpRes wIn (Num.sub x step), fpRes mIn m', fpRes sIn s')

/-- What a V slot does: register writes under the mask, a predicate and a general register write,
the new sticky bits and the free values it used. -/
structure VEffect where
  vs    : List (Nat × List Nat)
  ps    : Option (Nat × BitVec 32)
  gs    : Option (Nat × Word)
  flags : Nat
  used  : Nat
  deriving DecidableEq, Repr

/-- The sticky bits of lane results that the mask selects (Table 2-6). -/
def flagBits (mask : BitVec 32) (rs : List LaneRes) : Nat :=
  let sel := (List.range rs.length).filter fun i => bit mask i
  let at_ := fun i => rs.getD i (rawRes 0)
  2 * b2n (sel.any fun i => (at_ i).sat) + b2n (sel.any fun i => (at_ i).nan)

/-- Plain lane-by-lane results into `vd`. -/
def laneEffect (mask : BitVec 32) (vd : Nat) (rs : List LaneRes) (used : Nat) : VEffect :=
  { vs := [(vd, rs.map (·.val))], ps := none, gs := none, flags := flagBits mask rs, used := used }

/-- The effect of a valid V slot of core state `k` (operands as read at issue). -/
def vEffect (s : State) (k : Core) (w : Nat) : VEffect :=
  let op := V.op w
  let ety := V.ety w
  let wrap := V.iovf w
  let mask := guardMask k (V.pr w) (V.pn w)
  let a := lanesOf (k.vr (V.va w))
  let b := lanesOf (k.vr (V.vb w))
  let c := lanesOf (k.vr (V.vc w))
  let d := lanesOf (k.vr (V.vd w))
  let ix := List.range 32
  let at_ := fun (l : List Nat) i => l.getD i 0
  match op with
  | 0x00 => { vs := [], ps := none, gs := none, flags := 0, used := 0 }
  | 0x01 | 0x02 | 0x03 | 0x04 | 0x05 | 0x06 | 0x07 | 0x08 | 0x20 =>
    laneEffect mask (V.vd w) (ix.map fun i => arithLane op ety wrap (at_ a i) (at_ b i) (at_ c i) (at_ d i)) 0
  | 0x09 | 0x0A | 0x0B | 0x0C =>
    laneEffect mask (V.vd w) (ix.map fun i =>
      let v := pickCode s i (approxLane op (at_ a i))
      ⟨v, false, (ofFp32 v).isNan && !(ofFp32 (at_ a i)).isNan⟩) 32
  | 0x0D | 0x0E | 0x0F =>
    let bits := ix.map fun i => b2n (cmpLane op ety (at_ a i) (at_ b i))
    let pd := nfld (V.vd w) 2 0
    let new := BitVec.ofNat 32 (packCodes 1 bits)
    { vs := [], ps := some (pd, (new &&& mask) ||| (k.pr pd &&& ~~~ mask)), gs := none, flags := 0, used := 0 }
  | 0x10 =>
    laneEffect mask (V.vd w)
      (ix.map fun i => rawRes (if bit (k.pr (nfld (V.vc w) 2 0)) i then at_ a i else at_ b i)) 0
  | 0x11 | 0x12 | 0x13 | 0x14 | 0x15 =>
    laneEffect mask (V.vd w) (ix.map fun i => rawRes (bitLane op ety (at_ a i) (at_ b i))) 0
  | 0x16 => laneEffect mask (V.vd w) (ix.map fun i => cvtLane ety wrap (at_ a i)) 0
  | 0x17 =>
    let rs := ix.map fun i => packLane (V.fmt w) ety wrap (at_ a i)
    let whole := BitVec.ofNat 1024 (packCodes (fmtWidth (V.fmt w)) (rs.map (·.val)))
    { vs := [(V.vd w, lanesOf whole)], ps := none, gs := none
      flags := flagBits (BitVec.allOnes 32) rs, used := 0 }
  | 0x18 =>
    let src := (k.vr (V.va w)).toNat
    let n := fmtWidth (V.fmt w)
    laneEffect mask (V.vd w)
      (ix.map fun i => unpkLane (V.fmt w) ety wrap (src / 2 ^ (n * i) % 2 ^ n)) 0
  | 0x19 => laneEffect mask (V.vd w) (ix.map fun _ => rawRes (fld (k.gr (V.ga w)) 31 0)) 0
  | 0x1A =>
    { vs := [], ps := none, flags := 0, used := 0
      gs := if bit mask (V.lane w) then some (V.vd w, BitVec.ofNat 64 (at_ a (V.lane w))) else none }
  | 0x1B | 0x1C | 0x1D =>
    let r := reduceLanes op ety wrap a
    laneEffect mask (V.vd w) (r :: List.replicate 31 (rawRes 0)) 0
  | 0x1E => laneEffect mask (V.vd w) (ix.map fun i => rawRes (at_ a (at_ b i % 32))) 0
  | 0x1F =>
    let rs := ix.map fun i => tsumLane (at_ a i) (at_ b i)
    { vs := [(V.vd w, rs.map (·.1.val)), (V.vd w + 1, rs.map (·.2))], ps := none, gs := none
      flags := flagBits mask (rs.map (·.1)), used := 0 }
  | _ =>
    let m := lanesOf (k.vr (V.vd w + 1))
    let sv := lanesOf (k.vr (V.vd w + 2))
    let rs := ix.map fun i => optLane b (at_ d i) (at_ m i) (at_ sv i) (at_ a i) (at_ c i)
    { vs := [(V.vd w, rs.map (·.1.val)), (V.vd w + 1, rs.map (·.2.1.val)), (V.vd w + 2, rs.map (·.2.2.val))]
      ps := none, gs := none, used := 0
      flags := flagBits mask (rs.map (·.1)) ||| flagBits mask (rs.map (·.2.1)) |||
        flagBits mask (rs.map (·.2.2)) }

/-- The words of a register after a masked write. -/
def maskedWrite (mask : BitVec 32) (old : BitVec 1024) (new : List Nat) : BitVec 1024 :=
  let o := lanesOf old
  ofLanes ((List.range 32).map fun i => if bit mask i then new.getD i 0 else o.getD i 0)

/-- Applies a V effect to the core. -/
def VEffect.apply (e : VEffect) (mask : BitVec 32) (k : Core) : Core :=
  let k1 := e.vs.foldl (fun q x => q.setV x.1 (maskedWrite mask (q.vr x.1) x.2)) k
  let k2 := match e.ps with
    | some x => k1.setP x.1 x.2
    | none => k1
  let k3 := match e.gs with
    | some x => k2.setG x.1 x.2
    | none => k2
  { k3 with vflag := k3.vflag ||| BitVec.ofNat 2 e.flags }

end Sys2Proof.Machine
end

