-- ==== Sys2Proof/Machine/Bundle.lean ====
section
/-! DEFINITION. Issue of a bundle and the events that end a core's waits (R36-R51, R332). -/

namespace Sys2Proof.Machine

/-- A memory error that a step meets (R332, Table 14-1): a store word, a word of the memory-side cache, engine SRAM, or an
HBM read of a resident tile. -/
def memFault (s : State) : MemFault → State
  | .storeWord a => storeEvent s a
  | .storeFixed a => charge s 0x01 (storeUnit a).1 (storeUnit a).2
  | .engineSram e => beginEngineReset (charge s 0x02 0xC (engineIndex e)) e
  | .engineFixed e => charge s 0x01 0xC (engineIndex e)
  | .cacheWord p t l w hard => cacheEvent s p t l w hard
  | .hbm p t b d o => when_ ((partOf s p).bolt (t / 16)).framed s (hbmEvent s p t b d o)

/-- All memory errors of a step. -/
def memFaults (s : State) (fs : List MemFault) : State := fs.foldl memFault s

/-! ### Causes (R48, R49) -/

/-- A cause when a condition holds. -/
def cause (b : Bool) (c : Nat) : List Nat := if b then [c] else []

/-- The lowest code of a slot's causes. -/
def lowest (l : List Nat) : Option Nat := l.min?

/-- Whether the S slot is guarded true. -/
def guardS (k : Core) (w : Bundle) : Bool := w.svs && guardBit k (S.pr w.s) (S.pn w.s)
def guardB (k : Core) (w : Bundle) : Bool := w.svb && guardBit k (B.pr w.b) (B.pn w.b)
def guardM (k : Core) (w : Bundle) : Bool := w.svm && guardBit k (M4.pr w.m) (M4.pn w.m)
/-- Whether the L slot acts: a `vst` when it selects a lane (R27). -/
def guardL (k : Core) (w : Bundle) : Bool :=
  w.svl && (if L.op w.l = 0x0D then guardMask k (L.pr w.l) (L.pn w.l) != 0
    else guardBit k (L.pr w.l) (L.pn w.l))

/-- Whether a partition is in debug mode (Table 2-6). -/
def debugMode (s : State) (g : Nat) : Bool :=
  match holderOf s g with
  | some hd => (partOf s hd.part).dbgen
  | none => false

/-- Whether a cluster barrier of another mask is in progress: from the first arrival to the release (R45, log 125). -/
def barCMismatch (s : State) (g mask : Nat) : Bool :=
  let q := clusOf s (g / 16)
  q.barArr != 0 && q.barMask.toNat != mask

/-- Whether a partition barrier of another count is in progress (R46). -/
def barPMismatch (s : State) (g b n : Nat) : Bool :=
  match holderOf s g with
  | some hd =>
    let q : BarP := sget { n := 0, arr := [] } (ctxOf s hd.part hd.ctx).barP b
    q.arr != [] && decide (q.arr.length < q.n) && q.n != n
  | none => false

/-- Causes of the B slot. -/
def causesB (s : State) (g : Nat) (k : Core) (w : Bundle) : List Nat :=
  let b := w.b
  let act := guardB k w
  let semCnt := (sget 0 (clusOf s (g / 16)).sem (B.sid b)).toNat
  let n := B.semN k b
  let bn := (k.gr (B.barGa b)).toNat
  cause (B.illegal b) Exc.illegal
  ++ cause (w.svs && shares (destS w.s) (destB b)) Exc.dupWrite
  ++ (if act then
      match B.op b with
      | 0x02 => cause (decide (32767 < (k.gr (B.ga37 b)).toNat)) Exc.bounds
      | 0x04 => cause (decide (32767 < (k.gr 31).toNat)) Exc.bounds
      | 0x07 => cause (decide (65535 < semCnt + n)) Exc.semOvf
      | 0x09 => cause (nfld (B.mask b) (g % 16) (g % 16) == 0) Exc.illegal
          ++ cause (barCMismatch s g (B.mask b)) Exc.barMismatch
      | 0x0A => cause (bn == 0 || decide (10240 < bn)) Exc.illegal
          ++ cause (barPMismatch s g (B.bid b) bn) Exc.barMismatch
      | 0x10 => [Exc.trap]
      | _ => []
    else [])

/-- Causes of the M slot (R35, R57, R111, R112). -/
def causesM (s : State) (g : Nat) (k : Core) (w : Bundle) : List Nat :=
  let m := w.m
  let gs := (k.gr (M4.gs m)).toNat
  let gc := (k.gr (M4.gc m)).toNat
  cause (M4.illegal m) Exc.illegal
  ++ (if guardM k w then
      match M4.op m with
      | 0x01 | 0x02 => cause (gs % 64 != 0) Exc.misalign ++ cause (decide (262143 < gs + 63)) Exc.bounds
      | 0x04 | 0x05 => cause (gc % 16 != 0) Exc.misalign ++ cause (decide (262143 < gc + 1023)) Exc.bounds
          ++ cause (!debugMode s g) Exc.debugOnly
      | _ => []
    else [])

/-- Causes of the L slot (R30, R83, Table 2-17). -/
def causesL (s : State) (g : Nat) (k : Core) (w : Bundle) : List Nat :=
  let l := w.l
  let a := L.addr k l
  let n := L.size l
  let inside := decide (0 ≤ a ∧ a ≤ 262143)
  let src := (k.gr (L.gsrc l)).toNat
  let slot := fld (k.gr (L.gdst l)) 6 0
  let cnt := (k.gr (L.glen l)).toNat
  cause (L.illegal l) Exc.illegal
  ++ cause (shares (destL l) ((if w.svs then destS w.s else []) ++ (if w.svb then destB w.b else [])
      ++ (if w.svv then destV w.v else []))) Exc.dupWrite
  ++ (if guardL k w then
      if L.isMem l then
        cause (a % (n : Int) != 0) Exc.misalign ++ cause (!inside) Exc.bounds
        ++ cause (L.isLoad l && inside && bit (tagsOver s (coreBase g + a.toNat) n) 0) Exc.poisonLoad
      else if L.op l = 0x11 then
        cause (decide (71 < slot)) Exc.illegal
        ++ (if cnt = 0 then [] else
          cause (src % 16 != 0) Exc.misalign
          ++ cause (decide (262143 < src + L.cbBytes slot cnt - 1)) Exc.bounds
          ++ cause (decide (slot < 64 ∧ 64 < slot + cnt) || decide (72 < slot + cnt)) Exc.illegal)
      else []
    else [])

/-- The precise cause that the bundle reports: header first, then slots S, B, V, M, L (R49). -/
def bundleCause (s : State) (g : Nat) (k : Core) (w : Bundle) : Option Nat :=
  if w.badHeader then some Exc.illegal
  else
    let cs := if w.svs then lowest (cause (S.illegal w.s) Exc.illegal) else none
    let cb := if w.svb then lowest (causesB s g k w) else none
    let cv := if w.svv then lowest (cause (V.illegal w.v) Exc.illegal
      ++ cause (shares (destV w.v) ((if w.svs then destS w.s else []) ++ (if w.svb then destB w.b else [])))
          Exc.dupWrite) else none
    let cm := if w.svm then lowest (causesM s g k w) else none
    let cl := if w.svl then lowest (causesL s g k w) else none
    cs <|> cb <|> cv <|> cm <|> cl

/-! ### S slot -/

/-- A truth value in all 32 bits of a predicate (R27). -/
def allBits (b : Bool) : BitVec 32 := if b then BitVec.allOnes 32 else 0

/-- The special registers (Table 2-6). -/
def csrRead (s : State) (g : Nat) (k : Core) (i : Nat) : Word :=
  match i with
  | 0 => BitVec.ofNat 64 (cidOf g)
  | 1 => match holderOf s g with
    | some hd => BitVec.ofNat 64 (hd.part * 64 + hd.ctx)
    | none => 0
  | 2 => sget 0 s.dieCtr (g / 2560)
  | 3 => BitVec.ofNat 64 k.vflag.toNat
  | _ => BitVec.ofNat 64 (b2n (debugMode s g))

/-- The number of leading zeros. -/
def clz64 (x : Word) : Nat := if x = 0 then 64 else 63 - x.toNat.log2

/-- The number of ones. -/
def popc64 (x : Word) : Nat := ((List.range 64).filter fun i => bit x i).length

/-- Results of the S operations that write a general register (Table 2-5). -/
def aluS (op : Nat) (a b : Word) (w : Nat) (d : Word) : Word :=
  match op with
  | 0x01 => a + b
  | 0x02 => a - b
  | 0x03 => a * b
  | 0x04 => BitVec.ofInt 64 (a.toInt * b.toInt / 2 ^ 64)
  | 0x05 => BitVec.ofNat 64 (a.toNat * b.toNat / 2 ^ 64)
  | 0x06 => a &&& b
  | 0x07 => a ||| b
  | 0x08 => a ^^^ b
  | 0x09 => a <<< (fld b 5 0)
  | 0x0A => a >>> (fld b 5 0)
  | 0x0B => a.sshiftRight (fld b 5 0)
  | 0x0C => if a.toInt ≤ b.toInt then a else b
  | 0x0D => if a.toInt ≤ b.toInt then b else a
  | 0x0E => if a.toNat ≤ b.toNat then a else b
  | 0x0F => if a.toNat ≤ b.toNat then b else a
  | 0x10 => BitVec.ofNat 64 (clz64 a)
  | 0x11 => BitVec.ofNat 64 (popc64 a)
  | 0x12 => S.immX w
  | _ => setFld d 63 32 (S.imm w)

/-- Comparisons (Table 2-5). -/
def cmpS (op : Nat) (a b : Word) : Bool :=
  match op with
  | 0x14 => a == b
  | 0x15 => a != b
  | 0x16 => decide (a.toInt < b.toInt)
  | 0x17 => decide (a.toNat < b.toNat)
  | 0x18 => decide (a.toInt ≤ b.toInt)
  | _ => decide (a.toNat ≤ b.toNat)

/-- Predicate operations (Table 2-5). -/
def predS (op : Nat) (x y : BitVec 32) : BitVec 32 :=
  match op with
  | 0x1A => x &&& y
  | 0x1B => x ||| y
  | 0x1C => x ^^^ y
  | _ => ~~~ x

/-- The S slot: what it writes, with sources from the core at issue `k` into `q`. -/
def actS (s : State) (g : Nat) (k : Core) (w : Nat) (q : Core) : Core :=
  let op := S.op w
  let a := k.gr (S.ga w)
  let b := S.src2 k w
  let pd := nfld (S.gd w) 2 0
  if op = 0 then q
  else if op ≤ 0x13 then q.setG (S.gd w) (aluS op a b w (k.gr (S.gd w)))
  else if op ≤ 0x19 then q.setP pd (allBits (cmpS op a b))
  else if op ≤ 0x1D then q.setP pd (predS op (k.pr (nfld (S.ga w) 2 0)) (k.pr (nfld (S.gb w) 2 0)))
  else if op = 0x1E then q.setG (S.gd w) (csrRead s g k (S.csr w))
  else if op = 0x1F then
    (if S.csr w = 3 then { q with vflag := q.vflag &&& ~~~ (BitVec.ofNat 2 a.toNat) } else q)
  else if op = 0x20 then q.setLc (nfld (S.gd w) 1 0) (BitVec.ofNat 32 b.toNat)
  else q.setG (S.gd w) (BitVec.ofNat 64 (k.lcr (nfld (S.ga w) 1 0)).toNat)

/-! ### Control flow and loops (R42, R43) -/

/-- A program counter of 15 bits. -/
def pcWrap (i : Int) : Nat := wrapTo 15 i

/-- Loops that a new `loop` on counter `n` leaves active: those started before the old one. -/
def loopsBefore (n : Nat) (ls : List Loop) : List Loop :=
  if ls.any fun l => l.n == n then (ls.dropWhile fun l => l.n != n).drop 1 else ls

/-- The loop tests at bundle `pc`, newest first (R43): the loops left, the counters, and the start
that the core returns to. -/
def loopTest (pc : Nat) (k : Core) : List Loop → List Loop × List (Nat × BitVec 32) × Option Nat
  | [] => ([], [], none)
  | l :: rest =>
    if l.last = pc then
      if 1 < (k.lcr l.n).toNat then (l :: rest, [(l.n, k.lcr l.n - 1)], some l.first)
      else
        let r := loopTest pc k rest
        (r.1, (l.n, 0) :: r.2.1, r.2.2)
    else
      let r := loopTest pc k rest
      (l :: r.1, r.2.1, r.2.2)

/-- The target of a taken branch of the B slot, if it takes one. -/
def branchTarget (k : Core) (b : Nat) : Option Nat :=
  match B.op b with
  | 0x01 | 0x03 => some (pcWrap (k.pc + B.off b))
  | 0x02 => some (k.gr (B.ga37 b)).toNat
  | 0x04 => some (k.gr 31).toNat
  | 0x05 => if B.loopN k b = 0 then some (pcWrap (k.pc + B.len b + 1)) else none
  | _ => none

/-- The program counter, loops and counters after the bundle. Where `mvlc` and `loop` name one counter, the loop's count
stands (log 121). -/
def flow (k : Core) (w : Bundle) (q : Core) : Core :=
  let act := guardB k w
  let starts := act && B.op w.b == 0x05
  let n := B.lcn w.b
  let old := if starts then loopsBefore n k.loops else k.loops
  let count := B.loopN k w.b
  let q1 := if act && B.op w.b == 0x03 then q.setG 31 (BitVec.ofNat 64 (pcWrap (k.pc + 1))) else q
  let q2 := if starts then q1.setLc n (BitVec.ofNat 32 count) else q1
  let started : List Loop := if starts && count != 0
    then [{ n := n, first := pcWrap (k.pc + 1), last := pcWrap (k.pc + B.len w.b) }] else []
  match (if act then branchTarget k w.b else none) with
  | some t => { q2 with pc := t, loops := started ++ old }
  | none =>
    let r := loopTest k.pc k old
    let mvlc := if guardS k w && S.op w.s == 0x20 then some (nfld (S.gd w.s) 1 0) else none
    let q3 := r.2.1.foldl (fun c e => if mvlc = some e.1 then c else c.setLc e.1 e.2) q2
    { q3 with pc := r.2.2.getD (pcWrap (k.pc + 1)), loops := started ++ r.1 }

/-! ### Synchronisation (R44-R47) -/

/-- Whether a core that waits so is at a safe point (R50). -/
def Wait.safe : Wait → Bool
  | .fenceC _ | .fenceP _ => false
  | _ => true

/-- A wait begins at core `g`; for a preemption that was requested it is the safe point (R50). -/
def addWait (s : State) (g : Nat) (x : Wait) : State :=
  onCore s g fun k =>
    let ws := match k.run with
      | .waiting l => l ++ [x]
      | _ => [x]
    { k with
      run := if k.run = .halted then .halted else .waiting ws
      atSafe := k.atSafe || (k.preReq && ws.all Wait.safe) }

/-- Whether a DMA of the core with a tag of the mask is in flight. -/
def dmaBusy (k : Core) (mask : BitVec 16) : Bool := k.dmas.any fun d => bit mask d.tag

/-- Whether a DMA still writes what every core of the cluster or partition must see: anything but a remote put (R47). -/
def writesHere (d : Dma) : Bool := fld d.dst 63 62 != 1

/-- Whether `fence.c` waits for a DMA issued before it (R47). -/
def holdsFenceC (n : Nat) (d : Dma) : Bool := decide (d.id < n) && writesHere d

/-- Whether `fence.p` waits for a DMA issued before it: remote puts as well, until they are acknowledged (R47). -/
def holdsFenceP (n : Nat) (d : Dma) : Bool := decide (d.id < n)

/-- Whether a fence that core `k` waits for is complete. -/
def fenceDone (k : Core) : Wait → Bool
  | .fenceC n => !k.dmas.any (holdsFenceC n)
  | .fenceP n => !k.dmas.any (holdsFenceP n)
  | _ => false

/-- The core of context core index `i`. -/
def ctxCoreAt (x : Partition) (c i : Nat) : Option Nat := (ctxClusters x c)[i / 16]?.map fun h => 16 * h + i % 16

/-- Releases the cores that wait at barrier `b` of context `c` (R46). -/
def releaseBarP (s : State) (p c b : Nat) : State :=
  let q : BarP := sget { n := 0, arr := [] } (ctxOf s p c).barP b
  let s1 := (q.arr.filterMap (ctxCoreAt (partOf s p) c)).foldl (fun t g => endWaits t g fun w => w == .barP b) s
  onCtx s1 p c fun y => { y with barP := sset { n := 0, arr := [] } y.barP b { n := 0, arr := [] } }

/-- An arrival at a partition barrier. One that comes after the n-th arrival and before the release starts the next
instance, and the full one is released first (log 125). -/
def arriveBarP (s : State) (g : Nat) (hd : Holder) (b n : Nat) : State :=
  let p := hd.part
  let c := hd.ctx
  let q : BarP := sget { n := 0, arr := [] } (ctxOf s p c).barP b
  let s1 := if q.arr ≠ [] ∧ q.n ≤ q.arr.length then releaseBarP s p c b else s
  let q1 : BarP := sget { n := 0, arr := [] } (ctxOf s1 p c).barP b
  let s2 := onCtx s1 p c fun y =>
    { y with barP := sset { n := 0, arr := [] } y.barP b { n := n, arr := q1.arr ++ [16 * hd.cli + g % 16] } }
  addWait s2 g (.barP b)

/-- The B slot's effect beyond the program counter (sources from `k`, the core at issue). A `wait.dma` and a fence look
at the DMAs in flight at issue, so a `dma` of the same bundle alone does not make them wait (log 121). -/
def actB (s : State) (g : Nat) (k : Core) (b : Nat) : State :=
  let h := g / 16
  let sid := B.sid b
  let n := B.semN k b
  let cnt := (sget 0 (clusOf s h).sem sid).toNat
  let taken := onClus s h fun q => { q with sem := sset 0 q.sem sid (BitVec.ofNat 16 (cnt - n)) }
  match B.op b with
  | 0x06 => if n ≤ cnt then taken else addWait s g (.sem sid n)
  | 0x07 => if n = 0 then s else semAdd s h sid n
  | 0x08 =>
    if n ≤ cnt then onCore taken g fun q => q.setP (B.pd b) (allBits true)
    else onCore s g fun q => q.setP (B.pd b) (allBits false)
  | 0x09 =>
    let s1 := onClus s h fun q =>
      { q with barMask := BitVec.ofNat 16 (B.mask b), barArr := setFld q.barArr (g % 16) (g % 16) 1 }
    addWait s1 g (.barC (BitVec.ofNat 16 (B.mask b)))
  | 0x0A =>
    match holderOf s g with
    | some hd => arriveBarP s g hd (B.bid b) (k.gr (B.barGa b)).toNat
    | none => s
  | 0x0B => if k.dmas.any (holdsFenceC k.nextDma) then addWait s g (.fenceC k.nextDma) else s
  | 0x0C => if k.dmas.any (holdsFenceP k.nextDma) then addWait s g (.fenceP k.nextDma) else s
  | 0x0D =>
    if dmaBusy k (BitVec.ofNat 16 (B.mask b)) then addWait s g (.dma (BitVec.ofNat 16 (B.mask b))) else s
  | 0x0E =>
    match holderOf s g with
    | some hd => flushCode s g hd
    | none => s
  | 0x0F => onCore s g fun q => { q with atSafe := q.preReq }
  | 0x11 => onCore s g fun q => { q with run := .halted, atSafe := q.preReq }
  | _ => s

/-! ### M and L slots -/

/-- The M slot: an operation takes its place, or the core waits. -/
def actM (s : State) (g : Nat) (k : Core) (m : Nat) : State :=
  let op := M4.op m
  if op = 0 then s
  else if op = 3 then (if k.mops = [] then s else addWait s g .mwait)
  else
    joinMop s g
      { op := op, fmtA := M4.fmtA m, fmtB := M4.fmtB m, fmtC := M4.fmtC m, sclA := M4.sclA m
        sclB := M4.sclB m, shape := M4.shape m, chunk := M4.chunk m, iovf := M4.iovf m
        audit := M4.audit m, zero := M4.zero m, accInt := M4.accf m, m := M4.m m, n := M4.n m
        k := (k.gr (M4.gk m)).toNat, offA := (k.gr (M4.ga m)).toNat, offB := (k.gr (M4.gb m)).toNat
        offC := (k.gr (M4.gc m)).toNat, offS := (k.gr (M4.gs m)).toNat, pc := k.pc, desc := none
        started := false, failed := false, segs := 0, draw := 0, c0 := [], acc := [], pairs := [], tots := []
        hazard := false, touched := [], hold := none }

/-- A load of the L slot. -/
def loadVal (op : Nat) (v : Nat) : Word :=
  match op with
  | 0x05 => BitVec.ofInt 64 (sext 8 v)
  | 0x06 => BitVec.ofInt 64 (sext 16 v)
  | 0x07 => BitVec.ofInt 64 (sext 32 v)
  | _ => BitVec.ofNat 64 v

/-- A store of bytes at core-store offset `off` (R40, R147). -/
def storeBytes (s : State) (g off : Nat) (bs : List Byte) : State :=
  let a := coreBase g + off
  storeHazard (storeTags { s with stores := mput s.stores a bs } a bs.length) g off bs.length

/-- The codebook key of entry `j` of a slot: 16 entries in slots 0 to 63, 256 above (R82). -/
def cbKey (slot j : Nat) : Nat := if slot < 64 then slot * 16 + j else 1024 + (slot - 64) * 256 + j

/-- `cbld`: `n` tables from core-store offset `src` into slots from `slot` on (R83). -/
def loadCodebooks (s : State) (g src slot n : Nat) : State :=
  let per := if slot < 64 then 16 else 256
  let put := fun (m : Sparse (BitVec 16)) i =>
    sset 0 m (cbKey slot 0 + i) (BitVec.ofNat 16 (mle s.stores (coreBase g + src + 2 * i) 2))
  let ix := List.range (per * n)
  onCore s g fun k => { k with cb := ix.foldl put k.cb }

/-- The L slot. -/
def actL (s : State) (g : Nat) (k : Core) (l : Nat) : State :=
  let op := L.op l
  let off := (L.addr k l).toNat
  let a := coreBase g + off
  if op = 0 then s
  else if op ≤ 7 then
    onCore s g fun q => q.setG (L.gd l) (loadVal op (mle s.stores a (L.size l)))
  else if op ≤ 0x0B then storeBytes s g off (toLE (L.size l) (k.gr (L.gd l)).toNat)
  else if op = 0x0C then
    onCore s g fun q => q.setV (L.gd l) (BitVec.ofNat 1024 (mle s.stores a 128))
  else if op = 0x0D then
    let mask := guardMask k (L.pr l) (L.pn l)
    let ls := lanesOf (k.vr (L.gd l))
    let lane := fun i => toLE 4 (ls.getD i 0)
    (List.range 16).foldl (fun t i =>
      let lo := bit mask (2 * i)
      let hi := bit mask (2 * i + 1)
      if lo && hi then storeBytes t g (off + 8 * i) (lane (2 * i) ++ lane (2 * i + 1))
      else if lo then storeBytes t g (off + 8 * i) (lane (2 * i))
      else if hi then storeBytes t g (off + 8 * i + 4) (lane (2 * i + 1))
      else t) s
  else if op = 0x0E then
    onCore s g fun q => q.setV (L.gd l) (ofLanes (List.replicate 32 (mle s.stores a 4)))
  else if op = 0x0F then
    onCore s g fun q =>
      { q with
        nextDma := q.nextDma + 1
        dmas := q.dmas ++ [{ id := q.nextDma, tag := L.tag l, sid := L.sid l, semen := L.semen l
                             xf := L.xf l, src := k.gr (L.gsrc l), dst := k.gr (L.gdst l)
                             len := (k.gr (L.glen l)).toNat, pc := k.pc, entry := none, active := 0
                             unit := 0, edge := 0, status := [], finished := false, aborted := false
                             parked := false, beforeSeam := none, asked := [], ahead := [], waiting := 0
                             buf := [], bufCol := [], bufTag := [] }] }
  else if op = 0x10 then
    let f := fun d : Dma => if bit (k.gr (L.glen l)) d.tag then { d with aborted := true } else d
    onCore s g fun q => { q with dmas := q.dmas.map f }
  else loadCodebooks s g (k.gr (L.gsrc l)).toNat (fld (k.gr (L.gdst l)) 6 0) (k.gr (L.glen l)).toNat

/-- Whether a DMA of the core may still read codebook RAM (R83): one that has not started may, since its entry is read only
then (R86). -/
def readsCodebook (d : Dma) : Bool :=
  let f := fun x => x == 0xB || x == 0xC
  match d.entry with
  | none => d.xf != 0 && !d.finished
  | some e => d.xf != 0 && !d.finished && (f (nfld (leAt e 0 8) 3 0) || f (nfld (leAt e 0 8) 7 4))

/-- Whether the bundle waits at issue for a place (R36, R83). -/
def mustWait (k : Core) (w : Bundle) : Bool :=
  (guardL k w && L.op w.l == 0x0F && decide (16 ≤ k.dmas.length))
  || (guardL k w && L.op w.l == 0x11 && k.dmas.any readsCodebook)
  || (guardM k w && (M4.op w.m == 1 || M4.op w.m == 2 || M4.op w.m == 4 || M4.op w.m == 5)
      && decide (4 ≤ k.mops.length))

/-- All valid slots act together, with sources read at issue (R38). A sticky bit that the V slot sets stands against a
`csrw vflag` of the same bundle that clears it, and a store of the L slot comes before an M operation of the same bundle
(log 121). -/
def commitBundle (s : State) (g : Nat) (k : Core) (w : Bundle) : State :=
  let q0 := { k with skip := false }
  let q1 := if guardS k w then actS s g k w.s q0 else q0
  let ve := vEffect s k w.v
  let q2 := if w.svv then ve.apply (guardMask k (V.pr w.v) (V.pn w.v)) q1 else q1
  let q3 := flow k w q2
  let s1 := spend (putCore s g q3) (if w.svv then ve.used else 0)
  let s2 := if guardL k w then actL s1 g k w.l else s1
  let s3 := if guardM k w then actM s2 g k w.m else s2
  if guardB k w then actB s3 g k w.b else s3

/-- Whether core `g` can issue: its context runs it, it is neither waiting nor stopped nor at a
safe point taken for preemption. -/
def canIssue (s : State) (g : Nat) : Bool :=
  match holderOf s g with
  | none => false
  | some hd =>
    let st := cstate s hd.part hd.ctx
    (st == Cs.running || st == Cs.preempting) && !(coreOf s g).atSafe && (coreOf s g).run == .issuing

/-- Issue of the bundle that was fetched. -/
def issueFetched (s : State) (g : Nat) (w : Bundle) : State :=
  let k := coreOf s g
  if k.preReq && w.sp then onCore s g fun q => { q with atSafe := true }
  else if w.brk && debugMode s g && !(k.skip && k.exc == BitVec.ofNat 8 Exc.brk) then coreStop s g Exc.brk none
  else
    match bundleCause s g k w with
    | some c => if c = Exc.trap then coreStop s g c (some (B.code w.b)) else coreFault s g c k.pc 0 0
    | none => if mustWait k w then s else commitBundle s g k w

/-- One bundle of core `g` (R28, R38). -/
def issueBundle (s : State) (g : Nat) : State :=
  match holderOf s g with
  | none => s
  | some hd =>
    if canIssue s g then
      let k := coreOf s g
      let cr := codeRegion s hd
      if cr.1 ≤ k.pc ∧ k.pc < cr.1 + cr.2 then
        let f := fetchBundle s g k.pc
        issueFetched (spend s f.2) g f.1
      else coreFault s g Exc.bounds k.pc 0 0
    else s

/-- BUNDLE_ISSUE: memory errors met on the way, then the bundle. -/
def execBundleIssue (g : Nat) (faults : List MemFault) (s : State) : Host.Outcome State Fault Refusal :=
  guarded (.bundleIssue g faults) (issueBundle (memFaults s faults) g)

/-! ### Events that end waits -/

/-- BAR_C_RELEASE: when every core of the mask has arrived, all are released (R45). -/
def barCRelease (s : State) (h : Nat) : State :=
  let q := clusOf s h
  when_ (q.barArr != 0 && (q.barMask &&& ~~~ q.barArr) == 0) s
    ((coresOf h).foldl (fun t g => endWaits t g fun w => match w with | .barC _ => true | _ => false)
      (onClus s h fun x => { x with barMask := 0, barArr := 0 }))

def execBarCRelease (h : Nat) (s : State) : Host.Outcome State Fault Refusal :=
  guarded (.barCRelease h) (barCRelease s h)

/-- Whether the cores of a context stand in its clusters, so that a wait of theirs can end (R235, R236). -/
def coresLive (s : State) (p c : Nat) : Bool :=
  let st := cstate s p c
  st == Cs.running || st == Cs.stopped || st == Cs.preempting

/-- BAR_P_RELEASE: when n cores have arrived, they are released (R46); those of a context that is saved or being
restored once it has its clusters again. -/
def barPRelease (s : State) (p c b : Nat) : State :=
  let q : BarP := sget { n := 0, arr := [] } (ctxOf s p c).barP b
  when_ (q.arr != [] && decide (q.n ≤ q.arr.length) && coresLive s p c) s (releaseBarP s p c b)

def execBarPRelease (p c b : Nat) (s : State) : Host.Outcome State Fault Refusal :=
  guarded (.barPRelease p c b) (barPRelease s p c b)

/-- FENCE_COMPLETE: `fence.c` completes when the core's earlier stores and DMA writes are visible, `fence.p` when its
earlier remote puts are acknowledged as well (R47): when no such DMA of the core is in flight. -/
def fenceComplete (s : State) (g : Nat) : State := endWaits s g (fenceDone (coreOf s g))

def execFenceComplete (g : Nat) (s : State) : Host.Outcome State Fault Refusal :=
  guarded (.fenceComplete g) (fenceComplete s g)

/-- Whether the watchdog of core `g` counts time (R347). -/
def watchdogCounts (s : State) (g : Nat) : Bool :=
  match holderOf s g with
  | none => false
  | some hd =>
    let k := coreOf s g
    let ws := waitsOf s g
    cstate s hd.part hd.ctx == Cs.running && k.run != .halted
      && !(ws.any fun w => match w with
        | .sem _ _ | .barC _ | .barP _ => true
        | .dma m => k.dmas.any fun d => bit m d.tag && decide (0 < d.waiting)
        | _ => false)
      && reg s hd.part R.errCwd 9 0 != 0

/-- WATCHDOG: the core watchdog expires (R347). -/
def watchdogExpires (s : State) (g : Nat) : State :=
  match holderOf s g with
  | none => s
  | some hd =>
    when_ (watchdogCounts s g) s
      (coreFault (errEvent (charge s 0x0F 1 g) hd.part 15) g Exc.watchdog (coreOf s g).pc 0 0)

def execWatchdog (g : Nat) (s : State) : Host.Outcome State Fault Refusal :=
  guarded (.watchdog g) (watchdogExpires s g)

/-- Whether a core is at a safe point taken for preemption (R50). -/
def safeNow (s : State) (g : Nat) : Bool :=
  let k := coreOf s g
  k.atSafe || k.run == .halted || k.run == .stopped ||
    ((waitsOf s g) != [] && (waitsOf s g).all Wait.safe)

/-- SP_LATE: 1.5 ms after the request the core has reached no safe point (R51). -/
def spLateRaise (s : State) (g : Nat) : State :=
  let k := coreOf s g
  when_ (k.preReq && !safeNow s g) s (coreFault s g Exc.spLate k.pc 0 0)

def execSpLate (g : Nat) (s : State) : Host.Outcome State Fault Refusal :=
  guarded (.spLate g) (spLateRaise s g)

end Sys2Proof.Machine
end

