-- ==== Sys2Proof/Machine/Sums.lean ====
section
/-! DEFINITION. Exact sums and FP32 pairs (R107, R276). -/

namespace Sys2Proof.Machine

/-- The exact sum of a list. -/
def numSum (l : List Num) : Num :=
  match l with
  | [] => .zero false
  | x :: t => t.foldl Num.add x

/-- The largest finite FP32 value. -/
def maxFp32 : Num := fp32.decode 0x7F7FFFFF

/-- An FP32 pattern that is finite. -/
def finitePattern (c : Nat) : Nat :=
  if (ofFp32 c).isFin then (if (ofFp32 c).isZero then fp32.signBit (ofFp32 c).sign else c)
  else fp32.signBit (decide (2 ^ 31 ≤ c)) + 0x7F7FFFFF

/-- The FP32 pair that stands for an exact value. -/
def toPair (x : Num) : Nat × Nat :=
  let hi := (fp32.conv x).getD 0x7FC00000
  if (ofFp32 hi).isFin then (hi, (fp32.conv (Num.sub x (ofFp32 hi))).getD 0) else (hi, 0)

/-- The FP32 pair of an exact value, as patterns. -/
def pairOf (x : Num) : BitVec 32 × BitVec 32 := let p := toPair x; (BitVec.ofNat 32 p.1, BitVec.ofNat 32 p.2)

end Sys2Proof.Machine
end

