-- ==== Sys2Proof/Machine/Collectives.lean ====
section
/-! DEFINITION. Collective groups and collective operations (R206-R219, R276-R278). -/

namespace Sys2Proof.Machine

def Partition.group (x : Partition) (g : Nat) : Group := sget .empty x.groups g
def putGroup (s : State) (p g : Nat) (q : Group) : State :=
  onPart s p fun x => { x with groups := sset .empty x.groups g q }

/-! ### Group commands (R206-R208) -/

/-- A group command ends: `CGIX`, `CSTAT`, vector 5 (Tables 9-9, 16-11). -/
def groupEnd (s : State) (p g status : Nat) : State :=
  msix (putReg (putReg s p R.cgrpCtl 13 8 g) p R.cgrpCtl 23 16 status) p 5

/-- The member IDs that LOAD copies: the neighbours in the ring, or the whole list (R208). -/
def copyMembers (alg n r : Nat) (id : Nat → Nat) : Sparse DevId :=
  let ks := if alg = 2 then List.range n else [(r + n - 1) % n, (r + 1) % n]
  ks.foldl (fun m k => sset 0 m k (BitVec.ofNat 18 (id k))) []

/-- LOAD (R208): the slot that the descriptor makes, or none for NOT_RUN. -/
def loadedGroup (s : State) (p : Nat) : Option Group × State :=
  let x := partOf s p
  let rd := devRead s p (x.get R.cgrpAddr 63 6 * 64) 64
  let d := rd.1
  let s1 := rd.2
  let job := BitVec.ofNat 32 (leAt d 0 4)
  let alg := leAt d 6 1
  let n := leAt d 8 4
  let r := leAt d 0x0C 4
  let ml := leAt d 0x10 8
  let ports := leAt d 0x18 4
  let clean := leAt d 7 1 == 0 && (slice d 0x1C 36).all (· == 0)
  let nOk := decide (2 ≤ n ∧ n ≤ (if alg = 2 then 64 else 262144))
  let entry := fun k => devReadLE s1 p (ml + 4 * k) 4
  let used := if alg = 2 then List.range n else [(r + n - 1) % max n 1, r, (r + 1) % max n 1]
  let listOk := used.all fun k => decide ((entry k).1 < 2 ^ 18)
  let s2 := used.foldl (fun t k => (devReadLE t p (ml + 4 * k) 4).2) s1
  if clean && decide (alg ≤ 2) && nOk && decide (r < n) && ml % 16 == 0 && ports != 0 && decide (ports < 2 ^ 18)
      && listOk && (entry r).1 == (ownId s).toNat && (partKey (partOf s p) job).isSome then
    (some { st := 1, job := job, epoch := BitVec.ofNat 16 (leAt d 4 2), alg := alg, n := n, rank := r
            members := copyMembers alg n r fun k => (entry k).1, ports := BitVec.ofNat 18 ports, opseq := 0
            early := [] }, s2)
  else (none, if clean && nOk && decide (r < n) then s2 else s1)

/-- LOAD into an EMPTY slot; BUSY otherwise (R208). -/
def groupLoad (s : State) (p g : Nat) : State :=
  if (partOf s p).ptstate != 1 then s
  else if ((partOf s p).group g).st != 0 then groupEnd s p g Status.busy
  else match loadedGroup s p with
    | (some q, s1) => groupEnd (putGroup s1 p g q) p g Status.ok
    | (none, s1) => groupEnd s1 p g Status.notRun

def execLoad (p gix : Nat) (s : State) : Host.Outcome State Fault Refusal :=
  guarded (.load p gix) (groupLoad s p gix)

/-- A DRAINING layout slot is FREE once every group slot in its `GMASK` is EMPTY; the Tailor vector is
raised (R250, R265). -/
def layoutDrain (s : State) (p i : Nat) : State :=
  let x := partOf s p
  let mask := x.reg (R.tlLgm i)
  if x.get (R.tlLay i) 19 18 = 3 && (List.range 64).all fun g => !bit mask g || (x.group g).st == 0 then
    msix (putReg s p (R.tlLay i) 19 18 0) p 2
  else s

/-- A DRAINING slot whose last collective has completed is EMPTY (R208). -/
def drainGroup (s : State) (p g : Nat) : State :=
  let x := partOf s p
  if (x.group g).st = 2 && !(x.colls.any fun k => k.gix == g) then
    layoutDrain (layoutDrain (putGroup s p g .empty) p 0) p 1
  else s

/-- Whether a plan runs on a group slot: from its SUBMIT until it ends or commits (R258, R265). -/
def planSlot (x : Partition) (g : Nat) : Bool :=
  let st := x.get R.tpCtl 23 20
  decide (1 ≤ st ∧ st ≤ 3) && match x.tailor.plan with
    | some pl => leAt pl.header 0x21 1 % 64 == g
    | none => false

/-- Whether a Ringmaster group uses a group slot for its step records (R301). -/
def ringSlot (x : Partition) (g : Nat) : Bool :=
  x.ring.on && x.get R.rmCtl 9 8 != 0 && x.get R.rmCtl 21 16 == g

/-- CLEAR of a LOADED slot (R208). -/
def groupClear (s : State) (p g : Nat) : State :=
  let q := (partOf s p).group g
  if (partOf s p).ptstate != 1 then s
  else if q.st != 1 then groupEnd s p g Status.busy
  else groupEnd (drainGroup (putGroup s p g { q with st := 2 }) p g) p g Status.ok

def execClear (p gix : Nat) (s : State) : Host.Outcome State Fault Refusal :=
  guarded (.clear p gix) (groupClear s p gix)

/-! ### The descriptor (Table 9-10) -/

namespace Cd
def src (d : List Byte) : Nat := leAt d 0 8
def dst (d : List Byte) : Nat := leAt d 8 8
def crec (d : List Byte) : Nat := leAt d 0x10 8
def nelem (d : List Byte) : Nat := leAt d 0x18 4
def op (d : List Byte) : Nat := leAt d 0x1C 1 / 64
def gix (d : List Byte) : Nat := leAt d 0x1C 1 % 64
def red (d : List Byte) : Nat := leAt d 0x1D 1 % 4
def iovf (d : List Byte) : Bool := nfld (leAt d 0x1D 1) 3 3 == 1
def carry (d : List Byte) : Bool := nfld (leAt d 0x1D 1) 4 4 == 1
def ssq (d : List Byte) : Bool := nfld (leAt d 0x1D 1) 5 5 == 1
def fmt (d : List Byte) : Nat := leAt d 0x1E 1 % 16
def scl (d : List Byte) : Nat := leAt d 0x1E 1 / 64
def semen (d : List Byte) : Bool := 128 ≤ leAt d 0x1F 1
def sid (d : List Byte) : Nat := leAt d 0x1F 1 % 64
def its (d : List Byte) : Nat := leAt d 0x20 4
def ots (d : List Byte) : Nat := leAt d 0x24 4
def wlim (d : List Byte) : Nat := leAt d 0x28 2
/-- Reserved fields are zero. -/
def clean (d : List Byte) : Bool :=
  nfld (leAt d 0x1D 1) 7 6 == 0 && nfld (leAt d 0x1D 1) 2 2 == 0 && nfld (leAt d 0x1E 1) 5 4 == 0
  && nfld (leAt d 0x1F 1) 6 6 == 0 && (slice d 0x2A 22).all (· == 0)
/-- RS or AR: the operation reduces. -/
def reduces (d : List Byte) : Bool := op d == 0 || op d == 2
/-- Data tiles of a bolt. -/
def perBolt (d : List Byte) : Nat := if scl d = 1 ∨ scl d = 2 then (scaleGeom (fmt d) (scl d)).1 else 16
/-- Elements of a bolt. -/
def boltElems (d : List Byte) : Nat := elemsPerTile (fmt d) * perBolt d
/-- Bolts of the whole buffer, u (R211). -/
def bolts (d : List Byte) : Nat := cdiv (nelem d) (boltElems d)
/-- Elements of a carrier tile (R214). -/
def carrier (d : List Byte) : Nat := if carry d then 2048 else 1024
/-- Carrier tiles that hold elements. -/
def carriers (d : List Byte) : Nat := cdiv (nelem d) (carrier d)
end Cd

/-- Segment of a rank in bolts: first bolt and length (R211). -/
def segOf (u n r : Nat) : Nat × Nat := (r * (u / n) + min r (u % n), u / n + b2n (decide (r < u % n)))

/-- The rank whose segment holds a bolt. -/
def ownerOf (u n b : Nat) : Nat :=
  let q := u / n
  let big := (u % n) * (q + 1)
  if b < big then b / (q + 1) else u % n + (b - big) / max q 1

/-- Whether a range of bolts from an address lies in the bolt range. -/
def boltSpan (x : Partition) (a n : Nat) : Bool :=
  a % boltSize == 0 && decide (boltBase ≤ a ∧ a + n * boltSize ≤ boltBase + x.vbolts * boltSize)

/-- Whether R211 admits the format. -/
def collFmtOk (d : List Byte) : Bool :=
  if Cd.reduces d then
    (Cd.scl d == 0 && (Cd.fmt d == 0 || Cd.fmt d == 1 || Cd.fmt d == 0xD)) || (Cd.scl d == 1 && Cd.fmt d == 3)
  else comboOk (Cd.fmt d) (Cd.scl d)

/-- Bolts at `SRC` and at `DST` (R211). -/
def collSpans (d : List Byte) (n r : Nat) : Nat × Nat :=
  let u := Cd.bolts d
  let own := (segOf u n r).2
  match Cd.op d with
  | 0 => (u, own)
  | 1 => (own, u)
  | _ => (u, u)

/-- Whether a collective is performed (R212). -/
def collRuns (x : Partition) (q : Group) (d : List Byte) : Bool :=
  let sp := collSpans d q.n q.rank
  let overlap := decide (Cd.src d < Cd.dst d + sp.2 * boltSize ∧ Cd.dst d < Cd.src d + sp.1 * boltSize)
  let float := Cd.fmt d != 0xD
  q.st == 1 && !planSlot x (Cd.gix d) && !ringSlot x (Cd.gix d) && Cd.clean d && Cd.nelem d != 0 && decide (Cd.red d ≤ 2) && collFmtOk d
  && (!Cd.carry d || (Cd.fmt d == 1 && decide (q.n ≤ 64)))
  && (!Cd.ssq d || (Cd.red d == 0 && Cd.reduces d && float))
  && (!(Cd.reduces d && float) || positiveNormal (Cd.ots d))
  && (!Cd.reduces d || decide (Cd.carriers d ≤ 2 ^ 20))
  && (Cd.op d != 3 || Cd.bolts d % max q.n 1 == 0)
  && boltSpan x (Cd.src d) sp.1 && boltSpan x (Cd.dst d) sp.2
  && Cd.crec d % 16 == 0 && pvKind x (Cd.crec d) != .outside
  && (!overlap || (Cd.op d == 2 && Cd.src d == Cd.dst d))

/-! ### Messages (R213) -/

/-- `ADDR` of a COLL message. -/
def collAddr (gix opseq kind idx : Nat) : Nat := gix * 2 ^ 38 + opseq * 2 ^ 22 + kind * 2 ^ 20 + idx % 2 ^ 20

namespace Ca
def gix (m : Msg) : Nat := fld m.addr 43 38
def opseq (m : Msg) : BitVec 16 := BitVec.ofNat 16 (fld m.addr 37 22)
def kind (m : Msg) : Nat := fld m.addr 21 20
def idx (m : Msg) : Nat := fld m.addr 19 0
end Ca

/-- The ranks a member exchanges data with (R206); an EMPTY slot has none. -/
def partners (q : Group) : List Nat :=
  if q.st = 0 then []
  else if q.alg = 2 then (List.range q.n).filter (· != q.rank)
  else [(q.rank + q.n - 1) % max q.n 1, (q.rank + 1) % max q.n 1].eraseDups

/-- The rank of a device among the members that a slot knows. -/
def rankOf (q : Group) (dev : DevId) : Option Nat := (partners q).find? fun k => sget 0 q.members k == dev

/-- A COLL message of a group. -/
def collMsg (q : Group) (k : Coll) (w : CollSend) : Msg :=
  { blankMsg Mt.coll q.job (sget 0 q.members w.dst) (collAddr k.gix k.opseq.toNat w.kind w.idx) with
    epoch := q.epoch, payload := w.payload, len := w.payload.length, collar := w.collar, col := w.collar != [] }

/-- One COLL message of a group leaves; false where no tag is free. -/
def sendColl (s : State) (p : Nat) (q : Group) (k : Coll) (w : CollSend) : State × Bool :=
  sendRequestOn s q.ports w.die p k.ctx (.coll p k.gix k.opseq) (collMsg q k w)

/-- The collective of a group and sequence number. -/
def collOf (s : State) (p g : Nat) (o : BitVec 16) : Option Coll :=
  (partOf s p).colls.find? fun k => k.gix == g && k.opseq == o

/-- A collective replaced. -/
def putColl (s : State) (p : Nat) (k : Coll) : State :=
  onPart s p fun x => { x with colls := x.colls.map fun j =>
    if j.gix == k.gix && j.opseq == k.opseq then k else j }

/-- A control message (READY, ABORT) to one partner; it counts as unacknowledged, also while it waits for a tag. -/
def sendControl (s : State) (p : Nat) (k : Coll) (kind : Nat) (payload : List Byte) (r : Nat) : State :=
  let q := (partOf s p).group k.gix
  let w : CollSend := { die := false, kind := kind, idx := 0, dst := r, payload := payload, collar := [] }
  sendWaiting s q.ports w.die p k.ctx (.coll p k.gix k.opseq) (collMsg q k w)

/-- Sends what waits for members that are ready, in order; the rest goes on waiting (R213). -/
def pump (p : Nat) (q : Group) (s : State) (k : Coll) : State × Coll :=
  let step := fun (acc : State × List CollSend × Nat) (w : CollSend) =>
    if k.ready.contains w.dst then
      let r := sendColl acc.1 p q k w
      if r.2 then (r.1, acc.2.1, acc.2.2 + 1) else (r.1, acc.2.1 ++ [w], acc.2.2)
    else (acc.1, acc.2.1 ++ [w], acc.2.2)
  let r := k.outq.foldl step (s, [], 0)
  (r.1, { k with outq := r.2.1, unacked := k.unacked + r.2.2 })

/-- A collective changed by `f`, then what can be sent is sent. -/
def onColl (s : State) (p g : Nat) (o : BitVec 16) (f : Coll → Coll) : State :=
  match collOf s p g o with
  | some k =>
    let r := pump p ((partOf s p).group g) s (f k)
    putColl r.1 p r.2
  | none => s

/-! ### Tiles of a collective -/

/-- A tile of the bolt range as an engine reads it for a context (R140, R146, R210): its view, and whether it was there; a
tile that may not be addressed is a zero tile and a violation, a bolt in the Wardrobe is fetched, one without a frame leaves
a zero tile and is NO_MEMORY (R154), and a tile that fails its checks is counted. -/
def engineRead (s : State) (p c fmt scl t : Nat) : TileView × Bool × State :=
  let none_ := viewTile (zeros 4096) zeroCollar fmt scl
  if ctxMay s p c (boltBase + 4096 * t) then
    match fetchNow s p (t / 16) with
    | none => (none_, false, s)
    | some s1 =>
      let s2 := touchTiles s1 p [t]
      let v := viewTile (tileBytes (partOf s2 p) t) (tileCollar (partOf s2 p) t) fmt scl
      (v, true, if v.bad then tileFailed s2 p t else s2)
  else (none_, true, violation s p)

/-- A tile written by the engine; one it may not address is a violation, one without a frame ends the
collective NO_MEMORY (R154). -/
def engineWrite (s : State) (p c a : Nat) (pay : List Byte) (col : Collar) : State × Bool :=
  if ctxMay s p c a && !inBase (partOf s p) a then
    match engineReady s p ((a - boltBase) / boltSize) with
    | some t => (onPart t p fun x => putTile x ((a - boltBase) / 4096) pay col, true)
    | none => (s, false)
  else (violation s p, true)

/-- The elements of carrier tile `t` of the input. -/
def carrierElems (d : List Byte) (t : Nat) : List Nat :=
  ((List.range (Cd.carrier d)).map fun j => t * Cd.carrier d + j).filter fun i => i < Cd.nelem d

/-- The tiles of the bolt range that a carrier tile of the input is decoded from: data tiles, then scale tiles. -/
def carrierTiles (d : List Byte) (t : Nat) : List Nat :=
  let base := (Cd.src d - boltBase) / 4096
  let es := carrierElems d t
  ((es.map fun i => (elemPlace (Cd.fmt d) (Cd.scl d) base ⟨0, 0, 0⟩ i).1)
    ++ (if Cd.scl d = 1 then es.map fun i => (scalePlace (Cd.fmt d) 1 base i).1 else [])).eraseDups

/-- The element at stream index `i` of the input, decoded into the carrier (R218), with whether its
tile or its scale tile must not be used; `tv` gives the tiles. -/
def inputElem (d : List Byte) (tv : Nat → TileView) (i : Nat) : BitVec 32 × Bool :=
  let f := Cd.fmt d
  let base := (Cd.src d - boltBase) / 4096
  let e := elemPlace f (Cd.scl d) base ⟨0, 0, 0⟩ i
  let v := tv e.1
  let code := elemAt v.payload (fmtWidth f) e.2
  if f = 0xD then (BitVec.ofNat 32 code, bit v.tags 0)
  else
    let sc := if Cd.scl d = 1 then
        let q := scalePlace f 1 base i
        let w := tv q.1
        (scaleValue 1 (leAt w.payload q.2 1), bit w.tags 0)
      else (Num.pow2 0, false)
    let x := Num.mul (Num.mul (scaleElem (decodeFmt f code) sc.1) (ofFp32 (Cd.its d))) (Num.pow2 v.over)
    (BitVec.ofNat 32 ((fp32.conv x).getD 0x7FC00000), bit v.tags 0 || sc.2)

/-- This member's own carrier tile: its values, whether it depends on POISON, and whether its bolts were there. -/
structure OwnTile where
  vals : List (BitVec 32)
  pois : Bool
  here : Bool
  deriving DecidableEq, Repr

/-- This member reads its own carrier tile `t`. -/
def ownCarrier (s : State) (p c : Nat) (d : List Byte) (t : Nat) : OwnTile × State :=
  let r := (carrierTiles d t).foldl (fun (acc : List (Nat × TileView) × Bool × State) i =>
    let e := engineRead acc.2.2 p c (Cd.fmt d) (Cd.scl d) i
    ((i, e.1) :: acc.1, acc.2.1 && e.2.1, e.2.2)) ([], true, s)
  let tv := fun i => ((r.1.find? fun e => e.1 == i).map (·.2)).getD (viewTile (zeros 4096) zeroCollar 0 0)
  let es := (List.range (Cd.carrier d)).map fun j =>
    let i := t * Cd.carrier d + j
    if i < Cd.nelem d then inputElem d tv i else (0, false)
  ({ vals := es.map (·.1), pois := es.any (·.2), here := r.2.1 }, r.2.2)

/-- One combination in the carrier (R218): the value and whether an INT32 sum clamped. -/
def combine (d : List Byte) (a b : BitVec 32) : BitVec 32 × Bool :=
  let fa := ofFp32 a.toNat
  let fb := ofFp32 b.toNat
  let r := fun x : Num => (BitVec.ofNat 32 (toFp32 x), false)
  if Cd.fmt d = 0xD then
    match Cd.red d with
    | 0 =>
      let v := intFit 32 true (Cd.iovf d) (sext 32 a.toNat + sext 32 b.toNat)
      (BitVec.ofNat 32 v.1, v.2)
    | 1 => (if sext 32 a.toNat < sext 32 b.toNat then b else a, false)
    | _ => (if sext 32 b.toNat < sext 32 a.toNat then b else a, false)
  else match Cd.red d with
    | 0 => r (Num.add fa fb)
    | 1 => r (Num.max fa fb)
    | _ => r (Num.min' fa fb)

/-- Two carrier tiles combined. -/
def combineTiles (d : List Byte) (a b : List (BitVec 32)) : List (BitVec 32) × Bool :=
  let l := List.zipWith (combine d) a b
  (l.map (·.1), l.any (·.2))

/-- A partial sum as it travels: rounded to BF16 under `CARRY` (R218). -/
def carried (d : List Byte) (v : List (BitVec 32)) : List (BitVec 32) :=
  if Cd.carry d then v.map fun x => BitVec.ofNat 32 ((bf16.conv (ofFp32 x.toNat)).getD 0x7FC0 * 65536) else v

/-- The payload and collar of a carrier tile. -/
def carrierWire (d : List Byte) (v : List (BitVec 32)) (pois : Bool) : List Byte × List Byte :=
  let pay := if Cd.carry d then v.flatMap fun x => toLE 2 (x.toNat / 65536) else v.flatMap fun x => toLE 4 x.toNat
  let f := if Cd.fmt d = 0xD then 0xD else if Cd.carry d then 1 else 0
  (pay, toLE 16 (mkCollar (crc32c pay) f 0 0 false false false pois false 0 0 0 0).toNat)

/-- The values of a carrier tile that arrived. -/
def carrierRead (d : List Byte) (pay : List Byte) : List (BitVec 32) :=
  (List.range (Cd.carrier d)).map fun i =>
    if Cd.carry d then BitVec.ofNat 32 (leAt pay (2 * i) 2 * 65536) else BitVec.ofNat 32 (leAt pay (4 * i) 4)

/-! ### Ways (R206, R211) -/

/-- The direction of a tile of a segment: +1 round the ring as `true`, -1 as `false`; under BIRING the
second half of a segment travels the other way. -/
def wayOf (alg first len i : Nat) : Bool := alg != 1 || decide (2 * (i - first) < len)

/-- Carrier tiles of a bolt. -/
def carriersPerBolt (d : List Byte) : Nat := Cd.boltElems d / Cd.carrier d

/-- The owner of a carrier tile, and its direction. -/
def carrierWay (q : Group) (d : List Byte) (t : Nat) : Nat × Bool :=
  let cpb := carriersPerBolt d
  let o := ownerOf (Cd.bolts d) q.n (t / cpb)
  let sg := segOf (Cd.bolts d) q.n o
  (o, wayOf q.alg (sg.1 * cpb) (sg.2 * cpb) t)

/-- The owner of a buffer tile, and its direction. -/
def tileWay (q : Group) (d : List Byte) (t : Nat) : Nat × Bool :=
  let o := ownerOf (Cd.bolts d) q.n (t / 16)
  let sg := segOf (Cd.bolts d) q.n o
  (o, wayOf q.alg (sg.1 * 16) (sg.2 * 16) t)

/-- The I/O die whose engine moves a carrier tile or a buffer tile: IO-A the first half of every segment, IO-B the second
(R217). -/
def carrierDie (q : Group) (d : List Byte) (t : Nat) : Bool :=
  let cpb := carriersPerBolt d
  let sg := segOf (Cd.bolts d) q.n (ownerOf (Cd.bolts d) q.n (t / cpb))
  !wayOf 1 (sg.1 * cpb) (sg.2 * cpb) t
def tileDie (q : Group) (d : List Byte) (t : Nat) : Bool :=
  let sg := segOf (Cd.bolts d) q.n (ownerOf (Cd.bolts d) q.n (t / 16))
  !wayOf 1 (sg.1 * 16) (sg.2 * 16) t

/-- The next rank in a direction. -/
def nextRank (q : Group) (up : Bool) : Nat := (q.rank + (if up then 1 else q.n - 1)) % max q.n 1

/-- The place of this member on the way that ends at the owner: 0 begins, N - 1 is the owner. -/
def placeOn (q : Group) (o : Nat) (up : Bool) : Nat :=
  if up then (q.rank + 2 * q.n - o - 1) % max q.n 1 else (o + 2 * q.n - 1 - q.rank) % max q.n 1

/-! ### Results -/

/-- The key of a carrier tile of a member, and of the reduced tile. -/
def accKey (t r : Nat) : Nat := t * 2 ^ 19 + r
def finKey (t : Nat) : Nat := accKey t (2 ^ 18)

/-- The carrier tiles that a data tile needs. -/
def needs (d : List Byte) (dt : Nat) : List Nat :=
  let et := elemsPerTile (Cd.fmt d)
  let k := max 1 (et / Cd.carrier d)
  ((List.range k).map fun i => dt * k + i).filter fun t => t < Cd.carriers d

/-- The data tile that a carrier tile belongs to. -/
def dataOf (d : List Byte) (t : Nat) : Nat := t / max 1 (elemsPerTile (Cd.fmt d) / Cd.carrier d)

/-- The reduced elements of a data tile, in value units. -/
def reduced (k : Coll) (dt : Nat) : List (BitVec 32) :=
  let n := min (elemsPerTile (Cd.fmt k.desc)) (Cd.nelem k.desc - dt * elemsPerTile (Cd.fmt k.desc))
  ((needs k.desc dt).flatMap fun t => sget [] k.acc (finKey t)).take n

/-- One output element under a block scale: its code and whether it saturated (R78, R218). -/
def outCode (f : Nat) (sc ots : Num) (y : BitVec 32) : Nat × Bool :=
  if f = 0xD then (y.toNat, false)
  else
    let v := Num.div (ofFp32 y.toNat) (Num.mul sc ots)
    let sat := match fmtKind f, v with
      | .fp g, .fin s n e k => (g.round s n e k).isNone
      | _, _ => false
    ((encodeFmt f false v).getD 0, sat)

/-- The block scales of an output data tile (R92). -/
def outScales (d : List Byte) (ys : List (BitVec 32)) : List Nat :=
  if Cd.scl d = 1 then
    (List.range (cdiv ys.length 32)).map fun b =>
      let blk := (ys.drop (32 * b)).take 32
      let mags := (blk.map fun y => (ofFp32 y.toNat).abs).filter Num.isFin
      chooseScale 1 (Cd.fmt d) (mags.foldl Num.max (.zero false)) (ofFp32 (Cd.ots d))
  else []

/-- The codes of an output data tile and whether one of them saturated. -/
def outCodes (d : List Byte) (ys : List (BitVec 32)) : List Nat × Bool :=
  let scs := outScales d ys
  let l := (List.range ys.length).map fun i =>
    outCode (Cd.fmt d) (if Cd.scl d = 1 then scaleValue 1 (scs.getD (i / 32) 127) else Num.pow2 0)
      (ofFp32 (Cd.ots d)) (ys.getD i 0)
  (l.map (·.1), l.any (·.2))

/-- The buffer tile of the q-th data tile, and where its block scales stand. -/
def outTile (d : List Byte) (dt : Nat) : Nat := dt / Cd.perBolt d * 16 + dt % Cd.perBolt d

/-- The address of a buffer tile at `DST`: under RS only the own segment stands there (R211). -/
def dstAddr (q : Group) (d : List Byte) (t : Nat) : Nat :=
  Cd.dst d + 4096 * (if Cd.op d = 0 then t - (segOf (Cd.bolts d) q.n q.rank).1 * 16 else t)

/-- A status joins those of a collective. -/
def addStatus (k : Coll) (st : Nat) : Coll := { k with statuses := k.statuses ++ [st] }

/-- A tile that the collective depends on carried POISON or failed its checks, here or on the way: it completes POISON
(R218), and `CFLAGS` says so (Table 9-11). -/
def sawPoison (b : Bool) (k : Coll) : Coll :=
  if b then { addStatus k Status.poison with cflags := k.cflags ||| 4 } else k

/-- What reading an own carrier tile does to the collective. -/
def sawOwn (o : OwnTile) (k : Coll) : Coll :=
  let k1 := sawPoison o.pois k
  if o.here then k1 else addStatus k1 Status.noMemory

/-- A tile of the output is written. -/
def writeOut (s : State) (p : Nat) (q : Group) (k : Coll) (t : Nat) (pay : List Byte) (col : Collar) : State × Coll :=
  let w := engineWrite s p k.ctx (dstAddr q k.desc t) pay col
  let k1 := { k with fin := if k.fin.contains t then k.fin else k.fin ++ [t] }
  (w.1, if w.2 then k1 else addStatus k1 Status.noMemory)

/-- A final tile goes on to the other members: round the ring, or to each (R206, AR and AG). -/
def gather (q : Group) (k : Coll) (t : Nat) (pay : List Byte) (col : List Byte) : Coll :=
  let way := tileWay q k.desc t
  let to_ := if q.alg = 2 then (if way.1 = q.rank then partners q else [])
    else if nextRank q way.2 = way.1 then [] else [nextRank q way.2]
  { k with outq := k.outq ++ to_.map fun r =>
      { die := tileDie q k.desc t, kind := 1, idx := t, dst := r, payload := pay, collar := col } }

/-- The bytes of a tile and its collar as they stand at `DST`. -/
def outBytes (s : State) (p : Nat) (q : Group) (k : Coll) (t : Nat) : List Byte × List Byte :=
  let a := (dstAddr q k.desc t - boltBase) / 4096
  (tileBytes (partOf s p) a, toLE 16 (tileCollar (partOf s p) a).toNat)

/-- The scale tile of bolt `b` of an E4M3 buffer. -/
def scaleOut (d : List Byte) (b : Nat) : Nat := b * 16 + Cd.perBolt d

/-- Whether a data tile of bolt `b` is final. -/
def boltBegun (k : Coll) (b : Nat) : Bool := (List.range (Cd.perBolt k.desc)).any fun j => k.fin.contains (b * 16 + j)

/-- Whether every data tile of bolt `b` that holds elements is final. -/
def boltDone (k : Coll) (b : Nat) : Bool :=
  let per := Cd.perBolt k.desc
  (List.range per).all fun j =>
    let dt := b * per + j
    decide (Cd.nelem k.desc ≤ dt * elemsPerTile (Cd.fmt k.desc)) || k.fin.contains (outTile k.desc dt)

/-- A data tile whose carrier tiles are all reduced is encoded and written, its block scales with it,
and under AR goes on to the others (R218). -/
def finishData (s : State) (p : Nat) (q : Group) (k : Coll) (dt : Nat) : State × Coll :=
  let d := k.desc
  if !((needs d dt).all fun t => sget [] k.acc (finKey t) != []) then (s, k)
  else
    let ys := reduced k dt
    let f := Cd.fmt d
    let cs := outCodes d ys
    let pay := tilePayload f cs.1
    let pois := (needs d dt).any fun t => k.pois.contains t
    let col := mkCollar (crc32c pay) f (Cd.scl d) 0 false false false pois false 0 0 0 (nelemOf f ys.length)
    let t := outTile d dt
    let k0 := { k with cflags := if cs.2 && Cd.scl d == 1 then k.cflags ||| 1 else k.cflags }
    let w := writeOut s p q k0 t pay col
    let k1 := if Cd.op d = 2 then gather q w.2 t pay (toLE 16 col.toNat) else w.2
    if Cd.scl d != 1 then (w.1, k1)
    else
      let b := dt / Cd.perBolt d
      let st := scaleOut d b
      let a := (dstAddr q d st - boltBase) / 4096
      let x := partOf w.1 p
      let off := dt % Cd.perBolt d * (scaleGeom f 1).2
      let scs := (outScales d ys).map fun c => BitVec.ofNat 8 c
      let m := if Cd.src d == Cd.dst d || boltBegun k b then mergeScales (tileBytes x a) (tileCollar x a) off scs f 1 pois
        else mergeScales (zeros 4096) zeroCollar off scs f 1 pois
      let w2 := engineWrite w.1 p k.ctx (dstAddr q d st) m.1 m.2
      let k2 := if w2.2 then k1 else addStatus k1 Status.noMemory
      if boltDone k2 b then
        let k3 := { k2 with fin := k2.fin ++ [st] }
        (w2.1, if Cd.op d = 2 then gather q k3 st m.1 (toLE 16 m.2.toNat) else k3)
      else (w2.1, k2)

/-- A carrier tile is fully reduced at its owner. -/
def finishCarrier (s : State) (p : Nat) (q : Group) (k : Coll) (t : Nat) (v : List (BitVec 32)) (pois : Bool) :
    State × Coll :=
  let k1 := sawPoison pois { k with
    acc := sset [] k.acc (finKey t) v
    pois := if pois && !k.pois.contains t then k.pois ++ [t] else k.pois }
  finishData s p q k1 (dataOf k.desc t)

/-! ### The sum of squares (R276, R277) -/

/-- The pair of a set of y: special values as R276 gives them, else a free pair where the bound of
R278 allows it and the rounded exact sum elsewhere (log 10). -/
def ssqPair (f : Word) (ys : List (BitVec 32)) : BitVec 32 × BitVec 32 :=
  let vs := ys.map fun y => ofFp32 y.toNat
  if vs.any Num.isNan then (0x7FC00000, 0)
  else if vs.any Num.isInf then (0x7F800000, 0)
  else
    let e := numSum (vs.map fun v => Num.mul v v)
    let small := (vs.filter fun v => Num.lt v.abs (.pow2 (-63))).length
    let slack := Num.add (Num.mul (.pow2 (-40)) e) (Num.mul (.ofInt (small : Int)) (.pow2 (-126)))
    let h := finitePattern (fld f 31 0)
    let l := finitePattern (fld f 63 32)
    if Num.le (Num.sub (Num.add (ofFp32 h) (ofFp32 l)) e).abs slack then (BitVec.ofNat 32 h, BitVec.ofNat 32 l)
    else pairOf e

/-- FP32-pair addition. -/
def addPairs (a b : BitVec 32 × BitVec 32) : BitVec 32 × BitVec 32 :=
  let v := fun x : BitVec 32 × BitVec 32 => Num.add (ofFp32 x.1.toNat) (ofFp32 x.2.toNat)
  pairOf (Num.add (v a) (v b))

/-- A pair as it travels (R277). -/
def pairMsg (to_ : Nat) (x : BitVec 32 × BitVec 32) : CollSend :=
  { die := false, kind := 1, idx := 0, dst := to_, payload := toLE 4 x.1.toNat ++ toLE 4 x.2.toNat ++ zeros 8, collar := [] }

/-- Moves the pairs on as far as they can go (R277): the own pair when the own segment is reduced, the
running pair round the ring or the sum at rank 0, the total. -/
def ssqAdvance (f : Word) (q : Group) (k : Coll) : Coll :=
  let d := k.desc
  let sg := segOf (Cd.bolts d) q.n q.rank
  let cpb := carriersPerBolt d
  let mine := ((List.range (sg.2 * cpb)).map fun i => sg.1 * cpb + i).filter fun t => t < Cd.carriers d
  if !Cd.ssq d || k.ssqOwn.isSome || !(mine.all fun t => sget [] k.acc (finKey t) != []) then k
  else
    let ys := mine.flatMap fun t => (sget [] k.acc (finKey t)).take (Cd.nelem d - t * Cd.carrier d)
    let own := ssqPair f ys
    let k1 := { k with ssqOwn := some own }
    let ring := (q.rank + 1) % max q.n 1
    if q.alg = 2 then
      if q.rank = 0 then k1 else { k1 with outq := k1.outq ++ [pairMsg 0 own] }
    else if q.rank = 0 then { k1 with outq := k1.outq ++ [pairMsg ring own] }
    else match k.ssqIn.head? with
      | some e =>
        let tot := addPairs e.2 own
        { k1 with outq := k1.outq ++ [pairMsg ring tot], ssqTot := if q.rank + 1 = q.n then some tot else none }
      | none => k1

/-- A member's pair among those that rank 0 holds, by rank. -/
def byRank (l : Sparse (BitVec 32 × BitVec 32)) (r : Nat) (x : BitVec 32 × BitVec 32) : Sparse (BitVec 32 × BitVec 32) :=
  l.filter (fun e => e.1 < r) ++ [(r, x)] ++ l.filter (fun e => r < e.1)

/-- Under DIRECT rank 0 adds the pairs in rank order once it has them all, and sends the total (R277). -/
def ssqRoot (q : Group) (k : Coll) : Coll :=
  match k.ssqOwn with
  | some own =>
    if Cd.ssq k.desc && q.alg == 2 && q.rank == 0 && k.ssqTot.isNone && k.ssqIn.length == q.n - 1 then
      let tot := k.ssqIn.foldl (fun a e => addPairs a e.2) own
      { k with ssqTot := some tot, outq := k.outq ++ (partners q).map fun r => pairMsg r tot }
    else k
  | none => k

/-- A pair arrives from rank `r` (R277). -/
def ssqTake (q : Group) (k : Coll) (r : Nat) (x : BitVec 32 × BitVec 32) : Coll :=
  let ring := (q.rank + 1) % max q.n 1
  let pass := fun (k : Coll) => { k with
    ssqTot := some x
    outq := if ring + 1 = q.n then k.outq else k.outq ++ [pairMsg ring x] }
  if q.alg = 2 then
    if q.rank = 0 then ssqRoot q { k with ssqIn := byRank k.ssqIn r x } else { k with ssqTot := some x }
  else if q.rank = 0 then pass k
  else if k.ssqIn = [] then
    match k.ssqOwn with
    | some own =>
      let tot := addPairs x own
      { k with ssqIn := [(r, x)], outq := k.outq ++ [pairMsg ring tot]
               ssqTot := if q.rank + 1 = q.n then some tot else k.ssqTot }
    | none => { k with ssqIn := [(r, x)] }
  else if k.ssqTot.isSome then k else pass k

/-! ### The run of a collective -/

/-- The READY payload (R213). -/
def readyBytes (d : List Byte) : List Byte := slice d 0x1C 3 ++ [0] ++ slice d 0x18 4 ++ zeros 8

/-- A collective ends (R215): ABORT goes to every partner once, and every output tile that is not yet
final gets a `POISON` collar. -/
def endColl (s : State) (p : Nat) (k : Coll) (status : Nat) : State :=
  if k.ended then s
  else
    let q := (partOf s p).group k.gix
    let d := k.desc
    let k1 := { addStatus k status with ended := true, outq := [] }
    let code := worst k1.statuses
    let s1 := (partners q).foldl (fun t r => sendControl t p k 3 (BitVec.ofNat 8 code :: zeros 15) r) (putColl s p k1)
    let sp := collSpans d q.n q.rank
    if k.refused then s1
    else
      let first := if Cd.op d = 0 then (segOf (Cd.bolts d) q.n q.rank).1 * 16 else 0
      let tiles := ((List.range (sp.2 * 16)).map fun i => first + i).filter fun t => !k.fin.contains t
      tiles.foldl (fun t i =>
        let a := dstAddr q d i
        let x := partOf t p
        let n := (a - boltBase) / 4096
        let c := setFld (setFld (tileCollar x n) 51 51 1) 31 0 (crc32c (tileBytes x n))
        (engineWrite t p k.ctx a (tileBytes x n) c).1) s1

/-- Applies what arrived early for a collective (R213, R215). -/
def takeEarly (s : State) (p : Nat) (q : Group) (k : Coll) : State :=
  let mine := q.early.filter fun e => e.opseq == k.opseq
  let s1 := putGroup s p k.gix { q with early := q.early.filter fun e => e.opseq != k.opseq }
  let bad := mine.any fun e => !e.abort && e.payload != readyBytes k.desc
  let k1 := { k with ready := (mine.filter fun e => !e.abort).map (·.rank) }
  let s2 := putColl s1 p k1
  if mine.any (·.abort) then endColl s2 p k1 Status.aborted
  else if bad then endColl s2 p k1 Status.notRun else s2

/-- COLLECTIVE_SUBMIT: a descriptor is accepted and takes its `OPSEQ`; one that is not performed ends
NOT_RUN at once (R210, R212). With 64 in flight it waits. -/
def collSubmit (s : State) (p c h : Nat) (desc : List Byte) : State :=
  let x := partOf s p
  let d := slice desc 0 64
  let g := Cd.gix d
  let q := x.group g
  match (ctxClusters x c).idxOf? h with
  | none => s
  | some cli =>
    if x.ptstate != 1 || 64 ≤ x.colls.length then s
    else
      let k : Coll :=
        { gix := g, opseq := q.opseq, ctx := c, cluster := cli, desc := d, running := false, ready := []
          refused := !collRuns x q d, acc := [], fin := [], pois := [], outq := [], statuses := [], cflags := 0, ssqOwn := none
          ssqIn := [], ssqTot := none, unacked := 0, aborted := false, ended := false }
      let s1 := putPart s p { x with colls := x.colls ++ [k] }
      let q1 := { q with opseq := q.opseq + 1 }
      let s2 := putGroup s1 p g q1
      if collRuns x q d then takeEarly s2 p q1 k else endColl s2 p k Status.notRun

def execCollectiveSubmit (p c h : Nat) (desc : List Byte) (s : State) : Host.Outcome State Fault Refusal :=
  guarded (.collectiveSubmit p c h desc) (collSubmit s p c h desc)

/-- Collectives and plans that occupy engines (R217). -/
def enginesBusy (s : State) : Nat :=
  (s.parts.map fun e => (e.2.colls.filter fun k => k.running).length
    + (if e.2.get R.tpCtl 23 20 = 2 ∨ e.2.get R.tpCtl 23 20 = 3 then 1 else 0)).sum

/-- The first sends of a reduction: own tiles that begin a way, or under DIRECT every tile of another
member's segment; under DIRECT own tiles of the own segment wait for the others'. -/
def startReduce (s : State) (p : Nat) (q : Group) (k : Coll) : State × Coll :=
  let d := k.desc
  (List.range (Cd.carriers d)).foldl (fun acc t =>
    let way := carrierWay q d t
    let begins := q.alg == 2 || placeOn q way.1 way.2 == 0
    if !begins then acc
    else
      let own := ownCarrier acc.1 p k.ctx d t
      let k1 := sawOwn own.1 acc.2
      if q.alg = 2 ∧ way.1 = q.rank then
        (own.2, { k1 with
          acc := sset [] k1.acc (accKey t q.rank) own.1.vals
          pois := if own.1.pois then k1.pois ++ [t] else k1.pois })
      else
        let wire := carrierWire d (carried d own.1.vals) own.1.pois
        let to_ := if q.alg = 2 then way.1 else nextRank q way.2
        (own.2, { k1 with outq := k1.outq ++
          [{ die := carrierDie q d t, kind := 0, idx := t, dst := to_, payload := wire.1, collar := wire.2 }] })) (s, k)

/-- The first sends of AG and A2A: own tiles with their collars unchanged (R211). -/
def startMove (s : State) (p : Nat) (q : Group) (k : Coll) : State × Coll :=
  let d := k.desc
  let u := Cd.bolts d
  let read := fun (acc : State × Coll) i =>
    let r := engineRead acc.1 p k.ctx (Cd.fmt d) (Cd.scl d) ((Cd.src d - boltBase) / 4096 + i)
    (r, sawOwn { vals := [], pois := bit r.1.tags 0, here := r.2.1 } acc.2)
  if Cd.op d = 1 then
    let sg := segOf u q.n q.rank
    (List.range (sg.2 * 16)).foldl (fun acc i =>
      let r := read acc i
      let t := sg.1 * 16 + i
      let w := writeOut r.1.2.2 p q r.2 t r.1.1.payload r.1.1.collar
      (w.1, gather q w.2 t r.1.1.payload (toLE 16 r.1.1.collar.toNat))) (s, k)
  else
    let tpb := u / max q.n 1 * 16
    (List.range (u * 16)).foldl (fun acc i =>
      let r := read acc i
      let j := i / max tpb 1
      if j = q.rank then writeOut r.1.2.2 p q r.2 i r.1.1.payload r.1.1.collar
      else
        let to_ := if q.alg = 2 then j else nextRank q (wayOf q.alg 0 tpb (i % max tpb 1))
        let w : CollSend :=
          { die := !wayOf 1 0 tpb (i % max tpb 1), kind := 1, idx := (q.rank * q.n + j) * tpb + i % max tpb 1, dst := to_
            payload := r.1.1.payload, collar := toLE 16 r.1.1.collar.toNat }
        (r.1.2.2, { r.2 with outq := r.2.outq ++ [w] }))
      (s, k)

/-- Whether a partition has a collective that waits for engines. -/
def waitsForEngine (x : Partition) : Bool :=
  match x.colls.find? fun j => !j.running && !j.ended with
  | some j => !j.aborted
  | none => false

/-- The partition that is served next (R217): round-robin among those that wait, each with as many collectives in its turn
as it has panels. -/
def nextServed (s : State) : Option Nat :=
  let f := s.fabric
  if 0 < f.collLeft && waitsForEngine (partOf s f.collPart) then some f.collPart
  else ((List.range 16).map fun i => (f.collPart + 1 + i) % 16).find? fun p => waitsForEngine (partOf s p)

/-- Partition `p` is served: a turn begins or goes on. -/
def serveTurn (s : State) (p : Nat) : State :=
  let f := s.fabric
  let left := if 0 < f.collLeft && f.collPart == p then f.collLeft else (panelList (partOf s p)).length
  { s with fabric := { f with collPart := p, collLeft := left - 1 } }

/-- COLLECTIVE_START: the oldest waiting collective of the partition takes an engine on each I/O die,
sends READY and whatever its partners are ready for (R213, R217). -/
def collStart (s : State) (p g : Nat) (o : BitVec 16) : State :=
  match collOf s p g o with
  | none => s
  | some k =>
    let x := partOf s p
    let q := x.group g
    let first := (x.colls.find? fun j => !j.running && !j.ended) == some k
    if k.running || k.ended || k.aborted || !first || 8 ≤ enginesBusy s || nextServed s != some p then s
    else
      let k1 := { k with running := true }
      let s1 := (partners q).foldl (fun t r => sendControl t p k1 2 (readyBytes k.desc) r) (putColl (serveTurn s p) p k1)
      let r := if Cd.reduces k.desc then startReduce s1 p q k1 else startMove s1 p q k1
      let k2 := ssqRoot q (ssqAdvance (freeAt r.1 0) q { r.2 with unacked := r.2.unacked + (partners q).length })
      let r2 := pump p q (spend r.1 1) k2
      putColl r2.1 p r2.2

def execCollectiveStart (p gix : Nat) (opseq : BitVec 16) (s : State) : Host.Outcome State Fault Refusal :=
  guarded (.collectiveStart p gix opseq) (collStart s p gix opseq)

/-! ### Arrivals (R213-R215) -/

/-- The partition whose slot `GIX` is loaded for a message's job and epoch (R214); a DRAINING slot still takes what belongs
to the collectives accepted on it (R208). -/
def groupFor (s : State) (m : Msg) : Option Nat :=
  (List.range 16).find? fun p =>
    let q := (partOf s p).group (Ca.gix m)
    let live := q.st == 1 || (q.st == 2 && (partOf s p).colls.any fun k => k.gix == Ca.gix m && k.opseq == Ca.opseq m)
    live && q.job == m.job && q.epoch == m.epoch

/-- The partition that a dropped COLL counts against: one whose slot or key has the job (from a port there is one, or the
message would not have opened, R179), else the sender's. -/
def jobPart (s : State) (m : Msg) : Option Nat :=
  ((List.range 16).find? fun p => ((partOf s p).group (Ca.gix m)).st != 0 && ((partOf s p).group (Ca.gix m)).job == m.job).or
    (((List.range 16).find? fun p => (partOf s p).jkeys.any fun k => k.2.st == 2 && k.2.job == m.job).or
      (if exists_ s m.srcPart.toNat then some m.srcPart.toNat else none))

/-- Acknowledges a COLL (R213). -/
def ackColl (s : State) (m : Msg) (status : Nat) : State :=
  sendMsg s { responseTo s m Mt.collAck status [] [] with epoch := m.epoch }

/-- A CTRL message of a reserved code is counted (Table 11-7, log 133). -/
def countBadCode (s : State) : State := { s with fabric := { s.fabric with badCodes := s.fabric.badCodes + 1 } }

/-- A COLL of kind `kind` as its engine takes it: the partition and the message, or a drop that is
answered EPOCH_MISMATCH and counted (R214). On a plan's slot the kinds 2 and 3 and reserved codes are
answered NOT_RUN, and the others are the Tailor's (R258). -/
def takeColl (s : State) (via : Option Nat) (m : Msg) (kind : Nat) (f : State → Nat → Msg → State) : State :=
  if !forColl then s
  else match acceptMsg s via m with
    | (none, s0) => s0
    | (some q, s0) =>
      match groupFor s0 q with
      | some p =>
        if planSlot (partOf s0 p) (Ca.gix q) then
          if 2 ≤ kind then ackColl s0 q Status.notRun
          else if kind = 0 ∧ (leAt q.payload 0 1 = 0 ∨ 5 < leAt q.payload 0 1) then ackColl (countBadCode s0) q Status.notRun
          else s
        else f s0 p q
      | none =>
        let s1 := match jobPart s0 q with
          | some p => errEvent s0 p 4
          | none => s0
        ackColl s1 q Status.epochMismatch
where
  /-- Whether the message is a COLL of this kind for this module. -/
  forColl : Bool := m.mtype == Mt.coll && m.dst == ownId s && Ca.kind m == kind

/-- READY (R213): one that differs from the local descriptor ends the collective NOT_RUN. -/
def takeReady (s : State) (p : Nat) (m : Msg) : State :=
  let g := Ca.gix m
  let q := (partOf s p).group g
  let s1 := ackColl s m Status.ok
  match rankOf q m.src with
  | none => s1
  | some r =>
    match collOf s1 p g (Ca.opseq m) with
    | some k =>
      if m.payload != readyBytes k.desc then endColl s1 p k Status.notRun
      else onColl s1 p g (Ca.opseq m) fun k => { k with ready := if k.ready.contains r then k.ready else k.ready ++ [r] }
    | none => putGroup s1 p g { q with early := q.early ++ [⟨Ca.opseq m, r, false, m.payload⟩] }

def execReady (via : Option Nat) (m : Msg) (s : State) : Host.Outcome State Fault Refusal :=
  guarded (.ready via m) (takeColl s via m 2 takeReady)

/-- ABORT (R215): the collective ends ABORTED; one that has completed ignores it. -/
def takeAbort (s : State) (p : Nat) (m : Msg) : State :=
  let g := Ca.gix m
  let q := (partOf s p).group g
  let s1 := ackColl s m Status.ok
  match collOf s1 p g (Ca.opseq m) with
  | some k => endColl s1 p k Status.aborted
  | none =>
    match rankOf q m.src with
    | some r =>
      if (Ca.opseq m - q.opseq).toNat < 32768 then
        putGroup s1 p g { q with early := q.early ++ [⟨Ca.opseq m, r, true, m.payload⟩] }
      else s1
    | none => s1

def execAbort (via : Option Nat) (m : Msg) (s : State) : Host.Outcome State Fault Refusal :=
  guarded (.abort via m) (takeColl s via m 3 takeAbort)

/-- A tile that arrives fails its checks (R146); the failure is counted and charged to its port. -/
def arrivalFails (s : State) (p : Nat) (via : Option Nat) (pay : List Byte) (c : Collar) : Bool × State :=
  let bad := !crcOk pay c || !collarClean c
  (bad, if bad then
      let s1 := errEvent s p 2
      match via with
      | some port => charge s1 0x0E 7 port
      | none => s1
    else s)

/-- The members' carrier tiles summed in a free order (R219, log 5). -/
def sumFree (d : List Byte) (pick : Nat → Nat) : Nat → List (List (BitVec 32)) → List (BitVec 32) → List (BitVec 32) × Bool
  | 0, _, a => (a, false)
  | n + 1, l, a =>
    match l[pick n % max l.length 1]? with
    | none => (a, false)
    | some v =>
      let r := combineTiles d a v
      let rest := sumFree d pick n (l.eraseIdx (pick n % max l.length 1)) r.1
      (rest.1, rest.2 || r.2)

/-- DATA_R: a partial sum joins this member's own tile and goes on, or is final at its owner (R218). -/
def takeDataR (via : Option Nat) (s : State) (p : Nat) (m : Msg) : State :=
  let g := Ca.gix m
  let q := (partOf s p).group g
  let t := Ca.idx m
  let col := collarOf m.collar
  let fl := arrivalFails s p via m.payload col
  let s1 := ackColl fl.2 m Status.ok
  match collOf s1 p g (Ca.opseq m), rankOf q m.src with
  | some k, some from_ =>
    if !k.running || k.ended || k.aborted || !Cd.reduces k.desc || Cd.carriers k.desc ≤ t then s1
    else
      let d := k.desc
      let v := carrierRead d m.payload
      let bad := fl.1 || col.poison
      let way := carrierWay q d t
      let sat := fun (b : Bool) (k : Coll) => if b then { k with cflags := k.cflags ||| 2 } else k
      let fin := fun (r : State × Coll) =>
        let k2 := ssqRoot q (ssqAdvance (freeAt r.1 0) q r.2)
        let r2 := pump p q (spend r.1 1) k2
        putColl r2.1 p r2.2
      if q.alg = 2 then
        let k1 := { k with
          acc := sset [] k.acc (accKey t from_) v
          pois := if bad && !k.pois.contains t then k.pois ++ [t] else k.pois }
        let vs := ((List.range q.n).map fun r => sget [] k1.acc (accKey t r)).filter (· != [])
        if vs.length = q.n then
          let i := freeBelow s1 0 q.n
          let sum := sumFree d (fun j => (freeAt s1 (1 + j)).toNat) q.n (vs.eraseIdx i) (vs.getD i [])
          let k2 := { k1 with acc := (List.range q.n).foldl (fun a r => sset [] a (accKey t r) []) k1.acc }
          fin (finishCarrier (spend s1 (q.n + 1)) p q (sat sum.2 k2) t sum.1 (k1.pois.contains t))
        else putColl s1 p k1
      else
        let own := ownCarrier s1 p k.ctx d t
        let sum := combineTiles d v own.1.vals
        let pois := bad || own.1.pois
        let k1 := sat sum.2 (sawOwn own.1 k)
        if way.1 = q.rank then fin (finishCarrier own.2 p q k1 t sum.1 pois)
        else
          let wire := carrierWire d (carried d sum.1) pois
          let k2 := sawPoison bad k1
          fin (own.2, { k2 with outq := k2.outq ++
            [{ die := carrierDie q d t, kind := 0, idx := t, dst := nextRank q way.2, payload := wire.1, collar := wire.2 }] })
  | _, _ => s1

def execDataR (via : Option Nat) (m : Msg) (s : State) : Host.Outcome State Fault Refusal :=
  guarded (.dataR via m) (takeColl s via m 0 (takeDataR via))

/-- The buffer tile that an index of 20 bits names: the first one congruent to it that may come now (R213 gives the index
20 bits and AG and A2A no limit, log 130). -/
def idxTile (total i : Nat) (may : Nat → Bool) : Nat :=
  (((List.range (total / 2 ^ 20 + 1)).map fun k => i + k * 2 ^ 20).find? fun t => t < total && may t).getD i

/-- Whether a tile of a segment that `owner` sends can come from rank `from_`: under DIRECT from the owner, round a ring from
the neighbour in its direction (R206). -/
def comesFrom (q : Group) (from_ owner : Nat) (up : Bool) : Bool :=
  if q.alg = 2 then from_ == owner else from_ == nextRank q (!up)

/-- A final, gathered or moved tile from rank `from_` is written, and goes on where its way does (R206, R211). -/
def takeTile (s : State) (p : Nat) (q : Group) (k : Coll) (from_ i : Nat) (pay : List Byte) (col : Collar) : State × Coll :=
  let d := k.desc
  let u := Cd.bolts d
  let k0 := sawPoison (col.poison || !crcOk pay col || !collarClean col) k
  if Cd.op d = 3 then
    let tpb := max 1 (u / max q.n 1 * 16)
    let t := idxTile (q.n * q.n * tpb) i fun a =>
      comesFrom q from_ (a / tpb / q.n) (wayOf q.alg 0 tpb (a % tpb))
        && !(a / tpb % q.n == q.rank && k.fin.contains (a / tpb / q.n * tpb + a % tpb))
    if t / tpb % q.n = q.rank then writeOut s p q k0 (t / tpb / q.n * tpb + t % tpb) pay col
    else
      let w : CollSend :=
        { die := !wayOf 1 0 tpb (t % tpb), kind := 1, idx := t, dst := nextRank q (wayOf q.alg 0 tpb (t % tpb))
          payload := pay, collar := toLE 16 col.toNat }
      (s, { k0 with outq := k0.outq ++ [w] })
  else
    let t := idxTile (u * 16) i fun a =>
      !k.fin.contains a && comesFrom q from_ (tileWay q d a).1 (tileWay q d a).2
    let w := writeOut s p q k0 t pay col
    (w.1, gather q w.2 t pay (toLE 16 col.toNat))

/-- DATA_G: a tile, or with `COL` clear a sum-of-squares pair (R213, R277). -/
def takeDataG (via : Option Nat) (s : State) (p : Nat) (m : Msg) : State :=
  let g := Ca.gix m
  let q := (partOf s p).group g
  let s1 := ackColl s m Status.ok
  match collOf s1 p g (Ca.opseq m), rankOf q m.src with
  | some k, some r =>
    if !k.running || k.ended || k.aborted then s1
    else if m.col then
      let col := collarOf m.collar
      let fl := arrivalFails s1 p via m.payload col
      let w := takeTile fl.2 p q k r (Ca.idx m) m.payload col
      let r2 := pump p q w.1 w.2
      putColl r2.1 p r2.2
    else
      let x := (BitVec.ofNat 32 (leAt m.payload 0 4), BitVec.ofNat 32 (leAt m.payload 4 4))
      let r2 := pump p q s1 (ssqTake q k r x)
      putColl r2.1 p r2.2
  | _, _ => s1

def execDataG (via : Option Nat) (m : Msg) (s : State) : Host.Outcome State Fault Refusal :=
  guarded (.dataG via m) (takeColl s via m 1 (takeDataG via))

/-- A COLL message of a collective has completed or ended (R182, R215): an EPOCH_MISMATCH answer and
an expired request end the collective. -/
def collMsgEnd (s : State) (p g : Nat) (o : BitVec 16) (status : Nat) : State :=
  match collOf s p g o with
  | none => s
  | some k =>
    let s1 := putColl s p { k with unacked := k.unacked - 1 }
    if status = Status.ok ∨ k.ended then s1
    else match collOf s1 p g o with
      | some k1 => endColl s1 p k1 status
      | none => s1

/-- WLIM_TIMEOUT (R215). -/
def wlimTimeout (s : State) (p g : Nat) (o : BitVec 16) : State :=
  match collOf s p g o with
  | some k => if Cd.wlim k.desc = 0 then s else endColl s p k Status.timeout
  | none => s

def execWlimTimeout (p gix : Nat) (opseq : BitVec 16) (s : State) : Host.Outcome State Fault Refusal :=
  guarded (.wlimTimeout p gix opseq) (wlimTimeout s p gix opseq)

/-- Whether a running collective has done everything. -/
def collDone (q : Group) (k : Coll) : Bool :=
  let d := k.desc
  let u := Cd.bolts d
  let sg := segOf u q.n q.rank
  let tiles : List Nat := match Cd.op d with
    | 1 | 3 => List.range (u * 16)
    | _ =>
      let bolts := if Cd.op d = 0 then (List.range sg.2).map fun i => sg.1 + i else List.range u
      bolts.flatMap fun b =>
        (((List.range (Cd.perBolt d)).filter fun j =>
          (b * Cd.perBolt d + j) * elemsPerTile (Cd.fmt d) < Cd.nelem d).map fun j => b * 16 + j)
          ++ (if Cd.scl d = 1 then [scaleOut d b] else [])
  k.running && k.outq.isEmpty && k.unacked == 0 && (tiles.all fun t => k.fin.contains t)
  && (!Cd.ssq d || k.ssqTot.isSome)

/-- The completion record (Table 9-11). -/
def collRecord (k : Coll) : List Byte :=
  let st := worst k.statuses
  let pr := if Cd.ssq k.desc ∧ st = Status.ok then k.ssqTot.getD (0, 0) else (0, 0)
  toLE 1 st ++ toLE 1 k.cflags.toNat ++ toLE 2 k.opseq.toNat ++ zeros 4 ++ toLE 4 pr.1.toNat ++ toLE 4 pr.2.toNat

/-- A collective is over: the record is written, then the semaphore posted (R216). -/
def retireColl (s : State) (p : Nat) (k : Coll) : State :=
  let s1 := devWrite s p (Cd.crec k.desc) (collRecord k)
  let s2 := if Cd.semen k.desc then postSem s1 p k.ctx k.cluster (Cd.sid k.desc) 1 else s1
  let s3 := onPart s2 p fun x => { x with colls := x.colls.filter fun j => !(j.gix == k.gix && j.opseq == k.opseq) }
  drainGroup s3 p k.gix

/-- COLLECTIVE_COMPLETE (R216): one that ended, that is to end, or that has done everything. -/
def collComplete (s : State) (p g : Nat) (o : BitVec 16) : State :=
  match collOf s p g o with
  | none => s
  | some k =>
    if k.ended || collDone ((partOf s p).group g) k then retireColl s p k
    else if k.aborted then
      let s1 := endColl s p k (worst k.statuses)
      match collOf s1 p g o with
      | some k1 => retireColl s1 p k1
      | none => s1
    else s

def execCollectiveComplete (p gix : Nat) (opseq : BitVec 16) (s : State) : Host.Outcome State Fault Refusal :=
  guarded (.collectiveComplete p gix opseq) (collComplete s p gix opseq)

end Sys2Proof.Machine
end

