-- ==== Sys2Proof/Machine/WeightSlots.lean ====
section
/-! DEFINITION. Weight slots and what they hold (R266-R269, R271-R274): states, references, the switch,
adapters, digest records, the base range. -/

namespace Sys2Proof.Machine

namespace Ws
def free : Nat := 0
def loading : Nat := 1
def ready : Nat := 2
def active : Nat := 3
def retiring : Nat := 4
end Ws

/-- `WSTATE` of a slot: 0 A, 1 B (Table 11-9). -/
def wstate (x : Partition) (i : Nat) : Nat := x.get (R.wsStat i) 22 20

/-- `GEN` of a slot. -/
def wgen (x : Partition) (i : Nat) : Nat := x.get (R.wsStat i) 15 0

/-- `REFS` of a slot. -/
def wrefs (x : Partition) (i : Nat) : Nat := x.get (R.wsStat i) 51 32

/-- Address and bytes of a slot. -/
def wsRange (x : Partition) (i : Nat) : Nat × Nat :=
  (x.get (R.wsBase i) 43 16 * boltSize, x.get (R.wsSize i) 31 0 * boltSize)

/-- Address and bytes of the base range (R273). -/
def baseRange (x : Partition) : Nat × Nat := (x.get R.brBase 43 16 * boltSize, x.get R.brSize 31 0 * boltSize)

/-- The slot in a state. -/
def slotIn (x : Partition) (v : Nat) : Option Nat := [0, 1].find? fun i => wstate x i == v

/-- The ACTIVE slot. -/
def activeSlot (x : Partition) : Option Nat := slotIn x Ws.active

/-- The slot that holds a generation: ACTIVE or RETIRING, and so in use by batches (R267). -/
def slotOfGen (x : Partition) (gen : Nat) : Option Nat :=
  [0, 1].find? fun i => (wstate x i == Ws.active || wstate x i == Ws.retiring) && wgen x i == gen

/-- Records of a slot are forgotten when it loses its contents. -/
def forgetRecords (x : Partition) (i : Nat) : Partition :=
  { x with tailor := { x.tailor with records := x.tailor.records.filter fun r => r.slot != some i } }

/-- A slot in a new state; `QC_CUR` names the ACTIVE one (R266). -/
def setWstate (x : Partition) (i v : Nat) : Partition :=
  let x1 := x.put (R.wsStat i) 22 20 v
  let x2 := if v = Ws.free ∨ v = Ws.loading then forgetRecords x1 i else x1
  match activeSlot x2 with
  | some a => x2.setReg R.qcCur (BitVec.ofNat 64 (wgen x2 a * 65536 + 2 + a))
  | none => x2.setReg R.qcCur 0

/-- One reference more on a slot. -/
def addRef (x : Partition) (i : Nat) : Partition := x.put (R.wsStat i) 51 32 (wrefs x i + 1)

/-- One reference less. -/
def dropRef (x : Partition) (i : Nat) : Partition := x.put (R.wsStat i) 51 32 (wrefs x i - 1)

/-- Batches of `gone` end: their references are dropped (R268, step 1). -/
def endBatches (x : Partition) (gone : Batch → Bool) : Partition :=
  let y := (x.ring.batches.filter gone).foldl (fun z b => dropRef z b.slot) x
  { y with ring := { y.ring with batches := y.ring.batches.filter fun b => !gone b } }

/-- A batch starts on the ACTIVE slot and captures its generation (R267); none where no slot is ACTIVE. -/
def startBatch (x : Partition) (id : Nat) : Partition :=
  match activeSlot x with
  | none => x
  | some i =>
    let y := addRef x i
    { y with ring := { y.ring with batches := y.ring.batches ++ [⟨id, i, BitVec.ofNat 16 (wgen x i)⟩] } }

/-- Retired slots without references are FREE (R268, step 3). -/
def freeRetired (x : Partition) : Partition :=
  [0, 1].foldl (fun y i => if wstate y i = Ws.retiring && wrefs y i == 0 then setWstate y i Ws.free else y) x

/-- The switch: the READY slot becomes ACTIVE, the ACTIVE one RETIRING or FREE (R268, step 2). -/
def switchSlots (x : Partition) : Partition :=
  match slotIn x Ws.ready with
  | none => x
  | some i =>
    let y := match activeSlot x with
      | some a => setWstate x a (if wrefs x a = 0 then Ws.free else Ws.retiring)
      | none => x
    setWstate y i Ws.active

/-- Whether a draining plan waits: no batch may start (R269). -/
def drainWaits (x : Partition) : Bool :=
  x.get R.tpCtl 23 20 == 1 && match x.tailor.plan with
    | some pl => nfld (leAt pl.header 0x20 1) 2 2 == 1
    | none => false

/-! ### Adapters (R274) -/

/-- The address of directory entry `k` in a slot. -/
def adapterAddr (x : Partition) (i k : Nat) : Nat := (wsRange x i).1 + x.get R.adOff 43 5 * 32 + 32 * k

/-- Bytes of a factor: `RANK` vectors of the base tensor are of no stated length, so what the check can
hold against the slot is where a factor begins (log 30). -/
def factorInside (x : Partition) (i off : Nat) : Bool := decide (off < (wsRange x i).2)

/-- Checks every entry of the directory of slot `i`, and writes `AVAL`. -/
def checkAdapters (s : State) (p i : Nat) : State :=
  let n := reg s p R.adCnt 9 0
  let step := fun (acc : State × List Nat) k =>
    let x := partOf acc.1 p
    let a := adapterAddr x i k
    let r := devRead acc.1 p a 32
    let aid := leAt r.1 0 2
    let rank := leAt r.1 2 2
    let af := leAt r.1 6 1
    let ok := rank != 0 && decide (rank ≤ 256) && comboOk (nfld af 3 0) (nfld af 5 4)
      && factorInside x i (leAt r.1 8 8) && factorInside x i (leAt r.1 0x10 8) && !acc.2.contains aid
    let s1 := devWrite r.2 p (a + 7) (toLE 1 (b2n ok))
    (if ok then s1 else errEvent s1 p 13, acc.2 ++ [aid])
  ((List.range n).foldl step (s, [])).1

/-- Whether slot `i` has a valid directory entry for an adapter. -/
def adapterValid (s : State) (p i aid : Nat) : Bool :=
  (List.range (reg s p R.adCnt 9 0)).any fun k =>
    let b := (devRead s p (adapterAddr (partOf s p) i k) 32).1
    leAt b 0 2 == aid && nfld (leAt b 7 1) 0 0 == 1

/-! ### Digests (R271, R272) -/

/-- What a digest covers of one tile: its index, its payload, bytes 4 to 13 of its collar. -/
def digestPart (i : Nat) (pay : List Byte) (c : Collar) : List Byte := toLE 4 i ++ pay ++ (collarBytes c).extract 4 14

/-- The digest of tiles as they stand in memory, `base` the first tile of their shard. -/
def tilesDigest (x : Partition) (base : Nat) (ts : List Nat) : BitVec 384 :=
  Config.sha384 (ts.flatMap fun t => digestPart t (tileBytes x (base + t)) (tileCollar x (base + t)))

/-- A scrub of digest record number `k` (R272). -/
def digestScrub (s : State) (p k : Nat) : State :=
  let x := partOf s p
  match x.tailor.records[k]? with
  | none => s
  | some r =>
    let rd := devRead s p r.addr 64
    let valid := nfld (leAt rd.1 0x3C 1) 0 0 == 1
    let n := leAt rd.1 0x34 4
    let held := match r.slot with
      | some i => wstate x i == Ws.active || wstate x i == Ws.ready || wstate x i == Ws.retiring
      | none => true
    if x.ptstate != 1 || x.get R.tlDgint 15 0 == 0 || !valid || !held then s
    else
      let bolts := (List.range n).map fun t => (r.tile + t) / 16
      let s1 := touchTiles ((readyAll fetchNow rd.2 p bolts.eraseDups).getD rd.2) p ((List.range n).map (r.tile + ·))
      if tilesDigest (partOf s1 p) r.tile (List.range n) = BitVec.ofNat 384 (le (slice rd.1 0 48)) then s1
      else
        let s2 := devWriteBy true s1 p (r.addr + 0x3C) (toLE 1 (leAt rd.1 0x3C 1 ||| 2))
        let s3 := match r.slot with
          | some i => putReg s2 p (R.wsStat i) 23 23 1
          | none => s2
        msix (errEvent s3 p 7) p 2

def execDigestScrub (p rec : Nat) (s : State) : Host.Outcome State Fault Refusal :=
  guarded (.digestScrub p rec) (digestScrub s p rec)

/-- GSET: only while both slots are FREE (R266). -/
def execGset (p : Nat) (val : Word) (s : State) : Host.Outcome State Fault Refusal :=
  guarded (.gset p val)
    (when_ ((partOf s p).ptstate == 1 && wstate (partOf s p) 0 == 0 && wstate (partOf s p) 1 == 0) s
      (putReg s p R.qcGen 15 0 (fld val 15 0)))

end Sys2Proof.Machine
end

