-- ==== Sys2Proof/Machine/Carousel.lean ====
section
/-! DEFINITION. What the Ringmaster keeps for its requests (R306, R312, R317-R321, R324-R327): Carousel
rings, customers, pages, the prefix index, sequence entries. -/

namespace Sys2Proof.Machine

/-! ### The RMST registers (Table 13-10) -/

namespace Rm
def ctx (x : Partition) : Nat := x.get R.rmCtl 15 10
def role (x : Partition) : Nat := x.get R.rmCtl 9 8
def gix (x : Partition) : Nat := x.get R.rmCtl 21 16
def qbase (x : Partition) : Nat := x.get R.rmQbase 63 6 * 64
def qsize (x : Partition) : Nat := x.get R.rmQsize 16 0
def sbase (x : Partition) : Nat := x.get R.rmSbase 43 16 * 65536
def cbase (x : Partition) : Nat := x.get R.rmCbase 43 16 * 65536
def kvbase (x : Partition) : Nat := x.get R.rmKvbase 43 16 * 65536
def npage (x : Partition) : Nat := x.get R.rmKvpg 55 32
def pgkib (x : Partition) : Nat := x.get R.rmKvpg 13 0
def tcap (x : Partition) : Nat := x.get R.rmCap 47 32
def dmax (x : Partition) : Nat := x.get R.rmCap 20 16
def pchunk (x : Partition) : Nat := x.get R.rmCap 15 0
def srec (x : Partition) : Nat := x.get R.rmSrec 43 16 * 65536
def resb (x : Partition) : Nat := x.get R.rmResb 43 16 * 65536
def cli (x : Partition) : Nat := x.get R.rmSem 15 6
def sid (x : Partition) : Nat := x.get R.rmSem 5 0
def ttft (x : Partition) (c : Nat) : Nat := x.get (R.rmCls c) 63 32
def itl (x : Partition) (c : Nat) : Nat := x.get (R.rmCls c) 31 0
end Rm

/-- The instance of a partition changed. -/
def onRing (s : State) (p : Nat) (f : Ring → Ring) : State := onPart s p fun x => { x with ring := f x.ring }

/-- Most positions of a sequence (R304). -/
def maxPositions : Nat := 262144

/-- The sequence entries (R306). -/
def seqEntries : Nat := 4096

def QReq.blank : QReq :=
  { reqid := 0, cust := 0, cls := 0, nfork := 0, dlen := 0, nopfx := false, note := 0, aid := 0, paddr := 0
    plen := 0, maxnew := 0, obuf := 0, caddr := 0, clog := 0, samp := [], fork := none, len := 0, new := 0
    lastTok := 0, clock := 0, order := 0 }

/-- An entry that no sequence uses (Table 13-3). -/
def Seq.free : Seq :=
  { req := .blank, fork := 0, sstate := 0, doff := false, rebuild := false, len := 0, new := 0, lastTok := 0
    gen := 0, batch := 0, pages := [], pos := 0, miss := 0, probe := 0, draft := 0, order := 0, cancel := false
    leave := none }

namespace Ss
def prefill : Nat := 1
def decode : Nat := 2
def held : Nat := 3
end Ss

def seqOf (x : Partition) (i : Nat) : Seq := sget .free x.ring.seqs i
def putSeq (x : Partition) (i : Nat) (q : Seq) : Partition :=
  { x with ring := { x.ring with seqs := sset .free x.ring.seqs i q } }
def onSeq (s : State) (p i : Nat) (f : Seq → Seq) : State := onPart s p fun x => putSeq x i (f (seqOf x i))

/-- The counts and pages that registers show. -/
def rmShow (x : Partition) : Partition :=
  let r := x.ring
  let cached := (r.index.filter fun e => sget 0 r.refs e.page == 0).length
  let x1 := x.put R.rmStat 12 0 r.seqs.length
  (x1.put R.rmPages 23 0 cached).put R.rmPages 55 32 (Rm.npage x - cached - r.refs.length)

/-! ### Carousel rings (R324-R327) -/

/-- Whether an address is in host space. -/
def inHost (a : Word) : Bool := fld a 63 62 == 2

/-- A write to a ring in memory or in host space (R225, R324). -/
def carWrite (s : State) (p : Nat) (q : QReq) (a : Nat) (bs : List Byte) : State :=
  if inHost q.caddr then
    match hostPut s p (.carousel q.reqid.toNat) a bs false with
    | some t => t
    | none => onRing s p fun r => { r with broken := r.broken ++ [q.reqid] }
  else devWrite s p a bs

/-- `PROD` of a request's ring: the instance's own count, which a ring in memory starts with what
stands there. -/
def carProd (s : State) (p : Nat) (q : QReq) : Nat :=
  let l := (partOf s p).ring.produced
  if l.any (fun e => e.1 == q.caddr.toNat) then (sget 0 l q.caddr.toNat).toNat
  else if inHost q.caddr then 0 else (devReadLE s p q.caddr.toNat 4).1

/-- One Carousel record (Table 13-7); `PROD` follows with `carFlush` (R325). -/
def carRecord (s : State) (p : Nat) (q : QReq) (word pos logp kind fork : Nat) : State :=
  let n := carProd s p q
  let a := q.caddr.toNat + 64 + 16 * (n % 2 ^ q.clog)
  let bs := toLE 4 word ++ toLE 4 pos ++ toLE 4 logp ++ toLE 4 (kind * 2 ^ 30 + fork * 2 ^ 24 + n % 2 ^ 24)
  let loud := q.note == 2 || (q.note == 1 && kind == 1)
  onRing (carWrite s p q a bs) p fun r =>
    { r with
      produced := sset 0 r.produced q.caddr.toNat (BitVec.ofNat 32 (n + 1))
      dirty := (r.dirty.filter fun d => d.caddr != q.caddr) ++ [q]
      notes := if loud && !r.notes.contains q.reqid then r.notes ++ [q.reqid] else r.notes }

/-- `PROD` of every ring that took records, then the vectors that requests asked for (R325). -/
def carFlush (s : State) (p : Nat) : State :=
  let r := (partOf s p).ring
  let s1 := r.dirty.foldl (fun t q => carWrite t p q q.caddr.toNat (toLE 4 (carProd t p q))) s
  let s2 := onRing s1 p fun y => { y with dirty := [], notes := [] }
  r.notes.foldl (fun t i => msix t p (8 + i.toNat % 8)) s2

/-- The records that a ring has room for: `CONS` is software's, and in host space the read of it
returns a value that nothing here fixes. -/
def carRoom (s : State) (p : Nat) (q : QReq) : Nat × State :=
  if inHost q.caddr then (freeBelow s 0 (2 ^ q.clog + 1), spend s 1)
  else
    let c := devReadLE s p (q.caddr.toNat + 8) 4
    (2 ^ q.clog - (carProd s p q + 2 ^ 32 - c.1) % 2 ^ 32, c.2)

/-! END reasons, Table 13-8. -/

namespace End
def stop : Nat := 0
def maxnew : Nat := 1
def lmax : Nat := 2
def cancel : Nat := 3
def error : Nat := 4
def refused : Nat := 5
end End

/-- An END record. -/
def carEnd (s : State) (p : Nat) (q : QReq) (fork len reason status : Nat) : State :=
  carRecord s p q (reason * 256 + status) len 0 1 fork

/-- A NOTE record: 1 PAUSED, 2 RESUMED. -/
def carNote (s : State) (p : Nat) (q : QReq) (fork len what : Nat) : State := carRecord s p q what len 0 2 fork

/-! ### Customers (R317) -/

/-- The address of a customer's entry. -/
def custAddr (x : Partition) (c : Nat) : Nat := Rm.cbase x + 16 * (c % 4096)

/-- The distinct requests of a list. -/
def reqIds (l : List QReq) : List (BitVec 32) := (l.map (·.reqid)).eraseDups

/-- `QCNT` and `RCNT` of a customer. -/
def custCounts (s : State) (p c : Nat) : State :=
  let x := partOf s p
  let q := (reqIds (x.ring.queue.filter fun r => r.cust == c)).length
  let n := (x.ring.seqs.filter fun e => e.2.req.cust == c).length
  devWrite s p (custAddr x c + 12) (toLE 2 (satTo 16 q) ++ toLE 2 n)

/-- `n` tokens charged to a customer. -/
def custCharge (s : State) (p c n : Nat) : State :=
  if n = 0 then s
  else
    let a := custAddr (partOf s p) c
    let r := devRead s p (a + 4) 8
    let bal := sext 32 (leAt r.1 0 4) - n
    devWrite r.2 p (a + 4)
      (toLE 4 (wrapTo 32 (if bal < -2147483648 then -2147483648 else bal)) ++ toLE 4 (satTo 32 (leAt r.1 4 4 + n)))

/-- Whether a new request of a customer may start. -/
def custMay (s : State) (p c : Nat) : Bool × State :=
  let r := devRead s p (custAddr (partOf s p) c) 8
  (leAt r.1 0 4 == 0 || decide (0 < sext 32 (leAt r.1 4 4)), r.2)

/-- An entry refilled `n` times: `BAL` and `USED`, given `BUDGET` and `BAL`. -/
def custRefilled (n budget : Nat) (bal : Int) : List Byte :=
  toLE 4 (wrapTo 32 (if bal + n * budget < budget then bal + n * budget else budget)) ++ toLE 4 0

/-- The budgets of every customer are refilled, once for each interval that ended. -/
def custRefill (s : State) (p n : Nat) : State :=
  (List.range 4096).foldl (fun t c =>
    let a := custAddr (partOf t p) c
    let r := devRead t p a 8
    devWrite r.2 p (a + 4) (custRefilled n (leAt r.1 0 4) (sext 32 (leAt r.1 4 4)))) s

/-! ### Pages (R318-R321) -/

/-- Whether page `g` is in use or cached. -/
def pageTaken (r : Ring) (g : Nat) : Bool := sget 0 r.refs g != 0 || r.index.any fun e => e.page == g

/-- The lowest free page. -/
def freePage (x : Partition) : Option Nat :=
  (List.range (min (Rm.npage x) (x.ring.refs.length + x.ring.index.length + 1))).find? fun g => !pageTaken x.ring g

/-- The cached page that goes first: of a generation in no ACTIVE or READY slot, then the least
recently used. -/
def reclaimPick (x : Partition) : Option PfxPage :=
  let stale := fun e : PfxPage => !(List.range 2).any fun i =>
    (wstate x i == Ws.active || wstate x i == Ws.ready) && wgen x i == e.gen.toNat
  let key := fun e : PfxPage => (if stale e then 0 else 2 ^ 64) + e.used
  let cs := x.ring.index.filter fun e => sget 0 x.ring.refs e.page == 0
  cs.find? fun e => cs.all fun f => decide (key e ≤ key f)

/-- One page with one reference: a free one, else a cached one reclaimed. -/
def takePage (x : Partition) : Option (Nat × Partition) :=
  match freePage x with
  | some g => some (g, { x with ring := { x.ring with refs := sset 0 x.ring.refs g 1 } })
  | none => (reclaimPick x).map fun e =>
      (e.page, { x with ring := { x.ring with
        index := x.ring.index.filter fun f => f.page != e.page, refs := sset 0 x.ring.refs e.page 1 } })

/-- `n` pages. -/
def takePages : Nat → Partition → Option (List Nat × Partition)
  | 0, x => some ([], x)
  | n + 1, x => (takePage x).bind fun r => (takePages n r.2).map fun t => (r.1 :: t.1, t.2)

/-- One reference less on a page. -/
def dropPage (x : Partition) (g : Nat) : Partition :=
  { x with ring := { x.ring with refs := smod 0 x.ring.refs g fun n => n - 1 } }

/-- One reference more; the page was used now. -/
def sharePage (x : Partition) (g : Nat) : Partition :=
  { x with ring := { x.ring with
    refs := smod 0 x.ring.refs g fun n => n + 1
    tick := x.ring.tick + 1
    index := x.ring.index.map fun e => if e.page = g then { e with used := x.ring.tick } else e } }

/-- Pages for `n` positions. -/
def pagesFor (n : Nat) : Nat := min (cdiv n 64) 4096

/-- The first `n` token IDs of a prompt. -/
def promptTokens (s : State) (p : Nat) (q : QReq) (n : Nat) : List (BitVec 32) × State :=
  let r := devRead s p q.paddr (4 * n)
  ((List.range n).map fun i => BitVec.ofNat 32 (leAt r.1 (4 * i) 4), r.2)

/-- The page that the index holds under a key. -/
def pfxPage (x : Partition) (gen : Epoch) (aid : BitVec 16) (ts : List (BitVec 32)) : Option Nat :=
  (x.ring.index.find? fun e => e.gen == gen && e.aid == aid && e.tokens == ts).map (·.page)

/-- The pages that the index gives for the full prompt pages below position `n`, up to the first miss
(R319). -/
def pfxHits (x : Partition) (gen : Epoch) (aid : BitVec 16) (ts : List (BitVec 32)) : Nat → List Nat
  | 0 => []
  | j + 1 =>
    let hs := pfxHits x gen aid ts j
    if hs.length < j then hs
    else match pfxPage x gen aid (ts.take (64 * (j + 1))) with
      | some g => hs ++ [g]
      | none => hs

/-- A full prompt page enters the index (R319). -/
def pfxEnter (x : Partition) (gen : Epoch) (aid : BitVec 16) (ts : List (BitVec 32)) (g : Nat) : Partition :=
  if (pfxPage x gen aid ts).isSome || x.ring.index.any (fun e => e.page == g) then x
  else { x with ring := { x.ring with
    tick := x.ring.tick + 1
    index := x.ring.index ++ [{ gen := gen, aid := aid, tokens := ts, page := g, used := x.ring.tick }] } }

/-! ### Sequence entries (Table 13-2) -/

/-- The first 96 bytes of a sequence's entry, and 32 zero bytes. -/
def seqBytes (q : Seq) : List Byte :=
  toLE 4 q.req.reqid.toNat ++ toLE 1 q.fork ++ toLE 1 q.sstate ++ toLE 1 q.req.cls
  ++ toLE 1 (2 * b2n q.doff + b2n q.rebuild) ++ toLE 4 q.len ++ toLE 4 q.req.plen ++ toLE 4 q.new
  ++ toLE 4 q.lastTok.toNat ++ toLE 2 q.gen.toNat ++ toLE 2 q.req.aid.toNat ++ toLE 4 q.pages.length
  ++ toLE 8 q.req.paddr ++ toLE 8 (q.req.obuf + 4 * q.req.maxnew * q.fork) ++ zeros 16 ++ slice q.req.samp 0 32
  ++ zeros 32

/-- Entries and page tables of all running sequences (R306). -/
def writeSeqs (s : State) (p : Nat) : State :=
  let x := partOf s p
  let b := Rm.sbase x
  x.ring.seqs.foldl (fun t e =>
    devWrite (devWrite t p (b + 128 * e.1) (seqBytes e.2)) p (b + 524288 + 16384 * e.1)
      (e.2.pages.flatMap fun g => toLE 4 g)) s

/-- A sequence's pages and entry are freed. -/
def freeSeq (s : State) (p i : Nat) : State :=
  let x := partOf s p
  let q := seqOf x i
  let x1 := q.pages.foldl dropPage x
  devWrite (putPart s p (rmShow (putSeq x1 i .free))) p (Rm.sbase x + 128 * i + 5) (toLE 1 0)

/-- Whether a request has forks running, paused or queued. -/
def reqAlive (r : Ring) (id : BitVec 32) : Bool :=
  r.queue.any (fun q => q.reqid == id) || r.seqs.any fun e => e.2.req.reqid == id

/-- A request whose every fork has its END record is known as finished (R305). -/
def noteFinished (s : State) (p : Nat) (id : BitVec 32) : State :=
  onRing s p fun r => if reqAlive r id || r.finished.contains id then r else { r with finished := r.finished ++ [id] }

/-- A sequence leaves: END record, pages and entry released (R311, step 2). -/
def seqLeave (s : State) (p i reason status : Nat) : State :=
  let q := seqOf (partOf s p) i
  noteFinished (custCounts (freeSeq (carEnd s p q.req q.fork q.len reason status) p i) p q.req.cust) p q.req.reqid

/-- A sequence is paused (R312). -/
def seqPause (s : State) (p i : Nat) : State :=
  let q := seqOf (partOf s p) i
  let room := carRoom s p q.req
  let s1 := if 0 < room.1 then carNote room.2 p q.req q.fork q.len 1 else errEvent room.2 p 12
  let s2 := freeSeq s1 p i
  let s3 := onRing s2 p fun r =>
    let back := { q.req with fork := some q.fork, len := q.len, new := q.new, lastTok := q.lastTok
                             clock := (sget 0 s.dieCtr 4).toNat, order := r.tick }
    { r with queue := r.queue ++ [back], tick := r.tick + 1 }
  custCounts (putReg s3 p R.rmCnt 63 32 (satTo 32 (reg s3 p R.rmCnt 63 32 + 1))) p q.req.cust

end Sys2Proof.Machine
end

