-- ==== Sys2Proof/Machine/Ringmaster.lean ====
section
/-! DEFINITION. What the Ringmaster decides at a seam (R309-R327, Table 13-6). -/

namespace Sys2Proof.Machine

/-! ### Order and time -/

/-- Insertion by rising key. -/
def insertBy {α : Type} (key : α → Nat) (a : α) : List α → List α
  | [] => [a]
  | b :: bs => if key a ≤ key b then a :: b :: bs else b :: insertBy key a bs

/-- A list by rising key; equal keys keep their order. -/
def sortBy {α : Type} (key : α → Nat) : List α → List α
  | [] => []
  | a :: as => insertBy key a (sortBy key as)

/-- Falling priority: class, then the time of joining (R311). -/
def seqKey (q : Seq) : Nat := q.req.cls * 2 ^ 64 + q.order

/-- The running sequences that `pick` takes, the highest priority first. -/
def seqsBy (x : Partition) (pick : Nat → Seq → Bool) : List Nat :=
  (sortBy (fun e => seqKey e.2) (x.ring.seqs.filter fun e => pick e.1 e.2)).map (·.1)

/-- The sequence of lowest priority among those that `pick` takes. -/
def lowestSeq (x : Partition) (pick : Nat → Seq → Bool) : Option Nat := (seqsBy x pick).getLast?

/-- IO-A's counter in ns; the instances' own dies are not told apart. -/
def rmNow (s : State) : Nat := (sget 0 s.dieCtr 4).toNat

/-- Whether `us` µs are less than the step period P̄ (R316). -/
def belowPeriod (r : Ring) (us : Nat) : Bool := decide (us * 1000 * r.ivals.length < r.ivals.sum)

/-- Whether a wait of `w` ns and `k` step periods exceed `us` µs. -/
def exceedsTarget (r : Ring) (w k us : Nat) : Bool :=
  if r.ivals = [] then decide (us * 1000 < w)
  else decide (us * 1000 * r.ivals.length < w * r.ivals.length + k * r.ivals.sum)

/-! ### Step 1: collect (R308, R319, R322, R323) -/

/-- The 144 bytes of the result at index `k`. -/
def rmResult (s : State) (p k : Nat) : List Byte × State := devRead s p (Rm.resb (partOf s p) + 64 + 144 * k) 144

/-- Commits one token of sequence `i`: `OBUF`, the Carousel record, `LEN`, `NEW` and `LAST` (R326). -/
def commitTok (s : State) (p i tok logp : Nat) : State :=
  let q := seqOf (partOf s p) i
  let s1 := devWrite s p (q.req.obuf + 4 * (q.req.maxnew * q.fork + q.new)) (toLE 4 tok)
  onSeq (carRecord s1 p q.req tok q.len logp 0 q.fork) p i fun y =>
    { y with len := y.len + 1, new := y.new + 1, lastTok := BitVec.ofNat 32 tok }

/-- How many more tokens a sequence may commit (R322). -/
def seqRoom (q : Seq) : Nat := min (q.req.maxnew - q.new) (maxPositions - q.len)

/-- Why a sequence leaves after its results: an error, a limit that cut its tokens off, the program's
stop, then a limit that is reached (R322). -/
def seqVerdict (q : Seq) (e : Nat) (cut : Bool) : Option (Nat × Nat) :=
  if 2 ≤ e then some (End.error, Status.poison)
  else if e = 1 && !cut then some (End.stop, Status.ok)
  else if q.req.maxnew ≤ q.new then some (End.maxnew, Status.ok)
  else if maxPositions ≤ q.len then some (End.lmax, Status.ok)
  else none

/-- The draft counters after a step with `d` drafts of which `acc` were accepted (R323). -/
def draftStep (q : Seq) (d acc : Nat) : Seq :=
  if 1 ≤ d then
    if 1 ≤ acc then { q with doff := false, miss := 0 }
    else if q.doff then { q with probe := 32 }
    else if 4 ≤ q.miss + 1 then { q with doff := true, probe := 32, miss := q.miss + 1 }
    else { q with miss := q.miss + 1 }
  else if q.doff && 0 < q.probe then { q with probe := q.probe - 1 }
  else q

/-- Pages wholly beyond the committed positions return to the pool (R322). -/
def trimPages (x : Partition) (i : Nat) : Partition :=
  let q := seqOf x i
  let n := pagesFor q.len
  putSeq ((q.pages.drop n).foldl dropPage x) i { q with pages := q.pages.take n }

/-- Tokens `j` to `j + n − 1` of a result for sequence `i`. -/
def commitToks (s : State) (p i : Nat) (b : List Byte) (j n : Nat) : State :=
  (List.range n).foldl (fun t k => commitTok t p i (leAt b (8 + 8 * (j + k)) 4) (leAt b (12 + 8 * (j + k)) 4)) s

/-- The result of a DECODE entry. -/
def collectDecode (s : State) (p k : Nat) (e : StepEntry) : State :=
  let r := rmResult s p k
  let b := r.1
  let q := seqOf (partOf s p) e.seq
  let acc := min (leAt b 0 1) e.draft
  let n := min (acc + 1) (seqRoom q)
  let s1 := custCharge (commitToks r.2 p e.seq b 0 n) p q.req.cust n
  let s2 := onSeq s1 p e.seq fun y =>
    { draftStep y e.draft acc with leave := seqVerdict y (nfld (leAt b 1 1) 1 0) (decide (n < acc + 1)) }
  onPart s2 p fun x => trimPages x e.seq

/-- The sequences that a PREFILL entry of sequence `i` stands for: all forks of a new request that still
share its prefill, or a rebuild alone. -/
def prefillForks (x : Partition) (i : Nat) : List Nat :=
  let q := seqOf x i
  if q.rebuild then [i]
  else (sortBy (fun e => e.2.fork) (x.ring.seqs.filter fun e =>
    e.2.req.reqid == q.req.reqid && e.2.sstate == Ss.prefill && !e.2.rebuild)).map (·.1)

/-- Prompt pages that a chunk completed enter the index (R319). -/
def enterPages (s : State) (p i from_ to_ : Nat) : State :=
  let q := seqOf (partOf s p) i
  let n := min to_ q.req.plen / 64
  if q.req.nopfx || n ≤ from_ / 64 then s
  else
    let ts := promptTokens s p q.req (64 * n)
    onPart ts.2 p fun x => (List.range n).foldl (fun y j =>
      if from_ / 64 ≤ j then match q.pages[j]? with
        | some g => pfxEnter y q.gen q.req.aid (ts.1.take (64 * (j + 1))) g
        | none => y
      else y) x

/-- The first token of fork `i`, from a sampling PREFILL. -/
def firstToken (s : State) (p i : Nat) (b : List Byte) : State :=
  let q := seqOf (partOf s p) i
  let n := min 1 (seqRoom q)
  let s1 := custCharge (commitToks s p i b q.fork n) p q.req.cust n
  onSeq s1 p i fun y => { y with sstate := Ss.decode, leave := seqVerdict y (nfld (leAt b 1 1) 1 0) (n == 0) }

/-- A rebuilt sequence goes on decoding (R312). -/
def seqResumed (s : State) (p i : Nat) : State :=
  let q := seqOf (partOf s p) i
  carNote (onSeq s p i fun y => { y with sstate := Ss.decode, rebuild := false }) p q.req q.fork q.len 2

/-- The result of a PREFILL entry. -/
def collectPrefill (s : State) (p k : Nat) (e : StepEntry) : State :=
  let q := seqOf (partOf s p) e.seq
  let fam := prefillForks (partOf s p) e.seq
  let s1 := fam.foldl (fun t i => onSeq t p i fun y => { y with pos := e.pos + e.ntok }) s
  let s2 := enterPages (if q.rebuild then s1 else custCharge s1 p q.req.cust e.ntok) p e.seq e.pos (e.pos + e.ntok)
  if e.sample then
    let r := rmResult s2 p k
    fam.foldl (fun t i => firstToken t p i r.1) r.2
  else if q.rebuild && decide (q.len ≤ e.pos + e.ntok + 1) then seqResumed s2 p e.seq
  else s2

/-- Step 1 for the record that was running. -/
def rmCollect (s : State) (p : Nat) : State :=
  (partOf s p).ring.cur.zipIdx.foldl (fun t e =>
    if (seqOf (partOf t p) e.1.seq).sstate = 0 then t
    else if e.1.kind = 1 then collectDecode t p e.2 e.1
    else if e.1.kind = 2 then collectPrefill t p e.2 e.1
    else t) s

/-! ### Steps 2 and 3 -/

/-- Step 2: sequences leave; of a request whose ring broke the paused ones too (R324). -/
def rmLeave (s : State) (p : Nat) : State :=
  let x := partOf s p
  let s1 := x.ring.seqs.foldl (fun t e =>
    if e.2.cancel then seqLeave t p e.1 End.cancel Status.aborted
    else if x.ring.broken.contains e.2.req.reqid then seqLeave t p e.1 End.error Status.poison
    else match e.2.leave with
      | some r => seqLeave t p e.1 r.1 r.2
      | none => t) s
  let back := x.ring.queue.filter fun q => q.fork.isSome && x.ring.broken.contains q.reqid
  let s2 := back.foldl (fun t q => carEnd t p q (q.fork.getD 0) q.len End.error Status.poison) s1
  let s3 := onRing s2 p fun r => { r with
    broken := [], queue := r.queue.filter fun q => !(back.any fun k => k.order == q.order) }
  back.foldl (fun t q => noteFinished (custCounts t p q.cust) p q.reqid) s3

/-- Step 3: budgets that are due; a change of `BINT` restarts the count (R317, R329). -/
def rmRefill (s : State) (p : Nat) : State :=
  let r := (partOf s p).ring
  let b := reg s p R.rmBint 5 0
  let n := (rmNow s - r.enAt) / (b * 1000000000)
  if b ≠ r.bint then onRing s p fun y => { y with bint := b, enAt := rmNow s, refills := 0 }
  else if r.refills < n then onRing (custRefill s p (n - r.refills)) p fun y => { y with refills := n }
  else s

/-! ### Steps 4 to 7: the decode set -/

/-- Drafts that a sequence proposes (R323). -/
def wantDraft (x : Partition) (q : Seq) : Nat := if q.doff && 0 < q.probe then 0 else min q.req.dlen (Rm.dmax x)

/-- The work of one seam: the decode set with its drafts, the COPY entries (sequence, source,
destination), and whether joining has ended. -/
structure SeamWork where
  s      : State
  ds     : List (Nat × Nat)
  copies : List (Nat × Nat × Nat)
  done   : Bool

/-- Step 4: a request whose ring has room decodes, another is HELD (R327). -/
def rmDecodeSet (s : State) (p : Nat) : SeamWork :=
  let gen := fun e : Nat × Seq => e.2.sstate == Ss.decode || e.2.sstate == Ss.held
  let all := (partOf s p).ring.seqs.filter gen
  (reqIds (all.map (·.2.req))).foldl (fun w id =>
    let mem := all.filter fun e => e.2.req.reqid == id
    let want := fun e : Nat × Seq => wantDraft (partOf s p) e.2
    match mem.head? with
    | none => w
    | some e0 =>
      let room := carRoom w.s p e0.2.req
      let fits := decide ((mem.map fun e => want e + 2).sum ≤ room.1)
      let t := mem.foldl (fun a e => onSeq a p e.1 fun y =>
        { y with sstate := if fits then Ss.decode else Ss.held, draft := want e }) room.2
      { w with s := t, ds := if fits then w.ds ++ mem.map fun e => (e.1, want e) else w.ds })
    ⟨s, [], [], false⟩

/-- A sequence is paused and drops out of the seam's later steps (R311). -/
def SeamWork.pause (w : SeamWork) (p i : Nat) : SeamWork :=
  { w with s := seqPause w.s p i, ds := w.ds.filter fun e => e.1 != i
           copies := w.copies.filter fun e => e.1 != i }

/-- c*: the highest class with running sequences whose inter-token target is below P̄ (R316). -/
def protectedClass (x : Partition) : Option Nat :=
  (List.range 8).find? fun c =>
    Rm.itl x c != 0 && belowPeriod x.ring (Rm.itl x c) && x.ring.seqs.any fun e => e.2.req.cls == c

/-- Step 5. -/
def rmProtect (w : SeamWork) (p : Nat) (cs : Option Nat) : SeamWork :=
  match cs with
  | none => w
  | some c =>
    match lowestSeq (partOf w.s p) fun _ q => decide (c < q.req.cls) with
    | some i => w.pause p i
    | none => w

/-- Pages that decoding needs that are shared: each is copied while others hold it (R320). -/
def copyShared (x : Partition) (i first : Nat) : Option (Partition × List (Nat × Nat × Nat)) :=
  let q := seqOf x i
  ((List.range q.pages.length).filter (first ≤ ·)).foldl (fun acc j =>
    acc.bind fun a =>
      let ps := (seqOf a.1 i).pages
      let g := ps.getD j 0
      if 1 < sget 0 a.1.ring.refs g then
        (takePage (dropPage a.1 g)).map fun r =>
          (putSeq r.2 i { seqOf r.2 i with pages := ps.set j r.1 }, a.2 ++ [(i, g, r.1)])
      else some a) (some (x, []))

/-- Pages for the whole decode set, in ascending sequence index (R318, R320); none is a shortfall. -/
def decodePages (x : Partition) (ds : List (Nat × Nat)) : Option (Partition × List (Nat × Nat × Nat)) :=
  (sortBy (·.1) ds).foldl (fun acc e =>
    acc.bind fun a =>
      let q := seqOf a.1 e.1
      (copyShared a.1 e.1 ((q.len - 1) / 64)).bind fun b =>
        (takePages (pagesFor (q.len + e.2) - q.pages.length) b.1).map fun t =>
          (putSeq t.2 e.1 { seqOf t.2 e.1 with pages := (seqOf t.2 e.1).pages ++ t.1 }, a.2 ++ b.2))
    (some (x, []))

/-- One turn of what covers a shortfall: the draft of the lowest priority falls to 0, else the lowest
running sequence is paused, HELD ones first. -/
def SeamWork.ease (w : SeamWork) (p : Nat) : SeamWork :=
  let x := partOf w.s p
  match lowestSeq x fun i _ => w.ds.any fun e => e.1 == i && 0 < e.2 with
  | some i => { w with ds := w.ds.map fun e => if e.1 = i then (i, 0) else e }
  | none =>
    match lowestSeq x fun _ q => q.sstate == Ss.held with
    | some i => w.pause p i
    | none =>
      match lowestSeq x fun _ _ => true with
      | some i => w.pause p i
      | none => w

/-- Turns until `ok` holds. -/
def easeUntil (p : Nat) (ok : SeamWork → Bool) : Nat → SeamWork → SeamWork
  | 0, w => w
  | n + 1, w => if ok w then w else easeUntil p ok n (w.ease p)

/-- Tokens of the decode set. -/
def decodeToks (ds : List (Nat × Nat)) : Nat := (ds.map fun e => e.2 + 1).sum

/-- Steps 6 and 7. -/
def rmDecode (w : SeamWork) (p : Nat) : SeamWork :=
  let n := w.ds.length + (partOf w.s p).ring.seqs.length + 1
  let w1 := easeUntil p (fun v => (decodePages (partOf v.s p) v.ds).isSome) n w
  let w2 := easeUntil p (fun v => decide (decodeToks v.ds ≤ Rm.tcap (partOf v.s p))) n w1
  match decodePages (partOf w2.s p) w2.ds with
  | some r => { w2 with s := putPart w2.s p r.1, copies := r.2 }
  | none => { w2 with ds := [] }

/-! ### Step 8: join (R313) -/

/-- Positions that a candidate's prefill computes or shares. -/
def joinPositions (q : QReq) : Nat := if q.fork.isSome then q.len - 1 else q.plen

/-- The full prompt pages that a candidate may share. The page of the last prompt position of a new request is never
shared: the sample is computed from it. -/
def sharedMost (q : QReq) : Nat := if q.fork.isSome then q.plen / 64 else (q.plen - 1) / 64

/-- What a candidate would hold: pages, the position its prefill starts from, the partition. -/
def joinPages (x : Partition) (q : QReq) (gen : Epoch) (ts : List (BitVec 32)) : Option (List Nat × Nat × Partition) :=
  let n := joinPositions q
  let hs := if q.nopfx then [] else pfxHits x gen q.aid ts (sharedMost q)
  (takePages (pagesFor n - hs.length) (hs.foldl sharePage x)).map fun r => (hs ++ r.1, min (64 * hs.length) n, r.2)

/-- The forks that a candidate brings. -/
def joinForks (q : QReq) : List Nat :=
  match q.fork with
  | some f => [f]
  | none => List.range q.nfork

/-- The lowest free entries. -/
def freeEntries (x : Partition) (n : Nat) : List Nat :=
  ((List.range (min seqEntries (x.ring.seqs.length + n))).filter fun i => (seqOf x i).sstate == 0).take n

/-- A candidate joins with its pages; all its forks share them. -/
def joinSeqs (s : State) (p : Nat) (q : QReq) (gen : Epoch) (batch : Nat) (j : List Nat × Nat × Partition) : State :=
  let fs := joinForks q
  let is := freeEntries j.2.2 fs.length
  let x1 := (List.range (fs.length - 1)).foldl (fun y _ => j.1.foldl sharePage y) j.2.2
  let lt := devReadLE s p (q.paddr + 4 * (q.plen - 1)) 4
  let whole := q.fork.isSome && decide (joinPositions q ≤ j.2.1)
  let mk := fun (f o : Nat) =>
    { Seq.free with
      req := q, fork := f, sstate := if whole then Ss.held else Ss.prefill, rebuild := q.fork.isSome && !whole
      len := if q.fork.isSome then q.len else q.plen, new := q.new
      lastTok := if q.new = 0 then BitVec.ofNat 32 lt.1 else q.lastTok, gen := gen, batch := batch
      pages := j.1, pos := j.2.1, order := o }
  let x2 := (fs.zip is).foldl (fun y e => putSeq { y with ring := { y.ring with tick := y.ring.tick + 1 } } e.2
    (mk e.1 y.ring.tick)) x1
  let x3 := { x2 with ring := { x2.ring with queue := x2.ring.queue.filter fun r => r.order != q.order } }
  let s1 := custCounts (putPart lt.2 p x3) p q.cust
  if whole then carNote s1 p q (q.fork.getD 0) q.len 2 else s1

/-- A candidate without its adapter leaves (R313). -/
def joinNoAdapter (s : State) (p : Nat) (q : QReq) : State :=
  let s1 := (joinForks q).foldl (fun t f =>
    carEnd t p q f (if q.fork.isSome then q.len else q.plen) End.error Status.notRun) s
  let s2 := onRing s1 p fun r => { r with queue := r.queue.filter fun k => k.order != q.order }
  noteFinished (custCounts s2 p q.cust) p q.reqid

/-- Pauses of lower classes until a candidate's pages fit. -/
def pauseUntil (p : Nat) (q : QReq) (gen : Epoch) (ts : List (BitVec 32)) : Nat → SeamWork → SeamWork
  | 0, w => w
  | n + 1, w =>
    if (joinPages (partOf w.s p) q gen ts).isSome then w
    else match lowestSeq (partOf w.s p) fun _ k => decide (q.cls < k.req.cls) with
      | some i => pauseUntil p q gen ts n (w.pause p i)
      | none => w

/-- One candidate, for the slot whose generation it would capture. -/
def rmCandidate (p slot batch : Nat) (w : SeamWork) (q : QReq) : SeamWork :=
  let s := w.s
  let x := partOf s p
  if w.done then w
  else if seqEntries < x.ring.seqs.length + (joinForks q).length then { w with done := true }
  else
    let m := custMay s p q.cust
    if q.fork.isNone && !m.1 then { w with s := m.2 }
    else if q.aid != 0xFFFF && !adapterValid s p slot q.aid.toNat then { w with s := joinNoAdapter s p q }
    else
      let gen : Epoch := BitVec.ofNat 16 (wgen x slot)
      let pt := promptTokens m.2 p q (64 * (q.plen / 64))
      let ts := pt.1
      let y := partOf pt.2 p
      let hits := if q.nopfx then 0 else (pfxHits y gen q.aid ts (sharedMost q)).length
      let turns := cdiv (joinPositions q - 64 * hits) (Rm.pchunk y) + 1
      let risk := Rm.ttft y q.cls != 0 && exceedsTarget y.ring (rmNow s - q.clock) turns (Rm.ttft y q.cls)
      let low := y.ring.seqs.filter fun e => decide (q.cls < e.2.req.cls)
      let bare := low.foldl (fun z e => e.2.pages.foldl dropPage z) y
      let w1 := { w with s := pt.2 }
      match joinPages y q gen ts with
      | some j => { w1 with s := joinSeqs w1.s p q gen batch j }
      | none =>
        if risk && (joinPages bare q gen ts).isSome then
          let w2 := pauseUntil p q gen ts (low.length + 1) w1
          match joinPages (partOf w2.s p) q gen ts with
          | some j => { w2 with s := joinSeqs w2.s p q gen batch j }
          | none => { w2 with done := true }
        else
          { w1 with s := putReg w1.s p R.rmCnt 31 0 (satTo 32 (reg w1.s p R.rmCnt 31 0 + 1)), done := true }

/-- The order in which candidates are examined. -/
def candidateKey (q : QReq) : Nat := (2 * q.cls + b2n q.fork.isNone) * 2 ^ 64 + q.order

/-- Step 8, over the requests that waited when the seam began. -/
def rmJoin (w : SeamWork) (p batch before : Nat) : Option Nat → SeamWork
  | none => w
  | some slot =>
    let cs := sortBy candidateKey ((partOf w.s p).ring.queue.filter fun q => decide (q.order < before))
    cs.foldl (rmCandidate p slot batch) w

/-! ### Step 9: prefill (R314) -/

/-- The end of a chunk that starts at `pos` and may take `n` positions of a prefill of `total`. -/
def chunkEnd (pos n total : Nat) : Nat := if total ≤ pos + n then total else (pos + n) / 64 * 64

/-- The PREFILL entries: those that were prefilling already before those that joined with this batch. -/
def rmPrefill (x : Partition) (batch left : Nat) (cs : Option Nat) : List StepEntry :=
  let mine := x.ring.seqs.filter fun e =>
    e.2.sstate == Ss.prefill && (prefillForks x e.1).head? == some e.1
      && match cs with | some c => decide (e.2.req.cls ≤ c) | none => true
  let order := sortBy (fun e : Nat × Seq => b2n (e.2.batch == batch) * 2 ^ 96 + seqKey e.2) mine
  (order.foldl (fun (acc : List StepEntry × Nat) e =>
    let q := e.2
    let total := if q.rebuild then q.len - 1 else q.req.plen
    let stop := chunkEnd q.pos (min (Rm.pchunk x) acc.2) total
    let n := stop - q.pos
    if n = 0 then acc
    else
      let en : StepEntry :=
        { kind := 2, seq := e.1, draft := 0, sample := stop == total && !q.rebuild, pos := q.pos, ntok := n
          gen := q.gen, wsl := 0 }
      (acc.1 ++ [en], acc.2 - n)) ([], left)).1

/-! ### The seam -/

/-- Whether the step of the current record is finished (R309). -/
def rmFinished (s : State) (p : Nat) : Bool :=
  match (partOf s p).ring.curStep with
  | none => true
  | some n => (devReadLE s p (Rm.resb (partOf s p)) 4).1 == n.toNat

/-- Steps 1 to 9 (Table 13-6); `slot` is the one that is ACTIVE after the seam, where joins may use it;
`pauseAll` is `DPAUSE` (R269). The entries of the next record stand in `cur`. -/
def rmDecide (s : State) (p : Nat) (step : BitVec 32) (slot : Option Nat) (pauseAll : Bool) : State :=
  let before := (partOf s p).ring.tick
  let s1 := rmRefill (rmLeave (rmCollect s p) p) p
  let s2 := if pauseAll then (seqsBy (partOf s1 p) fun _ _ => true).foldl (fun t i => seqPause t p i) s1 else s1
  let w0 := rmDecodeSet s2 p
  let cs := protectedClass (partOf w0.s p)
  let w := rmJoin (rmDecode (rmProtect w0 p cs) p) p step.toNat before slot
  let x := partOf w.s p
  let pre := rmPrefill x step.toNat (Rm.tcap x - decodeToks w.ds) cs
  let gen := fun i => (seqOf x i).gen
  let cps := (sortBy (·.1) w.copies).map fun e =>
    { kind := 0, seq := e.1, draft := 0, sample := false, pos := e.2.1, ntok := e.2.2, gen := gen e.1, wsl := 0 }
  let dcs := (sortBy (·.1) w.ds).map fun e =>
    { kind := 1, seq := e.1, draft := e.2, sample := false, pos := (seqOf x e.1).len - 1, ntok := e.2 + 1
      gen := gen e.1, wsl := 0 }
  onPart w.s p fun y => rmShow { y with ring := { y.ring with
    cur := cps ++ dcs ++ sortBy (·.seq) pre, curStep := some step } }

/-- A batch ends when it has no running sequence (R310). -/
def batchGone (x : Partition) (b : Batch) : Bool := !x.ring.seqs.any fun e => e.2.batch == b.id

/-- Step 11: entries are written and the record is due (R306, R307); each entry names the slot that
holds its generation now. -/
def rmRecordDue (s : State) (p : Nat) : State :=
  let s1 := onPart s p fun x => { x with ring := { x.ring with
    publish := true
    cur := x.ring.cur.map fun e => { e with wsl := (slotOfGen x e.gen.toNat).getD 0 } } }
  carFlush (writeSeqs s1 p) p

/-- An unfinished step is counted (R309). -/
def rmOverrun (s : State) (p : Nat) : State := putReg s p R.rmStat 47 32 (satTo 16 (reg s p R.rmStat 47 32 + 1))

/-! ### The instance -/

/-- `RSTAT` in a value; vector 6 when it changes (Table 16-11). -/
def rmStatus (s : State) (p v : Nat) : State :=
  if reg s p R.rmStat 31 24 = v then s else msix (putReg s p R.rmStat 31 24 v) p 6

/-- An instance that has stopped; what its batches still reference is dropped at the next seam. -/
def Ring.stopped (r : Ring) : Ring := { Ring.off with batches := r.batches }

/-- The instance stops: END records for everything it holds, then `RSTAT` (R331). -/
def rmStop (s : State) (p why : Nat) : State :=
  let r := (partOf s p).ring
  if !r.on then s
  else
    let s1 := r.seqs.foldl (fun t e => carEnd t p e.2.req e.2.fork e.2.len End.error why) s
    let s2 := r.queue.foldl (fun t q => (joinForks q).foldl (fun a f =>
      carEnd a p q f (if q.fork.isSome then q.len else q.plen) End.error why) t) s1
    rmStatus (onPart (carFlush s2 p) p fun x => rmShow { x with ring := x.ring.stopped }) p why

/-- The instance stops when its context has ended or halted. -/
def rmContextGone (s : State) (p c : Nat) : State :=
  if Rm.ctx (partOf s p) = c then rmStop s p Status.aborted else s

/-- Whether `n` bytes at `a` lie in the address space of context `c`. -/
def regionMay (s : State) (p c a n : Nat) : Bool :=
  let ends := ctxMay s p c a && ctxMay s p c (a + n - 1)
  if boltBase ≤ a then
    let x := partOf s p
    let inside := fun b k => decide (b ≤ a ∧ a + n ≤ b + k)
    inside (x.get (R.cxVbase c) 43 16 * boltSize) (x.get (R.cxVsize c) 31 0 * boltSize)
      || inside (x.get R.pcShrb 43 16 * boltSize) (x.get R.pcShrs 31 0 * boltSize)
  else ends && decide (a + n ≤ boltBase) && (List.range (cdiv n 0x8000)).all fun k => ctxMay s p c (a + 0x8000 * k)

/-- The checks when `EN` becomes 1 (R300). -/
def rmChecks (s : State) (p : Nat) : Bool :=
  let x := partOf s p
  let c := Rm.ctx x
  Rng.ok (.pow2 16 65536) (Rm.qsize x) && Rm.npage x != 0 && Rm.pgkib x != 0 && Rm.tcap x != 0 && Rm.pchunk x != 0
  && regionMay s p c (Rm.qbase x) (64 + 128 * Rm.qsize x)
  && regionMay s p c (Rm.sbase x) (1032 * boltSize) && regionMay s p c (Rm.cbase x) 65536
  && regionMay s p c (Rm.kvbase x) (Rm.npage x * Rm.pgkib x * 1024)
  && regionMay s p c (Rm.srec x) (3 * boltSize) && regionMay s p c (Rm.resb x) (19 * boltSize)

/-- The control core for a new instance: the Ringmaster core that carries the fewest, so that none carries two before
all twelve carry one (R25, log 127). -/
def ringCore (s : State) : Nat :=
  let load := fun c => (s.parts.filter fun e => e.2.ring.on && e.2.ring.core == c).length
  let cores := (List.range 16).filter fun c => coreRole c == .ringmaster
  (cores.find? fun c => cores.all fun d => decide (load c ≤ load d)).getD 2

/-- RM_ENABLE: a write of `RM_CTL` with `EN` set while it is 0. -/
def rmEnable (s : State) (p : Nat) (val : Word) : State :=
  let x := partOf s p
  if x.ptstate != 1 || x.get R.rmCtl 0 0 == 1 then s
  else
    let w := setFld ((bar0Reg R.rmCtl).write val (x.reg R.rmCtl)) 0 0 1
    let s1 := onPart s p fun y => y.setReg R.rmCtl w
    if rmChecks s1 p then
      rmStatus (onPart s1 p fun y => rmShow { y with ring := { y.ring.stopped with
        on := true, core := ringCore s, enAt := rmNow s, bint := y.get R.rmBint 5 0 } }) p Status.ok
    else rmStatus s1 p Status.notRun

def execRmEnable (p : Nat) (val : Word) (s : State) : Host.Outcome State Fault Refusal :=
  guarded (.rmEnable p val) (rmEnable s p val)

/-- RM_DISABLE: the queue and the sequence table are lost (R300). -/
def rmDisable (s : State) (p : Nat) : State :=
  if (partOf s p).ptstate != 1 then s
  else onPart s p fun x => rmShow { x.put R.rmCtl 0 0 0 with ring := x.ring.stopped }

def execRmDisable (p : Nat) (s : State) : Host.Outcome State Fault Refusal :=
  guarded (.rmDisable p) (rmDisable s p)

/-! ### The request ring (R303-R305) -/

/-- The instance's `HEAD`. -/
def rmHead (s : State) (p : Nat) : Nat :=
  let x := partOf s p
  ringHead x.ring.head (devReadLE s p (Rm.qbase x + 8) 4).1

/-- The record at `HEAD`; none while there is none to take (R303). -/
def rmRecord (s : State) (p : Nat) : Option Nat :=
  let x := partOf s p
  let head := rmHead s p
  if x.ptstate != 1 || !x.ring.on || Rm.role x == 2 || decide (65536 ≤ (reqIds x.ring.queue).length)
    || (devReadLE s p (Rm.qbase x) 4).1 == head then none
  else some (Rm.qbase x + 64 + 128 * (head % Rm.qsize x))

/-- The record at `a` is done: `RSTAT`, then `HEAD`. -/
def rmRecordEnd (s : State) (p a status : Nat) : State :=
  let s1 := devWrite s p (a + 8) (toLE 1 status)
  let r := ringAdvance s1 p (Rm.qbase (partOf s p)) ((rmHead s p + 1) % 2 ^ 32)
  onRing (carFlush r.1 p) p fun y => { y with head := r.2 }

/-- The request of a record (Table 13-1). -/
def reqOf (b : List Byte) : QReq :=
  { QReq.blank with
    reqid := BitVec.ofNat 32 (leAt b 0 4), cust := leAt b 4 2, cls := leAt b 7 1, nfork := leAt b 9 1
    dlen := leAt b 0x0A 1, nopfx := nfld (leAt b 0x0B 1) 2 2 == 1, note := nfld (leAt b 0x0B 1) 1 0
    aid := BitVec.ofNat 16 (leAt b 0x0C 2), paddr := leAt b 0x10 8, plen := leAt b 0x18 4
    maxnew := leAt b 0x1C 4, obuf := leAt b 0x20 8, caddr := BitVec.ofNat 64 (leAt b 0x28 8)
    clog := leAt b 0x30 1, samp := slice b 0x40 32 }

/-- Whether `CADDR` and `CLOG` are valid. -/
def carouselOk (s : State) (p : Nat) (q : QReq) : Bool :=
  decide (6 ≤ q.clog ∧ q.clog ≤ 16) && q.caddr.toNat % 64 == 0
  && (inHost q.caddr || ctxMay s p (Rm.ctx (partOf s p)) q.caddr.toNat)

/-- Whether a SUBMIT is accepted (R304). -/
def submitOk (s : State) (p : Nat) (b : List Byte) : Bool :=
  let q := reqOf b
  let c := Rm.ctx (partOf s p)
  decide (q.cust < 4096) && decide (q.cls < 8) && decide (leAt b 0x0B 1 < 8) && q.note != 3
  && leAt b 0x0E 2 == 0 && (slice b 0x31 15).all (· == 0) && (slice b 0x60 32).all (· == 0)
  && decide (1 ≤ q.nfork ∧ q.nfork ≤ 16) && decide (q.dlen ≤ 16) && q.plen != 0 && q.maxnew != 0
  && decide (q.plen + q.maxnew ≤ maxPositions) && q.paddr % 4 == 0 && q.obuf % 4 == 0
  && carouselOk s p q && ctxMay s p c q.paddr && ctxMay s p c q.obuf
  && !reqAlive (partOf s p).ring q.reqid

/-- A SUBMIT is queued, or refused with an END record where the ring can take one. -/
def rmSubmit (s : State) (p a : Nat) : State :=
  let b := (devRead s p a 128).1
  let s0 := (devRead s p a 128).2
  let q := reqOf b
  if submitOk s p b then
    let s1 := onRing s0 p fun r => { r with
      queue := r.queue ++ [{ q with clock := rmNow s, order := r.tick }], tick := r.tick + 1
      finished := r.finished.filter (· != q.reqid) }
    rmRecordEnd (custCounts s1 p q.cust) p a Status.ok
  else if carouselOk s p q then
    rmRecordEnd (carEnd s0 p q 0 0 End.refused Status.notRun) p a Status.notRun
  else rmRecordEnd s0 p a Status.notRun

/-- A CANCEL (R305): waiting forks end at once, running ones at the next finished step. -/
def rmCancel (s : State) (p a : Nat) : State :=
  let id : BitVec 32 := BitVec.ofNat 32 (devReadLE s p a 4).1
  let r := (partOf s p).ring
  if reqAlive r id then
    let qs := r.queue.filter fun q => q.reqid == id
    let s1 := qs.foldl (fun t q => (joinForks q).foldl (fun u f =>
      carEnd u p q f (if q.fork.isSome then q.len else q.plen) End.cancel Status.aborted) t) s
    let s2 := onRing s1 p fun y => { y with
      queue := y.queue.filter fun q => q.reqid != id
      seqs := y.seqs.map fun e => if e.2.req.reqid = id then (e.1, { e.2 with cancel := true }) else e }
    let s3 := qs.foldl (fun t q => custCounts t p q.cust) s2
    rmRecordEnd (noteFinished s3 p id) p a Status.ok
  else rmRecordEnd s p a (if r.finished.contains id then Status.alreadyComplete else Status.notRun)

/-- The record at `HEAD` is taken when it holds command `cmd`; a reserved command is NOT_RUN. -/
def rmTake (s : State) (p cmd : Nat) (act : State → Nat → State) : State :=
  match rmRecord s p with
  | none => s
  | some a =>
    let c := (devReadLE s p (a + 6) 1).1
    if c = cmd then act s a
    else if c = 1 ∨ c = 2 then s
    else rmRecordEnd s p a Status.notRun

def execRequestSubmit (p : Nat) (s : State) : Host.Outcome State Fault Refusal :=
  guarded (.requestSubmit p) (rmTake s p 1 fun t a => rmSubmit t p a)

def execRequestCancel (p : Nat) (s : State) : Host.Outcome State Fault Refusal :=
  guarded (.requestCancel p) (rmTake s p 2 fun t a => rmCancel t p a)

/-! ### The step record (R301, R307) -/

/-- An entry, Table 13-5. -/
def entryBytes (e : StepEntry) : List Byte :=
  toLE 2 (e.kind * 4096 + e.seq) ++ toLE 1 e.draft ++ toLE 1 (b2n e.sample) ++ toLE 4 e.pos ++ toLE 4 e.ntok
    ++ toLE 2 e.gen.toNat ++ toLE 1 e.wsl ++ toLE 1 0

/-- The record: header and entries. -/
def recordBytes (step : BitVec 32) (es : List StepEntry) : List Byte :=
  let n := fun k => (es.filter fun e => e.kind == k).length
  let toks := ((es.filter fun e => e.kind != 0).map (·.ntok)).sum
  toLE 4 step.toNat ++ toLE 4 (n 0) ++ toLE 4 (n 1) ++ toLE 4 (n 2) ++ toLE 4 toks ++ zeros 44
    ++ es.flatMap entryBytes

/-- The record is written and the step program's semaphore posted. -/
def writeRecord (s : State) (p : Nat) (bs : List Byte) : State :=
  let x := partOf s p
  postSem (devWrite s p (Rm.srec x) bs) p (Rm.ctx x) (Rm.cli x) (Rm.sid x) 1

/-- The record goes to every follower, in pieces of at most 4,096 bytes (R301). -/
def sendPieces (s : State) (p : Nat) (step : BitVec 32) (bs : List Byte) : State :=
  let x := partOf s p
  let q := x.group (Rm.gix x)
  let pcs := (List.range (cdiv bs.length 4096)).map fun i => (i, (bs.drop (4096 * i)).take 4096)
  (q.members.filter fun e => e.1 != q.rank).foldl (fun t m => pcs.foldl (fun u e =>
    let g := blankMsg Mt.coll q.job m.2 (collAddr (Rm.gix x) (step.toNat % 65536) 1 e.1)
    sendWaiting u q.ports (issueDie u q.ports m.2) p (Rm.ctx x) (.stepRec p)
      { g with epoch := q.epoch, payload := e.2, len := e.2.length }) t) s

/-- STEP_RECORD_PUBLISH -/
def recordPublish (s : State) (p : Nat) : State :=
  let x := partOf s p
  match x.ring.on && x.ring.publish && x.ptstate == 1, x.ring.curStep with
  | true, some n =>
    let bs := recordBytes n x.ring.cur
    let s1 := onRing (writeRecord s p bs) p fun r => { r with publish := false }
    if Rm.role x = 1 then sendPieces s1 p n bs else s1
  | _, _ => s

def execStepRecordPublish (p : Nat) (s : State) : Host.Outcome State Fault Refusal :=
  guarded (.stepRecordPublish p) (recordPublish s p)

/-- The entries of a record's bytes. -/
def entriesOf (bs : List Byte) (n : Nat) : List StepEntry :=
  (List.range n).map fun i =>
    let b := slice bs (64 + 16 * i) 16
    { kind := leAt b 0 2 / 4096, seq := leAt b 0 2 % 4096, draft := leAt b 2 1, sample := leAt b 3 1 % 2 == 1
      pos := leAt b 4 4, ntok := leAt b 8 4, gen := BitVec.ofNat 16 (leAt b 0x0C 2), wsl := 0 }

/-- A follower's batches, one for each generation that its record names: those no longer named end, new
ones take their slot's reference. -/
def followBatches (x : Partition) (es : List StepEntry) : Partition :=
  let gens := (es.map (·.gen)).eraseDups
  let x1 := endBatches x fun b => !gens.contains b.gen
  gens.foldl (fun y g =>
    if y.ring.batches.any fun b => b.gen == g then y
    else match slotOfGen y g.toNat with
      | none => y
      | some i =>
        let z := addRef y i
        { z with ring := { z.ring with batches := z.ring.batches ++ [⟨g.toNat, i, g⟩] } }) x1

/-- The lead's record is whole: the follower publishes it as its own, or stops (R301). -/
def recordWhole (s : State) (p : Nat) (bs : List Byte) (n : Nat) : State :=
  let es := entriesOf bs n
  let x := partOf s p
  if es.all fun e => (slotOfGen x e.gen.toNat).isSome then
    let es1 := es.map fun e => { e with wsl := (slotOfGen x e.gen.toNat).getD 0 }
    let step : BitVec 32 := BitVec.ofNat 32 (leAt bs 0 4)
    let s1 := writeRecord s p (slice bs 0 64 ++ es1.flatMap entryBytes)
    onPart s1 p fun y => followBatches { y with ring := { y.ring with cur := es1, curStep := some step } } es1
  else rmStop s p Status.epochMismatch

/-- A piece of a record arrives at a follower; pieces of one record share their OPSEQ. -/
def recordPiece (s : State) (p : Nat) (m : Msg) : State :=
  let piece := fun i => (Ca.opseq m).toNat * 2 ^ 20 + i
  let s1 := onRing (ackColl s m Status.ok) p fun r => { r with pieces := sset [] r.pieces (piece (Ca.idx m)) m.payload }
  let ps := fun i => sget [] (partOf s1 p).ring.pieces (piece i)
  let h := ps 0
  if h = [] then s1
  else
    let n := leAt h 4 4 + leAt h 8 4 + leAt h 0x0C 4
    let k := cdiv (64 + 16 * n) 4096
    if 8192 < n then s1
    else if (List.range k).all fun i => ps i != [] then
      let s2 := onRing s1 p fun r => { r with pieces := r.pieces.filter fun e => e.1 / 2 ^ 20 != (Ca.opseq m).toNat }
      recordWhole s2 p ((List.range k).flatMap ps) n
    else s1

/-- STEP_RECORD_RECEIVE -/
def recordReceive (s : State) (via : Option Nat) (m : Msg) : State :=
  takeColl s via m 1 fun t p q =>
    let x := partOf t p
    if x.ring.on && Rm.role x == 2 && Rm.gix x == Ca.gix q then recordPiece t p q else s

def execStepRecordReceive (via : Option Nat) (m : Msg) (s : State) : Host.Outcome State Fault Refusal :=
  guarded (.stepRecordReceive via m) (recordReceive s via m)

/-- A record message of the lead ended; TIMED_OUT stops the instance (R301). -/
def recordMsgEnd (s : State) (p : Nat) (timedOut : Bool) : State :=
  if timedOut then rmStop s p Status.poison else s

end Sys2Proof.Machine
end

