-- ==== Sys2Proof/Machine/Contexts.lean ====
section
/-! DEFINITION. Context commands and what ends a context (R231-R242, R245, Table 10-4). -/

namespace Sys2Proof.Machine

/-! ### Stores of a cluster -/

/-- Where the core stores and the cluster store of a cluster begin (Table 7-3). -/
def coreWindow (h : Nat) : Nat := h * 0x400000
def clusWindow (h : Nat) : Nat := 0xA0000000 + h * 0x200000
def tableWindow (h : Nat) : Nat := 0xF0000000 + h * 0x1000

/-- Whether a store address belongs to cluster `h`. -/
def ofCluster (h a : Nat) : Bool :=
  decide (coreWindow h ≤ a ∧ a < coreWindow h + 0x400000) || decide (clusWindow h ≤ a ∧ a < clusWindow h + 0x200000)
    || decide (tableWindow h ≤ a ∧ a < tableWindow h + 0x1000)

/-- Stores, transform entries and tags of a cluster read zero. -/
def clearStores (s : State) (h : Nat) : State :=
  { s with
    stores := s.stores.filter fun c => !ofCluster h c.1
    tags := s.tags.filter fun c => !ofCluster h (8 * c.1) }

/-- Whether `n` bytes at `a` lie within the bolt range. -/
def inBolts (x : Partition) (a n : Nat) : Bool := decide (boltBase ≤ a ∧ a + n ≤ boltBase + x.vbolts * boltSize)

/-- Whether a cluster has a fenced core: it counts as held (Table 14-8). -/
def clusterFenced (s : State) (h : Nat) : Bool :=
  s.rel.fencedCores.any (fun g => g / 16 == h) || bit s.rel.fencedPanels (panelOfCluster h)

/-- Whether every cluster of a context can be held by it. -/
def clustersFree (s : State) (hs : List Nat) : Bool :=
  hs.all fun h => (clusOf s h).holder.isNone && !clusterFenced s h

/-- The clusters of a context get their holder, or lose it. -/
def holdClusters (s : State) (p c : Nat) (on : Bool) : State :=
  (ctxClusters (partOf s p) c).zipIdx.foldl (fun t e => onClus t e.1 fun q =>
    { q with
      holder := if on then some ⟨p, c, e.2⟩ else none, power := if on then 0 else q.power
      since := if on then (sget 0 s.dieCtr 4).toNat else 0 }) s

/-- Whether a context holds its clusters now. -/
def holdsNow (s : State) (p c : Nat) : Bool :=
  match (ctxClusters (partOf s p) c).head? with
  | some h => match (clusOf s h).holder with
    | some hd => hd.part == p && hd.ctx == c
    | none => false
  | none => false

/-- A core that no context runs: nothing of it is in flight. -/
def Core.rest (k : Core) : Core :=
  { k with run := .idle, preReq := false, atSafe := false, mops := [], dmas := [] }

/-- Releases the clusters of a context. -/
def releaseClusters (s : State) (p c : Nat) : State :=
  if holdsNow s p c then
    holdClusters ((ctxCores (partOf s p) c).foldl (fun t g => onCore t g Core.rest) s) p c false
  else s

/-! ### START (R232) -/

/-- Checks 1 to 4. -/
def startChecks (s : State) (p c : Nat) : Bool :=
  let x := partOf s p
  let ncl := x.get (R.cxClus c) 41 32
  let cs := x.get (R.cxCode c) 14 0
  let cl := x.get (R.cxCode c) 47 32
  let en := x.get (R.cxCode c) 30 16
  decide (1 ≤ ncl ∧ ncl ≤ 640) && (ctxClusters x c).length == ncl
  && decide (cs + cl ≤ 32768) && decide (cs ≤ en ∧ en < cs + cl)
  && inBolts x (x.get (R.cxVbase c) 43 16 * boltSize) (x.get (R.cxVsize c) 31 0 * boltSize)
  && inBolts x (x.get (R.cxSave c) 43 16 * boltSize) (ncl * 106 * boltSize)
  && inBolts x (x.get (R.cxCimg c) 43 6 * 64) (cl * 64)

/-- The known-answer kernels of a context's cores are forgotten. -/
def forgetKernels (s : State) (hs : List Nat) : State :=
  { s with rel := { s.rel with kernels := s.rel.kernels.filter fun e => !hs.contains (e.1 / 16) } }

/-- START of a FREE context: it begins, or a check answers. -/
def cxStart (s : State) (p c : Nat) : State :=
  let hs := ctxClusters (partOf s p) c
  if !startChecks s p c then lstat s p c Status.notRun
  else if !clustersFree s hs then lstat s p c Status.busy
  else
    let s1 := onPart (forgetKernels s hs) p fun x => (x.setReg (R.cxFault c) 0).put (R.cxStat c) 31 16 0
    onCtx (holdClusters s1 p c true) p c fun y => { y with starting := true }

/-- One cluster as START leaves it: everything zero, the code image at `CSTART`, its cores at `ENTRY`. -/
def startCluster (s : State) (h cstart clen entry : Nat) (image : List Byte) : State :=
  let s1 := clearStores s h
  let s2 := { s1 with stores := mput s1.stores (bundleAddr h cstart) image }
  let s3 := onClus s2 h fun q => { q with sem := [], barMask := 0, barArr := 0 }
  let snap := codeNow s3 h cstart clen
  (coresOf h).foldl (fun t g => putCore t g { Core.zero with pc := entry, run := .issuing, snap := snap }) s3

/-! ### PREEMPT, RESUME (R235-R239) -/

/-- The request reaches every core; one that waits or has stopped is at its safe point. -/
def cxPreempt (s : State) (p c : Nat) : State :=
  let stopped := cstate s p c == Cs.stopped
  let s1 := onCtx s p c fun y => { y with stopReq := stopped }
  let s2 := (ctxCores (partOf s p) c).foldl (fun t g => onCore t g fun k =>
    { k with
      preReq := true
      atSafe := match k.run with
        | .halted | .stopped => true
        | .waiting ws => ws.all Wait.safe
        | _ => false }) s1
  setCstate s2 p c Cs.preempting

/-- RESUME takes the same clusters, unless another context holds one (Table 10-4). -/
def cxResume (s : State) (p c : Nat) : State :=
  if clustersFree s (ctxClusters (partOf s p) c) then setCstate (holdClusters s p c true) p c Cs.resuming
  else lstat s p c Status.busy

/-- RESTART (R49): a stopped core issues again; the trap bundle is skipped. -/
def cxRestart (s : State) (p c : Nat) : State :=
  let s1 := (ctxCores (partOf s p) c).foldl (fun t g => onCore t g fun k =>
    if k.run != .stopped then k
    else if k.skip && k.exc == BitVec.ofNat 8 Exc.trap then
      { k with run := .issuing, skip := false, pc := (k.pc + 1) % 32768 }
    else { k with run := .issuing }) s
  lstat (setCstate s1 p c Cs.running) p c Status.ok

/-- ABORT (R241). -/
def cxAbort (s : State) (p c : Nat) : State :=
  let st := cstate s p c
  if st = Cs.teardown ∨ st = Cs.halted ∨ st = Cs.ended then lstat s p c Status.alreadyComplete
  else if st = Cs.free then lstat s p c Status.busy
  else onCtx (beginTeardown s p c Status.aborted none) p c fun y => { y with cmdRun := 5 }

/-- A command in the state that it finds (Tables 10-4, 10-5). -/
def cxCommand (s : State) (p c cmd : Nat) : State :=
  let st := cstate s p c
  match cmd with
  | 0 => s
  | 1 => if st = Cs.free then cxStart s p c else lstat s p c Status.busy
  | 2 => if st = Cs.running ∨ st = Cs.stopped then cxPreempt s p c else lstat s p c Status.busy
  | 3 => if st = Cs.preempted then cxResume s p c else lstat s p c Status.busy
  | 4 => if st = Cs.stopped then cxRestart s p c else lstat s p c Status.busy
  | 5 => cxAbort s p c
  | 6 => if st = Cs.halted ∨ st = Cs.ended then lstat (setCstate s p c Cs.free) p c Status.ok
         else lstat s p c Status.busy
  | _ => lstat s p c Status.notRun

/-- A doorbell command: while START is in progress it waits (R232). -/
def cxDoorbell (s : State) (p c cmd : Nat) : State :=
  if (partOf s p).ptstate != 1 || cmd == 0 then s
  else if (ctxOf s p c).starting then onCtx s p c fun y => { y with waitCmds := y.waitCmds ++ [cmd] }
  else cxCommand s p c cmd

def execStart (p c : Nat) (s : State) : Host.Outcome State Fault Refusal :=
  guarded (.start p c) (cxDoorbell s p c 1)

def execPreempt (p c : Nat) (s : State) : Host.Outcome State Fault Refusal :=
  guarded (.preempt p c) (cxDoorbell s p c 2)

def execResume (p c : Nat) (s : State) : Host.Outcome State Fault Refusal :=
  guarded (.resume p c) (cxDoorbell s p c 3)

def execRestart (p c : Nat) (s : State) : Host.Outcome State Fault Refusal :=
  guarded (.restart p c) (cxDoorbell s p c 4)

def execContextAbort (p c : Nat) (s : State) : Host.Outcome State Fault Refusal :=
  guarded (.contextAbort p c) (cxDoorbell s p c 5)

def execRelease (p c : Nat) (s : State) : Host.Outcome State Fault Refusal :=
  guarded (.release p c) (cxDoorbell s p c 6)

/-- START_COMPLETE: stores loaded, cores started, then the commands that waited. -/
def startComplete (s : State) (p c : Nat) : State :=
  if !(ctxOf s p c).starting then s
  else
    let x := partOf s p
    let cs := x.get (R.cxCode c) 14 0
    let cl := x.get (R.cxCode c) 47 32
    let im := devRead s p (x.get (R.cxCimg c) 43 6 * 64) (cl * 64)
    let s1 := (ctxClusters x c).foldl (fun t h => startCluster t h cs cl (x.get (R.cxCode c) 30 16) im.1) im.2
    let cmds := (ctxOf s p c).waitCmds
    let s2 := onCtx s1 p c fun _ => Ctx.fresh
    cmds.foldl (fun t m => cxDoorbell t p c m) (lstat (setCstate s2 p c Cs.running) p c Status.ok)

def execStartComplete (p c : Nat) (s : State) : Host.Outcome State Fault Refusal :=
  guarded (.startComplete p c) (startComplete s p c)

/-! ### The end of a DMA (R36, R237, R242) -/

/-- A DMA leaves its core with a status: semaphore, `wait.dma`, `DMA_FAULT`. In a tear-down its result is
discarded (R245). -/
def dmaRetire (s : State) (g : Nat) (d : Dma) (status : Nat) : State :=
  let s1 := onCore s g fun k => { k with dmas := k.dmas.filter fun e => e.id != d.id }
  match holderOf s g with
  | none => s1
  | some hd =>
    if cstate s hd.part hd.ctx = Cs.teardown then s1
    else
      let s2 := if d.semen then postSem s1 hd.part hd.ctx hd.cli d.sid 1 else s1
      let k := coreOf s2 g
      let s3 := endWaits s2 g fun w => match w with
        | .dma m => !dmaBusy k m
        | _ => false
      if status = Status.ok ∨ d.aborted then s3 else coreFault s3 g Exc.dmaFault d.pc d.tag status

/-! ### Saving and restoring -/

/-- Whether an address lies off the module. -/
def awayAddr (a : Word) : Bool :=
  match spaceOf a with
  | .nyzan | .host => true
  | .pv | .regs => false

/-- Whether some atomic of a DMA to the `AMO` window names another module (Table 8-11). -/
def amoAway (s : State) (d : Dma) : Bool :=
  (List.range (d.len / 32)).any fun i => awayAddr (BitVec.ofNat 64 (mle s.stores (addrOff d.src + 32 * i) 8))

/-- Whether the destination makes a DMA send messages off the module: a window or the host, or atomics on another module. A
descriptor to the `COLL` window and a local atomic send none (R235). -/
def sendsAway (s : State) (d : Dma) : Bool :=
  awayAddr d.dst
    || (spaceOf d.dst == .regs && decide (R.amoWin ≤ addrOff d.dst ∧ addrOff d.dst < R.collWin) && amoAway s d)

/-- Whether a DMA sends messages off the module. -/
def Dma.remote (s : State) (d : Dma) : Bool := awayAddr d.src || sendsAway s d

/-- Whether core `g` is ready to be saved: at its safe point, its M operations and local DMAs complete, no
message of it outstanding. -/
def saveReady (s : State) (g : Nat) : Bool :=
  let k := coreOf s g
  safeNow s g && k.mops == [] && k.dmas.all fun d => d.remote s && d.waiting == 0
    && (d.finished || d.aborted || d.asked == [] || sendsAway s d)

/-- Copies the bytes and tags of a cluster into the image. -/
def saveBytes (s : State) (h i : Nat) (im : SaveImage) : SaveImage :=
  let base := i * 0x800000
  let cw := s.stores.filter fun c => decide (coreWindow h ≤ c.1 ∧ c.1 < coreWindow h + 0x400000)
  let cl := s.stores.filter fun c => decide (clusWindow h ≤ c.1 ∧ c.1 < clusWindow h + 0x200000)
  let tw := s.tags.filter fun c => decide (coreWindow h ≤ 8 * c.1 ∧ 8 * c.1 < coreWindow h + 0x400000)
  let tl := s.tags.filter fun c => decide (clusWindow h ≤ 8 * c.1 ∧ 8 * c.1 < clusWindow h + 0x200000)
  { im with
    bytes := im.bytes ++ (cw.map fun c => (c.1 - coreWindow h + base, c.2))
      ++ cl.map fun c => (c.1 - clusWindow h + base + 0x400000, c.2)
    tags := im.tags ++ (tw.map fun c => (c.1 - coreWindow h / 8 + base / 8, c.2))
      ++ tl.map fun c => (c.1 - clusWindow h / 8 + (base + 0x400000) / 8, c.2) }

/-- The saved semaphores and barrier of a cluster. -/
def clusterSave (q : Cluster) : ClusterSave := { sem := q.sem, barMask := q.barMask, barArr := q.barArr }

/-- One cluster saved; capture buffers and seeds are not (R113). -/
def saveCluster (s : State) (h i : Nat) (im : SaveImage) : SaveImage :=
  let cores := (List.range 16).foldl (fun (m : Sparse Core) k =>
    let q := coreOf s (16 * h + k)
    sset Core.zero m (16 * i + k)
      { q with preReq := false, atSafe := false, caps := [], seeds := [], seeded := 0
               dmas := q.dmas.map fun d => { d with parked := d.finished } }) im.cores
  let park := (List.range 16).flatMap fun k =>
    ((coreOf s (16 * h + k)).dmas.filter (·.finished)).map fun d =>
      ({ core := 16 * i + k, id := d.id, status := worst d.status } : ParkRec)
  saveBytes s h i { im with
    cores := cores
    clusters := sset { sem := [], barMask := 0, barArr := 0 } im.clusters i (clusterSave (clusOf s h))
    park := im.park ++ park }

/-- The 106 bolts of a cluster at `SAVE`, counted in tiles. -/
def saveTiles : Nat := 106 * 16

/-- The save area takes the image. The layout within it is not architectural (R235): the image itself stands in `Ctx.save`,
and every byte of the area takes a free value (log 141). -/
def writeSaveArea (s : State) (p c n : Nat) : State :=
  let a := fld ((partOf s p).reg (R.cxSave c)) 43 16 * boltSize
  (List.range (n * saveTiles)).foldl (fun t j => spend (devWrite t p (a + 4096 * j) (freeBytes t 4096)) 512) s

/-- PREEMPT_SAVE_COMPLETE -/
def saveComplete (s : State) (p c : Nat) : State :=
  let x := partOf s p
  if cstate s p c = Cs.preempting ∧ (ctxCores x c).all (saveReady s) then
    let im := (ctxClusters x c).zipIdx.foldl (fun im e => saveCluster s e.1 e.2 im)
      { stopped := (ctxOf s p c).stopReq, cores := [], clusters := [], bytes := [], tags := [], park := [] }
    let s0 := writeSaveArea s p c (ctxClusters x c).length
    let s1 := onCtx (releaseClusters s0 p c) p c fun y => { y with save := some im, stopReq := false }
    lstat (setCstate s1 p c Cs.preempted) p c Status.ok
  else s

def execPreemptSaveComplete (p c : Nat) (s : State) : Host.Outcome State Fault Refusal :=
  guarded (.preemptSaveComplete p c) (saveComplete s p c)

/-- The store bytes and tags of cluster `h` from the image. -/
def restoreBytes (s : State) (h i : Nat) (im : SaveImage) : State :=
  let base := i * 0x800000
  let mine := fun a : Nat => decide (base ≤ a ∧ a < base + 0x800000)
  let home := fun a : Nat => if a < base + 0x400000 then a - base + coreWindow h else a - base - 0x400000 + clusWindow h
  let keep := fun a : Nat => !(ofCluster h a && decide (a < 0xF0000000))
  let st := (im.bytes.filter fun c => mine c.1).foldl (fun (m : Mem) c => mset m (home c.1) c.2)
    (s.stores.filter fun c => keep c.1)
  let tg := (im.tags.filter fun c => mine (8 * c.1)).foldl (fun m c => sset 0 m (home (8 * c.1) / 8) c.2)
    (s.tags.filter fun c => keep (8 * c.1))
  { s with stores := st, tags := tg }

/-- One cluster restored; stopped contexts' cores stand still until RESTART. -/
def restoreCluster (s : State) (h i : Nat) (im : SaveImage) : State :=
  let q : ClusterSave := sget { sem := [], barMask := 0, barArr := 0 } im.clusters i
  let s1 := onClus (restoreBytes s h i im) h fun y => { y with sem := q.sem, barMask := q.barMask, barArr := q.barArr }
  (List.range 16).foldl (fun t k =>
    let w := sget Core.zero im.cores (16 * i + k)
    putCore t (16 * h + k) { w with
      run := if im.stopped ∧ w.run = .issuing then .stopped else w.run
      cfg := 0, caps := [], seeds := [], seeded := 0 }) s1

/-- The waits of a core that nothing restored leaves open end: its M operations are done, and so are DMAs
that are no longer in flight. -/
def reviveWaits (s : State) (g : Nat) : State :=
  let k := coreOf s g
  endWaits s g fun w => match w with
    | .mwait => true
    | .dma m => !dmaBusy k m
    | _ => false

/-- RESTORE_COMPLETE: state, then waits, then the parked outcomes (R237). -/
def restoreComplete (s : State) (p c : Nat) : State :=
  match cstate s p c == Cs.resuming, (ctxOf s p c).save with
  | true, some im =>
    let x := partOf s p
    let hs := ctxClusters x c
    let s1 := hs.zipIdx.foldl (fun t e => restoreCluster t e.1 e.2 im) s
    let s2 := setCstate (onCtx s1 p c fun y => { y with save := none }) p c
      (if im.stopped then Cs.stopped else Cs.running)
    let s3 := hs.foldl (fun t h => (List.range 64).foldl (fun u i => semRelease h i 16 u) t) s2
    let s4 := (ctxCores x c).foldl reviveWaits s3
    let s5 := lstat s4 p c Status.ok
    im.park.foldl (fun t r =>
      match hs[r.core / 16]? with
      | none => t
      | some h =>
        let g := 16 * h + r.core % 16
        match (coreOf t g).dmas.find? fun d => d.id == r.id with
        | some d => dmaRetire t g d r.status
        | none => t) s5
  | _, _ => s

def execRestoreComplete (p c : Nat) (s : State) : Host.Outcome State Fault Refusal :=
  guarded (.restoreComplete p c) (restoreComplete s p c)

/-! ### The end of a context -/

/-- The fault record of a context (Table 10-2). -/
def faultRecord (cause : Option Cause) (more : Nat) : Word :=
  let k := cause.getD { fstat := Status.aborted, fpc := 0, ftag := 0, fcause := 0, fcid := 0 }
  BitVec.ofNat 64 (k.fstat * 2 ^ 56 + b2n (decide (0 < more)) * 2 ^ 55 + k.fpc % 2 ^ 15 * 2 ^ 40
    + k.ftag % 16 * 2 ^ 36 + k.fcause % 64 * 2 ^ 30 + min more 65535 * 2 ^ 14 + k.fcid % 2 ^ 14)

/-- Whether nothing of a context that is torn down is outstanding (R245). -/
def teardownDone (s : State) (p c : Nat) : Bool :=
  let x := partOf s p
  (!holdsNow s p c || (ctxCores x c).all fun g => (coreOf s g).dmas.all fun d => d.waiting == 0)
    && !x.colls.any fun k => k.ctx == c

/-- TEARDOWN_COMPLETE: the fault record is written, the clusters are released, the context is ENDED. -/
def teardownComplete (s : State) (p c : Nat) : State :=
  if cstate s p c = Cs.teardown ∧ teardownDone s p c then
    let y := ctxOf s p c
    let s1 := onPart (releaseClusters s p c) p fun x => x.setReg (R.cxFault c) (faultRecord y.cause y.more)
    let s2 := setCstate (onCtx s1 p c fun _ => Ctx.fresh) p c Cs.ended
    let s3 := if y.cmdRun = 5 then lstat s2 p c Status.ok else ctxVector s2 p c
    rmContextGone s3 p c
  else s

def execTeardownComplete (p c : Nat) (s : State) : Host.Outcome State Fault Refusal :=
  guarded (.teardownComplete p c) (teardownComplete s p c)

/-- CONTEXT_HALTED: every core halted, every operation complete. -/
def contextHalted (s : State) (p c : Nat) : State :=
  let x := partOf s p
  let still := (ctxCores x c).all fun g => (coreOf s g).run == .halted && (coreOf s g).mops == [] && (coreOf s g).dmas == []
  if cstate s p c = Cs.running ∧ still ∧ !(x.colls.any fun k => k.ctx == c) then
    rmContextGone (lstat (setCstate (releaseClusters s p c) p c Cs.halted) p c Status.ok) p c
  else s

def execContextHalted (p c : Nat) (s : State) : Host.Outcome State Fault Refusal :=
  guarded (.contextHalted p c) (contextHalted s p c)

/-- DB_RING (R234): a post, live or saved (R240). -/
def ringDoorbell (s : State) (p c : Nat) (val : Word) : State :=
  if (partOf s p).ptstate != 1 then s
  else postSem s p c (fld val 25 16) (fld val 5 0) (fld val 47 32)

def execDbRing (p c : Nat) (val : Word) (s : State) : Host.Outcome State Fault Refusal :=
  guarded (.dbRing p c val) (ringDoorbell s p c val)

end Sys2Proof.Machine
end

