-- ==== Sys2Proof/Machine/Discovery.lean ====
section
/-! DEFINITION. Discovery and table swaps (R198-R205). -/

namespace Sys2Proof.Machine

/-- A blank owner slot (Table 15-5). -/
def OwnerSlot.blank : OwnerSlot := { digest := 0, used := false, revoked := false, psvc := 0 }

/-- The current owner slot: the highest-numbered one marked used (R371). -/
def ownerIx (s : State) : Option Nat :=
  [3, 2, 1, 0].find? fun i => (sget .blank s.sec.owners i).used

/-- The digest of the enrolled owner key; 0 without an owner. -/
def ownerDigest (s : State) : BitVec 384 :=
  match ownerIx s with
  | some i => (sget .blank s.sec.owners i).digest
  | none => 0

/-- The first 16 bytes of the owner digest, `OWNH` (Table 9-2). -/
def ownHash (s : State) : BitVec 128 := BitVec.ofNat 128 (fld (ownerDigest s) 127 0)

/-- Whether the ports are held down for want of a pattern (R372). -/
def portsHeld (s : State) : Bool := s.sec.pst != 0

/-- Whether a port exchanges HELLOs: DISCOVER, ABSENT while trained, or UP before both ends have
verified each other (R198, R202). -/
def helloing (q : Port) : Bool :=
  q.pstate == 7 || (q.pstate == 10 && q.lanes != 0)
  || (decide (1 ≤ q.pstate ∧ q.pstate ≤ 4) && !(q.verified && q.seenMe))

/-- A HELLO, Table 9-2 (R199): its fields, the bytes that its signature is over, and the signature. -/
structure Hello where
  seen   : Bool
  hport  : BitVec 5
  hdev   : DevId
  hboard : BitVec 32
  hpos   : BitVec 4
  hdom   : BitVec 5
  nonce  : BitVec 128
  echo   : BitVec 128
  ownh   : BitVec 128
  cert   : List Byte
  signed : List Byte
  sig    : List Byte
  deriving DecidableEq, Repr

/-- The bytes of a HELLO that its signature is over: 0x00 to 0x3F + `CLEN` (Table 9-2). -/
def helloBody (hflg hport : Nat) (hdev : DevId) (hboard hpos hdom : Nat) (nonce echo ownh : BitVec 128)
    (cert : List Byte) : List Byte :=
  toLE 1 1 ++ toLE 1 1 ++ toLE 1 hflg ++ toLE 1 hport ++ toLE 4 hdev.toNat ++ toLE 4 hboard ++ toLE 1 hpos ++ toLE 1 hdom
  ++ toLE 2 cert.length ++ toLE 16 nonce.toNat ++ toLE 16 echo.toNat ++ toLE 16 ownh.toNat ++ cert

/-- A HELLO from its payload: none when `HVER`, `CLEN` or the length is not as R199 says. -/
def parseHello (bs : List Byte) : Option Hello :=
  let n := leAt bs 0x0E 2
  if leAt bs 0 1 = 1 ∧ leAt bs 1 1 = 1 ∧ 1 ≤ n ∧ n ≤ 1024 ∧ bs.length = 160 + n then
    some
      { seen := leAt bs 2 1 % 2 == 1, hport := BitVec.ofNat 5 (leAt bs 3 1), hdev := BitVec.ofNat 18 (leAt bs 4 4)
        hboard := BitVec.ofNat 32 (leAt bs 8 4), hpos := BitVec.ofNat 4 (leAt bs 0x0C 1)
        hdom := BitVec.ofNat 5 (leAt bs 0x0D 1), nonce := BitVec.ofNat 128 (leAt bs 0x10 16)
        echo := BitVec.ofNat 128 (leAt bs 0x20 16), ownh := BitVec.ofNat 128 (leAt bs 0x30 16)
        cert := slice bs 0x40 n, signed := bs.take (0x40 + n), sig := slice bs (0x40 + n) 96 }
  else none

/-- The HELLO that a port sends now, signed by the identity key: none without one. -/
def helloPayload (s : State) (c : Nat) : Option (List Byte) :=
  let q := portOf s c
  s.sec.idKey.map fun k =>
    let t := s.pattern.getD default
    let b := helloBody (b2n q.verified) c (ownId s) t.board.toNat t.position.toNat t.domain.toNat q.nonce q.echo (ownHash s)
      (Config.identityCert.take 1024)
    b ++ slice (Config.ecdsaSign k b) 0 96

/-- A HELLO joins the port's HELLOs on VC3: an MGMT message with `ENC` clear, `LEN` 160 + `CLEN` and the port's own die and
counter; its `DST` is in no chapter, so it is free (R179, R198, R199). -/
def helloSend (s : State) (c : Nat) : State :=
  match helloPayload s c with
  | none => s
  | some b =>
    let die := ioDieOf c == 1
    let m := { blankMsg Mt.mgmt 0 (BitVec.ofNat 18 (freeAt s 0).toNat) 0 with
               src := ownId s, srcDie := die, ctr := ctrOf s die, len := b.length, payload := b }
    let fs := flitsOf (s.fabric.nextMid + 1) 3 false (msgBytes m)
    onPort (newMid (countMsg (spend s 1) die)) c fun q => { q with hellos := q.hellos ++ fs }

/-- HELLO_SEND (R198). -/
def execHelloSend (port : Nat) (s : State) : Host.Outcome State Fault Refusal :=
  guarded (.helloSend port)
    (when_ (helloing (portOf s port) && !portsHeld s) s (helloSend s port))

/-! Discovery outcomes, Table 9-4. -/

namespace Dres
def none_ : Nat := 0
def match_ : Nat := 1
def absent : Nat := 2
def unplanned : Nat := 3
def miswired : Nat := 4
def badsig : Nat := 5
def foreign : Nat := 6
end Dres

/-- Whether a HELLO is what the plan expects, and on a board port what R197 expects (R201). -/
def planMatches (s : State) (c : Nat) (e : PlanEntry) (h : Hello) : Bool :=
  let own := fun (b : Bool) (ok : Bool) => b || ok
  let plan := own (bit e.emask 0) (h.hdev == e.edev) && own (bit e.emask 1) (h.hboard == e.eboard)
    && own (bit e.emask 2) (h.hpos == e.epos) && own (bit e.emask 3) (h.hport == e.eport)
  let board := match s.pattern with
    | some t => h.hboard == t.board && h.hpos.toNat == (t.position.toNat + c + 1) % 9 && h.hport.toNat == 7 - c
    | none => false
  plan && (8 ≤ c || board)

/-- The first outcome of Table 9-4 that applies to a HELLO (R201), under the plan entry that governs this discovery
(R200). -/
def outcomeOf (s : State) (c : Nat) (h : Hello) : Nat :=
  let dom := ((s.pattern.map (·.domain))).getD 0
  if !(Config.certChains h.cert && Config.ecdsaVerify (Config.certKey h.cert) h.signed h.sig) then Dres.badsig
  else if h.ownh != ownHash s || h.hdom != dom then Dres.foreign
  else
    let e := (portOf s c).plan
    if !e.used then Dres.unplanned
    else if planMatches s c e h then Dres.match_ else Dres.miswired

/-- The neighbour's identity, as `PT_PEER` shows it. -/
def peerWord (h : Hello) : Word :=
  BitVec.ofNat 64 (h.hboard.toNat * 2 ^ 32 + h.hport.toNat * 2 ^ 22 + h.hpos.toNat * 2 ^ 18 + h.hdev.toNat)

/-- A replay buffer is discarded and counted; the link starts afresh (R173). -/
def discardReplay (s : State) (c : Nat) : State :=
  let s1 := if (portOf s c).replay = [] then s else bumpMreg s (M.ptReplay c) 31 0 1
  onPort (breakLink s1 c) c fun q =>
    { q with
      replay := [], resend := [], txNext := 0, rxNext := 0, nakOut := false, discard := false, ackOut := false
      txOpen := [], rx := [], rxDed := [], rxSh := [], lctl := false
      dedUsed := [], shUsed := [], dcred := [], scred := 0, dcredRx := [], scredRx := 0, prevPeer := none }

/-- Whether an outcome is reported in the health records: it is not MATCH, or it changes the last one (R202). -/
def reports (q : Port) (out : Nat) : Bool :=
  if q.dres = 0 then out != Dres.match_ || (q.lastOut != 0 && q.lastOut != out) else q.dres != out

/-- The outcome of discovery is recorded (R201, R202, R173); one other than MATCH, and a change of
outcome, is reported. -/
def recordOutcome (s : State) (c out : Nat) : State :=
  let q := portOf s c
  let st := if out = Dres.match_ then laneCount q.lanes else if out = Dres.unplanned then 7 else 10
  let same := out == Dres.match_ && (q.prevPeer == some q.peer)
  let s1 := if same || (q.prevPeer = none && q.replay = []) then s else discardReplay s c
  let s2 := onPort s1 c fun q =>
    { q with pstate := st, dres := out, lastOut := out, resend := if same then q.replay else q.resend }
  let s3 := if out = Dres.match_ then autoSet s2 c (BitVec.ofNat 18 (fld q.peer 17 0))
    else charge s2 0x0D 7 c
  if reports q out then eventRecord s3 0x0D 7 c 1 out else s3

/-- A HELLO is verified and checked (R199, R201). -/
def takeHello (s : State) (c : Nat) (h : Hello) : State :=
  let q := portOf s c
  let out := outcomeOf s c h
  let ok := out != Dres.badsig
  let s1 := onPort s c fun q =>
    { q with
      echo := h.nonce
      verified := q.verified || ok
      seenMe := q.seenMe || (h.seen && h.echo == q.nonce)
      peer := if ok then peerWord h else q.peer }
  if q.pstate = 10 ∨ (q.pstate = 7 ∧ q.dres ≠ Dres.unplanned) then recordOutcome s1 c out else s1

/-- HELLO: one with `ENC` set is discarded and counted (R179), one of another `HVER` or length is discarded (R199). -/
def hello (s : State) (c : Nat) (m : Msg) : State :=
  let s1 := takeInbox s m
  if portsHeld s || !(helloing (portOf s c) || portUp s c) || !isHello m then s1
  else if m.enc then countNoKey s1 (some c)
  else match parseHello m.payload with
    | some h => if m.len = m.payload.length then takeHello s1 c h else s1
    | none => s1

def execHello (port : Nat) (m : Msg) (s : State) : Host.Outcome State Fault Refusal :=
  guarded (.hello port m) (hello s port m)

/-- DISCOVERY_TIMEOUT: no verifiable HELLO within 20 ms (R198). -/
def execDiscoveryTimeout (port : Nat) (s : State) : Host.Outcome State Fault Refusal :=
  guarded (.discoveryTimeout port)
    (when_ ((portOf s port).pstate == 7 && (portOf s port).dres == 0) s (recordOutcome s port Dres.absent))

/-- RT_SWAP: the banks change; the outgoing bank loses its automatic entries, and neighbours that
are UP get theirs in the incoming one (R203, R205). Ports that the incoming bank names wake first
(R425). -/
def rtSwap (s : State) : State :=
  let out := s.fabric.abank
  let old := if out then s.fabric.routes1 else s.fabric.routes0
  let s1 := (old.filter fun e => bit e.2 1).foldl (fun t e => setRoute t out e.1 0) s
  let s2 := { s1 with fabric := { s1.fabric with abank := !out } }
  let s3 := ((List.range 18).filter fun c => (portOf s2 c).pstate == 8 && routeNames s2 c).foldl wakePort s2
  ((List.range 18).filter fun c => portUp s3 c && (portOf s3 c).dres == Dres.match_).foldl
    (fun t c => autoSet t c (BitVec.ofNat 18 (fld (portOf t c).peer 17 0))) s3

def execRtSwap (s : State) : Host.Outcome State Fault Refusal := guarded .rtSwap (rtSwap s)

end Sys2Proof.Machine
end

