-- ==== Sys2Proof/Machine/JobKeys.lean ====
section
/-! DEFINITION. Job key slots and the exchange of job keys (R379-R382). -/

namespace Sys2Proof.Machine

/-- The job key slot of a partition. -/
def Partition.jkey (x : Partition) (i : Nat) : JobKey := sget .empty x.jkeys i

/-- A job key slot replaced. -/
def putJkey (s : State) (p i : Nat) (k : JobKey) : State :=
  onPart s p fun x => { x with jkeys := sset .empty x.jkeys i k }

/-- A job key command ends: `JKSTAT` and vector 5 (Table 16-11). -/
def jkEnd (s : State) (p status : Nat) : State := msix (putReg s p R.jkCtl 31 24 status) p 5

/-- Bits that the DRBG delivers, as 64-bit free words from the `k`-th on (R377, log 5). -/
def drbg (s : State) (k words : Nat) : Nat := le ((List.range words).flatMap fun i => toLE 8 (freeAt s (k + i)).toNat)

/-- Whether a slot of the module holds a job (R379). -/
def jobHeld (s : State) (job : JobId) : Bool :=
  s.parts.any fun e => e.2.jkeys.any fun k => k.2.st != 0 && k.2.job == job

/-- A command of a partition that is LIVE, in a slot whose state allows it; otherwise BUSY. -/
def jkTurn (s : State) (p i : Nat) (ok : JobKey → Bool) (t : State) : State :=
  if (partOf s p).ptstate != 1 then s
  else if ok ((partOf s p).jkey i) then t
  else jkEnd s p Status.busy

/-- CREATE: the leader makes the job key. -/
def jkCreate (s : State) (p i : Nat) (job : JobId) : State :=
  jkTurn s p i (fun k => k.st == 0) (
    if jobHeld s job then jkEnd s p Status.notRun
    else
      let k : JobKey := { JobKey.empty with st := 2, job := job, leader := true, key := BitVec.ofNat 256 (drbg s 0 4) }
      jkEnd (putJkey (spend s 4) p i k) p Status.ok)

def execJkCreate (p slot : Nat) (job : JobId) (s : State) : Host.Outcome State Fault Refusal :=
  guarded (.jkCreate p slot job) (jkCreate s p slot job)

/-! ### Records (Table 15-11) -/

/-- A record without its signature: bytes 0x000 to 0x11F. -/
def jkRecord (s : State) (p kind : Nat) (job : JobId) (nonce : BitVec 256) (eph : BitVec 384)
    (rnonce : BitVec 256) (rdev rpart : Nat) : List Byte :=
  toLE 1 1 ++ toLE 1 kind ++ zeros 2 ++ toLE 4 job.toNat ++ toLE 4 (ownId s).toNat ++ toLE 1 p ++ zeros 3
    ++ toLE 32 nonce.toNat ++ toLE 16 (fld s.sec.fwd 127 0) ++ toLE 16 (ownHash s).toNat
    ++ slice (Config.publicKey eph) 0 97 ++ zeros 15
    ++ toLE 32 rnonce.toNat ++ toLE 4 rdev ++ toLE 1 rpart ++ zeros 11

/-- A record with `KWRAP` signed by the identity key. -/
def jkSigned (key : BitVec 384) (body wrap : List Byte) : List Byte :=
  let b := body ++ slice wrap 0 48
  b ++ slice (Config.ecdsaSign key b) 0 96 ++ zeros 128

/-- Whether a record has version, kind and zero bytes of its kind. -/
def jkLayout (r : List Byte) (kind : Nat) : Bool :=
  let z := fun o n => (slice r o n).all (· == 0)
  leAt r 0 1 == 1 && leAt r 1 1 == kind && z 2 2 && leAt r 8 4 / 2 ^ 18 == 0 && leAt r 0xC 1 / 16 == 0 && z 0xD 3
    && z 0xB1 15 && z 0x180 128
    && (if kind = 1 then z 0xC0 96 else leAt r 0xE0 4 / 2 ^ 18 == 0 && leAt r 0xE4 1 / 16 == 0 && z 0xE5 11)

/-- Whether certificate and signature of a record hold, and its firmware and owner are the module's own. -/
def jkTrusted (r cert : List Byte) : Bool :=
  Config.certChains cert && Config.ecdsaVerify (Config.certKey cert) (slice r 0 0x120) (slice r 0x120 96)

def jkSameHouse (s : State) (r : List Byte) : Bool :=
  leAt r 0x30 16 == fld s.sec.fwd 127 0 && leAt r 0x40 16 == (ownHash s).toNat

/-- The ASCII bytes of DZ3-JOBWRAP-1. -/
def jkLabel : List Byte := [0x44, 0x5A, 0x33, 0x2D, 0x4A, 0x4F, 0x42, 0x57, 0x52, 0x41, 0x50, 0x2D, 0x31]

/-- A 256-bit key from HKDF: salt, input key, info. -/
def hkdf32 (salt ikm info : List Byte) : BitVec 256 := BitVec.ofNat 256 (le (slice (Config.hkdf salt ikm info 32) 0 32))

/-- The wrap key of an exchange (R380): member's and leader's nonce, and their device IDs. -/
def jkWrapKey (priv : BitVec 384) (peerPub mnonce lnonce : List Byte) (job mdev ldev : Nat) : BitVec 256 :=
  let info := jkLabel ++ toLE 4 job ++ toLE 4 mdev ++ toLE 4 ldev
  hkdf32 (mnonce ++ lnonce) (Config.ecdhX priv peerPub) info

/-- The peer certificate at `CADDR`: a 2-byte length, then its bytes. -/
def jkCert (s : State) (p : Nat) : List Byte × State :=
  let a := reg s p R.jkPeer 63 4 * 16
  let n := devReadLE s p a 2
  devRead n.2 p (a + 2) n.1

/-- The address of the record pair. -/
def jkPair (s : State) (p : Nat) : Nat := reg s p R.jkAddr 63 9 * 512

/-- REQUEST: the member writes a request record. Without an identity key nothing can be signed (R389). -/
def jkRequest (s : State) (p i : Nat) (job : JobId) : State :=
  jkTurn s p i (fun k => k.st == 0) (
    match s.sec.idKey with
    | none => jkEnd s p Status.notRun
    | some id =>
      let nonce := BitVec.ofNat 256 (drbg s 0 4)
      let eph := BitVec.ofNat 384 (drbg s 4 6)
      let k : JobKey := { JobKey.empty with st := 1, job := job, eph := eph, nonce := nonce }
      let r := jkSigned id (jkRecord s p 1 job nonce eph 0 0 0) (zeros 48)
      jkEnd (devWrite (putJkey (spend s 10) p i k) p (jkPair s p) r) p Status.ok)

def execJkRequest (p slot : Nat) (job : JobId) (s : State) : Host.Outcome State Fault Refusal :=
  guarded (.jkRequest p slot job) (jkRequest s p slot job)

/-- What the checks of ISSUE decide, in order (R381). -/
def issueStatus (s : State) (k : JobKey) (r cert : List Byte) : Nat :=
  if !(jkLayout r 1 && leAt r 4 4 == k.job.toNat) then Status.notRun
  else if !jkTrusted r cert then Status.digestFail
  else if !jkSameHouse s r then Status.digestFail
  else if k.issued.contains (leAt r 8 4, leAt r 0xC 1) then Status.notRun
  else Status.ok

/-- ISSUE: the leader writes a grant (R380, R381). -/
def jkIssue (s : State) (p i : Nat) : State :=
  jkTurn s p i (fun k => k.st == 2 && k.leader) (
    let k := (partOf s p).jkey i
    let a := jkPair s p
    let r := devRead s p a 512
    let c := jkCert r.2 p
    let s0 := c.2
    let st := issueStatus s0 k r.1 c.1
    match s0.sec.idKey with
    | none => jkEnd s0 p Status.notRun
    | some id =>
      if st != Status.ok then jkEnd s0 p st
      else
        let nonce := BitVec.ofNat 256 (drbg s0 0 4)
        let eph := BitVec.ofNat 384 (drbg s0 4 6)
        let mdev := leAt r.1 8 4
        let mpart := leAt r.1 0xC 1
        let body := jkRecord s0 p 2 k.job nonce eph (BitVec.ofNat 256 (leAt r.1 0x10 32)) mdev mpart
        let wk := jkWrapKey eph (slice r.1 0x50 97) (slice r.1 0x10 32) (toLE 32 nonce.toNat) k.job.toNat mdev (ownId s0).toNat
        let w := Config.gcmSeal wk 0 (slice body 0 0xF0) (toLE 32 k.key.toNat)
        let g := jkSigned id body (slice w.1 0 32 ++ slice w.2 0 16)
        let s1 := putJkey (spend s0 10) p i { k with issued := k.issued ++ [(mdev, mpart)] }
        jkEnd (devWrite s1 p (a + 512) g) p Status.ok)

def execJkIssue (p slot : Nat) (s : State) : Host.Outcome State Fault Refusal :=
  guarded (.jkIssue p slot) (jkIssue s p slot)

/-- What a grant says to the slot: a status, and the key it carries. -/
def acceptGrant (s : State) (p : Nat) (k : JobKey) (r cert : List Byte) : Nat × BitVec 256 :=
  let mine := leAt r 0xC0 32 == k.nonce.toNat && leAt r 0xE0 4 == (ownId s).toNat && leAt r 0xE4 1 == p
    && leAt r 4 4 == k.job.toNat
  if !(jkLayout r 2 && mine) then (Status.notRun, 0)
  else if !(jkTrusted r cert && jkSameHouse s r) then (Status.digestFail, 0)
  else
    let wk := jkWrapKey k.eph (slice r 0x50 97) (toLE 32 k.nonce.toNat) (slice r 0x10 32) k.job.toNat
      (ownId s).toNat (leAt r 8 4)
    match Config.gcmOpen wk 0 (slice r 0 0xF0) (slice r 0xF0 32) (slice r 0x110 16) with
    | none => (Status.digestFail, 0)
    | some key =>
      let v := BitVec.ofNat 256 (le (slice key 0 32))
      let other := s.parts.any fun e => e.2.jkeys.any fun j => j.2.st == 2 && j.2.job == k.job && j.2.key != v
      (if other then Status.notRun else Status.ok, v)

/-- ACCEPT: the member installs the key (R379, R381). -/
def jkAccept (s : State) (p i : Nat) : State :=
  jkTurn s p i (fun k => k.st == 1) (
    let k := (partOf s p).jkey i
    let r := devRead s p (jkPair s p + 512) 512
    let c := jkCert r.2 p
    let o := acceptGrant c.2 p k r.1 c.1
    if o.1 != Status.ok then jkEnd c.2 p o.1
    else jkEnd (putJkey c.2 p i { JobKey.empty with st := 2, job := k.job, key := o.2 }) p Status.ok)

def execJkAccept (p slot : Nat) (s : State) : Host.Outcome State Fault Refusal :=
  guarded (.jkAccept p slot) (jkAccept s p slot)

/-- Whether the partition still uses a job (R382). -/
def jobInUse (x : Partition) (job : JobId) : Bool :=
  let ctxBusy := fun c => let st := x.get (R.cxStat c) 3 0; st != 0 && st != 6 && st != 8
  ((List.range 256).any fun g => x.get (R.gntCtl g) 11 10 != 0 && x.get (R.gntJob g) 31 0 == job.toNat)
  || (x.groups.any fun e => e.2.st != 0 && e.2.job == job)
  || (x.get R.tpCtl 23 20 != 0 && x.get R.tlJob 31 0 == job.toNat)
  || ((List.range 64).any fun c => ctxBusy c && x.get (R.cxJob c) 31 0 == job.toNat)
  || (x.get R.pkCtl 0 0 == 1 && x.get (R.cxJob (x.get R.pkCtl 15 10)) 31 0 == job.toNat)

/-- ERASE (R382). -/
def jkErase (s : State) (p i : Nat) : State :=
  jkTurn s p i (fun k => k.st == 0 || !jobInUse (partOf s p) k.job) (jkEnd (putJkey s p i .empty) p Status.ok)

def execJkErase (p slot : Nat) (s : State) : Host.Outcome State Fault Refusal :=
  guarded (.jkErase p slot) (jkErase s p slot)

/-- A write of `JK_CTL` that sets a command (Table 15-10). -/
def jkCommand (s : State) (p cmd : Nat) : State :=
  let i := reg s p R.jkCtl 21 16
  let job := BitVec.ofNat 32 (reg s p R.jkCtl 63 32)
  match cmd with
  | 1 => jkCreate s p i job
  | 2 => jkRequest s p i job
  | 3 => jkIssue s p i
  | 4 => jkAccept s p i
  | 5 => jkErase s p i
  | _ => s

end Sys2Proof.Machine
end

