-- ==== Sys2Proof/Machine/Convert.lean ====
section
/-! DEFINITION. Stages 2, 3, 5 and 6 of the path unit on elements (R85, R87, R89-R93, R122-R126): used by
DMAs and by the Tailor. -/

namespace Sys2Proof.Machine

/-- A source element after stage 3: its code, its value, the code of its block scale, the exponent
override of its tile, and the flags P, S and A that its tile or its store word carries. -/
structure Elem where
  code  : Nat
  val   : Num
  scale : Nat
  ovr   : Int
  pois  : Bool
  sat   : Bool
  aud   : Bool
  deriving DecidableEq, Repr

/-- An element that is not there: a zero (log 18). -/
def Elem.none_ : Elem :=
  { code := 0, val := .zero false, scale := 0, ovr := 0, pois := false, sat := false, aud := false }

/-- Whether a format is a codebook format. -/
def isCodebook (f : Nat) : Bool := f == 0xB || f == 0xC

/-- The entries of a codebook slot, subnormals read as zero (R82). -/
def cbEntries (k : Core) (slot : Nat) : List Num :=
  let n := if slot < 64 then 16 else 256
  let base := if slot < 64 then slot * 16 else 1024 + (slot - 64) * 256
  (List.range n).map fun j => decodeFmt 1 (sget 0 k.cb (base + j)).toNat

/-- Stages 2 and 3: code, block scale, `STS` and override, exactly (R125). -/
def sourceValue (f scl : Nat) (sts : Num) (tab : List Num) (code scale : Nat) (ovr : Int) : Num :=
  let x := if isCodebook f then tab.getD code .nan else decodeFmt f code
  Num.mul (Num.mul (scaleElem x (scaleValue scl scale)) sts) (.pow2 ovr)

/-- The largest finite magnitude of a block (R91). -/
def amaxOf (xs : List Num) : Num :=
  ((xs.map Num.abs).filter Num.isFin).foldl Num.max (.zero false)

/-- Encoding into a codebook (R85). -/
def encodeCode (tab : List Num) (x t : Num) : Option Nat :=
  match x with
  | .nan => tab.findIdx? Num.isNan
  | .inf s => tab.findIdx? fun e => e.isInf && e.sign == s
  | .fin _ _ _ _ =>
    let dist := fun e : Num => (Num.sub x (Num.mul e t)).abs
    let fin := tab.filter Num.isFin
    tab.findIdx? fun e => e.isFin && fin.all fun e' => !Num.lt (dist e') (dist e)

/-- Stage 6 on one element under a block-scale code and tensor scale `t`. -/
def encodeElem (f scl : Nat) (wrap : Bool) (t : Num) (tab : List Num) (scale : Nat) (x : Num) : Option Nat :=
  if isCodebook f then encodeCode tab x t
  else encodeFmt f wrap (Num.div x (Num.mul (scaleValue scl scale) t))

/-- Elements as stage 6 leaves them: codes, block-scale codes, and the elements that R93 marks. -/
structure Packed where
  codes  : List Nat
  scales : List Nat
  bads   : List Nat
  deriving DecidableEq, Repr

/-- Stage 6 on a run of elements. `blk j` is the block of element j, `scales` the codes of the blocks;
an element that cannot be represented makes its block NaN under MX32 and B16 (R93). -/
def stage6 (f scl : Nat) (wrap : Bool) (t : Num) (tab : Nat → List Num) (blk : Nat → Nat)
    (scales : List Nat) (xs : List Num) : Packed :=
  let cs := (List.range xs.length).map fun j =>
    encodeElem f scl wrap t (tab j) (scales.getD (blk j) (scaleOne scl)) (xs.getD j .nan)
  let bads := (List.range xs.length).filter fun j => (cs.getD j none).isNone
  { codes := cs.map fun c => c.getD 0
    scales := if scl = 1 ∨ scl = 2 then
        (List.range scales.length).map fun b => if bads.any fun j => blk j == b then scaleNan scl else scales.getD b 0
      else scales
    bads := if scl = 1 ∨ scl = 2 then [] else bads }

/-- The blocks of a tile: 32 or 16 elements, or all of it. -/
def tileBlk (scl j : Nat) : Nat := if scl = 1 ∨ scl = 2 then j / blockSize scl else 0

/-- Block scales of a tile's elements (R92); for B128 and none, `a` is what they are computed from. -/
def storeScales (f scl : Nat) (t a : Num) (xs : List Num) : List Nat :=
  if scl = 1 ∨ scl = 2 then
    (List.range (cdiv xs.length (blockSize scl))).map fun b =>
      chooseScale scl f (amaxOf ((xs.drop (b * blockSize scl)).take (blockSize scl))) t
  else if scl = 3 then [chooseScale 3 f a t]
  else []

/-- The policy limits of a scale record (Table 6-3): overflow and underflow limit. -/
def recLimits (pol : Nat) : Nat × Nat := if nfld pol 29 29 = 1 then (nfld pol 25 22, nfld pol 21 18) else (2, 8)

/-- ⌈log2⌉ of a finite positive value. -/
def clog2 : Num → Int
  | .fin _ n d e => let l := flog2 n d e; if Num.eq (.fin false n d e) (.pow2 l) then l else l + 1
  | _ => 0

/-- The smallest normal value of a floating format. -/
def fmtMin (f : Nat) : Num :=
  match fmtKind f with
  | .fp g => .pow2 (1 - (g.bias : Int))
  | _ => .pow2 0

/-- The rescue decision on a tile of amax `a` against `t` (R123): the override, when it is rescued. -/
def rescue (pol f : Nat) (t a : Num) : Option Int :=
  let lim := recLimits pol
  let q := Num.div a t
  let high := Num.lt (Num.mul (fmtMax f) (.pow2 lim.1)) q
  let low := !a.isZero && Num.lt q (Num.mul (fmtMin f) (.pow2 (-(lim.2 : Int))))
  if high || low then some (max (-127) (min 127 (clog2 (Num.div q (fmtMax f))))) else none

end Sys2Proof.Machine
end

