-- ==== Sys2Proof/Machine/Shards.lean ====
section
/-! DEFINITION. Layouts and shards of a plan (R253-R257): which rank holds which elements, and where. -/

namespace Sys2Proof.Machine

/-! ### The layout descriptor, Table 11-5 -/

namespace Ly
def ndim (d : List Byte) : Nat := leAt d 0 1
def rbase (d : List Byte) : Nat := leAt d 4 4
def rcnt (d : List Byte) : Nat := leAt d 8 4
def ext (d : List Byte) (k : Nat) : Nat := leAt d (0x10 + 8 * k) 4
def parts (d : List Byte) (k : Nat) : Nat := leAt d (0x14 + 8 * k) 2
def dctl (d : List Byte) (k : Nat) : Nat := leAt d (0x16 + 8 * k) 1
def repl (d : List Byte) (k : Nat) : Bool := nfld (dctl d k) 7 7 == 1
def ord (d : List Byte) (k : Nat) : Nat := nfld (dctl d k) 2 0
/-- The dimensions. -/
def dims (d : List Byte) : List Nat := List.range (min 5 (ndim d))
/-- The dimensions that are split. -/
def split (d : List Byte) : List Nat := (dims d).filter fun k => decide (1 < parts d k)
/-- Π, the number of parts. -/
def count (d : List Byte) : Nat := ((dims d).map (parts d)).foldl (· * ·) 1
/-- W_j of R253. -/
def radix (d : List Byte) (j : Nat) : Nat :=
  (((split d).filter fun k => ord d k < j).map (parts d)).foldl (· * ·) 1
/-- The part along dimension k of part number q. -/
def partOf (d : List Byte) (q k : Nat) : Nat :=
  if parts d k ≤ 1 then 0 else q / radix d (ord d k) % parts d k
/-- The number of replicas. -/
def replicas (d : List Byte) : Nat := rcnt d / max 1 (count d)
/-- Whether rank r belongs to the layout. -/
def has (d : List Byte) (r : Nat) : Bool := decide (rbase d ≤ r ∧ r < rbase d + rcnt d)
/-- Reserved fields are zero and every field of an unused dimension is zero. -/
def clean (d : List Byte) : Bool :=
  decide (1 ≤ ndim d ∧ ndim d ≤ 5) && (slice d 1 3).all (· == 0) && leAt d 0x0C 4 == 0
  && decide (rbase d < 2 ^ 17) && decide (rcnt d < 2 ^ 17) && (slice d 0x38 8).all (· == 0)
  && (List.range 5).all fun k =>
      if k < ndim d then
        nfld (dctl d k) 6 3 == 0 && leAt d (0x17 + 8 * k) 1 == 0 && ext d k != 0 && parts d k != 0
      else (slice d (0x10 + 8 * k) 8).all (· == 0)
/-- The rules of R253. -/
def rule253 (d : List Byte) : Bool :=
  let m := (split d).length
  ((split d).all fun k => decide (ord d k < m)) && decide ((split d).map (ord d)).Nodup
  && ((dims d).all fun k => decide (1 < parts d k) || ord d k == 0)
  && rcnt d != 0 && rcnt d % max 1 (count d) == 0
end Ly

/-- Indices that part i of P holds of an extent E (R254). -/
def partLen (e p i : Nat) (repl : Bool) : Nat :=
  e / p + (if repl then b2n (decide (0 < e % p)) else b2n (decide (i < e % p)))

/-- The j-th index of part i. -/
def partIndex (e p i : Nat) (repl : Bool) (j : Nat) : Nat :=
  let b := e / p
  if repl then (if j < b then i * b + j else p * b + i % max 1 (e % p))
  else i * b + min i (e % p) + j

/-- The part of P that holds index x where nothing is replicated, and its place there. -/
def partHolding (e p x : Nat) : Nat × Nat :=
  let b := e / p
  let r := e % p
  let i := if x < r * (b + 1) then x / (b + 1) else r + (x - r * (b + 1)) / max b 1
  (i, x - (i * b + min i r))

/-- The extents of the shard of part number q. -/
def shardDims (d : List Byte) (q : Nat) : List Nat :=
  (Ly.dims d).map fun k => partLen (Ly.ext d k) (Ly.parts d k) (Ly.partOf d q k) (Ly.repl d k)

/-- Elements of a box. -/
def boxCount (ds : List Nat) : Nat := ds.foldl (· * ·) 1

/-- Coordinates of stream index i in a box, dimension 0 innermost (R255). -/
def boxCoords : List Nat → Nat → List Nat
  | [], _ => []
  | e :: es, i => i % max 1 e :: boxCoords es (i / max 1 e)

/-- The stream index of coordinates in a box. -/
def boxIndex : List Nat → List Nat → Nat
  | e :: es, x :: xs => x + e * boxIndex es xs
  | _, _ => 0

/-- The coordinates in the tensor of stream index i of the shard of part number q. -/
def shardCoords (d : List Byte) (q i : Nat) : List Nat :=
  let loc := boxCoords (shardDims d q) i
  (Ly.dims d).map fun k =>
    partIndex (Ly.ext d k) (Ly.parts d k) (Ly.partOf d q k) (Ly.repl d k) (loc.getD k 0)

/-- The source part that holds an element, and its stream index there (R257). -/
def sourceOf (d : List Byte) (xs : List Nat) : Nat × Nat :=
  let hs := (Ly.dims d).map fun k => partHolding (Ly.ext d k) (Ly.parts d k) (xs.getD k 0)
  let q := ((Ly.split d).map fun k => (hs.getD k (0, 0)).1 * Ly.radix d (Ly.ord d k)).sum
  (q, boxIndex (shardDims d q) (hs.map (·.2)))

/-! ### Storage of a shard (R255) -/

/-- The matrices of a box under `SCL` 3: rows of dimension 0, as many as dimension 1 has. -/
def boxGrid (ds : List Nat) : Grid := ⟨ds.getD 0 1, ds.getD 0 1 * ds.getD 1 1, 0⟩

/-- Memory tiles of one matrix. -/
def matTiles (f : Nat) (ds : List Nat) : Nat := (boxGrid ds).tilesBefore f (boxGrid ds).count

/-- The number of matrices. -/
def matCount (ds : List Nat) : Nat := boxCount (ds.drop 2)

/-- Memory tiles that a shard spans. -/
def boxTiles (f scl : Nat) (ds : List Nat) : Nat :=
  let n := cdiv (boxCount ds) (elemsPerTile f)
  if scl = 3 then matCount ds * matTiles f ds
  else if scl = 1 ∨ scl = 2 then cdiv n (scaleGeom f scl).1 * 16
  else n

/-- Tile, and place in it, of stream index i of a shard. -/
def boxPlace (f scl : Nat) (ds : List Nat) (i : Nat) : Nat × Nat :=
  if scl = 3 then
    let g := boxGrid ds
    let r := elemPlace f 3 0 g (i % max 1 g.n)
    (i / max 1 g.n * matTiles f ds + r.1, r.2)
  else elemPlace f scl 0 ⟨0, 0, 0⟩ i

/-- The scale tile of a memory tile of a matrix, and the memory tiles before it. -/
def scaleTileOf (f : Nat) (g : Grid) (r : Nat) : Nat × Nat :=
  let t := ((List.range g.count).find? fun t => decide (r < g.tilesBefore f (t + 1))).getD 0
  (t, g.tilesBefore f t)

/-- The stream indices that share a block scale with tile t of a shard under `SCL` 3: those of its scale
tile. -/
def scaleTileElems (f : Nat) (ds : List Nat) (t : Nat) : List Nat :=
  let g := boxGrid ds
  let per := max 1 (matTiles f ds)
  (g.elems (scaleTileOf f g (t % per)).1).map fun i => t / per * g.n + i

/-- The stream indices of the elements of tile t of a destination shard. -/
def tileElems (f scl : Nat) (ds : List Nat) (t : Nat) : List Nat :=
  let et := elemsPerTile f
  if scl = 3 then
    let g := boxGrid ds
    let per := max 1 (matTiles f ds)
    let s := scaleTileOf f g (t % per)
    ((scaleTileElems f ds t).drop ((t % per - s.2) * et)).take et
  else ((List.range et).map fun j => t * et + j).filter fun i => decide (i < boxCount ds)

/-! ### Tensor entries and plan headers (Tables 11-3 and 11-4) -/

namespace Te
def saddr (t : List Byte) : Nat := leAt t 0 8
def daddr (t : List Byte) : Nat := leAt t 8 8
def dgaddr (t : List Byte) : Nat := leAt t 0x10 8
def sts (t : List Byte) : Nat := leAt t 0x18 4
def dts (t : List Byte) : Nat := leAt t 0x1C 4
def tfmt (t : List Byte) : Nat := leAt t 0x20 2
def iovf (t : List Byte) : Bool := nfld (tfmt t) 14 14 == 1
def dscl (t : List Byte) : Nat := nfld (tfmt t) 13 12
def dfmt (t : List Byte) : Nat := nfld (tfmt t) 11 8
def sscl (t : List Byte) : Nat := nfld (tfmt t) 5 4
def sfmt (t : List Byte) : Nat := nfld (tfmt t) 3 0
def slay (t : List Byte) : List Byte := slice t 0x40 64
def dlay (t : List Byte) : List Byte := slice t 0x80 64
/-- A bit-exact copy (R90). -/
def exact (t : List Byte) : Bool := sfmt t == dfmt t && sscl t == dscl t && sts t == dts t
end Te

namespace Ph
def planid (h : List Byte) : Nat := leAt h 0 4
def job (h : List Byte) : Nat := leAt h 4 4
def mlist (h : List Byte) : Nat := leAt h 8 8
def nmem (h : List Byte) : Nat := leAt h 0x10 4
def ntens (h : List Byte) : Nat := leAt h 0x14 4
def tlist (h : List Byte) : Nat := leAt h 0x18 8
def pmode (h : List Byte) : Nat := leAt h 0x20 1
def base (h : List Byte) : Bool := nfld (pmode h) 5 5 == 1
def digest (h : List Byte) : Bool := nfld (pmode h) 4 4 == 1
def dpause (h : List Byte) : Bool := nfld (pmode h) 3 3 == 1
def drain (h : List Byte) : Bool := nfld (pmode h) 2 2 == 1
def qc (h : List Byte) : Bool := nfld (pmode h) 1 1 == 1
def newlay (h : List Byte) : Bool := nfld (pmode h) 0 0 == 1
def tgix (h : List Byte) : Nat := leAt h 0x21 1 % 64
def swlead (h : List Byte) : Nat := leAt h 0x22 1
def pdl (h : List Byte) : Nat := leAt h 0x24 2
def sepoch (h : List Byte) : Nat := leAt h 0x26 2
end Ph

/-- The source parts that tile t of rank part q draws on, and with `DSCL` 3 its whole scale tile. -/
def tileParts (te : List Byte) (q t : Nat) : List Nat :=
  let ds := shardDims (Te.dlay te) q
  let es := if Te.dscl te = 3 then scaleTileElems (Te.dfmt te) ds t else tileElems (Te.dfmt te) (Te.dscl te) ds t
  (es.map fun i => (sourceOf (Te.slay te) (shardCoords (Te.dlay te) q i)).1).eraseDups

/-- The tiles of a destination shard that hold elements. -/
def destTiles (te : List Byte) (q : Nat) : List Nat :=
  List.range (boxTiles (Te.dfmt te) (Te.dscl te) (shardDims (Te.dlay te) q))

/-! ### Validation (R256) -/

/-- Reserved fields, bits and values of the header, and `SWLEAD` (R256). -/
def headerClean (h : List Byte) : Bool :=
  decide (1 ≤ Ph.nmem h ∧ Ph.nmem h ≤ 65536) && decide (1 ≤ Ph.ntens h ∧ Ph.ntens h ≤ 65536)
  && Ph.mlist h % 16 == 0 && Ph.tlist h % 64 == 0 && nfld (Ph.pmode h) 7 6 == 0 && leAt h 0x21 1 / 64 == 0
  && Ph.swlead h != 0 && leAt h 0x23 1 == 0 && Ph.pdl h != 0 && (slice h 0x28 24).all (· == 0)

/-- Reserved fields, bits and values of a tensor entry. -/
def tensorClean (dig : Bool) (t : List Byte) : Bool :=
  nfld (Te.tfmt t) 15 15 == 0 && nfld (Te.tfmt t) 7 6 == 0 && (slice t 0x22 30).all (· == 0)
  && Te.saddr t % boltSize == 0 && Te.daddr t % boltSize == 0 && (!dig || Te.dgaddr t % 64 == 0)
  && decide (Te.sfmt t ≤ 0xD) && decide (Te.dfmt t ≤ 0xD) && Ly.clean (Te.slay t) && Ly.clean (Te.dlay t)

/-- The two layouts of a tensor (R256). -/
def tensorLayouts (nmem : Nat) (t : List Byte) : Bool :=
  let s := Te.slay t
  let d := Te.dlay t
  Ly.ndim s == Ly.ndim d && ((Ly.dims s).all fun k => Ly.ext s k == Ly.ext d k)
  && decide (Ly.rbase s + Ly.rcnt s ≤ nmem) && decide (Ly.rbase d + Ly.rcnt d ≤ nmem)
  && ((Ly.dims s).all fun k => decide (Ly.parts s k ≤ Ly.ext s k ∧ Ly.parts d k ≤ Ly.ext d k))
  && Ly.rule253 s && Ly.rule253 d && (Ly.dims s).all fun k => !Ly.repl s k

/-- The formats of a tensor (R256). -/
def tensorFormats (t : List Byte) : Bool :=
  Te.dscl t != 1 && Te.dscl t != 2 && comboOk (Te.sfmt t) (Te.sscl t) && comboOk (Te.dfmt t) (Te.dscl t)
  && (Te.exact t || (!isCodebook (Te.sfmt t) && !isCodebook (Te.dfmt t)))

/-- Every tile of every destination shard draws on one source part, and no shard is too long (R256). -/
def tensorTiles (t : List Byte) : Bool :=
  let d := Te.dlay t
  (List.range (Ly.count d)).all fun q =>
    decide ((destTiles t q).length ≤ 2 ^ 20) && (destTiles t q).all fun i => decide ((tileParts t q i).length ≤ 1)

/-- Tiles in whole bolts, as bytes. -/
def tilesSpan (n : Nat) : Nat := n * 4096

/-- Source and destination ranges of a tensor on rank r, as (address, bytes) from where `slot` says that
destination offsets count. -/
def tensorRanges (t : List Byte) (r from_ : Nat) : Option (Nat × Nat) × Option (Nat × Nat) :=
  let s := Te.slay t
  let d := Te.dlay t
  let src := if Ly.has s r then
      some (Te.saddr t, tilesSpan (boxTiles (Te.sfmt t) (Te.sscl t) (shardDims s (r - Ly.rbase s)))) else none
  let dst := if Ly.has d r then
      some (from_ + Te.daddr t, tilesSpan (boxTiles (Te.dfmt t) (Te.dscl t) (shardDims d (r - Ly.rbase d)))) else none
  (src, dst)

/-- Whether two ranges overlap. -/
def rangesMeet : Option (Nat × Nat) → Option (Nat × Nat) → Bool
  | some a, some b => decide (a.1 < b.1 + b.2 ∧ b.1 < a.1 + a.2)
  | _, _ => false

/-- Whether a range lies within another. -/
def rangeWithin (a : Option (Nat × Nat)) (lo n : Nat) : Bool :=
  match a with
  | some r => decide (lo ≤ r.1 ∧ r.1 + r.2 ≤ lo + n)
  | none => true

end Sys2Proof.Machine
end

