-- ==== Sys2Proof/Machine/Tailor.lean ====
section
/-! DEFINITION. The Tailor (R248-R265, R271): plans, transfers, commit, layouts. -/

namespace Sys2Proof.Machine

/-! ### States and small parts -/

/-- `PSTATE`: 0 IDLE, 1 WAITING, 2 RUNNING, 3 SEALED, 4 COMMITTED (Table 11-8). -/
def pstate (s : State) (p : Nat) : Nat := reg s p R.tpCtl 23 20

def planOf? (s : State) (p : Nat) : Option Plan := (partOf s p).tailor.plan

/-- The plan replaced. -/
def putPlan (s : State) (p : Nat) (pl : Option Plan) : State :=
  onPart s p fun x => { x with tailor := { x.tailor with plan := pl } }

/-- The plan changed. -/
def onPlan (s : State) (p : Nat) (f : Plan → Plan) : State :=
  onPart s p fun x => { x with tailor := { x.tailor with plan := x.tailor.plan.map f } }

/-- `CTRL` codes, Table 11-7. -/
def tPull : Nat := 1
def tDone : Nat := 2
def tAllDone : Nat := 3
def tCommit : Nat := 4
def tFail : Nat := 5

/-- A CTRL payload (Table 11-7). -/
def ctrlBytes (code tst : Nat) (planid : BitVec 32) (phash : BitVec 128) (first count swseam : Nat)
    (dgst : BitVec 384) : List Byte :=
  toLE 1 code ++ toLE 1 tst ++ toLE 2 0 ++ toLE 4 planid.toNat ++ toLE 16 phash.toNat ++ toLE 4 first
    ++ toLE 4 count ++ toLE 4 swseam ++ zeros 12 ++ toLE 48 dgst.toNat

/-- A message on a plan's group slot (R258). -/
def planMsg (gix : Nat) (job : JobId) (epoch : Epoch) (dst : DevId) (ckind tensor idx : Nat) (payload collar : List Byte) : Msg :=
  { blankMsg Mt.coll job dst (collAddr gix (tensor % 65536) ckind idx) with
    epoch := epoch, payload := payload, len := payload.length, collar := collar, col := collar != [] }

/-- A CTRL message leaves, or waits for a tag. -/
def sendCtrl (s : State) (p gix : Nat) (kind : ReqKind) (m : Msg) : State :=
  let ports := ((partOf s p).group gix).ports
  sendWaiting s ports (issueDie s ports m.dst) p 0 kind m

/-- The device of a rank. -/
def memberDev (pl : Plan) (r : Nat) : DevId := pl.members.getD r 0

/-- A CTRL message of the plan to a rank. -/
def planCtrl (s : State) (p : Nat) (pl : Plan) (code tst tensor to_ first count : Nat) (dgst : BitVec 384) : State :=
  let g := Ph.tgix pl.header
  sendCtrl s p g (.plan p pl.planid pl.phash code tensor to_)
    (planMsg g pl.job pl.epoch (memberDev pl to_) 0 tensor 0 (ctrlBytes code tst pl.planid pl.phash first count 0 dgst) [])

/-- Whether the member holds a destination rank of a tensor. -/
def holdsDest (pl : Plan) (te : List Byte) : Bool := Ly.has (Te.dlay te) pl.rank

/-- Whether the member holds a source rank of some tensor. -/
def holdsSource (pl : Plan) : Bool := pl.tensors.any fun te => Ly.has (Te.slay te) pl.rank

/-- The weight slot that a plan with `QC` loads: with `DRAIN` the ACTIVE one; else A when both are FREE,
or the FREE one; none while it must wait (R266, R269). -/
def slotToLoad (x : Partition) : Option Nat := slotIn x Ws.free

/-- The slot against which destinations are checked when a plan is submitted. -/
def slotMeant (x : Partition) (h : List Byte) : Nat :=
  if Ph.drain h then (activeSlot x).getD ((slotToLoad x).getD 0)
  else (slotToLoad x).getD (match activeSlot x with | some a => 1 - a | none => 0)

/-- Address and bytes of the range that destination offsets count in (Table 11-4). -/
def destRange (x : Partition) (h : List Byte) (slot : Nat) : Nat × Nat :=
  if Ph.qc h then wsRange x slot
  else if Ph.base h then baseRange x
  else (0, boltBase + x.vbolts * boltSize)

/-! ### Layout slots (R248-R250) -/

/-- `LSTATE` of a layout slot (Table 11-1). -/
def lstate (x : Partition) (i : Nat) : Nat := x.get (R.tlLay i) 19 18

/-- A FREE layout slot. -/
def freeLayout (x : Partition) : Option Nat := [0, 1].find? fun i => lstate x i == 0

/-- ESET: `LAST` is set while both layout slots are FREE (R249). -/
def execEset (p : Nat) (val : Word) (s : State) : Host.Outcome State Fault Refusal :=
  guarded (.eset p val)
    (when_ ((partOf s p).ptstate == 1 && lstate (partOf s p) 0 == 0 && lstate (partOf s p) 1 == 0) s
      (putReg s p R.tlEpoch 15 0 (fld val 15 0)))

/-- SSET: `STEP` takes the value at the next seam (Table 11-12). -/
def execSset (p : Nat) (val : Word) (s : State) : Host.Outcome State Fault Refusal :=
  guarded (.sset p val)
    (when_ ((partOf s p).ptstate == 1) s
      (onPart s p fun x => { x with tailor := { x.tailor with sset := some (BitVec.ofNat 32 (fld val 31 0)) } }))

/-- LAYOUT_RELEASE: a RESIDENT slot drains; the LOADED group slots of its `GMASK` are cleared (R250). -/
def layoutRelease (s : State) (p i : Nat) : State :=
  let x := partOf s p
  if x.ptstate != 1 then s
  else if lstate x i != 2 then putReg s p (R.tlLay i) 31 24 Status.busy
  else
    let s1 := putReg (putReg s p (R.tlLay i) 19 18 3) p (R.tlLay i) 31 24 Status.ok
    let gs := (List.range 64).filter fun g => bit (x.reg (R.tlLgm i)) g && (x.group g).st == 1
    let s2 := gs.foldl (fun t g => drainGroup (putGroup t p g { (partOf t p).group g with st := 2 }) p g) s1
    layoutDrain s2 p i

def execLayoutRelease (p slot : Nat) (s : State) : Host.Outcome State Fault Refusal :=
  guarded (.layoutRelease p slot) (layoutRelease s p slot)

/-! ### Validation (R256) -/

/-- The plan as it stands in memory, read once (R252), and whether the lengths let it be read whole. -/
def readPlan (s : State) (p : Nat) : Plan × State :=
  let a := (partOf s p).get R.tpAddr 63 6 * 64
  let h := devRead s p a 64
  let nm := Ph.nmem h.1 % 2 ^ 17
  let nt := Ph.ntens h.1 % 2 ^ 17
  let ml := devRead h.2 p (Ph.mlist h.1) (4 * nm)
  let tl := devRead ml.2 p (Ph.tlist h.1) (192 * nt)
  let dig := Config.sha384 (h.1 ++ ml.1 ++ tl.1)
  let ids := (List.range nm).map fun i => leAt ml.1 (4 * i) 4
  let x := partOf tl.2 p
  ({ planid := BitVec.ofNat 32 (Ph.planid h.1), phash := BitVec.ofNat 128 (fld dig 127 0)
     job := BitVec.ofNat 32 (Ph.job h.1), members := ids.map (BitVec.ofNat 18)
     rank := (ids.idxOf? (ownId s).toNat).getD nm, header := h.1
     tensors := (List.range nt).map fun i => slice tl.1 (192 * i) 192
     epoch := BitVec.ofNat 16 (if Ph.newlay h.1 then x.get R.tlEpoch 15 0 + 1 else Ph.sepoch h.1)
     layout := none, slot := none, xfers := [], sends := [], doneBy := [], swseam := 0 }, tl.2)

/-- Whether the member list is clean and names this module exactly once. -/
def membersOk (s : State) (p : Nat) (pl : Plan) : Bool :=
  let nm := pl.members.length
  let raw := (devRead s p (Ph.mlist pl.header) (4 * nm)).1
  (List.range nm).all (fun i => decide (leAt raw (4 * i) 4 < 2 ^ 18))
    && (pl.members.filter (· == ownId s)).length == 1

/-- The ranges of a plan: on this module inside what holds them, on no module source over destination. -/
def rangesOk (x : Partition) (pl : Plan) : Bool :=
  let dr := destRange x pl.header (slotMeant x pl.header)
  let lo := if Ph.qc pl.header || Ph.base pl.header then dr.1 else boltBase
  let len := if Ph.qc pl.header || Ph.base pl.header then dr.2 else x.vbolts * boltSize
  let from_ := if Ph.qc pl.header || Ph.base pl.header then dr.1 else 0
  let at_ := fun r te => tensorRanges te r from_
  (pl.tensors.all fun te =>
    rangeWithin (at_ pl.rank te).1 boltBase (x.vbolts * boltSize)
    && rangeWithin (at_ pl.rank te).2 lo len
    && rangeWithin (at_ pl.rank te).2 boltBase (x.vbolts * boltSize))
  && (List.range pl.members.length).all fun r =>
    pl.tensors.all fun a => pl.tensors.all fun b => !rangesMeet (at_ r a).1 (at_ r b).2

/-- The end of validation: none when the plan is valid (R256). -/
def planRefused (s : State) (p : Nat) (pl : Plan) : Option Nat :=
  let x := partOf s p
  let h := pl.header
  let g := x.group (Ph.tgix h)
  let modes := (!(Ph.drain h || Ph.dpause h) || Ph.qc h) && (!Ph.dpause h || Ph.drain h) && !(Ph.qc h && Ph.base h)
  let ok := headerClean h && (pl.tensors.all fun t => tensorClean (Ph.digest h) t)
    && Ph.job h == x.get R.tlJob 31 0 && (partKey x pl.job).isSome && membersOk s p pl && modes
    && (pl.tensors.all fun t => tensorLayouts pl.members.length t && tensorFormats t
      && (Te.exact t || positiveNormal (Te.dts t)) && tensorTiles t)
    && rangesOk x pl
  let epochs := (!holdsSource pl || [0, 1].any fun i => lstate x i == 2 && x.get (R.tlLay i) 15 0 == Ph.sepoch h)
    && g.st == 1 && g.job == pl.job && g.epoch == pl.epoch
  if !ok then some Status.notRun else if !epochs then some Status.epochMismatch else none

/-! ### Building tiles (R260) -/

/-- A source tile as the Tailor reads it, and its scale tile's bytes under `SCL` 1 and 2. -/
def sourceElem (x : Partition) (te : List Byte) (part i : Nat) : Elem :=
  let f := Te.sfmt te
  let scl := Te.sscl te
  let base := (Te.saddr te - boltBase) / 4096
  let pl := boxPlace f scl (shardDims (Te.slay te) part) i
  let t := base + pl.1
  let v := viewTile (tileBytes x t) (tileCollar x t) f scl
  let code := elemAt v.payload (fmtWidth f) pl.2
  let sp := scalePlace f scl base i
  let w := viewTile (tileBytes x sp.1) (tileCollar x sp.1) f scl
  let blk := scl == 1 || scl == 2
  let sc := if blk then leAt w.payload sp.2 1 else if scl = 3 then v.collar.bscale else 0
  { code := code, val := sourceValue f scl (ofFp32 (Te.sts te)) [] code sc v.over, scale := sc, ovr := v.over
    pois := bit v.tags 0 || (blk && bit w.tags 0) || !x.keyed, sat := bit v.tags 1, aud := bit v.tags 2 }

/-- The tiles that elements of a source shard stand in. -/
def sourceTiles (te : List Byte) (part : Nat) (is : List Nat) : List Nat :=
  let f := Te.sfmt te
  let scl := Te.sscl te
  let base := (Te.saddr te - boltBase) / 4096
  let ds := shardDims (Te.slay te) part
  ((is.map fun i => base + (boxPlace f scl ds i).1)
    ++ (if scl = 1 ∨ scl = 2 then is.map fun i => (scalePlace f scl base i).1 else [])).eraseDups

/-- Destination tile `t` of part number `q`, as the sender builds it (R260); none is NO_MEMORY. -/
def buildTile (s : State) (p : Nat) (te : List Byte) (q t : Nat) : Option (List Byte × Collar × State) :=
  let ds := shardDims (Te.dlay te) q
  let f := Te.dfmt te
  let scl := Te.dscl te
  let src := fun i => sourceOf (Te.slay te) (shardCoords (Te.dlay te) q i)
  let es := (tileElems f scl ds t).map src
  let wide := if scl = 3 then (scaleTileElems f ds t).map src else es
  let part := (es.head?.map (·.1)).getD 0
  let tiles := sourceTiles te part (wide.map (·.2))
  match readyAll fetchNow s p (tiles.map (· / 16)).eraseDups with
  | none => none
  | some s0 =>
    let y := partOf s0 p
    let s1 := tiles.foldl (fun a i => if (viewTile (tileBytes y i) (tileCollar y i) (Te.sfmt te) (Te.sscl te)).bad
      then tileFailed a p i else a) (touchTiles s0 p tiles)
    let el := fun e : Nat × Nat => sourceElem y te e.1 e.2
    let xs := es.map el
    let ws := wide.map el
    let o := (xs.head?.map (·.ovr)).getD 0
    let sc := (xs.head?.map (·.scale)).getD 0
    let same := xs.all fun e => e.ovr == o
    let sames := scl != 3 || ws.all fun e => e.scale == sc && e.ovr == o
    let pois := xs.any (·.pois) || (scl == 3 && ws.any (·.pois))
    let sat := xs.any (·.sat)
    let aud := xs.any (·.aud)
    let tv := viewTile (tileBytes y (tiles.headD 0)) (tileCollar y (tiles.headD 0)) (Te.sfmt te) (Te.sscl te)
    if Te.exact te && same && sames then
      let pay := tilePayload f (xs.map (·.code))
      some (pay, mkCollar (crc32c pay) f scl o (decide (o ≠ 0)) sat aud pois false
        (if isCodebook f then tv.collar.cbi else 0) (if isCodebook f then tv.collar.bind else 0)
        (if scl = 3 then sc else 0) (nelemOf f xs.length), s1)
    else
      let tsc := ofFp32 (Te.dts te)
      let vals := xs.map (·.val)
      let scs := storeScales f scl tsc (amaxOf (ws.map (·.val))) vals
      let pk := stage6 f scl (Te.iovf te) tsc (fun _ => []) (tileBlk scl) scs vals
      let pay := tilePayload f pk.codes
      some (pay, mkCollar (crc32c pay) f scl 0 false sat aud (pois || pk.bads != []) false 0 0
        (if scl = 3 then pk.scales.headD 0 else 0) (nelemOf f xs.length), s1)

/-- Where tile `t` of this member's destination shard of a tensor stands, as a tile of the bolt range. -/
def destTile (x : Partition) (pl : Plan) (te : List Byte) (t : Nat) : Nat :=
  let from_ := if Ph.qc pl.header || Ph.base pl.header then (destRange x pl.header (pl.slot.getD 0)).1 else 0
  (from_ + Te.daddr te - boltBase) / 4096 + t

/-! ### The end of a plan (R263, R265) -/

/-- An outcome of rank 0 goes to the member of rank `e.1` on device `e.2`. -/
def sendTold (s : State) (p : Nat) (t : Told) (e : Nat × DevId) : State :=
  sendCtrl s p t.gix (.plan p t.planid t.phash t.code 0 e.1)
    (planMsg t.gix t.job t.epoch e.2 0 0 0 (ctrlBytes t.code t.status t.planid t.phash 0 0 t.swseam.toNat 0) [])

/-- Announces an outcome of rank 0 to every other member, and keeps it until they have acknowledged it
(R263). -/
def tellAll (s : State) (p : Nat) (pl : Plan) (code status : Nat) (swseam : BitVec 32) : State :=
  let left := (pl.members.zipIdx.filter fun e => e.2 != pl.rank).map fun e => (e.2, e.1)
  let t : Told :=
    { planid := pl.planid, phash := pl.phash, job := pl.job, gix := Ph.tgix pl.header, epoch := pl.epoch
      code := code, status := status, swseam := swseam, left := left }
  let s1 := onPart s p fun x => { x with tailor := { x.tailor with told := x.tailor.told ++ [t] } }
  left.foldl (fun a e => sendTold a p t e) s1

/-- The reservations of a plan that does not commit are undone (R265). -/
def undoPlan (x : Partition) (pl : Plan) : Partition :=
  let y := match pl.layout with
    | some i => if lstate x i = 1 then x.put (R.tlLay i) 19 18 0 else x
    | none => x
  match pl.slot with
  | some i => if wstate y i = Ws.loading then setWstate y i Ws.free else y
  | none => y

/-- A plan ends without commit: `PSTAT`, IDLE, the Tailor vector. -/
def planEnd (s : State) (p status : Nat) : State :=
  match planOf? s p with
  | none => s
  | some pl =>
    let freed := match pl.layout with
      | some i => lstate (partOf s p) i == 1
      | none => false
    let s1 := onPart s p fun x =>
      ((undoPlan { x with tailor := { x.tailor with plan := none } } pl).put R.tpCtl 31 24 status).put R.tpCtl 23 20 0
    if freed then msix (msix s1 p 2) p 2 else msix s1 p 2

/-- A member's own failure, deadline or abort: FAIL goes to rank 0, or from rank 0 to every member. -/
def planFail (s : State) (p status : Nat) : State :=
  match planOf? s p with
  | none => s
  | some pl =>
    let s1 := if pl.rank = 0 then tellAll s p pl tFail status 0
      else planCtrl s p pl tFail status 0 0 0 0 0
    planEnd s1 p status

/-- The digest records of a committed plan (R271). -/
def writeDigests (s : State) (p : Nat) (pl : Plan) (gen : Nat) : State :=
  if !Ph.digest pl.header then s
  else pl.tensors.zipIdx.foldl (fun a e =>
    if holdsDest pl e.1 then
      let q := pl.rank - Ly.rbase (Te.dlay e.1)
      let n := (destTiles e.1 q).length
      let base := destTile (partOf a p) pl e.1 0
      let d := tilesDigest (partOf a p) base (List.range n)
      let rec_ := toLE 48 d.toNat ++ toLE 4 pl.planid.toNat ++ toLE 4 n ++ toLE 2 gen ++ toLE 2 e.2 ++ [1, 0, 0, 0]
      let a1 := devWriteBy (Ph.base pl.header) a p (Te.dgaddr e.1) rec_
      if Ph.qc pl.header || Ph.base pl.header then
        onPart a1 p fun x => { x with tailor := { x.tailor with
          records := (x.tailor.records.filter fun r => r.addr != Te.dgaddr e.1)
            ++ [⟨Te.dgaddr e.1, base, if Ph.qc pl.header then pl.slot else none⟩] } }
      else a1
    else a) s

/-- A member commits (R264): the layout is RESIDENT, the weight slot READY with the next generation. -/
def planCommit (s : State) (p : Nat) (swseam : BitVec 32) : State :=
  match planOf? s p with
  | none => s
  | some pl =>
    let s1 := match pl.layout with
      | some i => putReg s p (R.tlLay i) 19 18 2
      | none => s
    let s2 := if Ph.newlay pl.header then putReg s1 p R.tlEpoch 15 0 pl.epoch.toNat else s1
    let gen := (reg s2 p R.qcGen 15 0 + 1) % 65536
    let s3 := match pl.slot with
      | some i =>
        checkAdapters (putReg (onPart s2 p fun x =>
          setWstate (x.put (R.wsStat i) 15 0 gen) i Ws.ready) p R.qcGen 15 0 gen) p i
      | none => s2
    let s4 := writeDigests s3 p pl (if pl.slot.isSome then gen else 0)
    let s5 := putReg s4 p R.tpCtl 31 24 Status.ok
    let s6 := if Ph.qc pl.header then
        onPlan (putReg s5 p R.tpCtl 23 20 4) p fun q => { q with swseam := swseam }
      else putPlan (putReg s5 p R.tpCtl 23 20 0) p none
    msix s6 p 2

/-- IO-A's counter in ns. -/
def ioaNow (s : State) : Nat := (sget 0 s.dieCtr 4).toNat

/-- `SWSEAM` as rank 0 sets it (R264). -/
def chooseSeam (s : State) (p : Nat) (pl : Plan) : BitVec 32 :=
  let near := match (partOf s p).seam.planned with
    | some t => decide (t < ioaNow s + 100000)
    | none => false
  BitVec.ofNat 32 (reg s p R.tlStep 31 0 + Ph.swlead pl.header + b2n near)

/-- Rank 0 commits once it holds DONE from every member (R263). -/
def planAgreed (s : State) (p : Nat) : State :=
  match planOf? s p with
  | none => s
  | some pl =>
    if pl.rank = 0 && pstate s p == 3 && (List.range pl.members.length).all fun r => pl.doneBy.contains r then
      let w := chooseSeam s p pl
      planCommit (tellAll s p pl tCommit 0 w) p w
    else s

/-- Every shard of the member is complete: DONE goes to rank 0 and the plan is SEALED (R263). -/
def planSeal (s : State) (p : Nat) : State :=
  match planOf? s p with
  | none => s
  | some pl =>
    if pstate s p = 2 && pl.xfers.all (·.closed) then
      let s1 := putReg s p R.tpCtl 23 20 3
      if pl.rank = 0 then planAgreed (onPlan s1 p fun q => { q with doneBy := q.doneBy ++ [0] }) p
      else planCtrl s1 p pl tAllDone 0 0 0 0 0 0
    else s

/-! ### Sending (R259-R261) -/

/-- Sends the DATA of one PULL as far as tags allow: the send, and whether memory failed it. -/
def sendTiles (p : Nat) (pl : Plan) : Nat → State → PlanSend → State × PlanSend × Bool
  | 0, s, w => (s, w, false)
  | fuel + 1, s, w =>
    match w.queue with
    | [] => (s, w, false)
    | t :: ts =>
      let te := pl.tensors.getD w.tensor []
      match buildTile s p te (w.puller - Ly.rbase (Te.dlay te)) t with
      | none => (s, w, true)
      | some (pay, c, s1) =>
        let g := Ph.tgix pl.header
        let r := sendRequest s1 ((partOf s1 p).group g).ports p 0 (.planData p pl.planid pl.phash w.tensor w.puller)
          (planMsg g pl.job pl.epoch (memberDev pl w.puller) 1 w.tensor t pay (collarBytes c))
        if r.2 then
          sendTiles p pl fuel r.1 { w with
            queue := ts, out := w.out + 1
            dig := if Ph.digest pl.header then w.dig ++ digestPart t pay c else w.dig }
        else (s, w, false)

/-- TDONE ends a send whose DATA have all been answered (R261). -/
def sendTdone (s : State) (p : Nat) (pl : Plan) (w : PlanSend) : State :=
  planCtrl s p pl tDone 0 w.tensor w.puller 0 w.tiles.length
    (if Ph.digest pl.header then Config.sha384 w.dig else 0)

/-- Serves the PULLs while the plan is RUNNING or SEALED (R262). -/
def pumpSends (s : State) (p : Nat) : State :=
  match planOf? s p with
  | none => s
  | some pl =>
    if pstate s p != 2 && pstate s p != 3 then s
    else
      let step := fun (acc : State × List PlanSend × Bool) (w : PlanSend) =>
        if acc.2.2 then acc
        else
          let r := sendTiles p pl (w.queue.length + 1) acc.1 w
          if r.2.1.queue = [] ∧ r.2.1.out = 0 then (sendTdone r.1 p pl r.2.1, acc.2.1, r.2.2)
          else (r.1, acc.2.1 ++ [r.2.1], r.2.2)
      let r := pl.sends.foldl step (s, [], false)
      if r.2.2 then planFail s p Status.noMemory
      else onPlan r.1 p fun q => { q with sends := r.2.1 }

/-- Whether this member's plan is the one that a message was sent for. -/
def planIs (s : State) (p : Nat) (planid : BitVec 32) (phash : BitVec 128) : Bool :=
  (planOf? s p).any fun pl => pl.planid == planid && pl.phash == phash

/-- A DATA was answered, or came to no answer (R261). -/
def planDataEnd (s : State) (p : Nat) (planid : BitVec 32) (phash : BitVec 128) (tensor rank : Nat) : State :=
  if !planIs s p planid phash then s else
  let step := fun (acc : List PlanSend × Bool) (w : PlanSend) =>
    if !acc.2 && w.tensor == tensor && w.puller == rank && 0 < w.out then (acc.1 ++ [{ w with out := w.out - 1 }], true)
    else (acc.1 ++ [w], acc.2)
  pumpSends (onPlan s p fun q => { q with sends := (q.sends.foldl step ([], false)).1 }) p

/-! ### Receiving -/

/-- Transfer `i` changed. -/
def onXfer (s : State) (p i : Nat) (f : Xfer → Xfer) : State :=
  onPlan s p fun q => { q with xfers := q.xfers.modify i f }

/-- Maximal runs of wanted tiles in a list, as (first, count) in tile numbers. -/
def wantedRuns (wanted : Nat → Bool) : List Nat → List (Nat × Nat)
  | [] => []
  | t :: ts =>
    let rest := wantedRuns wanted ts
    if !wanted t then rest
    else
      match rest, ts.head? with
      | (a, n) :: more, some u => if a = u ∧ wanted u then (t, a + n - t) :: more else (t, 1) :: (a, n) :: more
      | l, _ => (t, 1) :: l

/-- A tile is written at its destination, or there is no memory for it (R260). Only a plan with `BASE` writes the base range
(R273). -/
def storeDest (s : State) (p : Nat) (pl : Plan) (te : List Byte) (t : Nat) (pay : List Byte) (c : Collar) : Option State :=
  let x := partOf s p
  let a := destTile x pl te t
  if !Ph.base pl.header && inBase x (boltBase + 4096 * a) then some (violation s p)
  else (engineReady s p (a / 16)).map fun t => onPart t p fun y => putTile y a pay c

/-- A transfer from this module to itself moves its wanted tiles through the memory-side cache (R257). -/
def moveOwn (s : State) (p i : Nat) (pl : Plan) (x : Xfer) : Option State :=
  let te := pl.tensors.getD x.tensor []
  let q := pl.rank - Ly.rbase (Te.dlay te)
  (x.missing.foldl (fun (acc : Option State) t =>
    acc.bind fun a => (buildTile a p te q t).bind fun b =>
      (storeDest b.2.2 p pl te t b.1 b.2.1).map fun a1 =>
        onXfer a1 p i fun y => { y with
          missing := y.missing.erase t
          bad := if b.2.1.poison then y.bad ++ [t] else y.bad }) (some s))

/-- One PULL for a run (R259). -/
def sendPull (s : State) (p : Nat) (pl : Plan) (x : Xfer) (first count : Nat) : State :=
  planCtrl s p pl tPull 0 x.tensor x.src first count 0

/-- Asks for what transfer `i` wants from the rank named in it; a first PULL asks for everything owed. -/
def askXfer (s : State) (p i : Nat) (all : Bool) : State :=
  match planOf? s p with
  | none => s
  | some pl =>
    match pl.xfers[i]? with
    | none => s
    | some x =>
      if x.src = pl.rank then
        match moveOwn s p i pl x with
        | some s1 => s1
        | none => planFail s p Status.noMemory
      else
        let runs := if all then [(0, 0)] else wantedRuns (fun t => x.missing.contains t) x.tiles
        let s1 := onXfer s p i fun y => { y with asks := runs.map fun r => ⟨r.1, r.2, false, none⟩ }
        runs.foldl (fun a r => sendPull a p pl x r.1 r.2) s1

/-- The status of a transfer whose every try has failed (R261); `bad` holds what its last try delivered poisoned. Of two that
apply, R8 reports the first. -/
def xferStatus (x : Xfer) : Nat :=
  let l := (if x.digBad then [Status.digestFail] else []) ++ (if x.bad = [] then [] else [Status.poison])
  if l = [] then Status.timeout else worst l

/-- The tiles of a PULL's run. -/
def askTiles (x : Xfer) (a : Ask) : List Nat :=
  if a.count = 0 then x.tiles else x.tiles.filter fun t => decide (a.first ≤ t ∧ t < a.first + a.count)

/-- Whether every tile of a run is in memory. -/
def runHere (x : Xfer) (a : Ask) : Bool := (askTiles x a).all fun t => !x.missing.contains t

/-- What is still wanted: the tiles missing, poisoned or of a failed digest, and those of a run whose digest can no longer
be checked since some of its tiles are pulled again. -/
def stillWanted (x : Xfer) : List Nat :=
  let again := fun t => x.missing.contains t || x.bad.contains t || x.redo.contains t
  let lost := (x.held.filter fun a => (askTiles x a).any fun t => x.bad.contains t || x.redo.contains t).flatMap (askTiles x)
  x.tiles.filter fun t => again t || lost.contains t

/-- The next replica is asked for what is still wanted; without one the plan fails (R261). A transfer
from this module to itself ends at once, so the turns that it may take are bounded by `fuel`. -/
def nextTry (p i : Nat) : Nat → State → State
  | 0, s => s
  | fuel + 1, s =>
    match (planOf? s p).bind fun pl => pl.xfers[i]? with
    | none => s
    | some x =>
      match x.order with
      | [] => planFail s p (xferStatus x)
      | r :: rs =>
        let s1 := onXfer s p i fun y => { y with
          src := r, order := rs
          missing := stillWanted y
          held := y.held.filter fun a => !(askTiles y a).any fun t => y.bad.contains t || y.redo.contains t
          bad := [], redo := [], asks := [], digBad := false }
        let s2 := putReg s1 p R.tpCnt 31 16 (satTo 16 (reg s1 p R.tpCnt 31 16 + 1))
        let s3 := askXfer s2 p i false
        match (planOf? s3 p).bind fun pl => pl.xfers[i]? with
        | none => s3
        | some y =>
          if y.asks != [] then s3
          else if y.missing != [] || y.bad != [] || y.redo != [] then nextTry p i fuel s3
          else if y.held != [] then s3
          else planSeal (onXfer s3 p i fun z => { z with closed := true }) p

/-- A transfer whose PULLs have all ended, after the read-backs that are due: closed when it has everything, else tried again
(R261). -/
def settleXfer (s : State) (p i : Nat) : State :=
  match (planOf? s p).bind fun pl => pl.xfers[i]? with
  | none => s
  | some x =>
    if x.closed || x.asks != [] || x.held.any (runHere x) then s
    else if x.missing != [] || x.bad != [] || x.redo != [] then nextTry p i (x.order.length + 1) s
    else if x.held != [] then s
    else planSeal (onXfer s p i fun z => { z with closed := true }) p

/-- The ranks that a transfer is tried on, the first one first (R257, R261). -/
def tryOrder (te : List Byte) (rank part : Nat) : List Nat :=
  let s := Te.slay te
  let n := Ly.replicas s
  let qd := rank - Ly.rbase (Te.dlay te)
  let at_ := fun k => Ly.rbase s + part + Ly.count s * k
  let own := Ly.has s rank && (rank - Ly.rbase s) % max 1 (Ly.count s) == part
  let first := if own then rank else at_ (qd % max 1 n)
  if n ≤ 1 then [first, first, first]
  else (first :: (List.range n).map fun k => at_ ((qd + k + 1) % n)).eraseDups

/-- The transfers of a member (R257). -/
def planXfers (pl : Plan) : List Xfer :=
  pl.tensors.zipIdx.flatMap fun e =>
    if !holdsDest pl e.1 then []
    else
      let q := pl.rank - Ly.rbase (Te.dlay e.1)
      let own := (destTiles e.1 q).map fun t => (t, (tileParts e.1 q t).headD 0)
      (own.map (·.2)).eraseDups.map fun part =>
        let ts := (own.filter fun o => o.2 == part).map (·.1)
        let order := tryOrder e.1 pl.rank part
        { tensor := e.2, part := part, src := order.headD 0, order := order.drop 1, tiles := ts, missing := ts
          bad := [], redo := [], asks := [], held := [], digBad := false, closed := false }

/-- A plan becomes RUNNING: its slots enter BUILDING and LOADING, and its PULLs go out (R259, R265). -/
def planRun (s : State) (p : Nat) : State :=
  match planOf? s p with
  | none => s
  | some pl =>
    let x := partOf s p
    let lay := if Ph.newlay pl.header then freeLayout x else none
    let slot := if !Ph.qc pl.header then none
      else if Ph.drain pl.header then (activeSlot x).or (slotToLoad x) else slotToLoad x
    let x1 := match lay with
      | some i => (((x.put (R.tlLay i) 19 18 1).put (R.tlLay i) 63 32 pl.planid.toNat).put (R.tlLay i) 15 0 pl.epoch.toNat)
      | none => x
    let x2 := match slot with
      | some i => setWstate x1 i Ws.loading
      | none => x1
    let pl1 := { pl with layout := lay, slot := slot, xfers := planXfers pl }
    let s1 := putReg (putPlan (putPart s p x2) p (some pl1)) p R.tpCtl 23 20 2
    let n := pl1.xfers.length
    let s2 := (List.range n).foldl (fun a i => askXfer a p i true) s1
    let s3 := (List.range n).foldl (fun a i => settleXfer a p i) s2
    planSeal (pumpSends s3 p) p

/-- Whether what a WAITING plan waits for is there; a drain is awaited at a seam (R265, R269). -/
def planFree (x : Partition) (pl : Plan) : Bool :=
  (!Ph.newlay pl.header || (freeLayout x).isSome)
  && (!Ph.qc pl.header || (if Ph.drain pl.header && (activeSlot x).isSome then false else (slotToLoad x).isSome))

/-- PLAN_RESOURCES_FREE (Table 11-8). -/
def execPlanResourcesFree (p : Nat) (s : State) : Host.Outcome State Fault Refusal :=
  guarded (.planResourcesFree p)
    (match planOf? s p with
    | some pl => when_ (pstate s p == 1 && planFree (partOf s p) pl) s (planRun s p)
    | none => s)

/-- What rank 0 heard before its own plan stands ready for it (R263). -/
def planEarly (s : State) (p : Nat) : State :=
  match planOf? s p with
  | none => s
  | some pl =>
    let mine := (partOf s p).tailor.early.filter fun e => e.planid == pl.planid
    let s1 := onPart s p fun x => { x with tailor := { x.tailor with
      early := x.tailor.early.filter fun e => e.planid != pl.planid } }
    if pl.rank != 0 then s1
    else
      let ok := mine.filter fun e => e.phash == pl.phash
      match ok.findSome? (·.status) with
      | some st => planFail s1 p st
      | none =>
        let ranks := ok.filterMap fun e => pl.members.idxOf? e.src
        planAgreed (onPlan s1 p fun q => { q with doneBy := (q.doneBy ++ ranks).eraseDups }) p

/-- SUBMIT: the plan is read and validated; it runs, or waits for what it needs (R252, R265). -/
def planSubmit (s : State) (p : Nat) : State :=
  if (partOf s p).ptstate != 1 then s
  else if pstate s p != 0 then putReg s p R.tpCtl 31 24 Status.busy
  else
    let r := readPlan s p
    let s1 := putReg r.2 p R.tpCtl 63 32 r.1.planid.toNat
    match planRefused s1 p r.1 with
    | some st => msix (putReg s1 p R.tpCtl 31 24 st) p 2
    | none =>
      let late := reg s1 p R.tpCnt 0 0
      let s2 := onPart (putPlan s1 p (some r.1)) p fun x => x.setReg R.tpCnt (BitVec.ofNat 64 late)
      let s3 := putReg s2 p R.tpCtl 23 20 1
      planEarly (if planFree (partOf s3 p) r.1 then planRun s3 p else s3) p

def execSubmit (p : Nat) (s : State) : Host.Outcome State Fault Refusal := guarded (.submit p) (planSubmit s p)

/-- `ASTAT` (R241, R265). -/
def planAstat (s : State) (p status : Nat) : State := putReg s p R.tpCtl 19 12 status

/-- PLAN_ABORT (Table 11-8). -/
def planAbort (s : State) (p : Nat) : State :=
  if (partOf s p).ptstate != 1 then s
  else match pstate s p with
    | 1 | 2 => planFail (planAstat s p Status.ok) p Status.aborted
    | 3 => planAstat s p Status.busy
    | _ => planAstat s p Status.alreadyComplete

def execPlanAbort (p : Nat) (s : State) : Host.Outcome State Fault Refusal := guarded (.planAbort p) (planAbort s p)

/-! ### Messages of a plan (R258-R263) -/

/-- The partition that serves a job (R248). -/
def tailorPart (s : State) (job : JobId) : Option Nat :=
  (List.range 16).find? fun p => (partOf s p).ptstate != 0 && reg s p R.tlJob 31 0 == job.toNat

/-- A COLL of kind `kind` as the Tailor takes it: the slot must be loaded for job and epoch (R214). -/
def takePlan (s : State) (via : Option Nat) (m : Msg) (kind : Nat) (f : State → Nat → Msg → State) : State :=
  if !(m.mtype == Mt.coll && m.dst == ownId s && Ca.kind m == kind) then s
  else match acceptMsg s via m with
    | (none, s0) => s0
    | (some q, s0) =>
      match tailorPart s0 q.job with
      | none => ackColl s0 q Status.epochMismatch
      | some p =>
        let g := (partOf s0 p).group (Ca.gix q)
        if g.st != 0 && g.job == q.job && g.epoch == q.epoch then f s0 p q
        else ackColl (errEvent s0 p 4) q Status.epochMismatch

namespace Ct
def code (m : Msg) : Nat := leAt m.payload 0 1
def tst (m : Msg) : Nat := knownStatus (leAt m.payload 1 1)
def planid (m : Msg) : BitVec 32 := BitVec.ofNat 32 (leAt m.payload 4 4)
def phash (m : Msg) : BitVec 128 := BitVec.ofNat 128 (leAt m.payload 8 16)
def first (m : Msg) : Nat := leAt m.payload 0x18 4
def count (m : Msg) : Nat := leAt m.payload 0x1C 4
def swseam (m : Msg) : BitVec 32 := BitVec.ofNat 32 (leAt m.payload 0x20 4)
def dgst (m : Msg) : BitVec 384 := BitVec.ofNat 384 (leAt m.payload 0x30 48)
def tensor (m : Msg) : Nat := fld m.addr 37 22
end Ct

/-- A CTRL message of one code; a reserved code is discarded, counted and answered NOT_RUN (Table 11-7). -/
def takeCtrl (s : State) (via : Option Nat) (m : Msg) (code : Nat) (f : State → Nat → Msg → State) : State :=
  takePlan s via m 0 fun s0 p q =>
    if q.col then s
    else if Ct.code q = code then f s0 p q
    else if Ct.code q = 0 ∨ 5 < Ct.code q then ackColl (countBadCode s0) q Status.notRun
    else s

/-- The plan that a CTRL message belongs to, if it is this member's. -/
def planFor (s : State) (p : Nat) (m : Msg) : Option Plan :=
  (planOf? s p).filter fun pl => pl.planid == Ct.planid m && pl.phash == Ct.phash m

/-- PULL at a source member (R259, R262). -/
def takePull (s : State) (p : Nat) (m : Msg) : State :=
  if pstate s p = 0 then ackColl s m Status.busy
  else match planFor s p m with
    | none => ackColl s m Status.notRun
    | some pl =>
      let s1 := ackColl s m Status.ok
      let te := pl.tensors.getD (Ct.tensor m) []
      match pl.members.idxOf? m.src with
      | none => s1
      | some r =>
        let q := r - Ly.rbase (Te.dlay te)
        let part := (pl.rank - Ly.rbase (Te.slay te)) % max 1 (Ly.count (Te.slay te))
        let owed := if Ly.has (Te.dlay te) r && Ly.has (Te.slay te) pl.rank then
            (destTiles te q).filter fun t => tileParts te q t == [part] else []
        let ts := if Ct.count m = 0 then owed
          else owed.filter fun t => decide (Ct.first m ≤ t ∧ t < Ct.first m + Ct.count m)
        let w : PlanSend := { tensor := Ct.tensor m, puller := r, tiles := ts, queue := ts, out := 0, dig := [] }
        pumpSends (onPlan s1 p fun q => { q with sends := q.sends ++ [w] }) p

def execPull (via : Option Nat) (m : Msg) (s : State) : Host.Outcome State Fault Refusal :=
  guarded (.pull via m) (takeCtrl s via m tPull takePull)

/-- A PULL was answered (R259): BUSY is to be repeated, NOT_RUN fails the plan, and any other failure
moves the transfer to its next replica. -/
def pullAnswered (s : State) (p tensor rank status : Nat) : State :=
  match planOf? s p with
  | none => s
  | some pl =>
    match pl.xfers.findIdx? fun x => x.tensor == tensor && x.src == rank && !x.closed && x.asks != [] with
    | none => s
    | some i =>
      if status = Status.ok then s
      else if status = Status.busy then onXfer s p i fun x => { x with asks := x.asks.map fun a => { a with busy := true } }
      else if status = Status.notRun then planFail s p Status.notRun
      else nextTry p i (((pl.xfers[i]?).map fun x => x.order.length + 1).getD 1) s

/-- PULL_RETRY: what was answered BUSY is asked again (R259). -/
def pullRetry (s : State) (p i : Nat) : State :=
  match planOf? s p with
  | none => s
  | some pl =>
    match pl.xfers[i]? with
    | none => s
    | some x =>
      let s1 := onXfer s p i fun y => { y with asks := y.asks.map fun a => { a with busy := false } }
      (x.asks.filter (·.busy)).foldl (fun a r => sendPull a p pl x r.first r.count) s1

def execPullRetry (p xfer : Nat) (s : State) : Host.Outcome State Fault Refusal :=
  guarded (.pullRetry p xfer) (pullRetry s p xfer)

/-- The transfer that a message from a device belongs to. -/
def xferFrom (pl : Plan) (tensor : Nat) (dev : DevId) : Option Nat :=
  pl.xfers.findIdx? fun x => x.tensor == tensor && !x.closed && memberDev pl x.src == dev && x.src != pl.rank

/-- DATA at a destination member (R260). -/
def takeData (via : Option Nat) (s : State) (p : Nat) (m : Msg) : State :=
  let t := Ca.idx m
  let c := collarOf m.collar
  match (planOf? s p).filter fun pl => pstate s p == 2 && Ph.tgix pl.header == Ca.gix m with
  | none => ackColl s m Status.ok
  | some pl =>
    match xferFrom pl (Ct.tensor m) m.src with
    | none => ackColl s m Status.ok
    | some i =>
      let x := pl.xfers.getD i Xfer.none_
      if !x.missing.contains t then ackColl s m Status.ok
      else
        let fl := arrivalFails s p via m.payload c
        if fl.1 then ackColl fl.2 m Status.poison
        else match storeDest s p pl (pl.tensors.getD x.tensor []) t m.payload c with
          | none => planFail (ackColl s m Status.noMemory) p Status.noMemory
          | some s1 =>
            let s2 := onXfer s1 p i fun y => { y with
              missing := y.missing.erase t, bad := if c.poison then y.bad ++ [t] else y.bad }
            ackColl (putReg s2 p R.tpCnt 63 32 (satTo 32 (reg s2 p R.tpCnt 63 32 + 1))) m Status.ok

def execData (via : Option Nat) (m : Msg) (s : State) : Host.Outcome State Fault Refusal :=
  guarded (.data via m) (takePlan s via m 1 (takeData via))

/-- TDONE at a destination member: the oldest PULL without one ends, and with `DIGEST` its digest is held until all its tiles
are in memory and have been read back (R261, R271). -/
def takeTdone (s : State) (p : Nat) (m : Msg) : State :=
  let s1 := ackColl s m Status.ok
  match (planFor s1 p m).filter fun _ => pstate s1 p == 2 with
  | none => s1
  | some pl =>
    match xferFrom pl (Ct.tensor m) m.src with
    | none => s1
    | some i =>
      let x := pl.xfers.getD i Xfer.none_
      match x.asks.findIdx? fun a => a.digest.isNone with
      | none => s1
      | some k =>
        let a := x.asks.getD k ⟨0, 0, false, none⟩
        if Ph.digest pl.header then
          settleXfer (onXfer s1 p i fun y => { y with
            asks := y.asks.eraseIdx k, held := y.held ++ [{ a with digest := some (Ct.dgst m) }] }) p i
        else settleXfer (onXfer s1 p i fun y => { y with asks := y.asks.eraseIdx k }) p i

def execTdone (via : Option Nat) (m : Msg) (s : State) : Host.Outcome State Fault Refusal :=
  guarded (.tdone via m) (takeCtrl s via m tDone takeTdone)

/-- DIGEST_READBACK: a run whose tiles are all in memory is read back; a digest that differs is
counted, and the run is wanted again (R271). -/
def digestReadback (s : State) (p i : Nat) : State :=
  match planOf? s p with
  | none => s
  | some pl =>
    match pl.xfers[i]? with
    | none => s
    | some x =>
      match x.held.findIdx? (runHere x) with
      | none => s
      | some k =>
        let a := x.held.getD k ⟨0, 0, false, none⟩
        let ts := askTiles x a
        let base := destTile (partOf s p) pl (pl.tensors.getD x.tensor []) 0
        let ok := decide (a.digest = some (tilesDigest (partOf s p) base ts))
        let s1 := onXfer s p i fun y => { y with
          held := y.held.eraseIdx k
          redo := if ok then y.redo else (y.redo ++ ts).eraseDups
          digBad := y.digBad || !ok }
        settleXfer (if ok then s1 else errEvent s1 p 7) p i

def execDigestReadback (p xfer : Nat) (s : State) : Host.Outcome State Fault Refusal :=
  guarded (.digestReadback p xfer) (digestReadback s p xfer)

/-- TRANSFER_TIMEOUT: 4 ms without progress (R261). -/
def transferTimeout (s : State) (p i : Nat) : State :=
  match (planOf? s p).bind fun pl => pl.xfers[i]? with
  | none => s
  | some x =>
    when_ (pstate s p == 2 && !x.closed && x.asks != []) s (nextTry p i (x.order.length + 1) s)

def execTransferTimeout (p xfer : Nat) (s : State) : Host.Outcome State Fault Refusal :=
  guarded (.transferTimeout p xfer) (transferTimeout s p xfer)

/-- What reaches rank 0 for a plan that it has not yet submitted is kept; for its current or last plan it is over. -/
def keepEarly (s : State) (p : Nat) (m : Msg) (status : Option Nat) : State :=
  let e : EarlyPlan := { planid := Ct.planid m, phash := Ct.phash m, src := m.src, status := status }
  if reg s p R.tpCtl 63 32 != (Ct.planid m).toNat then
    onPart s p fun x => { x with tailor := { x.tailor with early := x.tailor.early ++ [e] } }
  else s

/-- DONE at rank 0 (R263). -/
def takeDone (s : State) (p : Nat) (m : Msg) : State :=
  let s1 := ackColl s m Status.ok
  match planFor s1 p m with
  | none => keepEarly s1 p m none
  | some pl =>
    match pl.members.idxOf? m.src with
    | none => s1
    | some r =>
      if pl.rank != 0 then s1
      else planAgreed (onPlan s1 p fun q => { q with doneBy := if q.doneBy.contains r then q.doneBy else q.doneBy ++ [r] }) p

def execDone (via : Option Nat) (m : Msg) (s : State) : Host.Outcome State Fault Refusal :=
  guarded (.done via m) (takeCtrl s via m tAllDone takeDone)

/-- COMMIT at a SEALED member, from rank 0 (R264). -/
def takeCommit (s : State) (p : Nat) (m : Msg) : State :=
  let s1 := ackColl s m Status.ok
  match planFor s1 p m with
  | none => s1
  | some pl =>
    when_ (pstate s1 p == 3 && memberDev pl 0 == m.src) s1 (planCommit s1 p (Ct.swseam m))

def execCommit (via : Option Nat) (m : Msg) (s : State) : Host.Outcome State Fault Refusal :=
  guarded (.commit via m) (takeCtrl s via m tCommit takeCommit)

/-- FAIL: from rank 0 it ends the plan with `TST`; at rank 0 the first one ends it for every member
(R263, Table 11-8). -/
def takeFail (s : State) (p : Nat) (m : Msg) : State :=
  let s1 := ackColl s m Status.ok
  match planFor s1 p m with
  | none => keepEarly s1 p m (some (Ct.tst m))
  | some pl =>
    if pstate s1 p = 4 then s1
    else if pl.rank = 0 then planFail s1 p (Ct.tst m)
    else if memberDev pl 0 == m.src then planEnd s1 p (Ct.tst m)
    else s1

def execFail (via : Option Nat) (m : Msg) (s : State) : Host.Outcome State Fault Refusal :=
  guarded (.fail via m) (takeCtrl s via m tFail takeFail)

/-- PLAN_DEADLINE: `PDL` has passed before SEALED, or at rank 0 before its outcome (R262, R263). -/
def planDeadline (s : State) (p : Nat) : State :=
  match planOf? s p with
  | none => s
  | some pl =>
    let st := pstate s p
    when_ (st == 1 || st == 2 || (st == 3 && pl.rank == 0)) s (planFail s p Status.timeout)

def execPlanDeadline (p : Nat) (s : State) : Host.Outcome State Fault Refusal :=
  guarded (.planDeadline p) (planDeadline s p)

/-- SEALED_TIMEOUT: neither COMMIT nor FAIL within `PDL` + 10 ms (R263). -/
def execSealedTimeout (p : Nat) (s : State) : Host.Outcome State Fault Refusal :=
  guarded (.sealedTimeout p) (when_ (pstate s p == 3) s (planEnd s p Status.timeout))

/-- COMMIT_RESEND: COMMIT or FAIL goes again to a member that has not acknowledged it (R263). -/
def commitResend (s : State) (p r : Nat) : State :=
  (partOf s p).tailor.told.foldl (fun a t =>
    match t.left.find? fun e => e.1 == r with
    | some e => sendTold a p t e
    | none => a) s

def execCommitResend (p rank : Nat) (s : State) : Host.Outcome State Fault Refusal :=
  guarded (.commitResend p rank) (commitResend s p rank)

/-- A member has acknowledged COMMIT or FAIL of a plan. -/
def toldAcked (s : State) (p : Nat) (planid : BitVec 32) (phash : BitVec 128) (code r : Nat) : State :=
  let its := fun t : Told => t.code == code && t.planid == planid && t.phash == phash
  onPart s p fun x => { x with tailor := { x.tailor with
    told := (x.tailor.told.map fun t => if its t then { t with left := t.left.filter fun e => e.1 != r } else t).filter
      fun t => t.left != [] } }

/-- A CTRL of this member ended with a status (R182, R259, R263). -/
def planCtrlEnd (s : State) (p : Nat) (planid : BitVec 32) (phash : BitVec 128) (code tensor rank status : Nat) : State :=
  if code = tPull then (if planIs s p planid phash then pullAnswered s p tensor rank status else s)
  else if (code = tCommit ∨ code = tFail) ∧ status = Status.ok then toldAcked s p planid phash code rank
  else s

end Sys2Proof.Machine
end

