-- ==== Sys2Proof/Machine/Seams.lean ====
section
/-! DEFINITION. Seams (R427-R429), what happens at them (R128, R264, R267-R269, R310), and the closing
of scale records (R127-R130). -/

namespace Sys2Proof.Machine

/-- `SPER` in ns. -/
def seamPeriod (x : Partition) : Nat := x.get R.pcSeam 31 0 * 1000

/-- Whether `SEAM_OUT` drives the seams of a partition (R429). -/
def seamDriver (s : State) (p : Nat) : Bool := mreg s M.pwSeam 4 4 == 1 && mreg s M.pwSeam 3 0 == p

/-- Whether a partition follows `SEAM_IN` (R428). -/
def seamFollows (s : State) (p : Nat) : Bool :=
  seamPeriod (partOf s p) != 0 && !seamDriver s p && match s.pattern with
    | some t => bit t.seamMask p
    | none => false

def onSeam (s : State) (p : Nat) (f : SeamPlan → SeamPlan) : State := onPart s p fun x => { x with seam := f x.seam }

/-- The earliest time of a next seam: 10 µs after the last one. -/
def seamSpaced (q : SeamPlan) (t : Nat) : Nat :=
  match q.last with
  | some l => max t (l + 10000)
  | none => t

/-- When the planned seam is taken: at P, of a following partition 25 µs later (R427, R428). -/
def plannedAt (follows : Bool) (q : SeamPlan) : Option Nat := q.planned.map fun t => if follows then t + 25000 else t

/-- When the seam that is due was due: the pending one, else the planned one. -/
def seamTime (s : State) (p : Nat) : Nat :=
  let q := (partOf s p).seam
  q.pending.getD ((plannedAt (seamFollows s p) q).getD (ioaNow s))

/-- The planned seam that a request at `now` joins: one within 2 µs (R427). -/
def seamJoins (now : Nat) (due : Option Nat) : Option Nat := due.filter fun t => now ≤ t && t ≤ now + 2000

/-- Planning after a seam at time `t` (R427, R428). -/
def seamPlanned (follows : Bool) (period t : Nat) (q : SeamPlan) : SeamPlan :=
  let iv := match q.byPulse, q.pulse with
    | some a, some b => some (a - b)
    | _, _ => none
  let next := match iv with
    | some d => if follows then d else period
    | none => period
  { q with last := some t, pulse := q.byPulse, interval := iv, pending := none, byPulse := none
           planned := if period = 0 then none else some (t + next), acquire := false
           locked := follows && q.byPulse.isSome }

/-- The DMAs of a core that have started belong to the step that seam `n` closes, or to an earlier one (R128). -/
def Core.markSeam (n : Nat) (k : Core) : Core :=
  { k with dmas := k.dmas.map fun d =>
      if d.entry.isSome && d.beforeSeam.isNone then { d with beforeSeam := some n } else d }

/-- The partition's DMAs that have started belong to the step being closed, those of saved contexts included (R128). -/
def markSeamDmas (s0 : State) (p n : Nat) : State :=
  let s := onPart s0 p fun x =>
    { x with ctxs := x.ctxs.map fun e => (e.1, { e.2 with
        save := e.2.save.map fun i => { i with cores := i.cores.map fun k => (k.1, k.2.markSeam n) } }) }
  let gs := (s.cores.filter fun e => hasCluster (partOf s p) (e.1 / 16) && e.2.dmas != []).map (·.1)
  gs.foldl (fun t g => onCore t g (Core.markSeam n)) s

/-! ### Weight slots at a seam (R264, R267-R269) -/

/-- Whether a committed plan switches at a seam that makes `STEP` equal to `step`: with its lateness. -/
def switchDue (x : Partition) (step : BitVec 32) : Option Bool :=
  match x.tailor.plan with
  | some pl =>
    if x.get R.tpCtl 23 20 = 4 ∧ (step - pl.swseam).toNat < 2 ^ 31 then some (step != pl.swseam) else none
  | none => none

/-- A due switch: the plan is done, `LATE` tells whether its seam had passed. -/
def doSwitch (s : State) (p : Nat) (late : Bool) : State :=
  let s1 := putReg (putReg s p R.tpCnt 0 0 (b2n late)) p R.tpCtl 23 20 0
  onPart s1 p fun x => switchSlots { x with tailor := { x.tailor with plan := none } }

/-- A drained plan runs once its slot has no references (R269). -/
def drainStart (s : State) (p : Nat) : State :=
  let x := partOf s p
  match x.tailor.plan with
  | some pl =>
    let quiet := match activeSlot x with
      | some i => wrefs x i == 0
      | none => false
    if drainWaits x && quiet && (!Ph.newlay pl.header || (freeLayout x).isSome) then planRun s p else s
  | none => s

/-- Whether a waiting plan pauses every sequence (R269). -/
def drainPauses (x : Partition) : Bool :=
  drainWaits x && match x.tailor.plan with
    | some pl => Ph.dpause pl.header
    | none => false

/-- The order of R268: ending batches, the switch, free slots, starting batches. `fresh` tells whether a
batch starts. -/
def seamSlots (s : State) (p : Nat) (step : BitVec 32) (gone : Batch → Bool) (fresh : Bool) : State :=
  let s1 := onPart s p fun x => endBatches x gone
  let s2 := match switchDue (partOf s1 p) step with
    | some late => doSwitch s1 p late
    | none => s1
  let s3 := drainStart (onPart s2 p freeRetired) p
  if fresh && !drainWaits (partOf s3 p) then onPart s3 p fun x => startBatch x step.toNat else s3

/-- The slot whose generation a batch that starts at this seam will capture. -/
def slotAhead (x : Partition) (step : BitVec 32) : Option Nat :=
  if drainWaits x then none
  else if (switchDue x step).isSome then slotIn x Ws.ready
  else activeSlot x

/-- What a seam does for batches: the Ringmaster's (R309-R311), or one batch per step (R267). -/
def seamBatches (s : State) (p : Nat) (step : BitVec 32) : State :=
  let x := partOf s p
  if !x.ring.on then seamSlots s p step (fun _ => true) true
  else if Rm.role x = 2 then
    seamSlots (if rmFinished s p then s else rmOverrun s p) p step (fun _ => false) false
  else if !rmFinished s p then seamSlots (rmOverrun s p) p step (fun _ => false) false
  else
    let s1 := rmDecide s p step (slotAhead x step) (drainPauses x)
    let y := partOf s1 p
    let joined := y.ring.seqs.any fun e => e.2.batch == step.toNat
    rmRecordDue (seamSlots s1 p step (batchGone y) joined) p

/-- A seam of a LIVE partition. -/
def takeSeam (s : State) (p : Nat) : State :=
  let x := partOf s p
  let t := seamTime s p
  let step := x.tailor.sset.getD (BitVec.ofNat 32 (x.get R.tlStep 31 0 + 1))
  let y := (x.put R.tlStep 31 0 step.toNat)
  let y1 := { y with
    tailor := { y.tailor with sset := none }
    seam := seamPlanned (seamFollows s p) (seamPeriod x) t y.seam
    ring := match y.ring.on, y.seam.last with
      | true, some l => { y.ring with ivals := ((t - l) :: y.ring.ivals).take 16 }
      | _, _ => y.ring }
  let list := x.reg R.pcSrl
  let n := (y1.seam.closing.getLast?.map fun c => c.1 + 1).getD 0
  let s1 := putPart s p y1
  let s2 := if listCount list = 0 then s1
    else onSeam (markSeamDmas s1 p n) p fun q => { q with closing := q.closing ++ [(n, list)] }
  let s3 := seamBatches s2 p step
  if seamDriver s p then emit s3 .seamOut else s3

/-- Whether a seam is due that no pulse has to bring. -/
def seamDue (s : State) (p : Nat) : Bool :=
  (partOf s p).seam.pending.isSome || (seamPeriod (partOf s p) != 0 && !seamFollows s p)

/-- SEAM: a requested, pulsed or planned seam is taken. -/
def execSeam (p : Nat) (s : State) : Host.Outcome State Fault Refusal :=
  guarded (.seam p) (when_ ((partOf s p).ptstate == 1 && seamDue s p) s (takeSeam s p))

/-- SREQ: a seam within 2 µs, 10 µs after the last one at the earliest; it joins one that is pending or within 2 µs. -/
def seamRequest (s : State) (p : Nat) : State :=
  if (partOf s p).ptstate != 1 then s
  else
    let now := ioaNow s
    onSeam s p fun q =>
      { q with pending := some (q.pending.getD ((seamJoins now (plannedAt (seamFollows s p) q)).getD (seamSpaced q now))) }

def execSreq (p : Nat) (s : State) : Host.Outcome State Fault Refusal :=
  guarded (.sreq p) (seamRequest s p)

/-- What a pulse at `t` makes of the planning of a following partition; none where it moves and joins no
seam (R427, R428). -/
def pulseSeam (t : Nat) (q : SeamPlan) : Option SeamPlan :=
  let moved := { q with pending := some (seamSpaced q (t + 2000)), byPulse := some t }
  let inWindow := match q.planned with
    | some pl => decide (pl ≤ t + 25000 ∧ t ≤ pl + 25000)
    | none => false
  match q.pending with
  | some _ => some { q with byPulse := some (q.byPulse.getD t) }
  | none => if q.acquire || inWindow then some moved else none

/-- SEAM_IN_PULSE at a count of IO-A: a pulse that moves and joins no seam is counted (R428). -/
def seamInPulse (s : State) (now : Nat) : State :=
  let ps := (List.range 16).filter fun p =>
    (partOf s p).ptstate == 1 && seamFollows s p && (pulseSeam now (partOf s p).seam).isSome
  if ps = [] then putMreg s M.pwSeam 63 32 (satTo 32 (mreg s M.pwSeam 63 32 + 1))
  else ps.foldl (fun t p => onSeam t p fun q => (pulseSeam now q).getD q) s

def execSeamInPulse (now : Nat) (s : State) : Host.Outcome State Fault Refusal :=
  guarded (.seamInPulse now) (seamInPulse s now)

/-- SEAM_WINDOW_EXPIRY: no pulse came; a following partition takes its planned seam, unlocked. -/
def execSeamWindowExpiry (p : Nat) (s : State) : Host.Outcome State Fault Refusal :=
  guarded (.seamWindowExpiry p)
    (when_ ((partOf s p).ptstate == 1 && seamFollows s p && (partOf s p).seam.byPulse.isNone) s (takeSeam s p))

/-- A write of `SPER` took effect (R427, R428): a changed non-zero period is planned from the last seam,
and starts acquisition; from 0 the moment of the write stands in for the last seam. The acquisition of a following
partition ends `SPER` + 25 µs after the write. -/
def sperWritten (s : State) (p old : Nat) : State :=
  let new := seamPeriod (partOf s p) / 1000
  if new = old then s
  else if new = 0 then onSeam s p fun q => { q with planned := none, acquire := false, locked := false }
  else onSeam s p fun q =>
    let from_ := match q.planned, q.interval with
      | some pl, none => pl - old * 1000
      | _, _ => if old = 0 then ioaNow s else q.last.getD (ioaNow s)
    let from_ := if seamFollows s p then ioaNow s else from_
    { q with planned := some (from_ + new * 1000), acquire := true, locked := false, pulse := none, interval := none }

/-! ### Scale records (R127-R130) -/

namespace Sr
def active (b : List Byte) : Nat := leAt b 0 4
def learned (b : List Byte) : Nat := leAt b 4 4
def stepAmax (b : List Byte) : Nat := leAt b 8 4
def tiles (b : List Byte) : Nat := leAt b 0x0C 4
def missed (b : List Byte) : Nat := leAt b 0x10 4
def policy (b : List Byte) : Nat := leAt b 0x14 4
def hcnt (b : List Byte) : Nat := leAt b 0x1B 1
def mode (b : List Byte) : Nat := nfld (policy b) 31 30
def fmt (b : List Byte) : Nat := nfld (policy b) 9 6
/-- Whether `POLICY` is free of reserved values and bits (Table 6-3). -/
def clean (b : List Byte) : Bool :=
  mode b != 3 && decide (1 ≤ fmt b ∧ fmt b ≤ 7) && nfld (policy b) 5 0 == 0
/-- `MISS_FRAC` in force. -/
def missFrac (b : List Byte) : Nat := if nfld (policy b) 29 29 = 1 then nfld (policy b) 17 10 else 8
end Sr

/-- `derive` of R129, as an FP32 code. -/
def deriveScale (b : List Byte) (x : Num) : Nat :=
  if x.isZero then toFp32 (.pow2 (-126))
  else
    let m := nfld (Sr.policy b) 28 26
    toFp32 (.pow2 (max (-126) (min 127 (clog2 (Num.div (Num.mul x (.pow2 m)) (fmtMax (Sr.fmt b)))))))

/-- The next scale and the status of a close, and the new history (R129). -/
def closeChoice (b hist : List Byte) (hcnt : Nat) : Nat × Nat :=
  let amax := ofFp32 (Sr.stepAmax b)
  let miss := decide (Sr.missFrac b * Sr.tiles b < Sr.missed b * 256)
  let h := ((List.range hcnt).map fun i => bf16.decode (leAt hist (2 * i) 2)).foldl Num.max (Num.zero false)
  let lv := positiveNormal (Sr.learned b)
  if Sr.mode b = 0 then (Sr.active b, Status.ok)
  else if miss then (deriveScale b amax, Status.scaleReset)
  else if Sr.mode b = 1 then
    if lv then (Sr.learned b, Status.ok)
    else if !amax.isZero then (deriveScale b amax, Status.scaleReset)
    else (Sr.active b, Status.notRun)
  else if !h.isZero then (deriveScale b h, Status.ok)
  else (Sr.active b, Status.ok)

/-- A record after a close: its 64 bytes and its status (R129). -/
def closedRecord (b : List Byte) : List Byte × Nat :=
  let lm := toLE 2 (min (Sr.missed b) 65535)
  let old := slice b 0x20 32
  if !Sr.clean b then
    (slice b 0 8 ++ zeros 12 ++ slice b 0x14 4 ++ lm ++ toLE 1 Status.notRun ++ slice b 0x1B 1 ++ slice b 0 4 ++ old,
      Status.notRun)
  else
    let moved := 0 < Sr.tiles b
    let hist := if moved then toLE 2 ((bf16.conv (ofFp32 (Sr.stepAmax b))).getD 0) ++ old.take 30 else old
    let n := if moved then min (Sr.hcnt b + 1) 16 else Sr.hcnt b
    let c := closeChoice b hist n
    (toLE 4 c.1 ++ slice b 4 4 ++ zeros 12 ++ slice b 0x14 4 ++ lm ++ toLE 1 c.2 ++ toLE 1 n ++ slice b 0 4 ++ hist,
      c.2)

/-- The record named by entry `i` of a list is closed, or skipped and counted (R127, R130). -/
def closeEntry (s : State) (p : Nat) (list : Word) (i : Nat) : State :=
  let e := devReadLE s p (listEntry list i) 8
  if e.1 % 64 != 0 || pvKind (partOf e.2 p) e.1 == .outside then errEvent e.2 p 6
  else
    let r := devRead e.2 p e.1 64
    let c := closedRecord r.1
    let s1 := devWrite r.2 p e.1 c.1
    if c.2 = Status.scaleReset then errEvent s1 p 5 else s1

/-- Whether a DMA started before seam `n` (R128). -/
def Dma.before (n : Nat) (d : Dma) : Bool :=
  match d.beforeSeam with
  | some k => decide (k ≤ n)
  | none => false

/-- Whether a DMA that started before seam `n` is still in flight (R128). -/
def seamDmasLeft (s : State) (p n : Nat) : Bool :=
  (s.cores.any fun e => hasCluster (partOf s p) (e.1 / 16) && e.2.dmas.any (Dma.before n))
  || (partOf s p).ctxs.any fun e => (e.2.save.map fun i => i.cores.any fun k => k.2.dmas.any (Dma.before n)) == some true

/-- SCALE_RECORD_CLOSE: the records on the list of the oldest seam are closed in order. -/
def scaleRecordClose (s : State) (p : Nat) : State :=
  match (partOf s p).seam.closing with
  | [] => s
  | c :: rest =>
    if seamDmasLeft s p c.1 then s
    else
      let s1 := (List.range (listCount c.2)).foldl (fun t i => closeEntry t p c.2 i) s
      onSeam s1 p fun q => { q with closing := rest }

def execScaleRecordClose (p : Nat) (s : State) : Host.Outcome State Fault Refusal :=
  guarded (.scaleRecordClose p) (scaleRecordClose s p)

end Sys2Proof.Machine
end

