-- ==== Sys2Proof/Machine/Partitions.lean ====
section
/-! DEFINITION. Partitions (R221, R222, R296-R299, R403, R404): creation, destruction, parking, debug mode,
and the partition reset (R246, R350, R352, R354-R356, R391). -/

namespace Sys2Proof.Machine

/-- Whether firmware runs: booted, and no device reset in progress (R353, R365). -/
def firmwareUp (s : State) : Bool := s.sec.bstat == 1 && s.rel.dph == 0

/-- Whether it serves commands: from the start of a BIST run on it does nothing but the self-test (R359). -/
def serving (s : State) : Bool := firmwareUp s && s.rel.bst == 0

/-- `PTSTATE` changes: vector 0 (Tables 16-11, 16-13). -/
def setPtstate (s : State) (p v : Nat) : State := msix (onPart s p fun x => { x with ptstate := v }) p 0

/-- A `PMCMD` has completed (R404). -/
def pmEnd (s : State) (status : Nat) : State := putMreg (putMreg s M.pmCmd 15 8 status) M.pmCmd 4 4 0

/-- A PM command is running. -/
def pmBegin (s : State) : State := putMreg s M.pmCmd 4 4 1

/-- `RRES`: the status of the last reset command (Table 14-12). -/
def rsEnd (s : State) (status : Nat) : State := putMreg s M.rsStat 63 56 status

/-! ### Creation -/

/-- Every panel that a partition holds. -/
def panelsHeld (s : State) : BitVec 16 := s.parts.foldl (fun m e => m ||| e.2.panels) 0

/-- What a new partition keeps of its logical device: bindings, vectors, host request identifiers, and
the tombstones of earlier grants. -/
def Partition.shell (x : Partition) : Partition :=
  { Partition.none_ with bound := x.bound, msix := x.msix, nextHost := x.nextHost, hostReqs := x.hostReqs, tombs := x.tombs }

/-- New partition keys from the DRBG (R377). -/
def newKeys (s : State) (p : Nat) : State :=
  let k := BitVec.ofNat 512 (drbg s 0 8)
  let q := BitVec.ofNat 256 (drbg s 8 4)
  spend (onPart s p fun x => { x with xtsKey := k, pktKey := q, keyed := true }) 12

/-- A partition as CREATE makes it: LIVE, every register at its Reset value (R391), fresh keys. -/
def createPart (s : State) (t : Preset) : State :=
  let x := { (partOf s t.number).shell with
    panels := t.panels, vbolts := t.v, qbolts := t.q, hwcap := t.hwcap, mac0 := t.mac0, mac1 := t.mac1 }
  setPtstate (newKeys (putPart s t.number x) t.number) t.number 1

/-- Blocks in the 8 TiB of quota (R136). -/
def quotaLimit : Nat := 2 ^ 27

/-- What the checks of CREATE decide, in the order of Table 16-14. -/
def createStatus (s : State) (t : Preset) : Nat :=
  let dup := fun (f : Partition → BitVec 60) (m : BitVec 60) =>
    s.parts.any fun e => e.2.ptstate != 0 && f e.2 == m
  let x := { Partition.none_ with panels := t.panels, qbolts := t.q }
  if s.rel.oos || s.sec.pst != 0 || (partOf s t.number).ptstate != 0 then Status.busy
  else if t.panels == 0 || (t.panels &&& panelsHeld s) != 0 then Status.busy
  else if (t.panels &&& s.rel.fencedPanels) != 0 then Status.fenced
  else if usableBolts x + t.q < t.v || 4096 < t.hwcap || dup (·.mac0) t.mac0 || dup (·.mac1) t.mac1 then Status.notRun
  else if quotaLimit < t.q + (s.parts.map fun e => e.2.qbolts).sum then Status.noMemory
  else Status.ok

/-- The argument registers of `PMAP` (Table 16-13). -/
def pmArgs (s : State) : Preset :=
  { number := mreg s M.pmArg0 19 16, panels := BitVec.ofNat 16 (mreg s M.pmArg0 15 0)
    v := mreg s M.pmArg1 31 0, q := mreg s M.pmArg1 63 32, hwcap := mreg s M.pmArg2 12 0
    mac0 := BitVec.ofNat 60 (mreg s (M.pmAmac 0) 59 0), mac1 := BitVec.ofNat 60 (mreg s (M.pmAmac 1) 59 0) }

/-- CREATE -/
def pmCreate (s : State) : State :=
  let t := pmArgs s
  let st := createStatus s t
  pmEnd (if st = Status.ok then createPart s t else s) st

/-! ### Partition reset: QUIESCE (R352) -/

/-- The cluster of a store address (Table 7-3). -/
def storeCluster (a : Nat) : Nat :=
  if a < 0xA0000000 then a / 0x400000 else if a < 0xF0000000 then (a - 0xA0000000) / 0x200000 else (a - 0xF0000000) / 0x1000

/-- A context in a partition reset: ENDED unless FREE, without a fault record of its own unless it had one;
a command in progress ends ABORTED (Table 10-8, R231). -/
def ctxReset (s : State) (p c : Nat) : State :=
  let st := cstate s p c
  let cut := st == Cs.preempting || st == Cs.resuming || (ctxOf s p c).starting
  let w := (if st = Cs.free then Cs.free else Cs.ended) + (if cut then Status.aborted * 2 ^ 8 else 0)
  let s1 := onPart s p fun x =>
    let x1 := (x.putCtx c .fresh).setReg (R.cxStat c) (BitVec.ofNat 64 w)
    if st = Cs.free ∨ st = Cs.ended then x1 else x1.setReg (R.cxFault c) (faultRecord none 0)
  if cut then ctxVector s1 p c else s1

/-- Whether a partition reset keeps a register (Table 10-8). -/
def keptByReset (off : Nat) : Bool :=
  (0x10000 ≤ off && off < 0x14000) || off == R.pcLattol || off == R.pcShrb || off == R.pcShrs
  || (0x1100 ≤ off && off < 0x1300)

/-- The export ranges of the grants that a reset revokes become tombstones (R186). -/
def grantTombs (x : Partition) : List Tombstone :=
  ((List.range 256).filter fun g => 2 ≤ gstate x g).map fun g =>
    { eoff := gEoff x g, nbolt := gBolts x g, job := BitVec.ofNat 32 (gJob x g) }

/-- Everything of a partition that a reset abandons or empties (Table 10-8, R352). -/
def Partition.quiesced (x : Partition) : Partition :=
  { x with
    bar0 := x.bar0.filter fun e => keptByReset e.1
    tombs := x.tombs ++ grantTombs x
    grants := [], groups := [], colls := [], tailor := Partition.none_.tailor, pocket := Partition.none_.pocket
    ring := .off, seam := .none_, hint := none, dbgen := false
    hostReqs := x.hostReqs.map fun r => { r with kind := .late } }

/-- The votes of a partition end ABORTED (R343); the class of their EVENT entry is open (log 5). -/
def abortVotes (s : State) (pick : Vote → Bool) : State :=
  let gone := s.rel.votes.filter pick
  let s1 := { s with rel := { s.rel with votes := s.rel.votes.filter fun v => !pick v } }
  gone.foldl (fun t v => voteResult (spend t 1) v.part v.vid Vout.aborted (freeBelow t 0 256) v.core) s1

/-- QUIESCE of a partition: contexts end, cores and clusters are switched off and on, operations are
abandoned, nothing outstanding is awaited; the Ringmaster instance writes no record (R331). -/
def quiescePart (s : State) (p : Nat) : State :=
  let s2 := pkAbandon s p
  let s3 := abandonHints (hintCount (partOf s2 p)) s2 p
  let s4 := (partOf s3 p).colls.foldl (fun t k => endColl t p k Status.aborted) s3
  let s5 := (List.range 64).foldl (fun t c => ctxReset t p c) s4
  let x := partOf s5 p
  let mine := fun g : Nat => hasCluster x (g / 16)
  let s6 := { s5 with
    cores := s5.cores.filter fun e => !mine e.1
    clusters := s5.clusters.filter fun e => !hasCluster x e.1
    fabric := { s5.fabric with
      reqs := s5.fabric.reqs.map fun r => if r.part = p then { r with timedOut := true } else r
      waiting := s5.fabric.waiting.filter fun w => w.part != p }
    rel := { s5.rel with
      kernels := s5.rel.kernels.filter fun e => !mine e.1
      engResets := s5.rel.engResets.filter fun e => enginePart s5 e != some p
      fwSilent := s5.rel.fwSilent.filter fun e => e.1 != p } }
  abortVotes (onPart s6 p Partition.quiesced) fun v => v.part == p

/-- A reset begins or completes: an EVENT record of its class (R344), with partition and status. -/
def resetEvent (s : State) (cls p status : Nat) : State := eventRecord s cls 0 0 1 (p * 2 ^ 8 + status)

/-- A partition reset begins (R352). One that is already running is joined (R354); a partition that
does not exist or is PARKED has nothing to reset (R299); a device reset absorbs it. -/
def beginPartReset (s : State) (p : Nat) (counted dying : Bool) : State :=
  let st := (partOf s p).ptstate
  if st = 0 ∨ st = 3 ∨ s.rel.dph ≠ 0 then s
  else if st = 5 then onPart s p fun x => { x with dying := x.dying || dying }
  else
    let s1 := if st = 2 ∨ st = 4 then pmEnd s Status.aborted else s
    let s2 := onPart (quiescePart s1 p) p fun x => { x with dying := dying, rcount := counted, pph := 1 }
    resetEvent (setPtstate s2 p 5) 0x16 p Status.ok

/-! ### Partition reset: SCRUB and RETRAIN -/

/-- The stores and tags of the clusters of some panels read zero; fenced panels are skipped (R352). -/
def scrubStores (s : State) (panels : BitVec 16) : State :=
  let hit := fun a : Nat => bit (panels &&& ~~~ s.rel.fencedPanels) (panelOfCluster (storeCluster a))
  { s with
    stores := s.stores.filter fun c => !hit c.1
    tags := s.tags.filter fun c => !hit (8 * c.1) }

/-- The bolt range of a partition is empty and its job keys are gone. -/
def Partition.scrubbed (x : Partition) : Partition := { x with mem := [], collars := [], bolts := [], cache := [], merged := [], evicting := false, jkeys := [] }

/-- Its HBM channels are awake again. -/
def wakeChannels (s : State) (panels : BitVec 16) : State :=
  { s with pwr := { s.pwr with chPower := s.pwr.chPower.filter fun e => !bit panels (e.1 / 24) } }

/-- A partition is gone: its panels, quota, keys and number are free (R222, R299). -/
def erasePart (s : State) (p : Nat) : State := setPtstate (onPart s p Partition.shell) p 0

/-- A partition destroyed in one go (R356); a PARKED one has only keys and quota to lose (R299). -/
def destroyPart (s : State) (p : Nat) : State :=
  let st := (partOf s p).ptstate
  if st = 0 then s
  else if st = 3 then erasePart s p
  else
    let s1 := if st = 5 then s else quiescePart s p
    erasePart (wakeChannels (scrubStores s1 (partOf s1 p).panels) (partOf s1 p).panels) p

/-- Every port that going out of service fences: 18 Nyzan ports, then S0 and S1. -/
def fencePorts (s : State) (ports : BitVec 20) : State :=
  let nyz := (List.range 18).filter fun c => bit ports c
  let s1 := nyz.foldl fencePort s
  ((List.range 2).filter fun n => bit ports (18 + n)).foldl (fun t n => putMreg t (M.ptSvc n) 1 0 3) s1

/-- The device goes out of service (R356): every partition is destroyed, the Nyzan and service ports are
fenced, `OOS` and `OOSR` are set, an EVENT record tells it. -/
def outOfService (s : State) (why : Nat) : State :=
  let pm := if s.parts.any fun e => e.2.ptstate == 5 && e.2.dying then Status.ok else Status.aborted
  let s0 := if mreg s M.pmCmd 4 4 = 1 then pmEnd s pm else s
  let s1 := (List.range 16).foldl destroyPart { s0 with rel := { s0.rel with rcmd := [] } }
  let s2 := fencePorts s1 (BitVec.allOnes 20)
  let s3 := putMreg (putMreg s2 M.rsOos 0 0 1) M.rsStat 55 48 why
  resetEvent { s3 with rel := { s3.rel with oos := true, oosr := why, oosFences := BitVec.allOnes 20 } } 0x17 0 why

/-- Whether the counted partition resets reach `PRLIM` (R355). -/
def partLimit (s : State) : Bool := decide (mreg s M.rsLim 39 32 ≤ s.rel.prcnt)

/-- A counted partition reset enters the history (R355). -/
def countPart (s : State) (counted : Bool) : State :=
  if counted then { s with rel := { s.rel with prcnt := satTo 16 (s.rel.prcnt + 1) } } else s

/-- The reset command of a partition, if one waits, completes (R354). -/
def endPreset (s : State) (p : Nat) : State :=
  if s.rel.rcmd.contains p then
    rsEnd { s with rel := { s.rel with rcmd := s.rel.rcmd.filter fun q => q != p } } Status.ok
  else s

/-- PARTITION_RESET_COMPLETE: the partition is scrubbed under new keys, or gone; the reset is charged,
counted and reported (R352-R356). -/
def partResetComplete (s : State) (p : Nat) : State :=
  let x := partOf s p
  if x.ptstate != 5 || s.rel.dph != 0 then s
  else
    let s1 := wakeChannels (scrubStores s x.panels) x.panels
    let s2 :=
      if x.dying then
        let t := erasePart s1 p
        if mreg t M.pmCmd 4 4 = 1 then pmEnd t Status.ok else t
      else
        let t := newKeys (onPart s1 p Partition.scrubbed) p
        setPtstate (onPart t p fun y => { y with pph := 0, dying := false, rcount := false }) p 1
    let s3 := countPart (charge s2 0x16 0 0) x.rcount
    let s4 := resetEvent (endPreset s3 p) 0x16 p Status.ok
    if x.rcount && partLimit s4 && !s4.rel.oos then outOfService s4 2 else s4

def execPartitionResetComplete (p : Nat) (s : State) : Host.Outcome State Fault Refusal :=
  guarded (.partitionResetComplete p) (partResetComplete s p)

/-! ### What starts a partition reset (R354) -/

/-- PRESET: commanded through `RS_CMD`. BUSY for a PARKED partition (R299) and NOT_RUN for one that does
not exist. -/
def presetCmd (s : State) (p : Nat) : State :=
  let st := (partOf s p).ptstate
  if !firmwareUp s then s
  else if st = 0 then rsEnd s Status.notRun
  else if st = 3 then rsEnd s Status.busy
  else
    let s1 := { s with rel := { s.rel with rcmd := if s.rel.rcmd.contains p then s.rel.rcmd else s.rel.rcmd ++ [p] } }
    beginPartReset s1 p false false

def execPreset (p : Nat) (s : State) : Host.Outcome State Fault Refusal := guarded (.preset p) (presetCmd s p)

/-- FUNCTION_LEVEL_RESET (R226); of a PARKED partition it resets only the logical device's CXL state
(R299), of which the model holds the pending vectors. -/
def flr (s : State) (p : Nat) : State :=
  if (partOf s p).ptstate = 3 then onPart s p fun x => { x with msix := 0 } else beginPartReset s p false false

def execFunctionLevelReset (p : Nat) (s : State) : Host.Outcome State Fault Refusal :=
  guarded (.functionLevelReset p) (flr s p)

/-- TEARDOWN_LIMIT_EXCEEDED: a tear-down past the limit of R245 (R354). -/
def execTeardownLimitExceeded (p c : Nat) (s : State) : Host.Outcome State Fault Refusal :=
  guarded (.teardownLimitExceeded p c) (when_ (cstate s p c == Cs.teardown) s (beginPartReset s p true false))

/-! ### DESTROY, debug mode -/

/-- DESTROY: a partition reset, then nothing is left (R222); a PARKED partition goes at once (R299). -/
def pmDestroy (s : State) : State :=
  let p := (pmArgs s).number
  let st := (partOf s p).ptstate
  if st = 0 then pmEnd s Status.notRun
  else if st = 2 ∨ st = 4 ∨ st = 5 then pmEnd s Status.busy
  else if st = 3 then pmEnd (erasePart s p) Status.ok
  else beginPartReset (pmBegin s) p false true

/-- Whether every context is in one of some states and none is starting. -/
def ctxsAre (s : State) (p : Nat) (ok : List Nat) : Bool :=
  (List.range 64).all fun c => ok.contains (cstate s p c) && !(ctxOf s p c).starting

/-- DEBUG_ON and DEBUG_OFF; OFF clears the capture buffers (Table 16-14). -/
def pmDebug (s : State) (on : Bool) : State :=
  let p := (pmArgs s).number
  let x := partOf s p
  if x.ptstate != 1 || !ctxsAre s p [Cs.free, Cs.halted, Cs.ended] then pmEnd s Status.busy
  else
    let s1 := onPart s p fun x => { x with dbgen := on }
    let mine := s1.cores.filter fun e => hasCluster x (e.1 / 16)
    let s2 := if on then s1 else mine.foldl (fun t e => onCore t e.1 fun k => { k with caps := [] }) s1
    pmEnd s2 Status.ok

/-! ### Parking (R296-R299) -/

/-- Whether PARK is accepted (R296). -/
def parkOk (s : State) (p : Nat) : Bool :=
  let x := partOf s p
  x.ptstate == 1 && ctxsAre s p [Cs.free, Cs.halted, Cs.ended, Cs.preempted]
  && (List.range 256).all (fun g => gstate x g == Gs.free)
  && x.groups.all (fun e => e.2.st == 0) && x.colls == []
  && pstate s p == 0 && (List.range 2).all (fun i => wstate x i != Ws.loading)
  && x.pocket.running == [] && x.pocket.waiting == []
  && hintAddr x == none

/-- PARK (R297): from acceptance the partition has no seams. -/
def pmPark (s : State) : State :=
  let p := (pmArgs s).number
  if parkOk s p then pmBegin (setPtstate (onPart s p fun x => { x with seam := .none_ }) p 2) else pmEnd s Status.busy

/-- The bolts that still have to be written to the Wardrobe. -/
def dirtyBolts (x : Partition) : List Nat := (x.bolts.filter fun e => e.2.st == .hbmDirty).map (·.1)

/-- One bolt leaves HBM; a KEEP pin stays recorded (R297). -/
def parkBolt (s : State) (p b : Nat) : State :=
  let y := (partOf s p).bolt b
  let to_ := fun (v : BoltState) => onPart s p fun x => x.setBolt b { y with st := v }
  match y.st with
  | .hbmDirty | .out => flashCopyComplete (to_ .out) p b
  | .in_ => if y.wrote then flashCopyComplete (to_ .out) p b else onPart s p fun x => leaveHbm x b .flash
  | .hbmClean => onPart s p fun x => leaveHbm x b .flash
  | .zero | .flash => s

/-- PARK_COMPLETE: every resident bolt has left HBM, the panels are scrubbed and free. When the bolts to
be written outnumber the free blocks of Q, or the Wardrobe takes no writes, a free number of them has moved
and the partition runs on (R297, log 5). -/
def parkComplete (s : State) (p : Nat) : State :=
  let x := partOf s p
  let dirty := dirtyBolts x
  let room := if flashWritable s then x.qbolts - blocksUsed x else 0
  if x.ptstate != 2 then s
  else if room < dirty.length then
    let n := freeBelow s 0 (room + 1)
    pmEnd (setPtstate ((dirty.take n).foldl (fun t b => parkBolt t p b) (spend s 1)) p 1) Status.noMemory
  else
    let s1 := x.bolts.foldl (fun t e => parkBolt t p e.1) s
    let s2 := wakeChannels (scrubStores s1 x.panels) x.panels
    let s3 := { s2 with
      cores := s2.cores.filter fun e => !hasCluster x (e.1 / 16)
      clusters := s2.clusters.filter fun e => !hasCluster x e.1
      rel := { s2.rel with kernels := s2.rel.kernels.filter fun e => !hasCluster x (e.1 / 16) } }
    pmEnd (setPtstate (onPart s3 p fun y => { y with panels := 0, parkP := (panelList x).length }) p 3) Status.ok

def execParkComplete (p : Nat) (s : State) : Host.Outcome State Fault Refusal :=
  guarded (.parkComplete p) (parkComplete s p)

/-- UNPARK: the panels are assigned, and the pinned bolts start to come in (R298). -/
def pmUnpark (s : State) : State :=
  let a := pmArgs s
  let x := partOf s a.number
  let n := ((List.range 16).filter fun i => bit a.panels i).length
  if x.ptstate != 3 || n != x.parkP || (a.panels &&& (panelsHeld s ||| s.rel.fencedPanels)) != 0 then pmEnd s Status.busy
  else
    let back := fun (t : State) (e : Nat × Bolt) =>
      if e.2.keep && e.2.st == .flash then giveFrame t a.number e.1 .in_ else t
    pmBegin (setPtstate (x.bolts.foldl back (putPart s a.number { x with panels := a.panels })) a.number 4)

/-- UNPARK_COMPLETE: the pinned bolts are in HBM, and the partition is LIVE; planned seams count from here,
as from a write of `SPER` (R298, R427). -/
def unparkComplete (s : State) (p : Nat) : State :=
  let x := partOf s p
  if x.ptstate != 4 || x.bolts.any (fun e => e.2.keep && e.2.st == .in_) then s
  else pmEnd (sperWritten (setPtstate (onPart s p fun y => { y with parkP := 0 }) p 1) p 0) Status.ok

def execUnparkComplete (p : Nat) (s : State) : Host.Outcome State Fault Refusal :=
  guarded (.unparkComplete p) (unparkComplete s p)

/-! ### `PM_CMD` (R404) -/

/-- A written `PMCMD`; ignored while a command runs. -/
def pmCommand (s : State) (cmd : Nat) : State :=
  if !serving s || mreg s M.pmCmd 4 4 = 1 then s
  else match cmd with
    | 1 => pmCreate s
    | 2 => pmDestroy s
    | 3 => pmPark s
    | 4 => pmUnpark s
    | 5 => pmDebug s true
    | 6 => pmDebug s false
    | _ => s

def execPmCreate (s : State) : Host.Outcome State Fault Refusal := guarded .pmCreate (pmCommand s 1)
def execPmDestroy (s : State) : Host.Outcome State Fault Refusal := guarded .pmDestroy (pmCommand s 2)
def execPark (s : State) : Host.Outcome State Fault Refusal := guarded .park (pmCommand s 3)
def execUnpark (s : State) : Host.Outcome State Fault Refusal := guarded .unpark (pmCommand s 4)
def execDebugOn (s : State) : Host.Outcome State Fault Refusal := guarded .debugOn (pmCommand s 5)
def execDebugOff (s : State) : Host.Outcome State Fault Refusal := guarded .debugOff (pmCommand s 6)

end Sys2Proof.Machine
end

