-- ==== Sys2Proof/Machine/Boot.lean ====
section
/-! DEFINITION. The boot flash, booting, identity and self-test records (R357-R373), the device reset and
what goes with it (R350, R353-R356, R387, R388, R422). -/

namespace Sys2Proof.Machine

/-! ### The boot flash (R364) -/

/-- Bytes of the boot flash. Erased flash reads 0xFF, so its memory holds complements (log 32). -/
def flashRead (s : State) (a n : Nat) : List Byte := (mread s.sec.flash a n).map (~~~ ·)

/-- Bytes written to the boot flash. -/
def flashWrite (s : State) (a : Nat) (bs : List Byte) : State :=
  { s with sec := { s.sec with flash := mput s.sec.flash a (bs.map (~~~ ·)) } }

/-- Bytes of the boot flash are erased: they read 0xFF, which memory lists nowhere. -/
def flashErase (s : State) (a n : Nat) : State :=
  { s with sec := { s.sec with flash := s.sec.flash.filter fun c => c.1 < a || a + n ≤ c.1 } }

/-- A flash command in progress stops at a page boundary (R364): an erasure after a free number of pages,
a program before or after its page (log 5). -/
def stopFlash (s : State) : State :=
  match s.sec.frun with
  | none => s
  | some (erase, a, bs) =>
    let s1 := spend { s with sec := { s.sec with frun := none } } 1
    if erase then flashErase s1 a (256 * freeBelow s 0 257)
    else if freeBelow s 0 2 = 0 then s1 else flashWrite s1 a bs

/-- Where the image and pattern copies lie, and how long they are (Table 15-1). -/
def copyBase (img : Bool) (k : Nat) : Nat := if img then 0x1000000 * k else 0x2000000 + 0x400000 * k
def copySize (img : Bool) : Nat := if img then 0x1000000 else 0x400000

/-! ### Identity (R373) -/

/-- The order of brainpoolP384r1 (RFC 5639; the spec names the curve, log 4). -/
def curveOrder : Nat :=
  0x8CB91E82A3386D280F5D6F7E50E641DF152F7109ED5456B31F166E6CAC0425A7CF3AB6AF6B7FC3103B883202E9046565

/-- The ASCII bytes of DZ3-IDENTITY-1. -/
def idLabel : List Byte := [0x44, 0x5A, 0x33, 0x2D, 0x49, 0x44, 0x45, 0x4E, 0x54, 0x49, 0x54, 0x59, 0x2D, 0x31]

/-- The identity private key of a unique device secret: 64 bytes of HKDF, taken big-endian, modulo n − 1, plus 1. -/
def deriveIdentity (uds : BitVec 256) : BitVec 384 :=
  let okm := slice (Config.hkdf (zeros 48) (toLE 32 uds.toNat) idLabel 64) 0 64
  BitVec.ofNat 384 (le okm.reverse % (curveOrder - 1) + 1)

/-- The identity key, unless JTAG has been unlocked (R389). -/
def identityNow (s : State) : Option (BitVec 384) := if s.sec.unlocked then none else some (deriveIdentity Config.uds)

/-- The identity public key, 97 bytes. -/
def idPublic : List Byte := slice (Config.publicKey (deriveIdentity Config.uds)) 0 97

/-- A digest as its 48 bytes. -/
def digestBytes (d : BitVec 384) : List Byte := toLE 48 d.toNat

/-! ### Image and pattern headers (R367, R368) -/

namespace Hdr
def magic (h : List Byte) : Nat := leAt h 0 4
def ver (h : List Byte) : Nat := leAt h 4 2
def flg (h : List Byte) : Nat := leAt h 6 2
def bump (h : List Byte) : Bool := flg h % 2 == 1
def rvk (h : List Byte) : Nat := nfld (flg h) 4 1
def svn (h : List Byte) : Nat := leAt h 8 2
def key (h : List Byte) : Nat := leAt h 0xA 1
def len (h : List Byte) : Nat := leAt h 0xC 4
def bind (h : List Byte) : Nat := leAt h 0x10 16
def dgst (h : List Byte) : BitVec 384 := BitVec.ofNat 384 (leAt h 0x20 48)
def pub (h : List Byte) : List Byte := slice h 0x50 97
def sig (h : List Byte) : List Byte := slice h 0x1A0 96
end Hdr

/-- The header checks of R367. -/
def headerOk (s : State) (img : Bool) (h : List Byte) : Bool :=
  let psvc := ((ownerIx s).map fun i => (sget .blank s.sec.owners i).psvc).getD 0
  Hdr.magic h == (if img then 0x4E574948 else 0x4E525450) && Hdr.ver h == 1
  && leAt h 0xB 1 == 0 && (slice h 0xB1 239).all (· == 0)
  && decide (Hdr.len h ≤ copySize img - 512)
  && (if img then
        decide (Hdr.flg h < 32) && decide (s.sec.isvc ≤ Hdr.svn h ∧ Hdr.svn h ≤ 64)
        && decide (Hdr.key h < 4) && !bit s.sec.revokedImg (Hdr.key h) && Hdr.bind h == 0
      else
        decide (Hdr.flg h < 2) && decide (psvc ≤ Hdr.svn h ∧ Hdr.svn h ≤ 32) && Hdr.key h == 0
        && (Hdr.bind h == 0 || Hdr.bind h == fld (Config.sha384 idPublic) 127 0))

/-- Whether a copy verifies: header checks first, then signer, signature and body digest (R367, R368). -/
def copyOk (s : State) (img : Bool) (k : Nat) : Bool :=
  let a := copyBase img k
  let h := flashRead s a 512
  headerOk s img h
  && (if img then Config.sha384 (Hdr.pub h) == Config.imageKeyDigest (Hdr.key h)
      else (ownerIx s).isSome && Config.sha384 (Hdr.pub h) == ownerDigest s)
  && Config.ecdsaVerify (Hdr.pub h) (slice h 0 0x1A0) (Hdr.sig h)
  && Config.sha384 (flashRead s (a + 512) (Hdr.len h)) == Hdr.dgst h

/-- The first copy that verifies (Table 15-2). -/
def copyFound (s : State) (img : Bool) : Option Nat := [0, 1].find? (copyOk s img)

/-- An EVENT record for an occurrence that no class of Table 14-2 names; its class is open (log 5). -/
def openEvent (s : State) (ut idx det : Nat) : State := eventRecord (spend s 1) (freeBelow s 0 256) ut idx 1 det

/-! ### Boot steps 1 to 4 (R365) -/

/-- The boot ROM holds: `FAULT_N` latches low (R365, R430), and the I3C target interrupts (R432). -/
def bootHold (s : State) (code : Nat) : State :=
  emit { s with sec := { s.sec with bstat := code }, pwr := { s.pwr with faultN := false, fcause := 1 } } .ibi

/-- `PST` (Table 15-7, R372). -/
def pstOf (s : State) (pat : Bool) : Nat :=
  if s.sec.unlocked then 4
  else if (ownerIx s).isNone then 1
  else if !pat then 2
  else if Config.certKey Config.identityCert != idPublic then 3
  else 0

/-- The verified image and pattern are taken over. -/
def takeCopies (s : State) (k : Nat) (pat : Option Nat) : State :=
  let h := flashRead s (copyBase true k) 512
  let ph := (pat.map fun j => flashRead s (copyBase false j) 512).getD []
  let body := (pat.map fun j => flashRead s (copyBase false j + 512) (Hdr.len ph)).getD []
  { s with
    pattern := pat.map fun _ => Config.parsePattern body
    sec := { s.sec with
      icopy := k == 1, fwd := Hdr.dgst h, isvn := Hdr.svn h, ibump := Hdr.bump h
      irvk := BitVec.ofNat 4 (Hdr.rvk h), ikey := Hdr.key h
      pcopy := pat == some 1, patd := if pat.isSome then Hdr.dgst ph else 0
      psvn := if pat.isSome then Hdr.svn ph else 0, pbump := pat.isSome && Hdr.bump ph
      pst := pstOf s pat.isSome } }

/-- The xSPI controller reads the SFDP table at 1S-1S-1S and goes on in 8D-8D-8D where it may (R431). -/
def readSfdp (s : State) : State := { s with sec := { s.sec with octal := Config.sfdpOctal } }

/-- Steps 1 to 4; the device holds when OTP or both image copies fail. -/
def bootLoad (s0 : State) : State × Bool :=
  let s := readSfdp s0
  if !Config.otpIntact then (bootHold s 3, false)
  else match copyFound s true with
    | none => (bootHold s 2, false)
    | some k => (takeCopies s k (copyFound s false), true)

/-! ### Self-test records (R360, R361, Table 14-11) -/

/-- Where a copy of the result slot lies. -/
def bistSlot (k : Nat) : Nat := 0x3FFE000 + 0x1000 * k

namespace Bst
def res (r : List Byte) : Nat := leAt r 1 1
def fresh (r : List Byte) : Nat := leAt r 2 1
def seq (r : List Byte) : Nat := leAt r 4 4
def img (r : List Byte) : Nat := leAt r 8 16
def pat (r : List Byte) : Nat := leAt r 0x18 16
/-- What `BSIG` covers: `BFRESH` counts as 0xFF. -/
def covered (r : List Byte) : List Byte := slice r 0 2 ++ [0xFF] ++ slice r 3 0x485
/-- Whether a record is valid (R360, Table 14-11). -/
def valid (r : List Byte) : Bool :=
  leAt r 0 1 == 1 && decide (res r ≤ 2) && Config.ecdsaVerify idPublic (covered r) (slice r 0x488 96)
end Bst

/-- The record in a copy of the slot. -/
def bistRecord (s : State) (k : Nat) : List Byte := flashRead s (bistSlot k) 0x1000

/-- The copy with the newest valid record. -/
def newestBist (s : State) : Option Nat :=
  match Bst.valid (bistRecord s 0), Bst.valid (bistRecord s 1) with
  | true, true => some (if Bst.seq (bistRecord s 0) < Bst.seq (bistRecord s 1) then 1 else 0)
  | true, false => some 0
  | false, true => some 1
  | false, false => none

/-- A record is signed and written into the copy that does not hold the newest valid one. The repair map
is what the memory BIST recorded: free bytes (log 5). -/
def writeBist (s : State) (fresh res why : Nat) (o : BistOutcome) : State :=
  let new := newestBist s
  let seq := ((new.map fun k => Bst.seq (bistRecord s k) + 1).getD 1) % 2 ^ 32
  let head := toLE 1 1 ++ toLE 1 res
  let tail := toLE 1 why ++ toLE 4 seq ++ toLE 16 (fld s.sec.fwd 127 0) ++ toLE 16 (fld s.sec.patd 127 0)
    ++ toLE 2 s.pwr.vin ++ toLE 2 o.repairs ++ zeros 4 ++ toLE 80 o.cluFail.toNat ++ toLE 4 o.othFail.toNat
    ++ toLE 4 o.iodFail.toNat ++ freeBytes s 1024
  let sig := match identityNow s with
    | some k => slice (Config.ecdsaSign k (head ++ [0xFF] ++ tail)) 0 96
    | none => zeros 96
  let bs := head ++ toLE 1 fresh ++ tail ++ sig ++ List.replicate 2840 0xFF
  flashWrite (spend s 128) (bistSlot (if new = some 0 then 1 else 0)) bs

/-- A run that found nothing to report. -/
def noOutcome : BistOutcome := { misr := 0, cluFail := 0, othFail := 0, iodFail := 0, repairs := 0 }

/-- The newest record as a fresh pass (R361). -/
def freshPass (s : State) : Option Nat :=
  (newestBist s).filter fun k =>
    let r := bistRecord s k
    Bst.res r == 0 && Bst.fresh r == 0xFF && Bst.img r == fld s.sec.fwd 127 0 && Bst.pat r == fld s.sec.patd 127 0

/-- Whether the power manager slows clocks: as POWER_LIMIT says, or for a die of 95 °C (R417, R419). -/
def slowing (s : State) : Bool := s.pwr.thr || decide (950 ≤ s.pwr.tmax.toNat)

/-- `PW_MEAS`, `I3_MEAS`: the measurements but `TMAX` are open (log 5). -/
def measured (s : State) (free : Word) : Nat := fld free 63 16 * 2 ^ 16 + s.pwr.tmax.toNat

/-- The input voltage as the device measures it, in 10 mV: open (log 5). -/
def measureVin (s : State) : State := spend { s with pwr := { s.pwr with vin := freeBelow s 0 65536 } } 1

/-- Why BIST may not start: voltage, reference clock (R358, `BWHY`). -/
def bistWhy (s : State) : Nat := b2n (!decide (5600 ≤ s.pwr.vin ∧ s.pwr.vin ≤ 6200)) + 2 * b2n (!s.pwr.refok)

/-! ### Boot steps 6 and 7 -/

/-- The two words of a plan entry (Table 9-3). -/
def planWords (e : PlanEntry) : Word × Word :=
  (BitVec.ofNat 64 (e.eboard.toNat * 2 ^ 32 + b2n e.used * 2 ^ 31 + e.edev.toNat),
   BitVec.ofNat 64 (e.emask.toNat * 2 ^ 16 + e.eport.toNat * 2 ^ 8 + e.epos.toNat))

/-- The registers that the pattern sets (R391, Tables 14-12, 16-16 to 16-18). -/
def applyPattern (s : State) (t : Pattern) : State :=
  let s1 := t.plan.zipIdx.foldl (fun u e =>
    if e.2 < 18 then setMreg (setMreg u (M.ptPlan e.2 0) (planWords e.1).1) (M.ptPlan e.2 1) (planWords e.1).2 else u) s
  let s2 := setMreg (setMreg s1 (M.hrDest 0) (BitVec.ofNat 64 (fld t.hrdest 63 0))) (M.hrDest 1) (BitVec.ofNat 64 (fld t.hrdest 127 64))
  let s3 := putMreg s2 M.hrCfg 63 48 t.hrport.toNat
  let s4 := putMreg (putMreg s3 M.pwSeam 4 4 (b2n t.soen)) M.pwSeam 3 0 t.sosel.toNat
  let s5 := if 1000 ≤ t.plim ∧ t.plim ≤ 3600 then putMreg s4 M.pwLim 11 0 t.plim else s4
  setMreg s5 M.rsLim (BitVec.ofNat 64 (t.drwin % 2 ^ 16 * 2 ^ 48 + t.drlim % 2 ^ 8 * 2 ^ 40 + t.prlim % 2 ^ 8 * 2 ^ 32 + t.prwin % 2 ^ 16 * 2 ^ 16))

/-- Every owner slot below the current one is blown revoked (R371). -/
def revokeLower (s : State) : State :=
  match ownerIx s with
  | none => s
  | some i =>
    let low := (List.range i).filter fun k => (sget .blank s.sec.owners k).used
    { s with sec := { s.sec with owners := low.foldl (fun m k => smod .blank m k fun o => { o with revoked := true }) s.sec.owners } }

/-- The management nonce is renewed (R372). -/
def renewNonce (s : State) : State :=
  spend { s with sec := { s.sec with mnonce := BitVec.ofNat 256 (drbg s 0 4) } } 4

/-- Links begin to train; fenced ones stay so, and in a state other than CONFIGURED Nyzan and service ports are
held down (R365, R372, R345). -/
def trainPorts (s : State) : State :=
  let nyz := fun (t : State) (c : Nat) =>
    if bit s.rel.fencedNyz c || bit s.rel.oosFences c then onPort t c fun _ => { Port.down with pstate := 9 }
    else if s.sec.pst = 0 then onPort t c fun _ => { Port.down with pstate := 6 } else t
  let svc := fun (t : State) (n : Nat) =>
    if bit s.rel.fencedSvc n || bit s.rel.oosFences (18 + n) then putMreg t (M.ptSvc n) 1 0 3
    else if s.sec.pst = 0 then putMreg t (M.ptSvc n) 1 0 1 else t
  let host := fun (t : State) (h : Nat) => if bit s.rel.fencedHost h then putMreg t (M.ptHost h) 1 0 2 else t
  (List.range 2).foldl host ((List.range 2).foldl svc ((List.range 18).foldl nyz s))

/-- The device enters probation of its own accord (R366). -/
def enterProbation (s : State) : State := openEvent { s with rel := { s.rel with prob := true } } 0 0 1

/-- The preset partitions of the pattern (R221, R353), in a configured device that is in service. -/
def createPresets (s : State) : State :=
  match s.pattern with
  | none => s
  | some t => t.presets.foldl (fun u e => if createStatus u e = Status.ok then createPart u e else u) s

/-- Steps 6 and 7: identity, firmware, links (R365-R373). The preset partitions follow. -/
def startFirmware (s : State) (power : Bool) : State :=
  let s1 := { s with sec := { s.sec with idKey := identityNow s, bstat := 1, powerBoot := power } }
  let s2 := renewNonce (revokeLower s1)
  let s3 := match s2.pattern with
    | some t => applyPattern s2 t
    | none => s2
  let s4 := trainPorts s3
  if s4.sec.icopy || s4.sec.pcopy then enterProbation s4 else s4

/-! ### Zeroisation (R387) -/

/-- The key vault and every engine key register are zeroised. -/
def zeroise (s : State) : State :=
  { s with
    parts := (List.range 16).foldl (fun m p => smod .none_ m p fun x =>
      { x with xtsKey := 0, pktKey := 0, keyed := false, jkeys := [] }) s.parts
    sec := { s.sec with idKey := none, ideIo := [], ideMem := [] } }

/-! ### Device reset (R353) -/

/-- Links are down; a fenced port keeps its state. -/
def portsDown (s : State) : State :=
  let keepSt := fun (t : State) (a f : Nat) => if mreg t a 1 0 = f then t else putMreg t a 1 0 0
  let s1 := { s with fabric := Fabric.reset }
  let fenced := (List.range 18).filter fun c => (portOf s c).pstate == 9
  let s2 := fenced.foldl (fun t c => onPort t c fun _ => { Port.down with pstate := 9 }) s1
  let s3 := (List.range 2).foldl (fun t n => keepSt t (M.ptSvc n) 3) s2
  (List.range 2).foldl (fun t h => keepSt t (M.ptHost h) 2) s3

/-- A device reset begins: every partition is quiesced, the ports stop, a flash write stops at a page, the vault
is zeroised. One that runs already is joined; a device that holds or has no power takes none. -/
def beginDevReset (s : State) (counted : Bool) : State :=
  if !s.pwr.pgood || s.pwr.onReset || !s.pwr.faultN || s.rel.dph != 0 then s
  else
    let quiet := fun (t : State) (p : Nat) =>
      let st := (partOf t p).ptstate
      if st = 0 ∨ st = 3 then t
      else onPart (if st = 5 then t else quiescePart t p) p fun x => { x with ptstate := 5, pph := 1 }
    let s1 := resetEvent s 0x17 0 Status.ok
    let s2 := abortVotes ((List.range 16).foldl quiet s1) fun _ => true
    let s3 := zeroise (stopFlash (portsDown s2))
    { s3 with rel := { s3.rel with dph := 1, dcount := counted, rcmd := [], engResets := [], fwSilent := [] } }

/-- What a device reset leaves: every register at its Reset value, counters, tables and keys afresh; fences,
probation, history, OTP and flash are kept (R353, R391). -/
def deviceFresh (s : State) : State :=
  { s with
    dieCtr := [], cores := [], clusters := [], stores := [], tags := [], parts := [], fabric := Fabric.reset
    mregs := [], pattern := none
    rel := { Rel.reset with
      fencedCores := s.rel.fencedCores, fencedPanels := s.rel.fencedPanels, fencedNyz := s.rel.fencedNyz
      fencedSvc := s.rel.fencedSvc, fencedHost := s.rel.fencedHost, oosFences := s.rel.oosFences
      lifting := s.rel.lifting, prob := s.rel.prob, drcnt := s.rel.drcnt, prcnt := s.rel.prcnt
      oos := s.rel.oos, oosr := s.rel.oosr, resets := BitVec.ofNat 32 (satTo 32 (s.rel.resets.toNat + 1)) }
    sec := { Sec.reset with
      owners := s.sec.owners, revokedImg := s.sec.revokedImg, isvc := s.sec.isvc, jtag := s.sec.jtag
      flash := s.sec.flash, unlocked := s.sec.unlocked }
    pwr := { s.pwr with chPower := [] } }

/-- `OOS` and `OOSR` as the device stays out of service through a reset (R356). -/
def showOos (s : State) : State :=
  if s.rel.oos then putMreg (putMreg s M.rsOos 0 0 1) M.rsStat 55 48 s.rel.oosr else s

/-- DEVICE_RESET_COMPLETE: BOOT and TRAIN (R353); a boot that fails holds in BOOT. The reset is charged and
counted; at its limit the device goes out of service, otherwise the presets are created (R355, R356). -/
def deviceResetComplete (s : State) : State :=
  if s.rel.dph = 0 || !s.pwr.resetN || !s.pwr.faultN then s
  else
    let b := bootLoad (deviceFresh s)
    if !b.2 then { b.1 with rel := { b.1.rel with dph := 2 } }
    else
      let s1 := charge (showOos (startFirmware b.1 false)) 0x17 0 0
      let s2 := if s.rel.dcount then { s1 with rel := { s1.rel with drcnt := satTo 16 (s1.rel.drcnt + 1) } } else s1
      let s3 := resetEvent s2 0x17 0 Status.ok
      if s.rel.dcount && decide (mreg s3 M.rsLim 47 40 ≤ s3.rel.drcnt) then outOfService s3 1
      else if s3.rel.oos then s3
      else createPresets s3

def execDeviceResetComplete (s : State) : Host.Outcome State Fault Refusal :=
  guarded .deviceResetComplete (deviceResetComplete s)

/-- DEVICE_RESET_HANG: the device signals the fault and holds until power is removed (R350, R430). -/
def execDeviceResetHang (s : State) : Host.Outcome State Fault Refusal :=
  guarded .deviceResetHang (when_ (s.rel.dph != 0 && s.pwr.faultN) s
    (emit { s with pwr := { s.pwr with faultN := false, fcause := 2 } } .ibi))

/-- A device reset that the management plane commands; while out of service only RETURN is accepted (R356). -/
def devResetCmd (s : State) : State :=
  if !firmwareUp s then s
  else if s.rel.oos then rsEnd s Status.busy
  else beginDevReset s false

/-- DRESET -/
def execDreset (s : State) : Host.Outcome State Fault Refusal := guarded .dreset (devResetCmd s)

/-- RETURN: the history, `OOS` and the port fences of R356 are cleared, and a commanded device reset runs. -/
def returnCmd (s : State) : State :=
  if !firmwareUp s then s
  else
    let s1 := { s with rel := { s.rel with oos := false, oosr := 0, oosFences := 0, drcnt := 0, prcnt := 0 } }
    beginDevReset (if s.rel.oos then openEvent s1 0 0 0 else s1) false

def execReturnToService (s : State) : Host.Outcome State Fault Refusal := guarded .returnToService (returnCmd s)

/-- RESET_HISTORY_AGE_OUT: a counted reset leaves its window (R355). -/
def execResetHistoryAgeOut (device : Bool) (s : State) : Host.Outcome State Fault Refusal :=
  guarded (.resetHistoryAgeOut device)
    { s with rel := if device then { s.rel with drcnt := s.rel.drcnt - 1 } else { s.rel with prcnt := s.rel.prcnt - 1 } }

/-- PARTITION_RESET_HANG: a phase ran past its limit (Table 14-9). -/
def execPartitionResetHang (p : Nat) (s : State) : Host.Outcome State Fault Refusal :=
  guarded (.partitionResetHang p) (when_ ((partOf s p).ptstate == 5) s (beginDevReset s true))

/-- ENGINE_RESET_HANG: a partition reset of the engine's partition, or a device reset (Table 14-9). -/
def execEngineResetHang (e : EngineId) (s : State) : Host.Outcome State Fault Refusal :=
  guarded (.engineResetHang e) (when_ (s.rel.engResets.contains e) s (match enginePart s e with
    | some p => beginPartReset s p true false
    | none => beginDevReset s true))

/-- FAULT_AGENT_WATCHDOG: 100 ms without the fault agent (R349). -/
def execFaultAgentWatchdog (s : State) : Host.Outcome State Fault Refusal :=
  guarded .faultAgentWatchdog (when_ (firmwareUp s) s (beginDevReset s true))

/-- GLITCH: zeroised, then a device reset that is not counted (R388). -/
def execGlitch (s : State) : Host.Outcome State Fault Refusal := guarded .glitch (beginDevReset (zeroise s) false)

/-- RESET_N_ASSERT: held for at least 10 µs it performs a device reset, which waits for the release; a shorter
pulse may or may not act (R422, log 5). In the hold of power-on it changes nothing. -/
def resetNAssert (s : State) (ns : Nat) : State :=
  let low := fun (t : State) => { t with pwr := { t.pwr with resetN := false } }
  if s.pwr.onReset then low s
  else if 10000 ≤ ns then beginDevReset (zeroise (low s)) false
  else if freeBelow s 0 2 = 1 then beginDevReset (zeroise (spend s 1)) false
  else spend s 1

def execResetNAssert (ns : Nat) (s : State) : Host.Outcome State Fault Refusal :=
  guarded (.resetNAssert ns) (resetNAssert s ns)

/-- RESET_N_RELEASE: what waits for it may proceed (R420, R422). -/
def execResetNRelease (s : State) : Host.Outcome State Fault Refusal :=
  guarded .resetNRelease { s with pwr := { s.pwr with resetN := true } }

/-! ### Power-on boot and self-test (R357-R366) -/

/-- The device goes into service after a power-on boot. -/
def inService (s : State) : State := createPresets (startFirmware s true)

/-- The end of the start-up tests (R362): what a result means for the device. -/
def afterTests (s : State) (res : Nat) (o : BistOutcome) : State :=
  let s0 := { s with rel := { s.rel with bst := 0, bres := res } }
  if res = 0 then openEvent (inService s0) 0 0 res
  else if res = 2 then openEvent (enterProbation (inService s0)) 0 0 res
  else if o.othFail = 0 ∧ o.iodFail = 0 ∧ o.cluFail ≠ 0 then
    let bad := ((List.range 640).filter fun h => bit o.cluFail h).flatMap coresOf
    let new := bad.filter fun g => !s0.rel.fencedCores.contains g
    openEvent (enterProbation (inService { s0 with rel := { s0.rel with fencedCores := s0.rel.fencedCores ++ new } })) 0 0 res
  else openEvent (outOfService (startFirmware s0 true) 3) 0 0 res

/-- POWER_ON_BOOT: every step of Table 15-2. Without a fresh pass the start-up tests begin, or are NOT_RUN where
R358 does not allow them. -/
def powerOnBoot (s : State) : State :=
  if !(s.pwr.pgood && s.pwr.resetN && s.pwr.onReset) then s
  else
    let b := bootLoad { s with pwr := { s.pwr with onReset := false }, sec := { s.sec with bstat := 0 } }
    if !b.2 then b.1
    else match freshPass b.1 with
      | some k =>
        let s1 := flashWrite b.1 (bistSlot k + 2) [0]
        inService { s1 with rel := { s1.rel with freshBoot := true } }
      | none =>
        let s1 := measureVin b.1
        if bistWhy s1 = 0 then { s1 with rel := { s1.rel with bst := 1 } }
        else afterTests (writeBist s1 0 2 (bistWhy s1) noOutcome) 2 noOutcome

def execPowerOnBoot (s : State) : Host.Outcome State Fault Refusal := guarded .powerOnBoot (powerOnBoot s)

/-- RUN: accepted without partitions and without a run in progress (R357); then R358 and R359. -/
def bistRun (s : State) : State :=
  if !firmwareUp s || s.rel.bst == 2 then s
  else if s.parts.any (fun e => e.2.ptstate != 0) || s.rel.bst == 1 then putMreg s M.biStat 15 8 Status.busy
  else
    let s1 := measureVin (putMreg s M.biStat 15 8 Status.ok)
    if bistWhy s1 = 0 then
      let s2 := zeroise s1
      { s2 with rel := { s2.rel with bst := 1 } }
    else
      let s2 := writeBist s1 0xFF 2 (bistWhy s1) noOutcome
      openEvent { s2 with rel := { s2.rel with bst := 2, bres := 2 } } 0 0 2

def execRun (s : State) : Host.Outcome State Fault Refusal := guarded .run (bistRun s)

/-- The result of a run: PASS unless an island or array failed or a signature is not golden (R359, log 33). -/
def bistResult (s : State) (o : BistOutcome) : Nat :=
  let golden := match s.pattern with
    | some t => o.misr == t.goldMisr
    | none => true
  b2n (!(o.cluFail == 0 && o.othFail == 0 && o.iodFail == 0 && golden))

/-- BIST_COMPLETE: the record is written; start-up tests go on to service, a commanded run is DONE with the
identity key derived again (R359, R361, R362). -/
def bistComplete (s : State) (o : BistOutcome) : State :=
  if s.rel.bst != 1 then s
  else
    let res := bistResult s o
    if s.sec.bstat = 0 then afterTests (writeBist s 0 res 0 o) res o
    else
      let s1 := writeBist { s with sec := { s.sec with idKey := identityNow s } } 0xFF res 0 o
      openEvent { s1 with rel := { s1.rel with bst := 2, bres := res } } 0 0 res

def execBistComplete (o : BistOutcome) (s : State) : Host.Outcome State Fault Refusal :=
  guarded (.bistComplete o) (bistComplete s o)

/-- BIST_CONDITION_LOST: the run stops NOT_RUN, and the vault stays zeroised (R358). -/
def bistLost (s : State) (why : BitVec 2) : State :=
  if s.rel.bst != 1 then s
  else
    let w := why.toNat + 4
    if s.sec.bstat = 0 then afterTests (writeBist s 0 2 w noOutcome) 2 noOutcome
    else
      let s1 := writeBist s 0xFF 2 w noOutcome
      openEvent { s1 with rel := { s1.rel with bst := 2, bres := 2 } } 0 0 2

def execBistConditionLost (why : BitVec 2) (s : State) : Host.Outcome State Fault Refusal :=
  guarded (.bistConditionLost why) (bistLost s why)

/-- SECURITY_COUNTER_BUMP: after TRAIN of a power-on boot (R370). -/
def counterBump (s : State) : State :=
  if !(firmwareUp s && s.sec.powerBoot) then s
  else
    let c := s.sec
    let owners := match ownerIx s with
      | some i => if c.pbump then smod .blank c.owners i fun o => { o with psvc := max o.psvc c.psvn } else c.owners
      | none => c.owners
    { s with sec := { c with
        powerBoot := false
        isvc := if c.ibump then max c.isvc c.isvn else c.isvc
        revokedImg := if c.ibump then c.revokedImg ||| setFld c.irvk c.ikey c.ikey 0 else c.revokedImg
        owners := owners } }

def execSecurityCounterBump (s : State) : Host.Outcome State Fault Refusal :=
  guarded .securityCounterBump (counterBump s)

end Sys2Proof.Machine
end

