-- ==== Sys2Proof/Machine/FmApi.lean ====
section
/-! DEFINITION. The FM-API commands that the host ports answer (R224, R227, Table 10-1). The codes and the
layout of the answers are those of the CXL specification, which is not in the spec (log 31). -/

namespace Sys2Proof.Machine

/-- Return codes of the FM-API (log 31). -/
def fmSuccess : Nat := 0
def fmInvalid : Nat := 2
def fmUnsupported : Nat := 3

/-- Command codes of the FM-API (log 31). -/
def fmLdInfo : Nat := 0x5400
def fmGetAlloc : Nat := 0x5401
def fmSetAlloc : Nat := 0x5402

/-- The capacity of every logical device in units of 256 MiB. -/
def ldAllocations (s : State) : List Nat := (List.range 16).map fun p => (partOf s p).hwcap

/-- An answer on a host port that is UP. -/
def fmAnswer (s : State) (h code : Nat) (data : List Byte) : State :=
  if hostUp s h then emit s (.answer h code data) else s

/-- Get LD Info: 16 logical devices and the memory they export in all. A command that is none of the three of Table 10-1
has no row of its own: it comes under this one, by its code, and is answered Unsupported (log 31). -/
def execGetLdInfo (q : FmRequest) (s : State) : Host.Outcome State Fault Refusal :=
  guarded (.getLdInfo q)
    (if q.code = fmLdInfo then fmAnswer s q.port fmSuccess (toLE 8 ((ldAllocations s).sum * 2 ^ 28) ++ toLE 2 16)
    else if q.code = fmGetAlloc ∨ q.code = fmSetAlloc then s
    else fmAnswer s q.port fmUnsupported [])

/-- The allocations as they are reported. -/
def ldReport (s : State) : List Byte := (ldAllocations s).flatMap fun v => toLE 8 v

/-- Get LD Allocations: `HWCAP` of every logical device (R227). -/
def execGetLdAllocations (h : Nat) (s : State) : Host.Outcome State Fault Refusal :=
  guarded (.getLdAllocations h) (fmAnswer s h fmSuccess (ldReport s))

/-- Set LD Allocations: refused when it would change `HWCAP` (R227). -/
def execSetLdAllocations (h : Nat) (alloc : List Nat) (s : State) : Host.Outcome State Fault Refusal :=
  guarded (.setLdAllocations h alloc)
    (fmAnswer s h (if alloc = ldAllocations s then fmSuccess else fmInvalid) (ldReport s))

end Sys2Proof.Machine
end

