-- ==== Sys2Proof/Machine/Matrix.lean ====
section
/-! DEFINITION. M operations (R52-R68), accumulation and its bounds (R96-R113), the drain (R94) and
the audit (R334-R337). -/

namespace Sys2Proof.Machine

/-! ### Shape and fold (R61-R63, R67) -/

/-- The effective configuration: 0 square, 1 is 1 × 256, 2 is 2 × 128, 3 is 4 × 64, 4 is 2 × 32. -/
def MOp.config (m : MOp) : Nat :=
  let sash := m.shape == 2 || (m.shape == 0 && decide (m.m ≤ 4))
  if !sash then 0 else if m.m = 1 then 1 else if m.m = 2 then 2 else if m.m ≤ 4 then 3 else 4

/-- Array, pass and cell of output element (i, j). -/
def MOp.place (m : MOp) (i j : Nat) : Nat × Nat × Nat :=
  match m.config with
  | 0 => let t := i / 8 * cdiv m.n 8 + j / 8; (t % 4, t / 4, 8 * (i % 8) + j % 8)
  | 1 => (j % 256 / 64, j / 256, j % 64)
  | 2 => (j % 128 / 32, j / 128, 32 * i + j % 32)
  | 3 => (i, j / 64, j % 64)
  | _ => let t := i / 2 * cdiv m.n 32 + j / 32; (t % 4, t / 4, 32 * (i % 2) + j % 32)

/-- The output element of a cell in a pass of an array, `none` outside the logical tile. -/
def MOp.elementAt (m : MOp) (p a cell : Nat) : Option (Nat × Nat) :=
  let e := match m.config with
    | 0 => let t := 4 * p + a; (t / cdiv m.n 8 * 8 + cell / 8, t % cdiv m.n 8 * 8 + cell % 8)
    | 1 => (0, 256 * p + 64 * a + cell)
    | 2 => (cell / 32, 128 * p + 32 * a + cell % 32)
    | 3 => (a, 64 * p + cell)
    | _ => let t := 4 * p + a; (t / cdiv m.n 32 * 2 + cell / 32, t % cdiv m.n 32 * 32 + cell % 32)
  if e.1 < m.m ∧ e.2 < m.n then some e else none

/-- Whether an array runs a pass: its first cell then holds an element. -/
def MOp.usesArray (m : MOp) (p a : Nat) : Bool := (m.elementAt p a 0).isSome

/-- P, the passes of the operation (R61, Table 3-7). -/
def MOp.passes (m : MOp) : Nat :=
  match m.config with
  | 0 => cdiv (cdiv m.m 8 * cdiv m.n 8) 4
  | 1 => cdiv m.n 256
  | 2 => cdiv m.n 128
  | 3 => cdiv m.n 64
  | _ => cdiv (cdiv m.m 2 * cdiv m.n 32) 4

/-- s, the segments of a pass (R107); integer totals are not segmented. -/
def MOp.segments (m : MOp) : Nat := if m.accInt then 1 else cdiv m.k 65536

/-! ### Checks when the operation starts (R57) -/

/-- Whether a span list lies in the core store. -/
def spansInside (l : List (Nat × Nat)) : Bool := l.all fun e => decide (e.1 + e.2 ≤ 262144)

/-- The conditions of R57 on the copy of the descriptor. -/
def MOp.checks (m : MOp) (d : List Byte) : Bool :=
  decide (1 ≤ m.k ∧ m.k ≤ 2 ^ 32 - 1)
  && [m.offA, m.offB, m.offC, Desc.lda d, Desc.ldb d, Desc.ldc d].all (· % 16 == 0)
  && (m.sclA == 0 || Desc.bsa d % 16 == 0) && (m.sclB == 0 || Desc.bsb d % 16 == 0)
  && (!m.audit || Desc.audo d % 16 == 0)
  && decide (rowbytes m.k m.fmtA ≤ Desc.lda d)
  && decide ((if m.op = 2 then rowbytes m.n m.fmtB else rowbytes m.k m.fmtB) ≤ Desc.ldb d)
  && decide (rowbytes m.n m.fmtC ≤ Desc.ldc d)
  && spansInside (m.spansA d) && spansInside (m.spansC d)
  && decide (m.offB + ((if m.op = 2 then m.k else m.n) - 1) * Desc.ldb d
      + (if m.op = 2 then rowbytes m.n m.fmtB else rowbytes m.k m.fmtB) ≤ 262144)
  && decide (m.scaleBytesA = 0 ∨ Desc.bsa d + m.scaleBytesA ≤ 262144)
  && decide (m.scaleBytesB = 0 ∨ Desc.bsb d + m.scaleBytesB ≤ 262144)
  && (!m.audit || decide (Desc.audo d + 32 ≤ 262144))
  && Desc.clean d

/-! ### Operand values (R55, R56, R80) -/

/-- A core-store byte run of core `g`. -/
def cread (s : State) (g off n : Nat) : List Byte := mread s.stores (coreBase g + off) n

/-- The block scale of A's element (i, k), 1 without scaling or with integer inputs. -/
def MOp.scaleA (s : State) (g : Nat) (m : MOp) (d : List Byte) (i k : Nat) : Num :=
  if m.accInt || m.sclA = 0 then .pow2 0
  else if m.sclA = 3 then
    scaleValue 3 (le (cread s g (Desc.bsa d + 4 * (i / 128 * cdiv m.k 128 + k / 128)) 4))
  else
    let b := blockSize m.sclA
    scaleValue m.sclA (le (cread s g (Desc.bsa d + i * cdiv m.k b + k / b) 1))

/-- The block scale of B's element (k, j). -/
def MOp.scaleB (s : State) (g : Nat) (m : MOp) (d : List Byte) (k j : Nat) : Num :=
  if m.accInt || m.sclB = 0 then .pow2 0
  else if m.sclB = 3 then
    scaleValue 3 (le (cread s g (Desc.bsb d + 4 * (k / 128 * cdiv m.n 128 + j / 128)) 4))
  else
    let b := blockSize m.sclB
    scaleValue m.sclB (le (cread s g (Desc.bsb d + j * cdiv m.k b + k / b) 1))

/-- The element of a packed row at core-store offset `off`. -/
def cElem (s : State) (g off f i : Nat) : Nat :=
  let w := fmtWidth f
  nfld (le (cread s g (off + w * i / 8) (w / 8 + 2))) (w * i % 8 + w - 1) (w * i % 8)

/-- a[i][k] with its block scale. -/
def MOp.aVal (s : State) (g : Nat) (m : MOp) (d : List Byte) (i k : Nat) : Num :=
  scaleElem (decodeFmt m.fmtA (cElem s g (m.offA + i * Desc.lda d) m.fmtA k)) (m.scaleA s g d i k)

/-- b[k][j] with its block scale. -/
def MOp.bVal (s : State) (g : Nat) (m : MOp) (d : List Byte) (k j : Nat) : Num :=
  let c := if m.op = 2 then cElem s g (m.offB + k * Desc.ldb d) m.fmtB j
    else cElem s g (m.offB + j * Desc.ldb d) m.fmtB k
  scaleElem (decodeFmt m.fmtB c) (m.scaleB s g d k j)

/-- The element of a packed row at offset `off` of a byte memory. -/
def memElem (m : Mem) (off f i : Nat) : Nat :=
  let w := fmtWidth f
  nfld (le (mread m (off + w * i / 8) (w / 8 + 2))) (w * i % 8 + w - 1) (w * i % 8)

/-- The C element (i, j) as it stood when the operation started, in `FMTC` (R60). -/
def MOp.cVal (m : MOp) (d : List Byte) (i j : Nat) : Num :=
  decodeFmt m.fmtC (memElem m.c0 (m.offC + i * Desc.ldc d) m.fmtC j)

/-- TSA × TSB. -/
def tensorScale (m : MOp) (d : List Byte) : Num :=
  if m.accInt then .pow2 0 else Num.mul (ofFp32 (Desc.tsa d)) (ofFp32 (Desc.tsb d))

/-- Both inputs 8 bits wide or less (R97). -/
def MOp.narrow (m : MOp) : Bool := decide (fmtWidth m.fmtA ≤ 8 ∧ fmtWidth m.fmtB ≤ 8)

/-- C of `CHUNK` (Table 2-11). -/
def MOp.chunkLen (m : MOp) : Nat := match m.chunk with | 1 => 16 | 2 => 64 | _ => 32

/-! ### Totals (R98-R108) -/

/-- The factor F of the bound (R101, R102, R108). -/
def MOp.factor (m : MOp) (extra : Bool) : Num :=
  let kp := min m.k 65536
  let base := if m.narrow then Num.add (.pow2 (-19)) (Num.mul (.ofInt (cdiv kp m.chunkLen)) (.pow2 (-24)))
    else Num.mul (.ofInt ((kp + b2n extra : Nat) : Int)) (Num.add (.pow2 (-24)) (.pow2 (-31)))
  if m.k ≤ 65536 then base
  else Num.add base (Num.mul (.ofInt ((cdiv m.k 65536 - 1 : Nat) : Int)) (.pow2 (-44)))

/-- A choice below `n` by free word `i`; 0 where there is nothing to choose. -/
def pickBelow (i n : Nat) : Nat := if n ≤ 1 then 0 else (Config.freeWord i).toNat % n

/-- A list in an order that the free words from `i` on choose; `fuel` is its length (R104, log 10). -/
def shuffle {α : Type} (i : Nat) : Nat → List α → List α
  | 0, l => l
  | fuel + 1, l =>
    match l[pickBelow (i + fuel) l.length]? with
    | none => l
    | some x => x :: shuffle i fuel (l.eraseIdx (pickBelow (i + fuel) l.length))

/-- A list cut into `n` parts of at most `c`, none empty, of sizes that the free words from `i` on choose (R98, R104). -/
def cutChunks {α : Type} (c i : Nat) : Nat → List α → List (List α)
  | 0, _ => []
  | n + 1, l =>
    let lo := max 1 (l.length - n * c)
    let hi := min c (l.length - n)
    let k := lo + pickBelow (i + n) (hi + 1 - lo)
    l.take k :: cutChunks c i n (l.drop k)

/-- The sum that the chunk accumulator holds: the exact sum of a chunk's products with a 22-bit significand and
no bound on its exponent (R98). -/
def chunkSum (prods : List Num) : Num :=
  match numSum prods with
  | .fin s n d e =>
    if n = 0 then .zero s
    else let r := roundMag 22 none n d e; .fin s r.1 1 r.2
  | x => x

/-- An exact value rounded to an FP32 total: the pattern, whether it saturated (R105) and whether it was flushed
(R74, R103). -/
def roundTotal (x : Num) : BitVec 32 × Bool × Bool :=
  match x with
  | .nan => (0x7FC00000, false, false)
  | .inf s => (BitVec.ofNat 32 (fp32.signBit s + 0x7F800000), false, false)
  | .fin s n d e =>
    match fp32.round s n d e with
    | none => (BitVec.ofNat 32 (fp32.signBit s + 0x7F7FFFFF), true, false)
    | some c => (BitVec.ofNat 32 c, false, n != 0 && c % 2 ^ 31 == 0)

/-- One addition to the FP32 total, with one rounding (R99, R105). -/
def AccSet.addFloat (t : AccSet) (x : Num) : AccSet :=
  let r := roundTotal (Num.add (ofFp32 t.fp.toNat) x)
  { t with fp := r.1, sat := t.sat || r.2.1, flush := t.flush || r.2.2 }

/-- One addition to the INT32 total (R106). -/
def AccSet.addInt (wrap : Bool) (t : AccSet) (x : Int) : AccSet :=
  let r := intFit 32 true wrap (sext 32 t.it.toNat + x)
  { t with it := BitVec.ofNat 32 r.1, sat := t.sat || r.2 }

/-- The integer of an exact integer value. -/
def numInt : Num → Int
  | .fin s n d e => roundInt s n d e
  | _ => 0

/-- The products of one segment, in the order in which they come, added to an accumulator set (Table 5-1, R97-R99,
R106): narrow products chunk by chunk, others one by one, integers exactly. The sizes of the chunks are the free
words from `i` on. -/
def MOp.accumulate (m : MOp) (d : List Byte) (i : Nat) (t : AccSet) (prods : List Num) : AccSet :=
  if m.accInt then prods.foldl (fun a x => a.addInt m.iovf (numInt x)) t
  else
    let ts := tensorScale m d
    if m.narrow then
      (cutChunks m.chunkLen i (cdiv prods.length m.chunkLen) prods).foldl
        (fun a c => a.addFloat (Num.mul (chunkSum c) ts)) t
    else prods.foldl (fun a x => a.addFloat (Num.mul x ts)) t

/-- The preload of an element: C converted to the total's format (R60, R94). -/
def MOp.preload (m : MOp) (d : List Byte) (i j : Nat) : AccSet :=
  let x := m.cVal d i j
  if m.accInt then
    match x with
    | .fin s n dd e => { AccSet.zero with it := BitVec.ofNat 32 (intFit 32 true m.iovf (roundInt s n dd e)).1 }
    | _ => { AccSet.zero with unrep := true }
  else { AccSet.zero with fp := BitVec.ofNat 32 ((fp32.conv x).getD 0x7FC00000) }

/-- A seed as the start of a total: `HI` + `LO` rounded once, or `ITOT` (R112). -/
def seedSet (accInt : Bool) (c : CaptureCell) : AccSet :=
  if accInt then { AccSet.zero with it := c.itot }
  else
    let r := roundTotal (Num.add (ofFp32 c.hi.toNat) (ofFp32 c.lo.toNat))
    { AccSet.zero with fp := r.1, sat := r.2.1, flush := r.2.2 }

def CaptureCell.zero : CaptureCell := { hi := 0, lo := 0, itot := 0, cflg := 0 }

/-- What the accumulator set of a cell holds before the first product of a pass: the preload, the seed of the first
pass, or +0 and 0 (R60, R99, R112). -/
def MOp.startSet (m : MOp) (d : List Byte) (seeds : Sparse CaptureCell) (seeded : BitVec 4) (p a cell : Nat) : AccSet :=
  if !m.zero then
    match m.elementAt p a cell with
    | some e => m.preload d e.1 e.2
    | none => .zero
  else if p = 0 && bit seeded a then seedSet m.accInt (sget .zero seeds (64 * a + cell))
  else .zero

/-- The cells of the arrays that run a pass, as (array, cell). -/
def MOp.cells (m : MOp) (p : Nat) : List (Nat × Nat) :=
  (List.range 4).flatMap fun a => if m.usesArray p a then (List.range 64).map fun c => (a, c) else []

/-- The key of an accumulator set: array, cell, and set 0 or 1 of the two. -/
def setKey (a cell set : Nat) : Nat := 2 * (64 * a + cell) + set

/-- The key of a total: pass, array, cell. -/
def totKey (p a cell : Nat) : Nat := 256 * p + 64 * a + cell

/-- The sets that stand ready for a pass, in set `set` of each cell. -/
def MOp.startSets (m : MOp) (d : List Byte) (seeds : Sparse CaptureCell) (seeded : BitVec 4) (p set : Nat) : Sparse AccSet :=
  (m.cells p).foldl (fun x c => sset .zero x (setKey c.1 c.2 set) (m.startSet d seeds seeded p c.1 c.2)) []

/-- FP32-pair addition of a segment's total, as the vector unit makes it: the four steps of the chapter's pair code,
saturating instead of overflowing (R105, R107, log 122). -/
def joinPair (t : CellTotal) (a : AccSet) : CellTotal :=
  let h := roundTotal (Num.add (ofFp32 t.hi.toNat) (ofFp32 a.fp.toNat))
  let marks := fun (hi lo : BitVec 32) (sat : Bool) =>
    ({ t with hi := hi, lo := lo, sat := t.sat || a.sat || sat, flush := t.flush || a.flush } : CellTotal)
  if h.2.1 || !(ofFp32 h.1.toNat).isFin then marks h.1 0 h.2.1
  else
    let err := toFp32 (Num.sub (Num.add (ofFp32 t.hi.toNat) (ofFp32 a.fp.toNat)) (ofFp32 h.1.toNat))
    let e := toFp32 (Num.add (ofFp32 err) (ofFp32 t.lo.toNat))
    let n := roundTotal (Num.add (ofFp32 h.1.toNat) (ofFp32 e))
    if n.2.1 then marks n.1 0 true
    else marks n.1 (BitVec.ofNat 32 (toFp32 (Num.sub (Num.add (ofFp32 h.1.toNat) (ofFp32 e)) (ofFp32 n.1.toNat)))) false

/-- A segment's total at the end of the segment: kept as it is when the pass is not segmented, the first one as the
pair (total, 0), a later one added to the pair (R107). -/
def segmentTotal (t : Nat) (pair : CellTotal) (a : AccSet) : CellTotal :=
  if t = 0 then { hi := a.fp, lo := 0, itot := a.it, sat := a.sat, flush := a.flush, unrep := a.unrep }
  else joinPair pair a

/-- The products a × b of an element with their block scales, in the free order of R104. -/
def MOp.products (s : State) (g : Nat) (m : MOp) (d : List Byte) (i j : Nat) : List Num :=
  shuffle (m.draw + (i * m.n + j) * (2 * m.k)) m.k
    ((List.range m.k).map fun k => Num.mul (m.aVal s g d i k) (m.bVal s g d k j))

/-- What a cell receives in segment `t` of a pass; a cell outside the logical tile receives zero operands (R61), of
which one product stands for all. -/
def MOp.segmentProducts (s : State) (g : Nat) (m : MOp) (d : List Byte) (p t a cell : Nat) : List Num :=
  match m.elementAt p a cell with
  | none => [.zero false]
  | some e =>
    if m.segments = 1 then m.products s g d e.1 e.2
    else ((m.products s g d e.1 e.2).drop (65536 * t)).take 65536

/-- The free words for the chunk sizes of segment `t` of an element begin here. -/
def MOp.sizeDraw (m : MOp) (p t a cell : Nat) : Nat :=
  match m.elementAt p a cell with
  | none => m.draw
  | some e => m.draw + (e.1 * m.n + e.2) * (2 * m.k) + m.k + t * 65536

/-- The running pair or total of a cell after segment `t` of pass `p`, from the set that accumulated. -/
def MOp.cellStep (s : State) (g : Nat) (m : MOp) (d : List Byte) (p t : Nat) (c : Nat × Nat) : CellTotal :=
  segmentTotal t (sget .zero m.pairs (64 * c.1 + c.2))
    (m.accumulate d (m.sizeDraw p t c.1 c.2) (sget .zero m.acc (setKey c.1 c.2 (m.segs % 2)))
      (m.segmentProducts s g d p t c.1 c.2))

/-- One segment of one pass on all arrays (R52, R65, R107): the live set of every cell accumulates; at the end of the
pass the totals are complete, and the other set takes the preload of the next pass. -/
def MOp.segmentStep (s : State) (g : Nat) (m : MOp) (d : List Byte) : MOp :=
  let n := m.segments
  let p := m.segs / n
  let t := m.segs % n
  let at_ := fun c => m.cellStep s g d p t c
  if t + 1 < n then
    { m with
      segs := m.segs + 1, acc := []
      pairs := (m.cells p).foldl (fun x c => sset .zero x (64 * c.1 + c.2) (at_ c)) m.pairs }
  else
    { m with
      segs := m.segs + 1, pairs := []
      acc := m.startSets d [] 0 (p + 1) ((m.segs + 1) % 2)
      tots := (m.cells p).foldl (fun x c => sset .zero x (totKey p c.1 c.2) (at_ c)) m.tots }

/-- `n` segments in a row. -/
def MOp.segmentSteps (s : State) (g : Nat) (d : List Byte) : Nat → MOp → MOp
  | 0, m => m
  | n + 1, m => MOp.segmentSteps s g d n (m.segmentStep s g d)

/-- The total of an output element. -/
def MOp.totalOf (m : MOp) (i j : Nat) : CellTotal :=
  let pl := m.place i j
  sget .zero m.tots (totKey pl.2.1 pl.1 pl.2.2)

/-- The value that the drain converts, before `TSC`: the total, or the exact hi + lo of a segmented pass (R94, R107). -/
def MOp.value (m : MOp) (t : CellTotal) : Num :=
  if m.accInt then .ofInt (sext 32 t.itot.toNat)
  else if m.segments = 1 then ofFp32 t.hi.toNat
  else Num.add (ofFp32 t.hi.toNat) (ofFp32 t.lo.toNat)

/-- The code written for a total and whether its bytes are marked POISON (R94). -/
def MOp.drain (m : MOp) (d : List Byte) (t : CellTotal) : Nat × Bool :=
  if t.unrep then (0, true)
  else
    let v := if m.accInt then m.value t else Num.mul (m.value t) (ofFp32 (Desc.tsc d))
    match encodeFmt m.fmtC m.iovf v with
    | some c => (c, false)
    | none => (0, true)

/-! ### The audit (R334-R336) -/

/-- The sums q, p, μ, r and τ of one column. -/
structure ColSums where
  q   : Num
  p   : Num
  mu  : Num
  r   : Num
  tau : Num
  deriving DecidableEq, Repr

/-- A sum of `n` terms in FP32-pair arithmetic (R334), whose order is open: the pair of the exact sum, or a free one
within 2^-44 of the magnitudes for each addition (R108; log 143). -/
def pairSum (s : State) (i n : Nat) (x mag : Num) : Num :=
  let part := fun hi lo => ofFp32 (finitePattern (fld (freeAt s i) hi lo))
  let y := Num.add (part 31 0) (part 63 32)
  let slack := Num.mul mag (Num.mul (.pow2 (-44)) (.ofInt (n : Int)))
  if !x.isFin then x
  else if Num.lt slack (Num.sub y x).abs then
    Num.add (ofFp32 (pairOf x).1.toNat) (ofFp32 (pairOf x).2.toNat)
  else y

/-- The sums of column `j` (R334); with integer inputs q and r are taken modulo 2^32. -/
def MOp.colSums (s : State) (g : Nat) (m : MOp) (d : List Byte) (j : Nat) : ColSums :=
  let rows := List.range m.m
  let ks := List.range m.k
  let sc := tensorScale m d
  let c0 := rows.map fun i => if m.zero then Num.zero false else m.cVal d i j
  let p := numSum c0
  let dot := numSum (ks.map fun k => Num.mul (numSum (rows.map fun i => m.aVal s g d i k)) (m.bVal s g d k j))
  let mag := numSum (ks.map fun k =>
    Num.mul (numSum (rows.map fun i => (m.aVal s g d i k).abs)) (m.bVal s g d k j).abs)
  let q := Num.add (if m.accInt then dot else Num.mul dot sc) p
  let mu := Num.add (if m.accInt then mag else Num.mul mag sc.abs) (numSum (c0.map Num.abs))
  let r := numSum (rows.map fun i => m.value (m.totalOf i j))
  let wrap := fun x : Num => match x with
    | .fin sg n dd e => Num.ofInt (sext 32 (wrapTo 32 (roundInt sg n dd e)))
    | y => y
  let n := m.k + m.m
  let sums := fun (i : Nat) (x : Num) => pairSum s (3 * j + i) n x mu
  let mu' := sums 1 mu
  let tau := Num.add (Num.mul (Num.mul (.ofInt 2) (m.factor (!m.zero))) mu')
    (Num.mul (.pow2 (-100)) (.ofInt ((m.m + 1 : Nat) : Int)))
  if m.accInt then { q := wrap q, p := wrap p, mu := mu, r := wrap r, tau := .zero false }
  else { q := sums 0 q, p := p, mu := mu', r := sums 2 r, tau := tau }

/-- Whether a column fails. -/
def ColSums.fails (c : ColSums) : Bool := Num.lt c.tau (Num.sub c.r c.q).abs

/-- The 32 bytes of an audit record (Table 14-4). -/
def auditRecord (aust aufl col nf : Nat) (res tol vid : Nat) : List Byte :=
  toLE 1 aust ++ toLE 1 aufl ++ toLE 2 col ++ toLE 2 nf ++ toLE 2 0 ++ toLE 4 res ++ toLE 4 tol
    ++ toLE 4 vid ++ zeros 12

/-- What the audit of an operation finds: its record without the vote identifier, whether it fails,
and the sums of all columns. -/
def MOp.auditFind (m : MOp) (cols : List ColSums) (poison sat : Bool) : List Byte × Bool × List ColSums :=
  let special := cols.any fun c => [c.q, c.p, c.mu, c.r].any fun x => !x.isFin
  if poison || sat || special then
    (auditRecord 2 (4 * b2n special + 2 * b2n sat + b2n poison) 0 0 0 0 0, false, cols)
  else
    let bad := (List.range cols.length).filter fun j => ((cols[j]?).map ColSums.fails).getD false
    match bad with
    | [] => (auditRecord 0 0 0 0 0 0 0, false, cols)
    | j :: _ =>
      match cols[j]? with
      | some c =>
        let df := (Num.sub c.r c.q).abs
        let res := if m.accInt then (match df with
          | .fin sg n dd e => wrapTo 32 (roundInt sg n dd e)
          | _ => 0) else toFp32 df
        (auditRecord 1 0 j bad.length res (if m.accInt then 0 else toFp32 c.tau) 0, true, cols)
      | none => (auditRecord 0 0 0 0 0 0 0, false, cols)

/-! ### Completion -/

/-- The marks of one row of C (R147 Drain): the words take P, S and A anew, a word that C covers in part keeps what it
had as well (log 123), and the words of an element that `FMTC` cannot represent take P (R94). -/
def markRow (s : State) (g : Nat) (m : MOp) (d : List Byte) (tag : BitVec 3) (i : Nat) : State :=
  let w := fmtWidth m.fmtC
  let a := coreBase g + m.offC + i * Desc.ldc d
  (List.range m.n).foldl (fun t j =>
    if (m.drain d (m.totalOf i j)).2 then orTags t (a + w * j / 8) ((w * j % 8 + w + 7) / 8) 1 else t)
    (mergeTags s a (rowbytes m.n m.fmtC) fun _ => tag)

/-- The drained bytes of one row of C, the unused bits of its last byte zero (R55, log 123). -/
def writeRow (s : State) (g : Nat) (m : MOp) (d : List Byte) (i : Nat) : State :=
  let bytes := packBytes (fmtWidth m.fmtC) ((List.range m.n).map fun j => (m.drain d (m.totalOf i j)).1)
  { s with stores := mput s.stores (coreBase g + m.offC + i * Desc.ldc d) bytes }

/-- Whether an operand byte carries the P tag (R58). -/
def MOp.poisoned (s : State) (g : Nat) (m : MOp) (d : List Byte) : Bool :=
  (m.reads d).any fun e => bit (tagsOver s (coreBase g + e.1) e.2) 0

/-- The capture record of a cell (Table 5-4). -/
def captureOf (t : CellTotal) : CaptureCell :=
  { hi := t.hi, lo := t.lo, itot := t.itot, cflg := BitVec.ofNat 32 (2 * b2n t.flush + b2n t.sat) }

/-- The last pass of the operation on an array. -/
def MOp.lastPass (m : MOp) (a : Nat) : Option Nat := (List.range m.passes).reverse.find? fun p => m.usesArray p a

/-- The capture buffers after an operation (R111): the last pass on each array that it used. -/
def captureCells (m : MOp) (caps : Sparse CaptureCell) : Sparse CaptureCell :=
  (List.range 4).foldl (fun x a =>
    match m.lastPass a with
    | some p => (List.range 64).foldl (fun y c =>
        sset .zero y (64 * a + c) (captureOf (sget .zero m.tots (totKey p a c)))) x
    | none => x) caps

/-- The arrays that an operation uses. -/
def MOp.arrays (m : MOp) : BitVec 4 :=
  (List.range 4).foldl (fun b a => if m.usesArray 0 a then setFld b a a 1 else b) 0

/-- The oldest operation leaves the core, and an `mwait` with nothing left in flight ends. -/
def popMop (s : State) (g : Nat) : State :=
  let s1 := onCore s g fun k => { k with mops := k.mops.drop 1 }
  if (coreOf s1 g).mops = [] then endWaits s1 g fun w => w == .mwait else s1

/-- What a hazard leaves when its operation completes (R40, R59): free values in the output tile, and in the bytes of
the operation that a store or DMA write reached. -/
def spoil (s : State) (g : Nat) (m : MOp) (d : List Byte) : State :=
  if m.hazard then
    let mine := m.reads d ++ m.writes d
    let s1 := (m.output d).foldl (fun t e => scramble t g e.1 e.2 (m.output d)) s
    m.touched.foldl (fun t e => scramble t g e.1 e.2 mine) s1
  else s

/-- Writes the completion word (R58) and ends the operation. -/
def finishMop (s : State) (g : Nat) (m : MOp) (d : List Byte) (w : BitVec 32) : State :=
  let a := coreBase g + m.offS + 0x30
  popMop (spoil { s with stores := mput s.stores a (toLE 4 w.toNat) } g m d) g

/-- An operation that failed a check of R57: C is marked POISON where it lies in the core store. -/
def failMop (s : State) (g : Nat) (m : MOp) (d : List Byte) : State :=
  let s1 := if spansInside (m.spansC d) then
      (m.spansC d).foldl (fun t e => orTags t (coreBase g + e.1) e.2 1) s
    else s
  finishMop s1 g { m with hazard := m.hazard && spansInside (m.spansC d) } d (cword Status.poison false true false)

/-- Votes in progress of a partition (R337). -/
def votesOf (s : State) (p : Nat) : Nat := (s.rel.votes.filter fun v => v.part == p).length

/-- Whether the partition of a core is in debug mode (R111). -/
def capturing (s : State) (g : Nat) : Bool :=
  match holderOf s g with
  | some hd => (partOf s hd.part).dbgen
  | none => false

/-- Completes an operation: what is left of its passes runs, C is drained row by row, the capture buffers are taken, and
the audit is judged (R52, R58, R94, R111, R336). -/
def drainMop (s1 : State) (g : Nat) (m0 : MOp) (d : List Byte) : State :=
  let m := m0.segmentSteps s1 g d (m0.passes * m0.segments - m0.segs)
  let poison := m.poisoned s1 g d
  let sat := (List.range m.m).any fun i => (List.range m.n).any fun j => (m.totalOf i j).sat
  let cols := if m.audit then (List.range m.n).map (m.colSums s1 g d) else []
  let s := spend s1 (3 * cols.length)
  let au := m.auditFind cols poison sat
  let s0 := (List.range m.m).foldl (fun t i => writeRow t g m d i) s
  let s2 := (List.range m.m).foldl (fun t i => markRow t g m d (BitVec.ofNat 3 (tagWord poison sat false)) i) s0
  let s3 := onCore s2 g fun k => { k with caps := if capturing s g then captureCells m k.caps else k.caps }
  let part := ((holderOf s g).map (·.part)).getD 16
  let st := if poison then Status.poison else Status.ok
  if m.audit && au.2.1 then
    if 4 ≤ votesOf s3 part then
      let vid := s3.rel.nextVid
      let s4 := { s3 with rel := { s3.rel with nextVid := vid + 1 } }
      let s5 := voteResult (charge s4 0x14 1 g) part vid Vout.none_ 0x14 g
      let rec_ := au.1.take 0x10 ++ toLE 4 vid.toNat ++ zeros 12
      let s6 := { s5 with stores := mput s5.stores (coreBase g + Desc.audo d) rec_ }
      let s7 := (m.spansC d).foldl (fun t e => orTags t (coreBase g + e.1) e.2 4) s6
      finishMop s7 g m d (cword st true poison sat)
    else
      let hold : AuditHold :=
        { record := au.1, cword := cword st true poison sat
          cols := cols.map fun c => pairOf c.r, check := cols.map fun c => pairOf c.q
          tol := cols.map fun c => BitVec.ofNat 32 (toFp32 c.tau), p0 := cols.map fun c => pairOf c.p }
      onCore s3 g fun k => { k with mops := { m with acc := [], hold := some hold } :: k.mops.drop 1 }
  else
    let s4 := if m.audit then { s3 with stores := mput s3.stores (coreBase g + Desc.audo d) au.1 } else s3
    finishMop s4 g m d (cword st false poison sat)

/-- `mrd`: the capture buffer goes to the core store (Table 5-4). -/
def doMrd (s : State) (g : Nat) (m : MOp) : State :=
  let a := m.offA % 4
  let bs := (List.range 64).flatMap fun i =>
    let c := sget .zero (coreOf s g).caps (a * 64 + i)
    toLE 4 c.hi.toNat ++ toLE 4 c.lo.toNat ++ toLE 4 c.itot.toNat ++ toLE 4 c.cflg.toNat
  let base := coreBase g + m.offC
  popMop (spoil (replaceTags { s with stores := mput s.stores base bs } base 1024 0) g m []) g

/-- `mwr`: the capture buffer and the seed of an array are loaded (R112); after a hazard they are free values. -/
def doMwr (s0 : State) (g : Nat) (m : MOp) : State :=
  let s := if m.hazard then scramble s0 g m.offC 1024 [(m.offC, 1024)] else s0
  let a := m.offA % 4
  let at_ := fun i o => BitVec.ofNat 32 (le (cread s g (m.offC + 16 * i + o) 4))
  let cell := fun i => ({ hi := at_ i 0, lo := at_ i 4, itot := at_ i 8, cflg := 0 } : CaptureCell)
  let put := fun (c : Sparse CaptureCell) => (List.range 64).foldl (fun c i => sset .zero c (a * 64 + i) (cell i)) c
  popMop (onCore { s with stores := s0.stores } g fun k =>
    { k with caps := put k.caps, seeds := put k.seeds, seeded := setFld k.seeded a a 1 }) g

/-! ### The commands -/

/-- Replaces the first operation that `f` changes. -/
def updFirst (f : MOp → Option MOp) : List MOp → List MOp
  | [] => []
  | m :: rest => match f m with
    | some m' => m' :: rest
    | none => m :: updFirst f rest

/-- MMA_DESCRIPTOR_READ: the oldest operation without its copy takes it (R56). -/
def descriptorRead (s : State) (g : Nat) : State :=
  let f := fun m : MOp =>
    if m.multiplies && m.desc.isNone then some { m with desc := some (cread s g m.offS 64) } else none
  onCore s g fun k => { k with mops := updFirst f k.mops }

def execMmaDescriptorRead (g : Nat) (s : State) : Host.Outcome State Fault Refusal :=
  guarded (.mmaDescriptorRead g) (descriptorRead s g)

/-- C as it stands in the core store, by offset. -/
def cSnapshot (s : State) (g : Nat) (m : MOp) (d : List Byte) : Mem :=
  if m.zero then []
  else (m.spansC d).foldl (fun x e => mput x e.1 (cread s g e.1 e.2)) []

/-- An operation that passed its checks enters the arrays (R60, R65, R112): its orders of summing are drawn, and the
first pass's sets take their preload or their seed. -/
def MOp.enter (s : State) (g : Nat) (m : MOp) (d : List Byte) : MOp :=
  let m1 := { m with started := true, draw := s.freeIx, c0 := cSnapshot s g m d }
  { m1 with acc := m1.startSets d (coreOf s g).seeds (coreOf s g).seeded 0 0 }

/-- Whether operation `m` must wait before it enters the arrays, for those that are in flight before it: a shape switch
until they have drained (R67), a use of seeds until an `mwr` has completed (R112, log 124). -/
def MOp.mustWait (m : MOp) (cfg : Nat) (before : List MOp) : Bool :=
  before.any fun q => q.op == 5 || (m.config != cfg && q.multiplies && !q.failed && q.hold.isNone)

/-- MMA_START: the oldest operation with its copy that has not started checks its operands (R57); one that passes takes
its configuration (R67) and enters the arrays. Operations start in issue order. -/
def mmaStart (s : State) (g : Nat) : State :=
  let k := coreOf s g
  let before := k.mops.takeWhile (·.started)
  let join := fun (m : MOp) (rest : List MOp) => before ++ m :: rest
  match k.mops.dropWhile (·.started) with
  | [] => s
  | m :: rest =>
    if m.multiplies then
      match m.desc with
      | none => s
      | some d =>
        if !m.checks d then onCore s g fun k => { k with mops := join { m with started := true, failed := true } rest }
        else if m.mustWait k.cfg before then s
        else
          onCore (spend s (2 * m.m * m.n * m.k)) g fun k =>
            { k with mops := join (m.enter s g d) rest, cfg := m.config, seeded := k.seeded &&& ~~~ m.arrays }
    else onCore s g fun k => { k with mops := join { m with started := true } rest }

def execMmaStart (g : Nat) (s : State) : Host.Outcome State Fault Refusal :=
  guarded (.mmaStart g) (mmaStart s g)

/-- Whether a started operation has segments still to end before its drain (R107): those of all passes but the last
segment of the last one. -/
def MOp.segmentsLeft (m : MOp) : Bool :=
  m.multiplies && !m.failed && !m.accInt && decide (65536 < m.k ∧ m.segs + 1 < m.passes * m.segments)

/-- MMA_SEGMENT_END: a segment's totals join the running pairs (R107). -/
def segmentEnd (s : State) (g : Nat) : State :=
  let f := fun m : MOp =>
    match m.desc with
    | some d => if m.started && m.segmentsLeft then some (m.segmentStep s g d) else none
    | none => none
  onCore s g fun k => { k with mops := updFirst f k.mops }

def execMmaSegmentEnd (g : Nat) (s : State) : Host.Outcome State Fault Refusal :=
  guarded (.mmaSegmentEnd g) (segmentEnd s g)

/-- MMA_COMPLETE: the oldest operation completes when it has started, its segments have ended and
its completion is not held (R58, R337). -/
def mmaComplete (s : State) (g : Nat) : State :=
  match (coreOf s g).mops with
  | [] => s
  | m :: _ =>
    if m.started && m.hold.isNone && !m.segmentsLeft then
      if m.op = 4 then doMrd s g m
      else if m.op = 5 then doMwr s g m
      else match m.desc with
        | some d => if m.failed then failMop s g m d else drainMop s g m d
        | none => s
    else s

def execMmaComplete (g : Nat) (s : State) : Host.Outcome State Fault Refusal :=
  guarded (.mmaComplete g) (mmaComplete s g)

/-- AUDIT_COPY: the copy of a failed audit ends; the vote takes its identifier and the held
completion goes on (R337). -/
def auditCopy (s : State) (g : Nat) : State :=
  match (coreOf s g).mops with
  | [] => s
  | m :: _ =>
    match m.hold, m.desc with
    | some h, some d =>
      let vid := s.rel.nextVid
      let part := ((holderOf s g).map (·.part)).getD 16
      let v : Vote := { vid := vid, part := part, core := g, kernel := none, orig := .audit h.cols
                        check := .audit h.check, tol := h.tol, p0 := h.p0 }
      let s1 := { s with rel := { s.rel with votes := s.rel.votes ++ [v], nextVid := vid + 1 } }
      let rec_ := h.record.take 0x10 ++ toLE 4 vid.toNat ++ zeros 12
      let s2 := { s1 with stores := mput s1.stores (coreBase g + Desc.audo d) rec_ }
      let s3 := (m.spansC d).foldl (fun t e => orTags t (coreBase g + e.1) e.2 4) s2
      finishMop s3 g m d h.cword
    | _, _ => s

def execAuditCopy (g : Nat) (s : State) : Host.Outcome State Fault Refusal :=
  guarded (.auditCopy g) (auditCopy s g)

end Sys2Proof.Machine
end

