-- ==== Sys2Proof/Machine/Ident.lean ====
section
/-! DEFINITION. The `ID` block (R394, Table 16-2). -/

namespace Sys2Proof.Machine

/-- The registers of the `ID` block of partition `p`, read from what they show. -/
def idWord (s : State) (p off : Nat) : Word :=
  let x := partOf s p
  let ex := x.ptstate != 0
  let n := (panelList x).length
  BitVec.ofNat 64 (match off with
    | 0x00 => 2 ^ 56 + ((s.pattern.map fun t => t.domain.toNat).getD 0) * 2 ^ 32 + (ownId s).toNat
    | 0x08 => if ex then 2 ^ 20 + p * 2 ^ 16 + x.panels.toNat else 0
    | 0x10 => x.qbolts * 2 ^ 32 + x.vbolts
    | 0x18 => x.hwcap * 2 ^ 32 + (if n = 0 then 0 else usableBolts x)
    | 0x20 => 64 * 2 ^ 56 + 64 * 2 ^ 48 + 256 * 2 ^ 32 + 2 ^ 24 + 2 * 2 ^ 16 + 40 * n
    | 0x28 => s.sec.isvn * 2 ^ 16 + s.sec.psvn
    | 0x30 => x.mac0.toNat
    | 0x38 => x.mac1.toNat
    | _ => 0)

end Sys2Proof.Machine
end

