-- ==== Sys2Proof/Machine/PowerStates.lean ====
section
/-! DEFINITION. Latency tolerance and the power states that it allows (R247, R424, Tables 10-9, 17-6). -/

namespace Sys2Proof.Machine

/-- `LAT_TOL` of a partition. -/
def latTol (s : State) (p : Nat) : Nat := reg s p R.pcLattol 31 0

/-- The deepest cluster state a limit allows: 0 awake, 1 clock-gated, 2 retention, 3 off. -/
def clusterDepth (limit : Nat) (held : Bool) : Nat :=
  if 400 ≤ limit ∧ !held then 3 else if 15 ≤ limit then 2 else if 1 ≤ limit then 1 else 0

/-- The deepest HBM channel state a limit allows: 0 awake, 1 power-down, 2 self-refresh. -/
def channelDepth (limit : Nat) : Nat := if 30 ≤ limit then 2 else if 1 ≤ limit then 1 else 0

/-- Whether the context that holds a cluster keeps it from going off. -/
def heldActive (s : State) (h : Nat) : Bool :=
  match (clusOf s h).holder with
  | some hd =>
    let st := cstate s hd.part hd.ctx
    (ctxOf s hd.part hd.ctx).starting || st == Cs.running || st == Cs.preempting || st == Cs.resuming
      || st == Cs.stopped || st == Cs.teardown
  | none => false

/-- Whether a cluster is idle: no core issues, nothing of it is in flight, no kernel runs on it. -/
def clusterIdle (s : State) (h : Nat) : Bool :=
  !(match (clusOf s h).holder with
    | some hd => (ctxOf s hd.part hd.ctx).starting
    | none => false)
  && (coresOf h).all fun g =>
    let k := coreOf s g
    k.run != .issuing && k.mops == [] && k.dmas == [] && (s.rel.kernels.all fun e => e.1 != g)

/-- The partition that holds a panel. -/
def panelOwner (s : State) (panel : Nat) : Option Nat := unitPart s 3 panel

/-- The limit of a cluster or channel of a panel; a panel of no partition has none. -/
def panelLimit (s : State) (panel : Nat) : Nat := ((panelOwner s panel).map (latTol s)).getD 0

/-- A cluster that is switched off keeps nothing. -/
def clusterOff (s : State) (h : Nat) : State :=
  (coresOf h).foldl (fun t g => putCore t g Core.zero) (clearStores s h)

/-- A cluster enters the deepest state it may. -/
def clusterEnter (s : State) (h : Nat) : State :=
  let d := clusterDepth (panelLimit s (panelOfCluster h)) (heldActive s h)
  if clusterIdle s h && decide ((clusOf s h).power < d) then
    onClus (if d = 3 then clusterOff s h else s) h fun q => { q with power := d }
  else s

/-- The key of an HBM channel: panel and index. -/
def channelKey (panel i : Nat) : Nat := panel * 24 + i

def setChannel (s : State) (k d : Nat) : State :=
  { s with pwr := { s.pwr with chPower := sset 0 s.pwr.chPower k d } }

/-- An HBM channel enters the deepest state it may. -/
def channelEnter (s : State) (panel i : Nat) : State :=
  let d := channelDepth (panelLimit s panel)
  let k := channelKey panel i
  if sget 0 s.pwr.chPower k < d then setChannel s k d else s

/-- An idle port enters the deepest state that its limit and R425 allow. -/
def portEnter (s : State) (c : Nat) : State :=
  let q := portOf s c
  let quiet := portUp s c && q.replay.isEmpty && q.txq.isEmpty
  if quiet && decide (2000 ≤ portLimit s) && !anyJobKey s && !routeNames s c then
    onPort s c fun q => { q with pstate := 8, lanes := if q.narrow = 0 then q.lanes else q.narrow, narrow := 0 }
  else if quiet && q.narrow == 0 && decide (10 ≤ portLimit s) then narrow s c
  else s

/-- POWER_STATE_ENTRY: a unit that has been idle long enough enters its state. -/
def execPowerStateEntry (u : PowerUnit) (s : State) : Host.Outcome State Fault Refusal :=
  guarded (.powerStateEntry u) (match u with
    | .cluster h => clusterEnter s h
    | .channel panel i => channelEnter s panel i
    | .port c => portEnter s c)

/-- A unit is awake. -/
def wakeUnit (s : State) : PowerUnit → State
  | .cluster h => onClus s h fun q => { q with power := 0 }
  | .channel panel i => setChannel s (channelKey panel i) 0
  | .port c => wakePort s c

/-- POWER_STATE_WAKE: demand wakes a unit. -/
def execPowerStateWake (u : PowerUnit) (s : State) : Host.Outcome State Fault Refusal :=
  guarded (.powerStateWake u) (wakeUnit s u)

/-- Units deeper than `LAT_TOL` now allows wake. -/
def wakeDeeper (s : State) (p : Nat) : State :=
  let l := latTol s p
  let x := partOf s p
  let hs := (List.range 640).filter fun h => hasCluster x h && decide (clusterDepth l (heldActive s h) < (clusOf s h).power)
  let ks := (s.pwr.chPower.filter fun e => bit x.panels (e.1 / 24) && decide (channelDepth l < e.2)).map (·.1)
  let cs := (List.range 18).filter fun c =>
    ((portOf s c).pstate == 8 && decide (portLimit s < 2000)) || ((portOf s c).narrow != 0 && decide (portLimit s < 10))
  cs.foldl wakePort (ks.foldl (fun t k => setChannel t k 0) (hs.foldl (fun t h => wakeUnit t (.cluster h)) s))

/-- LAT_TOL_WRITE: the field takes the low 32 bits of the word written. -/
def latTolWrite (s : State) (p : Nat) (val : Word) : State :=
  if (partOf s p).ptstate = 0 then s else wakeDeeper (putReg s p R.pcLattol 31 0 (fld val 31 0)) p

def execLatTolWrite (p : Nat) (val : Word) (s : State) : Host.Outcome State Fault Refusal :=
  guarded (.latTolWrite p val) (latTolWrite s p val)

end Sys2Proof.Machine
end

