-- ==== Sys2Proof/Machine/Security.lean ====
section
/-! DEFINITION. The commands of `KEYS` (R371, R372, R389, R405, Table 15-6), flash commands (R405), attestation
reports (R374-R376), the SPDM responder and CXL IDE keys (R375, R384). -/

namespace Sys2Proof.Machine

/-! ### Owner signatures (R372) -/

/-- Whether an owner signature over a command code and its payload verifies: the signed bytes are the code, the
device ID, `MNONCE` and the payload. OTP holds the owner key's digest only, so the check is uninterpreted (log 4). -/
def ownerSigned (s : State) (code : Nat) (payload sig : List Byte) : Bool :=
  let msg := toLE 1 code ++ toLE 4 (ownId s).toNat ++ toLE 32 s.sec.mnonce.toNat ++ payload
  (ownerIx s).isSome && Config.ownerVerify (ownerDigest s) msg sig

/-- `KSTAT` of the last KEYS command (Table 16-15). -/
def keysEnd (s : State) (status : Nat) : State := putMreg s M.paStat 31 24 status

/-- Whether any partition exists, live or parked. -/
def anyPartition (s : State) : Bool := s.parts.any fun e => e.2.ptstate != 0

/-- An owner slot blown: a key digest, marked used. -/
def takeSlot (s : State) (i : Nat) (key : List Byte) : State :=
  { s with sec := { s.sec with
    owners := sset .blank s.sec.owners i { OwnerSlot.blank with digest := Config.sha384 key, used := true } } }

/-- ENROLL: only while no slot is used (Table 15-6). -/
def enroll (s : State) (payload : List Byte) : State :=
  if (ownerIx s).isSome then keysEnd s Status.denied
  else if payload.length != 97 then keysEnd s Status.notRun
  else
    let s1 := takeSlot s 0 payload
    keysEnd { s1 with sec := { s1.sec with pst := pstOf s1 s1.pattern.isSome } } Status.ok

/-- TRANSFER with a good signature: the next slot, the old one revoked, a device reset. -/
def transfer (s : State) (payload : List Byte) : State :=
  match ownerIx s with
  | none => keysEnd s Status.denied
  | some i =>
    if anyPartition s then keysEnd s Status.busy
    else if i = 3 ∨ payload.length ≠ 97 then keysEnd s Status.notRun
    else
      let s1 := takeSlot s (i + 1) payload
      let s2 := { s1 with sec := { s1.sec with owners := smod .blank s1.sec.owners i fun o => { o with revoked := true } } }
      beginDevReset (keysEnd s2 Status.ok) false

/-- In a state other than CONFIGURED the Nyzan and service ports are held down, fenced ones apart (R372). -/
def holdPorts (s : State) : State :=
  let nyz := (List.range 18).filter fun c => (portOf s c).pstate != 9
  let s1 := nyz.foldl (fun t c => onPort (autoClear t c) c fun _ => Port.down) s
  ((List.range 2).filter fun n => mreg s (M.ptSvc n) 1 0 != 3).foldl (fun t n => putMreg t (M.ptSvc n) 1 0 0) s1

/-- UNLOCK with both signatures: vault zeroised, one count bit blown, `PST` UNLOCKED (R389). -/
def unlock (s : State) (payload : List Byte) : State :=
  if anyPartition s then keysEnd s Status.busy
  else if !Config.debugSigOk payload then keysEnd s Status.denied
  else
    let s1 := zeroise s
    let s2 := holdPorts { s1 with sec := { s1.sec with jtag := min 16 (s.sec.jtag + 1), unlocked := true, pst := 4 } }
    keysEnd s2 Status.ok

/-- A KEYS command: its payload of `KLEN` bytes from `KY_BUF`, its signature right behind (R405). `MNONCE` is
renewed after every command that carries a signature (R372). -/
def keysCommand (s : State) (cmd klen : Nat) : State :=
  let payload := mread s.sec.kybuf 0 klen
  let good := ownerSigned s cmd payload (mread s.sec.kybuf klen 96)
  if !serving s then s
  else if 416 < klen ∨ cmd = 0 ∨ 4 ≤ cmd then keysEnd s Status.notRun
  else if cmd = 1 then enroll s payload
  else renewNonce (if !good then keysEnd s Status.denied else if cmd = 2 then transfer s payload else unlock s payload)

def execEnroll (klen : Nat) (s : State) : Host.Outcome State Fault Refusal :=
  guarded (.enroll klen) (keysCommand s 1 klen)

def execTransfer (klen : Nat) (s : State) : Host.Outcome State Fault Refusal :=
  guarded (.transfer klen) (keysCommand s 2 klen)

def execUnlock (klen : Nat) (s : State) : Host.Outcome State Fault Refusal :=
  guarded (.unlock klen) (keysCommand s 3 klen)

/-! ### Flash commands (R405, Table 16-15) -/

/-- `FSTAT` of the last flash command. -/
def flashEnd (s : State) (status : Nat) : State := putMreg s M.flCtl 15 8 status

/-- ERASE or PROGRAM at `FADDR`: BUSY while one runs, NOT_RUN outside the image and pattern regions or misaligned. -/
def flashCommand (s : State) (erase : Bool) : State :=
  let a := mreg s M.flCtl 63 32
  if !serving s then s
  else if s.sec.frun.isSome then flashEnd s Status.busy
  else if 0x2800000 ≤ a ∨ a % (if erase then 65536 else 256) ≠ 0 then flashEnd s Status.notRun
  else { s with sec := { s.sec with frun := some (erase, a, if erase then [] else mread s.sec.flbuf 0 256) } }

def execErase64KiB (s : State) : Host.Outcome State Fault Refusal := guarded .erase64KiB (flashCommand s true)
def execProgram256Bytes (s : State) : Host.Outcome State Fault Refusal := guarded .program256Bytes (flashCommand s false)

/-- FLASH_COMMAND_COMPLETE -/
def flashComplete (s : State) : State :=
  match s.sec.frun with
  | none => s
  | some (erase, a, bs) =>
    let s1 := { s with sec := { s.sec with frun := none } }
    flashEnd (if erase then flashErase s1 a 65536 else flashWrite s1 a bs) Status.ok

def execFlashCommandComplete (s : State) : Host.Outcome State Fault Refusal :=
  guarded .flashCommandComplete (flashComplete s)

/-! ### Attestation (R374-R376, Tables 15-8, 15-9) -/

/-- The `PMAP` entry of a partition (Table 16-13). -/
def pmEntry (s : State) (p : Nat) : Nat :=
  let x := partOf s p
  x.panels.toNat * 2 ^ 16 + b2n (x.ptstate != 0) * 2 ^ 15 + b2n x.dbgen * 2 ^ 14 + x.ptstate * 2 ^ 11

/-- What the configuration digest covers, in the order of R376. -/
def configWords (s : State) (p : Nat) : List Nat :=
  let x := partOf s p
  let windows := (List.range 16).flatMap fun k => [R.hwOff k, R.hwBase k, R.hwCtl k]
  let regs := windows ++ [R.pcShrb, R.pcShrs, R.brBase, R.brSize]
  [pmEntry s p, x.vbolts, x.qbolts, x.hwcap] ++ regs.map (fun o => (x.reg o).toNat)
    ++ [b2n x.dbgen, fld x.mac0 47 0, fld x.mac0 59 48, fld x.mac1 47 0, fld x.mac1 59 48]

/-- `PCFG` (R376). -/
def configDigest (s : State) (p : Nat) : BitVec 384 := Config.sha384 ((configWords s p).flatMap (toLE 8))

/-- Bytes 0x000 to 0x0FF of a report: of the device, or of a partition. -/
def reportBody (s : State) (part : Option Nat) (nonce : List Byte) : List Byte :=
  let x := (part.map (partOf s)).getD Partition.none_
  let flags := b2n s.rel.freshBoot * 32 + b2n s.sec.pcopy * 16 + b2n s.sec.icopy * 8 + b2n s.rel.oos * 4
    + b2n s.rel.prob * 2 + b2n x.dbgen
  toLE 1 1 ++ toLE 1 (if part.isSome then 2 else 1) ++ toLE 1 (part.getD 0) ++ toLE 1 flags ++ toLE 4 (ownId s).toNat
    ++ slice nonce 0 32 ++ digestBytes s.sec.fwd ++ digestBytes s.sec.patd ++ digestBytes (ownerDigest s)
    ++ toLE 2 s.sec.isvn ++ toLE 2 s.sec.psvn ++ toLE 1 s.sec.jtag ++ toLE 1 ((ownerIx s).getD 0) ++ zeros 2
    ++ ((part.map fun p => digestBytes (configDigest s p)).getD (zeros 48)) ++ toLE 2 x.panels.toNat
    ++ toLE 4 s.rel.resets.toNat ++ zeros 10

/-- The signed report of 352 bytes. NOT_RUN for a partition that does not exist, for a kind that is reserved, and
without an identity key (R389). -/
def report (s : State) (kind p : Nat) (nonce : List Byte) : Option (List Byte) :=
  let part := if kind = 2 then some p else none
  match s.sec.idKey with
  | none => none
  | some k =>
    if kind = 1 ∨ (kind = 2 ∧ p < 16 ∧ exists_ s p) then
      let b := reportBody s part nonce
      some (b ++ slice (Config.ecdsaSign k b) 0 96)
    else none

/-- Whether a logical device's mailbox on a host port answers. -/
def mailboxUp (s : State) (p h : Nat) : Bool := firmwareUp s && boundUp s p h

/-- HINOWEN_REPORT_OBJECT: a logical device gets the report of its own partition and of the device (R375). -/
def doeReport (s : State) (p h kind : Nat) (nonce : List Byte) : State :=
  if !mailboxUp s p h then s
  else match report s kind p nonce with
    | some bs => emit s (.answer h Status.ok bs)
    | none => emit s (.answer h Status.notRun [])

def execHinowenReportObject (p h kind : Nat) (nonce : List Byte) (s : State) : Host.Outcome State Fault Refusal :=
  guarded (.hinowenReportObject p h kind nonce) (doeReport s p h kind nonce)

/-- SPDM_REQUEST: answered as SPDM 1.2 states, which is not in the spec (log 4). -/
def spdm (s : State) (p h : Nat) (req : List Byte) : State :=
  if mailboxUp s p h then emit s (.answer h Status.ok (Config.spdmAnswer p h req)) else s

def execSpdmRequest (p h : Nat) (req : List Byte) (s : State) : Host.Outcome State Fault Refusal :=
  guarded (.spdmRequest p h req) (spdm s p h req)

/-- IDE_KM: a key for one stream of a host port, in an SPDM secured session only (Table 15-9, R384). -/
def ideKey (s : State) (h : Nat) (mem : Bool) (key : BitVec 256) (secured : Bool) : State :=
  if !(firmwareUp s && hostUp s h && secured) then s
  else if mem then { s with sec := { s.sec with ideMem := sset 0 s.sec.ideMem h key } }
  else { s with sec := { s.sec with ideIo := sset 0 s.sec.ideIo h key } }

def execIdeKm (h : Nat) (mem : Bool) (key : BitVec 256) (secured : Bool) (s : State) : Host.Outcome State Fault Refusal :=
  guarded (.ideKm h mem key secured) (ideKey s h mem key secured)

end Sys2Proof.Machine
end

