-- ==== Sys2Proof/Machine/Bar0.lean ====
section
/-! DEFINITION. Writes and reads of a partition's BAR0 (R390-R400): what a write of each block does beside its
fields, and what the fields that the device derives show. -/

namespace Sys2Proof.Machine

/-! ### Writes -/

/-- The fields of a register take a word (R3, R5). -/
def bar0Plain (s : State) (p off : Nat) (w : Word) : State :=
  onPart s p fun x => x.setReg off ((bar0Reg off).write w (x.reg off))

/-- A write that some condition allows; otherwise it is ignored. -/
def bar0When (ok : Bool) (s : State) (p off : Nat) (w : Word) : State := if ok then bar0Plain s p off w else s

/-- PCTL (R395): `LAT_TOL` wakes units (R247), `SPER` and `SREQ` plan seams (R427). -/
def pctlWrite (s : State) (p off : Nat) (w : Word) : State :=
  if off = R.pcLattol then latTolWrite s p w
  else if off = R.pcSeam then
    let s1 := bar0Plain s p off w
    let s2 := if (partOf s p).ptstate = 1 then sperWritten s1 p (reg s p R.pcSeam 31 0) else s1
    if bit w 32 then seamRequest s2 p else s2
  else bar0Plain s p off w

/-- CTX: the configuration registers take writes only while the context is FREE (R229). -/
def ctxWrite (s : State) (p off : Nat) (w : Word) : State :=
  let c := (off - 0x10000) / 256
  bar0When (cstate s p c == Cs.free && !(ctxOf s p c).starting) s p off w

/-- DBELL: a context command, or a semaphore post (R231, R240). -/
def dbellWrite (s : State) (p off : Nat) (w : Word) : State :=
  let c := (off - 0x20000) / 4096
  match off % 4096 with
  | 0 => cxDoorbell s p c (fld w 3 0)
  | 8 => ringDoorbell s p c w
  | _ => s

/-- RMST: while `EN` is 1 only `EN`, the class registers and `RM_BINT` take writes (R300). -/
def rmstWrite (s : State) (p off : Nat) (w : Word) : State :=
  let on := reg s p R.rmCtl 0 0 == 1
  if off = R.rmCtl then
    if on then (if bit w 0 then s else rmDisable s p)
    else if bit w 0 && (partOf s p).ptstate == 1 then rmEnable s p w
    else bar0Plain s p off w
  else bar0When (!on || off == R.rmBint || decide (R.rmCls 0 ≤ off)) s p off w

/-- Whether `TL_JOB` takes a job (R248). -/
def jobSettable (s : State) (p job : Nat) : Bool :=
  let x := partOf s p
  (x.get R.tpCtl 23 20 == 0 || x.get R.tpCtl 23 20 == 4)
  && (List.range 2).all (fun i => lstate x i == 0 && wstate x i == 0)
  && (List.range 16).all fun q => q == p || !exists_ s q || reg s q R.tlJob 31 0 != job

/-- TLR: commands of layouts, plans and weights, and the registers that the Tailor guards (R248-R250, R265, R266,
R273, Table 11-12). -/
def tlrWrite (s : State) (p off : Nat) (w : Word) : State :=
  let x := partOf s p
  let live := x.ptstate == 1
  let free := fun f : Partition → Nat → Nat => (List.range 2).all fun i => f x i == 0
  match off - 0x70000 with
  | 0x00 => bar0When (jobSettable s p (fld w 31 0)) s p off w
  | 0x08 => when_ (live && free lstate) s (putReg s p R.tlEpoch 15 0 (fld w 31 16))
  | 0x10 => when_ live s (onPart s p fun y => { y with tailor := { y.tailor with sset := some (BitVec.ofNat 32 (fld w 63 32)) } })
  | 0x18 => when_ (fld w 17 16 == 1) s (layoutRelease s p 0)
  | 0x20 => when_ (fld w 17 16 == 1) s (layoutRelease s p 1)
  | 0x28 => layoutDrain (bar0Plain s p off w) p 0
  | 0x30 => layoutDrain (bar0Plain s p off w) p 1
  | 0x40 => if fld w 1 0 = 1 then planSubmit s p else if fld w 1 0 = 2 then planAbort s p else s
  | 0x50 | 0x58 => bar0When (wstate x 0 == 0) s p off w
  | 0x68 | 0x70 => bar0When (wstate x 1 == 0) s p off w
  | 0x88 => when_ (live && free wstate) s (putReg s p R.qcGen 15 0 (fld w 31 16))
  | 0x98 | 0xA0 => bar0When (x.get R.tpCtl 23 20 == 0 || x.get R.tpCtl 23 20 == 4) s p off w
  | _ => bar0Plain s p off w

/-- PKT: while `EN` is 1 only `EN` and `GWM` take writes (R285). -/
def pktWrite (s : State) (p off : Nat) (w : Word) : State :=
  if reg s p R.pkCtl 0 0 = 0 ∨ off = R.pkGwm then bar0Plain s p off w
  else if off = R.pkCtl then putReg s p off 0 0 (fld w 0 0)
  else s

/-- A grant slot: base, size and job while it is FREE; its commands (Table 8-13). -/
def gntWrite (s : State) (p off : Nat) (w : Word) : State :=
  let g := (off - 0x91000) / 32
  if off % 32 = 24 then
    match fld w 1 0 with
    | 1 => grantCreate s p g
    | 2 => grantRevoke s p g
    | _ => s
  else bar0When (gstate (partOf s p) g == Gs.free) s p off w

/-- The rings of a service port: bases and sizes are ignored while `SEN` is 1 (R397). -/
def svWrite (s : State) (p off : Nat) (w : Word) : State :=
  let n := (off - 0x90100) / 0x40
  if reg s p (R.svCtl n) 32 32 = 0 then bar0Plain s p off w
  else match off % 0x40 with
    | 0x00 | 0x10 => s
    | 0x20 => putReg s p off 32 32 (fld w 32 32)
    | _ => bar0Plain s p off w

/-- NYZ (R207, R379, R396, Table 8-13). -/
def nyzWrite (s : State) (p off : Nat) (w : Word) : State :=
  if off = R.cgrpCtl then
    let s1 := bar0Plain s p off w
    match fld w 1 0 with
    | 1 => groupLoad s1 p (fld w 13 8)
    | 2 => groupClear s1 p (fld w 13 8)
    | _ => s1
  else if off = R.jkCtl then jkCommand (bar0Plain s p off w) p (fld w 2 0)
  else if 0x91000 ≤ off ∧ off < 0x93000 then gntWrite s p off w
  else if 0x90100 ≤ off ∧ off < 0x90180 then svWrite s p off w
  else bar0Plain s p off w

/-- MIG: base and size of the hint queue only while it is empty (R398). -/
def migWrite (s : State) (p off : Nat) (w : Word) : State :=
  let empty := reg s p R.migHqHead 31 0 == reg s p R.migHqTail 31 0
  bar0When (empty || (off != R.migHqBase && off != R.migHqSize)) s p off w

/-- A whole aligned write of a BAR0 register. A partition that does not exist ignores it (R223), so does one
that is reset; a PARKED one takes only PCTL (R299). -/
def bar0Write (s : State) (p off : Nat) (w : Word) : State :=
  let st := (partOf s p).ptstate
  if st = 0 ∨ st = 5 ∨ (st = 3 ∧ ¬ (0x1000 ≤ off ∧ off < 0x2000)) then s
  else if off < 0x1000 then s
  else if off < 0x2000 then pctlWrite s p off w
  else if off < 0x10000 then s
  else if off < 0x14000 then ctxWrite s p off w
  else if off < 0x20000 then s
  else if off < 0x60000 then dbellWrite s p off w
  else if off < 0x70000 then rmstWrite s p off w
  else if off < 0x80000 then tlrWrite s p off w
  else if off < 0x90000 then pktWrite s p off w
  else if off < 0xA0000 then nyzWrite s p off w
  else if off < 0xB0000 then migWrite s p off w
  else bar0Plain s p off w

/-! ### Reads -/

/-- The counters of a unit and class that a selection register names (R333). -/
def selected (s : State) (w : Word) : UnitCount := sget .zero s.rel.counts (unitKey (fld w 31 24) (fld w 23 20) (fld w 19 0))

/-- `ERR_UCNT` and `ERR_UWT` show only units of the partition (R399). -/
def errUnit (s : State) (p : Nat) : UnitCount :=
  let w := (partOf s p).reg R.errUsel
  if unitPart s (fld w 23 20) (fld w 19 0) = some p then selected s w else .zero

/-- `WTOT` and `WWIN` in one word. -/
def unitWeights (u : UnitCount) : Nat := u.wtot.toNat * 2 ^ 32 + u.wwin

/-- `DST` of a core (Table 16-10). -/
def debugState (k : Core) : Nat :=
  match k.run with
  | .issuing => 0
  | .waiting _ => 1
  | .idle | .stopped => 2
  | .halted => 3

/-- `DBG_CORE` (R400). -/
def debugCore (s : State) (p : Nat) : Nat :=
  let g := coreOfCid (reg s p R.dbgSel 13 0)
  match holderOf s g with
  | some hd =>
    if (partOf s p).dbgen && hd.part == p && hd.ctx == reg s p R.dbgSel 21 16 then
      (coreOf s g).pc % 2 ^ 15 * 2 ^ 32 + (coreOf s g).exc.toNat * 2 ^ 16 + debugState (coreOf s g)
    else 0
  | none => 0

/-- The wear figures (Tables 7-12, 16-7). -/
def wearWord (s : State) (off : Nat) : Nat :=
  let w := s.wardrobe.wear
  match off - 0xA0000 with
  | 0x38 => w.gbw / 10 ^ 9 % 2 ^ 64
  | 0x40 => w.gbp / 10 ^ 9 % 2 ^ 64
  | 0x48 => satTo 16 w.mec * 2 ^ 48 + satTo 16 w.life * 2 ^ 32 + satTo 16 w.spare * 2 ^ 16
      + b2n (decide (w.spare < 2)) * 2 + b2n (decide (w.spare < 10))
  | _ => satTo 32 w.uncor * 2 ^ 32 + satTo 32 w.retry

/-- The registers whose fields are derived; none for those that are stored. -/
def bar0Derived (s : State) (p off : Nat) : Option Nat :=
  let x := partOf s p
  if off = R.pcStat then some (b2n x.dbgen * 128 + x.ptstate * 16 + x.pph * 4 + x.bound.toNat)
  else if off = R.pkStat then some (freeFrames x * 2 ^ 32 + x.get R.pkStat 31 16 * 2 ^ 16)
  else if off = R.cgrpCtl then some (fld (x.reg off) 23 16 * 2 ^ 16 + (x.group (fld (x.reg off) 13 8)).st * 2 ^ 14 + fld (x.reg off) 13 8 * 2 ^ 8)
  else if off = R.jkCtl then
    let w := x.reg off
    some (fld w 63 24 * 2 ^ 24 + (x.jkey (fld w 21 16)).st * 2 ^ 22 + fld w 21 16 * 2 ^ 16)
  else if off = R.migUse then some (blocksUsed x * 2 ^ 32 + framesUsed x)
  else if R.migWr ≤ off ∧ off ≤ R.migRetry then some (wearWord s off)
  else if off = R.errUcnt then some (errUnit s p).cnt.toNat
  else if off = R.errUwt then some (unitWeights (errUnit s p))
  else if off = R.dbgEn then some (b2n x.dbgen)
  else if off = R.dbgCore then some (debugCore s p)
  else none

/-- What a read of an aligned BAR0 register returns (R223, R299, R390). -/
def bar0Read (s : State) (p off : Nat) : Word :=
  let st := (partOf s p).ptstate
  if off < 0x1000 then idWord s p off
  else if st = 0 ∨ (st = 3 ∧ 0x2000 ≤ off) then 0
  else match bar0Derived s p off with
    | some v => BitVec.ofNat 64 v
    | none => (bar0Reg off).read ((partOf s p).reg off)

end Sys2Proof.Machine
end

