-- ==== Sys2Proof/Machine/Reliability.lean ====
section
/-! DEFINITION. Known-answer kernels and votes, watchdogs, fences, probation and health records
(R333-R349, Tables 14-2 to 14-8). -/

namespace Sys2Proof.Machine

/-! ### The checker slice (R339, R340) -/

/-- Whether core `g` is in the checker slice: core 15 of a cluster that no context holds and that has no fenced
core, on a LIVE partition's panel or one of no partition. -/
def inSlice (s : State) (g : Nat) : Bool :=
  let h := g / 16
  let live := match unitPart s 2 h with
    | some p => (partOf s p).ptstate == 1
    | none => true
  g % 16 == 15 && (clusOf s h).holder.isNone && !clusterFenced s h && live

/-- Runs leave the slice cores of some clusters; nothing is charged (R340). -/
def dropKernels (s : State) (hit : Nat → Bool) : State :=
  { s with rel := { s.rel with kernels := s.rel.kernels.filter fun e => !hit (e.1 / 16) } }

/-- KNOWN_ANSWER_KERNEL: one run per slice core, at most `KAK_MAX` in all, of a kernel not disabled. -/
def kernelStart (s : State) (g k : Nat) : State :=
  if serving s && inSlice s g && sget 0 s.rel.kernels g == 0 && !s.rel.badKern.contains k
      && decide (s.rel.kernels.length < mreg s M.hrCfg 9 0) then
    { s with rel := { s.rel with kernels := sset 0 s.rel.kernels g (k + 1) } }
  else s

def execKnownAnswerKernel (g k : Nat) (s : State) : Host.Outcome State Fault Refusal :=
  guarded (.knownAnswerKernel g k) (kernelStart s g k)

/-- A vote without capacity: NONE (R337, R341, Table 14-5). -/
def voteNone (s : State) (p : Nat) (vid : BitVec 32) (core : Nat) : State :=
  voteResult (charge s 0x14 1 core) p vid Vout.none_ 0x14 core

/-- KERNEL_COMPLETE: a digest other than the golden one is put to the vote (R340). -/
def kernelComplete (s : State) (g : Nat) (digest : BitVec 384) : State :=
  let k := sget 0 s.rel.kernels g
  if k = 0 then s
  else
    let s1 := { s with rel := { s.rel with kernels := sset 0 s.rel.kernels g 0 } }
    let golden := Config.goldenDigest (k - 1)
    if digest = golden then s1
    else
      let vid := s1.rel.nextVid
      let part := (unitPart s1 1 g).getD 16
      let s2 := { s1 with rel := { s1.rel with nextVid := vid + 1 } }
      if part < 16 ∧ 4 ≤ votesOf s1 part then voteNone s2 part vid g
      else
        let v : Vote := { vid := vid, part := part, core := g, kernel := some (k - 1), orig := .digest digest
                          check := .digest golden, tol := [], p0 := [] }
        { s2 with rel := { s2.rel with votes := s2.rel.votes ++ [v] } }

def execKernelComplete (g : Nat) (digest : BitVec 384) (s : State) : Host.Outcome State Fault Refusal :=
  guarded (.kernelComplete g digest) (kernelComplete s g digest)

/-! ### The three-way vote (R341-R343) -/

/-- The vote of an identifier. -/
def voteOf (s : State) (vid : BitVec 32) : Option Vote := s.rel.votes.find? fun v => v.vid == vid

/-- Whether two results agree (R342): every column within its τ, or equal digests. -/
def agree (tol : List (BitVec 32)) : Recompute → Recompute → Bool
  | .digest a, .digest b => a == b
  | .audit xs, .audit ys =>
    let val := fun x : BitVec 32 × BitVec 32 => Num.add (ofFp32 x.1.toNat) (ofFp32 x.2.toNat)
    xs.length == ys.length && xs.length == tol.length
    && ((xs.zip ys).zip tol).all fun e => !Num.lt (ofFp32 e.2.toNat) (Num.sub (val e.1.1) (val e.1.2)).abs
  | _, _ => false

/-- A recompute's column sums with the vote's p added (R341); integer sums, whose τ are all zero, are taken modulo
2^32. -/
def withP0 (v : Vote) : Recompute → Recompute
  | .digest d => .digest d
  | .audit cols =>
    let int := v.tol.all (· == 0)
    let wrap := fun x : BitVec 32 × BitVec 32 =>
      match Num.add (ofFp32 x.1.toNat) (ofFp32 x.2.toNat) with
      | .fin sg n d e => pairOf (Num.ofInt (sext 32 (wrapTo 32 (roundInt sg n d e))))
      | _ => x
    .audit ((cols.zip v.p0).map fun e =>
      if int then wrap (pairOf (Num.add (Num.add (ofFp32 e.1.1.toNat) (ofFp32 e.1.2.toNat))
        (Num.add (ofFp32 e.2.1.toNat) (ofFp32 e.2.2.toNat))))
      else addPairs e.1 e.2)

/-- Whether two slice cores may recompute a vote: on clusters other than the original's and each other's, of its
partition or of no partition (R341), within a slice of `KAK_MAX` cores (R339). Which cores the slice takes is the
device's choice, so whether its partition's or another die's came first is not judged (log 143). -/
def mayVote (s : State) (v : Vote) (g1 g2 : Nat) : Bool :=
  let ok := fun g : Nat => inSlice s g && g / 16 != v.core / 16 &&
    (match unitPart s 1 g with
     | some p => p == v.part
     | none => true)
  ok g1 && ok g2 && g1 / 16 != g2 / 16
    && decide (((s.rel.kernels.map (·.1)) ++ [g1, g2]).eraseDups.length ≤ mreg s M.hrCfg 9 0)

/-- A vote leaves the votes in progress. -/
def dropVote (s : State) (vid : BitVec 32) : State :=
  { s with rel := { s.rel with votes := s.rel.votes.filter fun v => v.vid != vid } }

/-- Outcome CHECKER: charged for an audit; a kernel is disabled until the next device reset (Table 14-5). -/
def chargeChecker (s : State) (v : Vote) : State :=
  match v.kernel with
  | none => charge s 0x11 1 v.core
  | some k => { s with rel := { s.rel with badKern := s.rel.badKern ++ [k] } }

/-- The first line of Table 14-5 that applies. -/
def voteDecide (s : State) (v : Vote) (a b : Bool) (ab : Bool) (g1 g2 : Nat) : State :=
  if a && b then voteResult (chargeChecker s v) v.part v.vid Vout.checker 0x11 v.core
  else if ab then voteResult (charge s 0x12 1 v.core) v.part v.vid Vout.original 0x12 v.core
  else if a || b then
    voteResult (charge (chargeChecker s v) 0x12 1 (if a then g2 else g1)) v.part v.vid Vout.checker 0x11 v.core
  else
    let s1 := [v.core, g1, g2].foldl (fun t g => charge t 0x13 1 g) s
    let s2 := voteResult s1 v.part v.vid Vout.split 0x13 v.core
    if v.part < 16 then beginPartReset s2 v.part true false else s2

/-- VOTE_RECOMPUTE_COMPLETE -/
def voteRecompute (s : State) (vid : BitVec 32) (r1 r2 : Recompute) (g1 g2 : Nat) : State :=
  match voteOf s vid with
  | none => s
  | some v =>
    if !mayVote s v g1 g2 then s
    else
      let x := withP0 v r1
      let y := withP0 v r2
      voteDecide (dropVote s vid) v (agree v.tol x v.orig) (agree v.tol y v.orig) (agree v.tol x y) g1 g2

def execVoteRecomputeComplete (vid : BitVec 32) (r1 r2 : Recompute) (g1 g2 : Nat) (s : State) :
    Host.Outcome State Fault Refusal :=
  guarded (.voteRecomputeComplete vid r1 r2 g1 g2) (voteRecompute s vid r1 r2 g1 g2)

/-- VOTE_NONE_TIMEOUT: no two recompute cores within 100 ms (R341). -/
def execVoteNoneTimeout (vid : BitVec 32) (s : State) : Host.Outcome State Fault Refusal :=
  guarded (.voteNoneTimeout vid) (match voteOf s vid with
    | some v => voteNone (dropVote s vid) v.part vid v.core
    | none => s)

/-! ### Watchdogs and heartbeats (R348, R349) -/

/-- ENGINE_WATCHDOG: ENGINE_WDOG is charged and an engine reset starts (R348). -/
def execEngineWatchdog (e : EngineId) (s : State) : Host.Outcome State Fault Refusal :=
  guarded (.engineWatchdog e) (when_ (firmwareUp s) s (beginEngineReset (charge s 0x10 12 (engineIndex e)) e))

/-- ENGINE_RESET_COMPLETE: the engine is back, its state clear (R350, R351). -/
def engineBack (s : State) (e : EngineId) : State :=
  if s.rel.engResets.contains e then
    engineEvent { s with rel := { s.rel with engResets := s.rel.engResets.filter fun x => x != e } } e Status.ok
  else s

def execEngineResetComplete (e : EngineId) (s : State) : Host.Outcome State Fault Refusal :=
  guarded (.engineResetComplete e) (engineBack s e)

/-- The control core of a firmware role as an engine of kind 7 (Tables 14-3, 14-8): IO-A cores 0 to 7, IO-B 8 to 15. -/
def roleEngine (role : Nat) : EngineId := { die := 4 + role / 8, kind := 7, inst := role % 8 }

/-- Whether the firmware on a control core acts for a partition: its Ringmaster instance, the Tailor, the migration
policy, and on one of these two the Pocket (R25, R349). -/
def servesPart (s : State) (p role : Nat) : Bool :=
  match coreRole role with
  | .tailor | .migration => true
  | .ringmaster => (partOf s p).ring.on && (partOf s p).ring.core == role
  | .management | .fault => false

/-- HEARTBEAT_MISS: the role is restarted; a second miss within 20 ms resets the partition (R349). -/
def heartbeatMiss (s : State) (p role : Nat) : State :=
  if (partOf s p).ptstate != 1 || !firmwareUp s || !servesPart s p role then s
  else
    let s1 := errEvent s p 16
    let now := ioaNow s
    let again := s.rel.fwSilent.any fun e => e.1 == p && e.2.1 == role && decide (now ≤ e.2.2 + 20000000)
    let rest := s.rel.fwSilent.filter fun e => !(e.1 == p && e.2.1 == role)
    if again then beginPartReset s1 p true false
    else beginEngineReset { s1 with rel := { s1.rel with fwSilent := rest ++ [(p, role, now)] } } (roleEngine role)

def execHeartbeatMiss (p role : Nat) (s : State) : Host.Outcome State Fault Refusal :=
  guarded (.heartbeatMiss p role) (heartbeatMiss s p role)

/-- MANAGEMENT_AGENT_RESTART: the fault agent restarts it (R349); the spec names no register or record that
changes (log 35). -/
def execManagementAgentRestart (s : State) : Host.Outcome State Fault Refusal := guarded .managementAgentRestart s

/-! ### Fences (R345, Table 14-8) -/

/-- `FSTAT` of the last fence command. -/
def fnEnd (s : State) (status : Nat) : State := putMreg s M.fnStat 15 8 status

/-- Whether a unit type and index stand in Table 14-8. -/
def fenceable (ut idx : Nat) : Bool :=
  match ut with
  | 1 => idx < 10240
  | 3 => idx < 16
  | 7 => idx < 18
  | 8 => idx < 2
  | 9 => idx < 2
  | _ => false

/-- Whether a unit is fenced; a port may be so by R356. -/
def isFenced (s : State) (ut idx : Nat) : Bool :=
  match ut with
  | 1 => s.rel.fencedCores.contains idx
  | 3 => bit s.rel.fencedPanels idx && !bit s.rel.lifting idx
  | 7 => bit s.rel.fencedNyz idx || bit s.rel.oosFences idx
  | 8 => bit s.rel.fencedSvc idx || bit s.rel.oosFences (18 + idx)
  | 9 => bit s.rel.fencedHost idx
  | _ => false

/-- The contexts whose START is in progress on a cluster that a fence hits end it BUSY: the cluster counts as
held (Table 14-8). -/
def stopStarts (s : State) (hit : Nat → Bool) : State :=
  let cs := (List.range 16).flatMap fun p => ((partOf s p).ctxs.filter fun e => e.2.starting).map fun e => (p, e.1)
  cs.foldl (fun t e =>
    if (ctxClusters (partOf t e.1) e.2).any hit then
      lstat (onCtx (releaseClusters t e.1 e.2) e.1 e.2 fun _ => .fresh) e.1 e.2 Status.busy
    else t) s

/-- A core is fenced: its context takes `FENCED`. -/
def fenceCore (s : State) (g : Nat) : State :=
  let s1 := dropKernels (stopStarts s fun h => h == g / 16) fun h => h == g / 16
  let s2 := { s1 with rel := { s1.rel with fencedCores := s1.rel.fencedCores ++ [g] } }
  coreFault s2 g Exc.fenced (coreOf s2 g).pc 0 0

/-- A panel is fenced: every context of its partition takes `FENCED`, at the first core of the context. -/
def fencePanel (s : State) (q : Nat) : State :=
  let hit := fun h => panelOfCluster h == q
  let s1 := dropKernels (stopStarts s hit) hit
  let s2 := { s1 with rel := { s1.rel with
    fencedPanels := setFld s1.rel.fencedPanels q q 1, lifting := setFld s1.rel.lifting q q 0 } }
  match unitPart s2 3 q with
  | none => s2
  | some p => (List.range 64).foldl (fun t c =>
      match holdsNow t p c, (ctxCores (partOf t p) c).head? with
      | true, some g => coreFault t g Exc.fenced (coreOf t g).pc 0 0
      | _, _ => t) s2

/-- One unit is fenced. -/
def fenceUnit (s : State) (ut idx : Nat) : State :=
  match ut with
  | 1 => fenceCore s idx
  | 3 => fencePanel s idx
  | 7 => fencePort { s with rel := { s.rel with fencedNyz := setFld s.rel.fencedNyz idx idx 1 } } idx
  | 8 => putMreg { s with rel := { s.rel with fencedSvc := setFld s.rel.fencedSvc idx idx 1 } } (M.ptSvc idx) 1 0 3
  | 9 => putMreg (hostDown { s with rel := { s.rel with fencedHost := setFld s.rel.fencedHost idx idx 1 } } idx) (M.ptHost idx) 1 0 2
  | _ => s

/-- One unit's fence is lifted. A panel stays fenced until its channels are retrained (PANEL_RELEASE). -/
def unfenceUnit (s : State) (ut idx : Nat) : State :=
  let trains := s.sec.pst == 0
  match ut with
  | 1 => { s with rel := { s.rel with fencedCores := s.rel.fencedCores.filter fun g => g != idx } }
  | 3 => { s with rel := { s.rel with lifting := setFld s.rel.lifting idx idx 1 } }
  | 7 =>
    let s1 := { s with rel := { s.rel with
      fencedNyz := setFld s.rel.fencedNyz idx idx 0, oosFences := setFld s.rel.oosFences idx idx 0 } }
    onPort s1 idx fun _ => { Port.down with pstate := if trains then 6 else 0 }
  | 8 =>
    let s1 := { s with rel := { s.rel with
      fencedSvc := setFld s.rel.fencedSvc idx idx 0, oosFences := setFld s.rel.oosFences (18 + idx) (18 + idx) 0 } }
    putMreg s1 (M.ptSvc idx) 1 0 (if trains then 1 else 0)
  | 9 => putMreg { s with rel := { s.rel with fencedHost := setFld s.rel.fencedHost idx idx 0 } } (M.ptHost idx) 1 0 0
  | _ => s

/-- FENCE and UNFENCE: NOT_RUN outside Table 14-8; OK without a change where nothing changes. -/
def fenceCmd (s : State) (on : Bool) (ut idx : Nat) : State :=
  if !serving s then s
  else if !fenceable ut idx then fnEnd s Status.notRun
  else if isFenced s ut idx == on then fnEnd s Status.ok
  else fnEnd (openEvent (if on then fenceUnit s ut idx else unfenceUnit s ut idx) ut idx (b2n on)) Status.ok

def execFence (ut idx : Nat) (s : State) : Host.Outcome State Fault Refusal :=
  guarded (.fence ut idx) (fenceCmd s true ut idx)

def execUnfence (ut idx : Nat) (s : State) : Host.Outcome State Fault Refusal :=
  guarded (.unfence ut idx) (fenceCmd s false ut idx)

/-- The resident tiles of a partition that lie on a panel's channels (R138). -/
def tilesOnPanel (x : Partition) (q : Nat) : List Nat :=
  ((x.bolts.filter fun e => e.2.framed).flatMap fun e => boltTiles e.1).filter fun t => (tileChannel x t).1 == q

/-- PANEL_RELEASE: after retraining and scrubbing the panel is released (Table 14-8). Its stores read zero, and
the tiles that its channels held are lost: POISON with free bytes (log 36). -/
def panelRelease (s : State) (q : Nat) : State :=
  if !bit s.rel.lifting q then s
  else
    let s1 := { s with rel := { s.rel with
      fencedPanels := setFld s.rel.fencedPanels q q 0, lifting := setFld s.rel.lifting q q 0 } }
    let s2 := scrubStores s1 (setFld 0 q q 1)
    match unitPart s2 3 q with
    | none => s2
    | some p =>
      (tilesOnPanel (partOf s2 p) q).foldl (fun t i => poisonedTile t p i) s2

def execPanelRelease (panel : Nat) (s : State) : Host.Outcome State Fault Refusal :=
  guarded (.panelRelease panel) (panelRelease s panel)

/-! ### Probation (R346) -/

/-- PSET and PCLR; a change sends an EVENT record (R344). -/
def setProbation (s : State) (on : Bool) : State :=
  if !serving s || s.rel.prob == on then s
  else openEvent { s with rel := { s.rel with prob := on } } 0 0 (b2n on)

def execPset (s : State) : Host.Outcome State Fault Refusal := guarded .pset (setProbation s true)
def execPclr (s : State) : Host.Outcome State Fault Refusal := guarded .pclr (setProbation s false)

/-! ### Health records (R333, R344) -/

/-- The clusters that a context has held for longer than `KAK_PER`, in probation for 60 s, and that no kernel checks
(R339, R346). -/
def uncheckedClusters (s : State) : List Nat :=
  let per := if s.rel.prob then 60 else mreg s M.hrKak 16 0
  (s.clusters.filter fun e => e.2.holder.isSome
    && decide (e.2.since + per * 1000000000 < (sget 0 s.dieCtr 4).toNat)).map (·.1)

/-- PERIODIC: every unit and class whose counters changed since the last record, and every cluster that stays unchecked,
under a class that is open (log 5). -/
def periodic (s : State) : State :=
  if !firmwareUp s then s
  else
    let un := (uncheckedClusters s).map fun h => healthEntry s (freeBelow s 0 256) 2 h 0 0
    let es := (s.rel.changed.map fun k => healthEntry s (nfld k 31 24) (nfld k 23 20) (nfld k 19 0) 0 0) ++ un
    healthRecord 1 (es.length / 40 + 1) (spend { s with rel := { s.rel with changed := [] } } (b2n (un != []))) es

def execPeriodic (s : State) : Host.Outcome State Fault Refusal := guarded .periodic (periodic s)

/-- The window of 60 buckets moves by one (R333). -/
def UnitCount.roll (u : UnitCount) : UnitCount :=
  let w := (0 :: u.win).take 60
  { u with win := if w.all (· == 0) then [] else w }

/-- The windows of R139 move by one. -/
def HbmDie.roll (d : HbmDie) : HbmDie :=
  { d with
    blocks := (d.blocks.map fun e => (e.1, e.2 + 1)).filter fun e => e.2 < 60
    uncor := (d.uncor.map (· + 1)).filter (· < 60) }

/-- WWIN_BUCKET_ROLL: every 60 s the oldest bucket leaves the window; the windows of R139 roll with it. -/
def bucketRoll (s : State) : State :=
  { s with rel := { s.rel with
    counts := s.rel.counts.map fun e => (e.1, e.2.roll)
    hbmDies := s.rel.hbmDies.foldl (fun m e => sset .fresh m e.1 e.2.roll) s.rel.hbmDies } }

def execWwinBucketRoll (s : State) : Host.Outcome State Fault Refusal := guarded .wwinBucketRoll (bucketRoll s)

end Sys2Proof.Machine
end

