-- ==== Sys2Proof/Machine/Mgmt.lean ====
section
/-! DEFINITION. The management space and management access (R402-R411): register words, frames, the session. -/

namespace Sys2Proof.Machine

/-! ### Register words -/

/-- Words of `PMAP` (Table 16-13). -/
def pmapWord (s : State) (a : Nat) : Option Nat :=
  if a = M.pmPanel then some (((List.range 16).map fun q => (unitPart s 3 q).getD 0 * 16 ^ q).sum)
  else if a = M.pmPused then some (panelsHeld s).toNat
  else if 0x100 ≤ a ∧ a < 0x500 then
    let n := (a - 0x100) / 0x40
    match a % 0x40 with
    | 0x00 => some (pmEntry s n)
    | 0x08 => some (idWord s n 0x10).toNat
    | 0x10 => some (idWord s n 0x18).toNat
    | 0x18 => some (idWord s n 0x30).toNat
    | 0x20 => some (idWord s n 0x38).toNat
    | 0x28 => some (partOf s n).viol.toNat
    | _ => some 0
  else none

/-- Words of `FENCE`, `RST` and `BIST` (Table 14-12). -/
def rstWord (s : State) (a : Nat) : Option Nat :=
  let kept := fun (hi lo : Nat) => mreg s a hi lo * 2 ^ lo
  if a = M.fnStat then some (s.rel.fencedCores.length * 2 ^ 32 + s.rel.fencedPanels.toNat * 2 ^ 16 + kept 15 8 + b2n s.rel.prob)
  else if a = M.fnPort then
    some (s.rel.fencedHost.toNat * 2 ^ 20 + (s.rel.oosFences.toNat ||| (s.rel.fencedSvc.toNat * 2 ^ 18 + s.rel.fencedNyz.toNat)))
  else if a = M.rsStat then some (kept 63 48 + s.rel.dph)
  else if a = M.rsHist then some (s.rel.drcnt * 2 ^ 16 + s.rel.prcnt)
  else if a = M.rsPph then some (((List.range 16).map fun p => (partOf s p).pph * 4 ^ p).sum)
  else if a = M.biStat then some (s.rel.bres * 2 ^ 16 + kept 15 8 + s.rel.bst)
  else none

/-- Words of `PAT` (Table 16-15). -/
def patWord (s : State) (a : Nat) : Option Nat :=
  let c := s.sec
  if a = M.paStat then
    some (mreg s a 31 24 * 2 ^ 24 + c.bstat * 2 ^ 16 + (ownerIx s).getD 0 * 2 ^ 10 + b2n c.pcopy * 512 + b2n c.icopy * 256 + c.pst)
  else if M.paNonce 0 ≤ a ∧ a ≤ M.paNonce 3 then
    let k := 8 * (a - M.paNonce 0)
    some (fld c.mnonce (k + 63) k)
  else if M.paPdgst 0 ≤ a ∧ a ≤ M.paPdgst 5 then
    let k := 8 * (a - M.paPdgst 0)
    some (fld c.patd (k + 63) k)
  else if a = M.flCtl then some (mreg s a 63 32 * 2 ^ 32 + mreg s a 15 8 * 2 ^ 8 + b2n c.frun.isSome * 4)
  else none

/-- Words of `HREC` and `PWR` (Tables 16-16, 16-17). The measurements but `TMAX` are open (log 5). -/
def pwrWord (s : State) (a : Nat) (free : Word) : Option Nat :=
  if a = M.hrUcnt then some (selected s (mregOf s M.hrUsel)).cnt.toNat
  else if a = M.hrUwt then some (unitWeights (selected s (mregOf s M.hrUsel)))
  else if a = M.hrSeq then some (s.rel.lost.toNat * 2 ^ 32 + s.rel.hrseq.toNat)
  else if a = M.pwMeas then some (measured s free)
  else if a = M.pwThr then some (s.pwr.fmin.toNat * 2 ^ 16 + b2n (slowing s))
  else none

/-- Two route entries, or half a domain entry (R408). -/
def tableWord (s : State) (bank : Bool) (a : Nat) : Nat :=
  if a < 0x40000 then (routeOf s bank (a / 4 + 1)).toNat * 2 ^ 32 + (routeOf s bank (a / 4)).toNat
  else fld (domainOf s bank ((a - 0x40000) / 16)) (if a % 16 = 8 then 127 else 63) (if a % 16 = 8 then 64 else 0)

/-- Whether an offset of a table window names an entry. -/
def tableOff (a : Nat) : Bool := a < 4 * 55296 || (0x40000 ≤ a && a < 0x40000 + 16 * 32)

/-- Words of `PORT` (Table 16-18). -/
def portWord (s : State) (a : Nat) : Option Nat :=
  let q := portOf s ((a - 0x800000) / 0x100)
  if a < 0x801200 then
    match a % 0x100 with
    | 0x00 => some (mreg s a 63 48 * 2 ^ 48 + q.lanes.toNat * 2 ^ 16 + q.dres * 2 ^ 8 + q.pstate)
    | 0x20 => some q.peer.toNat
    | _ => none
  else if a = M.ptRtsw then some (b2n s.fabric.abank * 256)
  else if M.rtInact ≤ a ∧ a < M.rtAct then some (if tableOff (a - M.rtInact) then tableWord s (!s.fabric.abank) (a - M.rtInact) else 0)
  else if M.rtAct ≤ a then some (if tableOff (a - M.rtAct) then tableWord s s.fabric.abank (a - M.rtAct) else 0)
  else none

/-- What a read of an aligned management word returns (R390, R402). -/
def mgmtWord (s : State) (a : Nat) (free : Word) : Word :=
  if M.view 0 ≤ a then bar0Read s ((a - M.view 0) / 0x1000000 % 16) (a % 0x1000000)
  else
    let d := if a < 0x100000 then pmapWord s a else if a < 0x400000 then rstWord s a else if a < 0x500000 then none
      else if a < 0x600000 then patWord s a else if a < 0x800000 then pwrWord s a free else portWord s a
    match d with
    | some v => BitVec.ofNat 64 v
    | none => (mgmtReg a).read (mregOf s a)

/-! ### Writes -/

/-- The fields of a register take a word. -/
def mgmtPlain (s : State) (a : Nat) (w : Word) : State := setMreg s a ((mgmtReg a).write w (mregOf s a))

/-- A write to the inactive route or domain table, in both routers. `AUTO` and reserved bits are not written; a
count outside its range leaves `DC` as it is (R5, R408, Tables 9-5, 9-6). -/
def tableWrite (s : State) (o : Nat) (w : Word) : State :=
  let bank := !s.fabric.abank
  if o < 4 * 55296 then
    let e := fun (lo : Nat) => BitVec.ofNat 32 (fld w (lo + 31) (lo + 2) * 4)
    setRoute (setRoute s bank (o / 4) (e 0)) bank (o / 4 + 1) (e 32)
  else if 0x40000 ≤ o ∧ o < 0x40000 + 16 * 32 then
    let i := (o - 0x40000) / 16
    let old := domainOf s bank i
    let dc := if 1 ≤ fld w 49 32 ∧ fld w 49 32 ≤ 55296 then fld w 49 32 else fld old 49 32
    let id := fun (lo : Nat) => fld w (lo + 31) (lo + 31) * 2 ^ 31 + fld w (lo + 17) lo
    let new := if o % 16 = 8 then setFld old 127 64 (id 0 + id 32 * 2 ^ 32) else setFld old 63 0 (id 0 + dc * 2 ^ 32)
    let f := s.fabric
    if bank then { s with fabric := { f with doms1 := sset 0 f.doms1 i new } }
    else { s with fabric := { f with doms0 := sset 0 f.doms0 i new } }
  else s

/-- Writes of `FENCE`, `RST` and `BIST` (Table 14-12). -/
def rstWrite (s : State) (a : Nat) (w : Word) : State :=
  if a = M.fnCmd then
    match fld w 1 0 with
    | 1 => fenceCmd s true (fld w 11 8) (fld w 31 16)
    | 2 => fenceCmd s false (fld w 11 8) (fld w 31 16)
    | _ => s
  else if a = M.fnStat then
    if bit w 1 && !bit w 2 then setProbation s true else if bit w 2 && !bit w 1 then setProbation s false else s
  else if a = M.rsCmd then
    match fld w 2 0 with
    | 1 => presetCmd s (fld w 7 4)
    | 2 => devResetCmd s
    | 3 => returnCmd s
    | _ => s
  else if a = M.biCmd then (if fld w 1 0 = 1 then bistRun s else s)
  else s

/-- Writes of `KEYS` and `PAT` (Table 16-15). -/
def keysWrite (s : State) (a : Nat) (w : Word) : State :=
  if a < M.kyCmd then { s with sec := { s.sec with kybuf := mput s.sec.kybuf (a - M.kyBuf) (toLE 8 w.toNat) } }
  else if a = M.kyCmd then keysCommand s (fld w 7 0) (fld w 24 16)
  else if a = M.flCtl then
    let s1 := mgmtPlain s a w
    match fld w 1 0 with
    | 1 => flashCommand s1 true
    | 2 => flashCommand s1 false
    | _ => s1
  else if M.flBuf ≤ a ∧ a < M.flBuf + 256 then
    { s with sec := { s.sec with flbuf := mput s.sec.flbuf (a - M.flBuf) (toLE 8 w.toNat) } }
  else s

/-- Writes of `PORT` (R173, R203, R408). -/
def portWrite (s : State) (a : Nat) (w : Word) : State :=
  if a < 0x801200 ∧ a % 0x100 = 0 then (if fld w 25 24 = 1 then startRetrain s ((a - 0x800000) / 0x100) else s)
  else if a = M.ptRtsw then (if bit w 0 then rtSwap s else s)
  else if M.rtInact ≤ a ∧ a < M.rtAct then tableWrite s (a - M.rtInact) w
  else mgmtPlain s a w

/-- A whole aligned write of a management register; views take none (R402). -/
def mgmtWrite (s : State) (a : Nat) (w : Word) : State :=
  if !firmwareUp s || !mgmtListed a || decide (M.view 0 ≤ a) then s
  else if a = M.pmCmd then pmCommand s (fld w 3 0)
  else if a < 0x100000 then mgmtPlain s a w
  else if a < 0x400000 then rstWrite s a w
  else if a < 0x600000 then keysWrite s a w
  else if a < 0x800000 then mgmtPlain s a w
  else portWrite s a w

/-- REGISTER_WRITE: any write but an aligned one of 8 bytes is ignored (R390). -/
def registerWrite (s : State) (sp : RegSpace) (off len : Nat) (val : Word) : State :=
  if len ≠ 8 ∨ off % 8 ≠ 0 then s
  else match sp with
    | .bar0 p => bar0Write s p off val
    | .mgmt => mgmtWrite s off val

def execRegisterWrite (sp : RegSpace) (off len : Nat) (val : Word) (s : State) : Host.Outcome State Fault Refusal :=
  guarded (.registerWrite sp off len val) (registerWrite s sp off len val)

/-! ### Frames (R409, Tables 16-19, 16-20) -/

namespace Mop
def read : Nat := 1
def write : Nat := 2
def report : Nat := 3
def session : Nat := 4
end Mop

/-- Whether the signed bytes of a frame say what its fields say: a request of an operation. -/
def frameSays (f : MgmtFrame) (mop : Nat) : Bool :=
  leAt f.signed 0 1 == 0x80 && leAt f.signed 1 1 == mop && leAt f.signed 4 4 % 2 ^ 18 == f.mdev.toNat
  && leAt f.signed 8 8 == f.mseq.toNat && leAt f.signed 0x10 4 == f.maddr.toNat && leAt f.signed 0x14 4 == f.mlen
  && (mop == Mop.read || f.signed.drop 32 == f.mdata)

/-- The MGMT message that carries bytes to a device. -/
def mgmtMsg (src dst : DevId) (bytes : List Byte) : Msg :=
  { blankMsg Mt.mgmt 0 dst 0 with src := src, len := bytes.length, payload := bytes }

/-- The VC3 message of a frame has been taken. -/
def takeFrame (s : State) (f : MgmtFrame) : State :=
  match s.fabric.inbox.find? fun m => m.mtype == Mt.mgmt && m.payload == f.signed ++ f.mtag with
  | some m => takeInbox s m
  | none => s

/-- The response to a request goes back the way the request came, with a tag under `key` or a zero tag. -/
def mgmtReply (s : State) (f : MgmtFrame) (mop status : Nat) (data : List Byte) (key : Option (BitVec 256)) : State :=
  let hdr := toLE 1 0x81 ++ toLE 1 mop ++ toLE 1 status ++ toLE 1 0 ++ toLE 4 f.mdev.toNat ++ toLE 8 f.mseq.toNat
    ++ toLE 4 f.maddr.toNat ++ toLE 4 data.length ++ zeros 8
  let bs := hdr ++ data
  let tag := (key.map fun k => slice (Config.hmac16 k bs) 0 16).getD (zeros 16)
  match f.via with
  | none => emit s (.mgmt (bs ++ tag))
  | some dev => sendOn s anyPort (mgmtMsg (ownId s) dev (bs ++ tag))

/-- A frame for another module is forwarded; its source stays, and is this module for the management port (R409). -/
def mgmtForward (s : State) (f : MgmtFrame) : State :=
  sendOn s anyPort (mgmtMsg (f.via.getD (ownId s)) f.mdev (f.signed ++ f.mtag))

/-- Tag and counter of the session (R410). -/
def mgmtAuth (s : State) (f : MgmtFrame) : Bool :=
  match s.sec.sessKey with
  | none => false
  | some k => f.mtag == slice (Config.hmac16 k f.signed) 0 16
      && (match s.sec.sessSeq with
          | none => true
          | some n => decide (n.toNat < f.mseq.toNat))

/-- The last accepted counter. -/
def mgmtAccept (s : State) (f : MgmtFrame) : State := { s with sec := { s.sec with sessSeq := some f.mseq } }

/-- A request with its authority: a session's, or none where it needs none (R410). -/
def authorised (s : State) (f : MgmtFrame) (mop : Nat) (free : Bool) (act : State → State) : State :=
  if free then act s
  else if mgmtAuth s f then act (mgmtAccept s f)
  else mgmtReply s f mop Status.denied [] none

/-- Whether the management port links: its lane runs on the reference, which `REFOK` tells of (R433, log 138). -/
def mgmtLinked (s : State) : Bool := s.pwr.refok

/-- Whether `MKIND` is reserved (Tables 9-2 and 16-19). -/
def kindReserved (k : Nat) : Bool := k != 0x01 && k != 0x80 && k != 0x81

/-- A frame of reserved `MKIND` is discarded and counted (R409, log 133). -/
def countBadKind (s : State) : State := { s with fabric := { s.fabric with badKinds := s.fabric.badKinds + 1 } }

/-- A request of a reserved `MOP` is answered NOT_RUN (Table 16-20), if it carries the session's authority (R410). -/
def reservedMop (s : State) (f : MgmtFrame) (mop : Nat) : State :=
  authorised s f mop false fun t => mgmtReply t f mop Status.notRun [] t.sec.sessKey

/-- A request that reaches this module acts; a frame that is not one, that finds no firmware, or that would come over a
management port without a link does nothing. -/
def mgmtRequest (s : State) (f : MgmtFrame) (mop : Nat) (act : State → State) : State :=
  let s0 := takeFrame s f
  if !firmwareUp s || (f.via.isNone && !mgmtLinked s) then s0
  else if kindReserved (leAt f.signed 0 1) then countBadKind s0
  else if (leAt f.signed 1 1 = 0 ∨ 4 < leAt f.signed 1 1) ∧ frameSays f (leAt f.signed 1 1) ∧ f.mdev = ownId s then
    reservedMop s0 f (leAt f.signed 1 1)
  else if !frameSays f mop then s0
  else if f.mdev ≠ ownId s then mgmtForward s0 f
  else act s0

/-- Whether a range is well formed (Table 16-19). -/
def rangeOk (f : MgmtFrame) : Bool := f.maddr.toNat % 8 == 0 && f.mlen % 8 == 0 && f.mlen ≤ 1024

/-- The words of a range. -/
def rangeWords (f : MgmtFrame) : List Nat := (List.range (f.mlen / 8)).map fun i => f.maddr.toNat + 8 * i

/-- Whether every byte of a range lies in a listed block (R402, R411). -/
def rangeListed (f : MgmtFrame) : Bool := mgmtListed f.maddr.toNat && (rangeWords f).all mgmtListed

/-- Whether a range lies within a block. -/
def rangeIn (f : MgmtFrame) (lo hi : Nat) : Bool := decide (lo ≤ f.maddr.toNat ∧ f.maddr.toNat + f.mlen ≤ hi)

/-! ### Operations (R375, R410, R411) -/

/-- READ: the words of the range in ascending order. -/
def mgmtRead (s : State) (f : MgmtFrame) : State :=
  authorised s f Mop.read (rangeIn f 0x500000 0x600000) fun t =>
    if !rangeOk f || !rangeListed f then mgmtReply t f Mop.read Status.notRun [] t.sec.sessKey
    else
      let ws := (rangeWords f).zipIdx.flatMap fun e => toLE 8 (mgmtWord t e.1 (freeAt t e.2)).toNat
      mgmtReply (spend t (f.mlen / 8)) f Mop.read Status.ok ws t.sec.sessKey

def execRead (f : MgmtFrame) (s : State) : Host.Outcome State Fault Refusal :=
  guarded (.read f) (mgmtRequest s f Mop.read fun t => mgmtRead t f)

/-- WRITE: checked whole, then the words in ascending order. A range that touches a view is DENIED. -/
def mgmtWriteReq (s : State) (f : MgmtFrame) : State :=
  authorised s f Mop.write (rangeIn f 0x400000 0x500000) fun t =>
    let end_ := fun (u : State) (st : Nat) => mgmtReply u f Mop.write st [] t.sec.sessKey
    if !rangeOk f || f.mdata.length != f.mlen then end_ t Status.notRun
    else if (rangeWords f).any fun a => M.view 0 ≤ a && mgmtListed a then end_ t Status.denied
    else if !rangeListed f then end_ t Status.notRun
    else end_ ((rangeWords f).zipIdx.foldl (fun u e => mgmtWrite u e.1 (BitVec.ofNat 64 (leAt f.mdata (8 * e.2) 8))) t) Status.ok

def execWrite (f : MgmtFrame) (s : State) : Host.Outcome State Fault Refusal :=
  guarded (.write f) (mgmtRequest s f Mop.write fun t => mgmtWriteReq t f)

/-- REPORT: of the device, or of any partition (R375). -/
def mgmtReport (s : State) (f : MgmtFrame) : State :=
  match (if f.mlen = 40 then report s (leAt f.mdata 0 1) (leAt f.mdata 1 1) (slice f.mdata 8 32) else none) with
  | some bs => mgmtReply s f Mop.report Status.ok bs s.sec.sessKey
  | none => mgmtReply s f Mop.report Status.notRun [] s.sec.sessKey

def execReport (f : MgmtFrame) (s : State) : Host.Outcome State Fault Refusal :=
  guarded (.report f) (mgmtRequest s f Mop.report fun t => mgmtReport t f)

/-- The ASCII bytes of DZ3-MGMT-1. -/
def mgmtLabel : List Byte := [0x44, 0x5A, 0x33, 0x2D, 0x4D, 0x47, 0x4D, 0x54, 0x2D, 0x31]

/-- SESSION: the owner's signature over the ephemeral key makes the one session, under a key that both derive; the
salt is `MNONCE` before its renewal (R372, R410). -/
def mgmtSession (s : State) (f : MgmtFrame) : State :=
  let peer := slice f.mdata 0 97
  let no := fun (t : State) (st : Nat) => mgmtReply t f Mop.session st [] t.sec.sessKey
  match s.sec.idKey with
  | none => no s Status.notRun
  | some id =>
    if f.mlen ≠ 200 then no s Status.notRun
    else if !ownerSigned s Mop.session peer (slice f.mdata 97 96) then no (renewNonce s) Status.denied
    else
      let eph := BitVec.ofNat 384 (drbg s 0 6)
      let mine := slice (Config.publicKey eph) 0 97
      let key := hkdf32 (toLE 32 s.sec.mnonce.toNat) (Config.ecdhX eph peer) mgmtLabel
      let s1 := renewNonce (spend { s with sec := { s.sec with sessKey := some key, sessSeq := none } } 6)
      let data := mine ++ slice (Config.ecdsaSign id (peer ++ mine)) 0 96 ++ zeros 7
      mgmtReply s1 f Mop.session Status.ok data (some key)

def execSession (f : MgmtFrame) (s : State) : Host.Outcome State Fault Refusal :=
  guarded (.session f) (mgmtRequest s f Mop.session fun t => mgmtSession t f)

end Sys2Proof.Machine
end

