-- ==== Sys2Proof/Machine/Stages.lean ====
section
/-! DEFINITION. What a path unit computes for one unit of a DMA (Table 4-8): the elements of its source,
the rotation (R115), the encoding into a memory tile (R122-R124, R144) and into flat bytes (R92, R126). -/

namespace Sys2Proof.Machine

/-! ### The source (stages 1 to 3) -/

/-- The first tile of the bolt range, counted in tiles of the partition virtual range. -/
def boltTile0 : Nat := boltBase / 4096

/-- A source tile as a DMA of context `c` sees it; one that it may not address arrives as a zero tile
(Table 15-12). -/
def srcTile (s : State) (p c : Nat) (d : Dma) (t : Nat) : List Byte × Collar :=
  match spaceOf d.src with
  | .nyzan => (mread d.buf (4096 * t) 4096, sget zeroCollar d.bufCol t)
  | _ =>
    let x := partOf s p
    if ctxMay s p c (4096 * t) && pvKind x (4096 * t) == .bolt then
      (tileBytes x (t - boltTile0), tileCollar x (t - boltTile0))
    else (zeros 4096, zeroCollar)

/-- Whether a byte of the partition virtual range may be read by a DMA of context `c`. -/
def mayByte (s : State) (p c a : Nat) : Bool := ctxMay s p c a && pvKind (partOf s p) a != .outside

/-- Whether a DMA of context `c` whose source begins at its address may read byte `a` of the stores: an access does not run
past the end of its window (R135). -/
def maySrc (s : State) (p c : Nat) (d : Dma) (a : Nat) : Bool := mayByte s p c a && decide (a < windowEnd (addrOff d.src))

/-- Source bytes of a flat source. -/
def srcBytes (s : State) (p c : Nat) (d : Dma) (a n : Nat) : List Byte :=
  match spaceOf d.src with
  | .pv => (pvPeek s p (maySrc s p c d) a n).1
  | _ => mread d.buf a n

/-- Tags of the flat source words that bytes touch. -/
def srcTags (s : State) (p c : Nat) (d : Dma) (a n : Nat) : BitVec 3 :=
  match spaceOf d.src with
  | .pv => (wordsOf a n).foldl (fun t w => if maySrc s p c d (8 * w) then t ||| sget 0 s.tags w else t) 0
  | _ => (wordsOf a n).foldl (fun t w => t ||| sget 0 d.bufTag w) 0

/-- The codebook slot of element i (R84). -/
def slotOf (s : State) (g : Nat) (e : Entry) (i : Nat) : Nat :=
  if e.bind = 0 then e.cbs else (mget s.stores (g * 0x40000 + e.cbl + i % (max e.rlen 1) / 128)).toNat

/-- The source elements of a DMA. -/
def srcCount (d : Dma) (e : Entry) : Nat := d.len * 8 / max (fmtWidth e.sfmt) 1

/-- The grid of a DMA's elements. -/
def gridOf (d : Dma) (e : Entry) : Grid :=
  { rlen := e.rlen, n := srcCount d e
    run := if e.exact && e.rlen == 0 && isMemory d.src && isMemory d.dst then elemsPerTile e.sfmt else 0 }

/-- Source element i after stage 3. -/
def srcElem (s : State) (p c g : Nat) (d : Dma) (e : Entry) (i : Nat) : Elem :=
  let f := e.sfmt
  let scl := e.sscl
  let w := fmtWidth f
  let gr := gridOf d e
  let tab := if isCodebook f then cbEntries (coreOf s g) (slotOf s g e i) else []
  let a := addrOff d.src
  if isMemory d.src then
    let t0 := a / 4096
    let pl := elemPlace f scl t0 gr i
    let b := srcTile s p c d pl.1
    let v := viewTile b.1 b.2 f scl
    let blk := scl == 1 || scl == 2
    let sp := scalePlace f scl t0 i
    let sb := srcTile s p c d sp.1
    let sv := viewTile sb.1 sb.2 f scl
    let code := elemAt v.payload w pl.2
    let sc := if blk then leAt sv.payload sp.2 1 else if scl = 3 then v.collar.bscale else 0
    { code := code, val := sourceValue f scl (ofFp32 e.sts) tab code sc v.over, scale := sc, ovr := v.over
      pois := bit v.tags 0 || v.collar.xovr == -128 || (blk && bit sv.tags 0)
      sat := bit v.tags 1, aud := bit v.tags 2 }
  else
    let o := a + w * i / 8
    let n := (w * i + w - 1) / 8 + 1 - w * i / 8
    let code := nfld (le (srcBytes s p c d o n)) (w * i % 8 + w - 1) (w * i % 8)
    let sb := scaleBytes scl
    let so := a + flatScales f gr.n + blockOf scl gr i * sb
    let sc := if scl = 0 then 0 else le (srcBytes s p c d so sb)
    let t := srcTags s p c d o n
    { code := code, val := sourceValue f scl (ofFp32 e.sts) tab code sc 0, scale := sc, ovr := 0
      pois := bit t 0 || (scl != 0 && bit (srcTags s p c d so sb) 0), sat := bit t 1, aud := bit t 2 }

/-! ### Stage 4: the rotation (R115) -/

/-- The elements of the rotation block of element i, in order of their positions. -/
def rotBlock (e : Entry) (i : Nat) : List Nat :=
  let rl := max e.rlen 1
  let r := i / rl
  let c := i % rl
  let n := e.rotN
  if e.axis = 0 then (List.range n).map fun k => r * rl + (c - c % n + k)
  else (List.range n).map fun k => (r - r % n + k) * rl + c

/-- The position of element i in its block. -/
def rotPos (e : Entry) (i : Nat) : Nat :=
  if e.axis = 0 then i % max e.rlen 1 % e.rotN else i / max e.rlen 1 % e.rotN

/-- The smoothing factor of element i. -/
def smooth (s : State) (g : Nat) (e : Entry) (i : Nat) : Num :=
  let ix := if e.axis = 0 then i % max e.rlen 1 else i / max e.rlen 1
  if e.smoen then ofFp32 (mle s.stores (g * 0x40000 + e.smo + 4 * ix) 4) else .pow2 0

/-- Whether position j has sign -1. -/
def signBitAt (s : State) (g : Nat) (e : Entry) (j : Nat) : Bool :=
  e.sgnen && bit (mget s.stores (g * 0x40000 + e.sgn + j / 8)) (j % 8)

/-- The parity of the bits of a number below 256. -/
def oddBits (v : Nat) : Bool := ((List.range 8).filter fun k => v.testBit k).length % 2 == 1

/-- x times √2, exactly enough for one rounding to 24 bits: the value lies strictly between the same two
multiples of its 2^-64 step as the product, which is irrational for x ≠ 0. -/
def timesRoot2 : Num → Num
  | .fin s n d e =>
    if n = 0 then .fin s n d e
    else
      let k := 64 + d.log2
      let q := isqrt (2 * n * n * 4 ^ k / (d * d)) (n.log2 + k + 2) 0
      .fin s (2 * q + 1) 1 (e - (k : Int) - 1)
  | x => x

/-- x over √n for the four Hadamard sizes. -/
def overRoot (n : Nat) (x : Num) : Num :=
  match n with
  | 32 => Num.mul (timesRoot2 x) (.pow2 (-3))
  | 64 => Num.mul x (.pow2 (-3))
  | 128 => Num.mul (timesRoot2 x) (.pow2 (-4))
  | _ => Num.mul x (.pow2 (-4))

/-- The exact sum of the terms of a block; zeros of one sign keep it (R75). -/
def exactSum : List Num → Num
  | [] => .zero false
  | x :: t => t.foldl Num.add x

/-- The rotated value of element i, rounded to FP32; a finite value beyond it saturates, as in every conversion (R78). -/
def rotated (s : State) (p c g : Nat) (d : Dma) (e : Entry) (i : Nat) : Num :=
  let bl := rotBlock e i
  let j := rotPos e i
  let xs := bl.map fun k => (srcElem s p c g d e k).val
  let sg := bl.map fun k => smooth s g e k
  if (xs ++ sg).any fun v => !v.isFin then .nan
  else
    let term := fun k =>
      let x := xs.getD k (.zero false)
      let fwd := e.rdir == 0
      let y := if fwd then Num.mul x (sg.getD k (.pow2 0)) else x
      if oddBits (j &&& k) != (fwd && signBitAt s g e k) then y.neg else y
    let y := overRoot e.rotN (exactSum ((List.range bl.length).map term))
    let z := if e.rdir = 0 then y
      else
        let w := Num.mul y (sg.getD j (.pow2 0))
        if signBitAt s g e j then w.neg else w
    ofFp32 ((fp32.conv z).getD 0x7FC00000)

/-- Element i as it enters stage 5; the marks of a rotated element are those of its whole block. -/
def stageElem (s : State) (p c g : Nat) (d : Dma) (e : Entry) (i : Nat) : Elem :=
  let x := srcElem s p c g d e i
  if e.roten then
    let bl := (rotBlock e i).map fun k => srcElem s p c g d e k
    { x with val := rotated s p c g d e i, pois := bl.any (·.pois), sat := bl.any (·.sat), aud := bl.any (·.aud) }
  else x

/-! ### Units of a transfer -/

/-- The units of a converting DMA: data tiles, scale tiles, or runs of 4,096 elements (log 13). -/
def dmaUnits (d : Dma) (e : Entry) : Nat :=
  let n := srcCount d e
  if isMemory d.dst then (if e.dscl = 3 then (if n = 0 then 0 else (gridOf d e).count) else cdiv n (elemsPerTile e.dfmt))
  else cdiv n 4096

/-- The elements of unit u. -/
def unitElems (d : Dma) (e : Entry) (u : Nat) : List Nat :=
  let n := srcCount d e
  let run := fun k => (List.range (min k (n - u * k))).map fun i => u * k + i
  if isMemory d.dst then (if e.dscl = 3 then (gridOf d e).elems u else run (elemsPerTile e.dfmt))
  else run 4096

/-- The elements whose tiles unit u needs: its own, their rotation blocks, and with a flat B128 destination
the whole scale tiles that its elements lie in (R126). -/
def unitNeeds (d : Dma) (e : Entry) (u : Nat) : List Nat :=
  let es := unitElems d e u
  let gr := gridOf d e
  let wide := if !isMemory d.dst && e.dscl == 3 then es ++ ((es.map fun i => (gr.place i).1).eraseDups.flatMap gr.elems) else es
  if e.roten then (wide.flatMap (rotBlock e)).eraseDups else wide

/-- The memory tiles that elements stand in, scale tiles included. -/
def tilesOf (d : Dma) (e : Entry) (is : List Nat) : List Nat :=
  let t0 := addrOff d.src / 4096
  ((is.map fun i => (elemPlace e.sfmt e.sscl t0 (gridOf d e) i).1)
    ++ (if e.sscl = 1 ∨ e.sscl = 2 then is.map fun i => (scalePlace e.sfmt e.sscl t0 i).1 else [])).eraseDups

/-- The byte spans of a flat source that elements stand in: codes, then scales. -/
def spansOf (d : Dma) (e : Entry) (is : List Nat) : List (Nat × Nat) :=
  let w := fmtWidth e.sfmt
  let gr := gridOf d e
  let a := addrOff d.src
  (is.map fun i => (a + w * i / 8, (w * i + w - 1) / 8 + 1 - w * i / 8))
    ++ (if e.sscl = 0 then []
        else (is.map (blockOf e.sscl gr)).eraseDups.map fun b => (a + flatScales e.sfmt gr.n + b * scaleBytes e.sscl, scaleBytes e.sscl))

/-! ### Writing a memory tile (stages 5 to 7) -/

/-- A write to memory: tile, first byte in it, bytes, and the collar. -/
structure TileOut where
  tile  : Nat
  off   : Nat
  bytes : List Byte
  col   : Collar
  deriving DecidableEq, Repr

/-- What a unit produces for memory: its data tiles, its scale bytes, and for the scale record the amax and
whether the unit was rescued. -/
structure UnitOut where
  tiles  : List TileOut
  scales : List TileOut
  amax   : Num
  missed : Bool
  deriving DecidableEq, Repr

/-- The elements that a tile written in part keeps (R144): codes, values, block scales of the whole tile,
its override and its flags. -/
structure Kept where
  codes  : List Nat
  vals   : List Num
  scales : List Nat
  ovr    : Int
  pois   : Bool
  sat    : Bool
  aud    : Bool
  deriving DecidableEq, Repr

/-- Nothing is kept. -/
def Kept.none_ : Kept := { codes := [], vals := [], scales := [], ovr := 0, pois := false, sat := false, aud := false }

/-- What the update of a tile keeps beyond its first m elements. `sc` gives the block-scale code of an
element of the tile. -/
def keptOf (f scl : Nat) (t : Num) (tab : Nat → List Num) (payload : List Byte) (col : Collar) (m : Nat)
    (sc : Nat → Nat) : Kept :=
  let v := viewTile payload col f scl
  let ks := ((List.range (v.extent f)).drop m)
  let w := fmtWidth f
  { codes := ks.map fun j => elemAt payload w j
    vals := ks.map fun j => sourceValue f scl t (tab j) (elemAt payload w j) (sc j) v.over
    scales := (List.range (cdiv (v.extent f) (max (blockSize scl) 1))).map fun b => sc (b * blockSize scl)
    ovr := v.over
    pois := v.bad || col.poison, sat := col.accSat, aud := col.auditFail }

/-- One data tile under `DSCL` 0, 1 or 2 from m written elements and what is kept: payload, collar, block
scales, amax, rescued (R92, R93, R122-R124, R144). `exact` holds the override with which codes and scales
move unchanged (R90). -/
def encodeTile (e : Entry) (tc : Nat) (pol : Nat) (tab : Nat → List Num) (cbi : Nat) (exact : Option Int)
    (xs : List Elem) (k : Kept) (part : Bool) : List Byte × Collar × List Nat × Num × Bool :=
  let f := e.dfmt
  let scl := e.dscl
  let t := ofFp32 tc
  let m := xs.length
  let vals := xs.map (·.val) ++ k.vals
  let a := amaxOf vals
  let resc := if e.sren then rescue pol f t a else none
  let ovr := match exact with
    | some o => o
    | none => resc.getD 0
  let t' := Num.mul t (.pow2 ovr)
  let last := tileBlk scl (m - 1)
  let fresh := storeScales f scl t' a vals
  let moved := k.codes != [] && ovr != k.ovr
  let scs := (List.range fresh.length).map fun b =>
    if (scl = 1 ∨ scl = 2) ∧ b ≤ last then
      (if exact.isSome then (xs.getD (b * blockSize scl) Elem.none_).scale else fresh.getD b 0)
    else if moved then fresh.getD b 0
    else k.scales.getD b (fresh.getD b 0)
  let pk := stage6 f scl e.iovf t' tab (tileBlk scl) scs vals
  let again := fun j => if j < m then exact.isNone else moved || ((scl == 1 || scl == 2) && decide (tileBlk scl j ≤ last))
  let codes := (List.range vals.length).map fun j =>
    if again j then pk.codes.getD j 0
    else if j < m then (xs.getD j Elem.none_).code else k.codes.getD (j - m) 0
  let scs' := if exact.isSome ∧ !moved then scs else pk.scales
  let pay := tilePayload f codes
  let pois := xs.any (·.pois) || (part && k.pois) || pk.bads.any again
  let col := mkCollar (crc32c pay) f scl ovr (decide (ovr ≠ 0)) (xs.any (·.sat) || (part && k.sat))
    (xs.any (·.aud) || (part && k.aud)) pois false (if isCodebook f then cbi else 0)
    (if isCodebook f then e.bind else 0) 0 (nelemOf f vals.length)
  (pay, col, scs', a, resc.isSome)

/-- The memory tiles of one B128 scale tile (R92, R122, R143): its elements in order, and for the last
memory tile what is kept. -/
def encodeScaleTile (e : Entry) (tc : Nat) (pol : Nat) (exact : Bool) (xs : List Elem) (k : Kept) (part : Bool) :
    List (List Byte × Collar) × Num × Bool :=
  let f := e.dfmt
  let t := ofFp32 tc
  let vals := xs.map (·.val) ++ k.vals
  let a := amaxOf vals
  let resc := if e.sren then rescue pol f t a else none
  let t' := Num.mul t (.pow2 (resc.getD 0))
  let sc0 := chooseScale 3 f a t'
  let et := elemsPerTile f
  let n := cdiv xs.length et
  let tiles := (List.range n).map fun j =>
    let ys := (xs.drop (j * et)).take et
    let last := decide (j + 1 = n)
    let kv := if last then k.vals else []
    let o := if exact then (ys.headD Elem.none_).ovr else resc.getD 0
    let tt := if exact then Num.mul t (.pow2 o) else t'
    let sc := if exact then (ys.headD Elem.none_).scale else sc0
    let pk := stage6 f 3 e.iovf tt (fun _ => []) (fun _ => 0) [sc] (ys.map (·.val) ++ kv)
    let m := ys.length
    let codes := (List.range (m + kv.length)).map fun i =>
      if exact && decide (i < m) then (ys.getD i Elem.none_).code else pk.codes.getD i 0
    let pay := tilePayload f codes
    let bad := pk.bads.any fun i => !(exact && decide (i < m))
    let pp := part && last
    (pay, mkCollar (crc32c pay) f 3 o (decide (o ≠ 0)) (ys.any (·.sat) || (pp && k.sat))
      (ys.any (·.aud) || (pp && k.aud)) (ys.any (·.pois) || (pp && k.pois) || bad) false 0 0 sc (nelemOf f (m + kv.length)))
  (tiles, a, resc.isSome)

/-! ### Writing flat bytes (R92, R126, R441) -/

/-- What a unit produces for a flat destination: the codes of its elements, the tag of each, and the block
scales that begin in it. -/
structure FlatOut where
  codes  : List Nat
  tags   : List (BitVec 3)
  scales : List (Nat × Nat)
  spent  : Nat
  deriving DecidableEq, Repr

/-- The largest override among the tiles that elements came from. -/
def maxOver (xs : List Elem) : Int :=
  match xs with
  | [] => 0
  | x :: r => r.foldl (fun a y => max a y.ovr) x.ovr

/-- Whether a destination is a core store, for which overrides are folded into the scales (R126, log 128). -/
def toCoreStore (d : Dma) : Bool := spaceOf d.dst == .pv && decide (addrOff d.dst < 0xA0000000)

/-- A code for an element under a block scale of zero: a NaN as stage 6 writes it, and for a number, whose code the spec
does not state, a free choice among the finite codes of its sign, all of which decode as R80 states (log 128). -/
def deadCode (f : Nat) (wrap : Bool) (w : Word) (x : Num) : Option Nat :=
  if x.isFin then
    let cs := (List.range (2 ^ fmtWidth f)).filter fun c => (decodeFmt f c).isFin && (decodeFmt f c).sign == x.sign
    some (cs.getD (w.toNat % max cs.length 1) 0)
  else encodeFmt f wrap .nan

/-- A unit for a flat destination. `el` gives the elements of the transfer. The scales are the source's or 1 (R92); for a
core store the overrides are folded into them (R126). An element keeps its code under R90, unless it goes to a core store
from a tile with an override or into a scale tile that took one. -/
def encodeFlat (s : State) (d : Dma) (e : Entry) (el : Nat → Elem) (tab : Nat → List Num) (is : List Nat) : FlatOut :=
  let f := e.dfmt
  let scl := e.dscl
  let gr := gridOf d e
  let fold := toCoreStore d
  let xs := is.map el
  let bs := if scl = 0 then [] else (is.map (blockOf scl gr)).eraseDups
  let members := fun b => if scl = 3 then gr.elems b else is.filter fun i => blockOf scl gr i == b
  let scs := bs.map fun b =>
    let src := ((members b).head?.map el).getD Elem.none_
    let code := if e.sscl = scl then src.scale else scaleOne scl
    let o := if fold then maxOver ((members b).map el) else 0
    if o = 0 then code else overrideScale scl o code
  let ix := fun i => bs.idxOf (blockOf scl gr i)
  let at_ := fun j => is.getD j 0
  let keep := fun j =>
    let x := xs.getD j Elem.none_
    e.exact && (!fold || (x.ovr == 0 && (scl != 3 || scs.getD (ix (at_ j)) 0 == x.scale)))
  let dead := fun j => scl != 0 && (scaleValue scl (scs.getD (ix (at_ j)) 0)).isZero
  let code := fun j : Nat =>
    let x := xs.getD j Elem.none_
    if keep j then some x.code
    else if dead j then deadCode f e.iovf (freeAt s j) x.val
    else encodeElem f scl e.iovf (ofFp32 e.dts) (tab (at_ j)) (scs.getD (ix (at_ j)) (scaleOne scl)) x.val
  let bad := fun j => (code j).isNone
  let outScs := (List.range bs.length).map fun b =>
    if (scl == 1 || scl == 2) && (List.range is.length).any fun j => ix (at_ j) == b && bad j then scaleNan scl
    else scs.getD b 0
  let tags := (List.range is.length).map fun j =>
    let x := xs.getD j Elem.none_
    BitVec.ofNat 3 (tagWord (x.pois || ((scl == 0 || scl == 3) && bad j)) x.sat x.aud)
  let here := fun b => match (members b).head? with
    | some i => is.contains i
    | none => false
  { codes := (List.range is.length).map fun j => (code j).getD 0, tags := tags
    scales := ((List.range bs.length).filter fun b => here (bs.getD b 0)).map fun b => (bs.getD b 0, outScs.getD b 0)
    spent := if (List.range is.length).any fun j => dead j && !keep j then is.length else 0 }

end Sys2Proof.Machine
end

