-- ==== Sys2Proof/Machine/PathUnit.lean ====
section
/-! DEFINITION. Path units: the start of a DMA, its units of transfer, its completion (R36, R86-R93,
R122-R149, R180-R184, R225, R235-R237, R242, R438). -/

namespace Sys2Proof.Machine

/-- The DMA at place i of core g's list. -/
def dmaAt (s : State) (g i : Nat) : Option Dma := (coreOf s g).dmas[i]?

/-- The path unit of core g's cluster as an engine (Table 14-8). -/
def pathEngine (g : Nat) : EngineId := { die := g / 2560, kind := 0, inst := g / 16 % 160 }

/-- Whether the path unit of core g is resetting (R351). -/
def pathDown (s : State) (g : Nat) : Bool := s.rel.engResets.contains (pathEngine g)

/-- Whether a context may start and move DMAs: it is not being torn down, saved or restored. -/
def dmaRuns (s : State) (hd : Holder) : Bool :=
  let st := cstate s hd.part hd.ctx
  st == Cs.running || st == Cs.stopped || st == Cs.preempting

/-- A DMA ends its work with a status; it completes when nothing of it is outstanding. -/
def dmaFinish (s : State) (g id st : Nat) : State :=
  onDma s g id fun d => { d with finished := true, status := if st = Status.ok then d.status else d.status ++ [st] }

/-! ### Start (R86, R88, R128) -/

/-- The 32 bytes of a transform entry; entry 0 reads zero (R86). -/
def xfBytes (s : State) (g xf : Nat) : List Byte :=
  if xf = 0 then zeros 32 else mread s.stores (tableWindow (g / 16) + 32 * xf) 32

/-- Whether a DMA names a record on the list of a seam whose records are still to be closed. -/
def waitsForClose (s : State) (p : Nat) (e : Entry) : Bool :=
  let x := partOf s p
  e.sren && x.seam.closing.any fun c => (List.range (listCount c.2)).any fun i =>
    le (pvPeek s p (fun _ => true) (listEntry c.2 i) 8).1 == e.sra

/-- The window that a register-space DMA writes to. -/
inductive RegKind where
  | plain | amo | coll
  deriving DecidableEq, Repr

def regKind (d : Dma) : RegKind :=
  let o := addrOff d.dst
  if spaceOf d.dst != .regs then .plain
  else if R.amoWin ≤ o ∧ o < R.amoWin + 0x1000 then .amo
  else if R.collWin ≤ o ∧ o < R.collWin + 0x400 then .coll
  else .plain

/-- Lengths that the windows turn away (R183, R210). -/
def windowRejects (d : Dma) : Bool :=
  match regKind d with
  | .plain => false
  | .amo => d.len % 32 != 0 || 4096 < d.len
  | .coll => d.len % 64 != 0 || 1024 < d.len

/-- Whether a transfer goes through register space. -/
def throughRegs (d : Dma) : Bool := spaceOf d.src == .regs || spaceOf d.dst == .regs

/-- Units of a copy through entry 0: runs cut at the destination's tiles, or registers and descriptors. -/
def copyUnits (d : Dma) : Nat :=
  if throughRegs d then
    match regKind d with
    | .plain => d.len / 8
    | .amo => d.len / 32
    | .coll => d.len / 64
  else if d.len = 0 then 0 else cdiv (addrOff d.dst % 4096 + d.len) 4096

/-- All units of a DMA that has started. -/
def totalUnits (d : Dma) : Nat := if d.xf = 0 then copyUnits d else dmaUnits d (Entry.ofBytes (d.entry.getD []))

/-- Whether a host-space end has no working port (R225). -/
def hostCut (s : State) (p : Nat) (d : Dma) : Bool :=
  (spaceOf d.src == .host && (hostPort s p (addrOff d.src)).isNone)
    || (spaceOf d.dst == .host && (hostPort s p (addrOff d.dst)).isNone)

/-- Whether a copy under R90 to a core store must encode one of the source tiles `ts` against a tensor scale that R88
rejects: the tile has an override (R126). -/
def foldRejects (s : State) (p c : Nat) (d : Dma) (e : Entry) (ts : List Nat) : Bool :=
  e.exact && toCoreStore d && !positiveNormal e.dts
    && ts.any fun t => let b := srcTile s p c d t; (viewTile b.1 b.2 e.sfmt e.sscl).over != 0

/-- `foldRejects` over a source in the partition's own memory, when the DMA starts. -/
def foldRejectsLocal (s : State) (p c : Nat) (d : Dma) : Bool :=
  let e := Entry.ofBytes (d.entry.getD [])
  d.xf != 0 && spaceOf d.src == .pv && isMemory d.src
    && foldRejects s p c d e (tilesOf d e (List.range (srcCount d e)))

/-- DMA_START: the entry is copied and the checks are made; a DMA that names a record still to be closed
waits. -/
def dmaStart (s : State) (g i : Nat) : State :=
  match dmaAt s g i, holderOf s g with
  | some d, some hd =>
    let p := hd.part
    let bs := xfBytes s g d.xf
    let e := Entry.ofBytes bs
    if d.entry.isSome || d.finished || d.aborted || !dmaRuns s hd || pathDown s g then s
    else if d.xf != 0 && waitsForClose s p e then s
    else
      let act := if d.xf != 0 && e.sren then BitVec.ofNat 32 (le (pvPeek s p (fun _ => true) e.sra 4).1) else 0
      let d1 := { d with entry := some bs, active := act }
      let s1 := onDma s g d.id fun _ => d1
      if dmaRejects s p hd.ctx g d1 || windowRejects d1 || hostCut s p d1 || foldRejectsLocal s p hd.ctx d1 then dmaFinish s1 g d.id Status.notRun
      else if totalUnits d1 = 0 then dmaFinish s1 g d.id Status.ok
      else s1
  | _, _ => s

def execDmaStart (g i : Nat) (s : State) : Host.Outcome State Fault Refusal := guarded (.dmaStart g i) (dmaStart s g i)

/-! ### Data from another module or from the host -/

/-- A message of a DMA, in the job and epoch of its context. -/
def dmaMsg (s : State) (p c mtype : Nat) (a : Word) (off : Nat) : Msg :=
  blankMsg mtype (BitVec.ofNat 32 (reg s p (R.cxJob c) 31 0)) (addrDev a) off

/-- One request of a DMA has left. -/
def dmaSent (s : State) (g id : Nat) : State := onDma s g id fun d => { d with waiting := d.waiting + 1 }

/-- Asks for tile t of an exported window. -/
def askTile (s : State) (p c g : Nat) (d : Dma) (t : Nat) : Option State :=
  let r := sendRequest s anyPort p c (.dmaRead g d.id (4096 * t))
    { dmaMsg s p c Mt.rdReq d.src (4096 * t) with len := 4096 }
  if r.2 then some (dmaSent r.1 g d.id) else none

/-- The part of a host page that belongs to the source: its elements, and its block scales after them. -/
def hostPart (d : Dma) (t : Nat) : Nat × Nat :=
  let a := addrOff d.src
  let e := Entry.ofBytes (d.entry.getD [])
  let gr := gridOf d e
  let nb := if gr.n = 0 then 0 else blockOf e.sscl gr (gr.n - 1) + 1
  let end_ := if d.xf = 0 || e.sscl == 0 then a + d.len else a + flatScales e.sfmt gr.n + nb * scaleBytes e.sscl
  let lo := max a (4096 * t)
  (lo, min end_ (4096 * t + 4096) - lo)

/-- Asks the host for page t of its source. -/
def askPage (s : State) (p g : Nat) (d : Dma) (t : Nat) : Option State :=
  let q := hostPart d t
  (hostGet s p (.dmaRead g d.id q.1) q.1 q.2).map fun s1 => dmaSent s1 g d.id

/-- Asks for the chunks `ts` of a unit that have not been asked for ahead, and for the chunks `next` of the one after it, or
for none. -/
def askAll (s : State) (p c g : Nat) (d : Dma) (ts next : List Nat) : Option State :=
  let one := fun (t : Nat) (u : State) =>
    if spaceOf d.src == .nyzan then askTile u p c g d t else askPage u p g d t
  ((ts.filter fun t => !d.ahead.contains t) ++ next).foldl (fun acc t => acc.bind (one t)) (some s) |>.map fun s1 =>
    onDma s1 g d.id fun q => { q with asked := ts, ahead := next }

/-- The 4,096-byte chunks that spans touch. -/
def chunksOf (l : List (Nat × Nat)) : List Nat :=
  (l.flatMap fun e => if e.2 = 0 then [] else (List.range ((e.1 + e.2 - 1) / 4096 + 1 - e.1 / 4096)).map fun i => e.1 / 4096 + i).eraseDups

/-! ### Local bolts (R151, R153, R154) -/

/-- What keeps a unit from its bolts. -/
inductive BoltWait where
  | ready
  | stalled (t : State)
  | noMemory

/-- Whether the bolts that a unit touches stand ready; the first that does not is fetched. -/
def boltsReady (s : State) (p g id : Nat) (bs : List Nat) : BoltWait :=
  let x := partOf s p
  match bs.find? (stalls x) with
  | none => .ready
  | some b =>
    if (x.bolt b).stalled.contains (.dma g id) then .stalled s
    else match stallOn s p b (.dma g id) with
      | some t => .stalled t
      | none => .noMemory

/-- The bolts of tiles of the partition virtual range. -/
def boltsOfTiles (ts : List Nat) : List Nat := (ts.map fun t => (t - boltTile0) / 16).eraseDups

/-- Makes bolts ready for a write; none is NO_MEMORY. -/
def writeReady (s : State) (p : Nat) (bs : List Nat) : Option State := readyAll readyWrite s p bs

/-! ### Stores -/

/-- Whether a DMA of context c may write a byte of the partition virtual range. -/
def mayWrite (s : State) (p c a : Nat) : Bool :=
  mayByte s p c a && !(pvKind (partOf s p) a == .bolt && inBase (partOf s p) a)

/-- The core whose core store holds an address, and the offset in it. -/
def coreStoreAt (a : Nat) : Option (Nat × Nat) := if a < 0xA0000000 then some (a / 0x40000, a % 0x40000) else none

/-- One run of a write into stores and transform tables; `tag` gives the tags of a word by its key. Answers
whether it was a violation. -/
def storeRun (s : State) (p c a : Nat) (bs : List Byte) (tag : Nat → BitVec 3) : State × Bool :=
  if !mayWrite s p c a then (s, true)
  else match pvKind (partOf s p) a with
    | .table w => (if w then { s with stores := mput s.stores a bs } else s, false)
    | .store =>
      let s1 := mergeTags (putStore s a bs) a bs.length tag
      match coreStoreAt a with
      | some (k, o) => (storeHazard s1 k o bs.length, false)
      | none => (s1, false)
    | _ => (s, true)

/-- A write into the stores by a DMA, cut where rights may change; nothing past the end of the window that the destination
begins in is written (R135). -/
def storeWrite (s : State) (p c : Nat) (d : Dma) (a : Nat) (bs : List Byte) (tag : Nat → BitVec 3) : State × Bool :=
  let cut := if a < 0xF0000000 then 4096 else 32
  (cutRuns cut (bs.length / cut + 2) a bs.length).foldl (fun acc r =>
    let w := if r.1 < windowEnd (addrOff d.dst) then storeRun acc.1 p c r.1 ((bs.drop r.2.1).take r.2.2) tag
      else (acc.1, true)
    (w.1, acc.2 || w.2)) (s, false)

/-! ### Writes to the host and to other modules -/

/-- Words grouped into runs of one marking: (first byte, length, marked). -/
def markRuns (a n : Nat) (mark : Nat → Bool) : List (Nat × Nat × Bool) :=
  (wordsOf a n).foldl (fun l w =>
    let lo := max a (8 * w)
    let k := min (a + n) (8 * w + 8) - lo
    match l.getLast? with
    | some (b, m, f) => if f = mark w then l.dropLast ++ [(b, m + k, f)] else l ++ [(lo, k, mark w)]
    | none => [(lo, k, mark w)]) []

/-- The runs cut at the 4,096-byte pages, each of which goes to one host port (R225). -/
def pageRuns (l : List (Nat × Nat × Bool)) : List (Nat × Nat × Bool) :=
  l.flatMap fun r => (cutRuns 4096 (r.2.1 / 4096 + 2) r.1 r.2.1).map fun e => (e.1, e.2.2, r.2.2)

/-- Bytes to the host, words marked POISON with the poisoned indication (R438). -/
def hostWriteAll (s : State) (p g id a : Nat) (bs : List Byte) (mark : Nat → Bool) : State :=
  (pageRuns (markRuns a bs.length mark)).foldl (fun t r =>
    match hostPut t p (.dmaWrite g id) r.1 (slice bs (r.1 - a) r.2.1) r.2.2 with
    | some t1 => dmaSent t1 g id
    | none => onDma t g id fun d => { d with status := d.status ++ [Status.notRun] }) s

/-- A write request to a window of another module; none where no tag is free. -/
def sendWrite (s : State) (p c g : Nat) (d : Dma) (off : Nat) (bs : List Byte) (col : Option Collar) : Option State :=
  let m := dmaMsg s p c Mt.wrReq d.dst off
  let r := sendRequest s anyPort p c (.dmaWrite g d.id)
    { m with payload := bs, len := bs.length, col := col.isSome, collar := (col.map collarBytes).getD [] }
  if r.2 then some (dmaSent r.1 g d.id) else none

/-! ### Copies through entry 0 (R148) -/

/-- The destination offset and length of copy unit u: the first unit ends at the first tile boundary. -/
def copySpan (d : Dma) (u : Nat) : Nat × Nat :=
  let a := addrOff d.dst
  let o := if u = 0 then 0 else 4096 * u - a % 4096
  (o, min (d.len - o) (4096 - (a + o) % 4096))

/-- Source bytes of a copy: bytes, flags by byte offset in the run, and whether some part was a violation. -/
def copySource (s : State) (p c : Nat) (d : Dma) (a n : Nat) : List Byte × (Nat → BitVec 3) × Bool :=
  if isMemory d.src then
    let tile := fun i => srcTile s p c d ((a + i) / 4096)
    let flags := fun i =>
      let b := tile i
      BitVec.ofNat 3 (tagWord (b.2.poison || !crcOk b.1 b.2) b.2.accSat b.2.auditFail)
    let bytes := (tileRuns a n).flatMap fun r => slice (srcTile s p c d (r.1 / 4096)).1 (r.1 % 4096) r.2.2
    let viol := spaceOf d.src == .pv && (tileRuns a n).any fun r => !(mayByte s p c r.1)
    (bytes, flags, viol)
  else
    (srcBytes s p c d a n, fun i => srcTags s p c d (a + i) 1,
      spaceOf d.src == .pv && (List.range n).any fun i => !maySrc s p c d (a + i))

/-- The OR of flags over a run. -/
def orFlags (f : Nat → BitVec 3) (lo n : Nat) : BitVec 3 := (List.range n).foldl (fun t i => t ||| f (lo + i)) 0

/-- The tags of a destination word from the flags of the bytes written into it. -/
def wordFlags (a n : Nat) (f : Nat → BitVec 3) (w : Nat) : BitVec 3 :=
  let lo := max a (8 * w)
  orFlags f (lo - a) (min (a + n) (8 * w + 8) - lo)

/-- Tiles that fail their `CRC`, among those of the local source that a run touches. -/
def badTiles (s : State) (p c : Nat) (d : Dma) (ts : List Nat) (ok : List Byte → Collar → Bool) : List Nat :=
  ts.filter fun t => let b := srcTile s p c d t; !ok b.1 b.2

/-- Failures of source tiles are counted; those of the module's own memory are charged to their panel. -/
def countBad (s : State) (p : Nat) (d : Dma) (ts : List Nat) : State :=
  ts.foldl (fun t i => if spaceOf d.src == .pv then tileFailed t p (i - boltTile0) else errEvent t p 2) s

/-- Where the destination run ends after `n` units, for a destination in the stores (R29). -/
def dstEdge (d : Dma) (n : Nat) : Nat :=
  let a := addrOff d.dst
  if throughRegs d then a + 8 * n
  else if d.xf = 0 then a + (copySpan d n).1
  else a + 4096 * n * fmtWidth (Entry.ofBytes (d.entry.getD [])).dfmt / 8

/-- The unit is done; after the last one the DMA has finished. -/
def unitDone (s : State) (g id st : Nat) : State :=
  onDma s g id fun d =>
    let n := d.unit + 1
    { d with
      unit := n, edge := if spaceOf d.dst == .pv then dstEdge d n else 0, asked := []
      buf := d.buf.filter fun c => d.ahead.contains (c.1 / 4096)
      bufCol := d.bufCol.filter fun c => d.ahead.contains c.1
      bufTag := d.bufTag.filter fun c => d.ahead.contains (c.1 / 512)
      finished := decide (totalUnits d ≤ n)
      status := if st = Status.ok then d.status else d.status ++ [st] }

/-- One unit of a copy whose source has arrived and whose bolts stand ready; none where no tag is free. -/
def copyUnit (s : State) (p c g : Nat) (d : Dma) : Option State :=
  let sp := copySpan d d.unit
  let a := addrOff d.src + sp.1
  let b := addrOff d.dst + sp.1
  let n := sp.2
  let src := copySource s p c d a n
  let bad := if isMemory d.src then badTiles s p c d (chunksOf [(a, n)]) crcOk else []
  let whole := isMemory d.src && isMemory d.dst && n == 4096 && a % 4096 == 0 && b % 4096 == 0
  let col := (srcTile s p c d (a / 4096)).2
  let fl := orFlags src.2.1 0 n
  let r : Option (State × Bool × Nat) :=
    match spaceOf d.dst with
    | .host => some (hostWriteAll s p g d.id b src.1 fun w => bit (wordFlags b n src.2.1 w) 0, false, Status.ok)
    | .nyzan => (sendWrite s p c g d b src.1 (if whole then some col else none)).map fun t => (t, false, Status.ok)
    | _ =>
      if b < boltBase then
        let w := storeWrite s p c d b src.1 (wordFlags b n src.2.1)
        some (w.1, w.2, Status.ok)
      else if !mayWrite s p c b then some (s, true, Status.ok)
      else match writeReady s p (boltsOfTiles [b / 4096]) with
        | none => some (s, false, Status.noMemory)
        | some t =>
          let off := b - boltBase
          some (onPart t p fun x => if whole then putTile x (off / 4096) src.1 col
            else plainTileWrite x off src.1 (bit fl 1) (bit fl 2) (bit fl 0), false, Status.ok)
  r.map fun r => unitDone (countBad (violationIf (src.2.2 || r.2.1) r.1 p) p d bad) g d.id r.2.2

/-! ### Converting units -/

/-- The scale record counts a unit (R122). -/
def recordUnit (s : State) (p : Nat) (e : Entry) (o : UnitOut) : State :=
  if !e.sren then s
  else
    let r := devRead s p e.sra 64
    let cap := fun x => let c := toFp32 x; if (ofFp32 c).isInf then 0x7F7FFFFF else c
    let amax := cap (Num.max (ofFp32 (Sr.stepAmax r.1)) (ofFp32 (cap o.amax)))
    let s1 := devWrite r.2 p (e.sra + 8) (toLE 4 amax ++ toLE 4 (satTo 32 (Sr.tiles r.1 + 1)))
    if o.missed then devWrite s1 p (e.sra + 0x10) (toLE 4 (satTo 32 (Sr.missed r.1 + 1))) else s1

/-- The tables of a codebook format by element. -/
def dstTab (s : State) (g : Nat) (e : Entry) (i : Nat) : List Num :=
  if isCodebook e.dfmt then cbEntries (coreOf s g) (slotOf s g e i) else []

/-- The destination tensor scale: `ACTIVE` of the record, or `DTS` (R88, R121). -/
def dstScale (d : Dma) (e : Entry) : Nat := if e.sren then d.active.toNat else e.dts

/-- `POLICY` of the record. -/
def dstPolicy (s : State) (p : Nat) (e : Entry) : Nat :=
  if e.sren then le (pvPeek s p (fun _ => true) (e.sra + 0x14) 4).1 else 0

/-- What the last, partial tile of a local destination keeps; other tiles and other modules' tiles keep
nothing here. -/
def keptLocal (s : State) (p g : Nat) (d : Dma) (e : Entry) (tile m first : Nat) : Kept :=
  let x := partOf s p
  let t0 := addrOff d.dst / 4096
  let old := tileBytes x (tile - boltTile0)
  let oc := tileCollar x (tile - boltTile0)
  let v := viewTile old oc e.dfmt e.dscl
  let sc := fun j =>
    if e.dscl = 3 then v.collar.bscale
    else if e.dscl = 0 then 0
    else
      let sp := scalePlace e.dfmt e.dscl t0 (first + j)
      let w := viewTile (tileBytes x (sp.1 - boltTile0)) (tileCollar x (sp.1 - boltTile0)) e.dfmt e.dscl
      leAt w.payload sp.2 1
  keptOf e.dfmt e.dscl (ofFp32 (dstScale d e)) (fun j => dstTab s g e (first + j)) old oc m sc

/-- The local tile that a unit updates in part, if it does: it is read and checked (R144, R146). -/
def updatedTile (d : Dma) (e : Entry) : Option Nat :=
  let u := d.unit
  let n := (unitElems d e u).length
  let et := elemsPerTile e.dfmt
  let t0 := addrOff d.dst / 4096
  if spaceOf d.dst != .pv || !isMemory d.dst || n % et == 0 then none
  else if e.dscl = 3 then
    let gr := gridOf d e
    if u + 1 = dmaUnits d e then some (t0 + gr.tilesBefore e.dfmt u + (gr.tiles e.dfmt u - 1) - boltTile0) else none
  else some (dataTile e.dfmt e.dscl t0 u - boltTile0)

/-- What unit u of a converting DMA writes to memory. -/
def memoryUnit (s : State) (p c g : Nat) (d : Dma) (e : Entry) : UnitOut :=
  let u := d.unit
  let is := unitElems d e u
  let xs := is.map (stageElem s p c g d e)
  let t0 := addrOff d.dst / 4096
  let et := elemsPerTile e.dfmt
  let local_ := spaceOf d.dst == .pv
  let tc := dstScale d e
  let pol := dstPolicy s p e
  let last := u + 1 == dmaUnits d e
  if e.dscl = 3 then
    let gr := gridOf d e
    let base := t0 + gr.tilesBefore e.dfmt u
    let m := (xs.length - 1) % et + 1
    let part := last && m < et
    let k := if part && local_ then keptLocal s p g d e (base + (xs.length - 1) / et) m 0 else Kept.none_
    let r := encodeScaleTile e tc pol e.exact xs k part
    { tiles := r.1.zipIdx.map fun q => { tile := base + q.2, off := 0, bytes := q.1.1, col := q.1.2 }
      scales := [], amax := r.2.1, missed := r.2.2 }
  else
    let tile := dataTile e.dfmt e.dscl t0 u
    let part := xs.length < et
    let k := if part && local_ then keptLocal s p g d e tile xs.length (u * et) else Kept.none_
    let exact := if e.exact then some (xs.headD Elem.none_).ovr else none
    let r := encodeTile e tc pol (fun j => dstTab s g e (u * et + j)) (slotOf s g e (u * et)) exact xs k part
    let scs := if e.dscl = 0 then []
      else
        let sp := scalePlace e.dfmt e.dscl t0 (u * et)
        let bytes := r.2.2.1.map fun b => BitVec.ofNat 8 b
        (tileRuns (4096 * sp.1 + sp.2) bytes.length).map fun q =>
          ({ tile := q.1 / 4096, off := q.1 % 4096, bytes := (bytes.drop q.2.1).take q.2.2
             col := mkCollar 0 e.dfmt e.dscl 0 false false false false true 0 0 0 0 } : TileOut)
    { tiles := [{ tile := tile, off := 0, bytes := r.1, col := r.2.1 }], scales := scs, amax := r.2.2.2.1
      missed := r.2.2.2.2 }

/-- A tile or a run of scales into the module's own bolt range. -/
def putLocal (x : Partition) (o : TileOut) : Partition :=
  let t := o.tile - boltTile0
  if o.col.stile then
    let r := mergeScales (tileBytes x t) (tileCollar x t) o.off o.bytes o.col.fmt o.col.scl false
    putTile x t r.1 r.2
  else putTile x t o.bytes o.col

/-- A tile or a run of scales as a write request: the last tile of the DMA, when it is written in part,
carries its elements only, and the target merges it (R181). -/
def putRemote (s : State) (p c g : Nat) (d : Dma) (last : Bool) (o : TileOut) : Option State :=
  let n := o.col.nelem
  if o.col.stile then sendWrite s p c g d (4096 * o.tile + o.off) o.bytes (some (setFld o.col 31 0 (crc32c o.bytes)))
  else sendWrite s p c g d (4096 * o.tile)
    (if last && n != 0 then o.bytes.take (cdiv (n * fmtWidth o.col.fmt) 8) else o.bytes) (some o.col)

/-- The local tiles that a unit reads and writes. -/
def localTiles (d : Dma) (e : Entry) : List Nat :=
  let src := if spaceOf d.src == .pv && isMemory d.src then tilesOf d e (unitNeeds d e d.unit) else []
  let t0 := addrOff d.dst / 4096
  let dst := if spaceOf d.dst == .pv && isMemory d.dst then
      (if e.dscl = 3 then
        let gr := gridOf d e
        (List.range (gr.tiles e.dfmt d.unit)).map fun j => t0 + gr.tilesBefore e.dfmt d.unit + j
      else
        let et := elemsPerTile e.dfmt
        let tl := dataTile e.dfmt e.dscl t0 d.unit
        let sp := scalePlace e.dfmt e.dscl t0 (d.unit * et)
        tl :: (if e.dscl = 0 then [] else (tileRuns (4096 * sp.1 + sp.2) (scaleGeom e.dfmt e.dscl).2).map fun q => q.1 / 4096))
    else []
  (src ++ dst).eraseDups

/-- The tags of a flat destination word: the OR over the elements that lie in it (R147). -/
def flatTag (w a : Nat) (tags : List (BitVec 3)) (key : Nat) : BitVec 3 :=
  (List.range tags.length).foldl (fun t j =>
    let lo := a + w * j / 8
    let hi := a + (w * j + w - 1) / 8
    if lo / 8 ≤ key ∧ key ≤ hi / 8 then t ||| tags.getD j 0 else t) 0

/-- One converting unit whose source has arrived and whose bolts stand ready; none where no tag is free. -/
def convertUnit (s : State) (p c g : Nat) (d : Dma) (e : Entry) : Option State :=
  let need := unitNeeds d e d.unit
  let srcTiles := if isMemory d.src then tilesOf d e need else []
  let bad := badTiles s p c d srcTiles fun b k => !(viewTile b k e.sfmt e.sscl).bad
  let srcViol := spaceOf d.src == .pv &&
    (if isMemory d.src then srcTiles.any fun t => !mayByte s p c (4096 * t)
     else (spansOf d e need).any fun q => (List.range q.2).any fun i => !maySrc s p c d (q.1 + i))
  let r : Option (State × Bool × Nat) :=
    if isMemory d.dst then
      let o := memoryUnit s p c g d e
      let all := o.tiles ++ o.scales
      if spaceOf d.dst == .nyzan then
        let lastTile := fun t : TileOut => d.unit + 1 == dmaUnits d e && o.tiles.getLast? == some t
        (all.foldl (fun acc t => acc.bind fun u => putRemote u p c g d (lastTile t) t) (some s)).map fun t =>
          (recordUnit t p e o, false, Status.ok)
      else
        let may := all.filter fun t => mayWrite s p c (4096 * t.tile)
        let s := match updatedTile d e with
          | some t => if (viewTile (tileBytes (partOf s p) t) (tileCollar (partOf s p) t) e.dfmt e.dscl).bad then tileFailed s p t else s
          | none => s
        match writeReady s p (boltsOfTiles (may.map (·.tile))) with
        | none => some (s, false, Status.noMemory)
        | some t => some (recordUnit (onPart t p fun x => may.foldl putLocal x) p e o, may.length < all.length, Status.ok)
    else
      let is := unitElems d e d.unit
      let o := encodeFlat s d e (stageElem s p c g d e) (dstTab s g e) is
      let w := fmtWidth e.dfmt
      let a := addrOff d.dst
      let at_ := a + 4096 * d.unit * w / 8
      let bytes := packBytes w o.codes
      let sa := fun b => a + flatScales e.dfmt (srcCount d e) + b * scaleBytes e.dscl
      let s0 := spend s o.spent
      if spaceOf d.dst == .host then
        let s1 := hostWriteAll s0 p g d.id at_ bytes fun k => bit (flatTag w at_ o.tags k) 0
        some (o.scales.foldl (fun t q => hostWriteAll t p g d.id (sa q.1) (toLE (scaleBytes e.dscl) q.2) fun _ => false) s1,
          false, Status.ok)
      else
        let r1 := storeWrite s0 p c d at_ bytes (flatTag w at_ o.tags)
        let r2 := o.scales.foldl (fun acc q =>
          let v := storeWrite acc.1 p c d (sa q.1) (toLE (scaleBytes e.dscl) q.2) fun _ => 0
          (v.1, acc.2 || v.2)) (r1.1, false)
        some (r2.1, r1.2 || r2.2, Status.ok)
  r.map fun r => unitDone (countBad (violationIf (srcViol || r.2.1) r.1 p) p d bad) g d.id r.2.2

/-! ### Register space (R133, R183, R210, R230) -/

/-- What a core reads at an offset of its BAR0: the `ID` block; the windows read zero; anything else is a
violation. -/
def coreRegRead (s : State) (p c off : Nat) : Word × Bool :=
  if off < 0x40 then (idWord s p (off / 8 * 8), false)
  else if (R.dbCmd c ≤ off ∧ off < R.dbCmd c + 0x1000) ∨ (R.amoWin ≤ off ∧ off < R.collWin + 0x400) then (0, false)
  else (0, true)

/-- What a core's write to its BAR0 does outside the windows: its own doorbell page acts, the `ID` block is
read-only, anything else is a violation. -/
def coreRegWrite (s : State) (p c off : Nat) (v : Word) : State × Bool :=
  if off = R.dbCmd c then (cxDoorbell s p c (fld v 3 0), false)
  else if off = R.dbRing c then (ringDoorbell s p c v, false)
  else if R.dbCmd c ≤ off ∧ off < R.dbCmd c + 0x1000 then (s, false)
  else (s, true)

/-- Whether a source word of a register transfer from a store is marked POISON. -/
def regSourcePoison (s : State) (p c : Nat) (d : Dma) : Bool :=
  if isMemory d.src then
    (chunksOf [(addrOff d.src, d.len)]).any fun t =>
      let b := srcTile s p c d t; b.2.poison || !crcOk b.1 b.2
  else if spaceOf d.src == .regs then false
  else bit (srcTags s p c d (addrOff d.src) d.len) 0

/-- The `n` source bytes of a register transfer at offset `o` of it. -/
def regSource (s : State) (p c : Nat) (d : Dma) (o n : Nat) : List Byte × Bool :=
  let a := addrOff d.src + o
  if spaceOf d.src == .regs then
    let ws := (List.range (n / 8)).map fun i => coreRegRead s p c (a + 8 * i)
    (ws.flatMap fun w => toLE 8 w.1.toNat, ws.any (·.2))
  else
    let r := copySource s p c d a n
    (r.1, r.2.2)

/-- The result record of an atomic (R183). -/
def amoResult (s : State) (p g res old st : Nat) : State :=
  storeHazard (devWrite s p (g * 0x40000 + res) (toLE 8 old ++ toLE 1 st ++ zeros 7)) g res 16

/-- An atomic on a store word of the partition. -/
def amoStore (s : State) (a aop bits x y : Nat) : State × Nat × Nat :=
  let n := bits / 8
  if bit (tagsOver s a n) 0 then (s, Status.poison, 0)
  else
    let old := mle s.stores a n
    match amoNew aop bits old x y with
    | some v =>
      let s1 := putStore s a (toLE n v)
      (match coreStoreAt a with
        | some (k, o) => storeHazard s1 k o n
        | none => s1, Status.ok, old)
    | none => (s, Status.notRun, 0)

/-- One atomic descriptor (Table 8-11): performed here, or sent; none where no tag is free or a bolt is
awaited. -/
def amoUnit (s : State) (p c g : Nat) (d : Dma) (b : List Byte) : Option State :=
  let a := BitVec.ofNat 64 (leAt b 0 8)
  let res := leAt b 0x18 4
  let aop := leAt b 0x1C 1
  let asz := leAt b 0x1D 1
  let bits := if asz = 1 then 64 else 32
  let ra := res % 2 ^ 18
  let sp := spaceOf a
  let bad := res / 2 ^ 18 != 0 || ra % 16 != 0 || 1 < asz || leAt b 0x1E 2 != 0 || sp == .host || sp == .regs
    || !addrOk a || addrOff a % (bits / 8) != 0 || (amoNew aop bits 0 0 0).isNone || 32 ≤ aop
  let done := fun (t : State) (st old : Nat) => some (unitDone (amoResult t p g ra old st) g d.id st)
  if bad then done s Status.notRun 0
  else if sp == .nyzan then
    let m := dmaMsg s p c Mt.amoReq a (addrOff a)
    if (partKey (partOf s p) m.job).isNone then done s Status.notRun 0
    else
      let r := sendRequest s anyPort p c (.amo g d.id ra)
        { m with payload := slice b 8 16, len := 16, aop := BitVec.ofNat 5 aop, asz := asz == 1 }
      if r.2 then some (unitDone (dmaSent r.1 g d.id) g d.id Status.ok) else none
  else
    let o := addrOff a
    if !mayWrite s p c o then done (violation s p) Status.ok 0
    else match pvKind (partOf s p) o with
      | .bolt =>
        match boltsReady s p g d.id (boltsOfTiles [o / 4096]) with
        | .stalled t => some t
        | .noMemory => done s Status.noMemory 0
        | .ready =>
          let r := amoBolt s p (o - boltBase) aop bits (leAt b 8 8) (leAt b 0x10 8)
          done r.1 r.2.1 r.2.2
      | .store =>
        let r := amoStore s o aop bits (leAt b 8 8) (leAt b 0x10 8)
        done r.1 r.2.1 r.2.2
      | _ => done s Status.ok 0

/-- Whether a DMA has gone on to its next unit. -/
def unitMoved (t : State) (g : Nat) (d : Dma) : Bool := (coreOf t g).dmas.any fun q => q.id == d.id && q.unit != d.unit

/-- One unit of a register-space transfer. A store source with a word marked POISON writes nothing. -/
def regUnit (s : State) (p c g : Nat) (d : Dma) : Option State :=
  if d.unit = 0 && spaceOf d.dst == .regs && regSourcePoison s p c d then some (dmaFinish s g d.id Status.poison)
  else
    match regKind d with
    | .amo =>
      let r := regSource s p c d (32 * d.unit) 32
      (amoUnit s p c g d r.1).map fun t => violationIf (r.2 && unitMoved t g d) t p
    | .coll =>
      if 64 ≤ (partOf s p).colls.length then none
      else
        let r := regSource s p c d (64 * d.unit) 64
        some (unitDone (collSubmit (violationIf r.2 s p) p c (g / 16) r.1) g d.id Status.ok)
    | .plain =>
      let r := regSource s p c d (8 * d.unit) 8
      let b := addrOff d.dst + 8 * d.unit
      let v := BitVec.ofNat 64 (le r.1)
      match spaceOf d.dst with
      | .regs =>
        let w := coreRegWrite s p c b v
        some (unitDone (violationIf (r.2 || w.2) w.1 p) g d.id Status.ok)
      | .host => some (unitDone (violationIf r.2 (hostWriteAll s p g d.id b r.1 fun _ => false) p) g d.id Status.ok)
      | .nyzan => (sendWrite s p c g d b r.1 none).map fun t => unitDone (violationIf r.2 t p) g d.id Status.ok
      | .pv =>
        if b < boltBase then
          let w := storeWrite s p c d b r.1 fun _ => 0
          some (unitDone (violationIf (r.2 || w.2) w.1 p) g d.id Status.ok)
        else if !mayWrite s p c b then some (unitDone (violation s p) g d.id Status.ok)
        else
          let s1 := violationIf r.2 s p
          match writeReady s1 p (boltsOfTiles [b / 4096]) with
          | none => some (unitDone s1 g d.id Status.noMemory)
          | some t =>
            some (unitDone (onPart t p fun x => plainTileWrite x (b - boltBase) r.1 false false false) g d.id Status.ok)

/-! ### One unit -/

/-- The chunks of a source off the module that the next unit needs. -/
def unitChunks (d : Dma) (e : Entry) : List Nat :=
  match spaceOf d.src with
  | .nyzan | .host =>
    if throughRegs d then chunksOf [(addrOff d.src, d.len)]
    else if d.xf = 0 then let q := copySpan d d.unit; chunksOf [(addrOff d.src + q.1, q.2)]
    else if isMemory d.src then tilesOf d e (unitNeeds d e d.unit)
    else chunksOf (spansOf d e (unitNeeds d e d.unit))
  | _ => []

/-- The local tiles of the next unit of a copy or of a register transfer. -/
def copyTiles (d : Dma) : List Nat :=
  let n := match regKind d with | .plain => 8 | .amo => 32 | .coll => 64
  let q := if throughRegs d then (n * d.unit, n) else copySpan d d.unit
  let src := if spaceOf d.src == .pv && isMemory d.src then chunksOf [(addrOff d.src + q.1, q.2)] else []
  let dst := if spaceOf d.dst == .pv && isMemory d.dst then chunksOf [(addrOff d.dst + q.1, q.2)] else []
  src ++ dst

/-- The chunks of the unit after the next that the path unit reads ahead: where the source is on another module, and a free
choice says so (R244, log 142). -/
def aheadChunks (s : State) (d : Dma) (e : Entry) (now : List Nat) : List Nat :=
  if spaceOf d.src == .nyzan && decide (d.unit + 1 < totalUnits d) && bit (freeAt s 0) 0 then
    (unitChunks { d with unit := d.unit + 1 } e).filter fun t => !now.contains t
  else []

/-- DMA_TILE_TRANSFER: the next unit asks for its source, waits for it and for its bolts, then is converted
and written. While the context is PREEMPTING no message leaves (R235). -/
def tileTransfer (s : State) (g i : Nat) (faults : List MemFault) : State :=
  match dmaAt s g i, holderOf s g with
  | some d, some hd =>
    let p := hd.part
    let c := hd.ctx
    let e := Entry.ofBytes (d.entry.getD [])
    let quiet := cstate s p c == Cs.preempting
    if d.entry.isNone || d.finished || d.aborted || !dmaRuns s hd || pathDown s g then s
    else
      let chunks := unitChunks d e
      let fresh := chunks != [] && d.asked == []
      if fresh then
        (if quiet then s
         else match askAll s p c g d chunks (aheadChunks s d e chunks) with
          | some t => spend t 1
          | none => if spaceOf d.src == .host && (hostPort s p (addrOff d.src)).isNone then dmaFinish s g d.id Status.notRun else s)
      else if chunks != [] && d.waiting != 0 then s
      else if quiet && sendsAway s d then s
      else
        let s0 := memFaults s faults
        let tiles := (if d.xf = 0 then copyTiles d else localTiles d e).filter fun t => mayByte s0 p c (4096 * t)
        let mem := tiles.filter fun t => boltTile0 ≤ t
        if mem != [] && panelFenced s0 p then unitDone s0 g d.id Status.fenced
        else if mem != [] && !(partOf s0 p).keyed then unitDone s0 g d.id Status.poison
        else match boltsReady s0 p g d.id (boltsOfTiles mem) with
          | .stalled t => t
          | .noMemory => unitDone s0 g d.id Status.noMemory
          | .ready =>
            let s0 := touchTiles s0 p (mem.map fun t => t - boltTile0)
            let r := if throughRegs d then regUnit s0 p c g d
              else if d.xf = 0 then copyUnit s0 p c g d
              else if isMemory d.src && foldRejects s0 p c d e (tilesOf d e (unitNeeds d e d.unit)) then
                some (dmaFinish s0 g d.id Status.notRun)
              else convertUnit s0 p c g d e
            r.getD s
  | _, _ => s

def execDmaTileTransfer (g i : Nat) (faults : List MemFault) (s : State) : Host.Outcome State Fault Refusal :=
  guarded (.dmaTileTransfer g i faults) (tileTransfer s g i faults)

/-! ### Stalled accesses (R151) -/

/-- An access that waited for a bolt goes on: a host access, or the unit of a DMA that is still there. -/
def serveAny (s : State) (p : Nat) : Stalled → State
  | .dma g id =>
    match (coreOf s g).dmas.findIdx? fun d => d.id == id with
    | some i => tileTransfer s g i []
    | none => s
  | w => serve s p w

/-- FLASH_FETCH_COMPLETE -/
def execFlashFetchComplete (p bolt : Nat) (bad : BitVec 16) (retries us : Nat) (s : State) :
    Host.Outcome State Fault Refusal :=
  guarded (.flashFetchComplete p bolt bad retries us) (fetchDone serveAny s p bolt bad retries us)

/-! ### Completion (R36, R182, R236, R242) -/

/-- DMA_COMPLETE: nothing of the DMA is outstanding. While its context is PREEMPTING the outcome of a DMA
that sends messages is parked instead. -/
def dmaComplete (s : State) (g i : Nat) : State :=
  match dmaAt s g i, holderOf s g with
  | some d, some hd =>
    let st := cstate s hd.part hd.ctx
    if !(d.finished || d.aborted) || d.waiting != 0 || (st == Cs.preempting && d.remote s)
        || !(dmaRuns s hd || st == Cs.teardown) then s
    else dmaRetire s g d (if d.aborted then Status.aborted else worst d.status)
  | _, _ => s

def execDmaComplete (g i : Nat) (s : State) : Host.Outcome State Fault Refusal :=
  guarded (.dmaComplete g i) (dmaComplete s g i)

end Sys2Proof.Machine
end

