-- ==== Sys2Proof/Machine/Power.lean ====
section
/-! DEFINITION. The 60 V input, power sequencing, the power manager, thermal outputs and the I3C target
(R414-R432, Table 17-8). -/

namespace Sys2Proof.Machine

/-- Every rail is off (R387, R415, R421): what is volatile is lost, a flash write stops at a page, OTP and flash
stay. Wear counts since the last save are lost unless the power-down is orderly. The input stage holds `FAULT_N`
and `THERMTRIP_N`; pins that the board drives stay as they are. -/
def railsOff (s : State) (orderly : Bool) : State :=
  let s1 := stopFlash s
  let wear := if orderly then s1.wardrobe.wear else s1.wardrobe.saved
  { State.reset with
    pending := s1.pending, freeIx := s1.freeIx, out := s1.out
    wardrobe := { wear := wear, saved := wear, blocks := s1.wardrobe.blocks }
    sec := { Sec.reset with
      owners := s1.sec.owners, revokedImg := s1.sec.revokedImg, isvc := s1.sec.isvc, jtag := s1.sec.jtag, flash := s1.sec.flash }
    pwr := { Pwr.reset with
      pwrEn := s1.pwr.pwrEn, vinOk := s1.pwr.vinOk, rails := 0, blocked := s1.pwr.blocked, pgood := false
      resetN := s1.pwr.resetN, perst0 := s1.pwr.perst0, perst1 := s1.pwr.perst1, faultN := s1.pwr.faultN
      thermtripN := s1.pwr.thermtripN } }

/-- The rails start to ramp where the input allows it (R414, R420). -/
def railsStart (s : State) : State :=
  if s.pwr.pwrEn && s.pwr.vinOk && !s.pwr.blocked && s.pwr.rails == 0 then { s with pwr := { s.pwr with rails := 1 } } else s

/-- Removal of power releases the latches of the input stage (R420, R430). -/
def latchesReleased (s : State) : State :=
  { s with pwr := { s.pwr with faultN := true, thermtripN := true, blocked := false } }

/-- PWR_EN_ASSERT: the board holds `RESET_N` low from here on (R420, R422). -/
def pwrEnAssert (s : State) : State :=
  if s.pwr.pwrEn then s
  else railsStart { s with pwr := { s.pwr with pwrEn := true, resetN := false, onReset := true } }

def execPwrEnAssert (s : State) : Host.Outcome State Fault Refusal := guarded .pwrEnAssert (pwrEnAssert s)

/-- PGOOD_RELEASE: all rails are in regulation. -/
def execPgoodRelease (s : State) : Host.Outcome State Fault Refusal :=
  guarded .pgoodRelease (when_ (s.pwr.rails == 1) s { s with pwr := { s.pwr with rails := 2, pgood := true } })

/-- Whether the shutdown of R357 was completed: the power-down is orderly (R421). -/
def shutDown (s : State) : Bool := s.rel.bst == 2

/-- PWR_EN_DEASSERT: removal of power, orderly after `BST` DONE (R415, R421). -/
def pwrEnDeassert (s : State) : State :=
  if !s.pwr.pwrEn then s
  else latchesReleased (railsOff { s with pwr := { s.pwr with pwrEn := false } } (shutDown s))

def execPwrEnDeassert (s : State) : Host.Outcome State Fault Refusal := guarded .pwrEnDeassert (pwrEnDeassert s)

/-- VIN_UNDERVOLTAGE: below 51 V, as a removal of power (R415). -/
def execVinUndervoltage (s : State) : Host.Outcome State Fault Refusal :=
  guarded .vinUndervoltage (latchesReleased (railsOff { s with pwr := { s.pwr with vinOk := false } } false))

/-- UNDERVOLTAGE_LOCKOUT_RELEASE: above 53 V the rails start (R414). -/
def execUndervoltageLockoutRelease (s : State) : Host.Outcome State Fault Refusal :=
  guarded .undervoltageLockoutRelease (railsStart { s with pwr := { s.pwr with vinOk := true } })

/-- The input stage stops the rails for a cause that latches; they stay off until power is removed (R430). -/
def latchedStop (s : State) (trip : Bool) : State :=
  if s.pwr.rails = 0 then s
  else railsOff { s with pwr := { s.pwr with blocked := true, faultN := false, thermtripN := s.pwr.thermtripN && !trip } } false

/-- VIN_OVERVOLTAGE: above 66 V (R415). -/
def execVinOvervoltage (s : State) : Host.Outcome State Fault Refusal :=
  guarded .vinOvervoltage (latchedStop s false)

/-- THERMTRIP: at 115 °C (R419). -/
def execThermtrip (s : State) : Host.Outcome State Fault Refusal := guarded .thermtrip (latchedStop s true)

/-- VIN_OUT_OF_RANGE_BEFORE_PGOOD: the rails stop until `PWR_EN` has been removed (R420). -/
def execVinOutOfRangeBeforePgood (s : State) : Host.Outcome State Fault Refusal :=
  guarded .vinOutOfRangeBeforePgood (when_ (s.pwr.rails == 1) s { s with pwr := { s.pwr with rails := 0, blocked := true } })

/-- POWER_LIMIT: the power manager slows clocks, or stops doing so (R417, Table 16-17). -/
def execPowerLimit (slow : Bool) (fmin : BitVec 16) (s : State) : Host.Outcome State Fault Refusal :=
  guarded (.powerLimit slow fmin) (when_ s.pwr.pgood s { s with pwr := { s.pwr with thr := slow, fmin := fmin } })

/-- THERMAL_THRESHOLD: `THERM_N` with its hysteresis; a change interrupts (R419, R432). -/
def thermal (s : State) (tmax : BitVec 16) : State :=
  let n := if 1000 ≤ tmax.toNat then false else if tmax.toNat < 970 then true else s.pwr.thermN
  let s1 := { s with pwr := { s.pwr with tmax := tmax, thermN := n } }
  if !s.pwr.pgood then s else if n == s.pwr.thermN then s1 else emit s1 .ibi

def execThermalThreshold (tmax : BitVec 16) (s : State) : Host.Outcome State Fault Refusal :=
  guarded (.thermalThreshold tmax) (thermal s tmax)

/-! ### The I3C target (R432, Table 17-8) -/

/-- Whether the I3C target answers: with power, after the release of `RESET_N` at power-on (Table 17-5). -/
def i3cUp (s : State) : Bool := s.pwr.pgood && !(s.pwr.onReset && !s.pwr.resetN)

/-- Words of Table 17-8: the register at an index with its bytes; `free` stands for the measurements that are open. An
unlisted index reads zero. -/
def i3cWord (s : State) (ix : Nat) (free : Word) : Nat × Nat :=
  match ix with
  | 0x00 => (s.sec.bstat, 1)
  | 0x01 => (b2n s.rel.oos * 16 + b2n (slowing s) * 8 + b2n (!s.pwr.thermN) * 4 + b2n (!s.pwr.faultN) * 2, 1)
  | 0x02 => (s.pwr.fcause, 1)
  | 0x04 => (measured s free, 8)
  | 0x10 => (b2n s.pwr.refok, 1)
  | 0x14 => ((ownId s).toNat, 4)
  | _ => (0, 1)

/-- What a read of a register over I3C answers, little-endian in one transfer; none where the target does not answer. A
device that holds answers the boot status byte and, since R430 has it read then, `FCAUSE` (R365, log 144). -/
def i3cRead (s : State) (ix : Nat) (free : Word) : Option (List Byte) :=
  let holds := s.sec.bstat == 2 || s.sec.bstat == 3
  if !i3cUp s || (holds && ix != 0 && ix != 2) then none else some (toLE (i3cWord s ix free).2 (i3cWord s ix free).1)

/-- `FL_RST_N`: low until `VFLASH` is in regulation (R431). -/
def flRstN (s : State) : Bool := s.pwr.rails == 2

/-- A dynamic address for a target that has none. -/
def assignAddr (s : State) (addr : BitVec 7) : State :=
  if i3cUp s && s.pwr.i3cAddr.isNone then { s with pwr := { s.pwr with i3cAddr := some addr } } else s

/-- SETDASA: to the static address 0x30 + `ADR[3:0]`. -/
def execSetdasa (addr : BitVec 7) (s : State) : Host.Outcome State Fault Refusal :=
  guarded (.setdasa addr) (assignAddr s addr)

/-- ENTDAA: the controller's turn to this target. -/
def execEntdaa (addr : BitVec 7) (s : State) : Host.Outcome State Fault Refusal :=
  guarded (.entdaa addr) (assignAddr s addr)

/-- REFOK_WRITE (R426). -/
def execRefokWrite (ok : Bool) (s : State) : Host.Outcome State Fault Refusal :=
  guarded (.refokWrite ok) (when_ (i3cUp s) s { s with pwr := { s.pwr with refok := ok } })

end Sys2Proof.Machine
end

