-- ==== Sys2Proof/Machine/Requests.lean ====
section
/-! DEFINITION. Responses at the issuer, deadlines and tags (R182, R188, R189, Table 8-15). -/

namespace Sys2Proof.Machine

/-- Whether a response type answers a kind of request. -/
def kindTakes (k : ReqKind) (t : Nat) : Bool :=
  match k with
  | .dmaRead _ _ _ | .pocketRead _ _ _ => t == Mt.rdRsp
  | .dmaWrite _ _ | .pocketWrite _ _ => t == Mt.wrAck
  | .amo _ _ _ => t == Mt.amoRsp
  | .coll _ _ _ | .plan _ _ _ _ _ _ | .planData _ _ _ _ _ | .stepRec _ => t == Mt.collAck

/-- A tile that did not arrive, as its DMA sees it: of no stated bytes, marked POISON (Table 8-15). -/
def missingTile (s : State) (d : Dma) : List Byte × Collar :=
  let bs := freeBytes s 4096
  let e := Entry.ofBytes (d.entry.getD [])
  (bs, mkCollar (crc32c bs) (if d.xf = 0 then 0 else e.sfmt) (if d.xf = 0 then 0 else e.sscl) 0
    false false false true false 0 0 0 0)

/-- A tile of a remote source reaches its DMA. -/
def tileArrives (s : State) (g id a : Nat) (pay : List Byte) (col : Collar) (st : Nat) : State :=
  onDma s g id fun d =>
    (if d.aborted then d
     else { d with buf := mput d.buf a (slice pay 0 4096), bufCol := sset zeroCollar d.bufCol (a / 4096) col }).reply st

/-- A request is over with a status; `got` holds the response when there is one (R182, R189). -/
def requestEnd (s : State) (k : ReqKind) (st : Nat) (got : Option Msg) (via : Option Nat) : State :=
  let pay := (got.map (·.payload)).getD []
  let col := (got.map fun m => collarOf m.collar).getD 0
  match k with
  | .dmaRead g id a =>
    if st = Status.ok then
      let bad := !crcOk (slice pay 0 4096) col
      let s1 := match via with
        | some c => if bad then charge s 0x0E 7 c else s
        | none => s
      tileArrives s1 g id a pay col st
    else
      match (coreOf s g).dmas.find? fun d => d.id == id with
      | none => s
      | some d =>
        let m := missingTile s d
        tileArrives (spend s 512) g id a m.1 m.2 st
  | .dmaWrite g id => onDma s g id fun d => d.reply st
  | .amo g id res =>
    let alive := (coreOf s g).dmas.any fun d => d.id == id && !d.aborted
    let s1 := match alive, holderOf s g with
      | true, some hd => amoResult s hd.part g res (if got.isSome && st = Status.ok then leAt pay 0 8 else 0) st
      | _, _ => s
    onDma s1 g id fun d => d.reply st
  | .coll p g o => collMsgEnd s p g o st
  | .plan p planid phash code tensor rank => planCtrlEnd s p planid phash code tensor rank st
  | .planData p planid phash tensor rank => planDataEnd s p planid phash tensor rank
  | .pocketRead p idx t => pkPeerArrive s p idx t st (slice pay 0 4096) col
  | .pocketWrite p idx => pkReply s p idx (if st = Status.ok then [] else [st])
  | .stepRec p => recordMsgEnd s p got.isNone

/-- A tag of a die is free: the first message that waits there leaves, and so does what the engines of plans and collectives
hold back (R189). -/
def tagFreed (s : State) (die : Bool) : State :=
  let s1 := sendWaited s die
  (List.range 16).foldl (fun t p =>
    ((partOf t p).colls.map fun k => (k.gix, k.opseq)).foldl (fun u k => onColl u p k.1 k.2 fun c => c) (pumpSends t p)) s1

/-- Counts a response that no request waits for (R189, Table 16-9 bit 3). -/
def countLate (s : State) (p : Nat) : State := if exists_ s p then errEvent s p 3 else s

/-- A response arrives at its issuer (Table 8-15). -/
def takeResponse (s : State) (via : Option Nat) (m : Msg) (t : Nat) : State :=
  if !forMe s m t then s
  else match acceptMsg s via m with
    | (none, s0) => s0
    | (some q, s0) =>
      match findReq s0 q with
      | none => countLate s0 q.srcPart.toNat
      | some r =>
        if r.timedOut || !kindTakes r.kind t then countLate s0 r.part
        else tagFreed (requestEnd (dropReq s0 r) r.kind (knownStatus q.status) (some q) via) r.die

def execRdRsp (via : Option Nat) (m : Msg) (s : State) : Host.Outcome State Fault Refusal :=
  guarded (.rdRsp via m) (takeResponse s via m Mt.rdRsp)

def execWrAck (via : Option Nat) (m : Msg) (s : State) : Host.Outcome State Fault Refusal :=
  guarded (.wrAck via m) (takeResponse s via m Mt.wrAck)

def execAmoRsp (via : Option Nat) (m : Msg) (s : State) : Host.Outcome State Fault Refusal :=
  guarded (.amoRsp via m) (takeResponse s via m Mt.amoRsp)

def execCollAck (via : Option Nat) (m : Msg) (s : State) : Host.Outcome State Fault Refusal :=
  guarded (.collAck via m) (takeResponse s via m Mt.collAck)

/-- The outstanding request of an I/O die and a tag. -/
def reqAt (s : State) (die : Bool) (tag : BitVec 16) : Option Req :=
  s.fabric.reqs.find? fun r => r.die == die && r.tag == tag

/-- An outstanding request is TIMED_OUT. -/
def markTimedOut (s : State) (r : Req) : State :=
  { s with fabric := { s.fabric with reqs := s.fabric.reqs.map fun x =>
      if x.die == r.die && x.tag == r.tag then { x with timedOut := true } else x } }

/-- The status of a request whose deadline passes: POISON (Table 8-15), and FENCED where a fenced port discarded flits of
it, since of two codes that apply R8 reports that one, as its example says (log 139). -/
def lateStatus (r : Req) : Nat := worst ([Status.poison] ++ (if r.fenced then [Status.fenced] else []))

/-- Whether a request is a read that nothing wants any more (R244). -/
def reqUnwanted (s : State) (r : Req) : Bool :=
  match r.kind with
  | .dmaRead g id _ => unwanted s g id
  | _ => false

/-- REQUEST_DEADLINE: a waiting request completes (R188, R189). -/
def requestDeadline (s : State) (die : Bool) (tag : BitVec 16) : State :=
  match reqAt s die tag with
  | some r =>
    if r.timedOut then s
    else readAheadEnd (requestEnd (markTimedOut s r) r.kind (lateStatus r) none none) r.part (reqUnwanted s r)
  | none => s

def execRequestDeadline (die : Bool) (tag : BitVec 16) (s : State) : Host.Outcome State Fault Refusal :=
  guarded (.requestDeadline die tag) (requestDeadline s die tag)

/-- TAG_REUSE: 1 ms after its deadline a tag is free again (R189). -/
def tagReuse (s : State) (die : Bool) (tag : BitVec 16) : State :=
  match reqAt s die tag with
  | some r => if r.timedOut then tagFreed (dropReq s r) die else s
  | none => s

def execTagReuse (die : Bool) (tag : BitVec 16) (s : State) : Host.Outcome State Fault Refusal :=
  guarded (.tagReuse die tag) (tagReuse s die tag)

end Sys2Proof.Machine
end

