-- ==== Sys2Proof/Machine/Dispatch.lean ====
section
/-! DEFINITION. The dispatcher: one arm for each command. -/

namespace Sys2Proof.Machine

/-- The effect of a command on everything but the queue. -/
def exec (i : Instr) (s : State) : Host.Outcome State Fault Refusal :=
  match i with
  | .bundleIssue g faults => Sys2Proof.Machine.execBundleIssue g faults s
  | .barCRelease h => Sys2Proof.Machine.execBarCRelease h s
  | .barPRelease p c b => Sys2Proof.Machine.execBarPRelease p c b s
  | .fenceComplete g => Sys2Proof.Machine.execFenceComplete g s
  | .watchdog g => Sys2Proof.Machine.execWatchdog g s
  | .spLate g => Sys2Proof.Machine.execSpLate g s
  | .mmaDescriptorRead g => Sys2Proof.Machine.execMmaDescriptorRead g s
  | .mmaStart g => Sys2Proof.Machine.execMmaStart g s
  | .mmaSegmentEnd g => Sys2Proof.Machine.execMmaSegmentEnd g s
  | .mmaComplete g => Sys2Proof.Machine.execMmaComplete g s
  | .auditCopy g => Sys2Proof.Machine.execAuditCopy g s
  | .dmaStart g k => Sys2Proof.Machine.execDmaStart g k s
  | .dmaTileTransfer g k faults => Sys2Proof.Machine.execDmaTileTransfer g k faults s
  | .dmaComplete g k => Sys2Proof.Machine.execDmaComplete g k s
  | .hbmScrub p tile block die o => Sys2Proof.Machine.execHbmScrub p tile block die o s
  | .eviction p bolt => Sys2Proof.Machine.execEviction p bolt s
  | .flashCopyComplete p bolt => Sys2Proof.Machine.execFlashCopyComplete p bolt s
  | .flashFetchComplete p bolt bad retries us => Sys2Proof.Machine.execFlashFetchComplete p bolt bad retries us s
  | .wearSave => Sys2Proof.Machine.execWearSave s
  | .wantHint p => Sys2Proof.Machine.execWantHint p s
  | .keepHint p => Sys2Proof.Machine.execKeepHint p s
  | .unkeepHint p => Sys2Proof.Machine.execUnkeepHint p s
  | .spareHint p => Sys2Proof.Machine.execSpareHint p s
  | .evictHint p => Sys2Proof.Machine.execEvictHint p s
  | .dropHint p => Sys2Proof.Machine.execDropHint p s
  | .hintRecordComplete p => Sys2Proof.Machine.execHintRecordComplete p s
  | .flitTransmit port => Sys2Proof.Machine.execFlitTransmit port s
  | .flitReceive port w => Sys2Proof.Machine.execFlitReceive port w s
  | .replayTimeout port => Sys2Proof.Machine.execReplayTimeout port s
  | .hem port lost => Sys2Proof.Machine.execHem port lost s
  | .hemComplete port kept => Sys2Proof.Machine.execHemComplete port kept s
  | .hold m => Sys2Proof.Machine.execHold m s
  | .retrain port => Sys2Proof.Machine.execRetrain port s
  | .retrainComplete port lanes => Sys2Proof.Machine.execRetrainComplete port lanes s
  | .rdReq via m => Sys2Proof.Machine.execRdReq via m s
  | .rdRsp via m => Sys2Proof.Machine.execRdRsp via m s
  | .wrReq via m => Sys2Proof.Machine.execWrReq via m s
  | .wrAck via m => Sys2Proof.Machine.execWrAck via m s
  | .amoReq via m => Sys2Proof.Machine.execAmoReq via m s
  | .amoRsp via m => Sys2Proof.Machine.execAmoRsp via m s
  | .requestDeadline die tag => Sys2Proof.Machine.execRequestDeadline die tag s
  | .tagReuse die tag => Sys2Proof.Machine.execTagReuse die tag s
  | .portNarrow port peer => Sys2Proof.Machine.execPortNarrow port peer s
  | .portSleep port peer => Sys2Proof.Machine.execPortSleep port peer s
  | .portWake port => Sys2Proof.Machine.execPortWake port s
  | .tunnelData d => Sys2Proof.Machine.execTunnelData d s
  | .tunnelAck d => Sys2Proof.Machine.execTunnelAck d s
  | .tunnelResend gw => Sys2Proof.Machine.execTunnelResend gw s
  | .serviceFrameReceive n f => Sys2Proof.Machine.execServiceFrameReceive n f s
  | .serviceFrameTransmit p n => Sys2Proof.Machine.execServiceFrameTransmit p n s
  | .helloSend port => Sys2Proof.Machine.execHelloSend port s
  | .hello port m => Sys2Proof.Machine.execHello port m s
  | .discoveryTimeout port => Sys2Proof.Machine.execDiscoveryTimeout port s
  | .rtSwap => Sys2Proof.Machine.execRtSwap s
  | .load p gix => Sys2Proof.Machine.execLoad p gix s
  | .clear p gix => Sys2Proof.Machine.execClear p gix s
  | .collectiveSubmit p c h desc => Sys2Proof.Machine.execCollectiveSubmit p c h desc s
  | .collectiveStart p gix opseq => Sys2Proof.Machine.execCollectiveStart p gix opseq s
  | .ready via m => Sys2Proof.Machine.execReady via m s
  | .dataR via m => Sys2Proof.Machine.execDataR via m s
  | .dataG via m => Sys2Proof.Machine.execDataG via m s
  | .abort via m => Sys2Proof.Machine.execAbort via m s
  | .collAck via m => Sys2Proof.Machine.execCollAck via m s
  | .wlimTimeout p gix opseq => Sys2Proof.Machine.execWlimTimeout p gix opseq s
  | .collectiveComplete p gix opseq => Sys2Proof.Machine.execCollectiveComplete p gix opseq s
  | .create p slot => Sys2Proof.Machine.execCreate p slot s
  | .grantPinned p slot => Sys2Proof.Machine.execGrantPinned p slot s
  | .revoke p slot => Sys2Proof.Machine.execRevoke p slot s
  | .revokeDrained p slot => Sys2Proof.Machine.execRevokeDrained p slot s
  | .tombstoneExpiry p eoff => Sys2Proof.Machine.execTombstoneExpiry p eoff s
  | .pmCreate => Sys2Proof.Machine.execPmCreate s
  | .pmDestroy => Sys2Proof.Machine.execPmDestroy s
  | .park => Sys2Proof.Machine.execPark s
  | .parkComplete p => Sys2Proof.Machine.execParkComplete p s
  | .unpark => Sys2Proof.Machine.execUnpark s
  | .unparkComplete p => Sys2Proof.Machine.execUnparkComplete p s
  | .debugOn => Sys2Proof.Machine.execDebugOn s
  | .debugOff => Sys2Proof.Machine.execDebugOff s
  | .start p c => Sys2Proof.Machine.execStart p c s
  | .startComplete p c => Sys2Proof.Machine.execStartComplete p c s
  | .preempt p c => Sys2Proof.Machine.execPreempt p c s
  | .preemptSaveComplete p c => Sys2Proof.Machine.execPreemptSaveComplete p c s
  | .resume p c => Sys2Proof.Machine.execResume p c s
  | .restoreComplete p c => Sys2Proof.Machine.execRestoreComplete p c s
  | .restart p c => Sys2Proof.Machine.execRestart p c s
  | .contextAbort p c => Sys2Proof.Machine.execContextAbort p c s
  | .release p c => Sys2Proof.Machine.execRelease p c s
  | .teardownComplete p c => Sys2Proof.Machine.execTeardownComplete p c s
  | .contextHalted p c => Sys2Proof.Machine.execContextHalted p c s
  | .dbRing p c val => Sys2Proof.Machine.execDbRing p c val s
  | .functionLevelReset p => Sys2Proof.Machine.execFunctionLevelReset p s
  | .hostLinkDown h unbound => Sys2Proof.Machine.execHostLinkDown h unbound s
  | .getLdInfo q => Sys2Proof.Machine.execGetLdInfo q s
  | .getLdAllocations h => Sys2Proof.Machine.execGetLdAllocations h s
  | .setLdAllocations h alloc => Sys2Proof.Machine.execSetLdAllocations h alloc s
  | .hostWindowRead p off len => Sys2Proof.Machine.execHostWindowRead p off len s
  | .hostWindowWrite p off data => Sys2Proof.Machine.execHostWindowWrite p off data s
  | .hostRequestTimeout p id => Sys2Proof.Machine.execHostRequestTimeout p id s
  | .latTolWrite p val => Sys2Proof.Machine.execLatTolWrite p val s
  | .powerStateEntry u => Sys2Proof.Machine.execPowerStateEntry u s
  | .powerStateWake u => Sys2Proof.Machine.execPowerStateWake u s
  | .eset p val => Sys2Proof.Machine.execEset p val s
  | .sset p val => Sys2Proof.Machine.execSset p val s
  | .gset p val => Sys2Proof.Machine.execGset p val s
  | .layoutRelease p slot => Sys2Proof.Machine.execLayoutRelease p slot s
  | .submit p => Sys2Proof.Machine.execSubmit p s
  | .planAbort p => Sys2Proof.Machine.execPlanAbort p s
  | .planResourcesFree p => Sys2Proof.Machine.execPlanResourcesFree p s
  | .pull via m => Sys2Proof.Machine.execPull via m s
  | .pullRetry p xfer => Sys2Proof.Machine.execPullRetry p xfer s
  | .data via m => Sys2Proof.Machine.execData via m s
  | .tdone via m => Sys2Proof.Machine.execTdone via m s
  | .digestReadback p xfer => Sys2Proof.Machine.execDigestReadback p xfer s
  | .transferTimeout p xfer => Sys2Proof.Machine.execTransferTimeout p xfer s
  | .done via m => Sys2Proof.Machine.execDone via m s
  | .commit via m => Sys2Proof.Machine.execCommit via m s
  | .fail via m => Sys2Proof.Machine.execFail via m s
  | .planDeadline p => Sys2Proof.Machine.execPlanDeadline p s
  | .sealedTimeout p => Sys2Proof.Machine.execSealedTimeout p s
  | .commitResend p rank => Sys2Proof.Machine.execCommitResend p rank s
  | .digestScrub p rec => Sys2Proof.Machine.execDigestScrub p rec s
  | .seam p => Sys2Proof.Machine.execSeam p s
  | .seamInPulse now => Sys2Proof.Machine.execSeamInPulse now s
  | .sreq p => Sys2Proof.Machine.execSreq p s
  | .seamWindowExpiry p => Sys2Proof.Machine.execSeamWindowExpiry p s
  | .scaleRecordClose p => Sys2Proof.Machine.execScaleRecordClose p s
  | .stash p => Sys2Proof.Machine.execStash p s
  | .stashComplete p idx => Sys2Proof.Machine.execStashComplete p idx s
  | .fetch p => Sys2Proof.Machine.execFetch p s
  | .fetchComplete p idx => Sys2Proof.Machine.execFetchComplete p idx s
  | .back p => Sys2Proof.Machine.execBack p s
  | .claim p => Sys2Proof.Machine.execClaim p s
  | .keep p => Sys2Proof.Machine.execKeep p s
  | .drop p => Sys2Proof.Machine.execDrop p s
  | .watermarkDrop p => Sys2Proof.Machine.execWatermarkDrop p s
  | .rmEnable p val => Sys2Proof.Machine.execRmEnable p val s
  | .rmDisable p => Sys2Proof.Machine.execRmDisable p s
  | .requestSubmit p => Sys2Proof.Machine.execRequestSubmit p s
  | .requestCancel p => Sys2Proof.Machine.execRequestCancel p s
  | .stepRecordPublish p => Sys2Proof.Machine.execStepRecordPublish p s
  | .stepRecordReceive via m => Sys2Proof.Machine.execStepRecordReceive via m s
  | .knownAnswerKernel g k => Sys2Proof.Machine.execKnownAnswerKernel g k s
  | .kernelComplete g digest => Sys2Proof.Machine.execKernelComplete g digest s
  | .voteRecomputeComplete vid r1 r2 g1 g2 => Sys2Proof.Machine.execVoteRecomputeComplete vid r1 r2 g1 g2 s
  | .voteNoneTimeout vid => Sys2Proof.Machine.execVoteNoneTimeout vid s
  | .engineWatchdog e => Sys2Proof.Machine.execEngineWatchdog e s
  | .heartbeatMiss p role => Sys2Proof.Machine.execHeartbeatMiss p role s
  | .faultAgentWatchdog => Sys2Proof.Machine.execFaultAgentWatchdog s
  | .managementAgentRestart => Sys2Proof.Machine.execManagementAgentRestart s
  | .engineResetHang e => Sys2Proof.Machine.execEngineResetHang e s
  | .preset p => Sys2Proof.Machine.execPreset p s
  | .partitionResetComplete p => Sys2Proof.Machine.execPartitionResetComplete p s
  | .partitionResetHang p => Sys2Proof.Machine.execPartitionResetHang p s
  | .dreset => Sys2Proof.Machine.execDreset s
  | .deviceResetComplete => Sys2Proof.Machine.execDeviceResetComplete s
  | .deviceResetHang => Sys2Proof.Machine.execDeviceResetHang s
  | .returnToService => Sys2Proof.Machine.execReturnToService s
  | .fence ut idx => Sys2Proof.Machine.execFence ut idx s
  | .unfence ut idx => Sys2Proof.Machine.execUnfence ut idx s
  | .pset => Sys2Proof.Machine.execPset s
  | .pclr => Sys2Proof.Machine.execPclr s
  | .run => Sys2Proof.Machine.execRun s
  | .bistComplete o => Sys2Proof.Machine.execBistComplete o s
  | .bistConditionLost why => Sys2Proof.Machine.execBistConditionLost why s
  | .periodic => Sys2Proof.Machine.execPeriodic s
  | .wwinBucketRoll => Sys2Proof.Machine.execWwinBucketRoll s
  | .powerOnBoot => Sys2Proof.Machine.execPowerOnBoot s
  | .securityCounterBump => Sys2Proof.Machine.execSecurityCounterBump s
  | .enroll klen => Sys2Proof.Machine.execEnroll klen s
  | .transfer klen => Sys2Proof.Machine.execTransfer klen s
  | .unlock klen => Sys2Proof.Machine.execUnlock klen s
  | .erase64KiB => Sys2Proof.Machine.execErase64KiB s
  | .program256Bytes => Sys2Proof.Machine.execProgram256Bytes s
  | .jkCreate p slot job => Sys2Proof.Machine.execJkCreate p slot job s
  | .jkRequest p slot job => Sys2Proof.Machine.execJkRequest p slot job s
  | .jkIssue p slot => Sys2Proof.Machine.execJkIssue p slot s
  | .jkAccept p slot => Sys2Proof.Machine.execJkAccept p slot s
  | .jkErase p slot => Sys2Proof.Machine.execJkErase p slot s
  | .hinowenReportObject p h kind nonce => Sys2Proof.Machine.execHinowenReportObject p h kind nonce s
  | .spdmRequest p h req => Sys2Proof.Machine.execSpdmRequest p h req s
  | .ideKm h mem key secured => Sys2Proof.Machine.execIdeKm h mem key secured s
  | .glitch => Sys2Proof.Machine.execGlitch s
  | .read f => Sys2Proof.Machine.execRead f s
  | .write f => Sys2Proof.Machine.execWrite f s
  | .report f => Sys2Proof.Machine.execReport f s
  | .session f => Sys2Proof.Machine.execSession f s
  | .registerWrite sp off len val => Sys2Proof.Machine.execRegisterWrite sp off len val s
  | .pwrEnAssert => Sys2Proof.Machine.execPwrEnAssert s
  | .pgoodRelease => Sys2Proof.Machine.execPgoodRelease s
  | .pwrEnDeassert => Sys2Proof.Machine.execPwrEnDeassert s
  | .vinUndervoltage => Sys2Proof.Machine.execVinUndervoltage s
  | .vinOvervoltage => Sys2Proof.Machine.execVinOvervoltage s
  | .resetNAssert ns => Sys2Proof.Machine.execResetNAssert ns s
  | .resetNRelease => Sys2Proof.Machine.execResetNRelease s
  | .perstAssert h => Sys2Proof.Machine.execPerstAssert h s
  | .perstRelease h => Sys2Proof.Machine.execPerstRelease h s
  | .powerLimit slow fmin => Sys2Proof.Machine.execPowerLimit slow fmin s
  | .thermalThreshold tmax => Sys2Proof.Machine.execThermalThreshold tmax s
  | .thermtrip => Sys2Proof.Machine.execThermtrip s
  | .setdasa addr => Sys2Proof.Machine.execSetdasa addr s
  | .entdaa addr => Sys2Proof.Machine.execEntdaa addr s
  | .hostCompletion p id data poison => Sys2Proof.Machine.execHostCompletion p id data poison s
  | .teardownLimitExceeded p c => Sys2Proof.Machine.execTeardownLimitExceeded p c s
  | .engineResetComplete e => Sys2Proof.Machine.execEngineResetComplete e s
  | .resetHistoryAgeOut device => Sys2Proof.Machine.execResetHistoryAgeOut device s
  | .servicePortLinkUp n => Sys2Proof.Machine.execServicePortLinkUp n s
  | .servicePortLinkDown n => Sys2Proof.Machine.execServicePortLinkDown n s
  | .hostLinkTrained h width link => Sys2Proof.Machine.execHostLinkTrained h width link s
  | .flashCommandComplete => Sys2Proof.Machine.execFlashCommandComplete s
  | .undervoltageLockoutRelease => Sys2Proof.Machine.execUndervoltageLockoutRelease s
  | .vinOutOfRangeBeforePgood => Sys2Proof.Machine.execVinOutOfRangeBeforePgood s
  | .refokWrite ok => Sys2Proof.Machine.execRefokWrite ok s
  | .panelRelease panel => Sys2Proof.Machine.execPanelRelease panel s

end Sys2Proof.Machine
end

