-- ==== Sys2Proof/Safety.lean ====
section
/-! DEFINITION. What counts as a sound state and a safe step, and the conditions under which a core
issues, in the terms that the statements use. -/

namespace Sys2Proof.Safety

open Sys2Proof.Machine

/-- The byte memories are in their canonical form. -/
def memoriesOk (s : State) : Prop :=
  Mem.wf s.stores = true ∧ Mem.wf s.sec.flash = true ∧ ∀ e ∈ s.parts, Mem.wf e.2.mem = true

/-- The tables keyed by a number are in their canonical form. -/
def tablesOk (s : State) : Prop :=
  sparseWf Partition.none_ s.parts = true ∧ sparseWf Core.zero s.cores = true ∧ sparseWf Cluster.zero s.clusters = true

/-- A step that neither faults nor refuses. -/
def stepOk (s : State) : Prop := ∃ t, step s = .next t

/-- Every waiting command names only units that the device has. -/
def queueOk (s : State) : Prop := ∀ c ∈ s.pending, c.wf = true

/-- Core `g` issues: its cluster is held, it runs, its pc lies in the code region (R28), and the bundle
that it fetches, with `n` free values used, is `w`; the header is sound (R49), and no break or safe
point stops it here (R50). -/
def Issues (s : State) (g : Nat) (w : Bundle) (n : Nat) : Prop :=
  coreOk g = true ∧ canIssue s g = true ∧ fetchBundle s g (coreOf s g).pc = (w, n) ∧
  w.badHeader = false ∧ w.brk = false ∧ ((coreOf s g).preReq = true → w.sp = false) ∧
  ∃ hd, holderOf s g = some hd ∧ (codeRegion s hd).1 ≤ (coreOf s g).pc ∧
    (coreOf s g).pc < (codeRegion s hd).1 + (codeRegion s hd).2

/-- The valid slots of a bundle: S, B, V, M and L. -/
def Slots (w : Bundle) (sv bv vv mv lv : Bool) : Prop :=
  w.svs = sv ∧ w.svb = bv ∧ w.svv = vv ∧ w.svm = mv ∧ w.svl = lv

/-- The core after a bundle that neither branches nor ends a loop: the next bundle in order. -/
def advanced (k : Core) : Core := { k with pc := (k.pc + 1) % 32768, skip := false }

/-- All registers but the program counter are the same. -/
def sameRegisters (k q : Core) : Prop :=
  q.g = k.g ∧ q.v = k.v ∧ q.p = k.p ∧ q.lc = k.lc ∧ q.loops = k.loops ∧ q.vflag = k.vflag ∧ q.exc = k.exc ∧ q.cb = k.cb

/-- What belongs to no core, no cluster and no store is the same. -/
def sameOutside (s t : State) : Prop :=
  t.out = s.out ∧ t.parts = s.parts ∧ t.fabric = s.fabric ∧ t.rel = s.rel ∧ t.sec = s.sec ∧ t.pwr = s.pwr ∧
    t.mregs = s.mregs ∧ t.wardrobe = s.wardrobe ∧ t.pattern = s.pattern ∧ t.dieCtr = s.dieCtr ∧ t.osc = s.osc ∧ t.tap = s.tap ∧
    t.pending = s.pending

/-- No core's registers and no program counter differ. -/
def sameCores (s t : State) : Prop :=
  ∀ g, sameRegisters (coreOf s g) (coreOf t g) ∧ (coreOf t g).pc = (coreOf s g).pc

/-- Of the partitions other than `p` at most the pending vectors differ. -/
def elsewhere (s t : State) (p : Nat) : Prop := ∀ q, q ≠ p → { partOf t q with msix := 0 } = { partOf s q with msix := 0 }

/-- No message waits for a tag: none at a die, none of a plan, none of a collective (R189). -/
def nothingWaits (s : State) : Prop :=
  s.fabric.waiting = [] ∧ ∀ p, p < 16 → planOf? s p = none ∧ ∀ k ∈ (partOf s p).colls, k.outq = []

end Sys2Proof.Safety
end

