-- ==== Sys2Proof/Certificates/Slice0/Obligations.lean ====
section
/-! DEFINITION. The statements for the provers. Each says of its commands what the device's rules say
they do; a clause that rests on a choice of the model names its log entry. -/

section

open Sys2Proof Sys2Proof.Machine Sys2Proof.Safety

/-! ### The queue, time and reset -/

/-- A step takes the command at the front of the queue and does what `exec` says with the rest waiting. -/
def Obligations.StepRunsTheFrontCommand : Prop :=
  ∀ (s : State) (c : Instr) (rest : List Instr), s.pending = c :: rest → step s = exec c { s with pending := rest }

/-- A command whose operands name no unit of the device stops the model, and no other command does (log 3).
A step on an empty queue is one nominal microsecond (log 1): with power each die's counter gains
999 to 1,001 (R22), the oscillators move on and pauses of service ports run out, and nothing else changes but the free
values used; without power nothing changes. -/
def Obligations.StepsStopOnlyForUnknownUnits : Prop :=
  (∀ (c : Instr) (s : State),
    (c.wf = false → exec c s = .fault .noSuchUnit) ∧ (c.wf = true → ∃ t, exec c s = .next t)) ∧
  (∀ s : State, s.pending = [] →
    (s.pwr.pgood = false → step s = .next s) ∧
    (s.pwr.pgood = true → ∃ t, step s = .next t ∧
      (∀ d, d < 6 → ∃ k, 999 ≤ k ∧ k ≤ 1001 ∧ sget 0 t.dieCtr d = sget 0 s.dieCtr d + BitVec.ofNat 64 k) ∧
      t = { s with dieCtr := t.dieCtr, osc := t.osc, freeIx := s.freeIx + 6
                   fabric := { s.fabric with paused := t.fabric.paused } }))

/-- The queue as an invariant of every step: commands are taken first in, first out, a step adds none, and
while every waiting command names units of the device no step stops. -/
def Obligations.QueueDrainsInOrder : Prop :=
  ∀ s : State, queueOk s → ∃ t, step s = .next t ∧ t.pending = s.pending.tail ∧ queueOk t

/-- One-time programmable memory only ever gains (R370, R371, R389): while at most sixteen bits of the JTAG
state are blown, no step of any command un-blows a used owner slot, changes its digest, un-revokes it or lowers
its pattern counter, un-revokes an image key, un-blows a bit of the JTAG state or blows a seventeenth, or lowers
the image counter. -/
def Obligations.FusesNeverUnblow : Prop :=
  ∀ s t : State, s.sec.jtag ≤ 16 → step s = .next t →
    let slot := fun (u : State) (k : Nat) =>
      sget ({ digest := 0, used := false, revoked := false, psvc := 0 } : OwnerSlot) u.sec.owners k
    (∀ k, (slot s k).used = true → (slot t k).used = true ∧ (slot t k).digest = (slot s k).digest ∧
      ((slot s k).revoked = true → (slot t k).revoked = true) ∧ (slot s k).psvc ≤ (slot t k).psvc) ∧
    s.sec.revokedImg &&& t.sec.revokedImg = s.sec.revokedImg ∧
    s.sec.isvc ≤ t.sec.isvc ∧ s.sec.jtag ≤ t.sec.jtag ∧ t.sec.jtag ≤ 16

/-- Reset leaves no partition, no command waiting, every memory and table empty and canonical, and no fuse
blown (log 8).
The Reset column of the register tables, by its non-zero entries: host timeout, seam interval bounds,
remote timeout and bolt hints of a partition's block (Tables 16-3, 16-5, 16-7, 16-8, 13-10, 11-12) and the
power-on state of the management space. -/
def Obligations.ResetLeavesTheResetColumn : Prop :=
  (State.reset.pending = [] ∧ queueOk State.reset ∧ State.reset.sec.jtag = 0 ∧ memoriesOk State.reset ∧ tablesOk State.reset ∧
    (∀ p, (partOf State.reset p).ptstate = 0) ∧ (∀ a, mregOf State.reset a = (mgmtReg a).reset)) ∧
  (∀ p, reg State.reset p R.pcHtmo 9 0 = 100 ∧ reg State.reset p R.rmBint 5 0 = 1 ∧
    reg State.reset p R.nyTmo 15 8 = 0x28 ∧ reg State.reset p R.nyTmo 6 0 = 0x18 ∧
    reg State.reset p R.migFreelow 31 0 = 1024 ∧ reg State.reset p R.errCwd 9 0 = 10 ∧
    reg State.reset p R.tlDgint 15 0 = 600)

/-! ### Cores -/

/-- BUNDLE_ISSUE: S-slot instructions of Table 2-5 that write a general register: a bundle with one valid, guarded S slot
puts the stated result into `gd`, moves to the next bundle and changes nothing else; `g0` stays zero (R26). -/
def Obligations.ScalarResults : Prop :=
  ∀ (s : State) (g n : Nat) (w : Bundle), Issues s g w n → Slots w true false false false false →
    S.illegal w.s = false → guardBit (coreOf s g) (S.pr w.s) (S.pn w.s) = true → (coreOf s g).loops = [] →
    let k := coreOf s g
    let a := k.gr (S.ga w.s)
    let b := S.src2 k w.s
    let d := k.gr (S.gd w.s)
    ∀ v : Word,
      (S.op w.s, v) ∈
        [(0x01, a + b), (0x02, a - b), (0x03, a * b),
         (0x04, BitVec.ofInt 64 (a.toInt * b.toInt / 2 ^ 64)), (0x05, BitVec.ofNat 64 (a.toNat * b.toNat / 2 ^ 64)),
         (0x06, a &&& b), (0x07, a ||| b), (0x08, a ^^^ b),
         (0x09, a <<< (b.toNat % 64)), (0x0A, a >>> (b.toNat % 64)), (0x0B, a.sshiftRight (b.toNat % 64)),
         (0x0C, if a.toInt ≤ b.toInt then a else b), (0x0D, if a.toInt ≤ b.toInt then b else a),
         (0x0E, if a.toNat ≤ b.toNat then a else b), (0x0F, if a.toNat ≤ b.toNat then b else a),
         (0x12, BitVec.ofInt 64 (sext 32 (S.imm w.s))), (0x13, BitVec.ofNat 64 (d.toNat % 2 ^ 32 + S.imm w.s * 2 ^ 32))] →
      exec (.bundleIssue g []) s = .next (putCore (spend s n) g (advanced (k.setG (S.gd w.s) v)))

/-- Comparisons, predicate operations and the moves of Table 2-5 (R27): all 32 bits of the destination
predicate take the outcome; `mvlc` and `rdlc` write and read a loop counter. -/
def Obligations.ScalarPredicatesAndMoves : Prop :=
  ∀ (s : State) (g n : Nat) (w : Bundle), Issues s g w n → Slots w true false false false false →
    S.illegal w.s = false → guardBit (coreOf s g) (S.pr w.s) (S.pn w.s) = true → (coreOf s g).loops = [] →
    let k := coreOf s g
    let a := k.gr (S.ga w.s)
    let b := S.src2 k w.s
    let x := k.pr (S.ga w.s % 8)
    let y := k.pr (S.gb w.s % 8)
    let next := fun q : Core => exec (.bundleIssue g []) s = .next (putCore (spend s n) g (advanced q))
    (∀ c : Bool, (S.op w.s, c) ∈
        [(0x14, a == b), (0x15, a != b), (0x16, decide (a.toInt < b.toInt)), (0x17, decide (a.toNat < b.toNat)),
         (0x18, decide (a.toInt ≤ b.toInt)), (0x19, decide (a.toNat ≤ b.toNat))] →
      next (k.setP (S.gd w.s % 8) (if c then BitVec.allOnes 32 else 0))) ∧
    (∀ v : BitVec 32, (S.op w.s, v) ∈ [(0x1A, x &&& y), (0x1B, x ||| y), (0x1C, x ^^^ y), (0x1D, ~~~ x)] →
      next (k.setP (S.gd w.s % 8) v)) ∧
    (S.op w.s = 0x20 → next (k.setLc (S.gd w.s % 4) (BitVec.ofNat 32 b.toNat))) ∧
    (S.op w.s = 0x21 → next (k.setG (S.gd w.s) (BitVec.ofNat 64 (k.lcr (S.ga w.s % 4)).toNat)))

/-- Special registers (R33, Table 2-6): the index is `IMM`[11:0]; either operation with `I` = 0, or naming a reserved
index, raises `ILLEGAL`, whatever its guard; a guarded `csrr` reads the register into `gd`; a `csrw` to an RO register
is ignored, and one to `vflag` clears the bits written as 1. -/
def Obligations.SpecialRegisters : Prop :=
  ∀ (s : State) (g n : Nat) (w : Bundle) (hd : Holder), Issues s g w n → Slots w true false false false false →
    holderOf s g = some hd → S.op w.s = 0x1E ∨ S.op w.s = 0x1F →
    let k := coreOf s g
    let i := S.imm w.s % 4096
    let next := fun q : Core => exec (.bundleIssue g []) s = .next (putCore (spend s n) g (advanced q))
    (S.i w.s = 0 ∨ 4 < i → cstate s hd.part hd.ctx = Cs.running → ∃ t, exec (.bundleIssue g []) s = .next t ∧
      (coreOf t g).exc = BitVec.ofNat 8 Exc.illegal ∧ (coreOf t g).pc = k.pc ∧ (coreOf t g).g = k.g ∧
      (coreOf t g).vflag = k.vflag ∧ cstate t hd.part hd.ctx = Cs.teardown ∧
      (ctxOf t hd.part hd.ctx).cause.map (·.fcause) = some Exc.illegal) ∧
    (S.illegal w.s = false → guardBit k (S.pr w.s) (S.pn w.s) = true → k.loops = [] →
      (∀ v : Word, (i, v) ∈ [(0, BitVec.ofNat 64 (cidOf g)), (1, BitVec.ofNat 64 (hd.part * 64 + hd.ctx)),
          (2, sget 0 s.dieCtr (g / 2560)), (3, BitVec.ofNat 64 k.vflag.toNat),
          (4, if (partOf s hd.part).dbgen then 1 else 0)] →
        S.op w.s = 0x1E → next (k.setG (S.gd w.s) v)) ∧
      (S.op w.s = 0x1F → i ≠ 3 → next k) ∧
      (S.op w.s = 0x1F → i = 3 → next { k with vflag := k.vflag &&& ~~~ (BitVec.ofNat 2 (k.gr (S.ga w.s)).toNat) }))

/-- BUNDLE_ISSUE: A bundle whose one valid slot is an S, B, M or L slot other than `vst` with a false guard does nothing but
move to the next bundle (R27, R37). -/
def Obligations.FalseGuardDoesNothing : Prop :=
  ∀ (s : State) (g n : Nat) (w : Bundle), Issues s g w n → (coreOf s g).loops = [] →
    let k := coreOf s g
    (Slots w true false false false false → S.illegal w.s = false → guardBit k (S.pr w.s) (S.pn w.s) = false →
      exec (.bundleIssue g []) s = .next (putCore (spend s n) g (advanced k))) ∧
    (Slots w false true false false false → B.illegal w.b = false → guardBit k (B.pr w.b) (B.pn w.b) = false →
      exec (.bundleIssue g []) s = .next (putCore (spend s n) g (advanced k))) ∧
    (Slots w false false false true false → M4.illegal w.m = false → guardBit k (M4.pr w.m) (M4.pn w.m) = false →
      exec (.bundleIssue g []) s = .next (putCore (spend s n) g (advanced k))) ∧
    (Slots w false false false false true → L.illegal w.l = false → L.op w.l ≠ 0x0D →
      guardBit k (L.pr w.l) (L.pn w.l) = false →
      exec (.bundleIssue g []) s = .next (putCore (spend s n) g (advanced k)))

/-- BUNDLE_ISSUE: Branches of Table 2-8: `br` and `call` go to pc plus the signed offset, `brr` to its register, `ret` to
`g31`, `call` leaves pc + 1 in `g31`; with no loop active nothing else changes. -/
def Obligations.BranchesGoToTheirTargets : Prop :=
  ∀ (s : State) (g n : Nat) (w : Bundle), Issues s g w n → Slots w false true false false false →
    B.illegal w.b = false → guardBit (coreOf s g) (B.pr w.b) (B.pn w.b) = true → (coreOf s g).loops = [] →
    let k := coreOf s g
    let goes := fun (q : Core) (pc : Nat) =>
      exec (.bundleIssue g []) s = .next (putCore (spend s n) g { q with pc := pc, skip := false })
    (B.op w.b = 0x01 → goes k (wrapTo 15 (k.pc + B.off w.b))) ∧
    (B.op w.b = 0x02 → (k.gr (B.ga37 w.b)).toNat ≤ 32767 → goes k (k.gr (B.ga37 w.b)).toNat) ∧
    (B.op w.b = 0x03 → goes (k.setG 31 (BitVec.ofNat 64 ((k.pc + 1) % 32768))) (wrapTo 15 (k.pc + B.off w.b))) ∧
    (B.op w.b = 0x04 → (k.gr 31).toNat ≤ 32767 → goes k (k.gr 31).toNat)

/-- `loop` (R42): it sets its counter to the count, its start to pc + 1 and its end to pc + `LEN`, and is the newest active
loop; a loop that was active on the counter and every loop started after it are not active any more; a count of 0 goes
to pc + `LEN` + 1 and leaves the loop inactive; `LEN` = 0 raises `ILLEGAL`. Here no active loop ends at the bundle
(loops that end there are R43's); a count is read as 32 bits. -/
def Obligations.LoopStarts : Prop :=
  ∀ (s : State) (g n : Nat) (w : Bundle) (hd : Holder), Issues s g w n → Slots w false true false false false →
    holderOf s g = some hd → B.op w.b = 0x05 →
    let k := coreOf s g
    let l := B.lcn w.b
    let older := if k.loops.any (fun a => a.n == l) then (k.loops.dropWhile fun a => a.n != l).drop 1 else k.loops
    (B.illegal w.b = false → guardBit k (B.pr w.b) (B.pn w.b) = true → (∀ a ∈ k.loops, a.last ≠ k.pc) → B.loopN k w.b ≠ 0 →
      exec (.bundleIssue g []) s = .next (putCore (spend s n) g
        { k.setLc l (BitVec.ofNat 32 (B.loopN k w.b)) with
          loops := { n := l, first := (k.pc + 1) % 32768, last := (k.pc + B.len w.b) % 32768 } :: older
          pc := (k.pc + 1) % 32768, skip := false })) ∧
    (B.illegal w.b = false → guardBit k (B.pr w.b) (B.pn w.b) = true → B.loopN k w.b = 0 →
      exec (.bundleIssue g []) s = .next (putCore (spend s n) g
        { k.setLc l 0 with loops := older, pc := (k.pc + B.len w.b + 1) % 32768, skip := false })) ∧
    (B.len w.b = 0 → cstate s hd.part hd.ctx = Cs.running → ∃ t, exec (.bundleIssue g []) s = .next t ∧
      (coreOf t g).exc = BitVec.ofNat 8 Exc.illegal ∧ (coreOf t g).pc = k.pc ∧ (coreOf t g).loops = k.loops ∧
      (coreOf t g).lc = k.lc ∧ cstate t hd.part hd.ctx = Cs.teardown ∧
      (ctxOf t hd.part hd.ctx).cause.map (·.fcause) = some Exc.illegal)

/-- Semaphores of the core's cluster (R44): `sem.wait` and `sem.try` take `n` from a count that has it, a
`sem.wait` without it waits, a `sem.try` without it writes false.
Ends of waits (R45-R47). BAR_C_RELEASE: once every core of the mask has arrived the cluster barrier is empty again and
no core of the cluster waits at it. BAR_P_RELEASE: a full partition barrier starts anew and none of its cores waits at it;
its context stands in its clusters (log 125). FENCE_COMPLETE: once a `fence.c` has no earlier DMA but remote puts in flight
and a `fence.p` no earlier one at all, a core that waits for nothing else goes on. -/
def Obligations.SemaphoresBarriersAndFences : Prop :=
  (∀ (s : State) (g n : Nat) (w : Bundle), Issues s g w n → Slots w false true false false false →
    B.illegal w.b = false → guardBit (coreOf s g) (B.pr w.b) (B.pn w.b) = true → (coreOf s g).loops = [] →
    let k := coreOf s g
    let cnt := (sget 0 (clusOf s (g / 16)).sem (B.sid w.b)).toNat
    let m := B.semN k w.b
    let took := fun q : Core => onClus (putCore (spend s n) g (advanced q)) (g / 16)
      fun c => { c with sem := sset 0 c.sem (B.sid w.b) (BitVec.ofNat 16 (cnt - m)) }
    (B.op w.b = 0x06 → m ≤ cnt → exec (.bundleIssue g []) s = .next (took k)) ∧
    (B.op w.b = 0x06 → cnt < m → ∃ t, exec (.bundleIssue g []) s = .next t ∧ t.clusters = s.clusters ∧
      (coreOf t g).run = .waiting [.sem (B.sid w.b) m] ∧ sameRegisters k (coreOf t g) ∧ sameOutside s t) ∧
    (B.op w.b = 0x08 → m ≤ cnt → ∃ t, exec (.bundleIssue g []) s = .next t ∧ t.clusters = (took k).clusters ∧
      (coreOf t g).pr (B.pd w.b) = BitVec.allOnes 32 ∧ sameOutside s t) ∧
    (B.op w.b = 0x08 → cnt < m → ∃ t, exec (.bundleIssue g []) s = .next t ∧ t.clusters = s.clusters ∧
      (coreOf t g).pr (B.pd w.b) = (if B.pd w.b = 0 then BitVec.allOnes 32 else 0) ∧ sameOutside s t)) ∧
  ((∀ (s : State) (h : Nat), h < 640 → (clusOf s h).barArr ≠ 0 →
    (clusOf s h).barMask &&& ~~~ (clusOf s h).barArr = 0 →
    ∃ t, exec (.barCRelease h) s = .next t ∧ (clusOf t h).barArr = 0 ∧ (clusOf t h).barMask = 0 ∧
      (clusOf t h).sem = (clusOf s h).sem ∧ t.stores = s.stores ∧ sameOutside s t ∧
      ∀ g ∈ coresOf h, (coreOf t g).g = (coreOf s g).g ∧ (coreOf t g).pc = (coreOf s g).pc ∧
        ∀ x ∈ waitsOf t g, ∀ m, x ≠ .barC m) ∧
  (∀ (s : State) (p c b : Nat) (q : BarP), p < 16 → c < 64 → b < 16 →
    q = sget { n := 0, arr := [] } (ctxOf s p c).barP b → q.arr ≠ [] → q.n ≤ q.arr.length →
    cstate s p c = Cs.running ∨ cstate s p c = Cs.stopped ∨ cstate s p c = Cs.preempting →
    ∃ t, exec (.barPRelease p c b) s = .next t ∧
      sget { n := 0, arr := [] } (ctxOf t p c).barP b = ({ n := 0, arr := [] } : BarP) ∧
      (∀ b', b' ≠ b → sget { n := 0, arr := [] } (ctxOf t p c).barP b' = sget { n := 0, arr := [] } (ctxOf s p c).barP b') ∧
      (∀ i ∈ q.arr, ∀ g, ctxCoreAt (partOf s p) c i = some g → .barP b ∉ waitsOf t g) ∧
      sameCores s t ∧
      t.stores = s.stores ∧ t.clusters = s.clusters) ∧
  (∀ (s : State) (g : Nat) (ws : List Wait), g < 10240 → (coreOf s g).run = .waiting ws →
    (∀ x ∈ ws, ∃ n, (x = .fenceC n ∧ ∀ d ∈ (coreOf s g).dmas, d.id < n → fld d.dst 63 62 = 1) ∨
      (x = .fenceP n ∧ ∀ d ∈ (coreOf s g).dmas, n ≤ d.id)) →
    ∃ t, exec (.fenceComplete g) s = .next t ∧ (coreOf t g).run = resumeRun s g ∧
      sameRegisters (coreOf s g) (coreOf t g) ∧ (coreOf t g).pc = (coreOf s g).pc ∧ t.stores = s.stores ∧ t.clusters = s.clusters ∧ sameOutside s t))

/-- BUNDLE_ISSUE: Scalar loads and stores (R30, Table 2-14): an aligned access inside the core store completes; a load
extends the little-endian bytes as its opcode says and changes no memory; a store writes its bytes at the core's base plus
the offset and no other byte, and no register. -/
def Obligations.ScalarLoadsAndStores : Prop :=
  ∀ (s : State) (g n : Nat) (w : Bundle), Issues s g w n → Slots w false false false false true →
    L.illegal w.l = false → guardBit (coreOf s g) (L.pr w.l) (L.pn w.l) = true → (coreOf s g).loops = [] →
    let k := coreOf s g
    let off := (L.addr k w.l).toNat
    let at_ := coreBase g + off
    0 ≤ L.addr k w.l → L.addr k w.l ≤ 262143 → off % L.size w.l = 0 →
    (1 ≤ L.op w.l → L.op w.l ≤ 7 → bit (tagsOver s at_ (L.size w.l)) 0 = false →
      exec (.bundleIssue g []) s = .next (putCore (spend s n) g (advanced (k.setG (L.gd w.l)
        (if L.op w.l ≤ 4 then BitVec.ofNat 64 (mle s.stores at_ (L.size w.l))
          else BitVec.ofInt 64 (sext (8 * L.size w.l) (mle s.stores at_ (L.size w.l)))))))) ∧
    (8 ≤ L.op w.l → L.op w.l ≤ 0x0B → (coreOf s g).mops = [] →
      ∃ t, exec (.bundleIssue g []) s = .next t ∧
        mle t.stores at_ (L.size w.l) = (k.gr (L.gd w.l)).toNat % 2 ^ (8 * L.size w.l) ∧
        (∀ a, a < at_ ∨ at_ + L.size w.l ≤ a → mget t.stores a = mget s.stores a) ∧
        coreOf t g = advanced k ∧ (∀ q, q ≠ g → coreOf t q = coreOf s q) ∧ t.clusters = s.clusters ∧ sameOutside s t)

/-- A `dma` of the L slot puts one more DMA in flight, with the registers read at issue, and an `mma` of the M
slot one more operation; neither touches a store (R36, R86). -/
def Obligations.OperationsTakeTheirPlace : Prop :=
  ∀ (s : State) (g n : Nat) (w : Bundle), Issues s g w n → (coreOf s g).loops = [] →
    let k := coreOf s g
    (Slots w false false false false true → L.illegal w.l = false → L.op w.l = 0x0F →
      guardBit k (L.pr w.l) (L.pn w.l) = true → k.dmas.length < 16 →
      ∃ t d, exec (.bundleIssue g []) s = .next t ∧ (coreOf t g).dmas = k.dmas ++ [d] ∧ d.id = k.nextDma ∧
        d.src = k.gr (L.gsrc w.l) ∧ d.dst = k.gr (L.gdst w.l) ∧ d.len = (k.gr (L.glen w.l)).toNat ∧
        d.tag = L.tag w.l ∧ d.unit = 0 ∧ d.finished = false ∧ (coreOf t g).pc = (k.pc + 1) % 32768 ∧
        sameRegisters k (coreOf t g) ∧ t.stores = s.stores ∧ t.clusters = s.clusters ∧ sameOutside s t) ∧
    (Slots w false false false true false → M4.illegal w.m = false → M4.op w.m = 0x01 ∨ M4.op w.m = 0x02 →
      guardBit k (M4.pr w.m) (M4.pn w.m) = true → k.mops = [] →
      (k.gr (M4.gs w.m)).toNat % 64 = 0 → (k.gr (M4.gs w.m)).toNat + 63 ≤ 262143 →
      ∃ t m, exec (.bundleIssue g []) s = .next t ∧ (coreOf t g).mops = [m] ∧ m.m = M4.m w.m ∧ m.n = M4.n w.m ∧
        m.k = (k.gr (M4.gk w.m)).toNat ∧ m.offC = (k.gr (M4.gc w.m)).toNat ∧ m.desc = none ∧ m.started = false ∧
        (coreOf t g).pc = (k.pc + 1) % 32768 ∧ sameRegisters k (coreOf t g) ∧ t.stores = s.stores ∧
        t.clusters = s.clusters ∧ sameOutside s t)

/-- BUNDLE_ISSUE: V-slot bitwise operations (R34, R437): lanes that the mask selects take the result, the others keep
theirs, and nothing else changes. -/
def Obligations.VectorBitwise : Prop :=
  ∀ (s : State) (g n : Nat) (w : Bundle), Issues s g w n → Slots w false false true false false →
    V.illegal w.v = false → (coreOf s g).loops = [] →
    let k := coreOf s g
    let mask := guardMask k (V.pr w.v) (V.pn w.v)
    ∀ f : Nat → Nat → Nat,
      (V.op w.v = 0x11 ∧ f = fun a b => a &&& b) ∨ (V.op w.v = 0x12 ∧ f = fun a b => a ||| b) ∨
        (V.op w.v = 0x13 ∧ f = fun a b => a ^^^ b) →
      ∃ t, exec (.bundleIssue g []) s = .next t ∧
        (∀ i, i < 32 → fld ((coreOf t g).vr (V.vd w.v)) (32 * i + 31) (32 * i) =
          if bit mask i then f (fld (k.vr (V.va w.v)) (32 * i + 31) (32 * i)) (fld (k.vr (V.vb w.v)) (32 * i + 31) (32 * i))
          else fld (k.vr (V.vd w.v)) (32 * i + 31) (32 * i)) ∧
        (∀ r, r ≠ V.vd w.v → (coreOf t g).vr r = k.vr r) ∧ (coreOf t g).pc = (k.pc + 1) % 32768 ∧
        (coreOf t g).g = k.g ∧ (coreOf t g).p = k.p ∧ (coreOf t g).lc = k.lc ∧
        t.stores = s.stores ∧ t.clusters = s.clusters ∧ sameOutside s t

/-- A precise exception stops the core before the faulting bundle issues (R48): no slot acts, the cause is the
core's last one, its context is in tear-down with that cause as its record's first, and no store changes.
The core watchdog and a missed safe point fault the context of the core (R51, R347): it is in tear-down with
`WATCHDOG` or `SP_LATE` as its cause, and only the watchdog charges the core (class 0x0F). -/
def Obligations.FaultsStopTheirContext : Prop :=
  (∀ (s : State) (g n c : Nat) (w : Bundle) (hd : Holder), Issues s g w n → holderOf s g = some hd →
    bundleCause s g (coreOf s g) w = some c → c ≠ Exc.trap → cstate s hd.part hd.ctx = Cs.running →
    ∃ t, exec (.bundleIssue g []) s = .next t ∧ cstate t hd.part hd.ctx = Cs.teardown ∧
      (coreOf t g).exc = BitVec.ofNat 8 c ∧ (coreOf t g).pc = (coreOf s g).pc ∧
      (coreOf t g).g = (coreOf s g).g ∧ (coreOf t g).v = (coreOf s g).v ∧ (coreOf t g).p = (coreOf s g).p ∧
      (ctxOf t hd.part hd.ctx).cause.map (·.fcause) = some c ∧
      (ctxOf t hd.part hd.ctx).cause.map (·.fpc) = some ((coreOf s g).pc % 32768) ∧
      t.stores = s.stores ∧ t.clusters = s.clusters ∧ t.out = s.out) ∧
  ((∀ (s : State) (g : Nat) (hd : Holder), g < 10240 → holderOf s g = some hd → watchdogCounts s g = true →
    ∃ t, exec (.watchdog g) s = .next t ∧ cstate t hd.part hd.ctx = Cs.teardown ∧
      (ctxOf t hd.part hd.ctx).cause.map (·.fcause) = some Exc.watchdog ∧ t.stores = s.stores ∧ t.clusters = s.clusters) ∧
  (∀ (s : State) (g : Nat) (hd : Holder), g < 10240 → holderOf s g = some hd → (coreOf s g).preReq = true →
    safeNow s g = false → cstate s hd.part hd.ctx = Cs.preempting →
    ∃ t, exec (.spLate g) s = .next t ∧ cstate t hd.part hd.ctx = Cs.teardown ∧
      (ctxOf t hd.part hd.ctx).cause.map (·.fcause) = some Exc.spLate ∧ t.stores = s.stores ∧ t.clusters = s.clusters))

/-! ### Matrix arrays and path units -/

/-- The life of M operations before their completion (R56, R57, R60, R67, R107). MMA_DESCRIPTOR_READ: the oldest one's
descriptor is copied from the core store. MMA_START: the first one that has not started is checked on its copy (R57); one
that fails a check starts as failed; one that passes takes its configuration and enters the arrays, but waits while its
configuration differs and operations before it have not drained (R67). MMA_SEGMENT_END: a segment of the oldest one ends.
Nothing else of the core and of the device changes but the free values used.
MMA_COMPLETE, in issue order (R58): the oldest operation leaves; one that failed a check of R57 and met no hazard writes
a completion word with status POISON and the POISON bit, and changes no byte but that word's. -/
def Obligations.MatrixOperationsProceedAndFail : Prop :=
  (∀ (s : State) (g : Nat) (m : MOp) (rest : List MOp) (d : List Byte), g < 10240 →
    ((coreOf s g).mops = m :: rest → m.multiplies = true → m.desc = none →
      exec (.mmaDescriptorRead g) s = .next (onCore s g fun k =>
        { k with mops := { m with desc := some (mread s.stores (g * 0x40000 + m.offS) 64) } :: rest })) ∧
    (∀ before : List MOp, (coreOf s g).mops = before ++ m :: rest → (∀ q ∈ before, q.started = true) →
      m.started = false → m.multiplies = true → m.desc = some d →
      (m.checks d = false → exec (.mmaStart g) s = .next (onCore s g fun k =>
        { k with mops := before ++ { m with started := true, failed := true } :: rest })) ∧
      (m.checks d = true → (∀ q ∈ before, q.op ≠ 5 ∧ (m.config ≠ (coreOf s g).cfg → q.multiplies = false ∨ q.failed = true)) →
        exec (.mmaStart g) s = .next (onCore (spend s (2 * m.m * m.n * m.k)) g fun k =>
          { k with mops := before ++ m.enter s g d :: rest, cfg := m.config, seeded := k.seeded &&& ~~~ m.arrays })) ∧
      (m.checks d = true → m.config ≠ (coreOf s g).cfg → (∃ q ∈ before, q.multiplies = true ∧ q.failed = false ∧ q.hold = none) →
        exec (.mmaStart g) s = .next s)) ∧
    ((coreOf s g).mops = m :: rest → m.multiplies = true → m.desc = some d → m.started = true → m.failed = false →
      m.accInt = false → 65536 < m.k → m.segs + 1 < m.passes * m.segments →
      exec (.mmaSegmentEnd g) s = .next (onCore s g fun k => { k with mops := m.segmentStep s g d :: rest }))) ∧
  (∀ (s : State) (g : Nat) (m : MOp) (rest : List MOp) (d : List Byte), g < 10240 →
    (coreOf s g).mops = m :: rest → m.started = true → m.hold = none → m.failed = true → m.desc = some d →
    (m.op = 1 ∨ m.op = 2) →
    ∃ t, exec (.mmaComplete g) s = .next t ∧ (coreOf t g).mops = rest ∧
      (m.hazard = false → mle t.stores (g * 0x40000 + m.offS + 0x30) 4 = 0x04000002 ∧
        ∀ a, a < g * 0x40000 + m.offS + 0x30 ∨ g * 0x40000 + m.offS + 0x34 ≤ a → mget t.stores a = mget s.stores a) ∧
      sameRegisters (coreOf s g) (coreOf t g) ∧ (coreOf t g).pc = (coreOf s g).pc ∧
      (∀ q, q ≠ g → coreOf t q = coreOf s q) ∧ sameOutside s t)

/-- MMA_COMPLETE: an operation that passed its checks drains (R58, R94): without an audit it leaves, and where it met no
hazard its completion word has status OK, or POISON where an operand byte has the P tag; with an audit it leaves or is held
for the vote (R337). Later operations of the core stay in order, and no register of the core changes.
AUDIT_COPY: the copy of a failed audit ends (R337): the vote takes the next 32-bit identifier, the held completion word
is written (unless the operation met a hazard) and the operation leaves.
Capture (R111, R112, Table 5-4), without a hazard: a completed `mrd` of array `offA` mod 4 puts the array's 64 records
of 16 bytes into the core store at `gc`, and a completed `mwr` loads `HI`, `LO` and `ITOT` of the array's seeds from there. -/
def Obligations.MatrixOperationsDrainAndVote : Prop :=
  (∀ (s : State) (g : Nat) (m : MOp) (rest : List MOp) (d : List Byte), g < 10240 →
    (coreOf s g).mops = m :: rest → m.started = true → m.hold = none → m.failed = false → m.desc = some d →
    (m.op = 1 ∨ m.op = 2) → m.segmentsLeft = false →
    (m.audit = false → ∃ t, exec (.mmaComplete g) s = .next t ∧ (coreOf t g).mops = rest ∧
      (m.hazard = false → mle t.stores (g * 0x40000 + m.offS + 0x30) 4 / 2 ^ 24 = (if m.poisoned s g d then 4 else 0)) ∧
      sameRegisters (coreOf s g) (coreOf t g) ∧ (coreOf t g).pc = (coreOf s g).pc ∧
      (∀ q, q ≠ g → coreOf t q = coreOf s q) ∧ t.clusters = s.clusters ∧ sameOutside s t) ∧
    (m.audit = true → ∃ t, exec (.mmaComplete g) s = .next t ∧
      ((coreOf t g).mops = rest ∨ ∃ m', (coreOf t g).mops = m' :: rest ∧ m'.hold ≠ none) ∧
      sameRegisters (coreOf s g) (coreOf t g) ∧ (coreOf t g).pc = (coreOf s g).pc ∧ t.clusters = s.clusters)) ∧
  (∀ (s : State) (g : Nat) (m : MOp) (rest : List MOp) (d : List Byte) (h : AuditHold), g < 10240 →
    (coreOf s g).mops = m :: rest → m.hold = some h → m.desc = some d →
    ∃ t v, exec (.auditCopy g) s = .next t ∧ t.rel.votes = s.rel.votes ++ [v] ∧ v.vid = s.rel.nextVid ∧ v.core = g ∧
      t.rel.nextVid = s.rel.nextVid + 1 ∧ (coreOf t g).mops = rest ∧
      (m.hazard = false → mle t.stores (g * 0x40000 + m.offS + 0x30) 4 = h.cword.toNat) ∧
      sameRegisters (coreOf s g) (coreOf t g) ∧ t.parts = s.parts ∧ t.out = s.out) ∧
  (∀ (s : State) (g : Nat) (m : MOp) (rest : List MOp) (i : Nat), g < 10240 → (coreOf s g).mops = m :: rest →
    m.started = true → m.hold = none → m.hazard = false → i < 64 →
    let at_ := g * 0x40000 + m.offC + 16 * i
    let cell := m.offA % 4 * 64 + i
    (m.op = 4 → ∃ t, exec (.mmaComplete g) s = .next t ∧ (coreOf t g).mops = rest ∧
      let c := sget CaptureCell.zero (coreOf s g).caps cell
      mle t.stores at_ 4 = c.hi.toNat ∧ mle t.stores (at_ + 4) 4 = c.lo.toNat ∧ mle t.stores (at_ + 8) 4 = c.itot.toNat ∧
      mle t.stores (at_ + 12) 4 = c.cflg.toNat ∧ t.clusters = s.clusters ∧ sameOutside s t) ∧
    (m.op = 5 → ∃ t, exec (.mmaComplete g) s = .next t ∧ (coreOf t g).mops = rest ∧
      let c := sget CaptureCell.zero (coreOf t g).seeds cell
      c.hi.toNat = mle s.stores at_ 4 ∧ c.lo.toNat = mle s.stores (at_ + 4) 4 ∧ c.itot.toNat = mle s.stores (at_ + 8) 4 ∧
      t.stores = s.stores ∧ t.clusters = s.clusters ∧ sameOutside s t))

/-- DMA_START: a path unit starts a DMA with entry 0 that passes every check (R86, R88): the entry of zeros is copied and
the DMA is ready for its first unit; nothing else changes. A DMA that fails a check finishes with NOT_RUN.
DMA_COMPLETE (R36): it leaves the core's list; without a semaphore, OK lets every core register stand and the context
run on, another status is the asynchronous fault DMA_FAULT with that status. -/
def Obligations.DmasStartAndComplete : Prop :=
  (∀ (s : State) (g i : Nat) (d : Dma) (hd : Holder), g < 10240 → dmaAt s g i = some d → holderOf s g = some hd →
    d.entry = none → d.finished = false → d.aborted = false → dmaRuns s hd = true → pathDown s g = false → d.xf = 0 →
    let d1 := { d with entry := some (zeros 32), active := 0 }
    (dmaRejects s hd.part hd.ctx g d1 = false → windowRejects d1 = false → hostCut s hd.part d1 = false →
      0 < totalUnits d1 → exec (.dmaStart g i) s = .next (onDma s g d.id fun _ => d1)) ∧
    (dmaRejects s hd.part hd.ctx g d1 = true → ∃ t, exec (.dmaStart g i) s = .next t ∧
      (∀ q ∈ (coreOf t g).dmas, q.id = d.id → q.finished = true ∧ q.status = d.status ++ [Status.notRun]) ∧
      sameRegisters (coreOf s g) (coreOf t g) ∧ t.stores = s.stores ∧ t.clusters = s.clusters ∧ sameOutside s t)) ∧
  (∀ (s : State) (g i : Nat) (d : Dma) (hd : Holder), g < 10240 → dmaAt s g i = some d → holderOf s g = some hd →
    d.finished = true → d.aborted = false → d.waiting = 0 → d.semen = false → cstate s hd.part hd.ctx = Cs.running →
    (worst d.status = Status.ok → ∃ t, exec (.dmaComplete g i) s = .next t ∧
      (coreOf t g).dmas = (coreOf s g).dmas.filter (fun e => e.id != d.id) ∧
      sameRegisters (coreOf s g) (coreOf t g) ∧ t.stores = s.stores ∧ t.clusters = s.clusters ∧ sameOutside s t) ∧
    (worst d.status ≠ Status.ok → ∃ t, exec (.dmaComplete g i) s = .next t ∧
      cstate t hd.part hd.ctx = Cs.teardown ∧ (ctxOf t hd.part hd.ctx).cause.map (·.fcause) = some Exc.dmaFault ∧
      (ctxOf t hd.part hd.ctx).cause.map (·.fstat) = some (worst d.status) ∧ t.stores = s.stores ∧ t.clusters = s.clusters))

/-- DMA_TILE_TRANSFER: a copy through entry 0 from one core store of the partition to another or the same one (R87, R148):
after its one unit the destination holds the source's bytes as they stood, no byte outside it changes, and the DMA has
finished. -/
def Obligations.StoreCopyMovesBytes : Prop :=
  ∀ (s : State) (g i : Nat) (d : Dma) (hd : Holder), g < 10240 → dmaAt s g i = some d → holderOf s g = some hd →
    d.entry = some (zeros 32) → d.finished = false → d.aborted = false → dmaRuns s hd = true → pathDown s g = false →
    d.xf = 0 → d.unit = 0 → spaceOf d.src = .pv → spaceOf d.dst = .pv → 0 < d.len → d.len ≤ 4096 →
    addrOff d.src / 0x40000 = (addrOff d.src + d.len - 1) / 0x40000 → addrOff d.src < 0xA0000000 → addrOff d.dst / 4096 = (addrOff d.dst + d.len - 1) / 4096 →
    addrOff d.dst < 0xA0000000 →
    (∀ k, k < d.len → mayByte s hd.part hd.ctx (addrOff d.src + k) = true) →
    mayWrite s hd.part hd.ctx (addrOff d.dst) = true → (coreOf s (addrOff d.dst / 0x40000)).mops = [] →
    ∃ t, exec (.dmaTileTransfer g i []) s = .next t ∧
      mread t.stores (addrOff d.dst) d.len = mread s.stores (addrOff d.src) d.len ∧
      (∀ a, a < addrOff d.dst ∨ addrOff d.dst + d.len ≤ a → mget t.stores a = mget s.stores a) ∧
      (dmaAt t g i).map (·.finished) = some true ∧
      sameRegisters (coreOf s g) (coreOf t g) ∧ t.clusters = s.clusters ∧ sameOutside s t

/-! ### Memory tiers and the Wardrobe -/

/-- HBM_SCRUB: outcomes of an HBM read (Table 7-4, R139): a correction on the die is no event; one by the controller is
charged as class 0x03 to the die, which is of the stack of the tile's channel, and counted in ERR; an uncorrectable one is
charged as class 0x04, leaves its tile with POISON and makes a clean bolt dirty. No payload byte of the partition changes
but those of an uncorrectable payload block. -/
def Obligations.HbmErrorsAreCharged : Prop :=
  ∀ (s : State) (p tile b d : Nat), p < 16 → b < 64 → d < 144 → (partOf s p).ptstate ≠ 0 →
    tile / 16 < (partOf s p).vbolts → ((partOf s p).bolt (tile / 16)).framed = true →
    let die := (tileChannel (partOf s p) tile).2 * 12 + d % 12
    let cnt := fun (u : State) cls => (sget .zero u.rel.counts (unitKey cls 5 die)).cnt.toNat
    exec (.hbmScrub p tile b d .correctedOnDie) s = .next s ∧
    (∃ t, exec (.hbmScrub p tile b d .correctedByController) s = .next t ∧ cnt t 3 = satTo 32 (cnt s 3 + 1) ∧
      reg t p R.errEvents 0 0 = 1 ∧ (partOf t p).mem = (partOf s p).mem ∧
      tileCollar (partOf t p) tile = tileCollar (partOf s p) tile ∧ t.stores = s.stores ∧ t.cores = s.cores) ∧
    (∀ o, o = .uncorrectablePayload ∨ o = .uncorrectableCollar → ∃ t, exec (.hbmScrub p tile b d o) s = .next t ∧
      cnt t 4 = satTo 32 (cnt s 4 + 1) ∧ (tileCollar (partOf t p) tile).poison = true ∧
      ((partOf t p).bolt (tile / 16)).st ≠ .hbmClean ∧
      (∀ a, o = .uncorrectableCollar ∨ a < 4096 * tile + 64 * b ∨ 4096 * tile + 64 * b + 64 ≤ a →
        mget (partOf t p).mem a = mget (partOf s p).mem a) ∧
      t.stores = s.stores ∧ t.cores = s.cores)

/-- EVICTION (R152, Table 7-8) and FLASH_COPY_COMPLETE (R151): below `FREE_LOW` and with nothing left for the Pocket to
drop, a clean bolt of the first class gives up its frame at once, a dirty one within quota goes OUT; when its copy is in
flash it is FLASH and its 64 KiB are counted as written. No other bolt's state and no byte of the partition changes.
FLASH_FETCH_COMPLETE: a bolt arrives from flash without a failing page and with no access waiting (R153): it is
HBM_CLEAN, or HBM_DIRTY where the device wrote to it meanwhile, with the bytes that it held, and a page that took more than
two retries is counted. WEAR_SAVE keeps what they are (R415). -/
def Obligations.BoltsMoveBetweenTiers : Prop :=
  ((∀ (s : State) (p b : Nat), p < 16 → (partOf s p).ptstate ≠ 0 → evictable ((partOf s p).bolt b) = true →
    ((partOf s p).bolts.all fun e => !evictable e.2 || decide (evictClass ((partOf s p).bolt b) ≤ evictClass e.2)) = true →
    freeFrames (partOf s p) < freeLow (partOf s p) → (partOf s p).pocket.kept = [] →
    let moved := fun st => ∃ x, exec (.eviction p b) s = .next (putPart s p x) ∧ (x.bolt b).st = st ∧
      (∀ c, c ≠ b → x.bolt c = (partOf s p).bolt c) ∧ x.mem = (partOf s p).mem ∧ x.collars = (partOf s p).collars
    (((partOf s p).bolt b).st = .hbmClean → moved .flash) ∧
    (((partOf s p).bolt b).st = .hbmDirty → blocksUsed (partOf s p) < (partOf s p).qbolts → 2 ≤ s.wardrobe.wear.spare →
      moved .out)) ∧
  (∀ (s : State) (p b : Nat), p < 16 → ((partOf s p).bolt b).st = .out →
    ∃ t, exec (.flashCopyComplete p b) s = .next t ∧ ((partOf t p).bolt b).st = .flash ∧
      t.wardrobe.wear.gbw = s.wardrobe.wear.gbw + 65536 ∧ (partOf t p).mem = (partOf s p).mem ∧
      (partOf t p).collars = (partOf s p).collars ∧ t.stores = s.stores ∧ t.cores = s.cores ∧ t.sec = s.sec)) ∧
  ((∀ (s : State) (p b retries us : Nat), p < 16 → ((partOf s p).bolt b).st = .in_ → ((partOf s p).bolt b).stalled = [] →
    ∃ t, exec (.flashFetchComplete p b 0 retries us) s = .next t ∧
      ((partOf t p).bolt b).st = (if ((partOf s p).bolt b).wrote then .hbmDirty else .hbmClean) ∧
      t.wardrobe.wear.retry = s.wardrobe.wear.retry + (if 2 < retries then 1 else 0) ∧
      t.wardrobe.wear.uncor = s.wardrobe.wear.uncor ∧ (partOf t p).mem = (partOf s p).mem ∧
      (partOf t p).collars = (partOf s p).collars ∧ t.stores = s.stores ∧ t.cores = s.cores) ∧
  (∀ s : State, exec .wearSave s = .next { s with wardrobe := { s.wardrobe with saved := s.wardrobe.wear } }))

/-- UNKEEP_HINT and SPARE_HINT: their records (R156) act on every bolt of the record: the KEEP pin goes, or the SPARE mark
is set; all of them count in DONE; no other bolt and no byte changes.
WANT_HINT, KEEP_HINT, EVICT_HINT and DROP_HINT: records of one bolt (R156, Table 7-8): WANT starts the fetch of a FLASH
bolt when a frame is free, KEEP pins a resident bolt below the pin limit, EVICT frees the frame of a clean bolt, and a
dropped bolt reads as zero while every other byte stays.
HINT_RECORD_COMPLETE: a hint record that was acted on and whose moves have settled completes (R156): the queue's head
advances by one and no record is being acted on. -/
def Obligations.HintRecordsActAndComplete : Prop :=
  (∀ (s : State) (p : Nat) (r : HintRec), p < 16 →
    (hintTurn s p 2 = some r → ∃ x, exec (.unkeepHint p) s = .next (putPart s p x) ∧
      x.hint = some { done := r.nbolt, status := Status.ok } ∧ (∀ b ∈ r.bolts, (x.bolt b).keep = false) ∧
      (∀ b, b ∉ r.bolts → x.bolt b = (partOf s p).bolt b) ∧ x.mem = (partOf s p).mem ∧ x.bar0 = (partOf s p).bar0) ∧
    (hintTurn s p 3 = some r → ∃ x, exec (.spareHint p) s = .next (putPart s p x) ∧
      x.hint = some { done := r.nbolt, status := Status.ok } ∧ (∀ b ∈ r.bolts, (x.bolt b).spare = true) ∧
      (∀ b, b ∉ r.bolts → x.bolt b = (partOf s p).bolt b) ∧ x.mem = (partOf s p).mem ∧ x.bar0 = (partOf s p).bar0)) ∧
  (∀ (s : State) (p b : Nat) (r : HintRec), p < 16 → r.bolts = [b] →
    (hintTurn s p 0 = some r → ((partOf s p).bolt b).st = .flash → framesUsed (partOf s p) < usableBolts (partOf s p) →
      ∃ x, exec (.wantHint p) s = .next (spend (putPart s p x) 1) ∧ (x.bolt b).st = .in_ ∧ x.mem = (partOf s p).mem ∧
        x.hint = some { done := 1, status := Status.ok } ∧ ∀ c, c ≠ b → x.bolt c = (partOf s p).bolt c) ∧
    (hintTurn s p 1 = some r → ((partOf s p).bolt b).st = .hbmDirty → ((partOf s p).bolt b).pinned = false →
      pinnedCount (partOf s p) < usableBolts (partOf s p) - freeLow (partOf s p) →
      ∃ x, exec (.keepHint p) s = .next (putPart s p x) ∧ (x.bolt b).keep = true ∧ (x.bolt b).st = .hbmDirty ∧
        x.mem = (partOf s p).mem ∧ x.hint = some { done := 1, status := Status.ok } ∧
        ∀ c, c ≠ b → x.bolt c = (partOf s p).bolt c) ∧
    (hintTurn s p 4 = some r → ((partOf s p).bolt b).st = .hbmClean → ((partOf s p).bolt b).pinned = false →
      ∃ x, exec (.evictHint p) s = .next (putPart s p x) ∧ (x.bolt b).st = .flash ∧ x.mem = (partOf s p).mem ∧
        x.hint = some { done := 1, status := Status.ok } ∧ ∀ c, c ≠ b → x.bolt c = (partOf s p).bolt c) ∧
    (hintTurn s p 5 = some r → ((partOf s p).bolt b).pinned = false → ((partOf s p).bolt b).stalled = [] →
      ∃ x, exec (.dropHint p) s = .next (putPart s p x) ∧ (x.bolt b).st = .zero ∧
        (∀ a, b * 65536 ≤ a → a < (b + 1) * 65536 → mget x.mem a = 0) ∧
        (∀ a, a < b * 65536 ∨ (b + 1) * 65536 ≤ a → mget x.mem a = mget (partOf s p).mem a) ∧
        x.hint = some { done := 1, status := Status.ok } ∧ ∀ c, c ≠ b → x.bolt c = (partOf s p).bolt c)) ∧
  (∀ (s : State) (p a : Nat) (r : HintRec) (h : HintRun), p < 16 → hintAddr (partOf s p) = some a →
    hintRec s p = some r → (partOf s p).ptstate = 1 → r.ok (partOf s p) = true → (partOf s p).hint = some h →
    hintSettled (partOf s p) r = true →
    ∃ t, exec (.hintRecordComplete p) s = .next t ∧ (partOf t p).hint = none ∧
      reg t p R.migHqHead 31 0 = (reg s p R.migHqHead 31 0 + 1) % 2 ^ 32 ∧
      sameCores s t ∧ t.clusters = s.clusters)

/-! ### Nyzan links -/

/-- FLIT_TRANSMIT on a port that is UP (R164, R167-R169): a NAK or credits that are due leave in a link-control flit; else,
with nothing to resend, the next flit of the channel whose turn it is, numbered with the next SEQ, acknowledging what was
received, and kept for replay; with nothing to send, IDLE. Its 256 bytes and 14 of parity are striped over the active lanes.
The other ports stay but the one in whose receive buffer the flit stood.
FLIT_RECEIVE on a port that is UP (R164, R169, R191): a good BODY flit in order for which a receive buffer is free
advances the expected SEQ and releases what it acknowledges; it joins its message where that ends here, and goes on at once
to the queue of the port that its message takes where that passes through. A codeword that cannot be corrected, whose
correction would take more than 7 bytes, or whose FCRC fails is discarded, and a NAK is due at the first discard. -/
def Obligations.PortsCarryFlits : Prop :=
  (∀ (s : State) (c : Nat), c < 18 → portUp s c = true →
    let q := portOf s c
    (q.nakOut = true ∨ q.lctl = true → ∃ t, exec (.flitTransmit c) s = .next t ∧ (portOf t c).nakOut = false ∧
      (portOf t c).lctl = false ∧ (portOf t c).replay = q.replay ∧ t.out.getLast? = some (.flit c (codeword q (lctlFlit q))) ∧
      t.stores = s.stores ∧ t.cores = s.cores) ∧
    (∀ v wv wl f rest, q.nakOut = false → q.lctl = false → q.resend = [] → nextVc s c = some (v, wv, wl) →
      queueOf q v = f :: rest →
      let f' : Flit := { f with seq := q.txNext, ack := ackOf q, home := none }
      ∃ t, exec (.flitTransmit c) s = .next t ∧ t.out = s.out ++ [.flit c (codeword q f')] ∧
        (portOf t c).replay = q.replay ++ [f'] ∧ (portOf t c).txNext = (q.txNext + 1) % 4096 ∧ queueOf (portOf t c) v = rest ∧
        (∀ e, e ≠ c → (∀ h, f.home = some h → h.port ≠ e) → portOf t e = portOf s e) ∧
        t.parts = s.parts ∧ t.stores = s.stores ∧ t.cores = s.cores) ∧
    (q.nakOut = false → q.lctl = false → q.resend = [] → nextVc s c = none → ∃ t, exec (.flitTransmit c) s = .next t ∧
      t.out = s.out ++ [.flit c (codeword q (idleFlit q))] ∧ (portOf t c).replay = q.replay ∧ (portOf t c).txNext = q.txNext ∧
      (∀ e, e ≠ c → portOf t e = portOf s e) ∧ t.parts = s.parts ∧ t.stores = s.stores ∧ t.cores = s.cores)) ∧
  (∀ (s : State) (c : Nat) (w : RxCodeword), c < 18 → portUp s c = true →
    let q := portOf s c
    (∀ bs h, w.bytes = some bs → w.corr0 + w.corr1 + w.corr2 + w.corr3 ≤ 7 → flitCrc (slice bs 0 252) = leAt bs 252 4 →
      (parseFlit bs).ftype = 2 → (parseFlit bs).seq = q.rxNext → homeFor q c (parseFlit bs) = some h →
      let f := parseFlit bs
      let r := sget RxMsg.idle q.rx f.vc
      ∃ t, exec (.flitReceive c w) s = .next t ∧ (portOf t c).rxNext = (q.rxNext + 1) % 4096 ∧
        (portOf t c).replay = afterAck q.replay f.ack ∧ (portOf t c).ackOut = true ∧
        (r.way = .gather → (sget RxMsg.idle (portOf t c).rx f.vc).bytes = r.bytes ++ f.payload) ∧
        (∀ d m a, r.way = .out d m a → ∃ x ∈ sget [] (portOf t d).txq f.vc, x.mid = m ∧ x.payload = f.payload) ∧
        t.stores = s.stores ∧ t.cores = s.cores) ∧
    (w.bytes = none ∨ 7 < w.corr0 + w.corr1 + w.corr2 + w.corr3 ∨
        (∃ bs, w.bytes = some bs ∧ flitCrc (slice bs 0 252) ≠ leAt bs 252 4) →
      ∃ t, exec (.flitReceive c w) s = .next t ∧ (portOf t c).rxNext = q.rxNext ∧ (portOf t c).rx = q.rx ∧
        (portOf t c).replay = q.replay ∧ (portOf t c).discard = true ∧ (q.discard = false → (portOf t c).nakOut = true) ∧
        t.stores = s.stores ∧ t.cores = s.cores))

/-- Retrains (R170, R173): a commanded one (RETRAIN), and one that an unacknowledged flit starts (REPLAY_TIMEOUT), take an
unfenced port to RETRAIN with its replay buffer kept, counted in its RETRAINS field; one that ends (RETRAIN_COMPLETE) with
lanes runs discovery on them, and the third that ends without takes the port DOWN.
Power states of a port (R425): with both ends idle and the partitions' latency tolerance at 10 µs or more it narrows
(PORT_NARROW) to one of its lanes and the others stay trained; at 2,000 µs or more, with no job key and no route by it, it
sleeps (PORT_SLEEP); demand (PORT_WAKE) brings it back to UP on all its lanes. -/
def Obligations.PortsRetrainNarrowAndSleep : Prop :=
  (∀ (s : State) (c : Nat), c < 18 →
    ((portOf s c).pstate ≠ 9 → ∃ t, exec (.retrain c) s = .next t ∧ (portOf t c).pstate = 6 ∧
      (portOf t c).replay = (portOf s c).replay ∧ (portOf t c).lanes = (portOf s c).lanes ∧
      mreg t (M.ptState c) 63 48 = min (mreg s (M.ptState c) 63 48 + 1) 65535 ∧ t.stores = s.stores ∧ t.cores = s.cores) ∧
    (portUp s c = true → (portOf s c).replay ≠ [] → ∃ t, exec (.replayTimeout c) s = .next t ∧ (portOf t c).pstate = 6 ∧
      (portOf t c).replay = (portOf s c).replay ∧ t.stores = s.stores ∧ t.cores = s.cores) ∧
    (∀ lanes, (portOf s c).pstate = 6 → lanes ≠ 0 → ∃ t, exec (.retrainComplete c lanes) s = .next t ∧
      (portOf t c).pstate = 7 ∧ (portOf t c).lanes = lanes ∧ (portOf t c).verified = false ∧ t.parts = s.parts ∧
      (∀ q, q ≠ c → portOf t q = portOf s q)) ∧
    ((portOf s c).pstate = 6 → (portOf s c).fails = 2 → ∃ t, exec (.retrainComplete c 0) s = .next t ∧
      (portOf t c).pstate = 0 ∧ t.parts = s.parts ∧ ∀ q, q ≠ c → portOf t q = portOf s q)) ∧
  (∀ (s : State) (c : Nat), c < 18 →
    (portUp s c = true → (portOf s c).narrow = 0 → 10 ≤ portLimit s → (portOf s c).replay = [] → (portOf s c).txq = [] →
      ∃ t, exec (.portNarrow c true) s = .next t ∧ (portOf t c).pstate = 1 ∧ (portOf t c).narrow = (portOf s c).lanes ∧
        t.parts = s.parts ∧ ∀ q, q ≠ c → portOf t q = portOf s q) ∧
    (portUp s c = true → 2000 ≤ portLimit s → anyJobKey s = false → routeNames s c = false →
      (portOf s c).replay = [] → (portOf s c).txq = [] →
      ∃ t, exec (.portSleep c true) s = .next t ∧ (portOf t c).pstate = 8 ∧ t.parts = s.parts ∧
        ∀ q, q ≠ c → portOf t q = portOf s q) ∧
    ((portOf s c).pstate = 8 → (portOf s c).narrow = 0 →
      ∃ t, exec (.portWake c) s = .next t ∧ (portOf t c).pstate = laneCount (portOf s c).lanes ∧
        (portOf t c).lanes = (portOf s c).lanes ∧ t.parts = s.parts ∧ ∀ q, q ≠ c → portOf t q = portOf s q))

/-- HEM (R171): a port that loses some of its lanes is HEMMING; when it ends (HEM_COMPLETE) the kept lanes carry the link
and the sender replays from the first unacknowledged flit.
A HOLD extends by 64 µs the deadline of each outstanding request that has not been extended before, and only
those (R172). -/
def Obligations.PortsHemAndHold : Prop :=
  (∀ (s : State) (c : Nat), c < 18 →
    (∀ lost, portUp s c = true → (portOf s c).narrow = 0 → lost &&& (portOf s c).lanes ≠ 0 →
      lost &&& (portOf s c).lanes ≠ (portOf s c).lanes → heldDevices (portOf s c) = [] →
      ∃ t, exec (.hem c lost) s = .next t ∧ (portOf t c).pstate = 5 ∧ (portOf t c).replay = (portOf s c).replay ∧
        (portOf t c).lanes = (portOf s c).lanes ∧ t.parts = s.parts ∧ t.out = s.out ∧ ∀ q, q ≠ c → portOf t q = portOf s q) ∧
    (∀ kept, (portOf s c).pstate = 5 → kept &&& (portOf s c).lanes ≠ 0 →
      ∃ t, exec (.hemComplete c kept) s = .next t ∧ (portOf t c).pstate = laneCount (kept &&& (portOf s c).lanes) ∧
        (portOf t c).lanes = kept &&& (portOf s c).lanes ∧ (portOf t c).resend = (portOf s c).replay ∧
        (portOf t c).replay = (portOf s c).replay ∧ ∀ q, q ≠ c → portOf t q = portOf s q)) ∧
  (∀ (s : State) (m : Msg), msgOk m = true → m.mtype = 9 → m.dst = ownId s →
    ∃ t, exec (.hold m) s = .next t ∧
      t.fabric.reqs = s.fabric.reqs.map (fun r =>
        if r.extended = false ∧ r.timedOut = false then { r with deadline := r.deadline + 64, extended := true } else r) ∧
      t.fabric.ports = s.fabric.ports ∧ t.parts = s.parts ∧ t.stores = s.stores ∧ t.cores = s.cores ∧ t.out = s.out)

/-- Gateways (R194, R195). TUNNEL_ACK: an acknowledgement from a known gateway releases what it names. TUNNEL_RESEND: the
datagrams from the first unacknowledged one on leave again as frames, at most 256. TUNNEL_DATA: a datagram in order with one
good flit inside a message that ends here is taken, its payload joins that message, and an acknowledgement leaves. -/
def Obligations.GatewaysRetry : Prop :=
  (∀ (s : State) (d : Datagram), tunnelOk s d = true → d.tkind = 1 →
    ∃ t, exec (.tunnelAck d) s = .next t ∧
      (gatewayOf t d.sgw).unack = tunnelAcked (gatewayOf s d.sgw).unack d.tack ∧
      (gatewayOf t d.sgw).tseq = (gatewayOf s d.sgw).tseq ∧ t.parts = s.parts ∧ t.stores = s.stores) ∧
  (∀ (s : State) (g : DevId), (∀ e ∈ (gatewayOf s g).unack.take 256, svcSends s e.sp e.vc = true) →
    ∃ t, exec (.tunnelResend g) s = .next t ∧
      t.out = s.out ++ ((gatewayOf s g).unack.take 256).map (fun e => .frame e.sp (tunnelFrame s g 0 e)) ∧
      t.fabric = s.fabric ∧ t.parts = s.parts) ∧
  (∀ (s : State) (d : Datagram) (w : List Byte), tunnelOk s d = true → d.tkind = 0 → d.flits = [w] →
    flitCrc (slice w 0 252) = leAt w 252 4 → d.tseq = (gatewayOf s d.sgw).tack + 1 → (parseFlit w).ftype = 2 →
    let r := fun u => sget RxMsg.idle (gatewayOf u d.sgw).rx (parseFlit w).vc
    (r s).way = .gather →
    ∃ t, exec (.tunnelData d) s = .next t ∧ (gatewayOf t d.sgw).tack = d.tseq ∧
      (r t).bytes = (r s).bytes ++ (parseFlit w).payload ∧
      (svcSends s d.sp Config.tunnelAckPrio.toNat = true → ∃ b, t.out.getLast? = some (.frame d.sp b)) ∧
      t.parts = s.parts ∧ t.stores = s.stores)

/-! ### Remote access, service ports and discovery -/

/-- Requests that reach their target inside the module in the clear and pass every check of Table 8-14 are performed
with status OK (R181, R184, R187). RD_REQ answers with the bytes of the grant's partition and changes none; a plain WR_REQ
changes exactly its bytes and is acknowledged; an AMO_REQ that adds on an aligned 8-byte word of a sound resident tile
answers with the old value and leaves the sum.
A request that meets a violation at the target raises no fault (R187): a read answers OK with zeros, a write OK,
and the partition's count of violations rises. -/
def Obligations.TargetsPerformRequests : Prop :=
  (∀ (s : State) (m : Msg) (p off : Nat), msgOk m = true → m.enc = false → m.dst = ownId s → m.src = ownId s →
    (m.mtype = 1 → verdict s m 32 m.len = .perform p off →
      ∃ t, exec (.rdReq none m) s = .next t ∧ t.out = s.out ++ [.local_ (responseTo s m 2 0
        (mread (partOf s p).mem off m.len) (collarBytes (tileCollar (partOf s p) (off / 4096))))] ∧
        (∀ q, (partOf t q).mem = (partOf s q).mem ∧ (partOf t q).collars = (partOf s q).collars ∧ (partOf t q).bar0 = (partOf s q).bar0) ∧
        t.stores = s.stores ∧ t.cores = s.cores ∧ t.clusters = s.clusters) ∧
    (m.mtype = 3 → m.col = false → baseVerdict s (verdict s m 33 m.len) = .perform p off → m.payload.length = m.len →
      0 < m.len → off % 4096 + m.len ≤ 4096 → (readyWrite s p (off / boltSize)).isSome = true →
      ∃ t, exec (.wrReq none m) s = .next t ∧ t.out.getLast? = some (.local_ (responseTo s m 4 0 [] [])) ∧
        mread (partOf t p).mem off m.len = m.payload ∧
        (∀ a, a < off ∨ off + m.len ≤ a → mget (partOf t p).mem a = mget (partOf s p).mem a) ∧
        (∀ q, q ≠ p → (partOf t q).mem = (partOf s q).mem) ∧ t.stores = s.stores ∧ t.cores = s.cores ∧ t.clusters = s.clusters) ∧
    (m.mtype = 5 → m.asz = true → m.aop = 0 → baseVerdict s (verdict s m 34 8) = .perform p off → off % 8 = 0 →
      panelFenced s p = false → (partOf s p).keyed = true → ((partOf s p).bolt (off / boltSize)).st = .hbmDirty →
      crcOk (tileBytes (partOf s p) (off / 4096)) (tileCollar (partOf s p) (off / 4096)) = true →
      collarClean (tileCollar (partOf s p) (off / 4096)) = true → (tileCollar (partOf s p) (off / 4096)).poison = false →
      ∃ t, exec (.amoReq none m) s = .next t ∧
        t.out = s.out ++ [.local_ (responseTo s m 6 0 (toLE 8 (mle (partOf s p).mem off 8)) [])] ∧
        mle (partOf t p).mem off 8 = (mle (partOf s p).mem off 8 + leAt m.payload 0 8) % 2 ^ 64 ∧
        (∀ a, a < off ∨ off + 8 ≤ a → mget (partOf t p).mem a = mget (partOf s p).mem a) ∧
        (∀ q, q ≠ p → partOf t q = partOf s q) ∧ t.stores = s.stores ∧ t.cores = s.cores)) ∧
  (∀ (s : State) (m : Msg) (p : Nat), msgOk m = true → m.enc = false → m.dst = ownId s → m.src = ownId s →
    (m.mtype = 1 → verdict s m 32 m.len = .violation (some p) → ∃ t, exec (.rdReq none m) s = .next t ∧
      t.out = s.out ++ [.local_ (responseTo s m 2 0 (zeros m.len) (collarBytes zeroCollar))] ∧
      (partOf t p).viol = BitVec.ofNat 32 (satTo 32 ((partOf s p).viol.toNat + 1)) ∧
      (partOf t p).mem = (partOf s p).mem ∧ t.stores = s.stores ∧ t.cores = s.cores) ∧
    (m.mtype = 3 → baseVerdict s (verdict s m 33 m.len) = .violation (some p) → ∃ t, exec (.wrReq none m) s = .next t ∧
      t.out = s.out ++ [.local_ (responseTo s m 4 0 [] [])] ∧
      (partOf t p).viol = BitVec.ofNat 32 (satTo 32 ((partOf s p).viol.toNat + 1)) ∧
      (partOf t p).mem = (partOf s p).mem ∧ t.stores = s.stores ∧ t.cores = s.cores))

/-- Responses end the outstanding request whose TAG, JOB, DST and ADDR they match (R182, Table 8-15): the request is
gone; data of an RD_RSP with status OK stands in the DMA's buffer; a WR_ACK and an AMO_RSP, as it, leave one less to wait for
and add a status other than OK. Here no message waits for the tag that becomes free (R189).
REQUEST_DEADLINE ends a write POISON, or FENCED where a fenced port discarded flits of it (log 139), and marks its
request TIMED_OUT; TAG_REUSE, 1 ms later, frees its tag, for which here no message waits (R188, R189). -/
def Obligations.RequestsEnd : Prop :=
  (∀ (s : State) (m : Msg) (r : Req) (g id : Nat), msgOk m = true → m.enc = false → m.dst = ownId s →
    findReq s m = some r → r.timedOut = false → nothingWaits s →
    let gone := s.fabric.reqs.filter fun x => !(x.die == r.die && x.tag == r.tag)
    let kept := fun t : State => t.clusters = s.clusters ∧ t.out = s.out
    (∀ a, m.mtype = 2 → m.status = 0 → r.kind = .dmaRead g id a → (∀ d ∈ (coreOf s g).dmas, d.aborted = false) →
      ∃ t, exec (.rdRsp none m) s = .next t ∧ t.fabric.reqs = gone ∧
        (coreOf t g).dmas = (coreOf s g).dmas.map (fun d => if d.id = id then
          { d with buf := mput d.buf a (slice m.payload 0 4096)
                   bufCol := sset zeroCollar d.bufCol (a / 4096) (collarOf m.collar), waiting := d.waiting - 1 } else d) ∧
        (∀ q, (partOf t q).mem = (partOf s q).mem) ∧ t.stores = s.stores ∧ kept t) ∧
    (m.mtype = 4 → r.kind = .dmaWrite g id → knownStatus m.status = m.status →
      ∃ t, exec (.wrAck none m) s = .next t ∧ t.fabric.reqs = gone ∧
        (coreOf t g).dmas = (coreOf s g).dmas.map (fun d => if d.id = id then d.reply m.status else d) ∧
        (∀ q, (partOf t q).mem = (partOf s q).mem) ∧ t.stores = s.stores ∧ kept t) ∧
    (∀ res, m.mtype = 6 → r.kind = .amo g id res → knownStatus m.status = m.status →
      ∃ t, exec (.amoRsp none m) s = .next t ∧ t.fabric.reqs = gone ∧
        (coreOf t g).dmas = (coreOf s g).dmas.map (fun d => if d.id = id then d.reply m.status else d) ∧
        t.clusters = s.clusters)) ∧
  (∀ (s : State) (die : Bool) (tag : BitVec 16) (r : Req), reqAt s die tag = some r →
    (∀ g id, r.timedOut = false → r.kind = .dmaWrite g id →
      ∃ t, exec (.requestDeadline die tag) s = .next t ∧
        (coreOf t g).dmas = (coreOf s g).dmas.map (fun d => if d.id = id then
          d.reply (if r.fenced then Status.fenced else Status.poison) else d) ∧
        (∀ x ∈ t.fabric.reqs, x.die = r.die → x.tag = r.tag → x.timedOut = true) ∧
        t.fabric.reqs.length = s.fabric.reqs.length ∧ t.parts = s.parts ∧ t.stores = s.stores) ∧
    (r.timedOut = true → nothingWaits s → ∃ t, exec (.tagReuse die tag) s = .next t ∧
      t.fabric.reqs = s.fabric.reqs.filter (fun x => !(x.die == r.die && x.tag == r.tag)) ∧
      t.cores = s.cores ∧ t.stores = s.stores ∧ t.clusters = s.clusters ∧ t.out = s.out))

/-- Service ports (R192, R193, R397): a link comes UP (SERVICE_PORT_LINK_UP) when no pattern is missing, goes DOWN
(SERVICE_PORT_LINK_DOWN), and a fenced port stays fenced; a frame (SERVICE_FRAME_RECEIVE) with a bad FCS is discarded and
counted, one for no partition too (log 133); one for no posted buffer is counted in RXDROP; one for a posted buffer that is
long enough, here in a store, stands in it, RXHEAD advances and vector 7 is raised.
SERVICE_FRAME_TRANSMIT (R193, R397), the descriptor's priority not being paused (R192): a good descriptor of a frame in a
store is sent, from the partition's address and VLAN, unless it is for the tunnel's port; one with a length outside 14 to 9,208
bytes completes NOT_RUN, and the error count rises. TXHEAD advances and vector 7 is raised. -/
def Obligations.ServicePortsMoveFrames : Prop :=
  (∀ (s : State) (n : Nat), n < 2 →
    (sst s n ≠ 3 → s.sec.pst = 0 → ∃ t, exec (.servicePortLinkUp n) s = .next t ∧ sst t n = 2 ∧ t.parts = s.parts) ∧
    (sst s n ≠ 3 → ∃ t, exec (.servicePortLinkDown n) s = .next t ∧ sst t n = 0 ∧ t.parts = s.parts) ∧
    (∀ f : SvcFrame, sst s n = 2 → f.fcsOk = false → ∃ t, exec (.serviceFrameReceive n f) s = .next t ∧
      mreg t (M.ptSvc n) 31 16 = min (mreg s (M.ptSvc n) 31 16 + 1) 65535 ∧ t.parts = s.parts ∧ t.stores = s.stores) ∧
    (∀ f : SvcFrame, sst s n = 2 → f.fcsOk = true → macControl f 0x0101 = false → macControl f 1 = false → f.bytes.length ≤ 9208 →
      (frameOwner s n f = none → ∃ t, exec (.serviceFrameReceive n f) s = .next t ∧
        sget 0 t.fabric.strays n = sget 0 s.fabric.strays n + 1 ∧ t.parts = s.parts ∧ t.stores = s.stores ∧ t.out = s.out) ∧
      (∀ p, frameOwner s n f = some p → reg s p (R.svRxp n) 63 32 = reg s p (R.svRxp n) 31 0 →
        ∃ t, exec (.serviceFrameReceive n f) s = .next t ∧
        reg t p (R.svCnt n) 63 32 = min (reg s p (R.svCnt n) 63 32 + 1) (2 ^ 32 - 1) ∧
        (partOf t p).mem = (partOf s p).mem ∧ t.stores = s.stores) ∧
      (∀ p, frameOwner s n f = some p → (partOf s p).ptstate = 1 → reg s p (R.svCtl n) 32 32 = 1 → reg s p (R.svCtl n) 28 16 ≠ 0 →
        reg s p (R.svRxp n) 63 32 ≠ reg s p (R.svRxp n) 31 0 →
        let a := rxAddr (partOf s p) n
        let d := svcDesc s p a
        let b := d.addr.toNat
        0 < f.bytes.length → f.bytes.length ≤ d.len → b < 0xA0000000 → b / 0x40000 = (b + f.bytes.length - 1) / 0x40000 →
        hasCluster (partOf s p) (b / 0x400000) = true → a + 12 ≤ b ∨ b + f.bytes.length ≤ a + 8 →
        ∃ t, exec (.serviceFrameReceive n f) s = .next t ∧ mread t.stores b f.bytes.length = f.bytes ∧
        (∀ c, c < b ∨ b + f.bytes.length ≤ c → c < a + 8 ∨ a + 12 ≤ c → mget t.stores c = mget s.stores c) ∧
        reg t p (R.svRxp n) 63 32 = (reg s p (R.svRxp n) 63 32 + 1) % 2 ^ 32 ∧ t.out.getLast? = some (.msix p 7) ∧
        sameCores s t ∧ t.clusters = s.clusters))) ∧
  (∀ (s : State) (p n : Nat), p < 16 → n < 2 → (partOf s p).ptstate = 1 → sst s n = 2 →
    reg s p (R.svCtl n) 32 32 = 1 → reg s p (R.svCtl n) 12 0 ≠ 0 →
    reg s p (R.svTxp n) 63 32 ≠ reg s p (R.svTxp n) 31 0 → txWaiting (partOf s p) n = false →
    let d := svcDesc s p (txAddr (partOf s p) n)
    let done := fun t : State => reg t p (R.svTxp n) 63 32 = (reg s p (R.svTxp n) 63 32 + 1) % 2 ^ 32 ∧
      t.out.getLast? = some (.msix p 7) ∧ sameCores s t ∧ t.clusters = s.clusters
    svcSends s n (nfld d.flg 3 1) = true →
    (d.len < 14 ∨ 9208 < d.len → ∃ t, exec (.serviceFrameTransmit p n) s = .next t ∧ done t ∧
      reg t p (R.svCnt n) 31 0 = min (reg s p (R.svCnt n) 31 0 + 1) (2 ^ 32 - 1)) ∧
    (14 ≤ d.len → d.len ≤ 9208 → d.flg < 16 → d.resv = 0 →
      let b := d.addr.toNat
      b < 0xA0000000 → b / 0x40000 = (b + d.len - 1) / 0x40000 → hasCluster (partOf s p) (b / 0x400000) = true →
      bit (tagsOver s b d.len) 0 = false → toTunnel s (mread s.stores b d.len) = false →
      ∃ t l, exec (.serviceFrameTransmit p n) s = .next t ∧ done t ∧
      t.out = s.out ++ .frame n (wireFrame (partOf s p) n d.flg (mread s.stores b d.len)) :: l ∧
      reg t p (R.svCnt n) 31 0 = reg s p (R.svCnt n) 31 0))

/-- Discovery and the route tables (R198-R203). HELLO_SEND: a port in discovery queues a HELLO on VC3, unencrypted, from
this device and with its die's next counter. HELLO: one whose HELLO is what the plan expects is UP on its lanes.
DISCOVERY_TIMEOUT: one that hears none that verifies within 20 ms records ABSENT. RT_SWAP changes the active bank. -/
def Obligations.DiscoveryAndSwap : Prop :=
  (∀ (s : State) (c : Nat) (b : List Byte), c < 18 → (portOf s c).pstate = 7 → portsHeld s = false →
    helloPayload s c = some b → ∃ t m k, exec (.helloSend c) s = .next t ∧
      (portOf t c).hellos = (portOf s c).hellos ++ flitsOf k 3 false (msgBytes m) ∧ m.mtype = 10 ∧ m.enc = false ∧
      m.src = ownId s ∧ m.len = b.length ∧ m.payload = b ∧ m.ctr = ctrOf s (ioDieOf c == 1) ∧
      t.parts = s.parts ∧ t.stores = s.stores ∧ t.cores = s.cores ∧ t.out = s.out) ∧
  (∀ (s : State) (c : Nat) (m : Msg) (h : Hello), c < 18 → msgOk m = true → (portOf s c).pstate = 7 → (portOf s c).dres = 0 →
    (portOf s c).prevPeer = none → (portOf s c).replay = [] → portsHeld s = false → isHello m = true → m.enc = false →
    parseHello m.payload = some h → m.len = m.payload.length →
    ∃ t, exec (.hello c m) s = .next t ∧ (portOf t c).echo = h.nonce ∧ (portOf t c).dres = outcomeOf s c h ∧
      (outcomeOf s c h = Dres.match_ → (portOf t c).pstate = laneCount (portOf s c).lanes ∧
        (portOf t c).verified = true ∧ (portOf t c).peer = peerWord h ∧ t.parts = s.parts ∧
        ∀ q, q ≠ c → portOf t q = portOf s q)) ∧
  (∀ (s : State) (c : Nat), c < 18 → (portOf s c).pstate = 7 → (portOf s c).dres = 0 →
    ∃ t, exec (.discoveryTimeout c) s = .next t ∧ (portOf t c).dres = Dres.absent ∧ (portOf t c).pstate = 10 ∧
      t.stores = s.stores ∧ t.cores = s.cores) ∧
  (∀ s : State, ∃ t, exec .rtSwap s = .next t ∧ t.fabric.abank = !s.fabric.abank ∧ t.fabric.doms0 = s.fabric.doms0 ∧
    t.fabric.doms1 = s.fabric.doms1 ∧ t.parts = s.parts ∧ t.stores = s.stores ∧ t.cores = s.cores)

/-! ### Collectives -/

/-- Group slots (R208): LOAD of an EMPTY slot copies a descriptor that passes its checks, with `OPSEQ` 0, and is NOT_RUN for
another one; LOAD of another slot is BUSY; CLEAR empties a LOADED slot, or leaves it DRAINING while a collective of it is outstanding. `CGIX` and
`CSTAT` tell which command ended how, and no other slot changes.
The life of a collective (R210, R212, R215-R217). COLLECTIVE_SUBMIT: an accepted descriptor takes the slot's `OPSEQ`,
which rises by one. COLLECTIVE_START: the oldest waiting one of the partition whose turn it is takes engines that are free.
WLIM_TIMEOUT: past `WLIM` it ends TIMEOUT. COLLECTIVE_COMPLETE: one that has ended leaves the list when its record is
written. No other collective and no register of a core changes. -/
def Obligations.GroupsAndCollectives : Prop :=
  (∀ (s : State) (p g : Nat), p < 16 → g < 64 → (partOf s p).ptstate = 1 →
    let ended := fun (t : State) (status : Nat) => reg t p R.cgrpCtl 13 8 = g ∧ reg t p R.cgrpCtl 23 16 = status ∧
      (∀ h, h ≠ g → (partOf t p).group h = (partOf s p).group h) ∧ (partOf t p).colls = (partOf s p).colls ∧
      (∀ q, (partOf t q).mem = (partOf s q).mem) ∧ t.stores = s.stores ∧ t.cores = s.cores ∧ t.clusters = s.clusters
    let busy := (partOf s p).colls.any fun k => k.gix == g
    (∀ q s1, ((partOf s p).group g).st = 0 → loadedGroup s p = (some q, s1) → ∃ t, exec (.load p g) s = .next t ∧
      (partOf t p).group g = q ∧ q.st = 1 ∧ q.opseq = 0 ∧ 2 ≤ q.n ∧ q.rank < q.n ∧ ended t Status.ok) ∧
    (∀ s1, ((partOf s p).group g).st = 0 → loadedGroup s p = (none, s1) → ∃ t, exec (.load p g) s = .next t ∧
      (partOf t p).group g = (partOf s p).group g ∧ ended t Status.notRun) ∧
    (((partOf s p).group g).st ≠ 0 → ∃ t, exec (.load p g) s = .next t ∧
      (partOf t p).group g = (partOf s p).group g ∧ ended t Status.busy) ∧
    (((partOf s p).group g).st = 1 → busy = false → ∃ t, exec (.clear p g) s = .next t ∧
      (partOf t p).group g = Group.empty ∧ ended t Status.ok) ∧
    (((partOf s p).group g).st = 1 → busy = true → ∃ t, exec (.clear p g) s = .next t ∧
      (partOf t p).group g = { (partOf s p).group g with st := 2 } ∧ ended t Status.ok)) ∧
  ((∀ (s : State) (p c h cli : Nat) (desc : List Byte), p < 16 → c < 64 → h < 640 →
    let d := slice desc 0 64
    let q := (partOf s p).group (Cd.gix d)
    (ctxClusters (partOf s p) c).idxOf? h = some cli → (partOf s p).ptstate = 1 → (partOf s p).colls.length < 64 →
    collRuns (partOf s p) q d = true → (q.early.all fun e => e.opseq != q.opseq) = true →
    collOf s p (Cd.gix d) q.opseq = none →
    ∃ t k, exec (.collectiveSubmit p c h desc) s = .next t ∧ (partOf t p).colls = (partOf s p).colls ++ [k] ∧
      k.gix = Cd.gix d ∧ k.opseq = q.opseq ∧ k.ctx = c ∧ k.cluster = cli ∧ k.desc = d ∧ k.running = false ∧
      k.ended = false ∧ ((partOf t p).group (Cd.gix d)).opseq = q.opseq + 1 ∧ t.out = s.out ∧
      t.stores = s.stores ∧ t.cores = s.cores ∧ t.clusters = s.clusters) ∧
  (∀ (s : State) (p g : Nat) (o : BitVec 16) (k : Coll), p < 16 → g < 64 → collOf s p g o = some k →
    let others := fun t : State => (∀ h u, (h, u) ≠ (g, o) → collOf t p h u = collOf s p h u) ∧ sameCores s t
    (k.running = false → k.ended = false → k.aborted = false →
      ((partOf s p).colls.find? fun j => !j.running && !j.ended) = some k → enginesBusy s < 8 → nextServed s = some p →
      ∃ t, exec (.collectiveStart p g o) s = .next t ∧ (collOf t p g o).map (fun j => (j.running, j.ended)) = some (true, false) ∧
        others t ∧ t.stores = s.stores ∧ t.clusters = s.clusters) ∧
    (k.ended = false → Cd.wlim k.desc ≠ 0 → ∃ t, exec (.wlimTimeout p g o) s = .next t ∧
      (collOf t p g o).map (fun j => (j.ended, j.statuses)) = some (true, k.statuses ++ [Status.timeout]) ∧
      others t ∧ t.stores = s.stores ∧ t.clusters = s.clusters) ∧
    (k.ended = true → Cd.semen k.desc = false → ∃ t, exec (.collectiveComplete p g o) s = .next t ∧
      collOf t p g o = none ∧ others t ∧ t.clusters = s.clusters)))

/-- Messages of a collective that arrive for a loaded slot, a known rank and an accepted collective (R213-R215, R218, R277):
a READY with the same descriptor fields makes the rank ready; an ABORT ends the collective ABORTED; under DIRECT a DATA_R is
kept until the last member's tile has come, and a pair that reaches a rank other than 0 is the total; a gathered tile of AG
(DATA_G) stands at its place in `DST`; each acknowledgement (COLL_ACK) leaves one less to wait for. -/
def Obligations.CollectiveMessagesArrive : Prop :=
  ∀ (s : State) (m : Msg) (p r : Nat) (k : Coll), msgOk m = true → m.enc = false → m.dst = ownId s →
    let g := Ca.gix m
    let q := (partOf s p).group g
    let now := fun t : State => collOf t p g (Ca.opseq m)
    let still := fun t : State => (∀ h u, (h, u) ≠ (g, Ca.opseq m) → collOf t p h u = collOf s p h u) ∧
      t.stores = s.stores ∧ t.cores = s.cores ∧ t.clusters = s.clusters
    (m.mtype = Mt.coll → groupFor s m = some p → planSlot (partOf s p) g = false → rankOf q m.src = some r →
      collOf s p g (Ca.opseq m) = some k →
      (Ca.kind m = 2 → m.payload = readyBytes k.desc → ∃ t j, exec (.ready none m) s = .next t ∧ now t = some j ∧
        r ∈ j.ready ∧ (∀ u ∈ k.ready, u ∈ j.ready) ∧ j.desc = k.desc ∧ j.ended = k.ended ∧ j.statuses = k.statuses ∧ still t) ∧
      (Ca.kind m = 3 → k.ended = false → ∃ t, exec (.abort none m) s = .next t ∧
        (now t).map (fun j => (j.ended, j.statuses)) = some (true, k.statuses ++ [Status.aborted]) ∧ still t) ∧
      (k.running = true → k.ended = false → k.aborted = false → q.alg = 2 →
        (∀ u, Ca.kind m = 0 → Cd.reduces k.desc = true → Ca.idx m < Cd.carriers k.desc → u < q.n → u ≠ r →
          sget [] k.acc (accKey (Ca.idx m) u) = [] → ∃ t j, exec (.dataR none m) s = .next t ∧ now t = some j ∧
          sget [] j.acc (accKey (Ca.idx m) r) = carrierRead k.desc m.payload ∧
          (∀ a, a ≠ accKey (Ca.idx m) r → sget [] j.acc a = sget [] k.acc a) ∧ j.fin = k.fin ∧ still t) ∧
        (Ca.kind m = 1 → m.col = false → q.rank ≠ 0 → ∃ t j, exec (.dataG none m) s = .next t ∧ now t = some j ∧
          j.ssqTot = some (BitVec.ofNat 32 (leAt m.payload 0 4), BitVec.ofNat 32 (leAt m.payload 4 4)) ∧
          j.fin = k.fin ∧ j.acc = k.acc ∧ still t) ∧
        (∀ i a, Ca.kind m = 1 → m.col = true → Cd.op k.desc = 1 → m.payload.length = 4096 →
          i = idxTile (Cd.bolts k.desc * 16) (Ca.idx m) (fun b =>
            !k.fin.contains b && comesFrom q r (tileWay q k.desc b).1 (tileWay q k.desc b).2) → a = dstAddr q k.desc i →
          ctxMay s p k.ctx a = true → inBase (partOf s p) a = false → boltBase ≤ a → a % 4096 = 0 →
          crcOk m.payload (collarOf m.collar) = true → collarClean (collarOf m.collar) = true →
          (collarOf m.collar).poison = false → stalls (partOf s p) ((a - boltBase) / boltSize) = false →
          (readyWrite s p ((a - boltBase) / boltSize)).isSome = true →
          ∃ t j, exec (.dataG none m) s = .next t ∧ now t = some j ∧ i ∈ j.fin ∧ j.statuses = k.statuses ∧
          tileBytes (partOf t p) ((a - boltBase) / 4096) = m.payload ∧
          (∀ b, b < a - boltBase ∨ a - boltBase + 4096 ≤ b → mget (partOf t p).mem b = mget (partOf s p).mem b) ∧ still t))) ∧
    (∀ w h o, m.mtype = Mt.collAck → findReq s m = some w → w.timedOut = false → w.kind = .coll p h o → m.status = 0 →
      nothingWaits s → collOf s p h o = some k → ∃ t, exec (.collAck none m) s = .next t ∧
      collOf t p h o = some { k with unacked := k.unacked - 1 } ∧
      t.fabric.reqs = s.fabric.reqs.filter (fun x => !(x.die == w.die && x.tag == w.tag)) ∧
      t.out = s.out ∧ t.stores = s.stores ∧ t.cores = s.cores ∧ t.clusters = s.clusters)

/-! ### Grants, partitions and contexts -/

/-- The life of a grant slot (R186): CREATE pins; a pinned slot is ACTIVE at an export offset (GRANT_PINNED); REVOKE drains it;
the drained slot is FREE with a tombstone of its range (REVOKE_DRAINED), which TOMBSTONE_EXPIRY takes away. No other slot, store
or core changes, and of other partitions at most the pending vectors. -/
def Obligations.GrantSlots : Prop :=
  ∀ (s : State) (p g : Nat), p < 16 → g < 256 →
    let x := partOf s p
    let still := fun t : State => (∀ h, h < 256 → h ≠ g → gstate (partOf t p) h = gstate x h ∧ gEoff (partOf t p) h = gEoff x h) ∧
      elsewhere s t p ∧ t.stores = s.stores ∧ t.cores = s.cores ∧ t.clusters = s.clusters
    (x.ptstate = 1 → gstate x g = Gs.free → ∃ t, exec (.create p g) s = .next t ∧
      gstate (partOf t p) g = Gs.pinning ∧ (partOf t p).tombs = x.tombs ∧ still t) ∧
    (∀ o, gstate x g = Gs.pinning → sget ⟨0, false⟩ x.grants g = ⟨Status.ok, true⟩ → gBolts x g ≠ 0 →
      ((grantBolts x g).any fun b => (x.bolt b).st == .in_) = false → activeGrants s < 1024 →
      placeExport s (gBolts x g) = some o → ∃ t, exec (.grantPinned p g) s = .next t ∧
      gstate (partOf t p) g = Gs.active ∧ gEoff (partOf t p) g = o ∧ (partOf t p).get (R.gntCtl g) 19 12 = Status.ok ∧
      (partOf t p).bolts = x.bolts ∧ still t) ∧
    (x.ptstate = 1 → gstate x g = Gs.active → ∃ t, exec (.revoke p g) s = .next t ∧
      gstate (partOf t p) g = Gs.revoking ∧ gEoff (partOf t p) g = gEoff x g ∧ (partOf t p).tombs = x.tombs ∧ still t) ∧
    (gstate x g = Gs.revoking → ∃ t, exec (.revokeDrained p g) s = .next t ∧ gstate (partOf t p) g = Gs.free ∧
      (partOf t p).tombs = x.tombs ++ [{ eoff := gEoff x g, nbolt := gBolts x g, job := BitVec.ofNat 32 (gJob x g) }] ∧
      (partOf t p).get (R.gntCtl g) 19 12 = Status.ok ∧ still t) ∧
    (∀ e, ∃ t, exec (.tombstoneExpiry p e) s = .next t ∧
      (∀ z, z ∈ (partOf t p).tombs ↔ z ∈ x.tombs ∧ z.eoff ≠ e) ∧ (partOf t p).bar0 = x.bar0 ∧ still t)

/-- Partition management through `PM_CMD` (R222, R296-R299, R403, R404): an accepted CREATE (pmCreate) makes a LIVE partition
of its arguments with registers at their Reset values; DESTROY (pmDestroy) starts a reset that ends it, or drops a PARKED one
at once; PARK, PARK_COMPLETE, UNPARK and UNPARK_COMPLETE pass through PARKING, PARKED, UNPARKING to LIVE, and give up and take
panels; DEBUG_ON and DEBUG_OFF set debug mode while every context stands still. -/
def Obligations.PartitionLifecycle : Prop :=
  ∀ s : State, serving s = true →
    let a := pmArgs s
    let p := a.number
    let x := partOf s p
    let done := fun (t : State) (status : Nat) => mreg t M.pmCmd 4 4 = 0 ∧ mreg t M.pmCmd 15 8 = status
    (mreg s M.pmCmd 4 4 = 0 →
      (createStatus s a = Status.ok → ∃ t, exec .pmCreate s = .next t ∧ (partOf t p).ptstate = 1 ∧
        (partOf t p).panels = a.panels ∧ (partOf t p).vbolts = a.v ∧ (partOf t p).qbolts = a.q ∧
        (partOf t p).hwcap = a.hwcap ∧ (partOf t p).bar0 = [] ∧ (partOf t p).mem = [] ∧ (partOf t p).keyed = true ∧
        (∀ q, q ≠ p → partOf t q = partOf s q) ∧ t.stores = s.stores ∧ done t Status.ok) ∧
      (createStatus s a ≠ Status.ok → exec .pmCreate s = .next (pmEnd s (createStatus s a))) ∧
      (x.ptstate = 1 → ∃ t, exec .pmDestroy s = .next t ∧ (partOf t p).ptstate = 5 ∧ (partOf t p).dying = true ∧
        mreg t M.pmCmd 4 4 = 1) ∧
      (x.ptstate = 3 → ∃ t, exec .pmDestroy s = .next t ∧ (partOf t p).ptstate = 0 ∧ (partOf t p).jkeys = [] ∧
        (partOf t p).qbolts = 0 ∧ (∀ q, q ≠ p → partOf t q = partOf s q) ∧ t.stores = s.stores ∧ done t Status.ok) ∧
      (parkOk s p = true → ∃ t, exec .park s = .next t ∧ (partOf t p).ptstate = 2 ∧ (partOf t p).panels = x.panels ∧
        (partOf t p).bolts = x.bolts ∧ mreg t M.pmCmd 4 4 = 1 ∧ t.stores = s.stores ∧ t.cores = s.cores) ∧
      (parkOk s p = false → exec .park s = .next (pmEnd s Status.busy)) ∧
      (x.ptstate = 3 → ((List.range 16).filter fun i => bit a.panels i).length = x.parkP →
        a.panels &&& (panelsHeld s ||| s.rel.fencedPanels) = 0 → ∃ t, exec .unpark s = .next t ∧
        (partOf t p).ptstate = 4 ∧ (partOf t p).panels = a.panels ∧ (partOf t p).mem = x.mem ∧ mreg t M.pmCmd 4 4 = 1 ∧
        t.stores = s.stores) ∧
      (x.ptstate = 1 → ctxsAre s p [Cs.free, Cs.halted, Cs.ended] = true →
        (∃ t, exec .debugOn s = .next t ∧ (partOf t p).dbgen = true ∧ (partOf t p).ptstate = 1 ∧ t.cores = s.cores ∧ done t Status.ok) ∧
        (∃ t, exec .debugOff s = .next t ∧ (partOf t p).dbgen = false ∧ (partOf t p).ptstate = 1 ∧
          (∀ g, hasCluster x (g / 16) = true → (coreOf t g).caps = []) ∧ t.stores = s.stores ∧ done t Status.ok))) ∧
    (∀ q, q < 16 → (partOf s q).ptstate = 2 → flashWritable s = true →
      (dirtyBolts (partOf s q)).length ≤ (partOf s q).qbolts - blocksUsed (partOf s q) →
      ∃ t, exec (.parkComplete q) s = .next t ∧ (partOf t q).ptstate = 3 ∧ (partOf t q).panels = 0 ∧
      (partOf t q).parkP = (panelList (partOf s q)).length ∧ done t Status.ok) ∧
    (∀ q, q < 16 → (partOf s q).ptstate = 4 → ((partOf s q).bolts.any fun e => e.2.keep && e.2.st == .in_) = false →
      ∃ t, exec (.unparkComplete q) s = .next t ∧ (partOf t q).ptstate = 1 ∧ (partOf t q).parkP = 0 ∧
      (partOf t q).panels = (partOf s q).panels ∧ (partOf t q).mem = (partOf s q).mem ∧ done t Status.ok)

/-- Doorbell commands of a context that is not starting (R49, R231-R236, R241, Tables 10-4, 10-5): START of a FREE one that
passes its checks takes its clusters; PREEMPT asks every core for a safe point; RESUME takes the clusters of a PREEMPTED
one; RESTART lets stopped cores issue; ABORT (CONTEXT_ABORT) begins the tear-down; RELEASE frees a HALTED or ENDED one; a
command in another state is BUSY. No command changes a store byte. -/
def Obligations.ContextCommands : Prop :=
  ∀ (s : State) (p c : Nat), p < 16 → c < 64 → (partOf s p).ptstate = 1 → (ctxOf s p c).starting = false →
    let st := cstate s p c
    let hs := ctxClusters (partOf s p) c
    let cores := ctxCores (partOf s p) c
    let still := fun t : State => (∀ q, q ≠ p → partOf t q = partOf s q) ∧ (∀ d, d < 64 → d ≠ c → cstate t p d = cstate s p d) ∧
      (partOf t p).mem = (partOf s p).mem ∧ t.stores = s.stores
    let held := fun t : State => (∀ h ∈ hs, (clusOf t h).holder.map (fun k => (k.part, k.ctx)) = some (p, c)) ∧
      (∀ h, h ∉ hs → clusOf t h = clusOf s h)
    (st = Cs.free → startChecks s p c = true → clustersFree s hs = true → ∃ t, exec (.start p c) s = .next t ∧
      (ctxOf t p c).starting = true ∧ reg t p (R.cxFault c) 63 0 = 0 ∧ held t ∧ t.cores = s.cores ∧ still t) ∧
    (st = Cs.running ∨ st = Cs.stopped → ∃ t, exec (.preempt p c) s = .next t ∧ cstate t p c = Cs.preempting ∧
      (∀ g ∈ cores, (coreOf t g).preReq = true ∧ sameRegisters (coreOf s g) (coreOf t g)) ∧
      (∀ g, g ∉ cores → coreOf t g = coreOf s g) ∧ t.clusters = s.clusters ∧ t.out = s.out ∧ still t) ∧
    (st = Cs.preempted → clustersFree s hs = true → ∃ t, exec (.resume p c) s = .next t ∧ cstate t p c = Cs.resuming ∧
      held t ∧ t.cores = s.cores ∧ still t) ∧
    (st = Cs.stopped → ∃ t, exec (.restart p c) s = .next t ∧ cstate t p c = Cs.running ∧ reg t p (R.cxStat c) 15 8 = Status.ok ∧
      (∀ g ∈ cores, (coreOf t g).run ≠ .stopped ∧ sameRegisters (coreOf s g) (coreOf t g)) ∧ t.clusters = s.clusters ∧ still t) ∧
    (st = Cs.running ∨ st = Cs.stopped ∨ st = Cs.preempting ∨ st = Cs.resuming ∨ st = Cs.preempted →
      ∃ t, exec (.contextAbort p c) s = .next t ∧ cstate t p c = Cs.teardown ∧ (ctxOf t p c).cause = none ∧
      (ctxOf t p c).cmdRun = 5 ∧ t.clusters = s.clusters ∧ still t) ∧
    (st = Cs.halted ∨ st = Cs.ended → ∃ t, exec (.release p c) s = .next t ∧ cstate t p c = Cs.free ∧
      reg t p (R.cxStat c) 15 8 = Status.ok ∧ t.cores = s.cores ∧ t.clusters = s.clusters ∧ still t) ∧
    (st ≠ Cs.free → ∃ t, exec (.start p c) s = .next t ∧ cstate t p c = st ∧ reg t p (R.cxStat c) 15 8 = Status.busy ∧
      t.cores = s.cores ∧ t.clusters = s.clusters ∧ still t)

/-- What the device does for a context (R232, R235-R237, R234, R242, R245): after START_COMPLETE every core stands at `ENTRY`
with registers zero and issues; a saved context (PREEMPT_SAVE_COMPLETE) keeps its image and gives up its clusters; a restored
one (RESTORE_COMPLETE) has its registers back and runs; a torn-down one (TEARDOWN_COMPLETE) is ENDED with its fault record, a
halted one (CONTEXT_HALTED) HALTED, both without clusters; DB_RING adds to a live semaphore on which nobody waits. -/
def Obligations.ContextsRunAndEnd : Prop :=
  ∀ (s : State) (p c : Nat), p < 16 → c < 64 →
    let x := partOf s p
    let st := cstate s p c
    let hs := ctxClusters x c
    let free := fun t : State => ∀ h ∈ hs, (clusOf t h).holder = none
    ((ctxOf s p c).starting = true → (ctxOf s p c).waitCmds = [] → ∃ t, exec (.startComplete p c) s = .next t ∧
      cstate t p c = Cs.running ∧ reg t p (R.cxStat c) 15 8 = Status.ok ∧ (ctxOf t p c).starting = false ∧
      (∀ g ∈ ctxCores x c, (coreOf t g).pc = x.get (R.cxCode c) 30 16 ∧ (coreOf t g).run = .issuing ∧
        (coreOf t g).g = Core.zero.g ∧ (coreOf t g).v = Core.zero.v ∧ (coreOf t g).p = Core.zero.p ∧ (coreOf t g).lc = Core.zero.lc) ∧
      (∀ h ∈ hs, (clusOf t h).sem = [] ∧ (clusOf t h).barArr = 0) ∧ (∀ g, g ∉ ctxCores x c → coreOf t g = coreOf s g)) ∧
    (st = Cs.preempting → (ctxCores x c).all (saveReady s) = true → holdsNow s p c = true →
      ∃ t, exec (.preemptSaveComplete p c) s = .next t ∧ cstate t p c = Cs.preempted ∧ (ctxOf t p c).save.isSome = true ∧
      reg t p (R.cxStat c) 15 8 = Status.ok ∧ free t ∧ elsewhere s t p ∧
      (inBolts x (fld (x.reg (R.cxSave c)) 43 16 * boltSize) (hs.length * 106 * boltSize) = true → t.stores = s.stores ∧ sameCores s t)) ∧
    (∀ im, st = Cs.resuming → (ctxOf s p c).save = some im → im.park = [] → hs.Nodup →
      ∃ t, exec (.restoreComplete p c) s = .next t ∧ cstate t p c = (if im.stopped then Cs.stopped else Cs.running) ∧
      reg t p (R.cxStat c) 15 8 = Status.ok ∧ (ctxOf t p c).save = none ∧
      (∀ i h k, hs[i]? = some h → k < 16 → sameRegisters (sget Core.zero im.cores (16 * i + k)) (coreOf t (16 * h + k)))) ∧
    (st = Cs.teardown → teardownDone s p c = true → holdsNow s p c = true → ∃ t, exec (.teardownComplete p c) s = .next t ∧
      cstate t p c = Cs.ended ∧ free t ∧
      reg t p (R.cxFault c) 63 0 = (faultRecord (ctxOf s p c).cause (ctxOf s p c).more).toNat) ∧
    (st = Cs.running → ((ctxCores x c).all fun g =>
        (coreOf s g).run == .halted && (coreOf s g).mops == [] && (coreOf s g).dmas == []) = true →
      (x.colls.any fun k => k.ctx == c) = false → holdsNow s p c = true → ∃ t, exec (.contextHalted p c) s = .next t ∧
      cstate t p c = Cs.halted ∧ reg t p (R.cxStat c) 15 8 = Status.ok ∧ free t) ∧
    (∀ (val : Word) (h : Nat), x.ptstate = 1 → hs[fld val 25 16]? = some h → (ctxOf s p c).save = none →
      st = Cs.running ∨ st = Cs.stopped ∨ st = Cs.preempting ∨ st = Cs.resuming →
      (sget 0 (clusOf s h).sem (fld val 5 0)).toNat + fld val 47 32 ≤ 65535 →
      ((coresOf h).all fun g => (semWaiting s (fld val 5 0) g).isNone) = true → ∃ t, exec (.dbRing p c val) s = .next t ∧
      (sget 0 (clusOf t h).sem (fld val 5 0)).toNat = (sget 0 (clusOf s h).sem (fld val 5 0)).toNat + fld val 47 32 ∧
      (∀ i, i ≠ fld val 5 0 → sget 0 (clusOf t h).sem i = sget 0 (clusOf s h).sem i) ∧ t.parts = s.parts ∧ t.cores = s.cores ∧
      t.stores = s.stores ∧ t.out = s.out)

/-- Capture buffers and loaded seeds (R113) are not saved with a context, and preemption discards them: the image of a
preempted context holds none, and the cores of a restored context hold none. -/
def Obligations.CaptureBuffersAreNotSaved : Prop :=
  ∀ (s : State) (p c : Nat), p < 16 → c < 64 →
    let hs := ctxClusters (partOf s p) c
    let none_ := fun k : Core => k.caps = [] ∧ k.seeds = [] ∧ k.seeded = 0
    (cstate s p c = Cs.preempting → (ctxCores (partOf s p) c).all (saveReady s) = true →
      ∃ t im, exec (.preemptSaveComplete p c) s = .next t ∧ (ctxOf t p c).save = some im ∧
      ∀ i, none_ (sget Core.zero im.cores i)) ∧
    (∀ im, cstate s p c = Cs.resuming → (ctxOf s p c).save = some im → im.park = [] →
      ∃ t, exec (.restoreComplete p c) s = .next t ∧ ∀ h ∈ hs, ∀ g ∈ coresOf h, none_ (coreOf t g))

/-! ### Hosts and power states -/

/-- Host links and logical devices (R223, R224, R226, R227, R423; the codes of commands and answers are log 31, the binding
log 27): HOST_LINK_TRAINED at a width and rate of R224 brings the link UP and binds the logical devices that the fabric
manager names; HOST_LINK_DOWN, or PERST low (PERST_ASSERT), leaves none bound and the link DOWN, and unbinds one alone;
PERST_RELEASE lets the line rise; Get LD Info, Get LD Allocations and Set LD Allocations (GET_LD_INFO, GET_LD_ALLOCATIONS,
SET_LD_ALLOCATIONS) are answered with `HWCAP`, any other FM-API command with Unsupported; FUNCTION_LEVEL_RESET starts the
reset of a LIVE partition and clears only the pending vectors of a PARKED one. -/
def Obligations.HostLinksAndLogicalDevices : Prop :=
  (∀ (s : State) (h : Nat), h < 2 →
    let unbound := fun t : State => ∀ p, p < 16 → bit (partOf t p).bound h = false
    let other := fun t : State => (∀ p, p < 16 → bit (partOf t p).bound (1 - h) = bit (partOf s p).bound (1 - h)) ∧
      mreg t (M.ptHost (1 - h)) 1 0 = mreg s (M.ptHost (1 - h)) 1 0
    (∀ (w r : Nat) (lds : BitVec 16), w = 8 ∨ w = 4 → r = 64 ∨ r = 32 → perstLow s h = false → mreg s (M.ptHost h) 1 0 ≠ 2 →
      ∃ t, exec (.hostLinkTrained h w ⟨r, lds⟩) s = .next t ∧ mreg t (M.ptHost h) 1 0 = 1 ∧ mreg t (M.ptHost h) 15 12 = w ∧
      mreg t (M.ptHost h) 23 16 = r ∧
      (∀ p, p < 16 → bit (partOf t p).bound h = (bit lds p || bit (partOf s p).bound h)) ∧ other t ∧ t.stores = s.stores ∧
      t.cores = s.cores) ∧
    (mreg s (M.ptHost h) 1 0 = 1 → ∃ t, exec (.hostLinkDown h none) s = .next t ∧ mreg t (M.ptHost h) 1 0 = 0 ∧
      unbound t ∧ other t) ∧
    (∀ p, p < 16 → ∃ t, exec (.hostLinkDown h (some p)) s = .next t ∧ bit (partOf t p).bound h = false ∧
      (∀ q, q ≠ p → q < 16 → (partOf t q).bound = (partOf s q).bound) ∧
      mreg t (M.ptHost h) 1 0 = mreg s (M.ptHost h) 1 0 ∧ other t) ∧
    (∃ t, exec (.perstAssert h) s = .next t ∧ perstLow t h = true ∧ mreg t (M.ptHost h) 1 0 ≠ 1 ∧ unbound t ∧ other t) ∧
    (∃ t, exec (.perstRelease h) s = .next t ∧ perstLow t h = false ∧ perstLow t (1 - h) = perstLow s (1 - h) ∧
      t = { s with pwr := t.pwr }) ∧
    (hostUp s h = true → exec (.getLdInfo ⟨h, 0x5400⟩) s =
      .next (emit s (.answer h 0 (toLE 8 (((List.range 16).map fun p => (partOf s p).hwcap).sum * 2 ^ 28) ++ toLE 2 16)))) ∧
    (∀ op, op < 2 ^ 16 → (op < 0x5400 ∨ 0x5402 < op) → hostUp s h = true → exec (.getLdInfo ⟨h, op⟩) s = .next (emit s (.answer h 3 []))) ∧
    (hostUp s h = true → exec (.getLdAllocations h) s =
      .next (emit s (.answer h 0 ((List.range 16).flatMap fun p => toLE 8 (partOf s p).hwcap)))) ∧
    (∀ l, hostUp s h = true → ∃ t d, exec (.setLdAllocations h l) s = .next t ∧
      t = emit s (.answer h (if l = (List.range 16).map (fun p => (partOf s p).hwcap) then 0 else 2) d))) ∧
  (∀ (s : State) (p : Nat), p < 16 →
    ((partOf s p).ptstate = 1 → s.rel.dph = 0 → ∃ t, exec (.functionLevelReset p) s = .next t ∧ (partOf t p).ptstate = 5 ∧
      (partOf t p).dying = false ∧ (partOf t p).colls = [] ∧ (partOf t p).groups = [] ∧
      (∀ c, c < 64 → cstate t p c = if cstate s p c = Cs.free then Cs.free else Cs.ended) ∧
      (∀ g, hasCluster (partOf s p) (g / 16) = true → coreOf t g = Core.zero) ∧
      (∀ g, hasCluster (partOf s p) (g / 16) = false → (coreOf t g).g = (coreOf s g).g ∧ (coreOf t g).pc = (coreOf s g).pc)) ∧
    ((partOf s p).ptstate = 3 → ∃ t, exec (.functionLevelReset p) s = .next t ∧
      partOf t p = { partOf s p with msix := 0 } ∧ (∀ q, q ≠ p → partOf t q = partOf s q) ∧ t = { s with parts := t.parts }))

/-- Host windows (R227, R228, Table 15-12): HOST_WINDOW_READ of bytes that a window serves from sound resident tiles
returns them and changes no memory; a byte outside every window reads zero and counts as a violation; HOST_WINDOW_WRITE
changes exactly its bytes; a partition that does not exist answers zeros, counted for the device.
Requests to the host that a DMA waits for (R225, R438, Table 8-15): HOST_COMPLETION brings the bytes into the DMA's buffer,
or ends the write, with status OK; without one in time (HOST_REQUEST_TIMEOUT) the DMA's part ends POISON and the request is
TIMED_OUT; a completion that still comes is only counted in `ERR`. An answered request is no longer outstanding. -/
def Obligations.HostWindowsAndRequests : Prop :=
  (∀ (s : State) (p off : Nat), p < 16 →
    let x := partOf s p
    (∀ as : List Nat, x.ptstate = 1 → panelFenced s p = false → hdmPlaces x false off as.length = as.map some →
      ((tilesTouched (as.map some)).all fun t => !stalls x (t / 16) && !tilePoisoned x t) = true →
      ∃ t, exec (.hostWindowRead p off as.length) s = .next t ∧ t.out = s.out ++ [.hdmData p (as.map (mget x.mem)) false] ∧
      (partOf t p).mem = x.mem ∧ (partOf t p).collars = x.collars ∧ (partOf t p).bar0 = x.bar0 ∧ (partOf t p).viol = x.viol ∧
      (∀ q, q ≠ p → partOf t q = partOf s q) ∧ t.stores = s.stores ∧ t.cores = s.cores) ∧
    (∀ n, x.ptstate = 1 → 0 < n → ((hdmPlaces x false off n).all fun q => q.isNone) = true →
      ∃ t, exec (.hostWindowRead p off n) s = .next t ∧ t.out = s.out ++ [.hdmData p (zeros n) false] ∧
      (partOf t p).viol = BitVec.ofNat 32 (satTo 32 (x.viol.toNat + 1)) ∧ (partOf t p).mem = x.mem ∧ t.stores = s.stores) ∧
    (∀ n, x.ptstate = 0 → ∃ t, exec (.hostWindowRead p off n) s = .next t ∧ t.out = s.out ++ [.hdmData p (zeros n) false] ∧
      mreg t M.pmDviol 31 0 = satTo 32 (mreg s M.pmDviol 31 0 + 1) ∧ t.parts = s.parts) ∧
    (∀ (a : Nat) (data : List Byte), x.ptstate = 1 → panelFenced s p = false → 0 < data.length → a % 4096 + data.length ≤ 4096 →
      hdmPlaces x true off data.length = (List.range data.length).map (fun i => some (a + i)) →
      (x.bolt (a / boltSize)).st = .hbmDirty → ∃ t, exec (.hostWindowWrite p off data) s = .next t ∧
      mread (partOf t p).mem a data.length = data ∧
      (∀ b, b < a ∨ a + data.length ≤ b → mget (partOf t p).mem b = mget x.mem b) ∧
      (∀ q, q ≠ p → partOf t q = partOf s q) ∧ t.out = s.out ∧ t.stores = s.stores ∧ t.cores = s.cores)) ∧
  (∀ (s : State) (p id g i : Nat) (r : HostReq), p < 16 → hostReq s p id = some r →
    let x := partOf s p
    let gone := fun (late : List HostReq) (t : State) =>
      (partOf t p).hostReqs = (partOf s p).hostReqs.filter (fun q => q.id != id) ++ late ∧
      (∀ q, q ≠ p → partOf t q = partOf s q) ∧ (∀ q, q ≠ g → coreOf t q = coreOf s q) ∧
      sameRegisters (coreOf s g) (coreOf t g) ∧ t.stores = s.stores ∧ t.clusters = s.clusters ∧ t.out = s.out
    (∀ (a : Nat) (bs : List Byte), r.kind = .dmaRead g i a → bs.length = r.len → ((coreOf s g).dmas.all fun d => !d.aborted) = true →
      ∃ t, exec (.hostCompletion p id bs false) s = .next t ∧ gone [] t ∧
      (∀ d ∈ (coreOf t g).dmas, d.id = i → mread d.buf a r.len = bs)) ∧
    (∀ bs b, r.kind = .dmaWrite g i → ∃ t, exec (.hostCompletion p id bs b) s = .next t ∧ gone [] t ∧
      (coreOf t g).dmas = (coreOf s g).dmas.map (fun d => if d.id = i then d.reply Status.ok else d)) ∧
    (r.kind = .dmaWrite g i → ∃ t, exec (.hostRequestTimeout p id) s = .next t ∧ gone [{ r with kind := .late }] t ∧
      (coreOf t g).dmas = (coreOf s g).dmas.map (fun d => if d.id = i then d.reply Status.poison else d)) ∧
    (∀ a, r.kind = .dmaRead g i a → unwanted s g i = false → ∃ t, exec (.hostRequestTimeout p id) s = .next t ∧
      gone [{ r with kind := .late }] t ∧
      ∀ d ∈ (coreOf t g).dmas, d.id = i → ∃ e ∈ (coreOf s g).dmas, e.id = i ∧ d.waiting = e.waiting - 1 ∧ d.status = e.status ++ [Status.poison]) ∧
    (∀ bs b, r.kind = .late → x.ptstate ≠ 0 → x.get R.errMask 3 3 = 0 → ∃ t, exec (.hostCompletion p id bs b) s = .next t ∧
      (partOf t p).hostReqs = x.hostReqs.filter (fun q => q.id != id) ∧
      (partOf t p).get (R.errCnt 3) 31 0 = satTo 32 (x.get (R.errCnt 3) 31 0 + 1) ∧ t.cores = s.cores ∧ t.stores = s.stores))

/-- Latency tolerance and the states it allows (R247, R424, Tables 10-9, 17-6): LAT_TOL_WRITE leaves no cluster of the
partition deeper than it allows; by POWER_STATE_ENTRY an idle cluster or channel enters the deepest state allowed, and a
cluster that goes off loses its stores; by POWER_STATE_WAKE demand wakes a unit. -/
def Obligations.PowerStatesFollowTolerance : Prop :=
  (∀ (s : State) (p : Nat) (v : Word), p < 16 → (partOf s p).ptstate ≠ 0 → ∃ t, exec (.latTolWrite p v) s = .next t ∧
    latTol t p = fld v 31 0 ∧ (∀ h, hasCluster (partOf s p) h = true → (clusOf t h).power ≤ clusterDepth (fld v 31 0) (heldActive s h)) ∧
    (∀ h, hasCluster (partOf s p) h = false → clusOf t h = clusOf s h) ∧ (∀ q, q ≠ p → partOf t q = partOf s q) ∧
    t.stores = s.stores ∧ t.cores = s.cores ∧ t.out = s.out) ∧
  (∀ (s : State) (h : Nat), h < 640 →
    let d := clusterDepth (panelLimit s (panelOfCluster h)) (heldActive s h)
    let still := fun t : State => (∀ k, k ≠ h → clusOf t k = clusOf s k) ∧ (clusOf t h).sem = (clusOf s h).sem ∧ sameOutside s t
    (clusterIdle s h = true → (clusOf s h).power < d → ∃ t, exec (.powerStateEntry (.cluster h)) s = .next t ∧
      (clusOf t h).power = d ∧ (∀ a, mget t.stores a = if d = 3 ∧ ofCluster h a = true then 0 else mget s.stores a) ∧ still t) ∧
    (∃ t, exec (.powerStateWake (.cluster h)) s = .next t ∧ (clusOf t h).power = 0 ∧ t.stores = s.stores ∧ t.cores = s.cores ∧
      still t)) ∧
  (∀ (s : State) (pn i : Nat), pn < 16 → i < 24 →
    let k := channelKey pn i
    let d := channelDepth (panelLimit s pn)
    (sget 0 s.pwr.chPower k < d → ∃ t, exec (.powerStateEntry (.channel pn i)) s = .next t ∧ sget 0 t.pwr.chPower k = d ∧
      (∀ j, j ≠ k → sget 0 t.pwr.chPower j = sget 0 s.pwr.chPower j) ∧ t = { s with pwr := t.pwr }) ∧
    (∃ t, exec (.powerStateWake (.channel pn i)) s = .next t ∧ sget 0 t.pwr.chPower k = 0 ∧
      (∀ j, j ≠ k → sget 0 t.pwr.chPower j = sget 0 s.pwr.chPower j) ∧ t = { s with pwr := t.pwr }))

/-! ### The Tailor -/

/-- Layout, generation and step registers (R249, R250, R266, Table 11-12): ESET sets `LAST` while both layout slots are
FREE, GSET the generation while both weight slots are, SSET the `STEP` of the next seam; by LAYOUT_RELEASE a RESIDENT layout
slot drains, its LOADED group slots are cleared, and one without group slots is FREE at once. -/
def Obligations.TailorRegisters : Prop :=
  ∀ (s : State) (p : Nat) (v : Word), p < 16 → (partOf s p).ptstate = 1 →
    let x := partOf s p
    let still := fun t : State => (∀ q, q ≠ p → partOf t q = partOf s q) ∧ (partOf t p).mem = x.mem ∧ t.stores = s.stores ∧
      t.cores = s.cores ∧ t.clusters = s.clusters
    (lstate x 0 = 0 → lstate x 1 = 0 → ∃ t, exec (.eset p v) s = .next t ∧ reg t p R.tlEpoch 15 0 = fld v 15 0 ∧
      (∀ i, i < 2 → lstate (partOf t p) i = 0) ∧ still t) ∧
    (∀ i, i < 2 → lstate x i ≠ 0 → exec (.eset p v) s = .next s) ∧
    (∃ t, exec (.sset p v) s = .next t ∧ (partOf t p).tailor.sset = some (BitVec.ofNat 32 (fld v 31 0)) ∧
      (partOf t p).bar0 = x.bar0 ∧ still t) ∧
    (wstate x 0 = 0 → wstate x 1 = 0 → ∃ t, exec (.gset p v) s = .next t ∧ reg t p R.qcGen 15 0 = fld v 15 0 ∧ still t) ∧
    (∀ i, i < 2 → lstate x i = 2 → ∃ t, exec (.layoutRelease p i) s = .next t ∧
      (lstate (partOf t p) i = 3 ∨ lstate (partOf t p) i = 0) ∧ (x.reg (R.tlLgm i) = 0 → lstate (partOf t p) i = 0) ∧
      (partOf t p).get (R.tlLay i) 31 24 = Status.ok ∧
      (∀ g, g < 64 → bit (x.reg (R.tlLgm i)) g = true → ((partOf t p).group g).st ≠ 1) ∧
      (∀ g, g < 64 → bit (x.reg (R.tlLgm i)) g = false → (partOf t p).group g = x.group g) ∧ still t)

/-- Plans (R252, R256, R262-R265, Table 11-8): SUBMIT holds a valid plan, which waits for what it needs, and
leaves the status of an invalid one; at PLAN_RESOURCES_FREE a member that holds no destination is SEALED at once; PLAN_ABORT
and PLAN_DEADLINE end a plan that is not SEALED, a SEALED one ends TIMEOUT without an outcome (SEALED_TIMEOUT); by
COMMIT_RESEND an outcome goes again to a member that has not acknowledged it. -/
def Obligations.PlansBeginAndEnd : Prop :=
  ∀ (s : State) (p : Nat), p < 16 →
    let finished := fun (t : State) (status : Nat) => planOf? t p = none ∧ pstate t p = 0 ∧ reg t p R.tpCtl 31 24 = status
    let still := fun t : State => elsewhere s t p ∧ t.stores = s.stores ∧ t.cores = s.cores ∧
      t.clusters = s.clusters
    ((partOf s p).ptstate = 1 → pstate s p = 0 →
      let r := readPlan s p
      let s1 := putReg r.2 p R.tpCtl 63 32 r.1.planid.toNat
      (planRefused s1 p r.1 = none → planFree (partOf s p) r.1 = false → (partOf s p).tailor.early = [] →
        ∃ t, exec (.submit p) s = .next t ∧ planOf? t p = some r.1 ∧ pstate t p = 1 ∧
        reg t p R.tpCtl 63 32 = r.1.planid.toNat ∧ still t) ∧
      (∀ st, planRefused s1 p r.1 = some st → ∃ t, exec (.submit p) s = .next t ∧ planOf? t p = planOf? s p ∧
        pstate t p = 0 ∧ reg t p R.tpCtl 31 24 = st ∧ still t)) ∧
    ((partOf s p).ptstate = 1 → pstate s p ≠ 0 → ∃ t, exec (.submit p) s = .next t ∧ planOf? t p = planOf? s p ∧
      pstate t p = pstate s p ∧ reg t p R.tpCtl 31 24 = Status.busy ∧ still t) ∧
    (∀ pl, planOf? s p = some pl →
      (pstate s p = 1 → planFree (partOf s p) pl = true → planXfers pl = [] → pl.sends = [] → pl.rank ≠ 0 →
        ∃ t, exec (.planResourcesFree p) s = .next t ∧ pstate t p = 3 ∧ (planOf? t p).map (·.planid) = some pl.planid ∧ still t) ∧
      ((partOf s p).ptstate = 1 → pstate s p = 1 ∨ pstate s p = 2 → ∃ t, exec (.planAbort p) s = .next t ∧
        finished t Status.aborted ∧ reg t p R.tpCtl 19 12 = Status.ok ∧ still t) ∧
      (pstate s p = 1 ∨ pstate s p = 2 ∨ pstate s p = 3 ∧ pl.rank = 0 → ∃ t, exec (.planDeadline p) s = .next t ∧
        finished t Status.timeout ∧ still t) ∧
      (pstate s p = 3 → ∃ t, exec (.sealedTimeout p) s = .next t ∧ finished t Status.timeout ∧ still t)) ∧
    (∀ (w : Told) (e : Nat × DevId), (partOf s p).tailor.told = [w] → (w.left.find? fun d => d.1 == e.1) = some e →
      (∀ die, (freeTag s die).isSome = true) → ∃ t q, exec (.commitResend p e.1) s = .next t ∧
      t.fabric.reqs = s.fabric.reqs ++ [q] ∧ q.dst = e.2 ∧ q.kind = .plan p w.planid w.phash w.code 0 e.1 ∧ t.parts = s.parts ∧ still t)

/-- Messages and transfers of a plan (R258-R264, R271, R272): a PULL is kept for serving; a DATA tile stands at its
destination and is no longer missing; a TDONE ends its PULL, one that was answered BUSY is asked again (PULL_RETRY), and after
its DIGEST_READBACK a run whose digest differs is wanted again; a transfer without progress (TRANSFER_TIMEOUT) goes to its next
replica, or ends the plan; rank 0 notes a DONE; COMMIT makes the layout RESIDENT and FAIL ends the plan with its status; a
DIGEST_SCRUB flags the weight slot whose digest no longer agrees. -/
def Obligations.PlanMessagesArrive : Prop :=
  (∀ (s : State) (m : Msg) (p : Nat) (pl : Plan), msgOk m = true → m.enc = false → m.dst = ownId s → m.mtype = Mt.coll →
    tailorPart s m.job = some p → planOf? s p = some pl →
    let q := (partOf s p).group (Ca.gix m)
    let still := fun t : State => elsewhere s t p ∧ t.stores = s.stores ∧ t.cores = s.cores ∧
      t.clusters = s.clusters
    q.st ≠ 0 → q.job = m.job → q.epoch = m.epoch →
    (Ca.kind m = 0 → m.col = false → pl.planid = Ct.planid m → pl.phash = Ct.phash m →
      (∀ r, Ct.code m = 1 → pstate s p = 1 → pl.members.idxOf? m.src = some r → ∃ t w, exec (.pull none m) s = .next t ∧
        planOf? t p = some { pl with sends := pl.sends ++ [w] } ∧ w.tensor = Ct.tensor m ∧ w.puller = r ∧ w.queue = w.tiles ∧
        w.out = 0 ∧ (partOf t p).mem = (partOf s p).mem ∧ still t) ∧
      (∀ i x a b l, Ct.code m = 2 → pstate s p = 2 → Ph.digest pl.header = false → xferFrom pl (Ct.tensor m) m.src = some i →
        pl.xfers[i]? = some x → x.asks = a :: b :: l → a.digest = none → ∃ t, exec (.tdone none m) s = .next t ∧
        planOf? t p = some { pl with xfers := pl.xfers.set i { x with asks := b :: l } } ∧
        (partOf t p).mem = (partOf s p).mem ∧ still t) ∧
      (∀ r, Ct.code m = 3 → pstate s p = 2 → pl.rank = 0 → pl.members.idxOf? m.src = some r → r ∉ pl.doneBy →
        ∃ t, exec (.done none m) s = .next t ∧ planOf? t p = some { pl with doneBy := pl.doneBy ++ [r] } ∧
        pstate t p = 2 ∧ still t) ∧
      (Ct.code m = 4 → pstate s p = 3 → memberDev pl 0 = m.src → Ph.qc pl.header = false → pl.slot = none →
        ∃ t, exec (.commit none m) s = .next t ∧ planOf? t p = none ∧ pstate t p = 0 ∧ reg t p R.tpCtl 31 24 = Status.ok ∧
        (∀ i, i < 2 → pl.layout = some i → lstate (partOf t p) i = 2) ∧
        (Ph.newlay pl.header = true → reg t p R.tlEpoch 15 0 = pl.epoch.toNat) ∧ elsewhere s t p ∧ sameCores s t ∧ t.clusters = s.clusters) ∧
      (Ct.code m = 5 → pstate s p ≠ 4 → pl.rank ≠ 0 → memberDev pl 0 = m.src → ∃ t, exec (.fail none m) s = .next t ∧
        planOf? t p = none ∧ pstate t p = 0 ∧ reg t p R.tpCtl 31 24 = Ct.tst m ∧ (partOf t p).mem = (partOf s p).mem ∧ still t)) ∧
    (∀ i x, Ca.kind m = 1 → pstate s p = 2 → Ph.tgix pl.header = Ca.gix m → xferFrom pl (Ct.tensor m) m.src = some i →
      pl.xfers[i]? = some x → x.missing.contains (Ca.idx m) = true → m.payload.length = 4096 →
      crcOk m.payload (collarOf m.collar) = true → collarClean (collarOf m.collar) = true → (collarOf m.collar).poison = false →
      let a := destTile (partOf s p) pl (pl.tensors.getD x.tensor []) (Ca.idx m)
      stalls (partOf s p) (a / 16) = false → (readyWrite s p (a / 16)).isSome = true →
      Ph.base pl.header = true ∨ inBase (partOf s p) (boltBase + 4096 * a) = false → ∃ t, exec (.data none m) s = .next t ∧
      tileBytes (partOf t p) a = m.payload ∧
      (∀ b, b < 4096 * a ∨ 4096 * a + 4096 ≤ b → mget (partOf t p).mem b = mget (partOf s p).mem b) ∧
      planOf? t p = some { pl with xfers := pl.xfers.set i { x with missing := x.missing.erase (Ca.idx m) } } ∧
      reg t p R.tpCnt 63 32 = satTo 32 (reg s p R.tpCnt 63 32 + 1) ∧ still t)) ∧
  (∀ (s : State) (p i : Nat) (pl : Plan) (x : Xfer), p < 16 → planOf? s p = some pl → pl.xfers[i]? = some x →
    let still := fun t : State => elsewhere s t p ∧ t.stores = s.stores ∧ t.cores = s.cores ∧
      t.clusters = s.clusters
    (∀ a, x.asks = [a] → a.busy = true → (∀ die, (freeTag s die).isSome = true) → ∃ t q, exec (.pullRetry p i) s = .next t ∧
      planOf? t p = some { pl with xfers := pl.xfers.set i { x with asks := [{ a with busy := false }] } } ∧
      t.fabric.reqs = s.fabric.reqs ++ [q] ∧ q.dst = memberDev pl x.src ∧ q.kind = .plan p pl.planid pl.phash 1 x.tensor x.src ∧ still t) ∧
    (∀ a l d, x.held = a :: l → runHere x a = true → a.digest = some d → x.asks ≠ [] →
      let ok := decide (d = tilesDigest (partOf s p) (destTile (partOf s p) pl (pl.tensors.getD x.tensor []) 0) (askTiles x a))
      ∃ t y, exec (.digestReadback p i) s = .next t ∧ planOf? t p = some { pl with xfers := pl.xfers.set i y } ∧
      y.held = l ∧ y.digBad = (x.digBad || !ok) ∧ y.redo = (if ok then x.redo else (x.redo ++ askTiles x a).eraseDups) ∧
      y.missing = x.missing ∧ y.bad = x.bad ∧ reg t p R.errEvents 7 7 = (if ok then reg s p R.errEvents 7 7 else 1) ∧
      (partOf t p).mem = (partOf s p).mem ∧ still t) ∧
    (pstate s p = 2 → x.closed = false → x.asks ≠ [] →
      (∀ r rs k, x.order = r :: rs → r ≠ pl.rank → k ∈ x.tiles → k ∈ x.missing → ∃ t, exec (.transferTimeout p i) s = .next t ∧
        ((planOf? t p).bind fun q => q.xfers[i]?).map (fun y => (y.src, y.order, y.closed)) = some (r, rs, false) ∧
        reg t p R.tpCnt 31 16 = satTo 16 (reg s p R.tpCnt 31 16 + 1) ∧ pstate t p = 2 ∧
        (partOf t p).mem = (partOf s p).mem ∧ still t) ∧
      (x.order = [] → ∃ t, exec (.transferTimeout p i) s = .next t ∧ planOf? t p = none ∧ pstate t p = 0 ∧
        reg t p R.tpCtl 31 24 = xferStatus x ∧ still t))) ∧
  (∀ (s u : State) (p k i : Nat) (r : DigestRec), p < 16 → i < 2 → (partOf s p).ptstate = 1 →
    (partOf s p).tailor.records[k]? = some r → (partOf s p).get R.tlDgint 15 0 ≠ 0 → r.slot = some i →
    wstate (partOf s p) i = Ws.active →
    let rd := devRead s p r.addr 64
    nfld (leAt rd.1 0x3C 1) 0 0 = 1 →
    readyAll fetchNow rd.2 p ((List.range (leAt rd.1 0x34 4)).map fun t => (r.tile + t) / 16).eraseDups = some u →
    let same := decide (tilesDigest (partOf u p) r.tile (List.range (leAt rd.1 0x34 4)) = BitVec.ofNat 384 (le (slice rd.1 0 48)))
    ∃ t, exec (.digestScrub p k) s = .next t ∧
      reg t p (R.wsStat i) 23 23 = (if same then reg s p (R.wsStat i) 23 23 else 1) ∧
      reg t p R.errEvents 7 7 = (if same then reg s p R.errEvents 7 7 else 1) ∧
      elsewhere s t p ∧ sameCores s t ∧ t.clusters = s.clusters)

/-! ### Seams, scale records and the Pocket -/

/-- Seams (R427-R429, Table 11-12): a due SEAM sets `STEP` to the commanded value or the next one; a request
(SREQ) is pending at least 10 µs after the last seam, and joins one that is pending; a pulse (SEAM_IN_PULSE) that moves and
joins no seam is counted, one within the window of a following partition's planned seam moves it; a window that closes
without a pulse (SEAM_WINDOW_EXPIRY) takes the planned seam unlocked.
SCALE_RECORD_CLOSE (R127-R130): once no DMA of the oldest step to be closed is in flight, the records of its list are
closed; a list of one record in a store leaves exactly its 64 bytes as R129 gives them, an empty list changes nothing but the
closes to do. -/
def Obligations.SeamsAndScaleRecords : Prop :=
  ((∀ (s : State) (p : Nat), p < 16 → (partOf s p).ptstate = 1 →
    let q := (partOf s p).seam
    let next := fun t : State =>
      reg t p R.tlStep 31 0 = (match (partOf s p).tailor.sset with
        | some v => v.toNat
        | none => (reg s p R.tlStep 31 0 + 1) % 2 ^ 32) ∧
      (partOf t p).tailor.sset = none ∧ (partOf t p).seam.last = some (q.pending.getD (ioaNow s)) ∧
      (partOf t p).seam.pending = none ∧ (∀ r, r ≠ p → (partOf t r).seam = (partOf s r).seam)
    (seamDue s p = true → ∃ t, exec (.seam p) s = .next t ∧ next t) ∧
    (seamFollows s p = true → q.byPulse = none → ∃ t, exec (.seamWindowExpiry p) s = .next t ∧ next t ∧
      (partOf t p).seam.locked = false) ∧
    (∃ t, exec (.sreq p) s = .next t ∧
      partOf t p = { partOf s p with seam := { q with pending := some (match q.pending, q.last with
        | some d, _ => d
        | none, some l => max (ioaNow s) (l + 10000)
        | none, none => ioaNow s) } } ∧ t = { s with parts := t.parts } ∧ ∀ r, r ≠ p → partOf t r = partOf s r)) ∧
  (∀ (s : State) (now : Nat),
    ((∀ p, p < 16 → seamFollows s p = false) → ∃ t, exec (.seamInPulse now) s = .next t ∧
      mreg t M.pwSeam 63 32 = satTo 32 (mreg s M.pwSeam 63 32 + 1) ∧ t.parts = s.parts ∧ t.stores = s.stores ∧
      t.out = s.out) ∧
    (∀ p pl, p < 16 → (partOf s p).ptstate = 1 → seamFollows s p = true → (partOf s p).seam.pending = none →
      (partOf s p).seam.planned = some pl → pl ≤ now + 25000 → now ≤ pl + 25000 → ∃ t, exec (.seamInPulse now) s = .next t ∧
      (partOf t p).seam = { (partOf s p).seam with
        pending := some (seamSpaced (partOf s p).seam (now + 2000)), byPulse := some now } ∧
      t.mregs = s.mregs ∧ t.stores = s.stores ∧ t.cores = s.cores ∧ t.out = s.out))) ∧
  (∀ (s : State) (p a n : Nat) (w : Word) (rest : List (Nat × Word)), p < 16 →
    (partOf s p).seam.closing = (n, w) :: rest → seamDmasLeft s p n = false →
    (listCount w = 0 → ∃ t, exec (.scaleRecordClose p) s = .next t ∧
      partOf t p = { partOf s p with seam := { (partOf s p).seam with closing := rest } } ∧ t = { s with parts := t.parts }) ∧
    (listCount w = 1 → devReadLE s p (listEntry w 0) 8 = (a, s) → a % 64 = 0 → pvKind (partOf s p) a = .store →
      ∃ t, exec (.scaleRecordClose p) s = .next t ∧ (partOf t p).seam.closing = rest ∧
      mread t.stores a 64 = (closedRecord (mread s.stores a 64)).1 ∧
      (∀ b, b < a ∨ a + 64 ≤ b → mget t.stores b = mget s.stores b) ∧ (partOf t p).mem = (partOf s p).mem ∧
      sameCores s t ∧ t.clusters = s.clusters))

/-- Stashes and fetches (R287-R291, Table 12-6), with ring and table in stores: an accepted STASH takes the next stash count
and is queued with its entry STASHING; a FETCH of an AWAY entry is queued with its entry FETCHING; BACK queues every AWAY
entry of its layers; a stash whose every unit succeeded leaves its entry AWAY and its bolts dropped (STASH_COMPLETE), a fetch
its entry IN (FETCH_COMPLETE).
Gathered regions (R288, R292, Table 12-6), with ring and table in stores: KEEP keeps a CLAIMED entry, CLAIM takes a KEPT
or DROPPED one, DROP and WATERMARK_DROP leave it DROPPED with every bolt that no grant pins dropped. -/
def Obligations.PocketRegionsMove : Prop :=
  (∀ (s : State) (p i a : Nat), p < 16 →
    let x := partOf s p
    let e := pkEntry s p i
    let queued := fun (t : State) (j : Nat) (f : Bool) => ∃ o ∈ (partOf t p).pocket.waiting ++ (partOf t p).pocket.running, o.idx = j ∧ o.fetch = f
    let inStores := pkRing x + 64 ≤ boltBase ∧ pvKind x e.addr = .store ∧
      (e.addr + 64 ≤ pkRing x ∨ pkRing x + 64 ≤ e.addr ∧ a + 16 ≤ e.addr) ∧ pkRing x + 64 ≤ a ∧ a + 16 ≤ boltBase
    (i < reg s p R.pkTcnt 12 0 → e.clean = true → e.kind = 1 →
      (pkRecord s p = some (a, 1, i) → stashOk s p e = true → x.pocket.sctr < 2 ^ 48 - 1 → e.estate = Pk.inn → inStores →
        ∃ t, exec (.stash p) s = .next t ∧ (partOf t p).pocket.sctr = x.pocket.sctr + 1 ∧ queued t i false ∧
        (pkEntry t p i).estate = Pk.stashing ∧ (pkEntry t p i).sctr = x.pocket.sctr + 1 ∧ sameCores s t) ∧
      (pkRecord s p = some (a, 2, i) → e.estate = Pk.away → inStores →
        ∃ t, exec (.fetch p) s = .next t ∧ queued t i true ∧ (pkEntry t p i).estate = Pk.fetching ∧ sameCores s t)) ∧
    (pkRecord s p = some (a, 3, i) → a + 16 ≤ boltBase → ∃ t, exec (.back p) s = .next t ∧ sameCores s t ∧
      ∀ j, j < reg s p R.pkTcnt 12 0 → (pkEntry s p j).clean = true → (pkEntry s p j).kind = 1 →
        (pkEntry s p j).estate = Pk.away → i - reg s p R.pkCtl 7 4 ≤ (pkEntry s p j).layer → (pkEntry s p j).layer ≤ i →
        queued t j true) ∧
    (∀ o, pkOp s p i = some o → o.out = 0 → o.fails = [] → unitCount x e ≤ o.next → e.semen = false →
      x.pocket.waiting = [] → pvKind x e.addr = .store →
      (o.fetch = false → (∀ b ∈ e.bolts x, (x.bolt b).stalled = []) → ∃ t, exec (.stashComplete p i) s = .next t ∧ (pkEntry t p i).estate = Pk.away ∧
        (∀ b ∈ e.bolts x, (x.bolt b).gpins = 0 → ((partOf t p).bolt b).st = .zero) ∧
        (partOf t p).pocket.running = x.pocket.running.filter (fun r => r.idx != i) ∧ sameCores s t) ∧
      (o.fetch = true → ∃ t, exec (.fetchComplete p i) s = .next t ∧ (pkEntry t p i).estate = Pk.inn ∧
        (partOf t p).pocket.running = x.pocket.running.filter (fun r => r.idx != i) ∧ (partOf t p).mem = x.mem ∧
        sameCores s t))) ∧
  (∀ (s : State) (p i a : Nat), p < 16 →
    let x := partOf s p
    let e := pkEntry s p i
    let inStores := pkRing x + 64 ≤ boltBase ∧ pvKind x e.addr = .store ∧
      (e.addr + 64 ≤ pkRing x ∨ pkRing x + 64 ≤ e.addr ∧ a + 16 ≤ e.addr) ∧ pkRing x + 64 ≤ a ∧ a + 16 ≤ boltBase
    let is := fun (t : State) (v : Nat) => (pkEntry t p i).estate = v ∧ sameCores s t ∧ t.clusters = s.clusters
    let dropped := fun t : State => i ∉ (partOf t p).pocket.kept ∧
      ∀ b ∈ e.bolts x, (x.bolt b).gpins = 0 → ((partOf t p).bolt b).st = .zero
    (i < reg s p R.pkTcnt 12 0 → e.clean = true → e.kind = 2 → inStores →
      (pkRecord s p = some (a, 4, i) → e.estate = Pk.kept ∨ e.estate = Pk.dropped → ∃ t, exec (.claim p) s = .next t ∧
        is t Pk.claimed ∧ i ∉ (partOf t p).pocket.kept ∧ (partOf t p).mem = x.mem) ∧
      (pkRecord s p = some (a, 5, i) → e.estate = Pk.claimed → ∃ t, exec (.keep p) s = .next t ∧ is t Pk.kept ∧
        i ∈ (partOf t p).pocket.kept ∧ (partOf t p).mem = x.mem ∧ (partOf t p).bolts = x.bolts) ∧
      (pkRecord s p = some (a, 6, i) → (∀ b ∈ e.bolts x, (x.bolt b).stalled = []) → ∃ t, exec (.drop p) s = .next t ∧ is t Pk.dropped ∧ dropped t)) ∧
    (watermarkPick s p = some i → x.ptstate = 1 → freeFrames x < x.get R.pkGwm 31 0 ∨ freeFrames x < freeLow x →
      pvKind x e.addr = .store → (∀ b ∈ e.bolts x, (x.bolt b).stalled = []) → ∃ t, exec (.watermarkDrop p) s = .next t ∧ is t Pk.dropped ∧ dropped t ∧
      reg t p R.pkStat 31 16 = satTo 16 (reg s p R.pkStat 31 16 + 1)))

/-! ### The Ringmaster -/

/-- The instance and its ring (R300, R303-R305): RM_ENABLE starts it with an empty queue and table where the checks pass, and
leaves `RSTAT` NOT_RUN where they do not; RM_DISABLE loses both; an accepted REQUEST_SUBMIT joins the end of the queue, a
REQUEST_CANCEL takes its request from the queue and marks its running sequences.
Step records (R301, R307): STEP_RECORD_PUBLISH writes the record where `SREC` says, here a store, and leaves nothing due;
by STEP_RECORD_RECEIVE a follower keeps the pieces of a record by its OPSEQ, and a whole one whose generations it knows becomes
its record. -/
def Obligations.RingmasterRunsItsInstance : Prop :=
  (∀ (s : State) (p a : Nat) (v : Word), p < 16 → (partOf s p).ptstate = 1 →
    let x := partOf s p
    let still := fun t : State => sameCores s t ∧ t.clusters = s.clusters ∧ elsewhere s t p
    let s1 := onPart s p fun y => y.setReg R.rmCtl (setFld ((bar0Reg R.rmCtl).write v (x.reg R.rmCtl)) 0 0 1)
    (x.get R.rmCtl 0 0 = 0 → rmChecks s1 p = true → ∃ t, exec (.rmEnable p v) s = .next t ∧ reg t p R.rmCtl 0 0 = 1 ∧
      reg t p R.rmStat 31 24 = Status.ok ∧ (partOf t p).ring.on = true ∧ (partOf t p).ring.queue = [] ∧
      (partOf t p).ring.seqs = [] ∧ (partOf t p).mem = x.mem ∧ t.stores = s.stores ∧ still t) ∧
    (x.get R.rmCtl 0 0 = 0 → rmChecks s1 p = false → ∃ t, exec (.rmEnable p v) s = .next t ∧ reg t p R.rmCtl 0 0 = 1 ∧
      reg t p R.rmStat 31 24 = Status.notRun ∧ (partOf t p).ring = x.ring ∧ t.stores = s.stores ∧ still t) ∧
    (∃ t, exec (.rmDisable p) s = .next t ∧ reg t p R.rmCtl 0 0 = 0 ∧ (partOf t p).ring.on = false ∧
      (partOf t p).ring.queue = [] ∧ (partOf t p).ring.seqs = [] ∧ (partOf t p).ring.batches = x.ring.batches ∧
      t.stores = s.stores ∧ still t) ∧
    (rmRecord s p = some a → (devReadLE s p (a + 6) 1).1 = 1 → submitOk s p (devRead s p a 128).1 = true →
      ∃ t, exec (.requestSubmit p) s = .next t ∧ (partOf t p).ring.queue = x.ring.queue ++
        [{ reqOf (devRead s p a 128).1 with clock := rmNow s, order := x.ring.tick }] ∧
      (partOf t p).ring.tick = x.ring.tick + 1 ∧ (partOf t p).ring.seqs = x.ring.seqs ∧ still t) ∧
    (rmRecord s p = some a → (devReadLE s p (a + 6) 1).1 = 2 →
      let id : BitVec 32 := BitVec.ofNat 32 (devReadLE s p a 4).1
      reqAlive x.ring id = true → ∃ t, exec (.requestCancel p) s = .next t ∧
      (partOf t p).ring.queue = x.ring.queue.filter (fun q => q.reqid != id) ∧
      (partOf t p).ring.seqs = x.ring.seqs.map (fun e => if e.2.req.reqid = id then (e.1, { e.2 with cancel := true }) else e) ∧
      still t)) ∧
  ((∀ (s : State) (p : Nat) (n : BitVec 32), p < 16 → (partOf s p).ptstate = 1 → (partOf s p).ring.on = true →
    (partOf s p).ring.publish = true → (partOf s p).ring.curStep = some n →
    let bs := recordBytes n (partOf s p).ring.cur
    let a := Rm.srec (partOf s p)
    pvKind (partOf s p) a = .store → bs.length ≤ 4096 → ∃ t, exec (.stepRecordPublish p) s = .next t ∧
    (partOf t p).ring = { (partOf s p).ring with publish := false } ∧ mread t.stores a bs.length = bs ∧
    (∀ b, b < a ∨ a + bs.length ≤ b → mget t.stores b = mget s.stores b) ∧ (partOf t p).mem = (partOf s p).mem) ∧
  (∀ (s : State) (m : Msg) (p : Nat), msgOk m = true → m.enc = false → m.dst = ownId s → m.mtype = Mt.coll →
    Ca.kind m = 1 → groupFor s m = some p → planSlot (partOf s p) (Ca.gix m) = false → (partOf s p).ring.on = true →
    Rm.role (partOf s p) = 2 → Rm.gix (partOf s p) = Ca.gix m →
    let r := (partOf s p).ring
    let n := leAt m.payload 4 4 + leAt m.payload 8 4 + leAt m.payload 0x0C 4
    let es := entriesOf m.payload n
    let key := (Ca.opseq m).toNat * 2 ^ 20
    (Ca.idx m ≠ 0 → sget [] r.pieces key = [] → ∃ t, exec (.stepRecordReceive none m) s = .next t ∧
      sget [] (partOf t p).ring.pieces (key + Ca.idx m) = m.payload ∧
      (∀ i, i ≠ key + Ca.idx m → sget [] (partOf t p).ring.pieces i = sget [] r.pieces i) ∧ (partOf t p).ring.cur = r.cur ∧
      t.stores = s.stores ∧ t.cores = s.cores ∧ t.clusters = s.clusters) ∧
    (Ca.idx m = 0 → m.payload ≠ [] → 64 + 16 * n ≤ 4096 →
      (es.all fun e => (slotOfGen (partOf s p) e.gen.toNat).isSome) = true → ∃ t, exec (.stepRecordReceive none m) s = .next t ∧
      (partOf t p).ring.curStep = some (BitVec.ofNat 32 (leAt m.payload 0 4)) ∧
      (∀ i, sget [] (partOf t p).ring.pieces i = if i / 2 ^ 20 = (Ca.opseq m).toNat then [] else sget [] r.pieces i) ∧
      (partOf t p).ring.cur = es.map (fun e => { e with wsl := (slotOfGen (partOf s p) e.gen.toNat).getD 0 }))))

/-! ### Reliability -/

/-- Known-answer kernels and votes (R339-R343, Table 14-5): KNOWN_ANSWER_KERNEL starts a run on a free slice core, which
KERNEL_COMPLETE frees; a digest other than the golden one opens a vote; a vote whose recomputes are in
(VOTE_RECOMPUTE_COMPLETE) is over, a kernel whose recomputes both agree with the original is disabled, recomputes that agree
against it charge the original core; a vote without recompute cores ends NONE (VOTE_NONE_TIMEOUT). -/
def Obligations.KernelsAndVotes : Prop :=
  (∀ (s : State) (g k : Nat), g < 10240 → k < 24 →
    let only := fun t : State => t.cores = s.cores ∧ t.clusters = s.clusters ∧ t.stores = s.stores
    (serving s = true → inSlice s g = true → sget 0 s.rel.kernels g = 0 → s.rel.badKern.contains k = false →
      s.rel.kernels.length < mreg s M.hrCfg 9 0 → ∃ t, exec (.knownAnswerKernel g k) s = .next t ∧
      sget 0 t.rel.kernels g = k + 1 ∧ (∀ h, h ≠ g → sget 0 t.rel.kernels h = sget 0 s.rel.kernels h) ∧
      t = { s with rel := t.rel } ∧ t.rel.votes = s.rel.votes) ∧
    (∀ d, sget 0 s.rel.kernels g = k + 1 → (∀ p, unitPart s 1 g = some p → votesOf s p < 4) → ∃ t, exec (.kernelComplete g d) s = .next t ∧
      sget 0 t.rel.kernels g = 0 ∧ (d = Config.goldenDigest k → t.rel.votes = s.rel.votes) ∧
      (d ≠ Config.goldenDigest k → ∃ v, t.rel.votes = s.rel.votes ++ [v] ∧ v.vid = s.rel.nextVid ∧ v.core = g ∧
        v.kernel = some k ∧ v.orig = .digest d ∧ t.rel.nextVid = s.rel.nextVid + 1) ∧ t.parts = s.parts ∧ t.out = s.out ∧ only t)) ∧
  (∀ (s : State) (v : Vote) (vid : BitVec 32) (r1 r2 : Recompute) (g1 g2 : Nat), g1 < 10240 → g2 < 10240 → voteOf s vid = some v →
    let count := fun (t : State) (cls g : Nat) => (sget UnitCount.zero t.rel.counts (unitKey cls 1 g)).cnt.toNat
    let a := agree v.tol (withP0 v r1) v.orig
    let b := agree v.tol (withP0 v r2) v.orig
    let c := agree v.tol (withP0 v r1) (withP0 v r2)
    (mayVote s v g1 g2 = true → a = true → b = true → ∃ t, exec (.voteRecomputeComplete vid r1 r2 g1 g2) s = .next t ∧
      voteOf t vid = none ∧ (∀ k, v.kernel = some k → k ∈ t.rel.badKern) ∧
      (v.kernel = none → count t 0x11 v.core = satTo 32 (count s 0x11 v.core + 1)) ∧ t.cores = s.cores ∧ t.stores = s.stores) ∧
    (mayVote s v g1 g2 = true → (a && b) = false → c = true → ∃ t, exec (.voteRecomputeComplete vid r1 r2 g1 g2) s = .next t ∧
      voteOf t vid = none ∧ count t 0x12 v.core = satTo 32 (count s 0x12 v.core + 1) ∧ t.rel.badKern = s.rel.badKern ∧
      t.cores = s.cores ∧ t.stores = s.stores) ∧
    (mayVote s v g1 g2 = true → a = false → b = false → c = false → v.part < 16 → (partOf s v.part).ptstate = 1 → s.rel.dph = 0 →
      ∃ t, exec (.voteRecomputeComplete vid r1 r2 g1 g2) s = .next t ∧ voteOf t vid = none ∧ (partOf t v.part).ptstate = 5) ∧
    (∃ t, exec (.voteNoneTimeout vid) s = .next t ∧ voteOf t vid = none ∧
      count t 0x14 v.core = satTo 32 (count s 0x14 v.core + 1) ∧ t.cores = s.cores ∧ t.clusters = s.clusters ∧ t.stores = s.stores))

/-- Watchdogs and restarts (R348-R351, Table 14-9): ENGINE_WATCHDOG resets its engine, a path unit's DMAs end
TIMEOUT and a sequencer's operations fail; ENGINE_RESET_COMPLETE takes the engine back; ENGINE_RESET_HANG resets its partition,
or the device where it has none; HEARTBEAT_MISS of a role that serves the partition restarts it, a second one within 20 ms
resets the partition; FAULT_AGENT_WATCHDOG resets the device; MANAGEMENT_AGENT_RESTART changes nothing here (log 35). -/
def Obligations.WatchdogsRestartUnits : Prop :=
  ∀ s : State,
    let takes := s.pwr.pgood = true ∧ s.pwr.onReset = false ∧ s.pwr.faultN = true ∧ s.rel.dph = 0
    (∀ e, engineOk e = true →
      (firmwareUp s = true → s.rel.engResets.contains e = false → ∃ t, exec (.engineWatchdog e) s = .next t ∧ e ∈ t.rel.engResets ∧
        (e.kind = 0 → ∀ g ∈ coresOf (engineCluster e), ∀ d ∈ (coreOf t g).dmas, d.finished = true ∧ Status.timeout ∈ d.status) ∧
        (e.kind = 1 → ∀ m ∈ (coreOf t (2560 * e.die + e.inst)).mops, m.failed = true) ∧
        (∀ g, sameRegisters (coreOf s g) (coreOf t g)) ∧ (e.kind ≠ 5 → t.stores = s.stores)) ∧
      (s.rel.engResets.contains e = true → ∃ t, exec (.engineResetComplete e) s = .next t ∧ e ∉ t.rel.engResets ∧
        t.cores = s.cores ∧ t.parts = s.parts ∧ t.stores = s.stores) ∧
      (∀ p, s.rel.engResets.contains e = true → enginePart s e = some p → (partOf s p).ptstate = 1 → s.rel.dph = 0 →
        ∃ t, exec (.engineResetHang e) s = .next t ∧ (partOf t p).ptstate = 5 ∧ (partOf t p).rcount = true) ∧
      (s.rel.engResets.contains e = true → enginePart s e = none → takes →
        ∃ t, exec (.engineResetHang e) s = .next t ∧ t.rel.dph = 1 ∧ t.rel.dcount = true)) ∧
    (∀ p role, p < 16 → role < 16 → (partOf s p).ptstate = 1 → firmwareUp s = true → servesPart s p role = true →
      let again := s.rel.fwSilent.any fun e => e.1 == p && e.2.1 == role && decide (ioaNow s ≤ e.2.2 + 20000000)
      (again = false → ∃ t, exec (.heartbeatMiss p role) s = .next t ∧ roleEngine role ∈ t.rel.engResets ∧
        reg t p R.errEvents 16 16 = 1 ∧ (p, role, ioaNow s) ∈ t.rel.fwSilent ∧ (partOf t p).ptstate = 1 ∧ t.stores = s.stores) ∧
      (again = true → ∃ t, exec (.heartbeatMiss p role) s = .next t ∧ (partOf t p).ptstate = 5 ∧ (partOf t p).rcount = true)) ∧
    (firmwareUp s = true → takes → ∃ t, exec .faultAgentWatchdog s = .next t ∧ t.rel.dph = 1 ∧ t.rel.dcount = true) ∧
    exec .managementAgentRestart s = .next s

/-- Partition resets (R245, R350, R352, R354, R355, Table 14-9): PRESET or a tear-down past its limit
(TEARDOWN_LIMIT_EXCEEDED) puts a LIVE partition into RESETTING; PARTITION_RESET_COMPLETE of a reset that is not counted leaves
it LIVE and empty, its keys new, the stores of its panels zero and every other store byte as it was; PARTITION_RESET_HANG resets
the device. -/
def Obligations.PartitionResetsRun : Prop :=
  ∀ (s : State) (p : Nat), p < 16 →
    ((partOf s p).ptstate = 1 → firmwareUp s = true → ∃ t, exec (.preset p) s = .next t ∧ (partOf t p).ptstate = 5 ∧
      (partOf t p).rcount = false ∧ p ∈ t.rel.rcmd ∧ (partOf t p).panels = (partOf s p).panels) ∧
    (∀ c, c < 64 → cstate s p c = Cs.teardown → (partOf s p).ptstate = 1 → s.rel.dph = 0 →
      ∃ t, exec (.teardownLimitExceeded p c) s = .next t ∧ (partOf t p).ptstate = 5 ∧ (partOf t p).rcount = true ∧
      cstate t p c = Cs.ended) ∧
    ((partOf s p).ptstate = 5 → s.rel.dph = 0 → (partOf s p).dying = false → (partOf s p).rcount = false →
      ∃ t, exec (.partitionResetComplete p) s = .next t ∧ (partOf t p).ptstate = 1 ∧ (partOf t p).mem = [] ∧
      (partOf t p).bolts = [] ∧ (partOf t p).jkeys = [] ∧ (partOf t p).keyed = true ∧ p ∉ t.rel.rcmd ∧
      (∀ b, mget t.stores b = if bit ((partOf s p).panels &&& ~~~ s.rel.fencedPanels) (panelOfCluster (storeCluster b)) then 0
        else mget s.stores b) ∧ (∀ q, q ≠ p → (partOf t q).mem = (partOf s q).mem) ∧ t.cores = s.cores) ∧
    ((partOf s p).ptstate = 5 → s.pwr.pgood = true → s.pwr.onReset = false → s.pwr.faultN = true → s.rel.dph = 0 →
      ∃ t, exec (.partitionResetHang p) s = .next t ∧ t.rel.dph = 1 ∧ t.rel.dcount = true)

/-- Device resets (R350, R353, R355, R356, R422): DRESET, RETURN (returnToService) and `RESET_N` held low
for 10 µs (RESET_N_ASSERT) start one, with the key vault zeroised; DEVICE_RESET_COMPLETE leaves every store empty, and either
firmware or the boot hold; DEVICE_RESET_HANG latches `FAULT_N`; RESET_HISTORY_AGE_OUT takes what ages out from the history;
RESET_N_RELEASE changes that pin only. -/
def Obligations.DeviceResetsRun : Prop :=
  ∀ s : State,
    let takes := s.pwr.pgood = true ∧ s.pwr.onReset = false ∧ s.pwr.faultN = true ∧ s.rel.dph = 0
    let zeroised := fun t : State => t.sec.idKey = none ∧ ∀ p, p < 16 → (partOf t p).keyed = false ∧ (partOf t p).jkeys = []
    (firmwareUp s = true → s.rel.oos = false → takes → ∃ t, exec .dreset s = .next t ∧ t.rel.dph = 1 ∧ t.rel.dcount = false ∧
      zeroised t) ∧
    (firmwareUp s = true → s.rel.oos = true → exec .dreset s = .next (putMreg s M.rsStat 63 56 Status.busy)) ∧
    (firmwareUp s = true → takes → ∃ t, exec .returnToService s = .next t ∧ t.rel.dph = 1 ∧ t.rel.oos = false ∧
      t.rel.drcnt = 0 ∧ t.rel.prcnt = 0 ∧ zeroised t) ∧
    (∀ ns, 10000 ≤ ns → takes → ∃ t, exec (.resetNAssert ns) s = .next t ∧ t.rel.dph = 1 ∧ t.rel.dcount = false ∧
      t.pwr.resetN = false ∧ zeroised t) ∧
    exec .resetNRelease s = .next { s with pwr := { s.pwr with resetN := true } } ∧
    (s.rel.dph ≠ 0 → s.pwr.resetN = true → s.pwr.faultN = true → ∃ t, exec .deviceResetComplete s = .next t ∧
      t.stores = [] ∧ t.cores = [] ∧
      (t.rel.dph = 0 ∧ t.sec.bstat = 1 ∨ t.rel.dph = 2 ∧ t.pwr.faultN = false ∧ (t.sec.bstat = 2 ∨ t.sec.bstat = 3))) ∧
    (s.rel.dph ≠ 0 → s.pwr.faultN = true → ∃ t, exec .deviceResetHang s = .next t ∧ t.pwr.faultN = false ∧ t.pwr.fcause = 2 ∧
      t.out = s.out ++ [.ibi] ∧ t.stores = s.stores ∧ t.parts = s.parts) ∧
    (∃ t, exec (.resetHistoryAgeOut true) s = .next t ∧ t.rel = { s.rel with drcnt := s.rel.drcnt - 1 } ∧ t.parts = s.parts) ∧
    (∃ t, exec (.resetHistoryAgeOut false) s = .next t ∧ t.rel = { s.rel with prcnt := s.rel.prcnt - 1 } ∧ t.parts = s.parts)

/-- Fences, probation and health (R333, R344-R346, Table 14-8): FENCE and UNFENCE of a unit that the table names leave it
fenced or not and end OK, of another they end NOT_RUN; PANEL_RELEASE releases a panel whose fence is lifted with its stores
zero; PSET and PCLR set probation; PERIODIC forgets what changed; by WWIN_BUCKET_ROLL every window moves by a bucket and no
count changes. -/
def Obligations.FencesProbationAndHealth : Prop :=
  ∀ s : State,
    (∀ ut idx, ut < 16 → idx < 65536 → serving s = true →
      (fenceable ut idx = true → (∃ t, exec (.fence ut idx) s = .next t ∧ isFenced t ut idx = true ∧ mreg t M.fnStat 15 8 = Status.ok ∧
          ∀ u i, (u, i) ≠ (ut, idx) → fenceable u i = true → isFenced t u i = isFenced s u i) ∧
        (∃ t, exec (.unfence ut idx) s = .next t ∧ isFenced t ut idx = false ∧ mreg t M.fnStat 15 8 = Status.ok ∧
          t.cores = s.cores ∧ t.parts = s.parts ∧ t.stores = s.stores ∧
          ∀ u i, (u, i) ≠ (ut, idx) → fenceable u i = true → isFenced t u i = isFenced s u i)) ∧
      (fenceable ut idx = false → exec (.fence ut idx) s = .next (putMreg s M.fnStat 15 8 Status.notRun) ∧
        exec (.unfence ut idx) s = .next (putMreg s M.fnStat 15 8 Status.notRun))) ∧
    (∀ q, q < 16 → bit s.rel.lifting q = true → ∃ t, exec (.panelRelease q) s = .next t ∧ bit t.rel.fencedPanels q = false ∧
      bit t.rel.lifting q = false ∧
      (∀ b, mget t.stores b = if panelOfCluster (storeCluster b) = q then 0 else mget s.stores b) ∧
      t.cores = s.cores ∧ t.out = s.out) ∧
    (serving s = true → (∃ t, exec .pset s = .next t ∧ t.rel.prob = true ∧ t.parts = s.parts ∧ t.stores = s.stores) ∧
      (∃ t, exec .pclr s = .next t ∧ t.rel.prob = false ∧ t.parts = s.parts ∧ t.stores = s.stores)) ∧
    (firmwareUp s = true → ∃ t, exec .periodic s = .next t ∧ t.rel.changed = [] ∧ t.rel.counts = s.rel.counts ∧
      t.parts = s.parts ∧ t.stores = s.stores) ∧
    (∃ t, exec .wwinBucketRoll s = .next t ∧ t.rel.counts = s.rel.counts.map (fun e => (e.1, e.2.roll)) ∧
      (∀ k, (sget UnitCount.zero t.rel.counts k).cnt = (sget UnitCount.zero s.rel.counts k).cnt) ∧ t = { s with rel := t.rel })

/-- Booting and self-test (R357-R362, R365, R370): POWER_ON_BOOT leaves the hold of power-on, with the boot hold's code
and `FAULT_N` low where the image cannot be trusted; RUN is BUSY while partitions exist, and NOT_RUN DONE without a good
reference clock; a run that ends (BIST_COMPLETE, BIST_CONDITION_LOST) is DONE with its result; SECURITY_COUNTER_BUMP raises the
image counter of a verified image that asks for it, once. -/
def Obligations.BootAndSelfTest : Prop :=
  ∀ s : State,
    (s.pwr.pgood = true → s.pwr.resetN = true → s.pwr.onReset = true → ∃ t, exec .powerOnBoot s = .next t ∧ t.pwr.onReset = false ∧
      (Config.otpIntact = false → t.sec.bstat = 3 ∧ t.pwr.faultN = false ∧ t.pwr.fcause = 1) ∧
      (Config.otpIntact = true → copyFound s true = none → t.sec.bstat = 2 ∧ t.pwr.faultN = false ∧ t.pwr.fcause = 1)) ∧
    (firmwareUp s = true → s.rel.bst = 0 → (s.parts.any fun e => e.2.ptstate != 0) = true →
      exec .run s = .next (putMreg s M.biStat 15 8 Status.busy)) ∧
    (firmwareUp s = true → s.rel.bst = 0 → (s.parts.any fun e => e.2.ptstate != 0) = false → ∃ t, exec .run s = .next t ∧
      mreg t M.biStat 15 8 = Status.ok ∧ (t.rel.bst = 1 ∧ t.sec.idKey = none ∨ t.rel.bst = 2 ∧ t.rel.bres = 2) ∧
      (s.pwr.refok = false → t.rel.bst = 2) ∧ t.stores = s.stores) ∧
    (∀ o, s.rel.bst = 1 → s.sec.bstat ≠ 0 → ∃ t, exec (.bistComplete o) s = .next t ∧ t.rel.bst = 2 ∧ t.rel.bres = bistResult s o ∧
      t.sec.idKey = identityNow s ∧ t.stores = s.stores ∧ t.parts = s.parts) ∧
    (∀ w, s.rel.bst = 1 → s.sec.bstat ≠ 0 → ∃ t, exec (.bistConditionLost w) s = .next t ∧ t.rel.bst = 2 ∧ t.rel.bres = 2 ∧
      t.stores = s.stores ∧ t.parts = s.parts) ∧
    (firmwareUp s = true → s.sec.powerBoot = true → ∃ t, exec .securityCounterBump s = .next t ∧ t.sec.powerBoot = false ∧
      t.sec.isvc = (if s.sec.ibump then max s.sec.isvc s.sec.isvn else s.sec.isvc) ∧
      (s.sec.ibump = false → t.sec.revokedImg = s.sec.revokedImg) ∧ t = { s with sec := t.sec })

/-! ### Security and attestation -/

/-- Job key slots (R379-R382): CREATE (jkCreate) makes a leader's key, REQUEST (jkRequest) a member's request, ERASE (jkErase)
empties a slot that nothing uses; ISSUE (jkIssue) and ACCEPT (jkAccept) end with the status of their checks and act only on OK.
No other slot of the partition changes. -/
def Obligations.JobKeySlots : Prop :=
  ∀ (s : State) (p i : Nat) (job : JobId), p < 16 → i < 64 → (partOf s p).ptstate = 1 →
    let k := (partOf s p).jkey i
    let ended := fun (t : State) (status : Nat) => reg t p R.jkCtl 31 24 = status ∧
      (∀ j, j ≠ i → (partOf t p).jkey j = (partOf s p).jkey j) ∧ elsewhere s t p ∧
      sameCores s t ∧ t.clusters = s.clusters ∧ t.sec = s.sec
    (k.st = 0 → jobHeld s job = false → ∃ t, exec (.jkCreate p i job) s = .next t ∧ ((partOf t p).jkey i).st = 2 ∧
      ((partOf t p).jkey i).job = job ∧ ((partOf t p).jkey i).leader = true ∧ (partOf t p).mem = (partOf s p).mem ∧
      t.stores = s.stores ∧ ended t Status.ok) ∧
    (k.st = 0 → s.sec.idKey ≠ none → ∃ t, exec (.jkRequest p i job) s = .next t ∧ ((partOf t p).jkey i).st = 1 ∧
      ((partOf t p).jkey i).job = job ∧ ((partOf t p).jkey i).leader = false ∧ ended t Status.ok) ∧
    (k.st = 2 → k.leader = true → s.sec.idKey ≠ none →
      let r := devRead s p (jkPair s p) 512
      let c := jkCert r.2 p
      let status := issueStatus c.2 k r.1 c.1
      ∃ t, exec (.jkIssue p i) s = .next t ∧ ended t status ∧ (partOf t p).jkey i =
        if status = Status.ok then { k with issued := k.issued ++ [(leAt r.1 8 4, leAt r.1 0xC 1)] } else k) ∧
    (k.st = 1 →
      let r := devRead s p (jkPair s p + 512) 512
      let c := jkCert r.2 p
      let o := acceptGrant c.2 p k r.1 c.1
      ∃ t, exec (.jkAccept p i) s = .next t ∧ ended t o.1 ∧ (partOf t p).jkey i =
        if o.1 = Status.ok then { JobKey.empty with st := 2, job := k.job, key := o.2 } else k) ∧
    (k.st = 0 ∨ jobInUse (partOf s p) k.job = false → ∃ t, exec (.jkErase p i) s = .next t ∧
      (partOf t p).jkey i = JobKey.empty ∧ (partOf t p).mem = (partOf s p).mem ∧ t.stores = s.stores ∧ ended t Status.ok)

/-- GLITCH (R388): the key vault is zeroised, identity key, partition and Pocket keys, job keys and IDE keys alike,
and a device reset starts that the reset history does not count, where the device can take one: with power, out of the
hold of power-on, with `FAULT_N` high and none running. -/
def Obligations.GlitchZeroisesTheVault : Prop :=
  ∀ s : State, ∃ t, exec .glitch s = .next t ∧ t.sec.idKey = none ∧ t.sec.ideMem = [] ∧ t.sec.ideIo = [] ∧
    (∀ p, p < 16 → (partOf t p).keyed = false ∧ (partOf t p).xtsKey = 0 ∧ (partOf t p).pktKey = 0 ∧ (partOf t p).jkeys = []) ∧
    (s.pwr.pgood = true → s.pwr.onReset = false → s.pwr.faultN = true → s.rel.dph = 0 →
      t.rel.dph = 1 ∧ t.rel.dcount = false ∧ t.rel.drcnt = s.rel.drcnt)

/-- KEYS and flash commands (R364, R371, R372, R389, R405, Table 15-6): ENROLL takes the first owner slot of a device
without owner; TRANSFER and UNLOCK are DENIED without a good owner signature and act with one; an accepted ERASE (erase64KiB)
or PROGRAM (program256Bytes) runs to its FLASH_COMMAND_COMPLETE, which leaves erased bytes 0xFF (log 32) or the buffer's bytes,
and every other byte of the flash as it was. -/
def Obligations.KeysAndFlash : Prop :=
  (∀ (s : State), serving s = true →
    let payload := mread s.sec.kybuf 0 97
    let signed := fun code : Nat => ownerSigned s code payload (mread s.sec.kybuf 97 96)
    let kstat := fun t : State => mreg t M.paStat 31 24
    (ownerIx s = none → ∃ t, exec (.enroll 97) s = .next t ∧ kstat t = Status.ok ∧ ownerIx t = some 0 ∧
      ownerDigest t = Config.sha384 payload ∧ t.sec.jtag = s.sec.jtag ∧ t.parts = s.parts ∧ t.stores = s.stores) ∧
    (∀ n, ownerIx s ≠ none → n ≤ 416 → ∃ t, exec (.enroll n) s = .next t ∧ kstat t = Status.denied ∧ t.sec = s.sec ∧
      t.parts = s.parts) ∧
    (∀ i, ownerIx s = some i → i ≠ 3 → anyPartition s = false → ∃ t, exec (.transfer 97) s = .next t ∧
      (signed 2 = false → kstat t = Status.denied ∧ t.sec.owners = s.sec.owners) ∧
      (signed 2 = true → kstat t = Status.ok ∧ ownerIx t = some (i + 1) ∧ ownerDigest t = Config.sha384 payload ∧
        (sget OwnerSlot.blank t.sec.owners i).revoked = true)) ∧
    (anyPartition s = false → ∃ t, exec (.unlock 97) s = .next t ∧
      (signed 3 = false → kstat t = Status.denied ∧ t.sec.jtag = s.sec.jtag ∧ t.sec.unlocked = s.sec.unlocked) ∧
      (signed 3 = true → Config.debugSigOk payload = true → kstat t = Status.ok ∧ t.sec.jtag = min 16 (s.sec.jtag + 1) ∧
        t.sec.unlocked = true ∧ t.sec.pst = 4 ∧ t.sec.idKey = none))) ∧
  (∀ s : State,
    let a := mreg s M.flCtl 63 32
    let byte := fun (t : State) (b : Nat) => flashRead t b 1
    (serving s = true → s.sec.frun = none → a < 0x2800000 → a % 65536 = 0 →
      exec .erase64KiB s = .next { s with sec := { s.sec with frun := some (true, a, []) } }) ∧
    (serving s = true → s.sec.frun = none → a < 0x2800000 → a % 256 = 0 →
      exec .program256Bytes s = .next { s with sec := { s.sec with frun := some (false, a, mread s.sec.flbuf 0 256) } }) ∧
    (serving s = true → s.sec.frun ≠ none → exec .erase64KiB s = .next (putMreg s M.flCtl 15 8 Status.busy) ∧
      exec .program256Bytes s = .next (putMreg s M.flCtl 15 8 Status.busy)) ∧
    (∀ b bs, s.sec.frun = some (true, b, bs) → ∃ t, exec .flashCommandComplete s = .next t ∧ t.sec.frun = none ∧
      mreg t M.flCtl 15 8 = Status.ok ∧ (∀ c, b ≤ c → c < b + 65536 → byte t c = [0xFF]) ∧
      (∀ c, c < b ∨ b + 65536 ≤ c → byte t c = byte s c) ∧ t.parts = s.parts ∧ t.stores = s.stores) ∧
    (∀ b bs, s.sec.frun = some (false, b, bs) → ∃ t, exec .flashCommandComplete s = .next t ∧ t.sec.frun = none ∧
      mreg t M.flCtl 15 8 = Status.ok ∧ flashRead t b bs.length = bs ∧
      (∀ c, c < b ∨ b + bs.length ≤ c → byte t c = byte s c) ∧ t.parts = s.parts ∧ t.stores = s.stores))

/-- Reports, SPDM and IDE keys (R374-R376, R384, R389, Table 15-9; what SPDM answers is log 4): a mailbox that is up answers
HINOWEN_REPORT_OBJECT with the signed report of its device or partition, or NOT_RUN without an identity key, and an
SPDM_REQUEST; a key that a secured session brings (IDE_KM) is installed for its stream, one that none secures changes nothing. -/
def Obligations.MailboxesAnswer : Prop :=
  ∀ (s : State) (p h : Nat), p < 16 → h < 2 →
    (mailboxUp s p h = true → ∀ (nonce : List Byte) (k : BitVec 384),
      (s.sec.idKey = some k → exec (.hinowenReportObject p h 1 nonce) s = .next (emit s (.answer h Status.ok
        (reportBody s none nonce ++ slice (Config.ecdsaSign k (reportBody s none nonce)) 0 96)))) ∧
      (s.sec.idKey = some k → (partOf s p).ptstate ≠ 0 → exec (.hinowenReportObject p h 2 nonce) s = .next (emit s
        (.answer h Status.ok (reportBody s (some p) nonce ++ slice (Config.ecdsaSign k (reportBody s (some p) nonce)) 0 96)))) ∧
      (∀ kind, s.sec.idKey = none → exec (.hinowenReportObject p h kind nonce) s = .next (emit s (.answer h Status.notRun [])))) ∧
    (∀ req, mailboxUp s p h = true → exec (.spdmRequest p h req) s = .next (emit s (.answer h Status.ok (Config.spdmAnswer p h req)))) ∧
    (∀ mem key, (firmwareUp s = true → hostUp s h = true → ∃ t, exec (.ideKm h mem key true) s = .next t ∧
        sget 0 (if mem then t.sec.ideMem else t.sec.ideIo) h = key ∧
        (if mem then t.sec.ideIo = s.sec.ideIo else t.sec.ideMem = s.sec.ideMem) ∧
        (∀ j, j ≠ h → sget 0 t.sec.ideMem j = sget 0 s.sec.ideMem j ∧ sget 0 t.sec.ideIo j = sget 0 s.sec.ideIo j) ∧
        t = { s with sec := t.sec }) ∧
      exec (.ideKm h mem key false) s = .next s)

/-! ### Management and registers -/

/-- Frames on the management port for this device (R375, R409-R411, Tables 16-19, 16-20), which links while `REFOK` is set (log
138): a READ of the `PAT` block answers OK
with its words, of a block that needs a session DENIED while there is none; a WRITE into `KY_BUF` stores its bytes and
answers OK; a REPORT carries the signed report of the device; a SESSION without the owner's signature is DENIED, with it
makes the one session. -/
def Obligations.ManagementFrames : Prop :=
  ∀ (s : State) (f : MgmtFrame), firmwareUp s = true → s.pwr.refok = true → f.mdev = ownId s → f.via = none →
    let answers := fun (t : State) (op status : Nat) (data : List Byte) => ∃ tag, t.out = s.out ++
      [.mgmt (toLE 1 0x81 ++ toLE 1 op ++ toLE 1 status ++ toLE 1 0 ++ toLE 4 f.mdev.toNat ++ toLE 8 f.mseq.toNat ++
        toLE 4 f.maddr.toNat ++ toLE 4 data.length ++ zeros 8 ++ data ++ tag)]
    let a := f.maddr.toNat
    let still := fun t : State => t.parts = s.parts ∧ t.stores = s.stores ∧ t.cores = s.cores ∧ t.clusters = s.clusters
    (frameSays f 1 = true → a % 8 = 0 → f.mlen % 8 = 0 → f.mlen ≤ 1024 →
      (0x500000 ≤ a → a + f.mlen ≤ 0x600000 → a < 0x600000 → ∃ t, exec (.read f) s = .next t ∧
        answers t 1 Status.ok ((rangeWords f).flatMap fun b => toLE 8 (mgmtWord s b 0).toNat) ∧ t.sec = s.sec ∧ still t) ∧
      (a + f.mlen ≤ 0x500000 ∨ 0x600000 ≤ a → 0 < f.mlen → s.sec.sessKey = none → ∃ t, exec (.read f) s = .next t ∧
        answers t 1 Status.denied [] ∧ t.sec = s.sec ∧ still t)) ∧
    (frameSays f 2 = true → f.mdata.length = f.mlen → a % 8 = 0 → f.mlen % 8 = 0 → f.mlen ≤ 1024 → 0x400000 ≤ a →
      a + f.mlen ≤ M.kyCmd → ∃ t, exec (.write f) s = .next t ∧ answers t 2 Status.ok [] ∧
      mread t.sec.kybuf (a - M.kyBuf) f.mlen = f.mdata ∧
      (∀ b, b < a - M.kyBuf ∨ a - M.kyBuf + f.mlen ≤ b → mget t.sec.kybuf b = mget s.sec.kybuf b) ∧ still t) ∧
    (∀ k, frameSays f 3 = true → f.mlen = 40 → leAt f.mdata 0 1 = 1 → s.sec.idKey = some k → ∃ t, exec (.report f) s = .next t ∧
      answers t 3 Status.ok (reportBody s none (slice f.mdata 8 32) ++
        slice (Config.ecdsaSign k (reportBody s none (slice f.mdata 8 32))) 0 96) ∧ t.sec = s.sec ∧ still t) ∧
    (frameSays f 4 = true → f.mlen = 200 → s.sec.idKey ≠ none → ∃ t, exec (.session f) s = .next t ∧ still t ∧
      let good := ownerSigned s 4 (slice f.mdata 0 97) (slice f.mdata 97 96)
      (good = false → answers t 4 Status.denied [] ∧ t.sec.sessKey = s.sec.sessKey ∧ t.sec.sessSeq = s.sec.sessSeq) ∧
      (good = true → (∃ d, answers t 4 Status.ok d) ∧ t.sec.sessKey ≠ none ∧ t.sec.sessSeq = none))

/-- Register writes (R5, R222, R223, R231, R345, R390, R395, R404): only a whole aligned REGISTER_WRITE acts; a partition that does
not exist ignores it; a plain register of PCTL takes the word into its writable fields and no other register changes;
command registers do what their commands do. -/
def Obligations.RegisterWrites : Prop :=
  (∀ (s : State) (sp : RegSpace) (off len : Nat) (w : Word), spaceOk sp off len = true → len ≠ 8 ∨ off % 8 ≠ 0 →
    exec (.registerWrite sp off len w) s = .next s) ∧
  (∀ (s : State) (p off : Nat) (w : Word), p < 16 → off % 8 = 0 → off + 8 ≤ 0x1000000 →
    ((partOf s p).ptstate = 0 → exec (.registerWrite (.bar0 p) off 8 w) s = .next s) ∧
    ((partOf s p).ptstate = 1 → 0x1000 ≤ off → off < 0x2000 → off ≠ R.pcLattol → off ≠ R.pcSeam →
      ∃ t, exec (.registerWrite (.bar0 p) off 8 w) s = .next t ∧
      (partOf t p).reg off = (bar0Reg off).write w ((partOf s p).reg off) ∧
      (∀ b, b ≠ off → (partOf t p).reg b = (partOf s p).reg b) ∧ (partOf t p).mem = (partOf s p).mem ∧
      (∀ q, q ≠ p → partOf t q = partOf s q) ∧ t = { s with parts := t.parts })) ∧
  (∀ (s : State) (p c : Nat), p < 16 → c < 64 →
    exec (.registerWrite (.bar0 p) (0x20000 + 4096 * c) 8 1) s = exec (.start p c) s ∧
    exec (.registerWrite (.bar0 p) (0x20000 + 4096 * c) 8 5) s = exec (.contextAbort p c) s) ∧
  (∀ s : State, exec (.registerWrite .mgmt M.pmCmd 8 1) s = exec .pmCreate s ∧
    exec (.registerWrite .mgmt M.rsCmd 8 2) s = exec .dreset s ∧
    (∀ i, i < 16 → exec (.registerWrite .mgmt M.fnCmd 8 (BitVec.ofNat 64 (i * 65536 + 0x301))) s = exec (.fence 3 i) s))

/-! ### Power and pins -/

/-- The input stage (R387, R414, R415, R419-R421, R430): PWR_EN_ASSERT starts the rails where the input allows it and
holds `RESET_N`, UNDERVOLTAGE_LOCKOUT_RELEASE where `PWR_EN` is high; rails in regulation release `PGOOD` (PGOOD_RELEASE);
PWR_EN_DEASSERT, and VIN_UNDERVOLTAGE as a removal of power, leave rails off, no partition and every store empty, with owner
slots and JTAG count as they were and the latches released; VIN_OVERVOLTAGE, THERMTRIP and VIN_OUT_OF_RANGE_BEFORE_PGOOD stop
the rails until power is removed.
The power manager, the thermal outputs and the I3C target (R417, R419, R426, R432): POWER_LIMIT is shown; by
THERMAL_THRESHOLD `THERM_N` falls at 100.0 °C and rises below 97.0 °C, and a change interrupts; a target without a dynamic
address takes the one that SETDASA or ENTDAA assigns; by REFOK_WRITE the reference clock is as the board says. -/
def Obligations.PowerAndPins : Prop :=
  (∀ s : State,
    let gone := fun t : State => t.pwr.rails = 0 ∧ t.pwr.pgood = false ∧ t.parts = [] ∧ t.stores = [] ∧ t.cores = [] ∧
      t.mregs = [] ∧ t.sec.owners = s.sec.owners ∧ t.sec.jtag = s.sec.jtag ∧ t.sec.isvc = s.sec.isvc ∧ t.sec.idKey = none ∧
      (s.sec.frun = none → t.sec.flash = s.sec.flash) ∧ t.pending = s.pending
    let starts := fun t : State => t.pwr.rails = if s.pwr.blocked = false ∧ s.pwr.rails = 0 then 1 else s.pwr.rails
    (s.pwr.pwrEn = false → ∃ t, exec .pwrEnAssert s = .next t ∧ t.pwr.pwrEn = true ∧ t.pwr.resetN = false ∧
      t.pwr.onReset = true ∧ (s.pwr.vinOk = true → starts t) ∧ t = { s with pwr := t.pwr }) ∧
    (s.pwr.rails = 1 → ∃ t, exec .pgoodRelease s = .next t ∧ t.pwr = { s.pwr with rails := 2, pgood := true } ∧
      t = { s with pwr := t.pwr }) ∧
    (s.pwr.pwrEn = true → ∃ t, exec .pwrEnDeassert s = .next t ∧ gone t ∧ t.pwr.pwrEn = false ∧ t.pwr.blocked = false ∧
      t.pwr.faultN = true ∧ t.pwr.thermtripN = true) ∧
    (∃ t, exec .vinUndervoltage s = .next t ∧ gone t ∧ t.pwr.vinOk = false ∧ t.pwr.pwrEn = s.pwr.pwrEn) ∧
    (∃ t, exec .undervoltageLockoutRelease s = .next t ∧ t.pwr.vinOk = true ∧ (s.pwr.pwrEn = true → starts t) ∧
      t = { s with pwr := t.pwr }) ∧
    (s.pwr.rails ≠ 0 → ∃ t, exec .vinOvervoltage s = .next t ∧ gone t ∧ t.pwr.blocked = true ∧ t.pwr.faultN = false ∧
      t.pwr.thermtripN = s.pwr.thermtripN) ∧
    (s.pwr.rails ≠ 0 → ∃ t, exec .thermtrip s = .next t ∧ gone t ∧ t.pwr.blocked = true ∧ t.pwr.faultN = false ∧
      t.pwr.thermtripN = false) ∧
    (s.pwr.rails = 1 → ∃ t, exec .vinOutOfRangeBeforePgood s = .next t ∧ t.pwr = { s.pwr with rails := 0, blocked := true } ∧
      t = { s with pwr := t.pwr })) ∧
  (∀ s : State,
    (∀ b m, s.pwr.pgood = true → exec (.powerLimit b m) s = .next { s with pwr := { s.pwr with thr := b, fmin := m } }) ∧
    (∀ m : BitVec 16, s.pwr.pgood = true → ∃ t, exec (.thermalThreshold m) s = .next t ∧ t.pwr.tmax = m ∧
      (1000 ≤ m.toNat → t.pwr.thermN = false) ∧ (m.toNat < 970 → t.pwr.thermN = true) ∧
      (970 ≤ m.toNat → m.toNat < 1000 → t.pwr.thermN = s.pwr.thermN) ∧
      t.out = (if t.pwr.thermN = s.pwr.thermN then s.out else s.out ++ [.ibi]) ∧ t = { s with pwr := t.pwr, out := t.out }) ∧
    (∀ d, i3cUp s = true → s.pwr.i3cAddr = none →
      exec (.setdasa d) s = .next { s with pwr := { s.pwr with i3cAddr := some d } } ∧
      exec (.entdaa d) s = .next { s with pwr := { s.pwr with i3cAddr := some d } }) ∧
    (∀ d, s.pwr.i3cAddr ≠ none → exec (.setdasa d) s = .next s ∧ exec (.entdaa d) s = .next s) ∧
    (∀ b, i3cUp s = true → exec (.refokWrite b) s = .next { s with pwr := { s.pwr with refok := b } }))

end
end

