-- ==== Sys2Proof/Laws/Bits.lean ====
section
/-! SUPPORT. Laws of the bit fields: what a replaced field reads, and that other fields stay. -/

namespace Sys2Proof.Laws

open Sys2Proof.Machine

theorem nfld_lt (w hi lo : Nat) : nfld w hi lo < 2 ^ (hi + 1 - lo) := Nat.mod_lt _ (by positivity)

theorem fld_lt {n : Nat} (w : BitVec n) (hi lo : Nat) : fld w hi lo < 2 ^ (hi + 1 - lo) := nfld_lt _ _ _

theorem nfld_testBit (w hi lo i : Nat) :
    (nfld w hi lo).testBit i = (decide (i < hi + 1 - lo) && w.testBit (lo + i)) := by
  simp [nfld, Nat.testBit_mod_two_pow, Nat.testBit_shiftRight]

/-- The number with bits [hi:lo] of `w` cleared, and `v` set there, bit by bit. -/
theorem clear_set_testBit (w v lo k i : Nat) (hv : v < 2 ^ k) :
    (w - w / 2 ^ lo % 2 ^ k * 2 ^ lo + v * 2 ^ lo).testBit i =
      if lo ≤ i ∧ i < lo + k then v.testBit (i - lo) else w.testBit i := by
  have h1 : w = w % 2 ^ lo + 2 ^ lo * (w / 2 ^ lo % 2 ^ k) + 2 ^ (lo + k) * (w / 2 ^ (lo + k)) := by
    have a := Nat.mod_add_div w (2 ^ lo)
    have b := Nat.mod_add_div (w / 2 ^ lo) (2 ^ k)
    rw [Nat.div_div_eq_div_mul, ← pow_add] at b
    have : 2 ^ lo * (w / 2 ^ lo) = 2 ^ lo * (w / 2 ^ lo % 2 ^ k) + 2 ^ (lo + k) * (w / 2 ^ (lo + k)) := by
      conv_lhs => rw [← b]
      rw [mul_add, pow_add, mul_assoc]
    omega
  have h2 : w - w / 2 ^ lo % 2 ^ k * 2 ^ lo + v * 2 ^ lo =
      2 ^ (lo + k) * (w / 2 ^ (lo + k)) + (2 ^ lo * v + w % 2 ^ lo) := by
    have : w / 2 ^ lo % 2 ^ k * 2 ^ lo = 2 ^ lo * (w / 2 ^ lo % 2 ^ k) := Nat.mul_comm _ _
    have : v * 2 ^ lo = 2 ^ lo * v := Nat.mul_comm _ _
    omega
  have hl : w % 2 ^ lo < 2 ^ lo := Nat.mod_lt _ (by positivity)
  have hm : 2 ^ lo * v + w % 2 ^ lo < 2 ^ (lo + k) := by
    rw [pow_add]
    calc 2 ^ lo * v + w % 2 ^ lo < 2 ^ lo * v + 2 ^ lo := by omega
      _ = 2 ^ lo * (v + 1) := by ring
      _ ≤ 2 ^ lo * 2 ^ k := Nat.mul_le_mul_left _ hv
  rw [h2, Nat.testBit_two_pow_mul_add _ hm, Nat.testBit_two_pow_mul_add _ hl]
  by_cases c1 : i < lo
  · have : i < lo + k := by omega
    simp [c1, this, Nat.testBit_mod_two_pow, show ¬ lo ≤ i by omega]
  · by_cases c2 : i < lo + k
    · simp [c1, c2, show lo ≤ i by omega]
    · simp only [c2, if_false, and_false]
      rw [← Nat.shiftRight_eq_div_pow, Nat.testBit_shiftRight]
      congr 1; omega

/-- A replaced field, bit by bit. -/
theorem setFld_getLsbD {n : Nat} (w : BitVec n) (hi lo v i : Nat) (hl : lo ≤ hi) :
    (setFld w hi lo v).getLsbD i =
      (decide (i < n) && if lo ≤ i ∧ i ≤ hi then v.testBit (i - lo) else w.getLsbD i) := by
  have hw : hi + 1 - lo + lo = hi + 1 := by omega
  simp only [setFld, BitVec.getLsbD_ofNat, fld, nfld, Nat.shiftRight_eq_div_pow]
  congr 1
  rw [clear_set_testBit _ _ _ _ _ (Nat.mod_lt _ (by positivity))]
  by_cases c : lo ≤ i ∧ i ≤ hi
  · rw [if_pos (by omega), if_pos c, Nat.testBit_mod_two_pow]
    simp [show i - lo < hi + 1 - lo by omega]
  · rw [if_neg (by omega), if_neg c]; rfl

theorem fld_testBit {n : Nat} (w : BitVec n) (hi lo i : Nat) :
    (fld w hi lo).testBit i = (decide (i < hi + 1 - lo) && w.getLsbD (lo + i)) := by
  simp [fld, nfld_testBit, BitVec.getLsbD]

/-- A replaced field reads as written. -/
theorem fld_setFld {n : Nat} (w : BitVec n) (hi lo v : Nat) (hl : lo ≤ hi) (hn : hi < n) :
    fld (setFld w hi lo v) hi lo = v % 2 ^ (hi + 1 - lo) := by
  apply Nat.eq_of_testBit_eq
  intro i
  rw [fld_testBit, Nat.testBit_mod_two_pow, setFld_getLsbD _ _ _ _ _ hl]
  by_cases c : i < hi + 1 - lo
  · simp [c, show lo + i < n by omega, show lo + i ≤ hi by omega]
  · simp [c]

/-- A field apart from the replaced one stays. -/
theorem fld_setFld_ne {n : Nat} (w : BitVec n) (hi lo v a b : Nat) (hl : lo ≤ hi)
    (hd : a < lo ∨ hi < b) : fld (setFld w hi lo v) a b = fld w a b := by
  apply Nat.eq_of_testBit_eq
  intro i
  rw [fld_testBit, fld_testBit, setFld_getLsbD _ _ _ _ _ hl]
  by_cases c : i < a + 1 - b
  · rw [if_neg (by omega)]
    by_cases c2 : b + i < n
    · simp [c2]
    · simp [c2, BitVec.getLsbD_of_ge w (b + i) (by omega)]
  · simp [c]

/-- A bit apart from the replaced field stays. -/
theorem bit_setFld_ne {n : Nat} (w : BitVec n) (hi lo v i : Nat) (hl : lo ≤ hi)
    (hd : i < lo ∨ hi < i) : bit (setFld w hi lo v) i = bit w i := by
  simp only [bit]
  rw [setFld_getLsbD _ _ _ _ _ hl, if_neg (by omega)]
  by_cases c : i < n
  · simp [c]
  · simp [c, BitVec.getLsbD_of_ge w i (by omega)]

@[simp] theorem le_nil : le [] = 0 := rfl
@[simp] theorem toLE_length (n v : Nat) : (toLE n v).length = n := by
  induction n generalizing v with
  | zero => rfl
  | succ n ih => simp [toLE, ih]

/-- The little-endian bytes of a number stand for it. -/
theorem le_toLE (n v : Nat) : le (toLE n v) = v % 2 ^ (8 * n) := by
  induction n generalizing v with
  | zero => simp [toLE, Nat.mod_one]
  | succ n ih =>
    simp only [toLE, le, ih, BitVec.toNat_ofNat]
    rw [show 8 * (n + 1) = 8 + 8 * n by ring, pow_add, Nat.mod_mul]
    norm_num

@[simp] theorem zeros_length (n : Nat) : (zeros n).length = n := by simp [zeros]

@[simp] theorem slice_length (bs : List Byte) (off n : Nat) : (slice bs off n).length = n := by
  simp [slice]

end Sys2Proof.Laws
end

