-- ==== Sys2Proof/Laws/Sparse.lean ====
section
/-! SUPPORT. Laws of the sparse tables and byte memories: a read after a write of the same key gives
what was written, a write leaves every other key alone, and every operation keeps the canonical form. -/

namespace Sys2Proof.Laws

open Sys2Proof.Machine

variable {α : Type}

theorem sget_append (d : α) (m n : Sparse α) (i : Nat) (h : ∀ e ∈ m, e.1 ≠ i) :
    sget d (m ++ n) i = sget d n i := by
  induction m with
  | nil => rfl
  | cons e t ih =>
    obtain ⟨k, v⟩ := e
    have hk : k ≠ i := h (k, v) (by simp)
    simp only [List.cons_append, sget, if_neg hk]
    exact ih fun e he => h e (by simp [he])

theorem sget_absent (d : α) (m : Sparse α) (i : Nat) (h : ∀ e ∈ m, e.1 ≠ i) : sget d m i = d := by
  have := sget_append d m [] i h
  simpa [sget] using this

theorem sget_filter (d : α) (m n : Sparse α) (p : Nat → Bool) (i : Nat) (h : p i = true) :
    sget d (m.filter (fun c => p c.1) ++ n) i = if ∃ e ∈ m, e.1 = i then sget d m i else sget d n i := by
  induction m with
  | nil => simp
  | cons e t ih =>
    obtain ⟨k, v⟩ := e
    by_cases hk : k = i
    · subst hk; simp [sget, h]
    · have hex : (∃ e ∈ (k, v) :: t, e.1 = i) ↔ ∃ e ∈ t, e.1 = i := by simp [hk]
      by_cases hp : p k = true
      · simp only [List.filter_cons, hp, if_true, List.cons_append, sget, if_neg hk, ih, hex]
      · simp only [List.filter_cons, hp, Bool.false_eq_true, if_false, sget, if_neg hk, ih, hex]

/-- A read after a write of the same key. -/
@[simp] theorem sget_sset [DecidableEq α] (d : α) (m : Sparse α) (i : Nat) (v : α) :
    sget d (sset d m i v) i = v := by
  unfold sset
  rw [List.append_assoc, sget_append _ _ _ _ (by
    intro e he; have := (List.mem_filter.mp he).2; simp at this; omega)]
  have hr : sget d (m.filter fun c => i < c.1) i = d :=
    sget_absent _ _ _ (by intro e he; have := (List.mem_filter.mp he).2; simp at this; omega)
  by_cases hv : v = d
  · simp [hv, hr]
  · simp [hv, sget]

/-- A write leaves every other key alone. -/
theorem sget_sset_ne [DecidableEq α] (d e₀ : α) (m : Sparse α) (i j : Nat) (v : α) (h : j ≠ i) :
    sget e₀ (sset d m i v) j = sget e₀ m j := by
  unfold sset
  rw [List.append_assoc]
  have mid : ∀ n : Sparse α, sget e₀ ((if v = d then [] else [(i, v)]) ++ n) j = sget e₀ n j := by
    intro n; by_cases hv : v = d
    · simp [hv]
    · simp [hv, sget, Ne.symm h]
  have none_ : (¬ ∃ e ∈ m, e.1 = j) → sget e₀ m j = e₀ := by
    intro hn; exact sget_absent _ _ _ fun e he hej => hn ⟨e, he, hej⟩
  rcases Nat.lt_or_gt_of_ne h with hlt | hgt
  · rw [sget_filter e₀ m _ (fun k => decide (k < i)) j (by simpa using hlt)]
    split
    · rfl
    · rename_i hn
      rw [mid, none_ hn]
      exact sget_absent _ _ _ (by intro e he; have := (List.mem_filter.mp he).2; simp at this; omega)
  · rw [sget_append _ _ _ _ (by
      intro e he; have := (List.mem_filter.mp he).2; simp at this; omega), mid]
    have := sget_filter e₀ m [] (fun k => decide (i < k)) j (by simpa using hgt)
    rw [List.append_nil] at this
    rw [this]
    split
    · rfl
    · rename_i hn; rw [none_ hn]; rfl

/-- Both laws of a write. -/
theorem sget_sset_if [DecidableEq α] (d : α) (m : Sparse α) (i j : Nat) (v : α) :
    sget d (sset d m i v) j = if j = i then v else sget d m j := by
  by_cases h : j = i
  · subst h; simp
  · simp [h, sget_sset_ne]

@[simp] theorem sget_smod [DecidableEq α] (d : α) (m : Sparse α) (i : Nat) (f : α → α) :
    sget d (smod d m i f) i = f (sget d m i) := by simp [smod]

theorem sget_smod_ne [DecidableEq α] (d : α) (m : Sparse α) (i j : Nat) (f : α → α) (h : j ≠ i) :
    sget d (smod d m i f) j = sget d m j := by simp [smod, sget_sset_ne, h]

/-! ### The canonical form -/

theorem pairwise_filter_append {m : Sparse α} {i : Nat} {n : Sparse α} {j : Nat}
    (hm : m.Pairwise fun x y => x.1 < y.1) (hn : n.Pairwise fun x y => x.1 < y.1)
    (hb : ∀ e ∈ n, i ≤ e.1 ∧ e.1 < j) (hij : i ≤ j) :
    (m.filter (fun c => c.1 < i) ++ n ++ m.filter (fun c => j ≤ c.1)).Pairwise
      fun x y => x.1 < y.1 := by
  rw [List.pairwise_append, List.pairwise_append]
  refine ⟨⟨hm.filter _, hn, ?_⟩, hm.filter _, ?_⟩
  · intro a ha b hb'
    have := (List.mem_filter.mp ha).2; have := (hb b hb').1; simp at *; omega
  · intro a ha b hb'
    have h2 := (List.mem_filter.mp hb').2
    rcases List.mem_append.mp ha with h | h
    · have := (List.mem_filter.mp h).2; simp at *; omega
    · have := (hb a h).2; simp at *; omega

/-- A write keeps the canonical form of a table. -/
theorem sset_wf [DecidableEq α] (d : α) (m : Sparse α) (i : Nat) (v : α) (h : sparseWf d m = true) :
    sparseWf d (sset d m i v) = true := by
  simp only [sparseWf, Bool.and_eq_true, decide_eq_true_eq, List.all_eq_true] at h ⊢
  refine ⟨?_, ?_⟩
  · have := pairwise_filter_append (i := i) (j := i + 1) (n := if v = d then [] else [(i, v)]) h.1
      (by split <;> simp) (by intro e he; split at he <;> simp_all) (by omega)
    simpa [sset, Nat.succ_le_iff] using this
  · intro e he
    simp only [sset, List.mem_append, List.mem_filter] at he
    rcases he with (he | he) | he
    · exact h.2 e he.1
    · split at he
      · simp at he
      · rename_i hv; simp at he; subst he; exact hv
    · exact h.2 e he.1

theorem smod_wf [DecidableEq α] (d : α) (m : Sparse α) (i : Nat) (f : α → α)
    (h : sparseWf d m = true) : sparseWf d (smod d m i f) = true := sset_wf _ _ _ _ h

/-! ### Byte memories -/

theorem mem_wf_iff (m : Mem) : Mem.wf m = true ↔ sparseWf Mem.unlisted m = true := by
  simp [Mem.wf, sparseWf]

theorem mset_wf (m : Mem) (a : Nat) (b : Byte) (h : Mem.wf m = true) : Mem.wf (mset m a b) = true := by
  rw [mem_wf_iff] at *; exact sset_wf _ _ _ _ h

@[simp] theorem mget_mset (m : Mem) (a : Nat) (b : Byte) : mget (mset m a b) a = b := by
  simp [mget, mset]

theorem mget_mset_ne (m : Mem) (a c : Nat) (b : Byte) (h : c ≠ a) :
    mget (mset m a b) c = mget m c := by simp [mget, mset, sget_sset_ne, h]

theorem cellsOf_spec (bs : List Byte) : ∀ a, (cellsOf a bs).Pairwise (fun x y => x.1 < y.1) ∧
    (∀ e ∈ cellsOf a bs, a ≤ e.1 ∧ e.1 < a + bs.length ∧ e.2 ≠ Mem.unlisted) := by
  induction bs with
  | nil => intro a; simp [cellsOf]
  | cons b bs ih =>
    intro a
    obtain ⟨h1, h2⟩ := ih (a + 1)
    by_cases hb : b = Mem.unlisted
    · simp only [cellsOf, if_pos hb]
      refine ⟨h1, fun e he => ?_⟩
      have := h2 e he; simp only [List.length_cons]; exact ⟨by omega, by omega, this.2.2⟩
    · simp only [cellsOf, if_neg hb, List.pairwise_cons]
      refine ⟨⟨fun e he => ?_, h1⟩, fun e he => ?_⟩
      · have := h2 e he; simp; omega
      · rcases List.mem_cons.mp he with rfl | he
        · simp [hb]
        · have := h2 e he; simp only [List.length_cons]; exact ⟨by omega, by omega, this.2.2⟩

theorem mget_cellsOf (bs : List Byte) (n : Mem) : ∀ a i, i < bs.length →
    (∀ e ∈ n, a + bs.length ≤ e.1) → sget Mem.unlisted (cellsOf a bs ++ n) (a + i) = bs.getD i 0 := by
  induction bs with
  | nil => intro a i h; simp at h
  | cons b bs ih =>
    intro a i h hn
    have habs : ∀ e ∈ cellsOf (a + 1) bs ++ n, e.1 ≠ a := by
      intro e he
      rcases List.mem_append.mp he with he | he
      · have := (cellsOf_spec bs (a + 1)).2 e he; omega
      · have := hn e he; simp at this; omega
    cases i with
    | zero =>
      by_cases hb : b = Mem.unlisted
      · simp only [cellsOf, if_pos hb, Nat.add_zero]
        rw [sget_absent _ _ _ habs]; simp [hb]
      · simp [cellsOf, if_neg hb, sget]
    | succ i =>
      have h' : i < bs.length := by simpa using h
      have := ih (a + 1) i h' (fun e he => by have := hn e he; simp at this; omega)
      rw [show a + (i + 1) = a + 1 + i by omega]
      by_cases hb : b = Mem.unlisted
      · simp only [cellsOf, if_pos hb]; simpa using this
      · simp only [cellsOf, if_neg hb, List.cons_append, sget, if_neg (show a ≠ a + 1 + i by omega)]
        simpa using this

/-- A byte inside a written run. -/
theorem mget_mput (m : Mem) (a i : Nat) (bs : List Byte) (h : i < bs.length) :
    mget (mput m a bs) (a + i) = bs.getD i 0 := by
  unfold mget mput
  rw [List.append_assoc, sget_append _ _ _ _ (by
    intro e he; have := (List.mem_filter.mp he).2; simp at this; omega)]
  exact mget_cellsOf bs _ a i h (by
    intro e he; have := (List.mem_filter.mp he).2; simpa using this)

/-- A byte outside a written run stays. -/
theorem mget_mput_ne (m : Mem) (a c : Nat) (bs : List Byte) (h : c < a ∨ a + bs.length ≤ c) :
    mget (mput m a bs) c = mget m c := by
  unfold mget mput
  rw [List.append_assoc]
  have cells : ∀ n : Mem, sget Mem.unlisted (cellsOf a bs ++ n) c = sget Mem.unlisted n c := fun n =>
    sget_append _ _ _ _ (by intro e he; have := (cellsOf_spec bs a).2 e he; omega)
  have none_ : (¬ ∃ e ∈ m, e.1 = c) → sget Mem.unlisted m c = Mem.unlisted := by
    intro hn; exact sget_absent _ _ _ fun e he hec => hn ⟨e, he, hec⟩
  rcases h with hlt | hge
  · rw [sget_filter _ m _ (fun k => decide (k < a)) c (by simpa using hlt)]
    split
    · rfl
    · rename_i hn
      rw [cells, none_ hn]
      exact sget_absent _ _ _ (by intro e he; have := (List.mem_filter.mp he).2; simp at this; omega)
  · rw [sget_append _ _ _ _ (by
      intro e he; have := (List.mem_filter.mp he).2; simp at this; omega), cells]
    have := sget_filter Mem.unlisted m [] (fun k => decide (a + bs.length ≤ k)) c (by simpa using hge)
    rw [List.append_nil] at this
    rw [this]
    split
    · rfl
    · rename_i hn; rw [none_ hn]; rfl

/-- Writing a run keeps the canonical form. -/
theorem mput_wf (m : Mem) (a : Nat) (bs : List Byte) (h : Mem.wf m = true) :
    Mem.wf (mput m a bs) = true := by
  rw [mem_wf_iff] at *
  simp only [sparseWf, Bool.and_eq_true, decide_eq_true_eq, List.all_eq_true] at h ⊢
  refine ⟨pairwise_filter_append h.1 (cellsOf_spec bs a).1 (fun e he => ?_) (by omega), ?_⟩
  · have := (cellsOf_spec bs a).2 e he; omega
  · intro e he
    simp only [mput, List.mem_append, List.mem_filter] at he
    rcases he with (he | he) | he
    · exact h.2 e he.1
    · exact ((cellsOf_spec bs a).2 e he).2.2
    · exact h.2 e he.1

theorem filter_wf (m : Mem) (p : Host.Cell → Bool) (h : Mem.wf m = true) :
    Mem.wf (m.filter p) = true := by
  rw [mem_wf_iff] at *
  simp only [sparseWf, Bool.and_eq_true, decide_eq_true_eq, List.all_eq_true] at h ⊢
  exact ⟨h.1.filter _, fun e he => h.2 e (List.mem_filter.mp he).1⟩

@[simp] theorem mread_length (m : Mem) (a n : Nat) : (mread m a n).length = n := by simp [mread]

/-- A read of a run is the bytes one by one. -/
theorem mread_eq (m : Mem) (a n : Nat) : mread m a n = (List.range n).map fun i => mget m (a + i) := by
  unfold mread
  apply List.map_congr_left
  intro i hi
  have hi := List.mem_range.mp hi
  have := sget_filter Mem.unlisted m [] (fun k => decide (a ≤ k) && decide (k < a + n)) (a + i)
    (by simp; omega)
  rw [List.append_nil] at this
  unfold mget
  rw [this]
  split
  · rfl
  · rename_i hn
    exact (sget_absent _ _ _ fun e he hea => hn ⟨e, he, hea⟩).symm

/-- What was written in a run is read back. -/
theorem mread_mput (m : Mem) (a : Nat) (bs : List Byte) : mread (mput m a bs) a bs.length = bs := by
  rw [mread_eq]
  apply List.ext_getElem
  · simp
  · intro i h1 h2
    simp only [List.getElem_map, List.getElem_range]
    rw [mget_mput _ _ _ _ h2]
    simp [List.getD, h2]

/-- A run apart from the written one stays. -/
theorem mread_mput_ne (m : Mem) (a c n : Nat) (bs : List Byte) (h : c + n ≤ a ∨ a + bs.length ≤ c) :
    mread (mput m a bs) c n = mread m c n := by
  rw [mread_eq, mread_eq]
  apply List.map_congr_left
  intro i hi
  have hi := List.mem_range.mp hi
  exact mget_mput_ne _ _ _ _ (by omega)

end Sys2Proof.Laws
end

