-- ==== Sys2Proof/Laws/State.lean ====
section
/-! SUPPORT. What each shared update of the state leaves in every field, and what the accessors read
after it. -/

namespace Sys2Proof.Laws

open Sys2Proof.Machine

variable (s : State)

/-! ### The fields that an update leaves -/

@[simp] theorem putPart_pending (p : Nat) (x : Partition) : (Machine.putPart s p x).pending = s.pending := rfl
@[simp] theorem putPart_freeIx (p : Nat) (x : Partition) : (Machine.putPart s p x).freeIx = s.freeIx := rfl
@[simp] theorem putPart_out (p : Nat) (x : Partition) : (Machine.putPart s p x).out = s.out := rfl
@[simp] theorem putPart_dieCtr (p : Nat) (x : Partition) : (Machine.putPart s p x).dieCtr = s.dieCtr := rfl
@[simp] theorem putPart_osc (p : Nat) (x : Partition) : (Machine.putPart s p x).osc = s.osc := rfl
@[simp] theorem putPart_cores (p : Nat) (x : Partition) : (Machine.putPart s p x).cores = s.cores := rfl
@[simp] theorem putPart_clusters (p : Nat) (x : Partition) : (Machine.putPart s p x).clusters = s.clusters := rfl
@[simp] theorem putPart_stores (p : Nat) (x : Partition) : (Machine.putPart s p x).stores = s.stores := rfl
@[simp] theorem putPart_tags (p : Nat) (x : Partition) : (Machine.putPart s p x).tags = s.tags := rfl
@[simp] theorem putPart_fabric (p : Nat) (x : Partition) : (Machine.putPart s p x).fabric = s.fabric := rfl
@[simp] theorem putPart_wardrobe (p : Nat) (x : Partition) : (Machine.putPart s p x).wardrobe = s.wardrobe := rfl
@[simp] theorem putPart_rel (p : Nat) (x : Partition) : (Machine.putPart s p x).rel = s.rel := rfl
@[simp] theorem putPart_sec (p : Nat) (x : Partition) : (Machine.putPart s p x).sec = s.sec := rfl
@[simp] theorem putPart_pwr (p : Nat) (x : Partition) : (Machine.putPart s p x).pwr = s.pwr := rfl
@[simp] theorem putPart_mregs (p : Nat) (x : Partition) : (Machine.putPart s p x).mregs = s.mregs := rfl
@[simp] theorem putPart_pattern (p : Nat) (x : Partition) : (Machine.putPart s p x).pattern = s.pattern := rfl
@[simp] theorem putPart_tap (p : Nat) (x : Partition) : (Machine.putPart s p x).tap = s.tap := rfl

@[simp] theorem onPart_pending (p : Nat) (f : Partition → Partition) : (Machine.onPart s p f).pending = s.pending := rfl
@[simp] theorem onPart_freeIx (p : Nat) (f : Partition → Partition) : (Machine.onPart s p f).freeIx = s.freeIx := rfl
@[simp] theorem onPart_out (p : Nat) (f : Partition → Partition) : (Machine.onPart s p f).out = s.out := rfl
@[simp] theorem onPart_dieCtr (p : Nat) (f : Partition → Partition) : (Machine.onPart s p f).dieCtr = s.dieCtr := rfl
@[simp] theorem onPart_osc (p : Nat) (f : Partition → Partition) : (Machine.onPart s p f).osc = s.osc := rfl
@[simp] theorem onPart_cores (p : Nat) (f : Partition → Partition) : (Machine.onPart s p f).cores = s.cores := rfl
@[simp] theorem onPart_clusters (p : Nat) (f : Partition → Partition) : (Machine.onPart s p f).clusters = s.clusters := rfl
@[simp] theorem onPart_stores (p : Nat) (f : Partition → Partition) : (Machine.onPart s p f).stores = s.stores := rfl
@[simp] theorem onPart_tags (p : Nat) (f : Partition → Partition) : (Machine.onPart s p f).tags = s.tags := rfl
@[simp] theorem onPart_fabric (p : Nat) (f : Partition → Partition) : (Machine.onPart s p f).fabric = s.fabric := rfl
@[simp] theorem onPart_wardrobe (p : Nat) (f : Partition → Partition) : (Machine.onPart s p f).wardrobe = s.wardrobe := rfl
@[simp] theorem onPart_rel (p : Nat) (f : Partition → Partition) : (Machine.onPart s p f).rel = s.rel := rfl
@[simp] theorem onPart_sec (p : Nat) (f : Partition → Partition) : (Machine.onPart s p f).sec = s.sec := rfl
@[simp] theorem onPart_pwr (p : Nat) (f : Partition → Partition) : (Machine.onPart s p f).pwr = s.pwr := rfl
@[simp] theorem onPart_mregs (p : Nat) (f : Partition → Partition) : (Machine.onPart s p f).mregs = s.mregs := rfl
@[simp] theorem onPart_pattern (p : Nat) (f : Partition → Partition) : (Machine.onPart s p f).pattern = s.pattern := rfl
@[simp] theorem onPart_tap (p : Nat) (f : Partition → Partition) : (Machine.onPart s p f).tap = s.tap := rfl

@[simp] theorem onCtx_pending (p c : Nat) (f : Ctx → Ctx) : (Machine.onCtx s p c f).pending = s.pending := rfl
@[simp] theorem onCtx_freeIx (p c : Nat) (f : Ctx → Ctx) : (Machine.onCtx s p c f).freeIx = s.freeIx := rfl
@[simp] theorem onCtx_out (p c : Nat) (f : Ctx → Ctx) : (Machine.onCtx s p c f).out = s.out := rfl
@[simp] theorem onCtx_dieCtr (p c : Nat) (f : Ctx → Ctx) : (Machine.onCtx s p c f).dieCtr = s.dieCtr := rfl
@[simp] theorem onCtx_osc (p c : Nat) (f : Ctx → Ctx) : (Machine.onCtx s p c f).osc = s.osc := rfl
@[simp] theorem onCtx_cores (p c : Nat) (f : Ctx → Ctx) : (Machine.onCtx s p c f).cores = s.cores := rfl
@[simp] theorem onCtx_clusters (p c : Nat) (f : Ctx → Ctx) : (Machine.onCtx s p c f).clusters = s.clusters := rfl
@[simp] theorem onCtx_stores (p c : Nat) (f : Ctx → Ctx) : (Machine.onCtx s p c f).stores = s.stores := rfl
@[simp] theorem onCtx_tags (p c : Nat) (f : Ctx → Ctx) : (Machine.onCtx s p c f).tags = s.tags := rfl
@[simp] theorem onCtx_fabric (p c : Nat) (f : Ctx → Ctx) : (Machine.onCtx s p c f).fabric = s.fabric := rfl
@[simp] theorem onCtx_wardrobe (p c : Nat) (f : Ctx → Ctx) : (Machine.onCtx s p c f).wardrobe = s.wardrobe := rfl
@[simp] theorem onCtx_rel (p c : Nat) (f : Ctx → Ctx) : (Machine.onCtx s p c f).rel = s.rel := rfl
@[simp] theorem onCtx_sec (p c : Nat) (f : Ctx → Ctx) : (Machine.onCtx s p c f).sec = s.sec := rfl
@[simp] theorem onCtx_pwr (p c : Nat) (f : Ctx → Ctx) : (Machine.onCtx s p c f).pwr = s.pwr := rfl
@[simp] theorem onCtx_mregs (p c : Nat) (f : Ctx → Ctx) : (Machine.onCtx s p c f).mregs = s.mregs := rfl
@[simp] theorem onCtx_pattern (p c : Nat) (f : Ctx → Ctx) : (Machine.onCtx s p c f).pattern = s.pattern := rfl
@[simp] theorem onCtx_tap (p c : Nat) (f : Ctx → Ctx) : (Machine.onCtx s p c f).tap = s.tap := rfl

@[simp] theorem putReg_pending (p off hi lo v : Nat) : (Machine.putReg s p off hi lo v).pending = s.pending := rfl
@[simp] theorem putReg_freeIx (p off hi lo v : Nat) : (Machine.putReg s p off hi lo v).freeIx = s.freeIx := rfl
@[simp] theorem putReg_out (p off hi lo v : Nat) : (Machine.putReg s p off hi lo v).out = s.out := rfl
@[simp] theorem putReg_dieCtr (p off hi lo v : Nat) : (Machine.putReg s p off hi lo v).dieCtr = s.dieCtr := rfl
@[simp] theorem putReg_osc (p off hi lo v : Nat) : (Machine.putReg s p off hi lo v).osc = s.osc := rfl
@[simp] theorem putReg_cores (p off hi lo v : Nat) : (Machine.putReg s p off hi lo v).cores = s.cores := rfl
@[simp] theorem putReg_clusters (p off hi lo v : Nat) : (Machine.putReg s p off hi lo v).clusters = s.clusters := rfl
@[simp] theorem putReg_stores (p off hi lo v : Nat) : (Machine.putReg s p off hi lo v).stores = s.stores := rfl
@[simp] theorem putReg_tags (p off hi lo v : Nat) : (Machine.putReg s p off hi lo v).tags = s.tags := rfl
@[simp] theorem putReg_fabric (p off hi lo v : Nat) : (Machine.putReg s p off hi lo v).fabric = s.fabric := rfl
@[simp] theorem putReg_wardrobe (p off hi lo v : Nat) : (Machine.putReg s p off hi lo v).wardrobe = s.wardrobe := rfl
@[simp] theorem putReg_rel (p off hi lo v : Nat) : (Machine.putReg s p off hi lo v).rel = s.rel := rfl
@[simp] theorem putReg_sec (p off hi lo v : Nat) : (Machine.putReg s p off hi lo v).sec = s.sec := rfl
@[simp] theorem putReg_pwr (p off hi lo v : Nat) : (Machine.putReg s p off hi lo v).pwr = s.pwr := rfl
@[simp] theorem putReg_mregs (p off hi lo v : Nat) : (Machine.putReg s p off hi lo v).mregs = s.mregs := rfl
@[simp] theorem putReg_pattern (p off hi lo v : Nat) : (Machine.putReg s p off hi lo v).pattern = s.pattern := rfl
@[simp] theorem putReg_tap (p off hi lo v : Nat) : (Machine.putReg s p off hi lo v).tap = s.tap := rfl

@[simp] theorem putCore_pending (g : Nat) (x : Core) : (Machine.putCore s g x).pending = s.pending := rfl
@[simp] theorem putCore_freeIx (g : Nat) (x : Core) : (Machine.putCore s g x).freeIx = s.freeIx := rfl
@[simp] theorem putCore_out (g : Nat) (x : Core) : (Machine.putCore s g x).out = s.out := rfl
@[simp] theorem putCore_dieCtr (g : Nat) (x : Core) : (Machine.putCore s g x).dieCtr = s.dieCtr := rfl
@[simp] theorem putCore_osc (g : Nat) (x : Core) : (Machine.putCore s g x).osc = s.osc := rfl
@[simp] theorem putCore_clusters (g : Nat) (x : Core) : (Machine.putCore s g x).clusters = s.clusters := rfl
@[simp] theorem putCore_stores (g : Nat) (x : Core) : (Machine.putCore s g x).stores = s.stores := rfl
@[simp] theorem putCore_tags (g : Nat) (x : Core) : (Machine.putCore s g x).tags = s.tags := rfl
@[simp] theorem putCore_parts (g : Nat) (x : Core) : (Machine.putCore s g x).parts = s.parts := rfl
@[simp] theorem putCore_fabric (g : Nat) (x : Core) : (Machine.putCore s g x).fabric = s.fabric := rfl
@[simp] theorem putCore_wardrobe (g : Nat) (x : Core) : (Machine.putCore s g x).wardrobe = s.wardrobe := rfl
@[simp] theorem putCore_rel (g : Nat) (x : Core) : (Machine.putCore s g x).rel = s.rel := rfl
@[simp] theorem putCore_sec (g : Nat) (x : Core) : (Machine.putCore s g x).sec = s.sec := rfl
@[simp] theorem putCore_pwr (g : Nat) (x : Core) : (Machine.putCore s g x).pwr = s.pwr := rfl
@[simp] theorem putCore_mregs (g : Nat) (x : Core) : (Machine.putCore s g x).mregs = s.mregs := rfl
@[simp] theorem putCore_pattern (g : Nat) (x : Core) : (Machine.putCore s g x).pattern = s.pattern := rfl
@[simp] theorem putCore_tap (g : Nat) (x : Core) : (Machine.putCore s g x).tap = s.tap := rfl

@[simp] theorem onCore_pending (g : Nat) (f : Core → Core) : (Machine.onCore s g f).pending = s.pending := rfl
@[simp] theorem onCore_freeIx (g : Nat) (f : Core → Core) : (Machine.onCore s g f).freeIx = s.freeIx := rfl
@[simp] theorem onCore_out (g : Nat) (f : Core → Core) : (Machine.onCore s g f).out = s.out := rfl
@[simp] theorem onCore_dieCtr (g : Nat) (f : Core → Core) : (Machine.onCore s g f).dieCtr = s.dieCtr := rfl
@[simp] theorem onCore_osc (g : Nat) (f : Core → Core) : (Machine.onCore s g f).osc = s.osc := rfl
@[simp] theorem onCore_clusters (g : Nat) (f : Core → Core) : (Machine.onCore s g f).clusters = s.clusters := rfl
@[simp] theorem onCore_stores (g : Nat) (f : Core → Core) : (Machine.onCore s g f).stores = s.stores := rfl
@[simp] theorem onCore_tags (g : Nat) (f : Core → Core) : (Machine.onCore s g f).tags = s.tags := rfl
@[simp] theorem onCore_parts (g : Nat) (f : Core → Core) : (Machine.onCore s g f).parts = s.parts := rfl
@[simp] theorem onCore_fabric (g : Nat) (f : Core → Core) : (Machine.onCore s g f).fabric = s.fabric := rfl
@[simp] theorem onCore_wardrobe (g : Nat) (f : Core → Core) : (Machine.onCore s g f).wardrobe = s.wardrobe := rfl
@[simp] theorem onCore_rel (g : Nat) (f : Core → Core) : (Machine.onCore s g f).rel = s.rel := rfl
@[simp] theorem onCore_sec (g : Nat) (f : Core → Core) : (Machine.onCore s g f).sec = s.sec := rfl
@[simp] theorem onCore_pwr (g : Nat) (f : Core → Core) : (Machine.onCore s g f).pwr = s.pwr := rfl
@[simp] theorem onCore_mregs (g : Nat) (f : Core → Core) : (Machine.onCore s g f).mregs = s.mregs := rfl
@[simp] theorem onCore_pattern (g : Nat) (f : Core → Core) : (Machine.onCore s g f).pattern = s.pattern := rfl
@[simp] theorem onCore_tap (g : Nat) (f : Core → Core) : (Machine.onCore s g f).tap = s.tap := rfl

@[simp] theorem putClus_pending (h : Nat) (x : Cluster) : (Machine.putClus s h x).pending = s.pending := rfl
@[simp] theorem putClus_freeIx (h : Nat) (x : Cluster) : (Machine.putClus s h x).freeIx = s.freeIx := rfl
@[simp] theorem putClus_out (h : Nat) (x : Cluster) : (Machine.putClus s h x).out = s.out := rfl
@[simp] theorem putClus_dieCtr (h : Nat) (x : Cluster) : (Machine.putClus s h x).dieCtr = s.dieCtr := rfl
@[simp] theorem putClus_osc (h : Nat) (x : Cluster) : (Machine.putClus s h x).osc = s.osc := rfl
@[simp] theorem putClus_cores (h : Nat) (x : Cluster) : (Machine.putClus s h x).cores = s.cores := rfl
@[simp] theorem putClus_stores (h : Nat) (x : Cluster) : (Machine.putClus s h x).stores = s.stores := rfl
@[simp] theorem putClus_tags (h : Nat) (x : Cluster) : (Machine.putClus s h x).tags = s.tags := rfl
@[simp] theorem putClus_parts (h : Nat) (x : Cluster) : (Machine.putClus s h x).parts = s.parts := rfl
@[simp] theorem putClus_fabric (h : Nat) (x : Cluster) : (Machine.putClus s h x).fabric = s.fabric := rfl
@[simp] theorem putClus_wardrobe (h : Nat) (x : Cluster) : (Machine.putClus s h x).wardrobe = s.wardrobe := rfl
@[simp] theorem putClus_rel (h : Nat) (x : Cluster) : (Machine.putClus s h x).rel = s.rel := rfl
@[simp] theorem putClus_sec (h : Nat) (x : Cluster) : (Machine.putClus s h x).sec = s.sec := rfl
@[simp] theorem putClus_pwr (h : Nat) (x : Cluster) : (Machine.putClus s h x).pwr = s.pwr := rfl
@[simp] theorem putClus_mregs (h : Nat) (x : Cluster) : (Machine.putClus s h x).mregs = s.mregs := rfl
@[simp] theorem putClus_pattern (h : Nat) (x : Cluster) : (Machine.putClus s h x).pattern = s.pattern := rfl
@[simp] theorem putClus_tap (h : Nat) (x : Cluster) : (Machine.putClus s h x).tap = s.tap := rfl

@[simp] theorem onClus_pending (h : Nat) (f : Cluster → Cluster) : (Machine.onClus s h f).pending = s.pending := rfl
@[simp] theorem onClus_freeIx (h : Nat) (f : Cluster → Cluster) : (Machine.onClus s h f).freeIx = s.freeIx := rfl
@[simp] theorem onClus_out (h : Nat) (f : Cluster → Cluster) : (Machine.onClus s h f).out = s.out := rfl
@[simp] theorem onClus_dieCtr (h : Nat) (f : Cluster → Cluster) : (Machine.onClus s h f).dieCtr = s.dieCtr := rfl
@[simp] theorem onClus_osc (h : Nat) (f : Cluster → Cluster) : (Machine.onClus s h f).osc = s.osc := rfl
@[simp] theorem onClus_cores (h : Nat) (f : Cluster → Cluster) : (Machine.onClus s h f).cores = s.cores := rfl
@[simp] theorem onClus_stores (h : Nat) (f : Cluster → Cluster) : (Machine.onClus s h f).stores = s.stores := rfl
@[simp] theorem onClus_tags (h : Nat) (f : Cluster → Cluster) : (Machine.onClus s h f).tags = s.tags := rfl
@[simp] theorem onClus_parts (h : Nat) (f : Cluster → Cluster) : (Machine.onClus s h f).parts = s.parts := rfl
@[simp] theorem onClus_fabric (h : Nat) (f : Cluster → Cluster) : (Machine.onClus s h f).fabric = s.fabric := rfl
@[simp] theorem onClus_wardrobe (h : Nat) (f : Cluster → Cluster) : (Machine.onClus s h f).wardrobe = s.wardrobe := rfl
@[simp] theorem onClus_rel (h : Nat) (f : Cluster → Cluster) : (Machine.onClus s h f).rel = s.rel := rfl
@[simp] theorem onClus_sec (h : Nat) (f : Cluster → Cluster) : (Machine.onClus s h f).sec = s.sec := rfl
@[simp] theorem onClus_pwr (h : Nat) (f : Cluster → Cluster) : (Machine.onClus s h f).pwr = s.pwr := rfl
@[simp] theorem onClus_mregs (h : Nat) (f : Cluster → Cluster) : (Machine.onClus s h f).mregs = s.mregs := rfl
@[simp] theorem onClus_pattern (h : Nat) (f : Cluster → Cluster) : (Machine.onClus s h f).pattern = s.pattern := rfl
@[simp] theorem onClus_tap (h : Nat) (f : Cluster → Cluster) : (Machine.onClus s h f).tap = s.tap := rfl

@[simp] theorem putPort_pending (c : Nat) (x : Port) : (Machine.putPort s c x).pending = s.pending := rfl
@[simp] theorem putPort_freeIx (c : Nat) (x : Port) : (Machine.putPort s c x).freeIx = s.freeIx := rfl
@[simp] theorem putPort_out (c : Nat) (x : Port) : (Machine.putPort s c x).out = s.out := rfl
@[simp] theorem putPort_dieCtr (c : Nat) (x : Port) : (Machine.putPort s c x).dieCtr = s.dieCtr := rfl
@[simp] theorem putPort_osc (c : Nat) (x : Port) : (Machine.putPort s c x).osc = s.osc := rfl
@[simp] theorem putPort_cores (c : Nat) (x : Port) : (Machine.putPort s c x).cores = s.cores := rfl
@[simp] theorem putPort_clusters (c : Nat) (x : Port) : (Machine.putPort s c x).clusters = s.clusters := rfl
@[simp] theorem putPort_stores (c : Nat) (x : Port) : (Machine.putPort s c x).stores = s.stores := rfl
@[simp] theorem putPort_tags (c : Nat) (x : Port) : (Machine.putPort s c x).tags = s.tags := rfl
@[simp] theorem putPort_parts (c : Nat) (x : Port) : (Machine.putPort s c x).parts = s.parts := rfl
@[simp] theorem putPort_wardrobe (c : Nat) (x : Port) : (Machine.putPort s c x).wardrobe = s.wardrobe := rfl
@[simp] theorem putPort_rel (c : Nat) (x : Port) : (Machine.putPort s c x).rel = s.rel := rfl
@[simp] theorem putPort_sec (c : Nat) (x : Port) : (Machine.putPort s c x).sec = s.sec := rfl
@[simp] theorem putPort_pwr (c : Nat) (x : Port) : (Machine.putPort s c x).pwr = s.pwr := rfl
@[simp] theorem putPort_mregs (c : Nat) (x : Port) : (Machine.putPort s c x).mregs = s.mregs := rfl
@[simp] theorem putPort_pattern (c : Nat) (x : Port) : (Machine.putPort s c x).pattern = s.pattern := rfl
@[simp] theorem putPort_tap (c : Nat) (x : Port) : (Machine.putPort s c x).tap = s.tap := rfl

@[simp] theorem onPort_pending (c : Nat) (f : Port → Port) : (Machine.onPort s c f).pending = s.pending := rfl
@[simp] theorem onPort_freeIx (c : Nat) (f : Port → Port) : (Machine.onPort s c f).freeIx = s.freeIx := rfl
@[simp] theorem onPort_out (c : Nat) (f : Port → Port) : (Machine.onPort s c f).out = s.out := rfl
@[simp] theorem onPort_dieCtr (c : Nat) (f : Port → Port) : (Machine.onPort s c f).dieCtr = s.dieCtr := rfl
@[simp] theorem onPort_osc (c : Nat) (f : Port → Port) : (Machine.onPort s c f).osc = s.osc := rfl
@[simp] theorem onPort_cores (c : Nat) (f : Port → Port) : (Machine.onPort s c f).cores = s.cores := rfl
@[simp] theorem onPort_clusters (c : Nat) (f : Port → Port) : (Machine.onPort s c f).clusters = s.clusters := rfl
@[simp] theorem onPort_stores (c : Nat) (f : Port → Port) : (Machine.onPort s c f).stores = s.stores := rfl
@[simp] theorem onPort_tags (c : Nat) (f : Port → Port) : (Machine.onPort s c f).tags = s.tags := rfl
@[simp] theorem onPort_parts (c : Nat) (f : Port → Port) : (Machine.onPort s c f).parts = s.parts := rfl
@[simp] theorem onPort_wardrobe (c : Nat) (f : Port → Port) : (Machine.onPort s c f).wardrobe = s.wardrobe := rfl
@[simp] theorem onPort_rel (c : Nat) (f : Port → Port) : (Machine.onPort s c f).rel = s.rel := rfl
@[simp] theorem onPort_sec (c : Nat) (f : Port → Port) : (Machine.onPort s c f).sec = s.sec := rfl
@[simp] theorem onPort_pwr (c : Nat) (f : Port → Port) : (Machine.onPort s c f).pwr = s.pwr := rfl
@[simp] theorem onPort_mregs (c : Nat) (f : Port → Port) : (Machine.onPort s c f).mregs = s.mregs := rfl
@[simp] theorem onPort_pattern (c : Nat) (f : Port → Port) : (Machine.onPort s c f).pattern = s.pattern := rfl
@[simp] theorem onPort_tap (c : Nat) (f : Port → Port) : (Machine.onPort s c f).tap = s.tap := rfl

@[simp] theorem setMreg_pending (a : Nat) (w : Word) : (Machine.setMreg s a w).pending = s.pending := rfl
@[simp] theorem setMreg_freeIx (a : Nat) (w : Word) : (Machine.setMreg s a w).freeIx = s.freeIx := rfl
@[simp] theorem setMreg_out (a : Nat) (w : Word) : (Machine.setMreg s a w).out = s.out := rfl
@[simp] theorem setMreg_dieCtr (a : Nat) (w : Word) : (Machine.setMreg s a w).dieCtr = s.dieCtr := rfl
@[simp] theorem setMreg_osc (a : Nat) (w : Word) : (Machine.setMreg s a w).osc = s.osc := rfl
@[simp] theorem setMreg_cores (a : Nat) (w : Word) : (Machine.setMreg s a w).cores = s.cores := rfl
@[simp] theorem setMreg_clusters (a : Nat) (w : Word) : (Machine.setMreg s a w).clusters = s.clusters := rfl
@[simp] theorem setMreg_stores (a : Nat) (w : Word) : (Machine.setMreg s a w).stores = s.stores := rfl
@[simp] theorem setMreg_tags (a : Nat) (w : Word) : (Machine.setMreg s a w).tags = s.tags := rfl
@[simp] theorem setMreg_parts (a : Nat) (w : Word) : (Machine.setMreg s a w).parts = s.parts := rfl
@[simp] theorem setMreg_fabric (a : Nat) (w : Word) : (Machine.setMreg s a w).fabric = s.fabric := rfl
@[simp] theorem setMreg_wardrobe (a : Nat) (w : Word) : (Machine.setMreg s a w).wardrobe = s.wardrobe := rfl
@[simp] theorem setMreg_rel (a : Nat) (w : Word) : (Machine.setMreg s a w).rel = s.rel := rfl
@[simp] theorem setMreg_sec (a : Nat) (w : Word) : (Machine.setMreg s a w).sec = s.sec := rfl
@[simp] theorem setMreg_pwr (a : Nat) (w : Word) : (Machine.setMreg s a w).pwr = s.pwr := rfl
@[simp] theorem setMreg_pattern (a : Nat) (w : Word) : (Machine.setMreg s a w).pattern = s.pattern := rfl
@[simp] theorem setMreg_tap (a : Nat) (w : Word) : (Machine.setMreg s a w).tap = s.tap := rfl

@[simp] theorem putMreg_pending (a hi lo v : Nat) : (Machine.putMreg s a hi lo v).pending = s.pending := rfl
@[simp] theorem putMreg_freeIx (a hi lo v : Nat) : (Machine.putMreg s a hi lo v).freeIx = s.freeIx := rfl
@[simp] theorem putMreg_out (a hi lo v : Nat) : (Machine.putMreg s a hi lo v).out = s.out := rfl
@[simp] theorem putMreg_dieCtr (a hi lo v : Nat) : (Machine.putMreg s a hi lo v).dieCtr = s.dieCtr := rfl
@[simp] theorem putMreg_osc (a hi lo v : Nat) : (Machine.putMreg s a hi lo v).osc = s.osc := rfl
@[simp] theorem putMreg_cores (a hi lo v : Nat) : (Machine.putMreg s a hi lo v).cores = s.cores := rfl
@[simp] theorem putMreg_clusters (a hi lo v : Nat) : (Machine.putMreg s a hi lo v).clusters = s.clusters := rfl
@[simp] theorem putMreg_stores (a hi lo v : Nat) : (Machine.putMreg s a hi lo v).stores = s.stores := rfl
@[simp] theorem putMreg_tags (a hi lo v : Nat) : (Machine.putMreg s a hi lo v).tags = s.tags := rfl
@[simp] theorem putMreg_parts (a hi lo v : Nat) : (Machine.putMreg s a hi lo v).parts = s.parts := rfl
@[simp] theorem putMreg_fabric (a hi lo v : Nat) : (Machine.putMreg s a hi lo v).fabric = s.fabric := rfl
@[simp] theorem putMreg_wardrobe (a hi lo v : Nat) : (Machine.putMreg s a hi lo v).wardrobe = s.wardrobe := rfl
@[simp] theorem putMreg_rel (a hi lo v : Nat) : (Machine.putMreg s a hi lo v).rel = s.rel := rfl
@[simp] theorem putMreg_sec (a hi lo v : Nat) : (Machine.putMreg s a hi lo v).sec = s.sec := rfl
@[simp] theorem putMreg_pwr (a hi lo v : Nat) : (Machine.putMreg s a hi lo v).pwr = s.pwr := rfl
@[simp] theorem putMreg_pattern (a hi lo v : Nat) : (Machine.putMreg s a hi lo v).pattern = s.pattern := rfl
@[simp] theorem putMreg_tap (a hi lo v : Nat) : (Machine.putMreg s a hi lo v).tap = s.tap := rfl

@[simp] theorem spend_pending (n : Nat) : (Machine.spend s n).pending = s.pending := rfl
@[simp] theorem spend_out (n : Nat) : (Machine.spend s n).out = s.out := rfl
@[simp] theorem spend_dieCtr (n : Nat) : (Machine.spend s n).dieCtr = s.dieCtr := rfl
@[simp] theorem spend_osc (n : Nat) : (Machine.spend s n).osc = s.osc := rfl
@[simp] theorem spend_cores (n : Nat) : (Machine.spend s n).cores = s.cores := rfl
@[simp] theorem spend_clusters (n : Nat) : (Machine.spend s n).clusters = s.clusters := rfl
@[simp] theorem spend_stores (n : Nat) : (Machine.spend s n).stores = s.stores := rfl
@[simp] theorem spend_tags (n : Nat) : (Machine.spend s n).tags = s.tags := rfl
@[simp] theorem spend_parts (n : Nat) : (Machine.spend s n).parts = s.parts := rfl
@[simp] theorem spend_fabric (n : Nat) : (Machine.spend s n).fabric = s.fabric := rfl
@[simp] theorem spend_wardrobe (n : Nat) : (Machine.spend s n).wardrobe = s.wardrobe := rfl
@[simp] theorem spend_rel (n : Nat) : (Machine.spend s n).rel = s.rel := rfl
@[simp] theorem spend_sec (n : Nat) : (Machine.spend s n).sec = s.sec := rfl
@[simp] theorem spend_pwr (n : Nat) : (Machine.spend s n).pwr = s.pwr := rfl
@[simp] theorem spend_mregs (n : Nat) : (Machine.spend s n).mregs = s.mregs := rfl
@[simp] theorem spend_pattern (n : Nat) : (Machine.spend s n).pattern = s.pattern := rfl
@[simp] theorem spend_tap (n : Nat) : (Machine.spend s n).tap = s.tap := rfl

@[simp] theorem emit_pending (e : Emit) : (Machine.emit s e).pending = s.pending := rfl
@[simp] theorem emit_freeIx (e : Emit) : (Machine.emit s e).freeIx = s.freeIx := rfl
@[simp] theorem emit_dieCtr (e : Emit) : (Machine.emit s e).dieCtr = s.dieCtr := rfl
@[simp] theorem emit_osc (e : Emit) : (Machine.emit s e).osc = s.osc := rfl
@[simp] theorem emit_cores (e : Emit) : (Machine.emit s e).cores = s.cores := rfl
@[simp] theorem emit_clusters (e : Emit) : (Machine.emit s e).clusters = s.clusters := rfl
@[simp] theorem emit_stores (e : Emit) : (Machine.emit s e).stores = s.stores := rfl
@[simp] theorem emit_tags (e : Emit) : (Machine.emit s e).tags = s.tags := rfl
@[simp] theorem emit_parts (e : Emit) : (Machine.emit s e).parts = s.parts := rfl
@[simp] theorem emit_fabric (e : Emit) : (Machine.emit s e).fabric = s.fabric := rfl
@[simp] theorem emit_wardrobe (e : Emit) : (Machine.emit s e).wardrobe = s.wardrobe := rfl
@[simp] theorem emit_rel (e : Emit) : (Machine.emit s e).rel = s.rel := rfl
@[simp] theorem emit_sec (e : Emit) : (Machine.emit s e).sec = s.sec := rfl
@[simp] theorem emit_pwr (e : Emit) : (Machine.emit s e).pwr = s.pwr := rfl
@[simp] theorem emit_mregs (e : Emit) : (Machine.emit s e).mregs = s.mregs := rfl
@[simp] theorem emit_pattern (e : Emit) : (Machine.emit s e).pattern = s.pattern := rfl
@[simp] theorem emit_tap (e : Emit) : (Machine.emit s e).tap = s.tap := rfl

@[simp] theorem msix_pending (p v : Nat) : (Machine.msix s p v).pending = s.pending := rfl
@[simp] theorem msix_freeIx (p v : Nat) : (Machine.msix s p v).freeIx = s.freeIx := rfl
@[simp] theorem msix_dieCtr (p v : Nat) : (Machine.msix s p v).dieCtr = s.dieCtr := rfl
@[simp] theorem msix_osc (p v : Nat) : (Machine.msix s p v).osc = s.osc := rfl
@[simp] theorem msix_cores (p v : Nat) : (Machine.msix s p v).cores = s.cores := rfl
@[simp] theorem msix_clusters (p v : Nat) : (Machine.msix s p v).clusters = s.clusters := rfl
@[simp] theorem msix_stores (p v : Nat) : (Machine.msix s p v).stores = s.stores := rfl
@[simp] theorem msix_tags (p v : Nat) : (Machine.msix s p v).tags = s.tags := rfl
@[simp] theorem msix_fabric (p v : Nat) : (Machine.msix s p v).fabric = s.fabric := rfl
@[simp] theorem msix_wardrobe (p v : Nat) : (Machine.msix s p v).wardrobe = s.wardrobe := rfl
@[simp] theorem msix_rel (p v : Nat) : (Machine.msix s p v).rel = s.rel := rfl
@[simp] theorem msix_sec (p v : Nat) : (Machine.msix s p v).sec = s.sec := rfl
@[simp] theorem msix_pwr (p v : Nat) : (Machine.msix s p v).pwr = s.pwr := rfl
@[simp] theorem msix_mregs (p v : Nat) : (Machine.msix s p v).mregs = s.mregs := rfl
@[simp] theorem msix_pattern (p v : Nat) : (Machine.msix s p v).pattern = s.pattern := rfl
@[simp] theorem msix_tap (p v : Nat) : (Machine.msix s p v).tap = s.tap := rfl

@[simp] theorem ctxVector_pending (p c : Nat) : (Machine.ctxVector s p c).pending = s.pending := rfl
@[simp] theorem ctxVector_freeIx (p c : Nat) : (Machine.ctxVector s p c).freeIx = s.freeIx := rfl
@[simp] theorem ctxVector_dieCtr (p c : Nat) : (Machine.ctxVector s p c).dieCtr = s.dieCtr := rfl
@[simp] theorem ctxVector_osc (p c : Nat) : (Machine.ctxVector s p c).osc = s.osc := rfl
@[simp] theorem ctxVector_cores (p c : Nat) : (Machine.ctxVector s p c).cores = s.cores := rfl
@[simp] theorem ctxVector_clusters (p c : Nat) : (Machine.ctxVector s p c).clusters = s.clusters := rfl
@[simp] theorem ctxVector_stores (p c : Nat) : (Machine.ctxVector s p c).stores = s.stores := rfl
@[simp] theorem ctxVector_tags (p c : Nat) : (Machine.ctxVector s p c).tags = s.tags := rfl
@[simp] theorem ctxVector_fabric (p c : Nat) : (Machine.ctxVector s p c).fabric = s.fabric := rfl
@[simp] theorem ctxVector_wardrobe (p c : Nat) : (Machine.ctxVector s p c).wardrobe = s.wardrobe := rfl
@[simp] theorem ctxVector_rel (p c : Nat) : (Machine.ctxVector s p c).rel = s.rel := rfl
@[simp] theorem ctxVector_sec (p c : Nat) : (Machine.ctxVector s p c).sec = s.sec := rfl
@[simp] theorem ctxVector_pwr (p c : Nat) : (Machine.ctxVector s p c).pwr = s.pwr := rfl
@[simp] theorem ctxVector_mregs (p c : Nat) : (Machine.ctxVector s p c).mregs = s.mregs := rfl
@[simp] theorem ctxVector_pattern (p c : Nat) : (Machine.ctxVector s p c).pattern = s.pattern := rfl
@[simp] theorem ctxVector_tap (p c : Nat) : (Machine.ctxVector s p c).tap = s.tap := rfl

@[simp] theorem lstat_pending (p c code : Nat) : (Machine.lstat s p c code).pending = s.pending := rfl
@[simp] theorem lstat_freeIx (p c code : Nat) : (Machine.lstat s p c code).freeIx = s.freeIx := rfl
@[simp] theorem lstat_dieCtr (p c code : Nat) : (Machine.lstat s p c code).dieCtr = s.dieCtr := rfl
@[simp] theorem lstat_osc (p c code : Nat) : (Machine.lstat s p c code).osc = s.osc := rfl
@[simp] theorem lstat_cores (p c code : Nat) : (Machine.lstat s p c code).cores = s.cores := rfl
@[simp] theorem lstat_clusters (p c code : Nat) : (Machine.lstat s p c code).clusters = s.clusters := rfl
@[simp] theorem lstat_stores (p c code : Nat) : (Machine.lstat s p c code).stores = s.stores := rfl
@[simp] theorem lstat_tags (p c code : Nat) : (Machine.lstat s p c code).tags = s.tags := rfl
@[simp] theorem lstat_fabric (p c code : Nat) : (Machine.lstat s p c code).fabric = s.fabric := rfl
@[simp] theorem lstat_wardrobe (p c code : Nat) : (Machine.lstat s p c code).wardrobe = s.wardrobe := rfl
@[simp] theorem lstat_rel (p c code : Nat) : (Machine.lstat s p c code).rel = s.rel := rfl
@[simp] theorem lstat_sec (p c code : Nat) : (Machine.lstat s p c code).sec = s.sec := rfl
@[simp] theorem lstat_pwr (p c code : Nat) : (Machine.lstat s p c code).pwr = s.pwr := rfl
@[simp] theorem lstat_mregs (p c code : Nat) : (Machine.lstat s p c code).mregs = s.mregs := rfl
@[simp] theorem lstat_pattern (p c code : Nat) : (Machine.lstat s p c code).pattern = s.pattern := rfl
@[simp] theorem lstat_tap (p c code : Nat) : (Machine.lstat s p c code).tap = s.tap := rfl

@[simp] theorem violation_pending (p : Nat) : (Machine.violation s p).pending = s.pending := rfl
@[simp] theorem violation_freeIx (p : Nat) : (Machine.violation s p).freeIx = s.freeIx := rfl
@[simp] theorem violation_out (p : Nat) : (Machine.violation s p).out = s.out := rfl
@[simp] theorem violation_dieCtr (p : Nat) : (Machine.violation s p).dieCtr = s.dieCtr := rfl
@[simp] theorem violation_osc (p : Nat) : (Machine.violation s p).osc = s.osc := rfl
@[simp] theorem violation_cores (p : Nat) : (Machine.violation s p).cores = s.cores := rfl
@[simp] theorem violation_clusters (p : Nat) : (Machine.violation s p).clusters = s.clusters := rfl
@[simp] theorem violation_stores (p : Nat) : (Machine.violation s p).stores = s.stores := rfl
@[simp] theorem violation_tags (p : Nat) : (Machine.violation s p).tags = s.tags := rfl
@[simp] theorem violation_fabric (p : Nat) : (Machine.violation s p).fabric = s.fabric := rfl
@[simp] theorem violation_wardrobe (p : Nat) : (Machine.violation s p).wardrobe = s.wardrobe := rfl
@[simp] theorem violation_rel (p : Nat) : (Machine.violation s p).rel = s.rel := rfl
@[simp] theorem violation_sec (p : Nat) : (Machine.violation s p).sec = s.sec := rfl
@[simp] theorem violation_pwr (p : Nat) : (Machine.violation s p).pwr = s.pwr := rfl
@[simp] theorem violation_mregs (p : Nat) : (Machine.violation s p).mregs = s.mregs := rfl
@[simp] theorem violation_pattern (p : Nat) : (Machine.violation s p).pattern = s.pattern := rfl
@[simp] theorem violation_tap (p : Nat) : (Machine.violation s p).tap = s.tap := rfl

@[simp] theorem setCstate_pending (p c v : Nat) : (Machine.setCstate s p c v).pending = s.pending := rfl
@[simp] theorem setCstate_freeIx (p c v : Nat) : (Machine.setCstate s p c v).freeIx = s.freeIx := rfl
@[simp] theorem setCstate_out (p c v : Nat) : (Machine.setCstate s p c v).out = s.out := rfl
@[simp] theorem setCstate_dieCtr (p c v : Nat) : (Machine.setCstate s p c v).dieCtr = s.dieCtr := rfl
@[simp] theorem setCstate_osc (p c v : Nat) : (Machine.setCstate s p c v).osc = s.osc := rfl
@[simp] theorem setCstate_cores (p c v : Nat) : (Machine.setCstate s p c v).cores = s.cores := rfl
@[simp] theorem setCstate_clusters (p c v : Nat) : (Machine.setCstate s p c v).clusters = s.clusters := rfl
@[simp] theorem setCstate_stores (p c v : Nat) : (Machine.setCstate s p c v).stores = s.stores := rfl
@[simp] theorem setCstate_tags (p c v : Nat) : (Machine.setCstate s p c v).tags = s.tags := rfl
@[simp] theorem setCstate_fabric (p c v : Nat) : (Machine.setCstate s p c v).fabric = s.fabric := rfl
@[simp] theorem setCstate_wardrobe (p c v : Nat) : (Machine.setCstate s p c v).wardrobe = s.wardrobe := rfl
@[simp] theorem setCstate_rel (p c v : Nat) : (Machine.setCstate s p c v).rel = s.rel := rfl
@[simp] theorem setCstate_sec (p c v : Nat) : (Machine.setCstate s p c v).sec = s.sec := rfl
@[simp] theorem setCstate_pwr (p c v : Nat) : (Machine.setCstate s p c v).pwr = s.pwr := rfl
@[simp] theorem setCstate_mregs (p c v : Nat) : (Machine.setCstate s p c v).mregs = s.mregs := rfl
@[simp] theorem setCstate_pattern (p c v : Nat) : (Machine.setCstate s p c v).pattern = s.pattern := rfl
@[simp] theorem setCstate_tap (p c v : Nat) : (Machine.setCstate s p c v).tap = s.tap := rfl

/-! ### The accessors that an update leaves -/

@[simp] theorem coreOf_putPart (p : Nat) (x : Partition) (k : Nat) : Machine.coreOf (Machine.putPart s p x) k = Machine.coreOf s k := rfl
@[simp] theorem clusOf_putPart (p : Nat) (x : Partition) (k : Nat) : Machine.clusOf (Machine.putPart s p x) k = Machine.clusOf s k := rfl
@[simp] theorem holderOf_putPart (p : Nat) (x : Partition) (k : Nat) : Machine.holderOf (Machine.putPart s p x) k = Machine.holderOf s k := rfl
@[simp] theorem portOf_putPart (p : Nat) (x : Partition) (k : Nat) : Machine.portOf (Machine.putPart s p x) k = Machine.portOf s k := rfl
@[simp] theorem mregOf_putPart (p : Nat) (x : Partition) (k : Nat) : Machine.mregOf (Machine.putPart s p x) k = Machine.mregOf s k := rfl
@[simp] theorem mreg_putPart (p : Nat) (x : Partition) (k y z : Nat) : Machine.mreg (Machine.putPart s p x) k y z = Machine.mreg s k y z := rfl
@[simp] theorem flashWritable_putPart (p : Nat) (x : Partition)  : Machine.flashWritable (Machine.putPart s p x) = Machine.flashWritable s := rfl

@[simp] theorem coreOf_onPart (p : Nat) (f : Partition → Partition) (k : Nat) : Machine.coreOf (Machine.onPart s p f) k = Machine.coreOf s k := rfl
@[simp] theorem clusOf_onPart (p : Nat) (f : Partition → Partition) (k : Nat) : Machine.clusOf (Machine.onPart s p f) k = Machine.clusOf s k := rfl
@[simp] theorem holderOf_onPart (p : Nat) (f : Partition → Partition) (k : Nat) : Machine.holderOf (Machine.onPart s p f) k = Machine.holderOf s k := rfl
@[simp] theorem portOf_onPart (p : Nat) (f : Partition → Partition) (k : Nat) : Machine.portOf (Machine.onPart s p f) k = Machine.portOf s k := rfl
@[simp] theorem mregOf_onPart (p : Nat) (f : Partition → Partition) (k : Nat) : Machine.mregOf (Machine.onPart s p f) k = Machine.mregOf s k := rfl
@[simp] theorem mreg_onPart (p : Nat) (f : Partition → Partition) (k y z : Nat) : Machine.mreg (Machine.onPart s p f) k y z = Machine.mreg s k y z := rfl
@[simp] theorem flashWritable_onPart (p : Nat) (f : Partition → Partition)  : Machine.flashWritable (Machine.onPart s p f) = Machine.flashWritable s := rfl

@[simp] theorem coreOf_onCtx (p c : Nat) (f : Ctx → Ctx) (k : Nat) : Machine.coreOf (Machine.onCtx s p c f) k = Machine.coreOf s k := rfl
@[simp] theorem clusOf_onCtx (p c : Nat) (f : Ctx → Ctx) (k : Nat) : Machine.clusOf (Machine.onCtx s p c f) k = Machine.clusOf s k := rfl
@[simp] theorem holderOf_onCtx (p c : Nat) (f : Ctx → Ctx) (k : Nat) : Machine.holderOf (Machine.onCtx s p c f) k = Machine.holderOf s k := rfl
@[simp] theorem portOf_onCtx (p c : Nat) (f : Ctx → Ctx) (k : Nat) : Machine.portOf (Machine.onCtx s p c f) k = Machine.portOf s k := rfl
@[simp] theorem mregOf_onCtx (p c : Nat) (f : Ctx → Ctx) (k : Nat) : Machine.mregOf (Machine.onCtx s p c f) k = Machine.mregOf s k := rfl
@[simp] theorem mreg_onCtx (p c : Nat) (f : Ctx → Ctx) (k y z : Nat) : Machine.mreg (Machine.onCtx s p c f) k y z = Machine.mreg s k y z := rfl
@[simp] theorem flashWritable_onCtx (p c : Nat) (f : Ctx → Ctx)  : Machine.flashWritable (Machine.onCtx s p c f) = Machine.flashWritable s := rfl

@[simp] theorem coreOf_putReg (p off hi lo v : Nat) (k : Nat) : Machine.coreOf (Machine.putReg s p off hi lo v) k = Machine.coreOf s k := rfl
@[simp] theorem clusOf_putReg (p off hi lo v : Nat) (k : Nat) : Machine.clusOf (Machine.putReg s p off hi lo v) k = Machine.clusOf s k := rfl
@[simp] theorem holderOf_putReg (p off hi lo v : Nat) (k : Nat) : Machine.holderOf (Machine.putReg s p off hi lo v) k = Machine.holderOf s k := rfl
@[simp] theorem portOf_putReg (p off hi lo v : Nat) (k : Nat) : Machine.portOf (Machine.putReg s p off hi lo v) k = Machine.portOf s k := rfl
@[simp] theorem mregOf_putReg (p off hi lo v : Nat) (k : Nat) : Machine.mregOf (Machine.putReg s p off hi lo v) k = Machine.mregOf s k := rfl
@[simp] theorem mreg_putReg (p off hi lo v : Nat) (k y z : Nat) : Machine.mreg (Machine.putReg s p off hi lo v) k y z = Machine.mreg s k y z := rfl
@[simp] theorem flashWritable_putReg (p off hi lo v : Nat)  : Machine.flashWritable (Machine.putReg s p off hi lo v) = Machine.flashWritable s := rfl

@[simp] theorem partOf_putCore (g : Nat) (x : Core) (q : Nat) : Machine.partOf (Machine.putCore s g x) q = Machine.partOf s q := rfl
@[simp] theorem ctxOf_putCore (g : Nat) (x : Core) (q d : Nat) : Machine.ctxOf (Machine.putCore s g x) q d = Machine.ctxOf s q d := rfl
@[simp] theorem reg_putCore (g : Nat) (x : Core) (q o y z : Nat) : Machine.reg (Machine.putCore s g x) q o y z = Machine.reg s q o y z := rfl
@[simp] theorem cstate_putCore (g : Nat) (x : Core) (q d : Nat) : Machine.cstate (Machine.putCore s g x) q d = Machine.cstate s q d := rfl
@[simp] theorem clusOf_putCore (g : Nat) (x : Core) (k : Nat) : Machine.clusOf (Machine.putCore s g x) k = Machine.clusOf s k := rfl
@[simp] theorem holderOf_putCore (g : Nat) (x : Core) (k : Nat) : Machine.holderOf (Machine.putCore s g x) k = Machine.holderOf s k := rfl
@[simp] theorem portOf_putCore (g : Nat) (x : Core) (k : Nat) : Machine.portOf (Machine.putCore s g x) k = Machine.portOf s k := rfl
@[simp] theorem mregOf_putCore (g : Nat) (x : Core) (k : Nat) : Machine.mregOf (Machine.putCore s g x) k = Machine.mregOf s k := rfl
@[simp] theorem mreg_putCore (g : Nat) (x : Core) (k y z : Nat) : Machine.mreg (Machine.putCore s g x) k y z = Machine.mreg s k y z := rfl
@[simp] theorem flashWritable_putCore (g : Nat) (x : Core)  : Machine.flashWritable (Machine.putCore s g x) = Machine.flashWritable s := rfl

@[simp] theorem partOf_onCore (g : Nat) (f : Core → Core) (q : Nat) : Machine.partOf (Machine.onCore s g f) q = Machine.partOf s q := rfl
@[simp] theorem ctxOf_onCore (g : Nat) (f : Core → Core) (q d : Nat) : Machine.ctxOf (Machine.onCore s g f) q d = Machine.ctxOf s q d := rfl
@[simp] theorem reg_onCore (g : Nat) (f : Core → Core) (q o y z : Nat) : Machine.reg (Machine.onCore s g f) q o y z = Machine.reg s q o y z := rfl
@[simp] theorem cstate_onCore (g : Nat) (f : Core → Core) (q d : Nat) : Machine.cstate (Machine.onCore s g f) q d = Machine.cstate s q d := rfl
@[simp] theorem clusOf_onCore (g : Nat) (f : Core → Core) (k : Nat) : Machine.clusOf (Machine.onCore s g f) k = Machine.clusOf s k := rfl
@[simp] theorem holderOf_onCore (g : Nat) (f : Core → Core) (k : Nat) : Machine.holderOf (Machine.onCore s g f) k = Machine.holderOf s k := rfl
@[simp] theorem portOf_onCore (g : Nat) (f : Core → Core) (k : Nat) : Machine.portOf (Machine.onCore s g f) k = Machine.portOf s k := rfl
@[simp] theorem mregOf_onCore (g : Nat) (f : Core → Core) (k : Nat) : Machine.mregOf (Machine.onCore s g f) k = Machine.mregOf s k := rfl
@[simp] theorem mreg_onCore (g : Nat) (f : Core → Core) (k y z : Nat) : Machine.mreg (Machine.onCore s g f) k y z = Machine.mreg s k y z := rfl
@[simp] theorem flashWritable_onCore (g : Nat) (f : Core → Core)  : Machine.flashWritable (Machine.onCore s g f) = Machine.flashWritable s := rfl

@[simp] theorem partOf_putClus (h : Nat) (x : Cluster) (q : Nat) : Machine.partOf (Machine.putClus s h x) q = Machine.partOf s q := rfl
@[simp] theorem ctxOf_putClus (h : Nat) (x : Cluster) (q d : Nat) : Machine.ctxOf (Machine.putClus s h x) q d = Machine.ctxOf s q d := rfl
@[simp] theorem reg_putClus (h : Nat) (x : Cluster) (q o y z : Nat) : Machine.reg (Machine.putClus s h x) q o y z = Machine.reg s q o y z := rfl
@[simp] theorem cstate_putClus (h : Nat) (x : Cluster) (q d : Nat) : Machine.cstate (Machine.putClus s h x) q d = Machine.cstate s q d := rfl
@[simp] theorem coreOf_putClus (h : Nat) (x : Cluster) (k : Nat) : Machine.coreOf (Machine.putClus s h x) k = Machine.coreOf s k := rfl
@[simp] theorem portOf_putClus (h : Nat) (x : Cluster) (k : Nat) : Machine.portOf (Machine.putClus s h x) k = Machine.portOf s k := rfl
@[simp] theorem mregOf_putClus (h : Nat) (x : Cluster) (k : Nat) : Machine.mregOf (Machine.putClus s h x) k = Machine.mregOf s k := rfl
@[simp] theorem mreg_putClus (h : Nat) (x : Cluster) (k y z : Nat) : Machine.mreg (Machine.putClus s h x) k y z = Machine.mreg s k y z := rfl
@[simp] theorem flashWritable_putClus (h : Nat) (x : Cluster)  : Machine.flashWritable (Machine.putClus s h x) = Machine.flashWritable s := rfl

@[simp] theorem partOf_onClus (h : Nat) (f : Cluster → Cluster) (q : Nat) : Machine.partOf (Machine.onClus s h f) q = Machine.partOf s q := rfl
@[simp] theorem ctxOf_onClus (h : Nat) (f : Cluster → Cluster) (q d : Nat) : Machine.ctxOf (Machine.onClus s h f) q d = Machine.ctxOf s q d := rfl
@[simp] theorem reg_onClus (h : Nat) (f : Cluster → Cluster) (q o y z : Nat) : Machine.reg (Machine.onClus s h f) q o y z = Machine.reg s q o y z := rfl
@[simp] theorem cstate_onClus (h : Nat) (f : Cluster → Cluster) (q d : Nat) : Machine.cstate (Machine.onClus s h f) q d = Machine.cstate s q d := rfl
@[simp] theorem coreOf_onClus (h : Nat) (f : Cluster → Cluster) (k : Nat) : Machine.coreOf (Machine.onClus s h f) k = Machine.coreOf s k := rfl
@[simp] theorem portOf_onClus (h : Nat) (f : Cluster → Cluster) (k : Nat) : Machine.portOf (Machine.onClus s h f) k = Machine.portOf s k := rfl
@[simp] theorem mregOf_onClus (h : Nat) (f : Cluster → Cluster) (k : Nat) : Machine.mregOf (Machine.onClus s h f) k = Machine.mregOf s k := rfl
@[simp] theorem mreg_onClus (h : Nat) (f : Cluster → Cluster) (k y z : Nat) : Machine.mreg (Machine.onClus s h f) k y z = Machine.mreg s k y z := rfl
@[simp] theorem flashWritable_onClus (h : Nat) (f : Cluster → Cluster)  : Machine.flashWritable (Machine.onClus s h f) = Machine.flashWritable s := rfl

@[simp] theorem partOf_putPort (c : Nat) (x : Port) (q : Nat) : Machine.partOf (Machine.putPort s c x) q = Machine.partOf s q := rfl
@[simp] theorem ctxOf_putPort (c : Nat) (x : Port) (q d : Nat) : Machine.ctxOf (Machine.putPort s c x) q d = Machine.ctxOf s q d := rfl
@[simp] theorem reg_putPort (c : Nat) (x : Port) (q o y z : Nat) : Machine.reg (Machine.putPort s c x) q o y z = Machine.reg s q o y z := rfl
@[simp] theorem cstate_putPort (c : Nat) (x : Port) (q d : Nat) : Machine.cstate (Machine.putPort s c x) q d = Machine.cstate s q d := rfl
@[simp] theorem coreOf_putPort (c : Nat) (x : Port) (k : Nat) : Machine.coreOf (Machine.putPort s c x) k = Machine.coreOf s k := rfl
@[simp] theorem clusOf_putPort (c : Nat) (x : Port) (k : Nat) : Machine.clusOf (Machine.putPort s c x) k = Machine.clusOf s k := rfl
@[simp] theorem holderOf_putPort (c : Nat) (x : Port) (k : Nat) : Machine.holderOf (Machine.putPort s c x) k = Machine.holderOf s k := rfl
@[simp] theorem mregOf_putPort (c : Nat) (x : Port) (k : Nat) : Machine.mregOf (Machine.putPort s c x) k = Machine.mregOf s k := rfl
@[simp] theorem mreg_putPort (c : Nat) (x : Port) (k y z : Nat) : Machine.mreg (Machine.putPort s c x) k y z = Machine.mreg s k y z := rfl
@[simp] theorem flashWritable_putPort (c : Nat) (x : Port)  : Machine.flashWritable (Machine.putPort s c x) = Machine.flashWritable s := rfl

@[simp] theorem partOf_onPort (c : Nat) (f : Port → Port) (q : Nat) : Machine.partOf (Machine.onPort s c f) q = Machine.partOf s q := rfl
@[simp] theorem ctxOf_onPort (c : Nat) (f : Port → Port) (q d : Nat) : Machine.ctxOf (Machine.onPort s c f) q d = Machine.ctxOf s q d := rfl
@[simp] theorem reg_onPort (c : Nat) (f : Port → Port) (q o y z : Nat) : Machine.reg (Machine.onPort s c f) q o y z = Machine.reg s q o y z := rfl
@[simp] theorem cstate_onPort (c : Nat) (f : Port → Port) (q d : Nat) : Machine.cstate (Machine.onPort s c f) q d = Machine.cstate s q d := rfl
@[simp] theorem coreOf_onPort (c : Nat) (f : Port → Port) (k : Nat) : Machine.coreOf (Machine.onPort s c f) k = Machine.coreOf s k := rfl
@[simp] theorem clusOf_onPort (c : Nat) (f : Port → Port) (k : Nat) : Machine.clusOf (Machine.onPort s c f) k = Machine.clusOf s k := rfl
@[simp] theorem holderOf_onPort (c : Nat) (f : Port → Port) (k : Nat) : Machine.holderOf (Machine.onPort s c f) k = Machine.holderOf s k := rfl
@[simp] theorem mregOf_onPort (c : Nat) (f : Port → Port) (k : Nat) : Machine.mregOf (Machine.onPort s c f) k = Machine.mregOf s k := rfl
@[simp] theorem mreg_onPort (c : Nat) (f : Port → Port) (k y z : Nat) : Machine.mreg (Machine.onPort s c f) k y z = Machine.mreg s k y z := rfl
@[simp] theorem flashWritable_onPort (c : Nat) (f : Port → Port)  : Machine.flashWritable (Machine.onPort s c f) = Machine.flashWritable s := rfl

@[simp] theorem partOf_setMreg (a : Nat) (w : Word) (q : Nat) : Machine.partOf (Machine.setMreg s a w) q = Machine.partOf s q := rfl
@[simp] theorem ctxOf_setMreg (a : Nat) (w : Word) (q d : Nat) : Machine.ctxOf (Machine.setMreg s a w) q d = Machine.ctxOf s q d := rfl
@[simp] theorem reg_setMreg (a : Nat) (w : Word) (q o y z : Nat) : Machine.reg (Machine.setMreg s a w) q o y z = Machine.reg s q o y z := rfl
@[simp] theorem cstate_setMreg (a : Nat) (w : Word) (q d : Nat) : Machine.cstate (Machine.setMreg s a w) q d = Machine.cstate s q d := rfl
@[simp] theorem coreOf_setMreg (a : Nat) (w : Word) (k : Nat) : Machine.coreOf (Machine.setMreg s a w) k = Machine.coreOf s k := rfl
@[simp] theorem clusOf_setMreg (a : Nat) (w : Word) (k : Nat) : Machine.clusOf (Machine.setMreg s a w) k = Machine.clusOf s k := rfl
@[simp] theorem holderOf_setMreg (a : Nat) (w : Word) (k : Nat) : Machine.holderOf (Machine.setMreg s a w) k = Machine.holderOf s k := rfl
@[simp] theorem portOf_setMreg (a : Nat) (w : Word) (k : Nat) : Machine.portOf (Machine.setMreg s a w) k = Machine.portOf s k := rfl
@[simp] theorem flashWritable_setMreg (a : Nat) (w : Word)  : Machine.flashWritable (Machine.setMreg s a w) = Machine.flashWritable s := rfl

@[simp] theorem partOf_putMreg (a hi lo v : Nat) (q : Nat) : Machine.partOf (Machine.putMreg s a hi lo v) q = Machine.partOf s q := rfl
@[simp] theorem ctxOf_putMreg (a hi lo v : Nat) (q d : Nat) : Machine.ctxOf (Machine.putMreg s a hi lo v) q d = Machine.ctxOf s q d := rfl
@[simp] theorem reg_putMreg (a hi lo v : Nat) (q o y z : Nat) : Machine.reg (Machine.putMreg s a hi lo v) q o y z = Machine.reg s q o y z := rfl
@[simp] theorem cstate_putMreg (a hi lo v : Nat) (q d : Nat) : Machine.cstate (Machine.putMreg s a hi lo v) q d = Machine.cstate s q d := rfl
@[simp] theorem coreOf_putMreg (a hi lo v : Nat) (k : Nat) : Machine.coreOf (Machine.putMreg s a hi lo v) k = Machine.coreOf s k := rfl
@[simp] theorem clusOf_putMreg (a hi lo v : Nat) (k : Nat) : Machine.clusOf (Machine.putMreg s a hi lo v) k = Machine.clusOf s k := rfl
@[simp] theorem holderOf_putMreg (a hi lo v : Nat) (k : Nat) : Machine.holderOf (Machine.putMreg s a hi lo v) k = Machine.holderOf s k := rfl
@[simp] theorem portOf_putMreg (a hi lo v : Nat) (k : Nat) : Machine.portOf (Machine.putMreg s a hi lo v) k = Machine.portOf s k := rfl
@[simp] theorem flashWritable_putMreg (a hi lo v : Nat)  : Machine.flashWritable (Machine.putMreg s a hi lo v) = Machine.flashWritable s := rfl

@[simp] theorem partOf_spend (n : Nat) (q : Nat) : Machine.partOf (Machine.spend s n) q = Machine.partOf s q := rfl
@[simp] theorem ctxOf_spend (n : Nat) (q d : Nat) : Machine.ctxOf (Machine.spend s n) q d = Machine.ctxOf s q d := rfl
@[simp] theorem reg_spend (n : Nat) (q o y z : Nat) : Machine.reg (Machine.spend s n) q o y z = Machine.reg s q o y z := rfl
@[simp] theorem cstate_spend (n : Nat) (q d : Nat) : Machine.cstate (Machine.spend s n) q d = Machine.cstate s q d := rfl
@[simp] theorem coreOf_spend (n : Nat) (k : Nat) : Machine.coreOf (Machine.spend s n) k = Machine.coreOf s k := rfl
@[simp] theorem clusOf_spend (n : Nat) (k : Nat) : Machine.clusOf (Machine.spend s n) k = Machine.clusOf s k := rfl
@[simp] theorem holderOf_spend (n : Nat) (k : Nat) : Machine.holderOf (Machine.spend s n) k = Machine.holderOf s k := rfl
@[simp] theorem portOf_spend (n : Nat) (k : Nat) : Machine.portOf (Machine.spend s n) k = Machine.portOf s k := rfl
@[simp] theorem mregOf_spend (n : Nat) (k : Nat) : Machine.mregOf (Machine.spend s n) k = Machine.mregOf s k := rfl
@[simp] theorem mreg_spend (n : Nat) (k y z : Nat) : Machine.mreg (Machine.spend s n) k y z = Machine.mreg s k y z := rfl
@[simp] theorem flashWritable_spend (n : Nat)  : Machine.flashWritable (Machine.spend s n) = Machine.flashWritable s := rfl

@[simp] theorem partOf_emit (e : Emit) (q : Nat) : Machine.partOf (Machine.emit s e) q = Machine.partOf s q := rfl
@[simp] theorem ctxOf_emit (e : Emit) (q d : Nat) : Machine.ctxOf (Machine.emit s e) q d = Machine.ctxOf s q d := rfl
@[simp] theorem reg_emit (e : Emit) (q o y z : Nat) : Machine.reg (Machine.emit s e) q o y z = Machine.reg s q o y z := rfl
@[simp] theorem cstate_emit (e : Emit) (q d : Nat) : Machine.cstate (Machine.emit s e) q d = Machine.cstate s q d := rfl
@[simp] theorem coreOf_emit (e : Emit) (k : Nat) : Machine.coreOf (Machine.emit s e) k = Machine.coreOf s k := rfl
@[simp] theorem clusOf_emit (e : Emit) (k : Nat) : Machine.clusOf (Machine.emit s e) k = Machine.clusOf s k := rfl
@[simp] theorem holderOf_emit (e : Emit) (k : Nat) : Machine.holderOf (Machine.emit s e) k = Machine.holderOf s k := rfl
@[simp] theorem portOf_emit (e : Emit) (k : Nat) : Machine.portOf (Machine.emit s e) k = Machine.portOf s k := rfl
@[simp] theorem mregOf_emit (e : Emit) (k : Nat) : Machine.mregOf (Machine.emit s e) k = Machine.mregOf s k := rfl
@[simp] theorem mreg_emit (e : Emit) (k y z : Nat) : Machine.mreg (Machine.emit s e) k y z = Machine.mreg s k y z := rfl
@[simp] theorem flashWritable_emit (e : Emit)  : Machine.flashWritable (Machine.emit s e) = Machine.flashWritable s := rfl

@[simp] theorem coreOf_msix (p v : Nat) (k : Nat) : Machine.coreOf (Machine.msix s p v) k = Machine.coreOf s k := rfl
@[simp] theorem clusOf_msix (p v : Nat) (k : Nat) : Machine.clusOf (Machine.msix s p v) k = Machine.clusOf s k := rfl
@[simp] theorem holderOf_msix (p v : Nat) (k : Nat) : Machine.holderOf (Machine.msix s p v) k = Machine.holderOf s k := rfl
@[simp] theorem portOf_msix (p v : Nat) (k : Nat) : Machine.portOf (Machine.msix s p v) k = Machine.portOf s k := rfl
@[simp] theorem mregOf_msix (p v : Nat) (k : Nat) : Machine.mregOf (Machine.msix s p v) k = Machine.mregOf s k := rfl
@[simp] theorem mreg_msix (p v : Nat) (k y z : Nat) : Machine.mreg (Machine.msix s p v) k y z = Machine.mreg s k y z := rfl
@[simp] theorem flashWritable_msix (p v : Nat)  : Machine.flashWritable (Machine.msix s p v) = Machine.flashWritable s := rfl

@[simp] theorem coreOf_ctxVector (p c : Nat) (k : Nat) : Machine.coreOf (Machine.ctxVector s p c) k = Machine.coreOf s k := rfl
@[simp] theorem clusOf_ctxVector (p c : Nat) (k : Nat) : Machine.clusOf (Machine.ctxVector s p c) k = Machine.clusOf s k := rfl
@[simp] theorem holderOf_ctxVector (p c : Nat) (k : Nat) : Machine.holderOf (Machine.ctxVector s p c) k = Machine.holderOf s k := rfl
@[simp] theorem portOf_ctxVector (p c : Nat) (k : Nat) : Machine.portOf (Machine.ctxVector s p c) k = Machine.portOf s k := rfl
@[simp] theorem mregOf_ctxVector (p c : Nat) (k : Nat) : Machine.mregOf (Machine.ctxVector s p c) k = Machine.mregOf s k := rfl
@[simp] theorem mreg_ctxVector (p c : Nat) (k y z : Nat) : Machine.mreg (Machine.ctxVector s p c) k y z = Machine.mreg s k y z := rfl
@[simp] theorem flashWritable_ctxVector (p c : Nat)  : Machine.flashWritable (Machine.ctxVector s p c) = Machine.flashWritable s := rfl

@[simp] theorem coreOf_lstat (p c code : Nat) (k : Nat) : Machine.coreOf (Machine.lstat s p c code) k = Machine.coreOf s k := rfl
@[simp] theorem clusOf_lstat (p c code : Nat) (k : Nat) : Machine.clusOf (Machine.lstat s p c code) k = Machine.clusOf s k := rfl
@[simp] theorem holderOf_lstat (p c code : Nat) (k : Nat) : Machine.holderOf (Machine.lstat s p c code) k = Machine.holderOf s k := rfl
@[simp] theorem portOf_lstat (p c code : Nat) (k : Nat) : Machine.portOf (Machine.lstat s p c code) k = Machine.portOf s k := rfl
@[simp] theorem mregOf_lstat (p c code : Nat) (k : Nat) : Machine.mregOf (Machine.lstat s p c code) k = Machine.mregOf s k := rfl
@[simp] theorem mreg_lstat (p c code : Nat) (k y z : Nat) : Machine.mreg (Machine.lstat s p c code) k y z = Machine.mreg s k y z := rfl
@[simp] theorem flashWritable_lstat (p c code : Nat)  : Machine.flashWritable (Machine.lstat s p c code) = Machine.flashWritable s := rfl

@[simp] theorem coreOf_violation (p : Nat) (k : Nat) : Machine.coreOf (Machine.violation s p) k = Machine.coreOf s k := rfl
@[simp] theorem clusOf_violation (p : Nat) (k : Nat) : Machine.clusOf (Machine.violation s p) k = Machine.clusOf s k := rfl
@[simp] theorem holderOf_violation (p : Nat) (k : Nat) : Machine.holderOf (Machine.violation s p) k = Machine.holderOf s k := rfl
@[simp] theorem portOf_violation (p : Nat) (k : Nat) : Machine.portOf (Machine.violation s p) k = Machine.portOf s k := rfl
@[simp] theorem mregOf_violation (p : Nat) (k : Nat) : Machine.mregOf (Machine.violation s p) k = Machine.mregOf s k := rfl
@[simp] theorem mreg_violation (p : Nat) (k y z : Nat) : Machine.mreg (Machine.violation s p) k y z = Machine.mreg s k y z := rfl
@[simp] theorem flashWritable_violation (p : Nat)  : Machine.flashWritable (Machine.violation s p) = Machine.flashWritable s := rfl

@[simp] theorem coreOf_setCstate (p c v : Nat) (k : Nat) : Machine.coreOf (Machine.setCstate s p c v) k = Machine.coreOf s k := rfl
@[simp] theorem clusOf_setCstate (p c v : Nat) (k : Nat) : Machine.clusOf (Machine.setCstate s p c v) k = Machine.clusOf s k := rfl
@[simp] theorem holderOf_setCstate (p c v : Nat) (k : Nat) : Machine.holderOf (Machine.setCstate s p c v) k = Machine.holderOf s k := rfl
@[simp] theorem portOf_setCstate (p c v : Nat) (k : Nat) : Machine.portOf (Machine.setCstate s p c v) k = Machine.portOf s k := rfl
@[simp] theorem mregOf_setCstate (p c v : Nat) (k : Nat) : Machine.mregOf (Machine.setCstate s p c v) k = Machine.mregOf s k := rfl
@[simp] theorem mreg_setCstate (p c v : Nat) (k y z : Nat) : Machine.mreg (Machine.setCstate s p c v) k y z = Machine.mreg s k y z := rfl
@[simp] theorem flashWritable_setCstate (p c v : Nat)  : Machine.flashWritable (Machine.setCstate s p c v) = Machine.flashWritable s := rfl

/-! ### What an update writes -/

@[simp] theorem partOf_putPart (p : Nat) (x : Partition) : partOf (putPart s p x) p = x := by
  simp [partOf, putPart]
theorem partOf_putPart_ne (p q : Nat) (x : Partition) (h : q ≠ p) :
    partOf (putPart s p x) q = partOf s q := by simp [partOf, putPart, sget_sset_ne, h]
@[simp] theorem partOf_onPart (p : Nat) (f : Partition → Partition) :
    partOf (onPart s p f) p = f (partOf s p) := by simp [onPart]
theorem partOf_onPart_ne (p q : Nat) (f : Partition → Partition) (h : q ≠ p) :
    partOf (onPart s p f) q = partOf s q := by simp [onPart, partOf_putPart_ne, h]

@[simp] theorem coreOf_putCore (g : Nat) (x : Core) : coreOf (putCore s g x) g = x := by
  simp [coreOf, putCore]
theorem coreOf_putCore_ne (g k : Nat) (x : Core) (h : k ≠ g) :
    coreOf (putCore s g x) k = coreOf s k := by simp [coreOf, putCore, sget_sset_ne, h]
@[simp] theorem coreOf_onCore (g : Nat) (f : Core → Core) :
    coreOf (onCore s g f) g = f (coreOf s g) := by simp [onCore]
theorem coreOf_onCore_ne (g k : Nat) (f : Core → Core) (h : k ≠ g) :
    coreOf (onCore s g f) k = coreOf s k := by simp [onCore, coreOf_putCore_ne, h]

@[simp] theorem clusOf_putClus (h : Nat) (x : Cluster) : clusOf (putClus s h x) h = x := by
  simp [clusOf, putClus]
theorem clusOf_putClus_ne (h k : Nat) (x : Cluster) (hk : k ≠ h) :
    clusOf (putClus s h x) k = clusOf s k := by simp [clusOf, putClus, sget_sset_ne, hk]
@[simp] theorem clusOf_onClus (h : Nat) (f : Cluster → Cluster) :
    clusOf (onClus s h f) h = f (clusOf s h) := by simp [onClus]
theorem clusOf_onClus_ne (h k : Nat) (f : Cluster → Cluster) (hk : k ≠ h) :
    clusOf (onClus s h f) k = clusOf s k := by simp [onClus, clusOf_putClus_ne, hk]

@[simp] theorem portOf_putPort (c : Nat) (x : Port) : portOf (putPort s c x) c = x := by
  simp [portOf, putPort]
theorem portOf_putPort_ne (c k : Nat) (x : Port) (h : k ≠ c) :
    portOf (putPort s c x) k = portOf s k := by simp [portOf, putPort, sget_sset_ne, h]
@[simp] theorem portOf_onPort (c : Nat) (f : Port → Port) :
    portOf (onPort s c f) c = f (portOf s c) := by simp [onPort]
theorem portOf_onPort_ne (c k : Nat) (f : Port → Port) (h : k ≠ c) :
    portOf (onPort s c f) k = portOf s k := by simp [onPort, portOf_putPort_ne, h]

@[simp] theorem Partition_ctxOf_putCtx (x : Partition) (c : Nat) (y : Ctx) : (x.putCtx c y).ctxOf c = y := by
  simp [Partition.ctxOf, Partition.putCtx]
theorem Partition_ctxOf_putCtx_ne (x : Partition) (c k : Nat) (y : Ctx) (h : k ≠ c) :
    (x.putCtx c y).ctxOf k = x.ctxOf k := by simp [Partition.ctxOf, Partition.putCtx, sget_sset_ne, h]
@[simp] theorem ctxOf_onCtx (p c : Nat) (f : Ctx → Ctx) : ctxOf (onCtx s p c f) p c = f (ctxOf s p c) := by
  simp [ctxOf, onCtx]
@[simp] theorem reg_onCtx (p c : Nat) (f : Ctx → Ctx) (q o a b : Nat) :
    reg (onCtx s p c f) q o a b = reg s q o a b := by
  by_cases h : q = p
  · subst h; simp [reg, onCtx, Partition.putCtx, Partition.get, Partition.reg]
  · simp [reg, onCtx, partOf_onPart_ne, h]

/-! ### Registers -/

@[simp] theorem Partition_reg_setReg (x : Partition) (o : Nat) (w : Word) : (x.setReg o w).reg o = w := by
  simp [Partition.reg, Partition.setReg]
theorem Partition_reg_setReg_ne (x : Partition) (o k : Nat) (w : Word) (h : k ≠ o) :
    (x.setReg o w).reg k = x.reg k := by simp [Partition.reg, Partition.setReg, sget_sset_ne, h]

/-- The written field of the written register. -/
theorem Partition_get_put (x : Partition) (o hi lo v : Nat) (hl : lo ≤ hi) (hn : hi < 64) :
    (x.put o hi lo v).get o hi lo = v % 2 ^ (hi + 1 - lo) := by
  simp [Partition.get, Partition.put, fld_setFld _ _ _ _ hl hn]
/-- Another field of the written register. -/
theorem Partition_get_put_fld (x : Partition) (o hi lo v a b : Nat) (hl : lo ≤ hi) (hd : a < lo ∨ hi < b) :
    (x.put o hi lo v).get o a b = x.get o a b := by
  simp [Partition.get, Partition.put, fld_setFld_ne _ _ _ _ _ _ hl hd]
/-- Another register. -/
theorem Partition_get_put_ne (x : Partition) (o hi lo v k a b : Nat) (h : k ≠ o) :
    (x.put o hi lo v).get k a b = x.get k a b := by
  simp [Partition.get, Partition.put, Partition_reg_setReg_ne, h]

theorem reg_putReg (p o hi lo v : Nat) (hl : lo ≤ hi) (hn : hi < 64) :
    reg (putReg s p o hi lo v) p o hi lo = v % 2 ^ (hi + 1 - lo) := by
  simp [reg, putReg, Partition_get_put _ _ _ _ _ hl hn]
theorem reg_putReg_fld (p o hi lo v a b : Nat) (hl : lo ≤ hi) (hd : a < lo ∨ hi < b) :
    reg (putReg s p o hi lo v) p o a b = reg s p o a b := by
  simp [reg, putReg, Partition_get_put_fld _ _ _ _ _ _ _ hl hd]
theorem reg_putReg_ne (p o hi lo v k a b : Nat) (h : k ≠ o) :
    reg (putReg s p o hi lo v) p k a b = reg s p k a b := by
  simp [reg, putReg, Partition_get_put_ne, h]
theorem reg_putReg_part (p o hi lo v q k a b : Nat) (h : q ≠ p) :
    reg (putReg s p o hi lo v) q k a b = reg s q k a b := by
  simp [reg, putReg, partOf_onPart_ne, h]

@[simp] theorem mregOf_setMreg (a : Nat) (w : Word) : mregOf (setMreg s a w) a = w := by
  simp [mregOf, setMreg]
theorem mregOf_setMreg_ne (a k : Nat) (w : Word) (h : k ≠ a) : mregOf (setMreg s a w) k = mregOf s k := by
  simp [mregOf, setMreg, sget_sset_ne, h]
theorem mreg_putMreg (a hi lo v : Nat) (hl : lo ≤ hi) (hn : hi < 64) :
    mreg (putMreg s a hi lo v) a hi lo = v % 2 ^ (hi + 1 - lo) := by
  simp [mreg, putMreg, fld_setFld _ _ _ _ hl hn]
theorem mreg_putMreg_fld (a hi lo v x y : Nat) (hl : lo ≤ hi) (hd : x < lo ∨ hi < y) :
    mreg (putMreg s a hi lo v) a x y = mreg s a x y := by
  simp [mreg, putMreg, fld_setFld_ne _ _ _ _ _ _ hl hd]
theorem mreg_putMreg_ne (a hi lo v k x y : Nat) (h : k ≠ a) :
    mreg (putMreg s a hi lo v) k x y = mreg s k x y := by
  simp [mreg, putMreg, mregOf_setMreg_ne, h]

/-- Raising a vector changes no register. -/
@[simp] theorem reg_msix (p v q o a b : Nat) : reg (msix s p v) q o a b = reg s q o a b := by
  by_cases h : q = p
  · subst h; simp [reg, msix, Partition.get, Partition.reg]
  · simp [reg, msix, partOf_onPart_ne, h]
@[simp] theorem reg_ctxVector (p c q o a b : Nat) : reg (ctxVector s p c) q o a b = reg s q o a b := by
  simp [ctxVector]
@[simp] theorem reg_violation (p q o a b : Nat) : reg (violation s p) q o a b = reg s q o a b := by
  by_cases h : q = p
  · subst h; simp [reg, violation, Partition.get, Partition.reg]
  · simp [reg, violation, partOf_onPart_ne, h]

@[simp] theorem msix_out (p v : Nat) : (msix s p v).out = s.out ++ [.msix p v] := rfl
@[simp] theorem ctxVector_out (p c : Nat) : (ctxVector s p c).out = s.out ++ [.msix p (16 + c % 48)] := rfl
@[simp] theorem emit_out (e : Emit) : (emit s e).out = s.out ++ [e] := rfl
@[simp] theorem spend_freeIx (n : Nat) : (spend s n).freeIx = s.freeIx + n := rfl

/-- The completion of a context command (R231): its status, its vector. -/
theorem lstat_spec (p c code : Nat) (h : code < 256) :
    reg (lstat s p c code) p (R.cxStat c) 15 8 = code ∧
      (lstat s p c code).out = s.out ++ [.msix p (16 + c % 48)] ∧
      ∀ a b, a < 8 ∨ 15 < b → reg (lstat s p c code) p (R.cxStat c) a b = reg s p (R.cxStat c) a b := by
  refine ⟨?_, rfl, fun a b hab => ?_⟩
  · simp [lstat, reg_putReg _ _ _ 15 8]; omega
  · simp [lstat, reg_putReg_fld _ _ _ 15 8 _ a b _ hab]

/-- A change of `CSTATE` (R231). -/
theorem cstate_setCstate (p c v : Nat) (h : v < 16) : cstate (setCstate s p c v) p c = v := by
  simp [cstate, setCstate, reg_putReg _ _ _ 3 0]; omega

/-- A command that names units of the device answers its effect. -/
theorem guarded_wf (i : Instr) (t : State) (h : i.wf = true) : guarded i t = .next t := by simp [guarded, h]

/-- A command that names no unit stops. -/
theorem guarded_not_wf (i : Instr) (t : State) (h : i.wf = false) : guarded i t = .fault .noSuchUnit := by
  simp [guarded, h]

@[simp] theorem when_true (t : State) : when_ true s t = t := rfl
@[simp] theorem when_false (t : State) : when_ false s t = s := rfl

end Sys2Proof.Laws
end

