-- ==== Sys2Proof/Laws/Bundle.lean ====
section
/-! SUPPORT. What issuing a bundle can do (R28, R38, R48, R50), said once. -/

namespace Sys2Proof.Laws

open Sys2Proof.Machine Sys2Proof.Safety

/-- The next program counter in order. -/
theorem pcWrap_succ (n : Nat) : pcWrap ((n : Int) + 1) = (n + 1) % 32768 := by
  simp only [pcWrap, wrapTo]; omega

/-- A core that issues a bundle without a precise cause and without a wait for a place commits it. -/
theorem issue_commit {s : State} {g n : Nat} {w : Bundle} (h : Issues s g w n)
    (hc : bundleCause s g (coreOf s g) w = none) (hw : mustWait (coreOf s g) w = false) :
    exec (.bundleIssue g []) s = .next (commitBundle (spend s n) g (coreOf s g) w) := by
  change execBundleIssue g [] s = _
  obtain ⟨hg, hi, hf, hh, hb, hp, hd, hh', h1, h2⟩ := h
  have e1 : bundleCause (spend s n) g (coreOf s g) w = none := hc
  simp only [execBundleIssue, guarded, Instr.wf, hg, List.all_nil, Bool.and_self, if_true,
    memFaults, List.foldl_nil, issueBundle, hh', hi, h1, h2, and_self, hf, issueFetched, coreOf_spend, hb, e1, hw]
  by_cases hq : (coreOf s g).preReq = true
  · simp [hp hq]
  · simp [hq]

/-- A core that issues a bundle with a faulting precise cause raises it, and no slot acts. -/
theorem issue_fault {s : State} {g n c : Nat} {w : Bundle} (h : Issues s g w n)
    (hc : bundleCause s g (coreOf s g) w = some c) (ht : c ≠ Exc.trap) :
    exec (.bundleIssue g []) s = .next (coreFault (spend s n) g c (coreOf s g).pc 0 0) := by
  change execBundleIssue g [] s = _
  obtain ⟨hg, hi, hf, hh, hb, hp, hd, hh', h1, h2⟩ := h
  have e1 : bundleCause (spend s n) g (coreOf s g) w = some c := hc
  simp only [execBundleIssue, guarded, Instr.wf, hg, List.all_nil, Bool.and_self, if_true,
    memFaults, List.foldl_nil, issueBundle, hh', hi, h1, h2, and_self, hf, issueFetched, coreOf_spend, hb, e1]
  by_cases hq : (coreOf s g).preReq = true
  · simp [hp hq, ht]
  · simp [hq, ht]

/-- A core that cannot issue does nothing. -/
theorem issue_idle {s : State} {g : Nat} (h : canIssue s g = false) (hg : coreOk g = true) :
    exec (.bundleIssue g []) s = .next s := by
  change execBundleIssue g [] s = _
  simp only [execBundleIssue, guarded, Instr.wf, hg, List.all_nil, Bool.and_self, if_true,
    memFaults, List.foldl_nil, issueBundle, h]
  split <;> simp

/-- What a faulting exception does to its context (R48, R49, Table 10-4): the first cause begins the
tear-down, a later one is counted, and in every other state nothing happens. -/
theorem contextFault_cases (s : State) (p c : Nat) (x : Cause) :
    (∃ code, contextFault s p c x = beginTeardown s p c code (some x)) ∨
    (cstate s p c = Cs.teardown ∧ contextFault s p c x = onCtx s p c fun y => { y with more := min 65535 (y.more + 1) }) ∨
    contextFault s p c x = s := by
  simp only [contextFault]
  split
  · exact .inl ⟨_, rfl⟩
  · split
    · exact .inl ⟨_, rfl⟩
    · split
      · exact .inr (.inl ⟨‹_›, rfl⟩)
      · exact .inr (.inr rfl)

end Sys2Proof.Laws
end

