-- ==== Sys2Proof/Machine/Jtag.lean ====
section
/-! DEFINITION. The JTAG port (R434, R389): the test access port of IEEE 1149.1. No row of the command table clocks it, so it
stands in Test-Logic-Reset, where `TRST_N` holds it; `tapClock` says what a clock would do (log 137). -/

namespace Sys2Proof.Machine

/-- The identification code (R434). -/
def idcode : BitVec 32 := 0x10D3A001

/-- The next state of the port at a rising `TCK`, by `TMS` (IEEE 1149.1). -/
def TapState.next (st : TapState) (tms : Bool) : TapState :=
  match st with
  | .reset => if tms then .reset else .idle
  | .idle => if tms then .selectDr else .idle
  | .selectDr => if tms then .selectIr else .captureDr
  | .captureDr => if tms then .exit1Dr else .shiftDr
  | .shiftDr => if tms then .exit1Dr else .shiftDr
  | .exit1Dr => if tms then .updateDr else .pauseDr
  | .pauseDr => if tms then .exit2Dr else .pauseDr
  | .exit2Dr => if tms then .updateDr else .shiftDr
  | .updateDr => if tms then .selectDr else .idle
  | .selectIr => if tms then .reset else .captureIr
  | .captureIr => if tms then .exit1Ir else .shiftIr
  | .shiftIr => if tms then .exit1Ir else .shiftIr
  | .exit1Ir => if tms then .updateIr else .pauseIr
  | .pauseIr => if tms then .exit2Ir else .pauseIr
  | .exit2Ir => if tms then .updateIr else .shiftIr
  | .updateIr => if tms then .selectDr else .idle

/-- The instruction that a word selects; further access needs an unlock (R389). -/
def tapInstr (s : State) (w : List Bool) : TapInstr :=
  match Config.tapSelect w with
  | 1 => .idcode
  | 2 => .sample
  | 3 => .extest
  | 4 => if s.sec.unlocked then .further else .bypass
  | _ => .bypass

/-- What Capture-DR loads: one zero for BYPASS, the identification code, or the boundary cells, whose values at the pins are
free. -/
def tapCapture (s : State) : List Bool :=
  match s.tap.ir with
  | .bypass => [false]
  | .idcode => (List.range 32).map fun i => bit idcode i
  | .sample | .extest | .further => (List.range Config.tapCells).map fun i => bit (freeAt s i) 0

/-- What the port shows on `TDO`. -/
def tapOut (s : State) : Option Bool :=
  match s.tap.st with
  | .shiftDr => s.tap.drReg.head?
  | .shiftIr => s.tap.irReg.head?
  | _ => none

/-- One rising `TCK` (R434). -/
def tapClock (s : State) (tms tdi : Bool) : State :=
  let t := s.tap
  let u : Tap := match t.st with
    | .reset => { t with ir := .idcode }
    | .captureDr => { t with drReg := tapCapture s }
    | .shiftDr => { t with drReg := t.drReg.drop 1 ++ [tdi] }
    | .updateDr => if t.ir = .sample ∨ t.ir = .extest then { t with cells := t.drReg } else t
    | .captureIr => { t with irReg := (List.range Config.tapIrLen).map fun i => i == 0 }
    | .shiftIr => { t with irReg := t.irReg.drop 1 ++ [tdi] }
    | .updateIr => { t with ir := tapInstr s t.irReg }
    | _ => t
  spend { s with tap := { u with st := t.st.next tms } } (if t.st = .captureDr then Config.tapCells else 0)

end Sys2Proof.Machine
end

