-- ==== Sys2Proof/Tests/Slice0.lean ====
section
/-! SUPPORT. The model's own tests: ill-formed commands are refused, and for every statement and clause a concrete
state and command that meet its hypotheses. Nothing here is a claim about the device. -/

namespace Sys2Proof.Tests

open Sys2Proof Sys2Proof.Machine Sys2Proof.Safety

set_option Elab.async false

/-! ### Small states -/

/-- The state that a command answers. -/
def nx (c : Instr) (s : State) : State :=
  match exec c s with
  | .next t => t
  | _ => s

/-- Whether a command answers a next state. -/
def runs (c : Instr) (s : State) : Bool :=
  match exec c s with
  | .next _ => true
  | _ => false

/-- In service: firmware runs, power-on is over. -/
def up : State :=
  { State.reset with
    sec := { Sec.reset with bstat := 1, pst := 0 }
    pwr := { Pwr.reset with resetN := true, onReset := false, refok := true } }

/-- A LIVE partition of one panel with 64 bolts. -/
def live : Partition :=
  { Partition.none_ with ptstate := 1, panels := 1, vbolts := 64, qbolts := 16, keyed := true }

/-- One partition in service. -/
def one (x : Partition) : State := { up with parts := [(0, x)] }

/-- A LIVE partition whose context 0 has cluster 0, a code region of 16 bundles, and a state. -/
def ctxPart (st : Nat) : Partition :=
  ((live.put (R.cxClus 0) 41 32 1).put (R.cxCode 0) 47 32 16).put (R.cxStat 0) 3 0 st

/-- Context 0 of partition 0 holds cluster 0. -/
def held (st : Nat) : State :=
  { one (ctxPart st) with clusters := [(0, { Cluster.zero with holder := some ⟨0, 0, 0⟩ })] }

/-- Core 0 issues the bundle `w` at bundle index 0. -/
def bench (k : Core) (w : Bundle) : State :=
  { held Cs.running with
    stores := cellsOf 0xA0000000 (toLE 64 w)
    cores := [(0, { k with run := .issuing, snap := cellsOf 0 (toLE 64 w) })] }

/-- `Issues` as a computation. -/
def issuesCheck (s : State) (g : Nat) (w : Bundle) (n : Nat) : Bool :=
  coreOk g && canIssue s g && decide (fetchBundle s g (coreOf s g).pc = (w, n)) && !w.badHeader && !w.brk &&
    !((coreOf s g).preReq && w.sp) &&
    match holderOf s g with
    | some hd => decide ((codeRegion s hd).1 ≤ (coreOf s g).pc ∧ (coreOf s g).pc < (codeRegion s hd).1 + (codeRegion s hd).2)
    | none => false

theorem issues_of_check {s : State} {g : Nat} {w : Bundle} {n : Nat} (h : issuesCheck s g w n = true) : Issues s g w n := by
  unfold issuesCheck at h
  simp only [Bool.and_eq_true, decide_eq_true_eq, Bool.not_eq_true'] at h
  obtain ⟨⟨⟨⟨⟨⟨h1, h2⟩, h3⟩, h4⟩, h5⟩, h6⟩, h7⟩ := h
  refine ⟨h1, h2, h3, h4, h5, ?_, ?_⟩
  · intro hp; simpa [hp] using h6
  · split at h7
    · rename_i hd e; exact ⟨hd, e, by simpa using h7⟩
    · cases h7

/-- Bundles with one valid slot: the header's `VER` is 1 (Tables 2-2, 2-3). -/
def bunS (f : Nat) : Bundle := 2 ^ 31 + 2 ^ 23 + f * 2 ^ 32
def bunB (f : Nat) : Bundle := 2 ^ 30 + 2 ^ 23 + f * 2 ^ 96
def bunV (f : Nat) : Bundle := 2 ^ 29 + 2 ^ 23 + f * 2 ^ 144
def bunM (f : Nat) : Bundle := 2 ^ 28 + 2 ^ 23 + f * 2 ^ 256
def bunL (f : Nat) : Bundle := 2 ^ 27 + 2 ^ 23 + f * 2 ^ 384

/-- S-slot fields: opcode, gd, ga, gb. -/
def sOp (op gd ga gb : Nat) : Nat := op * 2 ^ 58 + gd * 2 ^ 49 + ga * 2 ^ 44 + gb * 2 ^ 38
/-- S-slot fields with an immediate. -/
def sImm (op gd ga imm : Nat) : Nat := op * 2 ^ 58 + gd * 2 ^ 49 + ga * 2 ^ 44 + 2 ^ 43 + imm * 2 ^ 11
/-- B-slot fields: opcode and its operand bits [37:0]. -/
def bOp (op rest : Nat) : Nat := op * 2 ^ 42 + rest
/-- L-slot load or store: opcode, gd, ga, offset. -/
def lOp (op gd ga off : Nat) : Nat := op * 2 ^ 122 + gd * 2 ^ 113 + ga * 2 ^ 108 + off * 2 ^ 89
/-- V-slot fields: opcode, vd, va, vb. -/
def vOp (op vd va vb : Nat) : Nat := op * 2 ^ 106 + vd * 2 ^ 97 + va * 2 ^ 92 + vb * 2 ^ 87

/-- Core 0 of `bench` issues `w`, whose valid slots are these, with no loop active. -/
def meets (k : Core) (w : Bundle) (sv bv vv mv lv : Bool) : Bool :=
  issuesCheck (bench k w) 0 w 0 && decide ((w.svs, w.svb, w.svv, w.svm, w.svl) = (sv, bv, vv, mv, lv)) &&
    decide ((coreOf (bench k w) 0).loops = [])

/-- What `meets` says in the statements' words. -/
theorem meets_spec {k : Core} {w : Bundle} {sv bv vv mv lv : Bool} (h : meets k w sv bv vv mv lv = true) :
    Issues (bench k w) 0 w 0 ∧ Slots w sv bv vv mv lv ∧ (coreOf (bench k w) 0).loops = [] := by
  simp only [meets, Bool.and_eq_true, decide_eq_true_eq, Prod.mk.injEq] at h
  exact ⟨issues_of_check h.1.1, h.1.2, h.2⟩

/-- A core with a few registers. -/
def regs : Core := { Core.zero with g := [(1, 7), (2, 5), (31, 9)] }

/-! ### Ill-formed commands (log 3) -/

theorem ill_core : exec (.bundleIssue 10240 []) State.reset = .fault .noSuchUnit := by rfl
theorem ill_cluster : exec (.barCRelease 640) State.reset = .fault .noSuchUnit := by rfl
theorem ill_part : exec (.preset 16) State.reset = .fault .noSuchUnit := by rfl
theorem ill_ctx : exec (.start 0 64) State.reset = .fault .noSuchUnit := by rfl
theorem ill_port : exec (.flitTransmit 18) State.reset = .fault .noSuchUnit := by rfl
theorem ill_via : Instr.wf (.rdReq (some 18) (blankMsg 0 0 0 0)) = false := by decide
theorem ill_msg : Instr.wf (.hold { blankMsg 0 0 0 0 with mtype := 256 }) = false := by decide
theorem ill_engine : Instr.wf (.engineWatchdog ⟨0, 8, 0⟩) = false ∧ Instr.wf (.engineWatchdog ⟨4, 0, 0⟩) = false := by decide
theorem ill_fence : Instr.wf (.fence 16 0) = false := by decide
theorem ill_memfault : memFaultOk (.hbm 0 0 64 0 .correctedOnDie) = false ∧ memFaultOk (.storeWord 0xF0280000) = false := by decide
theorem ill_power : powerUnitOk (.channel 0 24) = false := by decide
theorem ill_space : spaceOk .mgmt 0x100000000 8 = false ∧ spaceOk (.bar0 0) 0xFFFFFC 8 = false := by decide

/-! ### The queue, time and reset -/

theorem wit_StepRunsTheFrontCommand : ({ up with pending := [.pset] } : State).pending = .pset :: [] := rfl
theorem wit_StepsStopOnlyForUnknownUnits : (Instr.wf .pset = true) ∧ Instr.wf (.preset 16) = false ∧
    up.pending = [] ∧ up.pwr.pgood = true ∧ { up with pwr := { up.pwr with pgood := false } }.pwr.pgood = false := by decide
theorem wit_QueueDrainsInOrder : ∀ c ∈ [Instr.pset, .pclr], c.wf = true := by decide
theorem wit_FusesNeverUnblow : up.sec.jtag ≤ 16 ∧ (step { up with pending := [.pset] } = .next (nx .pset up)) := ⟨by decide, by rfl⟩

/-! ### Cores -/

/-- Every operation of Table 2-5 that a statement names, with gd 3, ga 1, gb 2, or an immediate. -/
theorem wit_ScalarResults : ((List.range 0x12).all fun o => o == 0 || o == 0x10 || o == 0x11 ||
      (let w := bunS (sOp o 3 1 2);
        meets regs w true false false false false && !S.illegal w.s && S.op w.s == o)) = true ∧
    ([0x12, 0x13].all fun o => let w := bunS (sImm o 3 0 77);
      meets regs w true false false false false && !S.illegal w.s && S.op w.s == o) = true := by decide +kernel

theorem wit_ScalarPredicatesAndMoves : ((List.range 0x20).all fun o => o < 0x14 || 0x1E ≤ o ||
      (let w := bunS (sOp o 3 1 (if o = 0x1D then 0 else 2));
        meets regs w true false false false false && !S.illegal w.s && S.op w.s == o)) = true ∧
    (let w := bunS (sImm 0x20 3 1 2); meets regs w true false false false false && !S.illegal w.s) = true ∧
    (let w := bunS (sOp 0x21 3 1 0);
      meets regs w true false false false false && !S.illegal w.s) = true := by decide +kernel

/-- Each index of Table 2-6, a reserved one, `I` = 0, and an RO register written. -/
theorem wit_SpecialRegisters : ([(0x1E, 0), (0x1E, 1), (0x1E, 2), (0x1E, 3), (0x1E, 4), (0x1F, 0), (0x1F, 3), (0x1F, 4)].all fun e =>
      let w := bunS (sImm e.1 3 1 e.2);
      meets regs w true false false false false && !S.illegal w.s && S.op w.s == e.1 && S.imm w.s % 4096 == e.2 &&
        guardBit regs (S.pr w.s) (S.pn w.s)) = true ∧
    ([sImm 0x1E 3 1 5, sImm 0x1F 3 1 4095, sOp 0x1E 3 1 0].all fun f => let w := bunS f;
      meets regs w true false false false false && (S.i w.s == 0 || decide (4 < S.imm w.s % 4096)) &&
        (holderOf (bench regs w) 0 == some ⟨0, 0, 0⟩) && cstate (bench regs w) 0 0 == Cs.running) = true := by decide +kernel

/-- `PN` inverts p0, which is always true. -/
theorem wit_FalseGuardDoesNothing :
    (let w := bunS (sOp 1 3 1 2 + 2 ^ 54);
      meets regs w true false false false false && !S.illegal w.s && !guardBit regs (S.pr w.s) (S.pn w.s)) = true ∧
    (let w := bunB (bOp 1 (5 * 2 ^ 22 + 2 ^ 38));
      meets regs w false true false false false && !B.illegal w.b && !guardBit regs (B.pr w.b) (B.pn w.b)) = true ∧
    (let w := bunM (2 ^ 122 + 2 ^ 118);
      meets regs w false false false true false && !M4.illegal w.m && !guardBit regs (M4.pr w.m) (M4.pn w.m)) = true ∧
    (let w := bunL (lOp 8 1 2 0 + 2 ^ 118);
      meets regs w false false false false true && !L.illegal w.l && !guardBit regs (L.pr w.l) (L.pn w.l)) = true := by
  decide +kernel

/-- `br` -1 at index 0 wraps to 32,767. -/
theorem wit_BranchesGoToTheirTargets : ([(1, 65535 * 2 ^ 22), (2, 1 * 2 ^ 33), (3, 5 * 2 ^ 22), (4, 0)].all fun e =>
    let w := bunB (bOp e.1 e.2)
    meets regs w false true false false false && !B.illegal w.b && B.op w.b == e.1) = true ∧
    wrapTo 15 (0 + B.off (bunB (bOp 1 (65535 * 2 ^ 22))).b) = 32767 := by decide +kernel

/-- `loop` with a count of 3, of 0, and with `LEN` 0; the loop on lc1 is active already, and one on lc2 is newer. -/
def looping : Core := { regs with loops := [⟨2, 1, 9⟩, ⟨1, 1, 9⟩, ⟨0, 1, 9⟩] }
def wLoop (count len : Nat) : Bundle := bunB (bOp 5 (2 ^ 36 + 2 ^ 35 + count * 2 ^ 19 + len * 2 ^ 7))
theorem wit_LoopStarts :
    ([(3, 2), (0, 2), (3, 0)].all fun e => let w := wLoop e.1 e.2;
      issuesCheck (bench looping w) 0 w 0 && decide ((w.svs, w.svb, w.svv, w.svm, w.svl) = (false, true, false, false, false)) &&
      (holderOf (bench looping w) 0 == some ⟨0, 0, 0⟩) && B.op w.b == 5 && (cstate (bench looping w) 0 0 == Cs.running)) = true ∧
    B.illegal (wLoop 3 2).b = false ∧ B.loopN looping (wLoop 3 2).b = 3 ∧ B.illegal (wLoop 0 2).b = false ∧
    B.loopN looping (wLoop 0 2).b = 0 ∧ B.len (wLoop 3 0).b = 0 ∧ (∀ a ∈ looping.loops, a.last ≠ looping.pc) := by
  decide +kernel

/-- Semaphore 4 holds 2 or nothing; `sem.wait` and `sem.try` of 2. -/
def semBench (cnt : BitVec 16) (w : Bundle) : State :=
  onClus (bench regs w) 0 fun q => { q with sem := sset 0 [] 4 cnt }
def wSem (op : Nat) : Bundle := bunB (bOp op (4 * 2 ^ 32 + 2 ^ 31 + 2 * 2 ^ 15))
def wTry (op pd : Nat) : Bundle := bunB (bOp op (4 * 2 ^ 32 + 2 ^ 31 + 2 * 2 ^ 15 + pd * 2 ^ 12))
/-- Both cores of the mask have arrived at the cluster barrier of cluster 0; core 1 waits. -/
def barC : State := { held Cs.running with
  clusters := [(0, { Cluster.zero with holder := some ⟨0, 0, 0⟩, barMask := 3, barArr := 3 })]
  cores := [(0, { regs with run := .waiting [.barC 3] }), (1, { regs with run := .waiting [.barC 3] })] }
/-- Two cores wait at partition barrier 5 for two. -/
def barP : State := onCtx { held Cs.running with
  cores := [(0, { regs with run := .waiting [.barP 5] }), (1, { regs with run := .waiting [.barP 5] })] } 0 0
    fun y => { y with barP := [(5, ⟨2, [0, 1]⟩)] }
def fenced0 : State := { held Cs.running with cores := [(0, { regs with run := .waiting [.fenceC 0, .fenceP 0] })] }
theorem wit_SemaphoresBarriersAndFences :
    ([((2 : BitVec 16), wSem 6), (1, wSem 6), (2, wTry 8 3), (1, wTry 8 3), (1, wTry 8 0)].all fun e =>
      issuesCheck (semBench e.1 e.2) 0 e.2 0 && decide ((e.2.svs, e.2.svb, e.2.svv, e.2.svm, e.2.svl) = (false, true, false, false, false)) &&
      !B.illegal e.2.b && guardBit regs (B.pr e.2.b) (B.pn e.2.b) && decide (B.semN regs e.2.b = 2)) = true ∧
    ((clusOf barC 0).barArr ≠ 0 ∧ (clusOf barC 0).barMask &&& ~~~ (clusOf barC 0).barArr = 0) ∧
    ((sget { n := 0, arr := [] } (ctxOf barP 0 0).barP 5 : BarP) = ⟨2, [0, 1]⟩ ∧ cstate barP 0 0 = Cs.running) ∧
    ((coreOf fenced0 0).run = .waiting [.fenceC 0, .fenceP 0] ∧ (coreOf fenced0 0).dmas = []) := by decide +kernel

/-- A byte, a signed byte, and a store of 4 bytes at the last word of the core store. -/
def atEnd : Core := { regs with g := [(1, 0xFFFFFFFF80), (2, 262140)] }
theorem wit_ScalarLoadsAndStores :
    ([(1, 3), (5, 3), (3, 0), (0x0A, 0)].all fun e => let w := bunL (lOp e.1 1 2 e.2);
      meets atEnd w false false false false true && !L.illegal w.l && L.op w.l == e.1 &&
      decide (0 ≤ L.addr atEnd w.l ∧ L.addr atEnd w.l ≤ 262143 ∧ (L.addr atEnd w.l).toNat % L.size w.l = 0) &&
      !bit (tagsOver (bench atEnd w) (coreBase 0 + (L.addr atEnd w.l).toNat) (L.size w.l)) 0) = true ∧ atEnd.mops = [] := by
  decide +kernel

theorem wit_OperationsTakeTheirPlace :
    (let w := bunL (0x0F * 2 ^ 122 + 1 * 2 ^ 113 + 2 * 2 ^ 108 + 31 * 2 ^ 103 + 3 * 2 ^ 99);
      meets regs w false false false false true && !L.illegal w.l && L.op w.l == 0x0F) = true ∧
    (let w := bunM (2 ^ 122 + 2 ^ 114 + 2 ^ 110 + 15 * 2 ^ 91 + 15 * 2 ^ 83);
      meets regs w false false false true false && !M4.illegal w.m && M4.op w.m == 1 &&
      decide ((regs.gr (M4.gs w.m)).toNat % 64 = 0 ∧ (regs.gr (M4.gs w.m)).toNat + 63 ≤ 262143)) = true ∧
    regs.dmas.length < 16 ∧ regs.mops = [] := by decide +kernel

theorem wit_VectorBitwise : ([0x11, 0x12, 0x13].all fun o => let w := bunV (vOp o 3 1 2 + 4 * 2 ^ 103);
    meets regs w false false true false false && !V.illegal w.v && V.op w.v == o) = true := by decide +kernel

/-- A misaligned word, and `bar.c` without the issuing core. -/
def wMis : Bundle := bunL (lOp 3 1 2 1)
/-- A core that has not issued for the watchdog's time, and one that was asked for a safe point. -/
def silent : State := { held Cs.running with cores := [(0, { regs with run := .issuing })] }
def asked : State := { held Cs.preempting with cores := [(0, { regs with run := .issuing, preReq := true })] }
theorem wit_FaultsStopTheirContext :
    (issuesCheck (bench regs wMis) 0 wMis 0 && (holderOf (bench regs wMis) 0 == some ⟨0, 0, 0⟩) &&
      (bundleCause (bench regs wMis) 0 (coreOf (bench regs wMis) 0) wMis == some Exc.misalign) &&
      cstate (bench regs wMis) 0 0 == Cs.running) = true ∧
    (holderOf silent 0 = some ⟨0, 0, 0⟩ ∧ watchdogCounts silent 0 = true) ∧
    (holderOf asked 0 = some ⟨0, 0, 0⟩ ∧ (coreOf asked 0).preReq = true ∧ safeNow asked 0 = false ∧
      cstate asked 0 0 = Cs.preempting) := by decide +kernel

/-! ### Matrix arrays and path units -/

/-- An `mma` of 1 × 1 × 1 in BF16 with descriptor offset 64, operands at 1024 onward, as `mma` issues it. -/
def mop1 : MOp :=
  { op := 1, fmtA := 1, fmtB := 1, fmtC := 0, sclA := 0, sclB := 0, shape := 0, chunk := 0, iovf := false, audit := false
    zero := true, accInt := false, m := 1, n := 1, k := 1, offA := 1024, offB := 1088, offC := 1152, offS := 64, pc := 0
    desc := none, started := false, failed := false, segs := 0, draw := 0, c0 := [], acc := [], pairs := [], tots := []
    hazard := false, touched := [], hold := none }
/-- Unit scales, strides of 16. -/
def desc1 : List Byte :=
  toLE 4 0x3F800000 ++ toLE 4 0x3F800000 ++ toLE 4 0x3F800000 ++ toLE 4 16 ++ toLE 4 16 ++ toLE 4 16 ++ zeros 40
def held1 : AuditHold :=
  { record := auditRecord 1 0 0 1 0 0 0, cword := 0x00000009, cols := [], check := [], tol := [], p0 := [] }
/-- Core 0 with M operations. -/
def mstates (ms : List MOp) : State := { held Cs.running with cores := [(0, { regs with run := .issuing, mops := ms })] }
def mstate (m : MOp) : State := mstates [m]
/-- Read, and read and started. -/
def mop2 : MOp := { mop1 with desc := some desc1 }
def mop3 : MOp := { mop2 with started := true }
/-- Two segments. -/
def mop4 : MOp := { mop3 with k := 70000 }
/-- One that fails a check of R57, and one of another configuration. -/
def mop5 : MOp := { mop1 with desc := some (zeros 64), sclA := 1 }
def mop6 : MOp := { mop2 with shape := 2 }
theorem wit_MatrixOperationsProceedAndFail :
    ((coreOf (mstate mop1) 0).mops = [mop1] ∧ mop1.multiplies = true ∧ mop1.desc = none ∧ mop1.op = 1) ∧
    ((coreOf (mstate mop5) 0).mops = [] ++ mop5 :: [] ∧ mop5.multiplies = true ∧ mop5.started = false ∧
      mop5.checks (zeros 64) = false) ∧
    ((coreOf (mstate mop2) 0).mops = [] ++ mop2 :: [] ∧ mop2.checks desc1 = true) ∧
    ((coreOf (mstates [mop3, mop6]) 0).mops = [mop3] ++ mop6 :: [] ∧ mop6.checks desc1 = true ∧
      mop6.config ≠ (coreOf (mstates [mop3, mop6]) 0).cfg ∧ mop3.multiplies = true ∧ mop3.failed = false ∧ mop3.hold = none ∧
      mop3.started = true) ∧
    (mop4.multiplies = true ∧ mop4.accInt = false ∧ 65536 < mop4.k ∧ mop4.segs + 1 < mop4.passes * mop4.segments) ∧
    (coreOf (mstate { mop3 with failed := true }) 0).mops = [{ mop3 with failed := true }] := by decide +kernel
theorem wit_MatrixOperationsDrainAndVote :
    ((coreOf (mstate mop3) 0).mops = [mop3] ∧ mop3.segmentsLeft = false ∧ mop3.audit = false ∧ mop3.hazard = false) ∧
    ((coreOf (mstate { mop3 with audit := true }) 0).mops = [{ mop3 with audit := true }] ∧
      ({ mop3 with audit := true } : MOp).segmentsLeft = false) ∧
    (coreOf (mstate { mop3 with hold := some held1 }) 0).mops = [{ mop3 with hold := some held1 }] ∧
    (coreOf (mstate { mop3 with op := 4 }) 0).mops = [{ mop3 with op := 4 }] ∧
    (coreOf (mstate { mop3 with op := 5 }) 0).mops = [{ mop3 with op := 5 }] := by decide +kernel

/-- A DMA of 8 bytes through entry 0 from offset 0 of core store 0 to offset 64 of core store 1. -/
def dma1 : Dma :=
  { id := 0, tag := 3, sid := 0, semen := false, xf := 0, src := 0, dst := 0x40040, len := 8, pc := 0, entry := none, active := 0
    unit := 0, edge := 0, status := [], finished := false, aborted := false, parked := false, beforeSeam := none, asked := []
    ahead := [], waiting := 0, buf := [], bufCol := [], bufTag := [] }
def dstate (d : Dma) : State :=
  { held Cs.running with
    stores := cellsOf 0 [1, 2, 3, 4, 5, 6, 7, 8, 9], cores := [(0, { regs with run := .issuing, dmas := [d] })] }
theorem wit_DmasStartAndComplete :
    (dmaAt (dstate dma1) 0 0 = some dma1 ∧ holderOf (dstate dma1) 0 = some ⟨0, 0, 0⟩ ∧ dmaRuns (dstate dma1) ⟨0, 0, 0⟩ = true ∧
      pathDown (dstate dma1) 0 = false) ∧
    (let d1 := { dma1 with entry := some (zeros 32) };
      dmaRejects (dstate dma1) 0 0 0 d1 = false ∧ windowRejects d1 = false ∧ hostCut (dstate dma1) 0 d1 = false ∧ 0 < totalUnits d1) ∧
    (let d1 := { dma1 with src := 0x100000000000, entry := some (zeros 32) };
      dmaRejects (dstate { dma1 with src := 0x100000000000 }) 0 0 0 d1 = true) ∧
    (dmaAt (dstate { dma1 with finished := true }) 0 0 = some { dma1 with finished := true } ∧
      cstate (dstate { dma1 with finished := true }) 0 0 = Cs.running ∧ worst [] = Status.ok ∧ worst [4] ≠ Status.ok) := by
  decide +kernel
def dma2 : Dma := { dma1 with entry := some (zeros 32) }
theorem wit_StoreCopyMovesBytes :
    dmaAt (dstate dma2) 0 0 = some dma2 ∧ dmaRuns (dstate dma2) ⟨0, 0, 0⟩ = true ∧ pathDown (dstate dma2) 0 = false ∧
    spaceOf dma2.src = .pv ∧ spaceOf dma2.dst = .pv ∧ addrOff dma2.src / 0x40000 = (addrOff dma2.src + dma2.len - 1) / 0x40000 ∧ addrOff dma2.src < 0xA0000000 ∧
    addrOff dma2.dst / 4096 = (addrOff dma2.dst + dma2.len - 1) / 4096 ∧ addrOff dma2.dst < 0xA0000000 ∧
    (∀ k, k < 8 → mayByte (dstate dma2) 0 0 (addrOff dma2.src + k) = true) ∧
    mayWrite (dstate dma2) 0 0 (addrOff dma2.dst) = true ∧ (coreOf (dstate dma2) (addrOff dma2.dst / 0x40000)).mops = [] := by
  decide +kernel

/-! ### Memory tiers and the Wardrobe -/

/-- A bolt in a state. -/
def bolt (st : BoltState) : Bolt := { Bolt.unwritten with st := st }
/-- Bolt 2 in a state; the hint queue of 16 records at offset 0x2000 of core store 0 holds one record. -/
def hqPart (st : BoltState) : Partition :=
  { ((live.put R.migHqBase 43 6 0x80).put R.migHqSize 16 0 16).put R.migHqTail 31 0 1 with bolts := [(2, bolt st)] }
/-- A record of `n` bolts from bolt 2 on. -/
def hq (st : BoltState) (kind n : Nat) : State :=
  { one (hqPart st) with stores := cellsOf 0x2000 (toLE 8 0x100020000 ++ toLE 4 n ++ toLE 1 kind ++ zeros 19) }
def hintOf (kind n : Nat) : HintRec := { base := 0x100020000, nbolt := n, kind := kind, clean := true }

theorem wit_HbmErrorsAreCharged : (partOf (one (hqPart .hbmDirty)) 0).ptstate ≠ 0 ∧ 33 / 16 < (partOf (one (hqPart .hbmDirty)) 0).vbolts ∧
    ((partOf (one (hqPart .hbmDirty)) 0).bolt (33 / 16)).framed = true := by decide +kernel

/-- A partition whose `FREE_LOW` stands above every frame that it has, so that the engine evicts (no run writes so large
a value; a partition short of frames would list hundreds of thousands of bolts). -/
def short (st : BoltState) : State := one ((hqPart st).put R.migFreelow 31 0 0xFFFFFFFF)
theorem wit_BoltsMoveBetweenTiers :
    ([BoltState.hbmClean, .hbmDirty].all fun st => evictable ((partOf (short st) 0).bolt 2) &&
      ((partOf (short st) 0).bolts.all fun e => !evictable e.2 || decide (evictClass ((partOf (short st) 0).bolt 2) ≤ evictClass e.2)) &&
      decide (freeFrames (partOf (short st) 0) < freeLow (partOf (short st) 0)) && ((partOf (short st) 0).pocket.kept == [])) = true ∧
    blocksUsed (partOf (short .hbmDirty) 0) < (partOf (short .hbmDirty) 0).qbolts ∧ 2 ≤ (short .hbmDirty).wardrobe.wear.spare ∧
    ((partOf (short .out) 0).bolt 2).st = .out ∧
    ((partOf (short .in_) 0).bolt 2).st = .in_ ∧ ((partOf (short .in_) 0).bolt 2).stalled = [] := by decide +kernel

/-- Every kind of record is taken; the first bolt that a record may name is covered with bolts 2 and 3. -/
theorem wit_HintRecordsActAndComplete :
    hintTurn (hq .hbmDirty 2 2) 0 2 = some (hintOf 2 2) ∧ hintTurn (hq .hbmDirty 3 2) 0 3 = some (hintOf 3 2) ∧
    (hintTurn (hq .flash 0 1) 0 0 = some (hintOf 0 1) ∧ (hintOf 0 1).bolts = [2] ∧
      framesUsed (partOf (hq .flash 0 1) 0) < usableBolts (partOf (hq .flash 0 1) 0)) ∧
    (hintTurn (hq .hbmDirty 1 1) 0 1 = some (hintOf 1 1) ∧ ((partOf (hq .hbmDirty 1 1) 0).bolt 2).pinned = false ∧
      pinnedCount (partOf (hq .hbmDirty 1 1) 0) < usableBolts (partOf (hq .hbmDirty 1 1) 0) - freeLow (partOf (hq .hbmDirty 1 1) 0)) ∧
    (hintTurn (hq .hbmClean 4 1) 0 4 = some (hintOf 4 1) ∧ ((partOf (hq .hbmClean 4 1) 0).bolt 2).pinned = false) ∧
    (hintTurn (hq .hbmDirty 5 1) 0 5 = some (hintOf 5 1) ∧ ((partOf (hq .hbmDirty 5 1) 0).bolt 2).stalled = []) ∧
    (let s := onPart (hq .hbmDirty 2 1) 0 fun x => { x with hint := some { done := 1, status := 0 } };
      hintAddr (partOf s 0) = some 0x2000 ∧ hintRec s 0 = some (hintOf 2 1) ∧ (hintOf 2 1).ok (partOf s 0) = true ∧
      hintSettled (partOf s 0) (hintOf 2 1) = true) := by decide +kernel

/-! ### Nyzan links -/

/-- Port 3 in a state. -/
def port (q : Port) : State := { up with fabric := { up.fabric with ports := [(3, q)] } }
/-- Two lanes trained, UP, with credit on channel 0. -/
def q0 : Port := { Port.down with pstate := 2, lanes := 3, dcred := [(0, 4), (2, 4)], scred := 8 }
def flit0 (ft vc seq : Nat) : Flit := { ftype := ft, vc := vc, dl := false, seq := seq, ack := 0, payload := zeros 248, held := none, hello := false, mid := 0, home := none }
/-- The 256 bytes of a BODY flit (Table 8-2): the header word, the payload, the FCRC. -/
def code (seq : Nat) : List Byte :=
  let h := toLE 4 (2 * 2 ^ 28 + 1 * 2 ^ 25 + seq * 2 ^ 12 + 6) ++ zeros 248;
  h ++ toLE 4 (flitCrc h)
def word (b : Option (List Byte)) : RxCodeword := { bytes := b, corr0 := 0, corr1 := 0, corr2 := 0, corr3 := 0 }
/-- A message that is arriving, with its first byte gathered. -/
def joined (w : RxWay) : RxMsg := { way := w, bytes := [0x11], flits := [], homes := [], held := none }
def qTx : Port := { q0 with txNext := 9, txq := [(0, [flit0 2 0 0, flit0 3 0 0])] }
def qRx : Port := { q0 with rxNext := 4, replay := [flit0 2 0 5, flit0 2 0 6, flit0 3 0 7], rx := [(1, joined .gather)] }
/-- A message that passes through to port 5 as its message 2. -/
def qThru : Port := { qRx with rx := [(1, joined (.out 5 2 0))] }
def code4 : List Byte := code 4
def code4x : List Byte := code4.set 7 1

/-- The FCRC of the flit, and of the flit with one bit turned. -/
theorem wit_code_crc : flitCrc (slice code4 0 252) = leAt code4 252 4 ∧ flitCrc (slice code4x 0 252) ≠ leAt code4x 252 4 ∧
    (parseFlit code4).ftype = 2 ∧ (parseFlit code4).seq = (portOf (port qRx) 3).rxNext := by decide +kernel

theorem wit_PortsCarryFlits :
    (portUp (port { qTx with nakOut := true }) 3 = true ∧ (portOf (port { qTx with nakOut := true }) 3).nakOut = true) ∧
    (portUp (port qTx) 3 = true ∧ (portOf (port qTx) 3).nakOut = false ∧ (portOf (port qTx) 3).lctl = false ∧
      (portOf (port qTx) 3).resend = [] ∧ nextVc (port qTx) 3 = some (0, 0, 0) ∧
      queueOf (portOf (port qTx) 3) 0 = [flit0 2 0 0, flit0 3 0 0]) ∧
    (portUp (port q0) 3 = true ∧ (portOf (port q0) 3).nakOut = false ∧ (portOf (port q0) 3).lctl = false ∧
      (portOf (port q0) 3).resend = [] ∧ nextVc (port q0) 3 = none) ∧
    ([qRx, qThru].all fun q => portUp (port q) 3 && (homeFor (portOf (port q) 3) 3 (parseFlit code4)).isSome) = true ∧
    (sget RxMsg.idle qRx.rx (parseFlit code4).vc).way = .gather ∧
    (sget RxMsg.idle qThru.rx (parseFlit code4).vc).way = .out 5 2 0 ∧
    (word none).bytes = none ∧ 7 < 8 + (word none).corr1 + (word none).corr2 + (word none).corr3 := by decide +kernel

theorem wit_PortsRetrainNarrowAndSleep :
    (portOf (port qRx) 3).pstate ≠ 9 ∧ (portUp (port qRx) 3 = true ∧ (portOf (port qRx) 3).replay ≠ []) ∧
    (portOf (port { q0 with pstate := 6 }) 3).pstate = 6 ∧ (3 : BitVec 4) ≠ 0 ∧
    (portOf (port { q0 with pstate := 6, fails := 2 }) 3).pstate = 6 ∧ (portOf (port { q0 with pstate := 6, fails := 2 }) 3).fails = 2 ∧
    (let s := { port q0 with parts := [(0, live.put R.pcLattol 31 0 2000)] };
      portUp s 3 = true ∧ (portOf s 3).narrow = 0 ∧ 2000 ≤ portLimit s ∧ anyJobKey s = false ∧ routeNames s 3 = false ∧
      (portOf s 3).replay = [] ∧ (portOf s 3).txq = []) ∧
    (portOf (port { q0 with pstate := 8 }) 3).pstate = 8 ∧ (portOf (port { q0 with pstate := 8 }) 3).narrow = 0 := by decide +kernel

def blank (mt : Nat) : Msg := blankMsg mt 0 (ownId up) 0
/-- Two outstanding requests, one extended before. -/
def rq (tag : Nat) (ext : Bool) : Req :=
  { die := false, tag := BitVec.ofNat 16 tag, job := 1, dst := 7, addr := 0, part := 0, ctx := 0, kind := .dmaWrite 0 0, deadline := 1000, extended := ext, timedOut := false
    mid := 0, fenced := false }
def twoReqs : State := { up with fabric := { up.fabric with reqs := [rq 1 false, rq 2 true] } }

theorem wit_PortsHemAndHold :
    (portUp (port qRx) 3 = true ∧ (portOf (port qRx) 3).narrow = 0 ∧ 1 &&& (portOf (port qRx) 3).lanes ≠ 0 ∧
      1 &&& (portOf (port qRx) 3).lanes ≠ (portOf (port qRx) 3).lanes ∧ heldDevices (portOf (port qRx) 3) = []) ∧
    ((portOf (port { qRx with pstate := 5 }) 3).pstate = 5 ∧ 2 &&& (portOf (port { qRx with pstate := 5 }) 3).lanes ≠ 0) ∧
    msgOk (blank 9) = true ∧ (blank 9).mtype = 9 ∧ (blank 9).dst = ownId twoReqs := by decide +kernel

/-- A module whose gateway 5 has three datagrams unacknowledged, service port 0 UP. -/
def gram (n : Nat) : TunnelGram := { seq := BitVec.ofNat 32 n, sp := 0, vc := 1, src := 0, dst := 0, flits := [] }
def gws : State :=
  { putMreg up (M.ptSvc 0) 1 0 2 with
    pattern := some { (default : Pattern) with peers := [{ (default : TunnelPeer) with dev := 5 }] }
    fabric := { up.fabric with gateways :=
      [(5, { Gateway.fresh with tseq := 12, tack := 3, unack := [gram 10, gram 11, gram 12], rx := [(1, joined .gather)] })] } }
def dgram (kind seq ack : Nat) (fl : List (List Byte)) : Datagram :=
  { sp := 0, tver := 1, tkind := kind, tseq := BitVec.ofNat 32 seq, tack := BitVec.ofNat 32 ack, sgw := 5, flits := fl, fcsOk := true }
theorem wit_GatewaysRetry : (tunnelOk gws (dgram 1 0 11 []) = true ∧ (dgram 1 0 11 []).tkind = 1) ∧
    (∀ e ∈ (gatewayOf gws 5).unack.take 256, svcSends gws e.sp e.vc = true) ∧ (gatewayOf gws 5).unack ≠ [] ∧
    tunnelOk gws (dgram 0 4 9 [code4]) = true ∧ (dgram 0 4 9 [code4]).tseq = (gatewayOf gws 5).tack + 1 ∧
    (sget RxMsg.idle (gatewayOf gws 5).rx (parseFlit code4).vc).way = .gather ∧
    svcSends gws 0 Config.tunnelAckPrio.toNat = true :=
  ⟨by decide +kernel, by decide +kernel, by decide +kernel, by decide +kernel, by decide +kernel, by decide +kernel,
    (by decide +kernel : ∀ k, k < 8 → svcSends gws 0 k = true) _ (BitVec.isLt _)⟩
/-! ### Remote access -/

/-- Grant 0 of partition 0: bolts 0 to 3 at export offset 0, ACTIVE, for job 1, every permission; bolt 0 written. -/
def granted : Partition :=
  { (((live.put (R.gntCtl 0) 11 10 2).put (R.gntSize 0) 31 0 4).put (R.gntBase 0) 43 16 0x10000).put (R.gntJob 0) 34 0 0x700000001 with
    bolts := [(0, bolt .hbmDirty)], mem := [(8, 5)] }
/-- The same with a first tile that holds zeros. -/
def granted0 : Partition := { granted with mem := [] }
/-- A message of this module to itself under job 1. -/
def rqm (mt addr len : Nat) : Msg :=
  { blank mt with job := 1, src := ownId up, addr := BitVec.ofNat 44 addr, len := len, asz := true, payload := toLE len 0x123456 }

theorem wit_TargetsPerformRequests :
    verdict (one granted) (rqm 1 8 16) 32 16 = .perform 0 8 ∧ msgOk (rqm 3 8 16) = true ∧
    (baseVerdict (one granted) (verdict (one granted) (rqm 3 8 16) 33 16) = .perform 0 8 ∧ (rqm 3 8 16).payload.length = 16 ∧
      (readyWrite (one granted) 0 (8 / boltSize)).isSome = true) ∧
    verdict (one granted) (rqm 1 0x40000 16) 32 16 = .violation none ∧
    (verdict (one granted) (rqm 1 0x3FFF8 16) 32 16 = .violation (some 0) ∧
      baseVerdict (one granted) (verdict (one granted) (rqm 3 0x3FFF8 16) 33 16) = .violation (some 0)) := by decide +kernel
/-- The CRC-32C register over 128 zero bytes. -/
def crc128 (r : Nat) : Nat := (zeros 128).foldl (fun r b => crcShift 0x82F63B78 8 (r ^^^ b.toNat)) r
theorem crc128_zeros (n r : Nat) :
    (zeros (128 + n)).foldl (fun r b => crcShift 0x82F63B78 8 (r ^^^ b.toNat)) r =
      (zeros n).foldl (fun r b => crcShift 0x82F63B78 8 (r ^^^ b.toNat)) (crc128 r) := by
  have z : zeros (128 + n) = zeros 128 ++ zeros n := List.replicate_add 128 n 0
  rw [z, List.foldl_append, crc128]
theorem crc128_a : crc128 4294967295 = 4158167844 ∧ crc128 4158167844 = 1200442991 ∧ crc128 1200442991 = 1158271177 ∧ crc128 1158271177 = 3473084991 ∧
    crc128 3473084991 = 534250289 ∧ crc128 534250289 = 3318006521 ∧ crc128 3318006521 = 225952960 ∧ crc128 225952960 = 290529667 ∧
    crc128 290529667 = 2823063697 ∧ crc128 2823063697 = 1921003501 ∧ crc128 1921003501 = 1799837726 ∧ crc128 1799837726 = 175100626 ∧
    crc128 175100626 = 4225181274 ∧ crc128 4225181274 = 1540069788 ∧ crc128 1540069788 = 1357258748 ∧ crc128 1357258748 = 1534491824 := by
  refine ⟨?_, ?_, ?_, ?_, ?_, ?_, ?_, ?_, ?_, ?_, ?_, ?_, ?_, ?_, ?_, ?_⟩ <;> decide +kernel
theorem crc128_b : crc128 1534491824 = 582457874 ∧ crc128 582457874 = 332020171 ∧ crc128 332020171 = 3827288015 ∧ crc128 3827288015 = 1307576961 ∧
    crc128 1307576961 = 663433124 ∧ crc128 663433124 = 609686098 ∧ crc128 609686098 = 3628614574 ∧ crc128 3628614574 = 3746741852 ∧
    crc128 3746741852 = 4052690100 ∧ crc128 4052690100 = 176297486 ∧ crc128 176297486 = 397096062 ∧ crc128 397096062 = 4151263722 ∧
    crc128 4151263722 = 2176660693 ∧ crc128 2176660693 = 338346065 ∧ crc128 338346065 = 1420788027 ∧ crc128 1420788027 = 1728495222 := by
  refine ⟨?_, ?_, ?_, ?_, ?_, ?_, ?_, ?_, ?_, ?_, ?_, ?_, ?_, ?_, ?_, ?_⟩ <;> decide +kernel
/-- CRC-32C of the 4,096 zero bytes of a zero tile is the number that R146 gives. -/
theorem test_zero_tile_crc : crc32c (zeros 4096) = zeroTileCrc := by
  obtain ⟨a0, a1, a2, a3, a4, a5, a6, a7, a8, a9, a10, a11, a12, a13, a14, a15⟩ := crc128_a
  obtain ⟨b0, b1, b2, b3, b4, b5, b6, b7, b8, b9, b10, b11, b12, b13, b14, b15⟩ := crc128_b
  rw [crc32c, crc32, show 4096 = 128 + 3968 from rfl, crc128_zeros, a0, show 3968 = 128 + 3840 from rfl, crc128_zeros, a1, show 3840 = 128 + 3712 from rfl, crc128_zeros, a2, show 3712 = 128 + 3584 from rfl, crc128_zeros, a3, show 3584 = 128 + 3456 from rfl, crc128_zeros, a4, show 3456 = 128 + 3328 from rfl, crc128_zeros, a5, show 3328 = 128 + 3200 from rfl, crc128_zeros, a6, show 3200 = 128 + 3072 from rfl, crc128_zeros, a7, show 3072 = 128 + 2944 from rfl, crc128_zeros, a8, show 2944 = 128 + 2816 from rfl, crc128_zeros, a9, show 2816 = 128 + 2688 from rfl, crc128_zeros, a10, show 2688 = 128 + 2560 from rfl, crc128_zeros, a11, show 2560 = 128 + 2432 from rfl, crc128_zeros, a12, show 2432 = 128 + 2304 from rfl, crc128_zeros, a13, show 2304 = 128 + 2176 from rfl, crc128_zeros, a14, show 2176 = 128 + 2048 from rfl, crc128_zeros, a15, show 2048 = 128 + 1920 from rfl, crc128_zeros, b0, show 1920 = 128 + 1792 from rfl, crc128_zeros, b1, show 1792 = 128 + 1664 from rfl, crc128_zeros, b2, show 1664 = 128 + 1536 from rfl, crc128_zeros, b3, show 1536 = 128 + 1408 from rfl, crc128_zeros, b4, show 1408 = 128 + 1280 from rfl, crc128_zeros, b5, show 1280 = 128 + 1152 from rfl, crc128_zeros, b6, show 1152 = 128 + 1024 from rfl, crc128_zeros, b7, show 1024 = 128 + 896 from rfl, crc128_zeros, b8, show 896 = 128 + 768 from rfl, crc128_zeros, b9, show 768 = 128 + 640 from rfl, crc128_zeros, b10, show 640 = 128 + 512 from rfl, crc128_zeros, b11, show 512 = 128 + 384 from rfl, crc128_zeros, b12, show 384 = 128 + 256 from rfl, crc128_zeros, b13, show 256 = 128 + 128 from rfl, crc128_zeros, b14, show 128 = 128 + 0 from rfl, crc128_zeros, b15]
  decide

/-- An unlisted tile is the zero tile. -/
theorem empty_bytes (x : Partition) (h : x.mem = []) (k : Nat) : tileBytes x k = zeros 4096 := by
  have g : (fun i => mget ([].filter fun c : Host.Cell => decide (4096 * k ≤ c.1) && decide (c.1 < 4096 * k + 4096)) (4096 * k + i)) = fun _ => (0 : Byte) := rfl
  rw [tileBytes, mread, h, g, List.map_const', List.length_range, zeros]
theorem empty_crcOk (x : Partition) (h : x.mem = []) (k : Nat) (c : tileCollar x k = zeroCollar) :
    crcOk (tileBytes x k) (tileCollar x k) = true := by
  rw [empty_bytes x h, crcOk, test_zero_tile_crc, c]; decide +kernel
theorem wit_TargetsPerformAtomics_crc : crcOk (tileBytes granted0 0) (tileCollar granted0 0) = true :=
  empty_crcOk _ rfl _ (by decide +kernel)
theorem wit_TargetsPerformAtomics :
    baseVerdict (one granted0) (verdict (one granted0) (rqm 5 8 8) 34 8) = .perform 0 8 ∧ panelFenced (one granted0) 0 = false ∧
    granted0.keyed = true ∧ (granted0.bolt 0).st = .hbmDirty ∧
    collarClean (tileCollar granted0 0) = true ∧ (tileCollar granted0 0).poison = false := by decide +kernel

/-- Core 0 has DMA 3 waiting for two responses to requests tagged 1 and 2. -/
def dma3 : Dma :=
  { id := 3, tag := 0, sid := 0, semen := false, xf := 0, src := 0, dst := 0, len := 8192, pc := 0, entry := none, active := 1
    unit := 2, edge := 0, status := [], finished := false, aborted := false, parked := false, beforeSeam := none, asked := []
    ahead := [], waiting := 2, buf := [], bufCol := [], bufTag := [] }
def asks (k : ReqKind) (late : Bool) : State :=
  { up with cores := [(0, { Core.zero with dmas := [dma3] })]
            fabric := { up.fabric with reqs := [{ rq 1 false with kind := k, timedOut := late }, rq 2 false] } }
def rsp (mt : Nat) : Msg := { blank mt with job := 1, src := 7, tag := 1, payload := toLE 4096 77, collar := toLE 16 zeroCollar.toNat, len := 4096 }
theorem wit_RequestsEnd :
    nothingWaits (asks (.dmaRead 0 3 0x1000) false) ∧
    (findReq (asks (.dmaRead 0 3 0x1000) false) (rsp 2) = some { rq 1 false with kind := .dmaRead 0 3 0x1000 } ∧ (rsp 2).status = 0 ∧
      msgOk (rsp 2) = true ∧ ((coreOf (asks (.dmaRead 0 3 0x1000) false) 0).dmas.all fun d => !d.aborted) = true) ∧
    findReq (asks (.dmaWrite 0 3) false) (rsp 4) = some { rq 1 false with kind := .dmaWrite 0 3 } ∧
    findReq (asks (.amo 0 3 0) false) (rsp 6) = some { rq 1 false with kind := .amo 0 3 0 } ∧
    reqAt (asks (.dmaWrite 0 3) false) false 1 = some { rq 1 false with kind := .dmaWrite 0 3 } ∧
    reqAt (asks (.dmaWrite 0 3) true) false 1 = some { rq 1 false with kind := .dmaWrite 0 3, timedOut := true } := by
  refine ⟨⟨by decide +kernel, by decide +kernel⟩, ?_⟩
  decide +kernel

/-- Service port 1 is UP; partition 0 owns its frames without VLAN to MAC 0x42, and has posted one transmit descriptor at 0x1800
and one receive buffer at 0x1000, both of a buffer at 0x2000; `n` is the length in the descriptors. -/
def svcRings (n : Nat) (rx : Nat) : State :=
  { putMreg (one { ((((((live.put (R.svCtl 1) 32 32 1).put (R.svCtl 1) 12 0 16).put (R.svTxp 1) 31 0 1).put (R.svTxb 1) 43 6 0x60).put
      (R.svCtl 1) 28 16 16).put (R.svRxp 1) 31 0 rx).put (R.svRxb 1) 43 6 0x40 with mac1 := 0x42 }) (M.ptSvc 1) 1 0 2 with
    stores := cellsOf 0x1000 (toLE 8 0x2000 ++ toLE 8 n) ++ cellsOf 0x1800 (toLE 8 0x2000 ++ toLE 8 n) }
def svc : State := svcRings 64 1
def sframe (mac : BitVec 48) (ok : Bool) : SvcFrame := { mac := mac, vlan := 0, bytes := zeros 60, fcsOk := ok, udp := none }
theorem wit_ServicePortsMoveFrames :
    (sst svc 1 = 2 ∧ sst svc 1 ≠ 3 ∧ svc.sec.pst = 0) ∧
    ((sframe 0x42 true).fcsOk = true ∧ macControl (sframe 0x42 true) 0x0101 = false ∧ macControl (sframe 0x42 true) 1 = false ∧
      (sframe 0x42 true).bytes.length ≤ 9208 ∧ frameOwner svc 1 (sframe 0x43 true) = none ∧
      frameOwner svc 1 (sframe 0x42 true) = some 0) ∧
    reg (svcRings 64 0) 0 (R.svRxp 1) 63 32 = reg (svcRings 64 0) 0 (R.svRxp 1) 31 0 ∧
    (reg svc 0 (R.svCtl 1) 32 32 = 1 ∧ reg svc 0 (R.svCtl 1) 28 16 ≠ 0 ∧ reg svc 0 (R.svRxp 1) 63 32 ≠ reg svc 0 (R.svRxp 1) 31 0 ∧
      rxAddr (partOf svc 0) 1 = 0x1000 ∧ (svcDesc svc 0 0x1000).addr = 0x2000 ∧ (svcDesc svc 0 0x1000).len = 64 ∧
      hasCluster (partOf svc 0) (0x2000 / 0x400000) = true) ∧
    (reg svc 0 (R.svCtl 1) 12 0 ≠ 0 ∧ reg svc 0 (R.svTxp 1) 63 32 ≠ reg svc 0 (R.svTxp 1) 31 0 ∧
      txWaiting (partOf svc 0) 1 = false ∧ svcDesc svc 0 (txAddr (partOf svc 0) 1) = ⟨0x2000, 64, 0, 0⟩ ∧
      svcSends svc 1 (nfld 0 3 1) = true ∧ bit (tagsOver svc 0x2000 64) 0 = false ∧ toTunnel svc (mread svc.stores 0x2000 64) = false) ∧
    (svcDesc (svcRings 13 0) 0 (txAddr (partOf (svcRings 13 0) 0) 1)).len < 14 := by decide +kernel

/-- A HELLO of a device with a certificate of one byte, as a message to port 3. -/
def helloBytes : List Byte := helloBody 0 7 9 1 2 0 5 6 0 [0xAA] ++ zeros 96
def helloMsg : Msg := { blank 10 with payload := helloBytes, len := 161 }
theorem wit_DiscoveryAndSwap :
    (let s := port { q0 with pstate := 7 }
    (portOf s 3).pstate = 7 ∧ portsHeld s = false ∧ (portOf s 3).dres = 0 ∧ (portOf s 3).prevPeer = none ∧ (portOf s 3).replay = []) ∧
    (let s := { port { q0 with pstate := 7 } with sec := { up.sec with idKey := some 1 } };
    (helloPayload s 3).isSome = true ∧ portsHeld s = false) ∧
    msgOk helloMsg = true ∧ isHello helloMsg = true ∧ helloMsg.enc = false ∧ (parseHello helloMsg.payload).isSome = true ∧
    helloMsg.len = helloMsg.payload.length := by decide +kernel
/-! ### Collectives -/

/-- A descriptor of operation `op` (0 RS, 1 AG, 2 AR) on group slot 3 over 2,048 FP32 elements, `SRC` and `DST` at bolts 2 and 4 (of
AG: one bolt of each rank), the record at bolt 6, `WLIM` 5. -/
def cdesc (op : Nat) : List Byte :=
  toLE 8 0x100020000 ++ toLE 8 0x100040000 ++ toLE 8 0x100060000 ++ toLE 4 32768 ++ [BitVec.ofNat 8 (op * 64 + 3), 0, 0, 0]
    ++ toLE 4 0x3F800000 ++ toLE 4 0x3F800000 ++ toLE 2 5 ++ zeros 22
/-- A DIRECT group of two members, this module (0) and device 9. -/
def group2 (r : Nat) : Group :=
  { Group.empty with st := 1, job := 1, alg := 2, n := 2, rank := r, members := [(1 - r, 9)], ports := 0xFF }
def coll (op : Nat) (run ended : Bool) : Coll :=
  { gix := 3, opseq := 0, ctx := 0, cluster := 0, desc := cdesc op, refused := false, running := run, ready := [], acc := [], fin := [], pois := []
    outq := [], statuses := [], cflags := 0, ssqOwn := none, ssqIn := [], ssqTot := none, unacked := 0, aborted := false, ended := ended }
/-- Partition 0 with context 0 on all its bolts, group slot 3 and a collective. -/
def collPart (r : Nat) (ks : List Coll) : Partition :=
  { ((ctxPart Cs.running).put (R.cxVbase 0) 43 16 0x10000).put (R.cxVsize 0) 31 0 64 with
    groups := [(3, group2 r)], colls := ks, bolts := [(4, bolt .hbmDirty)] }
def collMsg (kind idx : Nat) (pay : List Byte) (col : Bool) : Msg :=
  { blank Mt.coll with job := 1, src := 9, addr := BitVec.ofNat 44 (collAddr 3 0 kind idx), payload := pay, len := pay.length, col := col
                       collar := toLE 16 zeroCollar.toNat }

/-- A group descriptor for job 1 at bolt 0, with its member list behind it, and that job's key. -/
def groupMem : State :=
  one { live.put R.cgrpAddr 63 6 0x4000000 with
    bolts := [(0, bolt .hbmDirty)], jkeys := [(0, { JobKey.empty with st := 2, job := 1, key := 7 })]
    mem := cellsOf 0 (toLE 4 1 ++ toLE 2 0 ++ [2, 0] ++ toLE 4 2 ++ toLE 4 0 ++ toLE 8 0x100000040 ++ toLE 4 0xFF ++ zeros 36 ++ toLE 4 0 ++ toLE 4 9) }
theorem wit_GroupsAndCollectives :
    (((partOf groupMem 0).group 3).st = 0 ∧ (loadedGroup groupMem 0).1.isSome = true) ∧
    (((partOf (one live) 0).group 3).st = 0 ∧ (loadedGroup (one live) 0).1.isNone = true) ∧
    (((partOf (one (collPart 0 [])) 0).group 3).st = 1 ∧ ((partOf (one (collPart 0 [])) 0).colls.any fun k => k.gix == 3) = false) ∧
    ((partOf (one (collPart 0 [coll 2 true false])) 0).colls.any fun k => k.gix == 3) = true ∧
    ((ctxClusters (collPart 0 []) 0).idxOf? 0 = some 0 ∧ collRuns (collPart 0 []) (group2 0) (slice (cdesc 2) 0 64) = true ∧
      collOf (one (collPart 0 [])) 0 (Cd.gix (slice (cdesc 2) 0 64)) 0 = none) ∧
    (collOf (one (collPart 0 [coll 2 false false])) 0 3 0 = some (coll 2 false false) ∧
      ((collPart 0 [coll 2 false false]).colls.find? fun j => !j.running && !j.ended) = some (coll 2 false false) ∧
      enginesBusy (one (collPart 0 [coll 2 false false])) < 8 ∧ nextServed (one (collPart 0 [coll 2 false false])) = some 0 ∧ Cd.wlim (cdesc 2) ≠ 0) ∧
    (collOf (one (collPart 0 [coll 2 true true])) 0 3 0 = some (coll 2 true true) ∧ Cd.semen (cdesc 2) = false) := by decide +kernel

theorem wit_CollectiveMessagesArrive :
    (groupFor (one (collPart 1 [coll 2 true false])) (collMsg 0 1 (zeros 4096) true) = some 0 ∧ planSlot (collPart 1 [coll 2 true false]) 3 = false ∧
      rankOf (group2 1) 9 = some 0 ∧ collOf (one (collPart 1 [coll 2 true false])) 0 3 (Ca.opseq (collMsg 0 1 (zeros 4096) true)) = some (coll 2 true false)) ∧
    (Ca.kind (collMsg 2 0 (readyBytes (cdesc 2)) false) = 2 ∧ Ca.kind (collMsg 3 0 [9] false) = 3) ∧
    (∀ r < 2, Cd.reduces (cdesc 2) = true ∧ Ca.idx (collMsg 0 1 [] true) < Cd.carriers (cdesc 2) ∧ sget [] (coll 2 true false).acc (accKey 1 r) = []) ∧
    (Ca.kind (collMsg 1 0 (toLE 8 5) false) = 1 ∧ (group2 1).rank ≠ 0) ∧
    (let s := one (collPart 1 [coll 1 true false]);
      Cd.op (coll 1 true false).desc = 1 ∧ (idxTile (Cd.bolts (cdesc 1) * 16) 2 fun b => !(coll 1 true false).fin.contains b &&
        comesFrom (group2 1) 0 (tileWay (group2 1) (cdesc 1) b).1 (tileWay (group2 1) (cdesc 1) b).2) = 2 ∧
      dstAddr (group2 1) (cdesc 1) 2 = 0x100042000 ∧ ctxMay s 0 0 0x100042000 = true ∧ inBase (partOf s 0) 0x100042000 = false ∧
      collarOf (collMsg 1 2 [] true).collar = zeroCollar ∧ collarClean zeroCollar = true ∧ zeroCollar.poison = false ∧
      stalls (partOf s 0) ((0x100042000 - boltBase) / boltSize) = false ∧
      (readyWrite s 0 ((0x100042000 - boltBase) / boltSize)).isSome = true) ∧
    (let s := { one (collPart 1 [coll 2 true false]) with fabric := { up.fabric with reqs := [{ rq 1 false with kind := .coll 0 3 0 }] } };
      findReq s { rsp 8 with mtype := Mt.collAck } = some { rq 1 false with kind := .coll 0 3 0 } ∧ nothingWaits s) := by
  unfold nothingWaits; decide +kernel

/-! ### Grants, partitions and contexts -/

/-- `granted` with its slot in another state. -/
def grantIn (st : Nat) : State := one { granted.put (R.gntCtl 0) 11 10 st with grants := [(0, ⟨0, true⟩)] }
/-- With no export in use a range of 4 bolts finds its place. -/
theorem place_first (s : State) (h : exportsInUse s = []) : ∃ o, placeExport s 4 = some o := by
  have k : (placeExport s 4).isSome = true := by
    simp only [placeExport, h, List.map_nil, List.filter_nil]
    rw [List.find?_isSome]
    exact ⟨0, by simp, by simp [exportFits, exportWindow, boltSize]⟩
  exact Option.isSome_iff_exists.mp k
theorem wit_GrantSlots :
    (partOf (grantIn 0) 0).ptstate = 1 ∧ gstate (partOf (grantIn 0) 0) 0 = Gs.free ∧ gstate (partOf (grantIn 2) 0) 0 = Gs.active ∧
    gstate (partOf (grantIn 3) 0) 0 = Gs.revoking ∧
    (gstate (partOf (grantIn 1) 0) 0 = Gs.pinning ∧ sget ⟨0, false⟩ (partOf (grantIn 1) 0).grants 0 = ⟨Status.ok, true⟩ ∧
      gBolts (partOf (grantIn 1) 0) 0 = 4 ∧ ((grantBolts (partOf (grantIn 1) 0) 0).any fun b => ((partOf (grantIn 1) 0).bolt b).st == .in_) = false ∧
      activeGrants (grantIn 1) < 1024 ∧ exportsInUse (grantIn 1) = []) := by decide +kernel

/-- The argument registers name partition 3 on panel 2, with 64 bolts and a quota of 16. -/
def pmState (x : Partition) : State :=
  let s := { up with parts := [(3, x)] };
  putMreg (putMreg (putMreg (putMreg s M.pmArg0 19 0 0x30004) M.pmArg1 63 0 (16 * 2 ^ 32 + 64)) (M.pmAmac 0) 59 0 11) (M.pmAmac 1) 59 0 12
theorem wit_PartitionLifecycle :
    serving (pmState .none_) = true ∧ mreg (pmState .none_) M.pmCmd 4 4 = 0 ∧ createStatus (pmState .none_) (pmArgs (pmState .none_)) = Status.ok ∧
    createStatus (pmState live) (pmArgs (pmState live)) ≠ Status.ok ∧ (pmArgs (pmState live)).number = 3 ∧
    (partOf (pmState live) 3).ptstate = 1 ∧ parkOk (pmState live) 3 = true ∧ parkOk (pmState .none_) 3 = false ∧
    ctxsAre (pmState live) 3 [Cs.free, Cs.halted, Cs.ended] = true ∧
    (let s := pmState { live with ptstate := 3, panels := 0, parkP := 1 };
      (partOf s 3).ptstate = 3 ∧ ((List.range 16).filter fun i => bit (pmArgs s).panels i).length = (partOf s 3).parkP ∧
      (pmArgs s).panels &&& (panelsHeld s ||| s.rel.fencedPanels) = 0) ∧
    (let s := pmState { live with ptstate := 2, bolts := [(1, bolt .hbmDirty)] };
      (partOf s 3).ptstate = 2 ∧ flashWritable s = true ∧ (dirtyBolts (partOf s 3)).length ≤ (partOf s 3).qbolts - blocksUsed (partOf s 3)) ∧
    (let s := pmState { live with ptstate := 4, parkP := 1 };
      (partOf s 3).ptstate = 4 ∧ ((partOf s 3).bolts.any fun e => e.2.keep && e.2.st == .in_) = false) := by decide +kernel

/-- Context 0 as `ctxPart` with a save area, in a state; its cluster held or free, the run state of its cores. -/
def ctxRoom (st : Nat) : Partition := { (ctxPart st).put (R.cxCimg 0) 43 6 0x4000000 with vbolts := 200 }
def saveAt (st : Nat) : Partition := ((ctxRoom st).put (R.cxSave 0) 43 16 0x10001).put (R.cxVbase 0) 43 16 0x10000
def ctxIs (st : Nat) (hold : Bool) : State :=
  { one (saveAt st) with clusters := if hold then [(0, { Cluster.zero with holder := some ⟨0, 0, 0⟩ })] else [] }
theorem wit_ContextCommands :
    (cstate (ctxIs 0 false) 0 0 = Cs.free ∧ startChecks (ctxIs 0 false) 0 0 = true ∧ clustersFree (ctxIs 0 false) (ctxClusters (partOf (ctxIs 0 false) 0) 0) = true) ∧
    (∀ st < 9, (partOf (ctxIs st true) 0).ptstate = 1 ∧ (ctxOf (ctxIs st true) 0 0).starting = false ∧ cstate (ctxIs st true) 0 0 = st) ∧
    (cstate (ctxIs Cs.preempted false) 0 0 = Cs.preempted ∧ clustersFree (ctxIs Cs.preempted false) (ctxClusters (partOf (ctxIs Cs.preempted false) 0) 0) = true) := by
  decide +kernel

/-- All 16 cores of cluster 0 in a run state. -/
def allCores (r : RunState) : Sparse Core := (List.range 16).map fun g => (g, { Core.zero with run := r, atSafe := true })
def image : SaveImage := { stopped := false, cores := [(2, { regs with pc := 5 })], clusters := [], bytes := [(3, 7)], tags := [], park := [] }
def starting : State := onCtx (ctxIs 0 true) 0 0 fun y => { y with starting := true }
def saving : State := { ctxIs Cs.preempting true with cores := allCores .stopped }
def resuming : State := onCtx (ctxIs Cs.resuming true) 0 0 fun y => { y with save := some image }
def haltedAll : State := { ctxIs Cs.running true with cores := allCores .halted }
theorem wit_ContextsRunAndEnd :
    ((ctxOf starting 0 0).starting = true ∧ (ctxOf starting 0 0).waitCmds = []) ∧
    (cstate saving 0 0 = Cs.preempting ∧ (ctxCores (partOf saving 0) 0).all (saveReady saving) = true ∧ holdsNow saving 0 0 = true) ∧
    (cstate resuming 0 0 = Cs.resuming ∧ (ctxOf resuming 0 0).save = some image ∧ image.park = [] ∧ (ctxClusters (partOf resuming 0) 0).Nodup) ∧
    (cstate (ctxIs Cs.teardown true) 0 0 = Cs.teardown ∧ teardownDone (ctxIs Cs.teardown true) 0 0 = true ∧ holdsNow (ctxIs Cs.teardown true) 0 0 = true) ∧
    (cstate haltedAll 0 0 = Cs.running ∧ ((ctxCores (partOf haltedAll 0) 0).all fun g =>
      (coreOf haltedAll g).run == .halted && (coreOf haltedAll g).mops == [] && (coreOf haltedAll g).dmas == []) = true ∧
      ((partOf haltedAll 0).colls.any fun k => k.ctx == 0) = false ∧ holdsNow haltedAll 0 0 = true) ∧
    ((ctxClusters (partOf haltedAll 0) 0)[fld (0x300000005 : Word) 25 16]? = some 0 ∧ (ctxOf haltedAll 0 0).save = none ∧
      (sget 0 (clusOf haltedAll 0).sem (fld (0x300000005 : Word) 5 0)).toNat + fld (0x300000005 : Word) 47 32 ≤ 65535 ∧
      ((coresOf 0).all fun g => (semWaiting haltedAll (fld (0x300000005 : Word) 5 0) g).isNone) = true) := by decide +kernel
/-- The clauses of this statement have the hypotheses of the one before it. -/
theorem wit_CaptureBuffersAreNotSaved :
    cstate saving 0 0 = Cs.preempting ∧ (ctxCores (partOf saving 0) 0).all (saveReady saving) = true ∧
    cstate resuming 0 0 = Cs.resuming ∧ (ctxOf resuming 0 0).save = some image ∧ image.park = [] := by decide +kernel

/-! ### Hosts and power states -/

/-- Host port 0 UP; partition 0 bound there, window 0 on its 64 bolts for reads and writes, bolt 0 written. -/
def hosts : State :=
  putMreg (one { ((live.put (R.hwCtl 0) 33 32 3).put (R.hwCtl 0) 31 0 64).put (R.hwBase 0) 43 16 0x10000 with
    bound := 1, bolts := [(0, bolt .hbmDirty)] }) (M.ptHost 0) 1 0 1
theorem wit_HostLinksAndLogicalDevices :
    (perstLow up 0 = false ∧ mreg up (M.ptHost 0) 1 0 ≠ 2) ∧ mreg hosts (M.ptHost 0) 1 0 = 1 ∧ hostUp hosts 0 = true ∧
    ((partOf hosts 0).ptstate = 1 ∧ hosts.rel.dph = 0) ∧
    (partOf (one { live with ptstate := 3, panels := 0, parkP := 1, msix := 5 }) 0).ptstate = 3 := by decide +kernel

theorem wit_HostWindowsAndRequests :
    (panelFenced hosts 0 = false ∧ hdmPlaces (partOf hosts 0) false 6 4 = [6, 7, 8, 9].map some ∧
      tilesTouched ([6, 7, 8, 9].map some) = [0] ∧ stalls (partOf hosts 0) (0 / 16) = false ∧ (tileCollar (partOf hosts 0) 0).poison = false ∧
      (partOf hosts 0).keyed = true) ∧
    ((hdmPlaces (partOf hosts 0) false 0x400000 4).all fun q => q.isNone) = true ∧ (partOf hosts 1).ptstate = 0 ∧
    (hdmPlaces (partOf hosts 0) true 6 4 = (List.range 4).map (fun i => some (6 + i)) ∧ ((partOf hosts 0).bolt (6 / boltSize)).st = .hbmDirty) := by
  decide +kernel
theorem wit_HostWindowsAndRequests_sound : tilePoisoned (partOf hosts 0) 0 = false := by
  have h := empty_crcOk (partOf hosts 0) (by decide +kernel) 0 (by decide +kernel)
  rw [tilePoisoned, h]; decide +kernel

/-- DMA 3 of core 0 waits for two answers; host request 5 is one of them. -/
def hostAsks (k : HostKind) (n : Nat) : State :=
  { one { live with hostReqs := [{ id := 5, port := 0, kind := k, len := n }] } with cores := [(0, { regs with dmas := [dma3] })] }
theorem wit_HostWindowsAndRequests_ends :
    hostReq (hostAsks (.dmaRead 0 3 0x100) 4) 0 5 = some { id := 5, port := 0, kind := .dmaRead 0 3 0x100, len := 4 } ∧
    ((coreOf (hostAsks (.dmaRead 0 3 0x100) 4) 0).dmas.all fun d => !d.aborted) = true ∧
    hostReq (hostAsks (.dmaWrite 0 3) 4) 0 5 = some { id := 5, port := 0, kind := .dmaWrite 0 3, len := 4 } ∧
    unwanted (hostAsks (.dmaRead 0 3 0x100) 4) 0 3 = false ∧
    (hostReq (hostAsks .late 4) 0 5 = some { id := 5, port := 0, kind := .late, len := 4 } ∧
      (partOf (hostAsks .late 4) 0).ptstate ≠ 0 ∧ (partOf (hostAsks .late 4) 0).get R.errMask 3 3 = 0) := by decide +kernel

/-- Partition 0 tolerates 500 µs of latency. -/
def patient : State := { one (live.put R.pcLattol 31 0 500) with stores := [(5, 1), (0xA0000007, 2)] }
theorem wit_PowerStatesFollowTolerance :
    (partOf patient 0).ptstate ≠ 0 ∧ (clusterIdle patient 0 = true ∧ (clusOf patient 0).power < clusterDepth (panelLimit patient (panelOfCluster 0)) (heldActive patient 0)) ∧
    sget 0 patient.pwr.chPower (channelKey 0 3) < channelDepth (panelLimit patient 0) := by decide +kernel

/-! ### The Tailor -/

/-- A layout of one dimension of 4 elements, whole, on rank `r`. -/
def lay (r : Nat) : List Byte := [1, 0, 0, 0] ++ toLE 4 r ++ toLE 4 1 ++ zeros 4 ++ toLE 4 4 ++ toLE 2 1 ++ zeros 42
/-- FP32, from rank 1 to rank `d`, both at bolt 2. -/
def tensorTo (d : Nat) : List Byte :=
  toLE 8 0x100020000 ++ toLE 8 0x100020000 ++ toLE 8 0 ++ toLE 4 0x3F800000 ++ toLE 4 0x3F800000 ++ zeros 32 ++ lay 1 ++ lay d
/-- A header: NEWLAY, group slot 3, job 1, members at 0x1000 and tensors at 0x1040 of the bolt range. -/
def planHead (mode : Nat) : List Byte :=
  toLE 4 0x77 ++ toLE 4 1 ++ toLE 8 0x100001000 ++ toLE 4 2 ++ toLE 4 1 ++ toLE 8 0x100001040 ++ [BitVec.ofNat 8 mode, 3, 1, 0, 1, 0, 0, 0] ++ zeros 24
/-- Job 1 with its key, group slot 3 of members 0 (this module) and 9, the layout slots in state `l`. -/
def tlPart (l : Nat) : Partition :=
  { ((((live.put R.tlJob 31 0 1).put R.tpAddr 63 6 0x4000000).put (R.tlLay 0) 19 18 l).put (R.tlLay 1) 19 18 l) with
    bolts := [(0, bolt .hbmDirty), (2, bolt .hbmDirty)], jkeys := [(0, { JobKey.empty with st := 2, job := 1, key := 7 })], groups := [(3, { group2 0 with epoch := 1 })]
    mem := cellsOf 0 (planHead 1) ++ cellsOf 0x1000 (toLE 4 0 ++ toLE 4 9 ++ zeros 56 ++ tensorTo 0) }
theorem wit_TailorRegisters :
    (lstate (tlPart 0) 0 = 0 ∧ lstate (tlPart 0) 1 = 0) ∧ lstate (tlPart 2) 0 = 2 ∧ wstate (tlPart 0) 0 = 0 ∧ wstate (tlPart 0) 1 = 0 ∧
    (partOf (one (tlPart 0)) 0).ptstate = 1 ∧ (tlPart 2).reg (R.tlLgm 0) = 0 := by decide +kernel

/-- The plan as it stands in memory, at rank 0, without its hash. -/
def plan0 (rank : Nat) : Plan :=
  { planid := 0x77, phash := 5, job := 1, members := [0, 9], rank := rank, header := planHead 1, tensors := [tensorTo rank], epoch := 1
    layout := some 0, slot := none, xfers := [], sends := [], doneBy := [], swseam := 0 }
/-- A member in `PSTATE` v with a plan. -/
def planning (v : Nat) (pl : Plan) : State :=
  one { (tlPart 0).put R.tpCtl 23 20 v with tailor := { plan := some pl, told := [], early := [], sset := none, records := [] } }
def afterRead (s : State) : Option Nat :=
  let r := readPlan s 0;
  planRefused (putReg r.2 0 R.tpCtl 63 32 r.1.planid.toNat) 0 r.1
theorem wit_PlansBeginAndEnd_submit :
    pstate (one (tlPart 2)) 0 = 0 ∧ afterRead (one (tlPart 2)) = none ∧ planFree (tlPart 2) (readPlan (one (tlPart 2)) 0).1 = false ∧
    (tlPart 2).tailor.early = [] ∧ afterRead (one { tlPart 2 with mem := [] }) = some Status.notRun := by decide +kernel
def told1 : Told :=
  { planid := 0x77, phash := 5, job := 1, gix := 3, epoch := 1, code := 4, status := 0, swseam := 0, left := [(1, 9)] }
theorem wit_PlansBeginAndEnd :
    (planOf? (planning 1 { plan0 1 with tensors := [tensorTo 0] }) 0 = some { plan0 1 with tensors := [tensorTo 0] } ∧
      planFree (partOf (planning 1 { plan0 1 with tensors := [tensorTo 0] }) 0) { plan0 1 with tensors := [tensorTo 0] } = true ∧
      planXfers { plan0 1 with tensors := [tensorTo 0] } = []) ∧
    (∀ v < 4, pstate (planning v (plan0 0)) 0 = v ∧ planOf? (planning v (plan0 0)) 0 = some (plan0 0)) ∧
    (told1.left.find? fun d => d.1 == (1, (9 : DevId)).1) = some (1, 9) ∧
    (∀ die, (freeTag (planning 0 (plan0 0)) die).isSome = true) := by decide +kernel

/-- A CTRL message of a plan from device 9, and a transfer of tile 0 from rank 1. -/
def ctrl (code : Nat) : Msg :=
  { blank Mt.coll with job := 1, src := 9, epoch := 1, addr := BitVec.ofNat 44 (collAddr 3 0 0 0), payload := ctrlBytes code 9 0x77 5 0 0 0 0 }
def ask0 : Ask := { first := 0, count := 0, busy := false, digest := none }
def xfer0 (asks : List Ask) (order : List Nat) : Xfer :=
  { tensor := 0, part := 0, src := 1, order := order, tiles := [0], missing := [0], bad := [], redo := [], asks := asks
    held := [], digBad := false, closed := false }
/-- The same with its tile here and a digest of the run to be compared. -/
def xfer1 : Xfer := { xfer0 [ask0] [] with missing := [], held := [{ ask0 with count := 1, digest := some 5 }] }
/-- A tile of that transfer. -/
def tileMsg (pay : List Byte) : Msg := { collMsg 1 0 pay true with epoch := 1 }
def xferring (asks : List Ask) (order : List Nat) : State := planning 2 { plan0 0 with xfers := [xfer0 asks order] }
theorem wit_PlanMessagesArrive :
    (tailorPart (planning 1 (plan0 0)) (ctrl 1).job = some 0 ∧ ((partOf (planning 1 (plan0 0)) 0).group (Ca.gix (ctrl 1))).st ≠ 0 ∧
      ((partOf (planning 1 (plan0 0)) 0).group (Ca.gix (ctrl 1))).job = (ctrl 1).job ∧ Ca.kind (ctrl 1) = 0 ∧
      ((partOf (planning 1 (plan0 0)) 0).group (Ca.gix (ctrl 1))).epoch = (ctrl 1).epoch ∧ (tileMsg []).epoch = 1) ∧
    (∀ c < 6, Ct.code (ctrl c) = c ∧ Ct.planid (ctrl c) = 0x77 ∧ Ct.phash (ctrl c) = 5) ∧ (plan0 0).members.idxOf? 9 = some 1 ∧
    (xferFrom { plan0 0 with xfers := [xfer0 [ask0, ask0] []] } 0 9 = some 0 ∧ Ct.tensor (ctrl 2) = 0 ∧ Ph.digest (planHead 1) = false) ∧
    (memberDev { plan0 1 with members := [9, 0] } 0 = 9 ∧ Ph.qc (planHead 1) = false) ∧
    (Ca.kind (tileMsg []) = 1 ∧ Ph.tgix (planHead 1) = Ca.gix (tileMsg []) ∧ Ct.tensor (tileMsg []) = 0 ∧
      (xfer0 [] []).missing.contains (Ca.idx (tileMsg [])) = true ∧
      (let a := destTile (partOf (xferring [] []) 0) (plan0 0) (tensorTo 0) 0;
        stalls (partOf (xferring [] []) 0) (a / 16) = false ∧ (readyWrite (xferring [] []) 0 (a / 16)).isSome = true ∧
        inBase (partOf (xferring [] []) 0) (boltBase + 4096 * a) = false)) ∧
    (xfer1.held = [{ ask0 with count := 1, digest := some 5 }] ∧ runHere xfer1 { ask0 with count := 1, digest := some 5 } = true ∧
      xfer1.asks ≠ []) ∧
    ((planOf? (xferring [{ ask0 with busy := true }] []) 0).map (fun q => q.xfers) = some [xfer0 [{ ask0 with busy := true }] []] ∧
      (∀ die, (freeTag (xferring [{ ask0 with busy := true }] []) die).isSome = true)) ∧
    (pstate (xferring [ask0] [1]) 0 = 2 ∧ (xfer0 [ask0] [1]).order = [1] ∧ 1 ≠ (plan0 0).rank ∧ 0 ∈ (xfer0 [ask0] [1]).missing) := by decide +kernel
/-- A digest record of one tile of weight slot 0, which is ACTIVE. -/
def scrubbed : State :=
  one { (live.put R.tlDgint 15 0 1).put (R.wsStat 0) 22 20 Ws.active with
    bolts := [(0, bolt .hbmDirty), (2, bolt .hbmDirty)], mem := cellsOf 0 (zeros 52 ++ toLE 4 1 ++ zeros 4 ++ [1, 0, 0, 0])
    tailor := { plan := none, told := [], early := [], sset := none, records := [⟨0x100000000, 32, some 0⟩] } }
theorem wit_PlanMessagesArrive_scrub :
    (partOf scrubbed 0).tailor.records[0]? = some ⟨0x100000000, 32, some 0⟩ ∧ (partOf scrubbed 0).get R.tlDgint 15 0 ≠ 0 ∧
    wstate (partOf scrubbed 0) 0 = Ws.active ∧ nfld (leAt (devRead scrubbed 0 0x100000000 64).1 0x3C 1) 0 0 = 1 ∧
    (readyAll fetchNow (devRead scrubbed 0 0x100000000 64).2 0
      ((List.range (leAt (devRead scrubbed 0 0x100000000 64).1 0x34 4)).map fun t => (32 + t) / 16).eraseDups).isSome = true := by decide +kernel

/-! ### Seams, scale records, the Pocket, the Ringmaster -/

/-- Partition 0 follows SEAM_IN with a period of 1,000 µs; a seam is planned at 500,000 ns. -/
def follower : State :=
  { one { live.put R.pcSeam 31 0 1000 with seam := { SeamPlan.none_ with planned := some 500000, last := some 1000 } } with
    pattern := some { (default : Pattern) with seamMask := 1 } }
theorem wit_SeamsAdvanceTheStep :
    seamDue (one (live.put R.pcSeam 31 0 1000)) 0 = true ∧
    (seamFollows follower 0 = true ∧ (partOf follower 0).seam.byPulse = none) ∧ (∀ p < 16, seamFollows up p = false) ∧
    ((partOf follower 0).ptstate = 1 ∧ (partOf follower 0).seam.pending = none ∧ (partOf follower 0).seam.planned = some 500000 ∧
      500000 ≤ 490000 + 25000 ∧ 490000 ≤ 500000 + 25000) := by decide +kernel

/-- A scale record (MAX_HISTORY, E4M3) at 0x1000 of core store 0, named by the list at 0x2000; one close is due. -/
def srRecord : List Byte := toLE 4 0x3F800000 ++ zeros 4 ++ toLE 4 0x40000000 ++ toLE 4 4 ++ zeros 4 ++ toLE 4 (2 * 2 ^ 30 + 3 * 2 ^ 6) ++ zeros 40
def srlWord (n : Nat) : Word := BitVec.ofNat 64 (0x2000 + n * 2 ^ 48)
def closing (n : Nat) : State :=
  { one { (live.put R.pcSrl 43 3 0x400).put R.pcSrl 62 48 n with seam := { SeamPlan.none_ with closing := [(1, srlWord n)] } } with
    stores := cellsOf 0x1000 srRecord ++ cellsOf 0x2000 (toLE 8 0x1000) }
theorem wit_ScaleRecordsClose :
    ((partOf (closing 0) 0).seam.closing = (1, srlWord 0) :: [] ∧ seamDmasLeft (closing 0) 0 1 = false ∧ listCount (srlWord 0) = 0) ∧
    (listCount (srlWord 1) = 1 ∧ seamDmasLeft (closing 1) 0 1 = false ∧
      devReadLE (closing 1) 0 (listEntry (srlWord 1) 0) 8 = (0x1000, closing 1) ∧
      pvKind (partOf (closing 1) 0) 0x1000 = .store) := by decide +kernel

/-- The Pocket: its ring of 16 at 0x4000 of core store 0 with one record, its table at 0x8000; entry 0 is the region of bolt 2 at a
host target. -/
def pkPart : Partition :=
  let x := (((live.put R.pkRbase 63 6 0x100).put R.pkRsize 16 0 16).put R.pkCtl 0 0 1).put R.pkTbase 63 6 0x200;
  let x := ((x.put R.pkTcnt 12 0 4).put R.pkTgt 63 16 (2 * 2 ^ 46)).put R.pkTsize 31 0 4096;
  { x with bound := 1, bolts := [(2, bolt .hbmDirty)] }
def pkState0 (cmd kind estate : Nat) (x : Partition) : State :=
  let ring := cellsOf 0x4000 (toLE 4 1 ++ zeros 60 ++ [BitVec.ofNat 8 cmd, 0, 0, 0, 0, 0] ++ zeros 10);
  let table := cellsOf 0x8000 (toLE 8 0x100020000 ++ toLE 4 1 ++ [BitVec.ofNat 8 kind, BitVec.ofNat 8 estate, 0, 0] ++ zeros 48);
  putMreg { one x with stores := ring ++ table } (M.ptHost 0) 1 0 1
def pk (cmd kind estate : Nat) : State := pkState0 cmd kind estate pkPart
def pkRun (fetch : Bool) (next : Nat) : Partition :=
  { pkPart with pocket := { pkPart.pocket with running := [{ idx := 0, fetch := fetch, next := next, out := 0, fails := [], mem := [], collars := [], cold := [] }] } }
def inStoresOk (s : State) : Bool :=
  decide (pkRing (partOf s 0) + 64 ≤ boltBase ∧ pvKind (partOf s 0) (pkEntry s 0 0).addr = .store ∧ pkRing (partOf s 0) + 64 ≤ (pkEntry s 0 0).addr
    ∧ 0x4040 + 16 ≤ (pkEntry s 0 0).addr ∧ pkRing (partOf s 0) + 64 ≤ 0x4040 ∧ 0x4040 + 16 ≤ boltBase)
theorem wit_PocketRegionsMove :
    (0 < reg (pk 1 1 0) 0 R.pkTcnt 12 0 ∧ (pkEntry (pk 1 1 0) 0 0).clean = true ∧ (pkEntry (pk 1 1 0) 0 0).kind = 1) ∧
    (pkRecord (pk 1 1 0) 0 = some (0x4040, 1, 0) ∧ stashOk (pk 1 1 0) 0 (pkEntry (pk 1 1 0) 0 0) = true ∧
      (pkEntry (pk 1 1 0) 0 0).estate = Pk.inn ∧ inStoresOk (pk 1 1 0) = true) ∧
    (pkRecord (pk 2 1 2) 0 = some (0x4040, 2, 0) ∧ (pkEntry (pk 2 1 2) 0 0).estate = Pk.away ∧ inStoresOk (pk 2 1 2) = true) ∧
    (pkRecord (pk 3 1 2) 0 = some (0x4040, 3, 0)) ∧
    (∀ f : Bool, pkOp (pkState0 0 1 (if f then 3 else 1) (pkRun f 1)) 0 0 = some { idx := 0, fetch := f, next := 1, out := 0, fails := [], mem := [], collars := [], cold := [] } ∧
      unitCount (pkRun f 1) (pkEntry (pkState0 0 1 (if f then 3 else 1) (pkRun f 1)) 0 0) ≤ 1 ∧
      (pkEntry (pkState0 0 1 (if f then 3 else 1) (pkRun f 1)) 0 0).semen = false ∧
      pvKind (pkRun f 1) (pkEntry (pkState0 0 1 (if f then 3 else 1) (pkRun f 1)) 0 0).addr = .store) ∧
    ((pkEntry (pk 4 2 4) 0 0).kind = 2 ∧ (pkEntry (pk 4 2 4) 0 0).clean = true ∧ inStoresOk (pk 4 2 4) = true ∧
      pkRecord (pk 4 2 4) 0 = some (0x4040, 4, 0) ∧ (pkEntry (pk 4 2 4) 0 0).estate = Pk.kept) ∧
    (pkRecord (pk 5 2 5) 0 = some (0x4040, 5, 0) ∧ (pkEntry (pk 5 2 5) 0 0).estate = Pk.claimed) ∧
    (pkRecord (pk 6 2 5) 0 = some (0x4040, 6, 0) ∧ (pkEntry (pk 6 2 5) 0 0).bolts (partOf (pk 6 2 5) 0) = [2] ∧
      ((partOf (pk 6 2 5) 0).bolt 2).stalled = []) ∧
    (let s := pkState0 0 2 4 { pkPart.put R.pkGwm 31 0 0xFFFFFFFF with pocket := { pkPart.pocket with kept := [0] } };
      watermarkPick s 0 = some 0 ∧ freeFrames (partOf s 0) < (partOf s 0).get R.pkGwm 31 0) := by decide +kernel

/-- The Ringmaster of context 0: queue of 16 at bolt 0, tables and rings in 2,048 bolts; the queue holds one record. -/
def rmPart : Partition :=
  let x := { live with vbolts := 2048 };
  let x := ((x.put (R.cxVbase 0) 43 16 0x10000).put (R.cxVsize 0) 31 0 2048).put R.rmQbase 63 6 0x4000000;
  let x := (((x.put R.rmQsize 16 0 16).put R.rmKvpg 55 32 4).put R.rmKvpg 13 0 64).put R.rmCap 47 32 100;
  let x := ((x.put R.rmCap 15 0 32).put R.rmSbase 43 16 0x10010).put R.rmCbase 43 16 0x10420;
  { ((x.put R.rmKvbase 43 16 0x10430).put R.rmSrec 43 16 0x10440).put R.rmResb 43 16 0x10450 with
    bolts := [(0, bolt .hbmDirty)] }
def rmRec (op : Nat) : List Byte :=
  toLE 4 7 ++ toLE 2 1 ++ [BitVec.ofNat 8 op, 2, 0, 1, 0, 0, 0, 0, 0, 0] ++ toLE 8 0x100500000 ++ toLE 4 3 ++ toLE 4 5 ++ toLE 8 0x100510000
    ++ toLE 8 0x100520000 ++ [8] ++ zeros 15 ++ zeros 64
def q7 : QReq := reqOf (rmRec 1)
def seq7 : Seq := { Seq.free with req := q7 }
def rmOn (op : Nat) : State :=
  one { rmPart with mem := cellsOf 0 (toLE 4 1 ++ zeros 60 ++ rmRec op)
                    ring := { Ring.off with on := true, queue := if op = 2 then [q7] else [], seqs := if op = 2 then [(0, seq7)] else [] } }
theorem wit_RingmasterRunsItsInstance :
    (rmPart.get R.rmCtl 0 0 = 0 ∧ rmChecks (one (rmPart.put R.rmCtl 0 0 1)) 0 = true ∧ rmChecks (one (live.put R.rmCtl 0 0 1)) 0 = false) ∧
    (partOf (one rmPart) 0).setReg R.rmCtl (setFld ((bar0Reg R.rmCtl).write 1 (rmPart.reg R.rmCtl)) 0 0 1) = rmPart.put R.rmCtl 0 0 1 ∧
    (partOf (one live) 0).setReg R.rmCtl (setFld ((bar0Reg R.rmCtl).write 1 (live.reg R.rmCtl)) 0 0 1) = live.put R.rmCtl 0 0 1 ∧
    (rmRecord (rmOn 1) 0 = some 0x100000040 ∧ (devReadLE (rmOn 1) 0 (0x100000040 + 6) 1).1 = 1 ∧
      submitOk (rmOn 1) 0 (devRead (rmOn 1) 0 0x100000040 128).1 = true) ∧
    (rmRecord (rmOn 2) 0 = some 0x100000040 ∧ (devReadLE (rmOn 2) 0 (0x100000040 + 6) 1).1 = 2 ∧
      reqAlive (partOf (rmOn 2) 0).ring (BitVec.ofNat 32 (devReadLE (rmOn 2) 0 0x100000040 4).1) = true) := by decide +kernel

/-- A record of one entry is due, to be written at 0x10000 of core store 0; and a follower whose slot 3 brings records. -/
def entry0 : StepEntry := { kind := 1, seq := 0, draft := 0, sample := true, pos := 3, ntok := 1, gen := 4, wsl := 0 }
def due : State :=
  one { live.put R.rmSrec 43 16 1 with ring := { Ring.off with on := true, cur := [entry0], curStep := some 5, publish := true } }
def followPart : Partition :=
  { (((live.put R.rmCtl 9 8 2).put R.rmCtl 21 16 3).put (R.wsStat 0) 22 20 Ws.active).put (R.wsStat 0) 15 0 4 with
    groups := [(3, group2 1)], ring := { Ring.off with on := true } }
theorem wit_RingmasterRunsItsInstance_records :
    ((partOf due 0).ring.publish = true ∧ pvKind (partOf due 0) (Rm.srec (partOf due 0)) = .store ∧ (recordBytes 5 [entry0]).length ≤ 4096) ∧
    (groupFor (one followPart) (collMsg 1 1 (zeros 80) false) = some 0 ∧ planSlot followPart 3 = false ∧ Rm.role followPart = 2 ∧
      Rm.gix followPart = Ca.gix (collMsg 1 1 (zeros 80) false) ∧ Ca.kind (collMsg 1 1 (zeros 80) false) = 1 ∧
      Ca.idx (collMsg 1 1 (zeros 80) false) ≠ 0 ∧ Ca.idx (collMsg 1 0 (zeros 80) false) = 0) ∧
    (let b := recordBytes 5 [entry0]; let n := leAt b 4 4 + leAt b 8 4 + leAt b 0x0C 4;
      64 + 16 * n ≤ 4096 ∧ n = 1 ∧ ((entriesOf b n).all fun e => (slotOfGen followPart e.gen.toNat).isSome) = true) := by decide +kernel

/-! ### Reliability -/

def kak : State := putMreg up M.hrCfg 9 0 4
/-- A vote on core 47: of a kernel of no partition, or of partition 0. -/
def vote (part : Nat) (d : Nat) : Vote :=
  { vid := 9, part := part, core := 47, kernel := some 2, orig := .digest (BitVec.ofNat 384 d), check := .digest 0, tol := [], p0 := [] }
def voting (part : Nat) (s : State) : State := { s with rel := { s.rel with votes := [vote part 1] } }
theorem wit_KernelsAndVotes :
    (serving kak = true ∧ inSlice kak 15 = true ∧ sget 0 kak.rel.kernels 15 = 0 ∧ kak.rel.badKern.contains 2 = false ∧
      kak.rel.kernels.length < mreg kak M.hrCfg 9 0) ∧
    (sget 0 { kak.rel with kernels := [(15, 2 + 1)] }.kernels 15 = 2 + 1 ∧ unitPart kak 1 15 = none) ∧
    voteOf (voting 16 up) 9 = some (vote 16 1) ∧ mayVote (voting 16 up) (vote 16 1) 15 31 = true ∧
    (agree [] (withP0 (vote 16 1) (.digest 1)) (vote 16 1).orig = true ∧ agree [] (withP0 (vote 16 1) (.digest 2)) (vote 16 1).orig = false ∧
      agree [] (withP0 (vote 16 1) (.digest 2)) (withP0 (vote 16 1) (.digest 2)) = true ∧
      agree [] (withP0 (vote 16 1) (.digest 2)) (withP0 (vote 16 1) (.digest 3)) = false ∧
      agree [] (withP0 (vote 16 1) (.digest 3)) (vote 16 1).orig = false) ∧
    (mayVote (voting 0 (one live)) (vote 0 1) 15 31 = true ∧ (vote 0 1).part < 16 ∧ (partOf (voting 0 (one live)) 0).ptstate = 1 ∧
      (voting 0 (one live)).rel.dph = 0) := by decide +kernel

/-- The path unit of cluster 0, the sequencer of core 3, the ALUs of IO-A as engines. -/
def eng (k d i : Nat) : EngineId := { die := d, kind := k, inst := i }
def resetting (e : EngineId) (s : State) : State := { s with rel := { s.rel with engResets := [e] } }
theorem wit_WatchdogsRestartUnits :
    (∀ k < 2, engineOk (eng k 0 3) = true) ∧ firmwareUp up = true ∧ up.rel.engResets.contains (eng 0 0 3) = false ∧
    (resetting (eng 0 0 3) up).rel.engResets.contains (eng 0 0 3) = true ∧
    (enginePart (resetting (eng 0 0 3) (one live)) (eng 0 0 3) = some 0 ∧ (partOf (resetting (eng 0 0 3) (one live)) 0).ptstate = 1) ∧
    (enginePart (resetting (eng 0 0 3) up) (eng 0 0 3) = none ∧ up.pwr.pgood = true ∧ up.pwr.onReset = false ∧ up.pwr.faultN = true ∧ up.rel.dph = 0) ∧
    servesPart (one live) 0 1 = true ∧
    ((one live).rel.fwSilent.any (fun e => e.1 == 0 && e.2.1 == 1 && decide (ioaNow (one live) ≤ e.2.2 + 20000000)) = false) ∧
    (let s := { one live with rel := { up.rel with fwSilent := [(0, 1, 0)] } };
      s.rel.fwSilent.any (fun e => e.1 == 0 && e.2.1 == 1 && decide (ioaNow s ≤ e.2.2 + 20000000)) = true ∧ (partOf s 0).ptstate = 1 ∧
      firmwareUp s = true) := by decide +kernel

def dying (c : Bool) : State := { one { live with ptstate := 5, rcount := c, bolts := [(1, bolt .hbmDirty)] } with stores := [(4, 1), (0x9FC00004, 2)] }
theorem wit_PartitionResetsRun :
    ((partOf (one live) 0).ptstate = 1 ∧ firmwareUp (one live) = true) ∧
    (cstate (ctxIs Cs.teardown true) 0 0 = Cs.teardown ∧ (partOf (ctxIs Cs.teardown true) 0).ptstate = 1 ∧ (ctxIs Cs.teardown true).rel.dph = 0) ∧
    ((partOf (dying false) 0).ptstate = 5 ∧ (dying false).rel.dph = 0 ∧ (partOf (dying false) 0).dying = false ∧ (partOf (dying false) 0).rcount = false) ∧
    ((dying true).pwr.pgood = true ∧ (dying true).pwr.onReset = false ∧ (dying true).pwr.faultN = true) := by decide +kernel

theorem wit_DeviceResetsRun :
    (firmwareUp up = true ∧ up.rel.oos = false ∧ up.pwr.pgood = true ∧ up.pwr.onReset = false ∧ up.pwr.faultN = true ∧ up.rel.dph = 0) ∧
    (firmwareUp { up with rel := { up.rel with oos := true } } = true) ∧
    ({ up.rel with dph := 1 }.dph ≠ 0 ∧ up.pwr.resetN = true) := by decide +kernel

theorem wit_FencesProbationAndHealth :
    (serving up = true ∧ ([(1, 10239), (3, 15), (7, 17), (8, 1), (9, 1)].all fun e => fenceable e.1 e.2) = true ∧
      ([(1, 10240), (3, 16), (7, 18), (8, 2), (9, 2), (2, 0)].all fun e => !fenceable e.1 e.2) = true) ∧
    bit { up.rel with lifting := 4 }.lifting 2 = true ∧ firmwareUp up = true := by decide +kernel

theorem wit_BootAndSelfTest :
    (let s := { State.reset with pwr := { Pwr.reset with resetN := true } };
      s.pwr.pgood = true ∧ s.pwr.resetN = true ∧ s.pwr.onReset = true ∧ copyFound s true = none) ∧
    (firmwareUp (one live) = true ∧ (one live).rel.bst = 0 ∧ ((one live).parts.any fun e => e.2.ptstate != 0) = true) ∧
    (up.parts.any fun e => e.2.ptstate != 0) = false ∧ { up.rel with bst := 1 }.bst = 1 ∧ up.sec.bstat ≠ 0 ∧
    { up.sec with powerBoot := true }.powerBoot = true := by decide +kernel

/-! ### Security, management, power -/

/-- Slot 2 of partition 0 in a state, of job 5, as a leader or not; an identity key. -/
def jkIn (st : Nat) (lead : Bool) : State :=
  { one { live with jkeys := [(2, { JobKey.empty with st := st, job := 5, leader := lead })] } with sec := { up.sec with idKey := some 3 } }
theorem wit_JobKeySlots :
    (((partOf (jkIn 0 false) 0).jkey 2).st = 0 ∧ jobHeld (jkIn 0 false) 5 = false ∧ (jkIn 0 false).sec.idKey ≠ none) ∧
    (((partOf (jkIn 2 true) 0).jkey 2).st = 2 ∧ ((partOf (jkIn 2 true) 0).jkey 2).leader = true) ∧
    ((partOf (jkIn 1 false) 0).jkey 2).st = 1 ∧ jobInUse (partOf (jkIn 2 true) 0) ((partOf (jkIn 2 true) 0).jkey 2).job = false ∧
    (partOf (jkIn 2 true) 0).ptstate = 1 := by decide +kernel

theorem wit_GlitchZeroisesTheVault : up.pwr.pgood = true ∧ up.pwr.onReset = false ∧ up.pwr.faultN = true ∧ up.rel.dph = 0 := by decide +kernel

/-- A device with an owner in slot 0; a flash command of 64 KiB at 0x10000 or of 256 bytes at 0x10100. -/
def owned : State := { up with sec := { up.sec with owners := [(0, { OwnerSlot.blank with digest := 9, used := true })] } }
def flashAt (a : Nat) (r : Option (Bool × Nat × List Byte)) : State := putMreg { up with sec := { up.sec with frun := r } } M.flCtl 63 32 a
theorem wit_KeysAndFlash :
    (serving up = true ∧ ownerIx up = none) ∧ (serving owned = true ∧ ownerIx owned = some 0 ∧ anyPartition owned = false) ∧
    (serving (flashAt 0x10000 none) = true ∧ (flashAt 0x10000 none).sec.frun = none ∧ mreg (flashAt 0x10000 none) M.flCtl 63 32 = 0x10000) ∧
    mreg (flashAt 0x27FFF00 none) M.flCtl 63 32 = 0x27FFF00 ∧ serving (flashAt 0 (some (true, 0, []))) = true ∧
    (flashAt 0 (some (true, 0x10000, []))).sec.frun = some (true, 0x10000, []) ∧
    (flashAt 0 (some (false, 0x100, [1, 2]))).sec.frun = some (false, 0x100, [1, 2]) := by decide +kernel

def mailbox (k : Option (BitVec 384)) : State := { hosts with sec := { hosts.sec with idKey := k } }
theorem wit_MailboxesAnswer :
    mailboxUp (mailbox (some 3)) 0 0 = true ∧ (mailbox (some 3)).sec.idKey = some 3 ∧ (partOf (mailbox (some 3)) 0).ptstate ≠ 0 ∧
    mailboxUp (mailbox none) 0 0 = true ∧ (mailbox none).sec.idKey = none ∧ firmwareUp hosts = true ∧ hostUp hosts 0 = true := by decide +kernel

/-- A frame of this device on the management port. -/
def mframe (mop addr len : Nat) (data : List Byte) : MgmtFrame :=
  { via := none, mdev := ownId up, mseq := 1, maddr := BitVec.ofNat 32 addr, mlen := len, mdata := data
    signed := [0x80, BitVec.ofNat 8 mop] ++ zeros 2 ++ toLE 4 (ownId up).toNat ++ toLE 8 1 ++ toLE 4 addr ++ toLE 4 len ++ zeros 8 ++ data
    mtag := [] }
theorem wit_ManagementFrames :
    (firmwareUp up = true ∧ up.pwr.refok = true ∧ (mframe 1 0x500000 16 []).mdev = ownId up ∧ (mframe 1 0x500000 16 []).via = none) ∧
    (frameSays (mframe 1 0x500000 16 []) 1 = true ∧ (mframe 1 0x500000 16 []).maddr.toNat = 0x500000) ∧
    (frameSays (mframe 1 0x5FFFF8 8 []) 1 = true ∧ (mframe 1 0x5FFFF8 8 []).maddr.toNat + 8 = 0x600000) ∧
    (frameSays (mframe 1 0x4FFFF8 8 []) 1 = true ∧ (mframe 1 0x4FFFF8 8 []).maddr.toNat + 8 ≤ 0x500000 ∧ up.sec.sessKey = none) ∧
    (frameSays (mframe 2 0x4001F0 16 (toLE 16 5)) 2 = true ∧ (mframe 2 0x4001F0 16 (toLE 16 5)).maddr.toNat + 16 = M.kyCmd) ∧
    (frameSays (mframe 3 0 40 ([1] ++ zeros 39)) 3 = true ∧ leAt (mframe 3 0 40 ([1] ++ zeros 39)).mdata 0 1 = 1) ∧
    (frameSays (mframe 4 0 200 (zeros 200)) 4 = true ∧ (mailbox (some 3)).sec.idKey ≠ none ∧ firmwareUp (mailbox (some 3)) = true) := by decide +kernel

theorem wit_RegisterWrites :
    spaceOk (.bar0 0) 0x1008 4 = true ∧ spaceOk .mgmt 0x1004 8 = true ∧ (partOf up 3).ptstate = 0 ∧ (partOf (one live) 0).ptstate = 1 ∧
    R.pcShrb % 8 = 0 ∧ 0x1000 ≤ R.pcShrb ∧ R.pcShrb < 0x2000 ∧ R.pcShrb ≠ R.pcLattol ∧ R.pcShrb ≠ R.pcSeam := by decide +kernel

def railsAt (n : Nat) (en : Bool) : State := { up with pwr := { up.pwr with rails := n, pwrEn := en } }
theorem wit_PowerAndPins :
    ((railsAt 0 false).pwr.pwrEn = false ∧ (railsAt 0 false).pwr.vinOk = true) ∧ (railsAt 1 true).pwr.rails = 1 ∧ up.pwr.pwrEn = true ∧
    up.pwr.rails ≠ 0 ∧ up.pwr.pgood = true ∧ (i3cUp up = true ∧ up.pwr.i3cAddr = none) ∧
    { up.pwr with i3cAddr := some 5 }.i3cAddr ≠ none := by decide +kernel


end Sys2Proof.Tests
end

section
/-! Proofs about the core: the issue of a bundle with one valid S or B slot, and what a fault leaves of the cores
(R33, R42, R48, R49). -/

namespace Sys2Proof.Proofs

open Sys2Proof.Machine Sys2Proof.Safety Sys2Proof.Laws

/-! ### What the start of a tear-down leaves (R245) -/

theorem sameCores_of_cores_eq {s t : State} (h : t.cores = s.cores) : sameCores s t := by
  intro g
  have hg : coreOf t g = coreOf s g := by simp only [coreOf, h]
  simp [hg, sameRegisters]

theorem sameCores_trans {s t u : State} (h₁ : sameCores s t) (h₂ : sameCores t u) : sameCores s u := by
  intro g
  obtain ⟨⟨g₁, v₁, p₁, lc₁, loops₁, vflag₁, exc₁, cb₁⟩, pc₁⟩ := h₁ g
  obtain ⟨⟨g₂, v₂, p₂, lc₂, loops₂, vflag₂, exc₂, cb₂⟩, pc₂⟩ := h₂ g
  exact ⟨⟨g₂.trans g₁, v₂.trans v₁, p₂.trans p₁, lc₂.trans lc₁, loops₂.trans loops₁, vflag₂.trans vflag₁,
    exc₂.trans exc₁, cb₂.trans cb₁⟩, pc₂.trans pc₁⟩

theorem sameCores_abandon (s : State) (g : Nat) : sameCores s (onCore s g Core.abandon) := by
  intro j
  by_cases h : j = g
  · subst h; simp [sameRegisters, Core.abandon]
  · simp [coreOf_onCore_ne _ _ _ _ h, sameRegisters]

/-- The cores of a context stop, and only their own waits and operations change. -/
theorem sameCores_abandonAll (l : List Nat) (s : State) :
    sameCores s (l.foldl (fun t j => onCore t j Core.abandon) s) := by
  induction l generalizing s with
  | nil => exact sameCores_of_cores_eq rfl
  | cons j l ih => exact sameCores_trans (sameCores_abandon s j) (ih _)

theorem beginTeardown_sameCores (s : State) (p c i : Nat) (x : Option Cause) :
    sameCores s (beginTeardown s p c i x) := by
  have lstatPart : sameCores s
      (if cstate s p c = Cs.preempting ∨ cstate s p c = Cs.resuming then lstat s p c i else s) :=
    sameCores_of_cores_eq (by split <;> rfl)
  have stopPart : ∀ t : State, sameCores t (if cstate s p c = Cs.preempted then t
      else (ctxCores (partOf s p) c).foldl (fun t j => onCore t j Core.abandon) t) := by
    intro t
    split
    · exact sameCores_of_cores_eq rfl
    · exact sameCores_abandonAll _ t
  exact sameCores_trans (sameCores_trans lstatPart (stopPart _)) (sameCores_of_cores_eq rfl)

theorem cstate_beginTeardown (s : State) (p c i : Nat) (x : Option Cause) :
    cstate (beginTeardown s p c i x) p c = Cs.teardown :=
  cstate_setCstate _ p c _ (by decide)

@[simp] theorem ctxOf_setCstate (s : State) (p c v d : Nat) : ctxOf (setCstate s p c v) p d = ctxOf s p d := by
  simp [ctxOf, setCstate, putReg, Partition.put, Partition.setReg, Partition.ctxOf]

@[simp] theorem ctxOf_onPart_markColls (s : State) (p d : Nat) (pick : Coll → Bool) (v : Nat) :
    ctxOf (onPart s p fun x => markColls x pick v) p d = ctxOf s p d := by
  simp [ctxOf, markColls, Partition.ctxOf]

theorem cause_beginTeardown (s : State) (p c i : Nat) (x : Option Cause) :
    (ctxOf (beginTeardown s p c i x) p c).cause = x := by
  simp [beginTeardown]

/-! ### Exceptions of a running context -/

/-- A core's fault begins the tear-down of its running context (R48, Table 10-4). -/
theorem coreFault_running {s : State} {g : Nat} {hd : Holder} (c pc ftag st : Nat) (hh : holderOf s g = some hd)
    (hr : cstate s hd.part hd.ctx = Cs.running) :
    coreFault s g c pc ftag st =
      beginTeardown (onCore s g fun k => { k with exc := BitVec.ofNat 8 c }) hd.part hd.ctx Status.aborted
        (some { fstat := fstatOf c st, fpc := pc % 32768, ftag := ftag, fcause := c, fcid := cidOf g }) := by
  simp [coreFault, contextFault, hh, hr]

/-- What a core's fault does in a running context: the core keeps its registers and program counter, its last exception
and the context's cause are the fault's, and the context is torn down (R48, R49). -/
theorem coreFault_running_spec {s : State} {g : Nat} {hd : Holder} (c pc ftag st : Nat) (hh : holderOf s g = some hd)
    (hr : cstate s hd.part hd.ctx = Cs.running) :
    let t := coreFault s g c pc ftag st
    sameRegisters { coreOf s g with exc := BitVec.ofNat 8 c } (coreOf t g) ∧ (coreOf t g).pc = (coreOf s g).pc ∧
      cstate t hd.part hd.ctx = Cs.teardown ∧ (ctxOf t hd.part hd.ctx).cause.map (·.fcause) = some c := by
  have same := fun x => beginTeardown_sameCores (onCore s g fun k => { k with exc := BitVec.ofNat 8 c })
    hd.part hd.ctx Status.aborted x g
  simp only [coreOf_onCore] at same
  rw [coreFault_running _ _ _ _ hh hr]
  exact ⟨(same _).1, (same _).2, cstate_beginTeardown .., by rw [cause_beginTeardown]; rfl⟩

/-- A bundle that raises `ILLEGAL` in a running context. -/
theorem issue_illegal {s : State} {g n : Nat} {w : Bundle} {hd : Holder} (h : Issues s g w n)
    (hc : bundleCause s g (coreOf s g) w = some Exc.illegal) (hh : holderOf s g = some hd)
    (hr : cstate s hd.part hd.ctx = Cs.running) :
    ∃ t, exec (.bundleIssue g []) s = .next t ∧
      sameRegisters { coreOf s g with exc := BitVec.ofNat 8 Exc.illegal } (coreOf t g) ∧
      (coreOf t g).pc = (coreOf s g).pc ∧ cstate t hd.part hd.ctx = Cs.teardown ∧
      (ctxOf t hd.part hd.ctx).cause.map (·.fcause) = some Exc.illegal :=
  ⟨_, issue_fault h hc (by decide), coreFault_running_spec (s := spend s n) _ _ _ _ hh hr⟩

/-! ### Bundles with one valid slot -/

theorem badHeader_of_issues {s : State} {g n : Nat} {w : Bundle} (h : Issues s g w n) : w.badHeader = false := by
  obtain ⟨-, -, -, hh, -⟩ := h
  exact hh

theorem guardB_of_slots {k : Core} {w : Bundle} {sv vv mv lv : Bool} (hs : Slots w sv true vv mv lv)
    (hg : guardBit k (B.pr w.b) (B.pn w.b) = true) : guardB k w = true := by
  obtain ⟨-, hB, -⟩ := hs
  simp [guardB, hB, hg]

theorem bundleCause_onlyS {s : State} {g : Nat} {k : Core} {w : Bundle} (hh : w.badHeader = false)
    (hs : Slots w true false false false false) :
    bundleCause s g k w = if S.illegal w.s then some Exc.illegal else none := by
  obtain ⟨hS, hB, hV, hM, hL⟩ := hs
  cases hi : S.illegal w.s <;> simp [bundleCause, hh, hS, hB, hV, hM, hL, hi, cause, lowest]

theorem bundleCause_onlyB {s : State} {g : Nat} {k : Core} {w : Bundle} (hh : w.badHeader = false)
    (hs : Slots w false true false false false) : bundleCause s g k w = lowest (causesB s g k w) := by
  obtain ⟨hS, hB, hV, hM, hL⟩ := hs
  simp [bundleCause, hh, hS, hB, hV, hM, hL]

/-- Only the M and L slots wait for a place at issue (R36, R83). -/
theorem mustWait_eq_false {k : Core} {w : Bundle} {sv bv vv : Bool} (hs : Slots w sv bv vv false false) :
    mustWait k w = false := by
  obtain ⟨-, -, -, hM, hL⟩ := hs
  simp [mustWait, guardL, guardM, hM, hL]

@[simp] theorem spend_zero (s : State) : spend s 0 = s := rfl

theorem commitBundle_onlyS {s : State} {g : Nat} {k : Core} {w : Bundle} (hs : Slots w true false false false false)
    (hg : guardBit k (S.pr w.s) (S.pn w.s) = true) :
    commitBundle s g k w = putCore s g (flow k w (actS s g k w.s { k with skip := false })) := by
  obtain ⟨hS, hB, hV, hM, hL⟩ := hs
  simp [commitBundle, guardS, guardB, guardM, guardL, hS, hB, hV, hM, hL, hg]

theorem commitBundle_onlyB {s : State} {g : Nat} {k : Core} {w : Bundle} (hs : Slots w false true false false false)
    (hg : guardBit k (B.pr w.b) (B.pn w.b) = true) :
    commitBundle s g k w = actB (putCore s g (flow k w { k with skip := false })) g k w.b := by
  obtain ⟨hS, hB, hV, hM, hL⟩ := hs
  simp [commitBundle, guardS, guardB, guardM, guardL, hS, hB, hV, hM, hL, hg]

/-- With no B slot and no active loop the core goes to the next bundle. -/
theorem flow_of_noB {k q : Core} {w : Bundle} {sv vv mv lv : Bool} (hs : Slots w sv false vv mv lv)
    (hl : k.loops = []) : flow k w q = { q with pc := (k.pc + 1) % 32768, loops := [] } := by
  obtain ⟨-, hB, -⟩ := hs
  simp [flow, guardB, hB, hl, loopTest, pcWrap_succ]

/-- A legal, guarded S slot alone, with no loop active: the core is as the slot leaves it, at the next bundle. -/
theorem issue_onlyS {s : State} {g n : Nat} {w : Bundle} {q : Core} (h : Issues s g w n)
    (hs : Slots w true false false false false) (hi : S.illegal w.s = false)
    (hg : guardBit (coreOf s g) (S.pr w.s) (S.pn w.s) = true) (hl : (coreOf s g).loops = [])
    (hq : actS (spend s n) g (coreOf s g) w.s { coreOf s g with skip := false } = { q with skip := false })
    (hqpc : q.pc = (coreOf s g).pc) (hql : q.loops = []) :
    exec (.bundleIssue g []) s = .next (putCore (spend s n) g (advanced q)) := by
  have hcause : bundleCause s g (coreOf s g) w = none := by simp [bundleCause_onlyS (badHeader_of_issues h) hs, hi]
  rw [issue_commit h hcause (mustWait_eq_false hs), commitBundle_onlyS hs hg, flow_of_noB hs hl, hq, ← hqpc, ← hql]
  rfl

/-! ### Special registers (R33, Table 2-6) -/

theorem S_csr_eq (w : Nat) : S.csr w = S.imm w % 4096 := rfl

/-- A `csrr` or `csrw` with `I` = 0 or of a reserved index is illegal. -/
theorem S_illegal_of_csr {w : Nat} (ho : S.op w = 0x1E ∨ S.op w = 0x1F) (hi : S.i w = 0 ∨ 4 < S.csr w) :
    S.illegal w = true := by
  rcases ho with ho | ho <;> rcases hi with hi | hi <;> simp [S.illegal, ho, hi]

/-- What the five special registers read. -/
theorem csrRead_table {s : State} {g i : Nat} {k : Core} {hd : Holder} {v : Word} (hh : holderOf s g = some hd)
    (hv : (i, v) ∈ [(0, BitVec.ofNat 64 (cidOf g)), (1, BitVec.ofNat 64 (hd.part * 64 + hd.ctx)),
      (2, sget 0 s.dieCtr (g / 2560)), (3, BitVec.ofNat 64 k.vflag.toNat),
      (4, if (partOf s hd.part).dbgen then 1 else 0)]) : csrRead s g k i = v := by
  simp only [List.mem_cons, Prod.mk.injEq, List.not_mem_nil, or_false] at hv
  rcases hv with ⟨rfl, rfl⟩ | ⟨rfl, rfl⟩ | ⟨rfl, rfl⟩ | ⟨rfl, rfl⟩ | ⟨rfl, rfl⟩
  case inr.inr.inr.inr => cases hd' : (partOf s hd.part).dbgen <;> simp [csrRead, debugMode, hh, hd', b2n]
  all_goals simp [csrRead, hh]

theorem actS_csrr {s : State} {g w : Nat} {k q : Core} (ho : S.op w = 0x1E) :
    actS s g k w q = q.setG (S.gd w) (csrRead s g k (S.csr w)) := by
  simp [actS, ho]

theorem actS_csrw_vflag {s : State} {g w : Nat} {k q : Core} (ho : S.op w = 0x1F) (hi : S.csr w = 3) :
    actS s g k w q = { q with vflag := q.vflag &&& ~~~ (BitVec.ofNat 2 (k.gr (S.ga w)).toNat) } := by
  simp [actS, ho, hi]

theorem actS_csrw_readOnly {s : State} {g w : Nat} {k q : Core} (ho : S.op w = 0x1F) (hi : S.csr w ≠ 3) :
    actS s g k w q = q := by
  simp [actS, ho, hi]

theorem setG_loops (k : Core) (i : Nat) (v : Word) : (k.setG i v).loops = k.loops := by
  unfold Core.setG; split <;> rfl

theorem setG_pc (k : Core) (i : Nat) (v : Word) : (k.setG i v).pc = k.pc := by
  unfold Core.setG; split <;> rfl

theorem setG_skip (k : Core) (i : Nat) (v : Word) (b : Bool) :
    { k with skip := b }.setG i v = { k.setG i v with skip := b } := by
  unfold Core.setG; split <;> rfl

/-- Settles O8: `ILLEGAL` is decided by the bits of the slot before its guard; a legal, guarded one acts by its index. -/
theorem specialRegisters : Obligations.SpecialRegisters := by
  unfold Obligations.SpecialRegisters
  intro s g n w hd h hs hh ho k i next
  refine ⟨fun hbad hr => ?_, fun hi hg hl => ⟨fun v hv hr => ?_, fun hw hne => ?_, fun hw he => ?_⟩⟩
  · have hcause : bundleCause s g k w = some Exc.illegal := by
      simp [bundleCause_onlyS (badHeader_of_issues h) hs, S_illegal_of_csr ho hbad]
    obtain ⟨t, ht, ⟨hG, -, -, -, -, hvflag, hexc, -⟩, hpc, hst, hca⟩ := issue_illegal h hcause hh hr
    exact ⟨t, ht, hexc, hpc, hG, hvflag, hst, hca⟩
  · refine issue_onlyS h hs hi hg hl ?_ (setG_pc ..) ((setG_loops ..).trans hl)
    have hread : csrRead (spend s n) g (coreOf s g) (S.csr w.s) = v := csrRead_table (s := spend s n) hh hv
    rw [actS_csrr hr, hread]
    exact setG_skip ..
  · exact issue_onlyS h hs hi hg hl (actS_csrw_readOnly hw hne) rfl hl
  · exact issue_onlyS h hs hi hg hl (actS_csrw_vflag hw he) rfl hl

/-! ### Loops (R42) -/

/-- A `loop` has no precise cause but its encoding. -/
theorem causesB_loop {s : State} {g : Nat} {k : Core} {w : Bundle} (hs : Slots w false true false false false)
    (ho : B.op w.b = 0x05) : causesB s g k w = cause (B.illegal w.b) Exc.illegal := by
  obtain ⟨hS, -⟩ := hs
  simp [causesB, hS, ho, cause]

theorem B_illegal_of_len_zero {b : Nat} (ho : B.op b = 0x05) (hl : B.len b = 0) : B.illegal b = true := by
  simp [B.illegal, ho, hl]

theorem actB_loop {s : State} {g b : Nat} {k : Core} (ho : B.op b = 0x05) : actB s g k b = s := by
  simp [actB, ho]

theorem mem_of_mem_loopsBefore {n : Nat} {ls : List Loop} {a : Loop} (h : a ∈ loopsBefore n ls) : a ∈ ls := by
  unfold loopsBefore at h
  split at h
  · exact (List.dropWhile_sublist _).subset (List.mem_of_mem_drop h)
  · exact h

/-- Where no loop ends, the loop tests change nothing (R43). -/
theorem loopTest_of_no_end {pc : Nat} {k : Core} {ls : List Loop} (h : ∀ a ∈ ls, a.last ≠ pc) :
    loopTest pc k ls = (ls, [], none) := by
  induction ls with
  | nil => rfl
  | cons l ls ih =>
    simp [loopTest, h l (by simp), ih fun a ha => h a (by simp [ha])]

/-- A sum as a program counter of 15 bits (log 25). -/
theorem pcWrap_add (i j : Nat) : pcWrap ((i : Int) + j) = (i + j) % 32768 := by
  simp only [pcWrap, wrapTo]; omega

/-- A loop that starts at a bundle where none ends. -/
theorem flow_loop_starts {k q : Core} {w : Bundle} (hg : guardB k w = true) (ho : B.op w.b = 0x05)
    (hn : B.loopN k w.b ≠ 0) (he : ∀ a ∈ k.loops, a.last ≠ k.pc) :
    flow k w q =
      { q.setLc (B.lcn w.b) (BitVec.ofNat 32 (B.loopN k w.b)) with
        loops := { n := B.lcn w.b, first := (k.pc + 1) % 32768, last := (k.pc + B.len w.b) % 32768 } ::
          loopsBefore (B.lcn w.b) k.loops
        pc := (k.pc + 1) % 32768 } := by
  have hold : loopTest k.pc k (loopsBefore (B.lcn w.b) k.loops) = (loopsBefore (B.lcn w.b) k.loops, [], none) :=
    loopTest_of_no_end fun a ha => he a (mem_of_mem_loopsBefore ha)
  simp [flow, hg, ho, branchTarget, hn, hold, pcWrap_succ, pcWrap_add]

/-- A loop of no passes is left at once: no loop test, since a branch is taken. -/
theorem flow_loop_skips {k q : Core} {w : Bundle} (hg : guardB k w = true) (ho : B.op w.b = 0x05)
    (hn : B.loopN k w.b = 0) :
    flow k w q =
      { q.setLc (B.lcn w.b) 0 with
        loops := loopsBefore (B.lcn w.b) k.loops, pc := (k.pc + B.len w.b + 1) % 32768 } := by
  have behind : pcWrap ((k.pc : Int) + B.len w.b + 1) = (k.pc + B.len w.b + 1) % 32768 := by
    exact_mod_cast pcWrap_succ (k.pc + B.len w.b)
  simp [flow, hg, ho, branchTarget, hn, behind]

/-- A legal, guarded `loop` alone. -/
theorem issue_loop {s : State} {g n : Nat} {w : Bundle} (h : Issues s g w n)
    (hs : Slots w false true false false false) (ho : B.op w.b = 0x05) (hi : B.illegal w.b = false)
    (hg : guardBit (coreOf s g) (B.pr w.b) (B.pn w.b) = true) :
    exec (.bundleIssue g []) s =
      .next (putCore (spend s n) g (flow (coreOf s g) w { coreOf s g with skip := false })) := by
  have hcause : bundleCause s g (coreOf s g) w = none := by
    rw [bundleCause_onlyB (badHeader_of_issues h) hs, causesB_loop hs ho, hi]; rfl
  rw [issue_commit h hcause (mustWait_eq_false hs), commitBundle_onlyB hs hg, actB_loop ho]

/-- Settles O11, by the count: a loop starts, or its body is skipped; `LEN` = 0 is illegal by its bits. -/
theorem loopStarts : Obligations.LoopStarts := by
  unfold Obligations.LoopStarts
  intro s g n w hd h hs hh ho k l older
  refine ⟨fun hi hg he hn => ?_, fun hi hg hn => ?_, fun hlen hr => ?_⟩
  · rw [issue_loop h hs ho hi hg, flow_loop_starts (guardB_of_slots hs hg) ho hn he]; rfl
  · rw [issue_loop h hs ho hi hg, flow_loop_skips (guardB_of_slots hs hg) ho hn]; rfl
  · have hcause : bundleCause s g k w = some Exc.illegal := by
      rw [bundleCause_onlyB (badHeader_of_issues h) hs, causesB_loop hs ho, B_illegal_of_len_zero ho hlen]; rfl
    obtain ⟨t, ht, ⟨-, -, -, hlc, hloops, -, hexc, -⟩, hpc, hst, hca⟩ := issue_illegal h hcause hh hr
    exact ⟨t, ht, hexc, hpc, hloops, hlc, hst, hca⟩

end Sys2Proof.Proofs
end

section
/-! Proofs about the debug buffers of the arrays: no image holds capture buffers or seeds, and no restored core does
(R113). -/

namespace Sys2Proof.Proofs

open Sys2Proof.Machine Sys2Proof.Laws

/-- A core holds no capture buffer and no loaded seed (R113). -/
def NoCaptures (k : Core) : Prop := k.caps = [] ∧ k.seeds = [] ∧ k.seeded = 0

theorem noCaptures_zero : NoCaptures Core.zero := ⟨rfl, rfl, rfl⟩

/-! ### The save (R235) -/

/-- Writing such a core among such cores. -/
theorem noCaptures_sget_sset {m : Sparse Core} {k : Core} (hm : ∀ i, NoCaptures (sget Core.zero m i))
    (hk : NoCaptures k) (j i : Nat) : NoCaptures (sget Core.zero (sset Core.zero m j k) i) := by
  rw [sget_sset_if]
  split
  · exact hk
  · exact hm i

/-- A cluster's save writes its 16 cores without their captures and keeps the cores saved before. -/
theorem noCaptures_saveCluster {im : SaveImage} (hm : ∀ i, NoCaptures (sget Core.zero im.cores i)) (s : State)
    (h n i : Nat) : NoCaptures (sget Core.zero (saveCluster s h n im).cores i) := by
  refine List.foldlRecOn (motive := fun m => ∀ i, NoCaptures (sget Core.zero m i)) _ _ hm ?_ i
  exact fun m hm k _ => noCaptures_sget_sset hm ⟨rfl, rfl, rfl⟩ _

/-- The image of the clusters of a context, as PREEMPT_SAVE_COMPLETE builds it. -/
def savedImage (s : State) (p c : Nat) : SaveImage :=
  (ctxClusters (partOf s p) c).zipIdx.foldl (fun im e => saveCluster s e.1 e.2 im)
    { stopped := (ctxOf s p c).stopReq, cores := [], clusters := [], bytes := [], tags := [], park := [] }

theorem noCaptures_savedImage (s : State) (p c i : Nat) : NoCaptures (sget Core.zero (savedImage s p c).cores i) := by
  refine List.foldlRecOn (motive := fun im : SaveImage => ∀ i, NoCaptures (sget Core.zero im.cores i)) _ _ ?_ ?_ i
  · exact fun _ => noCaptures_zero
  · exact fun im hm e _ => noCaptures_saveCluster hm s e.1 e.2

@[simp] theorem ctxOf_ctxVector (s : State) (p c d : Nat) : ctxOf (ctxVector s p c) p d = ctxOf s p d := by
  simp [ctxOf, ctxVector, msix, Partition.ctxOf]

@[simp] theorem ctxOf_putReg (s : State) (p o hi lo v d : Nat) : ctxOf (putReg s p o hi lo v) p d = ctxOf s p d := by
  simp [ctxOf, putReg, Partition.put, Partition.setReg, Partition.ctxOf]

@[simp] theorem ctxOf_lstat (s : State) (p c code d : Nat) : ctxOf (lstat s p c code) p d = ctxOf s p d := by
  simp [lstat]

/-- A save that is ready leaves that image in its context. -/
theorem saveComplete_save {s : State} {p c : Nat} (hst : cstate s p c = Cs.preempting)
    (hr : (ctxCores (partOf s p) c).all (saveReady s) = true) :
    (ctxOf (saveComplete s p c) p c).save = some (savedImage s p c) := by
  rw [saveComplete, if_pos ⟨hst, hr⟩, ctxOf_lstat, ctxOf_setCstate, ctxOf_onCtx, savedImage]

/-! ### The restore (R237) -/

/-- What every step of a fold keeps and the step of one member makes holds at the end. -/
theorem foldl_of_mem {α β : Type} {P : β → Prop} {f : β → α → β} {l : List α} {a : α} (ha : a ∈ l)
    (make : ∀ b, P (f b a)) (keep : ∀ b e, P b → P (f b e)) (b : β) : P (l.foldl f b) := by
  obtain ⟨before, behind, rfl⟩ := List.append_of_mem ha
  rw [List.foldl_append, List.foldl_cons]
  exact List.foldlRecOn _ _ (make _) fun b hb e _ => keep b e hb

theorem noCaptures_putCore {s : State} {g : Nat} (h : NoCaptures (coreOf s g)) {k : Core} (hk : NoCaptures k) (j : Nat) :
    NoCaptures (coreOf (putCore s j k) g) := by
  by_cases hj : g = j
  · subst hj; rwa [coreOf_putCore]
  · rwa [coreOf_putCore_ne _ _ _ _ hj]

/-- A fold of steps that bring a core no captures. -/
theorem noCaptures_foldl {α : Type} {j : Nat} {f : State → α → State} (l : List α) {s : State}
    (hs : NoCaptures (coreOf s j)) (keep : ∀ t e, NoCaptures (coreOf t j) → NoCaptures (coreOf (f t e) j)) :
    NoCaptures (coreOf (l.foldl f s) j) :=
  List.foldlRecOn (motive := fun t => NoCaptures (coreOf t j)) _ _ hs fun t ht e _ => keep t e ht

theorem noCaptures_restoreCluster {s : State} {g : Nat} (hg : NoCaptures (coreOf s g)) (h i : Nat) (im : SaveImage) :
    NoCaptures (coreOf (restoreCluster s h i im) g) := by
  rw [restoreCluster]
  refine noCaptures_foldl _ ?_ fun t k ht => noCaptures_putCore ht ⟨rfl, rfl, rfl⟩ _
  exact hg

/-- The cores of the cluster itself hold no captures, whatever the image says. -/
theorem noCaptures_restoreCluster_own {h g : Nat} (hg : g ∈ coresOf h) (s : State) (i : Nat) (im : SaveImage) :
    NoCaptures (coreOf (restoreCluster s h i im) g) := by
  obtain ⟨k, hk, rfl⟩ := List.mem_map.1 hg
  rw [restoreCluster]
  refine foldl_of_mem (P := fun t => NoCaptures (coreOf t (16 * h + k))) hk (fun t => ?_) (fun t j ht => ?_) _
  · rw [coreOf_putCore]; exact ⟨rfl, rfl, rfl⟩
  · exact noCaptures_putCore ht ⟨rfl, rfl, rfl⟩ _

/-- A wait that ends changes no more than a run state. -/
theorem noCaptures_endWaits {s : State} {j : Nat} (h : NoCaptures (coreOf s j)) (g : Nat) (done : Wait → Bool) :
    NoCaptures (coreOf (endWaits s g done) j) := by
  unfold endWaits
  split
  · by_cases hj : j = g
    · subst hj; rwa [coreOf_onCore]
    · rwa [coreOf_onCore_ne _ _ _ _ hj]
  · exact h

theorem noCaptures_semRelease {j : Nat} (h sid fuel : Nat) {s : State} (hs : NoCaptures (coreOf s j)) :
    NoCaptures (coreOf (semRelease h sid fuel s) j) := by
  induction fuel generalizing s with
  | zero => exact hs
  | succ fuel ih =>
    rw [semRelease]
    dsimp only
    split
    · exact hs
    · exact ih (noCaptures_endWaits (by simpa using hs) _ _)

/-- The releases of all semaphores of restored clusters. -/
theorem noCaptures_semReleases {j : Nat} (hs : List Nat) {s : State} (h : NoCaptures (coreOf s j)) :
    NoCaptures (coreOf (hs.foldl (fun t h => (List.range 64).foldl (fun u i => semRelease h i 16 u) t) s) j) := by
  refine noCaptures_foldl hs h fun t h ht => ?_
  exact noCaptures_foldl _ ht fun u i hu => noCaptures_semRelease h i 16 hu

theorem noCaptures_revivedWaits {j : Nat} (gs : List Nat) {s : State} (h : NoCaptures (coreOf s j)) :
    NoCaptures (coreOf (gs.foldl reviveWaits s) j) :=
  noCaptures_foldl gs h fun _ _ ht => noCaptures_endWaits ht _ _

/-- Every core of restored clusters holds no captures: its own cluster's restore clears it, and the others keep it so. -/
theorem noCaptures_restoredClusters {hs : List Nat} {h g : Nat} (hh : h ∈ hs) (hg : g ∈ coresOf h) (s : State)
    (im : SaveImage) : NoCaptures (coreOf (hs.zipIdx.foldl (fun t e => restoreCluster t e.1 e.2 im) s) g) := by
  obtain ⟨i, hi⟩ : ∃ i, (h, i) ∈ hs.zipIdx := by
    simpa [List.mem_zipIdx_iff_getElem?] using List.mem_iff_getElem?.1 hh
  refine foldl_of_mem (P := fun t => NoCaptures (coreOf t g)) hi (fun t => ?_) (fun t e ht => ?_) s
  · exact noCaptures_restoreCluster_own hg t i im
  · exact noCaptures_restoreCluster ht e.1 e.2 im

/-- After a restore without parked DMAs the cores of the context hold no captures: the clusters are restored without them,
and the waits that end bring none. -/
theorem noCaptures_restoreComplete {s : State} {p c h g : Nat} {im : SaveImage} (hst : cstate s p c = Cs.resuming)
    (hsave : (ctxOf s p c).save = some im) (hpark : im.park = []) (hh : h ∈ ctxClusters (partOf s p) c)
    (hg : g ∈ coresOf h) : NoCaptures (coreOf (restoreComplete s p c) g) := by
  simp only [restoreComplete, hst, hsave, hpark, beq_self_eq_true, List.foldl_nil, coreOf_lstat]
  refine noCaptures_revivedWaits _ (noCaptures_semReleases _ ?_)
  rw [coreOf_setCstate, coreOf_onCtx]
  exact noCaptures_restoredClusters hh hg s im

/-- Settles O38: a save writes cores without captures and seeds, and so does a restore, whatever its image holds. -/
theorem captureBuffersAreNotSaved : Obligations.CaptureBuffersAreNotSaved := by
  unfold Obligations.CaptureBuffersAreNotSaved
  intro s p c hp hc hs none_
  have hwf : ctxOk p c = true := by simp [ctxOk, hp, hc]
  refine ⟨fun hst hr => ?_, fun im hst hsave hpark => ?_⟩
  · exact ⟨_, savedImage s p c, guarded_wf _ _ hwf, saveComplete_save hst hr, noCaptures_savedImage s p c⟩
  · exact ⟨_, guarded_wf _ _ hwf, fun h hh g hg => noCaptures_restoreComplete hst hsave hpark hh hg⟩

end Sys2Proof.Proofs
end

section
/-! Proofs about the start of a device reset (R353): what it leaves of the reset history (R355), and what it and a glitch
leave of the key vault (R387, R388). No reset is counted before it completes, so every part of QUIESCE, down to the
messages, memory accesses and flash copies that it causes, is shown to leave the history. -/

namespace Sys2Proof.Proofs

open Sys2Proof.Machine Sys2Proof.Laws

/-! ### The reset history (R355) -/

/-- The device and partition resets counted in their windows. Facts about it are stated of whole states, not of its fields:
a comparison of two fields may evaluate the states that they are fields of. -/
def resetHistory (s : State) : Nat × Nat := (s.rel.drcnt, s.rel.prcnt)

theorem resetHistory_congr {s t : State} (hd : t.rel.drcnt = s.rel.drcnt) (hp : t.rel.prcnt = s.rel.prcnt) :
    resetHistory t = resetHistory s := by
  rw [resetHistory, resetHistory, hd, hp]

theorem resetHistory_of_rel {s t : State} (h : t.rel = s.rel) : resetHistory t = resetHistory s :=
  resetHistory_congr (congrArg Rel.drcnt h) (congrArg Rel.prcnt h)

theorem foldl_rel {α : Type} {f : State → α → State} (l : List α) (s : State)
    (keep : ∀ t e, (f t e).rel = t.rel) : (l.foldl f s).rel = s.rel :=
  List.foldlRecOn (motive := fun t => t.rel = s.rel) _ _ rfl fun t ht e _ => (keep t e).trans ht

theorem foldl_resetHistory {α : Type} {f : State → α → State} (l : List α) (s : State)
    (keep : ∀ t e, resetHistory (f t e) = resetHistory t) : resetHistory (l.foldl f s) = resetHistory s :=
  List.foldlRecOn (motive := fun t => resetHistory t = resetHistory s) _ _ rfl fun t ht e _ => (keep t e).trans ht

theorem ite_resetHistory {c : Prop} [Decidable c] {s t u : State} (ht : resetHistory t = resetHistory s)
    (hu : resetHistory u = resetHistory s) : resetHistory (if c then t else u) = resetHistory s := by
  split
  · exact ht
  · exact hu

/-- A step that may refuse, or else a step in its place. -/
theorem getD_resetHistory {o : Option State} {s u : State} (step : ∀ t, o = some t → resetHistory t = resetHistory s)
    (other : resetHistory u = resetHistory s) : resetHistory (o.getD u) = resetHistory s := by
  cases o with
  | none => exact other
  | some t => exact step t rfl

/-! ### Steps that leave all of `rel` -/

@[simp] theorem errEvent_rel (s : State) (p i : Nat) : (errEvent s p i).rel = s.rel := by
  simp only [errEvent]
  split <;> simp

@[simp] theorem violationIf_rel (b : Bool) (s : State) (p : Nat) : (violationIf b s p).rel = s.rel := by
  unfold violationIf
  split <;> simp

@[simp] theorem ctxReset_rel (s : State) (p c : Nat) : (ctxReset s p c).rel = s.rel := by
  simp only [ctxReset]
  split <;> simp

@[simp] theorem noteCode_rel (s : State) (a n : Nat) : (noteCode s a n).rel = s.rel := by
  simp only [noteCode]
  split
  · rfl
  · split
    · rfl
    · split
      · rfl
      · exact foldl_rel _ _ fun t g => onCore_rel ..

@[simp] theorem putStore_rel (s : State) (a : Nat) (bs : List Byte) : (putStore s a bs).rel = s.rel :=
  noteCode_rel s a bs.length

@[simp] theorem touchTiles_rel (s : State) (p : Nat) (ts : List Nat) : (touchTiles s p ts).rel = s.rel := by
  unfold touchTiles
  split <;> simp

@[simp] theorem poisonedTile_rel (s : State) (p t : Nat) : (poisonedTile s p t).rel = s.rel := rfl

@[simp] theorem hostReadNone_rel (s : State) (p n : Nat) : (hostReadNone s p n).rel = s.rel := errEvent_rel ..

/-! #### Flash blocks -/

@[simp] theorem onWear_rel (s : State) (f : Wear → Wear) : (onWear s f).rel = s.rel := rfl

@[simp] theorem onBlock_rel (s : State) (k : Nat) (f : FlashBlock → FlashBlock) : (onBlock s k f).rel = s.rel := rfl

@[simp] theorem programBlock_rel (s : State) (p b k : Nat) : (programBlock s p b k).rel = s.rel := by
  simp only [programBlock, onBlock_rel]
  split <;> simp

@[simp] theorem rewriteBlock_rel (s : State) (p b k : Nat) : (rewriteBlock s p b k).rel = s.rel :=
  programBlock_rel s p b k

@[simp] theorem levelWear_rel (s : State) : (levelWear s).rel = s.rel := by
  simp only [levelWear]
  split
  · split
    · split <;> simp
    · rfl
  · rfl

/-! #### Messages -/

@[simp] theorem putColl_rel (s : State) (p : Nat) (k : Coll) : (putColl s p k).rel = s.rel := rfl

@[simp] theorem deliver_rel (s : State) (m : Msg) : (deliver s m).rel = s.rel := rfl

@[simp] theorem countNoRoute_rel (s : State) : (countNoRoute s).rel = s.rel := rfl

@[simp] theorem putGateway_rel (s : State) (g : DevId) (x : Gateway) : (putGateway s g x).rel = s.rel := rfl

@[simp] theorem countMsg_rel (s : State) (die : Bool) : (countMsg s die).rel = s.rel := by
  unfold countMsg
  split <;> rfl

@[simp] theorem enqueue_rel (s : State) (c vc : Nat) (dl : Bool) (bs : List Byte) :
    (enqueue s c vc dl bs).rel = s.rel := by
  unfold enqueue
  split <;> rfl

@[simp] theorem sendGram_rel (s : State) (gw : DevId) (kind : Nat) (g : TunnelGram) :
    (sendGram s gw kind g).rel = s.rel := by
  unfold sendGram
  split <;> rfl

@[simp] theorem tunnelOut_rel (s : State) (sp : Nat) (gw src dst : DevId) (fs : List Flit) :
    (tunnelOut s sp gw src dst fs).rel = s.rel := by
  refine foldl_rel _ _ fun t l => ?_
  dsimp only
  split <;> simp

@[simp] theorem routeOut_rel (s : State) (mask : BitVec 18) (m wire : Msg) : (routeOut s mask m wire).rel = s.rel := by
  simp only [routeOut]
  split
  · exact deliver_rel ..
  · exact enqueue_rel ..
  · split <;> simp
  · split
    · exact deliver_rel ..
    · split <;> simp

@[simp] theorem sendOnDie_rel (s : State) (mask : BitVec 18) (die : Bool) (m : Msg) :
    (sendOnDie s mask die m).rel = s.rel := by
  simp only [sendOnDie]
  split
  · exact deliver_rel ..
  · split
    · simp
    · split <;> simp

@[simp] theorem sendRequestOn_rel (s : State) (mask : BitVec 18) (die : Bool) (p c : Nat) (kind : ReqKind) (m : Msg) :
    (sendRequestOn s mask die p c kind m).1.rel = s.rel := by
  simp only [sendRequestOn]
  split <;> simp

@[simp] theorem sendWaiting_rel (s : State) (mask : BitVec 18) (die : Bool) (p c : Nat) (kind : ReqKind) (m : Msg) :
    (sendWaiting s mask die p c kind m).rel = s.rel := by
  simp only [sendWaiting]
  split <;> simp

@[simp] theorem sendControl_rel (s : State) (p : Nat) (k : Coll) (kind : Nat) (payload : List Byte) (r : Nat) :
    (sendControl s p k kind payload r).rel = s.rel :=
  sendWaiting_rel ..

/-! #### Ports, flash commands and keys at the start of a device reset -/

@[simp] theorem portsDown_rel (s : State) : (portsDown s).rel = s.rel := by
  have held : ∀ (t : State) (a f : Nat), (if mreg t a 1 0 = f then t else putMreg t a 1 0 0).rel = t.rel := by
    intro t a f
    split <;> simp
  unfold portsDown
  rw [foldl_rel _ _ fun t h => held t _ _, foldl_rel _ _ fun t n => held t _ _, foldl_rel _ _ fun t c => onPort_rel ..]

@[simp] theorem flashErase_rel (s : State) (a n : Nat) : (flashErase s a n).rel = s.rel := rfl

@[simp] theorem flashWrite_rel (s : State) (a : Nat) (bs : List Byte) : (flashWrite s a bs).rel = s.rel := rfl

@[simp] theorem stopFlash_rel (s : State) : (stopFlash s).rel = s.rel := by
  unfold stopFlash
  split
  · rfl
  · dsimp only
    split
    · rw [flashErase_rel, spend_rel]
    · split
      · rfl
      · rw [flashWrite_rel, spend_rel]

@[simp] theorem zeroise_rel (s : State) : (zeroise s).rel = s.rel := by rw [zeroise]

/-! ### Steps that charge units or send records -/

theorem healthRecord_resetHistory (kind fuel : Nat) (s : State) (es : List (List Byte)) :
    resetHistory (healthRecord kind fuel s es) = resetHistory s := by
  induction fuel generalizing s es with
  | zero => rfl
  | succ fuel ih => exact ite_resetHistory rfl (ite_resetHistory rfl ((ih _ _).trans rfl))

theorem eventRecord_resetHistory (s : State) (cls ut idx flg det : Nat) :
    resetHistory (eventRecord s cls ut idx flg det) = resetHistory s :=
  ite_resetHistory rfl (ite_resetHistory rfl (healthRecord_resetHistory ..))

theorem chargeN_resetHistory (s : State) (cls ut idx n : Nat) :
    resetHistory (chargeN s cls ut idx n) = resetHistory s := by
  unfold chargeN
  have recorded : ∀ (t : State) (c : Bool) (flg : Nat),
      resetHistory (if c then eventRecord t cls ut idx flg 0 else t) = resetHistory t :=
    fun t _ flg => ite_resetHistory (eventRecord_resetHistory t cls ut idx flg 0) rfl
  refine ite_resetHistory ?_ (recorded ..)
  split
  · exact (resetHistory_of_rel (errEvent_rel ..)).trans (recorded ..)
  · exact recorded ..

theorem chargeFlash_resetHistory (s : State) (cls n : Nat) : resetHistory (chargeFlash s cls n) = resetHistory s :=
  ite_resetHistory rfl (chargeN_resetHistory ..)

theorem voteResult_resetHistory (s : State) (p : Nat) (vid : BitVec 32) (code cls core : Nat) :
    resetHistory (voteResult s p vid code cls core) = resetHistory s :=
  (eventRecord_resetHistory ..).trans (ite_resetHistory (resetHistory_of_rel (errEvent_rel ..)) rfl)

theorem abortVotes_resetHistory (s : State) (pick : Vote → Bool) :
    resetHistory (abortVotes s pick) = resetHistory s :=
  foldl_resetHistory _ _ fun t _ => voteResult_resetHistory (spend t 1) ..

/-! #### Flash copies and frames -/

theorem retireBlock_resetHistory (s : State) (k : Nat) : resetHistory (retireBlock s k) = resetHistory s :=
  chargeFlash_resetHistory ..

theorem wearVectors_resetHistory (s : State) (was : Wear) : resetHistory (wearVectors s was) = resetHistory s := by
  refine ite_resetHistory ((eventRecord_resetHistory ..).trans ?_) rfl
  exact resetHistory_of_rel (foldl_rel _ _ fun t p => msix_rel ..)

theorem programBolt_resetHistory (s : State) (p b : Nat) : resetHistory (programBolt s p b) = resetHistory s := by
  have retired : resetHistory (if freeBelow s 0 2 = 1 then retireBlock (spend s 2) (pickBlock (spend s 1)) else spend s 2) =
      resetHistory s := ite_resetHistory (retireBlock_resetHistory ..) rfl
  refine (wearVectors_resetHistory ..).trans (Eq.trans (resetHistory_of_rel ?_) retired)
  rw [spend_rel, onWear_rel, levelWear_rel, spend_rel, programBlock_rel]

theorem copiedOut_resetHistory (s : State) (p b : Nat) : resetHistory (copiedOut s p b) = resetHistory s :=
  programBolt_resetHistory ..

theorem freeFrame_resetHistory {s t : State} {p b : Nat} (h : freeFrame s p b = some t) :
    resetHistory t = resetHistory s := by
  simp only [freeFrame] at h
  split at h
  · cases h; rfl
  · obtain ⟨v, -, rfl⟩ := Option.map_eq_some_iff.1 h
    split
    · rfl
    · exact copiedOut_resetHistory ..
    · exact copiedOut_resetHistory ..

theorem readyWrite_resetHistory {s t : State} {p b : Nat} (h : readyWrite s p b = some t) :
    resetHistory t = resetHistory s := by
  simp only [readyWrite] at h
  split at h
  case h_5 | h_6 =>
    obtain ⟨u, hu, rfl⟩ := Option.map_eq_some_iff.1 h
    exact (resetHistory_of_rel (s := u) rfl).trans (freeFrame_resetHistory hu)
  all_goals cases h; rfl

theorem beginFetch_resetHistory {s t : State} {p b : Nat} (h : beginFetch s p b = some t) :
    resetHistory t = resetHistory s := by
  unfold beginFetch at h
  split at h
  · obtain ⟨u, hu, rfl⟩ := Option.map_eq_some_iff.1 h
    exact (resetHistory_of_rel (s := u) rfl).trans (freeFrame_resetHistory hu)
  · cases h; rfl

theorem stallOn_resetHistory {s t : State} {p b : Nat} {w : Stalled} (h : stallOn s p b w = some t) :
    resetHistory t = resetHistory s := by
  obtain ⟨u, hu, rfl⟩ := Option.map_eq_some_iff.1 h
  exact (resetHistory_of_rel (s := u) rfl).trans (beginFetch_resetHistory hu)

theorem readyAll_resetHistory {f : State → Nat → Nat → Option State} {p : Nat} (bs : List Nat) {s t : State}
    (keep : ∀ u v b, f u p b = some v → resetHistory v = resetHistory u) (h : readyAll f s p bs = some t) :
    resetHistory t = resetHistory s := by
  refine List.foldlRecOn (motive := fun o : Option State => ∀ v, o = some v → resetHistory v = resetHistory s) bs _
    (fun v hv => by cases hv; rfl) (fun o ho b _ v hv => ?_) t h
  obtain ⟨u, hu, hv⟩ := Option.bind_eq_some_iff.1 hv
  exact (keep u v b hv).trans (ho u hu)

/-! #### Reads and writes of the device's memory -/

theorem tileFailed_resetHistory (s : State) (p t : Nat) : resetHistory (tileFailed s p t) = resetHistory s :=
  (chargeN_resetHistory ..).trans (resetHistory_of_rel (errEvent_rel ..))

theorem checkTiles_resetHistory (s : State) (p : Nat) (ts : List Nat) :
    resetHistory (checkTiles s p ts) = resetHistory s :=
  foldl_resetHistory _ _ fun u t => ite_resetHistory rfl (tileFailed_resetHistory u p t)

theorem readFlash_resetHistory (s : State) (p b retries : Nat) :
    resetHistory (readFlash s p b retries) = resetHistory s := by
  have charged : resetHistory (if retries ≤ 2 then s
      else chargeFlash (onWear s fun w => { w with retry := w.retry + 1 }) 0x06 1) = resetHistory s :=
    ite_resetHistory rfl (chargeFlash_resetHistory ..)
  have rewritten : ∀ (c : Prop) [Decidable c] (t : State),
      resetHistory (if c then rewriteBlock (spend t 1) p b (pickBlock t) else t) = resetHistory t :=
    fun c _ t => ite_resetHistory (resetHistory_of_rel (rewriteBlock_rel ..)) rfl
  unfold readFlash
  dsimp only
  split
  · exact charged
  · next k found =>
    have marked := fun f => (resetHistory_of_rel (onBlock_rel _ k f)).trans charged
    refine ite_resetHistory ((retireBlock_resetHistory ..).trans ?_) ?_
    · refine (resetHistory_of_rel ((rewriteBlock_rel ..).trans (spend_rel ..))).trans ?_
      exact (rewritten ..).trans (marked _)
    · exact (resetHistory_of_rel (spend_rel ..)).trans ((rewritten ..).trans (marked _))

theorem undecoded_resetHistory (s : State) (p b : Nat) (bad : BitVec 16) :
    resetHistory (undecoded s p b bad) = resetHistory s := by
  refine ite_resetHistory rfl ?_
  refine (resetHistory_of_rel (errEvent_rel ..)).trans ((chargeFlash_resetHistory ..).trans ?_)
  exact resetHistory_of_rel (foldl_rel _ _ fun t i => poisonedTile_rel ..)

theorem hostReadAt_resetHistory (s : State) (p : Nat) (ps : List (Option Nat)) :
    resetHistory (hostReadAt s p ps) = resetHistory s := by
  refine ite_resetHistory rfl (ite_resetHistory ?_ (ite_resetHistory rfl ?_))
  · exact resetHistory_of_rel (hostReadNone_rel ..)
  · split
    · exact getD_resetHistory (fun t => stallOn_resetHistory) (resetHistory_of_rel (hostReadNone_rel ..))
    · refine (resetHistory_of_rel (violationIf_rel ..)).trans ?_
      exact (checkTiles_resetHistory ..).trans (resetHistory_of_rel (touchTiles_rel ..))

theorem hostWriteAt_resetHistory (s : State) (p : Nat) (ps : List (Option Nat)) (data : List Byte) :
    resetHistory (hostWriteAt s p ps data) = resetHistory s := by
  have refused : resetHistory (errEvent s p 11) = resetHistory s := resetHistory_of_rel (errEvent_rel ..)
  refine ite_resetHistory rfl (ite_resetHistory refused (ite_resetHistory rfl ?_))
  split
  · exact getD_resetHistory (fun t => stallOn_resetHistory) refused
  · split
    · exact refused
    · next t ready =>
      refine (resetHistory_of_rel (violationIf_rel ..)).trans ?_
      refine (resetHistory_of_rel (onPart_rel ..)).trans ?_
      exact readyAll_resetHistory _ (fun _ _ _ => readyWrite_resetHistory) ready

theorem serve_resetHistory (s : State) (p : Nat) (w : Stalled) : resetHistory (serve s p w) = resetHistory s := by
  unfold serve
  split
  · exact hostReadAt_resetHistory ..
  · exact hostWriteAt_resetHistory ..
  · rfl

theorem serveStalled_serve_resetHistory (s : State) (p b : Nat) :
    resetHistory (serveStalled serve s p b) = resetHistory s :=
  (foldl_resetHistory _ _ fun t w => serve_resetHistory t p w).trans (resetHistory_of_rel (onPart_rel ..))

/-- A bolt that arrives and serves what was stalled on it. -/
theorem fetchDone_serve_resetHistory (s : State) (p b : Nat) (bad : BitVec 16) (retries us : Nat) :
    resetHistory (fetchDone serve s p b bad retries us) = resetHistory s := by
  have arrived : ∀ f g, resetHistory (onPart
      (checkTiles (readFlash (undecoded (onPart s p f) p b bad) p b retries) p (boltTiles b)) p g) = resetHistory s := by
    intro f g
    refine (resetHistory_of_rel (onPart_rel ..)).trans ((checkTiles_resetHistory ..).trans ?_)
    refine (readFlash_resetHistory ..).trans ((undecoded_resetHistory ..).trans ?_)
    exact resetHistory_of_rel (onPart_rel ..)
  refine ite_resetHistory ((serveStalled_serve_resetHistory ..).trans ?_) rfl
  exact ite_resetHistory (arrived ..) ((resetHistory_of_rel (putReg_rel ..)).trans (arrived ..))

theorem fetchNow_resetHistory {s t : State} {p b : Nat} (h : fetchNow s p b = some t) :
    resetHistory t = resetHistory s := by
  unfold fetchNow at h
  split at h
  · obtain ⟨u, hu, rfl⟩ := Option.map_eq_some_iff.1 h
    refine (resetHistory_of_rel (putReg_rel ..)).trans ((fetchDone_serve_resetHistory ..).trans ?_)
    exact (resetHistory_of_rel (s := u) rfl).trans (beginFetch_resetHistory hu)
  · cases h; rfl

theorem engineReady_resetHistory {s t : State} {p b : Nat} (h : engineReady s p b = some t) :
    resetHistory t = resetHistory s := by
  obtain ⟨u, hu, ht⟩ := Option.bind_eq_some_iff.1 h
  exact (readyWrite_resetHistory ht).trans (fetchNow_resetHistory hu)

theorem engineWrite_resetHistory (s : State) (p c a : Nat) (pay : List Byte) (col : Collar) :
    resetHistory (engineWrite s p c a pay col).1 = resetHistory s := by
  unfold engineWrite
  split
  · split
    · next t ready => exact (resetHistory_of_rel (onPart_rel ..)).trans (engineReady_resetHistory ready)
    · rfl
  · rfl

theorem devWriteRun_resetHistory (base : Bool) (s : State) (p a : Nat) (bs : List Byte) :
    resetHistory (devWriteRun base s p a bs).1 = resetHistory s := by
  simp only [devWriteRun]
  split
  case h_1 => exact resetHistory_of_rel (putStore_rel ..)
  case h_2 => exact ite_resetHistory rfl rfl
  case h_3 =>
    split
    · rfl
    · split
      · next t ready => exact (resetHistory_of_rel (onPart_rel ..)).trans (readyWrite_resetHistory ready)
      · exact resetHistory_of_rel (errEvent_rel ..)
  case h_4 => rfl

theorem devWrite_resetHistory (s : State) (p a : Nat) (bs : List Byte) :
    resetHistory (devWrite s p a bs) = resetHistory s := by
  refine (resetHistory_of_rel (violationIf_rel ..)).trans ?_
  refine List.foldlRecOn (motive := fun r : State × Bool => resetHistory r.1 = resetHistory s) _ _ rfl fun r hr e _ => ?_
  dsimp only
  split
  · exact (devWriteRun_resetHistory ..).trans hr
  · exact hr

/-! ### QUIESCE (R352) and the start of a device reset (R353) -/

theorem pkAbandon_resetHistory (s : State) (p : Nat) : resetHistory (pkAbandon s p) = resetHistory s :=
  (resetHistory_of_rel (onPart_rel ..)).trans (foldl_resetHistory _ _ fun _ _ => devWrite_resetHistory ..)

theorem abandonHints_resetHistory (n : Nat) (s : State) (p : Nat) :
    resetHistory (abandonHints n s p) = resetHistory s := by
  induction n generalizing s with
  | zero => rfl
  | succ n ih =>
    unfold abandonHints
    split
    · rfl
    · refine (ih _).trans ((resetHistory_of_rel (onPart_rel ..)).trans ?_)
      exact (devWrite_resetHistory ..).trans (devWrite_resetHistory ..)

theorem endColl_resetHistory (s : State) (p : Nat) (k : Coll) (status : Nat) :
    resetHistory (endColl s p k status) = resetHistory s := by
  have told : ∀ k1 bs, resetHistory ((partners ((partOf s p).group k.gix)).foldl
      (fun t r => sendControl t p k 3 bs r) (putColl s p k1)) = resetHistory s := fun k1 bs =>
    resetHistory_of_rel (foldl_rel _ _ fun t r => sendControl_rel ..)
  refine ite_resetHistory rfl (ite_resetHistory (told ..) ?_)
  exact (foldl_resetHistory _ _ fun t i => engineWrite_resetHistory ..).trans (told ..)

/-- What QUIESCE takes from the cores, the fabric and the engines of a partition at one stroke. -/
theorem resetHistory_withdrawn (s : State) (cores : Sparse Core) (clusters : Sparse Cluster) (fabric : Fabric)
    (kernels : Sparse Nat) (engResets : List EngineId) (fwSilent : List (Nat × Nat × Nat)) :
    resetHistory { s with
      cores := cores, clusters := clusters, fabric := fabric
      rel := { s.rel with kernels := kernels, engResets := engResets, fwSilent := fwSilent } } = resetHistory s := rfl

theorem quiescePart_resetHistory (s : State) (p : Nat) : resetHistory (quiescePart s p) = resetHistory s := by
  refine (abortVotes_resetHistory ..).trans ((resetHistory_of_rel (onPart_rel ..)).trans ?_)
  refine (resetHistory_withdrawn ..).trans ?_
  refine (resetHistory_of_rel (foldl_rel _ _ fun t c => ctxReset_rel t p c)).trans ?_
  refine (foldl_resetHistory _ _ fun t k => endColl_resetHistory t p k _).trans ?_
  exact (abandonHints_resetHistory ..).trans (pkAbandon_resetHistory ..)

/-- Whether a device reset can start: with power, out of the hold of power-on, with `FAULT_N` high and none running. -/
def ResetPossible (s : State) : Prop :=
  s.pwr.pgood = true ∧ s.pwr.onReset = false ∧ s.pwr.faultN = true ∧ s.rel.dph = 0

/-- The partitions at the start of a device reset: those that exist and are not PARKED are in reset. -/
def quietForReset (s : State) (p : Nat) : State :=
  if (partOf s p).ptstate = 0 ∨ (partOf s p).ptstate = 3 then s
  else onPart (if (partOf s p).ptstate = 5 then s else quiescePart s p) p fun x => { x with ptstate := 5, pph := 1 }

theorem quietForReset_resetHistory (s : State) (p : Nat) : resetHistory (quietForReset s p) = resetHistory s :=
  ite_resetHistory rfl ((resetHistory_of_rel (onPart_rel ..)).trans (ite_resetHistory rfl (quiescePart_resetHistory ..)))

/-- What a device reset has stopped before it zeroises the vault. -/
def stoppedForReset (s : State) : State :=
  stopFlash (portsDown (abortVotes ((List.range 16).foldl quietForReset (resetEvent s 0x17 0 Status.ok)) fun _ => true))

theorem stoppedForReset_resetHistory (s : State) : resetHistory (stoppedForReset s) = resetHistory s := by
  refine (resetHistory_of_rel ((stopFlash_rel _).trans (portsDown_rel _))).trans ((abortVotes_resetHistory ..).trans ?_)
  exact (foldl_resetHistory _ _ quietForReset_resetHistory).trans (eventRecord_resetHistory ..)

/-- The device is in a reset, whose commands and engine resets it has absorbed. -/
def resetting (s : State) (counted : Bool) : State :=
  { s with rel := { s.rel with dph := 1, dcount := counted, rcmd := [], engResets := [], fwSilent := [] } }

@[simp] theorem resetting_dph (s : State) (counted : Bool) : (resetting s counted).rel.dph = 1 := rfl

@[simp] theorem resetting_dcount (s : State) (counted : Bool) : (resetting s counted).rel.dcount = counted := rfl

@[simp] theorem resetting_sec (s : State) (counted : Bool) : (resetting s counted).sec = s.sec := rfl

@[simp] theorem resetting_parts (s : State) (counted : Bool) : (resetting s counted).parts = s.parts := rfl

theorem resetting_resetHistory (s : State) (counted : Bool) : resetHistory (resetting s counted) = resetHistory s := rfl

/-- A device reset that can start stops the device and then zeroises the vault. -/
theorem beginDevReset_of_possible {s : State} (h : ResetPossible s) (counted : Bool) :
    beginDevReset s counted = resetting (zeroise (stoppedForReset s)) counted := by
  obtain ⟨power, released, quiet, idle⟩ := h
  rw [beginDevReset, if_neg (by simp [power, released, quiet, idle])]
  extract_lets quieted s1 s2 s3
  have stopped : s3 = zeroise (stoppedForReset s) := rfl
  rw [← stopped]
  rfl

theorem beginDevReset_of_not_possible {s : State} (h : ¬ ResetPossible s) (counted : Bool) :
    beginDevReset s counted = s := by
  rw [beginDevReset, if_pos]
  by_contra hn
  simp only [Bool.or_eq_true, not_or, Bool.not_eq_true', Bool.not_eq_false, bne_iff_ne, not_not,
    Bool.not_eq_true] at hn
  obtain ⟨⟨⟨power, released⟩, quiet⟩, idle⟩ := hn
  exact h ⟨power, released, quiet, idle⟩

/-- The start of a device reset is not counted: the history is that of before (R355). -/
theorem beginDevReset_resetHistory (s : State) (counted : Bool) :
    resetHistory (beginDevReset s counted) = resetHistory s := by
  by_cases h : ResetPossible s
  · rw [beginDevReset_of_possible h]
    refine (resetting_resetHistory ..).trans ((resetHistory_of_rel (zeroise_rel _)).trans ?_)
    exact stoppedForReset_resetHistory s
  · rw [beginDevReset_of_not_possible h]

/-! ### The key vault (R387, R388) -/

/-- A partition without a key of its own: none for its memory, its Pocket or a job. -/
def Keyless (x : Partition) : Prop := x.keyed = false ∧ x.xtsKey = 0 ∧ x.pktKey = 0 ∧ x.jkeys = []

/-- The key vault and the engines' key registers hold no key. -/
def VaultEmpty (s : State) : Prop :=
  s.sec.idKey = none ∧ s.sec.ideMem = [] ∧ s.sec.ideIo = [] ∧ ∀ p < 16, Keyless (partOf s p)

theorem vaultEmpty_congr {s t : State} (hs : t.sec = s.sec) (hp : t.parts = s.parts) (h : VaultEmpty s) :
    VaultEmpty t := by
  simpa only [VaultEmpty, partOf, hs, hp] using h

/-- What zeroisation leaves of a partition. -/
def withoutKeys (x : Partition) : Partition := { x with xtsKey := 0, pktKey := 0, keyed := false, jkeys := [] }

theorem keyless_withoutKeys (x : Partition) : Keyless (withoutKeys x) := ⟨rfl, rfl, rfl, rfl⟩

/-- A partition loses its keys in its turn, and the others' turns give it none. -/
theorem keyless_foldl_withoutKeys {l : List Nat} {p : Nat} (hp : p ∈ l) (m : Sparse Partition) :
    Keyless (sget .none_ (l.foldl (fun m q => smod .none_ m q withoutKeys) m) p) := by
  refine foldl_of_mem (P := fun m => Keyless (sget .none_ m p)) hp (fun m => ?_) (fun m q hm => ?_) m
  · rw [sget_smod]
    exact keyless_withoutKeys _
  · by_cases hq : p = q
    · rw [hq, sget_smod]
      exact keyless_withoutKeys _
    · rwa [sget_smod_ne _ _ _ _ _ hq]

theorem zeroise_parts (s : State) :
    (zeroise s).parts = (List.range 16).foldl (fun m q => smod .none_ m q withoutKeys) s.parts := by
  rw [zeroise]
  rfl

theorem zeroise_sec (s : State) : (zeroise s).sec = { s.sec with idKey := none, ideIo := [], ideMem := [] } := by
  rw [zeroise]

theorem vaultEmpty_zeroise (s : State) : VaultEmpty (zeroise s) := by
  rw [VaultEmpty, zeroise_sec]
  refine ⟨rfl, rfl, rfl, fun p hp => ?_⟩
  rw [partOf, zeroise_parts]
  exact keyless_foldl_withoutKeys (List.mem_range.2 hp) s.parts

/-- A device reset starts with an empty vault. -/
theorem vaultEmpty_beginDevReset {s : State} (h : ResetPossible s) (counted : Bool) :
    VaultEmpty (beginDevReset s counted) := by
  rw [beginDevReset_of_possible h]
  exact vaultEmpty_congr (resetting_sec ..) (resetting_parts ..) (vaultEmpty_zeroise (stoppedForReset s))

/-! ### GLITCH (R388) -/

theorem exec_glitch (s : State) : exec .glitch s = .next (beginDevReset (zeroise s) false) := rfl

theorem resetPossible_zeroise {s : State} (h : ResetPossible s) : ResetPossible (zeroise s) := by
  rwa [ResetPossible, zeroise_rel, zeroise]

/-- The vault is empty after a glitch, whether the device can take a reset or not. -/
theorem vaultEmpty_glitch (s : State) : VaultEmpty (beginDevReset (zeroise s) false) := by
  by_cases h : ResetPossible (zeroise s)
  · exact vaultEmpty_beginDevReset h false
  · rw [beginDevReset_of_not_possible h]
    exact vaultEmpty_zeroise s

/-- Settles O55: the vault is zeroised in any state, and the start of a device reset leaves the reset history. -/
theorem glitchZeroisesTheVault : Obligations.GlitchZeroisesTheVault := by
  unfold Obligations.GlitchZeroisesTheVault
  intro s
  obtain ⟨hid, hmem, hio, hparts⟩ := vaultEmpty_glitch s
  refine ⟨_, exec_glitch s, hid, hmem, hio, hparts, fun power released quiet idle => ?_⟩
  have possible := resetPossible_zeroise (s := s) ⟨power, released, quiet, idle⟩
  have kept : resetHistory (beginDevReset (zeroise s) false) = resetHistory s :=
    (beginDevReset_resetHistory ..).trans (resetHistory_of_rel (zeroise_rel s))
  refine ⟨?_, ?_, congrArg Prod.fst kept⟩
  · rw [beginDevReset_of_possible possible, resetting_dph]
  · rw [beginDevReset_of_possible possible, resetting_dcount]

end Sys2Proof.Proofs
end

section
/-! What a command leaves: a state seen without the fields that may change. The queue (log 1) always stays in sight. -/

namespace Sys2Proof.Proofs
open Sys2Proof.Machine Sys2Proof.Laws

/-- The parts of the state that a command may change; of a partition its registers and count of violations, its
pending vectors, its payload bytes and collars, where its bolts stand, and anything. -/
inductive Field where
  | freeIx | out | dieCtr | osc | cores | clusters | stores | tags | parts | fabric | wardrobe | rel | steady | sec | fuses
  | pwr | mregs | pattern | tap | part (p : Nat) | regs (p : Nat) | vec (p : Nat) | mem (p : Nat) | hbm (p : Nat)

/-- What is one-time programmable (R370, R371, R389). -/
def fuses (x : Sec) : Sparse OwnerSlot × BitVec 4 × Nat × Nat := (x.owners, x.revokedImg, x.isvc, x.jtag)

/-- What of the state of reliability is no count, record, vote or run: fences, probation, resets, service and self-test
(R345, R346, R353 to R358). -/
def steady (x : Rel) : (List Nat × BitVec 16 × BitVec 18 × BitVec 2 × BitVec 2 × BitVec 20 × BitVec 16 × Bool) ×
    (Nat × Bool × List Nat × Nat × Nat × Bool × Nat × Nat × Nat × BitVec 32 × Bool) :=
  ((x.fencedCores, x.fencedPanels, x.fencedNyz, x.fencedSvc, x.fencedHost, x.oosFences, x.lifting, x.prob),
    (x.dph, x.dcount, x.rcmd, x.drcnt, x.prcnt, x.oos, x.oosr, x.bst, x.bres, x.resets, x.freshBoot))

/-- The state of reliability with that only. -/
def steadyOnly (x : Rel) : Rel :=
  { Rel.reset with
    fencedCores := x.fencedCores, fencedPanels := x.fencedPanels, fencedNyz := x.fencedNyz, fencedSvc := x.fencedSvc
    fencedHost := x.fencedHost, oosFences := x.oosFences, lifting := x.lifting, prob := x.prob, dph := x.dph
    dcount := x.dcount, rcmd := x.rcmd, drcnt := x.drcnt, prcnt := x.prcnt, oos := x.oos, oosr := x.oosr, bst := x.bst
    bres := x.bres, resets := x.resets, freshBoot := x.freshBoot }

/-- The security state with what is one-time programmable only. -/
def fusesOnly (x : Sec) : Sec :=
  { Sec.reset with owners := x.owners, revokedImg := x.revokedImg, isvc := x.isvc, jtag := x.jtag }

/-- A partition without what may change of it. -/
def viewPart (F : Field → Bool) (q : Nat) (x : Partition) : Partition :=
  if F (.part q) then .none_
  else { x with
    bar0 := if F (.regs q) then [] else x.bar0
    viol := if F (.regs q) then 0 else x.viol
    msix := if F (.vec q) then 0 else x.msix
    mem := if F (.mem q) then [] else x.mem
    collars := if F (.mem q) then [] else x.collars
    bolts := if F (.hbm q) then [] else x.bolts
    cache := if F (.hbm q) then [] else x.cache
    merged := if F (.hbm q) then [] else x.merged
    clock := if F (.hbm q) then 0 else x.clock
    evicting := if F (.hbm q) then false else x.evicting }

/-- A state without what may change of it, and its partitions one by one. -/
def view (F : Field → Bool) (s : State) : State × (Nat → Partition) :=
  ({ pending := s.pending
     freeIx := if F .freeIx then 0 else s.freeIx
     out := if F .out then [] else s.out
     dieCtr := if F .dieCtr then [] else s.dieCtr
     osc := if F .osc then [] else s.osc
     cores := if F .cores then [] else s.cores
     clusters := if F .clusters then [] else s.clusters
     stores := if F .stores then [] else s.stores
     tags := if F .tags then [] else s.tags
     parts := if F .parts then [] else s.parts
     fabric := if F .fabric then .reset else s.fabric
     wardrobe := if F .wardrobe then State.reset.wardrobe else s.wardrobe
     rel := if F .rel then (if F .steady then .reset else steadyOnly s.rel) else s.rel
     sec := if F .sec then (if F .fuses then .reset else fusesOnly s.sec) else s.sec
     pwr := if F .pwr then .reset else s.pwr
     mregs := if F .mregs then [] else s.mregs
     pattern := if F .pattern then none else s.pattern
     tap := if F .tap then .reset else s.tap },
   fun q => viewPart F q (partOf s q))

variable {F : Field → Bool}

/-! ### What a view shows -/

section Shown
variable {s t : State} (h : view F t = view F s)
include h

theorem pending_of_view : t.pending = s.pending := congrArg (fun v => v.1.pending) h

theorem fuses_of_view (hF : F .fuses = false) : fuses t.sec = fuses s.sec := by
  have hs := congrArg (fun v => v.1.sec) h
  simp only [view, hF, Bool.false_eq_true, if_false] at hs
  split at hs
  · have hf := congrArg fuses hs
    exact hf
  · rw [hs]

theorem steady_of_view (hF : F .steady = false) : steady t.rel = steady s.rel := by
  have hs := congrArg (fun v => v.1.rel) h
  simp only [view, hF, Bool.false_eq_true, if_false] at hs
  split at hs
  · have hf := congrArg steady hs
    exact hf
  · rw [hs]

theorem freeIx_of_view (hF : F .freeIx = false) : t.freeIx = s.freeIx := by
  simpa [view, hF] using congrArg (fun v => v.1.freeIx) h
theorem out_of_view (hF : F .out = false) : t.out = s.out := by
  simpa [view, hF] using congrArg (fun v => v.1.out) h
theorem dieCtr_of_view (hF : F .dieCtr = false) : t.dieCtr = s.dieCtr := by
  simpa [view, hF] using congrArg (fun v => v.1.dieCtr) h
theorem osc_of_view (hF : F .osc = false) : t.osc = s.osc := by
  simpa [view, hF] using congrArg (fun v => v.1.osc) h
theorem cores_of_view (hF : F .cores = false) : t.cores = s.cores := by
  simpa [view, hF] using congrArg (fun v => v.1.cores) h
theorem clusters_of_view (hF : F .clusters = false) : t.clusters = s.clusters := by
  simpa [view, hF] using congrArg (fun v => v.1.clusters) h
theorem stores_of_view (hF : F .stores = false) : t.stores = s.stores := by
  simpa [view, hF] using congrArg (fun v => v.1.stores) h
theorem tags_of_view (hF : F .tags = false) : t.tags = s.tags := by
  simpa [view, hF] using congrArg (fun v => v.1.tags) h
theorem parts_of_view (hF : F .parts = false) : t.parts = s.parts := by
  simpa [view, hF] using congrArg (fun v => v.1.parts) h
theorem fabric_of_view (hF : F .fabric = false) : t.fabric = s.fabric := by
  simpa [view, hF] using congrArg (fun v => v.1.fabric) h
theorem wardrobe_of_view (hF : F .wardrobe = false) : t.wardrobe = s.wardrobe := by
  simpa [view, hF] using congrArg (fun v => v.1.wardrobe) h
theorem rel_of_view (hF : F .rel = false) : t.rel = s.rel := by
  simpa [view, hF] using congrArg (fun v => v.1.rel) h
theorem sec_of_view (hF : F .sec = false) : t.sec = s.sec := by
  simpa [view, hF] using congrArg (fun v => v.1.sec) h
theorem pwr_of_view (hF : F .pwr = false) : t.pwr = s.pwr := by
  simpa [view, hF] using congrArg (fun v => v.1.pwr) h
theorem mregs_of_view (hF : F .mregs = false) : t.mregs = s.mregs := by
  simpa [view, hF] using congrArg (fun v => v.1.mregs) h
theorem pattern_of_view (hF : F .pattern = false) : t.pattern = s.pattern := by
  simpa [view, hF] using congrArg (fun v => v.1.pattern) h
theorem tap_of_view (hF : F .tap = false) : t.tap = s.tap := by
  simpa [view, hF] using congrArg (fun v => v.1.tap) h

theorem viewPart_of_view (q : Nat) : viewPart F q (partOf t q) = viewPart F q (partOf s q) := congrArg (fun v => v.2 q) h

end Shown

/-! ### Views of records, branches and folds -/

/-- A record update is not seen where each changed field may change. -/
theorem view_mk {b : State} {freeIx out dieCtr osc cores clusters stores tags fabric wardrobe rel sec pwr mregs pattern tap}
    (hfreeIx : F .freeIx = true ∨ freeIx = b.freeIx) (hout : F .out = true ∨ out = b.out)
    (hdieCtr : F .dieCtr = true ∨ dieCtr = b.dieCtr) (hosc : F .osc = true ∨ osc = b.osc)
    (hcores : F .cores = true ∨ cores = b.cores) (hclusters : F .clusters = true ∨ clusters = b.clusters)
    (hstores : F .stores = true ∨ stores = b.stores) (htags : F .tags = true ∨ tags = b.tags)
    (hfabric : F .fabric = true ∨ fabric = b.fabric) (hwardrobe : F .wardrobe = true ∨ wardrobe = b.wardrobe)
    (hrel : (F .rel = true ∧ (F .steady = true ∨ steady rel = steady b.rel)) ∨ rel = b.rel)
    (hsec : (F .sec = true ∧ (F .fuses = true ∨ fuses sec = fuses b.sec)) ∨ sec = b.sec)
    (hpwr : F .pwr = true ∨ pwr = b.pwr) (hmregs : F .mregs = true ∨ mregs = b.mregs)
    (hpattern : F .pattern = true ∨ pattern = b.pattern) (htap : F .tap = true ∨ tap = b.tap) :
    view F (.mk b.pending freeIx out dieCtr osc cores clusters stores tags b.parts fabric wardrobe rel sec pwr mregs
      pattern tap) = view F b := by
  have hsec' : (if F .sec then (if F .fuses then .reset else fusesOnly sec) else sec) =
      if F .sec then (if F .fuses then .reset else fusesOnly b.sec) else b.sec := by
    rcases hsec with ⟨hF, hf | hf⟩ | rfl
    · simp only [hF, hf, if_true]
    · simp only [fuses, Prod.mk.injEq] at hf
      obtain ⟨ho, hr, hi, hj⟩ := hf
      simp only [hF, if_true, fusesOnly, ho, hr, hi, hj]
    · rfl
  have hrel' : (if F .rel then (if F .steady then .reset else steadyOnly rel) else rel) =
      if F .rel then (if F .steady then .reset else steadyOnly b.rel) else b.rel := by
    rcases hrel with ⟨hF, hf | hf⟩ | rfl
    · simp only [hF, hf, if_true]
    · simp only [steady, Prod.mk.injEq] at hf
      obtain ⟨⟨hc, hp, hn, hs, hh, ho, hl, hb⟩, hd, hdc, hr, hdr, hpr, hoo, hor, hbs, hbr, hrs, hfb⟩ := hf
      simp only [hF, if_true, steadyOnly, hc, hp, hn, hs, hh, ho, hl, hb, hd, hdc, hr, hdr, hpr, hoo, hor, hbs, hbr, hrs, hfb]
    · rfl
  have other : ∀ {α : Type} {f : Bool} {d x y : α}, f = true ∨ x = y → (if f then d else x) = if f then d else y := by
    rintro α f d x y (rfl | rfl)
    · rfl
    · rfl
  simp only [view, other hfreeIx, other hout, other hdieCtr, other hosc, other hcores, other hclusters, other hstores,
    other htags, other hfabric, other hwardrobe, hrel', hsec', other hpwr, other hmregs, other hpattern, other htap]
  rfl

/-- Other partitions are not seen where all of them may change. -/
theorem view_parts (s : State) (m : Sparse Partition) (hparts : F .parts = true) (hpart : ∀ q, F (.part q) = true) :
    view F { s with parts := m } = view F s := by
  simp only [view, viewPart, hparts, hpart, if_true]

/-- As `view_mk`, of an update that changes partitions too. -/
theorem view_mk_parts {b : State} {parts freeIx out dieCtr osc cores clusters stores tags fabric wardrobe rel sec pwr
    mregs pattern tap}
    (hparts : F .parts = true) (hpart : ∀ q, F (.part q) = true)
    (hfreeIx : F .freeIx = true ∨ freeIx = b.freeIx) (hout : F .out = true ∨ out = b.out)
    (hdieCtr : F .dieCtr = true ∨ dieCtr = b.dieCtr) (hosc : F .osc = true ∨ osc = b.osc)
    (hcores : F .cores = true ∨ cores = b.cores) (hclusters : F .clusters = true ∨ clusters = b.clusters)
    (hstores : F .stores = true ∨ stores = b.stores) (htags : F .tags = true ∨ tags = b.tags)
    (hfabric : F .fabric = true ∨ fabric = b.fabric) (hwardrobe : F .wardrobe = true ∨ wardrobe = b.wardrobe)
    (hrel : (F .rel = true ∧ (F .steady = true ∨ steady rel = steady b.rel)) ∨ rel = b.rel)
    (hsec : (F .sec = true ∧ (F .fuses = true ∨ fuses sec = fuses b.sec)) ∨ sec = b.sec)
    (hpwr : F .pwr = true ∨ pwr = b.pwr) (hmregs : F .mregs = true ∨ mregs = b.mregs)
    (hpattern : F .pattern = true ∨ pattern = b.pattern) (htap : F .tap = true ∨ tap = b.tap) :
    view F (.mk b.pending freeIx out dieCtr osc cores clusters stores tags parts fabric wardrobe rel sec pwr mregs
      pattern tap) = view F b :=
  (view_mk (b := { b with parts := parts }) hfreeIx hout hdieCtr hosc hcores hclusters hstores htags hfabric hwardrobe hrel
    hsec hpwr hmregs hpattern htap).trans (view_parts b parts hparts hpart)

theorem view_ite {c : Prop} [Decidable c] {a b s : State} (ha : c → view F a = view F s) (hb : ¬c → view F b = view F s) :
    view F (if c then a else b) = view F s := by
  split
  next h => exact ha h
  next h => exact hb h

theorem viewPart_pair_fst {α : Type} (p : Nat) (x : Partition) (y : α) : viewPart F p (x, y).1 = viewPart F p x := rfl

theorem view_pair_fst {α : Type} (s : State) (x : α) : view F (s, x).1 = view F s := rfl

theorem view_foldl {α : Type} {f : State → α → State} (l : List α) (s : State)
    (keep : ∀ t e, view F (f t e) = view F t) : view F (l.foldl f s) = view F s :=
  List.foldlRecOn (motive := fun t => view F t = view F s) _ _ rfl fun t ht e _ => (keep t e).trans ht

theorem view_foldl_fst {α β : Type} {f : State × β → α → State × β} (l : List α) (r : State × β)
    (keep : ∀ r e, view F (f r e).1 = view F r.1) : view F (l.foldl f r).1 = view F r.1 :=
  List.foldlRecOn (motive := fun q : State × β => view F q.1 = view F r.1) _ _ rfl fun q hq e _ => (keep q e).trans hq

/-- A step that may refuse, or else a step in its place. -/
theorem view_getD {o : Option State} {s u : State} (step : ∀ t, o = some t → view F t = view F s)
    (other : view F u = view F s) : view F (o.getD u) = view F s := by
  cases o with
  | none => exact other
  | some t => exact step t rfl

theorem view_of_eq_fst {α : Type} {r : State × α} {t : State} {x : α} (e : r = (t, x)) :
    view F t = view F r.1 := by rw [e]

theorem view_of_eq_snd {α : Type} {r : α × State} {t : State} {x : α} (e : r = (x, t)) :
    view F t = view F r.2 := by rw [e]

/-! ### Views of the shared updates -/

theorem putPart_view (s : State) (p : Nat) (x : Partition) (hparts : F .parts = true)
    (hp : viewPart F p x = viewPart F p (partOf s p)) : view F (putPart s p x) = view F s := by
  have hq : (fun q => viewPart F q (partOf (putPart s p x) q)) = fun q => viewPart F q (partOf s q) := by
    funext q
    by_cases h : q = p
    · subst h; rw [partOf_putPart, hp]
    · rw [partOf_putPart_ne _ _ _ _ h]
  simp only [view, hq, hparts, if_true]
  rfl

theorem viewPart_of_part {p : Nat} (h : F (.part p) = true) (x y : Partition) : viewPart F p x = viewPart F p y := by
  rw [viewPart, viewPart, if_pos h, if_pos h]

theorem putPart_view_part (s : State) (p : Nat) (x : Partition) (hparts : F .parts = true) (hp : F (.part p) = true) :
    view F (putPart s p x) = view F s := putPart_view s p x hparts (viewPart_of_part hp _ _)

theorem onPart_view (s : State) (p : Nat) (f : Partition → Partition) (hparts : F .parts = true)
    (hp : viewPart F p (f (partOf s p)) = viewPart F p (partOf s p)) : view F (onPart s p f) = view F s :=
  putPart_view s p _ hparts hp

theorem onPart_view_part (s : State) (p : Nat) (f : Partition → Partition) (hparts : F .parts = true)
    (hp : F (.part p) = true) : view F (onPart s p f) = view F s := putPart_view_part s p _ hparts hp

/-- An update of a partition's record is not seen where what it changes may change. -/
theorem viewPart_mk {p : Nat} {b : Partition} {viol bar0 mem collars bolts cache merged clock evicting msix}
    (hviol : F (.regs p) = true ∨ viol = b.viol) (hregs : F (.regs p) = true ∨ bar0 = b.bar0)
    (hmem : F (.mem p) = true ∨ mem = b.mem)
    (hcollars : F (.mem p) = true ∨ collars = b.collars) (hbolts : F (.hbm p) = true ∨ bolts = b.bolts)
    (hcache : F (.hbm p) = true ∨ cache = b.cache) (hmerged : F (.hbm p) = true ∨ merged = b.merged)
    (hclock : F (.hbm p) = true ∨ clock = b.clock) (hevicting : F (.hbm p) = true ∨ evicting = b.evicting)
    (hvec : F (.vec p) = true ∨ msix = b.msix) :
    viewPart F p (.mk b.ptstate b.dying b.rcount b.panels b.parkP b.vbolts b.qbolts b.hwcap b.mac0 b.mac1 b.dbgen b.bound
      viol b.xtsKey b.pktKey b.keyed bar0 mem collars bolts cache merged clock evicting b.ctxs b.grants b.tombs b.groups
      b.colls b.jkeys b.tailor b.pocket b.ring b.seam b.hint b.hostReqs b.nextHost b.pph msix) = viewPart F p b := by
  have other : ∀ {α : Type} {f : Bool} {d x y : α}, f = true ∨ x = y → (if f then d else x) = if f then d else y := by
    rintro α f d x y (rfl | rfl)
    · rfl
    · rfl
  simp only [viewPart, other hviol, other hregs, other hmem, other hcollars, other hbolts, other hcache, other
    hmerged, other hclock,
    other hevicting, other hvec]

theorem viewPart_foldl {α : Type} {p : Nat} {f : Partition → α → Partition} (l : List α) (x : Partition)
    (keep : ∀ y e, viewPart F p (f y e) = viewPart F p y) : viewPart F p (l.foldl f x) = viewPart F p x :=
  List.foldlRecOn (motive := fun y => viewPart F p y = viewPart F p x) _ _ rfl fun y hy e _ => (keep y e).trans hy

theorem onCtx_view (s : State) (p c : Nat) (f : Ctx → Ctx) (hparts : F .parts = true) (hp : F (.part p) = true) :
    view F (onCtx s p c f) = view F s := onPart_view_part s p _ hparts hp

theorem putReg_view (s : State) (p o hi lo v : Nat) (hparts : F .parts = true) (hp : F (.regs p) = true) :
    view F (putReg s p o hi lo v) = view F s :=
  onPart_view s p _ hparts (by simp only [Partition.put, Partition.setReg, viewPart_mk, hp, true_or, or_true])

theorem msix_view (s : State) (p v : Nat) (hparts : F .parts = true) (hp : F (.vec p) = true) (hout : F .out = true) :
    view F (msix s p v) = view F s := by
  simp only [msix, emit, ↓view_mk, ↓onPart_view, ↓viewPart_mk, hparts, hp, hout, true_or, or_true]

/-! ### Views of the machine's operations -/

theorem spend_view (s : State) (n : Nat) (hfreeIx : F .freeIx = true) : view F (spend s n) = view F s := by
  simp only [spend, ↓view_mk, true_or, or_true, hfreeIx]

theorem Partition_setReg_view {q : Nat} (x : Partition) (off : Nat) (w : Word) (hregs : F (.regs q) = true) :
    viewPart F q (Partition.setReg x off w) = viewPart F q x := by
  simp only [Partition.setReg, ↓viewPart_mk, true_or, or_true, hregs]

theorem Partition_beat_view {q : Nat} (x : Partition) (hregs : F (.regs q) = true) :
    viewPart F q (Partition.beat x) = viewPart F q x := by
  simp only [Partition.beat, ↓Partition_setReg_view, hregs]

theorem idle_view (s : State) (hfreeIx : F .freeIx = true) (hdieCtr : F .dieCtr = true) (hosc : F .osc = true)
    (hparts : F .parts = true) (hfabric : F .fabric = true) (hpart : ∀ q, F (.part q) = true) :
    view F (idle s) = view F s := by
  unfold idle
  dsimp only
  split
  · rfl
  · simp only [↓spend_view, ↓view_mk_parts, true_or, or_true, implies_true, hfreeIx, hdieCtr, hosc, hparts, hfabric, hpart]

theorem putCore_view (s : State) (g : Nat) (x : Core) (hcores : F .cores = true) :
    view F (putCore s g x) = view F s := by
  simp only [putCore, ↓view_mk, true_or, or_true, hcores]

theorem onCore_view (s : State) (g : Nat) (f : Core → Core) (hcores : F .cores = true) :
    view F (onCore s g f) = view F s := by
  simp only [onCore, ↓putCore_view, hcores]

theorem Partition_put_view {q : Nat} (x : Partition) (off hi lo v : Nat) (hregs : F (.regs q) = true) :
    viewPart F q (Partition.put x off hi lo v) = viewPart F q x := by
  simp only [Partition.put, ↓Partition_setReg_view, hregs]

theorem emit_view (s : State) (e : Emit) (hout : F .out = true) : view F (emit s e) = view F s := by
  simp only [emit, ↓view_mk, true_or, or_true, hout]

theorem ctxVector_view (s : State) (p c : Nat) (hout : F .out = true) (hparts : F .parts = true)
    (hvec : F (.vec p) = true) : view F (ctxVector s p c) = view F s := by
  simp only [ctxVector, ↓msix_view, hout, hparts, hvec]

theorem setCstate_view (s : State) (p c v : Nat) (hparts : F .parts = true) (hregs : F (.regs p) = true) :
    view F (setCstate s p c v) = view F s := by
  simp only [setCstate, ↓putReg_view, hparts, hregs]

theorem Partition_putCtx_view {q : Nat} (x : Partition) (c : Nat) (y : Ctx) (hpart : F (.part q) = true) :
    viewPart F q (x.putCtx c y) = viewPart F q x :=
  viewPart_of_part hpart _ _

theorem coreStop_view (s : State) (g cause : Nat) (tcode : Option Nat) (hout : F .out = true) (hcores : F .cores = true)
    (hparts : F .parts = true) (hpart : ∀ q, F (.part q) = true) (hregs : ∀ q, F (.regs q) = true)
    (hvec : ∀ q, F (.vec q) = true) : view F (coreStop s g cause tcode) = view F s := by
  simp only [coreStop]
  split
  · simp only [↓onCore_view, hcores]
  · simp only [↓onCore_view, ↓ctxVector_view, ↓setCstate_view, ↓onCtx_view, ↓view_foldl, ↓apply_ite (view F), ite_self,
    implies_true, hout, hcores, hparts, hpart, hregs, hvec]
    split
    · simp only [↓onCore_view, ↓putReg_view, hcores, hparts, hregs]
    · simp only [↓onCore_view, hcores]

theorem lstat_view (s : State) (p c code : Nat) (hout : F .out = true) (hparts : F .parts = true)
    (hregs : F (.regs p) = true) (hvec : F (.vec p) = true) : view F (lstat s p c code) = view F s := by
  simp only [lstat, ↓ctxVector_view, ↓putReg_view, hout, hparts, hregs, hvec]

theorem markColls_view {q : Nat} (x : Partition) (pick : Coll → Bool) (status : Nat) (hpart : F (.part q) = true) :
    viewPart F q (markColls x pick status) = viewPart F q x :=
  viewPart_of_part hpart _ _

theorem beginTeardown_view (s : State) (p c interrupted : Nat) (cause : Option Cause) (hout : F .out = true)
    (hcores : F .cores = true) (hparts : F .parts = true) (hpart : F (.part p) = true) (hregs : F (.regs p) = true)
    (hvec : F (.vec p) = true) : view F (beginTeardown s p c interrupted cause) = view F s := by
  simp only [beginTeardown, ↓lstat_view, ↓onCore_view, ↓onCtx_view, ↓setCstate_view, ↓onPart_view_part, ↓view_foldl,
    ↓apply_ite (view F), ite_self, implies_true, hout, hcores, hparts, hpart, hregs, hvec]

theorem contextFault_view (s : State) (p c : Nat) (cause : Cause) (hout : F .out = true) (hcores : F .cores = true)
    (hparts : F .parts = true) (hpart : F (.part p) = true) (hregs : F (.regs p) = true) (hvec : F (.vec p) = true) :
    view F (contextFault s p c cause) = view F s := by
  simp only [contextFault, ↓beginTeardown_view, ↓onCtx_view, ↓apply_ite (view F), ite_self, hout, hcores, hparts, hpart,
    hregs, hvec]

theorem coreFault_view (s : State) (g cause pc ftag dmaStatus : Nat) (hout : F .out = true) (hcores : F .cores = true)
    (hparts : F .parts = true) (hpart : ∀ q, F (.part q) = true) (hregs : ∀ q, F (.regs q) = true)
    (hvec : ∀ q, F (.vec q) = true) : view F (coreFault s g cause pc ftag dmaStatus) = view F s := by
  simp only [coreFault]
  split
  · simp only [↓onCore_view, ↓contextFault_view, hout, hcores, hparts, hpart, hregs, hvec]
  · simp only [↓onCore_view, hcores]

theorem scramble_view (s : State) (g off n : Nat) (spans : List (Nat × Nat)) (hfreeIx : F .freeIx = true)
    (hstores : F .stores = true) : view F (scramble s g off n spans) = view F s := by
  simp only [scramble, ↓spend_view, ↓view_mk, true_or, or_true, hfreeIx, hstores]

theorem storeHazard_view (s : State) (g off n : Nat) (hfreeIx : F .freeIx = true) (hcores : F .cores = true)
    (hstores : F .stores = true) : view F (storeHazard s g off n) = view F s := by
  simp only [storeHazard, ↓onCore_view, ↓scramble_view, ↓apply_ite (view F), ite_self, hfreeIx, hcores, hstores]

theorem storeTags_view (s : State) (a n : Nat) (htags : F .tags = true) : view F (storeTags s a n) = view F s := by
  simp only [storeTags, ↓view_mk, true_or, or_true, htags]

theorem storeBytes_view (s : State) (g off : Nat) (bs : List Byte) (hfreeIx : F .freeIx = true)
    (hcores : F .cores = true) (hstores : F .stores = true) (htags : F .tags = true) :
    view F (storeBytes s g off bs) = view F s := by
  simp only [storeBytes, ↓storeHazard_view, ↓storeTags_view, ↓view_mk, true_or, or_true, hfreeIx, hcores, hstores,
    htags]

theorem loadCodebooks_view (s : State) (g src slot n : Nat) (hcores : F .cores = true) :
    view F (loadCodebooks s g src slot n) = view F s := by
  simp only [loadCodebooks, ↓onCore_view, hcores]

theorem actL_view (s : State) (g : Nat) (k : Core) (l : Nat) (hfreeIx : F .freeIx = true) (hcores : F .cores = true)
    (hstores : F .stores = true) (htags : F .tags = true) : view F (actL s g k l) = view F s := by
  simp only [actL, ↓onCore_view, ↓storeBytes_view, ↓loadCodebooks_view, ↓view_foldl, ↓apply_ite (view F), ite_self,
    implies_true, hfreeIx, hcores, hstores, htags]

theorem addWait_view (s : State) (g : Nat) (x : Wait) (hcores : F .cores = true) :
    view F (addWait s g x) = view F s := by
  simp only [addWait, ↓onCore_view, hcores]

theorem joinMop_view (s : State) (g : Nat) (new : MOp) (hcores : F .cores = true) :
    view F (joinMop s g new) = view F s := by
  simp only [joinMop, ↓onCore_view, hcores]

theorem actM_view (s : State) (g : Nat) (k : Core) (m : Nat) (hcores : F .cores = true) :
    view F (actM s g k m) = view F s := by
  simp only [actM, ↓addWait_view, ↓joinMop_view, ↓apply_ite (view F), ite_self, hcores]

theorem putClus_view (s : State) (x1 : Nat) (x : Cluster) (hclusters : F .clusters = true) :
    view F (putClus s x1 x) = view F s := by
  simp only [putClus, ↓view_mk, true_or, or_true, hclusters]

theorem onClus_view (s : State) (x1 : Nat) (f : Cluster → Cluster) (hclusters : F .clusters = true) :
    view F (onClus s x1 f) = view F s := by
  simp only [onClus, ↓putClus_view, hclusters]

theorem endWaits_view (s : State) (g : Nat) (done : Wait → Bool) (hcores : F .cores = true) :
    view F (endWaits s g done) = view F s := by
  simp only [endWaits]
  split
  · simp only [↓onCore_view, hcores]
  · rfl

theorem semRelease_view (h sid fuel : Nat) (s : State) (hfreeIx : F .freeIx = true) (hcores : F .cores = true)
    (hclusters : F .clusters = true) : view F (semRelease h sid fuel s) = view F s := by
  induction fuel generalizing s with
  | zero => rfl
  | succ fuel ih =>
    rw [semRelease]
    dsimp only
    split
    · rfl
    · rw [ih, endWaits_view _ _ _ hcores, onClus_view _ _ _ hclusters, spend_view _ _ hfreeIx]

theorem semAdd_view (s : State) (x1 sid n : Nat) (hfreeIx : F .freeIx = true) (hcores : F .cores = true)
    (hclusters : F .clusters = true) : view F (semAdd s x1 sid n) = view F s := by
  simp only [semAdd, ↓semRelease_view, ↓onClus_view, hfreeIx, hcores, hclusters]

theorem releaseBarP_view (s : State) (p c b : Nat) (hcores : F .cores = true) (hparts : F .parts = true)
    (hpart : F (.part p) = true) : view F (releaseBarP s p c b) = view F s := by
  simp only [releaseBarP, ↓endWaits_view, ↓onCtx_view, ↓view_foldl, implies_true, hcores, hparts, hpart]

theorem arriveBarP_view (s : State) (g : Nat) (hd : Holder) (b n : Nat) (hcores : F .cores = true)
    (hparts : F .parts = true) (hpart : F (.part hd.part) = true) : view F (arriveBarP s g hd b n) = view F s := by
  simp only [arriveBarP, ↓releaseBarP_view, ↓onCtx_view, ↓addWait_view, ↓apply_ite (view F), ite_self, hcores, hparts,
    hpart]

theorem flushCode_view (s : State) (g : Nat) (hd : Holder) (hcores : F .cores = true) :
    view F (flushCode s g hd) = view F s := by
  simp only [flushCode, ↓onCore_view, hcores]

theorem actB_view (s : State) (g : Nat) (k : Core) (b : Nat) (hfreeIx : F .freeIx = true) (hcores : F .cores = true)
    (hclusters : F .clusters = true) (hparts : F .parts = true) (hpart : ∀ q, F (.part q) = true) :
    view F (actB s g k b) = view F s := by
  simp only [actB]
  split
  · simp only [↓onClus_view, ↓addWait_view, ↓apply_ite (view F), ite_self, hcores, hclusters]
  · simp only [↓semAdd_view, ↓apply_ite (view F), ite_self, hfreeIx, hcores, hclusters]
  · simp only [↓onClus_view, ↓onCore_view, ↓apply_ite (view F), ite_self, hcores, hclusters]
  · simp only [↓onClus_view, ↓addWait_view, hcores, hclusters]
  · split
    · simp only [↓arriveBarP_view, hcores, hparts, hpart]
    · rfl
  · simp only [↓addWait_view, ↓apply_ite (view F), ite_self, hcores]
  · simp only [↓addWait_view, ↓apply_ite (view F), ite_self, hcores]
  · simp only [↓addWait_view, ↓apply_ite (view F), ite_self, hcores]
  · split
    · simp only [↓flushCode_view, hcores]
    · rfl
  · simp only [↓onCore_view, hcores]
  · simp only [↓onCore_view, hcores]
  · rfl

theorem commitBundle_view (s : State) (g : Nat) (k : Core) (w : Bundle) (hfreeIx : F .freeIx = true)
    (hcores : F .cores = true) (hclusters : F .clusters = true) (hstores : F .stores = true) (htags : F .tags = true)
    (hparts : F .parts = true) (hpart : ∀ q, F (.part q) = true) : view F (commitBundle s g k w) = view F s := by
  simp only [commitBundle, ↓spend_view, ↓putCore_view, ↓actL_view, ↓actM_view, ↓actB_view, ↓apply_ite (view F),
    ite_self, implies_true, hfreeIx, hcores, hclusters, hstores, htags, hparts, hpart]

theorem issueFetched_view (s : State) (g : Nat) (w : Bundle) (hfreeIx : F .freeIx = true) (hout : F .out = true)
    (hcores : F .cores = true) (hclusters : F .clusters = true) (hstores : F .stores = true) (htags : F .tags = true)
    (hparts : F .parts = true) (hpart : ∀ q, F (.part q) = true) (hregs : ∀ q, F (.regs q) = true)
    (hvec : ∀ q, F (.vec q) = true) : view F (issueFetched s g w) = view F s := by
  simp only [issueFetched, ↓onCore_view, ↓coreStop_view, ↓apply_ite (view F), implies_true, hout, hcores, hparts, hpart,
    hregs, hvec]
  split
  · rfl
  · split
    · rfl
    · split
      · simp only [↓coreStop_view, ↓coreFault_view, ↓apply_ite (view F), ite_self, implies_true, hout, hcores, hparts,
        hpart, hregs, hvec]
      · simp only [↓commitBundle_view, ↓apply_ite (view F), ite_self, implies_true, hfreeIx, hcores, hclusters, hstores,
        htags, hparts, hpart]

theorem issueBundle_view (s : State) (g : Nat) (hfreeIx : F .freeIx = true) (hout : F .out = true)
    (hcores : F .cores = true) (hclusters : F .clusters = true) (hstores : F .stores = true) (htags : F .tags = true)
    (hparts : F .parts = true) (hpart : ∀ q, F (.part q) = true) (hregs : ∀ q, F (.regs q) = true)
    (hvec : ∀ q, F (.vec q) = true) : view F (issueBundle s g) = view F s := by
  simp only [issueBundle]
  split
  · rfl
  · simp only [↓issueFetched_view, ↓spend_view, ↓coreFault_view, ↓apply_ite (view F), ite_self, implies_true, hfreeIx,
    hout, hcores, hclusters, hstores, htags, hparts, hpart, hregs, hvec]

theorem healthSend_view (s : State) (kind : Nat) (entries : List (List Byte)) (hout : F .out = true)
    (hrel : F .rel = true) : view F (healthSend s kind entries) = view F s := by
  simp only [healthSend, ↓emit_view, ↓view_mk, steady, and_self, true_or, or_true, hout, hrel]

theorem healthRecord_view (kind fuel : Nat) (s : State) (es : List (List Byte)) (hout : F .out = true)
    (hrel : F .rel = true) : view F (healthRecord kind fuel s es) = view F s := by
  induction fuel generalizing s es with
  | zero => rfl
  | succ fuel ih => simp only [healthRecord, ↓apply_ite (view F), ih, ↓healthSend_view, ite_self, hout, hrel]

theorem eventRecord_view (s : State) (cls ut idx flg det : Nat) (hout : F .out = true) (hrel : F .rel = true) :
    view F (eventRecord s cls ut idx flg det) = view F s := by
  simp only [eventRecord, ↓healthRecord_view, ↓view_mk, steady, and_self, ↓apply_ite (view F), ite_self, true_or,
    or_true, hout, hrel]

theorem errEvent_view (s : State) (p i : Nat) (hout : F .out = true) (hparts : F .parts = true)
    (hregs : F (.regs p) = true) (hvec : F (.vec p) = true) : view F (errEvent s p i) = view F s := by
  simp only [errEvent, ↓putReg_view, ↓msix_view, ↓apply_ite (view F), ite_self, hout, hparts, hregs, hvec]

theorem chargeN_view (s : State) (cls ut idx n : Nat) (hout : F .out = true) (hparts : F .parts = true)
    (hrel : F .rel = true) (hregs : ∀ q, F (.regs q) = true) (hvec : ∀ q, F (.vec q) = true) :
    view F (chargeN s cls ut idx n) = view F s := by
  simp only [chargeN, ↓eventRecord_view, ↓view_mk, steady, and_self, ↓apply_ite (view F), ite_self, true_or, or_true,
    hout, hrel]
  split
  · split
    · simp only [↓eventRecord_view, ↓errEvent_view, ↓view_mk, steady, and_self, ↓apply_ite (view F), ite_self, true_or,
        or_true, hout,
      hparts, hrel, hregs, hvec]
    · simp only [↓eventRecord_view, ↓view_mk, steady, and_self, ↓apply_ite (view F), ite_self, true_or, or_true, hout, hrel]
  · rfl

theorem charge_view (s : State) (cls ut idx : Nat) (hout : F .out = true) (hparts : F .parts = true)
    (hrel : F .rel = true) (hregs : ∀ q, F (.regs q) = true) (hvec : ∀ q, F (.vec q) = true) :
    view F (charge s cls ut idx) = view F s := by
  simp only [charge, ↓chargeN_view, implies_true, hout, hparts, hrel, hregs, hvec]

theorem storeEvent_view (s : State) (a : Nat) (hout : F .out = true) (htags : F .tags = true) (hparts : F .parts = true)
    (hrel : F .rel = true) (hregs : ∀ q, F (.regs q) = true) (hvec : ∀ q, F (.vec q) = true) :
    view F (storeEvent s a) = view F s := by
  simp only [storeEvent]
  split
  · simp only [↓charge_view, ↓errEvent_view, ↓view_mk, steady, and_self, true_or, or_true, implies_true, hout, htags,
      hparts, hrel, hregs,
    hvec]
  · simp only [↓charge_view, ↓view_mk, steady, and_self, true_or, or_true, implies_true, hout, htags, hparts, hrel, hregs, hvec]

theorem engineEvent_view (s : State) (e : EngineId) (status : Nat) (hout : F .out = true) (hrel : F .rel = true) :
    view F (engineEvent s e status) = view F s := by
  simp only [engineEvent, ↓eventRecord_view, hout, hrel]

theorem resetPathUnit_view (s : State) (x1 : Nat) (hcores : F .cores = true) :
    view F (resetPathUnit s x1) = view F s := by
  simp only [resetPathUnit, ↓onCore_view, ↓view_foldl, implies_true, hcores]

theorem resetSequencer_view (s : State) (g : Nat) (hcores : F .cores = true) :
    view F (resetSequencer s g) = view F s := by
  simp only [resetSequencer, ↓onCore_view, hcores]

theorem resetCollEngine_view (s : State) (hfreeIx : F .freeIx = true) (hparts : F .parts = true)
    (hpart : ∀ q, F (.part q) = true) : view F (resetCollEngine s) = view F s := by
  simp only [resetCollEngine]
  split
  · rfl
  · simp only [↓onPart_view_part, ↓spend_view, hfreeIx, hparts, hpart]

theorem setMreg_view (s : State) (a : Nat) (w : Word) (hmregs : F .mregs = true) :
    view F (setMreg s a w) = view F s := by
  simp only [setMreg, ↓view_mk, true_or, or_true, hmregs]

theorem putMreg_view (s : State) (a hi lo v : Nat) (hmregs : F .mregs = true) :
    view F (putMreg s a hi lo v) = view F s := by
  simp only [putMreg, ↓setMreg_view, hmregs]

theorem dropHostReq_view (s : State) (p id : Nat) (hparts : F .parts = true) (hpart : F (.part p) = true) :
    view F (dropHostReq s p id) = view F s := by
  simp only [dropHostReq, ↓onPart_view_part, hparts, hpart]

theorem onDma_view (s : State) (g id : Nat) (f : Dma → Dma) (hcores : F .cores = true) :
    view F (onDma s g id f) = view F s := by
  simp only [onDma, ↓onCore_view, hcores]

theorem stagePoison_view (s : State) (g id a n : Nat) (hfreeIx : F .freeIx = true) (hcores : F .cores = true) :
    view F (stagePoison s g id a n) = view F s := by
  simp only [stagePoison, ↓spend_view, ↓onDma_view, hfreeIx, hcores]

theorem readyAll_view {f : State → Nat → Nat → Option State} {s : State} {p : Nat} {bs : List Nat} {t : State}
    (e : readyAll f s p bs = some t) (keep : ∀ {u b v}, f u p b = some v → view F v = view F u) :
    view F t = view F s := by
  refine List.foldlRecOn (motive := fun o : Option State => ∀ v, o = some v → view F v = view F s) bs _
    (fun v hv => by cases hv; rfl) (fun o ho b _ v hv => ?_) t e
  obtain ⟨u, hu, hv⟩ := Option.bind_eq_some_iff.1 hv
  exact (keep hv).trans (ho u hu)

theorem noteFrames_view {q : Nat} (x : Partition) (hhbm : F (.hbm q) = true) :
    viewPart F q (noteFrames x) = viewPart F q x := by
  simp only [noteFrames, ↓viewPart_mk, true_or, or_true, hhbm]

theorem Partition_setBolt_view {q : Nat} (x : Partition) (b : Nat) (y : Bolt) (hhbm : F (.hbm q) = true) :
    viewPart F q (Partition.setBolt x b y) = viewPart F q x := by
  simp only [Partition.setBolt, ↓viewPart_mk, true_or, or_true, hhbm]

theorem giveFrame_view (s : State) (p b : Nat) (st : BoltState) (hfreeIx : F .freeIx = true) (hparts : F .parts = true)
    (hhbm : F (.hbm p) = true) : view F (giveFrame s p b st) = view F s := by
  simp only [giveFrame, ↓spend_view, ↓onPart_view, ↓noteFrames_view, ↓Partition_setBolt_view, hfreeIx, hparts, hhbm]

theorem dropLines_view {q : Nat} (x : Partition) (b : Nat) (hhbm : F (.hbm q) = true) :
    viewPart F q (dropLines x b) = viewPart F q x := by
  simp only [dropLines, ↓viewPart_mk, true_or, or_true, hhbm]

theorem leaveHbm_view {q : Nat} (x : Partition) (b : Nat) (st : BoltState) (hhbm : F (.hbm q) = true) :
    viewPart F q (leaveHbm x b st) = viewPart F q x := by
  simp only [leaveHbm, ↓noteFrames_view, ↓Partition_setBolt_view, ↓dropLines_view, hhbm]

theorem onWear_view (s : State) (f : Wear → Wear) (hwardrobe : F .wardrobe = true) :
    view F (onWear s f) = view F s := by
  simp only [onWear, ↓view_mk, true_or, or_true, hwardrobe]

theorem onBlock_view (s : State) (k : Nat) (f : FlashBlock → FlashBlock) (hwardrobe : F .wardrobe = true) :
    view F (onBlock s k f) = view F s := by
  simp only [onBlock, ↓view_mk, true_or, or_true, hwardrobe]

/-- A charge to a unit of no partition. -/
theorem chargeN_view_of_noPart (s : State) (cls ut idx n : Nat) (hu : ∀ t : State, unitPart t ut idx = none)
    (hout : F .out = true) (hrel : F .rel = true) : view F (chargeN s cls ut idx n) = view F s := by
  simp only [chargeN, hu, ↓eventRecord_view, ↓view_mk, steady, and_self, ↓apply_ite (view F), ite_self, true_or,
    or_true, hout, hrel]

/-- A flash package is no unit of a partition (Table 14-3). -/
theorem chargeFlash_view (s : State) (cls n : Nat) (hfreeIx : F .freeIx = true) (hout : F .out = true)
    (hrel : F .rel = true) : view F (chargeFlash s cls n) = view F s := by
  unfold chargeFlash
  split
  · rfl
  · rw [chargeN_view_of_noPart _ _ _ _ _ (fun _ => rfl) hout hrel, spend_view _ _ hfreeIx]

theorem retireBlock_view (s : State) (k : Nat) (hfreeIx : F .freeIx = true) (hout : F .out = true)
    (hwardrobe : F .wardrobe = true) (hrel : F .rel = true) : view F (retireBlock s k) = view F s := by
  simp only [retireBlock, ↓onWear_view, ↓onBlock_view, ↓chargeFlash_view, ↓spend_view, hfreeIx, hout, hwardrobe, hrel]

theorem programBlock_view (s : State) (p b k : Nat) (hwardrobe : F .wardrobe = true) :
    view F (programBlock s p b k) = view F s := by
  simp only [programBlock, ↓onBlock_view, hwardrobe]
  split
  · simp only [↓onBlock_view, hwardrobe]
  · rfl

theorem rewriteBlock_view (s : State) (p b k : Nat) (hwardrobe : F .wardrobe = true) :
    view F (rewriteBlock s p b k) = view F s := by
  simp only [rewriteBlock, ↓onWear_view, ↓programBlock_view, hwardrobe]

theorem levelWear_view (s : State) (hwardrobe : F .wardrobe = true) : view F (levelWear s) = view F s := by
  simp only [levelWear]
  split
  · simp only [↓apply_ite (view F)]
    split
    · split
      · simp only [↓rewriteBlock_view, hwardrobe]
      · rfl
    · rfl
  · rfl

theorem wearVectors_view (s : State) (was : Wear) (hout : F .out = true) (hparts : F .parts = true)
    (hrel : F .rel = true) (hvec : ∀ q, F (.vec q) = true) : view F (wearVectors s was) = view F s := by
  simp only [wearVectors, ↓eventRecord_view, ↓msix_view, ↓view_foldl, ↓apply_ite (view F), ite_self, implies_true, hout,
    hparts, hrel, hvec]

theorem programBolt_view (s : State) (p b : Nat) (hfreeIx : F .freeIx = true) (hout : F .out = true)
    (hparts : F .parts = true) (hwardrobe : F .wardrobe = true) (hrel : F .rel = true) (hvec : ∀ q, F (.vec q) = true) :
    view F (programBolt s p b) = view F s := by
  simp only [programBolt, ↓retireBlock_view, ↓spend_view, ↓levelWear_view, ↓programBlock_view, ↓onWear_view,
    ↓wearVectors_view, ↓apply_ite (view F), ite_self, implies_true, hfreeIx, hout, hparts, hwardrobe, hrel, hvec]

theorem copiedOut_view (s : State) (p b : Nat) (hfreeIx : F .freeIx = true) (hout : F .out = true)
    (hparts : F .parts = true) (hwardrobe : F .wardrobe = true) (hrel : F .rel = true) (hvec : ∀ q, F (.vec q) = true)
    (hhbm : F (.hbm p) = true) : view F (copiedOut s p b) = view F s := by
  simp only [copiedOut, ↓programBolt_view, ↓onPart_view, ↓leaveHbm_view, implies_true, hfreeIx, hout, hparts, hwardrobe,
    hrel, hvec, hhbm]

theorem releaseForQuota_view {q : Nat} (x : Partition) (hhbm : F (.hbm q) = true) :
    viewPart F q (releaseForQuota x) = viewPart F q x := by
  simp only [releaseForQuota, ↓apply_ite (viewPart F q)]
  split
  · rfl
  · split
    · simp only [↓Partition_setBolt_view, hhbm]
    · rfl

theorem freeFrame_view {s : State} {p b : Nat} {t : State} (e : freeFrame s p b = some t) (hfreeIx : F .freeIx = true)
    (hout : F .out = true) (hparts : F .parts = true) (hwardrobe : F .wardrobe = true) (hrel : F .rel = true)
    (hvec : ∀ q, F (.vec q) = true) (hhbm : F (.hbm p) = true) : view F t = view F s := by
  unfold freeFrame at e
  dsimp only at e
  split at e
  · cases e
    rfl
  · obtain ⟨u, hu, rfl⟩ := Option.map_eq_some_iff.1 e
    split
    · simp only [↓onPart_view, ↓leaveHbm_view, hparts, hhbm]
    · simp only [↓copiedOut_view, implies_true, hfreeIx, hout, hparts, hwardrobe, hrel, hvec, hhbm]
    · simp only [↓onPart_view, ↓copiedOut_view, ↓releaseForQuota_view, implies_true, hfreeIx, hout, hparts, hwardrobe,
      hrel, hvec, hhbm]

theorem readyRead_view {s : State} {p b : Nat} {t : State} (e : readyRead s p b = some t) (hfreeIx : F .freeIx = true)
    (hout : F .out = true) (hparts : F .parts = true) (hwardrobe : F .wardrobe = true) (hrel : F .rel = true)
    (hvec : ∀ q, F (.vec q) = true) (hhbm : F (.hbm p) = true) : view F t = view F s := by
  unfold readyRead at e
  split at e
  · obtain ⟨u, hu, rfl⟩ := Option.map_eq_some_iff.1 e
    simp only [↓freeFrame_view hu, ↓giveFrame_view, implies_true, hfreeIx, hout, hparts, hwardrobe, hrel, hvec, hhbm]
  · cases e
    rfl

theorem violation_view (s : State) (p : Nat) (hparts : F .parts = true) (hregs : F (.regs p) = true) :
    view F (violation s p) = view F s := by
  simp only [violation, ↓onPart_view, ↓viewPart_mk, true_or, or_true, hparts, hregs]

theorem violationIf_view (b : Bool) (s : State) (p : Nat) (hparts : F .parts = true) (hregs : F (.regs p) = true) :
    view F (violationIf b s p) = view F s := by
  simp only [violationIf, ↓violation_view, ↓apply_ite (view F), ite_self, hparts, hregs]

theorem touchLine_view {q : Nat} (wr : Bool) (x : Partition) (l : Nat) (hhbm : F (.hbm q) = true) :
    viewPart F q (touchLine wr x l) = viewPart F q x := by
  simp only [touchLine, ↓viewPart_mk, true_or, or_true, hhbm]

theorem touchTile_view {q : Nat} (wr : Bool) (x : Partition) (t : Nat) (hhbm : F (.hbm q) = true) :
    viewPart F q (touchTile wr x t) = viewPart F q x := by
  simp only [touchTile, ↓touchLine_view, ↓Partition_setBolt_view, ↓viewPart_mk, ↓viewPart_foldl, ↓apply_ite (viewPart F
    q), ite_self, true_or, or_true, implies_true, hhbm]

theorem touchTiles_view (s : State) (p : Nat) (ts : List Nat) (hparts : F .parts = true) (hhbm : F (.hbm p) = true) :
    view F (touchTiles s p ts) = view F s := by
  simp only [touchTiles, ↓apply_ite (view F)]
  split
  · rfl
  · refine (onPart_view _ _ _ hparts ?_).trans ?_
    · simp only [↓touchTile_view, implies_true, ↓viewPart_foldl, hhbm]
    · rfl

theorem devRead_view (s : State) (p a n : Nat) (hfreeIx : F .freeIx = true) (hout : F .out = true)
    (hparts : F .parts = true) (hwardrobe : F .wardrobe = true) (hrel : F .rel = true) (hregs : F (.regs p) = true)
    (hvec : ∀ q, F (.vec q) = true) (hhbm : F (.hbm p) = true) : view F (devRead s p a n).2 = view F s := by
  unfold devRead
  dsimp only
  split
  · rfl
  next t e =>
    have ready : view F t = view F s :=
      readyAll_view e fun e => readyRead_view e hfreeIx hout hparts hwardrobe hrel hvec hhbm
    simp only [↓violationIf_view, ↓touchTiles_view, ready, hparts, hregs, hhbm]

theorem tileFailed_view (s : State) (p t : Nat) (hout : F .out = true) (hparts : F .parts = true) (hrel : F .rel = true)
    (hregs : ∀ q, F (.regs q) = true) (hvec : ∀ q, F (.vec q) = true) : view F (tileFailed s p t) = view F s := by
  simp only [tileFailed, ↓charge_view, ↓errEvent_view, implies_true, hout, hparts, hrel, hregs, hvec]

theorem checkTiles_view (s : State) (p : Nat) (ts : List Nat) (hout : F .out = true) (hparts : F .parts = true)
    (hrel : F .rel = true) (hregs : ∀ q, F (.regs q) = true) (hvec : ∀ q, F (.vec q) = true) :
    view F (checkTiles s p ts) = view F s := by
  simp only [checkTiles, ↓tileFailed_view, ↓view_foldl, ↓apply_ite (view F), ite_self, implies_true, hout, hparts, hrel,
    hregs, hvec]

theorem readFlash_view (s : State) (p b retries : Nat) (hfreeIx : F .freeIx = true) (hout : F .out = true)
    (hwardrobe : F .wardrobe = true) (hrel : F .rel = true) : view F (readFlash s p b retries) = view F s := by
  simp only [readFlash]
  split
  · simp only [↓chargeFlash_view, ↓onWear_view, ↓apply_ite (view F), ite_self, hfreeIx, hout, hwardrobe, hrel]
  · simp only [↓chargeFlash_view, ↓onWear_view, ↓onBlock_view, ↓rewriteBlock_view, ↓spend_view, ↓retireBlock_view,
    ↓apply_ite (view F), ite_self, hfreeIx, hout, hwardrobe, hrel]

theorem putTile_view {q : Nat} (x : Partition) (t : Nat) (payload : List Byte) (c : Collar) (hmem : F (.mem q) = true)
    (hhbm : F (.hbm q) = true) : viewPart F q (putTile x t payload c) = viewPart F q x := by
  simp only [putTile, ↓touchTile_view, ↓viewPart_mk, true_or, or_true, hmem, hhbm]

theorem poisonedTile_view (s : State) (p t : Nat) (hfreeIx : F .freeIx = true) (hparts : F .parts = true)
    (hmem : F (.mem p) = true) (hhbm : F (.hbm p) = true) : view F (poisonedTile s p t) = view F s := by
  simp only [poisonedTile, ↓spend_view, ↓onPart_view, ↓putTile_view, hfreeIx, hparts, hmem, hhbm]

theorem undecoded_view (s : State) (p b : Nat) (bad : BitVec 16) (hfreeIx : F .freeIx = true) (hout : F .out = true)
    (hparts : F .parts = true) (hwardrobe : F .wardrobe = true) (hrel : F .rel = true) (hregs : F (.regs p) = true)
    (hvec : F (.vec p) = true) (hmem : F (.mem p) = true) (hhbm : F (.hbm p) = true) :
    view F (undecoded s p b bad) = view F s := by
  simp only [undecoded, ↓poisonedTile_view, ↓errEvent_view, ↓chargeFlash_view, ↓onWear_view, ↓spend_view, ↓view_foldl,
    ↓apply_ite (view F), ite_self, implies_true, hfreeIx, hout, hparts, hwardrobe, hrel, hregs, hvec, hmem, hhbm]

theorem serveStalled_view (f : State → Nat → Stalled → State) (s : State) (p b : Nat)
    (keep : ∀ t w, view F (f t p w) = view F t) (hparts : F .parts = true) (hhbm : F (.hbm p) = true) :
    view F (serveStalled f s p b) = view F s := by
  simp only [serveStalled, ↓view_foldl _ _ keep, ↓onPart_view, ↓Partition_setBolt_view, hparts, hhbm]

theorem fetchDone_view (f : State → Nat → Stalled → State) (s : State) (p b : Nat) (bad : BitVec 16) (retries us : Nat)
    (keep : ∀ t w, view F (f t p w) = view F t) (hfreeIx : F .freeIx = true) (hout : F .out = true)
    (hparts : F .parts = true) (hwardrobe : F .wardrobe = true) (hrel : F .rel = true) (hregs : ∀ q, F (.regs q) = true)
    (hvec : ∀ q, F (.vec q) = true) (hmem : F (.mem p) = true) (hhbm : F (.hbm p) = true) :
    view F (fetchDone f s p b bad retries us) = view F s := by
  have touched : ∀ t, view F (onPart t p fun x => (boltTiles b).foldl (touchTile true) x) = view F t := fun t =>
    onPart_view _ _ _ hparts (viewPart_foldl _ _ fun x e => touchTile_view _ _ _ hhbm)
  simp only [fetchDone]
  split
  · simp only [↓serveStalled_view _ _ _ _ keep, ↓apply_ite (view F), ↓putReg_view, ↓touched, ↓checkTiles_view,
      ↓readFlash_view, ↓undecoded_view, ↓onPart_view, ↓Partition_setBolt_view, ite_self, implies_true, hfreeIx, hout,
      hparts, hwardrobe, hrel, hregs, hvec, hmem, hhbm]
  · rfl

theorem devViolation_view (s : State) (hmregs : F .mregs = true) : view F (devViolation s) = view F s := by
  simp only [devViolation, ↓putMreg_view, hmregs]

theorem hostReadNone_view (s : State) (p n : Nat) (hfreeIx : F .freeIx = true) (hout : F .out = true)
    (hparts : F .parts = true) (hregs : F (.regs p) = true) (hvec : F (.vec p) = true) :
    view F (hostReadNone s p n) = view F s := by
  simp only [hostReadNone, ↓errEvent_view, ↓spend_view, ↓emit_view, hfreeIx, hout, hparts, hregs, hvec]

theorem countStall_view (s : State) (p : Nat) (hparts : F .parts = true) (hregs : F (.regs p) = true) :
    view F (countStall s p) = view F s := by
  simp only [countStall, ↓onPart_view, ↓Partition_put_view, hparts, hregs]

theorem beginFetch_view {s : State} {p b : Nat} {t : State} (e : beginFetch s p b = some t) (hfreeIx : F .freeIx = true)
    (hout : F .out = true) (hparts : F .parts = true) (hwardrobe : F .wardrobe = true) (hrel : F .rel = true)
    (hvec : ∀ q, F (.vec q) = true) (hhbm : F (.hbm p) = true) : view F t = view F s := by
  unfold beginFetch at e
  split at e
  · obtain ⟨u, hu, rfl⟩ := Option.map_eq_some_iff.1 e
    simp only [↓freeFrame_view hu, ↓giveFrame_view, implies_true, hfreeIx, hout, hparts, hwardrobe, hrel, hvec, hhbm]
  · cases e
    rfl

theorem stallOn_view {s : State} {p b : Nat} {w : Stalled} {t : State} (e : stallOn s p b w = some t)
    (hfreeIx : F .freeIx = true) (hout : F .out = true) (hparts : F .parts = true) (hwardrobe : F .wardrobe = true)
    (hrel : F .rel = true) (hregs : F (.regs p) = true) (hvec : ∀ q, F (.vec q) = true) (hhbm : F (.hbm p) = true) :
    view F t = view F s := by
  unfold stallOn at e
  dsimp only at e
  obtain ⟨u, hu, rfl⟩ := Option.map_eq_some_iff.1 e
  simp only [↓beginFetch_view hu, ↓countStall_view, ↓onPart_view, ↓Partition_setBolt_view, implies_true, hfreeIx, hout,
    hparts, hwardrobe, hrel, hregs, hvec, hhbm]

theorem hostReadAt_view (s : State) (p : Nat) (ps : List (Option Nat)) (hfreeIx : F .freeIx = true)
    (hout : F .out = true) (hparts : F .parts = true) (hwardrobe : F .wardrobe = true) (hrel : F .rel = true)
    (hmregs : F .mregs = true) (hregs : ∀ q, F (.regs q) = true) (hvec : ∀ q, F (.vec q) = true)
    (hhbm : F (.hbm p) = true) : view F (hostReadAt s p ps) = view F s := by
  simp only [hostReadAt, ↓devViolation_view, ↓emit_view, ↓hostReadNone_view, ↓spend_view, ↓apply_ite (view F), hfreeIx,
    hout, hparts, hmregs, hregs, hvec]
  split
  · rfl
  · split
    · rfl
    · split
      · rfl
      · split
        · refine view_getD (fun t e => ?_) ?_
          · simp only [↓stallOn_view e, implies_true, hfreeIx, hout, hparts, hwardrobe, hrel, hregs, hvec, hhbm]
          · simp only [↓hostReadNone_view, hfreeIx, hout, hparts, hregs, hvec]
        · simp only [↓emit_view, ↓checkTiles_view, ↓touchTiles_view, ↓violationIf_view, implies_true, hout, hparts,
          hrel, hregs, hvec, hhbm]

theorem readyWrite_view {s : State} {p b : Nat} {t : State} (e : readyWrite s p b = some t) (hfreeIx : F .freeIx = true)
    (hout : F .out = true) (hparts : F .parts = true) (hwardrobe : F .wardrobe = true) (hrel : F .rel = true)
    (hvec : ∀ q, F (.vec q) = true) (hhbm : F (.hbm p) = true) : view F t = view F s := by
  unfold readyWrite at e
  dsimp only at e
  split at e
  · cases e
    rfl
  · cases e
    simp only [↓onPart_view, ↓Partition_setBolt_view, hparts, hhbm]
  · cases e
    simp only [↓onPart_view, ↓Partition_setBolt_view, hparts, hhbm]
  · cases e
    simp only [↓onPart_view, ↓Partition_setBolt_view, hparts, hhbm]
  · obtain ⟨u, hu, rfl⟩ := Option.map_eq_some_iff.1 e
    simp only [↓freeFrame_view hu, ↓giveFrame_view, implies_true, hfreeIx, hout, hparts, hwardrobe, hrel, hvec, hhbm]
  · obtain ⟨u, hu, rfl⟩ := Option.map_eq_some_iff.1 e
    simp only [↓freeFrame_view hu, ↓onPart_view, ↓Partition_setBolt_view, ↓giveFrame_view, implies_true, hfreeIx, hout,
      hparts, hwardrobe, hrel, hvec, hhbm]

theorem plainTileWrite_view {q : Nat} (x : Partition) (off : Nat) (bs : List Byte) (sat aud poi : Bool)
    (hmem : F (.mem q) = true) (hhbm : F (.hbm q) = true) :
    viewPart F q (plainTileWrite x off bs sat aud poi) = viewPart F q x := by
  simp only [plainTileWrite, ↓putTile_view, hmem, hhbm]

theorem hostPutByte_view {q : Nat} (x : Partition) (a : Nat) (b : Byte) (hmem : F (.mem q) = true)
    (hhbm : F (.hbm q) = true) : viewPart F q (hostPutByte x a b) = viewPart F q x := by
  simp only [hostPutByte, ↓plainTileWrite_view, hmem, hhbm]

theorem hostWriteAt_view (s : State) (p : Nat) (ps : List (Option Nat)) (data : List Byte) (hfreeIx : F .freeIx = true)
    (hout : F .out = true) (hparts : F .parts = true) (hwardrobe : F .wardrobe = true) (hrel : F .rel = true)
    (hmregs : F .mregs = true) (hregs : F (.regs p) = true) (hvec : ∀ q, F (.vec q) = true) (hmem : F (.mem p) = true)
    (hhbm : F (.hbm p) = true) : view F (hostWriteAt s p ps data) = view F s := by
  have hole (t : State) : view F (errEvent t p 11) = view F t := errEvent_view t p 11 hout hparts hregs (hvec p)
  unfold hostWriteAt
  dsimp only
  split
  · exact devViolation_view s hmregs
  · split
    · exact hole s
    · split
      · rfl
      · split
        · exact view_getD (fun t e => stallOn_view e hfreeIx hout hparts hwardrobe hrel hregs hvec hhbm) (hole s)
        · split
          · exact hole s
          next t e =>
            have ready : view F t = view F s :=
              readyAll_view e fun e => readyWrite_view e hfreeIx hout hparts hwardrobe hrel hvec hhbm
            rw [violationIf_view _ _ _ hparts hregs]
            refine (onPart_view _ _ _ hparts (viewPart_foldl _ _ fun y e => ?_)).trans ready
            split
            · exact hostPutByte_view _ _ _ hmem hhbm
            · rfl

theorem serve_view (s : State) (p : Nat) (x1 : Stalled) (hfreeIx : F .freeIx = true) (hout : F .out = true)
    (hparts : F .parts = true) (hwardrobe : F .wardrobe = true) (hrel : F .rel = true) (hmregs : F .mregs = true)
    (hregs : ∀ q, F (.regs q) = true) (hvec : ∀ q, F (.vec q) = true) (hmem : F (.mem p) = true)
    (hhbm : F (.hbm p) = true) : view F (serve s p x1) = view F s := by
  simp only [serve]
  split
  · simp only [↓hostReadAt_view, implies_true, hfreeIx, hout, hparts, hwardrobe, hrel, hmregs, hregs, hvec, hhbm]
  · simp only [↓hostWriteAt_view, implies_true, hfreeIx, hout, hparts, hwardrobe, hrel, hmregs, hregs, hvec, hmem, hhbm]
  · rfl

theorem fetchNow_view {s : State} {p b : Nat} {t : State} (e : fetchNow s p b = some t) (hfreeIx : F .freeIx = true)
    (hout : F .out = true) (hparts : F .parts = true) (hwardrobe : F .wardrobe = true) (hrel : F .rel = true)
    (hmregs : F .mregs = true) (hregs : ∀ q, F (.regs q) = true) (hvec : ∀ q, F (.vec q) = true)
    (hmem : ∀ q, F (.mem q) = true) (hhbm : ∀ q, F (.hbm q) = true) : view F t = view F s := by
  unfold fetchNow at e
  dsimp only at e
  split at e
  · obtain ⟨u, hu, rfl⟩ := Option.map_eq_some_iff.1 e
    simp only [↓beginFetch_view hu, ↓fetchDone_view, ↓serve_view, ↓spend_view, ↓countStall_view, ↓putReg_view,
      implies_true, hfreeIx, hout, hparts, hwardrobe, hrel, hmregs, hregs, hvec, hmem, hhbm]
  · cases e
    rfl

theorem engineReady_view {s : State} {p b : Nat} {t : State} (e : engineReady s p b = some t)
    (hfreeIx : F .freeIx = true) (hout : F .out = true) (hparts : F .parts = true) (hwardrobe : F .wardrobe = true)
    (hrel : F .rel = true) (hmregs : F .mregs = true) (hregs : ∀ q, F (.regs q) = true) (hvec : ∀ q, F (.vec q) = true)
    (hmem : ∀ q, F (.mem q) = true) (hhbm : ∀ q, F (.hbm q) = true) : view F t = view F s := by
  unfold engineReady at e
  obtain ⟨u, hu, e⟩ := Option.bind_eq_some_iff.1 e
  simp only [↓fetchNow_view hu, ↓readyWrite_view e, implies_true, hfreeIx, hout, hparts, hwardrobe, hrel, hmregs, hregs,
    hvec, hmem, hhbm]

theorem fetchPoison_view (s : State) (p : Nat) (x1 : Option Nat) (hfreeIx : F .freeIx = true) (hout : F .out = true)
    (hparts : F .parts = true) (hwardrobe : F .wardrobe = true) (hrel : F .rel = true) (hmregs : F .mregs = true)
    (hregs : ∀ q, F (.regs q) = true) (hvec : ∀ q, F (.vec q) = true) (hmem : ∀ q, F (.mem q) = true)
    (hhbm : ∀ q, F (.hbm q) = true) : view F (fetchPoison s p x1) = view F s := by
  simp only [fetchPoison]
  split
  · simp only [↓violation_view, hparts, hregs]
  · split
    · simp only [↓errEvent_view, hout, hparts, hregs, hvec]
    next x t e => simp only [↓engineReady_view e, ↓poisonedTile_view, implies_true, hfreeIx, hout, hparts, hwardrobe,
      hrel, hmregs, hregs, hvec, hmem, hhbm]

theorem fetchTile_view (s : State) (p : Nat) (pay : List Byte) (c : Collar) (x1 : Option Nat)
    (hfreeIx : F .freeIx = true) (hout : F .out = true) (hparts : F .parts = true) (hwardrobe : F .wardrobe = true)
    (hrel : F .rel = true) (hmregs : F .mregs = true) (hregs : ∀ q, F (.regs q) = true) (hvec : ∀ q, F (.vec q) = true)
    (hmem : ∀ q, F (.mem q) = true) (hhbm : ∀ q, F (.hbm q) = true) : view F (fetchTile s p pay c x1).1 = view F s := by
  simp only [fetchTile]
  split
  · simp only [↓violation_view, hparts, hregs]
  · split
    · split
      next x t e => simp only [↓engineReady_view e, ↓onPart_view, ↓putTile_view, implies_true, hfreeIx, hout, hparts,
        hwardrobe, hrel, hmregs, hregs, hvec, hmem, hhbm]
      · simp only [↓errEvent_view, hout, hparts, hregs, hvec]
    · simp only [↓fetchPoison_view, ↓tileFailed_view, implies_true, hfreeIx, hout, hparts, hwardrobe, hrel, hmregs,
      hregs, hvec, hmem, hhbm]

theorem onPkOp_view (s : State) (p idx : Nat) (f : PocketOp → PocketOp) (hparts : F .parts = true)
    (hpart : F (.part p) = true) : view F (onPkOp s p idx f) = view F s := by
  simp only [onPkOp, ↓onPart_view_part, hparts, hpart]

theorem hostAsk_view {s : State} {p : Nat} {kind : HostKind} {a n : Nat} {e : Nat → Emit} {t : State}
    (e : hostAsk s p kind a n e = some t) (hout : F .out = true) (hparts : F .parts = true) (hpart : F (.part p) = true)
    : view F t = view F s := by
  unfold hostAsk at e
  dsimp only at e
  obtain ⟨u, hu, rfl⟩ := Option.map_eq_some_iff.1 e
  simp only [↓emit_view, ↓onPart_view_part, hout, hparts, hpart]

theorem hostGet_view {s : State} {p : Nat} {kind : HostKind} {a n : Nat} {t : State} (e : hostGet s p kind a n = some t)
    (hout : F .out = true) (hparts : F .parts = true) (hpart : F (.part p) = true) : view F t = view F s := by
  unfold hostGet at e
  simp only [↓hostAsk_view e, hout, hparts, hpart]

theorem deliver_view (s : State) (m : Msg) (hout : F .out = true) (hfabric : F .fabric = true) :
    view F (deliver s m) = view F s := by
  simp only [deliver, ↓emit_view, ↓view_mk, true_or, or_true, hout, hfabric]

theorem putPort_view (s : State) (c : Nat) (x : Port) (hfabric : F .fabric = true) :
    view F (putPort s c x) = view F s := by
  simp only [putPort, ↓view_mk, true_or, or_true, hfabric]

theorem onPort_view (s : State) (c : Nat) (f : Port → Port) (hfabric : F .fabric = true) :
    view F (onPort s c f) = view F s := by
  simp only [onPort, ↓putPort_view, hfabric]

theorem newMid_view (s : State) (hfabric : F .fabric = true) : view F (newMid s) = view F s := by
  simp only [newMid, ↓view_mk, true_or, or_true, hfabric]

theorem enqueue_view (s : State) (c vc : Nat) (dl : Bool) (bs : List Byte) (hfabric : F .fabric = true) :
    view F (enqueue s c vc dl bs) = view F s := by
  simp only [enqueue, ↓onPort_view, ↓newMid_view, ↓apply_ite (view F), ite_self, hfabric]

theorem putGateway_view (s : State) (g : DevId) (x : Gateway) (hfabric : F .fabric = true) :
    view F (putGateway s g x) = view F s := by
  simp only [putGateway, ↓view_mk, true_or, or_true, hfabric]

theorem sendGram_view (s : State) (gw : DevId) (kind : Nat) (g : TunnelGram) (hout : F .out = true) :
    view F (sendGram s gw kind g) = view F s := by
  simp only [sendGram, ↓emit_view, ↓apply_ite (view F), ite_self, hout]

theorem tunnelOut_view (s : State) (sp : Nat) (gw src dst : DevId) (fs : List Flit) (hout : F .out = true)
    (hfabric : F .fabric = true) : view F (tunnelOut s sp gw src dst fs) = view F s := by
  simp only [tunnelOut, ↓putGateway_view, ↓sendGram_view, ↓view_foldl, ↓apply_ite (view F), ite_self, implies_true,
    hout, hfabric]

theorem countNoRoute_view (s : State) (hfabric : F .fabric = true) : view F (countNoRoute s) = view F s := by
  simp only [countNoRoute, ↓view_mk, true_or, or_true, hfabric]

theorem routeOut_view (s : State) (mask : BitVec 18) (m wire : Msg) (hout : F .out = true) (hfabric : F .fabric = true)
    : view F (routeOut s mask m wire) = view F s := by
  simp only [routeOut]
  split
  · simp only [↓deliver_view, hout, hfabric]
  · simp only [↓enqueue_view, hfabric]
  · simp only [↓tunnelOut_view, ↓apply_ite (view F), ite_self, hout, hfabric]
  · simp only [↓deliver_view, ↓countNoRoute_view, ↓apply_ite (view F), ite_self, hout, hfabric]

theorem countMsg_view (s : State) (die : Bool) (hfabric : F .fabric = true) : view F (countMsg s die) = view F s := by
  simp only [countMsg, ↓view_mk, ↓apply_ite (view F), ite_self, true_or, or_true, hfabric]

theorem sendOnDie_view (s : State) (mask : BitVec 18) (die : Bool) (m : Msg) (hout : F .out = true)
    (hfabric : F .fabric = true) : view F (sendOnDie s mask die m) = view F s := by
  simp only [sendOnDie, ↓deliver_view, ↓routeOut_view, ↓countMsg_view, ↓apply_ite (view F), hout, hfabric]
  split
  · rfl
  · split
    · rfl
    · split
      · rfl
      · simp only [↓routeOut_view, ↓countMsg_view, hout, hfabric]

theorem sendRequestOn_view (s : State) (mask : BitVec 18) (die : Bool) (p c : Nat) (kind : ReqKind) (m : Msg)
    (hout : F .out = true) (hfabric : F .fabric = true) :
    view F (sendRequestOn s mask die p c kind m).1 = view F s := by
  simp only [sendRequestOn]
  split
  · rfl
  · simp only [↓sendOnDie_view, ↓view_mk, true_or, or_true, hout, hfabric]

theorem sendRequest_view (s : State) (mask : BitVec 18) (p c : Nat) (kind : ReqKind) (m : Msg) (hout : F .out = true)
    (hfabric : F .fabric = true) : view F (sendRequest s mask p c kind m).1 = view F s := by
  simp only [sendRequest, ↓sendRequestOn_view, hout, hfabric]

theorem fetchUnit_view (s : State) (p idx : Nat) (e : PkEntry) (u : Nat) (hout : F .out = true)
    (hparts : F .parts = true) (hfabric : F .fabric = true) (hpart : F (.part p) = true) :
    view F (fetchUnit s p idx e u).1 = view F s := by
  simp only [fetchUnit]
  split
  · split
    next x t e' => simp only [↓hostGet_view e', hout, hparts, hpart]
    · rfl
  · split
    · simp only [↓sendRequest_view, hout, hfabric]
    · rfl

theorem stashView_view {q : Nat} (x : Partition) (o : PocketOp) (b : Nat) (hmem : F (.mem q) = true) :
    viewPart F q (stashView x o b) = viewPart F q x := by
  simp only [stashView, ↓viewPart_mk, ↓apply_ite (viewPart F q), ite_self, true_or, or_true, hmem]

theorem stashRead_view (s : State) (p : Nat) (e : PkEntry) (o : PocketOp) (u : Nat) (hfreeIx : F .freeIx = true)
    (hout : F .out = true) (hparts : F .parts = true) (hwardrobe : F .wardrobe = true) (hrel : F .rel = true)
    (hmregs : F .mregs = true) (hregs : ∀ q, F (.regs q) = true) (hvec : ∀ q, F (.vec q) = true)
    (hmem : ∀ q, F (.mem q) = true) (hhbm : ∀ q, F (.hbm q) = true) : view F (stashRead s p e o u).1 = view F s := by
  simp only [stashRead]
  split
  · simp only [↓violation_view, hparts, hregs]
  · split
    · rfl
    next x t e' => simp only [↓fetchNow_view e', ↓touchTiles_view, ↓apply_ite (view F), ite_self, implies_true, hfreeIx,
      hout, hparts, hwardrobe, hrel, hmregs, hregs, hvec, hmem, hhbm]

theorem hostPut_view {s : State} {p : Nat} {kind : HostKind} {a : Nat} {bs : List Byte} {poison : Bool} {t : State}
    (e : hostPut s p kind a bs poison = some t) (hout : F .out = true) (hparts : F .parts = true)
    (hpart : F (.part p) = true) : view F t = view F s := by
  unfold hostPut at e
  simp only [↓hostAsk_view e, hout, hparts, hpart]

theorem stashUnit_view (s : State) (p idx : Nat) (e : PkEntry) (o : PocketOp) (u : Nat) (hfreeIx : F .freeIx = true)
    (hout : F .out = true) (hparts : F .parts = true) (hfabric : F .fabric = true) (hwardrobe : F .wardrobe = true)
    (hrel : F .rel = true) (hmregs : F .mregs = true) (hpart : F (.part p) = true) (hregs : ∀ q, F (.regs q) = true)
    (hvec : ∀ q, F (.vec q) = true) (hmem : ∀ q, F (.mem q) = true) (hhbm : ∀ q, F (.hbm q) = true) :
    view F (stashUnit s p idx e o u).1 = view F s := by
  have read := stashRead_view s p e o u hfreeIx hout hparts hwardrobe hrel hmregs hregs hvec hmem hhbm
  unfold stashUnit
  dsimp only
  split
  · rfl
  · split
    · rfl
    next s1 tile e1 =>
      rw [e1] at read
      split
      · split
        next s2 e2 => exact (hostPut_view e2 hout hparts hpart).trans read
        · exact read
      · split
        · exact (sendRequest_view _ _ _ _ _ _ hout hfabric).trans read
        · rfl

theorem pkPump_view (p idx fuel : Nat) (s : State) (hfreeIx : F .freeIx = true) (hout : F .out = true)
    (hparts : F .parts = true) (hfabric : F .fabric = true) (hwardrobe : F .wardrobe = true) (hrel : F .rel = true)
    (hmregs : F .mregs = true) (hpart : F (.part p) = true) (hregs : ∀ q, F (.regs q) = true)
    (hvec : ∀ q, F (.vec q) = true) (hmem : ∀ q, F (.mem q) = true) (hhbm : ∀ q, F (.hbm q) = true) :
    view F (pkPump p idx fuel s) = view F s := by
  induction fuel generalizing s with
  | zero => rfl
  | succ fuel ih =>
    have fetched (e : PkEntry) (u : Nat) : view F (fetchUnit s p idx e u).1 = view F s :=
      fetchUnit_view _ _ _ _ _ hout hparts hfabric hpart
    have stashed (e : PkEntry) (o : PocketOp) (u : Nat) : view F (stashUnit s p idx e o u).1 = view F s :=
      stashUnit_view _ _ _ _ _ _ hfreeIx hout hparts hfabric hwardrobe hrel hmregs hpart hregs hvec hmem hhbm
    rw [pkPump]
    dsimp only
    split
    · rfl
    · split
      · rfl
      · split
        · rfl
        · rw [ih, onPkOp_view _ _ _ _ hparts hpart]
          split
          · exact fetched ..
          · exact stashed ..
        · rw [ih, onPkOp_view _ _ _ _ hparts hpart]
          split
          · refine (view_foldl _ _ fun t i => ?_).trans (fetched ..)
            exact fetchPoison_view _ _ _ hfreeIx hout hparts hwardrobe hrel hmregs hregs hvec hmem hhbm
          · exact stashed ..

theorem pkReply_view (s : State) (p idx : Nat) (fails : List Nat) (hfreeIx : F .freeIx = true) (hout : F .out = true)
    (hparts : F .parts = true) (hfabric : F .fabric = true) (hwardrobe : F .wardrobe = true) (hrel : F .rel = true)
    (hmregs : F .mregs = true) (hpart : F (.part p) = true) (hregs : ∀ q, F (.regs q) = true)
    (hvec : ∀ q, F (.vec q) = true) (hmem : ∀ q, F (.mem q) = true) (hhbm : ∀ q, F (.hbm q) = true) :
    view F (pkReply s p idx fails) = view F s := by
  simp only [pkReply, ↓onPkOp_view, ↓pkPump_view, implies_true, hfreeIx, hout, hparts, hfabric, hwardrobe, hrel, hmregs,
    hpart, hregs, hvec, hmem, hhbm]

theorem pkHostArrive_view (s : State) (p idx k : Nat) (data : List Byte) (bad : Bool) (hfreeIx : F .freeIx = true)
    (hout : F .out = true) (hparts : F .parts = true) (hfabric : F .fabric = true) (hwardrobe : F .wardrobe = true)
    (hrel : F .rel = true) (hmregs : F .mregs = true) (hpart : F (.part p) = true) (hregs : ∀ q, F (.regs q) = true)
    (hvec : ∀ q, F (.vec q) = true) (hmem : ∀ q, F (.mem q) = true) (hhbm : ∀ q, F (.hbm q) = true) :
    view F (pkHostArrive s p idx k data bad) = view F s := by
  simp only [pkHostArrive]
  split
  · rfl
  · simp only [↓pkReply_view, implies_true, hfreeIx, hout, hparts, hfabric, hwardrobe, hrel, hmregs, hpart, hregs, hvec,
    hmem, hhbm]
    refine (view_foldl_fst _ _ fun r e => ?_).trans ?_
    · split
      · simp only [↓fetchTile_view, implies_true, hfreeIx, hout, hparts, hwardrobe, hrel, hmregs, hregs, hvec, hmem,
        hhbm]
      · simp only [↓fetchPoison_view, implies_true, hfreeIx, hout, hparts, hwardrobe, hrel, hmregs, hregs, hvec, hmem,
        hhbm]
    · rfl

theorem setTags_view (s : State) (a n tags : Nat) (htags : F .tags = true) :
    view F (setTags s a n tags) = view F s := by
  simp only [setTags, ↓view_mk, true_or, or_true, htags]

theorem noteCode_view (s : State) (a n : Nat) (hcores : F .cores = true) : view F (noteCode s a n) = view F s := by
  simp only [noteCode, ↓apply_ite (view F)]
  split
  · rfl
  · split
    · rfl
    · simp only [↓onCore_view, ↓view_foldl, ↓apply_ite (view F), ite_self, implies_true, hcores]

theorem putStore_view (s : State) (a : Nat) (bs : List Byte) (hcores : F .cores = true) (hstores : F .stores = true) :
    view F (putStore s a bs) = view F s := by
  simp only [putStore, ↓noteCode_view, ↓view_mk, true_or, or_true, hcores, hstores]

theorem devWriteRun_view (base : Bool) (s : State) (p a : Nat) (bs : List Byte) (hfreeIx : F .freeIx = true)
    (hout : F .out = true) (hcores : F .cores = true) (hstores : F .stores = true) (htags : F .tags = true)
    (hparts : F .parts = true) (hwardrobe : F .wardrobe = true) (hrel : F .rel = true) (hregs : F (.regs p) = true)
    (hvec : ∀ q, F (.vec q) = true) (hmem : F (.mem p) = true) (hhbm : F (.hbm p) = true) :
    view F (devWriteRun base s p a bs).1 = view F s := by
  simp only [devWriteRun]
  split
  · simp only [↓setTags_view, ↓putStore_view, hcores, hstores, htags]
  · simp only [↓view_mk, steady, and_self, ↓apply_ite (view F), ite_self, true_or, or_true, hstores]
  · split
    · rfl
    · split
      next x t e => simp only [↓readyWrite_view e, ↓onPart_view, ↓plainTileWrite_view, implies_true, hfreeIx, hout,
        hparts, hwardrobe, hrel, hvec, hmem, hhbm]
      · simp only [↓errEvent_view, hout, hparts, hregs, hvec]
  · rfl

theorem devWriteBy_view (base : Bool) (s : State) (p a : Nat) (bs : List Byte) (hfreeIx : F .freeIx = true)
    (hout : F .out = true) (hcores : F .cores = true) (hstores : F .stores = true) (htags : F .tags = true)
    (hparts : F .parts = true) (hwardrobe : F .wardrobe = true) (hrel : F .rel = true) (hregs : F (.regs p) = true)
    (hvec : ∀ q, F (.vec q) = true) (hmem : F (.mem p) = true) (hhbm : F (.hbm p) = true) :
    view F (devWriteBy base s p a bs) = view F s := by
  simp only [devWriteBy, ↓violationIf_view, hparts, hregs]
  refine (view_foldl_fst _ _ fun r e => ?_).trans ?_
  · simp only []
    split
    · simp only [↓devWriteRun_view, implies_true, hfreeIx, hout, hcores, hstores, htags, hparts, hwardrobe, hrel, hregs,
      hvec, hmem, hhbm]
    · rfl
  · rfl

theorem devWrite_view (s : State) (p a : Nat) (bs : List Byte) (hfreeIx : F .freeIx = true) (hout : F .out = true)
    (hcores : F .cores = true) (hstores : F .stores = true) (htags : F .tags = true) (hparts : F .parts = true)
    (hwardrobe : F .wardrobe = true) (hrel : F .rel = true) (hregs : F (.regs p) = true) (hvec : ∀ q, F (.vec q) = true)
    (hmem : F (.mem p) = true) (hhbm : F (.hbm p) = true) : view F (devWrite s p a bs) = view F s := by
  simp only [devWrite, ↓devWriteBy_view, implies_true, hfreeIx, hout, hcores, hstores, htags, hparts, hwardrobe, hrel,
    hregs, hvec, hmem, hhbm]

theorem txEnd_view (s : State) (p n status : Nat) (hfreeIx : F .freeIx = true) (hout : F .out = true)
    (hcores : F .cores = true) (hstores : F .stores = true) (htags : F .tags = true) (hparts : F .parts = true)
    (hwardrobe : F .wardrobe = true) (hrel : F .rel = true) (hregs : F (.regs p) = true) (hvec : ∀ q, F (.vec q) = true)
    (hmem : F (.mem p) = true) (hhbm : F (.hbm p) = true) : view F (txEnd s p n status) = view F s := by
  simp only [txEnd, ↓devWrite_view, ↓putReg_view, ↓msix_view, ↓apply_ite (view F), ite_self, implies_true, hfreeIx,
    hout, hcores, hstores, htags, hparts, hwardrobe, hrel, hregs, hvec, hmem, hhbm]

theorem txSend_view (s : State) (p n flg : Nat) (f : List Byte) (hfreeIx : F .freeIx = true) (hout : F .out = true)
    (hcores : F .cores = true) (hstores : F .stores = true) (htags : F .tags = true) (hparts : F .parts = true)
    (hwardrobe : F .wardrobe = true) (hrel : F .rel = true) (hregs : F (.regs p) = true) (hvec : ∀ q, F (.vec q) = true)
    (hmem : F (.mem p) = true) (hhbm : F (.hbm p) = true) : view F (txSend s p n flg f) = view F s := by
  simp only [txSend, ↓txEnd_view, ↓emit_view, ↓apply_ite (view F), ite_self, implies_true, hfreeIx, hout, hcores,
    hstores, htags, hparts, hwardrobe, hrel, hregs, hvec, hmem, hhbm]

theorem svcReadDone_view (s : State) (p n : Nat) (data : List Byte) (poison : Bool) (hfreeIx : F .freeIx = true)
    (hout : F .out = true) (hcores : F .cores = true) (hstores : F .stores = true) (htags : F .tags = true)
    (hparts : F .parts = true) (hwardrobe : F .wardrobe = true) (hrel : F .rel = true) (hregs : F (.regs p) = true)
    (hvec : ∀ q, F (.vec q) = true) (hmem : F (.mem p) = true) (hhbm : F (.hbm p) = true) :
    view F (svcReadDone s p n data poison) = view F s := by
  simp only [svcReadDone, ↓txEnd_view, ↓txSend_view, ↓apply_ite (view F), ite_self, implies_true, hfreeIx, hout, hcores,
    hstores, htags, hparts, hwardrobe, hrel, hregs, hvec, hmem, hhbm]

theorem hostEnd_view (s : State) (p : Nat) (r : HostReq) (res : Option (List Byte × Bool)) (hfreeIx : F .freeIx = true)
    (hout : F .out = true) (hcores : F .cores = true) (hstores : F .stores = true) (htags : F .tags = true)
    (hparts : F .parts = true) (hfabric : F .fabric = true) (hwardrobe : F .wardrobe = true) (hrel : F .rel = true)
    (hmregs : F .mregs = true) (hpart : F (.part p) = true) (hregs : ∀ q, F (.regs q) = true)
    (hvec : ∀ q, F (.vec q) = true) (hmem : ∀ q, F (.mem q) = true) (hhbm : ∀ q, F (.hbm q) = true) :
    view F (hostEnd s p r res) = view F s := by
  simp only [hostEnd]
  split
  · split
    · simp only [↓dropHostReq_view, ↓onDma_view, hcores, hparts, hpart]
    · simp only [↓dropHostReq_view, ↓onDma_view, ↓stagePoison_view, hfreeIx, hcores, hparts, hpart]
  · simp only [↓dropHostReq_view, ↓onDma_view, hcores, hparts, hpart]
  · simp only [↓dropHostReq_view, ↓pkHostArrive_view, implies_true, hfreeIx, hout, hparts, hfabric, hwardrobe, hrel,
    hmregs, hpart, hregs, hvec, hmem, hhbm]
  · simp only [↓dropHostReq_view, ↓pkReply_view, implies_true, hfreeIx, hout, hparts, hfabric, hwardrobe, hrel, hmregs,
    hpart, hregs, hvec, hmem, hhbm]
  · simp only [↓dropHostReq_view, ↓onPart_view_part, ↓apply_ite (view F), ite_self, hparts, hpart]
  · simp only [↓dropHostReq_view, ↓svcReadDone_view, implies_true, hfreeIx, hout, hcores, hstores, htags, hparts,
    hwardrobe, hrel, hpart, hregs, hvec, hmem, hhbm]
  · simp only [↓dropHostReq_view, hparts, hpart]
  · simp only [↓dropHostReq_view, ↓errEvent_view, ↓apply_ite (view F), ite_self, hout, hparts, hpart, hregs, hvec]

theorem endHostReqs_view (s : State) (p x1 : Nat) (hfreeIx : F .freeIx = true) (hout : F .out = true)
    (hcores : F .cores = true) (hstores : F .stores = true) (htags : F .tags = true) (hparts : F .parts = true)
    (hfabric : F .fabric = true) (hwardrobe : F .wardrobe = true) (hrel : F .rel = true) (hmregs : F .mregs = true)
    (hpart : F (.part p) = true) (hregs : ∀ q, F (.regs q) = true) (hvec : ∀ q, F (.vec q) = true)
    (hmem : ∀ q, F (.mem q) = true) (hhbm : ∀ q, F (.hbm q) = true) : view F (endHostReqs s p x1) = view F s := by
  simp only [endHostReqs, ↓hostEnd_view, ↓view_foldl, implies_true, hfreeIx, hout, hcores, hstores, htags, hparts,
    hfabric, hwardrobe, hrel, hmregs, hpart, hregs, hvec, hmem, hhbm]

theorem unbindLd_view (s : State) (x1 p : Nat) (hfreeIx : F .freeIx = true) (hout : F .out = true)
    (hcores : F .cores = true) (hstores : F .stores = true) (htags : F .tags = true) (hparts : F .parts = true)
    (hfabric : F .fabric = true) (hwardrobe : F .wardrobe = true) (hrel : F .rel = true) (hmregs : F .mregs = true)
    (hpart : F (.part p) = true) (hregs : ∀ q, F (.regs q) = true) (hvec : ∀ q, F (.vec q) = true)
    (hmem : ∀ q, F (.mem q) = true) (hhbm : ∀ q, F (.hbm q) = true) : view F (unbindLd s x1 p) = view F s := by
  simp only [unbindLd, ↓endHostReqs_view, ↓onPart_view_part, implies_true, hfreeIx, hout, hcores, hstores, htags,
    hparts, hfabric, hwardrobe, hrel, hmregs, hpart, hregs, hvec, hmem, hhbm]

theorem hostDown_view (s : State) (x1 : Nat) (hfreeIx : F .freeIx = true) (hout : F .out = true)
    (hcores : F .cores = true) (hstores : F .stores = true) (htags : F .tags = true) (hparts : F .parts = true)
    (hfabric : F .fabric = true) (hwardrobe : F .wardrobe = true) (hrel : F .rel = true) (hmregs : F .mregs = true)
    (hpart : ∀ q, F (.part q) = true) (hregs : ∀ q, F (.regs q) = true) (hvec : ∀ q, F (.vec q) = true)
    (hmem : ∀ q, F (.mem q) = true) (hhbm : ∀ q, F (.hbm q) = true) : view F (hostDown s x1) = view F s := by
  simp only [hostDown, ↓charge_view, ↓putMreg_view, ↓unbindLd_view, ↓view_foldl, ↓apply_ite (view F), ite_self,
    implies_true, hfreeIx, hout, hcores, hstores, htags, hparts, hfabric, hwardrobe, hrel, hmregs, hpart, hregs, hvec,
    hmem, hhbm]

theorem beginEngineReset_view (s0 : State) (e : EngineId) (hfreeIx : F .freeIx = true) (hout : F .out = true)
    (hcores : F .cores = true) (hstores : F .stores = true) (htags : F .tags = true) (hparts : F .parts = true)
    (hfabric : F .fabric = true) (hwardrobe : F .wardrobe = true) (hrel : F .rel = true) (hmregs : F .mregs = true)
    (hpart : ∀ q, F (.part q) = true) (hregs : ∀ q, F (.regs q) = true) (hvec : ∀ q, F (.vec q) = true)
    (hmem : ∀ q, F (.mem q) = true) (hhbm : ∀ q, F (.hbm q) = true) : view F (beginEngineReset s0 e) = view F s0 := by
  simp only [beginEngineReset, ↓apply_ite (view F)]
  split
  · rfl
  · split
    · simp only [↓engineEvent_view, ↓resetPathUnit_view, ↓view_mk, steady, and_self, true_or, or_true, hout, hcores, hrel]
    · simp only [↓engineEvent_view, ↓resetSequencer_view, ↓view_mk, steady, and_self, true_or, or_true, hout, hcores, hrel]
    · simp only [↓engineEvent_view, ↓resetCollEngine_view, ↓view_mk, steady, and_self, true_or, or_true, implies_true,
        hfreeIx, hout,
      hparts, hrel, hpart]
    · simp only [↓engineEvent_view, ↓hostDown_view, ↓view_mk, steady, and_self, true_or, or_true, implies_true, hfreeIx,
        hout, hcores,
      hstores, htags, hparts, hfabric, hwardrobe, hrel, hmregs, hpart, hregs, hvec, hmem, hhbm]
    · simp only [↓engineEvent_view, ↓putMreg_view, ↓view_mk, steady, and_self, ↓apply_ite (view F), ite_self, true_or,
        or_true, hout,
      hrel, hmregs]
    · simp only [↓engineEvent_view, ↓view_mk, steady, and_self, true_or, or_true, hout, hrel]

theorem markTile_view {q : Nat} (x : Partition) (t : Nat) (pay : List Byte) (old : Collar) (hmem : F (.mem q) = true)
    (hhbm : F (.hbm q) = true) : viewPart F q (markTile x t pay old) = viewPart F q x := by
  simp only [markTile, ↓putTile_view, ↓Partition_setBolt_view, ↓apply_ite (viewPart F q), ite_self, hmem, hhbm]

theorem cacheEvent_view (s : State) (p t l word : Nat) (hard : Bool) (hfreeIx : F .freeIx = true) (hout : F .out = true)
    (hparts : F .parts = true) (hrel : F .rel = true) (hpart : F (.part p) = true) (hregs : ∀ q, F (.regs q) = true)
    (hvec : ∀ q, F (.vec q) = true) : view F (cacheEvent s p t l word hard) = view F s := by
  simp only [cacheEvent, ↓charge_view, ↓errEvent_view, ↓spend_view, ↓putPart_view_part, ↓apply_ite (view F), ite_self,
    implies_true, hfreeIx, hout, hparts, hrel, hpart, hregs, hvec]

theorem when_view {c : Bool} {s t : State} (h : view F t = view F s) : view F (when_ c s t) = view F s := by
  cases c
  · rfl
  · exact h

theorem putDie_view (s : State) (d : Nat) (x : HbmDie) (hrel : F .rel = true) : view F (putDie s d x) = view F s := by
  simp only [putDie, ↓view_mk, steady, and_self, true_or, or_true, hrel]

theorem markDie_view (s : State) (d : Nat) (hout : F .out = true) (hparts : F .parts = true) (hrel : F .rel = true)
    (hregs : ∀ q, F (.regs q) = true) (hvec : ∀ q, F (.vec q) = true) : view F (markDie s d) = view F s := by
  simp only [markDie, ↓charge_view, ↓putDie_view, ↓apply_ite (view F), ite_self, implies_true, hout, hparts, hrel,
    hregs, hvec]

theorem hbmEvent_view (s : State) (p t b d0 : Nat) (o : HbmOutcome) (hfreeIx : F .freeIx = true) (hout : F .out = true)
    (hparts : F .parts = true) (hrel : F .rel = true) (hpart : F (.part p) = true) (hregs : ∀ q, F (.regs q) = true)
    (hvec : ∀ q, F (.vec q) = true) : view F (hbmEvent s p t b d0 o) = view F s := by
  simp only [hbmEvent]
  split
  · rfl
  · simp only [↓putDie_view, ↓markDie_view, ↓errEvent_view, ↓charge_view, implies_true, hout, hparts, hrel, hregs, hvec]
  · simp only [↓putDie_view, ↓markDie_view, ↓errEvent_view, ↓charge_view, ↓putPart_view_part, ↓spend_view, ↓apply_ite
    (view F), ite_self, implies_true, hfreeIx, hout, hparts, hrel, hpart, hregs, hvec]
  · simp only [↓putDie_view, ↓markDie_view, ↓errEvent_view, ↓charge_view, ↓putPart_view_part, ↓spend_view, ↓apply_ite
    (view F), ite_self, implies_true, hfreeIx, hout, hparts, hrel, hpart, hregs, hvec]

theorem memFault_view (s : State) (x1 : MemFault) (hfreeIx : F .freeIx = true) (hout : F .out = true)
    (hcores : F .cores = true) (hstores : F .stores = true) (htags : F .tags = true) (hparts : F .parts = true)
    (hfabric : F .fabric = true) (hwardrobe : F .wardrobe = true) (hrel : F .rel = true) (hmregs : F .mregs = true)
    (hpart : ∀ q, F (.part q) = true) (hregs : ∀ q, F (.regs q) = true) (hvec : ∀ q, F (.vec q) = true)
    (hmem : ∀ q, F (.mem q) = true) (hhbm : ∀ q, F (.hbm q) = true) : view F (memFault s x1) = view F s := by
  simp only [memFault]
  split
  · simp only [↓storeEvent_view, implies_true, hout, htags, hparts, hrel, hregs, hvec]
  · simp only [↓charge_view, implies_true, hout, hparts, hrel, hregs, hvec]
  · simp only [↓charge_view, ↓beginEngineReset_view, implies_true, hfreeIx, hout, hcores, hstores, htags, hparts,
    hfabric, hwardrobe, hrel, hmregs, hpart, hregs, hvec, hmem, hhbm]
  · simp only [↓charge_view, implies_true, hout, hparts, hrel, hregs, hvec]
  · simp only [↓cacheEvent_view, implies_true, hfreeIx, hout, hparts, hrel, hpart, hregs, hvec]
  · simp only [↓when_view, ↓hbmEvent_view, implies_true, hfreeIx, hout, hparts, hrel, hpart, hregs, hvec]

theorem memFaults_view (s : State) (fs : List MemFault) (hfreeIx : F .freeIx = true) (hout : F .out = true)
    (hcores : F .cores = true) (hstores : F .stores = true) (htags : F .tags = true) (hparts : F .parts = true)
    (hfabric : F .fabric = true) (hwardrobe : F .wardrobe = true) (hrel : F .rel = true) (hmregs : F .mregs = true)
    (hpart : ∀ q, F (.part q) = true) (hregs : ∀ q, F (.regs q) = true) (hvec : ∀ q, F (.vec q) = true)
    (hmem : ∀ q, F (.mem q) = true) (hhbm : ∀ q, F (.hbm q) = true) : view F (memFaults s fs) = view F s := by
  simp only [memFaults, ↓memFault_view, ↓view_foldl, implies_true, hfreeIx, hout, hcores, hstores, htags, hparts,
    hfabric, hwardrobe, hrel, hmregs, hpart, hregs, hvec, hmem, hhbm]

theorem barCRelease_view (s : State) (h : Nat) (hcores : F .cores = true) (hclusters : F .clusters = true) :
    view F (barCRelease s h) = view F s := by
  refine when_view ((view_foldl _ _ fun t g => endWaits_view _ _ _ hcores).trans ?_)
  exact onClus_view _ _ _ hclusters

theorem barPRelease_view (s : State) (p c b : Nat) (hcores : F .cores = true) (hparts : F .parts = true)
    (hpart : F (.part p) = true) : view F (barPRelease s p c b) = view F s := by
  simp only [barPRelease, ↓when_view, ↓releaseBarP_view, hcores, hparts, hpart]

theorem fenceComplete_view (s : State) (g : Nat) (hcores : F .cores = true) :
    view F (fenceComplete s g) = view F s := by
  simp only [fenceComplete, ↓endWaits_view, hcores]

theorem watchdogExpires_view (s : State) (g : Nat) (hout : F .out = true) (hcores : F .cores = true)
    (hparts : F .parts = true) (hrel : F .rel = true) (hpart : ∀ q, F (.part q) = true)
    (hregs : ∀ q, F (.regs q) = true) (hvec : ∀ q, F (.vec q) = true) : view F (watchdogExpires s g) = view F s := by
  simp only [watchdogExpires]
  split
  · rfl
  · simp only [↓when_view, ↓coreFault_view, ↓errEvent_view, ↓charge_view, implies_true, hout, hcores, hparts, hrel,
    hpart, hregs, hvec]

theorem spLateRaise_view (s : State) (g : Nat) (hout : F .out = true) (hcores : F .cores = true)
    (hparts : F .parts = true) (hpart : ∀ q, F (.part q) = true) (hregs : ∀ q, F (.regs q) = true)
    (hvec : ∀ q, F (.vec q) = true) : view F (spLateRaise s g) = view F s := by
  simp only [spLateRaise, ↓when_view, ↓coreFault_view, implies_true, hout, hcores, hparts, hpart, hregs, hvec]

theorem descriptorRead_view (s : State) (g : Nat) (hcores : F .cores = true) :
    view F (descriptorRead s g) = view F s := by
  simp only [descriptorRead, ↓onCore_view, hcores]

theorem mmaStart_view (s : State) (g : Nat) (hfreeIx : F .freeIx = true) (hcores : F .cores = true) :
    view F (mmaStart s g) = view F s := by
  simp only [mmaStart]
  split
  · rfl
  · simp only [↓onCore_view, ↓apply_ite (view F), hcores]
    split
    · split
      · rfl
      · simp only [↓onCore_view, ↓spend_view, ↓apply_ite (view F), ite_self, hfreeIx, hcores]
    · rfl

theorem segmentEnd_view (s : State) (g : Nat) (hcores : F .cores = true) : view F (segmentEnd s g) = view F s := by
  simp only [segmentEnd, ↓onCore_view, hcores]

theorem popMop_view (s : State) (g : Nat) (hcores : F .cores = true) : view F (popMop s g) = view F s := by
  simp only [popMop, ↓onCore_view, ↓endWaits_view, ↓apply_ite (view F), ite_self, hcores]

theorem spoil_view (s : State) (g : Nat) (m : MOp) (d : List Byte) (hfreeIx : F .freeIx = true)
    (hstores : F .stores = true) : view F (spoil s g m d) = view F s := by
  simp only [spoil, ↓scramble_view, ↓view_foldl, ↓apply_ite (view F), ite_self, implies_true, hfreeIx, hstores]

theorem replaceTags_view (s : State) (a n : Nat) (t : BitVec 3) (htags : F .tags = true) :
    view F (replaceTags s a n t) = view F s := by
  simp only [replaceTags, ↓view_mk, true_or, or_true, htags]

theorem doMrd_view (s : State) (g : Nat) (m : MOp) (hfreeIx : F .freeIx = true) (hcores : F .cores = true)
    (hstores : F .stores = true) (htags : F .tags = true) : view F (doMrd s g m) = view F s := by
  simp only [doMrd, ↓popMop_view, ↓spoil_view, ↓replaceTags_view, ↓view_mk, true_or, or_true, hfreeIx, hcores, hstores,
    htags]

theorem doMwr_view (s0 : State) (g : Nat) (m : MOp) (hfreeIx : F .freeIx = true) (hcores : F .cores = true)
    (hstores : F .stores = true) : view F (doMwr s0 g m) = view F s0 := by
  simp only [doMwr, ↓scramble_view, ↓popMop_view, ↓onCore_view, ↓view_mk, ↓apply_ite (view F), ite_self, true_or,
    or_true, hfreeIx, hcores, hstores]

theorem orTags_view (s : State) (a n : Nat) (t : BitVec 3) (htags : F .tags = true) :
    view F (orTags s a n t) = view F s := by
  simp only [orTags, ↓view_mk, true_or, or_true, htags]

theorem finishMop_view (s : State) (g : Nat) (m : MOp) (d : List Byte) (w : BitVec 32) (hfreeIx : F .freeIx = true)
    (hcores : F .cores = true) (hstores : F .stores = true) : view F (finishMop s g m d w) = view F s := by
  simp only [finishMop, ↓popMop_view, ↓spoil_view, ↓view_mk, true_or, or_true, hfreeIx, hcores, hstores]

theorem failMop_view (s : State) (g : Nat) (m : MOp) (d : List Byte) (hfreeIx : F .freeIx = true)
    (hcores : F .cores = true) (hstores : F .stores = true) (htags : F .tags = true) :
    view F (failMop s g m d) = view F s := by
  simp only [failMop, ↓orTags_view, ↓finishMop_view, ↓view_foldl, ↓apply_ite (view F), ite_self, implies_true, hfreeIx,
    hcores, hstores, htags]

theorem writeRow_view (s : State) (g : Nat) (m : MOp) (d : List Byte) (i : Nat) (hstores : F .stores = true) :
    view F (writeRow s g m d i) = view F s := by
  simp only [writeRow, ↓view_mk, true_or, or_true, hstores]

theorem mergeTags_view (s : State) (a n : Nat) (tag : Nat → BitVec 3) (htags : F .tags = true) :
    view F (mergeTags s a n tag) = view F s := by
  simp only [mergeTags, ↓view_mk, true_or, or_true, htags]

theorem markRow_view (s : State) (g : Nat) (m : MOp) (d : List Byte) (tag : BitVec 3) (i : Nat) (htags : F .tags = true)
    : view F (markRow s g m d tag i) = view F s := by
  simp only [markRow, ↓orTags_view, ↓mergeTags_view, ↓view_foldl, ↓apply_ite (view F), ite_self, implies_true, htags]

theorem voteResult_view (s : State) (p : Nat) (vid : BitVec 32) (code cls core : Nat) (hout : F .out = true)
    (hparts : F .parts = true) (hrel : F .rel = true) (hregs : F (.regs p) = true) (hvec : F (.vec p) = true) :
    view F (voteResult s p vid code cls core) = view F s := by
  simp only [voteResult, ↓errEvent_view, ↓onPart_view, ↓Partition_setReg_view, ↓eventRecord_view, ↓apply_ite (view F),
    ite_self, hout, hparts, hrel, hregs, hvec]

theorem drainMop_view (s1 : State) (g : Nat) (m0 : MOp) (d : List Byte) (hfreeIx : F .freeIx = true)
    (hout : F .out = true) (hcores : F .cores = true) (hstores : F .stores = true) (htags : F .tags = true)
    (hparts : F .parts = true) (hrel : F .rel = true) (hregs : ∀ q, F (.regs q) = true) (hvec : ∀ q, F (.vec q) = true)
    : view F (drainMop s1 g m0 d) = view F s1 := by
  simp only [drainMop, ↓spend_view, ↓writeRow_view, ↓markRow_view, ↓onCore_view, ↓voteResult_view, ↓charge_view,
    ↓orTags_view, ↓finishMop_view, ↓view_mk, steady, and_self, ↓view_foldl, ↓apply_ite (view F), ite_self, true_or,
    or_true, implies_true,
    hfreeIx, hout, hcores, hstores, htags, hparts, hrel, hregs, hvec]

theorem mmaComplete_view (s : State) (g : Nat) (hfreeIx : F .freeIx = true) (hout : F .out = true)
    (hcores : F .cores = true) (hstores : F .stores = true) (htags : F .tags = true) (hparts : F .parts = true)
    (hrel : F .rel = true) (hregs : ∀ q, F (.regs q) = true) (hvec : ∀ q, F (.vec q) = true) :
    view F (mmaComplete s g) = view F s := by
  simp only [mmaComplete]
  split
  · rfl
  · simp only [↓doMrd_view, ↓doMwr_view, ↓apply_ite (view F), hfreeIx, hcores, hstores, htags]
    split
    · split
      · rfl
      · split
        · rfl
        · split
          · simp only [↓failMop_view, ↓drainMop_view, ↓apply_ite (view F), ite_self, implies_true, hfreeIx, hout,
            hcores, hstores, htags, hparts, hrel, hregs, hvec]
          · rfl
    · rfl

theorem auditCopy_view (s : State) (g : Nat) (hfreeIx : F .freeIx = true) (hcores : F .cores = true)
    (hstores : F .stores = true) (htags : F .tags = true) (hrel : F .rel = true) :
    view F (auditCopy s g) = view F s := by
  simp only [auditCopy]
  split
  · rfl
  · split
    · simp only [↓orTags_view, ↓finishMop_view, ↓view_mk, steady, and_self, ↓view_foldl, true_or, or_true, implies_true,
        hfreeIx, hcores,
      hstores, htags, hrel]
    · rfl

theorem dmaFinish_view (s : State) (g id st : Nat) (hcores : F .cores = true) :
    view F (dmaFinish s g id st) = view F s := by
  simp only [dmaFinish, ↓onDma_view, hcores]

theorem dmaStart_view (s : State) (g i : Nat) (hcores : F .cores = true) : view F (dmaStart s g i) = view F s := by
  simp only [dmaStart]
  split
  · simp only [↓onDma_view, ↓dmaFinish_view, ↓apply_ite (view F), ite_self, hcores]
  · rfl

theorem dmaSent_view (s : State) (g id : Nat) (hcores : F .cores = true) : view F (dmaSent s g id) = view F s := by
  simp only [dmaSent, ↓onDma_view, hcores]

theorem askTile_view {s : State} {p c g : Nat} {d : Dma} {t : Nat} {u : State} (e : askTile s p c g d t = some u)
    (hout : F .out = true) (hcores : F .cores = true) (hfabric : F .fabric = true) : view F u = view F s := by
  unfold askTile at e
  dsimp only at e
  split at e
  · cases e
    rw [dmaSent_view _ _ _ hcores, sendRequest_view _ _ _ _ _ _ hout hfabric]
  · cases e

theorem askPage_view {s : State} {p g : Nat} {d : Dma} {t : Nat} {u : State} (e : askPage s p g d t = some u)
    (hout : F .out = true) (hcores : F .cores = true) (hparts : F .parts = true) (hpart : F (.part p) = true) :
    view F u = view F s := by
  obtain ⟨v, hv, rfl⟩ := Option.map_eq_some_iff.1 e
  rw [dmaSent_view _ _ _ hcores, hostGet_view hv hout hparts hpart]

theorem view_foldl_bind {α : Type} {f : α → State → Option State} {l : List α} {s t : State}
    (e : l.foldl (fun acc x => acc.bind (f x)) (some s) = some t)
    (keep : ∀ {x u v}, f x u = some v → view F v = view F u) : view F t = view F s := by
  refine List.foldlRecOn (motive := fun o : Option State => ∀ v, o = some v → view F v = view F s) l _
    (fun v hv => by cases hv; rfl) (fun o ho b _ v hv => ?_) t e
  obtain ⟨u, hu, hv⟩ := Option.bind_eq_some_iff.1 hv
  exact (keep hv).trans (ho u hu)

theorem askAll_view {s : State} {p c g : Nat} {d : Dma} {ts next : List Nat} {t : State}
    (e : askAll s p c g d ts next = some t) (hout : F .out = true) (hcores : F .cores = true)
    (hparts : F .parts = true) (hfabric : F .fabric = true) (hpart : F (.part p) = true) : view F t = view F s := by
  obtain ⟨u, hu, rfl⟩ := Option.map_eq_some_iff.1 e
  refine (onDma_view _ _ _ _ hcores).trans (view_foldl_bind hu fun {x u v} e => ?_)
  split at e
  · exact askTile_view e hout hcores hfabric
  · exact askPage_view e hout hcores hparts hpart

theorem unitDone_view (s : State) (g id st : Nat) (hcores : F .cores = true) :
    view F (unitDone s g id st) = view F s := by
  simp only [unitDone, ↓onDma_view, hcores]

theorem amoResult_view (s : State) (p g res old st : Nat) (hfreeIx : F .freeIx = true) (hout : F .out = true)
    (hcores : F .cores = true) (hstores : F .stores = true) (htags : F .tags = true) (hparts : F .parts = true)
    (hwardrobe : F .wardrobe = true) (hrel : F .rel = true) (hregs : F (.regs p) = true) (hvec : ∀ q, F (.vec q) = true)
    (hmem : F (.mem p) = true) (hhbm : F (.hbm p) = true) : view F (amoResult s p g res old st) = view F s := by
  simp only [amoResult, ↓storeHazard_view, ↓devWrite_view, implies_true, hfreeIx, hout, hcores, hstores, htags, hparts,
    hwardrobe, hrel, hregs, hvec, hmem, hhbm]

theorem amoBolt_view (s : State) (p off aop bits a b : Nat) (hfreeIx : F .freeIx = true) (hout : F .out = true)
    (hparts : F .parts = true) (hwardrobe : F .wardrobe = true) (hrel : F .rel = true) (hpart : F (.part p) = true)
    (hregs : ∀ q, F (.regs q) = true) (hvec : ∀ q, F (.vec q) = true) (hhbm : F (.hbm p) = true) :
    view F (amoBolt s p off aop bits a b).1 = view F s := by
  simp only [amoBolt]
  split
  · rfl
  · split
    · rfl
    · split
      · rfl
      next x t e =>
        split
        · simp only [↓tileFailed_view, ↓apply_ite (view F), ite_self, implies_true, hout, hparts, hrel, hregs, hvec]
        · split
          · rfl
          · simp only [↓readyWrite_view e, ↓putPart_view_part, implies_true, hfreeIx, hout, hparts, hwardrobe, hrel,
            hpart, hvec, hhbm]

theorem amoStore_view (s : State) (a aop bits x y : Nat) (hfreeIx : F .freeIx = true) (hcores : F .cores = true)
    (hstores : F .stores = true) : view F (amoStore s a aop bits x y).1 = view F s := by
  simp only [amoStore]
  split
  · rfl
  · split
    · simp only []
      split
      · simp only [↓putStore_view, ↓storeHazard_view, hfreeIx, hcores, hstores]
      · simp only [↓putStore_view, hcores, hstores]
    · rfl

theorem boltsReady_view {s : State} {p g id : Nat} {bs : List Nat} {t : State} (e : boltsReady s p g id bs = .stalled t)
    (hfreeIx : F .freeIx = true) (hout : F .out = true) (hparts : F .parts = true) (hwardrobe : F .wardrobe = true)
    (hrel : F .rel = true) (hregs : F (.regs p) = true) (hvec : ∀ q, F (.vec q) = true) (hhbm : F (.hbm p) = true) :
    view F t = view F s := by
  unfold boltsReady at e
  dsimp only at e
  split at e
  · cases e
  · split at e
    · cases e
      rfl
    · split at e
      next u hu =>
        cases e
        exact stallOn_view hu hfreeIx hout hparts hwardrobe hrel hregs hvec hhbm
      · cases e

theorem amoUnit_view {s : State} {p c g : Nat} {d : Dma} {b : List Byte} {t : State} (e : amoUnit s p c g d b = some t)
    (hfreeIx : F .freeIx = true) (hout : F .out = true) (hcores : F .cores = true) (hstores : F .stores = true)
    (htags : F .tags = true) (hparts : F .parts = true) (hfabric : F .fabric = true) (hwardrobe : F .wardrobe = true)
    (hrel : F .rel = true) (hpart : F (.part p) = true) (hregs : ∀ q, F (.regs q) = true)
    (hvec : ∀ q, F (.vec q) = true) (hmem : F (.mem p) = true) (hhbm : F (.hbm p) = true) : view F t = view F s := by
  unfold amoUnit at e
  extract_lets a res aop asz bits ra sp bad finish m r o at e
  have done {u v : State} {st old : Nat} (hu : view F u = view F s) (e : finish u st old = some v) :
      view F v = view F s := by
    rw [← Option.some.inj e, unitDone_view _ _ _ _ hcores, amoResult_view _ _ _ _ _ _ hfreeIx hout hcores hstores
      htags hparts hwardrobe hrel
      (hregs p) hvec hmem hhbm, hu]
  split at e
  · exact done rfl e
  · split at e
    · split at e
      · exact done rfl e
      · split at e
        · cases e
          rw [unitDone_view _ _ _ _ hcores, dmaSent_view _ _ _ hcores, sendRequest_view _ _ _ _ _ _ hout hfabric]
        · cases e
    · split at e
      · exact done (violation_view _ _ hparts (hregs p)) e
      · split at e
        · split at e
          next u hu =>
            cases e
            exact boltsReady_view hu hfreeIx hout hparts hwardrobe hrel (hregs p) hvec hhbm
          · exact done rfl e
          · exact done (amoBolt_view _ _ _ _ _ _ _ hfreeIx hout hparts hwardrobe hrel hpart hregs hvec hhbm) e
        · exact done (amoStore_view _ _ _ _ _ _ hfreeIx hcores hstores) e
        · exact done rfl e

theorem putGroup_view (s : State) (p g : Nat) (q : Group) (hparts : F .parts = true) (hpart : F (.part p) = true) :
    view F (putGroup s p g q) = view F s := by
  simp only [putGroup, ↓onPart_view_part, hparts, hpart]

theorem putColl_view (s : State) (p : Nat) (k : Coll) (hparts : F .parts = true) (hpart : F (.part p) = true) :
    view F (putColl s p k) = view F s := by
  simp only [putColl, ↓onPart_view_part, hparts, hpart]

theorem sendWaiting_view (s : State) (mask : BitVec 18) (die : Bool) (p c : Nat) (kind : ReqKind) (m : Msg)
    (hout : F .out = true) (hfabric : F .fabric = true) : view F (sendWaiting s mask die p c kind m) = view F s := by
  simp only [sendWaiting, ↓sendRequestOn_view, ↓view_mk, ↓apply_ite (view F), ite_self, true_or, or_true, hout, hfabric]

theorem sendControl_view (s : State) (p : Nat) (k : Coll) (kind : Nat) (payload : List Byte) (r : Nat)
    (hout : F .out = true) (hfabric : F .fabric = true) : view F (sendControl s p k kind payload r) = view F s := by
  simp only [sendControl, ↓sendWaiting_view, hout, hfabric]

theorem engineWrite_view (s : State) (p c a : Nat) (pay : List Byte) (col : Collar) (hfreeIx : F .freeIx = true)
    (hout : F .out = true) (hparts : F .parts = true) (hwardrobe : F .wardrobe = true) (hrel : F .rel = true)
    (hmregs : F .mregs = true) (hregs : ∀ q, F (.regs q) = true) (hvec : ∀ q, F (.vec q) = true)
    (hmem : ∀ q, F (.mem q) = true) (hhbm : ∀ q, F (.hbm q) = true) :
    view F (engineWrite s p c a pay col).1 = view F s := by
  simp only [engineWrite]
  split
  · split
    next x t e => simp only [↓engineReady_view e, ↓onPart_view, ↓putTile_view, implies_true, hfreeIx, hout, hparts,
      hwardrobe, hrel, hmregs, hregs, hvec, hmem, hhbm]
    · rfl
  · simp only [↓violation_view, hparts, hregs]

theorem endColl_view (s : State) (p : Nat) (k : Coll) (status : Nat) (hfreeIx : F .freeIx = true) (hout : F .out = true)
    (hparts : F .parts = true) (hfabric : F .fabric = true) (hwardrobe : F .wardrobe = true) (hrel : F .rel = true)
    (hmregs : F .mregs = true) (hpart : F (.part p) = true) (hregs : ∀ q, F (.regs q) = true)
    (hvec : ∀ q, F (.vec q) = true) (hmem : ∀ q, F (.mem q) = true) (hhbm : ∀ q, F (.hbm q) = true) :
    view F (endColl s p k status) = view F s := by
  simp only [endColl, ↓sendControl_view, ↓putColl_view, ↓engineWrite_view, ↓view_foldl, ↓apply_ite (view F), ite_self,
    implies_true, hfreeIx, hout, hparts, hfabric, hwardrobe, hrel, hmregs, hpart, hregs, hvec, hmem, hhbm]

theorem takeEarly_view (s : State) (p : Nat) (q : Group) (k : Coll) (hfreeIx : F .freeIx = true) (hout : F .out = true)
    (hparts : F .parts = true) (hfabric : F .fabric = true) (hwardrobe : F .wardrobe = true) (hrel : F .rel = true)
    (hmregs : F .mregs = true) (hpart : F (.part p) = true) (hregs : ∀ q, F (.regs q) = true)
    (hvec : ∀ q, F (.vec q) = true) (hmem : ∀ q, F (.mem q) = true) (hhbm : ∀ q, F (.hbm q) = true) :
    view F (takeEarly s p q k) = view F s := by
  simp only [takeEarly, ↓putGroup_view, ↓putColl_view, ↓endColl_view, ↓apply_ite (view F), ite_self, implies_true,
    hfreeIx, hout, hparts, hfabric, hwardrobe, hrel, hmregs, hpart, hregs, hvec, hmem, hhbm]

theorem collSubmit_view (s : State) (p c x1 : Nat) (desc : List Byte) (hfreeIx : F .freeIx = true)
    (hout : F .out = true) (hparts : F .parts = true) (hfabric : F .fabric = true) (hwardrobe : F .wardrobe = true)
    (hrel : F .rel = true) (hmregs : F .mregs = true) (hpart : F (.part p) = true) (hregs : ∀ q, F (.regs q) = true)
    (hvec : ∀ q, F (.vec q) = true) (hmem : ∀ q, F (.mem q) = true) (hhbm : ∀ q, F (.hbm q) = true) :
    view F (collSubmit s p c x1 desc) = view F s := by
  simp only [collSubmit]
  split
  · rfl
  · simp only [↓putPart_view_part, ↓putGroup_view, ↓takeEarly_view, ↓endColl_view, ↓apply_ite (view F), ite_self,
    implies_true, hfreeIx, hout, hparts, hfabric, hwardrobe, hrel, hmregs, hpart, hregs, hvec, hmem, hhbm]

theorem forgetKernels_view (s : State) (hs : List Nat) (hrel : F .rel = true) :
    view F (forgetKernels s hs) = view F s := by
  simp only [forgetKernels, ↓view_mk, steady, and_self, true_or, or_true, hrel]

theorem holdClusters_view (s : State) (p c : Nat) (on : Bool) (hclusters : F .clusters = true) :
    view F (holdClusters s p c on) = view F s := by
  simp only [holdClusters, ↓onClus_view, ↓view_foldl, implies_true, hclusters]

theorem cxStart_view (s : State) (p c : Nat) (hout : F .out = true) (hclusters : F .clusters = true)
    (hparts : F .parts = true) (hrel : F .rel = true) (hpart : F (.part p) = true) (hregs : F (.regs p) = true)
    (hvec : F (.vec p) = true) : view F (cxStart s p c) = view F s := by
  simp only [cxStart, ↓lstat_view, ↓onPart_view_part, ↓forgetKernels_view, ↓onCtx_view, ↓holdClusters_view, ↓apply_ite
    (view F), ite_self, hout, hclusters, hparts, hrel, hpart, hregs, hvec]

theorem cxPreempt_view (s : State) (p c : Nat) (hcores : F .cores = true) (hparts : F .parts = true)
    (hpart : F (.part p) = true) (hregs : F (.regs p) = true) : view F (cxPreempt s p c) = view F s := by
  simp only [cxPreempt, ↓onCtx_view, ↓onCore_view, ↓setCstate_view, ↓view_foldl, implies_true, hcores, hparts, hpart,
    hregs]

theorem cxResume_view (s : State) (p c : Nat) (hout : F .out = true) (hclusters : F .clusters = true)
    (hparts : F .parts = true) (hregs : F (.regs p) = true) (hvec : F (.vec p) = true) :
    view F (cxResume s p c) = view F s := by
  simp only [cxResume, ↓setCstate_view, ↓holdClusters_view, ↓lstat_view, ↓apply_ite (view F), ite_self, hout, hclusters,
    hparts, hregs, hvec]

theorem cxRestart_view (s : State) (p c : Nat) (hout : F .out = true) (hcores : F .cores = true)
    (hparts : F .parts = true) (hregs : F (.regs p) = true) (hvec : F (.vec p) = true) :
    view F (cxRestart s p c) = view F s := by
  simp only [cxRestart, ↓onCore_view, ↓lstat_view, ↓setCstate_view, ↓view_foldl, implies_true, hout, hcores, hparts,
    hregs, hvec]

theorem cxAbort_view (s : State) (p c : Nat) (hout : F .out = true) (hcores : F .cores = true)
    (hparts : F .parts = true) (hpart : F (.part p) = true) (hregs : F (.regs p) = true) (hvec : F (.vec p) = true) :
    view F (cxAbort s p c) = view F s := by
  simp only [cxAbort, ↓lstat_view, ↓onCtx_view, ↓beginTeardown_view, ↓apply_ite (view F), ite_self, hout, hcores,
    hparts, hpart, hregs, hvec]

theorem cxCommand_view (s : State) (p c cmd : Nat) (hout : F .out = true) (hcores : F .cores = true)
    (hclusters : F .clusters = true) (hparts : F .parts = true) (hrel : F .rel = true) (hpart : F (.part p) = true)
    (hregs : F (.regs p) = true) (hvec : F (.vec p) = true) : view F (cxCommand s p c cmd) = view F s := by
  simp only [cxCommand]
  split
  · rfl
  · simp only [↓cxStart_view, ↓lstat_view, ↓apply_ite (view F), ite_self, hout, hclusters, hparts, hrel, hpart, hregs,
    hvec]
  · simp only [↓lstat_view, ↓cxPreempt_view, ↓apply_ite (view F), ite_self, hout, hcores, hparts, hpart, hregs, hvec]
  · simp only [↓lstat_view, ↓cxResume_view, ↓apply_ite (view F), ite_self, hout, hclusters, hparts, hregs, hvec]
  · simp only [↓lstat_view, ↓cxRestart_view, ↓apply_ite (view F), ite_self, hout, hcores, hparts, hregs, hvec]
  · simp only [↓cxAbort_view, hout, hcores, hparts, hpart, hregs, hvec]
  · simp only [↓lstat_view, ↓setCstate_view, ↓apply_ite (view F), ite_self, hout, hparts, hregs, hvec]
  · simp only [↓lstat_view, hout, hparts, hregs, hvec]

theorem cxDoorbell_view (s : State) (p c cmd : Nat) (hout : F .out = true) (hcores : F .cores = true)
    (hclusters : F .clusters = true) (hparts : F .parts = true) (hrel : F .rel = true) (hpart : F (.part p) = true)
    (hregs : F (.regs p) = true) (hvec : F (.vec p) = true) : view F (cxDoorbell s p c cmd) = view F s := by
  simp only [cxDoorbell, ↓onCtx_view, ↓cxCommand_view, ↓apply_ite (view F), ite_self, hout, hcores, hclusters, hparts,
    hrel, hpart, hregs, hvec]

theorem postSem_view (s : State) (p c cli sid n : Nat) (hfreeIx : F .freeIx = true) (hout : F .out = true)
    (hcores : F .cores = true) (hclusters : F .clusters = true) (hparts : F .parts = true) (hpart : F (.part p) = true)
    (hregs : F (.regs p) = true) (hvec : F (.vec p) = true) : view F (postSem s p c cli sid n) = view F s := by
  simp only [postSem, ↓errEvent_view, ↓apply_ite (view F), hout, hparts, hregs, hvec]
  split
  · rfl
  · split
    · simp only [↓errEvent_view, hout, hparts, hregs, hvec]
    · split
      · simp only [↓errEvent_view, ↓onCtx_view, ↓apply_ite (view F), ite_self, hout, hparts, hpart, hregs, hvec]
      · simp only [↓errEvent_view, ↓semAdd_view, ↓apply_ite (view F), ite_self, hfreeIx, hout, hcores, hclusters,
        hparts, hregs, hvec]

theorem ringDoorbell_view (s : State) (p c : Nat) (val : Word) (hfreeIx : F .freeIx = true) (hout : F .out = true)
    (hcores : F .cores = true) (hclusters : F .clusters = true) (hparts : F .parts = true) (hpart : F (.part p) = true)
    (hregs : F (.regs p) = true) (hvec : F (.vec p) = true) : view F (ringDoorbell s p c val) = view F s := by
  simp only [ringDoorbell, ↓postSem_view, ↓apply_ite (view F), ite_self, hfreeIx, hout, hcores, hclusters, hparts,
    hpart, hregs, hvec]

theorem coreRegWrite_view (s : State) (p c off : Nat) (v : Word) (hfreeIx : F .freeIx = true) (hout : F .out = true)
    (hcores : F .cores = true) (hclusters : F .clusters = true) (hparts : F .parts = true) (hrel : F .rel = true)
    (hpart : F (.part p) = true) (hregs : F (.regs p) = true) (hvec : F (.vec p) = true) :
    view F (coreRegWrite s p c off v).1 = view F s := by
  simp only [coreRegWrite]
  split
  · simp only [↓cxDoorbell_view, hout, hcores, hclusters, hparts, hrel, hpart, hregs, hvec]
  · split
    · simp only [↓ringDoorbell_view, hfreeIx, hout, hcores, hclusters, hparts, hpart, hregs, hvec]
    · split <;> rfl

theorem hostWriteAll_view (s : State) (p g id a : Nat) (bs : List Byte) (mark : Nat → Bool) (hout : F .out = true)
    (hcores : F .cores = true) (hparts : F .parts = true) (hpart : F (.part p) = true) :
    view F (hostWriteAll s p g id a bs mark) = view F s := by
  simp only [hostWriteAll]
  refine (view_foldl _ _ fun t e => ?_).trans ?_
  · split
    next x t' e' => simp only [↓hostPut_view e', ↓dmaSent_view, hout, hcores, hparts, hpart]
    · simp only [↓onDma_view, hcores]
  · rfl

theorem sendWrite_view {s : State} {p c g : Nat} {d : Dma} {off : Nat} {bs : List Byte} {col : Option Collar}
    {t : State} (e : sendWrite s p c g d off bs col = some t) (hout : F .out = true) (hcores : F .cores = true)
    (hfabric : F .fabric = true) : view F t = view F s := by
  unfold sendWrite at e
  dsimp only at e
  split at e
  · cases e
    simp only [↓sendRequest_view, ↓dmaSent_view, hout, hcores, hfabric]
  · cases e

theorem storeRun_view (s : State) (p c a : Nat) (bs : List Byte) (tag : Nat → BitVec 3) (hfreeIx : F .freeIx = true)
    (hcores : F .cores = true) (hstores : F .stores = true) (htags : F .tags = true) :
    view F (storeRun s p c a bs tag).1 = view F s := by
  simp only [storeRun]
  split
  · rfl
  · split
    · simp only [↓view_mk, ↓apply_ite (view F), ite_self, true_or, or_true, hstores]
    · split
      · simp only [↓mergeTags_view, ↓putStore_view, ↓storeHazard_view, hfreeIx, hcores, hstores, htags]
      · simp only [↓mergeTags_view, ↓putStore_view, hcores, hstores, htags]
    · rfl

theorem storeWrite_view (s : State) (p c : Nat) (d : Dma) (a : Nat) (bs : List Byte) (tag : Nat → BitVec 3)
    (hfreeIx : F .freeIx = true) (hcores : F .cores = true) (hstores : F .stores = true) (htags : F .tags = true) :
    view F (storeWrite s p c d a bs tag).1 = view F s := by
  simp only [storeWrite]
  refine (view_foldl_fst _ _ fun r e => ?_).trans ?_
  · simp only []
    split
    · simp only [↓storeRun_view, hfreeIx, hcores, hstores, htags]
    · rfl
  · rfl

theorem writeReady_view {s : State} {p : Nat} {bs : List Nat} {t : State} (e : writeReady s p bs = some t)
    (hfreeIx : F .freeIx = true) (hout : F .out = true) (hparts : F .parts = true) (hwardrobe : F .wardrobe = true)
    (hrel : F .rel = true) (hvec : ∀ q, F (.vec q) = true) (hhbm : F (.hbm p) = true) : view F t = view F s :=
  readyAll_view e fun e => readyWrite_view e hfreeIx hout hparts hwardrobe hrel hvec hhbm

theorem regUnit_view {s : State} {p c g : Nat} {d : Dma} {t : State} (e : regUnit s p c g d = some t)
    (hfreeIx : F .freeIx = true) (hout : F .out = true) (hcores : F .cores = true) (hclusters : F .clusters = true)
    (hstores : F .stores = true) (htags : F .tags = true) (hparts : F .parts = true) (hfabric : F .fabric = true)
    (hwardrobe : F .wardrobe = true) (hrel : F .rel = true) (hmregs : F .mregs = true) (hpart : F (.part p) = true)
    (hregs : ∀ q, F (.regs q) = true) (hvec : ∀ q, F (.vec q) = true) (hmem : ∀ q, F (.mem q) = true)
    (hhbm : ∀ q, F (.hbm q) = true) : view F t = view F s := by
  unfold regUnit at e
  dsimp only at e
  split at e
  · cases e
    exact dmaFinish_view _ _ _ _ hcores
  · split at e
    · obtain ⟨u, hu, rfl⟩ := Option.map_eq_some_iff.1 e
      rw [violationIf_view _ _ _ hparts (hregs p), amoUnit_view hu hfreeIx hout hcores hstores htags hparts hfabric
        hwardrobe hrel hpart hregs hvec (hmem p) (hhbm p)]
    · split at e
      · cases e
      · cases e
        rw [unitDone_view _ _ _ _ hcores, collSubmit_view _ _ _ _ _ hfreeIx hout hparts hfabric hwardrobe hrel hmregs hpart
          hregs hvec hmem hhbm, violationIf_view _ _ _ hparts (hregs p)]
    · split at e
      · cases e
        rw [unitDone_view _ _ _ _ hcores, violationIf_view _ _ _ hparts (hregs p),
          coreRegWrite_view _ _ _ _ _ hfreeIx hout hcores hclusters hparts hrel hpart (hregs p) (hvec p)]
      · cases e
        rw [unitDone_view _ _ _ _ hcores, violationIf_view _ _ _ hparts (hregs p),
          hostWriteAll_view _ _ _ _ _ _ _ hout hcores hparts hpart]
      · obtain ⟨u, hu, rfl⟩ := Option.map_eq_some_iff.1 e
        rw [unitDone_view _ _ _ _ hcores, violationIf_view _ _ _ hparts (hregs p), sendWrite_view hu hout hcores hfabric]
      · split at e
        · cases e
          rw [unitDone_view _ _ _ _ hcores, violationIf_view _ _ _ hparts (hregs p),
            storeWrite_view _ _ _ _ _ _ _ hfreeIx hcores hstores htags]
        · split at e
          · cases e
            rw [unitDone_view _ _ _ _ hcores, violation_view _ _ hparts (hregs p)]
          · split at e
            · cases e
              rw [unitDone_view _ _ _ _ hcores, violationIf_view _ _ _ hparts (hregs p)]
            next u hu =>
              cases e
              have ready := (writeReady_view hu hfreeIx hout hparts hwardrobe hrel hvec (hhbm p)).trans
                (violationIf_view _ _ _ hparts (hregs p))
              refine (unitDone_view _ _ _ _ hcores).trans ((onPart_view _ _ _ hparts ?_).trans ready)
              exact plainTileWrite_view _ _ _ _ _ _ (hmem p) (hhbm p)

theorem countBad_view (s : State) (p : Nat) (d : Dma) (ts : List Nat) (hout : F .out = true) (hparts : F .parts = true)
    (hrel : F .rel = true) (hregs : ∀ q, F (.regs q) = true) (hvec : ∀ q, F (.vec q) = true) :
    view F (countBad s p d ts) = view F s := by
  simp only [countBad, ↓tileFailed_view, ↓errEvent_view, ↓view_foldl, ↓apply_ite (view F), ite_self, implies_true, hout,
    hparts, hrel, hregs, hvec]

theorem copyUnit_view {s : State} {p c g : Nat} {d : Dma} {t : State} (e : copyUnit s p c g d = some t)
    (hfreeIx : F .freeIx = true) (hout : F .out = true) (hcores : F .cores = true) (hstores : F .stores = true)
    (htags : F .tags = true) (hparts : F .parts = true) (hfabric : F .fabric = true) (hwardrobe : F .wardrobe = true)
    (hrel : F .rel = true) (hpart : F (.part p) = true) (hregs : ∀ q, F (.regs q) = true)
    (hvec : ∀ q, F (.vec q) = true) (hmem : F (.mem p) = true) (hhbm : F (.hbm p) = true) : view F t = view F s := by
  unfold copyUnit at e
  dsimp only at e
  obtain ⟨⟨u, v, st⟩, hr, rfl⟩ := Option.map_eq_some_iff.1 e
  have moved : view F u = view F s := by
    split at hr
    · cases hr
      exact hostWriteAll_view _ _ _ _ _ _ _ hout hcores hparts hpart
    · obtain ⟨u, hu, hr⟩ := Option.map_eq_some_iff.1 hr
      cases hr
      exact sendWrite_view hu hout hcores hfabric
    · split at hr
      · cases hr
        exact storeWrite_view _ _ _ _ _ _ _ hfreeIx hcores hstores htags
      · split at hr
        · cases hr
          rfl
        · split at hr
          · cases hr
            rfl
          next u hu =>
            cases hr
            refine (onPart_view _ _ _ hparts ?_).trans (writeReady_view hu hfreeIx hout hparts hwardrobe hrel hvec hhbm)
            split
            · exact putTile_view _ _ _ _ hmem hhbm
            · exact plainTileWrite_view _ _ _ _ _ _ hmem hhbm
  rw [unitDone_view _ _ _ _ hcores, countBad_view _ _ _ _ hout hparts hrel hregs hvec, violationIf_view _ _ _ hparts (hregs p),
    moved]

theorem recordUnit_view (s : State) (p : Nat) (e : Entry) (o : UnitOut) (hfreeIx : F .freeIx = true)
    (hout : F .out = true) (hcores : F .cores = true) (hstores : F .stores = true) (htags : F .tags = true)
    (hparts : F .parts = true) (hwardrobe : F .wardrobe = true) (hrel : F .rel = true) (hregs : F (.regs p) = true)
    (hvec : ∀ q, F (.vec q) = true) (hmem : F (.mem p) = true) (hhbm : F (.hbm p) = true) :
    view F (recordUnit s p e o) = view F s := by
  simp only [recordUnit, ↓devRead_view, ↓devWrite_view, ↓apply_ite (view F), ite_self, implies_true, hfreeIx, hout,
    hcores, hstores, htags, hparts, hwardrobe, hrel, hregs, hvec, hmem, hhbm]

theorem putRemote_view {s : State} {p c g : Nat} {d : Dma} {last : Bool} {o : TileOut} {t : State}
    (e : putRemote s p c g d last o = some t) (hout : F .out = true) (hcores : F .cores = true)
    (hfabric : F .fabric = true) : view F t = view F s := by
  unfold putRemote at e
  dsimp only at e
  split at e
  · simp only [↓sendWrite_view e, hout, hcores, hfabric]
  · simp only [↓sendWrite_view e, hout, hcores, hfabric]

theorem putLocal_view {q : Nat} (x : Partition) (o : TileOut) (hmem : F (.mem q) = true) (hhbm : F (.hbm q) = true) :
    viewPart F q (putLocal x o) = viewPart F q x := by
  simp only [putLocal, ↓putTile_view, ↓apply_ite (viewPart F q), ite_self, hmem, hhbm]

theorem convertUnit_view {s : State} {p c g : Nat} {d : Dma} {en : Entry} {t : State}
    (e : convertUnit s p c g d en = some t) (hfreeIx : F .freeIx = true) (hout : F .out = true)
    (hcores : F .cores = true) (hstores : F .stores = true) (htags : F .tags = true) (hparts : F .parts = true)
    (hfabric : F .fabric = true) (hwardrobe : F .wardrobe = true) (hrel : F .rel = true) (hpart : F (.part p) = true)
    (hregs : ∀ q, F (.regs q) = true) (hvec : ∀ q, F (.vec q) = true) (hmem : F (.mem p) = true)
    (hhbm : ∀ q, F (.hbm q) = true) : view F t = view F s := by
  have recorded (u : State) (o : UnitOut) : view F (recordUnit u p en o) = view F u :=
    recordUnit_view _ _ _ _ hfreeIx hout hcores hstores htags hparts hwardrobe hrel (hregs p) hvec hmem (hhbm p)
  unfold convertUnit at e
  dsimp only at e
  obtain ⟨⟨u, v, st⟩, hr, rfl⟩ := Option.map_eq_some_iff.1 e
  have moved : view F u = view F s := by
    split at hr
    · split at hr
      · obtain ⟨u, hu, hr⟩ := Option.map_eq_some_iff.1 hr
        cases hr
        exact (recorded ..).trans (view_foldl_bind hu fun e => putRemote_view e hout hcores hfabric)
      · have checked (o : Option Nat) (bad : Nat → Bool) : view F (match o with
            | some t => if bad t then tileFailed s p t else s
            | none => s) = view F s := by
          split
          · split
            · exact tileFailed_view _ _ _ hout hparts hrel hregs hvec
            · rfl
          · rfl
        split at hr
        · cases hr
          exact checked _ fun t => (viewTile (tileBytes (partOf s p) t) (tileCollar (partOf s p) t) en.dfmt en.dscl).bad
        next u hu =>
          cases hr
          have ready := writeReady_view hu hfreeIx hout hparts hwardrobe hrel hvec (hhbm p)
          refine (recorded ..).trans ((onPart_view _ _ _ hparts (viewPart_foldl _ _ fun y e => ?_)).trans (ready.trans ?_))
          · exact putLocal_view _ _ hmem (hhbm p)
          exact checked _ fun t => (viewTile (tileBytes (partOf s p) t) (tileCollar (partOf s p) t) en.dfmt en.dscl).bad
    · split at hr
      · cases hr
        refine (view_foldl _ _ fun u q => hostWriteAll_view _ _ _ _ _ _ _ hout hcores hparts hpart).trans ?_
        rw [hostWriteAll_view _ _ _ _ _ _ _ hout hcores hparts hpart, spend_view _ _ hfreeIx]
      · cases hr
        refine (view_foldl_fst _ _ fun r q => (view_pair_fst _ _).trans ?_).trans ?_
        · exact storeWrite_view _ _ _ _ _ _ _ hfreeIx hcores hstores htags
        rw [view_pair_fst, storeWrite_view _ _ _ _ _ _ _ hfreeIx hcores hstores htags, spend_view _ _ hfreeIx]
  rw [unitDone_view _ _ _ _ hcores, countBad_view _ _ _ _ hout hparts hrel hregs hvec, violationIf_view _ _ _ hparts (hregs p),
    moved]

theorem tileTransfer_view (s : State) (g i : Nat) (faults : List MemFault) (hfreeIx : F .freeIx = true)
    (hout : F .out = true) (hcores : F .cores = true) (hclusters : F .clusters = true) (hstores : F .stores = true)
    (htags : F .tags = true) (hparts : F .parts = true) (hfabric : F .fabric = true) (hwardrobe : F .wardrobe = true)
    (hrel : F .rel = true) (hmregs : F .mregs = true) (hpart : ∀ q, F (.part q) = true)
    (hregs : ∀ q, F (.regs q) = true) (hvec : ∀ q, F (.vec q) = true) (hmem : ∀ q, F (.mem q) = true)
    (hhbm : ∀ q, F (.hbm q) = true) : view F (tileTransfer s g i faults) = view F s := by
  have faulted : view F (memFaults s faults) = view F s :=
    memFaults_view _ _ hfreeIx hout hcores hstores htags hparts hfabric hwardrobe hrel hmregs hpart hregs hvec hmem hhbm
  have touched (p : Nat) (ts : List Nat) : view F (touchTiles (memFaults s faults) p ts) = view F s :=
    (touchTiles_view _ _ _ hparts (hhbm p)).trans faulted
  unfold tileTransfer
  split
  next d hd _ _ =>
    dsimp only
    refine view_ite (fun _ => rfl) fun _ => view_ite (fun _ => view_ite (fun _ => rfl) fun _ => ?_) fun _ =>
      view_ite (fun _ => rfl) fun _ => view_ite (fun _ => rfl) fun _ => view_ite (fun _ => ?_) fun _ =>
      view_ite (fun _ => ?_) fun _ => ?_
    · split
      next t e => rw [spend_view _ _ hfreeIx, askAll_view e hout hcores hparts hfabric (hpart _)]
      · exact view_ite (fun _ => dmaFinish_view _ _ _ _ hcores) fun _ => rfl
    · rw [unitDone_view _ _ _ _ hcores, faulted]
    · rw [unitDone_view _ _ _ _ hcores, faulted]
    · split
      next t e => rw [boltsReady_view e hfreeIx hout hparts hwardrobe hrel (hregs _) hvec (hhbm _), faulted]
      · rw [unitDone_view _ _ _ _ hcores, faulted]
      · refine view_getD (fun t e => ?_) rfl
        split at e
        · exact (regUnit_view e hfreeIx hout hcores hclusters hstores htags hparts hfabric hwardrobe hrel hmregs
            (hpart _) hregs hvec hmem hhbm).trans (touched ..)
        · split at e
          · exact (copyUnit_view e hfreeIx hout hcores hstores htags hparts hfabric hwardrobe hrel (hpart _) hregs
              hvec (hmem _) (hhbm _)).trans (touched ..)
          · split at e
            · cases e
              exact (dmaFinish_view _ _ _ _ hcores).trans (touched ..)
            · exact (convertUnit_view e hfreeIx hout hcores hstores htags hparts hfabric hwardrobe hrel (hpart _)
                hregs hvec (hmem _) hhbm).trans (touched ..)
  · rfl

theorem dmaRetire_view (s : State) (g : Nat) (d : Dma) (status : Nat) (hfreeIx : F .freeIx = true)
    (hout : F .out = true) (hcores : F .cores = true) (hclusters : F .clusters = true) (hparts : F .parts = true)
    (hpart : ∀ q, F (.part q) = true) (hregs : ∀ q, F (.regs q) = true) (hvec : ∀ q, F (.vec q) = true) :
    view F (dmaRetire s g d status) = view F s := by
  simp only [dmaRetire]
  split
  · simp only [↓onCore_view, hcores]
  · simp only [↓onCore_view, ↓postSem_view, ↓endWaits_view, ↓coreFault_view, ↓apply_ite (view F), ite_self,
    implies_true, hfreeIx, hout, hcores, hclusters, hparts, hpart, hregs, hvec]

theorem dmaComplete_view (s : State) (g i : Nat) (hfreeIx : F .freeIx = true) (hout : F .out = true)
    (hcores : F .cores = true) (hclusters : F .clusters = true) (hparts : F .parts = true)
    (hpart : ∀ q, F (.part q) = true) (hregs : ∀ q, F (.regs q) = true) (hvec : ∀ q, F (.vec q) = true) :
    view F (dmaComplete s g i) = view F s := by
  simp only [dmaComplete]
  split
  · simp only [↓dmaRetire_view, ↓apply_ite (view F), ite_self, implies_true, hfreeIx, hout, hcores, hclusters, hparts,
    hpart, hregs, hvec]
  · rfl

theorem hbmScrub_view (s : State) (p t b d : Nat) (o : HbmOutcome) (hfreeIx : F .freeIx = true) (hout : F .out = true)
    (hparts : F .parts = true) (hrel : F .rel = true) (hpart : F (.part p) = true) (hregs : ∀ q, F (.regs q) = true)
    (hvec : ∀ q, F (.vec q) = true) : view F (hbmScrub s p t b d o) = view F s := by
  simp only [hbmScrub, ↓when_view, ↓hbmEvent_view, implies_true, hfreeIx, hout, hparts, hrel, hpart, hregs, hvec]

theorem flushLines_view {q : Nat} (x : Partition) (b : Nat) (hhbm : F (.hbm q) = true) :
    viewPart F q (flushLines x b) = viewPart F q x := by
  simp only [flushLines, ↓viewPart_mk, true_or, or_true, hhbm]

theorem evictBolt_view {s : State} {p b : Nat} {t : State} (e : evictBolt s p b = some t) (hparts : F .parts = true)
    (hpart : F (.part p) = true) : view F t = view F s := by
  unfold evictBolt at e
  dsimp only at e
  split at e
  · cases e
    simp only [↓putPart_view_part, hparts, hpart]
  · split at e
    · cases e
      simp only [↓putPart_view_part, hparts, hpart]
    · cases e
  · cases e
    rfl

theorem eviction_view (s : State) (p b : Nat) (hparts : F .parts = true) (hpart : F (.part p) = true) :
    view F (eviction s p b) = view F s :=
  when_view (view_getD (fun _ e => evictBolt_view e hparts hpart) rfl)

theorem flashCopyComplete_view (s : State) (p b : Nat) (hfreeIx : F .freeIx = true) (hout : F .out = true)
    (hparts : F .parts = true) (hwardrobe : F .wardrobe = true) (hrel : F .rel = true) (hregs : ∀ q, F (.regs q) = true)
    (hvec : ∀ q, F (.vec q) = true) (hhbm : F (.hbm p) = true) : view F (flashCopyComplete s p b) = view F s := by
  simp only [flashCopyComplete, ↓when_view, ↓copiedOut_view, ↓checkTiles_view, implies_true, hfreeIx, hout, hparts,
    hwardrobe, hrel, hregs, hvec, hhbm]

theorem serveAny_view (s : State) (p : Nat) (x1 : Stalled) (hfreeIx : F .freeIx = true) (hout : F .out = true)
    (hcores : F .cores = true) (hclusters : F .clusters = true) (hstores : F .stores = true) (htags : F .tags = true)
    (hparts : F .parts = true) (hfabric : F .fabric = true) (hwardrobe : F .wardrobe = true) (hrel : F .rel = true)
    (hmregs : F .mregs = true) (hpart : ∀ q, F (.part q) = true) (hregs : ∀ q, F (.regs q) = true)
    (hvec : ∀ q, F (.vec q) = true) (hmem : ∀ q, F (.mem q) = true) (hhbm : ∀ q, F (.hbm q) = true) :
    view F (serveAny s p x1) = view F s := by
  simp only [serveAny]
  split
  · split
    · simp only [↓tileTransfer_view, implies_true, hfreeIx, hout, hcores, hclusters, hstores, htags, hparts, hfabric,
      hwardrobe, hrel, hmregs, hpart, hregs, hvec, hmem, hhbm]
    · rfl
  · simp only [↓serve_view, implies_true, hfreeIx, hout, hparts, hwardrobe, hrel, hmregs, hregs, hvec, hmem, hhbm]

theorem hintOver_view {f : State → Nat → Nat → Option State} {p : Nat} (bs : List Nat) (s : State) (n : Nat)
    (keep : ∀ {u b v}, f u p b = some v → view F v = view F u) : view F (hintOver f p bs s n).1 = view F s := by
  induction bs generalizing s n with
  | nil => rfl
  | cons b bs ih =>
    rw [hintOver]
    split
    next t e => exact (ih t (n + 1)).trans (keep e)
    · rfl

theorem hintPlace_view {s : State} {p k : Nat} {pick : Partition → Nat → Bool} {f : State → Nat → Nat → Option State}
    (keep : ∀ {u b v}, f u p b = some v → view F v = view F u) (hparts : F .parts = true) (hpart : F (.part p) = true) :
    view F (hintPlace s p k pick f) = view F s := by
  unfold hintPlace
  split
  · rfl
  · exact (onPart_view_part _ _ _ hparts hpart).trans (hintOver_view _ _ _ keep)

theorem wantBolt_view {s : State} {p b : Nat} {t : State} (e : wantBolt s p b = some t) (hfreeIx : F .freeIx = true)
    (hout : F .out = true) (hparts : F .parts = true) (hwardrobe : F .wardrobe = true) (hrel : F .rel = true)
    (hvec : ∀ q, F (.vec q) = true) (hhbm : F (.hbm p) = true) : view F t = view F s := by
  unfold wantBolt at e
  simp only [↓beginFetch_view e, implies_true, hfreeIx, hout, hparts, hwardrobe, hrel, hvec, hhbm]

theorem heldBolt_view {s : State} {p b : Nat} {t : State} (e : heldBolt s p b = some t) (hfreeIx : F .freeIx = true)
    (hout : F .out = true) (hparts : F .parts = true) (hwardrobe : F .wardrobe = true) (hrel : F .rel = true)
    (hvec : ∀ q, F (.vec q) = true) (hhbm : F (.hbm p) = true) : view F t = view F s := by
  unfold heldBolt at e
  dsimp only at e
  split at e
  · obtain ⟨u, hu, rfl⟩ := Option.map_eq_some_iff.1 e
    simp only [↓freeFrame_view hu, ↓giveFrame_view, implies_true, hfreeIx, hout, hparts, hwardrobe, hrel, hvec, hhbm]
  · cases e
    simp only [↓onPart_view, ↓Partition_setBolt_view, hparts, hhbm]
  · simp only [↓beginFetch_view e, implies_true, hfreeIx, hout, hparts, hwardrobe, hrel, hvec, hhbm]

theorem keepBolt_view {s : State} {p b : Nat} {t : State} (e : keepBolt s p b = some t) (hfreeIx : F .freeIx = true)
    (hout : F .out = true) (hparts : F .parts = true) (hwardrobe : F .wardrobe = true) (hrel : F .rel = true)
    (hvec : ∀ q, F (.vec q) = true) (hhbm : F (.hbm p) = true) : view F t = view F s := by
  unfold keepBolt at e
  dsimp only at e
  split at e
  · cases e
  · obtain ⟨u, hu, rfl⟩ := Option.map_eq_some_iff.1 e
    simp only [↓heldBolt_view hu, ↓onPart_view, ↓Partition_setBolt_view, implies_true, hfreeIx, hout, hparts, hwardrobe,
      hrel, hvec, hhbm]

theorem clearBolt_view {q : Nat} (x : Partition) (b : Nat) (hmem : F (.mem q) = true) (hhbm : F (.hbm q) = true) :
    viewPart F q (clearBolt x b) = viewPart F q x := by
  simp only [clearBolt, ↓leaveHbm_view, ↓viewPart_mk, true_or, or_true, hmem, hhbm]

theorem dropBolt_view (s : State) (p b : Nat) (hfreeIx : F .freeIx = true) (hout : F .out = true)
    (hparts : F .parts = true) (hwardrobe : F .wardrobe = true) (hrel : F .rel = true) (hmregs : F .mregs = true)
    (hregs : ∀ q, F (.regs q) = true) (hvec : ∀ q, F (.vec q) = true) (hmem : ∀ q, F (.mem q) = true)
    (hhbm : ∀ q, F (.hbm q) = true) : view F (dropBolt s p b) = view F s := by
  simp only [dropBolt, ↓serveStalled_view, ↓serve_view, ↓onPart_view, ↓clearBolt_view, implies_true, hfreeIx, hout,
    hparts, hwardrobe, hrel, hmregs, hregs, hvec, hmem, hhbm]

theorem hintEnd_view (s : State) (p a status done : Nat) (hfreeIx : F .freeIx = true) (hout : F .out = true)
    (hcores : F .cores = true) (hstores : F .stores = true) (htags : F .tags = true) (hparts : F .parts = true)
    (hwardrobe : F .wardrobe = true) (hrel : F .rel = true) (hpart : F (.part p) = true) (hregs : F (.regs p) = true)
    (hvec : ∀ q, F (.vec q) = true) (hmem : F (.mem p) = true) (hhbm : F (.hbm p) = true) :
    view F (hintEnd s p a status done) = view F s := by
  simp only [hintEnd, ↓devWrite_view, ↓onPart_view_part, ↓msix_view, ↓apply_ite (view F), ite_self, implies_true,
    hfreeIx, hout, hcores, hstores, htags, hparts, hwardrobe, hrel, hpart, hregs, hvec, hmem, hhbm]

theorem hintRecordComplete_view (s : State) (p : Nat) (hfreeIx : F .freeIx = true) (hout : F .out = true)
    (hcores : F .cores = true) (hstores : F .stores = true) (htags : F .tags = true) (hparts : F .parts = true)
    (hwardrobe : F .wardrobe = true) (hrel : F .rel = true) (hpart : F (.part p) = true) (hregs : F (.regs p) = true)
    (hvec : ∀ q, F (.vec q) = true) (hmem : F (.mem p) = true) (hhbm : F (.hbm p) = true) :
    view F (hintRecordComplete s p) = view F s := by
  simp only [hintRecordComplete]
  split
  · simp only [↓devRead_view, ↓hintEnd_view, ↓apply_ite (view F), ite_self, implies_true, hfreeIx, hout, hcores,
    hstores, htags, hparts, hwardrobe, hrel, hpart, hregs, hvec, hmem, hhbm]
    split
    · rfl
    · split
      · rfl
      · split
        · simp only [↓devRead_view, ↓hintEnd_view, ↓when_view, implies_true, hfreeIx, hout, hcores, hstores, htags,
          hparts, hwardrobe, hrel, hpart, hregs, hvec, hmem, hhbm]
        · rfl
  · rfl

theorem bumpMreg_view (s : State) (a hi lo n : Nat) (hmregs : F .mregs = true) :
    view F (bumpMreg s a hi lo n) = view F s := by
  simp only [bumpMreg, ↓putMreg_view, hmregs]

theorem putFlit_view (s : State) (c : Nat) (f : Flit) (hout : F .out = true) (hfabric : F .fabric = true) :
    view F (putFlit s c f) = view F s := by
  simp only [putFlit, ↓emit_view, ↓onPort_view, hout, hfabric]

theorem freeHome_view (s : State) (x1 : Home) (hfabric : F .fabric = true) : view F (freeHome s x1) = view F s := by
  simp only [freeHome, ↓onPort_view, hfabric]

theorem freeHomes_view (s : State) (l : List Home) (hfabric : F .fabric = true) :
    view F (freeHomes s l) = view F s := by
  simp only [freeHomes, ↓freeHome_view, ↓view_foldl, implies_true, hfabric]

theorem sendData_view (s : State) (c v wv wl : Nat) (hout : F .out = true) (hfabric : F .fabric = true) :
    view F (sendData s c v wv wl) = view F s := by
  simp only [sendData]
  split
  · rfl
  · simp only [↓freeHomes_view, ↓putFlit_view, ↓putPort_view, hout, hfabric]

theorem flitTransmit_view (s : State) (c : Nat) (hout : F .out = true) (hparts : F .parts = true)
    (hfabric : F .fabric = true) (hrel : F .rel = true) (hmregs : F .mregs = true) (hregs : ∀ q, F (.regs q) = true)
    (hvec : ∀ q, F (.vec q) = true) : view F (flitTransmit s c) = view F s := by
  simp only [flitTransmit, ↓charge_view, ↓bumpMreg_view, ↓putFlit_view, ↓onPort_view, ↓apply_ite (view F), ite_self,
    implies_true, hout, hparts, hfabric, hrel, hmregs, hregs, hvec]
  split
  · rfl
  · split
    · rfl
    · split
      · simp only [↓putFlit_view, ↓onPort_view, hout, hfabric]
      · split
        · simp only [↓sendData_view, hout, hfabric]
        · simp only [↓putFlit_view, hout, hfabric]

theorem flitDiscard_view (s : State) (c : Nat) (hfabric : F .fabric = true) : view F (flitDiscard s c) = view F s := by
  simp only [flitDiscard, ↓onPort_view, hfabric]

theorem laneCorrected_view (s : State) (c lane n : Nat) (hout : F .out = true) (hparts : F .parts = true)
    (hfabric : F .fabric = true) (hrel : F .rel = true) (hmregs : F .mregs = true) (hregs : ∀ q, F (.regs q) = true)
    (hvec : ∀ q, F (.vec q) = true) : view F (laneCorrected s c lane n) = view F s := by
  simp only [laneCorrected, ↓onPort_view, ↓chargeN_view, ↓bumpMreg_view, ↓apply_ite (view F), ite_self, implies_true,
    hout, hparts, hfabric, hrel, hmregs, hregs, hvec]

theorem setRoute_view (s : State) (bank : Bool) (i : Nat) (w : BitVec 32) (hfabric : F .fabric = true) :
    view F (setRoute s bank i w) = view F s := by
  simp only [setRoute, ↓view_mk, ↓apply_ite (view F), ite_self, true_or, or_true, hfabric]

theorem autoClear_view (s : State) (c : Nat) (hfabric : F .fabric = true) : view F (autoClear s c) = view F s := by
  simp only [autoClear, ↓setRoute_view, ↓view_foldl, implies_true, hfabric]

theorem startRetrain_view (s : State) (c : Nat) (hout : F .out = true) (hparts : F .parts = true)
    (hfabric : F .fabric = true) (hrel : F .rel = true) (hmregs : F .mregs = true) (hregs : ∀ q, F (.regs q) = true)
    (hvec : ∀ q, F (.vec q) = true) : view F (startRetrain s c) = view F s := by
  simp only [startRetrain, ↓charge_view, ↓bumpMreg_view, ↓onPort_view, ↓autoClear_view, ↓apply_ite (view F), ite_self,
    implies_true, hout, hparts, hfabric, hrel, hmregs, hregs, hvec]

theorem takeLctl_view (s : State) (c : Nat) (f : Flit) (hfreeIx : F .freeIx = true) (hfabric : F .fabric = true) :
    view F (takeLctl s c f) = view F s := by
  simp only [takeLctl, ↓spend_view, ↓putPort_view, hfreeIx, hfabric]

theorem countBadType_view (s : State) (via : Option Nat) (hfabric : F .fabric = true) (hmregs : F .mregs = true) :
    view F (countBadType s via) = view F s := by
  simp only [countBadType]
  split
  · simp only [↓bumpMreg_view, hmregs]
  · simp only [↓view_mk, true_or, or_true, hfabric]

theorem countNoKey_view (s : State) (via : Option Nat) (hfabric : F .fabric = true) (hmregs : F .mregs = true) :
    view F (countNoKey s via) = view F s := by
  simp only [countNoKey]
  split
  · simp only [↓bumpMreg_view, hmregs]
  · simp only [↓view_mk, true_or, or_true, hfabric]

theorem answerFenced_view (s : State) (m : Msg) (hout : F .out = true) (hfabric : F .fabric = true) :
    view F (answerFenced s m) = view F s := by
  simp only [answerFenced, ↓sendOnDie_view, hout, hfabric]

theorem routeWay_view (s : State) (vc : Nat) (m : Msg) (hout : F .out = true) (hfabric : F .fabric = true) :
    view F (routeWay s vc m).2 = view F s := by
  simp only [routeWay]
  split
  · rfl
  · split
    · rfl
    · simp only [↓newMid_view, hfabric]
    · rfl
    · simp only [↓answerFenced_view, ↓countNoRoute_view, ↓apply_ite (view F), ite_self, hout, hfabric]

theorem headWay_view (s : State) (via : Option Nat) (vc : Nat) (m : Msg) (hout : F .out = true)
    (hfabric : F .fabric = true) (hmregs : F .mregs = true) : view F (headWay s via vc m).2 = view F s := by
  simp only [headWay]
  split
  · simp only [↓countBadType_view, hfabric, hmregs]
  · split
    · split
      · rfl
      · split
        · simp only [↓countNoKey_view, hfabric, hmregs]
        · split
          · rfl
          · split
            · rfl
            · simp only [↓routeWay_view, hout, hfabric]
    · split
      · simp only [↓countNoKey_view, hfabric, hmregs]
      · split
        · rfl
        · simp only [↓routeWay_view, hout, hfabric]

theorem cutMid_view (s : State) (m : Nat) (hfabric : F .fabric = true) : view F (cutMid s m) = view F s := by
  simp only [cutMid, ↓onPort_view, ↓freeHomes_view, ↓view_foldl, implies_true, hfabric]

theorem stopRx_view (s : State) (r : RxMsg) (hfabric : F .fabric = true) : view F (stopRx s r) = view F s := by
  simp only [stopRx]
  split
  · simp only [↓freeHomes_view, ↓cutMid_view, hfabric]
  · simp only [↓freeHomes_view, hfabric]

theorem passFlit_view (s : State) (c : Nat) (f : Flit) (hfabric : F .fabric = true) :
    view F (passFlit s c f) = view F s := by
  simp only [passFlit, ↓onPort_view, hfabric]

theorem takeFlit_view (s : State) (via : Option Nat) (r : RxMsg) (home : Option Home) (f : Flit) (hout : F .out = true)
    (hfabric : F .fabric = true) (hmregs : F .mregs = true) : view F (takeFlit s via r home f).2 = view F s := by
  simp only [takeFlit]
  split
  · simp only [↓freeHomes_view, hfabric]
    split
    · simp only [↓headWay_view, ↓stopRx_view, hout, hfabric, hmregs]
    · rfl
  · split
    · simp only [↓freeHomes_view, ↓deliver_view, hout, hfabric]
      split
      · simp only [↓headWay_view, ↓stopRx_view, hout, hfabric, hmregs]
      · rfl
    · simp only []
      split
      · simp only [↓headWay_view, ↓stopRx_view, hout, hfabric, hmregs]
      · rfl
  · simp only [↓passFlit_view, hfabric]
    split
    · simp only [↓headWay_view, ↓stopRx_view, hout, hfabric, hmregs]
    · rfl
  · split
    · simp only [↓freeHomes_view, ↓tunnelOut_view, hout, hfabric]
      split
      · simp only [↓headWay_view, ↓stopRx_view, hout, hfabric, hmregs]
      · rfl
    · simp only []
      split
      · simp only [↓headWay_view, ↓stopRx_view, hout, hfabric, hmregs]
      · rfl

theorem joinMsg_view (s : State) (c : Nat) (home : Option Home) (f : Flit) (hout : F .out = true)
    (hfabric : F .fabric = true) (hmregs : F .mregs = true) : view F (joinMsg s c home f) = view F s := by
  simp only [joinMsg, ↓takeFlit_view, ↓onPort_view, hout, hfabric, hmregs]

theorem takeInOrder_view (s : State) (c : Nat) (x1 : Home) (f : Flit) (hout : F .out = true)
    (hfabric : F .fabric = true) (hmregs : F .mregs = true) : view F (takeInOrder s c x1 f) = view F s := by
  simp only [takeInOrder, ↓onPort_view, ↓joinMsg_view, hout, hfabric, hmregs]

theorem takeSequenced_view (s : State) (c : Nat) (f : Flit) (hout : F .out = true) (hfabric : F .fabric = true)
    (hmregs : F .mregs = true) : view F (takeSequenced s c f) = view F s := by
  simp only [takeSequenced]
  split
  · simp only [↓flitDiscard_view, hfabric]
  · simp only [↓flitDiscard_view, ↓takeInOrder_view, ↓joinMsg_view, ↓apply_ite (view F), ite_self, hout, hfabric,
    hmregs]

theorem flitReceive_view (s : State) (c : Nat) (w : RxCodeword) (hfreeIx : F .freeIx = true) (hout : F .out = true)
    (hparts : F .parts = true) (hfabric : F .fabric = true) (hrel : F .rel = true) (hmregs : F .mregs = true)
    (hregs : ∀ q, F (.regs q) = true) (hvec : ∀ q, F (.vec q) = true) : view F (flitReceive s c w) = view F s := by
  simp only [flitReceive, ↓apply_ite (view F)]
  split
  · rfl
  · split
    · simp only [↓flitDiscard_view, hfabric]
    · simp only [↓flitDiscard_view, ↓laneCorrected_view, ↓onPort_view, ↓startRetrain_view, ↓takeLctl_view,
      ↓takeSequenced_view, ↓apply_ite (view F), ite_self, implies_true, hfreeIx, hout, hparts, hfabric, hrel, hmregs,
      hregs, hvec]

theorem sendOn_view (s : State) (mask : BitVec 18) (m : Msg) (hout : F .out = true) (hfabric : F .fabric = true) :
    view F (sendOn s mask m) = view F s := by
  simp only [sendOn, ↓sendOnDie_view, hout, hfabric]

theorem sendHold_view (s : State) (c : Nat) (d : DevId) (hout : F .out = true) (hfabric : F .fabric = true) :
    view F (sendHold s c d) = view F s := by
  simp only [sendHold, ↓sendOn_view, hout, hfabric]

theorem hem_view (s : State) (c : Nat) (lost : BitVec 4) (hout : F .out = true) (hparts : F .parts = true)
    (hfabric : F .fabric = true) (hrel : F .rel = true) (hmregs : F .mregs = true) (hregs : ∀ q, F (.regs q) = true)
    (hvec : ∀ q, F (.vec q) = true) : view F (hem s c lost) = view F s := by
  simp only [hem, ↓startRetrain_view, ↓onPort_view, ↓autoClear_view, ↓sendHold_view, ↓view_foldl, ↓apply_ite (view F),
    ite_self, implies_true, hout, hparts, hfabric, hrel, hmregs, hregs, hvec]

theorem hemComplete_view (s : State) (c : Nat) (kept : BitVec 4) (hout : F .out = true) (hparts : F .parts = true)
    (hfabric : F .fabric = true) (hrel : F .rel = true) (hmregs : F .mregs = true) (hregs : ∀ q, F (.regs q) = true)
    (hvec : ∀ q, F (.vec q) = true) : view F (hemComplete s c kept) = view F s := by
  simp only [hemComplete, ↓charge_view, ↓startRetrain_view, ↓onPort_view, ↓view_foldl, ↓apply_ite (view F), ite_self,
    implies_true, hout, hparts, hfabric, hrel, hmregs, hregs, hvec]

theorem takeInbox_view (s : State) (m : Msg) (hfabric : F .fabric = true) : view F (takeInbox s m) = view F s := by
  simp only [takeInbox, ↓view_mk, true_or, or_true, hfabric]

theorem hold_view (s : State) (m : Msg) (hfabric : F .fabric = true) : view F (hold s m) = view F s := by
  simp only [hold, ↓takeInbox_view, ↓view_mk, ↓apply_ite (view F), ite_self, true_or, or_true, hfabric]

theorem retrainComplete_view (s : State) (c : Nat) (lanes : BitVec 4) (hfreeIx : F .freeIx = true)
    (hfabric : F .fabric = true) : view F (retrainComplete s c lanes) = view F s := by
  simp only [retrainComplete, ↓onPort_view, ↓spend_view, ↓apply_ite (view F), ite_self, hfreeIx, hfabric]

theorem acceptMsg_view (s : State) (via : Option Nat) (m : Msg) (hfabric : F .fabric = true) (hmregs : F .mregs = true)
    : view F (acceptMsg s via m).2 = view F s := by
  simp only [acceptMsg]
  split
  · simp only [↓takeInbox_view, hfabric]
  · split
    · rfl
    · split
      · simp only [↓takeInbox_view, ↓countBadType_view, hfabric, hmregs]
      · split
        · simp only [↓takeInbox_view, hfabric]
        · simp only [↓takeInbox_view, ↓countNoKey_view, hfabric, hmregs]

theorem sendMsg_view (s : State) (m : Msg) (hout : F .out = true) (hfabric : F .fabric = true) :
    view F (sendMsg s m) = view F s := by
  simp only [sendMsg, ↓sendOn_view, hout, hfabric]

theorem answer_view (s : State) (m : Msg) (mtype status : Nat) (payload collar : List Byte) (hout : F .out = true)
    (hfabric : F .fabric = true) : view F (answer s m mtype status payload collar) = view F s := by
  simp only [answer, ↓sendMsg_view, hout, hfabric]

theorem countViolation_view (s : State) (x1 : Option Nat) (hparts : F .parts = true) (hmregs : F .mregs = true)
    (hregs : ∀ q, F (.regs q) = true) : view F (countViolation s x1) = view F s := by
  simp only [countViolation]
  split
  · simp only [↓violation_view, hparts, hregs]
  · simp only [↓devViolation_view, hmregs]

theorem serveRead_view (s : State) (via : Option Nat) (m : Msg) (hout : F .out = true) (hparts : F .parts = true)
    (hfabric : F .fabric = true) (hmregs : F .mregs = true) (hregs : ∀ q, F (.regs q) = true)
    (hhbm : ∀ q, F (.hbm q) = true) : view F (serveRead s via m) = view F s := by
  simp only [serveRead, ↓apply_ite (view F)]
  split
  · rfl
  · split
    next x t e => simp only [↓view_of_eq_snd e, ↓acceptMsg_view, hfabric, hmregs]
    next x x2 t e =>
      split
      · simp only [↓view_of_eq_snd e, ↓acceptMsg_view, ↓answer_view, hout, hfabric, hmregs]
      · simp only [↓view_of_eq_snd e, ↓acceptMsg_view, ↓answer_view, ↓countViolation_view, implies_true, hout, hparts,
        hfabric, hmregs, hregs]
      · simp only [↓view_of_eq_snd e, ↓acceptMsg_view, ↓answer_view, ↓touchTiles_view, hout, hparts, hfabric, hmregs,
        hhbm]

theorem countLate_view (s : State) (p : Nat) (hout : F .out = true) (hparts : F .parts = true)
    (hregs : F (.regs p) = true) (hvec : F (.vec p) = true) : view F (countLate s p) = view F s := by
  simp only [countLate, ↓errEvent_view, ↓apply_ite (view F), ite_self, hout, hparts, hregs, hvec]

theorem sendWaited_view (s : State) (die : Bool) (hout : F .out = true) (hfabric : F .fabric = true) :
    view F (sendWaited s die) = view F s := by
  simp only [sendWaited]
  split
  · rfl
  · simp only [↓sendWaiting_view, ↓view_mk, true_or, or_true, hout, hfabric]

theorem sendColl_view (s : State) (p : Nat) (q : Group) (k : Coll) (w : CollSend) (hout : F .out = true)
    (hfabric : F .fabric = true) : view F (sendColl s p q k w).1 = view F s := by
  simp only [sendColl, ↓sendRequestOn_view, hout, hfabric]

theorem pump_view (p : Nat) (q : Group) (s : State) (k : Coll) (hout : F .out = true) (hfabric : F .fabric = true) :
    view F (pump p q s k).1 = view F s := by
  simp only [pump]
  refine (view_foldl_fst _ _ fun r e => ?_).trans ?_
  · split
    · split <;> simp only [↓sendColl_view, hout, hfabric]
    · rfl
  · rfl

theorem onColl_view (s : State) (p g : Nat) (o : BitVec 16) (f : Coll → Coll) (hout : F .out = true)
    (hparts : F .parts = true) (hfabric : F .fabric = true) (hpart : F (.part p) = true) :
    view F (onColl s p g o f) = view F s := by
  simp only [onColl]
  split
  · simp only [↓pump_view, ↓putColl_view, hout, hparts, hfabric, hpart]
  · rfl

theorem buildTile_view {s : State} {p : Nat} {te : List Byte} {q t : Nat} {pay : List Byte} {c : Collar} {u : State}
    (e : buildTile s p te q t = some (pay, c, u)) (hfreeIx : F .freeIx = true) (hout : F .out = true)
    (hparts : F .parts = true) (hwardrobe : F .wardrobe = true) (hrel : F .rel = true) (hmregs : F .mregs = true)
    (hregs : ∀ q, F (.regs q) = true) (hvec : ∀ q, F (.vec q) = true) (hmem : ∀ q, F (.mem q) = true)
    (hhbm : ∀ q, F (.hbm q) = true) : view F u = view F s := by
  unfold buildTile at e
  extract_lets ds f scl src es wide part tiles at e
  split at e
  · cases e
  next s0 h0 =>
    have ready : view F s0 = view F s :=
      readyAll_view h0 fun e => fetchNow_view e hfreeIx hout hparts hwardrobe hrel hmregs hregs hvec hmem hhbm
    have read (l : List Nat) (ts : List Nat) (bad : Nat → Bool) :
        view F (l.foldl (fun a i => if bad i then tileFailed a p i else a) (touchTiles s0 p ts)) = view F s := by
      refine (view_foldl _ _ fun a i => ?_).trans ((touchTiles_view _ _ _ hparts (hhbm p)).trans ready)
      split
      · exact tileFailed_view _ _ _ hout hparts hrel hregs hvec
      · rfl
    extract_lets y s1 el xs ws o sc same sames pois sat aud tv tsc vals scs pk at e
    have hs1 : view F s1 = view F s := read ..
    split at e
    · exact (congrArg (fun r => view F r.2.2) (Option.some.inj e)).symm.trans hs1
    · exact (congrArg (fun r => view F r.2.2) (Option.some.inj e)).symm.trans hs1

theorem sendTiles_view (p : Nat) (pl : Plan) (fuel : Nat) (s : State) (w : PlanSend) (hfreeIx : F .freeIx = true)
    (hout : F .out = true) (hparts : F .parts = true) (hfabric : F .fabric = true) (hwardrobe : F .wardrobe = true)
    (hrel : F .rel = true) (hmregs : F .mregs = true) (hregs : ∀ q, F (.regs q) = true) (hvec : ∀ q, F (.vec q) = true)
    (hmem : ∀ q, F (.mem q) = true) (hhbm : ∀ q, F (.hbm q) = true) :
    view F (sendTiles p pl fuel s w).1 = view F s := by
  induction fuel generalizing s w with
  | zero => rfl
  | succ fuel ih =>
    rw [sendTiles]
    split
    · rfl
    · dsimp only
      split
      · rfl
      next s1 e =>
        have built := buildTile_view e hfreeIx hout hparts hwardrobe hrel hmregs hregs hvec hmem hhbm
        split
        · rw [ih, sendRequest_view _ _ _ _ _ _ hout hfabric, built]
        · rfl

theorem sendCtrl_view (s : State) (p gix : Nat) (kind : ReqKind) (m : Msg) (hout : F .out = true)
    (hfabric : F .fabric = true) : view F (sendCtrl s p gix kind m) = view F s := by
  simp only [sendCtrl, ↓sendWaiting_view, hout, hfabric]

theorem planCtrl_view (s : State) (p : Nat) (pl : Plan) (code tst tensor to_ first count : Nat) (dgst : BitVec 384)
    (hout : F .out = true) (hfabric : F .fabric = true) :
    view F (planCtrl s p pl code tst tensor to_ first count dgst) = view F s := by
  simp only [planCtrl, ↓sendCtrl_view, hout, hfabric]

theorem sendTdone_view (s : State) (p : Nat) (pl : Plan) (w : PlanSend) (hout : F .out = true)
    (hfabric : F .fabric = true) : view F (sendTdone s p pl w) = view F s := by
  simp only [sendTdone, ↓planCtrl_view, hout, hfabric]

theorem sendTold_view (s : State) (p : Nat) (t : Told) (e : Nat × DevId) (hout : F .out = true)
    (hfabric : F .fabric = true) : view F (sendTold s p t e) = view F s := by
  simp only [sendTold, ↓sendCtrl_view, hout, hfabric]

theorem tellAll_view (s : State) (p : Nat) (pl : Plan) (code status : Nat) (swseam : BitVec 32) (hout : F .out = true)
    (hparts : F .parts = true) (hfabric : F .fabric = true) (hpart : F (.part p) = true) :
    view F (tellAll s p pl code status swseam) = view F s := by
  simp only [tellAll, ↓onPart_view_part, ↓sendTold_view, ↓view_foldl, implies_true, hout, hparts, hfabric, hpart]

theorem forgetRecords_view {q : Nat} (x : Partition) (i : Nat) (hpart : F (.part q) = true) :
    viewPart F q (forgetRecords x i) = viewPart F q x :=
  viewPart_of_part hpart _ _

theorem setWstate_view {q : Nat} (x : Partition) (i v : Nat) (hpart : F (.part q) = true) :
    viewPart F q (setWstate x i v) = viewPart F q x :=
  viewPart_of_part hpart _ _

theorem undoPlan_view {q : Nat} (x : Partition) (pl : Plan) (hpart : F (.part q) = true) :
    viewPart F q (undoPlan x pl) = viewPart F q x :=
  viewPart_of_part hpart _ _

theorem planEnd_view (s : State) (p status : Nat) (hout : F .out = true) (hparts : F .parts = true)
    (hpart : F (.part p) = true) (hvec : F (.vec p) = true) : view F (planEnd s p status) = view F s := by
  simp only [planEnd]
  split
  · rfl
  · simp only [↓onPart_view_part, ↓msix_view, ↓apply_ite (view F), ite_self, hout, hparts, hpart, hvec]

theorem planFail_view (s : State) (p status : Nat) (hout : F .out = true) (hparts : F .parts = true)
    (hfabric : F .fabric = true) (hpart : F (.part p) = true) (hvec : F (.vec p) = true) :
    view F (planFail s p status) = view F s := by
  simp only [planFail]
  split
  · rfl
  · simp only [↓tellAll_view, ↓planCtrl_view, ↓planEnd_view, ↓apply_ite (view F), ite_self, hout, hparts, hfabric,
    hpart, hvec]

theorem onPlan_view (s : State) (p : Nat) (f : Plan → Plan) (hparts : F .parts = true) (hpart : F (.part p) = true) :
    view F (onPlan s p f) = view F s := by
  simp only [onPlan, ↓onPart_view_part, hparts, hpart]

theorem pumpSends_view (s : State) (p : Nat) (hfreeIx : F .freeIx = true) (hout : F .out = true)
    (hparts : F .parts = true) (hfabric : F .fabric = true) (hwardrobe : F .wardrobe = true) (hrel : F .rel = true)
    (hmregs : F .mregs = true) (hpart : F (.part p) = true) (hregs : ∀ q, F (.regs q) = true)
    (hvec : ∀ q, F (.vec q) = true) (hmem : ∀ q, F (.mem q) = true) (hhbm : ∀ q, F (.hbm q) = true) :
    view F (pumpSends s p) = view F s := by
  simp only [pumpSends]
  split
  · rfl
  · simp only [↓planFail_view, ↓onPlan_view, ↓apply_ite (view F), hout, hparts, hfabric, hpart, hvec]
    split
    · rfl
    · split
      · rfl
      · refine (view_foldl_fst _ _ fun r e => ?_).trans ?_
        · split
          · rfl
          · split
            · simp only [↓sendTiles_view, ↓sendTdone_view, implies_true, hfreeIx, hout, hparts, hfabric, hwardrobe,
              hrel, hmregs, hregs, hvec, hmem, hhbm]
            · simp only [↓sendTiles_view, implies_true, hfreeIx, hout, hparts, hfabric, hwardrobe, hrel, hmregs, hregs,
              hvec, hmem, hhbm]
        · rfl

theorem tagFreed_view (s : State) (die : Bool) (hfreeIx : F .freeIx = true) (hout : F .out = true)
    (hparts : F .parts = true) (hfabric : F .fabric = true) (hwardrobe : F .wardrobe = true) (hrel : F .rel = true)
    (hmregs : F .mregs = true) (hpart : ∀ q, F (.part q) = true) (hregs : ∀ q, F (.regs q) = true)
    (hvec : ∀ q, F (.vec q) = true) (hmem : ∀ q, F (.mem q) = true) (hhbm : ∀ q, F (.hbm q) = true) :
    view F (tagFreed s die) = view F s := by
  simp only [tagFreed]
  refine (view_foldl _ _ fun t e => ?_).trans ?_
  · simp only [↓onColl_view, ↓pumpSends_view, ↓view_foldl, implies_true, hfreeIx, hout, hparts, hfabric, hwardrobe,
    hrel, hmregs, hpart, hregs, hvec, hmem, hhbm]
  · simp only [↓sendWaited_view, hout, hfabric]

theorem tileArrives_view (s : State) (g id a : Nat) (pay : List Byte) (col : Collar) (st : Nat)
    (hcores : F .cores = true) : view F (tileArrives s g id a pay col st) = view F s := by
  simp only [tileArrives, ↓onDma_view, hcores]

theorem collMsgEnd_view (s : State) (p g : Nat) (o : BitVec 16) (status : Nat) (hfreeIx : F .freeIx = true)
    (hout : F .out = true) (hparts : F .parts = true) (hfabric : F .fabric = true) (hwardrobe : F .wardrobe = true)
    (hrel : F .rel = true) (hmregs : F .mregs = true) (hpart : F (.part p) = true) (hregs : ∀ q, F (.regs q) = true)
    (hvec : ∀ q, F (.vec q) = true) (hmem : ∀ q, F (.mem q) = true) (hhbm : ∀ q, F (.hbm q) = true) :
    view F (collMsgEnd s p g o status) = view F s := by
  simp only [collMsgEnd]
  split
  · rfl
  · simp only [↓putColl_view, ↓apply_ite (view F), hparts, hpart]
    split
    · rfl
    · split
      · simp only [↓putColl_view, ↓endColl_view, implies_true, hfreeIx, hout, hparts, hfabric, hwardrobe, hrel, hmregs,
        hpart, hregs, hvec, hmem, hhbm]
      · simp only [↓putColl_view, hparts, hpart]

theorem onXfer_view (s : State) (p i : Nat) (f : Xfer → Xfer) (hparts : F .parts = true) (hpart : F (.part p) = true) :
    view F (onXfer s p i f) = view F s := by
  simp only [onXfer, ↓onPlan_view, hparts, hpart]

theorem storeDest_view {s : State} {p : Nat} {pl : Plan} {te : List Byte} {t : Nat} {pay : List Byte} {c : Collar}
    {u : State} (e : storeDest s p pl te t pay c = some u) (hfreeIx : F .freeIx = true) (hout : F .out = true)
    (hparts : F .parts = true) (hwardrobe : F .wardrobe = true) (hrel : F .rel = true) (hmregs : F .mregs = true)
    (hregs : ∀ q, F (.regs q) = true) (hvec : ∀ q, F (.vec q) = true) (hmem : ∀ q, F (.mem q) = true)
    (hhbm : ∀ q, F (.hbm q) = true) : view F u = view F s := by
  unfold storeDest at e
  dsimp only at e
  split at e
  · cases e
    exact violation_view _ _ hparts (hregs p)
  · obtain ⟨v, hv, rfl⟩ := Option.map_eq_some_iff.1 e
    have ready := engineReady_view hv hfreeIx hout hparts hwardrobe hrel hmregs hregs hvec hmem hhbm
    refine (onPart_view _ _ _ hparts ?_).trans ready
    exact putTile_view _ _ _ _ (hmem p) (hhbm p)

theorem moveOwn_view {s : State} {p i : Nat} {pl : Plan} {x : Xfer} {t : State} (e : moveOwn s p i pl x = some t)
    (hfreeIx : F .freeIx = true) (hout : F .out = true) (hparts : F .parts = true) (hwardrobe : F .wardrobe = true)
    (hrel : F .rel = true) (hmregs : F .mregs = true) (hpart : F (.part p) = true) (hregs : ∀ q, F (.regs q) = true)
    (hvec : ∀ q, F (.vec q) = true) (hmem : ∀ q, F (.mem q) = true) (hhbm : ∀ q, F (.hbm q) = true) :
    view F t = view F s := by
  refine view_foldl_bind e fun {x u v} e => ?_
  obtain ⟨⟨pay, c, w⟩, hb, e⟩ := Option.bind_eq_some_iff.1 e
  obtain ⟨y, hy, rfl⟩ := Option.map_eq_some_iff.1 e
  rw [onXfer_view _ _ _ _ hparts hpart, storeDest_view hy hfreeIx hout hparts hwardrobe hrel hmregs hregs hvec hmem hhbm,
    buildTile_view hb hfreeIx hout hparts hwardrobe hrel hmregs hregs hvec hmem hhbm]

theorem sendPull_view (s : State) (p : Nat) (pl : Plan) (x : Xfer) (first count : Nat) (hout : F .out = true)
    (hfabric : F .fabric = true) : view F (sendPull s p pl x first count) = view F s := by
  simp only [sendPull, ↓planCtrl_view, hout, hfabric]

theorem askXfer_view (s : State) (p i : Nat) (all : Bool) (hfreeIx : F .freeIx = true) (hout : F .out = true)
    (hparts : F .parts = true) (hfabric : F .fabric = true) (hwardrobe : F .wardrobe = true) (hrel : F .rel = true)
    (hmregs : F .mregs = true) (hpart : F (.part p) = true) (hregs : ∀ q, F (.regs q) = true)
    (hvec : ∀ q, F (.vec q) = true) (hmem : ∀ q, F (.mem q) = true) (hhbm : ∀ q, F (.hbm q) = true) :
    view F (askXfer s p i all) = view F s := by
  simp only [askXfer]
  split
  · rfl
  · split
    · rfl
    · simp only [↓onXfer_view, ↓sendPull_view, ↓view_foldl, ↓apply_ite (view F), implies_true, hout, hparts, hfabric,
      hpart]
      split
      · split
        next x t e => simp only [↓moveOwn_view e, implies_true, hfreeIx, hout, hparts, hwardrobe, hrel, hmregs, hpart,
          hregs, hvec, hmem, hhbm]
        · simp only [↓planFail_view, hout, hparts, hfabric, hpart, hvec]
      · rfl

theorem checkAdapters_view (s : State) (p i : Nat) (hfreeIx : F .freeIx = true) (hout : F .out = true)
    (hcores : F .cores = true) (hstores : F .stores = true) (htags : F .tags = true) (hparts : F .parts = true)
    (hwardrobe : F .wardrobe = true) (hrel : F .rel = true) (hregs : F (.regs p) = true) (hvec : ∀ q, F (.vec q) = true)
    (hmem : F (.mem p) = true) (hhbm : F (.hbm p) = true) : view F (checkAdapters s p i) = view F s := by
  simp only [checkAdapters]
  refine (view_foldl_fst _ _ fun r e => ?_).trans ?_
  · simp only [↓devRead_view, ↓devWrite_view, ↓errEvent_view, ↓apply_ite (view F), ite_self, implies_true, hfreeIx,
    hout, hcores, hstores, htags, hparts, hwardrobe, hrel, hregs, hvec, hmem, hhbm]
  · rfl

theorem writeDigests_view (s : State) (p : Nat) (pl : Plan) (gen : Nat) (hfreeIx : F .freeIx = true)
    (hout : F .out = true) (hcores : F .cores = true) (hstores : F .stores = true) (htags : F .tags = true)
    (hparts : F .parts = true) (hwardrobe : F .wardrobe = true) (hrel : F .rel = true) (hpart : F (.part p) = true)
    (hregs : F (.regs p) = true) (hvec : ∀ q, F (.vec q) = true) (hmem : F (.mem p) = true) (hhbm : F (.hbm p) = true) :
    view F (writeDigests s p pl gen) = view F s := by
  simp only [writeDigests, ↓devWriteBy_view, ↓onPart_view_part, ↓view_foldl, ↓apply_ite (view F), ite_self,
    implies_true, hfreeIx, hout, hcores, hstores, htags, hparts, hwardrobe, hrel, hpart, hregs, hvec, hmem, hhbm]

theorem putPlan_view (s : State) (p : Nat) (pl : Option Plan) (hparts : F .parts = true) (hpart : F (.part p) = true) :
    view F (putPlan s p pl) = view F s := by
  simp only [putPlan, ↓onPart_view_part, hparts, hpart]

theorem planCommit_view (s : State) (p : Nat) (swseam : BitVec 32) (hfreeIx : F .freeIx = true) (hout : F .out = true)
    (hcores : F .cores = true) (hstores : F .stores = true) (htags : F .tags = true) (hparts : F .parts = true)
    (hwardrobe : F .wardrobe = true) (hrel : F .rel = true) (hpart : F (.part p) = true) (hregs : F (.regs p) = true)
    (hvec : ∀ q, F (.vec q) = true) (hmem : F (.mem p) = true) (hhbm : F (.hbm p) = true) :
    view F (planCommit s p swseam) = view F s := by
  simp only [planCommit]
  split
  · rfl
  · simp only [↓putReg_view, ↓writeDigests_view, ↓onPlan_view, ↓putPlan_view, ↓msix_view, ↓apply_ite (view F), ite_self,
    implies_true, hfreeIx, hout, hcores, hstores, htags, hparts, hwardrobe, hrel, hpart, hregs, hvec, hmem, hhbm]
    split
    · simp only [↓putReg_view, ↓checkAdapters_view, ↓onPart_view_part, ↓apply_ite (view F), ite_self, implies_true,
      hfreeIx, hout, hcores, hstores, htags, hparts, hwardrobe, hrel, hpart, hregs, hvec, hmem, hhbm]
      split
      · simp only [↓putReg_view, hparts, hregs]
      · rfl
    · simp only [↓putReg_view, ↓apply_ite (view F), ite_self, hparts, hregs]
      split
      · simp only [↓putReg_view, hparts, hregs]
      · rfl

theorem planAgreed_view (s : State) (p : Nat) (hfreeIx : F .freeIx = true) (hout : F .out = true)
    (hcores : F .cores = true) (hstores : F .stores = true) (htags : F .tags = true) (hparts : F .parts = true)
    (hfabric : F .fabric = true) (hwardrobe : F .wardrobe = true) (hrel : F .rel = true) (hpart : F (.part p) = true)
    (hregs : F (.regs p) = true) (hvec : ∀ q, F (.vec q) = true) (hmem : F (.mem p) = true) (hhbm : F (.hbm p) = true) :
    view F (planAgreed s p) = view F s := by
  simp only [planAgreed]
  split
  · rfl
  · simp only [↓planCommit_view, ↓tellAll_view, ↓apply_ite (view F), ite_self, implies_true, hfreeIx, hout, hcores,
    hstores, htags, hparts, hfabric, hwardrobe, hrel, hpart, hregs, hvec, hmem, hhbm]

theorem planSeal_view (s : State) (p : Nat) (hfreeIx : F .freeIx = true) (hout : F .out = true)
    (hcores : F .cores = true) (hstores : F .stores = true) (htags : F .tags = true) (hparts : F .parts = true)
    (hfabric : F .fabric = true) (hwardrobe : F .wardrobe = true) (hrel : F .rel = true) (hpart : F (.part p) = true)
    (hregs : F (.regs p) = true) (hvec : ∀ q, F (.vec q) = true) (hmem : F (.mem p) = true) (hhbm : F (.hbm p) = true) :
    view F (planSeal s p) = view F s := by
  simp only [planSeal]
  split
  · rfl
  · simp only [↓putReg_view, ↓planAgreed_view, ↓onPlan_view, ↓planCtrl_view, ↓apply_ite (view F), ite_self,
    implies_true, hfreeIx, hout, hcores, hstores, htags, hparts, hfabric, hwardrobe, hrel, hpart, hregs, hvec, hmem,
    hhbm]

theorem nextTry_view (p i fuel : Nat) (s : State) (hfreeIx : F .freeIx = true) (hout : F .out = true)
    (hcores : F .cores = true) (hstores : F .stores = true) (htags : F .tags = true) (hparts : F .parts = true)
    (hfabric : F .fabric = true) (hwardrobe : F .wardrobe = true) (hrel : F .rel = true) (hmregs : F .mregs = true)
    (hpart : F (.part p) = true) (hregs : ∀ q, F (.regs q) = true) (hvec : ∀ q, F (.vec q) = true)
    (hmem : ∀ q, F (.mem q) = true) (hhbm : ∀ q, F (.hbm q) = true) : view F (nextTry p i fuel s) = view F s := by
  induction fuel generalizing s with
  | zero => rfl
  | succ fuel ih =>
    rw [nextTry]
    split
    · rfl
    · split
      · exact planFail_view _ _ _ hout hparts hfabric hpart (hvec p)
      · extract_lets s1 s2 s3
        have asked : view F s3 = view F s := by
          rw [askXfer_view _ _ _ _ hfreeIx hout hparts hfabric hwardrobe hrel hmregs hpart hregs hvec hmem hhbm,
            putReg_view _ _ _ _ _ _ hparts (hregs p), onXfer_view _ _ _ _ hparts hpart]
        split
        · exact asked
        · split
          · exact asked
          · split
            · exact (ih s3).trans asked
            · split
              · exact asked
              · rw [planSeal_view _ _ hfreeIx hout hcores hstores htags hparts hfabric hwardrobe hrel hpart (hregs p) hvec
                  (hmem p) (hhbm p), onXfer_view _ _ _ _ hparts hpart, asked]

theorem pullAnswered_view (s : State) (p tensor rank status : Nat) (hfreeIx : F .freeIx = true) (hout : F .out = true)
    (hcores : F .cores = true) (hstores : F .stores = true) (htags : F .tags = true) (hparts : F .parts = true)
    (hfabric : F .fabric = true) (hwardrobe : F .wardrobe = true) (hrel : F .rel = true) (hmregs : F .mregs = true)
    (hpart : F (.part p) = true) (hregs : ∀ q, F (.regs q) = true) (hvec : ∀ q, F (.vec q) = true)
    (hmem : ∀ q, F (.mem q) = true) (hhbm : ∀ q, F (.hbm q) = true) :
    view F (pullAnswered s p tensor rank status) = view F s := by
  simp only [pullAnswered]
  split
  · rfl
  · split
    · rfl
    · simp only [↓onXfer_view, ↓planFail_view, ↓nextTry_view, ↓apply_ite (view F), ite_self, implies_true, hfreeIx,
      hout, hcores, hstores, htags, hparts, hfabric, hwardrobe, hrel, hmregs, hpart, hregs, hvec, hmem, hhbm]

theorem toldAcked_view (s : State) (p : Nat) (planid : BitVec 32) (phash : BitVec 128) (code r : Nat)
    (hparts : F .parts = true) (hpart : F (.part p) = true) :
    view F (toldAcked s p planid phash code r) = view F s := by
  simp only [toldAcked, ↓onPart_view_part, hparts, hpart]

theorem planCtrlEnd_view (s : State) (p : Nat) (planid : BitVec 32) (phash : BitVec 128) (code tensor rank status : Nat)
    (hfreeIx : F .freeIx = true) (hout : F .out = true) (hcores : F .cores = true) (hstores : F .stores = true)
    (htags : F .tags = true) (hparts : F .parts = true) (hfabric : F .fabric = true) (hwardrobe : F .wardrobe = true)
    (hrel : F .rel = true) (hmregs : F .mregs = true) (hpart : F (.part p) = true) (hregs : ∀ q, F (.regs q) = true)
    (hvec : ∀ q, F (.vec q) = true) (hmem : ∀ q, F (.mem q) = true) (hhbm : ∀ q, F (.hbm q) = true) :
    view F (planCtrlEnd s p planid phash code tensor rank status) = view F s := by
  simp only [planCtrlEnd, ↓pullAnswered_view, ↓toldAcked_view, ↓apply_ite (view F), ite_self, implies_true, hfreeIx,
    hout, hcores, hstores, htags, hparts, hfabric, hwardrobe, hrel, hmregs, hpart, hregs, hvec, hmem, hhbm]

theorem planDataEnd_view (s : State) (p : Nat) (planid : BitVec 32) (phash : BitVec 128) (tensor rank : Nat)
    (hfreeIx : F .freeIx = true) (hout : F .out = true) (hparts : F .parts = true) (hfabric : F .fabric = true)
    (hwardrobe : F .wardrobe = true) (hrel : F .rel = true) (hmregs : F .mregs = true) (hpart : F (.part p) = true)
    (hregs : ∀ q, F (.regs q) = true) (hvec : ∀ q, F (.vec q) = true) (hmem : ∀ q, F (.mem q) = true)
    (hhbm : ∀ q, F (.hbm q) = true) : view F (planDataEnd s p planid phash tensor rank) = view F s := by
  simp only [planDataEnd, ↓pumpSends_view, ↓onPlan_view, ↓apply_ite (view F), ite_self, implies_true, hfreeIx, hout,
    hparts, hfabric, hwardrobe, hrel, hmregs, hpart, hregs, hvec, hmem, hhbm]

theorem pkPeerArrive_view (s : State) (p idx u status : Nat) (pay : List Byte) (c : Collar) (hfreeIx : F .freeIx = true)
    (hout : F .out = true) (hparts : F .parts = true) (hfabric : F .fabric = true) (hwardrobe : F .wardrobe = true)
    (hrel : F .rel = true) (hmregs : F .mregs = true) (hpart : F (.part p) = true) (hregs : ∀ q, F (.regs q) = true)
    (hvec : ∀ q, F (.vec q) = true) (hmem : ∀ q, F (.mem q) = true) (hhbm : ∀ q, F (.hbm q) = true) :
    view F (pkPeerArrive s p idx u status pay c) = view F s := by
  simp only [pkPeerArrive]
  split
  · rfl
  · simp only [↓fetchTile_view, ↓pkReply_view, ↓fetchPoison_view, ↓apply_ite (view F), ite_self, implies_true, hfreeIx,
    hout, hparts, hfabric, hwardrobe, hrel, hmregs, hpart, hregs, hvec, hmem, hhbm]

theorem devReadLE_view (s : State) (p a n : Nat) (hfreeIx : F .freeIx = true) (hout : F .out = true)
    (hparts : F .parts = true) (hwardrobe : F .wardrobe = true) (hrel : F .rel = true) (hregs : F (.regs p) = true)
    (hvec : ∀ q, F (.vec q) = true) (hhbm : F (.hbm p) = true) : view F (devReadLE s p a n).2 = view F s := by
  simp only [devReadLE, ↓devRead_view, implies_true, hfreeIx, hout, hparts, hwardrobe, hrel, hregs, hvec, hhbm]

theorem onRing_view (s : State) (p : Nat) (f : Ring → Ring) (hparts : F .parts = true) (hpart : F (.part p) = true) :
    view F (onRing s p f) = view F s := by
  simp only [onRing, ↓onPart_view_part, hparts, hpart]

theorem carWrite_view (s : State) (p : Nat) (q : QReq) (a : Nat) (bs : List Byte) (hfreeIx : F .freeIx = true)
    (hout : F .out = true) (hcores : F .cores = true) (hstores : F .stores = true) (htags : F .tags = true)
    (hparts : F .parts = true) (hwardrobe : F .wardrobe = true) (hrel : F .rel = true) (hpart : F (.part p) = true)
    (hregs : F (.regs p) = true) (hvec : ∀ q, F (.vec q) = true) (hmem : F (.mem p) = true) (hhbm : F (.hbm p) = true) :
    view F (carWrite s p q a bs) = view F s := by
  simp only [carWrite, ↓devWrite_view, ↓apply_ite (view F), implies_true, hfreeIx, hout, hcores, hstores, htags, hparts,
    hwardrobe, hrel, hregs, hvec, hmem, hhbm]
  split
  · split
    next x t e => simp only [↓hostPut_view e, hout, hparts, hpart]
    · simp only [↓onRing_view, hparts, hpart]
  · rfl

theorem carRecord_view (s : State) (p : Nat) (q : QReq) (word pos logp kind fork : Nat) (hfreeIx : F .freeIx = true)
    (hout : F .out = true) (hcores : F .cores = true) (hstores : F .stores = true) (htags : F .tags = true)
    (hparts : F .parts = true) (hwardrobe : F .wardrobe = true) (hrel : F .rel = true) (hpart : F (.part p) = true)
    (hregs : F (.regs p) = true) (hvec : ∀ q, F (.vec q) = true) (hmem : F (.mem p) = true) (hhbm : F (.hbm p) = true) :
    view F (carRecord s p q word pos logp kind fork) = view F s := by
  simp only [carRecord, ↓onRing_view, ↓carWrite_view, implies_true, hfreeIx, hout, hcores, hstores, htags, hparts,
    hwardrobe, hrel, hpart, hregs, hvec, hmem, hhbm]

theorem carEnd_view (s : State) (p : Nat) (q : QReq) (fork len reason status : Nat) (hfreeIx : F .freeIx = true)
    (hout : F .out = true) (hcores : F .cores = true) (hstores : F .stores = true) (htags : F .tags = true)
    (hparts : F .parts = true) (hwardrobe : F .wardrobe = true) (hrel : F .rel = true) (hpart : F (.part p) = true)
    (hregs : F (.regs p) = true) (hvec : ∀ q, F (.vec q) = true) (hmem : F (.mem p) = true) (hhbm : F (.hbm p) = true) :
    view F (carEnd s p q fork len reason status) = view F s := by
  simp only [carEnd, ↓carRecord_view, implies_true, hfreeIx, hout, hcores, hstores, htags, hparts, hwardrobe, hrel,
    hpart, hregs, hvec, hmem, hhbm]

theorem rmStatus_view (s : State) (p v : Nat) (hout : F .out = true) (hparts : F .parts = true)
    (hregs : F (.regs p) = true) (hvec : F (.vec p) = true) : view F (rmStatus s p v) = view F s := by
  simp only [rmStatus, ↓msix_view, ↓putReg_view, ↓apply_ite (view F), ite_self, hout, hparts, hregs, hvec]

theorem carFlush_view (s : State) (p : Nat) (hfreeIx : F .freeIx = true) (hout : F .out = true)
    (hcores : F .cores = true) (hstores : F .stores = true) (htags : F .tags = true) (hparts : F .parts = true)
    (hwardrobe : F .wardrobe = true) (hrel : F .rel = true) (hpart : F (.part p) = true) (hregs : F (.regs p) = true)
    (hvec : ∀ q, F (.vec q) = true) (hmem : F (.mem p) = true) (hhbm : F (.hbm p) = true) :
    view F (carFlush s p) = view F s := by
  simp only [carFlush, ↓carWrite_view, ↓onRing_view, ↓msix_view, ↓view_foldl, implies_true, hfreeIx, hout, hcores,
    hstores, htags, hparts, hwardrobe, hrel, hpart, hregs, hvec, hmem, hhbm]

theorem rmShow_view {q : Nat} (x : Partition) (hregs : F (.regs q) = true) :
    viewPart F q (rmShow x) = viewPart F q x := by
  simp only [rmShow, ↓Partition_put_view, hregs]

theorem rmStop_view (s : State) (p why : Nat) (hfreeIx : F .freeIx = true) (hout : F .out = true)
    (hcores : F .cores = true) (hstores : F .stores = true) (htags : F .tags = true) (hparts : F .parts = true)
    (hwardrobe : F .wardrobe = true) (hrel : F .rel = true) (hpart : F (.part p) = true) (hregs : F (.regs p) = true)
    (hvec : ∀ q, F (.vec q) = true) (hmem : F (.mem p) = true) (hhbm : F (.hbm p) = true) :
    view F (rmStop s p why) = view F s := by
  simp only [rmStop, ↓rmStatus_view, ↓onPart_view_part, ↓carFlush_view, ↓apply_ite (view F), implies_true, hfreeIx,
    hout, hcores, hstores, htags, hparts, hwardrobe, hrel, hpart, hregs, hvec, hmem, hhbm]
  split
  · rfl
  · refine (view_foldl _ _ fun t e => ?_).trans ?_
    · simp only [↓carEnd_view, ↓view_foldl, implies_true, hfreeIx, hout, hcores, hstores, htags, hparts, hwardrobe,
      hrel, hpart, hregs, hvec, hmem, hhbm]
    · simp only [↓carEnd_view, ↓view_foldl, implies_true, hfreeIx, hout, hcores, hstores, htags, hparts, hwardrobe,
      hrel, hpart, hregs, hvec, hmem, hhbm]

theorem recordMsgEnd_view (s : State) (p : Nat) (timedOut : Bool) (hfreeIx : F .freeIx = true) (hout : F .out = true)
    (hcores : F .cores = true) (hstores : F .stores = true) (htags : F .tags = true) (hparts : F .parts = true)
    (hwardrobe : F .wardrobe = true) (hrel : F .rel = true) (hpart : F (.part p) = true) (hregs : F (.regs p) = true)
    (hvec : ∀ q, F (.vec q) = true) (hmem : F (.mem p) = true) (hhbm : F (.hbm p) = true) :
    view F (recordMsgEnd s p timedOut) = view F s := by
  simp only [recordMsgEnd, ↓rmStop_view, ↓apply_ite (view F), ite_self, implies_true, hfreeIx, hout, hcores, hstores,
    htags, hparts, hwardrobe, hrel, hpart, hregs, hvec, hmem, hhbm]

theorem requestEnd_view (s : State) (k : ReqKind) (st : Nat) (got : Option Msg) (via : Option Nat)
    (hfreeIx : F .freeIx = true) (hout : F .out = true) (hcores : F .cores = true) (hstores : F .stores = true)
    (htags : F .tags = true) (hparts : F .parts = true) (hfabric : F .fabric = true) (hwardrobe : F .wardrobe = true)
    (hrel : F .rel = true) (hmregs : F .mregs = true) (hpart : ∀ q, F (.part q) = true)
    (hregs : ∀ q, F (.regs q) = true) (hvec : ∀ q, F (.vec q) = true) (hmem : ∀ q, F (.mem q) = true)
    (hhbm : ∀ q, F (.hbm q) = true) : view F (requestEnd s k st got via) = view F s := by
  simp only [requestEnd]
  split
  · simp only [↓tileArrives_view, ↓apply_ite (view F), hcores]
    split
    · split
      · simp only [↓charge_view, ↓apply_ite (view F), ite_self, implies_true, hout, hparts, hrel, hregs, hvec]
      · rfl
    · split
      · rfl
      · simp only [↓tileArrives_view, ↓spend_view, hfreeIx, hcores]
  · simp only [↓onDma_view, hcores]
  · simp only [↓onDma_view, hcores]
    split
    · simp only [↓amoResult_view, implies_true, hfreeIx, hout, hcores, hstores, htags, hparts, hwardrobe, hrel, hregs,
      hvec, hmem, hhbm]
    · rfl
  · simp only [↓collMsgEnd_view, implies_true, hfreeIx, hout, hparts, hfabric, hwardrobe, hrel, hmregs, hpart, hregs,
    hvec, hmem, hhbm]
  · simp only [↓planCtrlEnd_view, implies_true, hfreeIx, hout, hcores, hstores, htags, hparts, hfabric, hwardrobe, hrel,
    hmregs, hpart, hregs, hvec, hmem, hhbm]
  · simp only [↓planDataEnd_view, implies_true, hfreeIx, hout, hparts, hfabric, hwardrobe, hrel, hmregs, hpart, hregs,
    hvec, hmem, hhbm]
  · simp only [↓pkPeerArrive_view, implies_true, hfreeIx, hout, hparts, hfabric, hwardrobe, hrel, hmregs, hpart, hregs,
    hvec, hmem, hhbm]
  · simp only [↓pkReply_view, implies_true, hfreeIx, hout, hparts, hfabric, hwardrobe, hrel, hmregs, hpart, hregs, hvec,
    hmem, hhbm]
  · simp only [↓recordMsgEnd_view, implies_true, hfreeIx, hout, hcores, hstores, htags, hparts, hwardrobe, hrel, hpart,
    hregs, hvec, hmem, hhbm]

theorem dropReq_view (s : State) (r : Req) (hfabric : F .fabric = true) : view F (dropReq s r) = view F s := by
  simp only [dropReq, ↓view_mk, true_or, or_true, hfabric]

theorem takeResponse_view (s : State) (via : Option Nat) (m : Msg) (t : Nat) (hfreeIx : F .freeIx = true)
    (hout : F .out = true) (hcores : F .cores = true) (hstores : F .stores = true) (htags : F .tags = true)
    (hparts : F .parts = true) (hfabric : F .fabric = true) (hwardrobe : F .wardrobe = true) (hrel : F .rel = true)
    (hmregs : F .mregs = true) (hpart : ∀ q, F (.part q) = true) (hregs : ∀ q, F (.regs q) = true)
    (hvec : ∀ q, F (.vec q) = true) (hmem : ∀ q, F (.mem q) = true) (hhbm : ∀ q, F (.hbm q) = true) :
    view F (takeResponse s via m t) = view F s := by
  simp only [takeResponse, ↓apply_ite (view F)]
  split
  · rfl
  · split
    next x t' e => simp only [↓view_of_eq_snd e, ↓acceptMsg_view, hfabric, hmregs]
    next x x2 t' e =>
      split
      · simp only [↓view_of_eq_snd e, ↓acceptMsg_view, ↓countLate_view, hout, hparts, hfabric, hmregs, hregs, hvec]
      · simp only [↓view_of_eq_snd e, ↓acceptMsg_view, ↓countLate_view, ↓tagFreed_view, ↓requestEnd_view, ↓dropReq_view,
        ↓apply_ite (view F), ite_self, implies_true, hfreeIx, hout, hcores, hstores, htags, hparts, hfabric, hwardrobe,
        hrel, hmregs, hpart, hregs, hvec, hmem, hhbm]

theorem noteMerge_view {q : Nat} (x : Partition) (t scl : Nat) (m : Merge) (hhbm : F (.hbm q) = true) :
    viewPart F q (noteMerge x t scl m) = viewPart F q x := by
  simp only [noteMerge, ↓viewPart_mk, true_or, or_true, hhbm]

theorem rescaleKept_view {q : Nat} (x : Partition) (t f scl n : Nat) (old new : Nat → Nat) (hmem : F (.mem q) = true)
    (hhbm : F (.hbm q) = true) : viewPart F q (rescaleKept x t f scl n old new).1 = viewPart F q x := by
  unfold rescaleKept
  extract_lets c v w bs kept code is pay broken
  split
  · rfl
  · exact (viewPart_pair_fst _ _ _).trans (putTile_view _ _ _ _ hmem hhbm)

theorem applyScales_view {q : Nat} (x : Partition) (t off : Nat) (c : Collar) (bs : List Byte) (hmem : F (.mem q) = true)
    (hhbm : F (.hbm q) = true) : viewPart F q (applyScales x t off c bs) = viewPart F q x := by
  unfold applyScales
  dsimp only
  rw [noteMerge_view _ _ _ _ hhbm, putTile_view _ _ _ _ hmem hhbm]
  split
  · exact rescaleKept_view _ _ _ _ _ _ _ hmem hhbm
  · rfl

theorem applyWrite_view {q : Nat} (x : Partition) (off : Nat) (m : Msg) (hmem : F (.mem q) = true)
    (hhbm : F (.hbm q) = true) : viewPart F q (applyWrite x off m) = viewPart F q x := by
  simp only [applyWrite, ↓noteMerge_view, ↓applyScales_view, ↓putTile_view, ↓plainTileWrite_view, ↓apply_ite (viewPart F
    q), ite_self, hmem, hhbm]

theorem serveWrite_view (s : State) (via : Option Nat) (m : Msg) (hfreeIx : F .freeIx = true) (hout : F .out = true)
    (hparts : F .parts = true) (hfabric : F .fabric = true) (hwardrobe : F .wardrobe = true) (hrel : F .rel = true)
    (hmregs : F .mregs = true) (hregs : ∀ q, F (.regs q) = true) (hvec : ∀ q, F (.vec q) = true)
    (hmem : ∀ q, F (.mem q) = true) (hhbm : ∀ q, F (.hbm q) = true) : view F (serveWrite s via m) = view F s := by
  simp only [serveWrite, ↓apply_ite (view F)]
  split
  · rfl
  · split
    next x t e => simp only [↓view_of_eq_snd e, ↓acceptMsg_view, hfabric, hmregs]
    next x x2 t e =>
      split
      · simp only [↓view_of_eq_snd e, ↓acceptMsg_view, ↓answer_view, hout, hfabric, hmregs]
      · simp only [↓view_of_eq_snd e, ↓acceptMsg_view, ↓answer_view, ↓countViolation_view, implies_true, hout, hparts,
        hfabric, hmregs, hregs]
      · split
        next x' t' e' => simp only [↓view_of_eq_snd e, ↓readyWrite_view e', ↓acceptMsg_view, ↓answer_view, ↓onPart_view,
          ↓applyWrite_view, implies_true, hfreeIx, hout, hparts, hfabric, hwardrobe, hrel, hmregs, hvec, hmem, hhbm]
        · simp only [↓view_of_eq_snd e, ↓acceptMsg_view, ↓answer_view, hout, hfabric, hmregs]

theorem serveAmo_view (s : State) (via : Option Nat) (m : Msg) (hfreeIx : F .freeIx = true) (hout : F .out = true)
    (hparts : F .parts = true) (hfabric : F .fabric = true) (hwardrobe : F .wardrobe = true) (hrel : F .rel = true)
    (hmregs : F .mregs = true) (hpart : ∀ q, F (.part q) = true) (hregs : ∀ q, F (.regs q) = true)
    (hvec : ∀ q, F (.vec q) = true) (hhbm : ∀ q, F (.hbm q) = true) : view F (serveAmo s via m) = view F s := by
  simp only [serveAmo, ↓apply_ite (view F)]
  split
  · rfl
  · split
    next x t e => simp only [↓view_of_eq_snd e, ↓acceptMsg_view, hfabric, hmregs]
    next x x2 t e =>
      split
      · simp only [↓view_of_eq_snd e, ↓acceptMsg_view, ↓answer_view, hout, hfabric, hmregs]
      · simp only [↓view_of_eq_snd e, ↓acceptMsg_view, ↓answer_view, ↓countViolation_view, implies_true, hout, hparts,
        hfabric, hmregs, hregs]
      · simp only [↓view_of_eq_snd e, ↓acceptMsg_view, ↓answer_view, ↓amoBolt_view, ↓apply_ite (view F), ite_self,
        implies_true, hfreeIx, hout, hparts, hfabric, hwardrobe, hrel, hmregs, hpart, hregs, hvec, hhbm]

theorem readAheadEnd_view (s : State) (p : Nat) (un : Bool) (hout : F .out = true) (hparts : F .parts = true)
    (hregs : F (.regs p) = true) (hvec : F (.vec p) = true) : view F (readAheadEnd s p un) = view F s := by
  simp only [readAheadEnd, ↓errEvent_view, ↓apply_ite (view F), ite_self, hout, hparts, hregs, hvec]

theorem markTimedOut_view (s : State) (r : Req) (hfabric : F .fabric = true) :
    view F (markTimedOut s r) = view F s := by
  simp only [markTimedOut, ↓view_mk, true_or, or_true, hfabric]

theorem requestDeadline_view (s : State) (die : Bool) (tag : BitVec 16) (hfreeIx : F .freeIx = true)
    (hout : F .out = true) (hcores : F .cores = true) (hstores : F .stores = true) (htags : F .tags = true)
    (hparts : F .parts = true) (hfabric : F .fabric = true) (hwardrobe : F .wardrobe = true) (hrel : F .rel = true)
    (hmregs : F .mregs = true) (hpart : ∀ q, F (.part q) = true) (hregs : ∀ q, F (.regs q) = true)
    (hvec : ∀ q, F (.vec q) = true) (hmem : ∀ q, F (.mem q) = true) (hhbm : ∀ q, F (.hbm q) = true) :
    view F (requestDeadline s die tag) = view F s := by
  simp only [requestDeadline]
  split
  · simp only [↓readAheadEnd_view, ↓requestEnd_view, ↓markTimedOut_view, ↓apply_ite (view F), ite_self, implies_true,
    hfreeIx, hout, hcores, hstores, htags, hparts, hfabric, hwardrobe, hrel, hmregs, hpart, hregs, hvec, hmem, hhbm]
  · rfl

theorem tagReuse_view (s : State) (die : Bool) (tag : BitVec 16) (hfreeIx : F .freeIx = true) (hout : F .out = true)
    (hparts : F .parts = true) (hfabric : F .fabric = true) (hwardrobe : F .wardrobe = true) (hrel : F .rel = true)
    (hmregs : F .mregs = true) (hpart : ∀ q, F (.part q) = true) (hregs : ∀ q, F (.regs q) = true)
    (hvec : ∀ q, F (.vec q) = true) (hmem : ∀ q, F (.mem q) = true) (hhbm : ∀ q, F (.hbm q) = true) :
    view F (tagReuse s die tag) = view F s := by
  simp only [tagReuse]
  split
  · simp only [↓tagFreed_view, ↓dropReq_view, ↓apply_ite (view F), ite_self, implies_true, hfreeIx, hout, hparts,
    hfabric, hwardrobe, hrel, hmregs, hpart, hregs, hvec, hmem, hhbm]
  · rfl

theorem narrow_view (s : State) (c : Nat) (hfreeIx : F .freeIx = true) (hfabric : F .fabric = true) :
    view F (narrow s c) = view F s := by
  simp only [narrow, ↓spend_view, ↓onPort_view, hfreeIx, hfabric]

theorem wakePort_view (s : State) (c : Nat) (hfabric : F .fabric = true) : view F (wakePort s c) = view F s := by
  simp only [wakePort, ↓onPort_view, hfabric]

theorem tunnelTake_view (s : State) (g : DevId) (tack : BitVec 32) (hout : F .out = true) (hfabric : F .fabric = true) :
    view F (tunnelTake s g tack) = view F s := by
  simp only [tunnelTake, ↓sendGram_view, ↓putGateway_view, ↓view_foldl, implies_true, hout, hfabric]

theorem sendTack_view (s : State) (sp : Nat) (g : DevId) (hout : F .out = true) :
    view F (sendTack s sp g) = view F s := by
  simp only [sendTack, ↓sendGram_view, hout]

theorem tunnelFlit_view (g : DevId) (s : State) (bs : List Byte) (hout : F .out = true) (hfabric : F .fabric = true)
    (hmregs : F .mregs = true) : view F (tunnelFlit g s bs) = view F s := by
  simp only [tunnelFlit, ↓takeFlit_view, ↓putGateway_view, hout, hfabric, hmregs]

theorem tunnelData_view (s : State) (d : Datagram) (hout : F .out = true) (hfabric : F .fabric = true)
    (hmregs : F .mregs = true) : view F (tunnelData s d) = view F s := by
  simp only [tunnelData, ↓tunnelTake_view, ↓putGateway_view, ↓sendTack_view, ↓tunnelFlit_view, ↓view_foldl, ↓apply_ite
    (view F), ite_self, implies_true, hout, hfabric, hmregs]

theorem tunnelAck_view (s : State) (d : Datagram) (hout : F .out = true) (hfabric : F .fabric = true) :
    view F (tunnelAck s d) = view F s := by
  simp only [tunnelAck, ↓tunnelTake_view, ↓apply_ite (view F), ite_self, hout, hfabric]

theorem tunnelResend_view (s : State) (g : DevId) (hout : F .out = true) : view F (tunnelResend s g) = view F s := by
  simp only [tunnelResend, ↓sendGram_view, ↓view_foldl, implies_true, hout]

theorem takePfc_view (s : State) (n : Nat) (f : SvcFrame) (hfabric : F .fabric = true) :
    view F (takePfc s n f) = view F s := by
  simp only [takePfc, ↓view_mk, ↓view_foldl, ↓apply_ite (view F), ite_self, true_or, or_true, implies_true, hfabric]

theorem rxDrop_view (s : State) (p n : Nat) (hparts : F .parts = true) (hregs : F (.regs p) = true) :
    view F (rxDrop s p n) = view F s := by
  simp only [rxDrop, ↓putReg_view, hparts, hregs]

theorem svcLook_view (s : State) (p a : Nat) (hfreeIx : F .freeIx = true) (hout : F .out = true)
    (hparts : F .parts = true) (hwardrobe : F .wardrobe = true) (hrel : F .rel = true) (hregs : F (.regs p) = true)
    (hvec : ∀ q, F (.vec q) = true) (hhbm : F (.hbm p) = true) : view F (svcLook s p a) = view F s := by
  simp only [svcLook, ↓devRead_view, implies_true, hfreeIx, hout, hparts, hwardrobe, hrel, hregs, hvec, hhbm]

theorem rxDeliver_view (s : State) (p n : Nat) (f : SvcFrame) (hfreeIx : F .freeIx = true) (hout : F .out = true)
    (hcores : F .cores = true) (hstores : F .stores = true) (htags : F .tags = true) (hparts : F .parts = true)
    (hwardrobe : F .wardrobe = true) (hrel : F .rel = true) (hpart : F (.part p) = true) (hregs : F (.regs p) = true)
    (hvec : ∀ q, F (.vec q) = true) (hmem : F (.mem p) = true) (hhbm : F (.hbm p) = true) :
    view F (rxDeliver s p n f) = view F s := by
  simp only [rxDeliver, ↓rxDrop_view, ↓svcLook_view, ↓devWrite_view, ↓msix_view, ↓putReg_view, ↓apply_ite (view F),
    implies_true, hfreeIx, hout, hcores, hstores, htags, hparts, hwardrobe, hrel, hregs, hvec, hmem, hhbm]
  split
  · rfl
  · split
    · rfl
    · split
      · refine view_getD (fun t e => ?_) ?_
        · simp only [↓hostPut_view e, ↓svcLook_view, implies_true, hfreeIx, hout, hparts, hwardrobe, hrel, hpart, hregs,
          hvec, hhbm]
        · simp only [↓svcLook_view, implies_true, hfreeIx, hout, hparts, hwardrobe, hrel, hregs, hvec, hhbm]
      · rfl

theorem strayFrame_view (s : State) (n : Nat) (hfabric : F .fabric = true) : view F (strayFrame s n) = view F s := by
  simp only [strayFrame, ↓view_mk, true_or, or_true, hfabric]

theorem frameReceive_view (s : State) (n : Nat) (f : SvcFrame) (hfreeIx : F .freeIx = true) (hout : F .out = true)
    (hcores : F .cores = true) (hstores : F .stores = true) (htags : F .tags = true) (hparts : F .parts = true)
    (hfabric : F .fabric = true) (hwardrobe : F .wardrobe = true) (hrel : F .rel = true) (hmregs : F .mregs = true)
    (hpart : ∀ q, F (.part q) = true) (hregs : ∀ q, F (.regs q) = true) (hvec : ∀ q, F (.vec q) = true)
    (hmem : ∀ q, F (.mem q) = true) (hhbm : ∀ q, F (.hbm q) = true) : view F (frameReceive s n f) = view F s := by
  simp only [frameReceive, ↓bumpMreg_view, ↓takePfc_view, ↓apply_ite (view F), hfabric, hmregs]
  split
  · rfl
  · split
    · rfl
    · split
      · rfl
      · split
        · rfl
        · split
          · simp only [↓rxDeliver_view, implies_true, hfreeIx, hout, hcores, hstores, htags, hparts, hwardrobe, hrel,
            hpart, hregs, hvec, hmem, hhbm]
          · simp only [↓strayFrame_view, hfabric]

theorem frameTransmit_view (s : State) (p n : Nat) (hfreeIx : F .freeIx = true) (hout : F .out = true)
    (hcores : F .cores = true) (hstores : F .stores = true) (htags : F .tags = true) (hparts : F .parts = true)
    (hwardrobe : F .wardrobe = true) (hrel : F .rel = true) (hpart : F (.part p) = true) (hregs : F (.regs p) = true)
    (hvec : ∀ q, F (.vec q) = true) (hmem : F (.mem p) = true) (hhbm : F (.hbm p) = true) :
    view F (frameTransmit s p n) = view F s := by
  simp only [frameTransmit, ↓txEnd_view, ↓devRead_view, ↓txSend_view, ↓apply_ite (view F), ite_self, implies_true,
    hfreeIx, hout, hcores, hstores, htags, hparts, hwardrobe, hrel, hregs, hvec, hmem, hhbm]
  split
  · rfl
  · split
    · rfl
    · split
      · refine view_getD (fun t e => ?_) ?_
        · simp only [↓hostGet_view e, hout, hparts, hpart]
        · simp only [↓txEnd_view, implies_true, hfreeIx, hout, hcores, hstores, htags, hparts, hwardrobe, hrel, hregs,
          hvec, hmem, hhbm]
      · rfl

theorem helloSend_view (s : State) (c : Nat) (hfreeIx : F .freeIx = true) (hfabric : F .fabric = true) :
    view F (helloSend s c) = view F s := by
  simp only [helloSend]
  split
  · rfl
  · simp only [↓onPort_view, ↓newMid_view, ↓countMsg_view, ↓spend_view, hfreeIx, hfabric]

theorem forgetHomes_view (s : State) (c : Nat) (hfabric : F .fabric = true) : view F (forgetHomes s c) = view F s := by
  simp only [forgetHomes, ↓onPort_view, ↓view_foldl, implies_true, hfabric]

theorem dropMids_view (s : State) (ms : List Nat) (hfabric : F .fabric = true) : view F (dropMids s ms) = view F s := by
  simp only [dropMids, ↓cutMid_view, ↓onPort_view, ↓view_mk, ↓view_foldl, true_or, or_true, implies_true, hfabric]

theorem breakLink_view (s : State) (c : Nat) (hfabric : F .fabric = true) : view F (breakLink s c) = view F s := by
  simp only [breakLink, ↓stopRx_view, ↓forgetHomes_view, ↓dropMids_view, ↓view_foldl, implies_true, hfabric]

theorem discardReplay_view (s : State) (c : Nat) (hfabric : F .fabric = true) (hmregs : F .mregs = true) :
    view F (discardReplay s c) = view F s := by
  simp only [discardReplay, ↓bumpMreg_view, ↓onPort_view, ↓breakLink_view, ↓apply_ite (view F), ite_self, hfabric,
    hmregs]

theorem autoSet_view (s : State) (c : Nat) (dev : DevId) (hfabric : F .fabric = true) :
    view F (autoSet s c dev) = view F s := by
  simp only [autoSet, ↓setRoute_view, ↓apply_ite (view F), ite_self, hfabric]

theorem recordOutcome_view (s : State) (c out : Nat) (hout : F .out = true) (hparts : F .parts = true)
    (hfabric : F .fabric = true) (hrel : F .rel = true) (hmregs : F .mregs = true) (hregs : ∀ q, F (.regs q) = true)
    (hvec : ∀ q, F (.vec q) = true) : view F (recordOutcome s c out) = view F s := by
  simp only [recordOutcome, ↓discardReplay_view, ↓onPort_view, ↓autoSet_view, ↓charge_view, ↓eventRecord_view,
    ↓apply_ite (view F), ite_self, implies_true, hout, hparts, hfabric, hrel, hmregs, hregs, hvec]

theorem takeHello_view (s : State) (c : Nat) (x1 : Hello) (hout : F .out = true) (hparts : F .parts = true)
    (hfabric : F .fabric = true) (hrel : F .rel = true) (hmregs : F .mregs = true) (hregs : ∀ q, F (.regs q) = true)
    (hvec : ∀ q, F (.vec q) = true) : view F (takeHello s c x1) = view F s := by
  simp only [takeHello, ↓onPort_view, ↓recordOutcome_view, ↓apply_ite (view F), ite_self, implies_true, hout, hparts,
    hfabric, hrel, hmregs, hregs, hvec]

theorem hello_view (s : State) (c : Nat) (m : Msg) (hout : F .out = true) (hparts : F .parts = true)
    (hfabric : F .fabric = true) (hrel : F .rel = true) (hmregs : F .mregs = true) (hregs : ∀ q, F (.regs q) = true)
    (hvec : ∀ q, F (.vec q) = true) : view F (hello s c m) = view F s := by
  simp only [hello, ↓takeInbox_view, ↓countNoKey_view, ↓apply_ite (view F), hfabric, hmregs]
  split
  · rfl
  · split
    · rfl
    · split
      · simp only [↓takeInbox_view, ↓takeHello_view, ↓apply_ite (view F), ite_self, implies_true, hout, hparts, hfabric,
        hrel, hmregs, hregs, hvec]
      · simp only [↓takeInbox_view, hfabric]

theorem rtSwap_view (s : State) (hfabric : F .fabric = true) : view F (rtSwap s) = view F s := by
  simp only [rtSwap, ↓setRoute_view, ↓wakePort_view, ↓autoSet_view, ↓view_mk, ↓view_foldl, true_or, or_true,
    implies_true, hfabric]

theorem groupEnd_view (s : State) (p g status : Nat) (hout : F .out = true) (hparts : F .parts = true)
    (hregs : F (.regs p) = true) (hvec : F (.vec p) = true) : view F (groupEnd s p g status) = view F s := by
  simp only [groupEnd, ↓msix_view, ↓putReg_view, hout, hparts, hregs, hvec]

theorem loadedGroup_view (s : State) (p : Nat) (hfreeIx : F .freeIx = true) (hout : F .out = true)
    (hparts : F .parts = true) (hwardrobe : F .wardrobe = true) (hrel : F .rel = true) (hregs : F (.regs p) = true)
    (hvec : ∀ q, F (.vec q) = true) (hhbm : F (.hbm p) = true) : view F (loadedGroup s p).2 = view F s := by
  simp only [loadedGroup]
  split
  · split
    · simp only [↓devRead_view, ↓devReadLE_view, ↓view_foldl, implies_true, hfreeIx, hout, hparts, hwardrobe, hrel,
      hregs, hvec, hhbm]
    · simp only [↓devRead_view, ↓devReadLE_view, ↓view_foldl, ↓apply_ite (view F), ite_self, implies_true, hfreeIx,
      hout, hparts, hwardrobe, hrel, hregs, hvec, hhbm]
  · split
    · simp only [↓devRead_view, ↓devReadLE_view, ↓view_foldl, implies_true, hfreeIx, hout, hparts, hwardrobe, hrel,
      hregs, hvec, hhbm]
    · simp only [↓devRead_view, ↓devReadLE_view, ↓view_foldl, ↓apply_ite (view F), ite_self, implies_true, hfreeIx,
      hout, hparts, hwardrobe, hrel, hregs, hvec, hhbm]

theorem groupLoad_view (s : State) (p g : Nat) (hfreeIx : F .freeIx = true) (hout : F .out = true)
    (hparts : F .parts = true) (hwardrobe : F .wardrobe = true) (hrel : F .rel = true) (hpart : F (.part p) = true)
    (hregs : F (.regs p) = true) (hvec : ∀ q, F (.vec q) = true) (hhbm : F (.hbm p) = true) :
    view F (groupLoad s p g) = view F s := by
  simp only [groupLoad, ↓groupEnd_view, ↓apply_ite (view F), hout, hparts, hregs, hvec]
  split
  · rfl
  · split
    · rfl
    · split
      next x x2 t e => simp only [↓view_of_eq_snd e, ↓groupEnd_view, ↓loadedGroup_view, ↓putGroup_view, implies_true,
        hfreeIx, hout, hparts, hwardrobe, hrel, hpart, hregs, hvec, hhbm]
      next x t e => simp only [↓view_of_eq_snd e, ↓groupEnd_view, ↓loadedGroup_view, implies_true, hfreeIx, hout,
        hparts, hwardrobe, hrel, hregs, hvec, hhbm]

theorem layoutDrain_view (s : State) (p i : Nat) (hout : F .out = true) (hparts : F .parts = true)
    (hregs : F (.regs p) = true) (hvec : F (.vec p) = true) : view F (layoutDrain s p i) = view F s := by
  simp only [layoutDrain, ↓msix_view, ↓putReg_view, ↓apply_ite (view F), ite_self, hout, hparts, hregs, hvec]

theorem drainGroup_view (s : State) (p g : Nat) (hout : F .out = true) (hparts : F .parts = true)
    (hpart : F (.part p) = true) (hregs : F (.regs p) = true) (hvec : F (.vec p) = true) :
    view F (drainGroup s p g) = view F s := by
  simp only [drainGroup, ↓layoutDrain_view, ↓putGroup_view, ↓apply_ite (view F), ite_self, hout, hparts, hpart, hregs,
    hvec]

theorem groupClear_view (s : State) (p g : Nat) (hout : F .out = true) (hparts : F .parts = true)
    (hpart : F (.part p) = true) (hregs : F (.regs p) = true) (hvec : F (.vec p) = true) :
    view F (groupClear s p g) = view F s := by
  simp only [groupClear, ↓groupEnd_view, ↓drainGroup_view, ↓putGroup_view, ↓apply_ite (view F), ite_self, hout, hparts,
    hpart, hregs, hvec]

theorem serveTurn_view (s : State) (p : Nat) (hfabric : F .fabric = true) : view F (serveTurn s p) = view F s := by
  simp only [serveTurn, ↓view_mk, true_or, or_true, hfabric]

theorem engineRead_view (s : State) (p c fmt scl t : Nat) (hfreeIx : F .freeIx = true) (hout : F .out = true)
    (hparts : F .parts = true) (hwardrobe : F .wardrobe = true) (hrel : F .rel = true) (hmregs : F .mregs = true)
    (hregs : ∀ q, F (.regs q) = true) (hvec : ∀ q, F (.vec q) = true) (hmem : ∀ q, F (.mem q) = true)
    (hhbm : ∀ q, F (.hbm q) = true) : view F (engineRead s p c fmt scl t).2.2 = view F s := by
  unfold engineRead
  dsimp only
  split
  · split
    · rfl
    next s1 e =>
      have here := fetchNow_view e hfreeIx hout hparts hwardrobe hrel hmregs hregs hvec hmem hhbm
      simp only [↓apply_ite (view F), ↓tileFailed_view, ↓touchTiles_view, ite_self, implies_true, here, hout, hparts, hrel,
        hregs, hvec, hhbm]
  · exact violation_view _ _ hparts (hregs p)

theorem ownCarrier_view (s : State) (p c : Nat) (d : List Byte) (t : Nat) (hfreeIx : F .freeIx = true)
    (hout : F .out = true) (hparts : F .parts = true) (hwardrobe : F .wardrobe = true) (hrel : F .rel = true)
    (hmregs : F .mregs = true) (hregs : ∀ q, F (.regs q) = true) (hvec : ∀ q, F (.vec q) = true)
    (hmem : ∀ q, F (.mem q) = true) (hhbm : ∀ q, F (.hbm q) = true) : view F (ownCarrier s p c d t).2 = view F s := by
  unfold ownCarrier
  dsimp only
  refine List.foldlRecOn (motive := fun r : List (Nat × TileView) × Bool × State => view F r.2.2 = view F s) _ _ rfl
    fun r hr i _ => ?_
  exact (engineRead_view _ _ _ _ _ _ hfreeIx hout hparts hwardrobe hrel hmregs hregs hvec hmem hhbm).trans hr

theorem startReduce_view (s : State) (p : Nat) (q : Group) (k : Coll) (hfreeIx : F .freeIx = true)
    (hout : F .out = true) (hparts : F .parts = true) (hwardrobe : F .wardrobe = true) (hrel : F .rel = true)
    (hmregs : F .mregs = true) (hregs : ∀ q, F (.regs q) = true) (hvec : ∀ q, F (.vec q) = true)
    (hmem : ∀ q, F (.mem q) = true) (hhbm : ∀ q, F (.hbm q) = true) : view F (startReduce s p q k).1 = view F s := by
  simp only [startReduce]
  refine (view_foldl_fst _ _ fun r e => ?_).trans ?_
  · split
    · rfl
    · split <;> simp only [↓ownCarrier_view, implies_true, hfreeIx, hout, hparts, hwardrobe, hrel, hmregs, hregs, hvec,
      hmem, hhbm]
  · rfl

theorem writeOut_view (s : State) (p : Nat) (q : Group) (k : Coll) (t : Nat) (pay : List Byte) (col : Collar)
    (hfreeIx : F .freeIx = true) (hout : F .out = true) (hparts : F .parts = true) (hwardrobe : F .wardrobe = true)
    (hrel : F .rel = true) (hmregs : F .mregs = true) (hregs : ∀ q, F (.regs q) = true) (hvec : ∀ q, F (.vec q) = true)
    (hmem : ∀ q, F (.mem q) = true) (hhbm : ∀ q, F (.hbm q) = true) :
    view F (writeOut s p q k t pay col).1 = view F s := by
  simp only [writeOut, ↓engineWrite_view, implies_true, hfreeIx, hout, hparts, hwardrobe, hrel, hmregs, hregs, hvec,
    hmem, hhbm]

theorem startMove_view (s : State) (p : Nat) (q : Group) (k : Coll) (hfreeIx : F .freeIx = true) (hout : F .out = true)
    (hparts : F .parts = true) (hwardrobe : F .wardrobe = true) (hrel : F .rel = true) (hmregs : F .mregs = true)
    (hregs : ∀ q, F (.regs q) = true) (hvec : ∀ q, F (.vec q) = true) (hmem : ∀ q, F (.mem q) = true)
    (hhbm : ∀ q, F (.hbm q) = true) : view F (startMove s p q k).1 = view F s := by
  have hread (t : State) (c fmt scl i : Nat) : view F (engineRead t p c fmt scl i).2.2 = view F t :=
    engineRead_view t p c fmt scl i hfreeIx hout hparts hwardrobe hrel hmregs hregs hvec hmem hhbm
  have hwrite (t : State) (k : Coll) (i : Nat) (pay : List Byte) (col : Collar) :
      view F (writeOut t p q k i pay col).1 = view F t :=
    writeOut_view t p q k i pay col hfreeIx hout hparts hwardrobe hrel hmregs hregs hvec hmem hhbm
  unfold startMove
  dsimp only
  split
  · refine view_foldl_fst _ (s, k) fun r e => (view_pair_fst _ _).trans ?_
    rw [hwrite, hread]
  · refine view_foldl_fst _ (s, k) fun r e => ?_
    split
    · rw [hwrite, hread]
    · exact (view_pair_fst _ _).trans (hread ..)

theorem collStart_view (s : State) (p g : Nat) (o : BitVec 16) (hfreeIx : F .freeIx = true) (hout : F .out = true)
    (hparts : F .parts = true) (hfabric : F .fabric = true) (hwardrobe : F .wardrobe = true) (hrel : F .rel = true)
    (hmregs : F .mregs = true) (hpart : F (.part p) = true) (hregs : ∀ q, F (.regs q) = true)
    (hvec : ∀ q, F (.vec q) = true) (hmem : ∀ q, F (.mem q) = true) (hhbm : ∀ q, F (.hbm q) = true) :
    view F (collStart s p g o) = view F s := by
  simp only [collStart]
  split
  · rfl
  · simp only [↓putColl_view, ↓pump_view, ↓spend_view, ↓apply_ite (view F), hfreeIx, hout, hparts, hfabric, hpart]
    split
    · rfl
    · split
      · simp only [↓sendControl_view, ↓putColl_view, ↓serveTurn_view, ↓startReduce_view, ↓view_foldl, implies_true,
        hfreeIx, hout, hparts, hfabric, hwardrobe, hrel, hmregs, hpart, hregs, hvec, hmem, hhbm]
      · simp only [↓sendControl_view, ↓putColl_view, ↓serveTurn_view, ↓startMove_view, ↓view_foldl, implies_true,
        hfreeIx, hout, hparts, hfabric, hwardrobe, hrel, hmregs, hpart, hregs, hvec, hmem, hhbm]

theorem ackColl_view (s : State) (m : Msg) (status : Nat) (hout : F .out = true) (hfabric : F .fabric = true) :
    view F (ackColl s m status) = view F s := by
  simp only [ackColl, ↓sendMsg_view, hout, hfabric]

theorem countBadCode_view (s : State) (hfabric : F .fabric = true) : view F (countBadCode s) = view F s := by
  simp only [countBadCode, ↓view_mk, true_or, or_true, hfabric]

theorem takeColl_view {s : State} {via : Option Nat} {m : Msg} {kind : Nat} {f : State → Nat → Msg → State}
    (keep : ∀ t p q, view F t = view F s → view F (f t p q) = view F s) (hout : F .out = true) (hparts : F .parts = true)
    (hfabric : F .fabric = true) (hmregs : F .mregs = true) (hregs : ∀ q, F (.regs q) = true)
    (hvec : ∀ q, F (.vec q) = true) : view F (takeColl s via m kind f) = view F s := by
  have accepted := acceptMsg_view s via m hfabric hmregs
  unfold takeColl
  split
  · rfl
  · split
    next s0 e => rw [e] at accepted; exact accepted
    next q s0 e =>
      rw [e] at accepted
      split
      · split
        · split
          · exact (ackColl_view _ _ _ hout hfabric).trans accepted
          · split
            · rw [ackColl_view _ _ _ hout hfabric, countBadCode_view _ hfabric]
              exact accepted
            · rfl
        · exact keep _ _ _ accepted
      · rw [ackColl_view _ _ _ hout hfabric]
        split
        · exact (errEvent_view _ _ _ hout hparts (hregs _) (hvec _)).trans accepted
        · exact accepted

theorem takeReady_view (s : State) (p : Nat) (m : Msg) (hfreeIx : F .freeIx = true) (hout : F .out = true)
    (hparts : F .parts = true) (hfabric : F .fabric = true) (hwardrobe : F .wardrobe = true) (hrel : F .rel = true)
    (hmregs : F .mregs = true) (hpart : F (.part p) = true) (hregs : ∀ q, F (.regs q) = true)
    (hvec : ∀ q, F (.vec q) = true) (hmem : ∀ q, F (.mem q) = true) (hhbm : ∀ q, F (.hbm q) = true) :
    view F (takeReady s p m) = view F s := by
  simp only [takeReady]
  split
  · simp only [↓ackColl_view, hout, hfabric]
  · split
    · simp only [↓ackColl_view, ↓endColl_view, ↓onColl_view, ↓apply_ite (view F), ite_self, implies_true, hfreeIx, hout,
      hparts, hfabric, hwardrobe, hrel, hmregs, hpart, hregs, hvec, hmem, hhbm]
    · simp only [↓ackColl_view, ↓putGroup_view, hout, hparts, hfabric, hpart]

theorem arrivalFails_view (s : State) (p : Nat) (via : Option Nat) (pay : List Byte) (c : Collar) (hout : F .out = true)
    (hparts : F .parts = true) (hrel : F .rel = true) (hregs : ∀ q, F (.regs q) = true) (hvec : ∀ q, F (.vec q) = true)
    : view F (arrivalFails s p via pay c).2 = view F s := by
  simp only [arrivalFails, ↓apply_ite (view F)]
  split
  · split
    · simp only [↓errEvent_view, ↓charge_view, implies_true, hout, hparts, hrel, hregs, hvec]
    · simp only [↓errEvent_view, hout, hparts, hregs, hvec]
  · rfl

theorem finishData_view (s : State) (p : Nat) (q : Group) (k : Coll) (dt : Nat) (hfreeIx : F .freeIx = true)
    (hout : F .out = true) (hparts : F .parts = true) (hwardrobe : F .wardrobe = true) (hrel : F .rel = true)
    (hmregs : F .mregs = true) (hregs : ∀ q, F (.regs q) = true) (hvec : ∀ q, F (.vec q) = true)
    (hmem : ∀ q, F (.mem q) = true) (hhbm : ∀ q, F (.hbm q) = true) : view F (finishData s p q k dt).1 = view F s := by
  have hengine (t : State) (c a : Nat) (pay : List Byte) (col : Collar) :
      view F (engineWrite t p c a pay col).1 = view F t :=
    engineWrite_view t p c a pay col hfreeIx hout hparts hwardrobe hrel hmregs hregs hvec hmem hhbm
  have hwrite (k : Coll) (i : Nat) (pay : List Byte) (col : Collar) :
      view F (writeOut s p q k i pay col).1 = view F s :=
    writeOut_view s p q k i pay col hfreeIx hout hparts hwardrobe hrel hmregs hregs hvec hmem hhbm
  unfold finishData
  extract_lets d ys f cs pay pois col t k0 w k1 b st a x off scs m w2 k2 k3
  have hw : view F w.1 = view F s := hwrite ..
  have hw2 : view F w2.1 = view F s := (hengine ..).trans hw
  split
  · rfl
  · split
    · exact (view_pair_fst _ _).trans hw
    · split
      · exact (view_pair_fst _ _).trans hw2
      · exact (view_pair_fst _ _).trans hw2

theorem finishCarrier_view (s : State) (p : Nat) (q : Group) (k : Coll) (t : Nat) (v : List (BitVec 32)) (pois : Bool)
    (hfreeIx : F .freeIx = true) (hout : F .out = true) (hparts : F .parts = true) (hwardrobe : F .wardrobe = true)
    (hrel : F .rel = true) (hmregs : F .mregs = true) (hregs : ∀ q, F (.regs q) = true) (hvec : ∀ q, F (.vec q) = true)
    (hmem : ∀ q, F (.mem q) = true) (hhbm : ∀ q, F (.hbm q) = true) :
    view F (finishCarrier s p q k t v pois).1 = view F s := by
  simp only [finishCarrier, ↓finishData_view, implies_true, hfreeIx, hout, hparts, hwardrobe, hrel, hmregs, hregs, hvec,
    hmem, hhbm]

theorem takeDataR_view (via : Option Nat) (s : State) (p : Nat) (m : Msg) (hfreeIx : F .freeIx = true)
    (hout : F .out = true) (hparts : F .parts = true) (hfabric : F .fabric = true) (hwardrobe : F .wardrobe = true)
    (hrel : F .rel = true) (hmregs : F .mregs = true) (hpart : F (.part p) = true) (hregs : ∀ q, F (.regs q) = true)
    (hvec : ∀ q, F (.vec q) = true) (hmem : ∀ q, F (.mem q) = true) (hhbm : ∀ q, F (.hbm q) = true) :
    view F (takeDataR via s p m) = view F s := by
  simp only [takeDataR]
  split
  · simp only [↓arrivalFails_view, ↓ackColl_view, ↓pump_view, ↓spend_view, ↓putColl_view, ↓finishCarrier_view,
    ↓ownCarrier_view, ↓apply_ite (view F), ite_self, implies_true, hfreeIx, hout, hparts, hfabric, hwardrobe, hrel,
    hmregs, hpart, hregs, hvec, hmem, hhbm]
  · simp only [↓arrivalFails_view, ↓ackColl_view, implies_true, hout, hparts, hfabric, hrel, hregs, hvec]

theorem takeTile_view (s : State) (p : Nat) (q : Group) (k : Coll) (from_ i : Nat) (pay : List Byte) (col : Collar)
    (hfreeIx : F .freeIx = true) (hout : F .out = true) (hparts : F .parts = true) (hwardrobe : F .wardrobe = true)
    (hrel : F .rel = true) (hmregs : F .mregs = true) (hregs : ∀ q, F (.regs q) = true) (hvec : ∀ q, F (.vec q) = true)
    (hmem : ∀ q, F (.mem q) = true) (hhbm : ∀ q, F (.hbm q) = true) :
    view F (takeTile s p q k from_ i pay col).1 = view F s := by
  simp only [takeTile]
  split
  · split
    · simp only [↓writeOut_view, implies_true, hfreeIx, hout, hparts, hwardrobe, hrel, hmregs, hregs, hvec, hmem, hhbm]
    · rfl
  · simp only [↓writeOut_view, implies_true, hfreeIx, hout, hparts, hwardrobe, hrel, hmregs, hregs, hvec, hmem, hhbm]

theorem takeDataG_view (via : Option Nat) (s : State) (p : Nat) (m : Msg) (hfreeIx : F .freeIx = true)
    (hout : F .out = true) (hparts : F .parts = true) (hfabric : F .fabric = true) (hwardrobe : F .wardrobe = true)
    (hrel : F .rel = true) (hmregs : F .mregs = true) (hpart : F (.part p) = true) (hregs : ∀ q, F (.regs q) = true)
    (hvec : ∀ q, F (.vec q) = true) (hmem : ∀ q, F (.mem q) = true) (hhbm : ∀ q, F (.hbm q) = true) :
    view F (takeDataG via s p m) = view F s := by
  simp only [takeDataG]
  split
  · simp only [↓ackColl_view, ↓arrivalFails_view, ↓takeTile_view, ↓pump_view, ↓putColl_view, ↓apply_ite (view F),
    ite_self, implies_true, hfreeIx, hout, hparts, hfabric, hwardrobe, hrel, hmregs, hpart, hregs, hvec, hmem, hhbm]
  · simp only [↓ackColl_view, hout, hfabric]

theorem takeAbort_view (s : State) (p : Nat) (m : Msg) (hfreeIx : F .freeIx = true) (hout : F .out = true)
    (hparts : F .parts = true) (hfabric : F .fabric = true) (hwardrobe : F .wardrobe = true) (hrel : F .rel = true)
    (hmregs : F .mregs = true) (hpart : F (.part p) = true) (hregs : ∀ q, F (.regs q) = true)
    (hvec : ∀ q, F (.vec q) = true) (hmem : ∀ q, F (.mem q) = true) (hhbm : ∀ q, F (.hbm q) = true) :
    view F (takeAbort s p m) = view F s := by
  simp only [takeAbort]
  split
  · simp only [↓ackColl_view, ↓endColl_view, implies_true, hfreeIx, hout, hparts, hfabric, hwardrobe, hrel, hmregs,
    hpart, hregs, hvec, hmem, hhbm]
  · split
    · simp only [↓ackColl_view, ↓putGroup_view, ↓apply_ite (view F), ite_self, hout, hparts, hfabric, hpart]
    · simp only [↓ackColl_view, hout, hfabric]

theorem wlimTimeout_view (s : State) (p g : Nat) (o : BitVec 16) (hfreeIx : F .freeIx = true) (hout : F .out = true)
    (hparts : F .parts = true) (hfabric : F .fabric = true) (hwardrobe : F .wardrobe = true) (hrel : F .rel = true)
    (hmregs : F .mregs = true) (hpart : F (.part p) = true) (hregs : ∀ q, F (.regs q) = true)
    (hvec : ∀ q, F (.vec q) = true) (hmem : ∀ q, F (.mem q) = true) (hhbm : ∀ q, F (.hbm q) = true) :
    view F (wlimTimeout s p g o) = view F s := by
  simp only [wlimTimeout]
  split
  · simp only [↓endColl_view, ↓apply_ite (view F), ite_self, implies_true, hfreeIx, hout, hparts, hfabric, hwardrobe,
    hrel, hmregs, hpart, hregs, hvec, hmem, hhbm]
  · rfl

theorem retireColl_view (s : State) (p : Nat) (k : Coll) (hfreeIx : F .freeIx = true) (hout : F .out = true)
    (hcores : F .cores = true) (hclusters : F .clusters = true) (hstores : F .stores = true) (htags : F .tags = true)
    (hparts : F .parts = true) (hwardrobe : F .wardrobe = true) (hrel : F .rel = true) (hpart : F (.part p) = true)
    (hregs : F (.regs p) = true) (hvec : ∀ q, F (.vec q) = true) (hmem : F (.mem p) = true) (hhbm : F (.hbm p) = true) :
    view F (retireColl s p k) = view F s := by
  simp only [retireColl, ↓devWrite_view, ↓postSem_view, ↓onPart_view_part, ↓drainGroup_view, ↓apply_ite (view F),
    ite_self, implies_true, hfreeIx, hout, hcores, hclusters, hstores, htags, hparts, hwardrobe, hrel, hpart, hregs,
    hvec, hmem, hhbm]

theorem collComplete_view (s : State) (p g : Nat) (o : BitVec 16) (hfreeIx : F .freeIx = true) (hout : F .out = true)
    (hcores : F .cores = true) (hclusters : F .clusters = true) (hstores : F .stores = true) (htags : F .tags = true)
    (hparts : F .parts = true) (hfabric : F .fabric = true) (hwardrobe : F .wardrobe = true) (hrel : F .rel = true)
    (hmregs : F .mregs = true) (hpart : F (.part p) = true) (hregs : ∀ q, F (.regs q) = true)
    (hvec : ∀ q, F (.vec q) = true) (hmem : ∀ q, F (.mem q) = true) (hhbm : ∀ q, F (.hbm q) = true) :
    view F (collComplete s p g o) = view F s := by
  simp only [collComplete]
  split
  · rfl
  · simp only [↓retireColl_view, ↓apply_ite (view F), implies_true, hfreeIx, hout, hcores, hclusters, hstores, htags,
    hparts, hwardrobe, hrel, hpart, hregs, hvec, hmem, hhbm]
    split
    · rfl
    · split
      · split
        · simp only [↓retireColl_view, ↓endColl_view, implies_true, hfreeIx, hout, hcores, hclusters, hstores, htags,
          hparts, hfabric, hwardrobe, hrel, hmregs, hpart, hregs, hvec, hmem, hhbm]
        · simp only [↓endColl_view, implies_true, hfreeIx, hout, hparts, hfabric, hwardrobe, hrel, hmregs, hpart, hregs,
          hvec, hmem, hhbm]
      · rfl

theorem grantBusy_view (s : State) (p g : Nat) (hout : F .out = true) (hparts : F .parts = true)
    (hregs : F (.regs p) = true) (hvec : F (.vec p) = true) : view F (grantBusy s p g) = view F s := by
  simp only [grantBusy, ↓msix_view, ↓putReg_view, hout, hparts, hregs, hvec]

theorem pinBolt_view {s : State} {p b : Nat} {t : State} (e : pinBolt s p b = some t) (hfreeIx : F .freeIx = true)
    (hout : F .out = true) (hparts : F .parts = true) (hwardrobe : F .wardrobe = true) (hrel : F .rel = true)
    (hvec : ∀ q, F (.vec q) = true) (hhbm : F (.hbm p) = true) : view F t = view F s := by
  unfold pinBolt at e
  dsimp only at e
  obtain ⟨u, hu, rfl⟩ := Option.map_eq_some_iff.1 e
  simp only [↓heldBolt_view hu, ↓onPart_view, ↓Partition_setBolt_view, implies_true, hfreeIx, hout, hparts, hwardrobe,
    hrel, hvec, hhbm]

theorem grantCreate_view (s : State) (p g : Nat) (hfreeIx : F .freeIx = true) (hout : F .out = true)
    (hparts : F .parts = true) (hwardrobe : F .wardrobe = true) (hrel : F .rel = true) (hpart : F (.part p) = true)
    (hregs : F (.regs p) = true) (hvec : ∀ q, F (.vec q) = true) (hhbm : F (.hbm p) = true) :
    view F (grantCreate s p g) = view F s := by
  unfold grantCreate
  dsimp only
  split
  · rfl
  · split
    · exact grantBusy_view _ _ _ hout hparts hregs (hvec p)
    · rw [putReg_view _ _ _ _ _ _ hparts hregs, onPart_view_part _ _ _ hparts hpart]
      refine view_getD (fun t e => ?_) rfl
      split at e
      · exact readyAll_view e fun e => pinBolt_view e hfreeIx hout hparts hwardrobe hrel hvec hhbm
      · cases e

theorem unpinBolt_view {q : Nat} (x : Partition) (b : Nat) (hhbm : F (.hbm q) = true) :
    viewPart F q (unpinBolt x b) = viewPart F q x := by
  simp only [unpinBolt, ↓Partition_setBolt_view, hhbm]

theorem grantEnd_view (s : State) (p g st status : Nat) (hout : F .out = true) (hparts : F .parts = true)
    (hregs : F (.regs p) = true) (hvec : F (.vec p) = true) : view F (grantEnd s p g st status) = view F s := by
  simp only [grantEnd, ↓msix_view, ↓putReg_view, hout, hparts, hregs, hvec]

theorem grantPinned_view (s : State) (p g : Nat) (hfreeIx : F .freeIx = true) (hout : F .out = true)
    (hparts : F .parts = true) (hpart : F (.part p) = true) (hregs : F (.regs p) = true) (hvec : F (.vec p) = true) :
    view F (grantPinned s p g) = view F s := by
  simp only [grantPinned, ↓onPart_view_part, ↓grantEnd_view, ↓apply_ite (view F), hout, hparts, hpart, hregs, hvec]
  split
  · rfl
  · split
    · rfl
    · split
      · rfl
      · split
        · simp only [↓onPart_view_part, ↓grantEnd_view, ↓putReg_view, ↓spend_view, hfreeIx, hout, hparts, hpart, hregs,
          hvec]
        · simp only [↓onPart_view_part, ↓grantEnd_view, hout, hparts, hpart, hregs, hvec]

theorem grantRevoke_view (s : State) (p g : Nat) (hout : F .out = true) (hparts : F .parts = true)
    (hregs : F (.regs p) = true) (hvec : F (.vec p) = true) : view F (grantRevoke s p g) = view F s := by
  simp only [grantRevoke, ↓grantBusy_view, ↓putReg_view, ↓apply_ite (view F), ite_self, hout, hparts, hregs, hvec]

theorem revokeDrained_view (s : State) (p g : Nat) (hout : F .out = true) (hparts : F .parts = true)
    (hpart : F (.part p) = true) (hregs : F (.regs p) = true) (hvec : F (.vec p) = true) :
    view F (revokeDrained s p g) = view F s := by
  simp only [revokeDrained, ↓onPart_view_part, ↓grantEnd_view, ↓apply_ite (view F), ite_self, hout, hparts, hpart,
    hregs, hvec]

theorem pmEnd_view (s : State) (status : Nat) (hmregs : F .mregs = true) : view F (pmEnd s status) = view F s := by
  simp only [pmEnd, ↓putMreg_view, hmregs]

theorem Partition_shell_view {q : Nat} (x : Partition) (hpart : F (.part q) = true) :
    viewPart F q (Partition.shell x) = viewPart F q x :=
  viewPart_of_part hpart _ _

theorem setPtstate_view (s : State) (p v : Nat) (hout : F .out = true) (hparts : F .parts = true)
    (hpart : F (.part p) = true) (hvec : F (.vec p) = true) : view F (setPtstate s p v) = view F s := by
  simp only [setPtstate, ↓msix_view, ↓onPart_view_part, hout, hparts, hpart, hvec]

theorem newKeys_view (s : State) (p : Nat) (hfreeIx : F .freeIx = true) (hparts : F .parts = true)
    (hpart : F (.part p) = true) : view F (newKeys s p) = view F s := by
  simp only [newKeys, ↓spend_view, ↓onPart_view_part, hfreeIx, hparts, hpart]

theorem createPart_view (s : State) (t : Preset) (hfreeIx : F .freeIx = true) (hout : F .out = true)
    (hparts : F .parts = true) (hpart : F (.part t.number) = true) (hvec : F (.vec t.number) = true) :
    view F (createPart s t) = view F s := by
  simp only [createPart, ↓setPtstate_view, ↓newKeys_view, ↓putPart_view_part, hfreeIx, hout, hparts, hpart, hvec]

theorem pmCreate_view (s : State) (hfreeIx : F .freeIx = true) (hout : F .out = true) (hparts : F .parts = true)
    (hmregs : F .mregs = true) (hpart : F (.part ((pmArgs s).number)) = true)
    (hvec : F (.vec ((pmArgs s).number)) = true) : view F (pmCreate s) = view F s := by
  simp only [pmCreate, ↓pmEnd_view, ↓createPart_view, ↓apply_ite (view F), ite_self, hfreeIx, hout, hparts, hmregs,
    hpart, hvec]

theorem erasePart_view (s : State) (p : Nat) (hout : F .out = true) (hparts : F .parts = true)
    (hpart : F (.part p) = true) (hvec : F (.vec p) = true) : view F (erasePart s p) = view F s := by
  simp only [erasePart, ↓setPtstate_view, ↓onPart_view_part, hout, hparts, hpart, hvec]

theorem pkAbandon_view (s : State) (p : Nat) (hfreeIx : F .freeIx = true) (hout : F .out = true)
    (hcores : F .cores = true) (hstores : F .stores = true) (htags : F .tags = true) (hparts : F .parts = true)
    (hwardrobe : F .wardrobe = true) (hrel : F .rel = true) (hpart : F (.part p) = true) (hregs : F (.regs p) = true)
    (hvec : ∀ q, F (.vec q) = true) (hmem : F (.mem p) = true) (hhbm : F (.hbm p) = true) :
    view F (pkAbandon s p) = view F s := by
  simp only [pkAbandon, ↓devWrite_view, ↓onPart_view_part, ↓view_foldl, implies_true, hfreeIx, hout, hcores, hstores,
    htags, hparts, hwardrobe, hrel, hpart, hregs, hvec, hmem, hhbm]

theorem abandonHints_view (n : Nat) (s : State) (p : Nat) (hfreeIx : F .freeIx = true) (hout : F .out = true)
    (hcores : F .cores = true) (hstores : F .stores = true) (htags : F .tags = true) (hparts : F .parts = true)
    (hwardrobe : F .wardrobe = true) (hrel : F .rel = true) (hpart : F (.part p) = true) (hregs : F (.regs p) = true)
    (hvec : ∀ q, F (.vec q) = true) (hmem : F (.mem p) = true) (hhbm : F (.hbm p) = true) :
    view F (abandonHints n s p) = view F s := by
  induction n generalizing s with
  | zero => rfl
  | succ n ih =>
    have wrote (t : State) (a : Nat) (bs : List Byte) : view F (devWrite t p a bs) = view F t :=
      devWrite_view t p a bs hfreeIx hout hcores hstores htags hparts hwardrobe hrel hregs hvec hmem hhbm
    rw [abandonHints]
    split
    · rfl
    · dsimp only
      rw [ih, onPart_view_part _ _ _ hparts hpart, wrote, wrote]

theorem ctxReset_view (s : State) (p c : Nat) (hout : F .out = true) (hparts : F .parts = true)
    (hpart : F (.part p) = true) (hvec : F (.vec p) = true) : view F (ctxReset s p c) = view F s := by
  simp only [ctxReset, ↓onPart_view_part, ↓ctxVector_view, ↓apply_ite (view F), ite_self, hout, hparts, hpart, hvec]

theorem abortVotes_view (s : State) (pick : Vote → Bool) (hfreeIx : F .freeIx = true) (hout : F .out = true)
    (hparts : F .parts = true) (hrel : F .rel = true) (hregs : ∀ q, F (.regs q) = true) (hvec : ∀ q, F (.vec q) = true)
    : view F (abortVotes s pick) = view F s := by
  simp only [abortVotes, ↓voteResult_view, ↓spend_view, ↓view_mk, steady, and_self, ↓view_foldl, true_or, or_true,
    implies_true, hfreeIx,
    hout, hparts, hrel, hregs, hvec]

theorem Partition_quiesced_view {q : Nat} (x : Partition) (hpart : F (.part q) = true) :
    viewPart F q (Partition.quiesced x) = viewPart F q x :=
  viewPart_of_part hpart _ _

/-- Runs, engine resets and silent firmware are not steady. -/
theorem view_runs {b : State} {cores : Sparse Core} {clusters : Sparse Cluster} {fabric : Fabric} {kernels : Sparse Nat}
    {engResets : List EngineId} {fwSilent : List (Nat × Nat × Nat)} (hcores : F .cores = true)
    (hclusters : F .clusters = true) (hfabric : F .fabric = true) (hrel : F .rel = true) :
    view F { b with
      cores := cores, clusters := clusters, fabric := fabric
      rel := { b.rel with kernels := kernels, engResets := engResets, fwSilent := fwSilent } } = view F b :=
  view_mk (.inr rfl) (.inr rfl) (.inr rfl) (.inr rfl) (.inl hcores) (.inl hclusters) (.inr rfl) (.inr rfl) (.inl hfabric)
    (.inr rfl) (.inl ⟨hrel, .inr rfl⟩) (.inr rfl) (.inr rfl) (.inr rfl) (.inr rfl) (.inr rfl)

theorem quiescePart_view (s : State) (p : Nat) (hfreeIx : F .freeIx = true) (hout : F .out = true)
    (hcores : F .cores = true) (hclusters : F .clusters = true) (hstores : F .stores = true) (htags : F .tags = true)
    (hparts : F .parts = true) (hfabric : F .fabric = true) (hwardrobe : F .wardrobe = true) (hrel : F .rel = true)
    (hmregs : F .mregs = true) (hpart : F (.part p) = true) (hregs : ∀ q, F (.regs q) = true)
    (hvec : ∀ q, F (.vec q) = true) (hmem : ∀ q, F (.mem q) = true) (hhbm : ∀ q, F (.hbm q) = true) :
    view F (quiescePart s p) = view F s := by
  simp only [quiescePart, ↓pkAbandon_view, ↓abandonHints_view, ↓endColl_view, ↓ctxReset_view, ↓abortVotes_view,
    ↓onPart_view_part, ↓view_runs, ↓view_foldl, implies_true, hfreeIx, hout, hcores, hclusters, hstores, htags,
    hparts, hfabric, hwardrobe, hrel, hmregs, hpart, hregs, hvec, hmem, hhbm]

theorem resetEvent_view (s : State) (cls p status : Nat) (hout : F .out = true) (hrel : F .rel = true) :
    view F (resetEvent s cls p status) = view F s := by
  simp only [resetEvent, ↓eventRecord_view, hout, hrel]

theorem beginPartReset_view (s : State) (p : Nat) (counted dying : Bool) (hfreeIx : F .freeIx = true)
    (hout : F .out = true) (hcores : F .cores = true) (hclusters : F .clusters = true) (hstores : F .stores = true)
    (htags : F .tags = true) (hparts : F .parts = true) (hfabric : F .fabric = true) (hwardrobe : F .wardrobe = true)
    (hrel : F .rel = true) (hmregs : F .mregs = true) (hpart : F (.part p) = true) (hregs : ∀ q, F (.regs q) = true)
    (hvec : ∀ q, F (.vec q) = true) (hmem : ∀ q, F (.mem q) = true) (hhbm : ∀ q, F (.hbm q) = true) :
    view F (beginPartReset s p counted dying) = view F s := by
  simp only [beginPartReset, ↓onPart_view_part, ↓pmEnd_view, ↓quiescePart_view, ↓resetEvent_view, ↓setPtstate_view,
    ↓apply_ite (view F), ite_self, implies_true, hfreeIx, hout, hcores, hclusters, hstores, htags, hparts, hfabric,
    hwardrobe, hrel, hmregs, hpart, hregs, hvec, hmem, hhbm]

theorem pmBegin_view (s : State) (hmregs : F .mregs = true) : view F (pmBegin s) = view F s := by
  simp only [pmBegin, ↓putMreg_view, hmregs]

theorem pmDestroy_view (s : State) (hfreeIx : F .freeIx = true) (hout : F .out = true) (hcores : F .cores = true)
    (hclusters : F .clusters = true) (hstores : F .stores = true) (htags : F .tags = true) (hparts : F .parts = true)
    (hfabric : F .fabric = true) (hwardrobe : F .wardrobe = true) (hrel : F .rel = true) (hmregs : F .mregs = true)
    (hpart : F (.part ((pmArgs s).number)) = true) (hregs : ∀ q, F (.regs q) = true) (hvec : ∀ q, F (.vec q) = true)
    (hmem : ∀ q, F (.mem q) = true) (hhbm : ∀ q, F (.hbm q) = true) : view F (pmDestroy s) = view F s := by
  simp only [pmDestroy, ↓pmEnd_view, ↓erasePart_view, ↓beginPartReset_view, ↓pmBegin_view, ↓apply_ite (view F),
    ite_self, implies_true, hfreeIx, hout, hcores, hclusters, hstores, htags, hparts, hfabric, hwardrobe, hrel, hmregs,
    hpart, hregs, hvec, hmem, hhbm]

theorem pmPark_view (s : State) (hout : F .out = true) (hparts : F .parts = true) (hmregs : F .mregs = true)
    (hpart : F (.part ((pmArgs s).number)) = true) (hvec : F (.vec ((pmArgs s).number)) = true) :
    view F (pmPark s) = view F s := by
  simp only [pmPark, ↓pmBegin_view, ↓setPtstate_view, ↓onPart_view_part, ↓pmEnd_view, ↓apply_ite (view F), ite_self,
    hout, hparts, hmregs, hpart, hvec]

theorem pmUnpark_view (s : State) (hfreeIx : F .freeIx = true) (hout : F .out = true) (hparts : F .parts = true)
    (hmregs : F .mregs = true) (hpart : F (.part ((pmArgs s).number)) = true)
    (hvec : F (.vec ((pmArgs s).number)) = true) (hhbm : F (.hbm ((pmArgs s).number)) = true) :
    view F (pmUnpark s) = view F s := by
  simp only [pmUnpark, ↓pmEnd_view, ↓giveFrame_view, ↓pmBegin_view, ↓setPtstate_view, ↓putPart_view_part, ↓view_foldl,
    ↓apply_ite (view F), ite_self, implies_true, hfreeIx, hout, hparts, hmregs, hpart, hvec, hhbm]

theorem pmDebug_view (s : State) (on : Bool) (hcores : F .cores = true) (hparts : F .parts = true)
    (hmregs : F .mregs = true) (hpart : F (.part ((pmArgs s).number)) = true) : view F (pmDebug s on) = view F s := by
  simp only [pmDebug, ↓pmEnd_view, ↓onPart_view_part, ↓onCore_view, ↓view_foldl, ↓apply_ite (view F), ite_self,
    implies_true, hcores, hparts, hmregs, hpart]

theorem pmCommand_view (s : State) (cmd : Nat) (hfreeIx : F .freeIx = true) (hout : F .out = true)
    (hcores : F .cores = true) (hclusters : F .clusters = true) (hstores : F .stores = true) (htags : F .tags = true)
    (hparts : F .parts = true) (hfabric : F .fabric = true) (hwardrobe : F .wardrobe = true) (hrel : F .rel = true)
    (hmregs : F .mregs = true) (hpart : F (.part ((pmArgs s).number)) = true) (hregs : ∀ q, F (.regs q) = true)
    (hvec : ∀ q, F (.vec q) = true) (hmem : ∀ q, F (.mem q) = true) (hhbm : ∀ q, F (.hbm q) = true) :
    view F (pmCommand s cmd) = view F s := by
  simp only [pmCommand, ↓apply_ite (view F)]
  split
  · rfl
  · split
    · simp only [↓pmCreate_view, hfreeIx, hout, hparts, hmregs, hpart, hvec]
    · simp only [↓pmDestroy_view, implies_true, hfreeIx, hout, hcores, hclusters, hstores, htags, hparts, hfabric,
      hwardrobe, hrel, hmregs, hpart, hregs, hvec, hmem, hhbm]
    · simp only [↓pmPark_view, hout, hparts, hmregs, hpart, hvec]
    · simp only [↓pmUnpark_view, hfreeIx, hout, hparts, hmregs, hpart, hvec, hhbm]
    · simp only [↓pmDebug_view, hcores, hparts, hmregs, hpart]
    · simp only [↓pmDebug_view, hcores, hparts, hmregs, hpart]
    · rfl

theorem parkBolt_view (s : State) (p b : Nat) (hfreeIx : F .freeIx = true) (hout : F .out = true)
    (hparts : F .parts = true) (hwardrobe : F .wardrobe = true) (hrel : F .rel = true) (hregs : ∀ q, F (.regs q) = true)
    (hvec : ∀ q, F (.vec q) = true) (hhbm : F (.hbm p) = true) : view F (parkBolt s p b) = view F s := by
  simp only [parkBolt]
  split
  · simp only [↓onPart_view, ↓Partition_setBolt_view, ↓flashCopyComplete_view, implies_true, hfreeIx, hout, hparts,
    hwardrobe, hrel, hregs, hvec, hhbm]
  · simp only [↓onPart_view, ↓Partition_setBolt_view, ↓flashCopyComplete_view, implies_true, hfreeIx, hout, hparts,
    hwardrobe, hrel, hregs, hvec, hhbm]
  · simp only [↓onPart_view, ↓Partition_setBolt_view, ↓flashCopyComplete_view, ↓leaveHbm_view, ↓apply_ite (view F),
    ite_self, implies_true, hfreeIx, hout, hparts, hwardrobe, hrel, hregs, hvec, hhbm]
  · simp only [↓onPart_view, ↓leaveHbm_view, hparts, hhbm]
  · rfl
  · rfl

theorem wakeChannels_view (s : State) (panels : BitVec 16) (hpwr : F .pwr = true) :
    view F (wakeChannels s panels) = view F s := by
  simp only [wakeChannels, ↓view_mk, true_or, or_true, hpwr]

theorem scrubStores_view (s : State) (panels : BitVec 16) (hstores : F .stores = true) (htags : F .tags = true) :
    view F (scrubStores s panels) = view F s := by
  simp only [scrubStores, ↓view_mk, true_or, or_true, hstores, htags]

theorem parkComplete_view (s : State) (p : Nat) (hfreeIx : F .freeIx = true) (hout : F .out = true)
    (hcores : F .cores = true) (hclusters : F .clusters = true) (hstores : F .stores = true) (htags : F .tags = true)
    (hparts : F .parts = true) (hwardrobe : F .wardrobe = true) (hrel : F .rel = true) (hpwr : F .pwr = true)
    (hmregs : F .mregs = true) (hpart : F (.part p) = true) (hregs : ∀ q, F (.regs q) = true)
    (hvec : ∀ q, F (.vec q) = true) (hhbm : F (.hbm p) = true) : view F (parkComplete s p) = view F s := by
  simp only [parkComplete, ↓pmEnd_view, ↓setPtstate_view, ↓parkBolt_view, ↓spend_view, ↓wakeChannels_view,
    ↓scrubStores_view, ↓onPart_view_part, ↓view_mk, steady, and_self, ↓view_foldl, ↓apply_ite (view F), ite_self,
    true_or, or_true,
    implies_true, hfreeIx, hout, hcores, hclusters, hstores, htags, hparts, hwardrobe, hrel, hpwr, hmregs, hpart, hregs,
    hvec, hhbm]

theorem onSeam_view (s : State) (p : Nat) (f : SeamPlan → SeamPlan) (hparts : F .parts = true)
    (hpart : F (.part p) = true) : view F (onSeam s p f) = view F s := by
  simp only [onSeam, ↓onPart_view_part, hparts, hpart]

theorem sperWritten_view (s : State) (p old : Nat) (hparts : F .parts = true) (hpart : F (.part p) = true) :
    view F (sperWritten s p old) = view F s := by
  simp only [sperWritten, ↓onSeam_view, ↓apply_ite (view F), ite_self, hparts, hpart]

theorem unparkComplete_view (s : State) (p : Nat) (hout : F .out = true) (hparts : F .parts = true)
    (hmregs : F .mregs = true) (hpart : F (.part p) = true) (hvec : F (.vec p) = true) :
    view F (unparkComplete s p) = view F s := by
  simp only [unparkComplete, ↓pmEnd_view, ↓sperWritten_view, ↓setPtstate_view, ↓onPart_view_part, ↓apply_ite (view F),
    ite_self, hout, hparts, hmregs, hpart, hvec]

theorem clearStores_view (s : State) (x1 : Nat) (hstores : F .stores = true) (htags : F .tags = true) :
    view F (clearStores s x1) = view F s := by
  simp only [clearStores, ↓view_mk, true_or, or_true, hstores, htags]

theorem startCluster_view (s : State) (x1 cstart clen entry : Nat) (image : List Byte) (hcores : F .cores = true)
    (hclusters : F .clusters = true) (hstores : F .stores = true) (htags : F .tags = true) :
    view F (startCluster s x1 cstart clen entry image) = view F s := by
  simp only [startCluster, ↓clearStores_view, ↓onClus_view, ↓putCore_view, ↓view_mk, ↓view_foldl, true_or, or_true,
    implies_true, hcores, hclusters, hstores, htags]

theorem startComplete_view (s : State) (p c : Nat) (hfreeIx : F .freeIx = true) (hout : F .out = true)
    (hcores : F .cores = true) (hclusters : F .clusters = true) (hstores : F .stores = true) (htags : F .tags = true)
    (hparts : F .parts = true) (hwardrobe : F .wardrobe = true) (hrel : F .rel = true) (hpart : F (.part p) = true)
    (hregs : F (.regs p) = true) (hvec : ∀ q, F (.vec q) = true) (hhbm : F (.hbm p) = true) :
    view F (startComplete s p c) = view F s := by
  simp only [startComplete, ↓devRead_view, ↓startCluster_view, ↓onCtx_view, ↓cxDoorbell_view, ↓lstat_view,
    ↓setCstate_view, ↓view_foldl, ↓apply_ite (view F), ite_self, implies_true, hfreeIx, hout, hcores, hclusters,
    hstores, htags, hparts, hwardrobe, hrel, hpart, hregs, hvec, hhbm]

theorem writeSaveArea_view (s : State) (p c n : Nat) (hfreeIx : F .freeIx = true) (hout : F .out = true)
    (hcores : F .cores = true) (hstores : F .stores = true) (htags : F .tags = true) (hparts : F .parts = true)
    (hwardrobe : F .wardrobe = true) (hrel : F .rel = true) (hregs : F (.regs p) = true) (hvec : ∀ q, F (.vec q) = true)
    (hmem : F (.mem p) = true) (hhbm : F (.hbm p) = true) : view F (writeSaveArea s p c n) = view F s := by
  simp only [writeSaveArea, ↓spend_view, ↓devWrite_view, ↓view_foldl, implies_true, hfreeIx, hout, hcores, hstores,
    htags, hparts, hwardrobe, hrel, hregs, hvec, hmem, hhbm]

theorem releaseClusters_view (s : State) (p c : Nat) (hcores : F .cores = true) (hclusters : F .clusters = true) :
    view F (releaseClusters s p c) = view F s := by
  simp only [releaseClusters, ↓holdClusters_view, ↓onCore_view, ↓view_foldl, ↓apply_ite (view F), ite_self,
    implies_true, hcores, hclusters]

theorem saveComplete_view (s : State) (p c : Nat) (hfreeIx : F .freeIx = true) (hout : F .out = true)
    (hcores : F .cores = true) (hclusters : F .clusters = true) (hstores : F .stores = true) (htags : F .tags = true)
    (hparts : F .parts = true) (hwardrobe : F .wardrobe = true) (hrel : F .rel = true) (hpart : F (.part p) = true)
    (hregs : F (.regs p) = true) (hvec : ∀ q, F (.vec q) = true) (hmem : F (.mem p) = true) (hhbm : F (.hbm p) = true) :
    view F (saveComplete s p c) = view F s := by
  simp only [saveComplete, ↓writeSaveArea_view, ↓onCtx_view, ↓releaseClusters_view, ↓lstat_view, ↓setCstate_view,
    ↓apply_ite (view F), ite_self, implies_true, hfreeIx, hout, hcores, hclusters, hstores, htags, hparts, hwardrobe,
    hrel, hpart, hregs, hvec, hmem, hhbm]

theorem restoreBytes_view (s : State) (x1 i : Nat) (im : SaveImage) (hstores : F .stores = true)
    (htags : F .tags = true) : view F (restoreBytes s x1 i im) = view F s := by
  simp only [restoreBytes, ↓view_mk, true_or, or_true, hstores, htags]

theorem restoreCluster_view (s : State) (x1 i : Nat) (im : SaveImage) (hcores : F .cores = true)
    (hclusters : F .clusters = true) (hstores : F .stores = true) (htags : F .tags = true) :
    view F (restoreCluster s x1 i im) = view F s := by
  simp only [restoreCluster, ↓onClus_view, ↓restoreBytes_view, ↓putCore_view, ↓view_foldl, implies_true, hcores,
    hclusters, hstores, htags]

theorem reviveWaits_view (s : State) (g : Nat) (hcores : F .cores = true) : view F (reviveWaits s g) = view F s := by
  simp only [reviveWaits, ↓endWaits_view, hcores]

theorem restoreComplete_view (s : State) (p c : Nat) (hfreeIx : F .freeIx = true) (hout : F .out = true)
    (hcores : F .cores = true) (hclusters : F .clusters = true) (hstores : F .stores = true) (htags : F .tags = true)
    (hparts : F .parts = true) (hpart : ∀ q, F (.part q) = true) (hregs : ∀ q, F (.regs q) = true)
    (hvec : ∀ q, F (.vec q) = true) : view F (restoreComplete s p c) = view F s := by
  simp only [restoreComplete]
  split
  · refine (view_foldl _ _ fun t e => ?_).trans ?_
    · split
      · rfl
      · split
        · simp only [↓dmaRetire_view, implies_true, hfreeIx, hout, hcores, hclusters, hparts, hpart, hregs, hvec]
        · rfl
    · simp only [↓reviveWaits_view, ↓lstat_view, ↓view_foldl, implies_true, hout, hcores, hparts, hregs, hvec]
      refine (view_foldl _ _ fun t e => ?_).trans ?_
      · simp only [↓semRelease_view, ↓view_foldl, implies_true, hfreeIx, hcores, hclusters]
      · simp only [↓restoreCluster_view, ↓setCstate_view, ↓onCtx_view, ↓view_foldl, implies_true, hcores, hclusters,
        hstores, htags, hparts, hpart, hregs]
  · rfl

theorem rmContextGone_view (s : State) (p c : Nat) (hfreeIx : F .freeIx = true) (hout : F .out = true)
    (hcores : F .cores = true) (hstores : F .stores = true) (htags : F .tags = true) (hparts : F .parts = true)
    (hwardrobe : F .wardrobe = true) (hrel : F .rel = true) (hpart : F (.part p) = true) (hregs : F (.regs p) = true)
    (hvec : ∀ q, F (.vec q) = true) (hmem : F (.mem p) = true) (hhbm : F (.hbm p) = true) :
    view F (rmContextGone s p c) = view F s := by
  simp only [rmContextGone, ↓rmStop_view, ↓apply_ite (view F), ite_self, implies_true, hfreeIx, hout, hcores, hstores,
    htags, hparts, hwardrobe, hrel, hpart, hregs, hvec, hmem, hhbm]

theorem teardownComplete_view (s : State) (p c : Nat) (hfreeIx : F .freeIx = true) (hout : F .out = true)
    (hcores : F .cores = true) (hclusters : F .clusters = true) (hstores : F .stores = true) (htags : F .tags = true)
    (hparts : F .parts = true) (hwardrobe : F .wardrobe = true) (hrel : F .rel = true) (hpart : F (.part p) = true)
    (hregs : F (.regs p) = true) (hvec : ∀ q, F (.vec q) = true) (hmem : F (.mem p) = true) (hhbm : F (.hbm p) = true) :
    view F (teardownComplete s p c) = view F s := by
  simp only [teardownComplete, ↓onPart_view_part, ↓releaseClusters_view, ↓setCstate_view, ↓onCtx_view, ↓lstat_view,
    ↓ctxVector_view, ↓rmContextGone_view, ↓apply_ite (view F), ite_self, implies_true, hfreeIx, hout, hcores, hclusters,
    hstores, htags, hparts, hwardrobe, hrel, hpart, hregs, hvec, hmem, hhbm]

theorem contextHalted_view (s : State) (p c : Nat) (hfreeIx : F .freeIx = true) (hout : F .out = true)
    (hcores : F .cores = true) (hclusters : F .clusters = true) (hstores : F .stores = true) (htags : F .tags = true)
    (hparts : F .parts = true) (hwardrobe : F .wardrobe = true) (hrel : F .rel = true) (hpart : F (.part p) = true)
    (hregs : F (.regs p) = true) (hvec : ∀ q, F (.vec q) = true) (hmem : F (.mem p) = true) (hhbm : F (.hbm p) = true) :
    view F (contextHalted s p c) = view F s := by
  simp only [contextHalted, ↓rmContextGone_view, ↓lstat_view, ↓setCstate_view, ↓releaseClusters_view, ↓apply_ite (view
    F), ite_self, implies_true, hfreeIx, hout, hcores, hclusters, hstores, htags, hparts, hwardrobe, hrel, hpart, hregs,
    hvec, hmem, hhbm]

theorem flr_view (s : State) (p : Nat) (hfreeIx : F .freeIx = true) (hout : F .out = true) (hcores : F .cores = true)
    (hclusters : F .clusters = true) (hstores : F .stores = true) (htags : F .tags = true) (hparts : F .parts = true)
    (hfabric : F .fabric = true) (hwardrobe : F .wardrobe = true) (hrel : F .rel = true) (hmregs : F .mregs = true)
    (hpart : F (.part p) = true) (hregs : ∀ q, F (.regs q) = true) (hvec : ∀ q, F (.vec q) = true)
    (hmem : ∀ q, F (.mem q) = true) (hhbm : ∀ q, F (.hbm q) = true) : view F (flr s p) = view F s := by
  simp only [flr, ↓onPart_view_part, ↓beginPartReset_view, ↓apply_ite (view F), ite_self, implies_true, hfreeIx, hout,
    hcores, hclusters, hstores, htags, hparts, hfabric, hwardrobe, hrel, hmregs, hpart, hregs, hvec, hmem, hhbm]

theorem fmAnswer_view (s : State) (x1 code : Nat) (data : List Byte) (hout : F .out = true) :
    view F (fmAnswer s x1 code data) = view F s := by
  simp only [fmAnswer, ↓emit_view, ↓apply_ite (view F), ite_self, hout]

theorem hostRead_view (s : State) (p off n : Nat) (hfreeIx : F .freeIx = true) (hout : F .out = true)
    (hparts : F .parts = true) (hwardrobe : F .wardrobe = true) (hrel : F .rel = true) (hmregs : F .mregs = true)
    (hregs : ∀ q, F (.regs q) = true) (hvec : ∀ q, F (.vec q) = true) (hhbm : F (.hbm p) = true) :
    view F (hostRead s p off n) = view F s := by
  simp only [hostRead, ↓hostReadAt_view, implies_true, hfreeIx, hout, hparts, hwardrobe, hrel, hmregs, hregs, hvec,
    hhbm]

theorem hostWrite_view (s : State) (p off : Nat) (data : List Byte) (hfreeIx : F .freeIx = true) (hout : F .out = true)
    (hparts : F .parts = true) (hwardrobe : F .wardrobe = true) (hrel : F .rel = true) (hmregs : F .mregs = true)
    (hregs : F (.regs p) = true) (hvec : ∀ q, F (.vec q) = true) (hmem : F (.mem p) = true) (hhbm : F (.hbm p) = true) :
    view F (hostWrite s p off data) = view F s := by
  simp only [hostWrite, ↓hostWriteAt_view, implies_true, hfreeIx, hout, hparts, hwardrobe, hrel, hmregs, hregs, hvec,
    hmem, hhbm]

theorem hostTimeout_view (s : State) (p : Nat) (r : HostReq) (hfreeIx : F .freeIx = true) (hout : F .out = true)
    (hcores : F .cores = true) (hstores : F .stores = true) (htags : F .tags = true) (hparts : F .parts = true)
    (hfabric : F .fabric = true) (hwardrobe : F .wardrobe = true) (hrel : F .rel = true) (hmregs : F .mregs = true)
    (hpart : F (.part p) = true) (hregs : ∀ q, F (.regs q) = true) (hvec : ∀ q, F (.vec q) = true)
    (hmem : ∀ q, F (.mem q) = true) (hhbm : ∀ q, F (.hbm q) = true) : view F (hostTimeout s p r) = view F s := by
  simp only [hostTimeout, ↓onPart_view_part, ↓readAheadEnd_view, ↓hostEnd_view, ↓apply_ite (view F), ite_self,
    implies_true, hfreeIx, hout, hcores, hstores, htags, hparts, hfabric, hwardrobe, hrel, hmregs, hpart, hregs, hvec,
    hmem, hhbm]

theorem setChannel_view (s : State) (k d : Nat) (hpwr : F .pwr = true) : view F (setChannel s k d) = view F s := by
  simp only [setChannel, ↓view_mk, true_or, or_true, hpwr]

theorem wakeUnit_view (s : State) (x1 : PowerUnit) (hclusters : F .clusters = true) (hfabric : F .fabric = true)
    (hpwr : F .pwr = true) : view F (wakeUnit s x1) = view F s := by
  simp only [wakeUnit]
  split
  · simp only [↓onClus_view, hclusters]
  · simp only [↓setChannel_view, hpwr]
  · simp only [↓wakePort_view, hfabric]

theorem wakeDeeper_view (s : State) (p : Nat) (hclusters : F .clusters = true) (hfabric : F .fabric = true)
    (hpwr : F .pwr = true) : view F (wakeDeeper s p) = view F s := by
  simp only [wakeDeeper, ↓wakePort_view, ↓setChannel_view, ↓wakeUnit_view, ↓view_foldl, implies_true, hclusters,
    hfabric, hpwr]

theorem latTolWrite_view (s : State) (p : Nat) (val : Word) (hclusters : F .clusters = true) (hparts : F .parts = true)
    (hfabric : F .fabric = true) (hpwr : F .pwr = true) (hregs : F (.regs p) = true) :
    view F (latTolWrite s p val) = view F s := by
  simp only [latTolWrite, ↓wakeDeeper_view, ↓putReg_view, ↓apply_ite (view F), ite_self, hclusters, hparts, hfabric,
    hpwr, hregs]

theorem clusterOff_view (s : State) (x1 : Nat) (hcores : F .cores = true) (hstores : F .stores = true)
    (htags : F .tags = true) : view F (clusterOff s x1) = view F s := by
  simp only [clusterOff, ↓putCore_view, ↓clearStores_view, ↓view_foldl, implies_true, hcores, hstores, htags]

theorem clusterEnter_view (s : State) (x1 : Nat) (hcores : F .cores = true) (hclusters : F .clusters = true)
    (hstores : F .stores = true) (htags : F .tags = true) : view F (clusterEnter s x1) = view F s := by
  simp only [clusterEnter, ↓onClus_view, ↓clusterOff_view, ↓apply_ite (view F), ite_self, hcores, hclusters, hstores,
    htags]

theorem channelEnter_view (s : State) (panel i : Nat) (hpwr : F .pwr = true) :
    view F (channelEnter s panel i) = view F s := by
  simp only [channelEnter, ↓setChannel_view, ↓apply_ite (view F), ite_self, hpwr]

theorem portEnter_view (s : State) (c : Nat) (hfreeIx : F .freeIx = true) (hfabric : F .fabric = true) :
    view F (portEnter s c) = view F s := by
  simp only [portEnter, ↓onPort_view, ↓narrow_view, ↓apply_ite (view F), ite_self, hfreeIx, hfabric]

theorem layoutRelease_view (s : State) (p i : Nat) (hout : F .out = true) (hparts : F .parts = true)
    (hpart : F (.part p) = true) (hregs : F (.regs p) = true) (hvec : F (.vec p) = true) :
    view F (layoutRelease s p i) = view F s := by
  simp only [layoutRelease, ↓putReg_view, ↓drainGroup_view, ↓putGroup_view, ↓layoutDrain_view, ↓view_foldl, ↓apply_ite
    (view F), ite_self, implies_true, hout, hparts, hpart, hregs, hvec]

theorem readPlan_view (s : State) (p : Nat) (hfreeIx : F .freeIx = true) (hout : F .out = true)
    (hparts : F .parts = true) (hwardrobe : F .wardrobe = true) (hrel : F .rel = true) (hregs : F (.regs p) = true)
    (hvec : ∀ q, F (.vec q) = true) (hhbm : F (.hbm p) = true) : view F (readPlan s p).2 = view F s := by
  simp only [readPlan, ↓devRead_view, implies_true, hfreeIx, hout, hparts, hwardrobe, hrel, hregs, hvec, hhbm]

theorem planEarly_view (s : State) (p : Nat) (hfreeIx : F .freeIx = true) (hout : F .out = true)
    (hcores : F .cores = true) (hstores : F .stores = true) (htags : F .tags = true) (hparts : F .parts = true)
    (hfabric : F .fabric = true) (hwardrobe : F .wardrobe = true) (hrel : F .rel = true) (hpart : F (.part p) = true)
    (hregs : F (.regs p) = true) (hvec : ∀ q, F (.vec q) = true) (hmem : F (.mem p) = true) (hhbm : F (.hbm p) = true) :
    view F (planEarly s p) = view F s := by
  simp only [planEarly]
  split
  · rfl
  · simp only [↓onPart_view_part, ↓apply_ite (view F), hparts, hpart]
    split
    · rfl
    · split
      · simp only [↓onPart_view_part, ↓planFail_view, hout, hparts, hfabric, hpart, hvec]
      · simp only [↓onPart_view_part, ↓planAgreed_view, ↓onPlan_view, implies_true, hfreeIx, hout, hcores, hstores,
        htags, hparts, hfabric, hwardrobe, hrel, hpart, hregs, hvec, hmem, hhbm]

theorem settleXfer_view (s : State) (p i : Nat) (hfreeIx : F .freeIx = true) (hout : F .out = true)
    (hcores : F .cores = true) (hstores : F .stores = true) (htags : F .tags = true) (hparts : F .parts = true)
    (hfabric : F .fabric = true) (hwardrobe : F .wardrobe = true) (hrel : F .rel = true) (hmregs : F .mregs = true)
    (hpart : F (.part p) = true) (hregs : ∀ q, F (.regs q) = true) (hvec : ∀ q, F (.vec q) = true)
    (hmem : ∀ q, F (.mem q) = true) (hhbm : ∀ q, F (.hbm q) = true) : view F (settleXfer s p i) = view F s := by
  simp only [settleXfer]
  split
  · rfl
  · simp only [↓nextTry_view, ↓planSeal_view, ↓onXfer_view, ↓apply_ite (view F), ite_self, implies_true, hfreeIx, hout,
    hcores, hstores, htags, hparts, hfabric, hwardrobe, hrel, hmregs, hpart, hregs, hvec, hmem, hhbm]

theorem planRun_view (s : State) (p : Nat) (hfreeIx : F .freeIx = true) (hout : F .out = true)
    (hcores : F .cores = true) (hstores : F .stores = true) (htags : F .tags = true) (hparts : F .parts = true)
    (hfabric : F .fabric = true) (hwardrobe : F .wardrobe = true) (hrel : F .rel = true) (hmregs : F .mregs = true)
    (hpart : F (.part p) = true) (hregs : ∀ q, F (.regs q) = true) (hvec : ∀ q, F (.vec q) = true)
    (hmem : ∀ q, F (.mem q) = true) (hhbm : ∀ q, F (.hbm q) = true) : view F (planRun s p) = view F s := by
  simp only [planRun]
  split
  · rfl
  · simp only [↓putReg_view, ↓putPlan_view, ↓putPart_view_part, ↓askXfer_view, ↓settleXfer_view, ↓planSeal_view,
    ↓pumpSends_view, ↓view_foldl, implies_true, hfreeIx, hout, hcores, hstores, htags, hparts, hfabric, hwardrobe, hrel,
    hmregs, hpart, hregs, hvec, hmem, hhbm]

theorem planSubmit_view (s : State) (p : Nat) (hfreeIx : F .freeIx = true) (hout : F .out = true)
    (hcores : F .cores = true) (hstores : F .stores = true) (htags : F .tags = true) (hparts : F .parts = true)
    (hfabric : F .fabric = true) (hwardrobe : F .wardrobe = true) (hrel : F .rel = true) (hmregs : F .mregs = true)
    (hpart : F (.part p) = true) (hregs : ∀ q, F (.regs q) = true) (hvec : ∀ q, F (.vec q) = true)
    (hmem : ∀ q, F (.mem q) = true) (hhbm : ∀ q, F (.hbm q) = true) : view F (planSubmit s p) = view F s := by
  simp only [planSubmit, ↓putReg_view, ↓apply_ite (view F), hparts, hregs]
  split
  · rfl
  · split
    · rfl
    · split
      · simp only [↓putReg_view, ↓readPlan_view, ↓msix_view, implies_true, hfreeIx, hout, hparts, hwardrobe, hrel,
        hregs, hvec, hhbm]
      · simp only [↓putReg_view, ↓readPlan_view, ↓onPart_view_part, ↓putPlan_view, ↓planEarly_view, ↓planRun_view,
        ↓apply_ite (view F), ite_self, implies_true, hfreeIx, hout, hcores, hstores, htags, hparts, hfabric, hwardrobe,
        hrel, hmregs, hpart, hregs, hvec, hmem, hhbm]

theorem planAstat_view (s : State) (p status : Nat) (hparts : F .parts = true) (hregs : F (.regs p) = true) :
    view F (planAstat s p status) = view F s := by
  simp only [planAstat, ↓putReg_view, hparts, hregs]

theorem planAbort_view (s : State) (p : Nat) (hout : F .out = true) (hparts : F .parts = true)
    (hfabric : F .fabric = true) (hpart : F (.part p) = true) (hregs : F (.regs p) = true) (hvec : F (.vec p) = true) :
    view F (planAbort s p) = view F s := by
  simp only [planAbort, ↓apply_ite (view F)]
  split
  · rfl
  · split
    · simp only [↓planFail_view, ↓planAstat_view, hout, hparts, hfabric, hpart, hregs, hvec]
    · simp only [↓planFail_view, ↓planAstat_view, hout, hparts, hfabric, hpart, hregs, hvec]
    · simp only [↓planAstat_view, hparts, hregs]
    · simp only [↓planAstat_view, hparts, hregs]

theorem takePlan_view {s : State} {via : Option Nat} {m : Msg} {kind : Nat} {f : State → Nat → Msg → State}
    (keep : ∀ t p q, view F t = view F s → view F (f t p q) = view F s) (hout : F .out = true) (hparts : F .parts = true)
    (hfabric : F .fabric = true) (hmregs : F .mregs = true) (hregs : ∀ q, F (.regs q) = true)
    (hvec : ∀ q, F (.vec q) = true) : view F (takePlan s via m kind f) = view F s := by
  have accepted := acceptMsg_view s via m hfabric hmregs
  unfold takePlan
  split
  · rfl
  · split
    next s0 e => rw [e] at accepted; exact accepted
    next q s0 e =>
      rw [e] at accepted
      split
      · exact (ackColl_view _ _ _ hout hfabric).trans accepted
      · dsimp only
        split
        · exact keep _ _ _ accepted
        · rw [ackColl_view _ _ _ hout hfabric, errEvent_view _ _ _ hout hparts (hregs _) (hvec _)]
          exact accepted

theorem takeCtrl_view {s : State} {via : Option Nat} {m : Msg} {code : Nat} {f : State → Nat → Msg → State}
    (keep : ∀ t p q, view F t = view F s → view F (f t p q) = view F s) (hout : F .out = true)
    (hparts : F .parts = true) (hfabric : F .fabric = true) (hmregs : F .mregs = true) (hregs : ∀ q, F (.regs q) = true)
    (hvec : ∀ q, F (.vec q) = true) : view F (takeCtrl s via m code f) = view F s := by
  refine takePlan_view (fun t p q ht => ?_) hout hparts hfabric hmregs hregs hvec
  refine view_ite (fun _ => rfl) fun _ => view_ite (fun _ => keep t p q ht) fun _ => view_ite (fun _ => ?_) fun _ => rfl
  rw [ackColl_view _ _ _ hout hfabric, countBadCode_view _ hfabric, ht]

theorem takePull_view (s : State) (p : Nat) (m : Msg) (hfreeIx : F .freeIx = true) (hout : F .out = true)
    (hparts : F .parts = true) (hfabric : F .fabric = true) (hwardrobe : F .wardrobe = true) (hrel : F .rel = true)
    (hmregs : F .mregs = true) (hpart : F (.part p) = true) (hregs : ∀ q, F (.regs q) = true)
    (hvec : ∀ q, F (.vec q) = true) (hmem : ∀ q, F (.mem q) = true) (hhbm : ∀ q, F (.hbm q) = true) :
    view F (takePull s p m) = view F s := by
  simp only [takePull, ↓ackColl_view, ↓apply_ite (view F), hout, hfabric]
  split
  · rfl
  · split
    · simp only [↓ackColl_view, hout, hfabric]
    · split
      · simp only [↓ackColl_view, hout, hfabric]
      · simp only [↓ackColl_view, ↓pumpSends_view, ↓onPlan_view, implies_true, hfreeIx, hout, hparts, hfabric,
        hwardrobe, hrel, hmregs, hpart, hregs, hvec, hmem, hhbm]

theorem pullRetry_view (s : State) (p i : Nat) (hout : F .out = true) (hparts : F .parts = true)
    (hfabric : F .fabric = true) (hpart : F (.part p) = true) : view F (pullRetry s p i) = view F s := by
  simp only [pullRetry]
  split
  · rfl
  · split
    · rfl
    · simp only [↓onXfer_view, ↓sendPull_view, ↓view_foldl, implies_true, hout, hparts, hfabric, hpart]

theorem takeData_view (via : Option Nat) (s : State) (p : Nat) (m : Msg) (hfreeIx : F .freeIx = true)
    (hout : F .out = true) (hparts : F .parts = true) (hfabric : F .fabric = true) (hwardrobe : F .wardrobe = true)
    (hrel : F .rel = true) (hmregs : F .mregs = true) (hpart : F (.part p) = true) (hregs : ∀ q, F (.regs q) = true)
    (hvec : ∀ q, F (.vec q) = true) (hmem : ∀ q, F (.mem q) = true) (hhbm : ∀ q, F (.hbm q) = true) :
    view F (takeData via s p m) = view F s := by
  have acked (t : State) (m : Msg) (st : Nat) : view F (ackColl t m st) = view F t := ackColl_view t m st hout hfabric
  unfold takeData
  dsimp only
  split
  · exact acked ..
  · split
    · exact acked ..
    · split
      · exact acked ..
      · split
        · rw [acked, arrivalFails_view _ _ _ _ _ hout hparts hrel hregs hvec]
        · split
          · rw [planFail_view _ _ _ hout hparts hfabric hpart (hvec p), acked]
          next s1 e =>
            rw [acked, putReg_view _ _ _ _ _ _ hparts (hregs p), onXfer_view _ _ _ _ hparts hpart,
              storeDest_view e hfreeIx hout hparts hwardrobe hrel hmregs hregs hvec hmem hhbm]

theorem takeTdone_view (s : State) (p : Nat) (m : Msg) (hfreeIx : F .freeIx = true) (hout : F .out = true)
    (hcores : F .cores = true) (hstores : F .stores = true) (htags : F .tags = true) (hparts : F .parts = true)
    (hfabric : F .fabric = true) (hwardrobe : F .wardrobe = true) (hrel : F .rel = true) (hmregs : F .mregs = true)
    (hpart : F (.part p) = true) (hregs : ∀ q, F (.regs q) = true) (hvec : ∀ q, F (.vec q) = true)
    (hmem : ∀ q, F (.mem q) = true) (hhbm : ∀ q, F (.hbm q) = true) : view F (takeTdone s p m) = view F s := by
  simp only [takeTdone]
  split
  · simp only [↓ackColl_view, hout, hfabric]
  · split
    · simp only [↓ackColl_view, hout, hfabric]
    · split
      · simp only [↓ackColl_view, hout, hfabric]
      · simp only [↓ackColl_view, ↓settleXfer_view, ↓onXfer_view, ↓apply_ite (view F), ite_self, implies_true, hfreeIx,
        hout, hcores, hstores, htags, hparts, hfabric, hwardrobe, hrel, hmregs, hpart, hregs, hvec, hmem, hhbm]

theorem digestReadback_view (s : State) (p i : Nat) (hfreeIx : F .freeIx = true) (hout : F .out = true)
    (hcores : F .cores = true) (hstores : F .stores = true) (htags : F .tags = true) (hparts : F .parts = true)
    (hfabric : F .fabric = true) (hwardrobe : F .wardrobe = true) (hrel : F .rel = true) (hmregs : F .mregs = true)
    (hpart : F (.part p) = true) (hregs : ∀ q, F (.regs q) = true) (hvec : ∀ q, F (.vec q) = true)
    (hmem : ∀ q, F (.mem q) = true) (hhbm : ∀ q, F (.hbm q) = true) : view F (digestReadback s p i) = view F s := by
  simp only [digestReadback]
  split
  · rfl
  · split
    · rfl
    · split
      · rfl
      · simp only [↓onXfer_view, ↓settleXfer_view, ↓errEvent_view, ↓apply_ite (view F), ite_self, implies_true, hfreeIx,
        hout, hcores, hstores, htags, hparts, hfabric, hwardrobe, hrel, hmregs, hpart, hregs, hvec, hmem, hhbm]

theorem transferTimeout_view (s : State) (p i : Nat) (hfreeIx : F .freeIx = true) (hout : F .out = true)
    (hcores : F .cores = true) (hstores : F .stores = true) (htags : F .tags = true) (hparts : F .parts = true)
    (hfabric : F .fabric = true) (hwardrobe : F .wardrobe = true) (hrel : F .rel = true) (hmregs : F .mregs = true)
    (hpart : F (.part p) = true) (hregs : ∀ q, F (.regs q) = true) (hvec : ∀ q, F (.vec q) = true)
    (hmem : ∀ q, F (.mem q) = true) (hhbm : ∀ q, F (.hbm q) = true) : view F (transferTimeout s p i) = view F s := by
  unfold transferTimeout
  split
  · rfl
  · exact when_view (nextTry_view _ _ _ _ hfreeIx hout hcores hstores htags hparts hfabric hwardrobe hrel hmregs hpart
      hregs hvec hmem hhbm)

theorem keepEarly_view (s : State) (p : Nat) (m : Msg) (status : Option Nat) (hparts : F .parts = true)
    (hpart : F (.part p) = true) : view F (keepEarly s p m status) = view F s := by
  simp only [keepEarly, ↓onPart_view_part, ↓apply_ite (view F), ite_self, hparts, hpart]

theorem takeDone_view (s : State) (p : Nat) (m : Msg) (hfreeIx : F .freeIx = true) (hout : F .out = true)
    (hcores : F .cores = true) (hstores : F .stores = true) (htags : F .tags = true) (hparts : F .parts = true)
    (hfabric : F .fabric = true) (hwardrobe : F .wardrobe = true) (hrel : F .rel = true) (hpart : F (.part p) = true)
    (hregs : F (.regs p) = true) (hvec : ∀ q, F (.vec q) = true) (hmem : F (.mem p) = true) (hhbm : F (.hbm p) = true) :
    view F (takeDone s p m) = view F s := by
  simp only [takeDone]
  split
  · simp only [↓ackColl_view, ↓keepEarly_view, hout, hparts, hfabric, hpart]
  · split
    · simp only [↓ackColl_view, hout, hfabric]
    · simp only [↓ackColl_view, ↓planAgreed_view, ↓onPlan_view, ↓apply_ite (view F), ite_self, implies_true, hfreeIx,
      hout, hcores, hstores, htags, hparts, hfabric, hwardrobe, hrel, hpart, hregs, hvec, hmem, hhbm]

theorem takeCommit_view (s : State) (p : Nat) (m : Msg) (hfreeIx : F .freeIx = true) (hout : F .out = true)
    (hcores : F .cores = true) (hstores : F .stores = true) (htags : F .tags = true) (hparts : F .parts = true)
    (hfabric : F .fabric = true) (hwardrobe : F .wardrobe = true) (hrel : F .rel = true) (hpart : F (.part p) = true)
    (hregs : F (.regs p) = true) (hvec : ∀ q, F (.vec q) = true) (hmem : F (.mem p) = true) (hhbm : F (.hbm p) = true) :
    view F (takeCommit s p m) = view F s := by
  simp only [takeCommit]
  split
  · simp only [↓ackColl_view, hout, hfabric]
  · simp only [↓ackColl_view, ↓when_view, ↓planCommit_view, implies_true, hfreeIx, hout, hcores, hstores, htags, hparts,
    hfabric, hwardrobe, hrel, hpart, hregs, hvec, hmem, hhbm]

theorem takeFail_view (s : State) (p : Nat) (m : Msg) (hout : F .out = true) (hparts : F .parts = true)
    (hfabric : F .fabric = true) (hpart : F (.part p) = true) (hvec : F (.vec p) = true) :
    view F (takeFail s p m) = view F s := by
  simp only [takeFail]
  split
  · simp only [↓ackColl_view, ↓keepEarly_view, hout, hparts, hfabric, hpart]
  · simp only [↓ackColl_view, ↓planFail_view, ↓planEnd_view, ↓apply_ite (view F), ite_self, hout, hparts, hfabric,
    hpart, hvec]

theorem planDeadline_view (s : State) (p : Nat) (hout : F .out = true) (hparts : F .parts = true)
    (hfabric : F .fabric = true) (hpart : F (.part p) = true) (hvec : F (.vec p) = true) :
    view F (planDeadline s p) = view F s := by
  simp only [planDeadline]
  split
  · rfl
  · simp only [↓when_view, ↓planFail_view, hout, hparts, hfabric, hpart, hvec]

theorem commitResend_view (s : State) (p r : Nat) (hout : F .out = true) (hfabric : F .fabric = true) :
    view F (commitResend s p r) = view F s := by
  simp only [commitResend]
  refine (view_foldl _ _ fun t e => ?_).trans ?_
  · split
    · simp only [↓sendTold_view, hout, hfabric]
    · rfl
  · rfl

theorem digestScrub_view (s : State) (p k : Nat) (hfreeIx : F .freeIx = true) (hout : F .out = true)
    (hcores : F .cores = true) (hstores : F .stores = true) (htags : F .tags = true) (hparts : F .parts = true)
    (hwardrobe : F .wardrobe = true) (hrel : F .rel = true) (hmregs : F .mregs = true) (hregs : ∀ q, F (.regs q) = true)
    (hvec : ∀ q, F (.vec q) = true) (hmem : ∀ q, F (.mem q) = true) (hhbm : ∀ q, F (.hbm q) = true) :
    view F (digestScrub s p k) = view F s := by
  simp only [digestScrub]
  split
  · rfl
  · simp only [↓touchTiles_view, ↓msix_view, ↓errEvent_view, ↓apply_ite (view F), hout, hparts, hregs, hvec, hhbm]
    split
    · simp only [↓touchTiles_view, ↓devWriteBy_view, ↓putReg_view, ite_self, implies_true, hfreeIx, hout, hcores,
      hstores, htags, hparts, hwardrobe, hrel, hregs, hvec, hmem, hhbm]
      split
      · rfl
      · refine view_getD (fun t e => ?_) ?_
        · simp only [↓readyAll_view e fun e => fetchNow_view e hfreeIx hout hparts hwardrobe hrel hmregs hregs hvec hmem
          hhbm, ↓devRead_view, implies_true, hfreeIx, hout, hparts, hwardrobe, hrel, hregs, hvec, hhbm]
        · simp only [↓devRead_view, implies_true, hfreeIx, hout, hparts, hwardrobe, hrel, hregs, hvec, hhbm]
    · simp only [↓touchTiles_view, ↓devWriteBy_view, ite_self, implies_true, hfreeIx, hout, hcores, hstores, htags,
      hparts, hwardrobe, hrel, hregs, hvec, hmem, hhbm]
      split
      · rfl
      · refine view_getD (fun t e => ?_) ?_
        · simp only [↓readyAll_view e fun e => fetchNow_view e hfreeIx hout hparts hwardrobe hrel hmregs hregs hvec hmem
          hhbm, ↓devRead_view, implies_true, hfreeIx, hout, hparts, hwardrobe, hrel, hregs, hvec, hhbm]
        · simp only [↓devRead_view, implies_true, hfreeIx, hout, hparts, hwardrobe, hrel, hregs, hvec, hhbm]

theorem markSeamDmas_view (s0 : State) (p n : Nat) (hcores : F .cores = true) (hparts : F .parts = true)
    (hpart : F (.part p) = true) : view F (markSeamDmas s0 p n) = view F s0 := by
  simp only [markSeamDmas, ↓onPart_view_part, ↓onCore_view, ↓view_foldl, implies_true, hcores, hparts, hpart]

theorem dropRef_view {q : Nat} (x : Partition) (i : Nat) (hregs : F (.regs q) = true) :
    viewPart F q (dropRef x i) = viewPart F q x := by
  simp only [dropRef, ↓Partition_put_view, hregs]

theorem endBatches_view {q : Nat} (x : Partition) (gone : Batch → Bool) (hpart : F (.part q) = true) :
    viewPart F q (endBatches x gone) = viewPart F q x :=
  viewPart_of_part hpart _ _

theorem switchSlots_view {q : Nat} (x : Partition) (hpart : F (.part q) = true) :
    viewPart F q (switchSlots x) = viewPart F q x :=
  viewPart_of_part hpart _ _

theorem doSwitch_view (s : State) (p : Nat) (late : Bool) (hparts : F .parts = true) (hpart : F (.part p) = true)
    (hregs : F (.regs p) = true) : view F (doSwitch s p late) = view F s := by
  simp only [doSwitch, ↓putReg_view, ↓onPart_view_part, hparts, hpart, hregs]

theorem drainStart_view (s : State) (p : Nat) (hfreeIx : F .freeIx = true) (hout : F .out = true)
    (hcores : F .cores = true) (hstores : F .stores = true) (htags : F .tags = true) (hparts : F .parts = true)
    (hfabric : F .fabric = true) (hwardrobe : F .wardrobe = true) (hrel : F .rel = true) (hmregs : F .mregs = true)
    (hpart : F (.part p) = true) (hregs : ∀ q, F (.regs q) = true) (hvec : ∀ q, F (.vec q) = true)
    (hmem : ∀ q, F (.mem q) = true) (hhbm : ∀ q, F (.hbm q) = true) : view F (drainStart s p) = view F s := by
  simp only [drainStart]
  split
  · simp only [↓planRun_view, ↓apply_ite (view F), ite_self, implies_true, hfreeIx, hout, hcores, hstores, htags,
    hparts, hfabric, hwardrobe, hrel, hmregs, hpart, hregs, hvec, hmem, hhbm]
  · rfl

theorem freeRetired_view {q : Nat} (x : Partition) (hpart : F (.part q) = true) :
    viewPart F q (freeRetired x) = viewPart F q x :=
  viewPart_of_part hpart _ _

theorem addRef_view {q : Nat} (x : Partition) (i : Nat) (hregs : F (.regs q) = true) :
    viewPart F q (addRef x i) = viewPart F q x := by
  simp only [addRef, ↓Partition_put_view, hregs]

theorem startBatch_view {q : Nat} (x : Partition) (id : Nat) (hpart : F (.part q) = true) :
    viewPart F q (startBatch x id) = viewPart F q x :=
  viewPart_of_part hpart _ _

theorem seamSlots_view (s : State) (p : Nat) (step : BitVec 32) (gone : Batch → Bool) (fresh : Bool)
    (hfreeIx : F .freeIx = true) (hout : F .out = true) (hcores : F .cores = true) (hstores : F .stores = true)
    (htags : F .tags = true) (hparts : F .parts = true) (hfabric : F .fabric = true) (hwardrobe : F .wardrobe = true)
    (hrel : F .rel = true) (hmregs : F .mregs = true) (hpart : F (.part p) = true) (hregs : ∀ q, F (.regs q) = true)
    (hvec : ∀ q, F (.vec q) = true) (hmem : ∀ q, F (.mem q) = true) (hhbm : ∀ q, F (.hbm q) = true) :
    view F (seamSlots s p step gone fresh) = view F s := by
  simp only [seamSlots, ↓onPart_view_part, ↓drainStart_view, ↓apply_ite (view F), ite_self, implies_true, hfreeIx, hout,
    hcores, hstores, htags, hparts, hfabric, hwardrobe, hrel, hmregs, hpart, hregs, hvec, hmem, hhbm]
  split
  · simp only [↓onPart_view_part, ↓doSwitch_view, hparts, hpart, hregs]
  · simp only [↓onPart_view_part, hparts, hpart]

theorem rmOverrun_view (s : State) (p : Nat) (hparts : F .parts = true) (hregs : F (.regs p) = true) :
    view F (rmOverrun s p) = view F s := by
  simp only [rmOverrun, ↓putReg_view, hparts, hregs]

theorem custRefill_view (s : State) (p n : Nat) (hfreeIx : F .freeIx = true) (hout : F .out = true)
    (hcores : F .cores = true) (hstores : F .stores = true) (htags : F .tags = true) (hparts : F .parts = true)
    (hwardrobe : F .wardrobe = true) (hrel : F .rel = true) (hregs : F (.regs p) = true) (hvec : ∀ q, F (.vec q) = true)
    (hmem : F (.mem p) = true) (hhbm : F (.hbm p) = true) : view F (custRefill s p n) = view F s := by
  simp only [custRefill, ↓devRead_view, ↓devWrite_view, ↓view_foldl, implies_true, hfreeIx, hout, hcores, hstores,
    htags, hparts, hwardrobe, hrel, hregs, hvec, hmem, hhbm]

theorem rmRefill_view (s : State) (p : Nat) (hfreeIx : F .freeIx = true) (hout : F .out = true)
    (hcores : F .cores = true) (hstores : F .stores = true) (htags : F .tags = true) (hparts : F .parts = true)
    (hwardrobe : F .wardrobe = true) (hrel : F .rel = true) (hpart : F (.part p) = true) (hregs : F (.regs p) = true)
    (hvec : ∀ q, F (.vec q) = true) (hmem : F (.mem p) = true) (hhbm : F (.hbm p) = true) :
    view F (rmRefill s p) = view F s := by
  simp only [rmRefill, ↓onRing_view, ↓custRefill_view, ↓apply_ite (view F), ite_self, implies_true, hfreeIx, hout,
    hcores, hstores, htags, hparts, hwardrobe, hrel, hpart, hregs, hvec, hmem, hhbm]

theorem noteFinished_view (s : State) (p : Nat) (id : BitVec 32) (hparts : F .parts = true) (hpart : F (.part p) = true)
    : view F (noteFinished s p id) = view F s := by
  simp only [noteFinished, ↓onRing_view, hparts, hpart]

theorem custCounts_view (s : State) (p c : Nat) (hfreeIx : F .freeIx = true) (hout : F .out = true)
    (hcores : F .cores = true) (hstores : F .stores = true) (htags : F .tags = true) (hparts : F .parts = true)
    (hwardrobe : F .wardrobe = true) (hrel : F .rel = true) (hregs : F (.regs p) = true) (hvec : ∀ q, F (.vec q) = true)
    (hmem : F (.mem p) = true) (hhbm : F (.hbm p) = true) : view F (custCounts s p c) = view F s := by
  simp only [custCounts, ↓devWrite_view, implies_true, hfreeIx, hout, hcores, hstores, htags, hparts, hwardrobe, hrel,
    hregs, hvec, hmem, hhbm]

theorem dropPage_view {q : Nat} (x : Partition) (g : Nat) (hpart : F (.part q) = true) :
    viewPart F q (dropPage x g) = viewPart F q x :=
  viewPart_of_part hpart _ _

theorem putSeq_view {p : Nat} (x : Partition) (i : Nat) (q : Seq) (hpart : F (.part p) = true) :
    viewPart F p (putSeq x i q) = viewPart F p x :=
  viewPart_of_part hpart _ _

theorem freeSeq_view (s : State) (p i : Nat) (hfreeIx : F .freeIx = true) (hout : F .out = true)
    (hcores : F .cores = true) (hstores : F .stores = true) (htags : F .tags = true) (hparts : F .parts = true)
    (hwardrobe : F .wardrobe = true) (hrel : F .rel = true) (hpart : F (.part p) = true) (hregs : F (.regs p) = true)
    (hvec : ∀ q, F (.vec q) = true) (hmem : F (.mem p) = true) (hhbm : F (.hbm p) = true) :
    view F (freeSeq s p i) = view F s := by
  simp only [freeSeq, ↓devWrite_view, ↓putPart_view_part, implies_true, hfreeIx, hout, hcores, hstores, htags, hparts,
    hwardrobe, hrel, hpart, hregs, hvec, hmem, hhbm]

theorem seqLeave_view (s : State) (p i reason status : Nat) (hfreeIx : F .freeIx = true) (hout : F .out = true)
    (hcores : F .cores = true) (hstores : F .stores = true) (htags : F .tags = true) (hparts : F .parts = true)
    (hwardrobe : F .wardrobe = true) (hrel : F .rel = true) (hpart : F (.part p) = true) (hregs : F (.regs p) = true)
    (hvec : ∀ q, F (.vec q) = true) (hmem : F (.mem p) = true) (hhbm : F (.hbm p) = true) :
    view F (seqLeave s p i reason status) = view F s := by
  simp only [seqLeave, ↓noteFinished_view, ↓custCounts_view, ↓freeSeq_view, ↓carEnd_view, implies_true, hfreeIx, hout,
    hcores, hstores, htags, hparts, hwardrobe, hrel, hpart, hregs, hvec, hmem, hhbm]

theorem rmLeave_view (s : State) (p : Nat) (hfreeIx : F .freeIx = true) (hout : F .out = true)
    (hcores : F .cores = true) (hstores : F .stores = true) (htags : F .tags = true) (hparts : F .parts = true)
    (hwardrobe : F .wardrobe = true) (hrel : F .rel = true) (hpart : F (.part p) = true) (hregs : F (.regs p) = true)
    (hvec : ∀ q, F (.vec q) = true) (hmem : F (.mem p) = true) (hhbm : F (.hbm p) = true) :
    view F (rmLeave s p) = view F s := by
  simp only [rmLeave, ↓carEnd_view, ↓onRing_view, ↓noteFinished_view, ↓custCounts_view, ↓view_foldl, implies_true,
    hfreeIx, hout, hcores, hstores, htags, hparts, hwardrobe, hrel, hpart, hregs, hvec, hmem, hhbm]
  refine (view_foldl _ _ fun t e => ?_).trans ?_
  · simp only [↓seqLeave_view, ↓apply_ite (view F), implies_true, hfreeIx, hout, hcores, hstores, htags, hparts,
    hwardrobe, hrel, hpart, hregs, hvec, hmem, hhbm]
    split
    · rfl
    · split
      · rfl
      · split
        · simp only [↓seqLeave_view, implies_true, hfreeIx, hout, hcores, hstores, htags, hparts, hwardrobe, hrel,
          hpart, hregs, hvec, hmem, hhbm]
        · rfl
  · rfl

theorem rmResult_view (s : State) (p k : Nat) (hfreeIx : F .freeIx = true) (hout : F .out = true)
    (hparts : F .parts = true) (hwardrobe : F .wardrobe = true) (hrel : F .rel = true) (hregs : F (.regs p) = true)
    (hvec : ∀ q, F (.vec q) = true) (hhbm : F (.hbm p) = true) : view F (rmResult s p k).2 = view F s := by
  simp only [rmResult, ↓devRead_view, implies_true, hfreeIx, hout, hparts, hwardrobe, hrel, hregs, hvec, hhbm]

theorem custCharge_view (s : State) (p c n : Nat) (hfreeIx : F .freeIx = true) (hout : F .out = true)
    (hcores : F .cores = true) (hstores : F .stores = true) (htags : F .tags = true) (hparts : F .parts = true)
    (hwardrobe : F .wardrobe = true) (hrel : F .rel = true) (hregs : F (.regs p) = true) (hvec : ∀ q, F (.vec q) = true)
    (hmem : F (.mem p) = true) (hhbm : F (.hbm p) = true) : view F (custCharge s p c n) = view F s := by
  simp only [custCharge, ↓devRead_view, ↓devWrite_view, ↓apply_ite (view F), ite_self, implies_true, hfreeIx, hout,
    hcores, hstores, htags, hparts, hwardrobe, hrel, hregs, hvec, hmem, hhbm]

theorem onSeq_view (s : State) (p i : Nat) (f : Seq → Seq) (hparts : F .parts = true) (hpart : F (.part p) = true) :
    view F (onSeq s p i f) = view F s := by
  simp only [onSeq, ↓onPart_view_part, hparts, hpart]

theorem commitTok_view (s : State) (p i tok logp : Nat) (hfreeIx : F .freeIx = true) (hout : F .out = true)
    (hcores : F .cores = true) (hstores : F .stores = true) (htags : F .tags = true) (hparts : F .parts = true)
    (hwardrobe : F .wardrobe = true) (hrel : F .rel = true) (hpart : F (.part p) = true) (hregs : F (.regs p) = true)
    (hvec : ∀ q, F (.vec q) = true) (hmem : F (.mem p) = true) (hhbm : F (.hbm p) = true) :
    view F (commitTok s p i tok logp) = view F s := by
  simp only [commitTok, ↓devWrite_view, ↓onSeq_view, ↓carRecord_view, implies_true, hfreeIx, hout, hcores, hstores,
    htags, hparts, hwardrobe, hrel, hpart, hregs, hvec, hmem, hhbm]

theorem commitToks_view (s : State) (p i : Nat) (b : List Byte) (j n : Nat) (hfreeIx : F .freeIx = true)
    (hout : F .out = true) (hcores : F .cores = true) (hstores : F .stores = true) (htags : F .tags = true)
    (hparts : F .parts = true) (hwardrobe : F .wardrobe = true) (hrel : F .rel = true) (hpart : F (.part p) = true)
    (hregs : F (.regs p) = true) (hvec : ∀ q, F (.vec q) = true) (hmem : F (.mem p) = true) (hhbm : F (.hbm p) = true) :
    view F (commitToks s p i b j n) = view F s := by
  simp only [commitToks, ↓commitTok_view, ↓view_foldl, implies_true, hfreeIx, hout, hcores, hstores, htags, hparts,
    hwardrobe, hrel, hpart, hregs, hvec, hmem, hhbm]

theorem trimPages_view {q : Nat} (x : Partition) (i : Nat) (hpart : F (.part q) = true) :
    viewPart F q (trimPages x i) = viewPart F q x :=
  viewPart_of_part hpart _ _

theorem collectDecode_view (s : State) (p k : Nat) (e : StepEntry) (hfreeIx : F .freeIx = true) (hout : F .out = true)
    (hcores : F .cores = true) (hstores : F .stores = true) (htags : F .tags = true) (hparts : F .parts = true)
    (hwardrobe : F .wardrobe = true) (hrel : F .rel = true) (hpart : F (.part p) = true) (hregs : F (.regs p) = true)
    (hvec : ∀ q, F (.vec q) = true) (hmem : F (.mem p) = true) (hhbm : F (.hbm p) = true) :
    view F (collectDecode s p k e) = view F s := by
  simp only [collectDecode, ↓rmResult_view, ↓custCharge_view, ↓commitToks_view, ↓onSeq_view, ↓onPart_view_part,
    implies_true, hfreeIx, hout, hcores, hstores, htags, hparts, hwardrobe, hrel, hpart, hregs, hvec, hmem, hhbm]

theorem promptTokens_view (s : State) (p : Nat) (q : QReq) (n : Nat) (hfreeIx : F .freeIx = true) (hout : F .out = true)
    (hparts : F .parts = true) (hwardrobe : F .wardrobe = true) (hrel : F .rel = true) (hregs : F (.regs p) = true)
    (hvec : ∀ q, F (.vec q) = true) (hhbm : F (.hbm p) = true) : view F (promptTokens s p q n).2 = view F s := by
  simp only [promptTokens, ↓devRead_view, implies_true, hfreeIx, hout, hparts, hwardrobe, hrel, hregs, hvec, hhbm]

theorem pfxEnter_view {q : Nat} (x : Partition) (gen : Epoch) (aid : BitVec 16) (ts : List (BitVec 32)) (g : Nat)
    (hpart : F (.part q) = true) : viewPart F q (pfxEnter x gen aid ts g) = viewPart F q x :=
  viewPart_of_part hpart _ _

theorem enterPages_view (s : State) (p i from_ to_ : Nat) (hfreeIx : F .freeIx = true) (hout : F .out = true)
    (hparts : F .parts = true) (hwardrobe : F .wardrobe = true) (hrel : F .rel = true) (hpart : F (.part p) = true)
    (hregs : F (.regs p) = true) (hvec : ∀ q, F (.vec q) = true) (hhbm : F (.hbm p) = true) :
    view F (enterPages s p i from_ to_) = view F s := by
  simp only [enterPages, ↓promptTokens_view, ↓onPart_view_part, ↓apply_ite (view F), ite_self, implies_true, hfreeIx,
    hout, hparts, hwardrobe, hrel, hpart, hregs, hvec, hhbm]

theorem firstToken_view (s : State) (p i : Nat) (b : List Byte) (hfreeIx : F .freeIx = true) (hout : F .out = true)
    (hcores : F .cores = true) (hstores : F .stores = true) (htags : F .tags = true) (hparts : F .parts = true)
    (hwardrobe : F .wardrobe = true) (hrel : F .rel = true) (hpart : F (.part p) = true) (hregs : F (.regs p) = true)
    (hvec : ∀ q, F (.vec q) = true) (hmem : F (.mem p) = true) (hhbm : F (.hbm p) = true) :
    view F (firstToken s p i b) = view F s := by
  simp only [firstToken, ↓custCharge_view, ↓commitToks_view, ↓onSeq_view, implies_true, hfreeIx, hout, hcores, hstores,
    htags, hparts, hwardrobe, hrel, hpart, hregs, hvec, hmem, hhbm]

theorem carNote_view (s : State) (p : Nat) (q : QReq) (fork len what : Nat) (hfreeIx : F .freeIx = true)
    (hout : F .out = true) (hcores : F .cores = true) (hstores : F .stores = true) (htags : F .tags = true)
    (hparts : F .parts = true) (hwardrobe : F .wardrobe = true) (hrel : F .rel = true) (hpart : F (.part p) = true)
    (hregs : F (.regs p) = true) (hvec : ∀ q, F (.vec q) = true) (hmem : F (.mem p) = true) (hhbm : F (.hbm p) = true) :
    view F (carNote s p q fork len what) = view F s := by
  simp only [carNote, ↓carRecord_view, implies_true, hfreeIx, hout, hcores, hstores, htags, hparts, hwardrobe, hrel,
    hpart, hregs, hvec, hmem, hhbm]

theorem seqResumed_view (s : State) (p i : Nat) (hfreeIx : F .freeIx = true) (hout : F .out = true)
    (hcores : F .cores = true) (hstores : F .stores = true) (htags : F .tags = true) (hparts : F .parts = true)
    (hwardrobe : F .wardrobe = true) (hrel : F .rel = true) (hpart : F (.part p) = true) (hregs : F (.regs p) = true)
    (hvec : ∀ q, F (.vec q) = true) (hmem : F (.mem p) = true) (hhbm : F (.hbm p) = true) :
    view F (seqResumed s p i) = view F s := by
  simp only [seqResumed, ↓carNote_view, ↓onSeq_view, implies_true, hfreeIx, hout, hcores, hstores, htags, hparts,
    hwardrobe, hrel, hpart, hregs, hvec, hmem, hhbm]

theorem collectPrefill_view (s : State) (p k : Nat) (e : StepEntry) (hfreeIx : F .freeIx = true) (hout : F .out = true)
    (hcores : F .cores = true) (hstores : F .stores = true) (htags : F .tags = true) (hparts : F .parts = true)
    (hwardrobe : F .wardrobe = true) (hrel : F .rel = true) (hpart : F (.part p) = true) (hregs : F (.regs p) = true)
    (hvec : ∀ q, F (.vec q) = true) (hmem : F (.mem p) = true) (hhbm : F (.hbm p) = true) :
    view F (collectPrefill s p k e) = view F s := by
  simp only [collectPrefill, ↓onSeq_view, ↓enterPages_view, ↓custCharge_view, ↓rmResult_view, ↓firstToken_view,
    ↓seqResumed_view, ↓view_foldl, ↓apply_ite (view F), ite_self, implies_true, hfreeIx, hout, hcores, hstores, htags,
    hparts, hwardrobe, hrel, hpart, hregs, hvec, hmem, hhbm]

theorem rmCollect_view (s : State) (p : Nat) (hfreeIx : F .freeIx = true) (hout : F .out = true)
    (hcores : F .cores = true) (hstores : F .stores = true) (htags : F .tags = true) (hparts : F .parts = true)
    (hwardrobe : F .wardrobe = true) (hrel : F .rel = true) (hpart : F (.part p) = true) (hregs : F (.regs p) = true)
    (hvec : ∀ q, F (.vec q) = true) (hmem : F (.mem p) = true) (hhbm : F (.hbm p) = true) :
    view F (rmCollect s p) = view F s := by
  simp only [rmCollect, ↓collectDecode_view, ↓collectPrefill_view, ↓view_foldl, ↓apply_ite (view F), ite_self,
    implies_true, hfreeIx, hout, hcores, hstores, htags, hparts, hwardrobe, hrel, hpart, hregs, hvec, hmem, hhbm]

theorem carRoom_view (s : State) (p : Nat) (q : QReq) (hfreeIx : F .freeIx = true) (hout : F .out = true)
    (hparts : F .parts = true) (hwardrobe : F .wardrobe = true) (hrel : F .rel = true) (hregs : F (.regs p) = true)
    (hvec : ∀ q, F (.vec q) = true) (hhbm : F (.hbm p) = true) : view F (carRoom s p q).2 = view F s := by
  simp only [carRoom]
  split
  · simp only [↓spend_view, hfreeIx]
  · simp only [↓devReadLE_view, implies_true, hfreeIx, hout, hparts, hwardrobe, hrel, hregs, hvec, hhbm]

theorem seqPause_view (s : State) (p i : Nat) (hfreeIx : F .freeIx = true) (hout : F .out = true)
    (hcores : F .cores = true) (hstores : F .stores = true) (htags : F .tags = true) (hparts : F .parts = true)
    (hwardrobe : F .wardrobe = true) (hrel : F .rel = true) (hpart : F (.part p) = true) (hregs : F (.regs p) = true)
    (hvec : ∀ q, F (.vec q) = true) (hmem : F (.mem p) = true) (hhbm : F (.hbm p) = true) :
    view F (seqPause s p i) = view F s := by
  simp only [seqPause, ↓carRoom_view, ↓carNote_view, ↓errEvent_view, ↓freeSeq_view, ↓onRing_view, ↓custCounts_view,
    ↓putReg_view, ↓apply_ite (view F), ite_self, implies_true, hfreeIx, hout, hcores, hstores, htags, hparts, hwardrobe,
    hrel, hpart, hregs, hvec, hmem, hhbm]

theorem SeamWork_s_view (self : SeamWork) : view F (SeamWork.s self) = view F self.s := by
  simp only []

theorem view_foldl_work {α : Type} {f : SeamWork → α → SeamWork} (l : List α) (w : SeamWork)
    (keep : ∀ v e, view F (f v e).s = view F v.s) : view F (l.foldl f w).s = view F w.s :=
  List.foldlRecOn (motive := fun v : SeamWork => view F v.s = view F w.s) _ _ rfl fun v hv e _ => (keep v e).trans hv

theorem rmDecodeSet_view (s : State) (p : Nat) (hfreeIx : F .freeIx = true) (hout : F .out = true)
    (hparts : F .parts = true) (hwardrobe : F .wardrobe = true) (hrel : F .rel = true) (hpart : F (.part p) = true)
    (hregs : F (.regs p) = true) (hvec : ∀ q, F (.vec q) = true) (hhbm : F (.hbm p) = true) :
    view F (rmDecodeSet s p).s = view F s := by
  unfold rmDecodeSet
  refine (view_foldl_work _ _ fun w id => ?_).trans rfl
  dsimp only
  split
  · rfl
  · refine (view_foldl _ _ fun t e => onSeq_view _ _ _ _ hparts hpart).trans ?_
    exact carRoom_view _ _ _ hfreeIx hout hparts hwardrobe hrel hregs hvec hhbm

theorem custMay_view (s : State) (p c : Nat) (hfreeIx : F .freeIx = true) (hout : F .out = true)
    (hparts : F .parts = true) (hwardrobe : F .wardrobe = true) (hrel : F .rel = true) (hregs : F (.regs p) = true)
    (hvec : ∀ q, F (.vec q) = true) (hhbm : F (.hbm p) = true) : view F (custMay s p c).2 = view F s := by
  simp only [custMay, ↓devRead_view, implies_true, hfreeIx, hout, hparts, hwardrobe, hrel, hregs, hvec, hhbm]

theorem joinNoAdapter_view (s : State) (p : Nat) (q : QReq) (hfreeIx : F .freeIx = true) (hout : F .out = true)
    (hcores : F .cores = true) (hstores : F .stores = true) (htags : F .tags = true) (hparts : F .parts = true)
    (hwardrobe : F .wardrobe = true) (hrel : F .rel = true) (hpart : F (.part p) = true) (hregs : F (.regs p) = true)
    (hvec : ∀ q, F (.vec q) = true) (hmem : F (.mem p) = true) (hhbm : F (.hbm p) = true) :
    view F (joinNoAdapter s p q) = view F s := by
  simp only [joinNoAdapter, ↓carEnd_view, ↓onRing_view, ↓noteFinished_view, ↓custCounts_view, ↓view_foldl, implies_true,
    hfreeIx, hout, hcores, hstores, htags, hparts, hwardrobe, hrel, hpart, hregs, hvec, hmem, hhbm]

theorem sharePage_view {q : Nat} (x : Partition) (g : Nat) (hpart : F (.part q) = true) :
    viewPart F q (sharePage x g) = viewPart F q x :=
  viewPart_of_part hpart _ _

theorem joinSeqs_view (s : State) (p : Nat) (q : QReq) (gen : Epoch) (batch : Nat) (j : List Nat × Nat × Partition)
    (hfreeIx : F .freeIx = true) (hout : F .out = true) (hcores : F .cores = true) (hstores : F .stores = true)
    (htags : F .tags = true) (hparts : F .parts = true) (hwardrobe : F .wardrobe = true) (hrel : F .rel = true)
    (hpart : F (.part p) = true) (hregs : F (.regs p) = true) (hvec : ∀ q, F (.vec q) = true) (hmem : F (.mem p) = true)
    (hhbm : F (.hbm p) = true) : view F (joinSeqs s p q gen batch j) = view F s := by
  simp only [joinSeqs, ↓devReadLE_view, ↓custCounts_view, ↓putPart_view_part, ↓carNote_view, ↓apply_ite (view F),
    ite_self, implies_true, hfreeIx, hout, hcores, hstores, htags, hparts, hwardrobe, hrel, hpart, hregs, hvec, hmem,
    hhbm]

theorem SeamWork_pause_view (w : SeamWork) (p i : Nat) (hfreeIx : F .freeIx = true) (hout : F .out = true)
    (hcores : F .cores = true) (hstores : F .stores = true) (htags : F .tags = true) (hparts : F .parts = true)
    (hwardrobe : F .wardrobe = true) (hrel : F .rel = true) (hpart : F (.part p) = true) (hregs : F (.regs p) = true)
    (hvec : ∀ q, F (.vec q) = true) (hmem : F (.mem p) = true) (hhbm : F (.hbm p) = true) :
    view F (SeamWork.pause w p i).s = view F w.s := by
  simp only [SeamWork.pause, ↓seqPause_view, implies_true, hfreeIx, hout, hcores, hstores, htags, hparts, hwardrobe,
    hrel, hpart, hregs, hvec, hmem, hhbm]

theorem pauseUntil_view (p : Nat) (q : QReq) (gen : Epoch) (ts : List (BitVec 32)) (n : Nat) (w : SeamWork)
    (hfreeIx : F .freeIx = true) (hout : F .out = true) (hcores : F .cores = true) (hstores : F .stores = true)
    (htags : F .tags = true) (hparts : F .parts = true) (hwardrobe : F .wardrobe = true) (hrel : F .rel = true)
    (hpart : F (.part p) = true) (hregs : F (.regs p) = true) (hvec : ∀ q, F (.vec q) = true)
    (hmem : F (.mem p) = true) (hhbm : F (.hbm p) = true) : view F (pauseUntil p q gen ts n w).s = view F w.s := by
  induction n generalizing w with
  | zero => rfl
  | succ n ih =>
    rw [pauseUntil]
    split
    · rfl
    · split
      · rw [ih, SeamWork_pause_view _ _ _ hfreeIx hout hcores hstores htags hparts hwardrobe hrel hpart hregs hvec hmem hhbm]
      · rfl

theorem rmCandidate_view (p slot batch : Nat) (w : SeamWork) (q : QReq) (hfreeIx : F .freeIx = true)
    (hout : F .out = true) (hcores : F .cores = true) (hstores : F .stores = true) (htags : F .tags = true)
    (hparts : F .parts = true) (hwardrobe : F .wardrobe = true) (hrel : F .rel = true) (hpart : F (.part p) = true)
    (hregs : F (.regs p) = true) (hvec : ∀ q, F (.vec q) = true) (hmem : F (.mem p) = true) (hhbm : F (.hbm p) = true) :
    view F (rmCandidate p slot batch w q).s = view F w.s := by
  simp only [rmCandidate]
  split
  · rfl
  · split
    · rfl
    · split
      · simp only [↓custMay_view, implies_true, hfreeIx, hout, hparts, hwardrobe, hrel, hregs, hvec, hhbm]
      · split
        · simp only [↓joinNoAdapter_view, implies_true, hfreeIx, hout, hcores, hstores, htags, hparts, hwardrobe, hrel,
          hpart, hregs, hvec, hmem, hhbm]
        · split
          · simp only [↓custMay_view, ↓promptTokens_view, ↓joinSeqs_view, implies_true, hfreeIx, hout, hcores, hstores,
            htags, hparts, hwardrobe, hrel, hpart, hregs, hvec, hmem, hhbm]
          · split
            · split
              · split
                · simp only [↓custMay_view, ↓promptTokens_view, ↓joinSeqs_view, ↓pauseUntil_view, implies_true, hfreeIx,
                  hout, hcores, hstores, htags, hparts, hwardrobe, hrel, hpart, hregs, hvec, hmem, hhbm]
                · simp only [↓custMay_view, ↓promptTokens_view, ↓pauseUntil_view, implies_true, hfreeIx, hout, hcores,
                  hstores, htags, hparts, hwardrobe, hrel, hpart, hregs, hvec, hmem, hhbm]
              · simp only [↓custMay_view, ↓promptTokens_view, ↓putReg_view, implies_true, hfreeIx, hout, hparts,
                hwardrobe, hrel, hregs, hvec, hhbm]
            · split
              · split
                · simp only [↓custMay_view, ↓promptTokens_view, ↓joinSeqs_view, ↓pauseUntil_view, implies_true, hfreeIx,
                  hout, hcores, hstores, htags, hparts, hwardrobe, hrel, hpart, hregs, hvec, hmem, hhbm]
                · simp only [↓custMay_view, ↓promptTokens_view, ↓pauseUntil_view, implies_true, hfreeIx, hout, hcores,
                  hstores, htags, hparts, hwardrobe, hrel, hpart, hregs, hvec, hmem, hhbm]
              · simp only [↓custMay_view, ↓promptTokens_view, ↓putReg_view, implies_true, hfreeIx, hout, hparts,
                hwardrobe, hrel, hregs, hvec, hhbm]

theorem rmJoin_view (w : SeamWork) (p batch before : Nat) (x1 : Option Nat) (hfreeIx : F .freeIx = true)
    (hout : F .out = true) (hcores : F .cores = true) (hstores : F .stores = true) (htags : F .tags = true)
    (hparts : F .parts = true) (hwardrobe : F .wardrobe = true) (hrel : F .rel = true) (hpart : F (.part p) = true)
    (hregs : F (.regs p) = true) (hvec : ∀ q, F (.vec q) = true) (hmem : F (.mem p) = true)
    (hhbm : F (.hbm p) = true) : view F (rmJoin w p batch before x1).s = view F w.s := by
  cases x1 with
  | none => rfl
  | some slot =>
    exact view_foldl_work _ _ fun v q =>
      rmCandidate_view _ _ _ _ _ hfreeIx hout hcores hstores htags hparts hwardrobe hrel hpart hregs hvec hmem hhbm

theorem SeamWork_ease_view (w : SeamWork) (p : Nat) (hfreeIx : F .freeIx = true) (hout : F .out = true)
    (hcores : F .cores = true) (hstores : F .stores = true) (htags : F .tags = true) (hparts : F .parts = true)
    (hwardrobe : F .wardrobe = true) (hrel : F .rel = true) (hpart : F (.part p) = true) (hregs : F (.regs p) = true)
    (hvec : ∀ q, F (.vec q) = true) (hmem : F (.mem p) = true) (hhbm : F (.hbm p) = true) :
    view F (SeamWork.ease w p).s = view F w.s := by
  simp only [SeamWork.ease]
  split
  · rfl
  · split
    · simp only [↓SeamWork_pause_view, implies_true, hfreeIx, hout, hcores, hstores, htags, hparts, hwardrobe, hrel,
      hpart, hregs, hvec, hmem, hhbm]
    · split
      · simp only [↓SeamWork_pause_view, implies_true, hfreeIx, hout, hcores, hstores, htags, hparts, hwardrobe, hrel,
        hpart, hregs, hvec, hmem, hhbm]
      · rfl

theorem easeUntil_view (p : Nat) (ok : SeamWork → Bool) (n : Nat) (w : SeamWork) (hfreeIx : F .freeIx = true)
    (hout : F .out = true) (hcores : F .cores = true) (hstores : F .stores = true) (htags : F .tags = true)
    (hparts : F .parts = true) (hwardrobe : F .wardrobe = true) (hrel : F .rel = true) (hpart : F (.part p) = true)
    (hregs : F (.regs p) = true) (hvec : ∀ q, F (.vec q) = true) (hmem : F (.mem p) = true)
    (hhbm : F (.hbm p) = true) : view F (easeUntil p ok n w).s = view F w.s := by
  induction n generalizing w with
  | zero => rfl
  | succ n ih =>
    rw [easeUntil]
    split
    · rfl
    · rw [ih, SeamWork_ease_view _ _ hfreeIx hout hcores hstores htags hparts hwardrobe hrel hpart hregs hvec hmem hhbm]

theorem rmDecode_view (w : SeamWork) (p : Nat) (hfreeIx : F .freeIx = true) (hout : F .out = true)
    (hcores : F .cores = true) (hstores : F .stores = true) (htags : F .tags = true) (hparts : F .parts = true)
    (hwardrobe : F .wardrobe = true) (hrel : F .rel = true) (hpart : F (.part p) = true) (hregs : F (.regs p) = true)
    (hvec : ∀ q, F (.vec q) = true) (hmem : F (.mem p) = true) (hhbm : F (.hbm p) = true) :
    view F (rmDecode w p).s = view F w.s := by
  simp only [rmDecode]
  split
  · simp only [↓easeUntil_view, ↓putPart_view_part, implies_true, hfreeIx, hout, hcores, hstores, htags, hparts,
    hwardrobe, hrel, hpart, hregs, hvec, hmem, hhbm]
  · simp only [↓easeUntil_view, implies_true, hfreeIx, hout, hcores, hstores, htags, hparts, hwardrobe, hrel, hpart,
    hregs, hvec, hmem, hhbm]

theorem rmProtect_view (w : SeamWork) (p : Nat) (cs : Option Nat) (hfreeIx : F .freeIx = true) (hout : F .out = true)
    (hcores : F .cores = true) (hstores : F .stores = true) (htags : F .tags = true) (hparts : F .parts = true)
    (hwardrobe : F .wardrobe = true) (hrel : F .rel = true) (hpart : F (.part p) = true) (hregs : F (.regs p) = true)
    (hvec : ∀ q, F (.vec q) = true) (hmem : F (.mem p) = true) (hhbm : F (.hbm p) = true) :
    view F (rmProtect w p cs).s = view F w.s := by
  simp only [rmProtect]
  split
  · rfl
  · split
    · simp only [↓SeamWork_pause_view, implies_true, hfreeIx, hout, hcores, hstores, htags, hparts, hwardrobe, hrel,
      hpart, hregs, hvec, hmem, hhbm]
    · rfl

theorem rmDecide_view (s : State) (p : Nat) (step : BitVec 32) (slot : Option Nat) (pauseAll : Bool)
    (hfreeIx : F .freeIx = true) (hout : F .out = true) (hcores : F .cores = true) (hstores : F .stores = true)
    (htags : F .tags = true) (hparts : F .parts = true) (hwardrobe : F .wardrobe = true) (hrel : F .rel = true)
    (hpart : F (.part p) = true) (hregs : F (.regs p) = true) (hvec : ∀ q, F (.vec q) = true) (hmem : F (.mem p) = true)
    (hhbm : F (.hbm p) = true) : view F (rmDecide s p step slot pauseAll) = view F s := by
  simp only [rmDecide, ↓rmRefill_view, ↓rmLeave_view, ↓rmCollect_view, ↓seqPause_view, ↓rmDecodeSet_view, ↓rmJoin_view,
    ↓rmDecode_view, ↓rmProtect_view, ↓onPart_view_part, ↓view_foldl, ↓apply_ite (view F), ite_self, implies_true,
    hfreeIx, hout, hcores, hstores, htags, hparts, hwardrobe, hrel, hpart, hregs, hvec, hmem, hhbm]

theorem writeSeqs_view (s : State) (p : Nat) (hfreeIx : F .freeIx = true) (hout : F .out = true)
    (hcores : F .cores = true) (hstores : F .stores = true) (htags : F .tags = true) (hparts : F .parts = true)
    (hwardrobe : F .wardrobe = true) (hrel : F .rel = true) (hregs : F (.regs p) = true) (hvec : ∀ q, F (.vec q) = true)
    (hmem : F (.mem p) = true) (hhbm : F (.hbm p) = true) : view F (writeSeqs s p) = view F s := by
  simp only [writeSeqs, ↓devWrite_view, ↓view_foldl, implies_true, hfreeIx, hout, hcores, hstores, htags, hparts,
    hwardrobe, hrel, hregs, hvec, hmem, hhbm]

theorem rmRecordDue_view (s : State) (p : Nat) (hfreeIx : F .freeIx = true) (hout : F .out = true)
    (hcores : F .cores = true) (hstores : F .stores = true) (htags : F .tags = true) (hparts : F .parts = true)
    (hwardrobe : F .wardrobe = true) (hrel : F .rel = true) (hpart : F (.part p) = true) (hregs : F (.regs p) = true)
    (hvec : ∀ q, F (.vec q) = true) (hmem : F (.mem p) = true) (hhbm : F (.hbm p) = true) :
    view F (rmRecordDue s p) = view F s := by
  simp only [rmRecordDue, ↓onPart_view_part, ↓carFlush_view, ↓writeSeqs_view, implies_true, hfreeIx, hout, hcores,
    hstores, htags, hparts, hwardrobe, hrel, hpart, hregs, hvec, hmem, hhbm]

theorem seamBatches_view (s : State) (p : Nat) (step : BitVec 32) (hfreeIx : F .freeIx = true) (hout : F .out = true)
    (hcores : F .cores = true) (hstores : F .stores = true) (htags : F .tags = true) (hparts : F .parts = true)
    (hfabric : F .fabric = true) (hwardrobe : F .wardrobe = true) (hrel : F .rel = true) (hmregs : F .mregs = true)
    (hpart : F (.part p) = true) (hregs : ∀ q, F (.regs q) = true) (hvec : ∀ q, F (.vec q) = true)
    (hmem : ∀ q, F (.mem q) = true) (hhbm : ∀ q, F (.hbm q) = true) : view F (seamBatches s p step) = view F s := by
  simp only [seamBatches, ↓seamSlots_view, ↓rmOverrun_view, ↓rmDecide_view, ↓rmRecordDue_view, ↓apply_ite (view F),
    ite_self, implies_true, hfreeIx, hout, hcores, hstores, htags, hparts, hfabric, hwardrobe, hrel, hmregs, hpart,
    hregs, hvec, hmem, hhbm]

theorem takeSeam_view (s : State) (p : Nat) (hfreeIx : F .freeIx = true) (hout : F .out = true)
    (hcores : F .cores = true) (hstores : F .stores = true) (htags : F .tags = true) (hparts : F .parts = true)
    (hfabric : F .fabric = true) (hwardrobe : F .wardrobe = true) (hrel : F .rel = true) (hmregs : F .mregs = true)
    (hpart : F (.part p) = true) (hregs : ∀ q, F (.regs q) = true) (hvec : ∀ q, F (.vec q) = true)
    (hmem : ∀ q, F (.mem q) = true) (hhbm : ∀ q, F (.hbm q) = true) : view F (takeSeam s p) = view F s := by
  simp only [takeSeam, ↓putPart_view_part, ↓onSeam_view, ↓markSeamDmas_view, ↓seamBatches_view, ↓emit_view, ↓apply_ite
    (view F), ite_self, implies_true, hfreeIx, hout, hcores, hstores, htags, hparts, hfabric, hwardrobe, hrel, hmregs,
    hpart, hregs, hvec, hmem, hhbm]

theorem seamInPulse_view (s : State) (now : Nat) (hparts : F .parts = true) (hmregs : F .mregs = true)
    (hpart : ∀ q, F (.part q) = true) : view F (seamInPulse s now) = view F s := by
  simp only [seamInPulse, ↓putMreg_view, ↓onSeam_view, ↓view_foldl, ↓apply_ite (view F), ite_self, implies_true, hparts,
    hmregs, hpart]

theorem seamRequest_view (s : State) (p : Nat) (hparts : F .parts = true) (hpart : F (.part p) = true) :
    view F (seamRequest s p) = view F s := by
  simp only [seamRequest, ↓onSeam_view, ↓apply_ite (view F), ite_self, hparts, hpart]

theorem closeEntry_view (s : State) (p : Nat) (list : Word) (i : Nat) (hfreeIx : F .freeIx = true)
    (hout : F .out = true) (hcores : F .cores = true) (hstores : F .stores = true) (htags : F .tags = true)
    (hparts : F .parts = true) (hwardrobe : F .wardrobe = true) (hrel : F .rel = true) (hregs : F (.regs p) = true)
    (hvec : ∀ q, F (.vec q) = true) (hmem : F (.mem p) = true) (hhbm : F (.hbm p) = true) :
    view F (closeEntry s p list i) = view F s := by
  simp only [closeEntry, ↓devReadLE_view, ↓errEvent_view, ↓devRead_view, ↓devWrite_view, ↓apply_ite (view F), ite_self,
    implies_true, hfreeIx, hout, hcores, hstores, htags, hparts, hwardrobe, hrel, hregs, hvec, hmem, hhbm]

theorem scaleRecordClose_view (s : State) (p : Nat) (hfreeIx : F .freeIx = true) (hout : F .out = true)
    (hcores : F .cores = true) (hstores : F .stores = true) (htags : F .tags = true) (hparts : F .parts = true)
    (hwardrobe : F .wardrobe = true) (hrel : F .rel = true) (hpart : F (.part p) = true) (hregs : F (.regs p) = true)
    (hvec : ∀ q, F (.vec q) = true) (hmem : F (.mem p) = true) (hhbm : F (.hbm p) = true) :
    view F (scaleRecordClose s p) = view F s := by
  simp only [scaleRecordClose]
  split
  · rfl
  · simp only [↓closeEntry_view, ↓onSeam_view, ↓view_foldl, ↓apply_ite (view F), ite_self, implies_true, hfreeIx, hout,
    hcores, hstores, htags, hparts, hwardrobe, hrel, hpart, hregs, hvec, hmem, hhbm]

theorem pkPoll_view (s : State) (p : Nat) (hfreeIx : F .freeIx = true) (hout : F .out = true) (hparts : F .parts = true)
    (hwardrobe : F .wardrobe = true) (hrel : F .rel = true) (hregs : F (.regs p) = true) (hvec : ∀ q, F (.vec q) = true)
    (hhbm : F (.hbm p) = true) : view F (pkPoll s p) = view F s := by
  simp only [pkPoll, ↓apply_ite (view F)]
  split
  · rfl
  · split <;> simp only [↓devRead_view, implies_true, hfreeIx, hout, hparts, hwardrobe, hrel, hregs, hvec, hhbm]

theorem ringAdvance_view (s : State) (p hdr head : Nat) (hfreeIx : F .freeIx = true) (hout : F .out = true)
    (hcores : F .cores = true) (hstores : F .stores = true) (htags : F .tags = true) (hparts : F .parts = true)
    (hwardrobe : F .wardrobe = true) (hrel : F .rel = true) (hregs : F (.regs p) = true) (hvec : ∀ q, F (.vec q) = true)
    (hmem : F (.mem p) = true) (hhbm : F (.hbm p) = true) : view F (ringAdvance s p hdr head).1 = view F s := by
  simp only [ringAdvance, ↓devWrite_view, implies_true, hfreeIx, hout, hcores, hstores, htags, hparts, hwardrobe, hrel,
    hregs, hvec, hmem, hhbm]

theorem pkRecordEnd_view (s : State) (p a status : Nat) (hfreeIx : F .freeIx = true) (hout : F .out = true)
    (hcores : F .cores = true) (hstores : F .stores = true) (htags : F .tags = true) (hparts : F .parts = true)
    (hwardrobe : F .wardrobe = true) (hrel : F .rel = true) (hpart : F (.part p) = true) (hregs : F (.regs p) = true)
    (hvec : ∀ q, F (.vec q) = true) (hmem : F (.mem p) = true) (hhbm : F (.hbm p) = true) :
    view F (pkRecordEnd s p a status) = view F s := by
  simp only [pkRecordEnd, ↓devWrite_view, ↓ringAdvance_view, ↓onPart_view_part, ↓msix_view, ↓apply_ite (view F),
    ite_self, implies_true, hfreeIx, hout, hcores, hstores, htags, hparts, hwardrobe, hrel, hpart, hregs, hvec, hmem,
    hhbm]

theorem pkTake_view {s : State} {p cmd : Nat} {act : State → Nat → State × Nat}
    (keep : ∀ t i, view F (act t i).1 = view F t) (hfreeIx : F .freeIx = true) (hout : F .out = true)
    (hcores : F .cores = true) (hstores : F .stores = true) (htags : F .tags = true) (hparts : F .parts = true)
    (hwardrobe : F .wardrobe = true) (hrel : F .rel = true) (hpart : F (.part p) = true) (hregs : F (.regs p) = true)
    (hvec : ∀ q, F (.vec q) = true) (hmem : F (.mem p) = true) (hhbm : F (.hbm p) = true) :
    view F (pkTake s p cmd act) = view F s := by
  have polled := pkPoll_view s p hfreeIx hout hparts hwardrobe hrel hregs hvec hhbm
  have ended (t : State) (a st : Nat) : view F (pkRecordEnd t p a st) = view F t :=
    pkRecordEnd_view t p a st hfreeIx hout hcores hstores htags hparts hwardrobe hrel hpart hregs hvec hmem hhbm
  unfold pkTake
  dsimp only
  split
  · exact polled
  · split
    · rw [ended, keep, polled]
    · split
      · rw [ended, polled]
      · rfl

theorem pkLook_view (s : State) (p i : Nat) (hfreeIx : F .freeIx = true) (hout : F .out = true)
    (hparts : F .parts = true) (hwardrobe : F .wardrobe = true) (hrel : F .rel = true) (hregs : F (.regs p) = true)
    (hvec : ∀ q, F (.vec q) = true) (hhbm : F (.hbm p) = true) : view F (pkLook s p i) = view F s := by
  simp only [pkLook, ↓devRead_view, implies_true, hfreeIx, hout, hparts, hwardrobe, hrel, hregs, hvec, hhbm]

theorem pkOn_view {s : State} {p i kind : Nat} {f : State → PkEntry → State × Nat}
    (keep : ∀ t e, view F (f t e).1 = view F t) (hfreeIx : F .freeIx = true) (hout : F .out = true)
    (hparts : F .parts = true) (hwardrobe : F .wardrobe = true) (hrel : F .rel = true) (hregs : F (.regs p) = true)
    (hvec : ∀ q, F (.vec q) = true) (hhbm : F (.hbm p) = true) : view F (pkOn s p i kind f).1 = view F s := by
  have looked := pkLook_view s p i hfreeIx hout hparts hwardrobe hrel hregs hvec hhbm
  unfold pkOn
  dsimp only
  split
  · rfl
  · split
    · exact (keep ..).trans looked
    · exact looked

theorem pkState_view (s : State) (p : Nat) (e : PkEntry) (v : Nat) (hfreeIx : F .freeIx = true) (hout : F .out = true)
    (hcores : F .cores = true) (hstores : F .stores = true) (htags : F .tags = true) (hparts : F .parts = true)
    (hwardrobe : F .wardrobe = true) (hrel : F .rel = true) (hregs : F (.regs p) = true) (hvec : ∀ q, F (.vec q) = true)
    (hmem : F (.mem p) = true) (hhbm : F (.hbm p) = true) : view F (pkState s p e v) = view F s := by
  simp only [pkState, ↓devWrite_view, implies_true, hfreeIx, hout, hcores, hstores, htags, hparts, hwardrobe, hrel,
    hregs, hvec, hmem, hhbm]

theorem pkNext_view (n : Nat) (s : State) (p : Nat) (hfreeIx : F .freeIx = true) (hout : F .out = true)
    (hparts : F .parts = true) (hfabric : F .fabric = true) (hwardrobe : F .wardrobe = true) (hrel : F .rel = true)
    (hmregs : F .mregs = true) (hpart : F (.part p) = true) (hregs : ∀ q, F (.regs q) = true)
    (hvec : ∀ q, F (.vec q) = true) (hmem : ∀ q, F (.mem q) = true) (hhbm : ∀ q, F (.hbm q) = true) :
    view F (pkNext n s p) = view F s := by
  induction n generalizing s with
  | zero => rfl
  | succ n ih =>
    rw [pkNext]
    dsimp only
    split
    · rfl
    · split
      · rfl
      · rw [ih, pkPump_view _ _ _ _ hfreeIx hout hparts hfabric hwardrobe hrel hmregs hpart hregs hvec hmem hhbm,
          onPart_view_part _ _ _ hparts hpart]

theorem pkQueue_view (s : State) (p : Nat) (o : PocketOp) (hfreeIx : F .freeIx = true) (hout : F .out = true)
    (hparts : F .parts = true) (hfabric : F .fabric = true) (hwardrobe : F .wardrobe = true) (hrel : F .rel = true)
    (hmregs : F .mregs = true) (hpart : F (.part p) = true) (hregs : ∀ q, F (.regs q) = true)
    (hvec : ∀ q, F (.vec q) = true) (hmem : ∀ q, F (.mem q) = true) (hhbm : ∀ q, F (.hbm q) = true) :
    view F (pkQueue s p o) = view F s := by
  simp only [pkQueue, ↓pkNext_view, ↓onPart_view_part, implies_true, hfreeIx, hout, hparts, hfabric, hwardrobe, hrel,
    hmregs, hpart, hregs, hvec, hmem, hhbm]

theorem pkStash_view (p : Nat) (s : State) (i : Nat) (hfreeIx : F .freeIx = true) (hout : F .out = true)
    (hcores : F .cores = true) (hstores : F .stores = true) (htags : F .tags = true) (hparts : F .parts = true)
    (hfabric : F .fabric = true) (hwardrobe : F .wardrobe = true) (hrel : F .rel = true) (hmregs : F .mregs = true)
    (hpart : F (.part p) = true) (hregs : ∀ q, F (.regs q) = true) (hvec : ∀ q, F (.vec q) = true)
    (hmem : ∀ q, F (.mem q) = true) (hhbm : ∀ q, F (.hbm q) = true) :
    view F (pkStash p s i).1 = view F s := by
  refine pkOn_view (fun t e => ?_) hfreeIx hout hparts hwardrobe hrel (hregs p) hvec (hhbm p)
  dsimp only
  split
  · rfl
  · split
    · rfl
    · simp only [↓pkQueue_view, ↓devWrite_view, ↓pkState_view, ↓onPart_view_part, implies_true, hfreeIx, hout, hcores,
        hstores, htags, hparts, hfabric, hwardrobe, hrel, hmregs, hpart, hregs, hvec, hmem, hhbm]

theorem pkOutcome_view (s : State) (p : Nat) (e : PkEntry) (v status : Nat) (hfreeIx : F .freeIx = true)
    (hout : F .out = true) (hcores : F .cores = true) (hclusters : F .clusters = true) (hstores : F .stores = true)
    (htags : F .tags = true) (hparts : F .parts = true) (hwardrobe : F .wardrobe = true) (hrel : F .rel = true)
    (hpart : F (.part p) = true) (hregs : F (.regs p) = true) (hvec : ∀ q, F (.vec q) = true) (hmem : F (.mem p) = true)
    (hhbm : F (.hbm p) = true) : view F (pkOutcome s p e v status) = view F s := by
  simp only [pkOutcome, ↓devWrite_view, ↓postSem_view, ↓msix_view, ↓apply_ite (view F), ite_self, implies_true, hfreeIx,
    hout, hcores, hclusters, hstores, htags, hparts, hwardrobe, hrel, hpart, hregs, hvec, hmem, hhbm]

theorem pocketDropBolt_view (s : State) (p b : Nat) (hfreeIx : F .freeIx = true) (hout : F .out = true)
    (hparts : F .parts = true) (hwardrobe : F .wardrobe = true) (hrel : F .rel = true) (hmregs : F .mregs = true)
    (hregs : ∀ q, F (.regs q) = true) (hvec : ∀ q, F (.vec q) = true) (hmem : ∀ q, F (.mem q) = true)
    (hhbm : ∀ q, F (.hbm q) = true) : view F (pocketDropBolt s p b) = view F s := by
  simp only [pocketDropBolt, ↓onPart_view, ↓Partition_setBolt_view, ↓dropBolt_view, ↓apply_ite (view F), ite_self,
    implies_true, hfreeIx, hout, hparts, hwardrobe, hrel, hmregs, hregs, hvec, hmem, hhbm]

theorem pocketDrop_view (s : State) (p : Nat) (e : PkEntry) (hfreeIx : F .freeIx = true) (hout : F .out = true)
    (hparts : F .parts = true) (hwardrobe : F .wardrobe = true) (hrel : F .rel = true) (hmregs : F .mregs = true)
    (hregs : ∀ q, F (.regs q) = true) (hvec : ∀ q, F (.vec q) = true) (hmem : ∀ q, F (.mem q) = true)
    (hhbm : ∀ q, F (.hbm q) = true) : view F (pocketDrop s p e) = view F s := by
  simp only [pocketDrop, ↓pocketDropBolt_view, ↓view_foldl, implies_true, hfreeIx, hout, hparts, hwardrobe, hrel,
    hmregs, hregs, hvec, hmem, hhbm]

theorem pkRetire_view (s : State) (p idx : Nat) (hfreeIx : F .freeIx = true) (hout : F .out = true)
    (hparts : F .parts = true) (hfabric : F .fabric = true) (hwardrobe : F .wardrobe = true) (hrel : F .rel = true)
    (hmregs : F .mregs = true) (hpart : F (.part p) = true) (hregs : ∀ q, F (.regs q) = true)
    (hvec : ∀ q, F (.vec q) = true) (hmem : ∀ q, F (.mem q) = true) (hhbm : ∀ q, F (.hbm q) = true) :
    view F (pkRetire s p idx) = view F s := by
  simp only [pkRetire, ↓pkNext_view, ↓onPart_view_part, implies_true, hfreeIx, hout, hparts, hfabric, hwardrobe, hrel,
    hmregs, hpart, hregs, hvec, hmem, hhbm]

theorem stashComplete_view (s : State) (p idx : Nat) (hfreeIx : F .freeIx = true) (hout : F .out = true)
    (hcores : F .cores = true) (hclusters : F .clusters = true) (hstores : F .stores = true) (htags : F .tags = true)
    (hparts : F .parts = true) (hfabric : F .fabric = true) (hwardrobe : F .wardrobe = true) (hrel : F .rel = true)
    (hmregs : F .mregs = true) (hpart : F (.part p) = true) (hregs : ∀ q, F (.regs q) = true)
    (hvec : ∀ q, F (.vec q) = true) (hmem : ∀ q, F (.mem q) = true) (hhbm : ∀ q, F (.hbm q) = true) :
    view F (stashComplete s p idx) = view F s := by
  simp only [stashComplete]
  split
  · rfl
  · simp only [↓pkPump_view, ↓pkOutcome_view, ↓pocketDrop_view, ↓pkRetire_view, ↓apply_ite (view F), ite_self,
    implies_true, hfreeIx, hout, hcores, hclusters, hstores, htags, hparts, hfabric, hwardrobe, hrel, hmregs, hpart,
    hregs, hvec, hmem, hhbm]

theorem startFetch_view (s : State) (p i : Nat) (hfreeIx : F .freeIx = true) (hout : F .out = true)
    (hcores : F .cores = true) (hstores : F .stores = true) (htags : F .tags = true) (hparts : F .parts = true)
    (hfabric : F .fabric = true) (hwardrobe : F .wardrobe = true) (hrel : F .rel = true) (hmregs : F .mregs = true)
    (hpart : F (.part p) = true) (hregs : ∀ q, F (.regs q) = true) (hvec : ∀ q, F (.vec q) = true)
    (hmem : ∀ q, F (.mem q) = true) (hhbm : ∀ q, F (.hbm q) = true) : view F (startFetch s p i) = view F s := by
  simp only [startFetch, ↓pkQueue_view, ↓pkState_view, implies_true, hfreeIx, hout, hcores, hstores, htags, hparts,
    hfabric, hwardrobe, hrel, hmregs, hpart, hregs, hvec, hmem, hhbm]

theorem pkFetch_view (p : Nat) (s : State) (i : Nat) (hfreeIx : F .freeIx = true) (hout : F .out = true)
    (hcores : F .cores = true) (hclusters : F .clusters = true) (hstores : F .stores = true) (htags : F .tags = true)
    (hparts : F .parts = true) (hfabric : F .fabric = true) (hwardrobe : F .wardrobe = true) (hrel : F .rel = true)
    (hmregs : F .mregs = true) (hpart : F (.part p) = true) (hregs : ∀ q, F (.regs q) = true)
    (hvec : ∀ q, F (.vec q) = true) (hmem : ∀ q, F (.mem q) = true) (hhbm : ∀ q, F (.hbm q) = true) :
    view F (pkFetch p s i).1 = view F s := by
  refine pkOn_view (fun t e => ?_) hfreeIx hout hparts hwardrobe hrel (hregs p) hvec (hhbm p)
  split
  · refine (view_pair_fst _ _).trans ?_
    exact pkOutcome_view _ _ _ _ _ hfreeIx hout hcores hclusters hstores htags hparts hwardrobe hrel hpart (hregs p)
      hvec (hmem p) (hhbm p)
  · split
    · refine (view_pair_fst _ _).trans ?_
      exact startFetch_view _ _ _ hfreeIx hout hcores hstores htags hparts hfabric hwardrobe hrel hmregs hpart hregs hvec
        hmem hhbm
    · rfl

theorem fetchComplete_view (s : State) (p idx : Nat) (hfreeIx : F .freeIx = true) (hout : F .out = true)
    (hcores : F .cores = true) (hclusters : F .clusters = true) (hstores : F .stores = true) (htags : F .tags = true)
    (hparts : F .parts = true) (hfabric : F .fabric = true) (hwardrobe : F .wardrobe = true) (hrel : F .rel = true)
    (hmregs : F .mregs = true) (hpart : F (.part p) = true) (hregs : ∀ q, F (.regs q) = true)
    (hvec : ∀ q, F (.vec q) = true) (hmem : ∀ q, F (.mem q) = true) (hhbm : ∀ q, F (.hbm q) = true) :
    view F (fetchComplete s p idx) = view F s := by
  simp only [fetchComplete]
  split
  · rfl
  · simp only [↓pkPump_view, ↓pkOutcome_view, ↓pkRetire_view, ↓apply_ite (view F), ite_self, implies_true, hfreeIx,
    hout, hcores, hclusters, hstores, htags, hparts, hfabric, hwardrobe, hrel, hmregs, hpart, hregs, hvec, hmem, hhbm]

theorem pkBack_view (p : Nat) (s : State) (k : Nat) (hfreeIx : F .freeIx = true) (hout : F .out = true)
    (hcores : F .cores = true) (hstores : F .stores = true) (htags : F .tags = true) (hparts : F .parts = true)
    (hfabric : F .fabric = true) (hwardrobe : F .wardrobe = true) (hrel : F .rel = true) (hmregs : F .mregs = true)
    (hpart : F (.part p) = true) (hregs : ∀ q, F (.regs q) = true) (hvec : ∀ q, F (.vec q) = true)
    (hmem : ∀ q, F (.mem q) = true) (hhbm : ∀ q, F (.hbm q) = true) : view F (pkBack p s k).1 = view F s := by
  simp only [pkBack, ↓pkLook_view, ↓startFetch_view, ↓view_foldl, implies_true, hfreeIx, hout, hcores, hstores, htags,
    hparts, hfabric, hwardrobe, hrel, hmregs, hpart, hregs, hvec, hmem, hhbm]

theorem gatherMark_view (s : State) (p : Nat) (e : PkEntry) (v : Bool) (hparts : F .parts = true)
    (hhbm : F (.hbm p) = true) : view F (gatherMark s p e v) = view F s := by
  simp only [gatherMark]
  refine (onPart_view _ _ _ hparts ?_).trans ?_
  · simp only [↓Partition_setBolt_view, implies_true, ↓viewPart_foldl, hhbm]
  · rfl

theorem keptMark_view (s : State) (p i : Nat) (v : Bool) (hparts : F .parts = true) (hpart : F (.part p) = true) :
    view F (keptMark s p i v) = view F s := by
  simp only [keptMark, ↓onPart_view_part, hparts, hpart]

theorem pkClaim_view (p : Nat) (s : State) (i : Nat) (hfreeIx : F .freeIx = true) (hout : F .out = true)
    (hcores : F .cores = true) (hstores : F .stores = true) (htags : F .tags = true) (hparts : F .parts = true)
    (hwardrobe : F .wardrobe = true) (hrel : F .rel = true) (hpart : F (.part p) = true) (hregs : F (.regs p) = true)
    (hvec : ∀ q, F (.vec q) = true) (hmem : F (.mem p) = true) (hhbm : F (.hbm p) = true) :
    view F (pkClaim p s i).1 = view F s := by
  have claimed (t : State) (e : PkEntry) :
      view F (gatherMark (keptMark (pkState t p e Pk.claimed) p i false) p e true) = view F t := by
    rw [gatherMark_view _ _ _ _ hparts hhbm, keptMark_view _ _ _ _ hparts hpart,
      pkState_view _ _ _ _ hfreeIx hout hcores hstores htags hparts hwardrobe hrel hregs hvec hmem hhbm]
  refine pkOn_view (fun t e => ?_) hfreeIx hout hparts hwardrobe hrel hregs hvec hhbm
  dsimp only
  split
  · exact claimed t e
  · split
    · exact claimed t e
    · rfl

theorem pkKeep_view (p : Nat) (s : State) (i : Nat) (hfreeIx : F .freeIx = true) (hout : F .out = true)
    (hcores : F .cores = true) (hstores : F .stores = true) (htags : F .tags = true) (hparts : F .parts = true)
    (hwardrobe : F .wardrobe = true) (hrel : F .rel = true) (hpart : F (.part p) = true) (hregs : F (.regs p) = true)
    (hvec : ∀ q, F (.vec q) = true) (hmem : F (.mem p) = true) (hhbm : F (.hbm p) = true) :
    view F (pkKeep p s i).1 = view F s := by
  refine pkOn_view (fun t e => ?_) hfreeIx hout hparts hwardrobe hrel hregs hvec hhbm
  split
  · refine (keptMark_view _ _ _ _ hparts hpart).trans ?_
    exact pkState_view _ _ _ _ hfreeIx hout hcores hstores htags hparts hwardrobe hrel hregs hvec hmem hhbm
  · rfl

theorem gatherDrop_view (s : State) (p i : Nat) (e : PkEntry) (hfreeIx : F .freeIx = true) (hout : F .out = true)
    (hcores : F .cores = true) (hstores : F .stores = true) (htags : F .tags = true) (hparts : F .parts = true)
    (hwardrobe : F .wardrobe = true) (hrel : F .rel = true) (hmregs : F .mregs = true) (hpart : F (.part p) = true)
    (hregs : ∀ q, F (.regs q) = true) (hvec : ∀ q, F (.vec q) = true) (hmem : ∀ q, F (.mem q) = true)
    (hhbm : ∀ q, F (.hbm q) = true) : view F (gatherDrop s p i e) = view F s := by
  simp only [gatherDrop, ↓pkState_view, ↓pocketDrop_view, ↓gatherMark_view, ↓keptMark_view, implies_true, hfreeIx, hout,
    hcores, hstores, htags, hparts, hwardrobe, hrel, hmregs, hpart, hregs, hvec, hmem, hhbm]

theorem pkDrop_view (p : Nat) (s : State) (i : Nat) (hfreeIx : F .freeIx = true) (hout : F .out = true)
    (hcores : F .cores = true) (hstores : F .stores = true) (htags : F .tags = true) (hparts : F .parts = true)
    (hwardrobe : F .wardrobe = true) (hrel : F .rel = true) (hmregs : F .mregs = true) (hpart : F (.part p) = true)
    (hregs : ∀ q, F (.regs q) = true) (hvec : ∀ q, F (.vec q) = true) (hmem : ∀ q, F (.mem q) = true)
    (hhbm : ∀ q, F (.hbm q) = true) : view F (pkDrop p s i).1 = view F s := by
  simp only [pkDrop, ↓pkOn_view, ↓gatherDrop_view, implies_true, hfreeIx, hout, hcores, hstores, htags, hparts,
    hwardrobe, hrel, hmregs, hpart, hregs, hvec, hmem, hhbm]

theorem watermarkDrop_view (s : State) (p : Nat) (hfreeIx : F .freeIx = true) (hout : F .out = true)
    (hcores : F .cores = true) (hstores : F .stores = true) (htags : F .tags = true) (hparts : F .parts = true)
    (hwardrobe : F .wardrobe = true) (hrel : F .rel = true) (hmregs : F .mregs = true) (hpart : F (.part p) = true)
    (hregs : ∀ q, F (.regs q) = true) (hvec : ∀ q, F (.vec q) = true) (hmem : ∀ q, F (.mem q) = true)
    (hhbm : ∀ q, F (.hbm q) = true) : view F (watermarkDrop s p) = view F s := by
  simp only [watermarkDrop]
  split
  · simp only [↓when_view, ↓putReg_view, ↓gatherDrop_view, implies_true, hfreeIx, hout, hcores, hstores, htags, hparts,
    hwardrobe, hrel, hmregs, hpart, hregs, hvec, hmem, hhbm]
  · rfl

theorem rmEnable_view (s : State) (p : Nat) (val : Word) (hout : F .out = true) (hparts : F .parts = true)
    (hpart : F (.part p) = true) (hregs : F (.regs p) = true) (hvec : F (.vec p) = true) :
    view F (rmEnable s p val) = view F s := by
  simp only [rmEnable, ↓onPart_view_part, ↓rmStatus_view, ↓apply_ite (view F), ite_self, hout, hparts, hpart, hregs,
    hvec]

theorem rmDisable_view (s : State) (p : Nat) (hparts : F .parts = true) (hpart : F (.part p) = true) :
    view F (rmDisable s p) = view F s := by
  simp only [rmDisable, ↓onPart_view_part, ↓apply_ite (view F), ite_self, hparts, hpart]

theorem rmRecordEnd_view (s : State) (p a status : Nat) (hfreeIx : F .freeIx = true) (hout : F .out = true)
    (hcores : F .cores = true) (hstores : F .stores = true) (htags : F .tags = true) (hparts : F .parts = true)
    (hwardrobe : F .wardrobe = true) (hrel : F .rel = true) (hpart : F (.part p) = true) (hregs : F (.regs p) = true)
    (hvec : ∀ q, F (.vec q) = true) (hmem : F (.mem p) = true) (hhbm : F (.hbm p) = true) :
    view F (rmRecordEnd s p a status) = view F s := by
  simp only [rmRecordEnd, ↓devWrite_view, ↓ringAdvance_view, ↓onRing_view, ↓carFlush_view, implies_true, hfreeIx, hout,
    hcores, hstores, htags, hparts, hwardrobe, hrel, hpart, hregs, hvec, hmem, hhbm]

theorem rmTake_view {s : State} {p cmd : Nat} {act : State → Nat → State} (keep : ∀ a, view F (act s a) = view F s)
    (hfreeIx : F .freeIx = true) (hout : F .out = true) (hcores : F .cores = true) (hstores : F .stores = true)
    (htags : F .tags = true) (hparts : F .parts = true) (hwardrobe : F .wardrobe = true) (hrel : F .rel = true)
    (hpart : F (.part p) = true) (hregs : F (.regs p) = true) (hvec : ∀ q, F (.vec q) = true) (hmem : F (.mem p) = true)
    (hhbm : F (.hbm p) = true) : view F (rmTake s p cmd act) = view F s := by
  unfold rmTake
  split
  · rfl
  · dsimp only
    split
    · exact keep _
    · split
      · rfl
      · exact rmRecordEnd_view _ _ _ _ hfreeIx hout hcores hstores htags hparts hwardrobe hrel hpart hregs hvec hmem hhbm

theorem rmSubmit_view (s : State) (p a : Nat) (hfreeIx : F .freeIx = true) (hout : F .out = true)
    (hcores : F .cores = true) (hstores : F .stores = true) (htags : F .tags = true) (hparts : F .parts = true)
    (hwardrobe : F .wardrobe = true) (hrel : F .rel = true) (hpart : F (.part p) = true) (hregs : F (.regs p) = true)
    (hvec : ∀ q, F (.vec q) = true) (hmem : F (.mem p) = true) (hhbm : F (.hbm p) = true) :
    view F (rmSubmit s p a) = view F s := by
  simp only [rmSubmit, ↓devRead_view, ↓onRing_view, ↓rmRecordEnd_view, ↓custCounts_view, ↓carEnd_view, ↓apply_ite (view
    F), ite_self, implies_true, hfreeIx, hout, hcores, hstores, htags, hparts, hwardrobe, hrel, hpart, hregs, hvec,
    hmem, hhbm]

theorem rmCancel_view (s : State) (p a : Nat) (hfreeIx : F .freeIx = true) (hout : F .out = true)
    (hcores : F .cores = true) (hstores : F .stores = true) (htags : F .tags = true) (hparts : F .parts = true)
    (hwardrobe : F .wardrobe = true) (hrel : F .rel = true) (hpart : F (.part p) = true) (hregs : F (.regs p) = true)
    (hvec : ∀ q, F (.vec q) = true) (hmem : F (.mem p) = true) (hhbm : F (.hbm p) = true) :
    view F (rmCancel s p a) = view F s := by
  simp only [rmCancel, ↓onRing_view, ↓custCounts_view, ↓rmRecordEnd_view, ↓noteFinished_view, ↓view_foldl, ↓apply_ite
    (view F), implies_true, hfreeIx, hout, hcores, hstores, htags, hparts, hwardrobe, hrel, hpart, hregs, hvec, hmem,
    hhbm]
  split
  · refine (view_foldl _ _ fun t e => ?_).trans ?_
    · simp only [↓carEnd_view, ↓view_foldl, implies_true, hfreeIx, hout, hcores, hstores, htags, hparts, hwardrobe,
      hrel, hpart, hregs, hvec, hmem, hhbm]
    · rfl
  · rfl

theorem writeRecord_view (s : State) (p : Nat) (bs : List Byte) (hfreeIx : F .freeIx = true) (hout : F .out = true)
    (hcores : F .cores = true) (hclusters : F .clusters = true) (hstores : F .stores = true) (htags : F .tags = true)
    (hparts : F .parts = true) (hwardrobe : F .wardrobe = true) (hrel : F .rel = true) (hpart : F (.part p) = true)
    (hregs : F (.regs p) = true) (hvec : ∀ q, F (.vec q) = true) (hmem : F (.mem p) = true) (hhbm : F (.hbm p) = true) :
    view F (writeRecord s p bs) = view F s := by
  simp only [writeRecord, ↓postSem_view, ↓devWrite_view, implies_true, hfreeIx, hout, hcores, hclusters, hstores, htags,
    hparts, hwardrobe, hrel, hpart, hregs, hvec, hmem, hhbm]

theorem sendPieces_view (s : State) (p : Nat) (step : BitVec 32) (bs : List Byte) (hout : F .out = true)
    (hfabric : F .fabric = true) : view F (sendPieces s p step bs) = view F s := by
  simp only [sendPieces]
  refine (view_foldl _ _ fun t e => ?_).trans ?_
  · simp only [↓sendWaiting_view, ↓view_foldl, implies_true, hout, hfabric]
  · rfl

theorem recordPublish_view (s : State) (p : Nat) (hfreeIx : F .freeIx = true) (hout : F .out = true)
    (hcores : F .cores = true) (hclusters : F .clusters = true) (hstores : F .stores = true) (htags : F .tags = true)
    (hparts : F .parts = true) (hfabric : F .fabric = true) (hwardrobe : F .wardrobe = true) (hrel : F .rel = true)
    (hpart : F (.part p) = true) (hregs : F (.regs p) = true) (hvec : ∀ q, F (.vec q) = true) (hmem : F (.mem p) = true)
    (hhbm : F (.hbm p) = true) : view F (recordPublish s p) = view F s := by
  simp only [recordPublish]
  split
  · simp only [↓onRing_view, ↓writeRecord_view, ↓sendPieces_view, ↓apply_ite (view F), ite_self, implies_true, hfreeIx,
    hout, hcores, hclusters, hstores, htags, hparts, hfabric, hwardrobe, hrel, hpart, hregs, hvec, hmem, hhbm]
  · rfl

theorem followBatches_view {q : Nat} (x : Partition) (es : List StepEntry) (hpart : F (.part q) = true) :
    viewPart F q (followBatches x es) = viewPart F q x :=
  viewPart_of_part hpart _ _

theorem recordWhole_view (s : State) (p : Nat) (bs : List Byte) (n : Nat) (hfreeIx : F .freeIx = true)
    (hout : F .out = true) (hcores : F .cores = true) (hclusters : F .clusters = true) (hstores : F .stores = true)
    (htags : F .tags = true) (hparts : F .parts = true) (hwardrobe : F .wardrobe = true) (hrel : F .rel = true)
    (hpart : F (.part p) = true) (hregs : F (.regs p) = true) (hvec : ∀ q, F (.vec q) = true) (hmem : F (.mem p) = true)
    (hhbm : F (.hbm p) = true) : view F (recordWhole s p bs n) = view F s := by
  simp only [recordWhole, ↓writeRecord_view, ↓onPart_view_part, ↓rmStop_view, ↓apply_ite (view F), ite_self,
    implies_true, hfreeIx, hout, hcores, hclusters, hstores, htags, hparts, hwardrobe, hrel, hpart, hregs, hvec, hmem,
    hhbm]

theorem recordPiece_view (s : State) (p : Nat) (m : Msg) (hfreeIx : F .freeIx = true) (hout : F .out = true)
    (hcores : F .cores = true) (hclusters : F .clusters = true) (hstores : F .stores = true) (htags : F .tags = true)
    (hparts : F .parts = true) (hfabric : F .fabric = true) (hwardrobe : F .wardrobe = true) (hrel : F .rel = true)
    (hpart : F (.part p) = true) (hregs : F (.regs p) = true) (hvec : ∀ q, F (.vec q) = true) (hmem : F (.mem p) = true)
    (hhbm : F (.hbm p) = true) : view F (recordPiece s p m) = view F s := by
  simp only [recordPiece, ↓onRing_view, ↓ackColl_view, ↓recordWhole_view, ↓apply_ite (view F), ite_self, implies_true,
    hfreeIx, hout, hcores, hclusters, hstores, htags, hparts, hfabric, hwardrobe, hrel, hpart, hregs, hvec, hmem, hhbm]

theorem recordReceive_view (s : State) (via : Option Nat) (m : Msg) (hfreeIx : F .freeIx = true) (hout : F .out = true)
    (hcores : F .cores = true) (hclusters : F .clusters = true) (hstores : F .stores = true) (htags : F .tags = true)
    (hparts : F .parts = true) (hfabric : F .fabric = true) (hwardrobe : F .wardrobe = true) (hrel : F .rel = true)
    (hmregs : F .mregs = true) (hpart : ∀ q, F (.part q) = true) (hregs : ∀ q, F (.regs q) = true)
    (hvec : ∀ q, F (.vec q) = true) (hmem : ∀ q, F (.mem q) = true) (hhbm : ∀ q, F (.hbm q) = true) :
    view F (recordReceive s via m) = view F s := by
  refine takeColl_view (fun t p q ht => view_ite (fun _ => ?_) fun _ => rfl) hout hparts hfabric hmregs hregs hvec
  exact (recordPiece_view _ _ _ hfreeIx hout hcores hclusters hstores htags hparts hfabric hwardrobe hrel (hpart p)
    (hregs p) hvec (hmem p) (hhbm p)).trans ht

theorem kernelStart_view (s : State) (g k : Nat) (hrel : F .rel = true) : view F (kernelStart s g k) = view F s := by
  simp only [kernelStart, ↓view_mk, steady, and_self, ↓apply_ite (view F), ite_self, true_or, or_true, hrel]

theorem voteNone_view (s : State) (p : Nat) (vid : BitVec 32) (core : Nat) (hout : F .out = true)
    (hparts : F .parts = true) (hrel : F .rel = true) (hregs : ∀ q, F (.regs q) = true) (hvec : ∀ q, F (.vec q) = true)
    : view F (voteNone s p vid core) = view F s := by
  simp only [voteNone, ↓voteResult_view, ↓charge_view, implies_true, hout, hparts, hrel, hregs, hvec]

theorem kernelComplete_view (s : State) (g : Nat) (digest : BitVec 384) (hout : F .out = true)
    (hparts : F .parts = true) (hrel : F .rel = true) (hregs : ∀ q, F (.regs q) = true) (hvec : ∀ q, F (.vec q) = true)
    : view F (kernelComplete s g digest) = view F s := by
  simp only [kernelComplete, ↓voteNone_view, ↓view_mk, steady, and_self, ↓apply_ite (view F), ite_self, true_or,
    or_true, implies_true,
    hout, hparts, hrel, hregs, hvec]

theorem chargeChecker_view (s : State) (v : Vote) (hout : F .out = true) (hparts : F .parts = true)
    (hrel : F .rel = true) (hregs : ∀ q, F (.regs q) = true) (hvec : ∀ q, F (.vec q) = true) :
    view F (chargeChecker s v) = view F s := by
  simp only [chargeChecker]
  split
  · simp only [↓charge_view, implies_true, hout, hparts, hrel, hregs, hvec]
  · simp only [↓view_mk, steady, and_self, true_or, or_true, hrel]

theorem voteDecide_view (s : State) (v : Vote) (a b ab : Bool) (g1 g2 : Nat) (hfreeIx : F .freeIx = true)
    (hout : F .out = true) (hcores : F .cores = true) (hclusters : F .clusters = true) (hstores : F .stores = true)
    (htags : F .tags = true) (hparts : F .parts = true) (hfabric : F .fabric = true) (hwardrobe : F .wardrobe = true)
    (hrel : F .rel = true) (hmregs : F .mregs = true) (hpart : F (.part v.part) = true)
    (hregs : ∀ q, F (.regs q) = true) (hvec : ∀ q, F (.vec q) = true) (hmem : ∀ q, F (.mem q) = true)
    (hhbm : ∀ q, F (.hbm q) = true) : view F (voteDecide s v a b ab g1 g2) = view F s := by
  simp only [voteDecide, ↓voteResult_view, ↓chargeChecker_view, ↓charge_view, ↓beginPartReset_view, ↓view_foldl,
    ↓apply_ite (view F), ite_self, implies_true, hfreeIx, hout, hcores, hclusters, hstores, htags, hparts, hfabric,
    hwardrobe, hrel, hmregs, hpart, hregs, hvec, hmem, hhbm]

theorem dropVote_view (s : State) (vid : BitVec 32) (hrel : F .rel = true) : view F (dropVote s vid) = view F s := by
  simp only [dropVote, ↓view_mk, steady, and_self, true_or, or_true, hrel]

theorem voteRecompute_view (s : State) (vid : BitVec 32) (r1 r2 : Recompute) (g1 g2 : Nat) (hfreeIx : F .freeIx = true)
    (hout : F .out = true) (hcores : F .cores = true) (hclusters : F .clusters = true) (hstores : F .stores = true)
    (htags : F .tags = true) (hparts : F .parts = true) (hfabric : F .fabric = true) (hwardrobe : F .wardrobe = true)
    (hrel : F .rel = true) (hmregs : F .mregs = true) (hpart : ∀ q, F (.part q) = true)
    (hregs : ∀ q, F (.regs q) = true) (hvec : ∀ q, F (.vec q) = true) (hmem : ∀ q, F (.mem q) = true)
    (hhbm : ∀ q, F (.hbm q) = true) : view F (voteRecompute s vid r1 r2 g1 g2) = view F s := by
  simp only [voteRecompute]
  split
  · rfl
  · simp only [↓voteDecide_view, ↓dropVote_view, ↓apply_ite (view F), ite_self, implies_true, hfreeIx, hout, hcores,
    hclusters, hstores, htags, hparts, hfabric, hwardrobe, hrel, hmregs, hpart, hregs, hvec, hmem, hhbm]

theorem heartbeatMiss_view (s : State) (p role : Nat) (hfreeIx : F .freeIx = true) (hout : F .out = true)
    (hcores : F .cores = true) (hclusters : F .clusters = true) (hstores : F .stores = true) (htags : F .tags = true)
    (hparts : F .parts = true) (hfabric : F .fabric = true) (hwardrobe : F .wardrobe = true) (hrel : F .rel = true)
    (hmregs : F .mregs = true) (hpart : ∀ q, F (.part q) = true) (hregs : ∀ q, F (.regs q) = true)
    (hvec : ∀ q, F (.vec q) = true) (hmem : ∀ q, F (.mem q) = true) (hhbm : ∀ q, F (.hbm q) = true) :
    view F (heartbeatMiss s p role) = view F s := by
  simp only [heartbeatMiss, ↓errEvent_view, ↓beginPartReset_view, ↓beginEngineReset_view, ↓view_mk, steady, and_self,
    ↓apply_ite (view F),
    ite_self, true_or, or_true, implies_true, hfreeIx, hout, hcores, hclusters, hstores, htags, hparts, hfabric,
    hwardrobe, hrel, hmregs, hpart, hregs, hvec, hmem, hhbm]

theorem zeroise_view (s : State) (hparts : F .parts = true) (hsec : F .sec = true) (hpart : ∀ q, F (.part q) = true) :
    view F (zeroise s) = view F s := by
  simp only [zeroise, ↓view_mk_parts, fuses, and_self, true_or, or_true, implies_true, hparts, hsec, hpart]

theorem flashErase_view (s : State) (a n : Nat) (hsec : F .sec = true) : view F (flashErase s a n) = view F s := by
  simp only [flashErase, ↓view_mk, true_or, or_true, fuses, and_self, hsec]

theorem flashWrite_view (s : State) (a : Nat) (bs : List Byte) (hsec : F .sec = true) :
    view F (flashWrite s a bs) = view F s := by
  simp only [flashWrite, ↓view_mk, true_or, or_true, fuses, and_self, hsec]

theorem stopFlash_view (s : State) (hfreeIx : F .freeIx = true) (hsec : F .sec = true) :
    view F (stopFlash s) = view F s := by
  simp only [stopFlash]
  split
  · rfl
  · simp only [↓spend_view, ↓flashErase_view, ↓flashWrite_view, ↓view_mk, ↓apply_ite (view F), ite_self, true_or,
    or_true, fuses, and_self, hfreeIx, hsec]

theorem portsDown_view (s : State) (hfabric : F .fabric = true) (hmregs : F .mregs = true) :
    view F (portsDown s) = view F s := by
  simp only [portsDown, ↓putMreg_view, ↓onPort_view, ↓view_mk, ↓view_foldl, ↓apply_ite (view F), ite_self, true_or,
    or_true, implies_true, hfabric, hmregs]

theorem beginDevReset_view (s : State) (counted : Bool) (hfreeIx : F .freeIx = true) (hout : F .out = true)
    (hcores : F .cores = true) (hclusters : F .clusters = true) (hstores : F .stores = true) (htags : F .tags = true)
    (hparts : F .parts = true) (hfabric : F .fabric = true) (hwardrobe : F .wardrobe = true) (hrel : F .rel = true)
    (hsteady : F .steady = true)
    (hsec : F .sec = true) (hmregs : F .mregs = true) (hpart : ∀ q, F (.part q) = true)
    (hregs : ∀ q, F (.regs q) = true) (hvec : ∀ q, F (.vec q) = true) (hmem : ∀ q, F (.mem q) = true)
    (hhbm : ∀ q, F (.hbm q) = true) : view F (beginDevReset s counted) = view F s := by
  simp only [beginDevReset, ↓onPart_view_part, ↓quiescePart_view, ↓resetEvent_view, ↓abortVotes_view, ↓zeroise_view,
    ↓stopFlash_view, ↓portsDown_view, ↓view_mk, steady, and_self, ↓view_foldl, ↓apply_ite (view F), ite_self, true_or, or_true,
    implies_true, hfreeIx, hout, hcores, hclusters, hstores, htags, hparts, hfabric, hwardrobe, hrel, hsteady, hsec, hmregs,
    hpart, hregs, hvec, hmem, hhbm]

theorem rsEnd_view (s : State) (status : Nat) (hmregs : F .mregs = true) : view F (rsEnd s status) = view F s := by
  simp only [rsEnd, ↓putMreg_view, hmregs]

theorem presetCmd_view (s : State) (p : Nat) (hfreeIx : F .freeIx = true) (hout : F .out = true)
    (hcores : F .cores = true) (hclusters : F .clusters = true) (hstores : F .stores = true) (htags : F .tags = true)
    (hparts : F .parts = true) (hfabric : F .fabric = true) (hwardrobe : F .wardrobe = true) (hrel : F .rel = true)
    (hsteady : F .steady = true)
    (hmregs : F .mregs = true) (hpart : F (.part p) = true) (hregs : ∀ q, F (.regs q) = true)
    (hvec : ∀ q, F (.vec q) = true) (hmem : ∀ q, F (.mem q) = true) (hhbm : ∀ q, F (.hbm q) = true) :
    view F (presetCmd s p) = view F s := by
  simp only [presetCmd, ↓rsEnd_view, ↓beginPartReset_view, ↓view_mk, steady, and_self, ↓apply_ite (view F), ite_self,
    true_or, or_true,
    implies_true, hfreeIx, hout, hcores, hclusters, hstores, htags, hparts, hfabric, hwardrobe, hrel, hsteady, hmregs, hpart,
    hregs, hvec, hmem, hhbm]

theorem Partition_scrubbed_view {q : Nat} (x : Partition) (hpart : F (.part q) = true) :
    viewPart F q (Partition.scrubbed x) = viewPart F q x :=
  viewPart_of_part hpart _ _

theorem countPart_view (s : State) (counted : Bool) (hrel : F .rel = true) (hsteady : F .steady = true) :
    view F (countPart s counted) = view F s := by
  simp only [countPart, ↓view_mk, steady, and_self, ↓apply_ite (view F), ite_self, true_or, or_true, hrel, hsteady]

theorem endPreset_view (s : State) (p : Nat) (hrel : F .rel = true) (hsteady : F .steady = true) (hmregs : F .mregs = true) :
    view F (endPreset s p) = view F s := by
  simp only [endPreset, ↓rsEnd_view, ↓view_mk, steady, and_self, ↓apply_ite (view F), ite_self, true_or, or_true, hrel,
    hsteady, hmregs]

theorem destroyPart_view (s : State) (p : Nat) (hfreeIx : F .freeIx = true) (hout : F .out = true)
    (hcores : F .cores = true) (hclusters : F .clusters = true) (hstores : F .stores = true) (htags : F .tags = true)
    (hparts : F .parts = true) (hfabric : F .fabric = true) (hwardrobe : F .wardrobe = true) (hrel : F .rel = true)
    (hpwr : F .pwr = true) (hmregs : F .mregs = true) (hpart : F (.part p) = true) (hregs : ∀ q, F (.regs q) = true)
    (hvec : ∀ q, F (.vec q) = true) (hmem : ∀ q, F (.mem q) = true) (hhbm : ∀ q, F (.hbm q) = true) :
    view F (destroyPart s p) = view F s := by
  simp only [destroyPart, ↓erasePart_view, ↓quiescePart_view, ↓wakeChannels_view, ↓scrubStores_view, ↓apply_ite (view
    F), ite_self, implies_true, hfreeIx, hout, hcores, hclusters, hstores, htags, hparts, hfabric, hwardrobe, hrel,
    hpwr, hmregs, hpart, hregs, hvec, hmem, hhbm]

theorem markFenced_view (s : State) (ms : List Nat) (hfabric : F .fabric = true) :
    view F (markFenced s ms) = view F s := by
  simp only [markFenced, ↓view_mk, true_or, or_true, hfabric]

theorem fencePort_view (s : State) (c : Nat) (hfabric : F .fabric = true) : view F (fencePort s c) = view F s := by
  simp only [fencePort, ↓markFenced_view, ↓autoClear_view, ↓onPort_view, ↓dropMids_view, ↓breakLink_view, hfabric]

theorem fencePorts_view (s : State) (ports : BitVec 20) (hfabric : F .fabric = true) (hmregs : F .mregs = true) :
    view F (fencePorts s ports) = view F s := by
  simp only [fencePorts, ↓fencePort_view, ↓putMreg_view, ↓view_foldl, implies_true, hfabric, hmregs]

theorem outOfService_view (s : State) (why : Nat) (hfreeIx : F .freeIx = true) (hout : F .out = true)
    (hcores : F .cores = true) (hclusters : F .clusters = true) (hstores : F .stores = true) (htags : F .tags = true)
    (hparts : F .parts = true) (hfabric : F .fabric = true) (hwardrobe : F .wardrobe = true) (hrel : F .rel = true)
    (hsteady : F .steady = true)
    (hpwr : F .pwr = true) (hmregs : F .mregs = true) (hpart : ∀ q, F (.part q) = true)
    (hregs : ∀ q, F (.regs q) = true) (hvec : ∀ q, F (.vec q) = true) (hmem : ∀ q, F (.mem q) = true)
    (hhbm : ∀ q, F (.hbm q) = true) : view F (outOfService s why) = view F s := by
  simp only [outOfService, ↓pmEnd_view, ↓destroyPart_view, ↓fencePorts_view, ↓putMreg_view, ↓resetEvent_view, ↓view_mk,
    steady, and_self,
    ↓view_foldl, ↓apply_ite (view F), ite_self, true_or, or_true, implies_true, hfreeIx, hout, hcores, hclusters,
    hstores, htags, hparts, hfabric, hwardrobe, hrel, hsteady, hpwr, hmregs, hpart, hregs, hvec, hmem, hhbm]

theorem partResetComplete_view (s : State) (p : Nat) (hfreeIx : F .freeIx = true) (hout : F .out = true)
    (hcores : F .cores = true) (hclusters : F .clusters = true) (hstores : F .stores = true) (htags : F .tags = true)
    (hparts : F .parts = true) (hfabric : F .fabric = true) (hwardrobe : F .wardrobe = true) (hrel : F .rel = true)
    (hsteady : F .steady = true)
    (hpwr : F .pwr = true) (hmregs : F .mregs = true) (hpart : ∀ q, F (.part q) = true)
    (hregs : ∀ q, F (.regs q) = true) (hvec : ∀ q, F (.vec q) = true) (hmem : ∀ q, F (.mem q) = true)
    (hhbm : ∀ q, F (.hbm q) = true) : view F (partResetComplete s p) = view F s := by
  simp only [partResetComplete, ↓wakeChannels_view, ↓scrubStores_view, ↓erasePart_view, ↓pmEnd_view, ↓newKeys_view,
    ↓onPart_view_part, ↓setPtstate_view, ↓countPart_view, ↓charge_view, ↓resetEvent_view, ↓endPreset_view,
    ↓outOfService_view, ↓apply_ite (view F), ite_self, implies_true, hfreeIx, hout, hcores, hclusters, hstores, htags,
    hparts, hfabric, hwardrobe, hrel, hsteady, hpwr, hmregs, hpart, hregs, hvec, hmem, hhbm]

theorem devResetCmd_view (s : State) (hfreeIx : F .freeIx = true) (hout : F .out = true) (hcores : F .cores = true)
    (hclusters : F .clusters = true) (hstores : F .stores = true) (htags : F .tags = true) (hparts : F .parts = true)
    (hfabric : F .fabric = true) (hwardrobe : F .wardrobe = true) (hrel : F .rel = true) (hsteady : F .steady = true)
    (hsec : F .sec = true)
    (hmregs : F .mregs = true) (hpart : ∀ q, F (.part q) = true) (hregs : ∀ q, F (.regs q) = true)
    (hvec : ∀ q, F (.vec q) = true) (hmem : ∀ q, F (.mem q) = true) (hhbm : ∀ q, F (.hbm q) = true) :
    view F (devResetCmd s) = view F s := by
  simp only [devResetCmd, ↓rsEnd_view, ↓beginDevReset_view, ↓apply_ite (view F), ite_self, implies_true, hfreeIx, hout,
    hcores, hclusters, hstores, htags, hparts, hfabric, hwardrobe, hrel, hsteady, hsec, hmregs, hpart, hregs, hvec, hmem, hhbm]

theorem readSfdp_view (s : State) (hsec : F .sec = true) : view F (readSfdp s) = view F s := by
  simp only [readSfdp, ↓view_mk, true_or, or_true, fuses, and_self, hsec]

theorem bootHold_view (s : State) (code : Nat) (hout : F .out = true) (hsec : F .sec = true) (hpwr : F .pwr = true) :
    view F (bootHold s code) = view F s := by
  simp only [bootHold, ↓emit_view, ↓view_mk, true_or, or_true, fuses, and_self, hout, hsec, hpwr]

theorem takeCopies_view (s : State) (k : Nat) (pat : Option Nat) (hsec : F .sec = true) (hpattern : F .pattern = true) :
    view F (takeCopies s k pat) = view F s := by
  simp only [takeCopies, ↓view_mk, true_or, or_true, fuses, and_self, hsec, hpattern]

theorem bootLoad_view (s0 : State) (hout : F .out = true) (hsec : F .sec = true) (hpwr : F .pwr = true)
    (hpattern : F .pattern = true) : view F (bootLoad s0).1 = view F s0 := by
  simp only [bootLoad]
  split
  · simp only [↓readSfdp_view, ↓bootHold_view, hout, hsec, hpwr]
  · split
    · simp only [↓readSfdp_view, ↓bootHold_view, hout, hsec, hpwr]
    · simp only [↓readSfdp_view, ↓takeCopies_view, hsec, hpattern]

theorem deviceFresh_view (s : State) (hdieCtr : F .dieCtr = true) (hcores : F .cores = true)
    (hclusters : F .clusters = true) (hstores : F .stores = true) (htags : F .tags = true) (hparts : F .parts = true)
    (hfabric : F .fabric = true) (hrel : F .rel = true) (hsteady : F .steady = true) (hsec : F .sec = true)
    (hpwr : F .pwr = true)
    (hmregs : F .mregs = true) (hpattern : F .pattern = true) (hpart : ∀ q, F (.part q) = true) :
    view F (deviceFresh s) = view F s := by
  simp only [deviceFresh, ↓view_mk_parts, steady, fuses, and_self, true_or, or_true, implies_true, hdieCtr, hcores, hclusters,
    hstores, htags, hparts, hfabric, hrel, hsteady, hsec, hpwr, hmregs, hpattern, hpart]

theorem showOos_view (s : State) (hmregs : F .mregs = true) : view F (showOos s) = view F s := by
  simp only [showOos, ↓putMreg_view, ↓apply_ite (view F), ite_self, hmregs]

theorem renewNonce_view (s : State) (hfreeIx : F .freeIx = true) (hsec : F .sec = true) :
    view F (renewNonce s) = view F s := by
  simp only [renewNonce, ↓spend_view, ↓view_mk, true_or, or_true, fuses, and_self, hfreeIx, hsec]

theorem revokeLower_view (s : State) (hsec : F .sec = true) (hfuses : F .fuses = true) :
    view F (revokeLower s) = view F s := by
  unfold revokeLower
  split
  · rfl
  · simp only [↓view_mk, true_or, or_true, and_self, hsec, hfuses]

theorem applyPattern_view (s : State) (t : Pattern) (hmregs : F .mregs = true) :
    view F (applyPattern s t) = view F s := by
  simp only [applyPattern, ↓setMreg_view, ↓putMreg_view, ↓view_foldl, ↓apply_ite (view F), ite_self, implies_true,
    hmregs]

theorem trainPorts_view (s : State) (hfabric : F .fabric = true) (hmregs : F .mregs = true) :
    view F (trainPorts s) = view F s := by
  simp only [trainPorts, ↓onPort_view, ↓putMreg_view, ↓view_foldl, ↓apply_ite (view F), ite_self, implies_true, hfabric,
    hmregs]

theorem openEvent_view (s : State) (ut idx det : Nat) (hfreeIx : F .freeIx = true) (hout : F .out = true)
    (hrel : F .rel = true) : view F (openEvent s ut idx det) = view F s := by
  simp only [openEvent, ↓eventRecord_view, ↓spend_view, hfreeIx, hout, hrel]

theorem enterProbation_view (s : State) (hfreeIx : F .freeIx = true) (hout : F .out = true) (hrel : F .rel = true)
    (hsteady : F .steady = true) :
    view F (enterProbation s) = view F s := by
  simp only [enterProbation, ↓openEvent_view, ↓view_mk, steady, and_self, true_or, or_true, hfreeIx, hout, hrel, hsteady]

theorem startFirmware_view (s : State) (power : Bool) (hfreeIx : F .freeIx = true) (hout : F .out = true)
    (hfabric : F .fabric = true) (hrel : F .rel = true) (hsteady : F .steady = true) (hsec : F .sec = true)
    (hfuses : F .fuses = true)
    (hmregs : F .mregs = true) : view F (startFirmware s power) = view F s := by
  simp only [startFirmware, ↓trainPorts_view, ↓enterProbation_view, ↓apply_ite (view F), ite_self, hfreeIx, hout,
    hfabric, hrel, hsteady, hmregs]
  split
  · simp only [↓renewNonce_view, ↓revokeLower_view, ↓applyPattern_view, ↓view_mk, steady, true_or, or_true, and_self, hfreeIx,
    hsec, hfuses, hmregs]
  · simp only [↓renewNonce_view, ↓revokeLower_view, ↓view_mk, steady, true_or, or_true, and_self, hfreeIx, hsec, hfuses]

theorem createPresets_view (s : State) (hfreeIx : F .freeIx = true) (hout : F .out = true) (hparts : F .parts = true)
    (hpart : ∀ q, F (.part q) = true) (hvec : ∀ q, F (.vec q) = true) : view F (createPresets s) = view F s := by
  simp only [createPresets]
  split
  · rfl
  · simp only [↓createPart_view, ↓view_foldl, ↓apply_ite (view F), ite_self, implies_true, hfreeIx, hout, hparts, hpart,
    hvec]

theorem deviceResetComplete_view (s : State) (hfreeIx : F .freeIx = true) (hout : F .out = true)
    (hdieCtr : F .dieCtr = true) (hcores : F .cores = true) (hclusters : F .clusters = true)
    (hstores : F .stores = true) (htags : F .tags = true) (hparts : F .parts = true) (hfabric : F .fabric = true)
    (hwardrobe : F .wardrobe = true) (hrel : F .rel = true) (hsteady : F .steady = true) (hsec : F .sec = true)
    (hfuses : F .fuses = true)
    (hpwr : F .pwr = true) (hmregs : F .mregs = true) (hpattern : F .pattern = true) (hpart : ∀ q, F (.part q) = true)
    (hregs : ∀ q, F (.regs q) = true) (hvec : ∀ q, F (.vec q) = true) (hmem : ∀ q, F (.mem q) = true)
    (hhbm : ∀ q, F (.hbm q) = true) : view F (deviceResetComplete s) = view F s := by
  simp only [deviceResetComplete, ↓bootLoad_view, ↓deviceFresh_view, ↓charge_view, ↓showOos_view, ↓startFirmware_view,
    ↓resetEvent_view, ↓outOfService_view, ↓createPresets_view, ↓view_mk, steady, and_self, ↓apply_ite (view F),
    ite_self, true_or,
    or_true, implies_true, hfreeIx, hout, hdieCtr, hcores, hclusters, hstores, htags, hparts, hfabric, hwardrobe, hrel, hsteady,
    hsec, hfuses, hpwr, hmregs, hpattern, hpart, hregs, hvec, hmem, hhbm]

theorem returnCmd_view (s : State) (hfreeIx : F .freeIx = true) (hout : F .out = true) (hcores : F .cores = true)
    (hclusters : F .clusters = true) (hstores : F .stores = true) (htags : F .tags = true) (hparts : F .parts = true)
    (hfabric : F .fabric = true) (hwardrobe : F .wardrobe = true) (hrel : F .rel = true) (hsteady : F .steady = true)
    (hsec : F .sec = true)
    (hmregs : F .mregs = true) (hpart : ∀ q, F (.part q) = true) (hregs : ∀ q, F (.regs q) = true)
    (hvec : ∀ q, F (.vec q) = true) (hmem : ∀ q, F (.mem q) = true) (hhbm : ∀ q, F (.hbm q) = true) :
    view F (returnCmd s) = view F s := by
  simp only [returnCmd, ↓beginDevReset_view, ↓openEvent_view, ↓view_mk, steady, and_self, ↓apply_ite (view F), ite_self,
    true_or, or_true,
    implies_true, hfreeIx, hout, hcores, hclusters, hstores, htags, hparts, hfabric, hwardrobe, hrel, hsteady, hsec, hmregs,
    hpart, hregs, hvec, hmem, hhbm]

theorem fnEnd_view (s : State) (status : Nat) (hmregs : F .mregs = true) : view F (fnEnd s status) = view F s := by
  simp only [fnEnd, ↓putMreg_view, hmregs]

theorem dropKernels_view (s : State) (hit : Nat → Bool) (hrel : F .rel = true) :
    view F (dropKernels s hit) = view F s := by
  simp only [dropKernels, ↓view_mk, steady, and_self, true_or, or_true, hrel]

theorem stopStarts_view (s : State) (hit : Nat → Bool) (hout : F .out = true) (hcores : F .cores = true)
    (hclusters : F .clusters = true) (hparts : F .parts = true) (hpart : ∀ q, F (.part q) = true)
    (hregs : ∀ q, F (.regs q) = true) (hvec : ∀ q, F (.vec q) = true) : view F (stopStarts s hit) = view F s := by
  simp only [stopStarts, ↓lstat_view, ↓onCtx_view, ↓releaseClusters_view, ↓view_foldl, ↓apply_ite (view F), ite_self,
    implies_true, hout, hcores, hclusters, hparts, hpart, hregs, hvec]

theorem fenceCore_view (s : State) (g : Nat) (hout : F .out = true) (hcores : F .cores = true)
    (hclusters : F .clusters = true) (hparts : F .parts = true) (hrel : F .rel = true) (hsteady : F .steady = true)
    (hpart : ∀ q, F (.part q) = true)
    (hregs : ∀ q, F (.regs q) = true) (hvec : ∀ q, F (.vec q) = true) : view F (fenceCore s g) = view F s := by
  simp only [fenceCore, ↓dropKernels_view, ↓stopStarts_view, ↓coreFault_view, ↓view_mk, steady, and_self, true_or,
    or_true, implies_true,
    hout, hcores, hclusters, hparts, hrel, hsteady, hpart, hregs, hvec]

theorem fencePanel_view (s : State) (q : Nat) (hout : F .out = true) (hcores : F .cores = true)
    (hclusters : F .clusters = true) (hparts : F .parts = true) (hrel : F .rel = true) (hsteady : F .steady = true)
    (hpart : ∀ q, F (.part q) = true)
    (hregs : ∀ q, F (.regs q) = true) (hvec : ∀ q, F (.vec q) = true) : view F (fencePanel s q) = view F s := by
  simp only [fencePanel]
  split
  · simp only [↓dropKernels_view, ↓stopStarts_view, ↓view_mk, steady, and_self, true_or, or_true, implies_true, hout,
      hcores, hclusters,
    hparts, hrel, hsteady, hpart, hregs, hvec]
  · refine (view_foldl _ _ fun t e => ?_).trans ?_
    · split
      · simp only [↓coreFault_view, implies_true, hout, hcores, hparts, hpart, hregs, hvec]
      · rfl
    · simp only [↓dropKernels_view, ↓stopStarts_view, ↓view_mk, steady, and_self, true_or, or_true, implies_true, hout,
        hcores, hclusters,
      hparts, hrel, hsteady, hpart, hregs, hvec]

theorem fenceUnit_view (s : State) (ut idx : Nat) (hfreeIx : F .freeIx = true) (hout : F .out = true)
    (hcores : F .cores = true) (hclusters : F .clusters = true) (hstores : F .stores = true) (htags : F .tags = true)
    (hparts : F .parts = true) (hfabric : F .fabric = true) (hwardrobe : F .wardrobe = true) (hrel : F .rel = true)
    (hsteady : F .steady = true)
    (hmregs : F .mregs = true) (hpart : ∀ q, F (.part q) = true) (hregs : ∀ q, F (.regs q) = true)
    (hvec : ∀ q, F (.vec q) = true) (hmem : ∀ q, F (.mem q) = true) (hhbm : ∀ q, F (.hbm q) = true) :
    view F (fenceUnit s ut idx) = view F s := by
  simp only [fenceUnit]
  split
  · simp only [↓fenceCore_view, implies_true, hout, hcores, hclusters, hparts, hrel, hsteady, hpart, hregs, hvec]
  · simp only [↓fencePanel_view, implies_true, hout, hcores, hclusters, hparts, hrel, hsteady, hpart, hregs, hvec]
  · simp only [↓fencePort_view, ↓view_mk, steady, and_self, true_or, or_true, hfabric, hrel, hsteady]
  · simp only [↓putMreg_view, ↓view_mk, steady, and_self, true_or, or_true, hrel, hsteady, hmregs]
  · simp only [↓putMreg_view, ↓hostDown_view, ↓view_mk, steady, and_self, true_or, or_true, implies_true, hfreeIx, hout,
      hcores, hstores,
    htags, hparts, hfabric, hwardrobe, hrel, hsteady, hmregs, hpart, hregs, hvec, hmem, hhbm]
  · rfl

theorem unfenceUnit_view (s : State) (ut idx : Nat) (hfabric : F .fabric = true) (hrel : F .rel = true)
    (hsteady : F .steady = true)
    (hmregs : F .mregs = true) : view F (unfenceUnit s ut idx) = view F s := by
  simp only [unfenceUnit]
  split
  · simp only [↓view_mk, steady, and_self, true_or, or_true, hrel, hsteady]
  · simp only [↓view_mk, steady, and_self, true_or, or_true, hrel, hsteady]
  · simp only [↓onPort_view, ↓view_mk, steady, and_self, true_or, or_true, hfabric, hrel, hsteady]
  · simp only [↓putMreg_view, ↓view_mk, steady, and_self, true_or, or_true, hrel, hsteady, hmregs]
  · simp only [↓putMreg_view, ↓view_mk, steady, and_self, true_or, or_true, hrel, hsteady, hmregs]
  · rfl

theorem fenceCmd_view (s : State) (on : Bool) (ut idx : Nat) (hfreeIx : F .freeIx = true) (hout : F .out = true)
    (hcores : F .cores = true) (hclusters : F .clusters = true) (hstores : F .stores = true) (htags : F .tags = true)
    (hparts : F .parts = true) (hfabric : F .fabric = true) (hwardrobe : F .wardrobe = true) (hrel : F .rel = true)
    (hsteady : F .steady = true)
    (hmregs : F .mregs = true) (hpart : ∀ q, F (.part q) = true) (hregs : ∀ q, F (.regs q) = true)
    (hvec : ∀ q, F (.vec q) = true) (hmem : ∀ q, F (.mem q) = true) (hhbm : ∀ q, F (.hbm q) = true) :
    view F (fenceCmd s on ut idx) = view F s := by
  simp only [fenceCmd, ↓fnEnd_view, ↓openEvent_view, ↓fenceUnit_view, ↓unfenceUnit_view, ↓apply_ite (view F), ite_self,
    implies_true, hfreeIx, hout, hcores, hclusters, hstores, htags, hparts, hfabric, hwardrobe, hrel, hsteady, hmregs, hpart,
    hregs, hvec, hmem, hhbm]

theorem setProbation_view (s : State) (on : Bool) (hfreeIx : F .freeIx = true) (hout : F .out = true)
    (hrel : F .rel = true) (hsteady : F .steady = true) : view F (setProbation s on) = view F s := by
  simp only [setProbation, ↓openEvent_view, ↓view_mk, steady, and_self, ↓apply_ite (view F), ite_self, true_or, or_true,
    hfreeIx, hout,
    hrel, hsteady]

theorem measureVin_view (s : State) (hfreeIx : F .freeIx = true) (hpwr : F .pwr = true) :
    view F (measureVin s) = view F s := by
  simp only [measureVin, ↓spend_view, ↓view_mk, true_or, or_true, hfreeIx, hpwr]

theorem writeBist_view (s : State) (fresh res why : Nat) (o : BistOutcome) (hfreeIx : F .freeIx = true)
    (hsec : F .sec = true) : view F (writeBist s fresh res why o) = view F s := by
  simp only [writeBist, ↓flashWrite_view, ↓spend_view, hfreeIx, hsec]

theorem bistRun_view (s : State) (hfreeIx : F .freeIx = true) (hout : F .out = true) (hparts : F .parts = true)
    (hrel : F .rel = true)
    (hsteady : F .steady = true) (hsec : F .sec = true) (hpwr : F .pwr = true) (hmregs : F .mregs = true)
    (hpart : ∀ q, F (.part q) = true) : view F (bistRun s) = view F s := by
  simp only [bistRun, ↓putMreg_view, ↓measureVin_view, ↓zeroise_view, ↓writeBist_view, ↓openEvent_view, ↓view_mk,
    steady, and_self,
    ↓apply_ite (view F), ite_self, true_or, or_true, implies_true, hfreeIx, hout, hparts, hrel, hsteady, hsec, hpwr, hmregs,
    hpart]

theorem inService_view (s : State) (hfreeIx : F .freeIx = true) (hout : F .out = true) (hparts : F .parts = true)
    (hfabric : F .fabric = true) (hrel : F .rel = true) (hsteady : F .steady = true) (hsec : F .sec = true)
    (hfuses : F .fuses = true)
    (hmregs : F .mregs = true) (hpart : ∀ q, F (.part q) = true) (hvec : ∀ q, F (.vec q) = true) :
    view F (inService s) = view F s := by
  simp only [inService, ↓createPresets_view, ↓startFirmware_view, implies_true, hfreeIx, hout, hparts, hfabric, hrel, hsteady,
    hsec, hfuses, hmregs, hpart, hvec]

theorem afterTests_view (s : State) (res : Nat) (o : BistOutcome) (hfreeIx : F .freeIx = true) (hout : F .out = true)
    (hcores : F .cores = true) (hclusters : F .clusters = true) (hstores : F .stores = true) (htags : F .tags = true)
    (hparts : F .parts = true) (hfabric : F .fabric = true) (hwardrobe : F .wardrobe = true) (hrel : F .rel = true)
    (hsteady : F .steady = true)
    (hsec : F .sec = true) (hfuses : F .fuses = true) (hpwr : F .pwr = true) (hmregs : F .mregs = true)
    (hpart : ∀ q, F (.part q) = true) (hregs : ∀ q, F (.regs q) = true) (hvec : ∀ q, F (.vec q) = true)
    (hmem : ∀ q, F (.mem q) = true) (hhbm : ∀ q, F (.hbm q) = true) : view F (afterTests s res o) = view F s := by
  simp only [afterTests, ↓openEvent_view, ↓inService_view, ↓enterProbation_view, ↓outOfService_view,
    ↓startFirmware_view, ↓view_mk, steady, and_self, ↓apply_ite (view F), ite_self, true_or, or_true, implies_true,
    hfreeIx, hout, hcores,
    hclusters, hstores, htags, hparts, hfabric, hwardrobe, hrel, hsteady, hsec, hfuses, hpwr, hmregs, hpart, hregs, hvec, hmem,
    hhbm]

theorem bistComplete_view (s : State) (o : BistOutcome) (hfreeIx : F .freeIx = true) (hout : F .out = true)
    (hcores : F .cores = true) (hclusters : F .clusters = true) (hstores : F .stores = true) (htags : F .tags = true)
    (hparts : F .parts = true) (hfabric : F .fabric = true) (hwardrobe : F .wardrobe = true) (hrel : F .rel = true)
    (hsteady : F .steady = true)
    (hsec : F .sec = true) (hfuses : F .fuses = true) (hpwr : F .pwr = true) (hmregs : F .mregs = true)
    (hpart : ∀ q, F (.part q) = true) (hregs : ∀ q, F (.regs q) = true) (hvec : ∀ q, F (.vec q) = true)
    (hmem : ∀ q, F (.mem q) = true) (hhbm : ∀ q, F (.hbm q) = true) : view F (bistComplete s o) = view F s := by
  simp only [bistComplete, ↓afterTests_view, ↓writeBist_view, ↓openEvent_view, ↓view_mk, steady, ↓apply_ite (view F), ite_self,
    true_or, or_true, implies_true, and_self, hfreeIx, hout, hcores, hclusters, hstores, htags, hparts, hfabric,
    hwardrobe, hrel, hsteady, hsec, hfuses, hpwr, hmregs, hpart, hregs, hvec, hmem, hhbm]

theorem bistLost_view (s : State) (why : BitVec 2) (hfreeIx : F .freeIx = true) (hout : F .out = true)
    (hcores : F .cores = true) (hclusters : F .clusters = true) (hstores : F .stores = true) (htags : F .tags = true)
    (hparts : F .parts = true) (hfabric : F .fabric = true) (hwardrobe : F .wardrobe = true) (hrel : F .rel = true)
    (hsteady : F .steady = true)
    (hsec : F .sec = true) (hfuses : F .fuses = true) (hpwr : F .pwr = true) (hmregs : F .mregs = true)
    (hpart : ∀ q, F (.part q) = true) (hregs : ∀ q, F (.regs q) = true) (hvec : ∀ q, F (.vec q) = true)
    (hmem : ∀ q, F (.mem q) = true) (hhbm : ∀ q, F (.hbm q) = true) : view F (bistLost s why) = view F s := by
  simp only [bistLost, ↓afterTests_view, ↓writeBist_view, ↓openEvent_view, ↓view_mk, steady, and_self,
    ↓apply_ite (view F), ite_self,
    true_or, or_true, implies_true, hfreeIx, hout, hcores, hclusters, hstores, htags, hparts, hfabric, hwardrobe, hrel, hsteady,
    hsec, hfuses, hpwr, hmregs, hpart, hregs, hvec, hmem, hhbm]

theorem periodic_view (s : State) (hfreeIx : F .freeIx = true) (hout : F .out = true) (hrel : F .rel = true) :
    view F (periodic s) = view F s := by
  simp only [periodic, ↓healthRecord_view, ↓spend_view, ↓view_mk, steady, and_self, ↓apply_ite (view F), ite_self,
    true_or, or_true,
    hfreeIx, hout, hrel]

theorem bucketRoll_view (s : State) (hrel : F .rel = true) : view F (bucketRoll s) = view F s := by
  simp only [bucketRoll, ↓view_mk, steady, and_self, true_or, or_true, hrel]

theorem powerOnBoot_view (s : State) (hfreeIx : F .freeIx = true) (hout : F .out = true) (hcores : F .cores = true)
    (hclusters : F .clusters = true) (hstores : F .stores = true) (htags : F .tags = true) (hparts : F .parts = true)
    (hfabric : F .fabric = true) (hwardrobe : F .wardrobe = true) (hrel : F .rel = true) (hsteady : F .steady = true)
    (hsec : F .sec = true)
    (hfuses : F .fuses = true) (hpwr : F .pwr = true) (hmregs : F .mregs = true) (hpattern : F .pattern = true)
    (hpart : ∀ q, F (.part q) = true) (hregs : ∀ q, F (.regs q) = true) (hvec : ∀ q, F (.vec q) = true)
    (hmem : ∀ q, F (.mem q) = true) (hhbm : ∀ q, F (.hbm q) = true) : view F (powerOnBoot s) = view F s := by
  simp only [powerOnBoot, ↓bootLoad_view, ↓view_mk, steady, ↓apply_ite (view F), true_or, or_true, and_self, hout, hsec, hfuses,
    hpwr, hpattern]
  split
  · rfl
  · split
    · rfl
    · split
      · simp only [↓bootLoad_view, ↓flashWrite_view, ↓inService_view, ↓view_mk, steady, true_or, or_true, implies_true,
        and_self, hfreeIx, hout, hparts, hfabric, hrel, hsteady, hsec, hfuses, hpwr, hmregs, hpattern, hpart, hvec]
      · simp only [↓bootLoad_view, ↓measureVin_view, ↓afterTests_view, ↓writeBist_view, ↓view_mk, steady, ↓apply_ite (view F),
        ite_self, true_or, or_true, implies_true, and_self, hfreeIx, hout, hcores, hclusters, hstores, htags, hparts,
        hfabric, hwardrobe, hrel, hsteady, hsec, hfuses, hpwr, hmregs, hpattern, hpart, hregs, hvec, hmem, hhbm]

theorem counterBump_view (s : State) (hsec : F .sec = true) (hfuses : F .fuses = true) :
    view F (counterBump s) = view F s := by
  unfold counterBump
  split
  · rfl
  · simp only [↓view_mk, true_or, or_true, and_self, hsec, hfuses]

theorem keysEnd_view (s : State) (status : Nat) (hmregs : F .mregs = true) : view F (keysEnd s status) = view F s := by
  simp only [keysEnd, ↓putMreg_view, hmregs]

theorem takeSlot_view (s : State) (i : Nat) (key : List Byte) (hsec : F .sec = true) (hfuses : F .fuses = true) :
    view F (takeSlot s i key) = view F s := by
  simp only [takeSlot, ↓view_mk, true_or, or_true, and_self, hsec, hfuses]

theorem enroll_view (s : State) (payload : List Byte) (hsec : F .sec = true) (hfuses : F .fuses = true)
    (hmregs : F .mregs = true) : view F (enroll s payload) = view F s := by
  simp only [enroll, ↓keysEnd_view, ↓takeSlot_view, ↓view_mk, ↓apply_ite (view F), ite_self, true_or, or_true, and_self,
    hsec, hfuses, hmregs]

theorem transfer_view (s : State) (payload : List Byte) (hfreeIx : F .freeIx = true) (hout : F .out = true)
    (hcores : F .cores = true) (hclusters : F .clusters = true) (hstores : F .stores = true) (htags : F .tags = true)
    (hparts : F .parts = true) (hfabric : F .fabric = true) (hwardrobe : F .wardrobe = true) (hrel : F .rel = true)
    (hsteady : F .steady = true)
    (hsec : F .sec = true) (hfuses : F .fuses = true) (hmregs : F .mregs = true) (hpart : ∀ q, F (.part q) = true)
    (hregs : ∀ q, F (.regs q) = true) (hvec : ∀ q, F (.vec q) = true) (hmem : ∀ q, F (.mem q) = true)
    (hhbm : ∀ q, F (.hbm q) = true) : view F (transfer s payload) = view F s := by
  simp only [transfer]
  split
  · simp only [↓keysEnd_view, hmregs]
  · simp only [↓keysEnd_view, ↓takeSlot_view, ↓beginDevReset_view, ↓view_mk, steady, ↓apply_ite (view F), ite_self, true_or,
    or_true, implies_true, and_self, hfreeIx, hout, hcores, hclusters, hstores, htags, hparts, hfabric, hwardrobe, hrel, hsteady,
    hsec, hfuses, hmregs, hpart, hregs, hvec, hmem, hhbm]

theorem holdPorts_view (s : State) (hfabric : F .fabric = true) (hmregs : F .mregs = true) :
    view F (holdPorts s) = view F s := by
  simp only [holdPorts, ↓onPort_view, ↓autoClear_view, ↓putMreg_view, ↓view_foldl, implies_true, hfabric, hmregs]

theorem unlock_view (s : State) (payload : List Byte) (hparts : F .parts = true) (hfabric : F .fabric = true)
    (hsec : F .sec = true) (hfuses : F .fuses = true) (hmregs : F .mregs = true) (hpart : ∀ q, F (.part q) = true) :
    view F (unlock s payload) = view F s := by
  have ended (t : State) (st : Nat) : view F (keysEnd t st) = view F t := keysEnd_view t st hmregs
  unfold unlock
  split
  · exact ended ..
  · split
    · exact ended ..
    · extract_lets s1 s2
      refine (ended ..).trans ((holdPorts_view _ hfabric hmregs).trans (Eq.trans ?_ (zeroise_view s hparts hsec hpart)))
      simp only [↓view_mk, true_or, or_true, and_self, hsec, hfuses, s1]

theorem keysCommand_view (s : State) (cmd klen : Nat) (hfreeIx : F .freeIx = true) (hout : F .out = true)
    (hcores : F .cores = true) (hclusters : F .clusters = true) (hstores : F .stores = true) (htags : F .tags = true)
    (hparts : F .parts = true) (hfabric : F .fabric = true) (hwardrobe : F .wardrobe = true) (hrel : F .rel = true)
    (hsteady : F .steady = true)
    (hsec : F .sec = true) (hfuses : F .fuses = true) (hmregs : F .mregs = true) (hpart : ∀ q, F (.part q) = true)
    (hregs : ∀ q, F (.regs q) = true) (hvec : ∀ q, F (.vec q) = true) (hmem : ∀ q, F (.mem q) = true)
    (hhbm : ∀ q, F (.hbm q) = true) : view F (keysCommand s cmd klen) = view F s := by
  simp only [keysCommand, ↓keysEnd_view, ↓enroll_view, ↓renewNonce_view, ↓transfer_view, ↓unlock_view, ↓apply_ite (view
    F), ite_self, implies_true, hfreeIx, hout, hcores, hclusters, hstores, htags, hparts, hfabric, hwardrobe, hrel, hsteady,
    hsec, hfuses, hmregs, hpart, hregs, hvec, hmem, hhbm]

theorem flashEnd_view (s : State) (status : Nat) (hmregs : F .mregs = true) :
    view F (flashEnd s status) = view F s := by
  simp only [flashEnd, ↓putMreg_view, hmregs]

theorem flashCommand_view (s : State) (erase : Bool) (hsec : F .sec = true) (hmregs : F .mregs = true) :
    view F (flashCommand s erase) = view F s := by
  simp only [flashCommand, ↓flashEnd_view, ↓view_mk, ↓apply_ite (view F), ite_self, true_or, or_true, fuses, and_self,
    hsec, hmregs]

theorem jkEnd_view (s : State) (p status : Nat) (hout : F .out = true) (hparts : F .parts = true)
    (hregs : F (.regs p) = true) (hvec : F (.vec p) = true) : view F (jkEnd s p status) = view F s := by
  simp only [jkEnd, ↓msix_view, ↓putReg_view, hout, hparts, hregs, hvec]

theorem jkTurn_view {s : State} {p i : Nat} {ok : JobKey → Bool} {t : State} (h : view F t = view F s)
    (hout : F .out = true) (hparts : F .parts = true) (hregs : F (.regs p) = true) (hvec : F (.vec p) = true) :
    view F (jkTurn s p i ok t) = view F s := by
  unfold jkTurn
  split
  · rfl
  · split
    · exact h
    · exact jkEnd_view _ _ _ hout hparts hregs hvec

theorem putJkey_view (s : State) (p i : Nat) (k : JobKey) (hparts : F .parts = true) (hpart : F (.part p) = true) :
    view F (putJkey s p i k) = view F s := by
  simp only [putJkey, ↓onPart_view_part, hparts, hpart]

theorem jkCreate_view (s : State) (p i : Nat) (job : JobId) (hfreeIx : F .freeIx = true) (hout : F .out = true)
    (hparts : F .parts = true) (hpart : F (.part p) = true) (hregs : F (.regs p) = true) (hvec : F (.vec p) = true) :
    view F (jkCreate s p i job) = view F s := by
  simp only [jkCreate, ↓jkTurn_view, ↓jkEnd_view, ↓putJkey_view, ↓spend_view, ↓apply_ite (view F), ite_self, hfreeIx,
    hout, hparts, hpart, hregs, hvec]

theorem jkRequest_view (s : State) (p i : Nat) (job : JobId) (hfreeIx : F .freeIx = true) (hout : F .out = true)
    (hcores : F .cores = true) (hstores : F .stores = true) (htags : F .tags = true) (hparts : F .parts = true)
    (hwardrobe : F .wardrobe = true) (hrel : F .rel = true) (hpart : F (.part p) = true) (hregs : F (.regs p) = true)
    (hvec : ∀ q, F (.vec q) = true) (hmem : F (.mem p) = true) (hhbm : F (.hbm p) = true) :
    view F (jkRequest s p i job) = view F s := by
  have ended (t : State) (st : Nat) : view F (jkEnd t p st) = view F t := jkEnd_view t p st hout hparts hregs (hvec p)
  refine jkTurn_view ?_ hout hparts hregs (hvec p)
  split
  · exact ended ..
  · dsimp only
    rw [ended, devWrite_view _ _ _ _ hfreeIx hout hcores hstores htags hparts hwardrobe hrel hregs hvec hmem hhbm,
      putJkey_view _ _ _ _ hparts hpart, spend_view _ _ hfreeIx]

theorem jkCert_view (s : State) (p : Nat) (hfreeIx : F .freeIx = true) (hout : F .out = true) (hparts : F .parts = true)
    (hwardrobe : F .wardrobe = true) (hrel : F .rel = true) (hregs : F (.regs p) = true) (hvec : ∀ q, F (.vec q) = true)
    (hhbm : F (.hbm p) = true) : view F (jkCert s p).2 = view F s := by
  simp only [jkCert, ↓devReadLE_view, ↓devRead_view, implies_true, hfreeIx, hout, hparts, hwardrobe, hrel, hregs, hvec,
    hhbm]

theorem jkIssue_view (s : State) (p i : Nat) (hfreeIx : F .freeIx = true) (hout : F .out = true)
    (hcores : F .cores = true) (hstores : F .stores = true) (htags : F .tags = true) (hparts : F .parts = true)
    (hwardrobe : F .wardrobe = true) (hrel : F .rel = true) (hpart : F (.part p) = true) (hregs : F (.regs p) = true)
    (hvec : ∀ q, F (.vec q) = true) (hmem : F (.mem p) = true) (hhbm : F (.hbm p) = true) :
    view F (jkIssue s p i) = view F s := by
  have ended (t : State) (st : Nat) : view F (jkEnd t p st) = view F t := jkEnd_view t p st hout hparts hregs (hvec p)
  refine jkTurn_view ?_ hout hparts hregs (hvec p)
  extract_lets k a r c s0 st
  have read : view F s0 = view F s :=
    (jkCert_view _ _ hfreeIx hout hparts hwardrobe hrel hregs hvec hhbm).trans
      (devRead_view _ _ _ _ hfreeIx hout hparts hwardrobe hrel hregs hvec hhbm)
  split
  · rw [ended, read]
  · refine view_ite (fun _ => ?_) fun _ => ?_
    · rw [ended, read]
    · dsimp only
      rw [ended, devWrite_view _ _ _ _ hfreeIx hout hcores hstores htags hparts hwardrobe hrel hregs hvec hmem hhbm,
        putJkey_view _ _ _ _ hparts hpart, spend_view _ _ hfreeIx, read]

theorem jkAccept_view (s : State) (p i : Nat) (hfreeIx : F .freeIx = true) (hout : F .out = true)
    (hparts : F .parts = true) (hwardrobe : F .wardrobe = true) (hrel : F .rel = true) (hpart : F (.part p) = true)
    (hregs : F (.regs p) = true) (hvec : ∀ q, F (.vec q) = true) (hhbm : F (.hbm p) = true) :
    view F (jkAccept s p i) = view F s := by
  simp only [jkAccept, ↓jkTurn_view, ↓devRead_view, ↓jkCert_view, ↓jkEnd_view, ↓putJkey_view, ↓apply_ite (view F),
    ite_self, implies_true, hfreeIx, hout, hparts, hwardrobe, hrel, hpart, hregs, hvec, hhbm]

theorem jkErase_view (s : State) (p i : Nat) (hout : F .out = true) (hparts : F .parts = true)
    (hpart : F (.part p) = true) (hregs : F (.regs p) = true) (hvec : F (.vec p) = true) :
    view F (jkErase s p i) = view F s := by
  simp only [jkErase, ↓jkTurn_view, ↓jkEnd_view, ↓putJkey_view, hout, hparts, hpart, hregs, hvec]

theorem doeReport_view (s : State) (p x1 kind : Nat) (nonce : List Byte) (hout : F .out = true) :
    view F (doeReport s p x1 kind nonce) = view F s := by
  simp only [doeReport, ↓apply_ite (view F)]
  split
  · rfl
  · split <;> simp only [↓emit_view, hout]

theorem spdm_view (s : State) (p x1 : Nat) (req : List Byte) (hout : F .out = true) :
    view F (spdm s p x1 req) = view F s := by
  simp only [spdm, ↓emit_view, ↓apply_ite (view F), ite_self, hout]

theorem ideKey_view (s : State) (x1 : Nat) (mem : Bool) (key : BitVec 256) (secured : Bool) (hsec : F .sec = true) :
    view F (ideKey s x1 mem key secured) = view F s := by
  simp only [ideKey, ↓view_mk, ↓apply_ite (view F), ite_self, true_or, or_true, fuses, and_self, hsec]

theorem takeFrame_view (s : State) (f : MgmtFrame) (hfabric : F .fabric = true) :
    view F (takeFrame s f) = view F s := by
  simp only [takeFrame]
  split
  · simp only [↓takeInbox_view, hfabric]
  · rfl

theorem countBadKind_view (s : State) (hfabric : F .fabric = true) : view F (countBadKind s) = view F s := by
  simp only [countBadKind, ↓view_mk, true_or, or_true, hfabric]

theorem mgmtAccept_view (s : State) (f : MgmtFrame) (hsec : F .sec = true) : view F (mgmtAccept s f) = view F s := by
  simp only [mgmtAccept, ↓view_mk, true_or, or_true, fuses, and_self, hsec]

theorem mgmtReply_view (s : State) (f : MgmtFrame) (mop status : Nat) (data : List Byte) (key : Option (BitVec 256))
    (hout : F .out = true) (hfabric : F .fabric = true) : view F (mgmtReply s f mop status data key) = view F s := by
  simp only [mgmtReply]
  split
  · simp only [↓emit_view, hout]
  · simp only [↓sendOn_view, hout, hfabric]

theorem authorised_view {s : State} {f : MgmtFrame} {mop : Nat} {free : Bool} {act : State → State}
    (keep : ∀ t, view F (act t) = view F t) (hout : F .out = true) (hfabric : F .fabric = true) (hsec : F .sec = true) :
    view F (authorised s f mop free act) = view F s := by
  unfold authorised
  split
  · exact keep s
  · split
    · exact (keep _).trans (mgmtAccept_view _ _ hsec)
    · exact mgmtReply_view _ _ _ _ _ _ hout hfabric

theorem reservedMop_view (s : State) (f : MgmtFrame) (mop : Nat) (hout : F .out = true) (hfabric : F .fabric = true)
    (hsec : F .sec = true) : view F (reservedMop s f mop) = view F s := by
  simp only [reservedMop, ↓authorised_view, ↓mgmtReply_view, implies_true, hout, hfabric, hsec]

theorem mgmtForward_view (s : State) (f : MgmtFrame) (hout : F .out = true) (hfabric : F .fabric = true) :
    view F (mgmtForward s f) = view F s := by
  simp only [mgmtForward, ↓sendOn_view, hout, hfabric]

theorem mgmtRequest_view {s : State} {f : MgmtFrame} {mop : Nat} {act : State → State}
    (keep : ∀ t, view F (act t) = view F t) (hout : F .out = true) (hfabric : F .fabric = true) (hsec : F .sec = true) :
    view F (mgmtRequest s f mop act) = view F s := by
  have taken := takeFrame_view s f hfabric
  unfold mgmtRequest
  dsimp only
  split
  · exact taken
  · split
    · exact (countBadKind_view _ hfabric).trans taken
    · split
      · exact (reservedMop_view _ _ _ hout hfabric hsec).trans taken
      · split
        · exact taken
        · split
          · exact (mgmtForward_view _ _ hout hfabric).trans taken
          · exact (keep _).trans taken

theorem mgmtRead_view (s : State) (f : MgmtFrame) (hfreeIx : F .freeIx = true) (hout : F .out = true)
    (hfabric : F .fabric = true) (hsec : F .sec = true) : view F (mgmtRead s f) = view F s := by
  simp only [mgmtRead, ↓authorised_view, ↓mgmtReply_view, ↓spend_view, ↓apply_ite (view F), ite_self, implies_true,
    hfreeIx, hout, hfabric, hsec]

theorem mgmtPlain_view (s : State) (a : Nat) (w : Word) (hmregs : F .mregs = true) :
    view F (mgmtPlain s a w) = view F s := by
  simp only [mgmtPlain, ↓setMreg_view, hmregs]

theorem rstWrite_view (s : State) (a : Nat) (w : Word) (hfreeIx : F .freeIx = true) (hout : F .out = true)
    (hcores : F .cores = true) (hclusters : F .clusters = true) (hstores : F .stores = true) (htags : F .tags = true)
    (hparts : F .parts = true) (hfabric : F .fabric = true) (hwardrobe : F .wardrobe = true) (hrel : F .rel = true)
    (hsteady : F .steady = true)
    (hsec : F .sec = true) (hpwr : F .pwr = true) (hmregs : F .mregs = true) (hpart : ∀ q, F (.part q) = true)
    (hregs : ∀ q, F (.regs q) = true) (hvec : ∀ q, F (.vec q) = true) (hmem : ∀ q, F (.mem q) = true)
    (hhbm : ∀ q, F (.hbm q) = true) : view F (rstWrite s a w) = view F s := by
  simp only [rstWrite, ↓setProbation_view, ↓bistRun_view, ↓apply_ite (view F), ite_self, implies_true, hfreeIx, hout,
    hparts, hrel, hsteady, hsec, hpwr, hmregs, hpart]
  split
  · split
    · simp only [↓fenceCmd_view, implies_true, hfreeIx, hout, hcores, hclusters, hstores, htags, hparts, hfabric,
      hwardrobe, hrel, hsteady, hmregs, hpart, hregs, hvec, hmem, hhbm]
    · simp only [↓fenceCmd_view, implies_true, hfreeIx, hout, hcores, hclusters, hstores, htags, hparts, hfabric,
      hwardrobe, hrel, hsteady, hmregs, hpart, hregs, hvec, hmem, hhbm]
    · rfl
  · split
    · rfl
    · split
      · split
        · simp only [↓presetCmd_view, implies_true, hfreeIx, hout, hcores, hclusters, hstores, htags, hparts, hfabric,
          hwardrobe, hrel, hsteady, hmregs, hpart, hregs, hvec, hmem, hhbm]
        · simp only [↓devResetCmd_view, implies_true, hfreeIx, hout, hcores, hclusters, hstores, htags, hparts, hfabric,
          hwardrobe, hrel, hsteady, hsec, hmregs, hpart, hregs, hvec, hmem, hhbm]
        · simp only [↓returnCmd_view, implies_true, hfreeIx, hout, hcores, hclusters, hstores, htags, hparts, hfabric,
          hwardrobe, hrel, hsteady, hsec, hmregs, hpart, hregs, hvec, hmem, hhbm]
        · rfl
      · rfl

theorem keysWrite_view (s : State) (a : Nat) (w : Word) (hfreeIx : F .freeIx = true) (hout : F .out = true)
    (hcores : F .cores = true) (hclusters : F .clusters = true) (hstores : F .stores = true) (htags : F .tags = true)
    (hparts : F .parts = true) (hfabric : F .fabric = true) (hwardrobe : F .wardrobe = true) (hrel : F .rel = true)
    (hsteady : F .steady = true)
    (hsec : F .sec = true) (hfuses : F .fuses = true) (hmregs : F .mregs = true) (hpart : ∀ q, F (.part q) = true)
    (hregs : ∀ q, F (.regs q) = true) (hvec : ∀ q, F (.vec q) = true) (hmem : ∀ q, F (.mem q) = true)
    (hhbm : ∀ q, F (.hbm q) = true) : view F (keysWrite s a w) = view F s := by
  simp only [keysWrite, ↓keysCommand_view, ↓view_mk, steady, ↓apply_ite (view F), ite_self, true_or, or_true, implies_true,
    and_self, hfreeIx, hout, hcores, hclusters, hstores, htags, hparts, hfabric, hwardrobe, hrel, hsteady, hsec, hfuses, hmregs,
    hpart, hregs, hvec, hmem, hhbm]
  split
  · rfl
  · split
    · rfl
    · split
      · split
        · simp only [↓mgmtPlain_view, ↓flashCommand_view, hsec, hmregs]
        · simp only [↓mgmtPlain_view, ↓flashCommand_view, hsec, hmregs]
        · simp only [↓mgmtPlain_view, hmregs]
      · rfl

theorem tableWrite_view (s : State) (o : Nat) (w : Word) (hfabric : F .fabric = true) :
    view F (tableWrite s o w) = view F s := by
  simp only [tableWrite, ↓setRoute_view, ↓view_mk, ↓apply_ite (view F), ite_self, true_or, or_true, hfabric]

theorem portWrite_view (s : State) (a : Nat) (w : Word) (hout : F .out = true) (hparts : F .parts = true)
    (hfabric : F .fabric = true) (hrel : F .rel = true) (hmregs : F .mregs = true) (hregs : ∀ q, F (.regs q) = true)
    (hvec : ∀ q, F (.vec q) = true) : view F (portWrite s a w) = view F s := by
  simp only [portWrite, ↓startRetrain_view, ↓rtSwap_view, ↓tableWrite_view, ↓mgmtPlain_view, ↓apply_ite (view F),
    ite_self, implies_true, hout, hparts, hfabric, hrel, hmregs, hregs, hvec]

theorem mgmtWrite_view (s : State) (a : Nat) (w : Word) (hfreeIx : F .freeIx = true) (hout : F .out = true)
    (hcores : F .cores = true) (hclusters : F .clusters = true) (hstores : F .stores = true) (htags : F .tags = true)
    (hparts : F .parts = true) (hfabric : F .fabric = true) (hwardrobe : F .wardrobe = true) (hrel : F .rel = true)
    (hsteady : F .steady = true)
    (hsec : F .sec = true) (hfuses : F .fuses = true) (hpwr : F .pwr = true) (hmregs : F .mregs = true)
    (hpart : ∀ q, F (.part q) = true) (hregs : ∀ q, F (.regs q) = true) (hvec : ∀ q, F (.vec q) = true)
    (hmem : ∀ q, F (.mem q) = true) (hhbm : ∀ q, F (.hbm q) = true) : view F (mgmtWrite s a w) = view F s := by
  simp only [mgmtWrite, ↓pmCommand_view, ↓mgmtPlain_view, ↓rstWrite_view, ↓keysWrite_view, ↓portWrite_view, ↓apply_ite
    (view F), ite_self, implies_true, hfreeIx, hout, hcores, hclusters, hstores, htags, hparts, hfabric, hwardrobe,
    hrel, hsteady, hsec, hfuses, hpwr, hmregs, hpart, hregs, hvec, hmem, hhbm]

theorem mgmtWriteReq_view (s : State) (f : MgmtFrame) (hfreeIx : F .freeIx = true) (hout : F .out = true)
    (hcores : F .cores = true) (hclusters : F .clusters = true) (hstores : F .stores = true) (htags : F .tags = true)
    (hparts : F .parts = true) (hfabric : F .fabric = true) (hwardrobe : F .wardrobe = true) (hrel : F .rel = true)
    (hsteady : F .steady = true)
    (hsec : F .sec = true) (hfuses : F .fuses = true) (hpwr : F .pwr = true) (hmregs : F .mregs = true)
    (hpart : ∀ q, F (.part q) = true) (hregs : ∀ q, F (.regs q) = true) (hvec : ∀ q, F (.vec q) = true)
    (hmem : ∀ q, F (.mem q) = true) (hhbm : ∀ q, F (.hbm q) = true) : view F (mgmtWriteReq s f) = view F s := by
  have replied (t : State) (st : Nat) (key : Option (BitVec 256)) :
      view F (mgmtReply t f Mop.write st [] key) = view F t := mgmtReply_view t f _ st [] key hout hfabric
  refine authorised_view (fun t => ?_) hout hfabric hsec
  dsimp only
  refine view_ite (fun _ => replied ..) fun _ => view_ite (fun _ => replied ..) fun _ => view_ite (fun _ => replied ..)
    fun _ => (replied ..).trans (view_foldl _ _ fun u e => ?_)
  exact mgmtWrite_view _ _ _ hfreeIx hout hcores hclusters hstores htags hparts hfabric hwardrobe hrel hsteady hsec hfuses hpwr
    hmregs hpart hregs hvec hmem hhbm

theorem mgmtReport_view (s : State) (f : MgmtFrame) (hout : F .out = true) (hfabric : F .fabric = true) :
    view F (mgmtReport s f) = view F s := by
  simp only [mgmtReport]
  split <;> simp only [↓mgmtReply_view, hout, hfabric]

theorem mgmtSession_view (s : State) (f : MgmtFrame) (hfreeIx : F .freeIx = true) (hout : F .out = true)
    (hfabric : F .fabric = true) (hsec : F .sec = true) : view F (mgmtSession s f) = view F s := by
  simp only [mgmtSession]
  split
  · simp only [↓mgmtReply_view, hout, hfabric]
  · simp only [↓mgmtReply_view, ↓renewNonce_view, ↓spend_view, ↓view_mk, ↓apply_ite (view F), ite_self, true_or,
    or_true, fuses, and_self, hfreeIx, hout, hfabric, hsec]

theorem bar0Plain_view (s : State) (p off : Nat) (w : Word) (hparts : F .parts = true) (hregs : F (.regs p) = true) :
    view F (bar0Plain s p off w) = view F s := by
  simp only [bar0Plain, ↓onPart_view, ↓Partition_setReg_view, hparts, hregs]

theorem pctlWrite_view (s : State) (p off : Nat) (w : Word) (hclusters : F .clusters = true) (hparts : F .parts = true)
    (hfabric : F .fabric = true) (hpwr : F .pwr = true) (hpart : F (.part p) = true) (hregs : F (.regs p) = true) :
    view F (pctlWrite s p off w) = view F s := by
  simp only [pctlWrite, ↓latTolWrite_view, ↓bar0Plain_view, ↓sperWritten_view, ↓seamRequest_view, ↓apply_ite (view F),
    ite_self, hclusters, hparts, hfabric, hpwr, hpart, hregs]

theorem bar0When_view (ok : Bool) (s : State) (p off : Nat) (w : Word) (hparts : F .parts = true)
    (hregs : F (.regs p) = true) : view F (bar0When ok s p off w) = view F s := by
  simp only [bar0When, ↓bar0Plain_view, ↓apply_ite (view F), ite_self, hparts, hregs]

theorem ctxWrite_view (s : State) (p off : Nat) (w : Word) (hparts : F .parts = true) (hregs : F (.regs p) = true) :
    view F (ctxWrite s p off w) = view F s := by
  simp only [ctxWrite, ↓bar0When_view, hparts, hregs]

theorem dbellWrite_view (s : State) (p off : Nat) (w : Word) (hfreeIx : F .freeIx = true) (hout : F .out = true)
    (hcores : F .cores = true) (hclusters : F .clusters = true) (hparts : F .parts = true) (hrel : F .rel = true)
    (hpart : F (.part p) = true) (hregs : F (.regs p) = true) (hvec : F (.vec p) = true) :
    view F (dbellWrite s p off w) = view F s := by
  simp only [dbellWrite]
  split
  · simp only [↓cxDoorbell_view, hout, hcores, hclusters, hparts, hrel, hpart, hregs, hvec]
  · simp only [↓ringDoorbell_view, hfreeIx, hout, hcores, hclusters, hparts, hpart, hregs, hvec]
  · rfl

theorem rmstWrite_view (s : State) (p off : Nat) (w : Word) (hout : F .out = true) (hparts : F .parts = true)
    (hpart : F (.part p) = true) (hregs : F (.regs p) = true) (hvec : F (.vec p) = true) :
    view F (rmstWrite s p off w) = view F s := by
  simp only [rmstWrite, ↓rmDisable_view, ↓rmEnable_view, ↓bar0Plain_view, ↓bar0When_view, ↓apply_ite (view F), ite_self,
    hout, hparts, hpart, hregs, hvec]

theorem tlrWrite_view (s : State) (p off : Nat) (w : Word) (hfreeIx : F .freeIx = true) (hout : F .out = true)
    (hcores : F .cores = true) (hstores : F .stores = true) (htags : F .tags = true) (hparts : F .parts = true)
    (hfabric : F .fabric = true) (hwardrobe : F .wardrobe = true) (hrel : F .rel = true) (hmregs : F .mregs = true)
    (hpart : F (.part p) = true) (hregs : ∀ q, F (.regs q) = true) (hvec : ∀ q, F (.vec q) = true)
    (hmem : ∀ q, F (.mem q) = true)
    (hhbm : ∀ q, F (.hbm q) = true) : view F (tlrWrite s p off w) = view F s := by
  have plain (ok : Bool) : view F (bar0When ok s p off w) = view F s := bar0When_view _ _ _ _ _ hparts (hregs p)
  have drained (i : Nat) : view F (layoutDrain (bar0Plain s p off w) p i) = view F s := by
    rw [layoutDrain_view _ _ _ hout hparts (hregs p) (hvec p), bar0Plain_view _ _ _ _ hparts (hregs p)]
  have released (c : Bool) (i : Nat) : view F (when_ c s (layoutRelease s p i)) = view F s :=
    when_view (layoutRelease_view _ _ _ hout hparts hpart (hregs p) (hvec p))
  unfold tlrWrite
  extract_lets x live free
  split
  · exact plain _
  · exact when_view (putReg_view _ _ _ _ _ _ hparts (hregs p))
  · exact when_view (onPart_view_part _ _ _ hparts hpart)
  · exact released _ 0
  · exact released _ 1
  · exact drained 0
  · exact drained 1
  · refine view_ite (fun _ => ?_) fun _ => view_ite (fun _ => ?_) fun _ => rfl
    · exact planSubmit_view _ _ hfreeIx hout hcores hstores htags hparts hfabric hwardrobe hrel hmregs hpart
        hregs hvec hmem hhbm
    · exact planAbort_view _ _ hout hparts hfabric hpart (hregs p) (hvec p)
  · exact plain _
  · exact plain _
  · exact plain _
  · exact plain _
  · exact when_view (putReg_view _ _ _ _ _ _ hparts (hregs p))
  · exact plain _
  · exact plain _
  · exact bar0Plain_view _ _ _ _ hparts (hregs p)

theorem pktWrite_view (s : State) (p off : Nat) (w : Word) (hparts : F .parts = true) (hregs : F (.regs p) = true) :
    view F (pktWrite s p off w) = view F s := by
  simp only [pktWrite, ↓bar0Plain_view, ↓putReg_view, ↓apply_ite (view F), ite_self, hparts, hregs]

theorem jkCommand_view (s : State) (p cmd : Nat) (hfreeIx : F .freeIx = true) (hout : F .out = true)
    (hcores : F .cores = true) (hstores : F .stores = true) (htags : F .tags = true) (hparts : F .parts = true)
    (hwardrobe : F .wardrobe = true) (hrel : F .rel = true) (hpart : F (.part p) = true) (hregs : F (.regs p) = true)
    (hvec : ∀ q, F (.vec q) = true) (hmem : F (.mem p) = true) (hhbm : F (.hbm p) = true) :
    view F (jkCommand s p cmd) = view F s := by
  simp only [jkCommand]
  split
  · simp only [↓jkCreate_view, hfreeIx, hout, hparts, hpart, hregs, hvec]
  · simp only [↓jkRequest_view, implies_true, hfreeIx, hout, hcores, hstores, htags, hparts, hwardrobe, hrel, hpart,
    hregs, hvec, hmem, hhbm]
  · simp only [↓jkIssue_view, implies_true, hfreeIx, hout, hcores, hstores, htags, hparts, hwardrobe, hrel, hpart,
    hregs, hvec, hmem, hhbm]
  · simp only [↓jkAccept_view, implies_true, hfreeIx, hout, hparts, hwardrobe, hrel, hpart, hregs, hvec, hhbm]
  · simp only [↓jkErase_view, hout, hparts, hpart, hregs, hvec]
  · rfl

theorem gntWrite_view (s : State) (p off : Nat) (w : Word) (hfreeIx : F .freeIx = true) (hout : F .out = true)
    (hparts : F .parts = true) (hwardrobe : F .wardrobe = true) (hrel : F .rel = true) (hpart : F (.part p) = true)
    (hregs : F (.regs p) = true) (hvec : ∀ q, F (.vec q) = true) (hhbm : F (.hbm p) = true) :
    view F (gntWrite s p off w) = view F s := by
  simp only [gntWrite, ↓bar0When_view, ↓apply_ite (view F), hparts, hregs]
  split
  · split
    · simp only [↓grantCreate_view, implies_true, hfreeIx, hout, hparts, hwardrobe, hrel, hpart, hregs, hvec, hhbm]
    · simp only [↓grantRevoke_view, hout, hparts, hregs, hvec]
    · rfl
  · rfl

theorem svWrite_view (s : State) (p off : Nat) (w : Word) (hparts : F .parts = true) (hregs : F (.regs p) = true) :
    view F (svWrite s p off w) = view F s := by
  simp only [svWrite, ↓bar0Plain_view, ↓apply_ite (view F), hparts, hregs]
  split
  · rfl
  · split
    · rfl
    · rfl
    · simp only [↓putReg_view, hparts, hregs]
    · simp only [↓bar0Plain_view, hparts, hregs]

theorem nyzWrite_view (s : State) (p off : Nat) (w : Word) (hfreeIx : F .freeIx = true) (hout : F .out = true)
    (hcores : F .cores = true) (hstores : F .stores = true) (htags : F .tags = true) (hparts : F .parts = true)
    (hwardrobe : F .wardrobe = true) (hrel : F .rel = true) (hpart : F (.part p) = true) (hregs : F (.regs p) = true)
    (hvec : ∀ q, F (.vec q) = true) (hmem : F (.mem p) = true) (hhbm : F (.hbm p) = true) :
    view F (nyzWrite s p off w) = view F s := by
  simp only [nyzWrite, ↓bar0Plain_view, ↓jkCommand_view, ↓gntWrite_view, ↓svWrite_view, ↓apply_ite (view F), ite_self,
    implies_true, hfreeIx, hout, hcores, hstores, htags, hparts, hwardrobe, hrel, hpart, hregs, hvec, hmem, hhbm]
  split
  · split
    · simp only [↓bar0Plain_view, ↓groupLoad_view, implies_true, hfreeIx, hout, hparts, hwardrobe, hrel, hpart, hregs,
      hvec, hhbm]
    · simp only [↓bar0Plain_view, ↓groupClear_view, hout, hparts, hpart, hregs, hvec]
    · simp only [↓bar0Plain_view, hparts, hregs]
  · rfl

theorem migWrite_view (s : State) (p off : Nat) (w : Word) (hparts : F .parts = true) (hregs : F (.regs p) = true) :
    view F (migWrite s p off w) = view F s := by
  simp only [migWrite, ↓bar0When_view, hparts, hregs]

theorem bar0Write_view (s : State) (p off : Nat) (w : Word) (hfreeIx : F .freeIx = true) (hout : F .out = true)
    (hcores : F .cores = true) (hclusters : F .clusters = true) (hstores : F .stores = true) (htags : F .tags = true)
    (hparts : F .parts = true) (hfabric : F .fabric = true) (hwardrobe : F .wardrobe = true) (hrel : F .rel = true)
    (hpwr : F .pwr = true) (hmregs : F .mregs = true) (hpart : F (.part p) = true) (hregs : ∀ q, F (.regs q) = true)
    (hvec : ∀ q, F (.vec q) = true) (hmem : ∀ q, F (.mem q) = true) (hhbm : ∀ q, F (.hbm q) = true) :
    view F (bar0Write s p off w) = view F s := by
  simp only [bar0Write, ↓pctlWrite_view, ↓ctxWrite_view, ↓dbellWrite_view, ↓rmstWrite_view, ↓tlrWrite_view,
    ↓pktWrite_view, ↓nyzWrite_view, ↓migWrite_view, ↓bar0Plain_view, ↓apply_ite (view F), ite_self, implies_true,
    hfreeIx, hout, hcores, hclusters, hstores, htags, hparts, hfabric, hwardrobe, hrel, hpwr, hmregs, hpart, hregs,
    hvec, hmem, hhbm]

theorem registerWrite_view (s : State) (sp : RegSpace) (off len : Nat) (val : Word) (hfreeIx : F .freeIx = true)
    (hout : F .out = true) (hcores : F .cores = true) (hclusters : F .clusters = true) (hstores : F .stores = true)
    (htags : F .tags = true) (hparts : F .parts = true) (hfabric : F .fabric = true) (hwardrobe : F .wardrobe = true)
    (hrel : F .rel = true)
    (hsteady : F .steady = true) (hsec : F .sec = true) (hfuses : F .fuses = true) (hpwr : F .pwr = true)
    (hmregs : F .mregs = true) (hpart : ∀ q, F (.part q) = true) (hregs : ∀ q, F (.regs q) = true)
    (hvec : ∀ q, F (.vec q) = true) (hmem : ∀ q, F (.mem q) = true) (hhbm : ∀ q, F (.hbm q) = true) :
    view F (registerWrite s sp off len val) = view F s := by
  simp only [registerWrite, ↓apply_ite (view F)]
  split
  · rfl
  · split
    · simp only [↓bar0Write_view, implies_true, hfreeIx, hout, hcores, hclusters, hstores, htags, hparts, hfabric,
      hwardrobe, hrel, hsteady, hpwr, hmregs, hpart, hregs, hvec, hmem, hhbm]
    · simp only [↓mgmtWrite_view, implies_true, hfreeIx, hout, hcores, hclusters, hstores, htags, hparts, hfabric,
      hwardrobe, hrel, hsteady, hsec, hfuses, hpwr, hmregs, hpart, hregs, hvec, hmem, hhbm]

theorem railsStart_view (s : State) (hpwr : F .pwr = true) : view F (railsStart s) = view F s := by
  simp only [railsStart, ↓view_mk, ↓apply_ite (view F), ite_self, true_or, or_true, hpwr]

theorem pwrEnAssert_view (s : State) (hpwr : F .pwr = true) : view F (pwrEnAssert s) = view F s := by
  simp only [pwrEnAssert, ↓railsStart_view, ↓view_mk, ↓apply_ite (view F), ite_self, true_or, or_true, hpwr]

theorem latchesReleased_view (s : State) (hpwr : F .pwr = true) : view F (latchesReleased s) = view F s := by
  simp only [latchesReleased, ↓view_mk, true_or, or_true, hpwr]

theorem railsOff_view (s : State) (orderly : Bool) (hfreeIx : F .freeIx = true) (hdieCtr : F .dieCtr = true)
    (hosc : F .osc = true) (hcores : F .cores = true) (hclusters : F .clusters = true) (hstores : F .stores = true)
    (htags : F .tags = true) (hparts : F .parts = true) (hfabric : F .fabric = true) (hwardrobe : F .wardrobe = true)
    (hrel : F .rel = true)
    (hsteady : F .steady = true) (hsec : F .sec = true) (hpwr : F .pwr = true) (hmregs : F .mregs = true)
    (hpattern : F .pattern = true) (htap : F .tap = true) (hpart : ∀ q, F (.part q) = true) :
    view F (railsOff s orderly) = view F s := by
  simp only [railsOff]
  refine Eq.trans ?_ (stopFlash_view s hfreeIx hsec)
  simp only [↓view_mk_parts, steady, fuses, and_self, true_or, or_true, implies_true, hdieCtr, hosc, hcores, hclusters,
    hstores, htags, hparts, hfabric, hwardrobe, hrel, hsteady, hsec, hpwr, hmregs, hpattern, htap, hpart]

theorem pwrEnDeassert_view (s : State) (hfreeIx : F .freeIx = true) (hdieCtr : F .dieCtr = true) (hosc : F .osc = true)
    (hcores : F .cores = true) (hclusters : F .clusters = true) (hstores : F .stores = true) (htags : F .tags = true)
    (hparts : F .parts = true) (hfabric : F .fabric = true) (hwardrobe : F .wardrobe = true) (hrel : F .rel = true)
    (hsteady : F .steady = true)
    (hsec : F .sec = true) (hpwr : F .pwr = true) (hmregs : F .mregs = true) (hpattern : F .pattern = true)
    (htap : F .tap = true) (hpart : ∀ q, F (.part q) = true) : view F (pwrEnDeassert s) = view F s := by
  simp only [pwrEnDeassert, ↓latchesReleased_view, ↓railsOff_view, ↓view_mk, steady, and_self, ↓apply_ite (view F),
    ite_self, true_or,
    or_true, implies_true, hfreeIx, hdieCtr, hosc, hcores, hclusters, hstores, htags, hparts, hfabric, hwardrobe, hrel, hsteady,
    hsec, hpwr, hmregs, hpattern, htap, hpart]

theorem latchedStop_view (s : State) (trip : Bool) (hfreeIx : F .freeIx = true) (hdieCtr : F .dieCtr = true)
    (hosc : F .osc = true) (hcores : F .cores = true) (hclusters : F .clusters = true) (hstores : F .stores = true)
    (htags : F .tags = true) (hparts : F .parts = true) (hfabric : F .fabric = true) (hwardrobe : F .wardrobe = true)
    (hrel : F .rel = true)
    (hsteady : F .steady = true) (hsec : F .sec = true) (hpwr : F .pwr = true) (hmregs : F .mregs = true)
    (hpattern : F .pattern = true) (htap : F .tap = true) (hpart : ∀ q, F (.part q) = true) :
    view F (latchedStop s trip) = view F s := by
  simp only [latchedStop, ↓railsOff_view, ↓view_mk, steady, and_self, ↓apply_ite (view F), ite_self, true_or, or_true,
    implies_true,
    hfreeIx, hdieCtr, hosc, hcores, hclusters, hstores, htags, hparts, hfabric, hwardrobe, hrel, hsteady, hsec, hpwr, hmregs,
    hpattern, htap, hpart]

theorem resetNAssert_view (s : State) (ns : Nat) (hfreeIx : F .freeIx = true) (hout : F .out = true)
    (hcores : F .cores = true) (hclusters : F .clusters = true) (hstores : F .stores = true) (htags : F .tags = true)
    (hparts : F .parts = true) (hfabric : F .fabric = true) (hwardrobe : F .wardrobe = true) (hrel : F .rel = true)
    (hsteady : F .steady = true)
    (hsec : F .sec = true) (hpwr : F .pwr = true) (hmregs : F .mregs = true) (hpart : ∀ q, F (.part q) = true)
    (hregs : ∀ q, F (.regs q) = true) (hvec : ∀ q, F (.vec q) = true) (hmem : ∀ q, F (.mem q) = true)
    (hhbm : ∀ q, F (.hbm q) = true) : view F (resetNAssert s ns) = view F s := by
  simp only [resetNAssert, ↓beginDevReset_view, ↓zeroise_view, ↓spend_view, ↓view_mk, steady, and_self,
    ↓apply_ite (view F), ite_self,
    true_or, or_true, implies_true, hfreeIx, hout, hcores, hclusters, hstores, htags, hparts, hfabric, hwardrobe, hrel, hsteady,
    hsec, hpwr, hmregs, hpart, hregs, hvec, hmem, hhbm]

theorem thermal_view (s : State) (tmax : BitVec 16) (hout : F .out = true) (hpwr : F .pwr = true) :
    view F (thermal s tmax) = view F s := by
  simp only [thermal, ↓emit_view, ↓view_mk, ↓apply_ite (view F), ite_self, true_or, or_true, hout, hpwr]

theorem assignAddr_view (s : State) (addr : BitVec 7) (hpwr : F .pwr = true) :
    view F (assignAddr s addr) = view F s := by
  simp only [assignAddr, ↓view_mk, ↓apply_ite (view F), ite_self, true_or, or_true, hpwr]

theorem engineBack_view (s : State) (e : EngineId) (hout : F .out = true) (hrel : F .rel = true) :
    view F (engineBack s e) = view F s := by
  simp only [engineBack, ↓engineEvent_view, ↓view_mk, steady, and_self, ↓apply_ite (view F), ite_self, true_or, or_true,
    hout, hrel]

theorem hostTrained_view (s : State) (x1 width rate : Nat) (lds : BitVec 16) (hparts : F .parts = true)
    (hmregs : F .mregs = true) (hpart : ∀ q, F (.part q) = true) :
    view F (hostTrained s x1 width rate lds) = view F s := by
  simp only [hostTrained, ↓putMreg_view, ↓onPart_view_part, ↓view_foldl, ↓apply_ite (view F), ite_self, implies_true,
    hparts, hmregs, hpart]

theorem flashComplete_view (s : State) (hsec : F .sec = true) (hmregs : F .mregs = true) :
    view F (flashComplete s) = view F s := by
  simp only [flashComplete]
  split
  · rfl
  · simp only [↓flashEnd_view, ↓flashErase_view, ↓flashWrite_view, ↓view_mk, ↓apply_ite (view F), ite_self, true_or,
    or_true, fuses, and_self, hsec, hmregs]

theorem panelRelease_view (s : State) (q : Nat) (hfreeIx : F .freeIx = true) (hstores : F .stores = true)
    (htags : F .tags = true) (hparts : F .parts = true) (hrel : F .rel = true) (hsteady : F .steady = true) (hmem : ∀ q,
    F (.mem q) = true)
    (hhbm : ∀ q, F (.hbm q) = true) : view F (panelRelease s q) = view F s := by
  simp only [panelRelease, ↓apply_ite (view F)]
  split
  · rfl
  · split
    · simp only [↓scrubStores_view, ↓view_mk, steady, and_self, true_or, or_true, hstores, htags, hrel, hsteady]
    · simp only [↓scrubStores_view, ↓poisonedTile_view, ↓view_mk, steady, and_self, ↓view_foldl, true_or, or_true,
        implies_true, hfreeIx,
      hstores, htags, hparts, hrel, hsteady, hmem, hhbm]

end Sys2Proof.Proofs
end

section
/-! What every step keeps: the queue behind the command that acts, and what is blown. -/

namespace Sys2Proof.Proofs
open Sys2Proof.Machine Sys2Proof.Laws Sys2Proof.Safety

/-! ### What is one-time programmable only gains (R370, R371, R389) -/

/-- Used owner slots stay used, with their digest; none is un-revoked, no pattern counter falls. -/
def OwnersKept (m n : Sparse OwnerSlot) : Prop :=
  ∀ k, (sget .blank m k).used = true → (sget .blank n k).used = true ∧ (sget .blank n k).digest =
    (sget .blank m k).digest ∧
    ((sget .blank m k).revoked = true → (sget .blank n k).revoked = true) ∧ (sget .blank m k).psvc ≤
    (sget .blank n k).psvc

theorem OwnersKept.refl (m : Sparse OwnerSlot) : OwnersKept m m := fun _ h => ⟨h, rfl, id, le_rfl⟩

theorem OwnersKept.trans {l m n : Sparse OwnerSlot} (h : OwnersKept l m) (h' : OwnersKept m n) : OwnersKept l n := by
  intro k hk
  obtain ⟨used, digest, revoked, psvc⟩ := h k hk
  obtain ⟨used', digest', revoked', psvc'⟩ := h' k used
  exact ⟨used', digest'.trans digest, revoked' ∘ revoked, psvc.trans psvc'⟩

theorem ownersKept_sset (m : Sparse OwnerSlot) (i : Nat) (o : OwnerSlot)
    (h : (sget .blank m i).used = true → o.used = true ∧ o.digest = (sget .blank m i).digest ∧
      ((sget .blank m i).revoked = true → o.revoked = true) ∧ (sget .blank m i).psvc ≤ o.psvc) :
    OwnersKept m (sset .blank m i o) := by
  intro k hk
  by_cases hki : k = i
  · subst hki
    rw [sget_sset]
    exact h hk
  · rw [sget_sset_ne _ _ _ _ _ _ hki]
    exact ⟨hk, rfl, id, le_rfl⟩

theorem ownersKept_revoke (m : Sparse OwnerSlot) (i : Nat) :
    OwnersKept m (smod .blank m i fun o => { o with revoked := true }) :=
  ownersKept_sset m i _ fun hu => ⟨hu, rfl, fun _ => rfl, le_rfl⟩

/-- What a command keeps: the queue, and what is one-time programmable but for what it blows. -/
structure Kept (s t : State) : Prop where
  pending : t.pending = s.pending
  owners : OwnersKept s.sec.owners t.sec.owners
  image : s.sec.revokedImg &&& t.sec.revokedImg = s.sec.revokedImg
  counter : s.sec.isvc ≤ t.sec.isvc
  jtag : s.sec.jtag ≤ 16 → s.sec.jtag ≤ t.sec.jtag ∧ t.sec.jtag ≤ 16

theorem Kept.refl (s : State) : Kept s s := ⟨rfl, .refl _, BitVec.and_self, le_rfl, fun h => ⟨le_rfl, h⟩⟩

theorem Kept.trans {s t u : State} (h : Kept s t) (h' : Kept t u) : Kept s u where
  pending := h'.pending.trans h.pending
  owners := h.owners.trans h'.owners
  image := by
    have hi := h.image
    have hi' := h'.image
    rw [← hi, BitVec.and_assoc, hi']
  counter := h.counter.trans h'.counter
  jtag hj := by
    obtain ⟨hle, h16⟩ := h.jtag hj
    obtain ⟨hle', h16'⟩ := h'.jtag h16
    exact ⟨hle.trans hle', h16'⟩

/-- Any field may change but what is one-time programmable. -/
@[reducible] def notFuses : Field → Bool
  | .fuses => false
  | .freeIx | .out | .dieCtr | .osc | .cores | .clusters | .stores | .tags | .parts | .fabric | .wardrobe | .rel | .steady |
    .sec | .pwr
  | .mregs | .pattern | .tap | .part _ | .regs _ | .vec _ | .mem _ | .hbm _ => true

theorem kept_of_view {s t : State} (h : view notFuses t = view notFuses s) : Kept s t := by
  have hf := fuses_of_view h rfl
  simp only [fuses, Prod.mk.injEq] at hf
  obtain ⟨ho, hr, hi, hj⟩ := hf
  exact ⟨pending_of_view h, ho ▸ .refl _, by rw [hr, BitVec.and_self], hi.ge, fun h => ⟨hj.ge, hj.le.trans h⟩⟩

theorem kept_ite {c : Prop} [Decidable c] {s a b : State} (ha : c → Kept s a) (hb : ¬c → Kept s b) :
    Kept s (if c then a else b) := by
  split
  next h => exact ha h
  next h => exact hb h

theorem kept_foldl {α : Type} {f : State → α → State} (l : List α) (s : State) (h : ∀ t e, Kept t (f t e)) :
    Kept s (l.foldl f s) :=
  List.foldlRecOn (motive := Kept s) _ _ (.refl s) fun t ht e _ => ht.trans (h t e)

/-! ### What is blown, and by what -/

theorem revokeLower_kept (s : State) : Kept s (revokeLower s) := by
  unfold revokeLower
  split
  · exact .refl s
  · refine ⟨rfl, ?_, BitVec.and_self, le_rfl, fun h => ⟨le_rfl, h⟩⟩
    exact List.foldlRecOn (motive := OwnersKept s.sec.owners) _ _ (.refl _) fun m hm i _ => hm.trans
      (ownersKept_revoke m i)

theorem counterBump_kept (s : State) : Kept s (counterBump s) := by
  unfold counterBump
  split
  · exact .refl s
  · refine ⟨rfl, ?_, ?_, ?_, fun h => ⟨le_rfl, h⟩⟩
    · dsimp only
      split
      · split
        · exact ownersKept_sset _ _ _ fun hu => ⟨hu, rfl, id, le_max_left _ _⟩
        · exact .refl _
      · exact .refl _
    · dsimp only
      split
      · ext i
        simp only [BitVec.getElem_and, BitVec.getElem_or, Bool.and_or_distrib_left, Bool.and_self,
          Bool.or_eq_left_iff_imp,
          Bool.and_eq_true]
        exact fun h => h.1
      · exact BitVec.and_self
    · dsimp only
      split
      · exact le_max_left _ _
      · exact le_rfl

theorem takeSlot_kept (s : State) (i : Nat) (key : List Byte) (h : (sget .blank s.sec.owners i).used = false) :
    Kept s (takeSlot s i key) := by
  refine ⟨rfl, ownersKept_sset _ _ _ fun hu => ?_, BitVec.and_self, le_rfl, fun h => ⟨le_rfl, h⟩⟩
  rw [h] at hu
  cases hu

/-- The owner slots above the current one are not used. -/
theorem unused_of_ownerIx {s : State} {i k : Nat} (h : ownerIx s = some i) (hk : i < k) (h3 : k ≤ 3) :
    (sget .blank s.sec.owners k).used = false := by
  have hm := List.mem_of_find?_eq_some h
  simp only [List.mem_cons, List.not_mem_nil, or_false] at hm
  unfold ownerIx at h
  by_contra hu
  have hk' : k = 1 ∨ k = 2 ∨ k = 3 := by omega
  rcases hk' with rfl | rfl | rfl <;> grind

theorem unused_of_noOwner {s : State} (h : (ownerIx s).isSome = false) : (sget .blank s.sec.owners 0).used = false := by
  unfold ownerIx at h
  grind

theorem ownerIx_le {s : State} {i : Nat} (h : ownerIx s = some i) : i ≤ 3 := by
  have hm := List.mem_of_find?_eq_some h
  simp only [List.mem_cons, List.not_mem_nil, or_false] at hm
  omega

theorem keysEnd_kept (s : State) (st : Nat) : Kept s (keysEnd s st) := kept_of_view (keysEnd_view _ _ rfl)

theorem enroll_kept (s : State) (payload : List Byte) : Kept s (enroll s payload) := by
  unfold enroll
  split
  · exact keysEnd_kept ..
  next hn =>
    split
    · exact keysEnd_kept ..
    · refine (takeSlot_kept s 0 payload (unused_of_noOwner (by simpa using hn))).trans (kept_of_view ?_)
      rw [keysEnd_view _ _ rfl]
      simp only [↓view_mk, fuses, and_self, true_or, or_true, notFuses]

theorem transfer_kept (s : State) (payload : List Byte) : Kept s (transfer s payload) := by
  unfold transfer
  split
  · exact keysEnd_kept ..
  next i hi =>
    refine kept_ite (fun _ => keysEnd_kept ..) fun _ => kept_ite (fun _ => keysEnd_kept ..) fun hl => ?_
    have hle := ownerIx_le hi
    have h3 : i ≠ 3 := fun h => hl (.inl h)
    have taken : Kept s (takeSlot s (i + 1) payload) :=
      takeSlot_kept s _ _ (unused_of_ownerIx hi (Nat.lt_succ_self i) (by omega))
    have revoked (t : State) : Kept t { t with sec := { t.sec with
        owners := smod .blank t.sec.owners i fun o => { o with revoked := true } } } :=
          ⟨rfl, ownersKept_revoke _ _, BitVec.and_self, le_rfl, fun h => ⟨le_rfl, h⟩⟩
    refine (taken.trans (revoked _)).trans (kept_of_view ?_)
    simp only [beginDevReset_view, keysEnd_view, notFuses, implies_true]

theorem unlock_kept (s : State) (payload : List Byte) : Kept s (unlock s payload) := by
  unfold unlock
  have zeroed : Kept s (zeroise s) := kept_of_view (zeroise_view _ rfl rfl fun _ => rfl)
  have counted (t : State) (hj : t.sec.jtag = s.sec.jtag) :
      Kept t { t with sec := { t.sec with jtag := min 16 (s.sec.jtag + 1), unlocked := true, pst := 4 } } :=
    ⟨rfl, .refl _, BitVec.and_self, le_rfl, fun h => ⟨hj ▸ le_min h (Nat.le_succ _), min_le_left _ _⟩⟩
  refine kept_ite (fun _ => keysEnd_kept ..) fun _ => kept_ite (fun _ => keysEnd_kept ..) fun _ => ?_
  exact ((zeroed.trans (counted _ rfl)).trans (kept_of_view (holdPorts_view _ rfl rfl))).trans (keysEnd_kept ..)

theorem renewNonce_kept (s : State) : Kept s (renewNonce s) := kept_of_view (renewNonce_view _ rfl rfl)

theorem keysCommand_kept (s : State) (cmd klen : Nat) : Kept s (keysCommand s cmd klen) := by
  unfold keysCommand
  refine kept_ite (fun _ => .refl s) fun _ => kept_ite (fun _ => keysEnd_kept ..) fun _ =>
    kept_ite (fun _ => enroll_kept ..) fun _ => Kept.trans ?_ (renewNonce_kept _)
  exact kept_ite (fun _ => keysEnd_kept ..) fun _ => kept_ite (fun _ => transfer_kept ..) fun _ => unlock_kept ..

theorem keysWrite_kept (s : State) (a : Nat) (w : Word) : Kept s (keysWrite s a w) := by
  have plain : view notFuses (mgmtPlain s a w) = view notFuses s := mgmtPlain_view _ _ _ rfl
  have flash (erase : Bool) : view notFuses (flashCommand (mgmtPlain s a w) erase) = view notFuses s :=
    Eq.trans (by simp only [flashCommand_view, notFuses]) plain
  unfold keysWrite
  refine kept_ite (fun _ => kept_of_view ?_) fun _ => kept_ite (fun _ => keysCommand_kept ..) fun _ =>
    kept_ite (fun _ => ?_) fun _ => kept_ite (fun _ => kept_of_view ?_) fun _ => .refl s
  · simp only [↓view_mk, fuses, and_self, true_or, or_true, notFuses]
  · dsimp only
    split
    · exact kept_of_view (flash true)
    · exact kept_of_view (flash false)
    · exact kept_of_view plain
  · simp only [↓view_mk, fuses, and_self, true_or, or_true, notFuses]

theorem mgmtWrite_kept (s : State) (a : Nat) (w : Word) : Kept s (mgmtWrite s a w) := by
  have plain : Kept s (mgmtPlain s a w) := kept_of_view (mgmtPlain_view _ _ _ rfl)
  unfold mgmtWrite
  refine kept_ite (fun _ => .refl s) fun _ => kept_ite (fun _ => kept_of_view ?_) fun _ => kept_ite (fun _ => plain)
    fun _ =>
    kept_ite (fun _ => kept_of_view ?_) fun _ => kept_ite (fun _ => keysWrite_kept ..) fun _ =>
    kept_ite (fun _ => plain) fun _ => kept_of_view ?_
  · simp only [pmCommand_view, notFuses, implies_true]
  · simp only [rstWrite_view, notFuses, implies_true]
  · simp only [portWrite_view, notFuses, implies_true]

theorem registerWrite_kept (s : State) (sp : RegSpace) (off len : Nat) (val : Word) :
    Kept s (registerWrite s sp off len val) := by
  unfold registerWrite
  split
  · exact .refl s
  · split
    · exact kept_of_view (by simp only [bar0Write_view, notFuses, implies_true])
    · exact mgmtWrite_kept ..

theorem mgmtReply_kept (s : State) (f : MgmtFrame) (mop st : Nat) (data : List Byte) (key : Option (BitVec 256)) :
    Kept s (mgmtReply s f mop st data key) := kept_of_view (mgmtReply_view _ _ _ _ _ _ rfl rfl)

theorem mgmtWriteReq_kept (s : State) (f : MgmtFrame) : Kept s (mgmtWriteReq s f) := by
  have wrote (t : State) : Kept t (if !rangeOk f || f.mdata.length != f.mlen then
      mgmtReply t f Mop.write Status.notRun [] t.sec.sessKey
    else if (rangeWords f).any fun a => M.view 0 ≤ a && mgmtListed a then mgmtReply t f Mop.write Status.denied []
      t.sec.sessKey
    else if !rangeListed f then mgmtReply t f Mop.write Status.notRun [] t.sec.sessKey
    else mgmtReply ((rangeWords f).zipIdx.foldl
      (fun u e => mgmtWrite u e.1 (BitVec.ofNat 64 (leAt f.mdata (8 * e.2) 8))) t) f Mop.write Status.ok []
      t.sec.sessKey) :=
    kept_ite (fun _ => mgmtReply_kept ..) fun _ => kept_ite (fun _ => mgmtReply_kept ..) fun _ =>
      kept_ite (fun _ => mgmtReply_kept ..) fun _ => (kept_foldl _ t fun _ _ => mgmtWrite_kept ..).trans
        (mgmtReply_kept ..)
  unfold mgmtWriteReq authorised
  refine kept_ite (fun _ => wrote s) fun _ => kept_ite (fun _ => ?_) fun _ => mgmtReply_kept ..
  exact (kept_of_view (mgmtAccept_view s f rfl)).trans (wrote _)

theorem mgmtRequest_kept (s : State) (f : MgmtFrame) (mop : Nat) {act : State → State} (keep : ∀ t, Kept t (act t)) :
    Kept s (mgmtRequest s f mop act) := by
  refine (kept_of_view (takeFrame_view s f rfl)).trans ?_
  unfold mgmtRequest
  refine kept_ite (fun _ => .refl _) fun _ => kept_ite (fun _ => kept_of_view (countBadKind_view _ rfl)) fun _ =>
    kept_ite (fun _ => kept_of_view (reservedMop_view _ _ _ rfl rfl rfl)) fun _ => kept_ite (fun _ => .refl _) fun _ =>
    kept_ite (fun _ => kept_of_view (mgmtForward_view _ _ rfl rfl)) fun _ => keep _

/-! ### Booting -/

theorem startFirmware_kept (s : State) (power : Bool) : Kept s (startFirmware s power) := by
  have started : Kept s { s with sec := { s.sec with idKey := identityNow s, bstat := 1, powerBoot := power } } :=
    kept_of_view (by simp only [↓view_mk, fuses, and_self, true_or, or_true, notFuses])
  refine (started.trans ((revokeLower_kept _).trans (renewNonce_kept _))).trans (kept_of_view ?_)
  simp only [startFirmware, ↓trainPorts_view, ↓enterProbation_view, ↓apply_ite (view _), ite_self, notFuses]
  split
  · exact applyPattern_view _ _ rfl
  · rfl

theorem inService_kept (s : State) : Kept s (inService s) := by
  unfold inService
  exact (startFirmware_kept s true).trans (kept_of_view (by simp only [createPresets_view, notFuses, implies_true]))

theorem openEvent_kept (s : State) (cls detail res : Nat) : Kept s (openEvent s cls detail res) :=
  kept_of_view (by simp only [openEvent_view, notFuses])

theorem rel_kept (s : State) (r : Rel) : Kept s { s with rel := r } :=
  kept_of_view (by simp only [↓view_mk, fuses, true_or, or_true, and_self, notFuses])

theorem afterTests_kept (s : State) (res : Nat) (o : BistOutcome) : Kept s (afterTests s res o) := by
  have probation (t : State) : Kept t (enterProbation t) := kept_of_view (by simp only [enterProbation_view, notFuses])
  have served (r : Rel) : Kept s (inService { s with rel := r }) := (rel_kept s r).trans (inService_kept _)
  unfold afterTests
  refine kept_ite (fun _ => (served _).trans (openEvent_kept ..)) fun _ =>
    kept_ite (fun _ => ((served _).trans (probation _)).trans (openEvent_kept ..)) fun _ =>
    kept_ite (fun _ => ((served _).trans (probation _)).trans (openEvent_kept ..)) fun _ => ?_
  have out (t : State) : Kept t (outOfService t 3) := kept_of_view (by simp only
    [outOfService_view, notFuses, implies_true])
  exact (((rel_kept s _).trans (startFirmware_kept _ true)).trans (out _)).trans (openEvent_kept ..)

theorem writeBist_kept (s : State) (fresh res why : Nat) (o : BistOutcome) : Kept s (writeBist s fresh res why o) :=
  kept_of_view (by simp only [writeBist_view, notFuses])

theorem bistLost_kept (s : State) (why : BitVec 2) : Kept s (bistLost s why) := by
  unfold bistLost
  refine kept_ite (fun _ => .refl s) fun _ => kept_ite (fun _ => (writeBist_kept ..).trans (afterTests_kept ..)) fun _
    => ?_
  exact ((writeBist_kept ..).trans (rel_kept ..)).trans (openEvent_kept ..)

theorem bistComplete_kept (s : State) (o : BistOutcome) : Kept s (bistComplete s o) := by
  have identified : Kept s { s with sec := { s.sec with idKey := identityNow s } } :=
    kept_of_view (by simp only [↓view_mk, fuses, and_self, true_or, or_true, notFuses])
  unfold bistComplete
  refine kept_ite (fun _ => .refl s) fun _ => kept_ite (fun _ => (writeBist_kept ..).trans (afterTests_kept ..)) fun _
    => ?_
  exact ((identified.trans (writeBist_kept ..)).trans (rel_kept ..)).trans (openEvent_kept ..)

theorem bootLoad_kept (s : State) : Kept s (bootLoad s).1 :=
  kept_of_view (by simp only [bootLoad_view, notFuses])

theorem deviceResetComplete_kept (s : State) : Kept s (deviceResetComplete s) := by
  have fresh : Kept s (deviceFresh s) := kept_of_view (by simp only [deviceFresh_view, notFuses, implies_true])
  have booted : Kept s (bootLoad (deviceFresh s)).1 := fresh.trans (bootLoad_kept _)
  unfold deviceResetComplete
  refine kept_ite (fun _ => .refl s) fun _ => kept_ite (fun _ => booted.trans (rel_kept ..)) fun _ =>
    (booted.trans (startFirmware_kept _ false)).trans (kept_of_view ?_)
  simp only [↓outOfService_view, ↓createPresets_view, ↓apply_ite (view notFuses), ite_self, ↓resetEvent_view, ↓view_mk,
    ↓charge_view, ↓showOos_view, notFuses, true_or, or_true, and_self, implies_true]

theorem powerOnBoot_kept (s : State) : Kept s (powerOnBoot s) := by
  have held : Kept s { s with pwr := { s.pwr with onReset := false }, sec := { s.sec with bstat := 0 } } :=
    kept_of_view (by simp only [↓view_mk, fuses, and_self, true_or, or_true, notFuses])
  have booted := held.trans (bootLoad_kept _)
  have measured (t : State) : Kept t (measureVin t) := kept_of_view (by simp only [measureVin_view, notFuses])
  unfold powerOnBoot
  refine kept_ite (fun _ => .refl s) fun _ => kept_ite (fun _ => booted) fun _ => ?_
  split
  · refine booted.trans (Kept.trans ?_ ((rel_kept ..).trans (inService_kept _)))
    exact kept_of_view (by simp only [flashWrite_view, notFuses])
  · refine (booted.trans (measured _)).trans (kept_ite (fun _ => rel_kept ..) fun _ => ?_)
    exact (writeBist_kept ..).trans (afterTests_kept ..)

/-! ### Each command -/

/-- A command that names units of the device goes on; it keeps the queue, and what is blown. -/
theorem exec_kept (c : Instr) (s : State) : ∃ t, exec c s = guarded c t ∧ Kept s t := by
  have fm (port : Nat) (code : Nat) (data : List Byte) : Kept s (fmAnswer s port code data) :=
    kept_of_view (by simp only [fmAnswer_view, notFuses])
  cases c with
  | bundleIssue g faults =>
    exact ⟨_, rfl, kept_of_view (by simp only [↓issueBundle_view, ↓memFaults_view, notFuses, implies_true])⟩
  | barCRelease h => exact ⟨_, rfl, kept_of_view (by simp only [↓barCRelease_view, notFuses])⟩
  | barPRelease p c b => exact ⟨_, rfl, kept_of_view (by simp only [↓barPRelease_view, notFuses])⟩
  | fenceComplete g => exact ⟨_, rfl, kept_of_view (by simp only [↓fenceComplete_view, notFuses])⟩
  | watchdog g => exact ⟨_, rfl, kept_of_view (by simp only [↓watchdogExpires_view, notFuses, implies_true])⟩
  | spLate g => exact ⟨_, rfl, kept_of_view (by simp only [↓spLateRaise_view, notFuses, implies_true])⟩
  | mmaDescriptorRead g => exact ⟨_, rfl, kept_of_view (by simp only [↓descriptorRead_view, notFuses])⟩
  | mmaStart g => exact ⟨_, rfl, kept_of_view (by simp only [↓mmaStart_view, notFuses])⟩
  | mmaSegmentEnd g => exact ⟨_, rfl, kept_of_view (by simp only [↓segmentEnd_view, notFuses])⟩
  | mmaComplete g => exact ⟨_, rfl, kept_of_view (by simp only [↓mmaComplete_view, notFuses, implies_true])⟩
  | auditCopy g => exact ⟨_, rfl, kept_of_view (by simp only [↓auditCopy_view, notFuses])⟩
  | dmaStart g k => exact ⟨_, rfl, kept_of_view (by simp only [↓dmaStart_view, notFuses])⟩
  | dmaTileTransfer g k faults =>
    exact ⟨_, rfl, kept_of_view (by simp only [↓tileTransfer_view, notFuses, implies_true])⟩
  | dmaComplete g k => exact ⟨_, rfl, kept_of_view (by simp only [↓dmaComplete_view, notFuses, implies_true])⟩
  | hbmScrub p tile block die o =>
    exact ⟨_, rfl, kept_of_view (by simp only [↓hbmScrub_view, notFuses, implies_true])⟩
  | eviction p bolt => exact ⟨_, rfl, kept_of_view (by simp only [↓eviction_view, notFuses])⟩
  | flashCopyComplete p bolt =>
    exact ⟨_, rfl, kept_of_view (by simp only [↓flashCopyComplete_view, notFuses, implies_true])⟩
  | flashFetchComplete p bolt bad retries us =>
    exact ⟨_, rfl, kept_of_view (by simp only [↓fetchDone_view, ↓serveAny_view, notFuses, implies_true])⟩
  | wearSave => exact ⟨_, rfl, kept_of_view (by simp only [↓view_mk, notFuses, true_or, or_true, and_self])⟩
  | wantHint p =>
    exact ⟨_, rfl,
      kept_of_view (hintPlace_view (fun e => by simp only [wantBolt_view e, notFuses, implies_true]) rfl rfl)⟩
  | keepHint p =>
    exact ⟨_, rfl,
      kept_of_view (hintPlace_view (fun e => by simp only [keepBolt_view e, notFuses, implies_true]) rfl rfl)⟩
  | unkeepHint p =>
    refine ⟨_, rfl, kept_of_view (hintPlace_view (fun e => ?_) rfl rfl)⟩
    cases e
    exact onPart_view_part _ _ _ rfl rfl
  | spareHint p =>
    refine ⟨_, rfl, kept_of_view (hintPlace_view (fun e => ?_) rfl rfl)⟩
    cases e
    exact onPart_view_part _ _ _ rfl rfl
  | evictHint p =>
    exact ⟨_, rfl,
      kept_of_view (hintPlace_view (fun e => by simp only [evictBolt_view e, notFuses]) rfl rfl)⟩
  | dropHint p =>
    refine ⟨_, rfl, kept_of_view ?_⟩
    dsimp only
    split
    · rfl
    · simp only [↓putPart_view_part, ↓view_foldl, ↓dropBolt_view, notFuses, implies_true]
  | hintRecordComplete p =>
    exact ⟨_, rfl, kept_of_view (by simp only [↓hintRecordComplete_view, notFuses, implies_true])⟩
  | flitTransmit port => exact ⟨_, rfl, kept_of_view (by simp only [↓flitTransmit_view, notFuses, implies_true])⟩
  | flitReceive port w => exact ⟨_, rfl, kept_of_view (by simp only [↓flitReceive_view, notFuses, implies_true])⟩
  | replayTimeout port =>
    exact ⟨_, rfl, kept_of_view (by simp only [↓when_view, ↓startRetrain_view, notFuses, implies_true])⟩
  | hem port lost => exact ⟨_, rfl, kept_of_view (by simp only [↓hem_view, notFuses, implies_true])⟩
  | hemComplete port kept => exact ⟨_, rfl, kept_of_view (by simp only [↓hemComplete_view, notFuses, implies_true])⟩
  | hold m => exact ⟨_, rfl, kept_of_view (by simp only [↓hold_view, notFuses])⟩
  | retrain port => exact ⟨_, rfl, kept_of_view (by simp only [↓startRetrain_view, notFuses, implies_true])⟩
  | retrainComplete port lanes =>
    exact ⟨_, rfl, kept_of_view (by simp only [↓retrainComplete_view, notFuses])⟩
  | rdReq via m => exact ⟨_, rfl, kept_of_view (by simp only [↓serveRead_view, notFuses, implies_true])⟩
  | rdRsp via m => exact ⟨_, rfl, kept_of_view (by simp only [↓takeResponse_view, notFuses, implies_true])⟩
  | wrReq via m => exact ⟨_, rfl, kept_of_view (by simp only [↓serveWrite_view, notFuses, implies_true])⟩
  | wrAck via m => exact ⟨_, rfl, kept_of_view (by simp only [↓takeResponse_view, notFuses, implies_true])⟩
  | amoReq via m => exact ⟨_, rfl, kept_of_view (by simp only [↓serveAmo_view, notFuses, implies_true])⟩
  | amoRsp via m => exact ⟨_, rfl, kept_of_view (by simp only [↓takeResponse_view, notFuses, implies_true])⟩
  | requestDeadline die tag =>
    exact ⟨_, rfl, kept_of_view (by simp only [↓requestDeadline_view, notFuses, implies_true])⟩
  | tagReuse die tag => exact ⟨_, rfl, kept_of_view (by simp only [↓tagReuse_view, notFuses, implies_true])⟩
  | portNarrow port peer =>
    exact ⟨_, rfl, kept_of_view (by simp only [↓when_view, ↓narrow_view, notFuses])⟩
  | portSleep port peer =>
    exact ⟨_, rfl, kept_of_view (by simp only [↓when_view, ↓onPort_view, notFuses])⟩
  | portWake port => exact ⟨_, rfl, kept_of_view (by simp only [↓wakePort_view, notFuses])⟩
  | tunnelData d => exact ⟨_, rfl, kept_of_view (by simp only [↓tunnelData_view, notFuses])⟩
  | tunnelAck d => exact ⟨_, rfl, kept_of_view (by simp only [↓tunnelAck_view, notFuses])⟩
  | tunnelResend gw => exact ⟨_, rfl, kept_of_view (by simp only [↓tunnelResend_view, notFuses])⟩
  | serviceFrameReceive n f =>
    exact ⟨_, rfl, kept_of_view (by simp only [↓frameReceive_view, notFuses, implies_true])⟩
  | serviceFrameTransmit p n =>
    exact ⟨_, rfl, kept_of_view (by simp only [↓frameTransmit_view, notFuses, implies_true])⟩
  | helloSend port =>
    exact ⟨_, rfl, kept_of_view (by simp only [↓when_view, ↓helloSend_view, notFuses])⟩
  | hello port m => exact ⟨_, rfl, kept_of_view (by simp only [↓hello_view, notFuses, implies_true])⟩
  | discoveryTimeout port =>
    exact ⟨_, rfl, kept_of_view (by simp only [↓when_view, ↓recordOutcome_view, notFuses, implies_true])⟩
  | rtSwap => exact ⟨_, rfl, kept_of_view (by simp only [↓rtSwap_view, notFuses])⟩
  | load p gix => exact ⟨_, rfl, kept_of_view (by simp only [↓groupLoad_view, notFuses, implies_true])⟩
  | clear p gix => exact ⟨_, rfl, kept_of_view (by simp only [↓groupClear_view, notFuses])⟩
  | collectiveSubmit p c h desc =>
    exact ⟨_, rfl, kept_of_view (by simp only [↓collSubmit_view, notFuses, implies_true])⟩
  | collectiveStart p gix opseq =>
    exact ⟨_, rfl, kept_of_view (by simp only [↓collStart_view, notFuses, implies_true])⟩
  | ready via m =>
    exact ⟨_, rfl,
      kept_of_view (takeColl_view (fun t p q ht => Eq.trans (by simp only [takeReady_view, notFuses, implies_true]) ht)
        rfl rfl rfl rfl (fun _ => rfl) fun _ => rfl)⟩
  | dataR via m =>
    exact ⟨_, rfl,
      kept_of_view (takeColl_view (fun t p q ht => Eq.trans (by simp only [takeDataR_view, notFuses, implies_true]) ht)
        rfl rfl rfl rfl (fun _ => rfl) fun _ => rfl)⟩
  | dataG via m =>
    exact ⟨_, rfl,
      kept_of_view (takeColl_view (fun t p q ht => Eq.trans (by simp only [takeDataG_view, notFuses, implies_true]) ht)
        rfl rfl rfl rfl (fun _ => rfl) fun _ => rfl)⟩
  | abort via m =>
    exact ⟨_, rfl,
      kept_of_view (takeColl_view (fun t p q ht => Eq.trans (by simp only [takeAbort_view, notFuses, implies_true]) ht)
        rfl rfl rfl rfl (fun _ => rfl) fun _ => rfl)⟩
  | collAck via m => exact ⟨_, rfl, kept_of_view (by simp only [↓takeResponse_view, notFuses, implies_true])⟩
  | wlimTimeout p gix opseq => exact ⟨_, rfl, kept_of_view (by simp only [↓wlimTimeout_view, notFuses, implies_true])⟩
  | collectiveComplete p gix opseq =>
    exact ⟨_, rfl, kept_of_view (by simp only [↓collComplete_view, notFuses, implies_true])⟩
  | create p slot => exact ⟨_, rfl, kept_of_view (by simp only [↓grantCreate_view, notFuses, implies_true])⟩
  | grantPinned p slot => exact ⟨_, rfl, kept_of_view (by simp only [↓grantPinned_view, notFuses])⟩
  | revoke p slot => exact ⟨_, rfl, kept_of_view (by simp only [↓grantRevoke_view, notFuses])⟩
  | revokeDrained p slot => exact ⟨_, rfl, kept_of_view (by simp only [↓revokeDrained_view, notFuses])⟩
  | tombstoneExpiry p eoff => exact ⟨_, rfl, kept_of_view (onPart_view_part _ _ _ rfl rfl)⟩
  | pmCreate => exact ⟨_, rfl, kept_of_view (by simp only [↓pmCommand_view, notFuses, implies_true])⟩
  | pmDestroy => exact ⟨_, rfl, kept_of_view (by simp only [↓pmCommand_view, notFuses, implies_true])⟩
  | park => exact ⟨_, rfl, kept_of_view (by simp only [↓pmCommand_view, notFuses, implies_true])⟩
  | parkComplete p => exact ⟨_, rfl, kept_of_view (by simp only [↓parkComplete_view, notFuses, implies_true])⟩
  | unpark => exact ⟨_, rfl, kept_of_view (by simp only [↓pmCommand_view, notFuses, implies_true])⟩
  | unparkComplete p => exact ⟨_, rfl, kept_of_view (by simp only [↓unparkComplete_view, notFuses])⟩
  | debugOn => exact ⟨_, rfl, kept_of_view (by simp only [↓pmCommand_view, notFuses, implies_true])⟩
  | debugOff => exact ⟨_, rfl, kept_of_view (by simp only [↓pmCommand_view, notFuses, implies_true])⟩
  | start p c => exact ⟨_, rfl, kept_of_view (by simp only [↓cxDoorbell_view, notFuses])⟩
  | startComplete p c => exact ⟨_, rfl, kept_of_view (by simp only [↓startComplete_view, notFuses, implies_true])⟩
  | preempt p c => exact ⟨_, rfl, kept_of_view (by simp only [↓cxDoorbell_view, notFuses])⟩
  | preemptSaveComplete p c =>
    exact ⟨_, rfl, kept_of_view (by simp only [↓saveComplete_view, notFuses, implies_true])⟩
  | resume p c => exact ⟨_, rfl, kept_of_view (by simp only [↓cxDoorbell_view, notFuses])⟩
  | restoreComplete p c => exact ⟨_, rfl, kept_of_view (by simp only [↓restoreComplete_view, notFuses, implies_true])⟩
  | restart p c => exact ⟨_, rfl, kept_of_view (by simp only [↓cxDoorbell_view, notFuses])⟩
  | contextAbort p c => exact ⟨_, rfl, kept_of_view (by simp only [↓cxDoorbell_view, notFuses])⟩
  | release p c => exact ⟨_, rfl, kept_of_view (by simp only [↓cxDoorbell_view, notFuses])⟩
  | teardownComplete p c =>
    exact ⟨_, rfl, kept_of_view (by simp only [↓teardownComplete_view, notFuses, implies_true])⟩
  | contextHalted p c => exact ⟨_, rfl, kept_of_view (by simp only [↓contextHalted_view, notFuses, implies_true])⟩
  | dbRing p c val => exact ⟨_, rfl, kept_of_view (by simp only [↓ringDoorbell_view, notFuses])⟩
  | functionLevelReset p => exact ⟨_, rfl, kept_of_view (by simp only [↓flr_view, notFuses, implies_true])⟩
  | hostLinkDown h unbound =>
    cases unbound with
    | none => exact ⟨_, rfl, kept_of_view (by simp only [hostDown_view, notFuses, implies_true])⟩
    | some p => exact ⟨_, rfl, kept_of_view (by simp only [unbindLd_view, notFuses, implies_true])⟩
  | getLdInfo q => exact ⟨_, rfl, kept_ite (fun _ => fm ..) fun _ => kept_ite (fun _ => .refl s) fun _ => fm ..⟩
  | getLdAllocations h => exact ⟨_, rfl, kept_of_view (by simp only [↓fmAnswer_view, notFuses])⟩
  | setLdAllocations h alloc => exact ⟨_, rfl, kept_of_view (by simp only [↓fmAnswer_view, notFuses])⟩
  | hostWindowRead p off len => exact ⟨_, rfl, kept_of_view (by simp only [↓hostRead_view, notFuses, implies_true])⟩
  | hostWindowWrite p off data =>
    exact ⟨_, rfl, kept_of_view (by simp only [↓hostWrite_view, notFuses, implies_true])⟩
  | hostRequestTimeout p id =>
    refine ⟨_, rfl, kept_of_view ?_⟩
    split
    · simp only [hostTimeout_view, notFuses, implies_true]
    · rfl
  | latTolWrite p val => exact ⟨_, rfl, kept_of_view (by simp only [↓latTolWrite_view, notFuses])⟩
  | powerStateEntry u =>
    cases u with
    | cluster h => exact ⟨_, rfl, kept_of_view (by simp only [clusterEnter_view, notFuses])⟩
    | channel panel i => exact ⟨_, rfl, kept_of_view (by simp only [channelEnter_view, notFuses])⟩
    | port c => exact ⟨_, rfl, kept_of_view (by simp only [portEnter_view, notFuses])⟩
  | powerStateWake u => exact ⟨_, rfl, kept_of_view (by simp only [↓wakeUnit_view, notFuses])⟩
  | eset p val => exact ⟨_, rfl, kept_of_view (by simp only [↓when_view, ↓putReg_view, notFuses])⟩
  | sset p val => exact ⟨_, rfl, kept_of_view (when_view (onPart_view_part _ _ _ rfl rfl))⟩
  | gset p val => exact ⟨_, rfl, kept_of_view (by simp only [↓when_view, ↓putReg_view, notFuses])⟩
  | layoutRelease p slot => exact ⟨_, rfl, kept_of_view (by simp only [↓layoutRelease_view, notFuses])⟩
  | submit p => exact ⟨_, rfl, kept_of_view (by simp only [↓planSubmit_view, notFuses, implies_true])⟩
  | planAbort p => exact ⟨_, rfl, kept_of_view (by simp only [↓planAbort_view, notFuses])⟩
  | planResourcesFree p =>
    refine ⟨_, rfl, kept_of_view ?_⟩
    split
    · simp only [when_view, planRun_view, notFuses, implies_true]
    · rfl
  | pull via m =>
    exact ⟨_, rfl,
      kept_of_view (takeCtrl_view (fun t p q ht => Eq.trans (by simp only [takePull_view, notFuses, implies_true]) ht)
        rfl rfl rfl rfl (fun _ => rfl) fun _ => rfl)⟩
  | pullRetry p xfer => exact ⟨_, rfl, kept_of_view (by simp only [↓pullRetry_view, notFuses])⟩
  | data via m =>
    exact ⟨_, rfl,
      kept_of_view (takePlan_view (fun t p q ht => Eq.trans (by simp only [takeData_view, notFuses, implies_true]) ht)
        rfl rfl rfl rfl (fun _ => rfl) fun _ => rfl)⟩
  | tdone via m =>
    exact ⟨_, rfl,
      kept_of_view (takeCtrl_view (fun t p q ht => Eq.trans (by simp only [takeTdone_view, notFuses, implies_true]) ht)
        rfl rfl rfl rfl (fun _ => rfl) fun _ => rfl)⟩
  | digestReadback p xfer =>
    exact ⟨_, rfl, kept_of_view (by simp only [↓digestReadback_view, notFuses, implies_true])⟩
  | transferTimeout p xfer =>
    exact ⟨_, rfl, kept_of_view (by simp only [↓transferTimeout_view, notFuses, implies_true])⟩
  | done via m =>
    exact ⟨_, rfl,
      kept_of_view (takeCtrl_view (fun t p q ht => Eq.trans (by simp only [takeDone_view, notFuses, implies_true]) ht)
        rfl rfl rfl rfl (fun _ => rfl) fun _ => rfl)⟩
  | commit via m =>
    exact ⟨_, rfl,
      kept_of_view (takeCtrl_view (fun t p q ht => Eq.trans (by simp only [takeCommit_view, notFuses, implies_true]) ht)
        rfl rfl rfl rfl (fun _ => rfl) fun _ => rfl)⟩
  | fail via m =>
    exact ⟨_, rfl,
      kept_of_view (takeCtrl_view (fun t p q ht => Eq.trans (by simp only [takeFail_view, notFuses]) ht)
        rfl rfl rfl rfl (fun _ => rfl) fun _ => rfl)⟩
  | planDeadline p => exact ⟨_, rfl, kept_of_view (by simp only [↓planDeadline_view, notFuses])⟩
  | sealedTimeout p => exact ⟨_, rfl, kept_of_view (by simp only [↓when_view, ↓planEnd_view, notFuses])⟩
  | commitResend p rank => exact ⟨_, rfl, kept_of_view (by simp only [↓commitResend_view, notFuses])⟩
  | digestScrub p rec => exact ⟨_, rfl, kept_of_view (by simp only [↓digestScrub_view, notFuses, implies_true])⟩
  | seam p => exact ⟨_, rfl, kept_of_view (by simp only [↓when_view, ↓takeSeam_view, notFuses, implies_true])⟩
  | seamInPulse now => exact ⟨_, rfl, kept_of_view (by simp only [↓seamInPulse_view, notFuses, implies_true])⟩
  | sreq p => exact ⟨_, rfl, kept_of_view (by simp only [↓seamRequest_view, notFuses])⟩
  | seamWindowExpiry p =>
    exact ⟨_, rfl, kept_of_view (by simp only [↓when_view, ↓takeSeam_view, notFuses, implies_true])⟩
  | scaleRecordClose p => exact ⟨_, rfl, kept_of_view (by simp only [↓scaleRecordClose_view, notFuses, implies_true])⟩
  | stash p => exact ⟨_, rfl, kept_of_view (by simp only [↓pkTake_view, ↓pkStash_view, notFuses, implies_true])⟩
  | stashComplete p idx => exact ⟨_, rfl, kept_of_view (by simp only [↓stashComplete_view, notFuses, implies_true])⟩
  | fetch p => exact ⟨_, rfl, kept_of_view (by simp only [↓pkTake_view, ↓pkFetch_view, notFuses, implies_true])⟩
  | fetchComplete p idx => exact ⟨_, rfl, kept_of_view (by simp only [↓fetchComplete_view, notFuses, implies_true])⟩
  | back p => exact ⟨_, rfl, kept_of_view (by simp only [↓pkTake_view, ↓pkBack_view, notFuses, implies_true])⟩
  | claim p => exact ⟨_, rfl, kept_of_view (by simp only [↓pkTake_view, ↓pkClaim_view, notFuses, implies_true])⟩
  | keep p => exact ⟨_, rfl, kept_of_view (by simp only [↓pkTake_view, ↓pkKeep_view, notFuses, implies_true])⟩
  | drop p => exact ⟨_, rfl, kept_of_view (by simp only [↓pkTake_view, ↓pkDrop_view, notFuses, implies_true])⟩
  | watermarkDrop p => exact ⟨_, rfl, kept_of_view (by simp only [↓watermarkDrop_view, notFuses, implies_true])⟩
  | rmEnable p val => exact ⟨_, rfl, kept_of_view (by simp only [↓rmEnable_view, notFuses])⟩
  | rmDisable p => exact ⟨_, rfl, kept_of_view (by simp only [↓rmDisable_view, notFuses])⟩
  | requestSubmit p =>
    exact ⟨_, rfl, kept_of_view (by simp only [↓rmTake_view, ↓rmSubmit_view, notFuses, implies_true])⟩
  | requestCancel p =>
    exact ⟨_, rfl, kept_of_view (by simp only [↓rmTake_view, ↓rmCancel_view, notFuses, implies_true])⟩
  | stepRecordPublish p => exact ⟨_, rfl, kept_of_view (by simp only [↓recordPublish_view, notFuses, implies_true])⟩
  | stepRecordReceive via m =>
    exact ⟨_, rfl, kept_of_view (by simp only [↓recordReceive_view, notFuses, implies_true])⟩
  | knownAnswerKernel g k => exact ⟨_, rfl, kept_of_view (by simp only [↓kernelStart_view, notFuses])⟩
  | kernelComplete g digest =>
    exact ⟨_, rfl, kept_of_view (by simp only [↓kernelComplete_view, notFuses, implies_true])⟩
  | voteRecomputeComplete vid r1 r2 g1 g2 =>
    exact ⟨_, rfl, kept_of_view (by simp only [↓voteRecompute_view, notFuses, implies_true])⟩
  | voteNoneTimeout vid =>
    refine ⟨_, rfl, kept_of_view ?_⟩
    split
    · simp only [voteNone_view, dropVote_view, notFuses, implies_true]
    · rfl
  | engineWatchdog e =>
    exact ⟨_, rfl,
      kept_of_view (by simp only [↓when_view, ↓beginEngineReset_view, ↓charge_view, notFuses, implies_true])⟩
  | heartbeatMiss p role => exact ⟨_, rfl, kept_of_view (by simp only [↓heartbeatMiss_view, notFuses, implies_true])⟩
  | faultAgentWatchdog =>
    exact ⟨_, rfl, kept_of_view (by simp only [↓when_view, ↓beginDevReset_view, notFuses, implies_true])⟩
  | managementAgentRestart => exact ⟨_, rfl, .refl s⟩
  | engineResetHang e =>
    refine ⟨_, rfl, kept_of_view (when_view ?_)⟩
    split
    · simp only [beginPartReset_view, notFuses, implies_true]
    · simp only [beginDevReset_view, notFuses, implies_true]
  | preset p => exact ⟨_, rfl, kept_of_view (by simp only [↓presetCmd_view, notFuses, implies_true])⟩
  | partitionResetComplete p =>
    exact ⟨_, rfl, kept_of_view (by simp only [↓partResetComplete_view, notFuses, implies_true])⟩
  | partitionResetHang p =>
    exact ⟨_, rfl, kept_of_view (by simp only [↓when_view, ↓beginDevReset_view, notFuses, implies_true])⟩
  | dreset => exact ⟨_, rfl, kept_of_view (by simp only [↓devResetCmd_view, notFuses, implies_true])⟩
  | deviceResetComplete => exact ⟨_, rfl, deviceResetComplete_kept ..⟩
  | deviceResetHang =>
    exact ⟨_, rfl,
      kept_of_view (by simp only [↓when_view, ↓emit_view, ↓view_mk, notFuses, true_or, or_true])⟩
  | returnToService => exact ⟨_, rfl, kept_of_view (by simp only [↓returnCmd_view, notFuses, implies_true])⟩
  | fence ut idx => exact ⟨_, rfl, kept_of_view (by simp only [↓fenceCmd_view, notFuses, implies_true])⟩
  | unfence ut idx => exact ⟨_, rfl, kept_of_view (by simp only [↓fenceCmd_view, notFuses, implies_true])⟩
  | pset => exact ⟨_, rfl, kept_of_view (by simp only [↓setProbation_view, notFuses])⟩
  | pclr => exact ⟨_, rfl, kept_of_view (by simp only [↓setProbation_view, notFuses])⟩
  | run => exact ⟨_, rfl, kept_of_view (by simp only [↓bistRun_view, notFuses, implies_true])⟩
  | bistComplete o => exact ⟨_, rfl, bistComplete_kept ..⟩
  | bistConditionLost why => exact ⟨_, rfl, bistLost_kept ..⟩
  | periodic => exact ⟨_, rfl, kept_of_view (by simp only [↓periodic_view, notFuses])⟩
  | wwinBucketRoll => exact ⟨_, rfl, kept_of_view (by simp only [↓bucketRoll_view, notFuses])⟩
  | powerOnBoot => exact ⟨_, rfl, powerOnBoot_kept ..⟩
  | securityCounterBump => exact ⟨_, rfl, counterBump_kept ..⟩
  | enroll klen => exact ⟨_, rfl, keysCommand_kept ..⟩
  | transfer klen => exact ⟨_, rfl, keysCommand_kept ..⟩
  | unlock klen => exact ⟨_, rfl, keysCommand_kept ..⟩
  | erase64KiB => exact ⟨_, rfl, kept_of_view (by simp only [↓flashCommand_view, notFuses])⟩
  | program256Bytes => exact ⟨_, rfl, kept_of_view (by simp only [↓flashCommand_view, notFuses])⟩
  | jkCreate p slot job => exact ⟨_, rfl, kept_of_view (by simp only [↓jkCreate_view, notFuses])⟩
  | jkRequest p slot job => exact ⟨_, rfl, kept_of_view (by simp only [↓jkRequest_view, notFuses, implies_true])⟩
  | jkIssue p slot => exact ⟨_, rfl, kept_of_view (by simp only [↓jkIssue_view, notFuses, implies_true])⟩
  | jkAccept p slot => exact ⟨_, rfl, kept_of_view (by simp only [↓jkAccept_view, notFuses, implies_true])⟩
  | jkErase p slot => exact ⟨_, rfl, kept_of_view (by simp only [↓jkErase_view, notFuses])⟩
  | hinowenReportObject p h kind nonce =>
    exact ⟨_, rfl, kept_of_view (by simp only [↓doeReport_view, notFuses])⟩
  | spdmRequest p h req => exact ⟨_, rfl, kept_of_view (by simp only [↓spdm_view, notFuses])⟩
  | ideKm h mem key secured => exact ⟨_, rfl, kept_of_view (by simp only [↓ideKey_view, notFuses])⟩
  | glitch => exact ⟨_, rfl, kept_of_view (by simp only [↓beginDevReset_view, ↓zeroise_view, notFuses, implies_true])⟩
  | read f => exact ⟨_, rfl, kept_of_view (by simp only [↓mgmtRequest_view, ↓mgmtRead_view, notFuses, implies_true])⟩
  | write f => exact ⟨_, rfl, mgmtRequest_kept _ _ _ fun _ => mgmtWriteReq_kept ..⟩
  | report f =>
    exact ⟨_, rfl, kept_of_view (by simp only [↓mgmtRequest_view, ↓mgmtReport_view, notFuses, implies_true])⟩
  | session f =>
    exact ⟨_, rfl, kept_of_view (by simp only [↓mgmtRequest_view, ↓mgmtSession_view, notFuses, implies_true])⟩
  | registerWrite sp off len val => exact ⟨_, rfl, registerWrite_kept ..⟩
  | pwrEnAssert => exact ⟨_, rfl, kept_of_view (by simp only [↓pwrEnAssert_view, notFuses])⟩
  | pgoodRelease =>
    exact ⟨_, rfl, kept_of_view (by simp only [↓when_view, ↓view_mk, notFuses, true_or, or_true])⟩
  | pwrEnDeassert => exact ⟨_, rfl, kept_of_view (by simp only [↓pwrEnDeassert_view, notFuses, implies_true])⟩
  | vinUndervoltage =>
    refine ⟨_, rfl, kept_of_view ?_⟩
    simp only [↓latchesReleased_view, ↓railsOff_view, ↓view_mk, notFuses, implies_true, true_or, or_true]
  | vinOvervoltage => exact ⟨_, rfl, kept_of_view (by simp only [↓latchedStop_view, notFuses, implies_true])⟩
  | resetNAssert ns => exact ⟨_, rfl, kept_of_view (by simp only [↓resetNAssert_view, notFuses, implies_true])⟩
  | resetNRelease => exact ⟨_, rfl, kept_of_view (by simp only [↓view_mk, notFuses, true_or, or_true, and_self])⟩
  | perstAssert h =>
    exact ⟨_, rfl, kept_of_view (by simp only [↓hostDown_view, ↓view_mk, notFuses, implies_true, true_or, or_true])⟩
  | perstRelease h => exact ⟨_, rfl, kept_of_view (by simp only [↓view_mk, notFuses, true_or, or_true, and_self])⟩
  | powerLimit slow fmin =>
    exact ⟨_, rfl, kept_of_view (by simp only [↓when_view, ↓view_mk, notFuses, true_or, or_true])⟩
  | thermalThreshold tmax => exact ⟨_, rfl, kept_of_view (by simp only [↓thermal_view, notFuses])⟩
  | thermtrip => exact ⟨_, rfl, kept_of_view (by simp only [↓latchedStop_view, notFuses, implies_true])⟩
  | setdasa addr => exact ⟨_, rfl, kept_of_view (by simp only [↓assignAddr_view, notFuses])⟩
  | entdaa addr => exact ⟨_, rfl, kept_of_view (by simp only [↓assignAddr_view, notFuses])⟩
  | hostCompletion p id data poison =>
    refine ⟨_, rfl, kept_of_view ?_⟩
    split
    · simp only [hostEnd_view, notFuses, implies_true]
    · rfl
  | teardownLimitExceeded p c =>
    exact ⟨_, rfl, kept_of_view (by simp only [↓when_view, ↓beginPartReset_view, notFuses, implies_true])⟩
  | engineResetComplete e => exact ⟨_, rfl, kept_of_view (by simp only [↓engineBack_view, notFuses])⟩
  | resetHistoryAgeOut device =>
    exact ⟨_, rfl, kept_of_view (by simp only [↓view_mk, notFuses, true_or, or_true, and_self])⟩
  | servicePortLinkUp n =>
    exact ⟨_, rfl, kept_of_view (by simp only [↓when_view, ↓putMreg_view, notFuses])⟩
  | servicePortLinkDown n =>
    exact ⟨_, rfl, kept_of_view (by simp only [↓when_view, ↓putMreg_view, notFuses])⟩
  | hostLinkTrained h width link =>
    exact ⟨_, rfl, kept_of_view (by simp only [↓hostTrained_view, notFuses, implies_true])⟩
  | flashCommandComplete => exact ⟨_, rfl, kept_of_view (by simp only [↓flashComplete_view, notFuses])⟩
  | undervoltageLockoutRelease =>
    exact ⟨_, rfl, kept_of_view (by simp only [↓railsStart_view, ↓view_mk, notFuses, true_or, or_true])⟩
  | vinOutOfRangeBeforePgood =>
    exact ⟨_, rfl, kept_of_view (by simp only [↓when_view, ↓view_mk, notFuses, true_or, or_true])⟩
  | refokWrite ok =>
    exact ⟨_, rfl, kept_of_view (by simp only [↓when_view, ↓view_mk, notFuses, true_or, or_true])⟩
  | panelRelease panel => exact ⟨_, rfl, kept_of_view (by simp only [↓panelRelease_view, notFuses, implies_true])⟩

/-! ### Every step -/

theorem idle_kept (s : State) : Kept s (idle s) := kept_of_view (by simp only [idle_view, notFuses, implies_true])

/-- Settles O3: each command leaves the queue behind it alone, and stops only for units that the device lacks. -/
theorem queueDrainsInOrder : Obligations.QueueDrainsInOrder := by
  intro s hq
  unfold step
  split
  next hp =>
    have hi := (idle_kept s).pending
    refine ⟨_, rfl, by rw [hi, hp, List.tail_nil], fun c hc => ?_⟩
    rw [hi, hp] at hc
    cases hc
  next c rest hp =>
    obtain ⟨t, he, hk⟩ := exec_kept c { s with pending := rest }
    have hwf : c.wf = true := hq c (hp ▸ List.mem_cons_self ..)
    have ht : t.pending = rest := hk.pending
    refine ⟨t, he.trans (guarded_wf c t hwf), by rw [ht, hp, List.tail_cons], fun d hd => hq d ?_⟩
    rw [ht] at hd
    exact hp ▸ List.mem_cons_of_mem c hd

/-- Settles O4: what a command blows it only adds (`Kept`). -/
theorem fusesNeverUnblow : Obligations.FusesNeverUnblow := by
  intro s t hj hs
  have kept : OwnersKept s.sec.owners t.sec.owners ∧ s.sec.revokedImg &&& t.sec.revokedImg = s.sec.revokedImg ∧
      s.sec.isvc ≤ t.sec.isvc ∧ s.sec.jtag ≤ t.sec.jtag ∧ t.sec.jtag ≤ 16 := by
    unfold step at hs
    split at hs
    · cases hs
      have hk := idle_kept s
      exact ⟨hk.owners, hk.image, hk.counter, hk.jtag hj⟩
    next c rest _ =>
      obtain ⟨u, he, hk⟩ := exec_kept c { s with pending := rest }
      rw [he] at hs
      by_cases hwf : c.wf = true
      · rw [guarded_wf c u hwf] at hs
        cases hs
        exact ⟨hk.owners, hk.image, hk.counter, hk.jtag hj⟩
      · rw [guarded_not_wf c u (by simpa using hwf)] at hs
        cases hs
  exact kept

end Sys2Proof.Proofs
end

section
/-! Proofs about the core: bundles with one valid slot (S, B, V, M or L), the ends of waits, faults, the front of the queue
and the reset state. -/

namespace Sys2Proof.Proofs

open Sys2Proof.Machine Sys2Proof.Safety Sys2Proof.Laws

/-- Settles O1, by the definition of a step at a queue that is not empty. -/
theorem stepRunsTheFrontCommand : Obligations.StepRunsTheFrontCommand := by
  unfold Obligations.StepRunsTheFrontCommand
  intro s c rest h
  rw [step, h]

/-- A register of a partition after reset has its Reset value (R395). -/
theorem reg_reset (p off hi lo : Nat) : reg State.reset p off hi lo = fld (bar0Reg off).reset hi lo := rfl

/-- Settles O5, by evaluation of the reset state and of the seven registers of the tables. -/
theorem resetLeavesTheResetColumn : Obligations.ResetLeavesTheResetColumn := by
  unfold Obligations.ResetLeavesTheResetColumn
  have noPart (p : Nat) : partOf State.reset p = .none_ := rfl
  refine ⟨⟨rfl, ?_, rfl, ⟨rfl, rfl, ?_⟩, ⟨rfl, rfl, rfl⟩, fun p => ?_, fun a => rfl⟩, fun p => ?_⟩
  · simp [queueOk, State.reset]
  · simp [State.reset]
  · rw [noPart]; rfl
  · simp only [reg_reset]
    decide

theorem nfld_low (w : Nat) (hi : Nat) : nfld w hi 0 = w % 2 ^ (hi + 1) := rfl

theorem setP_loops (k : Core) (i : Nat) (v : BitVec 32) : (k.setP i v).loops = k.loops := by
  unfold Core.setP; split <;> rfl

theorem setP_pc (k : Core) (i : Nat) (v : BitVec 32) : (k.setP i v).pc = k.pc := by
  unfold Core.setP; split <;> rfl

theorem setP_skip (k : Core) (i : Nat) (v : BitVec 32) (b : Bool) :
    { k with skip := b }.setP i v = { k.setP i v with skip := b } := by
  unfold Core.setP; split <;> rfl

/-- The operations that write a general register (Table 2-5). -/
theorem actS_alu {s : State} {g w : Nat} {k q : Core} (h0 : 1 ≤ S.op w) (h1 : S.op w ≤ 0x13) :
    actS s g k w q = q.setG (S.gd w) (aluS (S.op w) (k.gr (S.ga w)) (S.src2 k w) w (k.gr (S.gd w))) := by
  simp [actS, show S.op w ≠ 0 by omega, h1]

theorem actS_cmp {s : State} {g w : Nat} {k q : Core} (h0 : 0x14 ≤ S.op w) (h1 : S.op w ≤ 0x19) :
    actS s g k w q = q.setP (S.gd w % 8) (allBits (cmpS (S.op w) (k.gr (S.ga w)) (S.src2 k w))) := by
  simp [actS, nfld_low, show S.op w ≠ 0 by omega, show ¬S.op w ≤ 0x13 by omega, h1]

theorem actS_pred {s : State} {g w : Nat} {k q : Core} (h0 : 0x1A ≤ S.op w) (h1 : S.op w ≤ 0x1D) :
    actS s g k w q = q.setP (S.gd w % 8) (predS (S.op w) (k.pr (S.ga w % 8)) (k.pr (S.gb w % 8))) := by
  simp [actS, nfld_low, show S.op w ≠ 0 by omega, show ¬S.op w ≤ 0x13 by omega, show ¬S.op w ≤ 0x19 by omega, h1]

theorem actS_mvlc {s : State} {g w : Nat} {k q : Core} (ho : S.op w = 0x20) :
    actS s g k w q = q.setLc (S.gd w % 4) (BitVec.ofNat 32 (S.src2 k w).toNat) := by
  simp [actS, nfld_low, ho]

theorem actS_rdlc {s : State} {g w : Nat} {k q : Core} (ho : S.op w = 0x21) :
    actS s g k w q = q.setG (S.gd w) (BitVec.ofNat 64 (k.lcr (S.ga w % 4)).toNat) := by
  simp [actS, nfld_low, ho]

/-- `movh` (Table 2-5): the upper half is the immediate. -/
theorem setFld_upper (d : Word) (i : Nat) (h : i < 2 ^ 32) :
    setFld d 63 32 i = BitVec.ofNat 64 (d.toNat % 2 ^ 32 + i * 2 ^ 32) := by
  have hd : d.toNat < 2 ^ 64 := d.isLt
  have upper : fld d 63 32 = d.toNat / 2 ^ 32 := by
    rw [fld, nfld, Nat.shiftRight_eq_div_pow]
    exact Nat.mod_eq_of_lt (by omega)
  rw [setFld, upper, Nat.mod_eq_of_lt (show i < 2 ^ (63 + 1 - 32) from h)]
  congr 1
  omega

/-- Settles O6, by the results of Table 2-5 for each opcode. -/
theorem scalarResults : Obligations.ScalarResults := by
  unfold Obligations.ScalarResults
  intro s g n w h hs hi hg hl k a b d v hv
  have himm : S.imm w.s < 2 ^ 32 := Nat.mod_lt _ (by decide)
  have result : 1 ≤ S.op w.s ∧ S.op w.s ≤ 0x13 ∧ aluS (S.op w.s) a b w.s d = v := by
    simp only [List.mem_cons, Prod.mk.injEq, List.not_mem_nil, or_false] at hv
    rcases hv with ⟨ho, rfl⟩ | ⟨ho, rfl⟩ | ⟨ho, rfl⟩ | ⟨ho, rfl⟩ | ⟨ho, rfl⟩ | ⟨ho, rfl⟩ | ⟨ho, rfl⟩ | ⟨ho, rfl⟩ | ⟨ho, rfl⟩ |
      ⟨ho, rfl⟩ | ⟨ho, rfl⟩ | ⟨ho, rfl⟩ | ⟨ho, rfl⟩ | ⟨ho, rfl⟩ | ⟨ho, rfl⟩ | ⟨ho, rfl⟩ | ⟨ho, rfl⟩
    all_goals rw [ho]
    case inr.inr.inr.inr.inr.inr.inr.inr.inr.inr.inr.inr.inr.inr.inr.inr =>
      exact ⟨by decide, by decide, setFld_upper d _ himm⟩
    all_goals exact ⟨by decide, by decide, rfl⟩
  obtain ⟨h0, h1, rfl⟩ := result
  exact issue_onlyS h hs hi hg hl ((actS_alu h0 h1).trans (setG_skip ..)) (setG_pc ..) ((setG_loops ..).trans hl)

/-- Settles O7, by the outcomes of Table 2-5 for each opcode. -/
theorem scalarPredicatesAndMoves : Obligations.ScalarPredicatesAndMoves := by
  unfold Obligations.ScalarPredicatesAndMoves
  intro s g n w h hs hi hg hl k a b x y next
  have pred {v : BitVec 32} (hq : actS (spend s n) g k w.s { k with skip := false } =
      Core.setP { k with skip := false } (S.gd w.s % 8) v) : next (k.setP (S.gd w.s % 8) v) :=
    issue_onlyS h hs hi hg hl (hq.trans (setP_skip ..)) (setP_pc ..) ((setP_loops ..).trans hl)
  refine ⟨fun c hc => ?_, fun v hv => ?_, fun ho => ?_, fun ho => ?_⟩
  · have compared : 0x14 ≤ S.op w.s ∧ S.op w.s ≤ 0x19 ∧ cmpS (S.op w.s) a b = c := by
      simp only [List.mem_cons, Prod.mk.injEq, List.not_mem_nil, or_false] at hc
      rcases hc with ⟨ho, rfl⟩ | ⟨ho, rfl⟩ | ⟨ho, rfl⟩ | ⟨ho, rfl⟩ | ⟨ho, rfl⟩ | ⟨ho, rfl⟩
      all_goals rw [ho]; exact ⟨by decide, by decide, rfl⟩
    obtain ⟨h0, h1, rfl⟩ := compared
    exact pred (actS_cmp h0 h1)
  · have combined : 0x1A ≤ S.op w.s ∧ S.op w.s ≤ 0x1D ∧ predS (S.op w.s) x y = v := by
      simp only [List.mem_cons, Prod.mk.injEq, List.not_mem_nil, or_false] at hv
      rcases hv with ⟨ho, rfl⟩ | ⟨ho, rfl⟩ | ⟨ho, rfl⟩ | ⟨ho, rfl⟩
      all_goals rw [ho]; exact ⟨by decide, by decide, rfl⟩
    obtain ⟨h0, h1, rfl⟩ := combined
    exact pred (actS_pred h0 h1)
  · exact issue_onlyS h hs hi hg hl (actS_mvlc ho) rfl hl
  · exact issue_onlyS h hs hi hg hl ((actS_rdlc ho).trans (setG_skip ..)) (setG_pc ..) ((setG_loops ..).trans hl)

/-! ### One slot alone: its causes, and a slot that does not act -/

theorem shares_nil (d : List Dest) : shares d [] = false := by
  simp [shares]

theorem bundleCause_onlyM {s : State} {g : Nat} {k : Core} {w : Bundle} (hh : w.badHeader = false)
    (hs : Slots w false false false true false) : bundleCause s g k w = lowest (causesM s g k w) := by
  obtain ⟨hS, hB, hV, hM, hL⟩ := hs
  simp [bundleCause, hh, hS, hB, hV, hM, hL]

theorem bundleCause_onlyL {s : State} {g : Nat} {k : Core} {w : Bundle} (hh : w.badHeader = false)
    (hs : Slots w false false false false true) : bundleCause s g k w = lowest (causesL s g k w) := by
  obtain ⟨hS, hB, hV, hM, hL⟩ := hs
  simp [bundleCause, hh, hS, hB, hV, hM, hL]

/-- A bundle of which no slot acts goes to the next bundle (R27). -/
theorem commitBundle_noSlot {s : State} {g : Nat} {k : Core} {w : Bundle} (hS : guardS k w = false)
    (hB : guardB k w = false) (hV : w.svv = false) (hM : guardM k w = false) (hL : guardL k w = false)
    (hl : k.loops = []) : commitBundle s g k w = putCore s g (advanced k) := by
  have next : flow k w { k with skip := false } = advanced k := by
    simp [flow, hB, hl, loopTest, pcWrap_succ, advanced]
  simp [commitBundle, hS, hB, hV, hM, hL, next]

/-- A bundle without a precise cause of which no slot acts. -/
theorem issue_noSlot {s : State} {g n : Nat} {w : Bundle} (h : Issues s g w n)
    (hc : bundleCause s g (coreOf s g) w = none) (hS : guardS (coreOf s g) w = false)
    (hB : guardB (coreOf s g) w = false) (hV : w.svv = false) (hM : guardM (coreOf s g) w = false)
    (hL : guardL (coreOf s g) w = false) (hl : (coreOf s g).loops = []) :
    exec (.bundleIssue g []) s = .next (putCore (spend s n) g (advanced (coreOf s g))) := by
  rw [issue_commit h hc (by simp [mustWait, hL, hM]), commitBundle_noSlot hS hB hV hM hL hl]

/-- Settles O9, by the causes of each slot: an unguarded one has none but its encoding, and does not act. -/
theorem falseGuardDoesNothing : Obligations.FalseGuardDoesNothing := by
  unfold Obligations.FalseGuardDoesNothing
  intro s g n w h hl k
  have hh := badHeader_of_issues h
  refine ⟨fun hs hi hg => ?_, fun hs hi hg => ?_, fun hs hi hg => ?_, fun hs hi ho hg => ?_⟩
  all_goals obtain ⟨hS, hB, hV, hM, hL⟩ := id hs
  · have hc : bundleCause s g k w = none := by rw [bundleCause_onlyS hh hs, hi]; rfl
    exact issue_noSlot h hc (by simp [guardS, k, hg]) (by simp [guardB, hB]) hV (by simp [guardM, hM])
      (by simp [guardL, hL]) hl
  · have hc : bundleCause s g k w = none := by
      rw [bundleCause_onlyB hh hs]; simp [causesB, guardB, hi, hg, hS, cause, lowest]
    exact issue_noSlot h hc (by simp [guardS, hS]) (by simp [guardB, k, hg]) hV (by simp [guardM, hM])
      (by simp [guardL, hL]) hl
  · have hc : bundleCause s g k w = none := by
      rw [bundleCause_onlyM hh hs]; simp [causesM, guardM, hi, hg, cause, lowest]
    exact issue_noSlot h hc (by simp [guardS, hS]) (by simp [guardB, hB]) hV (by simp [guardM, k, hg])
      (by simp [guardL, hL]) hl
  · have hc : bundleCause s g k w = none := by
      rw [bundleCause_onlyL hh hs]; simp [causesL, guardL, hi, hg, ho, hS, hB, hV, shares_nil, cause, lowest]
    exact issue_noSlot h hc (by simp [guardS, hS]) (by simp [guardB, hB]) hV (by simp [guardM, hM])
      (by simp [guardL, k, ho, hg]) hl

/-! ### Branches (Table 2-8) -/

/-- A guarded B slot alone, legal and without a cause of its own. -/
theorem issue_onlyB {s : State} {g n : Nat} {w : Bundle} (h : Issues s g w n)
    (hs : Slots w false true false false false) (hg : guardBit (coreOf s g) (B.pr w.b) (B.pn w.b) = true)
    (hc : causesB s g (coreOf s g) w = []) :
    exec (.bundleIssue g []) s =
      .next (actB (putCore (spend s n) g (flow (coreOf s g) w { coreOf s g with skip := false })) g (coreOf s g) w.b) := by
  have hcause : bundleCause s g (coreOf s g) w = none := by rw [bundleCause_onlyB (badHeader_of_issues h) hs, hc]; rfl
  rw [issue_commit h hcause (mustWait_eq_false hs), commitBundle_onlyB hs hg]

/-- A branch that is taken while no loop is active. -/
theorem flow_branch {k q : Core} {w : Bundle} {t : Nat} (hg : guardB k w = true) (hl : k.loops = [])
    (h3 : B.op w.b ≠ 0x03) (h5 : B.op w.b ≠ 0x05) (ht : branchTarget k w.b = some t) :
    flow k w q = { q with pc := t, loops := [] } := by
  simp [flow, hg, h3, h5, ht, hl]

theorem flow_call {k q : Core} {w : Bundle} (hg : guardB k w = true) (hl : k.loops = []) (ho : B.op w.b = 0x03) :
    flow k w q =
      { q.setG 31 (BitVec.ofNat 64 ((k.pc + 1) % 32768)) with pc := pcWrap (k.pc + B.off w.b), loops := [] } := by
  simp [flow, hg, ho, branchTarget, hl, pcWrap_succ]

/-- The opcodes below 6 have no effect beyond the program counter. -/
theorem actB_branch {s : State} {g b : Nat} {k : Core} (ho : B.op b < 6) : actB s g k b = s := by
  interval_cases h : B.op b <;> simp [actB, h]

/-- Settles O10, by the targets of the four branches. -/
theorem branchesGoToTheirTargets : Obligations.BranchesGoToTheirTargets := by
  unfold Obligations.BranchesGoToTheirTargets
  intro s g n w h hs hi hg hl k goes
  obtain ⟨hS, -⟩ := id hs
  have hgb : guardB k w = true := guardB_of_slots hs hg
  have taken {q : Core} {pc : Nat} (ho : B.op w.b < 6) (hc : causesB s g k w = [])
      (hf : flow k w { k with skip := false } = { q with pc := pc, skip := false }) : goes q pc :=
    (issue_onlyB h hs hg hc).trans (by rw [hf, actB_branch ho])
  have straight {t : Nat} (h3 : B.op w.b ≠ 0x03) (h5 : B.op w.b ≠ 0x05) (ht : branchTarget k w.b = some t) :
      flow k w { k with skip := false } = { k with pc := t, skip := false } := by
    rw [flow_branch hgb hl h3 h5 ht, ← hl]
  refine ⟨fun ho => ?_, fun ho hr => ?_, fun ho => ?_, fun ho hr => ?_⟩
  · exact taken (by omega) (by simp [causesB, hS, hi, ho, cause])
      (straight (by omega) (by omega) (by simp [branchTarget, ho, pcWrap]))
  · exact taken (by omega) (by simp [causesB, hS, hi, ho, cause]; omega)
      (straight (by omega) (by omega) (by simp [branchTarget, ho]))
  · refine taken (by omega) (by simp [causesB, hS, hi, ho, cause]) ?_
    rw [flow_call hgb hl ho, setG_skip, ← hl, ← setG_loops k 31]
    rfl
  · exact taken (by omega) (by simp [causesB, hS, hi, ho, cause]; omega)
      (straight (by omega) (by omega) (by simp [branchTarget, ho]))

/-! ### Loads, stores and operations (Tables 2-12, 2-14) -/

/-- With no B slot and no active loop, a core whose other slots write no register advances. -/
theorem flow_advanced {k : Core} {w : Bundle} {sv vv mv lv : Bool} (hs : Slots w sv false vv mv lv)
    (hl : k.loops = []) : flow k w { k with skip := false } = advanced k := by
  rw [flow_of_noB hs hl, ← hl]; rfl

/-- A guarded L slot alone, without a precise cause and with a place for its operation. -/
theorem issue_onlyL {s : State} {g n : Nat} {w : Bundle} (h : Issues s g w n)
    (hs : Slots w false false false false true) (hl : (coreOf s g).loops = [])
    (hg : guardL (coreOf s g) w = true) (hc : causesL s g (coreOf s g) w = [])
    (hw : mustWait (coreOf s g) w = false) :
    exec (.bundleIssue g []) s =
      .next (actL (putCore (spend s n) g (advanced (coreOf s g))) g (coreOf s g) w.l) := by
  have hcause : bundleCause s g (coreOf s g) w = none := by rw [bundleCause_onlyL (badHeader_of_issues h) hs, hc]; rfl
  rw [issue_commit h hcause hw]
  obtain ⟨hS, hB, hV, hM, -⟩ := id hs
  simp [commitBundle, guardS, guardB, guardM, hS, hB, hV, hM, hg, flow_advanced hs hl]

/-- A guarded M slot alone, likewise. -/
theorem issue_onlyM {s : State} {g n : Nat} {w : Bundle} (h : Issues s g w n)
    (hs : Slots w false false false true false) (hl : (coreOf s g).loops = [])
    (hg : guardM (coreOf s g) w = true) (hc : causesM s g (coreOf s g) w = [])
    (hw : mustWait (coreOf s g) w = false) :
    exec (.bundleIssue g []) s =
      .next (actM (putCore (spend s n) g (advanced (coreOf s g))) g (coreOf s g) w.m) := by
  have hcause : bundleCause s g (coreOf s g) w = none := by rw [bundleCause_onlyM (badHeader_of_issues h) hs, hc]; rfl
  rw [issue_commit h hcause hw]
  obtain ⟨hS, hB, hV, -, hL⟩ := id hs
  simp [commitBundle, guardS, guardB, guardL, hS, hB, hV, hL, hg, flow_advanced hs hl]

/-- A core and free values change nothing that belongs to no core. -/
theorem sameOutside_onCore (s : State) (n g : Nat) (k : Core) (f : Core → Core) :
    sameOutside s (onCore (putCore (spend s n) g k) g f) :=
  ⟨rfl, rfl, rfl, rfl, rfl, rfl, rfl, rfl, rfl, rfl, rfl, rfl, rfl⟩

/-- The `mma` operations check the place of their descriptor alone (R35). -/
theorem causesM_mma {s : State} {g : Nat} {k : Core} {w : Bundle} (hi : M4.illegal w.m = false)
    (ho : M4.op w.m = 0x01 ∨ M4.op w.m = 0x02) (ha : (k.gr (M4.gs w.m)).toNat % 64 = 0)
    (hb : (k.gr (M4.gs w.m)).toNat + 63 ≤ 262143) : causesM s g k w = [] := by
  rcases ho with ho | ho <;> simp [causesM, hi, ho, ha, cause] <;> omega

/-- The DMA that a `dma` with number `i` puts in flight, with the registers of core `k` (R86). -/
def issuedDma (k : Core) (i l : Nat) : Dma :=
  { id := i, tag := L.tag l, sid := L.sid l, semen := L.semen l, xf := L.xf l, src := k.gr (L.gsrc l)
    dst := k.gr (L.gdst l), len := (k.gr (L.glen l)).toNat, pc := k.pc, entry := none, active := 0, unit := 0, edge := 0
    status := [], finished := false, aborted := false, parked := false, beforeSeam := none, asked := [], ahead := []
    waiting := 0, buf := [], bufCol := [], bufTag := [] }

theorem actL_dma {s : State} {g l : Nat} {k : Core} (ho : L.op l = 0x0F) :
    actL s g k l = onCore s g fun q =>
      { q with nextDma := q.nextDma + 1, dmas := q.dmas ++ [issuedDma k q.nextDma l] } := by
  simp only [actL, ho]; rfl

/-- The operation that an `mma`, `mrd` or `mwr` puts in flight, with the registers of core `k` (R36). -/
def issuedMop (k : Core) (m : Nat) : MOp :=
  { op := M4.op m, fmtA := M4.fmtA m, fmtB := M4.fmtB m, fmtC := M4.fmtC m, sclA := M4.sclA m, sclB := M4.sclB m
    shape := M4.shape m, chunk := M4.chunk m, iovf := M4.iovf m, audit := M4.audit m, zero := M4.zero m
    accInt := M4.accf m, m := M4.m m, n := M4.n m, k := (k.gr (M4.gk m)).toNat, offA := (k.gr (M4.ga m)).toNat
    offB := (k.gr (M4.gb m)).toNat, offC := (k.gr (M4.gc m)).toNat, offS := (k.gr (M4.gs m)).toNat, pc := k.pc
    desc := none, started := false, failed := false, segs := 0, draw := 0, c0 := [], acc := [], pairs := [], tots := []
    hazard := false, touched := [], hold := none }

theorem actM_mma {s : State} {g m : Nat} {k : Core} (ho : M4.op m = 0x01 ∨ M4.op m = 0x02) :
    actM s g k m = joinMop s g (issuedMop k m) := by
  rcases ho with ho | ho <;> simp [actM, issuedMop, ho]

/-- With no operation in flight the new one meets no hazard of R59. -/
theorem joinMop_first {s : State} {g : Nat} (new : MOp) (h : (coreOf s g).mops = []) :
    joinMop s g new = onCore s g fun q => { q with mops := [{ new with hazard := false }] } := by
  simp [joinMop, onCore, h]

/-- Settles O14, by the bundle's commit: the operation joins its list with what it read at issue. -/
theorem operationsTakeTheirPlace : Obligations.OperationsTakeTheirPlace := by
  unfold Obligations.OperationsTakeTheirPlace
  intro s g n w h hl k
  refine ⟨fun hs hi ho hg hfree => ?_, fun hs hi ho hg hnone ha hb => ?_⟩
  all_goals obtain ⟨hS, hB, hV, hM, hL⟩ := id hs
  · have acts : guardL k w = true := by simp [guardL, hL, ho, hg]
    have hc : causesL s g k w = [] := by simp [causesL, hi, hS, hB, hV, ho, L.isMem, shares_nil, cause]
    have hw : mustWait k w = false := by simp [mustWait, guardM, hM, ho]; omega
    have issued := issue_onlyL h hs hl acts hc hw
    rw [actL_dma ho] at issued
    exact ⟨_, issuedDma k k.nextDma w.l, issued, by simp [advanced, k], rfl, rfl, rfl, rfl, rfl, rfl, rfl,
      by simp [advanced, k], by simp [advanced, k, sameRegisters], rfl, rfl, sameOutside_onCore s n g _ _⟩
  · have acts : guardM k w = true := by simp [guardM, hM, hg]
    have hw : mustWait k w = false := by simp [mustWait, guardL, hL, hnone]
    have issued := issue_onlyM h hs hl acts (causesM_mma hi ho ha hb) hw
    rw [actM_mma ho, joinMop_first _ (by simpa [advanced] using hnone)] at issued
    exact ⟨_, { issuedMop k w.m with hazard := false }, issued, by simp [k], rfl, rfl, rfl, rfl, rfl, rfl,
      by simp [advanced, k], by simp [advanced, k, sameRegisters], rfl, rfl, sameOutside_onCore s n g _ _⟩

/-- An aligned access inside the core store, of a guarded L slot alone, has no precise cause unless it loads POISON. -/
theorem causesL_inside {s : State} {g : Nat} {k : Core} {w : Bundle} (hs : Slots w false false false false true)
    (hi : L.illegal w.l = false) (hm : L.isMem w.l = true) (h0 : 0 ≤ L.addr k w.l) (h1 : L.addr k w.l ≤ 262143)
    (ha : (L.addr k w.l).toNat % L.size w.l = 0)
    (hp : L.isLoad w.l = true → bit (tagsOver s (coreBase g + (L.addr k w.l).toNat) (L.size w.l)) 0 = false) :
    causesL s g k w = [] := by
  obtain ⟨hS, hB, hV, -⟩ := hs
  have aligned : L.addr k w.l % (L.size w.l : Int) = 0 := by
    rw [← Int.toNat_of_nonneg h0]; exact_mod_cast ha
  have sound : (L.isLoad w.l && bit (tagsOver s (coreBase g + (L.addr k w.l).toNat) (L.size w.l)) 0) = false := by
    cases hl : L.isLoad w.l
    · rfl
    · exact hp hl
  simp [causesL, hi, hS, hB, hV, hm, h0, h1, aligned, shares_nil, cause, sound]

theorem actL_load {s : State} {g l : Nat} {k : Core} (h0 : 1 ≤ L.op l) (h1 : L.op l ≤ 7) :
    actL s g k l = onCore s g fun q =>
      q.setG (L.gd l) (loadVal (L.op l) (mle s.stores (coreBase g + (L.addr k l).toNat) (L.size l))) := by
  simp [actL, show L.op l ≠ 0 by omega, h1]

theorem actL_store {s : State} {g l : Nat} {k : Core} (h0 : 8 ≤ L.op l) (h1 : L.op l ≤ 0x0B) :
    actL s g k l = storeBytes s g (L.addr k l).toNat (toLE (L.size l) (k.gr (L.gd l)).toNat) := by
  simp [actL, show L.op l ≠ 0 by omega, show ¬L.op l ≤ 7 by omega, h1]

/-- How a scalar load extends its bytes (Table 2-14). -/
theorem loadVal_scalar {l v : Nat} (h0 : 1 ≤ L.op l) (h1 : L.op l ≤ 7) :
    loadVal (L.op l) v =
      if L.op l ≤ 4 then BitVec.ofNat 64 v else BitVec.ofInt 64 (sext (8 * L.size l) v) := by
  interval_cases h : L.op l <;> simp [loadVal, L.size, h]

/-- A store of a core that runs no M operation writes its bytes and clears their tags (R40, R147). -/
theorem storeBytes_noMops {s : State} {g off : Nat} {bs : List Byte} (h : (coreOf s g).mops = []) :
    storeBytes s g off bs =
      storeTags { s with stores := mput s.stores (coreBase g + off) bs } (coreBase g + off) bs.length := by
  have none_ : (coreOf (storeTags { s with stores := mput s.stores (coreBase g + off) bs }
      (coreBase g + off) bs.length) g).mops = [] := h
  simp [storeBytes, storeHazard, none_]

theorem coreOf_storeTags (s : State) (a n g : Nat) : coreOf (storeTags s a n) g = coreOf s g := rfl

/-- The second write of a key stands. -/
theorem sset_sset {α : Type} [DecidableEq α] (d : α) (m : Sparse α) (i : Nat) (v w : α) :
    sset d (sset d m i v) i w = sset d m i w := by
  have before : ((if v = d then [] else [(i, v)]) : Sparse α).filter (fun c => c.1 < i) = [] := by split <;> simp
  have behind : ((if v = d then [] else [(i, v)]) : Sparse α).filter (fun c => i < c.1) = [] := by split <;> simp
  have low : (m.filter fun c => i < c.1).filter (fun c => c.1 < i) = [] := by
    rw [List.filter_filter, List.filter_eq_nil_iff]; simp; omega
  have high : (m.filter fun c => c.1 < i).filter (fun c => i < c.1) = [] := by
    rw [List.filter_filter, List.filter_eq_nil_iff]; simp; omega
  simp [sset, List.filter_append, before, behind, low, high]

theorem onCore_putCore (s : State) (g : Nat) (k : Core) (f : Core → Core) :
    onCore (putCore s g k) g f = putCore s g (f k) := by
  rw [onCore, coreOf_putCore]
  simp only [putCore, sset_sset]

theorem setG_advanced (k : Core) (i : Nat) (v : Word) : (advanced k).setG i v = advanced (k.setG i v) := by
  unfold Core.setG; split <;> rfl

/-- What a store of `n` bytes leaves is read back as their little-endian number. -/
theorem mle_mput_toLE (m : Mem) (a n v : Nat) : mle (mput m a (toLE n v)) a n = v % 2 ^ (8 * n) := by
  have h := mread_mput m a (toLE n v)
  rw [toLE_length] at h
  rw [mle, h, le_toLE]

/-- Settles O13, by the causes of an access inside the core store and the laws of the byte memory. -/
theorem scalarLoadsAndStores : Obligations.ScalarLoadsAndStores := by
  unfold Obligations.ScalarLoadsAndStores
  intro s g n w h hs hi hg hl k off at_ h0 h1 ha
  obtain ⟨-, -, -, hM, hL⟩ := id hs
  refine ⟨fun ho0 ho1 hp => ?_, fun ho0 ho1 hnone => ?_⟩
  · have acts : guardL k w = true := by simp [guardL, hL, show L.op w.l ≠ 0x0D by omega, k, hg]
    have hm : L.isMem w.l = true := by simp [L.isMem]; omega
    have hw : mustWait k w = false := by
      simp [mustWait, guardM, hM, show L.op w.l ≠ 0x0F by omega, show L.op w.l ≠ 0x11 by omega]
    rw [issue_onlyL h hs hl acts (causesL_inside hs hi hm h0 h1 ha fun _ => hp) hw, actL_load ho0 ho1,
      loadVal_scalar ho0 ho1, onCore_putCore, setG_advanced]
    rfl
  · have acts : guardL k w = true := by simp [guardL, hL, show L.op w.l ≠ 0x0D by omega, k, hg]
    have hm : L.isMem w.l = true := by simp [L.isMem]; omega
    have stores : L.isLoad w.l = false := by simp [L.isLoad]; omega
    have hw : mustWait k w = false := by
      simp [mustWait, guardM, hM, show L.op w.l ≠ 0x0F by omega, show L.op w.l ≠ 0x11 by omega]
    have issued := issue_onlyL h hs hl acts (causesL_inside hs hi hm h0 h1 ha (by simp [stores])) hw
    rw [actL_store ho0 ho1, storeBytes_noMops (by simpa [advanced] using hnone)] at issued
    refine ⟨_, issued, ?_, fun a ha => ?_, ?_, fun q hq => ?_, rfl, ?_⟩
    · exact mle_mput_toLE ..
    · exact mget_mput_ne _ _ _ _ (by simpa using ha)
    · exact (coreOf_storeTags ..).trans (coreOf_putCore ..)
    · exact (coreOf_storeTags ..).trans (coreOf_putCore_ne _ _ _ _ hq)
    · exact ⟨rfl, rfl, rfl, rfl, rfl, rfl, rfl, rfl, rfl, rfl, rfl, rfl, rfl⟩

/-! ### Vector registers and their lanes -/

theorem packCodes_lt (w : Nat) (cs : List Nat) : packCodes w cs < 2 ^ (w * cs.length) := by
  induction cs with
  | nil => simp [packCodes]
  | cons c cs ih =>
    have hc : c % 2 ^ w < 2 ^ w := Nat.mod_lt _ (by positivity)
    calc packCodes w (c :: cs) < 2 ^ w + 2 ^ w * packCodes w cs := by simp only [packCodes]; omega
      _ = 2 ^ w * (packCodes w cs + 1) := by ring
      _ ≤ 2 ^ w * 2 ^ (w * cs.length) := Nat.mul_le_mul_left _ ih
      _ = 2 ^ (w * (c :: cs).length) := by rw [List.length_cons, Nat.mul_add, Nat.mul_one, Nat.add_comm, Nat.pow_add]

/-- The `i`-th field of packed codes is the `i`-th code. -/
theorem packCodes_field (w i : Nat) (cs : List Nat) : packCodes w cs / 2 ^ (w * i) % 2 ^ w = cs.getD i 0 % 2 ^ w := by
  induction cs generalizing i with
  | nil => simp [packCodes]
  | cons c cs ih =>
    have hw : 0 < 2 ^ w := by positivity
    cases i with
    | zero => simp [packCodes]
    | succ i =>
      have skip : packCodes w (c :: cs) / 2 ^ w = packCodes w cs := by
        rw [packCodes, Nat.add_mul_div_left _ _ hw, Nat.div_eq_of_lt (Nat.mod_lt _ hw), Nat.zero_add]
      rw [Nat.mul_succ, Nat.add_comm, Nat.pow_add, ← Nat.div_div_eq_div_mul, skip, ih]
      rfl

/-- Lane `i` of a register that was made from lanes. -/
theorem fld_ofLanes {ls : List Nat} (h : ls.length = 32) (i : Nat) :
    fld (ofLanes ls) (32 * i + 31) (32 * i) = ls.getD i 0 % 2 ^ 32 := by
  have fits : packCodes 32 ls < 2 ^ 1024 := by simpa [h] using packCodes_lt 32 ls
  rw [fld, ofLanes, BitVec.toNat_ofNat, Nat.mod_eq_of_lt fits, nfld, Nat.shiftRight_eq_div_pow,
    show 32 * i + 31 + 1 - 32 * i = 32 by omega, packCodes_field]

theorem lanesOf_getD (v : BitVec 1024) {i : Nat} (h : i < 32) :
    (lanesOf v).getD i 0 = fld v (32 * i + 31) (32 * i) := by
  simp [lanesOf, List.getD, h]

theorem lane_lt (v : BitVec 1024) (i : Nat) : fld v (32 * i + 31) (32 * i) < 2 ^ 32 := by
  simpa [show 32 * i + 31 + 1 - 32 * i = 32 by omega] using fld_lt v (32 * i + 31) (32 * i)

/-- The lanes of a register after a masked write of lanes below 2^32 (R27). -/
theorem fld_maskedWrite (mask : BitVec 32) (old : BitVec 1024) (new : List Nat) {i : Nat} (h : i < 32)
    (hn : new.getD i 0 < 2 ^ 32) :
    fld (maskedWrite mask old new) (32 * i + 31) (32 * i) =
      if bit mask i then new.getD i 0 else fld old (32 * i + 31) (32 * i) := by
  have lane : (maskedWrite mask old new) = ofLanes ((List.range 32).map fun i =>
    if bit mask i then new.getD i 0 else (lanesOf old).getD i 0) := rfl
  rw [lane, fld_ofLanes (by simp), List.getD, List.getElem?_map, List.getElem?_range h]
  simp only [Option.map_some, Option.getD_some, lanesOf_getD old h]
  refine Nat.mod_eq_of_lt ?_
  split
  · exact hn
  · exact lane_lt old i

/-- A V slot alone, legal. -/
theorem issue_onlyV {s : State} {g n : Nat} {w : Bundle} (h : Issues s g w n)
    (hs : Slots w false false true false false) (hi : V.illegal w.v = false) (hl : (coreOf s g).loops = []) :
    exec (.bundleIssue g []) s =
      .next (spend (putCore (spend s n) g { (vEffect (spend s n) (coreOf s g) w.v).apply
        (guardMask (coreOf s g) (V.pr w.v) (V.pn w.v)) { coreOf s g with skip := false } with
          pc := ((coreOf s g).pc + 1) % 32768, loops := [] }) (vEffect (spend s n) (coreOf s g) w.v).used) := by
  obtain ⟨hS, hB, hV, hM, hL⟩ := id hs
  have hc : bundleCause s g (coreOf s g) w = none := by
    simp [bundleCause, badHeader_of_issues h, hS, hB, hV, hM, hL, hi, cause, lowest, shares_nil]
  rw [issue_commit h hc (mustWait_eq_false hs)]
  simp [commitBundle, guardS, guardB, guardM, guardL, hS, hB, hV, hM, hL, flow_of_noB hs hl]

/-- The bitwise operations of Table 2-10 on lanes. -/
theorem vEffect_bitwise {s : State} {k : Core} {w : Nat} (ho : V.op w = 0x11 ∨ V.op w = 0x12 ∨ V.op w = 0x13) :
    vEffect s k w = laneEffect (guardMask k (V.pr w) (V.pn w)) (V.vd w) ((List.range 32).map fun i =>
      rawRes (bitLane (V.op w) (V.ety w) ((lanesOf (k.vr (V.va w))).getD i 0) ((lanesOf (k.vr (V.vb w))).getD i 0))) 0 := by
  rcases ho with ho | ho | ho <;> simp [vEffect, ho]

theorem laneEffect_apply (mask : BitVec 32) (vd : Nat) (rs : List LaneRes) (used : Nat) (q : Core) :
    (laneEffect mask vd rs used).apply mask q =
      { q.setV vd (maskedWrite mask (q.vr vd) (rs.map (·.val))) with
        vflag := q.vflag ||| BitVec.ofNat 2 (flagBits mask rs) } := rfl

theorem bitLane_lt {op ety a b : Nat} (ho : op = 0x11 ∨ op = 0x12 ∨ op = 0x13) (ha : a < 2 ^ 32) (hb : b < 2 ^ 32) :
    bitLane op ety a b < 2 ^ 32 := by
  rcases ho with rfl | rfl | rfl
  · exact Nat.and_lt_two_pow a hb
  · exact Nat.or_lt_two_pow ha hb
  · exact Nat.xor_lt_two_pow ha hb

/-- The lanes of the result of a bitwise operation. -/
def bitwiseLanes (k : Core) (w : Nat) : List LaneRes :=
  (List.range 32).map fun i =>
    rawRes (bitLane (V.op w) (V.ety w) ((lanesOf (k.vr (V.va w))).getD i 0) ((lanesOf (k.vr (V.vb w))).getD i 0))

theorem bitwiseLanes_getD (k : Core) (w : Nat) {i : Nat} (h : i < 32) :
    ((bitwiseLanes k w).map (·.val)).getD i 0 =
      bitLane (V.op w) (V.ety w) (fld (k.vr (V.va w)) (32 * i + 31) (32 * i)) (fld (k.vr (V.vb w)) (32 * i + 31) (32 * i)) := by
  rw [← lanesOf_getD (k.vr (V.va w)) h, ← lanesOf_getD (k.vr (V.vb w)) h]
  simp [bitwiseLanes, List.getD, h, rawRes]

/-- Settles O15, by the lanes of a masked write. -/
theorem vectorBitwise : Obligations.VectorBitwise := by
  unfold Obligations.VectorBitwise
  intro s g n w h hs hi hl k mask f hf
  have ho : V.op w.v = 0x11 ∨ V.op w.v = 0x12 ∨ V.op w.v = 0x13 := by
    rcases hf with ⟨ho, -⟩ | ⟨ho, -⟩ | ⟨ho, -⟩ <;> simp [ho]
  have hlane : bitLane (V.op w.v) (V.ety w.v) = f := by
    rcases hf with ⟨ho, rfl⟩ | ⟨ho, rfl⟩ | ⟨ho, rfl⟩ <;> (rw [ho]; rfl)
  have issued := issue_onlyV h hs hi hl
  rw [vEffect_bitwise ho, laneEffect_apply] at issued
  refine ⟨_, issued, fun i hlt => ?_, fun r hr => ?_, ?_, ?_, ?_, ?_, rfl, rfl, ?_⟩
  · have written := fld_maskedWrite mask (k.vr (V.vd w.v)) ((bitwiseLanes k w.v).map (·.val)) hlt (by
      rw [bitwiseLanes_getD k w.v hlt]
      exact bitLane_lt ho (lane_lt _ i) (lane_lt _ i))
    rw [bitwiseLanes_getD k w.v hlt, hlane] at written
    rw [← written, coreOf_spend, coreOf_putCore, Core.vr, Core.setV, sget_sset]
    rfl
  · rw [coreOf_spend, coreOf_putCore, Core.vr, Core.setV, sget_sset_ne _ _ _ _ _ _ hr]
    rfl
  · rw [coreOf_spend, coreOf_putCore, Core.setV]
  · rw [coreOf_spend, coreOf_putCore, Core.setV]
  · rw [coreOf_spend, coreOf_putCore, Core.setV]
  · rw [coreOf_spend, coreOf_putCore, Core.setV]
  · exact ⟨rfl, rfl, rfl, rfl, rfl, rfl, rfl, rfl, rfl, rfl, rfl, rfl, rfl⟩

/-! ### Waits and their ends (R44 to R47) -/

/-- What belongs to no core, no cluster and no store may not change. -/
@[reducible] def inside : Field → Bool
  | .freeIx | .cores | .clusters | .stores | .tags => true
  | .out | .dieCtr | .osc | .parts | .fabric | .wardrobe | .rel | .steady | .sec | .fuses | .pwr | .mregs | .pattern | .tap |
    .part _ | .regs _ | .vec _ | .mem _ | .hbm _ => false

theorem sameOutside_of_view {s t : State} (h : view inside t = view inside s) : sameOutside s t :=
  ⟨out_of_view h rfl, parts_of_view h rfl, fabric_of_view h rfl, rel_of_view h rfl, sec_of_view h rfl,
    pwr_of_view h rfl, mregs_of_view h rfl, wardrobe_of_view h rfl, pattern_of_view h rfl, dieCtr_of_view h rfl,
    osc_of_view h rfl, tap_of_view h rfl, pending_of_view h⟩

/-- Only the cores may change. -/
@[reducible] def inCores : Field → Bool
  | .cores => true
  | .freeIx | .clusters | .stores | .tags | .out | .dieCtr | .osc | .parts | .fabric | .wardrobe | .rel | .steady | .sec |
    .fuses | .pwr | .mregs | .pattern | .tap | .part _ | .regs _ | .vec _ | .mem _ | .hbm _ => false

/-- Of a core at most the run state differs. -/
def OnlyRun (k q : Core) : Prop := ∃ r, q = { k with run := r }

theorem OnlyRun.refl (k : Core) : OnlyRun k k := ⟨k.run, rfl⟩

theorem OnlyRun.trans {k q r : Core} (h : OnlyRun k q) (h' : OnlyRun q r) : OnlyRun k r := by
  obtain ⟨a, rfl⟩ := h
  obtain ⟨b, rfl⟩ := h'
  exact ⟨b, rfl⟩

theorem OnlyRun.sameRegisters {k q : Core} (h : OnlyRun k q) : sameRegisters k q := by
  obtain ⟨r, rfl⟩ := h
  exact ⟨rfl, rfl, rfl, rfl, rfl, rfl, rfl, rfl⟩

theorem OnlyRun.pc {k q : Core} (h : OnlyRun k q) : q.pc = k.pc := by
  obtain ⟨r, rfl⟩ := h
  rfl

theorem endWaits_onlyRun (s : State) (j : Nat) (done : Wait → Bool) (g : Nat) :
    OnlyRun (coreOf s g) (coreOf (endWaits s j done) g) := by
  unfold endWaits
  split
  · by_cases h : g = j
    · subst h; exact ⟨_, coreOf_onCore ..⟩
    · rw [coreOf_onCore_ne _ _ _ _ h]; exact .refl _
  · exact .refl _

theorem waitsOf_of_run {s : State} {g : Nat} {r : RunState} (h : (coreOf s g).run = r)
    (hr : ∀ ws, r ≠ .waiting ws) : waitsOf s g = [] := by
  unfold waitsOf
  rw [h]
  cases r
  case waiting ws => exact absurd rfl (hr ws)
  all_goals rfl

theorem resumeRun_not_waiting (s : State) (g : Nat) (ws : List Wait) : resumeRun s g ≠ .waiting ws := by
  unfold resumeRun
  repeat' split
  all_goals simp

theorem waitsOf_congr {s t : State} {g : Nat} (h : coreOf t g = coreOf s g) : waitsOf t g = waitsOf s g := by
  simp only [waitsOf, h]

theorem waitsOf_waiting {s : State} {g : Nat} {ws : List Wait} (h : (coreOf s g).run = .waiting ws) :
    waitsOf s g = ws := by
  simp only [waitsOf, h]

/-- Ending waits takes those that are done. -/
theorem waitsOf_endWaits (s : State) (g : Nat) (done : Wait → Bool) :
    waitsOf (endWaits s g done) g = (waitsOf s g).filter fun w => !done w := by
  unfold endWaits
  split
  next ws hr =>
    rw [waitsOf_waiting hr]
    by_cases hrest : (ws.filter fun w => !done w) = []
    · have ended := waitsOf_of_run (s := onCore s g fun k => { k with run := resumeRun s g }) (g := g)
        (congrArg Core.run (coreOf_onCore ..)) (resumeRun_not_waiting s g)
      simpa only [hrest, if_true] using ended
    · simp only [hrest, if_false]
      exact waitsOf_waiting (congrArg Core.run (coreOf_onCore ..))
  next hr => rw [waitsOf_of_run rfl hr]; rfl

theorem waitsOf_endWaits_ne {s : State} {j g : Nat} (done : Wait → Bool) (h : g ≠ j) :
    waitsOf (endWaits s j done) g = waitsOf s g := by
  unfold endWaits
  split
  · exact waitsOf_congr (coreOf_onCore_ne _ _ _ _ h)
  · rfl

/-- The waits of some cores end. -/
def endAll (l : List Nat) (done : Wait → Bool) (s : State) : State := l.foldl (fun t g => endWaits t g done) s

theorem endAll_view {F : Field → Bool} (l : List Nat) (done : Wait → Bool) (s : State) (hF : F .cores = true) :
    view F (endAll l done s) = view F s :=
  view_foldl _ _ fun t g => endWaits_view t g done hF

theorem endAll_onlyRun (l : List Nat) (done : Wait → Bool) (s : State) (g : Nat) :
    OnlyRun (coreOf s g) (coreOf (endAll l done s) g) :=
  List.foldlRecOn (motive := fun t => OnlyRun (coreOf s g) (coreOf t g)) _ _ (.refl _)
    fun t ht j _ => ht.trans (endWaits_onlyRun t j done g)

/-- Where the waits of some cores have ended, none of theirs is left that is done. -/
theorem not_done_of_mem_endAll {l : List Nat} {done : Wait → Bool} {s : State} {g : Nat} (hg : g ∈ l) {x : Wait}
    (hx : x ∈ waitsOf (endAll l done s) g) : done x = false := by
  induction l generalizing s with
  | nil => simp at hg
  | cons j l ih =>
    by_cases hl : g ∈ l
    · exact ih hl hx
    · obtain rfl : g = j := by simpa [hl] using hg
      have kept : waitsOf (endAll l done (endWaits s g done)) g = waitsOf (endWaits s g done) g := by
        refine List.foldlRecOn (motive := fun t => waitsOf t g = waitsOf (endWaits s g done) g) _ _ rfl
          fun t ht j hj => ?_
        rw [waitsOf_endWaits_ne done (by rintro rfl; exact hl hj), ht]
      have hx' : x ∈ waitsOf (endAll l done (endWaits s g done)) g := hx
      rw [kept, waitsOf_endWaits] at hx'
      simpa using (List.mem_filter.mp hx').2

/-- A B slot that neither branches nor starts a loop. -/
theorem flow_still {k : Core} {w : Bundle} (hl : k.loops = []) (ho : 0x06 ≤ B.op w.b) :
    flow k w { k with skip := false } = advanced k := by
  have none_ : branchTarget k w.b = none := by
    unfold branchTarget
    split
    case h_6 => rfl
    all_goals omega
  simp [flow, show B.op w.b ≠ 3 by omega, show B.op w.b ≠ 5 by omega, none_, hl, loopTest, pcWrap_succ, advanced]

/-- The semaphore operations have no precise cause but `sem.post`. -/
theorem causesB_take {s : State} {g : Nat} {k : Core} {w : Bundle} (hs : Slots w false true false false false)
    (hi : B.illegal w.b = false) (ho : B.op w.b = 0x06 ∨ B.op w.b = 0x08) : causesB s g k w = [] := by
  obtain ⟨hS, -⟩ := hs
  rcases ho with ho | ho <;> simp [causesB, hS, hi, ho, cause]

/-- A core that issues is in no wait (R44). -/
theorem issuing_of_issues {s : State} {g n : Nat} {w : Bundle} (h : Issues s g w n) : (coreOf s g).run = .issuing := by
  obtain ⟨-, hc, -⟩ := h
  unfold canIssue at hc
  split at hc
  · simp at hc
  · simp only [Bool.and_eq_true, beq_iff_eq] at hc
    exact hc.2

/-- `sem.wait` and `sem.try` (R44). -/
theorem issue_semaphore {s : State} {g n : Nat} {w : Bundle} (h : Issues s g w n)
    (hs : Slots w false true false false false) (hi : B.illegal w.b = false)
    (hg : guardBit (coreOf s g) (B.pr w.b) (B.pn w.b) = true) (hl : (coreOf s g).loops = [])
    (ho : B.op w.b = 0x06 ∨ B.op w.b = 0x08) :
    exec (.bundleIssue g []) s =
      .next (actB (putCore (spend s n) g (advanced (coreOf s g))) g (coreOf s g) w.b) := by
  rw [issue_onlyB h hs hg (causesB_take hs hi ho), flow_still hl (by omega)]

/-- A cluster from whose semaphore `n` is taken. -/
def takeSem (sid n : Nat) (q : Cluster) : Cluster :=
  { q with sem := sset 0 q.sem sid (BitVec.ofNat 16 ((sget 0 q.sem sid).toNat - n)) }

section SemaphoreEffects
variable {s : State} {g b : Nat} {k : Core}

theorem actB_semWait_takes (ho : B.op b = 0x06)
    (hm : B.semN k b ≤ (sget 0 (clusOf s (g / 16)).sem (B.sid b)).toNat) :
    actB s g k b = onClus s (g / 16) (takeSem (B.sid b) (B.semN k b)) := by
  simp only [actB, ho]
  exact if_pos hm

theorem actB_semWait_waits (ho : B.op b = 0x06)
    (hm : (sget 0 (clusOf s (g / 16)).sem (B.sid b)).toNat < B.semN k b) :
    actB s g k b = addWait s g (.sem (B.sid b) (B.semN k b)) := by
  simp only [actB, ho]
  exact if_neg (Nat.not_le.mpr hm)

theorem actB_semTry_takes (ho : B.op b = 0x08)
    (hm : B.semN k b ≤ (sget 0 (clusOf s (g / 16)).sem (B.sid b)).toNat) :
    actB s g k b = onCore (onClus s (g / 16) (takeSem (B.sid b) (B.semN k b))) g
      fun q => q.setP (B.pd b) (allBits true) := by
  simp only [actB, ho]
  exact if_pos hm

theorem actB_semTry_fails (ho : B.op b = 0x08)
    (hm : (sget 0 (clusOf s (g / 16)).sem (B.sid b)).toNat < B.semN k b) :
    actB s g k b = onCore s g fun q => q.setP (B.pd b) (allBits false) := by
  simp only [actB, ho]
  exact if_neg (Nat.not_le.mpr hm)

end SemaphoreEffects

/-- The wait of a core that issued (R44). -/
theorem addWait_issuing {s : State} {g : Nat} (x : Wait) (h : (coreOf s g).run = .issuing) :
    (coreOf (addWait s g x) g).run = .waiting [x] ∧ sameRegisters (coreOf s g) (coreOf (addWait s g x) g) := by
  rw [addWait, coreOf_onCore, h]
  exact ⟨rfl, rfl, rfl, rfl, rfl, rfl, rfl, rfl, rfl⟩

theorem pr_setP (k : Core) (i : Nat) (v : BitVec 32) : (k.setP i v).pr i = if i = 0 then BitVec.allOnes 32 else v := by
  unfold Core.pr Core.setP
  split <;> simp

/-- A wait at the cluster barrier. -/
def isBarC : Wait → Bool
  | .barC _ => true
  | _ => false

/-- A context that runs, is stopped or is being preempted has its cores in its clusters (R235, R236). -/
theorem coresLive_of_cstate {s : State} {p c : Nat} (h : cstate s p c = Cs.running ∨ cstate s p c = Cs.stopped ∨
    cstate s p c = Cs.preempting) : coresLive s p c = true := by
  rcases h with h | h | h <;> simp [coresLive, h]

theorem ctxOf_of_parts {s t : State} (h : t.parts = s.parts) (p c : Nat) : ctxOf t p c = ctxOf s p c := by
  simp only [ctxOf, partOf, h]

theorem when_of_true {c : Bool} {s t : State} (h : c = true) : when_ c s t = t := by rw [h]; rfl

theorem when_of_false {c : Bool} {s t : State} (h : c = false) : when_ c s t = s := by rw [h]; rfl

/-- The cluster barrier is empty again (R45). -/
def emptyBarC (x : Cluster) : Cluster := { x with barMask := 0, barArr := 0 }

theorem barCRelease_full {s : State} {h : Nat} (harr : (clusOf s h).barArr ≠ 0)
    (hfull : (clusOf s h).barMask &&& ~~~ (clusOf s h).barArr = 0) :
    barCRelease s h = endAll (coresOf h) isBarC (onClus s h emptyBarC) :=
  when_of_true (by rw [hfull, bne_iff_ne.mpr harr]; rfl)

/-- The cores that have arrived at a partition barrier (R46). -/
def arrivedAt (s : State) (p c : Nat) (q : BarP) : List Nat := q.arr.filterMap (ctxCoreAt (partOf s p) c)

theorem barPRelease_full {s : State} {p c b : Nat} {q : BarP} (hq : q = sget { n := 0, arr := [] } (ctxOf s p c).barP b)
    (hne : q.arr ≠ []) (hn : q.n ≤ q.arr.length) (hl : coresLive s p c = true) :
    barPRelease s p c b = onCtx (endAll (arrivedAt s p c q) (fun w => w == .barP b) s) p c fun y =>
      { y with barP := sset { n := 0, arr := [] } y.barP b { n := 0, arr := [] } } := by
  subst hq
  exact when_of_true (by simp [hne, hn, hl])

/-- A core whose every wait is over goes on (R44 to R47). -/
theorem endWaits_all {s : State} {g : Nat} {ws : List Wait} {done : Wait → Bool} (hr : (coreOf s g).run = .waiting ws)
    (h : ∀ x ∈ ws, done x = true) : endWaits s g done = onCore s g fun k => { k with run := resumeRun s g } := by
  have rest : (ws.filter fun w => !done w) = [] := by simpa using h
  simp [endWaits, hr, rest]

/-- Settles O12, by the effects of the semaphore operations and by what the end of waits leaves of a core. -/
theorem semaphoresBarriersAndFences : Obligations.SemaphoresBarriersAndFences := by
  unfold Obligations.SemaphoresBarriersAndFences
  refine ⟨fun s g n w h hs hi hg hl => ?_, fun s h hh harr hfull => ?_, fun s p c b q hp hc hb hq hne hn hst => ?_,
    fun s g ws hg hr hws => ?_⟩
  · intro k cnt m took
    have issued := issue_semaphore h hs hi hg hl
    refine ⟨fun ho hm => ?_, fun ho hm => ⟨_, issued (.inl ho), ?_⟩, fun ho hm => ⟨_, issued (.inr ho), ?_⟩,
      fun ho hm => ⟨_, issued (.inr ho), ?_⟩⟩
    · rw [issued (.inl ho), actB_semWait_takes (s := putCore (spend s n) g (advanced k)) ho hm]; rfl
    · rw [actB_semWait_waits (s := putCore (spend s n) g (advanced k)) ho hm]
      have waits := addWait_issuing (s := putCore (spend s n) g (advanced k)) (g := g) (.sem (B.sid w.b) m) (by
        rw [coreOf_putCore]; exact issuing_of_issues h)
      rw [coreOf_putCore] at waits
      exact ⟨rfl, waits.1, waits.2, sameOutside_of_view (addWait_view _ _ _ rfl)⟩
    · rw [actB_semTry_takes (s := putCore (spend s n) g (advanced k)) ho hm]
      refine ⟨rfl, ?_, sameOutside_of_view ?_⟩
      · rw [coreOf_onCore, pr_setP]; split <;> rfl
      · simp only [onCore_view, onClus_view, putCore_view, spend_view, inside]
    · rw [actB_semTry_fails (s := putCore (spend s n) g (advanced k)) ho hm]
      refine ⟨rfl, ?_, sameOutside_of_view ?_⟩
      · rw [coreOf_onCore, pr_setP]; rfl
      · simp only [onCore_view, putCore_view, spend_view, inside]
  · have next : exec (.barCRelease h) s = .next (barCRelease s h) := guarded_wf _ _ (decide_eq_true hh)
    rw [barCRelease_full harr hfull] at next
    have same := endAll_view (F := inCores) (coresOf h) isBarC (onClus s h emptyBarC) rfl
    have hclus : clusOf (endAll (coresOf h) isBarC (onClus s h emptyBarC)) h = emptyBarC (clusOf s h) := by
      rw [clusOf, clusters_of_view same rfl]; exact clusOf_onClus ..
    refine ⟨_, next, by rw [hclus]; rfl, by rw [hclus]; rfl, by rw [hclus]; rfl, by rw [stores_of_view same rfl]; rfl, ?_, fun g hg => ?_⟩
    · exact sameOutside_of_view ((endAll_view _ _ _ rfl).trans (onClus_view _ _ _ rfl))
    · have run := endAll_onlyRun (coresOf h) isBarC (onClus s h emptyBarC) g
      obtain ⟨hgr, -⟩ := run.sameRegisters
      exact ⟨hgr, run.pc, fun x hx m hm => by simpa [hm, isBarC] using not_done_of_mem_endAll hg hx⟩
  · have next : exec (.barPRelease p c b) s = .next (barPRelease s p c b) :=
      guarded_wf _ _ (by simp [Instr.wf, partOk, ctxOk, hp, hc, hb])
    rw [barPRelease_full hq hne hn (coresLive_of_cstate hst)] at next
    have same := endAll_view (F := inCores) (arrivedAt s p c q) (fun w => w == .barP b) s rfl
    have hctx := ctxOf_of_parts (parts_of_view same rfl) p c
    refine ⟨_, next, ?_, fun b' hb' => ?_, fun i hi g hg hw => ?_, fun g => ?_, ?_, ?_⟩
    · rw [ctxOf_onCtx]; exact sget_sset ..
    · rw [ctxOf_onCtx, hctx]; exact sget_sset_ne _ _ _ _ _ _ hb'
    · have hmem : g ∈ arrivedAt s p c q := List.mem_filterMap.mpr ⟨i, hi, hg⟩
      simpa using not_done_of_mem_endAll hmem hw
    · have run := endAll_onlyRun (arrivedAt s p c q) (fun w => w == .barP b) s g
      exact ⟨run.sameRegisters, run.pc⟩
    · have hstores := stores_of_view same rfl
      exact hstores
    · have hclusters := clusters_of_view same rfl
      exact hclusters
  · have next : exec (.fenceComplete g) s = .next (fenceComplete s g) := guarded_wf _ _ (decide_eq_true hg)
    have done : ∀ x ∈ ws, fenceDone (coreOf s g) x = true := by
      intro x hx
      obtain ⟨n, ⟨rfl, h⟩ | ⟨rfl, h⟩⟩ := hws x hx
      · simp only [fenceDone, Bool.not_eq_true', List.any_eq_false]
        intro d hd hh
        simp only [holdsFenceC, writesHere, Bool.and_eq_true, decide_eq_true_eq, bne_iff_ne] at hh
        exact hh.2 (h d hd hh.1)
      · simp only [fenceDone, Bool.not_eq_true', List.any_eq_false]
        intro d hd hh
        simp only [holdsFenceP, decide_eq_true_eq] at hh
        exact absurd (h d hd) (Nat.not_le.mpr hh)
    rw [fenceComplete, endWaits_all hr done] at next
    have hk : coreOf (onCore s g fun k => { k with run := resumeRun s g }) g = { coreOf s g with run := resumeRun s g } :=
      coreOf_onCore ..
    exact ⟨_, next, by rw [hk], by rw [hk]; exact ⟨rfl, rfl, rfl, rfl, rfl, rfl, rfl, rfl⟩, by rw [hk], rfl, rfl,
      sameOutside_of_view (onCore_view _ _ _ rfl)⟩

/-! ### Faults (R48, R49, R51, R347) -/

/-- A write of a register leaves every other register of every partition. -/
theorem reg_putReg_other {s : State} {p o hi lo v q k a b : Nat} (h : k ≠ o) :
    reg (putReg s p o hi lo v) q k a b = reg s q k a b := by
  by_cases hq : q = p
  · rw [hq]; exact reg_putReg_ne _ _ _ _ _ _ _ _ _ h
  · exact reg_putReg_part _ _ _ _ _ _ _ _ _ _ hq

/-- An event writes its own registers of Table 16-9 only. -/
theorem reg_errEvent {s : State} {p i q k a b : Nat} (he : k ≠ R.errEvents) (hc : k ≠ R.errCnt i) :
    reg (errEvent s p i) q k a b = reg s q k a b := by
  unfold errEvent
  simp only [apply_ite (fun t => reg t q k a b), reg_msix, reg_putReg_other hc, reg_putReg_other he, ite_self]

/-- No partition may change. -/
@[reducible] def noParts : Field → Bool
  | .parts | .part _ | .regs _ | .vec _ | .mem _ | .hbm _ => false
  | .freeIx | .cores | .clusters | .stores | .tags | .out | .dieCtr | .osc | .fabric | .wardrobe | .rel | .steady | .sec |
    .fuses | .pwr | .mregs | .pattern | .tap => true

/-- Nothing but the cores and a partition's registers and contexts changes when a running context is torn down. -/
theorem beginTeardown_running_view {F : Field → Bool} {s : State} {p c : Nat} (i : Nat) (x : Option Cause)
    (hr : cstate s p c = Cs.running) (hcores : F .cores = true) (hparts : F .parts = true) (hpart : F (.part p) = true)
    (hregs : F (.regs p) = true) : view F (beginTeardown s p c i x) = view F s := by
  have unasked : ¬(cstate s p c = Cs.preempting ∨ cstate s p c = Cs.resuming) := by rw [hr]; decide
  have held : cstate s p c ≠ Cs.preempted := by rw [hr]; decide
  simp only [beginTeardown, unasked, held, if_false, ↓view_foldl, ↓onCore_view, ↓onCtx_view, ↓setCstate_view,
    ↓onPart_view_part, implies_true, hcores, hparts, hpart, hregs]

/-- The partitions after events were charged are those after at most one error event. -/
theorem reg_chargeN {s : State} {cls ut idx n q k a b : Nat} (he : k ≠ R.errEvents) (hc : k ≠ R.errCnt 14) :
    reg (chargeN s cls ut idx n) q k a b = reg s q k a b := by
  have recorded (t : State) (f d : Nat) (h : t.parts = s.parts) :
      reg (eventRecord t cls ut idx f d) q k a b = reg s q k a b := by
    have hp := parts_of_view (eventRecord_view (F := noParts) t cls ut idx f d rfl rfl) rfl
    simp only [reg, partOf, hp, h]
  unfold chargeN
  extract_lets key u u' s1 s2cond crossed s2
  have h2 : reg s2 q k a b = reg s q k a b := by
    simp only [s2]; split
    · exact recorded _ _ _ rfl
    · rfl
  split
  · split
    · rw [reg_errEvent he hc, h2]
    · exact h2
  · exact h2

theorem cstate_chargeN (s : State) (cls ut idx n p c : Nat) : cstate (chargeN s cls ut idx n) p c = cstate s p c :=
  reg_chargeN (by simp only [R.cxStat, R.errEvents]; omega) (by simp only [R.cxStat, R.errCnt]; omega)

theorem cstate_errEvent (s : State) (p i q c : Nat) (hi : i % 32 ≠ 7) : cstate (errEvent s p i) q c = cstate s q c :=
  reg_errEvent (by simp only [R.cxStat, R.errEvents]; omega) (by simp only [R.cxStat, R.errCnt]; omega)

/-- What a bundle's fault leaves of everything but cores, registers and contexts. -/
@[reducible] def faulting : Field → Bool
  | .freeIx | .cores | .parts | .part _ | .regs _ => true
  | .clusters | .stores | .tags | .out | .dieCtr | .osc | .fabric | .wardrobe | .rel | .steady | .sec | .fuses | .pwr | .mregs |
    .pattern | .tap | .vec _ | .mem _ | .hbm _ => false

/-- Neither a store nor a cluster may change. -/
@[reducible] def noStores : Field → Bool
  | .clusters | .stores => false
  | .freeIx | .cores | .tags | .parts | .part _ | .regs _ | .vec _ | .mem _ | .hbm _ | .out | .dieCtr | .osc | .fabric |
    .wardrobe | .rel | .steady | .sec | .fuses | .pwr | .mregs | .pattern | .tap => true

theorem holderOf_of_clusters {s t : State} (h : t.clusters = s.clusters) (g : Nat) : holderOf t g = holderOf s g := by
  simp only [holderOf, clusOf, h]

/-- A core's fault while its context is being preempted (Table 10-4). -/
theorem coreFault_preempting {s : State} {g : Nat} {hd : Holder} (c pc ftag st : Nat) (hh : holderOf s g = some hd)
    (hr : cstate s hd.part hd.ctx = Cs.preempting) :
    cstate (coreFault s g c pc ftag st) hd.part hd.ctx = Cs.teardown ∧
      (ctxOf (coreFault s g c pc ftag st) hd.part hd.ctx).cause.map (·.fcause) = some c := by
  have taken : coreFault s g c pc ftag st =
      beginTeardown (onCore s g fun k => { k with exc := BitVec.ofNat 8 c }) hd.part hd.ctx
        (if c = Exc.spLate then Status.timeout else Status.aborted)
        (some { fstat := fstatOf c st, fpc := pc % 32768, ftag := ftag, fcause := c, fcid := cidOf g }) := by
    have other : ¬(Cs.preempting = Cs.running ∨ Cs.preempting = Cs.stopped ∨ Cs.preempting = Cs.resuming) := by decide
    simp only [coreFault, contextFault, hh, cstate_onCore, hr, other, if_false, if_true]
  rw [taken]
  exact ⟨cstate_beginTeardown .., by rw [cause_beginTeardown]; rfl⟩

/-- A core whose watchdog counts belongs to a running context (R347). -/
theorem running_of_watchdogCounts {s : State} {g : Nat} {hd : Holder} (hh : holderOf s g = some hd)
    (h : watchdogCounts s g = true) : cstate s hd.part hd.ctx = Cs.running := by
  simp only [watchdogCounts, hh, Bool.and_eq_true, beq_iff_eq] at h
  exact h.1.1.1

/-- Settles O16, by the start of a tear-down: of the issue's own fault, of the watchdog's, and of a missed safe point's. -/
theorem faultsStopTheirContext : Obligations.FaultsStopTheirContext := by
  unfold Obligations.FaultsStopTheirContext
  refine ⟨fun s g n c w hd h hh hc hne hr => ?_, fun s g hd hg hh hw => ?_, fun s g hd hg hh hpre hsafe hr => ?_⟩
  · have issued := issue_fault h hc hne
    obtain ⟨⟨hgr, hv, hp, -, -, -, hexc, -⟩, hpc, hst, hcause⟩ :=
      coreFault_running_spec (s := spend s n) (g := g) c (coreOf s g).pc 0 0 hh hr
    have same : view faulting (coreFault (spend s n) g c (coreOf s g).pc 0 0) = view faulting s := by
      rw [coreFault_running (s := spend s n) c (coreOf s g).pc 0 0 hh hr,
        beginTeardown_running_view (F := faulting) _ _ (by simpa using hr) rfl rfl rfl rfl]
      simp only [onCore_view, spend_view, faulting]
    have hfpc : (ctxOf (coreFault (spend s n) g c (coreOf s g).pc 0 0) hd.part hd.ctx).cause.map (·.fpc) =
        some ((coreOf s g).pc % 32768) := by
      rw [coreFault_running (s := spend s n) c (coreOf s g).pc 0 0 hh hr, cause_beginTeardown]; rfl
    exact ⟨_, issued, hst, hexc, hpc, hgr, hv, hp, hcause, hfpc, stores_of_view same rfl, clusters_of_view same rfl,
      out_of_view same rfl⟩
  · have next : exec (.watchdog g) s = .next (watchdogExpires s g) := guarded_wf _ _ (decide_eq_true hg)
    have charged : view noStores (errEvent (charge s 0x0F 1 g) hd.part 15) = view noStores s := by
      simp only [errEvent_view, charge_view, noStores, implies_true]
    have hold : holderOf (errEvent (charge s 0x0F 1 g) hd.part 15) g = some hd :=
      (holderOf_of_clusters (clusters_of_view charged rfl) g).trans hh
    have hr : cstate (errEvent (charge s 0x0F 1 g) hd.part 15) hd.part hd.ctx = Cs.running := by
      rw [cstate_errEvent _ _ _ _ _ (by decide), charge, cstate_chargeN, running_of_watchdogCounts hh hw]
    simp only [watchdogExpires, hh, when_of_true hw] at next
    obtain ⟨-, -, hst, hcause⟩ := coreFault_running_spec Exc.watchdog (coreOf s g).pc 0 0 hold hr
    have same : view noStores (coreFault (errEvent (charge s 0x0F 1 g) hd.part 15) g Exc.watchdog (coreOf s g).pc 0 0) =
        view noStores s := (coreFault_view _ _ _ _ _ _ rfl rfl rfl (fun _ => rfl) (fun _ => rfl) fun _ => rfl).trans charged
    exact ⟨_, next, hst, hcause, stores_of_view same rfl, clusters_of_view same rfl⟩
  · have next : exec (.spLate g) s = .next (spLateRaise s g) := guarded_wf _ _ (decide_eq_true hg)
    have late : ((coreOf s g).preReq && !safeNow s g) = true := by rw [hpre, hsafe]; rfl
    rw [spLateRaise, when_of_true late] at next
    obtain ⟨hst, hcause⟩ := coreFault_preempting Exc.spLate (coreOf s g).pc 0 0 hh hr
    have same : view noStores (coreFault s g Exc.spLate (coreOf s g).pc 0 0) = view noStores s :=
      coreFault_view _ _ _ _ _ _ rfl rfl rfl (fun _ => rfl) (fun _ => rfl) fun _ => rfl
    exact ⟨_, next, hst, hcause, stores_of_view same rfl, clusters_of_view same rfl⟩

end Sys2Proof.Proofs
end

section
/-! Proofs about power, pins and register writes. -/

namespace Sys2Proof.Proofs

open Sys2Proof.Machine Sys2Proof.Safety Sys2Proof.Laws

/-- A command that names units of the device goes to the state that it is guarded for (log 3). -/
theorem exec_next {c : Instr} {s t : State} (h : exec c s = guarded c t) (hw : c.wf = true) : exec c s = .next t :=
  h.trans (guarded_wf c t hw)

/-- The same with the state that its effect is. -/
theorem exec_next_of_eq {c : Instr} {s t u : State} (h : exec c s = guarded c u) (hw : c.wf = true) (e : u = t) :
    exec c s = .next t := e ▸ exec_next h hw

/-! ### Power and pins (R414 to R432) -/

/-- The rails that a start leaves (R414, R420). -/
theorem railsStart_rails (s : State) (hv : s.pwr.vinOk = true) (he : s.pwr.pwrEn = true) :
    (railsStart s).pwr.rails = if s.pwr.blocked = false ∧ s.pwr.rails = 0 then 1 else s.pwr.rails := by
  simp only [railsStart, hv, he]
  cases s.pwr.blocked <;> by_cases hr : s.pwr.rails = 0 <;> simp [hr]

theorem railsStart_of_pwr (s : State) : railsStart s = { s with pwr := (railsStart s).pwr } := by
  unfold railsStart
  split <;> rfl

/-- A start changes the rails only (R414, R420). -/
theorem railsStart_pins (s : State) :
    (railsStart s).pwr.pwrEn = s.pwr.pwrEn ∧ (railsStart s).pwr.resetN = s.pwr.resetN ∧
      (railsStart s).pwr.onReset = s.pwr.onReset ∧ (railsStart s).pwr.vinOk = s.pwr.vinOk := by
  unfold railsStart
  split <;> exact ⟨rfl, rfl, rfl, rfl⟩

/-- Free values and the security state may change, but nothing that is one-time programmable. -/
@[reducible] def inSec : Field → Bool
  | .freeIx | .sec => true
  | .fuses | .cores | .clusters | .stores | .tags | .parts | .part _ | .regs _ | .vec _ | .mem _ | .hbm _ | .out |
    .dieCtr | .osc | .fabric | .wardrobe | .rel | .steady | .pwr | .mregs | .pattern | .tap => false

theorem stopFlash_idle {s : State} (h : s.sec.frun = none) : stopFlash s = s := by
  simp only [stopFlash, h]

/-- What the loss of every rail leaves (R387, R415, R421). -/
def Gone (s t : State) : Prop :=
  t.pwr.rails = 0 ∧ t.pwr.pgood = false ∧ t.parts = [] ∧ t.stores = [] ∧ t.cores = [] ∧ t.mregs = [] ∧
    t.sec.owners = s.sec.owners ∧ t.sec.jtag = s.sec.jtag ∧ t.sec.isvc = s.sec.isvc ∧ t.sec.idKey = none ∧
    (s.sec.frun = none → t.sec.flash = s.sec.flash) ∧ t.pending = s.pending

theorem gone_railsOff {s u : State} {orderly : Bool} (hsec : u.sec = s.sec) (hpending : u.pending = s.pending) :
    Gone s (railsOff u orderly) := by
  have same := stopFlash_view (F := inSec) u rfl rfl
  have hf := fuses_of_view same rfl
  simp only [fuses, Prod.mk.injEq, hsec] at hf
  obtain ⟨howners, -, hisvc, hjtag⟩ := hf
  have hp := (pending_of_view same).trans hpending
  refine ⟨rfl, rfl, rfl, rfl, rfl, rfl, howners, hjtag, hisvc, rfl, fun h => ?_, hp⟩
  show (stopFlash u).sec.flash = s.sec.flash
  rw [stopFlash_idle (by rw [hsec, h]), hsec]

/-- Of the input stage the loss of rails keeps the pins and latches. -/
theorem railsOff_pins (s : State) (orderly : Bool) :
    let t := (railsOff s orderly).pwr
    t.pwrEn = s.pwr.pwrEn ∧ t.vinOk = s.pwr.vinOk ∧ t.blocked = s.pwr.blocked ∧ t.faultN = s.pwr.faultN ∧
      t.thermtripN = s.pwr.thermtripN := by
  have hp : (stopFlash s).pwr = s.pwr := pwr_of_view (stopFlash_view (F := inSec) s rfl rfl) rfl
  simp only [railsOff, hp, and_self]

/-- A latching cause of the input stage (R430). -/
theorem latchedStop_on {s : State} (trip : Bool) (h : s.pwr.rails ≠ 0) :
    Gone s (latchedStop s trip) ∧ (latchedStop s trip).pwr.blocked = true ∧ (latchedStop s trip).pwr.faultN = false ∧
      (latchedStop s trip).pwr.thermtripN = (s.pwr.thermtripN && !trip) := by
  rw [latchedStop, if_neg h]
  obtain ⟨-, -, hb, hf, ht⟩ := railsOff_pins
    { s with pwr := { s.pwr with blocked := true, faultN := false, thermtripN := s.pwr.thermtripN && !trip } } false
  exact ⟨gone_railsOff rfl rfl, hb, hf, ht⟩

/-- `THERM_N` with its hysteresis (R419). -/
theorem thermal_spec {s : State} (m : BitVec 16) (hg : s.pwr.pgood = true) :
    let t := thermal s m
    t.pwr.tmax = m ∧ (1000 ≤ m.toNat → t.pwr.thermN = false) ∧ (m.toNat < 970 → t.pwr.thermN = true) ∧
      (970 ≤ m.toNat → m.toNat < 1000 → t.pwr.thermN = s.pwr.thermN) ∧
      t.out = (if t.pwr.thermN = s.pwr.thermN then s.out else s.out ++ [.ibi]) ∧ t = { s with pwr := t.pwr, out := t.out } := by
  have settled : thermal s m =
      { s with
        pwr := { s.pwr with
          tmax := m, thermN := if 1000 ≤ m.toNat then false else if m.toNat < 970 then true else s.pwr.thermN }
        out := if (if 1000 ≤ m.toNat then false else if m.toNat < 970 then true else s.pwr.thermN) = s.pwr.thermN then s.out
          else s.out ++ [.ibi] } := by
    generalize hn : (if 1000 ≤ m.toNat then false else if m.toNat < 970 then true else s.pwr.thermN) = n
    simp only [thermal, hg, hn]
    cases n <;> cases s.pwr.thermN <;> rfl
  rw [settled]
  refine ⟨rfl, fun h => if_pos h, fun h => ?_, fun h h' => ?_, rfl, rfl⟩
  · exact (if_neg (by omega)).trans (if_pos h)
  · exact (if_neg (by omega)).trans (if_neg (by omega))

/-- Settles O60, by what a start of the rails and their loss leave, and by the pins of each command. -/
theorem powerAndPins : Obligations.PowerAndPins := by
  unfold Obligations.PowerAndPins
  refine ⟨fun s => ?_, fun s => ?_⟩
  · intro gone starts
    refine ⟨fun hen => ?_, fun hr => ⟨_, exec_next rfl rfl, ?_⟩, fun hen => ⟨_, exec_next rfl rfl, ?_⟩,
      ⟨_, exec_next rfl rfl, ?_⟩, ⟨_, exec_next rfl rfl, ?_⟩, fun hr => ?_, fun hr => ?_, fun hr => ⟨_, exec_next rfl rfl, ?_⟩⟩
    · obtain ⟨hen', hreset, hon, -⟩ := railsStart_pins { s with pwr := { s.pwr with pwrEn := true, resetN := false, onReset := true } }
      exact ⟨_, exec_next_of_eq rfl rfl (if_neg (by simp [hen])), hen', hreset, hon, fun hv => railsStart_rails _ hv rfl,
        railsStart_of_pwr _⟩
    · rw [when_of_true (by simp [hr])]; exact ⟨rfl, rfl⟩
    · rw [pwrEnDeassert, if_neg (by simp [hen])]
      have pins := railsOff_pins { s with pwr := { s.pwr with pwrEn := false } } (shutDown s)
      exact ⟨gone_railsOff (orderly := shutDown s) rfl rfl, pins.1, rfl, rfl, rfl⟩
    · obtain ⟨hen, hvin, -⟩ := railsOff_pins { s with pwr := { s.pwr with vinOk := false } } false
      exact ⟨gone_railsOff (orderly := false) rfl rfl, hvin, hen⟩
    · obtain ⟨-, -, -, hvin⟩ := railsStart_pins { s with pwr := { s.pwr with vinOk := true } }
      exact ⟨hvin, fun hen => railsStart_rails { s with pwr := { s.pwr with vinOk := true } } rfl hen, railsStart_of_pwr _⟩
    · obtain ⟨hgone, hb, hf, ht⟩ := latchedStop_on false hr
      exact ⟨_, exec_next rfl rfl, hgone, hb, hf, by simpa using ht⟩
    · obtain ⟨hgone, hb, hf, ht⟩ := latchedStop_on true hr
      exact ⟨_, exec_next rfl rfl, hgone, hb, hf, by simpa using ht⟩
    · rw [when_of_true (by simp [hr])]; exact ⟨rfl, rfl⟩
  · refine ⟨fun b m hg => ?_, fun m hg => ⟨_, exec_next rfl rfl, thermal_spec m hg⟩, fun d hup ha => ?_, fun d ha => ?_,
      fun b hup => ?_⟩
    · exact exec_next_of_eq rfl rfl (when_of_true hg)
    · have assigned : assignAddr s d = { s with pwr := { s.pwr with i3cAddr := some d } } := by simp [assignAddr, hup, ha]
      exact ⟨exec_next_of_eq rfl rfl assigned, exec_next_of_eq rfl rfl assigned⟩
    · have kept : assignAddr s d = s := by
        have : s.pwr.i3cAddr.isNone = false := by simpa [Option.isSome_iff_ne_none] using ha
        simp [assignAddr, this]
      exact ⟨exec_next_of_eq rfl rfl kept, exec_next_of_eq rfl rfl kept⟩
    · exact exec_next_of_eq rfl rfl (when_of_true hup)

/-! ### Register writes (R5, R390) -/

theorem registerWrite_bar0 (s : State) (p off : Nat) (w : Word) (h : off % 8 = 0) :
    registerWrite s (.bar0 p) off 8 w = bar0Write s p off w := by
  simp [registerWrite, h]

theorem registerWrite_mgmt (s : State) (off : Nat) (w : Word) (h : off % 8 = 0) :
    registerWrite s .mgmt off 8 w = mgmtWrite s off w := by
  simp [registerWrite, h]

/-- A PCTL register other than `LAT_TOL` and `SEAM` (R395). -/
theorem pctlWrite_plain {s : State} {p off : Nat} (w : Word) (hl : off ≠ R.pcLattol) (hs : off ≠ R.pcSeam) :
    pctlWrite s p off w = bar0Plain s p off w := by
  simp [pctlWrite, hl, hs]

/-- A context takes no doorbell command unless its partition is LIVE (R231, R299). -/
theorem cxDoorbell_not_live {s : State} {p : Nat} (c n : Nat) (h : (partOf s p).ptstate ≠ 1) : cxDoorbell s p c n = s :=
  if_pos (by rw [bne_iff_ne.mpr h]; rfl)

/-- A doorbell write of command `n` to context `c` (R231). -/
theorem bar0Write_doorbell {s : State} {p c n : Nat} {w : Word} (hc : c < 64) (hw : fld w 3 0 = n) :
    bar0Write s p (0x20000 + 4096 * c) w = cxDoorbell s p c n := by
  have page : dbellWrite s p (0x20000 + 4096 * c) w = cxDoorbell s p c n := by
    have hoff : (0x20000 + 4096 * c) % 4096 = 0 := by omega
    have hctx : (0x20000 + 4096 * c - 0x20000) / 4096 = c := by omega
    simp only [dbellWrite, hoff, hctx, hw]
  by_cases hst : (partOf s p).ptstate = 0 ∨ (partOf s p).ptstate = 5 ∨
      ((partOf s p).ptstate = 3 ∧ ¬(0x1000 ≤ 0x20000 + 4096 * c ∧ 0x20000 + 4096 * c < 0x2000))
  · exact (if_pos hst).trans (cxDoorbell_not_live c n (by omega)).symm
  · rw [bar0Write, if_neg hst, if_neg (by omega), if_neg (by omega), if_neg (by omega), if_neg (by omega),
      if_neg (by omega), if_pos (by omega), page]

/-- Commands that two instructions share. -/
theorem exec_congr {c d : Instr} {s t u : State} (hc : exec c s = guarded c t) (hd : exec d s = guarded d u)
    (hwc : c.wf = true) (hwd : d.wf = true) (e : t = u) : exec c s = exec d s := by
  rw [exec_next hc hwc, exec_next hd hwd, e]

/-- The commands of the management space need the firmware (R402, R404). -/
theorem mgmtWrite_down {s : State} (a : Nat) (w : Word) (h : firmwareUp s = false) : mgmtWrite s a w = s := by
  simp [mgmtWrite, h]

theorem pmCommand_down {s : State} (n : Nat) (h : firmwareUp s = false) : pmCommand s n = s := by
  simp [pmCommand, serving, h]

theorem devResetCmd_down {s : State} (h : firmwareUp s = false) : devResetCmd s = s := by
  simp [devResetCmd, h]

theorem fenceCmd_down {s : State} (on : Bool) (ut i : Nat) (h : firmwareUp s = false) : fenceCmd s on ut i = s := by
  simp [fenceCmd, serving, h]

theorem mgmtWrite_pmCmd (s : State) (w : Word) : mgmtWrite s M.pmCmd w = pmCommand s (fld w 3 0) := by
  cases h : firmwareUp s
  · rw [mgmtWrite_down _ _ h, pmCommand_down _ h]
  · simp [mgmtWrite, h, mgmtListed, M.pmCmd, M.view]

theorem mgmtWrite_rst {s : State} {a : Nat} (w : Word) (h : firmwareUp s = true) (ha : a = M.fnCmd ∨ a = M.rsCmd) :
    mgmtWrite s a w = rstWrite s a w := by
  rcases ha with rfl | rfl <;> simp [mgmtWrite, h, mgmtListed, M.fnCmd, M.rsCmd, M.view, M.pmCmd]

theorem mgmtWrite_dreset (s : State) : mgmtWrite s M.rsCmd 2 = devResetCmd s := by
  cases h : firmwareUp s
  · rw [mgmtWrite_down _ _ h, devResetCmd_down h]
  · rw [mgmtWrite_rst _ h (.inr rfl)]; rfl

/-- The fields of a FENCE command for panel `i` (Table 14-12). -/
theorem fenceWord_fields : ∀ i < 16, fld (BitVec.ofNat 64 (i * 65536 + 0x301)) 1 0 = 1 ∧
    fld (BitVec.ofNat 64 (i * 65536 + 0x301)) 11 8 = 3 ∧ fld (BitVec.ofNat 64 (i * 65536 + 0x301)) 31 16 = i := by
  decide

theorem mgmtWrite_fence {s : State} {i : Nat} (hi : i < 16) :
    mgmtWrite s M.fnCmd (BitVec.ofNat 64 (i * 65536 + 0x301)) = fenceCmd s true 3 i := by
  obtain ⟨hcmd, hut, hix⟩ := fenceWord_fields i hi
  cases h : firmwareUp s
  · rw [mgmtWrite_down _ _ h, fenceCmd_down _ _ _ h]
  · rw [mgmtWrite_rst _ h (.inl rfl), rstWrite, if_pos rfl, hcmd, hut, hix]
    rfl

/-- Settles O59, by where each write goes. -/
theorem registerWrites : Obligations.RegisterWrites := by
  unfold Obligations.RegisterWrites
  refine ⟨fun s sp off len w hok hne => ?_, fun s p off w hp ho hlt => ?_, fun s p c hp hc => ?_, fun s => ?_⟩
  · exact exec_next_of_eq rfl hok (if_pos hne)
  · have hwf : (Instr.registerWrite (.bar0 p) off 8 w).wf = true := by simp [Instr.wf, spaceOk, partOk, hp, hlt]
    refine ⟨fun h0 => ?_, fun h1 hlo hhi hl hs => ?_⟩
    · exact exec_next_of_eq rfl hwf (by rw [registerWrite_bar0 _ _ _ _ ho, bar0Write, h0]; exact if_pos (.inl rfl))
    · have plain : registerWrite s (.bar0 p) off 8 w = bar0Plain s p off w := by
        rw [registerWrite_bar0 _ _ _ _ ho, bar0Write, h1]
        simp [show ¬off < 4096 by omega, hhi, pctlWrite_plain w hl hs]
      have hx : partOf (bar0Plain s p off w) p =
          (partOf s p).setReg off ((bar0Reg off).write w ((partOf s p).reg off)) := partOf_onPart ..
      refine ⟨_, exec_next_of_eq rfl hwf plain, ?_, fun b hb => ?_, ?_, fun q hq => partOf_onPart_ne _ _ _ _ hq, rfl⟩
      · rw [hx, Partition_reg_setReg]
      · rw [hx, Partition_reg_setReg_ne _ _ _ _ hb]
      · rw [hx]; rfl
  · have hwf (w : Word) : (Instr.registerWrite (.bar0 p) (0x20000 + 4096 * c) 8 w).wf = true := by
      simp [Instr.wf, spaceOk, partOk, hp]; omega
    have hctx : ctxOk p c = true := by simp [ctxOk, hp, hc]
    have written (w : Word) (n : Nat) (hw : fld w 3 0 = n) :
        registerWrite s (.bar0 p) (0x20000 + 4096 * c) 8 w = cxDoorbell s p c n := by
      rw [registerWrite_bar0 _ _ _ _ (by omega), bar0Write_doorbell hc hw]
    exact ⟨exec_congr rfl rfl (hwf 1) hctx (written 1 1 rfl), exec_congr rfl rfl (hwf 5) hctx (written 5 5 rfl)⟩
  · refine ⟨exec_congr rfl rfl rfl rfl ?_, exec_congr rfl rfl rfl rfl ?_, fun i hi => exec_congr rfl rfl rfl ?_ ?_⟩
    · rw [registerWrite_mgmt _ _ _ rfl, mgmtWrite_pmCmd]; rfl
    · rw [registerWrite_mgmt _ _ _ rfl, mgmtWrite_dreset]
    · simp only [Instr.wf, fenceUnitOk, Bool.and_eq_true, decide_eq_true_eq]; omega
    · rw [registerWrite_mgmt _ _ _ rfl, mgmtWrite_fence hi]

end Sys2Proof.Proofs
end

section
/-! Proofs about mailboxes and about frames on the management port. -/

namespace Sys2Proof.Proofs

open Sys2Proof.Machine Sys2Proof.Safety Sys2Proof.Laws

/-! ### Mailboxes (R374 to R376, R384) -/

theorem doeReport_some {s : State} {p h kind : Nat} {nonce bs : List Byte} (hu : mailboxUp s p h = true)
    (hr : report s kind p nonce = some bs) : doeReport s p h kind nonce = emit s (.answer h Status.ok bs) := by
  simp [doeReport, hu, hr]

theorem doeReport_none {s : State} {p h kind : Nat} {nonce : List Byte} (hu : mailboxUp s p h = true)
    (hr : report s kind p nonce = none) : doeReport s p h kind nonce = emit s (.answer h Status.notRun []) := by
  simp [doeReport, hu, hr]

theorem report_noIdentity {s : State} (kind p : Nat) (nonce : List Byte) (hk : s.sec.idKey = none) :
    report s kind p nonce = none := by
  simp [report, hk]

theorem report_device {s : State} {k : BitVec 384} (p : Nat) (nonce : List Byte) (hk : s.sec.idKey = some k) :
    report s 1 p nonce = some (reportBody s none nonce ++ slice (Config.ecdsaSign k (reportBody s none nonce)) 0 96) := by
  simp [report, hk]

theorem report_partition {s : State} {k : BitVec 384} {p : Nat} (nonce : List Byte) (hk : s.sec.idKey = some k) (hp : p < 16)
    (he : (partOf s p).ptstate ≠ 0) : report s 2 p nonce =
      some (reportBody s (some p) nonce ++ slice (Config.ecdsaSign k (reportBody s (some p) nonce)) 0 96) := by
  simp [report, hk, hp, exists_, he]

/-- A key that a secured session brings (R384). -/
theorem ideKey_secured {s : State} {h : Nat} (mem : Bool) (key : BitVec 256) (hf : firmwareUp s = true)
    (hh : hostUp s h = true) : ideKey s h mem key true =
      if mem then { s with sec := { s.sec with ideMem := sset 0 s.sec.ideMem h key } }
      else { s with sec := { s.sec with ideIo := sset 0 s.sec.ideIo h key } } := by
  simp [ideKey, hf, hh]

theorem ideKey_open (s : State) (h : Nat) (mem : Bool) (key : BitVec 256) : ideKey s h mem key false = s := by
  simp [ideKey]

/-- Settles O57, by the reports of R375 and the stream of each key. -/
theorem mailboxesAnswer : Obligations.MailboxesAnswer := by
  unfold Obligations.MailboxesAnswer
  intro s p h hp hh
  have wf : (partOk p && decide (h < 2)) = true := by simp [partOk, hp, hh]
  refine ⟨fun hu nonce k => ⟨fun hk => ?_, fun hk he => ?_, fun kind hk => ?_⟩, fun req hu => ?_, fun mem key => ⟨?_, ?_⟩⟩
  · exact exec_next_of_eq rfl wf (doeReport_some hu (report_device p nonce hk))
  · exact exec_next_of_eq rfl wf (doeReport_some hu (report_partition nonce hk hp he))
  · exact exec_next_of_eq rfl wf (doeReport_none hu (report_noIdentity kind p nonce hk))
  · exact exec_next_of_eq rfl wf (if_pos hu)
  · intro hf hup
    refine ⟨_, exec_next_of_eq rfl (decide_eq_true hh) (ideKey_secured mem key hf hup), ?_⟩
    cases mem
    · exact ⟨sget_sset .., rfl, fun j hj => ⟨rfl, sget_sset_ne _ _ _ _ _ _ hj⟩, rfl⟩
    · exact ⟨sget_sset .., rfl, fun j hj => ⟨sget_sset_ne _ _ _ _ _ _ hj, rfl⟩, rfl⟩
  · exact exec_next_of_eq rfl (decide_eq_true hh) (ideKey_open ..)

/-! ### Frames on the management port (R409 to R411) -/

/-- Taking a frame changes the inbox only. -/
theorem takeFrame_fabric (s : State) (f : MgmtFrame) : ∃ fab, takeFrame s f = { s with fabric := fab } := by
  unfold takeFrame
  split
  · exact ⟨_, rfl⟩
  · exact ⟨s.fabric, rfl⟩

/-- The kind and operation that a frame's bytes say. -/
theorem frameSays_head {f : MgmtFrame} {mop : Nat} (h : frameSays f mop = true) :
    leAt f.signed 0 1 = 0x80 ∧ leAt f.signed 1 1 = mop := by
  simp only [frameSays, Bool.and_eq_true, beq_iff_eq] at h
  obtain ⟨⟨⟨⟨⟨⟨hk, hm⟩, -⟩, -⟩, -⟩, -⟩, -⟩ := h
  exact ⟨hk, hm⟩

/-- A request over the management port of this device acts, its frame taken. -/
theorem mgmtRequest_here {s : State} {f : MgmtFrame} {mop : Nat} (act : State → State) (hf : firmwareUp s = true)
    (hr : s.pwr.refok = true) (hd : f.mdev = ownId s) (hs : frameSays f mop = true) (h0 : mop ≠ 0) (h4 : mop ≤ 4) :
    mgmtRequest s f mop act = act (takeFrame s f) := by
  obtain ⟨hk, hm⟩ := frameSays_head hs
  have known : ¬((mop = 0 ∨ 4 < mop) ∧ frameSays f mop = true ∧ ownId s = ownId s) := by omega
  simp [mgmtRequest, mgmtLinked, hf, hr, hd, hs, hk, hm, kindReserved, h0, h4]

/-- The bytes before the tag of an answer to a frame (Table 16-19). -/
def answerBytes (f : MgmtFrame) (mop status : Nat) (data : List Byte) : List Byte :=
  toLE 1 0x81 ++ toLE 1 mop ++ toLE 1 status ++ toLE 1 0 ++ toLE 4 f.mdev.toNat ++ toLE 8 f.mseq.toNat ++
    toLE 4 f.maddr.toNat ++ toLE 4 data.length ++ zeros 8 ++ data

/-- The answer to a frame of the management port. -/
theorem mgmtReply_here {f : MgmtFrame} (s : State) (mop status : Nat) (data : List Byte) (key : Option (BitVec 256))
    (hv : f.via = none) : ∃ tag, mgmtReply s f mop status data key = emit s (.mgmt (answerBytes f mop status data ++ tag)) := by
  simp only [mgmtReply, hv]
  exact ⟨_, rfl⟩

/-- Words of the `PAT` block need no measurement and nothing of the fabric. -/
theorem mgmtWord_pat {s : State} {fab : Fabric} {a : Nat} (free : Word) (hlo : 0x500000 ≤ a) (hhi : a < 0x600000) :
    mgmtWord { s with fabric := fab } a free = mgmtWord s a 0 := by
  simp only [mgmtWord, M.view, show ¬0x10000000 + 0x1000000 * 0 ≤ a by omega, show ¬a < 0x100000 by omega,
    show ¬a < 0x400000 by omega, show ¬a < 0x500000 by omega, hhi, if_true, if_false] <;> rfl

theorem flatMap_zipIdx {α β : Type} (l : List α) (g : α → List β) : (l.zipIdx.flatMap fun e => g e.1) = l.flatMap g := by
  rw [← List.flatMap_map, List.zipIdx_map_fst]

/-- The words of a range lie in it. -/
theorem mem_rangeWords {f : MgmtFrame} {b : Nat} (h : b ∈ rangeWords f) :
    f.maddr.toNat ≤ b ∧ b + 8 ≤ f.maddr.toNat + f.mlen := by
  simp only [rangeWords, List.mem_map, List.mem_range] at h
  obtain ⟨i, hi, rfl⟩ := h
  omega

theorem rangeListed_of_lt {f : MgmtFrame} (ha : f.maddr.toNat < 0x900000) (h : f.maddr.toNat + f.mlen ≤ 0x900000) :
    rangeListed f = true := by
  simp only [rangeListed, mgmtListed, Bool.and_eq_true, Bool.or_eq_true, decide_eq_true_eq, List.all_eq_true]
  exact ⟨.inl ha, fun b hb => .inl (by have := mem_rangeWords hb; omega)⟩

/-- A READ of the `PAT` block (R402, R411). -/
theorem mgmtRead_pat {s : State} {f : MgmtFrame} {fab : Fabric} (h8 : f.maddr.toNat % 8 = 0) (hl8 : f.mlen % 8 = 0)
    (hlen : f.mlen ≤ 1024) (hlo : 0x500000 ≤ f.maddr.toNat) (hhi : f.maddr.toNat + f.mlen ≤ 0x600000)
    (ha : f.maddr.toNat < 0x600000) :
    mgmtRead { s with fabric := fab } f = mgmtReply (spend { s with fabric := fab } (f.mlen / 8)) f Mop.read Status.ok
      ((rangeWords f).flatMap fun b => toLE 8 (mgmtWord s b 0).toNat) s.sec.sessKey := by
  have free : rangeIn f 0x500000 0x600000 = true := decide_eq_true ⟨hlo, hhi⟩
  have ok : rangeOk f = true := by simp [rangeOk, h8, hl8, hlen]
  have listed : rangeListed f = true := rangeListed_of_lt (by omega) (by omega)
  have words : ((rangeWords f).zipIdx.flatMap fun e =>
      toLE 8 (mgmtWord { s with fabric := fab } e.1 (freeAt { s with fabric := fab } e.2)).toNat) =
        (rangeWords f).flatMap fun b => toLE 8 (mgmtWord s b 0).toNat := by
    rw [← flatMap_zipIdx (rangeWords f)]
    refine List.flatMap_congr fun e he => ?_
    have hb := mem_rangeWords (List.fst_mem_of_mem_zipIdx he)
    rw [mgmtWord_pat _ (by omega) (by omega)]
  simp only [mgmtRead, authorised, free, ok, listed, if_true, Bool.not_true, Bool.or_false, Bool.false_eq_true, if_false, words]

/-- A request that needs a session finds none. -/
theorem authorised_noSession {s : State} {f : MgmtFrame} (mop : Nat) (act : State → State) (hk : s.sec.sessKey = none) :
    authorised s f mop false act = mgmtReply s f mop Status.denied [] none := by
  simp [authorised, mgmtAuth, hk]

/-! #### Writes of the KEYS buffer -/

theorem le_lt (bs : List Byte) : le bs < 2 ^ (8 * bs.length) := by
  induction bs with
  | nil => simp
  | cons b bs ih =>
    have hb : b.toNat < 2 ^ 8 := b.isLt
    rw [le, List.length_cons, show 8 * (bs.length + 1) = 8 + 8 * bs.length by ring, Nat.pow_add]
    omega

/-- Bytes are the little-endian bytes of the number that they stand for. -/
theorem toLE_le (bs : List Byte) : toLE bs.length (le bs) = bs := by
  induction bs with
  | nil => rfl
  | cons b bs ih =>
    have hb : b.toNat < 256 := b.isLt
    have low : BitVec.ofNat 8 (b.toNat + 256 * le bs) = b := by
      apply BitVec.eq_of_toNat_eq
      rw [BitVec.toNat_ofNat]
      omega
    rw [List.length_cons, toLE, le, low, show (b.toNat + 256 * le bs) / 256 = le bs by omega, ih]

theorem slice_getD (bs : List Byte) {off n i : Nat} (h : i < n) : (slice bs off n).getD i 0 = bs.getD (off + i) 0 := by
  simp only [slice, List.getD, zeros]
  by_cases hi : i < ((bs.drop off).take n).length
  · rw [List.getElem?_append_left hi]
    rw [List.getElem?_take_of_lt h, List.getElem?_drop]
  · rw [List.getElem?_append_right (by omega)]
    have hl : bs.length ≤ off + i := by simp at hi; omega
    rw [List.getElem?_eq_none hl]
    by_cases h' : i - ((bs.drop off).take n).length < n - ((bs.drop off).take n).length
    · rw [List.getElem?_replicate_of_lt h']; rfl
    · rw [List.getElem?_eq_none (by simpa using h')]

/-- A word of the KEYS buffer takes its bytes (Table 16-15). -/
theorem mgmtWrite_kybuf {s : State} {b : Nat} (w : Word) (hf : firmwareUp s = true) (hlo : M.kyBuf ≤ b) (hhi : b < M.kyCmd) :
    mgmtWrite s b w = { s with sec := { s.sec with kybuf := mput s.sec.kybuf (b - M.kyBuf) (toLE 8 w.toNat) } } := by
  simp only [M.kyBuf, M.kyCmd] at hlo hhi
  simp only [mgmtWrite, hf, mgmtListed, M.view, M.pmCmd, keysWrite, M.kyBuf, M.kyCmd]
  simp [show b < 0x900000 by omega, show ¬0x10000000 ≤ b by omega, show b ≠ 0x38 by omega, show ¬b < 0x100000 by omega,
    show ¬b < 0x400000 by omega, show b < 0x600000 by omega, hhi]

/-- The words of a range, written one after the other. -/
def writeWords (f : MgmtFrame) (n : Nat) (s : State) : State :=
  (List.range n).foldl (fun u i => mgmtWrite u (f.maddr.toNat + 8 * i) (BitVec.ofNat 64 (leAt f.mdata (8 * i) 8))) s

theorem writeWords_eq (f : MgmtFrame) (s : State) :
    (rangeWords f).zipIdx.foldl (fun u e => mgmtWrite u e.1 (BitVec.ofNat 64 (leAt f.mdata (8 * e.2) 8))) s =
      writeWords f (f.mlen / 8) s := by
  have pairs : (rangeWords f).zipIdx = (List.range (f.mlen / 8)).map fun i => (f.maddr.toNat + 8 * i, i) := by
    apply List.ext_getElem
    · simp [rangeWords]
    · intro i h h'
      simp [rangeWords]
  rw [pairs, List.foldl_map]
  rfl

/-- The word that a range brings for offset `8 i` is its eight bytes. -/
theorem toLE_leAt (bs : List Byte) (off : Nat) : toLE 8 (BitVec.ofNat 64 (leAt bs off 8)).toNat = slice bs off 8 := by
  have hlt : leAt bs off 8 < 2 ^ 64 := by simpa [leAt] using le_lt (slice bs off 8)
  rw [BitVec.toNat_ofNat, Nat.mod_eq_of_lt hlt]
  simpa [leAt] using toLE_le (slice bs off 8)

/-- What the words of a range leave in the KEYS buffer: the frame's bytes in the range, every other byte as it was. -/
theorem writeWords_kybuf {f : MgmtFrame} {s : State} (hf : firmwareUp s = true) (hlo : M.kyBuf ≤ f.maddr.toNat) (n : Nat)
    (hn : f.maddr.toNat + 8 * n ≤ M.kyCmd) : ∃ kb, writeWords f n s = { s with sec := { s.sec with kybuf := kb } } ∧
      ∀ c, mget kb c = if f.maddr.toNat - M.kyBuf ≤ c ∧ c < f.maddr.toNat - M.kyBuf + 8 * n
        then f.mdata.getD (c - (f.maddr.toNat - M.kyBuf)) 0 else mget s.sec.kybuf c := by
  induction n with
  | zero => exact ⟨s.sec.kybuf, rfl, fun c => by rw [if_neg (by omega)]⟩
  | succ n ih =>
    obtain ⟨kb, hw, hkb⟩ := ih (by omega)
    generalize hb : f.maddr.toNat - M.kyBuf = b at hkb
    have next : writeWords f (n + 1) s =
        { s with sec := { s.sec with kybuf := mput kb (b + 8 * n) (slice f.mdata (8 * n) 8) } } := by
      rw [writeWords, List.range_succ, List.foldl_append, ← writeWords, hw, List.foldl_cons, List.foldl_nil,
        mgmtWrite_kybuf _ (by exact hf) (by omega) (by omega), toLE_leAt, show f.maddr.toNat + 8 * n - M.kyBuf = b + 8 * n by omega]
    refine ⟨_, next, fun c => ?_⟩
    by_cases hc : b + 8 * n ≤ c ∧ c < b + 8 * n + 8
    · have new := mget_mput kb (b + 8 * n) (c - (b + 8 * n)) (slice f.mdata (8 * n) 8) (by simp; omega)
      rw [show b + 8 * n + (c - (b + 8 * n)) = c by omega] at new
      rw [new, slice_getD _ (by omega), if_pos (by omega), show 8 * n + (c - (b + 8 * n)) = c - b by omega]
    · rw [mget_mput_ne _ _ _ _ (by simp; omega), hkb]
      exact if_congr (by omega) rfl rfl

/-- A WRITE into the KEYS buffer (R411, Table 16-15). -/
theorem mgmtWriteReq_kybuf {s : State} {f : MgmtFrame} (hf : firmwareUp s = true) (hd : f.mdata.length = f.mlen)
    (h8 : f.maddr.toNat % 8 = 0) (hl8 : f.mlen % 8 = 0) (hlen : f.mlen ≤ 1024) (hlo : M.kyBuf ≤ f.maddr.toNat)
    (hhi : f.maddr.toNat + f.mlen ≤ M.kyCmd) : mgmtWriteReq s f =
      mgmtReply (writeWords f (f.mlen / 8) s) f Mop.write Status.ok [] s.sec.sessKey := by
  simp only [M.kyBuf, M.kyCmd] at hlo hhi
  have free : rangeIn f 0x400000 0x500000 = true := decide_eq_true ⟨hlo, by omega⟩
  have ok : rangeOk f = true := by simp [rangeOk, h8, hl8, hlen]
  have listed : rangeListed f = true := rangeListed_of_lt (by omega) (by omega)
  have noView : ((rangeWords f).any fun a => decide (M.view 0 ≤ a) && mgmtListed a) = false := by
    rw [List.any_eq_false]
    intro b hb
    have := mem_rangeWords hb
    simp [M.view]
    omega
  simp only [mgmtWriteReq, authorised, free, ok, listed, noView, hd, writeWords_eq, if_true, Bool.not_true, bne_self_eq_false, Bool.or_false, Bool.false_eq_true, if_false]

/-- The bytes of a frame, read back from the KEYS buffer. -/
theorem mread_of_getD {m : Mem} {b : Nat} {bs : List Byte} (h : ∀ i < bs.length, mget m (b + i) = bs.getD i 0) :
    mread m b bs.length = bs := by
  rw [mread_eq]
  apply List.ext_getElem
  · simp
  · intro i hi hi'
    simp only [List.getElem_map, List.getElem_range]
    rw [h i hi']
    simp [List.getD, hi']

/-- Of the security state a renewal of the nonce changes the nonce (R372). -/
theorem renewNonce_session (s : State) :
    (renewNonce s).sec.sessKey = s.sec.sessKey ∧ (renewNonce s).sec.sessSeq = s.sec.sessSeq := by
  simp only [renewNonce, spend, and_self]

/-- A SESSION without the owner's signature (R410). -/
theorem mgmtSession_denied {s : State} {f : MgmtFrame} {id : BitVec 384} (hid : s.sec.idKey = some id) (hlen : f.mlen = 200)
    (hg : ownerSigned s Mop.session (slice f.mdata 0 97) (slice f.mdata 97 96) = false) : mgmtSession s f =
      mgmtReply (renewNonce s) f Mop.session Status.denied [] s.sec.sessKey := by
  unfold mgmtSession
  simp only [hid, hlen, hg, (renewNonce_session s).1, ne_eq, not_true_eq_false, if_false, Bool.not_false, if_true]

/-- The ephemeral key of a new session. -/
def sessionEph (s : State) : BitVec 384 := BitVec.ofNat 384 (drbg s 0 6)

/-- The key of a new session, which both ends derive (R410). -/
def sessionKey (s : State) (f : MgmtFrame) : BitVec 256 :=
  hkdf32 (toLE 32 s.sec.mnonce.toNat) (Config.ecdhX (sessionEph s) (slice f.mdata 0 97)) mgmtLabel

/-- The data of the answer to an accepted SESSION. -/
def sessionData (s : State) (f : MgmtFrame) (id : BitVec 384) : List Byte :=
  slice (Config.publicKey (sessionEph s)) 0 97 ++ slice (Config.ecdsaSign id (slice f.mdata 0 97 ++
    slice (Config.publicKey (sessionEph s)) 0 97)) 0 96 ++ zeros 7

/-- The device with a session under `key` (R410). -/
def withSession (s : State) (key : BitVec 256) : State :=
  spend { s with sec := { s.sec with sessKey := some key, sessSeq := none } } 6

theorem mgmtSession_made {s : State} {f : MgmtFrame} {id : BitVec 384} (hid : s.sec.idKey = some id) (hlen : f.mlen = 200)
    (hg : ownerSigned s Mop.session (slice f.mdata 0 97) (slice f.mdata 97 96) = true) : mgmtSession s f =
      mgmtReply (renewNonce (withSession s (sessionKey s f))) f Mop.session Status.ok (sessionData s f id)
        (some (sessionKey s f)) := by
  unfold mgmtSession
  simp only [hid, hlen, hg, ne_eq, not_true_eq_false, if_false, Bool.not_true, Bool.false_eq_true, sessionKey, sessionData,
    sessionEph, withSession]

/-- Settles O58, by what a taken frame leaves and by each operation's answer. -/
theorem managementFrames : Obligations.ManagementFrames := by
  unfold Obligations.ManagementFrames
  intro s f hf hr hd hv answers a still
  obtain ⟨fab, taken⟩ := takeFrame_fabric s f
  have request {mop : Nat} {act : State → State} (hs : frameSays f mop = true) (h0 : mop ≠ 0) (h4 : mop ≤ 4) :
      mgmtRequest s f mop act = act { s with fabric := fab } := taken ▸ mgmtRequest_here act hf hr hd hs h0 h4
  refine ⟨fun hs h8 hl8 hlen => ⟨fun hlo hhi ha => ?_, fun hout hpos hk => ?_⟩, fun hs hdata h8 hl8 hlen hlo hhi => ?_,
    fun k hs hlen hkind hk => ?_, fun hs hlen hid => ?_⟩
  · obtain ⟨tag, reply⟩ := mgmtReply_here (f := f) (spend { s with fabric := fab } (f.mlen / 8)) Mop.read Status.ok
      ((rangeWords f).flatMap fun b => toLE 8 (mgmtWord s b 0).toNat) s.sec.sessKey hv
    refine ⟨_, exec_next_of_eq rfl rfl ((request hs (by decide) (by decide)).trans
      ((mgmtRead_pat h8 hl8 hlen hlo hhi ha).trans reply)), ⟨tag, ?_⟩, rfl, rfl, rfl, rfl, rfl⟩
    rfl
  · have outside : rangeIn f 0x500000 0x600000 = false := decide_eq_false (by omega)
    obtain ⟨tag, reply⟩ := mgmtReply_here (f := f) { s with fabric := fab } Mop.read Status.denied [] none hv
    have denied : mgmtRead { s with fabric := fab } f = mgmtReply { s with fabric := fab } f Mop.read Status.denied [] none := by
      rw [mgmtRead, outside]
      exact authorised_noSession _ _ hk
    exact ⟨_, exec_next_of_eq rfl rfl ((request hs (by decide) (by decide)).trans (denied.trans reply)), ⟨tag, rfl⟩, rfl,
      rfl, rfl, rfl, rfl⟩
  · have hlo' : M.kyBuf ≤ f.maddr.toNat := hlo
    have hwords : 8 * (f.mlen / 8) = f.mlen := by omega
    obtain ⟨kb, written, hkb⟩ := writeWords_kybuf (s := { s with fabric := fab }) hf hlo' (f.mlen / 8) (by rw [hwords]; exact hhi)
    obtain ⟨tag, reply⟩ := mgmtReply_here (f := f) (writeWords f (f.mlen / 8) { s with fabric := fab }) Mop.write Status.ok []
      s.sec.sessKey hv
    rw [written] at reply
    rw [hwords] at hkb
    have accepted := mgmtWriteReq_kybuf (s := { s with fabric := fab }) hf hdata h8 hl8 hlen hlo' hhi
    rw [written] at accepted
    refine ⟨_, exec_next_of_eq rfl rfl ((request hs (by decide) (by decide)).trans (accepted.trans reply)), ⟨tag, rfl⟩, ?_,
      fun b hb => ?_, rfl, rfl, rfl, rfl⟩
    · rw [← hdata]
      refine mread_of_getD fun i hi => (hkb _).trans ?_
      rw [if_pos (by omega), Nat.add_sub_cancel_left]
    · exact (hkb b).trans (if_neg (by omega))
  · obtain ⟨tag, reply⟩ := mgmtReply_here (f := f) { s with fabric := fab } Mop.report Status.ok
      (reportBody s none (slice f.mdata 8 32) ++ slice (Config.ecdsaSign k (reportBody s none (slice f.mdata 8 32))) 0 96)
      s.sec.sessKey hv
    have signed : mgmtReport { s with fabric := fab } f = mgmtReply { s with fabric := fab } f Mop.report Status.ok
        (reportBody s none (slice f.mdata 8 32) ++ slice (Config.ecdsaSign k (reportBody s none (slice f.mdata 8 32))) 0 96)
        s.sec.sessKey := by
      have device := report_device (s := { s with fabric := fab }) (leAt f.mdata 1 1) (slice f.mdata 8 32) hk
      simp only [mgmtReport, hlen, hkind, if_true, device]
      rfl
    exact ⟨_, exec_next_of_eq rfl rfl ((request hs (by decide) (by decide)).trans (signed.trans reply)), ⟨tag, rfl⟩, rfl,
      rfl, rfl, rfl, rfl⟩
  · obtain ⟨id, hid⟩ := Option.ne_none_iff_exists'.mp hid
    cases hgood : ownerSigned s Mop.session (slice f.mdata 0 97) (slice f.mdata 97 96)
    · obtain ⟨tag, reply⟩ := mgmtReply_here (f := f) (renewNonce { s with fabric := fab }) Mop.session Status.denied []
        s.sec.sessKey hv
      have denied := mgmtSession_denied (s := { s with fabric := fab }) hid hlen hgood
      obtain ⟨hkey, hseq⟩ := renewNonce_session { s with fabric := fab }
      refine ⟨_, exec_next_of_eq rfl rfl ((request hs (by decide) (by decide)).trans (denied.trans reply)),
        ⟨rfl, rfl, rfl, rfl⟩, fun _ => ⟨⟨tag, rfl⟩, hkey, hseq⟩, fun h => ?_⟩
      exact absurd (hgood.symm.trans h) Bool.false_ne_true
    · have made := mgmtSession_made (s := { s with fabric := fab }) hid hlen hgood
      generalize sessionData { s with fabric := fab } f id = data at made
      generalize sessionKey { s with fabric := fab } f = key at made
      obtain ⟨tag, reply⟩ := mgmtReply_here (f := f) (renewNonce (withSession { s with fabric := fab } key)) Mop.session Status.ok
        data (some key) hv
      obtain ⟨hkey, hseq⟩ := renewNonce_session (withSession { s with fabric := fab } key)
      refine ⟨_, exec_next_of_eq rfl rfl ((request hs (by decide) (by decide)).trans (made.trans reply)),
        ⟨rfl, rfl, rfl, rfl⟩, fun h => ?_, fun _ => ⟨⟨data, tag, rfl⟩, ?_, hseq⟩⟩
      · exact absurd (hgood.symm.trans h).symm Bool.false_ne_true
      · exact fun h => Option.some_ne_none key (hkey.symm.trans h)

end Sys2Proof.Proofs
end

section
/-! Proofs about the KEYS commands and the boot flash. -/

namespace Sys2Proof.Proofs

open Sys2Proof.Machine Sys2Proof.Safety Sys2Proof.Laws

/-! ### KEYS commands (R371, R372, R389) -/

/-- No management register may change. -/
@[reducible] def noMregs : Field → Bool
  | .mregs => false
  | .freeIx | .sec | .fuses | .cores | .clusters | .stores | .tags | .parts | .part _ | .regs _ | .vec _ | .mem _ |
    .hbm _ | .out | .dieCtr | .osc | .fabric | .wardrobe | .rel | .steady | .pwr | .pattern | .tap => true

/-- Only the fabric and the management registers may change. -/
@[reducible] def portsOnly : Field → Bool
  | .fabric | .mregs => true
  | .freeIx | .sec | .fuses | .cores | .clusters | .stores | .tags | .parts | .part _ | .regs _ | .vec _ | .mem _ |
    .hbm _ | .out | .dieCtr | .osc | .wardrobe | .rel | .steady | .pwr | .pattern | .tap => false

theorem mreg_of_mregs {s t : State} (h : t.mregs = s.mregs) (a hi lo : Nat) : mreg t a hi lo = mreg s a hi lo := by
  simp only [mreg, mregOf, h]

theorem ownerIx_of_owners {s t : State} (h : t.sec.owners = s.sec.owners) : ownerIx t = ownerIx s := by
  simp only [ownerIx, h]

theorem ownerDigest_of_owners {s t : State} (h : t.sec.owners = s.sec.owners) : ownerDigest t = ownerDigest s := by
  simp only [ownerDigest, ownerIx_of_owners h, h]

/-- The entry of a key that is listed. -/
theorem sget_of_listed {α : Type} (d : α) {m : Sparse α} {i : Nat} (h : ∃ e ∈ m, e.1 = i) : ∃ e ∈ m, sget d m i = e.2 := by
  induction m with
  | nil => simp at h
  | cons c m ih =>
    obtain ⟨k, v⟩ := c
    by_cases hk : k = i
    · exact ⟨(k, v), by simp, if_pos hk⟩
    · obtain ⟨e, he, hei⟩ := h
      have hm : e ∈ m := by
        rcases List.mem_cons.mp he with rfl | hm
        · exact absurd hei hk
        · exact hm
      obtain ⟨e', he', hv⟩ := ih ⟨e, hm, hei⟩
      exact ⟨e', List.mem_cons_of_mem _ he', (if_neg hk).trans hv⟩

theorem ptstate_of_anyPartition {s : State} (h : anyPartition s = false) (p : Nat) : (partOf s p).ptstate = 0 := by
  simp only [anyPartition, List.any_eq_false, bne_iff_ne, ne_eq, not_not] at h
  by_cases hp : ∃ e ∈ s.parts, e.1 = p
  · obtain ⟨e, he, hv⟩ := sget_of_listed Partition.none_ hp
    rw [partOf, hv]
    exact h e he
  · rw [partOf, sget_absent _ _ _ fun e he hep => hp ⟨e, he, hep⟩]; rfl

/-- With no partition there is none to quiesce (R353). -/
theorem foldl_quietForReset_none {s : State} (h : ∀ p, (partOf s p).ptstate = 0) (l : List Nat) :
    l.foldl quietForReset s = s := by
  induction l with
  | nil => rfl
  | cons p l ih => rw [List.foldl_cons, quietForReset, if_pos (.inl (h p)), ih]

theorem mreg_portsDown {s : State} {a : Nat} (ha : ∀ n, a ≠ M.ptSvc n ∧ a ≠ M.ptHost n) (hi lo : Nat) :
    mreg (portsDown s) a hi lo = mreg s a hi lo := by
  have kept (t : State) (b f : Nat) (hb : a ≠ b) :
      mreg (if mreg t b 1 0 = f then t else putMreg t b 1 0 0) a hi lo = mreg t a hi lo := by
    split
    · rfl
    · exact mreg_putMreg_ne _ _ _ _ _ _ _ _ hb
  unfold portsDown
  refine List.foldlRecOn (motive := fun t => mreg t a hi lo = mreg s a hi lo) _ _ ?_ fun t ht n _ =>
    (kept t _ _ (ha n).2).trans ht
  refine List.foldlRecOn (motive := fun t => mreg t a hi lo = mreg s a hi lo) _ _ ?_ fun t ht n _ =>
    (kept t _ _ (ha n).1).trans ht
  exact List.foldlRecOn (motive := fun t => mreg t a hi lo = mreg s a hi lo) _ _ rfl fun t ht c _ => ht

/-- The ports' states are the only management registers that a device reset writes at its start, with no partition. -/
theorem mreg_beginDevReset {s : State} {a : Nat} (h : ∀ p, (partOf s p).ptstate = 0)
    (ha : ∀ n, a ≠ M.ptSvc n ∧ a ≠ M.ptHost n) (counted : Bool) (hi lo : Nat) :
    mreg (beginDevReset s counted) a hi lo = mreg s a hi lo := by
  by_cases hr : ResetPossible s
  · rw [beginDevReset_of_possible hr]
    have hs : ∀ p, (partOf (resetEvent s 0x17 0 Status.ok) p).ptstate = 0 := by
      intro p
      rw [partOf, parts_of_view (resetEvent_view (F := noParts) s 0x17 0 Status.ok rfl rfl) rfl]
      exact h p
    have same : view noMregs (resetting (zeroise (stoppedForReset s)) counted) =
        view noMregs (portsDown (abortVotes (resetEvent s 0x17 0 Status.ok) fun _ => true)) := by
      rw [stoppedForReset, foldl_quietForReset_none hs]
      simp only [resetting, view_mk, zeroise_view, stopFlash_view, noMregs, implies_true, true_or, or_true, and_self]
    have started : view noMregs (abortVotes (resetEvent s 0x17 0 Status.ok) fun _ => true) = view noMregs s := by
      simp only [abortVotes_view, resetEvent_view, noMregs, implies_true]
    rw [mreg_of_mregs (mregs_of_view same rfl), mreg_portsDown ha, mreg_of_mregs (mregs_of_view started rfl)]
  · rw [beginDevReset_of_not_possible hr]

/-- `KSTAT` after a KEYS command. -/
theorem kstat_keysEnd (s : State) {status : Nat} (h : status < 256) : mreg (keysEnd s status) M.paStat 31 24 = status := by
  rw [keysEnd, mreg_putMreg _ _ _ _ _ (by decide) (by decide)]
  exact Nat.mod_eq_of_lt h

theorem keysEnd_sec (s : State) (st : Nat) : (keysEnd s st).sec = s.sec := rfl

/-- A renewal of the nonce writes no register and leaves the keys, the count and the state of the pattern. -/
theorem renewNonce_keeps (s : State) : (renewNonce s).mregs = s.mregs ∧ (renewNonce s).sec.owners = s.sec.owners ∧
    (renewNonce s).sec.jtag = s.sec.jtag ∧ (renewNonce s).sec.unlocked = s.sec.unlocked ∧
    (renewNonce s).sec.pst = s.sec.pst ∧ (renewNonce s).sec.idKey = s.sec.idKey := by
  simp only [renewNonce, spend, and_self]

/-- The highest used owner slot. -/
theorem ownerIx_of_used {s : State} {i : Nat} (hi : i ≤ 3) (hu : (sget .blank s.sec.owners i).used = true)
    (hn : ∀ k, i < k → k ≤ 3 → (sget .blank s.sec.owners k).used = false) : ownerIx s = some i := by
  unfold ownerIx
  interval_cases i
  · simp [hn 3 (by omega) (by omega), hn 2 (by omega) (by omega), hn 1 (by omega) (by omega), hu]
  · simp [hn 3 (by omega) (by omega), hn 2 (by omega) (by omega), hu]
  · simp [hn 3 (by omega) (by omega), hu]
  · simp [hu]

theorem unused_of_ownerIx_none {s : State} (h : ownerIx s = none) {k : Nat} (hk : k ≤ 3) :
    (sget .blank s.sec.owners k).used = false := by
  have hn := List.find?_eq_none.mp h k (by simp; omega)
  simpa using hn

theorem ownerDigest_of_ownerIx {s : State} {i : Nat} (h : ownerIx s = some i) :
    ownerDigest s = (sget .blank s.sec.owners i).digest := by
  simp only [ownerDigest, h]

/-- A taken slot is used, with the digest of the key that took it. -/
theorem sget_takeSlot (s : State) (i : Nat) (key : List Byte) :
    sget .blank (takeSlot s i key).sec.owners i = { OwnerSlot.blank with digest := Config.sha384 key, used := true } :=
  sget_sset ..

theorem sget_takeSlot_ne (s : State) {i k : Nat} (key : List Byte) (h : k ≠ i) :
    sget .blank (takeSlot s i key).sec.owners k = sget .blank s.sec.owners k :=
  sget_sset_ne _ _ _ _ _ _ h

/-- A KEYS command while the firmware serves (R405). -/
theorem keysCommand_enroll {s : State} {n : Nat} (hs : serving s = true) (hn : n ≤ 416) :
    keysCommand s 1 n = enroll s (mread s.sec.kybuf 0 n) := by
  simp [keysCommand, hs, show ¬416 < n by omega]

theorem keysCommand_unsigned {s : State} {c n : Nat} (hs : serving s = true) (hn : n ≤ 416) (hc : c = 2 ∨ c = 3)
    (hg : ownerSigned s c (mread s.sec.kybuf 0 n) (mread s.sec.kybuf n 96) = false) :
    keysCommand s c n = renewNonce (keysEnd s Status.denied) := by
  rcases hc with rfl | rfl <;> simp [keysCommand, hs, show ¬416 < n by omega, hg]

theorem keysCommand_transfer {s : State} {n : Nat} (hs : serving s = true) (hn : n ≤ 416)
    (hg : ownerSigned s 2 (mread s.sec.kybuf 0 n) (mread s.sec.kybuf n 96) = true) :
    keysCommand s 2 n = renewNonce (transfer s (mread s.sec.kybuf 0 n)) := by
  simp [keysCommand, hs, show ¬416 < n by omega, hg]

theorem keysCommand_unlock {s : State} {n : Nat} (hs : serving s = true) (hn : n ≤ 416)
    (hg : ownerSigned s 3 (mread s.sec.kybuf 0 n) (mread s.sec.kybuf n 96) = true) :
    keysCommand s 3 n = renewNonce (unlock s (mread s.sec.kybuf 0 n)) := by
  simp [keysCommand, hs, show ¬416 < n by omega, hg]

/-- ENROLL of a device without owner (Table 15-6). -/
theorem enroll_first {s : State} {payload : List Byte} (h : ownerIx s = none) (hl : payload.length = 97) :
    enroll s payload = keysEnd { takeSlot s 0 payload with
      sec := { (takeSlot s 0 payload).sec with pst := pstOf (takeSlot s 0 payload) (takeSlot s 0 payload).pattern.isSome } } Status.ok := by
  simp [enroll, h, hl]

theorem enroll_owned {s : State} {payload : List Byte} (h : ownerIx s ≠ none) : enroll s payload = keysEnd s Status.denied := by
  simp [enroll, Option.isSome_iff_ne_none.mpr h]

/-- The owner slots after a transfer from slot `i`. -/
def handedOver (s : State) (i : Nat) (payload : List Byte) : State :=
  { takeSlot s (i + 1) payload with sec := { (takeSlot s (i + 1) payload).sec with
    owners := smod .blank (takeSlot s (i + 1) payload).sec.owners i fun o => { o with revoked := true } } }

/-- After a transfer from slot `i` the next slot holds the new owner, and slot `i` is revoked (R371). -/
theorem handedOver_spec {s : State} {i : Nat} (payload : List Byte) (h : ownerIx s = some i) (h3 : i ≠ 3) :
    ownerIx (handedOver s i payload) = some (i + 1) ∧ ownerDigest (handedOver s i payload) = Config.sha384 payload ∧
      (sget .blank (handedOver s i payload).sec.owners i).revoked = true := by
  have hle := ownerIx_le h
  have other {k : Nat} (hk : k ≠ i) : sget .blank (handedOver s i payload).sec.owners k =
      sget .blank (takeSlot s (i + 1) payload).sec.owners k := by
    simp only [handedOver]; exact sget_smod_ne _ _ _ _ _ hk
  have owned : ownerIx (handedOver s i payload) = some (i + 1) := by
    refine ownerIx_of_used (by omega) (by rw [other (by omega), sget_takeSlot]) fun k hk hk3 => ?_
    rw [other (by omega), sget_takeSlot_ne _ _ (by omega)]
    exact unused_of_ownerIx h (by omega) hk3
  refine ⟨owned, (ownerDigest_of_ownerIx owned).trans (by rw [other (by omega), sget_takeSlot]), ?_⟩
  simp only [handedOver, sget_smod]

theorem transfer_next {s : State} {i : Nat} {payload : List Byte} (h : ownerIx s = some i) (h3 : i ≠ 3)
    (hp : anyPartition s = false) (hl : payload.length = 97) :
    transfer s payload = beginDevReset (keysEnd (handedOver s i payload) Status.ok) false := by
  simp [transfer, h, hp, h3, hl, handedOver]

theorem unlock_signed {s : State} {payload : List Byte} (hp : anyPartition s = false) (hg : Config.debugSigOk payload = true) :
    unlock s payload = keysEnd (holdPorts { zeroise s with
      sec := { (zeroise s).sec with jtag := min 16 (s.sec.jtag + 1), unlocked := true, pst := 4 } }) Status.ok := by
  simp [unlock, hp, hg]

/-! ### Flash commands (R364, R405) -/

theorem flashRead_one (s : State) (c : Nat) : flashRead s c 1 = [~~~ mget s.sec.flash c] := by
  simp [flashRead, mread_eq]

theorem flashRead_one_congr {s t : State} {c : Nat} (h : mget t.sec.flash c = mget s.sec.flash c) :
    flashRead t c 1 = flashRead s c 1 := by
  rw [flashRead_one, flashRead_one, h]

/-- An erased byte is unlisted (log 32). -/
theorem mget_flashErase {s : State} {a n c : Nat} (hlo : a ≤ c) (hhi : c < a + n) :
    mget (flashErase s a n).sec.flash c = 0 := by
  refine sget_absent _ _ _ fun e he hec => ?_
  have := (List.mem_filter.mp he).2
  simp only [Bool.or_eq_true, decide_eq_true_eq] at this
  omega

theorem mget_flashErase_ne {s : State} {a n c : Nat} (h : c < a ∨ a + n ≤ c) :
    mget (flashErase s a n).sec.flash c = mget s.sec.flash c := by
  have kept := sget_filter Mem.unlisted s.sec.flash [] (fun k => k < a || a + n ≤ k) c (by simpa using h)
  rw [List.append_nil] at kept
  refine kept.trans ?_
  split
  · rfl
  next hn => exact (sget_absent _ _ _ fun e he hec => hn ⟨e, he, hec⟩).symm

theorem flashRead_flashWrite (s : State) (a : Nat) (bs : List Byte) : flashRead (flashWrite s a bs) a bs.length = bs := by
  have h := mread_mput s.sec.flash a (bs.map (~~~ ·))
  rw [List.length_map] at h
  simp [flashRead, flashWrite, h, Function.comp_def]

theorem mget_flashWrite_ne {s : State} {a c : Nat} {bs : List Byte} (h : c < a ∨ a + bs.length ≤ c) :
    mget (flashWrite s a bs).sec.flash c = mget s.sec.flash c :=
  mget_mput_ne _ _ _ _ (by simpa using h)

/-- `FSTAT` after a flash command. -/
theorem fstat_flashEnd (s : State) : mreg (flashEnd s Status.ok) M.flCtl 15 8 = Status.ok := by
  rw [flashEnd, mreg_putMreg _ _ _ _ _ (by decide) (by decide)]
  rfl

theorem flashCommand_starts {s : State} {erase : Bool} (hs : serving s = true) (hf : s.sec.frun = none)
    (ha : mreg s M.flCtl 63 32 < 0x2800000) (hal : mreg s M.flCtl 63 32 % (if erase then 65536 else 256) = 0) :
    flashCommand s erase = { s with sec := { s.sec with
      frun := some (erase, mreg s M.flCtl 63 32, if erase then [] else mread s.sec.flbuf 0 256) } } := by
  simp only [flashCommand, hs, hf, hal]
  simp [show ¬0x2800000 ≤ mreg s M.flCtl 63 32 by omega]

theorem flashCommand_busy {s : State} (erase : Bool) (hs : serving s = true) (hf : s.sec.frun ≠ none) :
    flashCommand s erase = flashEnd s Status.busy := by
  simp [flashCommand, hs, Option.isSome_iff_ne_none.mpr hf]

/-- Settles O56, by the owner slots that each KEYS command leaves and by the bytes of the boot flash. -/
theorem keysAndFlash : Obligations.KeysAndFlash := by
  unfold Obligations.KeysAndFlash
  refine ⟨fun s hs => ?_, fun s => ?_⟩
  · intro payload signed kstat
    have hlen : payload.length = 97 := mread_length ..
    refine ⟨fun hn => ?_, fun n hn hle => ?_, fun i hi h3 hp => ?_, fun hp => ?_⟩
    · have acts := (keysCommand_enroll hs (by decide : 97 ≤ 416)).trans (enroll_first hn hlen)
      have owned : ownerIx (takeSlot s 0 payload) = some 0 := by
        refine ownerIx_of_used (by decide) (by rw [sget_takeSlot]) fun k hk hk3 => ?_
        rw [sget_takeSlot_ne _ _ (by omega)]
        exact unused_of_ownerIx_none hn hk3
      refine ⟨_, exec_next_of_eq rfl rfl acts, kstat_keysEnd _ (by decide), owned, ?_, rfl, rfl, rfl⟩
      exact (ownerDigest_of_ownerIx owned).trans (by rw [sget_takeSlot])
    · have acts := (keysCommand_enroll hs hle).trans (enroll_owned hn)
      exact ⟨_, exec_next_of_eq rfl rfl acts, kstat_keysEnd _ (by decide), rfl, rfl⟩
    · cases hg : ownerSigned s 2 payload (mread s.sec.kybuf 97 96)
      · have acts := keysCommand_unsigned (c := 2) hs (by decide : 97 ≤ 416) (.inl rfl) hg
        obtain ⟨hm, hown, -⟩ := renewNonce_keeps (keysEnd s Status.denied)
        refine ⟨_, exec_next_of_eq rfl rfl acts, fun _ => ?_, fun h => absurd (hg.symm.trans h) Bool.false_ne_true⟩
        exact ⟨(mreg_of_mregs hm ..).trans (kstat_keysEnd _ (by decide)), hown⟩
      · have acts := (keysCommand_transfer hs (by decide : 97 ≤ 416) hg).trans (congrArg _ (transfer_next hi h3 hp hlen))
        refine ⟨_, exec_next_of_eq rfl rfl acts, fun h => absurd (h.symm.trans hg) Bool.false_ne_true, fun _ => ?_⟩
        obtain ⟨hm, hown, -⟩ := renewNonce_keeps (beginDevReset (keysEnd (handedOver s i payload) Status.ok) false)
        obtain ⟨hnew, hdigest, hrevoked⟩ := handedOver_spec payload hi h3
        have howners : (beginDevReset (keysEnd (handedOver s i payload) Status.ok) false).sec.owners =
            (handedOver s i payload).sec.owners := by
          have hf := fuses_of_view (t := beginDevReset (keysEnd (handedOver s i payload) Status.ok) false)
            (s := keysEnd (handedOver s i payload) Status.ok) (F := notFuses) (by
              simp only [beginDevReset_view, notFuses, implies_true]) rfl
          exact congrArg Prod.fst hf
        have noPart (p : Nat) : (partOf (keysEnd (handedOver s i payload) Status.ok) p).ptstate = 0 :=
          ptstate_of_anyPartition hp p
        refine ⟨?_, ?_, ?_, ?_⟩
        · refine (mreg_of_mregs hm ..).trans ((mreg_beginDevReset noPart (fun n => ?_) ..).trans (kstat_keysEnd _ (by decide)))
          simp only [M.paStat, M.ptSvc, M.ptHost]; omega
        · rw [ownerIx_of_owners (hown.trans howners), hnew]
        · rw [ownerDigest_of_owners (hown.trans howners), hdigest]
        · rw [hown, howners, hrevoked]
    · cases hg : ownerSigned s 3 payload (mread s.sec.kybuf 97 96)
      · have acts := keysCommand_unsigned (c := 3) hs (by decide : 97 ≤ 416) (.inr rfl) hg
        obtain ⟨hm, -, hjtag, hun, -⟩ := renewNonce_keeps (keysEnd s Status.denied)
        refine ⟨_, exec_next_of_eq rfl rfl acts, fun _ => ?_, fun h => absurd (hg.symm.trans h) Bool.false_ne_true⟩
        exact ⟨(mreg_of_mregs hm ..).trans (kstat_keysEnd _ (by decide)), hjtag, hun⟩
      · have acts := keysCommand_unlock hs (by decide : 97 ≤ 416) hg
        refine ⟨_, exec_next_of_eq rfl rfl acts, fun h => absurd (h.symm.trans hg) Bool.false_ne_true, fun _ hd => ?_⟩
        obtain ⟨hm, -, hjtag, hun, hpst, hid⟩ := renewNonce_keeps (unlock s payload)
        have hsec : (unlock s payload).sec =
            { (zeroise s).sec with jtag := min 16 (s.sec.jtag + 1), unlocked := true, pst := 4 } := by
          rw [unlock_signed hp hd, keysEnd_sec]
          exact sec_of_view (F := portsOnly) (holdPorts_view _ rfl rfl) rfl
        rw [hsec] at hjtag hun hpst hid
        refine ⟨(mreg_of_mregs hm ..).trans ?_, hjtag, hun, hpst, hid⟩
        rw [unlock_signed hp hd]
        exact kstat_keysEnd _ (by decide)
  · intro a byte
    refine ⟨fun hs hf ha hal => exec_next_of_eq rfl rfl (flashCommand_starts hs hf ha (by simpa using hal)),
      fun hs hf ha hal => exec_next_of_eq rfl rfl (flashCommand_starts hs hf ha (by simpa using hal)),
      fun hs hf => ⟨exec_next_of_eq rfl rfl (flashCommand_busy _ hs hf), exec_next_of_eq rfl rfl (flashCommand_busy _ hs hf)⟩,
      fun b bs hf => ?_, fun b bs hf => ?_⟩
    · have acts : flashComplete s = flashEnd (flashErase { s with sec := { s.sec with frun := none } } b 65536) Status.ok := by
        simp [flashComplete, hf]
      refine ⟨_, exec_next_of_eq rfl rfl acts, rfl, fstat_flashEnd _, fun c hlo hhi => ?_, fun c hc => ?_, rfl, rfl⟩
      · exact (flashRead_one ..).trans (congrArg (fun x => [~~~ x]) (mget_flashErase hlo hhi))
      · exact flashRead_one_congr (mget_flashErase_ne hc)
    · have acts : flashComplete s = flashEnd (flashWrite { s with sec := { s.sec with frun := none } } b bs) Status.ok := by
        simp [flashComplete, hf]
      exact ⟨_, exec_next_of_eq rfl rfl acts, rfl, fstat_flashEnd _, flashRead_flashWrite .., fun c hc =>
        flashRead_one_congr (mget_flashWrite_ne hc), rfl, rfl⟩

end Sys2Proof.Proofs
end

section
/-! Proofs about job keys, and what accesses of the device to a partition leave. -/

namespace Sys2Proof.Proofs

open Sys2Proof.Machine Sys2Proof.Safety Sys2Proof.Laws

/-! ### Structures that the device reads and writes for a partition (R439, R440) -/

/-- What a read or write for partition `p` may change: its registers, bytes and bolts, pending vectors, wear, stores and the
cores' notes about code. -/
@[reducible] def deviceAccess (p : Nat) : Field → Bool
  | .regs q | .mem q | .hbm q => q == p
  | .vec _ | .freeIx | .out | .cores | .stores | .tags | .parts | .wardrobe | .rel => true
  | .part _ | .steady | .sec | .fuses | .clusters | .mregs | .dieCtr | .osc | .fabric | .pwr | .pattern | .tap => false

/-- What a command of partition `p` that only touches its registers may change: those, vectors and free values. -/
@[reducible] def registersOf (p : Nat) : Field → Bool
  | .regs q => q == p
  | .vec _ | .freeIx | .out | .parts => true
  | .part _ | .mem _ | .hbm _ | .cores | .stores | .tags | .wardrobe | .rel | .steady | .sec | .fuses | .clusters | .mregs | .dieCtr |
    .osc | .fabric | .pwr | .pattern | .tap => false

theorem elsewhere_of_view {F : Field → Bool} {s t : State} {p : Nat} (h : view F t = view F s)
    (hF : ∀ q, q ≠ p → F (.part q) = false ∧ F (.regs q) = false ∧ F (.mem q) = false ∧ F (.hbm q) = false) :
    elsewhere s t p := by
  intro q hq
  obtain ⟨hp, hr, hm, hh⟩ := hF q hq
  have hx := congrArg (fun x : Partition => { x with msix := 0 }) (viewPart_of_view h q)
  simpa [viewPart, hp, hr, hm, hh] using hx

theorem elsewhere_of_parts {s t : State} (h : t.parts = s.parts) (p : Nat) : elsewhere s t p := by
  intro q _
  simp only [partOf, h]

theorem elsewhere_trans {s t u : State} {p : Nat} (h : elsewhere s t p) (h' : elsewhere t u p) : elsewhere s u p :=
  fun q hq => (h' q hq).trans (h q hq)

theorem apart_deviceAccess {p q : Nat} (hq : q ≠ p) : deviceAccess p (.part q) = false ∧ deviceAccess p (.regs q) = false ∧
    deviceAccess p (.mem q) = false ∧ deviceAccess p (.hbm q) = false := by
  simp [deviceAccess, hq]

theorem apart_registersOf {p q : Nat} (hq : q ≠ p) : registersOf p (.part q) = false ∧ registersOf p (.regs q) = false ∧
    registersOf p (.mem q) = false ∧ registersOf p (.hbm q) = false := by
  simp [registersOf, hq]

theorem devRead_deviceAccess (s : State) (p a n : Nat) : view (deviceAccess p) (devRead s p a n).2 = view (deviceAccess p) s :=
  devRead_view _ _ _ _ rfl rfl rfl rfl rfl (beq_self_eq_true p) (fun _ => rfl) (beq_self_eq_true p)

theorem devWrite_deviceAccess (s : State) (p a : Nat) (bs : List Byte) :
    view (deviceAccess p) (devWrite s p a bs) = view (deviceAccess p) s :=
  devWrite_view _ _ _ _ rfl rfl rfl rfl rfl rfl rfl rfl (beq_self_eq_true p) (fun _ => rfl) (beq_self_eq_true p)
    (beq_self_eq_true p)

theorem jkey_of_view {F : Field → Bool} {s t : State} (h : view F t = view F s) {p : Nat} (hF : F (.part p) = false)
    (i : Nat) : (partOf t p).jkey i = (partOf s p).jkey i := by
  have hx := congrArg Partition.jkeys (viewPart_of_view h p)
  simp only [viewPart, hF, Bool.false_eq_true, if_false] at hx
  rw [Partition.jkey, hx, Partition.jkey]

theorem sameCores_refl (s : State) : sameCores s s := sameCores_of_cores_eq rfl

theorem sameCores_onCore {s : State} {g : Nat} {f : Core → Core} (hr : ∀ k, sameRegisters k (f k)) (hp : ∀ k, (f k).pc = k.pc) :
    sameCores s (onCore s g f) := by
  intro j
  by_cases h : j = g
  · rw [h, coreOf_onCore]; exact ⟨hr _, hp _⟩
  · rw [coreOf_onCore_ne _ _ _ _ h]; exact ⟨⟨rfl, rfl, rfl, rfl, rfl, rfl, rfl, rfl⟩, rfl⟩

theorem sameCores_foldl {α : Type} {f : State → α → State} (l : List α) (s : State) (h : ∀ t e, sameCores t (f t e)) :
    sameCores s (l.foldl f s) :=
  List.foldlRecOn (motive := fun t => sameCores s t) _ _ (sameCores_refl s) fun t ht e _ => sameCores_trans ht (h t e)

/-- What the stores' writes note about code is no register (R29). -/
theorem sameCores_noteCode (s : State) (a n : Nat) : sameCores s (noteCode s a n) := by
  simp only [noteCode]
  split
  · exact sameCores_refl s
  · split
    · exact sameCores_refl s
    · split
      · exact sameCores_refl s
      · exact sameCores_foldl _ s fun t g =>
          sameCores_onCore (fun _ => ⟨rfl, rfl, rfl, rfl, rfl, rfl, rfl, rfl⟩) fun _ => rfl

theorem sameCores_of_view {F : Field → Bool} {s t : State} (h : view F t = view F s) (hF : F .cores = false) : sameCores s t :=
  sameCores_of_cores_eq (cores_of_view h hF)

theorem sameCores_putStore (s : State) (a : Nat) (bs : List Byte) : sameCores s (putStore s a bs) :=
  sameCores_trans (sameCores_noteCode s a bs.length) (sameCores_of_cores_eq rfl)

/-- What a device read for partition `p` may change: no store and no core. -/
@[reducible] def deviceRead (p : Nat) : Field → Bool
  | .regs q | .mem q | .hbm q => q == p
  | .vec _ | .freeIx | .out | .parts | .wardrobe | .rel => true
  | .part _ | .steady | .sec | .fuses | .clusters | .mregs | .dieCtr | .osc | .fabric | .pwr | .pattern | .tap | .cores | .stores |
    .tags => false

theorem devRead_deviceRead (s : State) (p a n : Nat) : view (deviceRead p) (devRead s p a n).2 = view (deviceRead p) s :=
  devRead_view _ _ _ _ rfl rfl rfl rfl rfl (beq_self_eq_true p) (fun _ => rfl) (beq_self_eq_true p)

theorem sameCores_devWriteRun (base : Bool) (s : State) (p a : Nat) (bs : List Byte) :
    sameCores s (devWriteRun base s p a bs).1 := by
  simp only [devWriteRun]
  split
  · exact sameCores_trans (sameCores_putStore s a bs) (sameCores_of_cores_eq rfl)
  · split
    · exact sameCores_of_cores_eq rfl
    · exact sameCores_refl s
  · split
    · exact sameCores_refl s
    · split
      next t ht =>
        have hv : view (deviceRead p) t = view (deviceRead p) s :=
          readyWrite_view ht rfl rfl rfl rfl rfl (fun _ => rfl) (beq_self_eq_true p)
        exact sameCores_trans (sameCores_of_view hv rfl) (sameCores_of_cores_eq rfl)
      · exact sameCores_of_view (F := deviceRead p) (errEvent_view _ _ _ rfl rfl (beq_self_eq_true p) rfl) rfl
  · exact sameCores_refl s

theorem sameCores_devWriteBy (base : Bool) (s : State) (p a : Nat) (bs : List Byte) :
    sameCores s (devWriteBy base s p a bs) := by
  simp only [devWriteBy]
  refine sameCores_trans (t := (List.foldl _ (s, false) _).1) ?_
    (sameCores_of_view (F := deviceRead p) (violationIf_view _ _ _ rfl (beq_self_eq_true p)) rfl)
  refine List.foldlRecOn (motive := fun r : State × Bool => sameCores s r.1) _ _ (sameCores_refl s) fun r hr e _ => ?_
  refine sameCores_trans hr ?_
  dsimp only
  split
  · exact sameCores_devWriteRun base r.1 p _ _
  · exact sameCores_refl r.1

theorem sameCores_devWrite (s : State) (p a : Nat) (bs : List Byte) : sameCores s (devWrite s p a bs) :=
  sameCores_devWriteBy false s p a bs

/-! ### Job key slots (R379-R382) -/

/-- Of the job keys at most slot `i` of partition `p` differs, of other partitions at most pending vectors, and no register
of a core. -/
def OnlyKeySlot (p i : Nat) (s t : State) : Prop :=
  (∀ j, j ≠ i → (partOf t p).jkey j = (partOf s p).jkey j) ∧ elsewhere s t p ∧ sameCores s t ∧ t.clusters = s.clusters ∧
    t.sec = s.sec

theorem onlyKeySlot_trans {p i : Nat} {s t u : State} (h : OnlyKeySlot p i s t) (h' : OnlyKeySlot p i t u) :
    OnlyKeySlot p i s u := by
  obtain ⟨hj, he, hc, hl, hs⟩ := h
  obtain ⟨hj', he', hc', hl', hs'⟩ := h'
  exact ⟨fun j hn => (hj' j hn).trans (hj j hn), elsewhere_trans he he', sameCores_trans hc hc', hl'.trans hl, hs'.trans hs⟩

theorem onlyKeySlot_of_deviceRead {p i : Nat} {s t : State} (h : view (deviceRead p) t = view (deviceRead p) s) :
    OnlyKeySlot p i s t :=
  ⟨fun j _ => jkey_of_view h rfl j, elsewhere_of_view h fun q hq => by simp [deviceRead, hq], sameCores_of_view h rfl,
    clusters_of_view h rfl, sec_of_view h rfl⟩

theorem onlyKeySlot_of_registersOf {p i : Nat} {s t : State} (h : view (registersOf p) t = view (registersOf p) s) :
    OnlyKeySlot p i s t :=
  ⟨fun j _ => jkey_of_view h rfl j, elsewhere_of_view h fun q hq => apart_registersOf hq, sameCores_of_view h rfl,
    clusters_of_view h rfl, sec_of_view h rfl⟩

theorem onlyKeySlot_spend (s : State) (p i n : Nat) : OnlyKeySlot p i s (spend s n) := onlyKeySlot_of_registersOf rfl

theorem onlyKeySlot_devWrite (s : State) (p i a : Nat) (bs : List Byte) : OnlyKeySlot p i s (devWrite s p a bs) := by
  have h := devWrite_deviceAccess s p a bs
  exact ⟨fun j _ => jkey_of_view h rfl j, elsewhere_of_view h fun q hq => apart_deviceAccess hq, sameCores_devWrite s p a bs,
    clusters_of_view h rfl, sec_of_view h rfl⟩

theorem jkey_putJkey (s : State) (p i : Nat) (k : JobKey) : (partOf (putJkey s p i k) p).jkey i = k := by
  rw [putJkey, partOf_onPart, Partition.jkey, sget_sset]

theorem onlyKeySlot_putJkey (s : State) (p i : Nat) (k : JobKey) : OnlyKeySlot p i s (putJkey s p i k) := by
  refine ⟨fun j hj => ?_, fun q hq => ?_, sameCores_of_cores_eq rfl, rfl, rfl⟩
  · rw [putJkey, partOf_onPart]
    exact sget_sset_ne _ _ _ _ _ _ hj
  · rw [putJkey, partOf_onPart_ne _ _ _ _ hq]

theorem jkEnd_registersOf (s : State) (p status : Nat) :
    view (registersOf p) (jkEnd s p status) = view (registersOf p) s :=
  jkEnd_view _ _ _ rfl rfl (beq_self_eq_true p) rfl

theorem jkey_jkEnd (s : State) (p status i : Nat) : (partOf (jkEnd s p status) p).jkey i = (partOf s p).jkey i :=
  jkey_of_view (jkEnd_registersOf s p status) rfl i

theorem reg_jkEnd (s : State) (p status : Nat) (h : status < 256) : reg (jkEnd s p status) p R.jkCtl 31 24 = status := by
  rw [jkEnd, reg_msix, reg_putReg _ _ _ _ _ _ (by decide) (by decide)]
  exact Nat.mod_eq_of_lt h

/-- What every end of a job key command leaves, besides its status. -/
theorem onlyKeySlot_jkEnd {p i : Nat} {s t : State} (h : OnlyKeySlot p i s t) (status : Nat) :
    OnlyKeySlot p i s (jkEnd t p status) :=
  onlyKeySlot_trans h (onlyKeySlot_of_registersOf (jkEnd_registersOf t p status))

theorem issueStatus_lt (s : State) (k : JobKey) (r cert : List Byte) : issueStatus s k r cert < 256 := by
  unfold issueStatus
  split
  · decide
  · split
    · decide
    · split
      · decide
      · split <;> decide

theorem acceptGrant_lt (s : State) (p : Nat) (k : JobKey) (r cert : List Byte) : (acceptGrant s p k r cert).1 < 256 := by
  simp only [acceptGrant]
  split
  · decide
  · split
    · decide
    · split
      · decide
      · dsimp only
        split <;> decide

theorem jkTurn_live {s : State} {p i : Nat} {ok : JobKey → Bool} {t : State} (hl : (partOf s p).ptstate = 1)
    (hk : ok ((partOf s p).jkey i) = true) : jkTurn s p i ok t = t := by
  rw [jkTurn, if_neg (by simp [hl]), if_pos hk]

theorem mem_of_view {F : Field → Bool} {s t : State} (h : view F t = view F s) {p : Nat} (hp : F (.part p) = false)
    (hm : F (.mem p) = false) : (partOf t p).mem = (partOf s p).mem := by
  have hx := congrArg Partition.mem (viewPart_of_view h p)
  simpa [viewPart, hp, hm] using hx

theorem mem_jkEnd (s : State) (p status : Nat) : (partOf (jkEnd s p status) p).mem = (partOf s p).mem :=
  mem_of_view (jkEnd_registersOf s p status) rfl rfl

theorem stores_jkEnd (s : State) (p status : Nat) : (jkEnd s p status).stores = s.stores :=
  stores_of_view (jkEnd_registersOf s p status) rfl

theorem mem_putJkey (s : State) (p i : Nat) (k : JobKey) : (partOf (putJkey s p i k) p).mem = (partOf s p).mem := by
  rw [putJkey, partOf_onPart]

theorem jkCreate_of_free {s : State} {p i : Nat} (job : JobId) (hl : (partOf s p).ptstate = 1)
    (hk : ((partOf s p).jkey i).st = 0) (hj : jobHeld s job = false) : jkCreate s p i job =
      jkEnd (putJkey (spend s 4) p i { JobKey.empty with
        st := 2, job := job, leader := true, key := BitVec.ofNat 256 (drbg s 0 4) }) p Status.ok := by
  rw [jkCreate, jkTurn_live hl (by simp [hk]), if_neg (by simp [hj])]

theorem jkRequest_of_free {s : State} {p i : Nat} (job : JobId) (hl : (partOf s p).ptstate = 1)
    (hk : ((partOf s p).jkey i).st = 0) {id : BitVec 384} (hid : s.sec.idKey = some id) : ∃ bs, jkRequest s p i job =
      jkEnd (devWrite (putJkey (spend s 10) p i { JobKey.empty with
        st := 1, job := job, eph := BitVec.ofNat 384 (drbg s 4 6), nonce := BitVec.ofNat 256 (drbg s 0 4) }) p (jkPair s p) bs)
        p Status.ok := by
  rw [jkRequest, jkTurn_live hl (by simp [hk]), hid]
  exact ⟨_, rfl⟩

/-- What ISSUE reads, the member's record and the certificate, changes no key. -/
theorem jkCert_deviceRead (s : State) (p : Nat) : view (deviceRead p) (jkCert s p).2 = view (deviceRead p) s :=
  (devRead_deviceRead _ _ _ _).trans (devRead_deviceRead _ _ _ _)

theorem jkCert_devRead_deviceRead (s : State) (p a n : Nat) :
    view (deviceRead p) (jkCert (devRead s p a n).2 p).2 = view (deviceRead p) s :=
  (jkCert_deviceRead _ p).trans (devRead_deviceRead s p a n)

theorem jkIssue_of_leader {s : State} {p i : Nat} (hl : (partOf s p).ptstate = 1)
    (hk : ((partOf s p).jkey i).st = 2) (hlead : ((partOf s p).jkey i).leader = true) (hid : s.sec.idKey ≠ none) :
    let k := (partOf s p).jkey i
    let r := devRead s p (jkPair s p) 512
    let c := jkCert r.2 p
    let status := issueStatus c.2 k r.1 c.1
    ∃ bs, jkIssue s p i = if status = Status.ok then
        jkEnd (devWrite (putJkey (spend c.2 10) p i { k with issued := k.issued ++ [(leAt r.1 8 4, leAt r.1 0xC 1)] }) p
          (jkPair s p + 512) bs) p Status.ok
      else jkEnd c.2 p status := by
  intro k r c status
  rw [jkIssue, jkTurn_live hl (by simp [hk, hlead])]
  have hs : c.2.sec = s.sec := sec_of_view (jkCert_devRead_deviceRead s p (jkPair s p) 512) rfl
  obtain ⟨id, hid'⟩ := Option.ne_none_iff_exists'.1 (hs ▸ hid)
  dsimp only
  rw [hid']
  by_cases h : status = Status.ok
  · exact ⟨_, by simp only [if_pos h]; rw [if_neg (by simpa using h)]⟩
  · exact ⟨[], by simp only [if_neg h]; rw [if_pos (by simpa using h)]⟩

theorem jkAccept_of_requested {s : State} {p i : Nat} (hl : (partOf s p).ptstate = 1)
    (hk : ((partOf s p).jkey i).st = 1) :
    let k := (partOf s p).jkey i
    let r := devRead s p (jkPair s p + 512) 512
    let c := jkCert r.2 p
    let o := acceptGrant c.2 p k r.1 c.1
    jkAccept s p i = if o.1 = Status.ok then
        jkEnd (putJkey c.2 p i { JobKey.empty with st := 2, job := k.job, key := o.2 }) p Status.ok
      else jkEnd c.2 p o.1 := by
  intro k r c o
  rw [jkAccept, jkTurn_live hl (by simp [hk])]
  dsimp only
  by_cases h : o.1 = Status.ok
  · simp only [if_pos h]
    rw [if_neg (by simpa using h)]
  · simp only [if_neg h]
    rw [if_pos (by simpa using h)]

/-- Settles O54, by what the commands do to the slot and what each of their ends leaves. -/
theorem jobKeySlots : Obligations.JobKeySlots := by
  unfold Obligations.JobKeySlots
  intro s p i job hp hi hl
  have hwf : (partOk p && decide (i < 64)) = true := by simp [partOk, hp, hi]
  refine ⟨fun hk hj => ?_, fun hk hid => ?_, fun hk hlead hid => ?_, fun hk => ?_, fun hk => ?_⟩
  · refine ⟨_, exec_next_of_eq rfl hwf (jkCreate_of_free job hl hk hj), ?_⟩
    rw [jkey_jkEnd, jkey_putJkey, mem_jkEnd, mem_putJkey, stores_jkEnd]
    exact ⟨rfl, rfl, rfl, rfl, rfl, reg_jkEnd _ _ _ (by decide),
      onlyKeySlot_jkEnd (onlyKeySlot_trans (onlyKeySlot_spend s p i 4) (onlyKeySlot_putJkey (spend s 4) p i _)) _⟩
  · obtain ⟨id, hid'⟩ := Option.ne_none_iff_exists'.1 hid
    obtain ⟨bs, acts⟩ := jkRequest_of_free job hl hk hid'
    refine ⟨_, exec_next_of_eq rfl hwf acts, ?_⟩
    rw [jkey_jkEnd, jkey_of_view (devWrite_deviceAccess _ p _ _) rfl, jkey_putJkey]
    exact ⟨rfl, rfl, rfl, reg_jkEnd _ _ _ (by decide), onlyKeySlot_jkEnd (onlyKeySlot_trans (onlyKeySlot_spend s p i 10)
      (onlyKeySlot_trans (onlyKeySlot_putJkey _ p i _) (onlyKeySlot_devWrite _ p i _ _))) _⟩
  · obtain ⟨bs, acts⟩ := jkIssue_of_leader hl hk hlead hid
    have hr := jkCert_devRead_deviceRead s p (jkPair s p) 512
    by_cases h : issueStatus (jkCert (devRead s p (jkPair s p) 512).2 p).2 ((partOf s p).jkey i)
        (devRead s p (jkPair s p) 512).1 (jkCert (devRead s p (jkPair s p) 512).2 p).1 = Status.ok
    · rw [if_pos h] at acts
      refine ⟨_, exec_next_of_eq rfl hwf acts, ?_⟩
      simp only [h, if_true]
      rw [jkey_jkEnd, jkey_of_view (devWrite_deviceAccess _ p _ _) rfl, jkey_putJkey]
      exact ⟨⟨reg_jkEnd _ _ _ (by decide), onlyKeySlot_jkEnd (onlyKeySlot_trans
        (onlyKeySlot_trans (onlyKeySlot_of_deviceRead hr) (onlyKeySlot_spend _ p i 10))
        (onlyKeySlot_trans (onlyKeySlot_putJkey _ p i _) (onlyKeySlot_devWrite _ p i _ _))) _⟩, rfl⟩
    · rw [if_neg h] at acts
      refine ⟨_, exec_next_of_eq rfl hwf acts, ?_⟩
      simp only [h, if_false]
      rw [jkey_jkEnd]
      exact ⟨⟨reg_jkEnd _ _ _ (issueStatus_lt _ _ _ _), onlyKeySlot_jkEnd (onlyKeySlot_of_deviceRead hr) _⟩,
        jkey_of_view hr rfl i⟩
  · have acts := jkAccept_of_requested hl hk
    have hr := jkCert_devRead_deviceRead s p (jkPair s p + 512) 512
    dsimp only at acts ⊢
    by_cases h : (acceptGrant (jkCert (devRead s p (jkPair s p + 512) 512).2 p).2 p ((partOf s p).jkey i)
        (devRead s p (jkPair s p + 512) 512).1 (jkCert (devRead s p (jkPair s p + 512) 512).2 p).1).1 = Status.ok
    · rw [if_pos h] at acts
      refine ⟨_, exec_next_of_eq rfl hwf acts, ?_⟩
      simp only [h, if_true]
      rw [jkey_jkEnd, jkey_putJkey]
      exact ⟨⟨reg_jkEnd _ _ _ (by decide), onlyKeySlot_jkEnd
        (onlyKeySlot_trans (onlyKeySlot_of_deviceRead hr) (onlyKeySlot_putJkey _ p i _)) _⟩, rfl⟩
    · rw [if_neg h] at acts
      refine ⟨_, exec_next_of_eq rfl hwf acts, ?_⟩
      simp only [h, if_false]
      rw [jkey_jkEnd]
      exact ⟨⟨reg_jkEnd _ _ _ (acceptGrant_lt _ _ _ _ _), onlyKeySlot_jkEnd (onlyKeySlot_of_deviceRead hr) _⟩,
        jkey_of_view hr rfl i⟩
  · have acts : jkErase s p i = jkEnd (putJkey s p i .empty) p Status.ok := by
      rw [jkErase, jkTurn_live hl (by simpa using hk)]
    refine ⟨_, exec_next_of_eq rfl hwf acts, ?_⟩
    rw [jkey_jkEnd, jkey_putJkey, mem_jkEnd, mem_putJkey, stores_jkEnd]
    exact ⟨rfl, rfl, rfl, reg_jkEnd _ _ _ (by decide), onlyKeySlot_jkEnd (onlyKeySlot_putJkey s p i _) _⟩

end Sys2Proof.Proofs
end

section
/-! Proofs about resets, booting, fences and self-test. -/

namespace Sys2Proof.Proofs

open Sys2Proof.Machine Sys2Proof.Safety Sys2Proof.Laws

/-! ### Views that show less -/

section Less
variable {F G : Field → Bool} (hFG : ∀ f, F f = true → G f = true)
include hFG

theorem shown_of_shown {f : Field} (hG : G f = false) : F f = false := by
  cases hF : F f
  · rfl
  · rw [hFG f hF] at hG
    exact absurd hG (by decide)

theorem hide_congr {α : Type} {f : Field} {d x y : α} (hxy : F f = false → x = y) :
    (if G f then d else x) = if G f then d else y := by
  cases hG : G f
  · rw [hxy (shown_of_shown hFG hG)]
  · rfl

theorem hide_mono {α : Type} (f : Field) {d x y : α} (hxy : (if F f then d else x) = if F f then d else y) :
    (if G f then d else x) = if G f then d else y :=
  hide_congr hFG fun hF => by simpa only [hF, Bool.false_eq_true, if_false] using hxy

theorem viewPart_mono {q : Nat} {x y : Partition} (hxy : viewPart F q x = viewPart F q y) :
    viewPart G q x = viewPart G q y := by
  unfold viewPart at hxy ⊢
  cases hG : G (.part q)
  · rw [shown_of_shown hFG hG] at hxy
    simp only [Bool.false_eq_true, if_false, Machine.Partition.mk.injEq] at hxy ⊢
    obtain ⟨ptstate, dying, rcount, panels, parkP, vbolts, qbolts, hwcap, mac0, mac1, dbgen, bound, viol, xtsKey, pktKey,
      keyed, bar0, mem, collars, bolts, cache, merged, clock, evicting, ctxs, grants, tombs, groups, colls, jkeys, tailor,
      pocket, ring, seam, hint, hostReqs, nextHost, pph, msix⟩ := hxy
    exact ⟨ptstate, dying, rcount, panels, parkP, vbolts, qbolts, hwcap, mac0, mac1, dbgen, bound,
      hide_mono hFG (.regs q) viol, xtsKey, pktKey, keyed, hide_mono hFG (.regs q) bar0, hide_mono hFG (.mem q) mem,
      hide_mono hFG (.mem q) collars, hide_mono hFG (.hbm q) bolts, hide_mono hFG (.hbm q) cache,
      hide_mono hFG (.hbm q) merged, hide_mono hFG (.hbm q) clock, hide_mono hFG (.hbm q) evicting, ctxs, grants, tombs,
      groups, colls, jkeys, tailor, pocket, ring, seam, hint, hostReqs, nextHost, pph, hide_mono hFG (.vec q) msix⟩
  · rfl

/-- What one view shows as unchanged, a view that shows less does too. -/
theorem view_mono {s t : State} (h : view F t = view F s) : view G t = view G s := by
  have rel : (if G .rel then (if G .steady then .reset else steadyOnly t.rel) else t.rel) =
      if G .rel then (if G .steady then .reset else steadyOnly s.rel) else s.rel := by
    cases hr : G .rel
    · rw [rel_of_view h (shown_of_shown hFG hr)]
    · exact hide_congr hFG fun hs => by
        have e := steady_of_view h hs
        simp only [steady, Prod.mk.injEq, and_assoc] at e
        simp only [steadyOnly, e]
  have sec : (if G .sec then (if G .fuses then .reset else fusesOnly t.sec) else t.sec) =
      if G .sec then (if G .fuses then .reset else fusesOnly s.sec) else s.sec := by
    cases hr : G .sec
    · rw [sec_of_view h (shown_of_shown hFG hr)]
    · exact hide_congr hFG fun hs => by
        have e := fuses_of_view h hs
        simp only [fuses, Prod.mk.injEq] at e
        simp only [fusesOnly, e]
  have part : (fun q => viewPart G q (partOf t q)) = fun q => viewPart G q (partOf s q) :=
    funext fun q => viewPart_mono hFG (viewPart_of_view h q)
  unfold view
  rw [rel, sec, part, pending_of_view h, hide_congr hFG (freeIx_of_view h), hide_congr hFG (out_of_view h),
    hide_congr hFG (dieCtr_of_view h), hide_congr hFG (osc_of_view h), hide_congr hFG (cores_of_view h),
    hide_congr hFG (clusters_of_view h), hide_congr hFG (stores_of_view h), hide_congr hFG (tags_of_view h),
    hide_congr hFG (parts_of_view h), hide_congr hFG (fabric_of_view h), hide_congr hFG (wardrobe_of_view h),
    hide_congr hFG (pwr_of_view h), hide_congr hFG (mregs_of_view h), hide_congr hFG (pattern_of_view h),
    hide_congr hFG (tap_of_view h)]

end Less

/-! ### What resets keep (R352, R353) -/

section Steady
variable {s t : State} (h : steady t.rel = steady s.rel)
include h

theorem dph_of_steady : t.rel.dph = s.rel.dph := congrArg (·.2.1) h
theorem dcount_of_steady : t.rel.dcount = s.rel.dcount := congrArg (·.2.2.1) h
theorem rcmd_of_steady : t.rel.rcmd = s.rel.rcmd := congrArg (·.2.2.2.1) h
theorem drcnt_of_steady : t.rel.drcnt = s.rel.drcnt := congrArg (·.2.2.2.2.1) h
theorem prcnt_of_steady : t.rel.prcnt = s.rel.prcnt := congrArg (·.2.2.2.2.2.1) h
theorem oos_of_steady : t.rel.oos = s.rel.oos := congrArg (·.2.2.2.2.2.2.1) h
theorem bst_of_steady : t.rel.bst = s.rel.bst := congrArg (·.2.2.2.2.2.2.2.2.1) h
theorem bres_of_steady : t.rel.bres = s.rel.bres := congrArg (·.2.2.2.2.2.2.2.2.2.1) h

end Steady

/-- All that commands change but what is steady, one-time programmable or a partition's own record. -/
@[reducible] def allButRecords : Field → Bool
  | .freeIx | .out | .dieCtr | .osc | .cores | .clusters | .stores | .tags | .parts | .fabric | .wardrobe | .rel | .sec |
    .pwr | .mregs | .pattern | .tap | .regs _ | .vec _ | .mem _ | .hbm _ => true
  | .part _ | .steady | .fuses => false

/-- What CREATE gives a partition: panels, quotas and addresses; and its state and bindings (R222). -/
def identity (x : Partition) : Nat × BitVec 16 × Nat × Nat × Nat × Nat × BitVec 60 × BitVec 60 × BitVec 2 :=
  (x.ptstate, x.panels, x.parkP, x.vbolts, x.qbolts, x.hwcap, x.mac0, x.mac1, x.bound)

theorem identity_of_view {F : Field → Bool} {s t : State} (h : view F t = view F s) {q : Nat} (hF : F (.part q) = false) :
    identity (partOf t q) = identity (partOf s q) := by
  have hx := congrArg identity (viewPart_of_view h q)
  simp only [viewPart, hF] at hx
  exact hx

theorem identity_onPart (s : State) (p q : Nat) (f : Partition → Partition) (hf : ∀ x, identity (f x) = identity x) :
    identity (partOf (onPart s p f) q) = identity (partOf s q) := by
  by_cases h : q = p
  · rw [h, partOf_onPart, hf]
  · rw [partOf_onPart_ne _ _ _ _ h]

theorem identity_foldl {α : Type} {f : State → α → State} {q : Nat} (l : List α) (s : State)
    (keep : ∀ t e, identity (partOf (f t e) q) = identity (partOf t q)) :
    identity (partOf (l.foldl f s) q) = identity (partOf s q) :=
  List.foldlRecOn (motive := fun t => identity (partOf t q) = identity (partOf s q)) _ _ rfl fun t ht e _ =>
    (keep t e).trans ht

theorem identity_devWrite (s : State) (p a : Nat) (bs : List Byte) (q : Nat) :
    identity (partOf (devWrite s p a bs) q) = identity (partOf s q) :=
  identity_of_view (devWrite_deviceAccess s p a bs) rfl

theorem identity_pkAbandon (s : State) (p q : Nat) : identity (partOf (pkAbandon s p) q) = identity (partOf s q) := by
  refine (identity_onPart _ _ _ _ ?_).trans (identity_foldl _ _ fun _ _ => identity_devWrite ..)
  exact fun _ => rfl

theorem identity_abandonHints (n : Nat) (s : State) (p q : Nat) :
    identity (partOf (abandonHints n s p) q) = identity (partOf s q) := by
  induction n generalizing s with
  | zero => rfl
  | succ n ih =>
    unfold abandonHints
    split
    · rfl
    · refine (ih _).trans ((identity_onPart _ _ _ _ ?_).trans ((identity_devWrite ..).trans (identity_devWrite ..)))
      exact fun _ => rfl

theorem identity_putColl (s : State) (p : Nat) (k : Coll) (q : Nat) :
    identity (partOf (putColl s p k) q) = identity (partOf s q) := identity_onPart _ _ _ _ fun _ => rfl

theorem identity_endColl (s : State) (p : Nat) (k : Coll) (status q : Nat) :
    identity (partOf (endColl s p k status) q) = identity (partOf s q) := by
  have sent (t : State) (k' : Coll) (kind : Nat) (bs : List Byte) (r : Nat) :
      identity (partOf (sendControl t p k' kind bs r) q) = identity (partOf t q) :=
    identity_of_view (sendControl_view (F := allButRecords) _ _ _ _ _ _ rfl rfl) rfl
  have wrote (t : State) (c a : Nat) (pay : List Byte) (col : Collar) :
      identity (partOf (engineWrite t p c a pay col).1 q) = identity (partOf t q) :=
    identity_of_view (F := allButRecords) (by simp only [engineWrite_view, implies_true]) rfl
  unfold endColl
  split
  · rfl
  · have ended := fun k' l (f : State → Nat → State) (hf : ∀ t e, identity (partOf (f t e) q) = identity (partOf t q)) =>
      (identity_foldl (f := f) l (putColl s p k') hf).trans (identity_putColl s p k' q)
    dsimp only
    split
    · exact ended _ _ _ fun t r => sent ..
    · exact (identity_foldl _ _ fun t i => wrote ..).trans (ended _ _ _ fun t r => sent ..)

theorem identity_of_eq {s t : State} {q : Nat} (h : partOf t q = partOf s q) :
    identity (partOf t q) = identity (partOf s q) := by rw [h]

theorem identity_ctxReset (s : State) (p c q : Nat) : identity (partOf (ctxReset s p c) q) = identity (partOf s q) := by
  have reset (f : Partition → Partition) (hf : ∀ x, identity (f x) = identity x) (cut : Bool) :
      identity (partOf (if cut then ctxVector (onPart s p f) p c else onPart s p f) q) = identity (partOf s q) := by
    split
    · exact (identity_of_view (F := allButRecords) (ctxVector_view _ _ _ rfl rfl rfl) rfl).trans (identity_onPart _ _ _ _ hf)
    · exact identity_onPart _ _ _ _ hf
  refine reset _ (fun x => ?_) _
  dsimp only
  split
  · rfl
  · rfl

theorem identity_abortVotes (s : State) (pick : Vote → Bool) (q : Nat) :
    identity (partOf (abortVotes s pick) q) = identity (partOf s q) :=
  identity_of_view (F := allButRecords) (by simp only [abortVotes_view, implies_true]) rfl

/-- QUIESCE up to the end of the contexts: stashes, hints and collectives are abandoned, contexts end (R352). -/
def contextsQuiet (s : State) (p : Nat) : State :=
  let s3 := abandonHints (hintCount (partOf (pkAbandon s p) p)) (pkAbandon s p) p
  (List.range 64).foldl (fun t c => ctxReset t p c)
    ((partOf s3 p).colls.foldl (fun t k => endColl t p k Status.aborted) s3)

/-- The units of a partition in QUIESCE: cores and clusters are off and on again, nothing outstanding is awaited. -/
def unitsQuiet (s : State) (p : Nat) : State :=
  { s with
    cores := s.cores.filter fun e => !hasCluster (partOf s p) (e.1 / 16)
    clusters := s.clusters.filter fun e => !hasCluster (partOf s p) e.1
    fabric := { s.fabric with
      reqs := s.fabric.reqs.map fun r => if r.part = p then { r with timedOut := true } else r
      waiting := s.fabric.waiting.filter fun w => w.part != p }
    rel := { s.rel with
      kernels := s.rel.kernels.filter fun e => !hasCluster (partOf s p) (e.1 / 16)
      engResets := s.rel.engResets.filter fun e => enginePart s e != some p
      fwSilent := s.rel.fwSilent.filter fun e => e.1 != p } }

theorem quiescePart_eq (s : State) (p : Nat) : quiescePart s p =
    abortVotes (onPart (unitsQuiet (contextsQuiet s p) p) p Partition.quiesced) fun v => v.part == p := by
  simp only [quiescePart, contextsQuiet, unitsQuiet]

theorem identity_contextsQuiet (s : State) (p q : Nat) : identity (partOf (contextsQuiet s p) q) = identity (partOf s q) :=
  (identity_foldl _ _ fun _ _ => identity_ctxReset ..).trans ((identity_foldl _ _ fun _ _ => identity_endColl ..).trans
    ((identity_abandonHints ..).trans (identity_pkAbandon ..)))

@[simp] theorem partOf_unitsQuiet (s : State) (p q : Nat) : partOf (unitsQuiet s p) q = partOf s q := rfl

/-- QUIESCE leaves what a partition was given. -/
theorem identity_quiescePart (s : State) (p q : Nat) : identity (partOf (quiescePart s p) q) = identity (partOf s q) := by
  rw [quiescePart_eq, identity_abortVotes, identity_onPart _ _ _ Partition.quiesced fun _ => rfl, partOf_unitsQuiet, identity_contextsQuiet]

/-- The panels of a partition stand with its identity. -/
theorem panels_of_identity {x y : Partition} (h : identity x = identity y) : x.panels = y.panels := congrArg (·.2.1) h

theorem partOf_resetEvent (s : State) (cls p status q : Nat) : partOf (resetEvent s cls p status) q = partOf s q := by
  rw [partOf, parts_of_view (resetEvent_view (F := noParts) s cls p status rfl rfl) rfl, partOf]

theorem steady_resetEvent (s : State) (cls p status : Nat) : steady (resetEvent s cls p status).rel = steady s.rel :=
  steady_of_view (F := allButRecords) (resetEvent_view _ _ _ _ rfl rfl) rfl

/-- The start of the reset of a LIVE partition (R352). -/
theorem beginPartReset_live {s : State} {p : Nat} (hl : (partOf s p).ptstate = 1) (hd : s.rel.dph = 0) (counted dying : Bool) :
    beginPartReset s p counted dying = resetEvent (setPtstate (onPart (quiescePart s p) p fun x =>
      { x with dying := dying, rcount := counted, pph := 1 }) p 5) 0x16 p Status.ok := by
  rw [beginPartReset, if_neg (by rw [hl, hd]; decide), if_neg (by rw [hl]; decide), if_neg (by rw [hl]; decide)]

/-- A partition as its reset begins. -/
def resetBegun (x : Partition) (counted dying : Bool) : Partition :=
  { x with dying := dying, rcount := counted, pph := 1, ptstate := 5, msix := setFld x.msix 0 0 1 }

theorem resetBegun_panels (x : Partition) (counted dying : Bool) : (resetBegun x counted dying).panels = x.panels := rfl

theorem partOf_resetStarted (u : State) (p : Nat) (counted dying : Bool) (cls status : Nat) :
    partOf (resetEvent (setPtstate (onPart u p fun x =>
      { x with dying := dying, rcount := counted, pph := 1 }) p 5) cls p status) p = resetBegun (partOf u p) counted dying := by
  rw [partOf_resetEvent, setPtstate, msix, partOf_emit, partOf_onPart, partOf_onPart, partOf_onPart, resetBegun]

theorem partOf_beginPartReset_live {s : State} {p : Nat} (hl : (partOf s p).ptstate = 1) (hd : s.rel.dph = 0)
    (counted dying : Bool) :
    partOf (beginPartReset s p counted dying) p = resetBegun (partOf (quiescePart s p) p) counted dying := by
  rw [beginPartReset_live hl hd, partOf_resetStarted]

/-- All but steady and fuses. -/
@[reducible] def allButSteady : Field → Bool
  | .steady | .fuses => false
  | _ => true

theorem steady_quiescePart (s : State) (p : Nat) : steady (quiescePart s p).rel = steady s.rel :=
  steady_of_view (F := allButSteady) (by simp only [quiescePart_view, implies_true]) rfl

theorem steady_beginPartReset (s : State) (p : Nat) (counted dying : Bool) :
    steady (beginPartReset s p counted dying).rel = steady s.rel :=
  steady_of_view (F := allButSteady) (by simp only [beginPartReset_view, implies_true]) rfl

/-- The reset command of a partition waits for its reset (R354). -/
def withPreset (s : State) (p : Nat) : State :=
  { s with rel := { s.rel with rcmd := if s.rel.rcmd.contains p then s.rel.rcmd else s.rel.rcmd ++ [p] } }

theorem partOf_withPreset (s : State) (p q : Nat) : partOf (withPreset s p) q = partOf s q := rfl

theorem mem_rcmd_withPreset (s : State) (p : Nat) : p ∈ (withPreset s p).rel.rcmd := by
  simp only [withPreset]
  split
  next h => simpa using h
  · simp

theorem presetCmd_live {s : State} {p : Nat} (hl : (partOf s p).ptstate = 1) (hf : firmwareUp s = true) :
    presetCmd s p = beginPartReset (withPreset s p) p false false := by
  rw [presetCmd, if_neg (by rw [hf]; decide), if_neg (by rw [hl]; decide), if_neg (by rw [hl]; decide)]
  rfl

theorem dph_of_firmwareUp {s : State} (h : firmwareUp s = true) : s.rel.dph = 0 := by
  simp only [firmwareUp, Bool.and_eq_true, beq_iff_eq] at h
  exact h.2

/-- Bytes that a filter keeps by their address read as they were, others read zero. -/
theorem mget_filter (m : Mem) (keep : Nat → Bool) (b : Nat) :
    mget (m.filter fun c => keep c.1) b = if keep b then mget m b else 0 := by
  cases hk : keep b
  · refine sget_absent _ _ _ fun e he hb => ?_
    have := (List.mem_filter.1 he).2
    rw [hb, hk] at this
    exact Bool.false_ne_true this
  · have kept := sget_filter Mem.unlisted m [] keep b hk
    rw [List.append_nil] at kept
    refine kept.trans ?_
    split
    · rfl
    next hn => exact (sget_absent _ _ _ fun e he hb => hn ⟨e, he, hb⟩).symm

theorem mget_scrubStores (s : State) (panels : BitVec 16) (b : Nat) : mget (scrubStores s panels).stores b =
    if bit (panels &&& ~~~ s.rel.fencedPanels) (panelOfCluster (storeCluster b)) then 0 else mget s.stores b := by
  refine (mget_filter s.stores (fun a => !bit (panels &&& ~~~ s.rel.fencedPanels) (panelOfCluster (storeCluster a))) b).trans ?_
  cases bit (panels &&& ~~~ s.rel.fencedPanels) (panelOfCluster (storeCluster b)) <;> rfl

/-- Only counts, records and output. -/
@[reducible] def notesOnly : Field → Bool
  | .out | .rel => true
  | _ => false

/-- A charge to the device as a whole is no partition's (Table 14-3). -/
theorem charge_device_view (s : State) (cls : Nat) : view notesOnly (charge s cls 0 0) = view notesOnly s :=
  chargeN_view_of_noPart _ _ _ _ _ (fun _ => rfl) rfl rfl

/-- What PARTITION_RESET_COMPLETE makes of a partition that goes on (R352). -/
def afterReset (s : State) (p : Nat) : State :=
  let x := partOf s p
  let t := newKeys (onPart (wakeChannels (scrubStores s x.panels) x.panels) p Partition.scrubbed) p
  setPtstate (onPart t p fun y => { y with pph := 0, dying := false, rcount := false }) p 1

theorem partResetComplete_commanded {s : State} {p : Nat} (hst : (partOf s p).ptstate = 5) (hd : s.rel.dph = 0)
    (hdy : (partOf s p).dying = false) (hc : (partOf s p).rcount = false) : partResetComplete s p =
      resetEvent (endPreset (charge (afterReset s p) 0x16 0 0) p) 0x16 p Status.ok := by
  simp [partResetComplete, hst, hd, hdy, hc, countPart, afterReset]

theorem endPreset_parts (s : State) (p : Nat) : (endPreset s p).parts = s.parts := by
  unfold endPreset
  split <;> rfl

theorem endPreset_stores (s : State) (p : Nat) : (endPreset s p).stores = s.stores := by
  unfold endPreset
  split <;> rfl

theorem endPreset_cores (s : State) (p : Nat) : (endPreset s p).cores = s.cores := by
  unfold endPreset
  split <;> rfl

/-- No reset command of the partition waits any longer (R354). -/
theorem not_mem_rcmd_endPreset (s : State) (p : Nat) : p ∉ (endPreset s p).rel.rcmd := by
  unfold endPreset
  split
  · simp [rsEnd, putMreg, setMreg]
  next h => simpa using h

theorem partOf_setPtstate (s : State) (p v : Nat) : partOf (setPtstate s p v) p =
    { partOf s p with ptstate := v, msix := setFld (partOf s p).msix 0 0 1 } := by
  rw [setPtstate, msix, partOf_emit, partOf_onPart, partOf_onPart]

theorem partOf_setPtstate_ne (s : State) (p v : Nat) {q : Nat} (h : q ≠ p) : partOf (setPtstate s p v) q = partOf s q := by
  rw [setPtstate, msix, partOf_emit, partOf_onPart_ne _ _ _ _ h, partOf_onPart_ne _ _ _ _ h]

theorem partOf_newKeys (s : State) (p : Nat) : ∃ k q, partOf (newKeys s p) p =
    { partOf s p with xtsKey := k, pktKey := q, keyed := true } := by
  refine ⟨BitVec.ofNat 512 (drbg s 0 8), BitVec.ofNat 256 (drbg s 8 4), ?_⟩
  rw [newKeys, partOf_spend, partOf_onPart]

theorem partOf_newKeys_ne (s : State) (p : Nat) {q : Nat} (h : q ≠ p) : partOf (newKeys s p) q = partOf s q := by
  rw [newKeys, partOf_spend, partOf_onPart_ne _ _ _ _ h]

theorem partOf_afterReset (s : State) (p : Nat) :
    let x := partOf (afterReset s p) p
    x.ptstate = 1 ∧ x.mem = [] ∧ x.bolts = [] ∧ x.jkeys = [] ∧ x.keyed = true := by
  dsimp only
  obtain ⟨k, q, hk⟩ := partOf_newKeys
    (onPart (wakeChannels (scrubStores s (partOf s p).panels) (partOf s p).panels) p Partition.scrubbed) p
  rw [partOf_onPart] at hk
  rw [afterReset, partOf_setPtstate, partOf_onPart, hk]
  simp only [Partition.scrubbed, and_self]

theorem partOf_afterReset_ne (s : State) {p q : Nat} (h : q ≠ p) : partOf (afterReset s p) q = partOf s q := by
  rw [afterReset, partOf_setPtstate_ne _ _ _ h, partOf_onPart_ne _ _ _ _ h, partOf_newKeys_ne _ _ h,
    partOf_onPart_ne _ _ _ _ h]
  rfl

/-- PARTITION_RESET_COMPLETE of a commanded reset (R352, R354). -/
theorem partResetComplete_spec {s : State} {p : Nat} (hst : (partOf s p).ptstate = 5) (hd : s.rel.dph = 0)
    (hdy : (partOf s p).dying = false) (hc : (partOf s p).rcount = false) :
    let t := partResetComplete s p
    t.parts = (afterReset s p).parts ∧ t.stores = (scrubStores s (partOf s p).panels).stores ∧ t.cores = s.cores ∧
      p ∉ t.rel.rcmd := by
  dsimp only
  rw [partResetComplete_commanded hst hd hdy hc]
  have hs : (afterReset s p).stores = (scrubStores s (partOf s p).panels).stores := rfl
  have hk : (afterReset s p).cores = s.cores := rfl
  rw [← hs, ← hk]
  generalize afterReset s p = u
  have hch := charge_device_view u 0x16
  have hev := resetEvent_view (F := notesOnly) (endPreset (charge u 0x16 0 0) p) 0x16 p Status.ok rfl rfl
  refine ⟨?_, ?_, ?_, ?_⟩
  · exact (parts_of_view hev rfl).trans ((endPreset_parts ..).trans (parts_of_view hch rfl))
  · exact (stores_of_view hev rfl).trans ((endPreset_stores ..).trans (stores_of_view hch rfl))
  · exact (cores_of_view hev rfl).trans ((endPreset_cores ..).trans (cores_of_view hch rfl))
  · rw [rcmd_of_steady (steady_of_view hev rfl)]
    exact not_mem_rcmd_endPreset _ p

theorem devReset_dph {s : State} (h : ResetPossible s) (counted : Bool) :
    (beginDevReset s counted).rel.dph = 1 ∧ (beginDevReset s counted).rel.dcount = counted := by
  rw [beginDevReset_of_possible h]
  exact ⟨rfl, rfl⟩

/-! ### The context table (Table 10-2) -/

/-- No register differs below the `MIG` and `ERR` blocks but those of the Ringmaster. -/
structure SameSettings (s t : State) : Prop where
  reg (q o : Nat) : o < 0xA0000 → o < 0x60000 ∨ 0x70000 ≤ o → (partOf t q).reg o = (partOf s q).reg o

theorem sameSettings_refl (s : State) : SameSettings s s := ⟨fun _ _ _ _ => rfl⟩

theorem sameSettings_trans {s t u : State} (h : SameSettings s t) (h' : SameSettings t u) : SameSettings s u :=
  ⟨fun q o hl hh => (h'.reg q o hl hh).trans (h.reg q o hl hh)⟩

theorem sameSettings_foldl {α : Type} {f : State → α → State} (l : List α) (s : State)
    (keep : ∀ t e, SameSettings t (f t e)) : SameSettings s (l.foldl f s) :=
  List.foldlRecOn (motive := fun t => SameSettings s t) _ _ (sameSettings_refl s) fun t ht e _ =>
    sameSettings_trans ht (keep t e)

theorem sameSettings_ite {c : Prop} [Decidable c] {s a b : State} (ha : SameSettings s a) (hb : SameSettings s b) :
    SameSettings s (if c then a else b) := by
  split
  · exact ha
  · exact hb

theorem sameSettings_getD {o : Option State} {s u : State} (step : ∀ t, o = some t → SameSettings s t)
    (other : SameSettings s u) : SameSettings s (o.getD u) := by
  cases o with
  | none => exact other
  | some t => exact step t rfl

/-- All but a partition's registers and its own record. -/
@[reducible] def noRegisters : Field → Bool
  | .part _ | .regs _ => false
  | _ => true

theorem bar0_of_viewPart {q : Nat} {x y : Partition} (h : viewPart noRegisters q y = viewPart noRegisters q x) :
    y.bar0 = x.bar0 := by
  simpa only [viewPart, noRegisters, Bool.false_eq_true, if_false] using congrArg Partition.bar0 h

theorem sameSettings_of_view {s t : State} (h : view noRegisters t = view noRegisters s) : SameSettings s t := by
  refine ⟨fun q o _ _ => ?_⟩
  rw [Partition.reg, Partition.reg, bar0_of_viewPart (viewPart_of_view h q)]

theorem sameSettings_onPart (s : State) (p : Nat) (f : Partition → Partition)
    (hf : ∀ x o, o < 0xA0000 → o < 0x60000 ∨ 0x70000 ≤ o → (f x).reg o = x.reg o) : SameSettings s (onPart s p f) := by
  refine ⟨fun q o hl hh => ?_⟩
  by_cases h : q = p
  · rw [h, partOf_onPart, hf _ _ hl hh]
  · rw [partOf_onPart_ne _ _ _ _ h]

theorem sameSettings_of_bar0 (s : State) (p : Nat) (f : Partition → Partition) (hf : ∀ x, (f x).bar0 = x.bar0) :
    SameSettings s (onPart s p f) :=
  sameSettings_onPart s p f fun x o _ _ => by rw [Partition.reg, hf, Partition.reg]

theorem sameSettings_putReg (s : State) (p o hi lo v : Nat) (ho : 0xA0000 ≤ o ∨ 0x60000 ≤ o ∧ o < 0x70000) :
    SameSettings s (putReg s p o hi lo v) := by
  refine sameSettings_onPart s p _ fun x k hl hh => ?_
  rw [Partition.put, Partition_reg_setReg_ne _ _ _ _ (by omega)]

theorem sameSettings_errEvent (s : State) (p i : Nat) : SameSettings s (errEvent s p i) := by
  unfold errEvent
  have counted := sameSettings_trans (sameSettings_putReg s p R.errEvents i i 1 (.inl (by decide)))
    (sameSettings_putReg (putReg s p R.errEvents i i 1) p (R.errCnt i) 31 0
      (satTo 32 (reg (putReg s p R.errEvents i i 1) p (R.errCnt i) 31 0 + 1)) (.inl (by simp only [R.errCnt]; omega)))
  refine sameSettings_ite ?_ counted
  exact sameSettings_trans counted (sameSettings_of_view (msix_view _ _ _ rfl rfl rfl))

theorem sameSettings_countStall (s : State) (p : Nat) : SameSettings s (countStall s p) := by
  refine sameSettings_onPart s p _ fun x k hl hh => ?_
  rw [Partition.put, Partition_reg_setReg_ne _ _ _ _ (by simp only [R.migStall]; omega)]

theorem sameSettings_violationIf (b : Bool) (s : State) (p : Nat) : SameSettings s (violationIf b s p) :=
  sameSettings_ite (sameSettings_of_bar0 _ _ _ fun _ => rfl) (sameSettings_refl s)

theorem sameSettings_chargeN (s : State) (cls ut idx n : Nat) : SameSettings s (chargeN s cls ut idx n) := by
  have recorded (u : Rel) (c : Prop) [Decidable c] (flg : Nat) : SameSettings s
      (if c then eventRecord { s with rel := u } cls ut idx flg 0 else { s with rel := u }) :=
    sameSettings_ite (sameSettings_of_view ((eventRecord_view _ _ _ _ _ _ rfl rfl).trans rfl))
      (sameSettings_of_view rfl)
  unfold chargeN
  refine sameSettings_ite ?_ (recorded ..)
  split
  · exact sameSettings_trans (recorded ..) (sameSettings_errEvent ..)
  · exact recorded ..

theorem sameSettings_tileFailed (s : State) (p t : Nat) : SameSettings s (tileFailed s p t) :=
  sameSettings_trans (sameSettings_errEvent ..) (sameSettings_chargeN ..)

theorem sameSettings_checkTiles (s : State) (p : Nat) (ts : List Nat) : SameSettings s (checkTiles s p ts) :=
  sameSettings_foldl _ _ fun u t => sameSettings_ite (sameSettings_refl u) (sameSettings_tileFailed u p t)

theorem sameSettings_undecoded (s : State) (p b : Nat) (bad : BitVec 16) : SameSettings s (undecoded s p b bad) := by
  unfold undecoded
  dsimp only
  refine sameSettings_ite (sameSettings_refl s) (sameSettings_trans (sameSettings_of_view ?_) (sameSettings_errEvent ..))
  simp only [↓chargeFlash_view, ↓onWear_view, ↓spend_view, ↓view_foldl, ↓poisonedTile_view, implies_true]

theorem sameSettings_hostReadNone (s : State) (p n : Nat) : SameSettings s (hostReadNone s p n) :=
  sameSettings_trans (sameSettings_of_view ((spend_view _ _ rfl).trans (emit_view _ _ rfl))) (sameSettings_errEvent _ p 11)

theorem sameSettings_stallOn {s t : State} {p b : Nat} {w : Stalled} (h : stallOn s p b w = some t) : SameSettings s t := by
  obtain ⟨u, hu, rfl⟩ := Option.map_eq_some_iff.1 h
  refine sameSettings_trans (sameSettings_of_view (beginFetch_view hu rfl rfl rfl rfl rfl (fun _ => rfl) rfl)) ?_
  refine sameSettings_trans (sameSettings_of_bar0 _ _ _ ?_) (sameSettings_countStall ..)
  exact fun _ => rfl

theorem sameSettings_readyAll_readyWrite {s t : State} {p : Nat} {bs : List Nat} (h : readyAll readyWrite s p bs = some t) :
    SameSettings s t :=
  sameSettings_of_view (readyAll_view h fun e => readyWrite_view e rfl rfl rfl rfl rfl (fun _ => rfl) rfl)

theorem sameSettings_hostReadAt (s : State) (p : Nat) (ps : List (Option Nat)) : SameSettings s (hostReadAt s p ps) := by
  unfold hostReadAt
  dsimp only
  refine sameSettings_ite (sameSettings_of_view rfl) (sameSettings_ite (sameSettings_hostReadNone ..)
    (sameSettings_ite (sameSettings_of_view rfl) ?_))
  split
  · exact sameSettings_getD (fun t => sameSettings_stallOn) (sameSettings_hostReadNone ..)
  · refine sameSettings_trans ?_ (sameSettings_violationIf ..)
    refine sameSettings_trans (sameSettings_trans (sameSettings_of_view ?_) (sameSettings_checkTiles ..)) (sameSettings_of_view rfl)
    exact touchTiles_view _ _ _ rfl rfl

theorem sameSettings_hostWriteAt (s : State) (p : Nat) (ps : List (Option Nat)) (data : List Byte) :
    SameSettings s (hostWriteAt s p ps data) := by
  unfold hostWriteAt
  dsimp only
  refine sameSettings_ite (sameSettings_of_view rfl) (sameSettings_ite (sameSettings_errEvent ..)
    (sameSettings_ite (sameSettings_refl s) ?_))
  split
  · exact sameSettings_getD (fun t => sameSettings_stallOn) (sameSettings_errEvent ..)
  · split
    · exact sameSettings_errEvent ..
    · next t ready =>
      refine sameSettings_trans (sameSettings_readyAll_readyWrite ready) (sameSettings_trans ?_ (sameSettings_violationIf ..))
      refine sameSettings_of_view (onPart_view _ _ _ rfl (viewPart_foldl _ _ fun y e => ?_))
      split
      · exact plainTileWrite_view _ _ _ _ _ _ rfl rfl
      · rfl

theorem sameSettings_serve (s : State) (p : Nat) (w : Stalled) : SameSettings s (serve s p w) := by
  unfold serve
  split
  · exact sameSettings_hostReadAt ..
  · exact sameSettings_hostWriteAt ..
  · exact sameSettings_refl s

theorem sameSettings_serveStalled (s : State) (p b : Nat) : SameSettings s (serveStalled serve s p b) := by
  refine sameSettings_trans (sameSettings_of_bar0 _ _ _ ?_) (sameSettings_foldl _ _ fun t w => sameSettings_serve t p w)
  exact fun _ => rfl

theorem sameSettings_fetchDone (s : State) (p b : Nat) (bad : BitVec 16) (retries us : Nat) :
    SameSettings s (fetchDone serve s p b bad retries us) := by
  have arrived (f g : Partition → Partition) (hf : ∀ x, (f x).bar0 = x.bar0) (hg : ∀ x, (g x).bar0 = x.bar0) :
      SameSettings s (onPart
        (checkTiles (readFlash (undecoded (onPart s p f) p b bad) p b retries) p (boltTiles b)) p g) :=
    sameSettings_trans (sameSettings_of_bar0 _ _ _ hf) (sameSettings_trans (sameSettings_undecoded ..)
      (sameSettings_trans (sameSettings_of_view (readFlash_view _ _ _ _ rfl rfl rfl rfl))
        (sameSettings_trans (sameSettings_checkTiles ..) (sameSettings_of_bar0 _ _ _ hg))))
  unfold fetchDone
  dsimp only
  refine sameSettings_ite (sameSettings_trans ?_ (sameSettings_serveStalled ..)) (sameSettings_refl s)
  have touched (x : Partition) : ((boltTiles b).foldl (touchTile true) x).bar0 = x.bar0 :=
    bar0_of_viewPart (q := p) (viewPart_foldl _ _ fun y t => touchTile_view _ y t rfl)
  refine sameSettings_ite (arrived _ _ ?_ touched) (sameSettings_trans (arrived _ _ ?_ touched)
    (sameSettings_putReg _ _ _ _ _ _ (.inl (by decide))))
  · exact fun _ => rfl
  · exact fun _ => rfl

theorem sameSettings_fetchNow {s t : State} {p b : Nat} (h : fetchNow s p b = some t) : SameSettings s t := by
  unfold fetchNow at h
  split at h
  · obtain ⟨u, hu, rfl⟩ := Option.map_eq_some_iff.1 h
    refine sameSettings_trans (sameSettings_of_view (beginFetch_view hu rfl rfl rfl rfl rfl (fun _ => rfl) rfl)) ?_
    refine sameSettings_trans ?_ (sameSettings_putReg _ _ _ _ _ _ (.inl (by decide)))
    exact sameSettings_trans (sameSettings_countStall u p)
      (sameSettings_trans (sameSettings_of_view (spend_view _ 4 rfl)) (sameSettings_fetchDone ..))
  · cases h
    exact sameSettings_refl s

theorem sameSettings_engineWrite (s : State) (p c a : Nat) (pay : List Byte) (col : Collar) :
    SameSettings s (engineWrite s p c a pay col).1 := by
  unfold engineWrite
  split
  · split
    · next t ready =>
      obtain ⟨u, hu, ht⟩ := Option.bind_eq_some_iff.1 ready
      refine sameSettings_trans (sameSettings_fetchNow hu) (sameSettings_trans (sameSettings_of_view
        (readyWrite_view ht rfl rfl rfl rfl rfl (fun _ => rfl) rfl)) ?_)
      exact sameSettings_of_bar0 t p (fun x => putTile x ((a - boltBase) / 4096) pay col) fun x =>
        bar0_of_viewPart (q := p) (putTile_view _ _ _ _ rfl rfl)
    · exact sameSettings_refl s
  · exact sameSettings_violationIf true s p

theorem sameSettings_devWriteRun (base : Bool) (s : State) (p a : Nat) (bs : List Byte) :
    SameSettings s (devWriteRun base s p a bs).1 := by
  simp only [devWriteRun]
  split
  · exact sameSettings_of_view ((setTags_view _ _ _ _ rfl).trans (putStore_view _ _ _ rfl rfl))
  · split
    · exact sameSettings_of_view rfl
    · exact sameSettings_refl s
  · split
    · exact sameSettings_refl s
    · split
      next t ht =>
        refine sameSettings_trans (sameSettings_of_view (readyWrite_view ht rfl rfl rfl rfl rfl (fun _ => rfl) rfl)) ?_
        exact sameSettings_of_view (onPart_view _ _ _ rfl (plainTileWrite_view _ _ _ _ _ _ rfl rfl))
      · exact sameSettings_errEvent ..
  · exact sameSettings_refl s

theorem sameSettings_devWrite (s : State) (p a : Nat) (bs : List Byte) : SameSettings s (devWrite s p a bs) := by
  simp only [devWrite, devWriteBy]
  refine sameSettings_trans (t := (List.foldl _ (s, false) _).1) ?_ (sameSettings_violationIf ..)
  refine List.foldlRecOn (motive := fun r : State × Bool => SameSettings s r.1) _ _ (sameSettings_refl s) fun r hr e _ => ?_
  refine sameSettings_trans hr ?_
  dsimp only
  split
  · exact sameSettings_devWriteRun false r.1 p _ _
  · exact sameSettings_refl r.1

/-! ### What QUIESCE does to contexts (R352, Table 10-8) -/

theorem sameSettings_endColl (s : State) (p : Nat) (k : Coll) (status : Nat) : SameSettings s (endColl s p k status) := by
  have put (k' : Coll) : SameSettings s (putColl s p k') := sameSettings_of_bar0 _ _ _ fun _ => rfl
  have sent (t : State) (k' : Coll) (kind : Nat) (bs : List Byte) (r : Nat) : SameSettings t (sendControl t p k' kind bs r) :=
    sameSettings_of_view (sendControl_view _ _ _ _ _ _ rfl rfl)
  unfold endColl
  refine sameSettings_ite (sameSettings_refl s) ?_
  dsimp only
  refine sameSettings_ite ?_ ?_
  · exact sameSettings_trans (put _) (sameSettings_foldl _ _ fun t r => sent ..)
  · exact sameSettings_trans (sameSettings_trans (put _) (sameSettings_foldl _ _ fun t r => sent ..))
      (sameSettings_foldl _ _ fun t i => sameSettings_engineWrite ..)

theorem sameSettings_pkAbandon (s : State) (p : Nat) : SameSettings s (pkAbandon s p) := by
  unfold pkAbandon
  refine sameSettings_trans (sameSettings_foldl _ _ fun t i => sameSettings_devWrite ..) (sameSettings_of_bar0 _ _ _ ?_)
  exact fun _ => rfl

theorem sameSettings_abandonHints (n : Nat) (s : State) (p : Nat) : SameSettings s (abandonHints n s p) := by
  induction n generalizing s with
  | zero => exact sameSettings_refl s
  | succ n ih =>
    unfold abandonHints
    split
    · exact sameSettings_refl s
    · refine sameSettings_trans (sameSettings_trans (sameSettings_trans (sameSettings_devWrite ..) (sameSettings_devWrite ..))
        (sameSettings_onPart _ _ _ fun x o hl hh => ?_)) (ih _)
      exact Partition_reg_setReg_ne _ _ _ _ (by simp only [R.migHqHead]; omega)

/-- `CSTATE` after a partition reset. -/
def stateAfterReset (st : Nat) : Nat := if st = Cs.free then Cs.free else Cs.ended

theorem partOf_ctxVector_bar0 (s : State) (p c q : Nat) : (partOf (ctxVector s p c) q).bar0 = (partOf s q).bar0 :=
  bar0_of_viewPart (viewPart_of_view (ctxVector_view s p c rfl rfl rfl) q)

theorem cstate_of_bar0 {s t : State} {p : Nat} (h : (partOf t p).bar0 = (partOf s p).bar0) (c : Nat) :
    cstate t p c = cstate s p c := by
  simp only [cstate, reg, Partition.get, Partition.reg, h]

theorem cstate_of_sameSettings {s t : State} (h : SameSettings s t) (p : Nat) {c : Nat} (hc : c < 64) :
    cstate t p c = cstate s p c := by
  have hr := h.reg p (R.cxStat c) (by simp only [R.cxStat]; omega) (by simp only [R.cxStat]; omega)
  simp only [cstate, reg, Partition.get, hr]

/-- A partition one of whose contexts a reset has ended (Table 10-8). -/
def ctxEnded (x : Partition) (c st : Nat) (cut : Bool) : Partition :=
  let w := (if st = Cs.free then Cs.free else Cs.ended) + (if cut then Status.aborted * 2 ^ 8 else 0)
  let x1 := (x.putCtx c .fresh).setReg (R.cxStat c) (BitVec.ofNat 64 w)
  if st = Cs.free ∨ st = Cs.ended then x1 else x1.setReg (R.cxFault c) (faultRecord none 0)

theorem get_ctxEnded (x : Partition) (c st : Nat) (cut : Bool) (d : Nat) :
    (ctxEnded x c st cut).get (R.cxStat d) 3 0 = if d = c then stateAfterReset st else x.get (R.cxStat d) 3 0 := by
  have other : R.cxStat d ≠ R.cxFault c := by simp only [R.cxStat, R.cxFault]; omega
  have word : (ctxEnded x c st cut).reg (R.cxStat d) = ((x.putCtx c .fresh).setReg (R.cxStat c) (BitVec.ofNat 64
      ((if st = Cs.free then Cs.free else Cs.ended) + (if cut then Status.aborted * 2 ^ 8 else 0)))).reg (R.cxStat d) := by
    simp only [ctxEnded]
    split
    · rfl
    · exact Partition_reg_setReg_ne _ _ _ _ other
  rw [Partition.get, word]
  by_cases h : d = c
  · rw [if_pos h, h, Partition_reg_setReg, stateAfterReset]
    cases cut
    · split <;> decide
    · split <;> decide
  · rw [if_neg h, Partition_reg_setReg_ne _ _ _ _ (by simp only [R.cxStat]; omega)]
    rfl

theorem ctxReset_eq (s : State) (p c : Nat) : ∃ cut : Bool, ctxReset s p c =
    if cut then ctxVector (onPart s p fun x => ctxEnded x c (cstate s p c) cut) p c
    else onPart s p fun x => ctxEnded x c (cstate s p c) cut := ⟨_, rfl⟩

theorem cstate_ctxReset (s : State) (p c d : Nat) :
    cstate (ctxReset s p c) p d = if d = c then stateAfterReset (cstate s p c) else cstate s p d := by
  obtain ⟨cut, he⟩ := ctxReset_eq s p c
  have ends : cstate (ctxReset s p c) p d = cstate (onPart s p fun x => ctxEnded x c (cstate s p c) cut) p d := by
    rw [he]
    split
    · exact cstate_of_bar0 (partOf_ctxVector_bar0 ..) d
    · rfl
  rw [ends, cstate, reg, partOf_onPart, get_ctxEnded]
  rfl

/-- Every context of a list ends once. -/
theorem cstate_foldl_ctxReset (l : List Nat) (hn : l.Nodup) (s : State) (p d : Nat) :
    cstate (l.foldl (fun t c => ctxReset t p c) s) p d =
      if d ∈ l then stateAfterReset (cstate s p d) else cstate s p d := by
  induction l generalizing s with
  | nil => rfl
  | cons c l ih =>
    obtain ⟨hc, hl⟩ := List.nodup_cons.1 hn
    rw [List.foldl_cons, ih hl, cstate_ctxReset]
    by_cases hd : d = c
    · subst hd
      simp [hc]
    · simp [hd]

theorem cstate_contextsQuiet (s : State) (p : Nat) {c : Nat} (hc : c < 64) :
    cstate (contextsQuiet s p) p c = stateAfterReset (cstate s p c) := by
  have before := sameSettings_trans (sameSettings_pkAbandon s p) (sameSettings_abandonHints
    (hintCount (partOf (pkAbandon s p) p)) (pkAbandon s p) p)
  have ended := sameSettings_trans before (sameSettings_foldl
    (partOf (abandonHints (hintCount (partOf (pkAbandon s p) p)) (pkAbandon s p) p) p).colls _ fun t k =>
      sameSettings_endColl t p k Status.aborted)
  unfold contextsQuiet
  dsimp only
  rw [cstate_foldl_ctxReset _ List.nodup_range, if_pos (List.mem_range.2 hc), cstate_of_sameSettings ended p hc]

theorem sameSettings_voteResult (s : State) (p : Nat) (vid : BitVec 32) (code cls core : Nat) :
    SameSettings s (voteResult s p vid code cls core) := by
  unfold voteResult
  refine sameSettings_trans (sameSettings_ite (sameSettings_trans (sameSettings_onPart _ _ _ fun x o hl hh => ?_)
    (sameSettings_errEvent ..)) (sameSettings_refl s)) (sameSettings_of_view (eventRecord_view _ _ _ _ _ _ rfl rfl))
  exact Partition_reg_setReg_ne _ _ _ _ (by simp only [R.errVote]; omega)

theorem sameSettings_abortVotes (s : State) (pick : Vote → Bool) : SameSettings s (abortVotes s pick) := by
  unfold abortVotes
  refine sameSettings_trans ?_ (sameSettings_foldl _ _ fun t v =>
    sameSettings_trans (sameSettings_of_view (spend_view t 1 rfl)) (sameSettings_voteResult ..))
  exact sameSettings_of_view rfl

/-- The context table is kept by a partition reset (Table 10-8). -/
theorem cstate_quiesced (s : State) (p : Nat) {c : Nat} (hc : c < 64) :
    cstate (onPart s p Partition.quiesced) p c = cstate s p c := by
  have keep : keptByReset (R.cxStat c) = true := by
    have hl : 0x10000 ≤ R.cxStat c := by simp only [R.cxStat]; omega
    have hh : R.cxStat c < 0x14000 := by simp only [R.cxStat]; omega
    simp [keptByReset, hl, hh]
  have kept := sget_filter (bar0Reg (R.cxStat c)).reset (partOf s p).bar0 [] keptByReset (R.cxStat c) keep
  have same : (partOf s p).quiesced.reg (R.cxStat c) = (partOf s p).reg (R.cxStat c) := by
    rw [List.append_nil] at kept
    refine kept.trans ?_
    split
    · rfl
    next hn => exact (sget_absent _ _ _ fun e he ho => hn ⟨e, he, ho⟩).symm
  rw [cstate, reg, partOf_onPart, Partition.get, same, cstate, reg, Partition.get]

/-- Every context is FREE or ENDED after QUIESCE (R352). -/
theorem cstate_quiescePart (s : State) (p : Nat) {c : Nat} (hc : c < 64) :
    cstate (quiescePart s p) p c = stateAfterReset (cstate s p c) := by
  have units : SameSettings (contextsQuiet s p) (unitsQuiet (contextsQuiet s p) p) :=
    ⟨fun q o _ _ => by rw [partOf_unitsQuiet]⟩
  have record := cstate_quiesced (unitsQuiet (contextsQuiet s p) p) p hc
  have votes := sameSettings_abortVotes (onPart (unitsQuiet (contextsQuiet s p) p) p Partition.quiesced) fun v => v.part == p
  have ended := (cstate_of_sameSettings votes p hc).trans (record.trans (cstate_of_sameSettings units p hc))
  rw [quiescePart_eq]
  exact ended.trans (cstate_contextsQuiet s p hc)

theorem resetBegun_bar0 (x : Partition) (counted dying : Bool) : (resetBegun x counted dying).bar0 = x.bar0 := rfl

theorem cstate_beginPartReset_live {s : State} {p : Nat} (hl : (partOf s p).ptstate = 1) (hd : s.rel.dph = 0)
    (counted dying : Bool) {c : Nat} (hc : c < 64) :
    cstate (beginPartReset s p counted dying) p c = stateAfterReset (cstate s p c) := by
  have same : (partOf (beginPartReset s p counted dying) p).bar0 = (partOf (quiescePart s p) p).bar0 := by
    rw [partOf_beginPartReset_live hl hd, resetBegun_bar0]
  exact (cstate_of_bar0 same c).trans (cstate_quiescePart s p hc)

/-- Settles O50, by QUIESCE, which ends every context and keeps what the partition was given, and by the scrubbing of its
panels. -/
theorem partitionResetsRun : Obligations.PartitionResetsRun := by
  unfold Obligations.PartitionResetsRun
  intro s p hp
  have hwf : partOk p = true := by simp [partOk, hp]
  refine ⟨fun hl hf => ?_, fun c hc hst hl hd => ?_, fun hst hd hdy hrc => ?_, fun hst hg ho hn hd => ?_⟩
  · refine ⟨_, exec_next_of_eq rfl hwf (presetCmd_live hl hf), ?_⟩
    have hd := dph_of_firmwareUp hf
    have hpanels := panels_of_identity (identity_quiescePart (withPreset s p) p p)
    rw [rcmd_of_steady (steady_beginPartReset ..), partOf_beginPartReset_live (s := withPreset s p) hl hd]
    exact ⟨rfl, rfl, mem_rcmd_withPreset s p, (resetBegun_panels ..).trans (hpanels.trans (by rw [partOf_withPreset]))⟩
  · have acts : when_ (cstate s p c == Cs.teardown) s (beginPartReset s p true false) = beginPartReset s p true false :=
      when_of_true (by simp [hst])
    have hwf' : ctxOk p c = true := by simp [ctxOk, hp, hc]
    refine ⟨_, exec_next_of_eq rfl hwf' acts, ?_⟩
    rw [cstate_beginPartReset_live hl hd true false hc, hst, partOf_beginPartReset_live hl hd]
    exact ⟨rfl, rfl, rfl⟩
  · obtain ⟨hparts, hstores, hcores, hrcmd⟩ := partResetComplete_spec hst hd hdy hrc
    refine ⟨_, exec_next_of_eq rfl hwf rfl, ?_⟩
    obtain ⟨h1, h2, h3, h4, h5⟩ := partOf_afterReset s p
    have hpart : ∀ q, partOf (partResetComplete s p) q = partOf (afterReset s p) q := fun q => by
      simp only [partOf, hparts]
    rw [hpart, hstores]
    refine ⟨h1, h2, h3, h4, h5, hrcmd, fun b => mget_scrubStores .., fun q hq => ?_, hcores⟩
    rw [hpart, partOf_afterReset_ne s hq]
  · have acts : when_ ((partOf s p).ptstate == 5) s (beginDevReset s true) = beginDevReset s true := when_of_true (by simp [hst])
    exact ⟨_, exec_next_of_eq rfl hwf acts, devReset_dph ⟨hg, ho, hn, hd⟩ true⟩

/-! ### The start of a device reset (R353) -/

theorem steady_quietForReset (s : State) (p : Nat) : steady (quietForReset s p).rel = steady s.rel := by
  have kept : view allButSteady (quietForReset s p) = view allButSteady s := by
    unfold quietForReset
    refine view_ite (fun _ => rfl) fun _ => (onPart_view_part _ _ _ rfl rfl).trans (view_ite (fun _ => rfl) fun _ => ?_)
    simp only [quiescePart_view, implies_true]
  exact steady_of_view kept rfl

theorem steady_stoppedForReset (s : State) : steady (stoppedForReset s).rel = steady s.rel := by
  have quiet (t : State) : steady ((List.range 16).foldl quietForReset t).rel = steady t.rel :=
    List.foldlRecOn (motive := fun u : State => steady u.rel = steady t.rel) _ _ rfl fun u hu p _ =>
      (steady_quietForReset u p).trans hu
  have votes (t : State) : steady (abortVotes t fun _ => true).rel = steady t.rel :=
    steady_of_view (F := allButSteady) (by simp only [abortVotes_view, implies_true]) rfl
  rw [stoppedForReset, stopFlash_rel, portsDown_rel, votes, quiet, steady_resetEvent]

theorem resetting_oos (s : State) (counted : Bool) : (resetting s counted).rel.oos = s.rel.oos := rfl

/-- A device reset does not take the device out of service, nor into it (R356). -/
theorem oos_beginDevReset (s : State) (counted : Bool) : (beginDevReset s counted).rel.oos = s.rel.oos := by
  by_cases h : ResetPossible s
  · rw [beginDevReset_of_possible h]
    exact (resetting_oos ..).trans ((congrArg Rel.oos (zeroise_rel _)).trans (oos_of_steady (steady_stoppedForReset s)))
  · rw [beginDevReset_of_not_possible h]

/-- Pins and power stay. -/
@[reducible] def allButPower : Field → Bool
  | .pwr => false
  | _ => true

theorem pwr_beginDevReset (s : State) (counted : Bool) : (beginDevReset s counted).pwr = s.pwr :=
  pwr_of_view (F := allButPower) (by simp only [beginDevReset_view, implies_true]) rfl

/-- Without the identity key and without a key of a partition. -/
theorem zeroised_of_vaultEmpty {t : State} (h : VaultEmpty t) :
    t.sec.idKey = none ∧ ∀ p, p < 16 → (partOf t p).keyed = false ∧ (partOf t p).jkeys = [] := by
  obtain ⟨hid, -, -, hparts⟩ := h
  refine ⟨hid, fun p hp => ?_⟩
  obtain ⟨hk, -, -, hj⟩ := hparts p hp
  exact ⟨hk, hj⟩

/-- A state in which the history, `OOS` and the fences of R356 are cleared. -/
def returned (s : State) : State :=
  { s with rel := { s.rel with oos := false, oosr := 0, oosFences := 0, drcnt := 0, prcnt := 0 } }

/-- What RETURN resets from. -/
def returning (s : State) : State := if s.rel.oos then openEvent (returned s) 0 0 0 else returned s

theorem returnCmd_up {s : State} (h : firmwareUp s = true) : returnCmd s = beginDevReset (returning s) false := by
  rw [returnCmd, if_neg (by rw [h]; decide)]
  rfl

/-- An EVENT entry is a free value, a record and output. -/
@[reducible] def eventOnly : Field → Bool
  | .freeIx | .out | .rel => true
  | _ => false

theorem openEvent_eventOnly (s : State) (ut idx det : Nat) : view eventOnly (openEvent s ut idx det) = view eventOnly s :=
  openEvent_view _ _ _ _ rfl rfl rfl

theorem returning_eventOnly (s : State) : view eventOnly (returning s) = view eventOnly (returned s) := by
  unfold returning
  split
  · exact openEvent_eventOnly ..
  · rfl

/-! ### Booting after a device reset (R353) -/

/-- What the boot ROM and firmware touch when no partition exists. -/
@[reducible] def booting : Field → Bool
  | .freeIx | .out | .fabric | .rel | .steady | .sec | .fuses | .mregs | .pwr | .pattern => true
  | _ => false

/-- A boot that fails holds: `FAULT_N` is low, and the code tells why (R365). -/
theorem bootLoad_holds {s : State} (h : (bootLoad s).2 = false) :
    (bootLoad s).1.pwr.faultN = false ∧ ((bootLoad s).1.sec.bstat = 2 ∨ (bootLoad s).1.sec.bstat = 3) := by
  unfold bootLoad at h ⊢
  dsimp only at h ⊢
  split
  · exact ⟨rfl, .inr rfl⟩
  next hi =>
    rw [if_neg hi] at h
    split
    · exact ⟨rfl, .inl rfl⟩
    next k hk =>
      rw [hk] at h
      exact absurd h Bool.noConfusion

/-- Firmware as it starts, before its links train (R365). -/
def firmwareLoaded (s : State) (power : Bool) : State :=
  renewNonce (revokeLower { s with sec := { s.sec with idKey := identityNow s, bstat := 1, powerBoot := power } })

theorem bstat_firmwareLoaded (s : State) (power : Bool) : (firmwareLoaded s power).sec.bstat = 1 := by
  have revoked (t : State) : (revokeLower t).sec.bstat = t.sec.bstat := by
    unfold revokeLower
    split <;> rfl
  simp only [firmwareLoaded, renewNonce, spend]
  exact revoked _

/-- Links and registers of the management space. -/
@[reducible] def linksOnly : Field → Bool
  | .fabric | .mregs => true
  | _ => false

/-- Registers that a pattern sets, where there is one. -/
def patternApplied (s : State) : State :=
  match s.pattern with
  | some t => applyPattern s t
  | none => s

theorem startFirmware_eq (s : State) (power : Bool) : startFirmware s power =
    let u := trainPorts (patternApplied (firmwareLoaded s power))
    if u.sec.icopy || u.sec.pcopy then enterProbation u else u := rfl

/-- Firmware trains the links of what it loaded, and may enter probation (R366). -/
theorem startFirmware_cases (s : State) (power : Bool) : ∃ u, view linksOnly u = view linksOnly (firmwareLoaded s power) ∧
    (startFirmware s power = u ∨ startFirmware s power = enterProbation u) := by
  rw [startFirmware_eq]
  refine ⟨trainPorts (patternApplied (firmwareLoaded s power)), (trainPorts_view _ rfl rfl).trans ?_, ?_⟩
  · unfold patternApplied
    split
    · exact applyPattern_view _ _ rfl
    · rfl
  · dsimp only
    split
    · exact .inr rfl
    · exact .inl rfl

/-- In probation, before it is told (R366). -/
def inProbation (s : State) : State := { s with rel := { s.rel with prob := true } }

theorem enterProbation_eventOnly (s : State) : view eventOnly (enterProbation s) = view eventOnly (inProbation s) :=
  openEvent_eventOnly (inProbation s) 0 0 1

theorem enterProbation_sec (s : State) : (enterProbation s).sec = s.sec := by
  rw [sec_of_view (F := eventOnly) (enterProbation_eventOnly s) rfl, inProbation]

theorem enterProbation_dph (s : State) : (enterProbation s).rel.dph = s.rel.dph :=
  (dph_of_steady (steady_of_view (F := eventOnly) (enterProbation_eventOnly s) rfl)).trans rfl

theorem bstat_startFirmware (s : State) (power : Bool) : (startFirmware s power).sec.bstat = 1 := by
  obtain ⟨u, hu, h | h⟩ := startFirmware_cases s power
  · rw [h, sec_of_view hu rfl, bstat_firmwareLoaded]
  · rw [h, enterProbation_sec, sec_of_view hu rfl, bstat_firmwareLoaded]

theorem startFirmware_booting (s : State) (power : Bool) : view booting (startFirmware s power) = view booting s :=
  startFirmware_view _ _ rfl rfl rfl rfl rfl rfl rfl rfl

theorem firmwareLoaded_rel (s : State) (power : Bool) : (firmwareLoaded s power).rel = s.rel := by
  have revoked (t : State) : (revokeLower t).rel = t.rel := by
    unfold revokeLower
    split <;> rfl
  simp only [firmwareLoaded, renewNonce, spend]
  exact revoked _

theorem dph_startFirmware (s : State) (power : Bool) : (startFirmware s power).rel.dph = s.rel.dph := by
  obtain ⟨u, hu, h | h⟩ := startFirmware_cases s power
  · rw [h, rel_of_view hu rfl, firmwareLoaded_rel]
  · rw [h, enterProbation_dph, rel_of_view hu rfl, firmwareLoaded_rel]

/-- With no partition none is destroyed. -/
theorem foldl_destroyPart_none {s : State} (h : s.parts = []) (l : List Nat) : l.foldl destroyPart s = s := by
  have none (p : Nat) : destroyPart s p = s := by
    rw [destroyPart]
    exact if_pos (by rw [partOf, h]; rfl)
  induction l with
  | nil => rfl
  | cons p l ih => rw [List.foldl_cons, none, ih]

/-- What a device tells of going out of service: `OOS`, `OOSR` and an EVENT entry (R356). -/
def serviceEnded (s : State) (why : Nat) : State :=
  let s3 := putMreg (putMreg s M.rsOos 0 0 1) M.rsStat 55 48 why
  resetEvent { s3 with rel := { s3.rel with oos := true, oosr := why, oosFences := BitVec.allOnes 20 } } 0x17 0 why

theorem serviceEnded_spec (s : State) (why : Nat) : view booting (serviceEnded s why) = view booting s ∧
    (serviceEnded s why).sec = s.sec ∧ (serviceEnded s why).rel.dph = s.rel.dph := by
  have told := fun u : State => resetEvent_view (F := eventOnly) u 0x17 0 why rfl rfl
  refine ⟨?_, (sec_of_view (told _) rfl).trans rfl, (dph_of_steady (steady_of_view (told _) rfl)).trans rfl⟩
  simp only [serviceEnded, ↓resetEvent_view, ↓view_mk, ↓putMreg_view, true_or, or_true, and_self]

/-- A device without partitions goes out of service (R356): ports are fenced, and it is told. -/
theorem outOfService_none {s : State} (h : s.parts = []) (why : Nat) :
    view booting (outOfService s why) = view booting s ∧ (outOfService s why).sec = s.sec ∧
      (outOfService s why).rel.dph = s.rel.dph := by
  unfold outOfService
  dsimp only
  generalize hu : (if mreg s M.pmCmd 4 4 = 1 then pmEnd s _ else s) = u
  have ended : view linksOnly u = view linksOnly s := hu ▸ view_ite (fun _ => pmEnd_view _ _ rfl) fun _ => rfl
  have hp : u.parts = [] := (parts_of_view ended rfl).trans h
  rw [foldl_destroyPart_none (s := { u with rel := { u.rel with rcmd := [] } }) hp]
  have fenced := fencePorts_view (F := linksOnly) { u with rel := { u.rel with rcmd := [] } } (BitVec.allOnes 20) rfl rfl
  generalize fencePorts { u with rel := { u.rel with rcmd := [] } } (BitVec.allOnes 20) = v at fenced
  obtain ⟨hv, hs, hd⟩ := serviceEnded_spec v why
  refine ⟨hv.trans ?_, hs.trans ?_, hd.trans ?_⟩
  · have less : ∀ f, linksOnly f = true → booting f = true := fun f => by cases f <;> simp
    exact (view_mono less fenced).trans ((view_mk (.inr rfl) (.inr rfl) (.inr rfl) (.inr rfl) (.inr rfl) (.inr rfl) (.inr rfl)
      (.inr rfl) (.inr rfl) (.inr rfl) (.inl ⟨rfl, .inl rfl⟩) (.inr rfl) (.inr rfl) (.inr rfl) (.inr rfl) (.inr rfl)).trans
      (view_mono less ended))
  · rw [sec_of_view (F := linksOnly) fenced rfl, ← sec_of_view ended rfl]
  · rw [rel_of_view (F := linksOnly) fenced rfl, ← rel_of_view ended rfl]

/-- What a boot leaves while the presets are created (R353). -/
@[reducible] def presetting : Field → Bool
  | .freeIx | .out | .parts | .part _ | .vec _ => true
  | _ => false

theorem createPresets_presetting (s : State) : view presetting (createPresets s) = view presetting s :=
  createPresets_view _ rfl rfl rfl (fun _ => rfl) fun _ => rfl

/-- A device after a boot: no byte in a store and no core, the reset over, firmware running. -/
def Booted (s : State) : Prop := s.stores = [] ∧ s.cores = [] ∧ s.rel.dph = 0 ∧ s.sec.bstat = 1

theorem booted_createPresets {s : State} (h : Booted s) : Booted (createPresets s) := by
  have hv := createPresets_presetting s
  rw [Booted, stores_of_view hv rfl, cores_of_view hv rfl, rel_of_view hv rfl, sec_of_view hv rfl]
  exact h

theorem booted_outOfService {s : State} (hp : s.parts = []) (h : Booted s) (why : Nat) : Booted (outOfService s why) := by
  obtain ⟨hv, hs, hd⟩ := outOfService_none hp why
  rw [Booted, stores_of_view hv rfl, cores_of_view hv rfl, hd, hs]
  exact h

/-- The device once its reset is charged and counted, before presets (R355). -/
def resetCounted (s : State) : State :=
  let s1 := charge (showOos (startFirmware (bootLoad (deviceFresh s)).1 false)) 0x17 0 0
  resetEvent (if s.rel.dcount then { s1 with rel := { s1.rel with drcnt := satTo 16 (s1.rel.drcnt + 1) } } else s1)
    0x17 0 Status.ok

theorem deviceResetComplete_eq {s : State} (hd : s.rel.dph ≠ 0) (hr : s.pwr.resetN = true) (hf : s.pwr.faultN = true) :
    deviceResetComplete s =
      if !(bootLoad (deviceFresh s)).2 then
        { (bootLoad (deviceFresh s)).1 with rel := { (bootLoad (deviceFresh s)).1.rel with dph := 2 } }
      else if s.rel.dcount && decide (mreg (resetCounted s) M.rsLim 47 40 ≤ (resetCounted s).rel.drcnt) then
        outOfService (resetCounted s) 1
      else if (resetCounted s).rel.oos then resetCounted s else createPresets (resetCounted s) := by
  rw [deviceResetComplete, if_neg (by simp [hd, hr, hf])]
  rfl

/-- The boot ROM touches the security state, power and output (R365). -/
@[reducible] def bootRom : Field → Bool
  | .out | .sec | .pwr | .pattern => true
  | _ => false

/-- What the boot ROM leaves of a fresh device. -/
theorem bootLoad_fresh (s : State) : (bootLoad (deviceFresh s)).1.stores = [] ∧ (bootLoad (deviceFresh s)).1.cores = [] ∧
    (bootLoad (deviceFresh s)).1.parts = [] ∧ (bootLoad (deviceFresh s)).1.rel.dph = 0 := by
  have hv := bootLoad_view (F := bootRom) (deviceFresh s) rfl rfl rfl rfl
  rw [stores_of_view hv rfl, cores_of_view hv rfl, parts_of_view hv rfl, rel_of_view hv rfl]
  exact ⟨rfl, rfl, rfl, rfl⟩

/-- The counts of a device reset and its record. -/
theorem counted_booting (s : State) (c : Prop) [Decidable c] (n : Nat) :
    let t := resetEvent (if c then { s with rel := { s.rel with drcnt := n } } else s) 0x17 0 Status.ok
    view booting t = view booting s ∧ t.sec = s.sec ∧ t.rel.dph = s.rel.dph := by
  have told := fun u : State => resetEvent_view (F := eventOnly) u 0x17 0 Status.ok rfl rfl
  have less : ∀ f, eventOnly f = true → booting f = true := fun f => by cases f <;> simp
  dsimp only
  split
  · refine ⟨(view_mono less (told _)).trans (view_mk (.inr rfl) (.inr rfl) (.inr rfl) (.inr rfl) (.inr rfl) (.inr rfl)
      (.inr rfl) (.inr rfl) (.inr rfl) (.inr rfl) (.inl ⟨rfl, .inl rfl⟩) (.inr rfl) (.inr rfl) (.inr rfl) (.inr rfl)
      (.inr rfl)), ?_, ?_⟩
    · rw [sec_of_view (told _) rfl]
    · rw [dph_of_steady (steady_of_view (told _) rfl)]
  · exact ⟨view_mono less (told _), sec_of_view (told _) rfl, dph_of_steady (steady_of_view (told _) rfl)⟩

theorem booted_resetCounted (s : State) : Booted (resetCounted s) ∧ (resetCounted s).parts = [] := by
  obtain ⟨hs, hc, hp, hd⟩ := bootLoad_fresh s
  unfold resetCounted
  dsimp only
  generalize (bootLoad (deviceFresh s)).1 = b at hs hc hp hd ⊢
  have less : ∀ f, notesOnly f = true → booting f = true := fun f => by cases f <;> simp
  have charged := charge_device_view (showOos (startFirmware b false)) 0x17
  have oos := showOos_view (F := linksOnly) (startFirmware b false) rfl
  obtain ⟨hv, hsec, hdph⟩ := counted_booting (charge (showOos (startFirmware b false)) 0x17 0 0) (s.rel.dcount = true)
    (satTo 16 ((charge (showOos (startFirmware b false)) 0x17 0 0).rel.drcnt + 1))
  have same := hv.trans ((view_mono less charged).trans ((showOos_view _ rfl).trans (startFirmware_booting b false)))
  refine ⟨⟨(stores_of_view same rfl).trans hs, (cores_of_view same rfl).trans hc, ?_, ?_⟩, (parts_of_view same rfl).trans hp⟩
  · rw [hdph, dph_of_steady (steady_of_view charged rfl), rel_of_view oos rfl, dph_startFirmware, hd]
  · rw [hsec, sec_of_view charged rfl, sec_of_view oos rfl, bstat_startFirmware]

/-- Settles O51, by the start of a device reset, which empties the vault, and by the boot that ends it. -/
theorem deviceResetsRun : Obligations.DeviceResetsRun := by
  unfold Obligations.DeviceResetsRun
  intro s takes zeroised
  refine ⟨fun hf ho ht => ?_, fun hf ho => ?_, fun hf ht => ?_, fun ns hns ht => ?_, rfl, fun hd hr hf => ?_, fun hd hf => ?_,
    ⟨_, rfl, rfl, rfl⟩, ⟨_, rfl, rfl, rfl⟩⟩
  · have acts : devResetCmd s = beginDevReset s false := by
      rw [devResetCmd, if_neg (by rw [hf]; decide), if_neg (by rw [ho]; decide)]
    obtain ⟨h1, h2⟩ := devReset_dph ht false
    exact ⟨_, exec_next_of_eq rfl rfl acts, h1, h2, zeroised_of_vaultEmpty (vaultEmpty_beginDevReset ht false)⟩
  · have acts : devResetCmd s = putMreg s M.rsStat 63 56 Status.busy := by
      rw [devResetCmd, if_neg (by rw [hf]; decide), if_pos ho, rsEnd]
    exact exec_next_of_eq rfl rfl acts
  · have possible : ResetPossible (returning s) := by
      have hv := returning_eventOnly s
      rw [ResetPossible, pwr_of_view hv rfl, dph_of_steady (steady_of_view hv rfl)]
      exact ht
    have history := beginDevReset_resetHistory (returning s) false
    have cleared := steady_of_view (returning_eventOnly s) rfl
    refine ⟨_, exec_next_of_eq rfl rfl (returnCmd_up hf), (devReset_dph possible false).1, ?_, ?_, ?_,
      zeroised_of_vaultEmpty (vaultEmpty_beginDevReset possible false)⟩
    · rw [oos_beginDevReset, oos_of_steady cleared, returned]
    · exact (congrArg Prod.fst history).trans ((drcnt_of_steady cleared).trans rfl)
    · exact (congrArg Prod.snd history).trans ((prcnt_of_steady cleared).trans rfl)
  · have acts : resetNAssert s ns = beginDevReset (zeroise { s with pwr := { s.pwr with resetN := false } }) false := by
      obtain ⟨-, ho, -, -⟩ := ht
      rw [resetNAssert]
      dsimp only
      rw [if_neg (by rw [ho]; decide), if_pos hns]
    have possible : ResetPossible (zeroise { s with pwr := { s.pwr with resetN := false } }) := resetPossible_zeroise ht
    obtain ⟨h1, h2⟩ := devReset_dph possible false
    refine ⟨_, exec_next_of_eq rfl rfl acts, h1, h2, ?_, zeroised_of_vaultEmpty (vaultEmpty_beginDevReset possible false)⟩
    rw [pwr_beginDevReset]
    rfl
  · have acts := deviceResetComplete_eq hd hr hf
    cases hb : (bootLoad (deviceFresh s)).2
    · rw [hb] at acts
      obtain ⟨hs, hc, -, -⟩ := bootLoad_fresh s
      obtain ⟨hn, hst⟩ := bootLoad_holds hb
      exact ⟨_, exec_next_of_eq rfl rfl acts, hs, hc, .inr ⟨rfl, hn, hst⟩⟩
    · rw [hb] at acts
      obtain ⟨hbooted, hp⟩ := booted_resetCounted s
      refine ⟨_, exec_next_of_eq rfl rfl acts, ?_⟩
      have booted : Booted (if s.rel.dcount && decide (mreg (resetCounted s) M.rsLim 47 40 ≤ (resetCounted s).rel.drcnt)
          then outOfService (resetCounted s) 1
          else if (resetCounted s).rel.oos then resetCounted s else createPresets (resetCounted s)) := by
        split
        · exact booted_outOfService hp hbooted 1
        · split
          · exact hbooted
          · exact booted_createPresets hbooted
      obtain ⟨h1, h2, h3, h4⟩ := booted
      exact ⟨h1, h2, .inl ⟨h3, h4⟩⟩
  · have acts : when_ (s.rel.dph != 0 && s.pwr.faultN) s
        (emit { s with pwr := { s.pwr with faultN := false, fcause := 2 } } .ibi) =
        emit { s with pwr := { s.pwr with faultN := false, fcause := 2 } } .ibi := when_of_true (by simp [hd, hf])
    exact ⟨_, exec_next_of_eq rfl rfl acts, rfl, rfl, rfl, rfl, rfl⟩

/-! ### Booting and self-test (R357 to R362, R365, R370) -/

theorem onReset_bootLoad (s : State) : (bootLoad s).1.pwr.onReset = s.pwr.onReset := by
  unfold bootLoad
  dsimp only
  split
  · rfl
  · split <;> rfl

/-- Power and pins, and what is steady, stand while the device goes into service. -/
theorem pwr_inService (s : State) : (inService s).pwr = s.pwr := by
  have started : view allButPower (startFirmware s true) = view allButPower s :=
    startFirmware_view _ _ rfl rfl rfl rfl rfl rfl rfl rfl
  rw [inService, pwr_of_view (createPresets_presetting _) rfl, pwr_of_view started rfl]

theorem pwr_openEvent (s : State) (ut idx det : Nat) : (openEvent s ut idx det).pwr = s.pwr :=
  pwr_of_view (openEvent_eventOnly s ut idx det) rfl

theorem pwr_enterProbation (s : State) : (enterProbation s).pwr = s.pwr := by
  rw [pwr_of_view (enterProbation_eventOnly s) rfl, inProbation]

theorem pwr_writeBist (s : State) (fresh res why : Nat) (o : BistOutcome) : (writeBist s fresh res why o).pwr = s.pwr := rfl

/-- Tests that are NOT_RUN let the device go on in probation (R362). -/
theorem afterTests_notRun (s : State) (o : BistOutcome) : afterTests s 2 o =
    openEvent (enterProbation (inService { s with rel := { s.rel with bst := 0, bres := 2 } })) 0 0 2 := rfl

theorem onReset_powerOnBoot {s : State} (hg : s.pwr.pgood = true) (hr : s.pwr.resetN = true) (ho : s.pwr.onReset = true) :
    (powerOnBoot s).pwr.onReset = false := by
  rw [powerOnBoot, if_neg (by simp [hg, hr, ho])]
  dsimp only
  have loaded := onReset_bootLoad { s with pwr := { s.pwr with onReset := false }, sec := { s.sec with bstat := 0 } }
  generalize bootLoad { s with pwr := { s.pwr with onReset := false }, sec := { s.sec with bstat := 0 } } = b at loaded ⊢
  split
  · exact loaded
  · split
    · rw [pwr_inService]
      exact loaded
    · split
      · exact loaded
      · rw [afterTests_notRun, pwr_openEvent, pwr_enterProbation, pwr_inService]
        exact loaded

/-- An image that cannot be trusted holds the boot (R365). -/
theorem powerOnBoot_holds {s : State} (hg : s.pwr.pgood = true) (hr : s.pwr.resetN = true) (ho : s.pwr.onReset = true) :
    (Config.otpIntact = false → (powerOnBoot s).sec.bstat = 3 ∧ (powerOnBoot s).pwr.faultN = false ∧
      (powerOnBoot s).pwr.fcause = 1) ∧
    (Config.otpIntact = true → copyFound s true = none → (powerOnBoot s).sec.bstat = 2 ∧
      (powerOnBoot s).pwr.faultN = false ∧ (powerOnBoot s).pwr.fcause = 1) := by
  rw [powerOnBoot, if_neg (by simp [hg, hr, ho])]
  refine ⟨fun hotp => ?_, fun hotp hcopy => ?_⟩
  · simp only [bootLoad, hotp]
    exact ⟨rfl, rfl, rfl⟩
  · have none : copyFound (readSfdp { s with pwr := { s.pwr with onReset := false }, sec := { s.sec with bstat := 0 } }) true =
        none := hcopy
    simp only [bootLoad, hotp, none]
    exact ⟨rfl, rfl, rfl⟩

theorem firmwareUp_bst {s : State} (hb : s.rel.bst = 0) : (s.rel.bst == 2) = false := by rw [hb]; rfl

/-- A run that is DONE, as it is told (R359). -/
def runDone (s : State) (res : Nat) : State := openEvent { s with rel := { s.rel with bst := 2, bres := res } } 0 0 res

theorem runDone_eventOnly (s : State) (res : Nat) :
    view eventOnly (runDone s res) = view eventOnly { s with rel := { s.rel with bst := 2, bres := res } } :=
  openEvent_eventOnly ..

theorem runDone_bst (s : State) (res : Nat) : (runDone s res).rel.bst = 2 ∧ (runDone s res).rel.bres = res := by
  have h := steady_of_view (runDone_eventOnly s res) rfl
  exact ⟨(bst_of_steady h).trans rfl, (bres_of_steady h).trans rfl⟩

theorem runDone_stores (s : State) (res : Nat) : (runDone s res).stores = s.stores := by
  rw [stores_of_view (runDone_eventOnly s res) rfl]

theorem runDone_parts (s : State) (res : Nat) : (runDone s res).parts = s.parts := by
  rw [parts_of_view (runDone_eventOnly s res) rfl]

theorem runDone_sec (s : State) (res : Nat) : (runDone s res).sec = s.sec := by
  rw [sec_of_view (runDone_eventOnly s res) rfl]

theorem runDone_mregs (s : State) (res : Nat) : (runDone s res).mregs = s.mregs := by
  rw [mregs_of_view (runDone_eventOnly s res) rfl]

theorem writeBist_keeps (s : State) (fresh res why : Nat) (o : BistOutcome) :
    let t := writeBist s fresh res why o
    t.stores = s.stores ∧ t.parts = s.parts ∧ t.sec.idKey = s.sec.idKey ∧ t.mregs = s.mregs := ⟨rfl, rfl, rfl, rfl⟩

/-- A run is asked for, and the input voltage measured (R358). -/
def testAsked (s : State) : State := measureVin (putMreg s M.biStat 15 8 Status.ok)

theorem zeroise_mregs (s : State) : (zeroise s).mregs = s.mregs := by rw [zeroise]

theorem zeroise_stores (s : State) : (zeroise s).stores = s.stores := by rw [zeroise]

theorem zeroise_idKey (s : State) : (zeroise s).sec.idKey = none := by rw [zeroise_sec]

theorem testAsked_stat (s : State) : mreg (testAsked s) M.biStat 15 8 = Status.ok :=
  (mreg_of_mregs (s := putMreg s M.biStat 15 8 Status.ok) rfl ..).trans (mreg_putMreg _ _ _ _ _ (by decide) (by decide))

theorem bistRun_starts {s : State} (hf : firmwareUp s = true) (hb : s.rel.bst = 0)
    (hp : (s.parts.any fun e => e.2.ptstate != 0) = false) (hw : bistWhy (testAsked s) = 0) : bistRun s =
      { zeroise (testAsked s) with rel := { (zeroise (testAsked s)).rel with bst := 1 } } := by
  rw [bistRun, if_neg (by rw [hf, firmwareUp_bst hb]; decide), if_neg (by rw [hp, hb]; decide)]
  exact if_pos hw

theorem bistRun_notRun {s : State} (hf : firmwareUp s = true) (hb : s.rel.bst = 0)
    (hp : (s.parts.any fun e => e.2.ptstate != 0) = false) (hw : bistWhy (testAsked s) ≠ 0) : bistRun s =
      runDone (writeBist (testAsked s) 0xFF 2 (bistWhy (testAsked s)) noOutcome) 2 := by
  rw [bistRun, if_neg (by rw [hf, firmwareUp_bst hb]; decide), if_neg (by rw [hp, hb]; decide)]
  exact if_neg hw

theorem bistComplete_commanded {s : State} (o : BistOutcome) (hb : s.rel.bst = 1) (hs : s.sec.bstat ≠ 0) : bistComplete s o =
    runDone (writeBist { s with sec := { s.sec with idKey := identityNow s } } 0xFF (bistResult s o) 0 o) (bistResult s o) := by
  rw [bistComplete, if_neg (by rw [hb]; decide)]
  exact if_neg hs

theorem bistLost_commanded {s : State} (why : BitVec 2) (hb : s.rel.bst = 1) (hs : s.sec.bstat ≠ 0) :
    bistLost s why = runDone (writeBist s 0xFF 2 (why.toNat + 4) noOutcome) 2 := by
  rw [bistLost, if_neg (by rw [hb]; decide)]
  exact if_neg hs

/-- A run cannot start without a good reference clock (R358). -/
theorem bistWhy_refok {s : State} (h : s.pwr.refok = false) : bistWhy s ≠ 0 := by
  simp only [bistWhy, h, Bool.not_false, b2n, if_true]
  omega

theorem counterBump_powerBoot {s : State} (hf : firmwareUp s = true) (hp : s.sec.powerBoot = true) :
    (counterBump s).sec.powerBoot = false ∧
      (counterBump s).sec.isvc = (if s.sec.ibump then max s.sec.isvc s.sec.isvn else s.sec.isvc) ∧
      (s.sec.ibump = false → (counterBump s).sec.revokedImg = s.sec.revokedImg) ∧
      counterBump s = { s with sec := (counterBump s).sec } := by
  rw [counterBump, if_neg (by rw [hf, hp]; decide)]
  exact ⟨rfl, rfl, fun hb => if_neg (by rw [hb]; decide), rfl⟩

/-- Settles O53, by the branches of each boot step: what a boot that holds tells, and what a run leaves. -/
theorem bootAndSelfTest : Obligations.BootAndSelfTest := by
  unfold Obligations.BootAndSelfTest
  intro s
  refine ⟨fun hg hr ho => ⟨_, exec_next_of_eq rfl rfl rfl, onReset_powerOnBoot hg hr ho, powerOnBoot_holds hg hr ho⟩,
    fun hf hb hp => ?_, fun hf hb hp => ?_, fun o hb hs => ?_, fun w hb hs => ?_,
    fun hf hp => ⟨_, exec_next_of_eq rfl rfl rfl, counterBump_powerBoot hf hp⟩⟩
  · have acts : bistRun s = putMreg s M.biStat 15 8 Status.busy := by
      rw [bistRun, if_neg (by rw [hf, firmwareUp_bst hb]; decide), if_pos (by rw [hp]; rfl)]
    exact exec_next_of_eq rfl rfl acts
  · by_cases hw : bistWhy (testAsked s) = 0
    · refine ⟨_, exec_next_of_eq rfl rfl (bistRun_starts hf hb hp hw), ?_, .inl ⟨rfl, ?_⟩,
        fun hr => absurd hw (bistWhy_refok hr), ?_⟩
      · exact (mreg_of_mregs (zeroise_mregs (testAsked s)) ..).trans (testAsked_stat s)
      · exact zeroise_idKey (testAsked s)
      · exact (zeroise_stores (testAsked s)).trans rfl
    · refine ⟨_, exec_next_of_eq rfl rfl (bistRun_notRun hf hb hp hw), ?_⟩
      obtain ⟨hst, -, -, hmr⟩ := writeBist_keeps (testAsked s) 0xFF 2 (bistWhy (testAsked s)) noOutcome
      obtain ⟨h1, h2⟩ := runDone_bst (writeBist (testAsked s) 0xFF 2 (bistWhy (testAsked s)) noOutcome) 2
      rw [runDone_stores, mreg_of_mregs ((runDone_mregs _ 2).trans hmr)]
      exact ⟨testAsked_stat s, .inr ⟨h1, h2⟩, fun _ => h1, hst⟩
  · refine ⟨_, exec_next_of_eq rfl rfl (bistComplete_commanded o hb hs), ?_⟩
    obtain ⟨hst, hpa, hid, -⟩ := writeBist_keeps { s with sec := { s.sec with idKey := identityNow s } } 0xFF (bistResult s o) 0 o
    obtain ⟨h1, h2⟩ := runDone_bst (writeBist { s with sec := { s.sec with idKey := identityNow s } } 0xFF (bistResult s o) 0 o)
      (bistResult s o)
    rw [runDone_stores, runDone_parts, runDone_sec]
    exact ⟨h1, h2, hid, hst, hpa⟩
  · refine ⟨_, exec_next_of_eq rfl rfl (bistLost_commanded w hb hs), ?_⟩
    obtain ⟨hst, hpa, -, -⟩ := writeBist_keeps s 0xFF 2 (w.toNat + 4) noOutcome
    obtain ⟨h1, h2⟩ := runDone_bst (writeBist s 0xFF 2 (w.toNat + 4) noOutcome) 2
    rw [runDone_stores, runDone_parts]
    exact ⟨h1, h2, hst, hpa⟩

/-! ### Fences, probation and health (R333, R344 to R346) -/

/-- Which units are fenced is steady. -/
theorem isFenced_of_steady {s t : State} (h : steady t.rel = steady s.rel) (u i : Nat) : isFenced t u i = isFenced s u i := by
  simp only [steady, Prod.mk.injEq, and_assoc] at h
  obtain ⟨hcores, hpanels, hnyz, hsvc, hhost, hoos, hlift, -⟩ := h
  simp only [isFenced, hcores, hpanels, hnyz, hsvc, hhost, hoos, hlift]

/-- The bit of a unit of Table 14-8 is set, and nothing else done. -/
def fenceMarked (s : State) (ut idx : Nat) : State :=
  { s with rel := match ut with
    | 1 => { s.rel with fencedCores := s.rel.fencedCores ++ [idx] }
    | 3 => { s.rel with fencedPanels := setFld s.rel.fencedPanels idx idx 1, lifting := setFld s.rel.lifting idx idx 0 }
    | 7 => { s.rel with fencedNyz := setFld s.rel.fencedNyz idx idx 1 }
    | 8 => { s.rel with fencedSvc := setFld s.rel.fencedSvc idx idx 1 }
    | 9 => { s.rel with fencedHost := setFld s.rel.fencedHost idx idx 1 }
    | _ => s.rel }

/-- The bit of a unit of Table 14-8 is cleared (a panel's fence begins to be lifted), and nothing else done. -/
def fenceCleared (s : State) (ut idx : Nat) : State :=
  { s with rel := match ut with
    | 1 => { s.rel with fencedCores := s.rel.fencedCores.filter fun g => g != idx }
    | 3 => { s.rel with lifting := setFld s.rel.lifting idx idx 1 }
    | 7 => { s.rel with fencedNyz := setFld s.rel.fencedNyz idx idx 0, oosFences := setFld s.rel.oosFences idx idx 0 }
    | 8 => { s.rel with
        fencedSvc := setFld s.rel.fencedSvc idx idx 0, oosFences := setFld s.rel.oosFences (18 + idx) (18 + idx) 0 }
    | 9 => { s.rel with fencedHost := setFld s.rel.fencedHost idx idx 0 }
    | _ => s.rel }

theorem bit_setFld_self {n : Nat} (w : BitVec n) (i v : Nat) (hi : i < n) : bit (setFld w i i v) i = v.testBit 0 := by
  rw [bit, setFld_getLsbD _ _ _ _ _ (Nat.le_refl i), if_pos ⟨Nat.le_refl i, Nat.le_refl i⟩, Nat.sub_self]
  simp [hi]

theorem bit_setFld_other {n : Nat} (w : BitVec n) {i j : Nat} (v : Nat) (hij : i ≠ j) : bit (setFld w j j v) i = bit w i :=
  bit_setFld_ne w j j v i (Nat.le_refl j) (by omega)

theorem bit_set {n : Nat} (w : BitVec n) {i : Nat} (hi : i < n) : bit (setFld w i i 1) i = true := bit_setFld_self w i 1 hi

theorem bit_clear {n : Nat} (w : BitVec n) {i : Nat} (hi : i < n) : bit (setFld w i i 0) i = false := bit_setFld_self w i 0 hi

/-- The units of Table 14-8. -/
theorem fenceable_cases {ut idx : Nat} (h : fenceable ut idx = true) :
    ut = 1 ∧ idx < 10240 ∨ ut = 3 ∧ idx < 16 ∨ ut = 7 ∧ idx < 18 ∨ ut = 8 ∧ idx < 2 ∨ ut = 9 ∧ idx < 2 := by
  unfold fenceable at h
  split at h
  all_goals simp_all

theorem isFenced_fenceMarked {s : State} {ut idx : Nat} (h : fenceable ut idx = true) :
    isFenced (fenceMarked s ut idx) ut idx = true := by
  obtain ⟨rfl, hi⟩ | ⟨rfl, hi⟩ | ⟨rfl, hi⟩ | ⟨rfl, hi⟩ | ⟨rfl, hi⟩ := fenceable_cases h
  · simp [isFenced, fenceMarked]
  · simp [isFenced, fenceMarked, bit_set _ hi, bit_clear _ hi]
  · simp [isFenced, fenceMarked, bit_set _ hi]
  · simp [isFenced, fenceMarked, bit_set _ hi]
  · simp [isFenced, fenceMarked, bit_set _ hi]

theorem isFenced_fenceCleared {s : State} {ut idx : Nat} (h : fenceable ut idx = true) :
    isFenced (fenceCleared s ut idx) ut idx = false := by
  obtain ⟨rfl, hi⟩ | ⟨rfl, hi⟩ | ⟨rfl, hi⟩ | ⟨rfl, hi⟩ | ⟨rfl, hi⟩ := fenceable_cases h
  · simp [isFenced, fenceCleared]
  · simp [isFenced, fenceCleared, bit_set _ hi]
  · simp [isFenced, fenceCleared, bit_clear _ hi, bit_clear _ (Nat.lt_of_lt_of_le hi (by decide : 18 ≤ 20))]
  · simp [isFenced, fenceCleared, bit_clear _ hi, bit_clear _ (show 18 + idx < 20 by omega)]
  · simp [isFenced, fenceCleared, bit_clear _ hi]

/-- Marking a unit leaves every other. -/
theorem isFenced_fenceMarked_ne {s : State} {ut idx u i : Nat} (hu : fenceable u i = true) (hne : (u, i) ≠ (ut, idx)) :
    isFenced (fenceMarked s ut idx) u i = isFenced s u i := by
  by_cases hut : u = ut
  · have hi : i ≠ idx := fun e => hne (by rw [hut, e])
    subst hut
    obtain ⟨rfl, -⟩ | ⟨rfl, -⟩ | ⟨rfl, -⟩ | ⟨rfl, -⟩ | ⟨rfl, -⟩ := fenceable_cases hu
    · simp [isFenced, fenceMarked, hi]
    all_goals simp only [isFenced, fenceMarked, bit_setFld_other _ _ hi]
  · unfold fenceMarked
    obtain ⟨rfl, -⟩ | ⟨rfl, -⟩ | ⟨rfl, -⟩ | ⟨rfl, -⟩ | ⟨rfl, -⟩ := fenceable_cases hu
    all_goals split <;> simp_all [isFenced]

/-- Clearing a unit leaves every other. -/
theorem isFenced_fenceCleared_ne {s : State} {ut idx u i : Nat} (h : fenceable ut idx = true) (hu : fenceable u i = true)
    (hne : (u, i) ≠ (ut, idx)) : isFenced (fenceCleared s ut idx) u i = isFenced s u i := by
  obtain ⟨rfl, hidx⟩ | ⟨rfl, hidx⟩ | ⟨rfl, hidx⟩ | ⟨rfl, hidx⟩ | ⟨rfl, hidx⟩ := fenceable_cases h
  all_goals
    obtain ⟨rfl, hi⟩ | ⟨rfl, hi⟩ | ⟨rfl, hi⟩ | ⟨rfl, hi⟩ | ⟨rfl, hi⟩ := fenceable_cases hu
  all_goals simp only [ne_eq, Prod.mk.injEq, true_and, isFenced, fenceCleared] at hne ⊢
  · simp [List.mem_filter, hne]
  · rw [bit_setFld_other _ _ hne]
  · rw [bit_setFld_other _ _ hne, bit_setFld_other _ _ hne]
  · rw [bit_setFld_other _ _ (by omega)]
  · rw [bit_setFld_other _ _ (by omega)]
  · rw [bit_setFld_other _ _ hne, bit_setFld_other _ _ (by omega)]
  · rw [bit_setFld_other _ _ hne]

theorem steady_coreFault (s : State) (g cause pc ftag st : Nat) :
    steady (coreFault s g cause pc ftag st).rel = steady s.rel := by
  refine steady_of_view (F := allButSteady) ?_ rfl
  simp only [coreFault_view, implies_true]

/-- The starts and kernels on some clusters are over. -/
theorem steady_startsStopped (s : State) (hit : Nat → Bool) :
    steady (dropKernels (stopStarts s hit) hit).rel = steady s.rel := by
  refine steady_of_view (F := allButSteady) ?_ rfl
  simp only [dropKernels_view, stopStarts_view, implies_true]

theorem steady_hostDown (s : State) (x : Nat) : steady (hostDown s x).rel = steady s.rel := by
  refine steady_of_view (F := allButSteady) ?_ rfl
  simp only [hostDown_view, implies_true]

/-- A mark depends on what is steady. -/
theorem steady_fenceMarked {s t : State} (h : steady t.rel = steady s.rel) (ut idx : Nat) :
    steady (fenceMarked t ut idx).rel = steady (fenceMarked s ut idx).rel := by
  simp only [steady, Prod.mk.injEq, and_assoc] at h
  unfold fenceMarked
  dsimp only
  split
  all_goals simp only [steady, h]

theorem fencePanel_eq (s : State) (q : Nat) : fencePanel s q =
    let hit := fun h => panelOfCluster h == q
    let t := fenceMarked (dropKernels (stopStarts s hit) hit) 3 q
    match unitPart t 3 q with
    | none => t
    | some p => (List.range 64).foldl (fun u c =>
      match holdsNow u p c, (ctxCores (partOf u p) c).head? with
      | true, some g => coreFault u g Exc.fenced (coreOf u g).pc 0 0
      | _, _ => u) t := rfl

theorem steady_fencePanel (s : State) (q : Nat) : steady (fencePanel s q).rel = steady (fenceMarked s 3 q).rel := by
  refine Eq.trans ?_ (steady_fenceMarked (steady_startsStopped s fun h => panelOfCluster h == q) 3 q)
  rw [fencePanel_eq]
  dsimp only
  generalize fenceMarked (dropKernels (stopStarts s fun h => panelOfCluster h == q) fun h => panelOfCluster h == q) 3 q = t
  split
  · rfl
  · refine List.foldlRecOn (motive := fun u : State => steady u.rel = steady t.rel) _ _ rfl fun u hu c _ => ?_
    split
    · exact (steady_coreFault ..).trans hu
    · exact hu

/-- Fencing a unit keeps what is steady but its mark. -/
theorem steady_fenceUnit (s : State) (ut idx : Nat) : steady (fenceUnit s ut idx).rel = steady (fenceMarked s ut idx).rel := by
  unfold fenceUnit
  split
  · exact (steady_coreFault ..).trans (steady_fenceMarked (steady_startsStopped s fun h => h == idx / 16) 1 idx)
  · exact steady_fencePanel s idx
  · exact steady_of_view (F := allButSteady) (fencePort_view _ _ rfl) rfl
  · rfl
  · exact (steady_of_view (F := allButSteady) (putMreg_view _ _ _ _ _ rfl) rfl).trans ((steady_hostDown _ _).trans rfl)
  · simp only [fenceMarked]

theorem steady_unfenceUnit (s : State) (ut idx : Nat) :
    steady (unfenceUnit s ut idx).rel = steady (fenceCleared s ut idx).rel := by
  unfold unfenceUnit fenceCleared
  dsimp only
  split
  · rfl
  · rfl
  · rfl
  · rfl
  · rfl
  · simp only

theorem fnEnd_noMregs (s : State) (status : Nat) : view linksOnly (fnEnd s status) = view linksOnly s := fnEnd_view _ _ rfl

/-- A fence command that changes something ends OK, with the fences as `u` has them. -/
theorem fenceCmd_ended {s u : State} {ut idx det : Nat} (hu : steady (openEvent u ut idx det).rel = steady s.rel) :
    mreg (fnEnd (openEvent u ut idx det) Status.ok) M.fnStat 15 8 = Status.ok ∧
      ∀ v i, isFenced (fnEnd (openEvent u ut idx det) Status.ok) v i = isFenced s v i :=
  ⟨(mreg_putMreg _ M.fnStat 15 8 Status.ok (by decide) (by decide)).trans (by decide), fun v i => isFenced_of_steady ((steady_of_view (fnEnd_noMregs _ _) rfl).trans hu) v i⟩

theorem steady_openEvent (s : State) (ut idx det : Nat) : steady (openEvent s ut idx det).rel = steady s.rel :=
  steady_of_view (openEvent_eventOnly s ut idx det) rfl

/-- FENCE and UNFENCE of a unit of Table 14-8: where nothing changes, OK. -/
theorem fenceCmd_idle {s : State} {on : Bool} {ut idx : Nat} (hs : serving s = true) (h : fenceable ut idx = true)
    (hf : isFenced s ut idx = on) : fenceCmd s on ut idx = fnEnd s Status.ok := by
  rw [fenceCmd, if_neg (by simp [hs]), if_neg (by simp [h]), if_pos (by simp [hf])]

theorem fenceCmd_acts {s : State} {on : Bool} {ut idx : Nat} (hs : serving s = true) (h : fenceable ut idx = true)
    (hf : isFenced s ut idx = !on) : fenceCmd s on ut idx =
      fnEnd (openEvent (if on then fenceUnit s ut idx else unfenceUnit s ut idx) ut idx (b2n on)) Status.ok := by
  rw [fenceCmd, if_neg (by simp [hs]), if_neg (by simp [h]), if_neg (by simp [hf])]

theorem fenceCmd_notRun {s : State} {on : Bool} {ut idx : Nat} (hs : serving s = true) (h : fenceable ut idx = false) :
    fenceCmd s on ut idx = putMreg s M.fnStat 15 8 Status.notRun := by
  rw [fenceCmd, if_neg (by simp [hs]), if_pos (by simp [h]), fnEnd]

theorem fnEnd_idle (s : State) : mreg (fnEnd s Status.ok) M.fnStat 15 8 = Status.ok ∧
    ∀ v i, isFenced (fnEnd s Status.ok) v i = isFenced s v i :=
  ⟨(mreg_putMreg _ M.fnStat 15 8 Status.ok (by decide) (by decide)).trans (by decide), fun v i => isFenced_of_steady rfl v i⟩

theorem fence_fences {s : State} {ut idx : Nat} (hs : serving s = true) (h : fenceable ut idx = true) :
    isFenced (fenceCmd s true ut idx) ut idx = true ∧ mreg (fenceCmd s true ut idx) M.fnStat 15 8 = Status.ok ∧
      ∀ u i, (u, i) ≠ (ut, idx) → fenceable u i = true →
        isFenced (fenceCmd s true ut idx) u i = isFenced s u i := by
  cases hf : isFenced s ut idx
  · rw [fenceCmd_acts (on := true) hs h hf, if_pos rfl]
    obtain ⟨hst, hfen⟩ := fenceCmd_ended ((steady_openEvent (fenceUnit s ut idx) ut idx (b2n true)).trans (steady_fenceUnit s ut idx))
    exact ⟨(hfen _ _).trans (isFenced_fenceMarked h), hst, fun u i hne hu =>
      (hfen _ _).trans (isFenced_fenceMarked_ne hu hne)⟩
  · rw [fenceCmd_idle hs h hf]
    obtain ⟨hst, hfen⟩ := fnEnd_idle s
    exact ⟨(hfen _ _).trans hf, hst, fun u i _ _ => hfen u i⟩

/-- What UNFENCE may change. -/
@[reducible] def unfencing : Field → Bool
  | .freeIx | .out | .fabric | .rel | .steady | .mregs => true
  | _ => false

theorem unfence_unfences {s : State} {ut idx : Nat} (hs : serving s = true) (h : fenceable ut idx = true) :
    isFenced (fenceCmd s false ut idx) ut idx = false ∧ mreg (fenceCmd s false ut idx) M.fnStat 15 8 = Status.ok ∧
      view unfencing (fenceCmd s false ut idx) = view unfencing s ∧
      ∀ u i, (u, i) ≠ (ut, idx) → fenceable u i = true →
        isFenced (fenceCmd s false ut idx) u i = isFenced s u i := by
  cases hf : isFenced s ut idx
  · rw [fenceCmd_idle hs h hf]
    obtain ⟨hst, hfen⟩ := fnEnd_idle s
    exact ⟨(hfen _ _).trans hf, hst, fnEnd_view _ _ rfl, fun u i _ _ => hfen u i⟩
  · rw [fenceCmd_acts (on := false) hs h hf, if_neg Bool.false_ne_true]
    obtain ⟨hst, hfen⟩ := fenceCmd_ended
      ((steady_openEvent (unfenceUnit s ut idx) ut idx (b2n false)).trans (steady_unfenceUnit s ut idx))
    refine ⟨(hfen _ _).trans (isFenced_fenceCleared h), hst, ?_, fun u i hne hu =>
      (hfen _ _).trans (isFenced_fenceCleared_ne h hu hne)⟩
    exact (fnEnd_view _ _ rfl).trans ((openEvent_view _ _ _ _ rfl rfl rfl).trans (unfenceUnit_view _ _ _ rfl rfl rfl rfl))

/-- PANEL_RELEASE of a panel whose fence is being lifted, before its tiles are POISON. -/
def panelScrubbed (s : State) (q : Nat) : State :=
  scrubStores { s with rel := { s.rel with
    fencedPanels := setFld s.rel.fencedPanels q q 0, lifting := setFld s.rel.lifting q q 0 } } (setFld 0 q q 1)

theorem mget_panelScrubbed (s : State) {q : Nat} (hq : q < 16) (b : Nat) :
    mget (panelScrubbed s q).stores b = if panelOfCluster (storeCluster b) = q then 0 else mget s.stores b := by
  rw [panelScrubbed, mget_scrubStores]
  by_cases h : panelOfCluster (storeCluster b) = q
  · rw [if_pos h, if_pos]
    have h1 := bit_set (0 : BitVec 16) hq
    have h2 := bit_clear s.rel.fencedPanels hq
    rw [h]
    unfold bit at h1 h2 ⊢
    rw [BitVec.getLsbD_and, BitVec.getLsbD_not, h1, h2, decide_eq_true hq]
    rfl
  · rw [if_neg h, if_neg]
    have h1 := bit_setFld_other (0 : BitVec 16) 1 h
    unfold bit at h1 ⊢
    rw [BitVec.getLsbD_and, h1]
    simp

/-- A tile that is lost is of a partition's memory. -/
@[reducible] def tileLost : Field → Bool
  | .freeIx | .parts | .mem _ | .hbm _ => true
  | _ => false

theorem panelRelease_tileLost {s : State} {q : Nat} (h : bit s.rel.lifting q = true) :
    view tileLost (panelRelease s q) = view tileLost (panelScrubbed s q) := by
  rw [panelRelease, if_neg (by simp [h])]
  dsimp only
  rw [← panelScrubbed]
  split
  · rfl
  · refine view_foldl _ _ fun t i => ?_
    simp only [poisonedTile_view]

theorem setProbation_spec {s : State} (hs : serving s = true) (on : Bool) : (setProbation s on).rel.prob = on ∧
    (setProbation s on).parts = s.parts ∧ (setProbation s on).stores = s.stores := by
  rw [setProbation]
  by_cases h : s.rel.prob = on
  · rw [if_pos (by simp [h])]
    exact ⟨h, rfl, rfl⟩
  · rw [if_neg (by simp [h, hs])]
    have hv := openEvent_eventOnly { s with rel := { s.rel with prob := on } } 0 0 (b2n on)
    exact ⟨(congrArg (·.1.2.2.2.2.2.2.2) (steady_of_view hv rfl)).trans rfl, (parts_of_view hv rfl).trans rfl,
      (stores_of_view hv rfl).trans rfl⟩

/-- A health record changes no counter and none that is due for a record. -/
theorem counts_healthRecord (kind fuel : Nat) (s : State) (es : List (List Byte)) :
    (healthRecord kind fuel s es).rel.changed = s.rel.changed ∧ (healthRecord kind fuel s es).rel.counts = s.rel.counts := by
  induction fuel generalizing s es with
  | zero => exact ⟨rfl, rfl⟩
  | succ fuel ih =>
    unfold healthRecord
    split
    · exact ⟨rfl, rfl⟩
    · dsimp only
      split
      · exact ⟨rfl, rfl⟩
      · exact ih _ _

/-- A health record of a state in which no counter is due leaves none due. -/
theorem healthRecord_afterwards (kind fuel n : Nat) (s : State) (es : List (List Byte)) :
    let t := healthRecord kind fuel (spend { s with rel := { s.rel with changed := [] } } n) es
    t.rel.changed = [] ∧ t.rel.counts = s.rel.counts ∧ t.parts = s.parts ∧ t.stores = s.stores := by
  dsimp only
  have hv := healthRecord_view (F := notesOnly) kind fuel (spend { s with rel := { s.rel with changed := [] } } n) es rfl rfl
  obtain ⟨hchanged, hcounts⟩ := counts_healthRecord kind fuel (spend { s with rel := { s.rel with changed := [] } } n) es
  exact ⟨hchanged, hcounts, (parts_of_view hv rfl).trans rfl, (stores_of_view hv rfl).trans rfl⟩

theorem cnt_roll (m : Sparse UnitCount) (k : Nat) :
    (sget UnitCount.zero (m.map fun e => (e.1, e.2.roll)) k).cnt = (sget UnitCount.zero m k).cnt := by
  induction m with
  | nil => rfl
  | cons e m ih =>
    simp only [sget, List.map_cons] at ih ⊢
    split
    · rfl
    · exact ih

/-- Settles O52, by the bit that each fence is, and by what the commands leave of the rest of the device. -/
theorem fencesProbationAndHealth : Obligations.FencesProbationAndHealth := by
  unfold Obligations.FencesProbationAndHealth
  intro s
  refine ⟨fun ut idx hut hidx hs => ⟨fun h => ⟨?_, ?_⟩, fun h => ⟨?_, ?_⟩⟩, fun q hq hl => ?_, fun hs => ⟨?_, ?_⟩,
    fun hf => ?_, ?_⟩
  · exact ⟨_, exec_next_of_eq rfl (by simp [Instr.wf, fenceUnitOk, hut, hidx]) rfl, fence_fences hs h⟩
  · obtain ⟨hu, hst, hv, hne⟩ := unfence_unfences hs h
    exact ⟨_, exec_next_of_eq rfl (by simp [Instr.wf, fenceUnitOk, hut, hidx]) rfl, hu, hst, cores_of_view hv rfl,
      parts_of_view hv rfl, stores_of_view hv rfl, hne⟩
  · exact exec_next_of_eq rfl (by simp [Instr.wf, fenceUnitOk, hut, hidx]) (fenceCmd_notRun hs h)
  · exact exec_next_of_eq rfl (by simp [Instr.wf, fenceUnitOk, hut, hidx]) (fenceCmd_notRun hs h)
  · have hv := panelRelease_tileLost hl
    refine ⟨_, exec_next_of_eq rfl (by simp [Instr.wf, hq]) rfl, ?_, ?_, fun b => ?_, ?_, ?_⟩
    · rw [rel_of_view hv rfl]
      exact bit_clear _ hq
    · rw [rel_of_view hv rfl]
      exact bit_clear _ hq
    · rw [stores_of_view hv rfl, mget_panelScrubbed s hq]
    · exact (cores_of_view hv rfl).trans rfl
    · exact (out_of_view hv rfl).trans rfl
  · exact ⟨_, exec_next_of_eq rfl rfl rfl, setProbation_spec hs true⟩
  · exact ⟨_, exec_next_of_eq rfl rfl rfl, setProbation_spec hs false⟩
  · refine ⟨_, exec_next_of_eq rfl rfl rfl, ?_⟩
    rw [periodic, if_neg (by simp [hf])]
    exact healthRecord_afterwards _ _ _ _ _
  · exact ⟨_, exec_next_of_eq rfl rfl rfl, rfl, cnt_roll s.rel.counts, rfl⟩

end Sys2Proof.Proofs
end

section
/-! Proofs about grant slots, layout slots, power states, host links and logical devices. -/

namespace Sys2Proof.Proofs

open Sys2Proof.Machine Sys2Proof.Safety Sys2Proof.Laws

/-- What a view shows of a partition is as it was. -/
theorem part_of_view {F : Field → Bool} {s t : State} {α : Type} (π : Partition → α) (h : view F t = view F s) {q : Nat}
    (hπ : ∀ x, π (viewPart F q x) = π x) : π (partOf t q) = π (partOf s q) :=
  (hπ _).symm.trans ((congrArg π (viewPart_of_view h q)).trans (hπ _))

/-! ### Grant slots (R186) -/

/-- Slots of partition `p` other than `g` stand, of other partitions at most vectors differ, stores and cores stand. -/
structure OnlyGrant (p g : Nat) (s t : State) : Prop where
  slots : ∀ h, h < 256 → h ≠ g → gstate (partOf t p) h = gstate (partOf s p) h ∧ gEoff (partOf t p) h = gEoff (partOf s p) h
  apart : elsewhere s t p
  stores : t.stores = s.stores
  cores : t.cores = s.cores
  clusters : t.clusters = s.clusters

theorem OnlyGrant.trans {p g : Nat} {s t u : State} (h : OnlyGrant p g s t) (h' : OnlyGrant p g t u) : OnlyGrant p g s u :=
  ⟨fun i hi hn => ⟨(h'.slots i hi hn).1.trans (h.slots i hi hn).1, (h'.slots i hi hn).2.trans (h.slots i hi hn).2⟩,
    elsewhere_trans h.apart h'.apart, h'.stores.trans h.stores, h'.cores.trans h.cores, h'.clusters.trans h.clusters⟩

/-- A change of the partition that keeps its registers. -/
theorem onlyGrant_onPart (s : State) (p g : Nat) (f : Partition → Partition) (hf : ∀ x, (f x).bar0 = x.bar0) :
    OnlyGrant p g s (onPart s p f) where
  slots h _ _ := by
    simp only [gstate, gEoff, Partition.get, Partition.reg, partOf_onPart, hf, and_self]
  apart q hq := by rw [partOf_onPart_ne _ _ _ _ hq]
  stores := rfl
  cores := rfl
  clusters := rfl

/-- A change of the slot's own control register. -/
theorem onlyGrant_putReg (s : State) (p g hi lo v : Nat) : OnlyGrant p g s (putReg s p (R.gntCtl g) hi lo v) where
  slots h _ hn := by
    have other : R.gntCtl h ≠ R.gntCtl g := by simp only [R.gntCtl]; omega
    exact ⟨reg_putReg_ne s _ _ _ _ _ _ _ _ other, reg_putReg_ne s _ _ _ _ _ _ _ _ other⟩
  apart q hq := by rw [putReg, partOf_onPart_ne _ _ _ _ hq]
  stores := rfl
  cores := rfl
  clusters := rfl

/-- What an interrupt changes is a vector. -/
@[reducible] def vectorsOnly : Field → Bool
  | .vec _ | .parts | .out => true
  | _ => false

theorem msix_vectorsOnly (s : State) (p v : Nat) : view vectorsOnly (msix s p v) = view vectorsOnly s := msix_view _ _ _ rfl rfl rfl

theorem onlyGrant_msix (s : State) (p g v : Nat) : OnlyGrant p g s (msix s p v) where
  slots h _ _ := ⟨part_of_view (fun x => gstate x h) (msix_vectorsOnly s p v) fun _ => rfl,
    part_of_view (fun x => gEoff x h) (msix_vectorsOnly s p v) fun _ => rfl⟩
  apart := elsewhere_of_view (msix_vectorsOnly s p v) fun _ _ => ⟨rfl, rfl, rfl, rfl⟩
  stores := rfl
  cores := rfl
  clusters := rfl

theorem onlyGrant_grantEnd (s : State) (p g st status : Nat) : OnlyGrant p g s (grantEnd s p g st status) :=
  ((onlyGrant_putReg s p g 11 10 st).trans (onlyGrant_putReg _ p g 19 12 status)).trans (onlyGrant_msix _ p g 5)

/-- The end of a grant command leaves all of the partition but `GSTAT` and vectors. -/
theorem grantEnd_registersOf (s : State) (p g st status : Nat) :
    view (registersOf p) (grantEnd s p g st status) = view (registersOf p) s :=
  grantEnd_view _ _ _ _ _ rfl rfl (beq_self_eq_true p) rfl

theorem gstate_grantEnd (s : State) (p g status : Nat) {st : Nat} (h : st < 4) :
    gstate (partOf (grantEnd s p g st status) p) g = st := by
  change reg (grantEnd s p g st status) p (R.gntCtl g) 11 10 = st
  rw [grantEnd, reg_msix, reg_putReg_fld _ _ _ _ _ _ _ _ (by decide) (by decide), reg_putReg _ _ _ _ _ _ (by decide) (by decide)]
  exact Nat.mod_eq_of_lt h

theorem gEoff_grantEnd (s : State) (p g st status : Nat) :
    gEoff (partOf (grantEnd s p g st status) p) g = gEoff (partOf s p) g := by
  change reg (grantEnd s p g st status) p (R.gntCtl g) 63 20 = reg s p (R.gntCtl g) 63 20
  rw [grantEnd, reg_msix, reg_putReg_fld _ _ _ _ _ _ _ _ (by decide) (by decide),
    reg_putReg_fld _ _ _ _ _ _ _ _ (by decide) (by decide)]

theorem status_grantEnd (s : State) (p g st : Nat) {status : Nat} (h : status < 256) :
    (partOf (grantEnd s p g st status) p).get (R.gntCtl g) 19 12 = status := by
  change reg (grantEnd s p g st status) p (R.gntCtl g) 19 12 = status
  rw [grantEnd, reg_msix, reg_putReg _ _ _ _ _ _ (by decide) (by decide)]
  exact Nat.mod_eq_of_lt h

/-- What a bolt that is to stay needs: the partition's bolts, and vectors and counts. -/
@[reducible] def pinning (p : Nat) : Field → Bool
  | .freeIx | .out | .parts | .wardrobe | .rel | .vec _ => true
  | .hbm q => q == p
  | _ => false

/-- The pins of CREATE, where they could be taken. -/
theorem pins_pinning {s : State} {p : Nat} {bs : List Nat} {o : Option State} (h : o = readyAll pinBolt s p bs ∨ o = none) :
    view (pinning p) (o.getD s) = view (pinning p) s := by
  obtain rfl | rfl := h
  · cases e : readyAll pinBolt s p bs with
    | none => rfl
    | some t => exact readyAll_view e fun e => pinBolt_view e rfl rfl rfl rfl rfl (fun _ => rfl) (beq_self_eq_true p)
  · rfl

theorem onlyGrant_of_pinning {p g : Nat} {s t : State} (h : view (pinning p) t = view (pinning p) s) : OnlyGrant p g s t where
  slots i _ _ := ⟨part_of_view (fun x => gstate x i) h fun _ => rfl, part_of_view (fun x => gEoff x i) h fun _ => rfl⟩
  apart := elsewhere_of_view h fun q hq => ⟨rfl, rfl, rfl, by simp [pinning, hq]⟩
  stores := stores_of_view h rfl
  cores := cores_of_view h rfl
  clusters := clusters_of_view h rfl

/-- CREATE of a FREE slot (R186). -/
theorem grantCreate_spec {s : State} {p g : Nat} (hl : (partOf s p).ptstate = 1) (hg : gstate (partOf s p) g = Gs.free) :
    gstate (partOf (grantCreate s p g) p) g = Gs.pinning ∧ (partOf (grantCreate s p g) p).tombs = (partOf s p).tombs ∧
      OnlyGrant p g s (grantCreate s p g) := by
  rw [grantCreate]
  dsimp only
  rw [if_neg (by simp [hl]), if_neg (by simp [hg])]
  generalize ho : (if grantOk (partOf s p) g = true then readyAll pinBolt s p (grantBolts (partOf s p) g) else none) = o
  have hv : view (pinning p) (o.getD s) = view (pinning p) s := by
    refine pins_pinning (bs := grantBolts (partOf s p) g) ?_
    rw [← ho]
    split
    · exact .inl rfl
    · exact .inr rfl
  refine ⟨reg_putReg _ _ _ _ _ _ (by decide) (by decide), ?_, ?_⟩
  · rw [putReg, partOf_onPart, partOf_onPart]
    exact part_of_view (fun x => x.tombs) hv fun _ => rfl
  · refine ((onlyGrant_of_pinning hv).trans (onlyGrant_onPart _ p g _ ?_)).trans (onlyGrant_putReg _ p g 11 10 Gs.pinning)
    exact fun _ => rfl

/-- GRANT_PINNED when the bolts are in and a free offset is found (R186). -/
theorem grantPinned_of_placed {s : State} {p g o : Nat} (hg : gstate (partOf s p) g = Gs.pinning)
    (hrun : sget ⟨0, false⟩ (partOf s p).grants g = ⟨Status.ok, true⟩)
    (hin : ((grantBolts (partOf s p) g).any fun b => ((partOf s p).bolt b).st == .in_) = false) (ha : activeGrants s < 1024)
    (ho : placeExport s (gBolts (partOf s p) g) = some o) :
    grantPinned s p g = grantEnd (putReg (onPart (spend s 1) p fun y =>
      { y with grants := sset ⟨0, false⟩ y.grants g ⟨0, false⟩ }) p (R.gntCtl g) 63 20 o) p g Gs.active Status.ok := by
  rw [grantPinned]
  dsimp only
  rw [if_neg (by simp [hg]), hrun, if_neg (by simp), if_neg (by simp only [hin]; decide), if_pos ha, ho]

/-- The offset that is found fits `EOFF`. -/
theorem placeExport_lt {s : State} {n o : Nat} (hn : n ≠ 0) (h : placeExport s n = some o) : o < 2 ^ 44 := by
  have fits := List.find?_some h
  simp only [exportFits, exportWindow, Bool.and_eq_true] at fits
  obtain ⟨hle, -⟩ := fits
  have : 0 < n * boltSize := Nat.mul_pos (by omega) (by decide)
  exact Nat.lt_of_lt_of_le (Nat.lt_add_of_pos_right this) (of_decide_eq_true hle)

/-- Unpinning keeps a partition's registers and tombstones. -/
theorem unpinned_bar0 (l : List Nat) (x : Partition) : (l.foldl unpinBolt x).bar0 = x.bar0 :=
  List.foldlRecOn (motive := fun y : Partition => y.bar0 = x.bar0) _ _ rfl fun _ hy _ _ => hy

/-- The partition once a slot has drained: its bolts unpinned, its range a tombstone (R186). -/
def slotDrained (x : Partition) (g : Nat) (y : Partition) : Partition :=
  { (grantBolts x g).foldl unpinBolt y with
    tombs := y.tombs ++ [{ eoff := gEoff x g, nbolt := gBolts x g, job := BitVec.ofNat 32 (gJob x g) }] }

theorem revokeDrained_of_revoking {s : State} {p g : Nat} (hs : gstate (partOf s p) g = Gs.revoking) :
    revokeDrained s p g = grantEnd (onPart s p (slotDrained (partOf s p) g)) p g Gs.free Status.ok := by
  rw [revokeDrained]
  exact if_neg (by simp [hs])

/-- Settles O34, by what the end of a grant command and the pins of its bolts leave. -/
theorem grantSlots : Obligations.GrantSlots := by
  unfold Obligations.GrantSlots
  intro s p g hp hg x still
  have wf : ∀ {t : State}, OnlyGrant p g s t → still t := fun h => ⟨h.slots, h.apart, h.stores, h.cores, h.clusters⟩
  have ok : (decide (p < 16) && decide (g < 256)) = true := by simp [hp, hg]
  refine ⟨fun hl hf => ?_, fun o hs hrun hb hin ha ho => ?_, fun hl hs => ?_, fun hs => ?_, fun e => ?_⟩
  · obtain ⟨h1, h2, h3⟩ := grantCreate_spec hl hf
    exact ⟨_, exec_next_of_eq rfl ok rfl, h1, h2, wf h3⟩
  · refine ⟨_, exec_next_of_eq rfl ok (grantPinned_of_placed hs hrun hin ha ho), gstate_grantEnd _ _ _ _ (by decide), ?_,
      status_grantEnd _ _ _ _ (by decide), ?_, wf ?_⟩
    · rw [gEoff_grantEnd]
      exact (reg_putReg _ _ _ _ _ _ (by decide) (by decide)).trans (Nat.mod_eq_of_lt (placeExport_lt hb ho))
    · refine (part_of_view (fun y => y.bolts) (grantEnd_registersOf _ p g _ _) fun _ => rfl).trans ?_
      rw [putReg, partOf_onPart, partOf_onPart]
      rfl
    · refine OnlyGrant.trans (t := spend s 1) ⟨fun _ _ _ => ⟨rfl, rfl⟩, fun _ _ => rfl, rfl, rfl, rfl⟩ ?_
      refine ((onlyGrant_onPart (spend s 1) p g _ ?_).trans (onlyGrant_putReg _ p g 63 20 o)).trans (onlyGrant_grantEnd _ p g _ _)
      exact fun _ => rfl
  · have acts : grantRevoke s p g = putReg s p (R.gntCtl g) 11 10 Gs.revoking := by
      rw [grantRevoke]
      exact (if_neg (by simp [hl, x])).trans (if_neg (by simp [hs, x]))
    refine ⟨_, exec_next_of_eq rfl ok acts, reg_putReg _ _ _ _ _ _ (by decide) (by decide),
      reg_putReg_fld _ _ _ _ _ _ _ _ (by decide) (by decide), ?_, wf (onlyGrant_putReg _ _ _ _ _ _)⟩
    rw [putReg, partOf_onPart]
    rfl
  · refine ⟨_, exec_next_of_eq rfl ok (revokeDrained_of_revoking hs), gstate_grantEnd _ _ _ _ (by decide), ?_,
      status_grantEnd _ _ _ _ (by decide), wf ((onlyGrant_onPart s p g _ fun y => ?_).trans (onlyGrant_grantEnd _ p g _ _))⟩
    · exact (part_of_view (fun y => y.tombs) (grantEnd_registersOf _ p g _ _) fun _ => rfl).trans (by rw [partOf_onPart]; rfl)
    · exact unpinned_bar0 _ y
  · refine ⟨_, exec_next_of_eq rfl (by simp [Instr.wf, partOk, hp]) rfl, fun z => ?_, ?_, wf (onlyGrant_onPart s p g _ fun _ => rfl)⟩
    · rw [partOf_onPart]
      simp [List.mem_filter, x]
    · rw [partOf_onPart]

/-! ### Layout slots and the registers of the Tailor (R249, R250, R266) -/

/-- A partition that a view shows whole is as it was. -/
theorem partOf_of_view {F : Field → Bool} {s t : State} (h : view F t = view F s) {q : Nat}
    (hF : F (.part q) = false ∧ F (.regs q) = false ∧ F (.vec q) = false ∧ F (.mem q) = false ∧ F (.hbm q) = false) :
    partOf t q = partOf s q := by
  obtain ⟨hp, hr, hv, hm, hh⟩ := hF
  have hx := viewPart_of_view h q
  simpa only [viewPart, hp, hr, hv, hm, hh, Bool.false_eq_true, if_false] using hx

/-- What a command of partition `p` may change that keeps to the partition's own record. -/
@[reducible] def recordOf (p : Nat) : Field → Bool
  | .part q | .regs q | .vec q => q == p
  | .parts | .out | .freeIx => true
  | _ => false

theorem apart_recordOf {p q : Nat} (hq : q ≠ p) : recordOf p (.part q) = false ∧ recordOf p (.regs q) = false ∧
    recordOf p (.vec q) = false ∧ recordOf p (.mem q) = false ∧ recordOf p (.hbm q) = false := by
  simp [recordOf, hq]

theorem reg_word_putReg_ne (s : State) (p o hi lo v k : Nat) (h : k ≠ o) :
    (partOf (putReg s p o hi lo v) p).reg k = (partOf s p).reg k := by
  rw [putReg, partOf_onPart]
  exact Partition_reg_setReg_ne _ _ _ _ h

/-- A change of layout slot `i`'s release: bytes, `GMASK` and status stand, and the slot is DRAINING or FREE. -/
structure LayoutDraining (p i : Nat) (s t : State) : Prop where
  mem : (partOf t p).mem = (partOf s p).mem
  mask : (partOf t p).reg (R.tlLgm i) = (partOf s p).reg (R.tlLgm i)
  status : (partOf t p).get (R.tlLay i) 31 24 = Status.ok
  state : lstate (partOf t p) i = 3 ∨ lstate (partOf t p) i = 0

/-- What a FREE layout slot's end leaves of a partition but its state. -/
theorem layoutDrain_cases (s : State) (p j : Nat) :
    layoutDrain s p j = s ∨ layoutDrain s p j = msix (putReg s p (R.tlLay j) 19 18 0) p 2 := by
  unfold layoutDrain
  dsimp only
  split
  · exact .inr rfl
  · exact .inl rfl

theorem get_msix (s : State) (p v q k a b : Nat) : (partOf (msix s p v) q).get k a b = (partOf s q).get k a b :=
  part_of_view (fun x => x.get k a b) (msix_vectorsOnly s p v) fun _ => rfl

theorem LayoutDraining.layoutDrain {p i : Nat} {s t : State} (h : LayoutDraining p i s t) (hi : i < 2) {j : Nat} (hj : j < 2) :
    LayoutDraining p i s (layoutDrain t p j) := by
  obtain ⟨mem, mask, status, state⟩ := h
  obtain e | e := layoutDrain_cases t p j
  · rw [e]
    exact ⟨mem, mask, status, state⟩
  · rw [e]
    have hv := msix_vectorsOnly (putReg t p (R.tlLay j) 19 18 0) p 2
    refine ⟨?_, ?_, ?_, ?_⟩
    · rw [part_of_view (fun x => x.mem) hv fun _ => rfl, ← mem, putReg, partOf_onPart]
      rfl
    · rw [part_of_view (fun x => x.reg (R.tlLgm i)) hv fun _ => rfl, ← mask]
      exact reg_word_putReg_ne _ _ _ _ _ _ _ (by simp only [R.tlLgm, R.tlLay]; omega)
    · rw [get_msix]
      by_cases hij : i = j
      · subst hij
        exact (reg_putReg_fld _ _ _ _ _ _ _ _ (by decide) (by decide)).trans status
      · exact (reg_putReg_ne _ _ _ _ _ _ _ _ _ (by simp only [R.tlLay]; omega)).trans status
    · by_cases hij : i = j
      · subst hij
        exact .inr ((get_msix ..).trans (reg_putReg _ _ _ _ _ _ (by decide) (by decide)))
      · have same : lstate (partOf (msix (putReg t p (R.tlLay j) 19 18 0) p 2) p) i = lstate (partOf t p) i :=
          (get_msix ..).trans (reg_putReg_ne _ _ _ _ _ _ _ _ _ (by simp only [R.tlLay]; omega))
        rw [same]
        exact state

theorem LayoutDraining.putGroup {p i : Nat} {s t : State} (h : LayoutDraining p i s t) (g : Nat) (q : Group) :
    LayoutDraining p i s (putGroup t p g q) := by
  obtain ⟨mem, mask, status, state⟩ := h
  have e : partOf (Machine.putGroup t p g q) p = { partOf t p with groups := sset .empty (partOf t p).groups g q } := by
    rw [Machine.putGroup, partOf_onPart]
  constructor
  all_goals rw [e]
  · exact mem
  · exact mask
  · exact status
  · exact state

theorem LayoutDraining.drainGroup {p i : Nat} {s t : State} (h : LayoutDraining p i s t) (hi : i < 2) (g : Nat) :
    LayoutDraining p i s (drainGroup t p g) := by
  unfold Machine.drainGroup
  dsimp only
  split
  · exact ((h.putGroup g .empty).layoutDrain hi (by decide)).layoutDrain hi (by decide)
  · exact h

/-! What a drain makes of the group slots. -/

theorem group_putGroup (s : State) (p g : Nat) (q : Group) : (partOf (putGroup s p g q) p).group g = q := by
  rw [putGroup, partOf_onPart, Partition.group, sget_sset]

theorem group_putGroup_ne (s : State) (p : Nat) {g h : Nat} (q : Group) (hn : h ≠ g) :
    (partOf (putGroup s p g q) p).group h = (partOf s p).group h := by
  rw [putGroup, partOf_onPart]
  exact sget_sset_ne _ _ _ _ _ _ hn

theorem group_layoutDrain (s : State) (p j g : Nat) : (partOf (layoutDrain s p j) p).group g = (partOf s p).group g := by
  obtain e | e := layoutDrain_cases s p j
  · rw [e]
  · rw [e, part_of_view (fun x => x.group g) (msix_vectorsOnly _ p 2) fun _ => rfl, putReg, partOf_onPart]
    rfl

theorem group_drainGroup_ne (s : State) (p : Nat) {g h : Nat} (hn : h ≠ g) :
    (partOf (drainGroup s p g) p).group h = (partOf s p).group h := by
  unfold drainGroup
  dsimp only
  split
  · rw [group_layoutDrain, group_layoutDrain, group_putGroup_ne _ _ _ hn]
  · rfl

/-- A drained slot is EMPTY, or stands as it was. -/
theorem group_drainGroup (s : State) (p g : Nat) : (partOf (drainGroup s p g) p).group g = .empty ∨
    (partOf (drainGroup s p g) p).group g = (partOf s p).group g := by
  unfold drainGroup
  dsimp only
  split
  · rw [group_layoutDrain, group_layoutDrain, group_putGroup]
    exact .inl rfl
  · exact .inr rfl

/-- One LOADED group slot is cleared (R208). -/
def clearGroup (p : Nat) (t : State) (g : Nat) : State :=
  drainGroup (putGroup t p g { (partOf t p).group g with st := 2 }) p g

theorem group_clearGroup_ne (p : Nat) (t : State) {g h : Nat} (hn : h ≠ g) :
    (partOf (clearGroup p t g) p).group h = (partOf t p).group h := by
  rw [clearGroup, group_drainGroup_ne _ _ hn, group_putGroup_ne _ _ _ hn]

theorem group_clearGroup_st (p : Nat) (t : State) (g : Nat) : ((partOf (clearGroup p t g) p).group g).st ≠ 1 := by
  rw [clearGroup]
  obtain e | e := group_drainGroup (putGroup t p g { (partOf t p).group g with st := 2 }) p g
  · rw [e]
    decide
  · rw [e, group_putGroup]
    exact (by decide : (2 : Nat) ≠ 1)

theorem group_clearGroups_ne (p : Nat) (l : List Nat) (t : State) {h : Nat} (hn : h ∉ l) :
    (partOf (l.foldl (clearGroup p) t) p).group h = (partOf t p).group h := by
  induction l generalizing t with
  | nil => rfl
  | cons g l ih =>
    obtain ⟨hg, hl⟩ := List.ne_and_not_mem_of_not_mem_cons hn
    rw [List.foldl_cons, ih _ hl, group_clearGroup_ne p t hg]

theorem group_clearGroups_st (p : Nat) (l : List Nat) (t : State) {h : Nat} (hl : h ∈ l ∨ ((partOf t p).group h).st ≠ 1) :
    ((partOf (l.foldl (clearGroup p) t) p).group h).st ≠ 1 := by
  induction l generalizing t with
  | nil => exact hl.resolve_left List.not_mem_nil
  | cons g l ih =>
    refine ih _ ?_
    by_cases hg : h = g
    · subst hg
      exact .inr (group_clearGroup_st p t h)
    · rw [group_clearGroup_ne p t hg]
      exact hl.imp_left fun hm => (List.mem_cons.1 hm).resolve_left hg

/-- The slot is DRAINING and its command has ended OK (R250). -/
def releaseBegun (s : State) (p i : Nat) : State :=
  putReg (putReg s p (R.tlLay i) 19 18 3) p (R.tlLay i) 31 24 Status.ok

/-- The LOADED group slots of a layout slot. -/
def loadedGroups (x : Partition) (i : Nat) : List Nat :=
  (List.range 64).filter fun g => bit (x.reg (R.tlLgm i)) g && (x.group g).st == 1

theorem layoutRelease_of_resident {s : State} {p i : Nat} (hl : (partOf s p).ptstate = 1) (hs : lstate (partOf s p) i = 2) :
    layoutRelease s p i = layoutDrain ((loadedGroups (partOf s p) i).foldl (clearGroup p) (releaseBegun s p i)) p i := by
  rw [layoutRelease]
  exact (if_neg (by simp [hl])).trans (if_neg (by simp [hs]))

theorem releaseBegun_draining (s : State) (p i : Nat) : LayoutDraining p i s (releaseBegun s p i) where
  mem := by
    rw [releaseBegun, putReg, partOf_onPart, putReg, partOf_onPart]
    rfl
  mask := by
    have other : R.tlLgm i ≠ R.tlLay i := by simp only [R.tlLgm, R.tlLay]; omega
    rw [releaseBegun, reg_word_putReg_ne _ _ _ _ _ _ _ other, reg_word_putReg_ne _ _ _ _ _ _ _ other]
  status := (reg_putReg _ _ _ _ _ _ (by decide) (by decide)).trans (by decide)
  state := .inl ((reg_putReg_fld _ _ _ _ _ _ _ _ (by decide) (by decide)).trans
    ((reg_putReg _ _ _ _ _ _ (by decide) (by decide)).trans (by decide)))

theorem group_releaseBegun (s : State) (p i g : Nat) : (partOf (releaseBegun s p i) p).group g = (partOf s p).group g := by
  rw [releaseBegun, putReg, partOf_onPart, putReg, partOf_onPart]
  rfl

/-- A DRAINING slot without group slots is FREE at once (R250). -/
theorem lstate_layoutDrain_of_empty {s : State} {p i : Nat} (hm : (partOf s p).reg (R.tlLgm i) = 0)
    (hs : lstate (partOf s p) i = 3 ∨ lstate (partOf s p) i = 0) : lstate (partOf (layoutDrain s p i) p) i = 0 := by
  obtain h3 | h0 := hs
  · have drained : layoutDrain s p i = msix (putReg s p (R.tlLay i) 19 18 0) p 2 := by
      rw [layoutDrain]
      refine if_pos ?_
      rw [hm]
      simp [← h3, lstate, bit]
    rw [drained]
    exact (get_msix ..).trans (reg_putReg _ _ _ _ _ _ (by decide) (by decide))
  · obtain e | e := layoutDrain_cases s p i
    · rw [e, h0]
    · rw [e]
      exact (get_msix ..).trans (reg_putReg _ _ _ _ _ _ (by decide) (by decide))

/-- LAYOUT_RELEASE of a RESIDENT slot (R250). -/
theorem layoutRelease_spec {s : State} {p i : Nat} (hl : (partOf s p).ptstate = 1) (hi : i < 2)
    (hs : lstate (partOf s p) i = 2) :
    LayoutDraining p i s (layoutRelease s p i) ∧
      ((partOf s p).reg (R.tlLgm i) = 0 → lstate (partOf (layoutRelease s p i) p) i = 0) ∧
      (∀ g, g < 64 → bit ((partOf s p).reg (R.tlLgm i)) g = true → ((partOf (layoutRelease s p i) p).group g).st ≠ 1) ∧
      (∀ g, g < 64 → bit ((partOf s p).reg (R.tlLgm i)) g = false →
        (partOf (layoutRelease s p i) p).group g = (partOf s p).group g) := by
  rw [layoutRelease_of_resident hl hs]
  have cleared : LayoutDraining p i s ((loadedGroups (partOf s p) i).foldl (clearGroup p) (releaseBegun s p i)) :=
    List.foldlRecOn (motive := LayoutDraining p i s) _ _ (releaseBegun_draining s p i) fun t ht g _ =>
      (ht.putGroup g _).drainGroup hi g
  refine ⟨cleared.layoutDrain hi hi, fun hm => lstate_layoutDrain_of_empty (cleared.mask.trans hm) cleared.state,
    fun g hg hb => ?_, fun g hg hb => ?_⟩
  · rw [group_layoutDrain]
    refine group_clearGroups_st p _ _ ?_
    by_cases h1 : ((partOf s p).group g).st = 1
    · exact .inl (by simp [loadedGroups, hg, hb, h1])
    · rw [group_releaseBegun]
      exact .inr h1
  · rw [group_layoutDrain, group_clearGroups_ne, group_releaseBegun]
    simp [loadedGroups, hb]

theorem layoutRelease_recordOf (s : State) (p i : Nat) : view (recordOf p) (layoutRelease s p i) = view (recordOf p) s :=
  layoutRelease_view _ _ _ rfl rfl (beq_self_eq_true p) (beq_self_eq_true p) (beq_self_eq_true p)

/-- A register of another offset, or another field, leaves a layout slot's state. -/
theorem lstate_putReg_tlEpoch (s : State) (p v i : Nat) :
    lstate (partOf (putReg s p R.tlEpoch 15 0 v) p) i = lstate (partOf s p) i :=
  reg_putReg_ne _ _ _ _ _ _ _ _ _ (by simp only [R.tlLay, R.tlEpoch]; omega)

/-- Settles O42, by the one register that each command writes, and by the group slots that a release drains. -/
theorem tailorRegisters : Obligations.TailorRegisters := by
  unfold Obligations.TailorRegisters
  intro s p v hp hl x still
  have put (o hi lo w : Nat) : still (putReg s p o hi lo w) := by
    refine ⟨fun q hq => ?_, ?_, rfl, rfl, rfl⟩
    · rw [putReg, partOf_onPart_ne _ _ _ _ hq]
    · rw [putReg, partOf_onPart]
      rfl
  have wf : partOk p = true := by simp [partOk, hp]
  have lt (n : Nat) : fld v n 0 < 2 ^ (n + 1) := Nat.mod_lt _ (by positivity)
  refine ⟨fun h0 h1 => ?_, fun i hi hn => ?_, ?_, fun h0 h1 => ?_, fun i hi hs => ?_⟩
  · refine ⟨_, exec_next_of_eq rfl wf (when_of_true ?_), ?_, fun i hi => ?_, put _ _ _ _⟩
    · simp only [x] at h0 h1
      simp [hl, h0, h1]
    · exact (reg_putReg _ _ _ _ _ _ (by decide) (by decide)).trans (Nat.mod_eq_of_lt (lt 15))
    · rw [lstate_putReg_tlEpoch]
      obtain rfl | rfl : i = 0 ∨ i = 1 := by omega
      · exact h0
      · exact h1
  · refine exec_next_of_eq rfl wf (when_of_false ?_)
    obtain rfl | rfl : i = 0 ∨ i = 1 := by omega
    · simp only [x] at hn
      simp [hl, hn]
    · simp only [x] at hn
      simp [hl, hn]
  · refine ⟨_, exec_next_of_eq rfl wf (when_of_true (by simp [hl])), ?_, ?_, fun q hq => ?_, ?_, rfl, rfl, rfl⟩
    · rw [partOf_onPart]
    · rw [partOf_onPart]
    · rw [partOf_onPart_ne _ _ _ _ hq]
    · rw [partOf_onPart]
  · refine ⟨_, exec_next_of_eq rfl wf (when_of_true ?_), ?_, put _ _ _ _⟩
    · simp only [x] at h0 h1
      simp [hl, h0, h1]
    · exact (reg_putReg _ _ _ _ _ _ (by decide) (by decide)).trans (Nat.mod_eq_of_lt (lt 15))
  · obtain ⟨⟨mem, mask, status, state⟩, free, cleared, kept⟩ := layoutRelease_spec hl hi hs
    have hv := layoutRelease_recordOf s p i
    exact ⟨_, exec_next_of_eq rfl (by simp [Instr.wf, wf, hi]) rfl, state, free, status, cleared, kept,
      fun q hq => partOf_of_view hv (apart_recordOf hq), mem, stores_of_view hv rfl, cores_of_view hv rfl, clusters_of_view hv rfl⟩

/-! ### Power states and latency tolerance (R247, R424) -/

/-- Clusters that wake, and those that do not. -/
theorem clusOf_wakeClusters (hs : List Nat) (s : State) (h : Nat) :
    clusOf (hs.foldl (fun t h => wakeUnit t (.cluster h)) s) h =
      if h ∈ hs then { clusOf s h with power := 0 } else clusOf s h := by
  induction hs generalizing s with
  | nil => rfl
  | cons k hs ih =>
    rw [List.foldl_cons, ih, wakeUnit]
    by_cases hk : h = k
    · subst hk
      rw [clusOf_onClus]
      split
      · rw [if_pos List.mem_cons_self]
      · rw [if_pos List.mem_cons_self]
    · rw [clusOf_onClus_ne _ _ _ _ hk]
      simp only [List.mem_cons, hk, false_or]

/-- The clusters deeper than `LAT_TOL` allows. -/
def tooDeep (s : State) (p : Nat) : List Nat :=
  (List.range 640).filter fun h =>
    hasCluster (partOf s p) h && decide (clusterDepth (latTol s p) (heldActive s h) < (clusOf s h).power)

/-- Channels and ports are of the power manager and of the links. -/
@[reducible] def unitsElsewhere : Field → Bool
  | .fabric | .pwr => true
  | _ => false

theorem wakeDeeper_clusters (s : State) (p : Nat) : view unitsElsewhere (wakeDeeper s p) =
    view unitsElsewhere ((tooDeep s p).foldl (fun t h => wakeUnit t (.cluster h)) s) :=
  (view_foldl _ _ fun _ _ => wakePort_view _ _ rfl).trans (view_foldl _ _ fun _ _ => setChannel_view _ _ _ rfl)

theorem clusOf_wakeDeeper (s : State) (p h : Nat) : clusOf (wakeDeeper s p) h =
    if h ∈ tooDeep s p then { clusOf s h with power := 0 } else clusOf s h :=
  (congrArg (fun m => sget Cluster.zero m h) (clusters_of_view (wakeDeeper_clusters s p) rfl)).trans
    (clusOf_wakeClusters (tooDeep s p) s h)

/-- Whether a context keeps its cluster on does not depend on `LAT_TOL`. -/
theorem heldActive_putReg (s : State) (p v h : Nat) : heldActive (putReg s p R.pcLattol 31 0 v) h = heldActive s h := by
  have ctx (r c : Nat) : ctxOf (putReg s p R.pcLattol 31 0 v) r c = ctxOf s r c := by
    by_cases hr : r = p
    · rw [ctxOf, putReg, hr, partOf_onPart]
      rfl
    · rw [ctxOf, putReg, partOf_onPart_ne _ _ _ _ hr]
      rfl
  have state (r c : Nat) : cstate (putReg s p R.pcLattol 31 0 v) r c = cstate s r c := by
    by_cases hr : r = p
    · subst hr
      exact reg_putReg_ne _ _ _ _ _ _ _ _ _ (by simp only [R.cxStat, R.pcLattol]; omega)
    · exact reg_putReg_part _ _ _ _ _ _ _ _ _ _ hr
  simp only [heldActive, clusOf_putReg, ctx, state]

theorem latTolWrite_eq {s : State} {p : Nat} (hp : (partOf s p).ptstate ≠ 0) (v : Word) :
    latTolWrite s p v = wakeDeeper (putReg s p R.pcLattol 31 0 (fld v 31 0)) p := by
  rw [latTolWrite, if_neg hp]

theorem latTol_putReg (s : State) (p : Nat) (v : Word) : latTol (putReg s p R.pcLattol 31 0 (fld v 31 0)) p = fld v 31 0 :=
  (reg_putReg _ _ _ _ _ _ (by decide) (by decide)).trans (Nat.mod_eq_of_lt (Nat.mod_lt _ (by positivity)))

/-- Clusters, links and power. -/
@[reducible] def waking : Field → Bool
  | .clusters | .fabric | .pwr => true
  | _ => false

theorem wakeDeeper_waking (s : State) (p : Nat) : view waking (wakeDeeper s p) = view waking s := wakeDeeper_view _ _ rfl rfl rfl

/-- A cluster that is switched off: its cores are zero, and its stores are. -/
theorem mget_clusterOff (s : State) (h a : Nat) :
    mget (clusterOff s h).stores a = if ofCluster h a = true then 0 else mget s.stores a := by
  have cores := stores_of_view (F := inCores) (view_foldl (coresOf h) (clearStores s h) fun t g => putCore_view t g Core.zero rfl) rfl
  rw [clusterOff, cores]
  refine (mget_filter s.stores (fun c => !ofCluster h c) a).trans ?_
  cases ofCluster h a <;> rfl

/-- Cores, stores and tags. -/
@[reducible] def clusterContents : Field → Bool
  | .cores | .stores | .tags => true
  | _ => false

theorem clusterOff_contents (s : State) (h : Nat) : view clusterContents (clusterOff s h) = view clusterContents s :=
  clusterOff_view _ _ rfl rfl rfl

/-- What a cluster loses when it enters depth `d`: off, all of its stores and cores. -/
def clusterLeft (s : State) (h d : Nat) : State := if d = 3 then clusterOff s h else s

theorem clusterLeft_contents (s : State) (h d : Nat) : view clusterContents (clusterLeft s h d) = view clusterContents s := by
  rw [clusterLeft]
  exact view_ite (fun _ => clusterOff_contents s h) fun _ => rfl

theorem mget_clusterLeft (s : State) (h d a : Nat) :
    mget (clusterLeft s h d).stores a = if d = 3 ∧ ofCluster h a = true then 0 else mget s.stores a := by
  rw [clusterLeft]
  by_cases h3 : d = 3
  · simp only [h3, if_true, true_and]
    exact mget_clusterOff s h a
  · simp only [h3, if_false, false_and]

/-- A cluster at depth `d` (R424). -/
def clusterEntered (s : State) (h d : Nat) : State := onClus (clusterLeft s h d) h fun q => { q with power := d }

/-- An idle cluster that may be deeper enters the deepest state (R424). -/
theorem clusterEnter_of_idle {s : State} {h : Nat} (hi : clusterIdle s h = true)
    (hd : (clusOf s h).power < clusterDepth (panelLimit s (panelOfCluster h)) (heldActive s h)) :
    clusterEnter s h = clusterEntered s h (clusterDepth (panelLimit s (panelOfCluster h)) (heldActive s h)) := by
  rw [clusterEnter]
  exact if_pos (by simp [hi, hd])

theorem clusterEntered_spec (s : State) (h d : Nat) : (clusOf (clusterEntered s h d) h).power = d ∧
    (∀ a, mget (clusterEntered s h d).stores a = if d = 3 ∧ ofCluster h a = true then 0 else mget s.stores a) ∧
    (∀ k, k ≠ h → clusOf (clusterEntered s h d) k = clusOf s k) ∧ (clusOf (clusterEntered s h d) h).sem = (clusOf s h).sem ∧
    sameOutside s (clusterEntered s h d) := by
  have same := clusterLeft_contents s h d
  have clus (k : Nat) : clusOf (clusterLeft s h d) k = clusOf s k := by rw [clusOf, clusters_of_view same rfl, clusOf]
  have less : ∀ f, clusterContents f = true → inside f = true := fun f => by cases f <;> simp
  rw [clusterEntered]
  refine ⟨by rw [clusOf_onClus], mget_clusterLeft s h d, fun k hk => by rw [clusOf_onClus_ne _ _ _ _ hk, clus], ?_, ?_⟩
  · rw [clusOf_onClus, clus]
  · exact sameOutside_of_view ((onClus_view _ _ _ rfl).trans (view_mono less same))

/-- Settles O41, by what a limit lets a cluster or channel enter, and by what wakes those too deep. -/
theorem powerStatesFollowTolerance : Obligations.PowerStatesFollowTolerance := by
  unfold Obligations.PowerStatesFollowTolerance
  refine ⟨fun s p v hp hl => ?_, fun s h hh => ⟨fun hi hd => ?_, ?_⟩, fun s pn i hpn hi => ⟨fun hd => ?_, ?_⟩⟩
  · have hv := wakeDeeper_waking (putReg s p R.pcLattol 31 0 (fld v 31 0)) p
    have part : (partOf (putReg s p R.pcLattol 31 0 (fld v 31 0)) p).panels = (partOf s p).panels := by
      rw [putReg, partOf_onPart]
      rfl
    have depth (h : Nat) : h ∈ tooDeep (putReg s p R.pcLattol 31 0 (fld v 31 0)) p ↔
        hasCluster (partOf s p) h = true ∧ clusterDepth (fld v 31 0) (heldActive s h) < (clusOf s h).power := by
      rw [tooDeep, latTol_putReg, List.mem_filter, List.mem_range]
      rw [Bool.and_eq_true, decide_eq_true_eq, heldActive_putReg, clusOf_putReg]
      simp only [hasCluster, part, Bool.and_eq_true, decide_eq_true_eq]
      exact ⟨fun h => h.2, fun h => ⟨h.1.1, h⟩⟩
    refine ⟨_, exec_next_of_eq rfl (by simp [Instr.wf, partOk, hp]) (latTolWrite_eq hl v), ?_, fun h hc => ?_, fun h hc => ?_, fun q hq => ?_,
      (stores_of_view hv rfl).trans rfl, (cores_of_view hv rfl).trans rfl, (out_of_view hv rfl).trans rfl⟩
    · rw [latTol, reg, part_of_view (fun x => x.get R.pcLattol 31 0) hv fun _ => rfl]
      exact latTol_putReg s p v
    · rw [clusOf_wakeDeeper]
      split
      · exact Nat.zero_le _
      next hn =>
        rw [depth] at hn
        exact Nat.le_of_not_lt fun hlt => hn ⟨hc, hlt⟩
    · rw [clusOf_wakeDeeper, if_neg, clusOf_putReg]
      rw [depth, hc]
      exact fun h => Bool.noConfusion h.1
    · rw [partOf_of_view hv ⟨rfl, rfl, rfl, rfl, rfl⟩, putReg, partOf_onPart_ne _ _ _ _ hq]
  · obtain ⟨h1, h2, h3, h4, h5⟩ := clusterEntered_spec s h (clusterDepth (panelLimit s (panelOfCluster h)) (heldActive s h))
    exact ⟨_, exec_next_of_eq rfl (by simp [Instr.wf, powerUnitOk, clusterOk, hh]) (clusterEnter_of_idle hi hd), h1, h2, h3, h4, h5⟩
  · refine ⟨_, exec_next_of_eq rfl (by simp [Instr.wf, powerUnitOk, clusterOk, hh]) rfl, ?_, rfl, rfl, fun k hk => clusOf_onClus_ne _ _ _ _ hk,
      ?_, sameOutside_of_view (onClus_view _ _ _ rfl)⟩
    · rw [wakeUnit, clusOf_onClus]
    · rw [wakeUnit, clusOf_onClus]
  · have acts : channelEnter s pn i = setChannel s (channelKey pn i) (channelDepth (panelLimit s pn)) := if_pos hd
    refine ⟨_, exec_next_of_eq rfl (by simp [Instr.wf, powerUnitOk, hpn, hi]) acts, ?_, fun j hj => ?_, rfl⟩
    · exact sget_sset ..
    · exact sget_sset_ne _ _ _ _ _ _ hj
  · refine ⟨_, exec_next_of_eq rfl (by simp [Instr.wf, powerUnitOk, hpn, hi]) rfl, ?_, fun j hj => ?_, rfl⟩
    · exact sget_sset ..
    · exact sget_sset_ne _ _ _ _ _ _ hj

/-! ### What the end of host requests leaves (R225, R226) -/

/-- The management registers but the count of violations of the device, and the bindings of every partition, stand. -/
structure SameBindings (s t : State) : Prop where
  word (a : Nat) : a ≠ M.pmDviol → mregOf t a = mregOf s a
  bound (q : Nat) : (partOf t q).bound = (partOf s q).bound

theorem sameBindings_refl (s : State) : SameBindings s s := ⟨fun _ _ => rfl, fun _ => rfl⟩

theorem sameBindings_trans {s t u : State} (h : SameBindings s t) (h' : SameBindings t u) : SameBindings s u :=
  ⟨fun a ha => (h'.word a ha).trans (h.word a ha), fun q => (h'.bound q).trans (h.bound q)⟩

theorem sameBindings_foldl {α : Type} {f : State → α → State} (l : List α) (s : State)
    (keep : ∀ t e, SameBindings t (f t e)) : SameBindings s (l.foldl f s) :=
  List.foldlRecOn (motive := fun t => SameBindings s t) _ _ (sameBindings_refl s) fun t ht e _ =>
    sameBindings_trans ht (keep t e)

theorem sameBindings_ite {c : Prop} [Decidable c] {s a b : State} (ha : SameBindings s a) (hb : SameBindings s b) :
    SameBindings s (if c then a else b) := by
  split
  · exact ha
  · exact hb

theorem sameBindings_getD {o : Option State} {s u : State} (step : ∀ t, o = some t → SameBindings s t)
    (other : SameBindings s u) : SameBindings s (o.getD u) := by
  cases o with
  | none => exact other
  | some t => exact step t rfl

/-- All but the management registers and the partitions' own records. -/
@[reducible] def noBindings : Field → Bool
  | .mregs | .part _ => false
  | _ => true

theorem sameBindings_of_view {s t : State} (h : view noBindings t = view noBindings s) : SameBindings s t :=
  ⟨fun a _ => by rw [mregOf, mregs_of_view h rfl, mregOf], fun _ => part_of_view (fun x => x.bound) h fun _ => rfl⟩

theorem sameBindings_onPart (s : State) (p : Nat) (f : Partition → Partition) (hf : ∀ x, (f x).bound = x.bound) :
    SameBindings s (onPart s p f) := by
  refine ⟨fun _ _ => rfl, fun q => ?_⟩
  by_cases h : q = p
  · rw [h, partOf_onPart, hf]
  · rw [partOf_onPart_ne _ _ _ _ h]

theorem sameBindings_devViolation (s : State) : SameBindings s (devViolation s) :=
  ⟨fun _ ha => mregOf_setMreg_ne _ _ _ _ ha, fun _ => rfl⟩

theorem sameBindings_errEvent (s : State) (p i : Nat) : SameBindings s (errEvent s p i) :=
  sameBindings_of_view (errEvent_view _ _ _ rfl rfl rfl rfl)

theorem sameBindings_stallOn {s t : State} {p b : Nat} {w : Stalled} (h : stallOn s p b w = some t) : SameBindings s t :=
  sameBindings_of_view (stallOn_view h rfl rfl rfl rfl rfl rfl (fun _ => rfl) rfl)

theorem sameBindings_hostReadNone (s : State) (p n : Nat) : SameBindings s (hostReadNone s p n) :=
  sameBindings_of_view (hostReadNone_view _ _ _ rfl rfl rfl rfl rfl)

theorem sameBindings_hostReadAt (s : State) (p : Nat) (ps : List (Option Nat)) : SameBindings s (hostReadAt s p ps) := by
  unfold hostReadAt
  dsimp only
  refine sameBindings_ite (sameBindings_trans (sameBindings_of_view (emit_view _ _ rfl)) (sameBindings_devViolation _))
    (sameBindings_ite (sameBindings_hostReadNone ..) (sameBindings_ite (sameBindings_of_view rfl) ?_))
  split
  · exact sameBindings_getD (fun t => sameBindings_stallOn) (sameBindings_hostReadNone ..)
  · refine sameBindings_of_view ?_
    simp only [violationIf_view, emit_view, checkTiles_view, touchTiles_view, implies_true]

theorem sameBindings_hostWriteAt (s : State) (p : Nat) (ps : List (Option Nat)) (data : List Byte) :
    SameBindings s (hostWriteAt s p ps data) := by
  unfold hostWriteAt
  dsimp only
  refine sameBindings_ite (sameBindings_devViolation s) (sameBindings_ite (sameBindings_errEvent ..)
    (sameBindings_ite (sameBindings_refl s) ?_))
  split
  · exact sameBindings_getD (fun t => sameBindings_stallOn) (sameBindings_errEvent ..)
  · split
    · exact sameBindings_errEvent ..
    next t ready =>
      have readied : view noBindings t = view noBindings s :=
        readyAll_view ready fun e => readyWrite_view e rfl rfl rfl rfl rfl (fun _ => rfl) rfl
      refine sameBindings_of_view ((violationIf_view _ _ _ rfl rfl).trans ?_)
      refine (onPart_view _ _ _ rfl (viewPart_foldl _ _ fun y e => ?_)).trans readied
      split
      · exact plainTileWrite_view _ _ _ _ _ _ rfl rfl
      · rfl

theorem sameBindings_serve (s : State) (p : Nat) (w : Stalled) : SameBindings s (serve s p w) := by
  unfold serve
  split
  · exact sameBindings_hostReadAt ..
  · exact sameBindings_hostWriteAt ..
  · exact sameBindings_refl s

theorem sameBindings_fetchDone (s : State) (p b : Nat) (bad : BitVec 16) (retries us : Nat) :
    SameBindings s (fetchDone serve s p b bad retries us) := by
  have served (u : State) : SameBindings u (serveStalled serve u p b) := by
    refine sameBindings_trans (sameBindings_onPart _ _ _ ?_) (sameBindings_foldl _ _ fun t w => sameBindings_serve t p w)
    exact fun _ => rfl
  unfold fetchDone
  dsimp only
  refine sameBindings_ite (sameBindings_trans (sameBindings_of_view ?_) (served _)) (sameBindings_refl s)
  have touched (u : State) : view noBindings (onPart u p fun x => (boltTiles b).foldl (touchTile true) x) = view noBindings u :=
    onPart_view _ _ _ rfl (viewPart_foldl _ _ fun y t => touchTile_view _ y t rfl)
  have arrived (u : State) : view noBindings (checkTiles (readFlash (undecoded u p b bad) p b retries) p (boltTiles b)) =
      view noBindings u := by
    simp only [checkTiles_view, readFlash_view, undecoded_view, implies_true]
  have state (y : Bolt) : view noBindings (onPart s p fun x => x.setBolt b y) = view noBindings s :=
    onPart_view _ _ _ rfl (Partition_setBolt_view _ _ _ rfl)
  refine view_ite (fun _ => ?_) fun _ => (putReg_view _ _ _ _ _ _ rfl rfl).trans ?_
  · exact (touched _).trans ((arrived _).trans (state _))
  · exact (touched _).trans ((arrived _).trans (state _))

theorem sameBindings_fetchNow {s t : State} {p b : Nat} (h : fetchNow s p b = some t) : SameBindings s t := by
  unfold fetchNow at h
  split at h
  · obtain ⟨u, hu, rfl⟩ := Option.map_eq_some_iff.1 h
    have begun : SameBindings s (spend (countStall u p) 4) :=
      sameBindings_of_view ((spend_view _ 4 rfl).trans ((countStall_view _ _ rfl rfl).trans
        (beginFetch_view hu rfl rfl rfl rfl rfl (fun _ => rfl) rfl)))
    exact sameBindings_trans (sameBindings_trans begun (sameBindings_fetchDone ..))
      (sameBindings_of_view (putReg_view _ _ _ _ _ _ rfl rfl))
  · cases h
    exact sameBindings_refl s

theorem sameBindings_engineReady {s t : State} {p b : Nat} (h : engineReady s p b = some t) : SameBindings s t := by
  obtain ⟨u, hu, ht⟩ := Option.bind_eq_some_iff.1 h
  exact sameBindings_trans (sameBindings_fetchNow hu)
    (sameBindings_of_view (readyWrite_view ht rfl rfl rfl rfl rfl (fun _ => rfl) rfl))

theorem sameBindings_violation (s : State) (p : Nat) : SameBindings s (violation s p) := sameBindings_onPart _ _ _ fun _ => rfl

theorem sameBindings_fetchPoison (s : State) (p : Nat) (o : Option Nat) : SameBindings s (fetchPoison s p o) := by
  unfold fetchPoison
  split
  · exact sameBindings_violation s p
  · split
    · exact sameBindings_errEvent ..
    next t e => exact sameBindings_trans (sameBindings_engineReady e)
                  (sameBindings_of_view (poisonedTile_view _ _ _ rfl rfl rfl rfl))

theorem sameBindings_fetchTile (s : State) (p : Nat) (pay : List Byte) (c : Collar) (o : Option Nat) :
    SameBindings s (fetchTile s p pay c o).1 := by
  unfold fetchTile
  split
  · exact sameBindings_violation s p
  · split
    · split
      next t e => exact sameBindings_trans (sameBindings_engineReady e)
                    (sameBindings_of_view (onPart_view _ _ _ rfl (putTile_view _ _ _ _ rfl rfl)))
      · exact sameBindings_errEvent ..
    next i _ =>
      have failed : view noBindings (tileFailed s p i) = view noBindings s := by simp only [tileFailed_view, implies_true]
      exact sameBindings_trans (sameBindings_of_view failed) (sameBindings_fetchPoison (tileFailed s p i) p (some i))

theorem sameBindings_stashRead (s : State) (p : Nat) (e : PkEntry) (o : PocketOp) (u : Nat) :
    SameBindings s (stashRead s p e o u).1 := by
  simp only [stashRead]
  split
  · exact sameBindings_violation s p
  · split
    · exact sameBindings_refl s
    next t h =>
      exact sameBindings_trans (sameBindings_fetchNow h) (sameBindings_of_view (view_ite
        (fun _ => touchTiles_view _ _ _ rfl rfl) fun _ => touchTiles_view _ _ _ rfl rfl))

theorem sameBindings_hostAsk {s t : State} {p : Nat} {kind : HostKind} {a n : Nat} {e : Nat → Emit}
    (h : hostAsk s p kind a n e = some t) : SameBindings s t := by
  obtain ⟨k, -, rfl⟩ := Option.map_eq_some_iff.1 h
  refine sameBindings_trans (sameBindings_onPart s p _ ?_) (sameBindings_of_view (emit_view _ _ rfl))
  exact fun _ => rfl

theorem sameBindings_sendRequest (s : State) (mask : BitVec 18) (p c : Nat) (kind : ReqKind) (m : Msg) :
    SameBindings s (sendRequest s mask p c kind m).1 := sameBindings_of_view (sendRequest_view _ _ _ _ _ _ rfl rfl)

theorem sameBindings_stashUnit (s : State) (p idx : Nat) (e : PkEntry) (o : PocketOp) (u : Nat) :
    SameBindings s (stashUnit s p idx e o u).1 := by
  have read := sameBindings_stashRead s p e o u
  unfold stashUnit
  dsimp only
  split
  · exact sameBindings_refl s
  · split
    · exact sameBindings_refl s
    next s1 tile e1 =>
      rw [e1] at read
      split
      · split
        next s2 e2 => exact sameBindings_trans read (sameBindings_hostAsk e2)
        · exact read
      · split
        · exact sameBindings_trans read (sameBindings_sendRequest ..)
        · exact sameBindings_refl s

theorem sameBindings_fetchUnit (s : State) (p idx : Nat) (e : PkEntry) (u : Nat) :
    SameBindings s (fetchUnit s p idx e u).1 := by
  unfold fetchUnit
  dsimp only
  split
  · split
    next t h => exact sameBindings_hostAsk h
    · exact sameBindings_refl s
  · split
    · exact sameBindings_sendRequest ..
    · exact sameBindings_refl s

theorem sameBindings_onPkOp (s : State) (p idx : Nat) (f : PocketOp → PocketOp) : SameBindings s (onPkOp s p idx f) :=
  sameBindings_onPart _ _ _ fun _ => rfl

theorem sameBindings_pkPump (p idx fuel : Nat) (s : State) : SameBindings s (pkPump p idx fuel s) := by
  induction fuel generalizing s with
  | zero => exact sameBindings_refl s
  | succ fuel ih =>
    have asked (b : Bool) (e : PkEntry) (o : PocketOp) (u : Nat) :
        SameBindings s (if b then fetchUnit s p idx e u else stashUnit s p idx e o u).1 := by
      cases b
      · exact sameBindings_stashUnit ..
      · exact sameBindings_fetchUnit ..
    rw [pkPump]
    dsimp only
    split
    · exact sameBindings_refl s
    · split
      · exact sameBindings_refl s
      · split
        · exact sameBindings_refl s
        · exact sameBindings_trans (sameBindings_trans (asked ..) (sameBindings_onPkOp ..)) (ih _)
        · refine sameBindings_trans (sameBindings_trans (sameBindings_ite ?_ ?_) (sameBindings_onPkOp ..)) (ih _)
          · exact sameBindings_trans (asked ..) (sameBindings_foldl _ _ fun t i => sameBindings_fetchPoison t p i)
          · exact asked ..

theorem sameBindings_pkReply (s : State) (p idx : Nat) (fails : List Nat) : SameBindings s (pkReply s p idx fails) :=
  sameBindings_trans (sameBindings_onPkOp ..) (sameBindings_pkPump ..)

theorem sameBindings_pkHostArrive (s : State) (p idx k : Nat) (data : List Byte) (bad : Bool) :
    SameBindings s (pkHostArrive s p idx k data bad) := by
  unfold pkHostArrive
  split
  · exact sameBindings_refl s
  · refine sameBindings_trans ?_ (sameBindings_pkReply ..)
    refine List.foldlRecOn (motive := fun r : State × Bool => SameBindings s r.1) _ _ (sameBindings_refl s) fun r hr e _ => ?_
    refine sameBindings_trans hr ?_
    dsimp only
    split
    · exact sameBindings_fetchTile ..
    · exact sameBindings_fetchPoison ..

theorem sameBindings_hostEnd (s : State) (p : Nat) (r : HostReq) (res : Option (List Byte × Bool)) :
    SameBindings s (hostEnd s p r res) := by
  have dropped : SameBindings s (dropHostReq s p r.id) := sameBindings_onPart _ _ _ fun _ => rfl
  refine sameBindings_trans dropped ?_
  unfold hostEnd
  dsimp only
  split
  · split
    · exact sameBindings_of_view (onDma_view _ _ _ _ rfl)
    · exact sameBindings_of_view ((onDma_view _ _ _ _ rfl).trans (stagePoison_view _ _ _ _ _ rfl rfl))
  · exact sameBindings_of_view (onDma_view _ _ _ _ rfl)
  · exact sameBindings_pkHostArrive ..
  · exact sameBindings_pkReply ..
  · refine sameBindings_ite (sameBindings_refl _) (sameBindings_onPart _ _ _ ?_)
    exact fun _ => rfl
  · refine sameBindings_of_view ?_
    simp only [svcReadDone_view, implies_true]
  · exact sameBindings_refl _
  · exact sameBindings_ite (sameBindings_errEvent ..) (sameBindings_refl _)

theorem sameBindings_endHostReqs (s : State) (p h : Nat) : SameBindings s (endHostReqs s p h) :=
  sameBindings_foldl _ _ fun t r => sameBindings_hostEnd t p r none

/-! ### Host links and logical devices (R223 to R227, R423) -/

/-- A port's register stands with the bindings. -/
theorem mreg_of_sameBindings {s t : State} (h : SameBindings s t) (k a b : Nat) :
    mreg t (M.ptHost k) a b = mreg s (M.ptHost k) a b := by
  rw [mreg, h.word _ (by simp only [M.ptHost, M.pmDviol]; omega), mreg]

/-- An unbound logical device (R226). -/
def ldUnbound (h : Nat) (x : Partition) : Partition := { x with bound := setFld x.bound h h 0 }

theorem unbindLd_bindings (s : State) (h p : Nat) : SameBindings (onPart s p (ldUnbound h)) (unbindLd s h p) :=
  sameBindings_endHostReqs ..

theorem bound_unbindLd (s : State) (h p q : Nat) :
    (partOf (unbindLd s h p) q).bound = if q = p then setFld (partOf s p).bound h h 0 else (partOf s q).bound := by
  rw [(unbindLd_bindings s h p).bound]
  split
  next hq => rw [hq, partOf_onPart, ldUnbound]
  next hq => rw [partOf_onPart_ne _ _ _ _ hq]

theorem mreg_unbindLd (s : State) (h p k a b : Nat) : mreg (unbindLd s h p) (M.ptHost k) a b = mreg s (M.ptHost k) a b :=
  mreg_of_sameBindings (unbindLd_bindings s h p) k a b

/-- Logical devices of a list lose their binding. -/
theorem bound_unbindLds (l : List Nat) (s : State) (h q : Nat) :
    (q ∉ l → (partOf (l.foldl (fun t p => unbindLd t h p) s) q).bound = (partOf s q).bound) ∧
    (h < 2 → q ∈ l ∨ bit (partOf s q).bound h = false →
      bit (partOf (l.foldl (fun t p => unbindLd t h p) s) q).bound h = false) ∧
    (∀ k, k ≠ h → bit (partOf (l.foldl (fun t p => unbindLd t h p) s) q).bound k = bit (partOf s q).bound k) := by
  induction l generalizing s with
  | nil => exact ⟨fun _ => rfl, fun _ hl => hl.resolve_left List.not_mem_nil, fun _ _ => rfl⟩
  | cons p l ih =>
    obtain ⟨kept, gone, other⟩ := ih (unbindLd s h p)
    rw [bound_unbindLd] at kept gone other
    refine ⟨fun hq => ?_, fun hh hq => gone hh ?_, fun k hk => (other k hk).trans ?_⟩
    · obtain ⟨hp, hl⟩ := List.ne_and_not_mem_of_not_mem_cons hq
      exact (kept hl).trans (if_neg hp)
    · by_cases hp : q = p
      · rw [if_pos hp]
        exact .inr (bit_clear _ hh)
      · rw [if_neg hp]
        exact hq.imp_left fun hm => (List.mem_cons.1 hm).resolve_left hp
    · split
      next hp => rw [bit_setFld_other _ _ hk, hp]
      · rfl

theorem mreg_unbindLds (l : List Nat) (s : State) (h k a b : Nat) :
    mreg (l.foldl (fun t p => unbindLd t h p) s) (M.ptHost k) a b = mreg s (M.ptHost k) a b :=
  List.foldlRecOn (motive := fun t => mreg t (M.ptHost k) a b = mreg s (M.ptHost k) a b) _ _ rfl fun t ht p _ =>
    (mreg_unbindLd t h p k a b).trans ht

/-- A host link as it goes down: one that was UP is charged (Table 14-2). -/
def linkDropped (s : State) (h : Nat) : State :=
  if mreg s (M.ptHost h) 1 0 = 1 then charge (putMreg s (M.ptHost h) 1 0 0) 0x15 9 h else s

theorem hostDown_eq (s : State) (h : Nat) : hostDown s h = (List.range 16).foldl (fun t p => unbindLd t h p) (linkDropped s h) := rfl

theorem ptHost_ne {k h : Nat} (hk : k ≠ h) : M.ptHost k ≠ M.ptHost h := by simp only [M.ptHost]; omega

/-- A charge is no matter of bindings. -/
theorem sameBindings_charge (s : State) (cls ut idx : Nat) : SameBindings s (charge s cls ut idx) := by
  refine sameBindings_of_view ?_
  simp only [charge_view, implies_true]

theorem linkDropped_spec (s : State) (h : Nat) : mreg (linkDropped s h) (M.ptHost h) 1 0 ≠ 1 ∧
    (mreg s (M.ptHost h) 1 0 = 1 → mreg (linkDropped s h) (M.ptHost h) 1 0 = 0) ∧
    (∀ k, k ≠ h → mreg (linkDropped s h) (M.ptHost k) 1 0 = mreg s (M.ptHost k) 1 0) ∧
    ∀ q, (partOf (linkDropped s h) q).bound = (partOf s q).bound := by
  by_cases up : mreg s (M.ptHost h) 1 0 = 1
  · rw [linkDropped, if_pos up]
    have charged := sameBindings_charge (putMreg s (M.ptHost h) 1 0 0) 0x15 9 h
    have down : mreg (charge (putMreg s (M.ptHost h) 1 0 0) 0x15 9 h) (M.ptHost h) 1 0 = 0 :=
      (mreg_of_sameBindings charged h 1 0).trans (mreg_putMreg _ _ _ _ _ (by decide) (by decide))
    refine ⟨by rw [down]; decide, fun _ => down, fun k hk => ?_, fun q => charged.bound q⟩
    exact (mreg_of_sameBindings charged k 1 0).trans (mreg_putMreg_ne _ _ _ _ _ _ _ _ (ptHost_ne hk))
  · rw [linkDropped, if_neg up]
    exact ⟨up, fun h => absurd h up, fun _ _ => rfl, fun _ => rfl⟩

/-- What a host link that goes down leaves: none bound on it, the other port as it was (R226). -/
structure LinkIsDown (h : Nat) (s t : State) : Prop where
  notUp : mreg t (M.ptHost h) 1 0 ≠ 1
  down : mreg s (M.ptHost h) 1 0 = 1 → mreg t (M.ptHost h) 1 0 = 0
  unbound : ∀ p, p < 16 → bit (partOf t p).bound h = false
  otherBound : ∀ p, p < 16 → bit (partOf t p).bound (1 - h) = bit (partOf s p).bound (1 - h)
  otherLink : mreg t (M.ptHost (1 - h)) 1 0 = mreg s (M.ptHost (1 - h)) 1 0

theorem hostDown_spec (s : State) {h : Nat} (hh : h < 2) : LinkIsDown h s (hostDown s h) := by
  obtain ⟨notUp, down, other, bound⟩ := linkDropped_spec s h
  have apart : 1 - h ≠ h := by omega
  rw [hostDown_eq]
  have lds := bound_unbindLds (List.range 16) (linkDropped s h) h
  refine ⟨?_, fun up => ?_, fun p hp => ?_, fun p _ => ?_, ?_⟩
  · rw [mreg_unbindLds]
    exact notUp
  · rw [mreg_unbindLds]
    exact down up
  · obtain ⟨-, gone, -⟩ := lds p
    exact gone hh (.inl (List.mem_range.2 hp))
  · obtain ⟨-, -, kept⟩ := lds p
    rw [kept _ apart, bound]
  · rw [mreg_unbindLds, other _ apart]

/-- Logical devices that the fabric manager binds (R223). -/
theorem bound_bindLds (l : List Nat) (s : State) (h q : Nat) :
    let t := l.foldl (fun t p => onPart t p fun x => { x with bound := setFld x.bound h h 1 }) s
    (h < 2 → bit (partOf t q).bound h = (decide (q ∈ l) || bit (partOf s q).bound h)) ∧
    ∀ k, k ≠ h → bit (partOf t q).bound k = bit (partOf s q).bound k := by
  dsimp only
  induction l generalizing s with
  | nil => exact ⟨fun _ => by simp, fun _ _ => rfl⟩
  | cons p l ih =>
    obtain ⟨set, other⟩ := ih (onPart s p fun x => { x with bound := setFld x.bound h h 1 })
    rw [List.foldl_cons]
    by_cases hq : q = p
    · subst hq
      rw [partOf_onPart] at set other
      refine ⟨fun hh => ?_, fun k hk => (other k hk).trans (bit_setFld_other _ _ hk)⟩
      rw [set hh, bit_set _ hh]
      simp
    · rw [partOf_onPart_ne _ _ _ _ hq] at set other
      refine ⟨fun hh => ?_, other⟩
      rw [set hh]
      simp [hq]

/-- A link that trains (R224). -/
def linkTrained (s : State) (h width rate : Nat) : State :=
  putMreg (putMreg (putMreg s (M.ptHost h) 1 0 1) (M.ptHost h) 15 12 width) (M.ptHost h) 23 16 rate

theorem hostTrained_of_ready {s : State} {h w r : Nat} {lds : BitVec 16} (hw : w = 8 ∨ w = 4) (hr : r = 64 ∨ r = 32)
    (hp : perstLow s h = false) (hf : mreg s (M.ptHost h) 1 0 ≠ 2) : hostTrained s h w r lds =
      ((List.range 16).filter fun p => bit lds p).foldl (fun t p => onPart t p fun x => { x with bound := setFld x.bound h h 1 })
        (linkTrained s h w r) := by
  rw [hostTrained, if_neg]
  · rfl
  · obtain rfl | rfl := hw
    · obtain rfl | rfl := hr
      · simp [hp, hf]
      · simp [hp, hf]
    · obtain rfl | rfl := hr
      · simp [hp, hf]
      · simp [hp, hf]

/-- Management registers do not depend on bindings. -/
theorem mregs_bindLds (l : List Nat) (s : State) (h : Nat) :
    (l.foldl (fun t p => onPart t p fun x => { x with bound := setFld x.bound h h 1 }) s).mregs = s.mregs ∧
    (l.foldl (fun t p => onPart t p fun x => { x with bound := setFld x.bound h h 1 }) s).stores = s.stores ∧
    (l.foldl (fun t p => onPart t p fun x => { x with bound := setFld x.bound h h 1 }) s).cores = s.cores :=
  List.foldlRecOn (motive := fun t : State => t.mregs = s.mregs ∧ t.stores = s.stores ∧ t.cores = s.cores) _ _
    ⟨rfl, rfl, rfl⟩ fun _ ht _ _ => ht

/-- The line of a host port that rises or falls is its own. -/
theorem perstLow_set (s : State) (h : Nat) (low : Bool) :
    let t := { s with pwr := if h = 0 then { s.pwr with perst0 := low } else { s.pwr with perst1 := low } }
    perstLow t h = low ∧ (h < 2 → perstLow t (1 - h) = perstLow s (1 - h)) := by
  by_cases h0 : h = 0
  · subst h0
    exact ⟨rfl, fun _ => rfl⟩
  · refine ⟨by simp [perstLow, h0], fun hh => ?_⟩
    have h1 : h = 1 := by omega
    subst h1
    rfl

/-! ### What QUIESCE leaves of the cores (R352) -/

/-- All but cores. -/
@[reducible] def noCores : Field → Bool
  | .cores => false
  | _ => true

theorem sameCores_of_noCores {s t : State} (h : view noCores t = view noCores s) : sameCores s t := sameCores_of_view h rfl

theorem sameCores_endColl (s : State) (p : Nat) (k : Coll) (status : Nat) : sameCores s (endColl s p k status) := by
  refine sameCores_of_noCores ?_
  simp only [endColl_view, implies_true]

theorem sameCores_pkAbandon (s : State) (p : Nat) : sameCores s (pkAbandon s p) := by
  unfold pkAbandon
  exact sameCores_trans (sameCores_foldl _ _ fun t i => sameCores_devWrite t p _ _) (sameCores_of_noCores (onPart_view_part _ _ _ rfl rfl))

theorem sameCores_abandonHints (n : Nat) (s : State) (p : Nat) : sameCores s (abandonHints n s p) := by
  induction n generalizing s with
  | zero => exact sameCores_refl s
  | succ n ih =>
    unfold abandonHints
    split
    · exact sameCores_refl s
    · exact sameCores_trans (sameCores_trans (sameCores_trans (sameCores_devWrite _ p _ _) (sameCores_devWrite _ p _ _))
        (sameCores_of_noCores (onPart_view_part _ _ _ rfl rfl))) (ih _)

theorem sameCores_ctxReset (s : State) (p c : Nat) : sameCores s (ctxReset s p c) := by
  obtain ⟨cut, he⟩ := ctxReset_eq s p c
  rw [he]
  have ended : sameCores s (onPart s p fun x => ctxEnded x c (cstate s p c) cut) :=
    sameCores_of_noCores (onPart_view_part _ _ _ rfl rfl)
  split
  · exact sameCores_trans ended (sameCores_of_noCores (ctxVector_view _ _ _ rfl rfl rfl))
  · exact ended

theorem sameCores_contextsQuiet (s : State) (p : Nat) : sameCores s (contextsQuiet s p) :=
  sameCores_trans (sameCores_trans (sameCores_trans (sameCores_pkAbandon s p) (sameCores_abandonHints _ _ p))
    (sameCores_foldl _ _ fun t k => sameCores_endColl t p k _)) (sameCores_foldl _ _ fun t c => sameCores_ctxReset t p c)

/-- The cores of the partition's clusters are off and on again; the others keep registers and place (R352). -/
theorem coreOf_quiescePart (s : State) (p g : Nat) :
    (hasCluster (partOf s p) (g / 16) = true → coreOf (quiescePart s p) g = Core.zero) ∧
    (hasCluster (partOf s p) (g / 16) = false →
      sameRegisters (coreOf s g) (coreOf (quiescePart s p) g) ∧ (coreOf (quiescePart s p) g).pc = (coreOf s g).pc) := by
  have same := sameCores_contextsQuiet s p g
  have panels : (partOf (contextsQuiet s p) p).panels = (partOf s p).panels := panels_of_identity (identity_contextsQuiet s p p)
  have clusters (h : Nat) : hasCluster (partOf (contextsQuiet s p) p) h = hasCluster (partOf s p) h := by
    rw [hasCluster, panels, hasCluster]
  have voted : (quiescePart s p).cores = (unitsQuiet (contextsQuiet s p) p).cores := by
    have votes (t : State) : view noCores (abortVotes t fun v => v.part == p) = view noCores t := by
      simp only [abortVotes_view, implies_true]
    rw [quiescePart_eq]
    exact (cores_of_view (votes _) rfl).trans (onPart_cores ..)
  have core : coreOf (quiescePart s p) g =
      sget .zero ((contextsQuiet s p).cores.filter fun e => !hasCluster (partOf s p) (e.1 / 16)) g := by
    rw [coreOf, voted, unitsQuiet]
    simp only [clusters]
  rw [core]
  refine ⟨fun hc => ?_, fun hc => ?_⟩
  · refine sget_absent _ _ _ fun e he hg => ?_
    have := (List.mem_filter.1 he).2
    rw [hg, hc] at this
    exact Bool.false_ne_true this
  · have keep : (!hasCluster (partOf s p) (g / 16)) = true := by rw [hc]; rfl
    have kept := sget_filter Core.zero (contextsQuiet s p).cores [] (fun k => !hasCluster (partOf s p) (k / 16)) g keep
    rw [List.append_nil] at kept
    have whole : sget .zero ((contextsQuiet s p).cores.filter fun e => !hasCluster (partOf s p) (e.1 / 16)) g =
        coreOf (contextsQuiet s p) g := by
      refine kept.trans ?_
      split
      · rfl
      next hn => exact (sget_absent _ _ _ fun e he hg => hn ⟨e, he, hg⟩).symm
    rw [whole]
    exact same

theorem cores_resetStarted (u : State) (p : Nat) (f : Partition → Partition) :
    (resetEvent (setPtstate (onPart u p f) p 5) 0x16 p Status.ok).cores = u.cores :=
  (cores_of_view (resetEvent_view (F := notesOnly) _ 0x16 p Status.ok rfl rfl) rfl).trans rfl

/-- What a LIVE partition's reset leaves of the cores as it begins. -/
theorem cores_beginPartReset_live {s : State} {p : Nat} (hl : (partOf s p).ptstate = 1) (hd : s.rel.dph = 0)
    (counted dying : Bool) : (beginPartReset s p counted dying).cores = (quiescePart s p).cores := by
  rw [beginPartReset_live hl hd, cores_resetStarted]

theorem resetBegun_spec (x : Partition) (counted dying : Bool) : (resetBegun x counted dying).ptstate = 5 ∧
    (resetBegun x counted dying).dying = dying ∧ (resetBegun x counted dying).colls = x.colls ∧
    (resetBegun x counted dying).groups = x.groups := ⟨rfl, rfl, rfl, rfl⟩

/-- A quiet partition has no collective and no group (R352). -/
theorem quiesced_quiescePart (s : State) (p : Nat) :
    (partOf (quiescePart s p) p).colls = [] ∧ (partOf (quiescePart s p) p).groups = [] := by
  have voted (t : State) : view noBindings (abortVotes t fun v => v.part == p) = view noBindings t := by
    simp only [abortVotes_view, implies_true]
  have quiet (t : State) : (partOf (onPart t p Partition.quiesced) p).colls = [] ∧
      (partOf (onPart t p Partition.quiesced) p).groups = [] := by
    rw [partOf_onPart]
    exact ⟨rfl, rfl⟩
  obtain ⟨colls, groups⟩ := quiet (unitsQuiet (contextsQuiet s p) p)
  rw [quiescePart_eq]
  generalize onPart (unitsQuiet (contextsQuiet s p) p) p Partition.quiesced = t at colls groups ⊢
  exact ⟨(part_of_view (fun x => x.colls) (voted t) fun _ => rfl).trans colls,
    (part_of_view (fun x => x.groups) (voted t) fun _ => rfl).trans groups⟩

theorem hostTrained_spec {s : State} {h w r : Nat} {lds : BitVec 16} (hh : h < 2) (hw : w = 8 ∨ w = 4) (hr : r = 64 ∨ r = 32)
    (hp : perstLow s h = false) (hf : mreg s (M.ptHost h) 1 0 ≠ 2) :
    let t := hostTrained s h w r lds
    (mreg t (M.ptHost h) 1 0 = 1 ∧ mreg t (M.ptHost h) 15 12 = w ∧ mreg t (M.ptHost h) 23 16 = r ∧
      mreg t (M.ptHost (1 - h)) 1 0 = mreg s (M.ptHost (1 - h)) 1 0) ∧
    (∀ p, p < 16 → bit (partOf t p).bound h = (bit lds p || bit (partOf s p).bound h)) ∧
    (∀ p, p < 16 → bit (partOf t p).bound (1 - h) = bit (partOf s p).bound (1 - h)) ∧ t.stores = s.stores ∧
      t.cores = s.cores := by
  have apart : 1 - h ≠ h := by omega
  have other : M.ptHost (1 - h) ≠ M.ptHost h := ptHost_ne apart
  dsimp only
  rw [hostTrained_of_ready hw hr hp hf]
  obtain ⟨hm, hs, hc⟩ := mregs_bindLds ((List.range 16).filter fun p => bit lds p) (linkTrained s h w r) h
  have bound := bound_bindLds ((List.range 16).filter fun p => bit lds p) (linkTrained s h w r) h
  refine ⟨?_, fun p hp => ?_, fun p hp => (bound p).2 _ apart, hs, hc⟩
  · simp only [mreg, mregOf, hm]
    change mreg (linkTrained s h w r) (M.ptHost h) 1 0 = 1 ∧ mreg (linkTrained s h w r) (M.ptHost h) 15 12 = w ∧
      mreg (linkTrained s h w r) (M.ptHost h) 23 16 = r ∧
      mreg (linkTrained s h w r) (M.ptHost (1 - h)) 1 0 = mreg s (M.ptHost (1 - h)) 1 0
    refine ⟨?_, ?_, ?_, ?_⟩
    · rw [linkTrained, mreg_putMreg_fld _ _ _ _ _ _ _ (by decide) (by decide),
        mreg_putMreg_fld _ _ _ _ _ _ _ (by decide) (by decide), mreg_putMreg _ _ _ _ _ (by decide) (by decide)]
      rfl
    · rw [linkTrained, mreg_putMreg_fld _ _ _ _ _ _ _ (by decide) (by decide), mreg_putMreg _ _ _ _ _ (by decide) (by decide)]
      exact Nat.mod_eq_of_lt (by omega)
    · rw [linkTrained, mreg_putMreg _ _ _ _ _ (by decide) (by decide)]
      exact Nat.mod_eq_of_lt (by omega)
    · rw [linkTrained, mreg_putMreg_ne _ _ _ _ _ _ _ _ other, mreg_putMreg_ne _ _ _ _ _ _ _ _ other,
        mreg_putMreg_ne _ _ _ _ _ _ _ _ other]
  · rw [(bound p).1 hh]
    simp [hp, linkTrained]

/-- Settles O39, by the bindings that the end of host requests leaves, and by what QUIESCE leaves of a partition. -/
theorem hostLinksAndLogicalDevices : Obligations.HostLinksAndLogicalDevices := by
  unfold Obligations.HostLinksAndLogicalDevices
  refine ⟨fun s h hh => ?_, fun s p hp => ⟨fun hl hd => ?_, fun hl => ?_⟩⟩
  · have apart : 1 - h ≠ h := by omega
    have wf : decide (h < 2) = true := decide_eq_true hh
    refine ⟨fun w r lds hw hr hp hf => ?_, fun up => ?_, fun p hp => ?_, ?_, ?_, fun up => ?_, fun op hop hn up => ?_,
      fun up => ?_, fun l up => ?_⟩
    · obtain ⟨hlink, hbound, hother, hs, hc⟩ := hostTrained_spec hh hw hr hp hf
      obtain ⟨up, width, rate, otherLink⟩ := hlink
      exact ⟨_, exec_next_of_eq rfl wf rfl, up, width, rate, hbound, ⟨hother, otherLink⟩, hs, hc⟩
    · have down := hostDown_spec s hh
      exact ⟨_, exec_next_of_eq rfl (by simp [Instr.wf, hh]) rfl, down.down up, down.unbound, down.otherBound, down.otherLink⟩
    · refine ⟨_, exec_next_of_eq rfl (by simp [Instr.wf, hh, hp]) rfl, ?_, fun q hq _ => ?_, mreg_unbindLd .., fun q _ => ?_,
        mreg_unbindLd ..⟩
      · rw [bound_unbindLd, if_pos rfl]
        exact bit_clear _ hh
      · rw [bound_unbindLd, if_neg hq]
      · rw [bound_unbindLd]
        split
        next hq => rw [bit_setFld_other _ _ apart, hq]
        · rfl
    · have down := hostDown_spec
        { s with pwr := if h = 0 then { s.pwr with perst0 := true } else { s.pwr with perst1 := true } } hh
      obtain ⟨low, -⟩ := perstLow_set s h true
      refine ⟨_, exec_next_of_eq rfl wf rfl, ?_, down.notUp, down.unbound, down.otherBound, down.otherLink⟩
      have line (t : State) : perstLow (hostDown t h) h = perstLow t h := by
        have kept : view allButPower (hostDown t h) = view allButPower t := by simp only [hostDown_view, implies_true]
        rw [perstLow, pwr_of_view kept rfl, perstLow]
      rw [line]
      exact low
    · obtain ⟨low, other⟩ := perstLow_set s h false
      exact ⟨_, exec_next_of_eq rfl wf rfl, low, other hh, rfl⟩
    · exact exec_next_of_eq rfl wf ((if_pos rfl).trans (if_pos up))
    · have noInfo : op ≠ 0x5400 := by omega
      have noAlloc : ¬ (op = 0x5401 ∨ op = 0x5402) := by omega
      exact exec_next_of_eq rfl wf ((if_neg noInfo).trans ((if_neg noAlloc).trans (if_pos up)))
    · exact exec_next_of_eq rfl wf (if_pos up)
    · exact ⟨_, _, exec_next_of_eq rfl wf (if_pos up), rfl⟩
  · obtain ⟨state, dying, colls, groups⟩ := resetBegun_spec (partOf (quiescePart s p) p) false false
    obtain ⟨noColls, noGroups⟩ := quiesced_quiescePart s p
    have cores (g : Nat) : coreOf (beginPartReset s p false false) g = coreOf (quiescePart s p) g := by
      rw [coreOf, cores_beginPartReset_live hl hd, coreOf]
    have acts : flr s p = beginPartReset s p false false := by rw [flr, if_neg (by omega)]
    refine ⟨_, exec_next_of_eq rfl (by simp [Instr.wf, partOk, hp]) acts, ?_, ?_, ?_, ?_, fun c hc => ?_, fun g hg => ?_, fun g hg => ?_⟩
    · rw [partOf_beginPartReset_live hl hd, state]
    · rw [partOf_beginPartReset_live hl hd, dying]
    · rw [partOf_beginPartReset_live hl hd, colls, noColls]
    · rw [partOf_beginPartReset_live hl hd, groups, noGroups]
    · exact cstate_beginPartReset_live hl hd false false hc
    · rw [cores]
      exact (coreOf_quiescePart s p g).1 hg
    · rw [cores]
      obtain ⟨regs, pc⟩ := (coreOf_quiescePart s p g).2 hg
      exact ⟨regs.1, pc⟩
  · have acts : flr s p = onPart s p fun x => { x with msix := 0 } := by rw [flr, if_pos hl]
    exact ⟨_, exec_next_of_eq rfl (by simp [Instr.wf, partOk, hp]) acts, partOf_onPart .., fun q hq => partOf_onPart_ne _ _ _ _ hq,
      rfl⟩

end Sys2Proof.Proofs
end

section
/-! Proofs about ports, discovery and the route tables. -/

namespace Sys2Proof.Proofs

open Sys2Proof.Machine Sys2Proof.Safety Sys2Proof.Laws

/-! ### Ports: retrains, power states, hemming (R170 to R173, R425) -/

theorem fabric_setRoute (s : State) (bank : Bool) (i : Nat) (w : BitVec 32) :
    (setRoute s bank i w).fabric.ports = s.fabric.ports ∧ (setRoute s bank i w).fabric.reqs = s.fabric.reqs := by
  unfold setRoute
  dsimp only
  split
  · exact ⟨rfl, rfl⟩
  · exact ⟨rfl, rfl⟩

/-- Automatic route entries are no ports. -/
theorem ports_autoClear (s : State) (c : Nat) : (autoClear s c).fabric.ports = s.fabric.ports :=
  List.foldlRecOn (motive := fun t : State => t.fabric.ports = s.fabric.ports) _ _ rfl fun t ht _ _ =>
    (fabric_setRoute t _ _ _).1.trans ht

theorem portOf_autoClear (s : State) (c k : Nat) : portOf (autoClear s c) k = portOf s k := by
  rw [portOf, ports_autoClear, portOf]

/-- What a charge of a port touches. -/
@[reducible] def chargeOnly : Field → Bool
  | .out | .parts | .rel | .regs _ | .vec _ => true
  | _ => false

theorem charge_chargeOnly (s : State) (cls ut idx : Nat) : view chargeOnly (charge s cls ut idx) = view chargeOnly s :=
  charge_view _ _ _ _ rfl rfl rfl (fun _ => rfl) fun _ => rfl

theorem portOf_of_view {F : Field → Bool} {s t : State} (h : view F t = view F s) (hF : F .fabric = false) (c : Nat) :
    portOf t c = portOf s c := by
  rw [portOf, fabric_of_view h hF, portOf]

/-- Only the links change. -/
@[reducible] def fabricOnly : Field → Bool
  | .fabric => true
  | _ => false

theorem autoClear_fabricOnly (s : State) (c : Nat) : view fabricOnly (autoClear s c) = view fabricOnly s := autoClear_view _ _ rfl

theorem mreg_of_view {F : Field → Bool} {s t : State} (h : view F t = view F s) (hF : F .mregs = false) (a hi lo : Nat) :
    mreg t a hi lo = mreg s a hi lo := by
  rw [mreg, mregOf, mregs_of_view h hF, mreg, mregOf]

/-- A port whose retrain begins (R173). -/
def retrainingPort (q : Port) : Port :=
  { q with pstate := 6, fails := 0, prevPeer := if q.dres = 1 then some q.peer else q.prevPeer, resend := [], narrow := 0 }

theorem startRetrain_unfenced {s : State} {c : Nat} (h : (portOf s c).pstate ≠ 9) : startRetrain s c =
    onPort (autoClear (charge (bumpMreg s (M.ptState c) 63 48 1) 0x0C 7 c) c) c retrainingPort := by
  rw [startRetrain, if_neg h]
  rfl

/-- A retrain begins: the port is in RETRAIN and keeps lanes and replay buffer, and is counted (R173). -/
theorem startRetrain_spec {s : State} {c : Nat} (h : (portOf s c).pstate ≠ 9) :
    portOf (startRetrain s c) c = retrainingPort (portOf s c) ∧
      mreg (startRetrain s c) (M.ptState c) 63 48 = min (mreg s (M.ptState c) 63 48 + 1) 65535 ∧
      (startRetrain s c).stores = s.stores ∧ (startRetrain s c).cores = s.cores := by
  rw [startRetrain_unfenced h]
  have cleared := autoClear_fabricOnly (charge (bumpMreg s (M.ptState c) 63 48 1) 0x0C 7 c) c
  have charged := charge_chargeOnly (bumpMreg s (M.ptState c) 63 48 1) 0x0C 7 c
  refine ⟨?_, ?_, (stores_of_view cleared rfl).trans ((stores_of_view charged rfl).trans rfl),
    (cores_of_view cleared rfl).trans ((cores_of_view charged rfl).trans rfl)⟩
  · rw [portOf_onPort, portOf_autoClear, portOf_of_view charged rfl]
    rfl
  · refine (mreg_of_view cleared rfl _ _ _).trans ((mreg_of_view charged rfl _ _ _).trans ?_)
    refine (mreg_putMreg _ _ _ _ _ (by decide) (by decide)).trans (Nat.mod_eq_of_lt ?_)
    exact Nat.lt_of_le_of_lt (Nat.min_le_right _ _) (by decide)

/-- A port narrows to one lane (R425). -/
theorem narrow_spec (s : State) (c : Nat) : (portOf (narrow s c) c).pstate = 1 ∧ (portOf (narrow s c) c).narrow = (portOf s c).lanes ∧
    (narrow s c).parts = s.parts ∧ ∀ q, q ≠ c → portOf (narrow s c) q = portOf s q := by
  unfold narrow
  dsimp only
  refine ⟨?_, ?_, rfl, fun q hq => ?_⟩
  · rw [portOf_spend, portOf_onPort]
  · rw [portOf_spend, portOf_onPort]
  · rw [portOf_spend, portOf_onPort_ne _ _ _ _ hq]

/-- Settles O25, by what a retrain's start and the power states make of a port. -/
theorem portsRetrainNarrowAndSleep : Obligations.PortsRetrainNarrowAndSleep := by
  unfold Obligations.PortsRetrainNarrowAndSleep
  refine ⟨fun s c hc => ⟨fun hf => ?_, fun up hr => ?_, fun lanes h6 hl => ?_, fun h6 hf => ?_⟩,
    fun s c hc => ⟨fun up hn hl hr ht => ?_, fun up hl hk hrt hr ht => ?_, fun h8 hn => ?_⟩⟩
  · obtain ⟨port, count, stores, cores⟩ := startRetrain_spec hf
    refine ⟨_, exec_next_of_eq rfl (by simp [Instr.wf, portOk, hc]) rfl, ?_, ?_, ?_, count, stores, cores⟩
    all_goals rw [port, retrainingPort]
  · have unfenced : (portOf s c).pstate ≠ 9 := by
      simp only [portUp, Bool.and_eq_true, decide_eq_true_eq] at up
      omega
    obtain ⟨port, -, stores, cores⟩ := startRetrain_spec unfenced
    refine ⟨_, exec_next_of_eq rfl (by simp [Instr.wf, portOk, hc]) (when_of_true (by simp [up, hr])), ?_, ?_, stores, cores⟩
    all_goals rw [port, retrainingPort]
  · have acts : retrainComplete s c lanes = spend (onPort s c fun q =>
        { q with pstate := 7, fails := 0, lanes := lanes, dres := 0, nonce := (freeAt s 0 ++ freeAt s 1).cast rfl, echo := 0
                 verified := false, seenMe := false, hellos := [], plan := planOf s c }) 2 := by
      rw [retrainComplete]
      exact (if_neg (by simp [h6])).trans (if_neg hl)
    refine ⟨_, exec_next_of_eq rfl (by simp [Instr.wf, portOk, hc]) acts, ?_, ?_, ?_, rfl, fun q hq => ?_⟩
    · rw [portOf_spend, portOf_onPort]
    · rw [portOf_spend, portOf_onPort]
    · rw [portOf_spend, portOf_onPort]
    · rw [portOf_spend, portOf_onPort_ne _ _ _ _ hq]
  · have acts : retrainComplete s c 0 = onPort s c fun q =>
        { q with pstate := if 2 ≤ q.fails then 0 else 6, fails := q.fails + 1, lanes := 0 } := by
      rw [retrainComplete]
      exact (if_neg (by simp [h6])).trans (if_pos rfl)
    refine ⟨_, exec_next_of_eq rfl (by simp [Instr.wf, portOk, hc]) acts, ?_, rfl, fun q hq => portOf_onPort_ne _ _ _ _ hq⟩
    rw [portOf_onPort]
    exact if_pos (Nat.le_of_eq hf.symm)
  · exact ⟨_, exec_next_of_eq rfl (by simp [Instr.wf, portOk, hc]) (when_of_true (by simp [up, hn, hl, hr, ht])), narrow_spec s c⟩
  · refine ⟨_, exec_next_of_eq rfl (by simp [Instr.wf, portOk, hc]) (when_of_true (by simp [up, hl, hk, hrt, hr, ht])), ?_, rfl,
      fun q hq => portOf_onPort_ne _ _ _ _ hq⟩
    rw [portOf_onPort]
  · have wakes : portOf (wakePort s c) c = { portOf s c with pstate := laneCount (portOf s c).lanes } := by
      rw [wakePort, portOf_onPort]
      exact (if_neg (by simp [hn])).trans (if_pos h8)
    refine ⟨_, exec_next_of_eq rfl (by simp [Instr.wf, portOk, hc]) rfl, ?_, ?_, rfl, fun q hq => portOf_onPort_ne _ _ _ _ hq⟩
    · rw [wakes]
    · rw [wakes]

/-- The lanes that a port lost are charged (Table 14-2). -/
theorem chargeLanes_chargeOnly (l : List Nat) (s : State) (c : Nat) :
    view chargeOnly (l.foldl (fun t i => charge t 0x0B 6 (c * 4 + i)) s) = view chargeOnly s :=
  view_foldl _ _ fun _ _ => charge_chargeOnly ..

/-- Settles O26, by the port that hemming changes, and by the deadlines that a HOLD does. -/
theorem portsHemAndHold : Obligations.PortsHemAndHold := by
  unfold Obligations.PortsHemAndHold
  refine ⟨fun s c hc => ⟨fun lost up hn hg hl hh => ?_, fun kept h5 hk => ?_⟩, fun s m hm ht hd => ?_⟩
  · have acts : hem s c lost = onPort (autoClear s c) c fun q => { q with pstate := 5 } := by
      rw [hem]
      refine (if_neg (by simpa [up, hn] using hg)).trans ((if_neg (by simp [hl])).trans ?_)
      rw [hh]
      rfl
    have cleared := autoClear_fabricOnly s c
    refine ⟨_, exec_next_of_eq rfl (by simp [Instr.wf, portOk, hc]) acts, ?_, ?_, ?_, (parts_of_view cleared rfl).trans rfl,
      (out_of_view cleared rfl).trans rfl, fun q hq => ?_⟩
    · rw [portOf_onPort]
    · rw [portOf_onPort, portOf_autoClear]
    · rw [portOf_onPort, portOf_autoClear]
    · rw [portOf_onPort_ne _ _ _ _ hq, portOf_autoClear]
  · have acts : hemComplete s c kept = onPort
        (((List.range 4).filter fun i => bit (portOf s c).lanes i && !bit (kept &&& (portOf s c).lanes) i).foldl
          (fun t i => charge t 0x0B 6 (c * 4 + i)) s) c fun q =>
        { q with pstate := laneCount (kept &&& (portOf s c).lanes), lanes := kept &&& (portOf s c).lanes, resend := q.replay
                 ackOut := true, lctl := true } := by
      rw [hemComplete]
      exact (if_neg (by simp [h5])).trans (if_neg hk)
    have charged := fun k => portOf_of_view (chargeLanes_chargeOnly
      ((List.range 4).filter fun i => bit (portOf s c).lanes i && !bit (kept &&& (portOf s c).lanes) i) s c) rfl k
    refine ⟨_, exec_next_of_eq rfl (by simp [Instr.wf, portOk, hc]) acts, ?_, ?_, ?_, ?_, fun q hq => ?_⟩
    · rw [portOf_onPort]
    · rw [portOf_onPort]
    · rw [portOf_onPort, charged]
    · rw [portOf_onPort, charged]
    · rw [portOf_onPort_ne _ _ _ _ hq, charged]
  · have acts : hold s m = { takeInbox s m with fabric := { (takeInbox s m).fabric with
        reqs := (takeInbox s m).fabric.reqs.map fun r => if r.extended || r.timedOut then r
          else { r with deadline := r.deadline + 64, extended := true } } } := by
      rw [hold]
      exact if_pos ⟨ht, hd⟩
    refine ⟨_, exec_next_of_eq rfl hm acts, List.map_congr_left fun r _ => ?_, rfl, rfl, rfl, rfl, rfl⟩
    cases r.extended <;> cases r.timedOut <;> rfl

/-! ### Discovery and the route tables (R198 to R203) -/

/-- The active bank and the domain banks of the route tables stand. -/
structure SameBanks (s t : State) : Prop where
  abank : t.fabric.abank = s.fabric.abank
  doms0 : t.fabric.doms0 = s.fabric.doms0
  doms1 : t.fabric.doms1 = s.fabric.doms1

theorem sameBanks_setRoute (s : State) (bank : Bool) (i : Nat) (w : BitVec 32) : SameBanks s (setRoute s bank i w) := by
  unfold setRoute
  dsimp only
  split
  · exact ⟨rfl, rfl, rfl⟩
  · exact ⟨rfl, rfl, rfl⟩

theorem sameBanks_autoSet (s : State) (c : Nat) (dev : DevId) : SameBanks s (autoSet s c dev) := by
  unfold autoSet
  dsimp only
  split
  · exact sameBanks_setRoute ..
  · exact ⟨rfl, rfl, rfl⟩

theorem sameBanks_foldl {α : Type} {f : State → α → State} (l : List α) (s : State) (keep : ∀ t e, SameBanks t (f t e)) :
    SameBanks s (l.foldl f s) :=
  List.foldlRecOn (motive := fun t => SameBanks s t) _ _ ⟨rfl, rfl, rfl⟩ fun t ht e _ => by
    obtain ⟨a, d, e⟩ := keep t e
    exact ⟨a.trans ht.abank, d.trans ht.doms0, e.trans ht.doms1⟩

/-- RT_SWAP changes the active bank and no domain (R203). -/
theorem rtSwap_banks (s : State) : (rtSwap s).fabric.abank = !s.fabric.abank ∧ (rtSwap s).fabric.doms0 = s.fabric.doms0 ∧
    (rtSwap s).fabric.doms1 = s.fabric.doms1 := by
  have cleared := sameBanks_foldl
    ((if s.fabric.abank then s.fabric.routes1 else s.fabric.routes0).filter fun e => bit e.2 1) s fun t e =>
      sameBanks_setRoute t s.fabric.abank e.1 0
  have woken (l : List Nat) (t : State) := sameBanks_foldl l t fun u c => (⟨rfl, rfl, rfl⟩ : SameBanks u (wakePort u c))
  have set (l : List Nat) (t : State) := sameBanks_foldl l t fun u c =>
    sameBanks_autoSet u c (BitVec.ofNat 18 (fld (portOf u c).peer 17 0))
  unfold rtSwap
  dsimp only
  rw [(set _ _).abank, (set _ _).doms0, (set _ _).doms1, (woken _ _).abank, (woken _ _).doms0, (woken _ _).doms1]
  exact ⟨rfl, cleared.doms0, cleared.doms1⟩

theorem rtSwap_fabricOnly (s : State) : view fabricOnly (rtSwap s) = view fabricOnly s := rtSwap_view _ rfl

theorem portOf_autoSet (s : State) (c : Nat) (dev : DevId) (k : Nat) : portOf (autoSet s c dev) k = portOf s k := by
  unfold autoSet
  dsimp only
  split
  · rw [portOf, (fabric_setRoute _ _ _ _).1, portOf]
  · rfl

theorem eventRecord_notesOnly (s : State) (cls ut idx flg det : Nat) :
    view notesOnly (eventRecord s cls ut idx flg det) = view notesOnly s := eventRecord_view _ _ _ _ _ _ rfl rfl

/-- A port as the outcome of its discovery leaves it (R201). -/
def discovered (q : Port) (out : Nat) (same : Bool) : Port :=
  { q with
    pstate := if out = Dres.match_ then laneCount q.lanes else if out = Dres.unplanned then 7 else 10
    dres := out, lastOut := out, resend := if same then q.replay else q.resend }

/-- The outcome as it is recorded, before it is reported. -/
def outcomeNoted (s : State) (c out : Nat) (peer : Word) : State :=
  if out = Dres.match_ then autoSet s c (BitVec.ofNat 18 (fld peer 17 0)) else charge s 0x0D 7 c

theorem portOf_outcomeNoted (s : State) (c out : Nat) (peer : Word) (k : Nat) :
    portOf (outcomeNoted s c out peer) k = portOf s k := by
  unfold outcomeNoted
  split
  · exact portOf_autoSet ..
  · exact portOf_of_view (charge_chargeOnly ..) rfl k

theorem recordOutcome_eq (s : State) (c out : Nat) :
    let q := portOf s c
    let same := out == Dres.match_ && (q.prevPeer == some q.peer)
    let s1 := if same || (q.prevPeer = none && q.replay = []) then s else discardReplay s c
    let st := if out = Dres.match_ then laneCount q.lanes else if out = Dres.unplanned then 7 else 10
    let s3 := outcomeNoted (onPort s1 c fun q =>
      { q with pstate := st, dres := out, lastOut := out, resend := if same then q.replay else q.resend }) c out q.peer
    recordOutcome s c out = if reports q out then eventRecord s3 0x0D 7 c 1 out else s3 := rfl

theorem portOf_reported (s : State) (b : Bool) (c out k : Nat) :
    portOf (if b then eventRecord s 0x0D 7 c 1 out else s) k = portOf s k := by
  split
  · exact portOf_of_view (eventRecord_notesOnly ..) rfl k
  · rfl

/-- Without a former neighbour and with nothing to replay the link does not start afresh. -/
theorem recordOutcome_first {s : State} {c : Nat} (out : Nat) (hp : (portOf s c).prevPeer = none)
    (hr : (portOf s c).replay = []) :
    (∀ k, portOf (recordOutcome s c out) k =
      portOf (onPort s c fun _ => discovered (portOf s c) out false) k) ∧
    (out = Dres.match_ → (recordOutcome s c out).parts = s.parts) := by
  have notSame : (out == Dres.match_ && (none == some (portOf s c).peer)) = false := by
    rw [Bool.and_eq_false_iff]
    exact .inr rfl
  have nothing : (false || decide ((none : Option Word) = none) && decide ((portOf s c).replay = [])) = true := by simp [hr]
  rw [recordOutcome_eq, hp, notSame, nothing, if_pos rfl]
  refine ⟨fun k => ?_, fun ho => ?_⟩
  · rw [portOf_reported, portOf_outcomeNoted]
    by_cases hk : k = c
    · rw [hk, portOf_onPort, portOf_onPort]
      rfl
    · rw [portOf_onPort_ne _ _ _ _ hk, portOf_onPort_ne _ _ _ _ hk]
  · have noted (t : State) (peer : Word) : (outcomeNoted t c out peer).parts = t.parts := by
      rw [outcomeNoted, if_pos ho]
      exact parts_of_view (F := fabricOnly) (autoSet_view _ _ _ rfl) rfl
    split
    · exact (parts_of_view (eventRecord_notesOnly ..) rfl).trans (noted _ _)
    · exact noted _ _

/-- The state of a port after any outcome (R201, R202). -/
theorem recordOutcome_state (s : State) (c : Nat) {out : Nat} (h1 : out ≠ Dres.match_) (h3 : out ≠ Dres.unplanned) :
    (portOf (recordOutcome s c out) c).dres = out ∧ (portOf (recordOutcome s c out) c).pstate = 10 := by
  rw [recordOutcome_eq, portOf_reported, portOf_outcomeNoted, portOf_onPort, if_neg h1, if_neg h3]
  exact ⟨rfl, rfl⟩

/-- What the outcome of discovery may touch. -/
@[reducible] def recordingOutcome : Field → Bool
  | .out | .parts | .fabric | .rel | .mregs | .regs _ | .vec _ => true
  | _ => false

/-- A port that has verified a HELLO (R199). -/
def heard (q : Port) (h : Hello) (out : Nat) : Port :=
  { q with
    echo := h.nonce
    verified := q.verified || (out != Dres.badsig)
    seenMe := q.seenMe || (h.seen && h.echo == q.nonce)
    peer := if (out != Dres.badsig) = true then peerWord h else q.peer }

theorem takeHello_discovering {s : State} {c : Nat} (h : Hello) (h7 : (portOf s c).pstate = 7) (hd : (portOf s c).dres = 0) :
    takeHello s c h = recordOutcome (onPort s c fun q => heard q h (outcomeOf s c h)) c (outcomeOf s c h) := by
  rw [takeHello]
  refine if_pos (.inr ⟨h7, ?_⟩)
  rw [hd]
  decide

theorem hello_taken {s : State} {c : Nat} {m : Msg} {h : Hello} (h7 : (portOf s c).pstate = 7) (hh : portsHeld s = false)
    (hhello : isHello m = true) (he : m.enc = false) (hparse : parseHello m.payload = some h) (hlen : m.len = m.payload.length) :
    hello s c m = takeHello (takeInbox s m) c h := by
  rw [hello]
  refine (if_neg (by simp [hh, helloing, h7, hhello])).trans ((if_neg (by simp [he])).trans ?_)
  rw [hparse]
  exact if_pos hlen

/-- What a message of a port touches as it is queued. -/
@[reducible] def queueing : Field → Bool
  | .freeIx | .fabric => true
  | _ => false

/-- The message that HELLO_SEND queues (R198, R199). -/
def helloMsg (s : State) (c : Nat) (b : List Byte) : Msg :=
  { blankMsg Mt.mgmt 0 (BitVec.ofNat 18 (freeAt s 0).toNat) 0 with
    src := ownId s, srcDie := ioDieOf c == 1, ctr := ctrOf s (ioDieOf c == 1), len := b.length, payload := b }

theorem helloSend_queued {s : State} {c : Nat} {b : List Byte} (hb : helloPayload s c = some b) :
    helloSend s c = onPort (newMid (countMsg (spend s 1) (ioDieOf c == 1))) c fun q =>
      { q with hellos := q.hellos ++ flitsOf (s.fabric.nextMid + 1) 3 false (msgBytes (helloMsg s c b)) } := by
  rw [helloSend, hb]
  rfl

theorem portOf_countMsg (s : State) (die : Bool) (k : Nat) : portOf (newMid (countMsg s die)) k = portOf s k := by
  cases die
  · rfl
  · rfl

/-- Settles O31, by what a HELLO queues, by the outcome that discovery records, and by the bank that a swap changes. -/
theorem discoveryAndSwap : Obligations.DiscoveryAndSwap := by
  unfold Obligations.DiscoveryAndSwap
  refine ⟨fun s c b hc h7 hh hb => ?_, fun s c m h hc hm h7 hd hp hr hh hhello he hparse hlen => ?_, fun s c hc h7 hd => ?_, fun s => ?_⟩
  · have kept : view queueing (helloSend s c) = view queueing s := helloSend_view _ _ rfl rfl
    refine ⟨_, helloMsg s c b, s.fabric.nextMid + 1,
      exec_next_of_eq rfl (by simp [Instr.wf, portOk, hc]) (when_of_true (by simp [helloing, h7, hh])), ?_, rfl, rfl, rfl, rfl, rfl, rfl,
      parts_of_view kept rfl, stores_of_view kept rfl, cores_of_view kept rfl, out_of_view kept rfl⟩
    rw [helloSend_queued hb, portOf_onPort, portOf_countMsg, portOf_spend]
  · have acts : hello s c m =
        recordOutcome (onPort (takeInbox s m) c fun q => heard q h (outcomeOf s c h)) c (outcomeOf s c h) :=
      (hello_taken h7 hh hhello he hparse hlen).trans (takeHello_discovering (s := takeInbox s m) h h7 hd)
    obtain ⟨ports, parts⟩ := recordOutcome_first (s := onPort (takeInbox s m) c fun q => heard q h (outcomeOf s c h))
      (outcomeOf s c h) (by rw [portOf_onPort]; exact hp) (by rw [portOf_onPort]; exact hr)
    refine ⟨_, exec_next_of_eq rfl (by simp [Instr.wf, portOk, hc, hm]) acts, ?_, ?_, fun ho => ⟨?_, ?_, ?_, ?_, fun q hq => ?_⟩⟩
    · rw [ports, portOf_onPort, portOf_onPort]
      rfl
    · rw [ports, portOf_onPort, portOf_onPort]
      rfl
    · rw [ports, portOf_onPort, portOf_onPort]
      exact if_pos ho
    · rw [ports, portOf_onPort, portOf_onPort, ho]
      exact Bool.or_true _
    · rw [ports, portOf_onPort, portOf_onPort, ho]
      rfl
    · exact (parts ho).trans rfl
    · rw [ports, portOf_onPort_ne _ _ _ _ hq, portOf_onPort_ne _ _ _ _ hq]
      rfl
  · obtain ⟨dres, state⟩ := recordOutcome_state s c (out := Dres.absent) (by decide) (by decide)
    have kept : view recordingOutcome (recordOutcome s c Dres.absent) = view recordingOutcome s := by
      simp only [recordOutcome_view, implies_true]
    exact ⟨_, exec_next_of_eq rfl (by simp [Instr.wf, portOk, hc]) (when_of_true (by simp [h7, hd])), dres, state,
      stores_of_view kept rfl, cores_of_view kept rfl⟩
  · obtain ⟨bank, doms0, doms1⟩ := rtSwap_banks s
    have hv := rtSwap_fabricOnly s
    exact ⟨_, exec_next_of_eq rfl rfl rfl, bank, doms0, doms1, parts_of_view hv rfl, stores_of_view hv rfl, cores_of_view hv rfl⟩

end Sys2Proof.Proofs
end

section
/-! Proofs about contexts: doorbell commands, start, save, restore and end. -/

namespace Sys2Proof.Proofs

open Sys2Proof.Machine Sys2Proof.Safety Sys2Proof.Laws

/-! ### What a command of a context may change (R231) -/

/-- Of partition `p` no register differs but the state and the fault record of context `c`, and no byte; no other partition
and no store differs. -/
structure ContextOnly (p c : Nat) (s t : State) : Prop where
  others : ∀ q, q ≠ p → partOf t q = partOf s q
  regs : ∀ a, a ≠ R.cxStat c → a ≠ R.cxFault c → (partOf t p).reg a = (partOf s p).reg a
  mem : (partOf t p).mem = (partOf s p).mem
  stores : t.stores = s.stores

theorem contextOnly_of_parts {p c : Nat} {s t : State} (hparts : t.parts = s.parts) (hstores : t.stores = s.stores) :
    ContextOnly p c s t := by
  have same (q : Nat) : partOf t q = partOf s q := by rw [partOf, hparts, partOf]
  exact ⟨fun q _ => same q, fun a _ _ => by rw [same], by rw [same], hstores⟩

theorem contextOnly_trans {p c : Nat} {s t u : State} (h : ContextOnly p c s t) (h' : ContextOnly p c t u) :
    ContextOnly p c s u :=
  ⟨fun q hq => (h'.others q hq).trans (h.others q hq), fun a h1 h2 => (h'.regs a h1 h2).trans (h.regs a h1 h2),
    h'.mem.trans h.mem, h'.stores.trans h.stores⟩

theorem contextOnly_onPart (s : State) (p c : Nat) (f : Partition → Partition)
    (hreg : ∀ x a, a ≠ R.cxStat c → a ≠ R.cxFault c → (f x).reg a = x.reg a) (hmem : ∀ x, (f x).mem = x.mem) :
    ContextOnly p c s (onPart s p f) :=
  ⟨fun q hq => partOf_onPart_ne s p q f hq, fun a h1 h2 => by rw [partOf_onPart]; exact hreg _ a h1 h2,
    by rw [partOf_onPart]; exact hmem _, rfl⟩

theorem contextOnly_onCtx (s : State) (p c : Nat) (f : Ctx → Ctx) : ContextOnly p c s (onCtx s p c f) :=
  contextOnly_onPart s p c _ (fun _ _ _ _ => rfl) fun _ => rfl

theorem contextOnly_putStat (s : State) (p c hi lo v : Nat) : ContextOnly p c s (putReg s p (R.cxStat c) hi lo v) :=
  contextOnly_onPart s p c _ (fun x _ h _ => Partition_reg_setReg_ne x _ _ _ h) fun _ => rfl

theorem contextOnly_ctxVector (s : State) (p c : Nat) : ContextOnly p c s (ctxVector s p c) :=
  contextOnly_trans (contextOnly_onPart s p c (fun x => { x with msix := setFld x.msix (16 + c % 48) (16 + c % 48) 1 })
    (fun _ _ _ _ => rfl) fun _ => rfl) (contextOnly_of_parts rfl rfl)

theorem contextOnly_lstat (s : State) (p c code : Nat) : ContextOnly p c s (lstat s p c code) :=
  contextOnly_trans (contextOnly_putStat s p c 15 8 code) (contextOnly_ctxVector _ p c)

theorem contextOnly_onCores (s : State) (p c : Nat) (l : List Nat) (f : Core → Core) :
    ContextOnly p c s (l.foldl (fun t g => onCore t g f) s) :=
  List.foldlRecOn (motive := fun t => ContextOnly p c s t) _ _ (contextOnly_of_parts rfl rfl) fun _ ht _ _ =>
    contextOnly_trans ht (contextOnly_of_parts rfl rfl)

theorem contextOnly_holdClusters (s : State) (p c : Nat) (on : Bool) : ContextOnly p c s (holdClusters s p c on) :=
  List.foldlRecOn (motive := fun t => ContextOnly p c s t) _ _ (contextOnly_of_parts rfl rfl) fun _ ht _ _ =>
    contextOnly_trans ht (contextOnly_of_parts rfl rfl)

/-- The state of another context is in another register. -/
theorem cstate_of_contextOnly {p c : Nat} {s t : State} (h : ContextOnly p c s t) {d : Nat} (hd : d ≠ c) :
    cstate t p d = cstate s p d := by
  have hs : R.cxStat d ≠ R.cxStat c := by simp [R.cxStat, hd]
  have hf : R.cxStat d ≠ R.cxFault c := by unfold R.cxStat R.cxFault; omega
  rw [cstate, reg, Partition.get, h.regs _ hs hf, cstate, reg, Partition.get]

/-! ### The state of a context -/

theorem cstate_lstat (s : State) (p c code : Nat) : cstate (lstat s p c code) p c = cstate s p c := by
  rw [cstate, lstat, reg_ctxVector, reg_putReg_fld _ _ _ _ _ _ _ _ (by decide) (by decide), cstate]

theorem lstat_code (s : State) (p c code : Nat) (h : code < 256) : reg (lstat s p c code) p (R.cxStat c) 15 8 = code := by
  rw [lstat, reg_ctxVector, reg_putReg _ _ _ _ _ _ (by decide) (by decide)]
  exact Nat.mod_eq_of_lt h

theorem cstate_onCtx (s : State) (p c : Nat) (f : Ctx → Ctx) : cstate (onCtx s p c f) p c = cstate s p c :=
  reg_onCtx ..

theorem ctxClusters_setReg (x : Partition) {a c : Nat} (w : Word) (h : R.cxClus c ≠ a) :
    ctxClusters (x.setReg a w) c = ctxClusters x c := by
  have hc : (x.setReg a w).reg (R.cxClus c) = x.reg (R.cxClus c) := Partition_reg_setReg_ne x _ _ _ h
  simp only [ctxClusters, Partition.get, hc]
  rfl

/-! ### The cores and the clusters of a context -/

theorem coreOf_onCores_other (s : State) {g : Nat} {l : List Nat} (hg : g ∉ l) (f : Core → Core) :
    coreOf (l.foldl (fun t g => onCore t g f) s) g = coreOf s g :=
  List.foldlRecOn (motive := fun t => coreOf t g = coreOf s g) _ _ rfl fun t ht k hk => by
    rwa [coreOf_onCore_ne t k g f fun e => hg (e ▸ hk)]

/-- What a change makes of any core it makes of every core that it is done to, however often. -/
theorem coreOf_onCores_made (s : State) {g : Nat} {l : List Nat} (hg : g ∈ l) (f : Core → Core) {P : Core → Prop}
    (make : ∀ k, P (f k)) : P (coreOf (l.foldl (fun t g => onCore t g f) s) g) := by
  refine foldl_of_mem (P := fun t => P (coreOf t g)) hg (fun t => ?_) (fun t k ht => ?_) s
  · rw [coreOf_onCore]; exact make _
  · by_cases h : g = k
    · subst h; rw [coreOf_onCore]; exact make _
    · rwa [coreOf_onCore_ne t k g f h]

theorem sameRegisters_trans {k q r : Core} (h : sameRegisters k q) (h' : sameRegisters q r) : sameRegisters k r := by
  obtain ⟨a1, a2, a3, a4, a5, a6, a7, a8⟩ := h
  obtain ⟨b1, b2, b3, b4, b5, b6, b7, b8⟩ := h'
  exact ⟨b1.trans a1, b2.trans a2, b3.trans a3, b4.trans a4, b5.trans a5, b6.trans a6, b7.trans a7, b8.trans a8⟩

theorem sameRegisters_onCores (s : State) (l : List Nat) (f : Core → Core) (hf : ∀ k, sameRegisters k (f k)) (g : Nat) :
    sameRegisters (coreOf s g) (coreOf (l.foldl (fun t g => onCore t g f) s) g) :=
  List.foldlRecOn (motive := fun t => sameRegisters (coreOf s g) (coreOf t g)) _ _
    ⟨rfl, rfl, rfl, rfl, rfl, rfl, rfl, rfl⟩ fun t ht k _ => by
      by_cases h : g = k
      · subst h; rw [coreOf_onCore]; exact sameRegisters_trans ht (hf _)
      · rwa [coreOf_onCore_ne t k g f h]

/-- A cluster as `holdClusters` leaves it. -/
def heldCluster (p c : Nat) (on : Bool) (now i : Nat) (q : Cluster) : Cluster :=
  { q with
    holder := if on then some ⟨p, c, i⟩ else none, power := if on then 0 else q.power
    since := if on then now else 0 }

theorem holdClusters_eq (s : State) (p c : Nat) (on : Bool) : holdClusters s p c on =
    (ctxClusters (partOf s p) c).zipIdx.foldl (fun t e => onClus t e.1 (heldCluster p c on (sget 0 s.dieCtr 4).toNat e.2)) s :=
  rfl

theorem clusOf_holdClusters_other (s : State) {p c h : Nat} (on : Bool) (hh : h ∉ ctxClusters (partOf s p) c) :
    clusOf (holdClusters s p c on) h = clusOf s h := by
  rw [holdClusters_eq]
  refine List.foldlRecOn (motive := fun t => clusOf t h = clusOf s h) _ _ rfl fun t ht e he => ?_
  have hm : e.1 ∈ ctxClusters (partOf s p) c := List.fst_mem_of_mem_zipIdx he
  rwa [clusOf_onClus_ne t e.1 h _ fun e' => hh (e' ▸ hm)]

/-- What `holdClusters` makes of any cluster it makes of every cluster of the context. -/
theorem clusOf_holdClusters_made (s : State) {p c h : Nat} (on : Bool) (hh : h ∈ ctxClusters (partOf s p) c)
    {P : Cluster → Prop} (make : ∀ i q, P (heldCluster p c on (sget 0 s.dieCtr 4).toNat i q)) :
    P (clusOf (holdClusters s p c on) h) := by
  obtain ⟨i, hi⟩ : ∃ i, (h, i) ∈ (ctxClusters (partOf s p) c).zipIdx := by
    simpa [List.mem_zipIdx_iff_getElem?] using List.mem_iff_getElem?.1 hh
  rw [holdClusters_eq]
  refine foldl_of_mem (P := fun t => P (clusOf t h)) hi (fun t => ?_) (fun t e ht => ?_) s
  · rw [clusOf_onClus]; exact make _ _
  · by_cases he : h = e.1
    · subst he; rw [clusOf_onClus]; exact make _ _
    · rwa [clusOf_onClus_ne t e.1 h _ he]

/-- The clusters of a context that takes them. -/
theorem clusOf_holdClusters_held (s : State) {p c h : Nat} (hh : h ∈ ctxClusters (partOf s p) c) :
    (clusOf (holdClusters s p c true) h).holder.map (fun k => (k.part, k.ctx)) = some (p, c) :=
  clusOf_holdClusters_made s true hh (P := fun q => q.holder.map (fun k => (k.part, k.ctx)) = some (p, c)) fun _ _ => rfl

/-! ### Doorbell commands (Tables 10-4, 10-5) -/

/-- A doorbell command of a LIVE partition for a context that is not starting. -/
theorem cxDoorbell_eq {s : State} {p c cmd : Nat} (hlive : (partOf s p).ptstate = 1) (hstart : (ctxOf s p c).starting = false)
    (hcmd : cmd ≠ 0) : cxDoorbell s p c cmd = cxCommand s p c cmd := by
  rw [cxDoorbell]
  exact (if_neg (by simp [hlive, hcmd])).trans (if_neg (by simp [hstart]))

/-- All but the clusters. -/
@[reducible] def noClusters : Field → Bool
  | .clusters => false
  | _ => true

/-- The clusters, and nothing else. -/
@[reducible] def clusterHolders : Field → Bool
  | .clusters => true
  | _ => false

/-- The cores, and all of the partitions. -/
@[reducible] def coresAndParts : Field → Bool
  | .cores | .parts | .part _ | .regs _ => true
  | _ => false

/-- START of a FREE context that passes its checks takes its clusters and is starting (R232). -/
theorem cxStart_spec {s : State} {p c : Nat} (hchecks : startChecks s p c = true)
    (hfree : clustersFree s (ctxClusters (partOf s p) c) = true) :
    (ctxOf (cxStart s p c) p c).starting = true ∧ reg (cxStart s p c) p (R.cxFault c) 63 0 = 0 ∧
    (∀ h ∈ ctxClusters (partOf s p) c, (clusOf (cxStart s p c) h).holder.map (fun k => (k.part, k.ctx)) = some (p, c)) ∧
    (∀ h, h ∉ ctxClusters (partOf s p) c → clusOf (cxStart s p c) h = clusOf s h) ∧
    (cxStart s p c).cores = s.cores ∧ ContextOnly p c s (cxStart s p c) := by
  let cleared := onPart (forgetKernels s (ctxClusters (partOf s p) c)) p fun x =>
    (x.setReg (R.cxFault c) 0).put (R.cxStat c) 31 16 0
  have heq : cxStart s p c = onCtx (holdClusters cleared p c true) p c fun y => { y with starting := true } := by
    rw [cxStart]
    exact (if_neg (by simp [hchecks])).trans (if_neg (by simp [hfree]))
  have hc : ContextOnly p c s cleared := contextOnly_trans (t := forgetKernels s (ctxClusters (partOf s p) c))
    (contextOnly_of_parts rfl rfl) (contextOnly_onPart _ p c _ (fun x a h1 h2 => (Partition_reg_setReg_ne _ _ _ _ h1).trans
      (Partition_reg_setReg_ne x _ _ _ h2)) fun _ => rfl)
  have hcl : ctxClusters (partOf cleared p) c = ctxClusters (partOf s p) c := by
    refine (congrArg (ctxClusters · c) (partOf_onPart _ p _)).trans ?_
    exact (ctxClusters_setReg _ _ (by simp [R.cxClus, R.cxStat])).trans
      (ctxClusters_setReg (partOf s p) 0 (by simp [R.cxClus, R.cxFault]))
  have held : view clusterHolders (holdClusters cleared p c true) = view clusterHolders cleared := holdClusters_view _ _ _ _ rfl
  rw [heq]
  refine ⟨by rw [ctxOf_onCtx], ?_, fun h hh => ?_, fun h hh => ?_, ?_, ?_⟩
  · rw [reg_onCtx, reg, part_of_view (fun x => x.get (R.cxFault c) 63 0) held fun _ => rfl, partOf_onPart,
      Partition_get_put_ne _ _ _ _ _ _ _ _ (by simp [R.cxFault, R.cxStat]), Partition.get, Partition_reg_setReg]
    rfl
  · rw [clusOf_onCtx]
    exact clusOf_holdClusters_held cleared (hcl ▸ hh)
  · rw [clusOf_onCtx, clusOf_holdClusters_other _ _ (hcl ▸ hh)]
    rfl
  · exact (cores_of_view held rfl).trans rfl
  · exact contextOnly_trans (contextOnly_trans hc (contextOnly_holdClusters ..)) (contextOnly_onCtx ..)

/-- A core that PREEMPT asks for a safe point; one that waits or has stopped is at one (R236). -/
def askedForSafePoint (k : Core) : Core :=
  { k with
    preReq := true
    atSafe := match k.run with
      | .halted | .stopped => true
      | .waiting ws => ws.all Wait.safe
      | _ => false }

theorem cxPreempt_eq (s : State) (p c : Nat) : cxPreempt s p c =
    setCstate ((ctxCores (partOf s p) c).foldl (fun t g => onCore t g askedForSafePoint)
      (onCtx s p c fun y => { y with stopReq := cstate s p c == Cs.stopped })) p c Cs.preempting := rfl

/-- PREEMPT asks every core of the context for a safe point (R236). -/
theorem cxPreempt_spec (s : State) (p c : Nat) :
    cstate (cxPreempt s p c) p c = Cs.preempting ∧
    (∀ g ∈ ctxCores (partOf s p) c, (coreOf (cxPreempt s p c) g).preReq = true ∧
      sameRegisters (coreOf s g) (coreOf (cxPreempt s p c) g)) ∧
    (∀ g, g ∉ ctxCores (partOf s p) c → coreOf (cxPreempt s p c) g = coreOf s g) ∧
    ContextOnly p c s (cxPreempt s p c) := by
  rw [cxPreempt_eq]
  refine ⟨cstate_setCstate _ _ _ _ (by decide), fun g hg => ⟨?_, ?_⟩, fun g hg => ?_, ?_⟩
  · rw [coreOf_setCstate]
    exact coreOf_onCores_made (P := fun k => k.preReq = true) _ hg _ fun k => rfl
  · rw [coreOf_setCstate]
    exact sameRegisters_onCores (onCtx s p c _) _ askedForSafePoint (fun k => ⟨rfl, rfl, rfl, rfl, rfl, rfl, rfl, rfl⟩) g
  · rw [coreOf_setCstate, coreOf_onCores_other _ hg, coreOf_onCtx]
  · exact contextOnly_trans (contextOnly_trans (contextOnly_onCtx ..) (contextOnly_onCores ..)) (contextOnly_putStat ..)

/-- RESUME of a context whose clusters are free takes them (R237). -/
theorem cxResume_spec {s : State} {p c : Nat} (hfree : clustersFree s (ctxClusters (partOf s p) c) = true) :
    cstate (cxResume s p c) p c = Cs.resuming ∧
    (∀ h ∈ ctxClusters (partOf s p) c, (clusOf (cxResume s p c) h).holder.map (fun k => (k.part, k.ctx)) = some (p, c)) ∧
    (∀ h, h ∉ ctxClusters (partOf s p) c → clusOf (cxResume s p c) h = clusOf s h) ∧
    (cxResume s p c).cores = s.cores ∧ ContextOnly p c s (cxResume s p c) := by
  rw [cxResume, if_pos hfree]
  refine ⟨cstate_setCstate _ _ _ _ (by decide), fun h hh => ?_, fun h hh => ?_, ?_, ?_⟩
  · rw [clusOf_setCstate]
    exact clusOf_holdClusters_held s hh
  · rw [clusOf_setCstate, clusOf_holdClusters_other _ _ hh]
  · exact (cores_of_view (F := clusterHolders) (s := s) (t := holdClusters s p c true) (holdClusters_view s p c true rfl) rfl)
  · exact contextOnly_trans (contextOnly_holdClusters ..) (contextOnly_putStat ..)

/-- A core that RESTART finds stopped issues again, behind the bundle that trapped (R49). -/
def restarted (k : Core) : Core :=
  if k.run != .stopped then k
  else if k.skip && k.exc == BitVec.ofNat 8 Exc.trap then
    { k with run := .issuing, skip := false, pc := (k.pc + 1) % 32768 }
  else { k with run := .issuing }

theorem run_restarted (k : Core) : (restarted k).run ≠ .stopped := by
  rw [restarted]
  split
  · simp_all
  · split
    · exact RunState.noConfusion
    · exact RunState.noConfusion

theorem sameRegisters_restarted (k : Core) : sameRegisters k (restarted k) := by
  rw [restarted]
  split
  · exact ⟨rfl, rfl, rfl, rfl, rfl, rfl, rfl, rfl⟩
  · split
    · exact ⟨rfl, rfl, rfl, rfl, rfl, rfl, rfl, rfl⟩
    · exact ⟨rfl, rfl, rfl, rfl, rfl, rfl, rfl, rfl⟩

theorem cxRestart_eq (s : State) (p c : Nat) : cxRestart s p c =
    lstat (setCstate ((ctxCores (partOf s p) c).foldl (fun t g => onCore t g restarted) s) p c Cs.running) p c Status.ok :=
  rfl

/-- RESTART lets stopped cores issue. -/
theorem cxRestart_spec (s : State) (p c : Nat) :
    cstate (cxRestart s p c) p c = Cs.running ∧ reg (cxRestart s p c) p (R.cxStat c) 15 8 = Status.ok ∧
    (∀ g ∈ ctxCores (partOf s p) c, (coreOf (cxRestart s p c) g).run ≠ .stopped ∧
      sameRegisters (coreOf s g) (coreOf (cxRestart s p c) g)) ∧
    ContextOnly p c s (cxRestart s p c) := by
  rw [cxRestart_eq]
  refine ⟨?_, lstat_code _ _ _ _ (by decide), fun g hg => ⟨?_, ?_⟩, ?_⟩
  · rw [cstate_lstat, cstate_setCstate _ _ _ _ (by decide)]
  · rw [coreOf_lstat, coreOf_setCstate]
    exact coreOf_onCores_made (P := fun k => k.run ≠ .stopped) s hg _ run_restarted
  · rw [coreOf_lstat, coreOf_setCstate]
    exact sameRegisters_onCores s _ _ sameRegisters_restarted g
  · exact contextOnly_trans (contextOnly_trans (contextOnly_onCores ..) (contextOnly_putStat ..)) (contextOnly_lstat ..)

/-- A tear-down that begins changes registers of its context only. -/
theorem contextOnly_beginTeardown (s : State) (p c interrupted : Nat) (cause : Option Cause) :
    ContextOnly p c s (beginTeardown s p c interrupted cause) := by
  have told : ContextOnly p c s (if cstate s p c = Cs.preempting ∨ cstate s p c = Cs.resuming then
      lstat s p c interrupted else s) := by
    split
    · exact contextOnly_lstat ..
    · exact contextOnly_of_parts rfl rfl
  have left (t : State) : ContextOnly p c t (if cstate s p c = Cs.preempted then t
      else (ctxCores (partOf s p) c).foldl (fun t g => onCore t g Core.abandon) t) := by
    split
    · exact contextOnly_of_parts rfl rfl
    · exact contextOnly_onCores ..
  rw [beginTeardown]
  refine contextOnly_trans ?_ (contextOnly_putStat ..)
  refine contextOnly_trans ?_ (contextOnly_onPart _ p c _ (fun _ _ _ _ => rfl) fun _ => rfl)
  exact contextOnly_trans (contextOnly_trans told (left _)) (contextOnly_onCtx ..)

/-- ABORT of a context that runs, is saved or is between the two begins its tear-down without a cause (R241). -/
theorem cxAbort_spec {s : State} {p c : Nat} (hlive : cstate s p c ≠ Cs.free) (hteardown : cstate s p c ≠ Cs.teardown)
    (hhalted : cstate s p c ≠ Cs.halted) (hended : cstate s p c ≠ Cs.ended) :
    cstate (cxAbort s p c) p c = Cs.teardown ∧ (ctxOf (cxAbort s p c) p c).cause = none ∧
    (ctxOf (cxAbort s p c) p c).cmdRun = 5 ∧ ContextOnly p c s (cxAbort s p c) := by
  have heq : cxAbort s p c = onCtx (beginTeardown s p c Status.aborted none) p c fun y => { y with cmdRun := 5 } := by
    simp only [cxAbort, hteardown, hhalted, hended, hlive, or_self, if_false]
  rw [heq]
  refine ⟨?_, ?_, by rw [ctxOf_onCtx], ?_⟩
  · rw [cstate_onCtx, cstate_beginTeardown]
  · simp only [ctxOf_onCtx, cause_beginTeardown]
  · exact contextOnly_trans (contextOnly_beginTeardown ..) (contextOnly_onCtx ..)

/-- Settles O36, by what each doorbell command does in the state that it finds: its clusters and cores by what the fold over
them makes of each, everything else by what such a command leaves alone. -/
theorem contextCommands : Obligations.ContextCommands := by
  unfold Obligations.ContextCommands
  intro s p c hp hc hlive hstart st hs cores still held
  have hwf : ctxOk p c = true := by simp [ctxOk, hp, hc]
  have still_of {t : State} (h : ContextOnly p c s t) : still t :=
    ⟨h.others, fun d _ hd => cstate_of_contextOnly h hd, h.mem, h.stores⟩
  have does {cmd : Nat} (hcmd : cmd ≠ 0) : cxDoorbell s p c cmd = cxCommand s p c cmd := cxDoorbell_eq hlive hstart hcmd
  refine ⟨fun hst hchecks hfree => ?_, fun hst => ?_, fun hst hfree => ?_, fun hst => ?_, fun hst => ?_, fun hst => ?_,
    fun hst => ?_⟩
  · have acts : cxDoorbell s p c 1 = cxStart s p c := (does (by decide)).trans (if_pos hst)
    obtain ⟨hstarting, hfault, hheld, hrest, hcores, honly⟩ := cxStart_spec hchecks hfree
    exact ⟨_, exec_next_of_eq rfl hwf acts, hstarting, hfault, ⟨hheld, hrest⟩, hcores, still_of honly⟩
  · have acts : cxDoorbell s p c 2 = cxPreempt s p c := (does (by decide)).trans (if_pos hst)
    obtain ⟨hstate, hasked, hothers, honly⟩ := cxPreempt_spec s p c
    exact ⟨_, exec_next_of_eq rfl hwf acts, hstate, hasked, hothers,
      clusters_of_view (cxPreempt_view (F := coresAndParts) s p c rfl rfl rfl rfl) rfl,
      out_of_view (cxPreempt_view (F := coresAndParts) s p c rfl rfl rfl rfl) rfl, still_of honly⟩
  · have acts : cxDoorbell s p c 3 = cxResume s p c := (does (by decide)).trans (if_pos hst)
    obtain ⟨hstate, hheld, hrest, hcores, honly⟩ := cxResume_spec hfree
    exact ⟨_, exec_next_of_eq rfl hwf acts, hstate, ⟨hheld, hrest⟩, hcores, still_of honly⟩
  · have acts : cxDoorbell s p c 4 = cxRestart s p c := (does (by decide)).trans (if_pos hst)
    obtain ⟨hstate, hcode, hruns, honly⟩ := cxRestart_spec s p c
    exact ⟨_, exec_next_of_eq rfl hwf acts, hstate, hcode, hruns,
      clusters_of_view (cxRestart_view (F := noClusters) s p c rfl rfl rfl rfl rfl) rfl, still_of honly⟩
  · have acts : cxDoorbell s p c 5 = cxAbort s p c := does (by decide)
    have other (v : Nat) (h1 : v ≠ Cs.running) (h2 : v ≠ Cs.stopped) (h3 : v ≠ Cs.preempting) (h4 : v ≠ Cs.resuming)
        (h5 : v ≠ Cs.preempted) : cstate s p c ≠ v := by
      intro e
      have e' : st = v := e
      simp [e', h1, h2, h3, h4, h5] at hst
    obtain ⟨hstate, hcause, hcmd, honly⟩ := cxAbort_spec
      (other Cs.free (by decide) (by decide) (by decide) (by decide) (by decide))
      (other Cs.teardown (by decide) (by decide) (by decide) (by decide) (by decide))
      (other Cs.halted (by decide) (by decide) (by decide) (by decide) (by decide))
      (other Cs.ended (by decide) (by decide) (by decide) (by decide) (by decide))
    exact ⟨_, exec_next_of_eq rfl hwf acts, hstate, hcause, hcmd,
      clusters_of_view (cxAbort_view (F := noClusters) s p c rfl rfl rfl rfl rfl rfl) rfl, still_of honly⟩
  · have acts : cxDoorbell s p c 6 = lstat (setCstate s p c Cs.free) p c Status.ok :=
      (does (by decide)).trans (if_pos hst)
    refine ⟨_, exec_next_of_eq rfl hwf acts, ?_, lstat_code _ _ _ _ (by decide), rfl, rfl,
      still_of (contextOnly_trans (contextOnly_putStat ..) (contextOnly_lstat ..))⟩
    rw [cstate_lstat, cstate_setCstate _ _ _ _ (by decide)]
  · have acts : cxDoorbell s p c 1 = lstat s p c Status.busy := (does (by decide)).trans (if_neg hst)
    exact ⟨_, exec_next_of_eq rfl hwf acts, cstate_lstat .., lstat_code _ _ _ _ (by decide), rfl, rfl,
      still_of (contextOnly_lstat ..)⟩

/-! ### What the end of a Ringmaster leaves of the context table (R331) -/

theorem sameSettings_onRing (s : State) (p : Nat) (f : Ring → Ring) : SameSettings s (onRing s p f) := by
  refine sameSettings_of_bar0 _ _ _ ?_
  exact fun _ => rfl

theorem sameSettings_hostPut {s t : State} {p : Nat} {kind : HostKind} {a : Nat} {bs : List Byte} {poison : Bool}
    (h : hostPut s p kind a bs poison = some t) : SameSettings s t := by
  obtain ⟨l, _, rfl⟩ := Option.map_eq_some_iff.1 h
  refine sameSettings_trans (sameSettings_of_bar0 _ _ _ ?_) (sameSettings_of_view (emit_view _ _ rfl))
  exact fun _ => rfl

theorem sameSettings_carWrite (s : State) (p : Nat) (q : QReq) (a : Nat) (bs : List Byte) :
    SameSettings s (carWrite s p q a bs) := by
  unfold carWrite
  refine sameSettings_ite ?_ (sameSettings_devWrite ..)
  split
  · next t h => exact sameSettings_hostPut h
  · exact sameSettings_onRing ..

theorem sameSettings_carEnd (s : State) (p : Nat) (q : QReq) (fork len reason status : Nat) :
    SameSettings s (carEnd s p q fork len reason status) := by
  unfold carEnd carRecord
  exact sameSettings_trans (sameSettings_carWrite ..) (sameSettings_onRing ..)

theorem sameSettings_msix (s : State) (p v : Nat) : SameSettings s (msix s p v) :=
  sameSettings_of_view (msix_view s p v rfl rfl rfl)

theorem sameSettings_carFlush (s : State) (p : Nat) : SameSettings s (carFlush s p) := by
  unfold carFlush
  exact sameSettings_trans (sameSettings_trans (sameSettings_foldl _ _ fun t q => sameSettings_carWrite ..)
    (sameSettings_onRing ..)) (sameSettings_foldl _ _ fun t i => sameSettings_msix ..)

theorem reg_rmShow (x : Partition) {o : Nat} (hl : o < 0xA0000) (hh : o < 0x60000 ∨ 0x70000 ≤ o) : (rmShow x).reg o = x.reg o := by
  have hs : o ≠ R.rmStat := by simp only [R.rmStat]; omega
  have hp : o ≠ R.rmPages := by simp only [R.rmPages]; omega
  rw [rmShow, Partition.put, Partition_reg_setReg_ne _ _ _ _ hp, Partition.put, Partition_reg_setReg_ne _ _ _ _ hp,
    Partition.put, Partition_reg_setReg_ne _ _ _ _ hs]

theorem sameSettings_rmStatus (s : State) (p v : Nat) : SameSettings s (rmStatus s p v) := by
  unfold rmStatus
  exact sameSettings_ite (sameSettings_refl s)
    (sameSettings_trans (sameSettings_putReg _ _ _ _ _ _ (.inr (by decide))) (sameSettings_msix ..))

theorem sameSettings_rmStop (s : State) (p why : Nat) : SameSettings s (rmStop s p why) := by
  unfold rmStop
  refine sameSettings_ite (sameSettings_refl s) ?_
  refine sameSettings_trans ?_ (sameSettings_rmStatus ..)
  refine sameSettings_trans ?_ (sameSettings_onPart _ _ _ fun x o hl hh => ?_)
  · refine sameSettings_trans ?_ (sameSettings_carFlush ..)
    refine sameSettings_trans (sameSettings_foldl _ _ ?_)
      (sameSettings_foldl _ _ fun t q => sameSettings_foldl _ _ fun a f => sameSettings_carEnd ..)
    exact fun t e => sameSettings_carEnd ..
  · exact (reg_rmShow _ hl hh).trans rfl

theorem sameSettings_rmContextGone (s : State) (p c : Nat) : SameSettings s (rmContextGone s p c) :=
  sameSettings_ite (sameSettings_rmStop ..) (sameSettings_refl s)

/-! ### What a structure written in bolts leaves of the stores (R439) -/

theorem le_of_mem_cutRuns {unit_ fuel a n : Nat} {e : Nat × Nat × Nat} (h : e ∈ cutRuns unit_ fuel a n) : a ≤ e.1 := by
  induction fuel generalizing a n e with
  | zero => simp [cutRuns] at h
  | succ fuel ih =>
    rw [cutRuns] at h
    split at h
    · simp at h
    · rcases List.mem_cons.1 h with rfl | h
      · exact Nat.le_refl a
      · obtain ⟨e', he', rfl⟩ := List.mem_map.1 h
        exact (Nat.le_add_right a _).trans (ih (e := e') he')

/-- At and behind the bolt range there is nothing but bolts. -/
theorem pvKind_of_boltBase {x : Partition} {a : Nat} (h : boltBase ≤ a) : pvKind x a = .bolt ∨ pvKind x a = .outside := by
  have hb : 0x100000000 ≤ a := h
  rw [pvKind, if_neg (by omega), if_neg (by omega), if_neg (by omega), if_neg (by omega), if_neg (by omega)]
  split
  · exact .inl rfl
  · exact .inr rfl

theorem stores_devWriteRun_bolts (base : Bool) (s : State) (p : Nat) {a : Nat} (h : boltBase ≤ a) (bs : List Byte) :
    (devWriteRun base s p a bs).1.stores = s.stores := by
  rw [devWriteRun]
  rcases pvKind_of_boltBase (x := partOf s p) h with hk | hk
  · simp only [hk]
    split
    · rfl
    · split
      · next t ht =>
        exact stores_of_view (F := deviceRead p) (s := s) (t := t)
          (readyWrite_view ht rfl rfl rfl rfl rfl (fun _ => rfl) (beq_self_eq_true p)) rfl
      · exact stores_of_view (F := deviceRead p) (s := s) (t := errEvent s p 11)
          (errEvent_view _ _ _ rfl rfl (beq_self_eq_true p) rfl) rfl
  · simp only [hk]

theorem stores_devWrite_bolts (s : State) (p : Nat) {a : Nat} (h : boltBase ≤ a) (bs : List Byte) :
    (devWrite s p a bs).stores = s.stores := by
  simp only [devWrite, devWriteBy]
  rw [stores_of_view (F := deviceRead p) (violationIf_view _ _ _ rfl (beq_self_eq_true p)) rfl]
  refine List.foldlRecOn (motive := fun r : State × Bool => r.1.stores = s.stores) _ _ rfl fun r hr e he => ?_
  dsimp only
  split
  · rw [stores_devWriteRun_bolts _ _ _ (h.trans (le_of_mem_cutRuns he)), hr]
  · exact hr

/-- What the write of a save area keeps. -/
structure SaveAreaWritten (p : Nat) (s t : State) : Prop where
  access : view (deviceAccess p) t = view (deviceAccess p) s
  contexts : SameSettings s t
  cores : sameCores s t

theorem saveAreaWritten (s : State) (p c n : Nat) : SaveAreaWritten p s (writeSaveArea s p c n) := by
  unfold writeSaveArea
  refine List.foldlRecOn (motive := fun t => SaveAreaWritten p s t) _ _ ⟨rfl, sameSettings_refl s, sameCores_refl s⟩
    fun t ht j _ => ?_
  obtain ⟨ha, hx, hc⟩ := ht
  exact ⟨(spend_view _ _ rfl).trans ((devWrite_deviceAccess ..).trans ha),
    sameSettings_trans hx (sameSettings_trans (sameSettings_devWrite ..) (sameSettings_of_view (spend_view _ _ rfl))),
    sameCores_trans hc (sameCores_trans (sameCores_devWrite t p _ _) (sameCores_of_noCores (spend_view _ _ rfl)))⟩

theorem stores_spend (s : State) (n : Nat) : (spend s n).stores = s.stores := rfl

/-- A save area in bolts leaves the stores as they are. -/
theorem stores_writeSaveArea (s : State) (p c n : Nat) (h : boltBase ≤ fld ((partOf s p).reg (R.cxSave c)) 43 16 * boltSize) :
    (writeSaveArea s p c n).stores = s.stores := by
  unfold writeSaveArea
  refine List.foldlRecOn (motive := fun t : State => t.stores = s.stores) _ _ rfl fun t ht j _ => ?_
  rw [stores_spend, stores_devWrite_bolts t p (h.trans (Nat.le_add_right _ _)), ht]

/-! ### The clusters of a context (R232, R237) -/

theorem ctxClusters_congr {x y : Partition} {c : Nat} (hreg : y.reg (R.cxClus c) = x.reg (R.cxClus c))
    (hpanels : y.panels = x.panels) : ctxClusters y c = ctxClusters x c := by
  simp only [ctxClusters, clusterAt, panelList, Partition.get, hreg, hpanels]

/-- The clusters of a context after a change that keeps context tables and panels. -/
theorem ctxClusters_of_sameSettings {s t : State} {p c : Nat} (h : SameSettings s t) (hc : c < 64)
    (hp : (partOf t p).panels = (partOf s p).panels) : ctxClusters (partOf t p) c = ctxClusters (partOf s p) c :=
  ctxClusters_congr (h.reg p _ (by simp only [R.cxClus]; omega) (by simp only [R.cxClus]; omega)) hp

theorem holdsNow_congr {s t : State} {p c : Nat} (hhs : ctxClusters (partOf t p) c = ctxClusters (partOf s p) c)
    (hcl : t.clusters = s.clusters) : holdsNow t p c = holdsNow s p c := by
  simp only [holdsNow, hhs, clusOf, hcl]

theorem contextOnly_releaseClusters (s : State) (p c : Nat) : ContextOnly p c s (releaseClusters s p c) := by
  unfold releaseClusters
  split
  · exact contextOnly_trans (contextOnly_onCores ..) (contextOnly_holdClusters ..)
  · exact contextOnly_of_parts rfl rfl

/-- The cores and the clusters, and nothing else. -/
@[reducible] def coresAndClusters : Field → Bool
  | .cores | .clusters => true
  | _ => false

/-- A context that holds its clusters gives them all up. -/
theorem holder_releaseClusters {s : State} {p c h : Nat} (hold : holdsNow s p c = true)
    (hh : h ∈ ctxClusters (partOf s p) c) : (clusOf (releaseClusters s p c) h).holder = none := by
  have hv : view coresAndClusters ((ctxCores (partOf s p) c).foldl (fun t g => onCore t g Core.rest) s) =
      view coresAndClusters s := view_foldl _ _ fun t g => onCore_view t g _ rfl
  have hp : partOf ((ctxCores (partOf s p) c).foldl (fun t g => onCore t g Core.rest) s) p = partOf s p := by
    rw [partOf, parts_of_view hv rfl, partOf]
  rw [releaseClusters, if_pos hold]
  exact clusOf_holdClusters_made _ false (hp.symm ▸ hh) (P := fun q => q.holder = none) fun _ _ => rfl

theorem releaseClusters_coresAndClusters (s : State) (p c : Nat) :
    view coresAndClusters (releaseClusters s p c) = view coresAndClusters s := releaseClusters_view s p c rfl rfl

theorem sameCores_releaseClusters (s : State) (p c : Nat) : sameCores s (releaseClusters s p c) := by
  unfold releaseClusters
  split
  · refine sameCores_trans (t := (ctxCores (partOf s p) c).foldl (fun t g => onCore t g Core.rest) s)
      (sameCores_foldl _ _ fun t g => sameCores_onCore ?_ fun _ => rfl)
      (sameCores_of_view (F := clusterHolders) (holdClusters_view _ _ _ _ rfl) rfl)
    exact fun k => ⟨rfl, rfl, rfl, rfl, rfl, rfl, rfl, rfl⟩
  · exact sameCores_refl s

/-! ### A context starts (R232) -/

/-- A core as START leaves it. -/
def startedCore (entry : Nat) (snap : Mem) : Core := { Core.zero with pc := entry, run := .issuing, snap := snap }

theorem mem_coresOf {h g : Nat} : g ∈ coresOf h ↔ ∃ k, k < 16 ∧ 16 * h + k = g := by
  simp [coresOf]

/-- What is written to some cores stands in each of them. -/
theorem coreOf_putCores_made (s : State) {g : Nat} {l : List Nat} (hg : g ∈ l) (k : Core) :
    coreOf (l.foldl (fun t j => putCore t j k) s) g = k := by
  refine foldl_of_mem (P := fun t => coreOf t g = k) hg (fun t => coreOf_putCore t g k) (fun t j ht => ?_) s
  by_cases h : g = j
  · subst h; exact coreOf_putCore t g k
  · rwa [coreOf_putCore_ne t j g k h]

theorem coreOf_putCores_other (s : State) {g : Nat} {l : List Nat} (hg : g ∉ l) (f : Nat → Core) :
    coreOf (l.foldl (fun t j => putCore t j (f j)) s) g = coreOf s g :=
  List.foldlRecOn (motive := fun t => coreOf t g = coreOf s g) _ _ rfl fun t ht j hj => by
    rwa [coreOf_putCore_ne t j g _ fun e => hg (e ▸ hj)]

theorem clusOf_putCores (s : State) {α : Type} (l : List α) (j : α → Nat) (f : α → Core) (h : Nat) :
    clusOf (l.foldl (fun t a => putCore t (j a) (f a)) s) h = clusOf s h :=
  List.foldlRecOn (motive := fun t => clusOf t h = clusOf s h) _ _ rfl fun _ ht _ _ => ht

/-- A cluster whose stores, semaphores and barrier START has set up. -/
def loadedCluster (s : State) (h cstart : Nat) (image : List Byte) : State :=
  onClus { clearStores s h with stores := mput (clearStores s h).stores (bundleAddr h cstart) image } h fun q =>
    { q with sem := [], barMask := 0, barArr := 0 }

theorem startCluster_eq (s : State) (h cstart clen entry : Nat) (image : List Byte) :
    startCluster s h cstart clen entry image = (coresOf h).foldl (fun t g =>
      putCore t g (startedCore entry (codeNow (loadedCluster s h cstart image) h cstart clen)))
      (loadedCluster s h cstart image) := rfl

theorem coreOf_loadedCluster (s : State) (h cstart : Nat) (image : List Byte) (g : Nat) :
    coreOf (loadedCluster s h cstart image) g = coreOf s g := rfl

theorem clusOf_startCluster (s : State) (h cstart clen entry : Nat) (image : List Byte) (k : Nat) :
    clusOf (startCluster s h cstart clen entry image) k =
      if k = h then { clusOf s k with sem := [], barMask := 0, barArr := 0 } else clusOf s k := by
  rw [startCluster_eq, clusOf_putCores _ _ (fun g => g) fun _ => _, loadedCluster]
  split
  · next e => rw [e, clusOf_onClus]; rfl
  · next e => rw [clusOf_onClus_ne _ _ _ _ e]; rfl

theorem coreOf_startCluster_other (s : State) {h g : Nat} (hg : g ∉ coresOf h) (cstart clen entry : Nat) (image : List Byte) :
    coreOf (startCluster s h cstart clen entry image) g = coreOf s g := by
  rw [startCluster_eq, coreOf_putCores_other _ hg fun _ => _, coreOf_loadedCluster]

theorem coreOf_startCluster_own (s : State) {h g : Nat} (hg : g ∈ coresOf h) (cstart clen entry : Nat) (image : List Byte) :
    ∃ snap, coreOf (startCluster s h cstart clen entry image) g = startedCore entry snap :=
  ⟨_, by rw [startCluster_eq, coreOf_putCores_made _ hg]⟩

/-- The clusters of a context as START leaves them. -/
def startClusters (s : State) (hs : List Nat) (cstart clen entry : Nat) (image : List Byte) : State :=
  hs.foldl (fun t h => startCluster t h cstart clen entry image) s

theorem coreOf_startClusters_own (s : State) {hs : List Nat} {h g : Nat} (hh : h ∈ hs) (hg : g ∈ coresOf h)
    (cstart clen entry : Nat) (image : List Byte) :
    ∃ snap, coreOf (startClusters s hs cstart clen entry image) g = startedCore entry snap := by
  refine foldl_of_mem (P := fun t => ∃ snap, coreOf t g = startedCore entry snap) hh (fun t => ?_) (fun t k ht => ?_) s
  · exact coreOf_startCluster_own t hg cstart clen entry image
  · by_cases hk : g ∈ coresOf k
    · exact coreOf_startCluster_own t hk cstart clen entry image
    · rwa [coreOf_startCluster_other t hk]

theorem coreOf_startClusters_other (s : State) {hs : List Nat} {g : Nat} (hg : ∀ h ∈ hs, g ∉ coresOf h)
    (cstart clen entry : Nat) (image : List Byte) : coreOf (startClusters s hs cstart clen entry image) g = coreOf s g :=
  List.foldlRecOn (motive := fun t => coreOf t g = coreOf s g) _ _ rfl fun t ht h hh => by
    rwa [coreOf_startCluster_other t (hg h hh)]

theorem clusOf_startClusters (s : State) {hs : List Nat} {h : Nat} (hh : h ∈ hs) (cstart clen entry : Nat)
    (image : List Byte) : (clusOf (startClusters s hs cstart clen entry image) h).sem = [] ∧
      (clusOf (startClusters s hs cstart clen entry image) h).barArr = 0 := by
  refine foldl_of_mem (P := fun t => (clusOf t h).sem = [] ∧ (clusOf t h).barArr = 0) hh (fun t => ?_) (fun t k ht => ?_) s
  · rw [clusOf_startCluster, if_pos rfl]; exact ⟨rfl, rfl⟩
  · rw [clusOf_startCluster]
    split
    · exact ⟨rfl, rfl⟩
    · exact ht

/-- START_COMPLETE of a starting context for which no command waits (R232). -/
theorem startComplete_spec {s : State} {p c : Nat} (hstart : (ctxOf s p c).starting = true)
    (hwait : (ctxOf s p c).waitCmds = []) :
    cstate (startComplete s p c) p c = Cs.running ∧ reg (startComplete s p c) p (R.cxStat c) 15 8 = Status.ok ∧
    (ctxOf (startComplete s p c) p c).starting = false ∧
    (∀ g ∈ ctxCores (partOf s p) c, ∃ snap,
      coreOf (startComplete s p c) g = startedCore ((partOf s p).get (R.cxCode c) 30 16) snap) ∧
    (∀ h ∈ ctxClusters (partOf s p) c, (clusOf (startComplete s p c) h).sem = [] ∧
      (clusOf (startComplete s p c) h).barArr = 0) ∧
    (∀ g, g ∉ ctxCores (partOf s p) c → coreOf (startComplete s p c) g = coreOf s g) := by
  obtain ⟨read, cs, cl, image, hread, heq⟩ : ∃ read cs cl image, view (deviceRead p) read = view (deviceRead p) s ∧
      startComplete s p c = lstat (setCstate (onCtx (startClusters read (ctxClusters (partOf s p) c) cs cl
        ((partOf s p).get (R.cxCode c) 30 16) image) p c fun _ => Ctx.fresh) p c Cs.running) p c Status.ok := by
    let image := devRead s p ((partOf s p).get (R.cxCimg c) 43 6 * 64) ((partOf s p).get (R.cxCode c) 47 32 * 64)
    refine ⟨image.2, (partOf s p).get (R.cxCode c) 14 0, (partOf s p).get (R.cxCode c) 47 32, image.1,
      devRead_deviceRead s p _ _, ?_⟩
    rw [startComplete]
    dsimp only
    rw [hwait]
    exact (if_neg (by simp [hstart])).trans rfl
  have cores (g : Nat) : coreOf read g = coreOf s g := by rw [coreOf, cores_of_view hread rfl, coreOf]
  rw [heq]
  refine ⟨?_, lstat_code _ _ _ _ (by decide), ?_, fun g hg => ?_, fun h hh => ?_, fun g hg => ?_⟩
  · rw [cstate_lstat, cstate_setCstate _ _ _ _ (by decide)]
  · rw [ctxOf_lstat, ctxOf_setCstate, ctxOf_onCtx]
    rfl
  · obtain ⟨h, hh, hgh⟩ := List.mem_flatMap.1 hg
    rw [coreOf_lstat, coreOf_setCstate, coreOf_onCtx]
    exact coreOf_startClusters_own read hh hgh _ _ _ _
  · rw [clusOf_lstat, clusOf_setCstate, clusOf_onCtx]
    exact clusOf_startClusters read hh _ _ _ _
  · rw [coreOf_lstat, coreOf_setCstate, coreOf_onCtx, coreOf_startClusters_other read
      (fun h hh hgh => hg (List.mem_flatMap.2 ⟨h, hh, hgh⟩)), cores]

/-! ### A context is saved (R236) -/

theorem sameCores_contextLeft (s : State) (p c v code : Nat) (f : Ctx → Ctx) :
    sameCores s (lstat (setCstate (onCtx s p c f) p c v) p c code) := sameCores_of_cores_eq rfl

/-- PREEMPT_SAVE_COMPLETE of a PREEMPTING context whose cores are ready. -/
theorem saveComplete_spec {s : State} {p c : Nat} (hc : c < 64) (hst : cstate s p c = Cs.preempting)
    (hready : (ctxCores (partOf s p) c).all (saveReady s) = true) (hold : holdsNow s p c = true) :
    cstate (saveComplete s p c) p c = Cs.preempted ∧ reg (saveComplete s p c) p (R.cxStat c) 15 8 = Status.ok ∧
    (∀ h ∈ ctxClusters (partOf s p) c, (clusOf (saveComplete s p c) h).holder = none) ∧ elsewhere s (saveComplete s p c) p ∧
    (boltBase ≤ fld ((partOf s p).reg (R.cxSave c)) 43 16 * boltSize →
      (saveComplete s p c).stores = s.stores ∧ sameCores s (saveComplete s p c)) := by
  let written := writeSaveArea s p c (ctxClusters (partOf s p) c).length
  have hw : SaveAreaWritten p s written := saveAreaWritten s p c _
  have heq : saveComplete s p c = lstat (setCstate (onCtx (releaseClusters written p c) p c fun y =>
      { y with save := some (savedImage s p c), stopReq := false }) p c Cs.preempted) p c Status.ok := by
    rw [saveComplete, if_pos ⟨hst, hready⟩]
    rfl
  have hhs : ctxClusters (partOf written p) c = ctxClusters (partOf s p) c :=
    ctxClusters_of_sameSettings hw.contexts hc (part_of_view (fun x => x.panels) hw.access fun _ => rfl)
  have hheld : holdsNow written p c = true := (holdsNow_congr hhs (clusters_of_view hw.access rfl)).trans hold
  have honly : ContextOnly p c (releaseClusters written p c) (lstat (setCstate (onCtx (releaseClusters written p c) p c fun y =>
      { y with save := some (savedImage s p c), stopReq := false }) p c Cs.preempted) p c Status.ok) :=
    contextOnly_trans (contextOnly_trans (contextOnly_onCtx ..) (contextOnly_putStat ..)) (contextOnly_lstat ..)
  rw [heq]
  refine ⟨?_, lstat_code _ _ _ _ (by decide), fun h hh => ?_, fun q hq => ?_, fun ha => ⟨?_, ?_⟩⟩
  · rw [cstate_lstat, cstate_setCstate _ _ _ _ (by decide)]
  · rw [clusOf_lstat, clusOf_setCstate, clusOf_onCtx]
    exact holder_releaseClusters hheld (hhs.symm ▸ hh)
  · rw [honly.others q hq, (contextOnly_releaseClusters written p c).others q hq]
    exact elsewhere_of_view hw.access (fun q hq => apart_deviceAccess hq) q hq
  · rw [honly.stores, (contextOnly_releaseClusters written p c).stores]
    exact stores_writeSaveArea s p c _ ha
  · exact sameCores_trans (sameCores_trans hw.cores (sameCores_releaseClusters written p c)) (sameCores_contextLeft (releaseClusters written p c) p c _ _ _)

/-! ### A context is restored (R237) -/

/-- As `foldl_of_mem`, where the other members need to keep it only. -/
theorem foldl_of_mem_keep {α β : Type} {P : β → Prop} {f : β → α → β} {l : List α} {a : α} (ha : a ∈ l)
    (make : ∀ b, P (f b a)) (keep : ∀ b, ∀ e ∈ l, P b → P (f b e)) (b : β) : P (l.foldl f b) := by
  obtain ⟨before, behind, rfl⟩ := List.append_of_mem ha
  rw [List.foldl_append, List.foldl_cons]
  exact List.foldlRecOn _ _ (make _) fun b hb e he => keep b e (by simp [he]) hb

/-- A saved core as a restore brings it back. -/
def restoredCore (stopped : Bool) (w : Core) : Core :=
  { w with
    run := if stopped ∧ w.run = .issuing then .stopped else w.run
    cfg := 0, caps := [], seeds := [], seeded := 0 }

/-- A cluster whose bytes, semaphores and barrier a restore has brought back. -/
def restoredCluster (s : State) (h i : Nat) (im : SaveImage) : State :=
  onClus (restoreBytes s h i im) h fun y =>
    let q : ClusterSave := sget { sem := [], barMask := 0, barArr := 0 } im.clusters i
    { y with sem := q.sem, barMask := q.barMask, barArr := q.barArr }

theorem restoreCluster_eq (s : State) (h i : Nat) (im : SaveImage) : restoreCluster s h i im =
    (List.range 16).foldl (fun t k => putCore t (16 * h + k) (restoredCore im.stopped (sget Core.zero im.cores (16 * i + k))))
      (restoredCluster s h i im) := rfl

theorem coreOf_restoreCluster_own (s : State) (h i : Nat) (im : SaveImage) {k : Nat} (hk : k < 16) :
    coreOf (restoreCluster s h i im) (16 * h + k) = restoredCore im.stopped (sget Core.zero im.cores (16 * i + k)) := by
  rw [restoreCluster_eq]
  refine foldl_of_mem (P := fun t => coreOf t (16 * h + k) = restoredCore im.stopped (sget Core.zero im.cores (16 * i + k)))
    (List.mem_range.2 hk) (fun t => coreOf_putCore ..) (fun t j ht => ?_) _
  by_cases hj : k = j
  · subst hj; exact coreOf_putCore ..
  · rwa [coreOf_putCore_ne _ _ _ _ (by omega)]

theorem coreOf_restoreCluster_other (s : State) {h g : Nat} (hg : g / 16 ≠ h) (i : Nat) (im : SaveImage) :
    coreOf (restoreCluster s h i im) g = coreOf s g := by
  rw [restoreCluster_eq]
  refine List.foldlRecOn (motive := fun t => coreOf t g = coreOf s g) _ _ rfl fun t ht k hk => ?_
  have hk := List.mem_range.1 hk
  rwa [coreOf_putCore_ne _ _ _ _ (by omega)]

/-- The clusters of a context as a restore brings them back. -/
def restoreClusters (s : State) (hs : List Nat) (im : SaveImage) : State :=
  hs.zipIdx.foldl (fun t e => restoreCluster t e.1 e.2 im) s

/-- A cluster that is named once is as the image has it. -/
theorem coreOf_restoreClusters (s : State) {hs : List Nat} (hn : hs.Nodup) (im : SaveImage) {i h k : Nat}
    (hi : hs[i]? = some h) (hk : k < 16) :
    coreOf (restoreClusters s hs im) (16 * h + k) = restoredCore im.stopped (sget Core.zero im.cores (16 * i + k)) := by
  have hm : (h, i) ∈ hs.zipIdx := List.mem_zipIdx_iff_getElem?.2 hi
  rw [restoreClusters]
  refine foldl_of_mem_keep
    (P := fun t => coreOf t (16 * h + k) = restoredCore im.stopped (sget Core.zero im.cores (16 * i + k))) hm
    ?_ (fun t e he ht => ?_) s
  · exact fun t => coreOf_restoreCluster_own t h i im hk
  by_cases hh : e.1 = h
  · have hj : hs[e.2]? = some h := hh ▸ List.mem_zipIdx_iff_getElem?.1 he
    have hij : e.2 = i := (List.getElem?_inj (List.getElem?_eq_some_iff.1 hj).1 hn).1 (hj.trans hi.symm)
    rw [hh, hij]
    exact coreOf_restoreCluster_own t h i im hk
  · rwa [coreOf_restoreCluster_other t (by omega)]

theorem sameCores_endWaits (s : State) (g : Nat) (done : Wait → Bool) : sameCores s (endWaits s g done) :=
  fun k => ⟨(endWaits_onlyRun s g done k).sameRegisters, (endWaits_onlyRun s g done k).pc⟩

theorem sameCores_semRelease (h sid fuel : Nat) (s : State) : sameCores s (semRelease h sid fuel s) := by
  induction fuel generalizing s with
  | zero => exact sameCores_refl s
  | succ fuel ih =>
    rw [semRelease]
    dsimp only
    split
    · exact sameCores_refl s
    · refine sameCores_trans ?_ (ih _)
      refine sameCores_trans ?_ (sameCores_endWaits _ _ _)
      exact sameCores_of_cores_eq rfl

/-- The waits of a restored context: posts that its semaphores hold, and operations that are over. -/
def revived (s : State) (hs gs : List Nat) : State :=
  gs.foldl reviveWaits (hs.foldl (fun t h => (List.range 64).foldl (fun u i => semRelease h i 16 u) t) s)

theorem sameCores_revived (s : State) (hs gs : List Nat) : sameCores s (revived s hs gs) :=
  sameCores_trans (sameCores_foldl _ _ fun _ h => sameCores_foldl _ _ fun u i => sameCores_semRelease h i 16 u)
    (sameCores_foldl _ _ fun t g => sameCores_endWaits t g _)

/-- Free values, cores and clusters, and nothing else. -/
@[reducible] def semaphores : Field → Bool
  | .freeIx | .cores | .clusters => true
  | _ => false

theorem partOf_revived (s : State) (hs gs : List Nat) (p : Nat) : partOf (revived s hs gs) p = partOf s p := by
  have hv : view semaphores (revived s hs gs) = view semaphores s :=
    (view_foldl _ _ fun t g => reviveWaits_view t g rfl).trans
      (view_foldl _ _ fun t h => view_foldl _ _ fun u i => semRelease_view h i 16 u rfl rfl rfl)
  rw [partOf, parts_of_view hv rfl, partOf]

/-- RESTORE_COMPLETE of a RESUMING context whose image holds no parked DMA. -/
theorem restoreComplete_spec {s : State} {p c : Nat} {im : SaveImage} (hst : cstate s p c = Cs.resuming)
    (hsave : (ctxOf s p c).save = some im) (hpark : im.park = []) (hn : (ctxClusters (partOf s p) c).Nodup) :
    cstate (restoreComplete s p c) p c = (if im.stopped then Cs.stopped else Cs.running) ∧
    reg (restoreComplete s p c) p (R.cxStat c) 15 8 = Status.ok ∧ (ctxOf (restoreComplete s p c) p c).save = none ∧
    (∀ i h k, (ctxClusters (partOf s p) c)[i]? = some h → k < 16 →
      sameRegisters (sget Core.zero im.cores (16 * i + k)) (coreOf (restoreComplete s p c) (16 * h + k))) := by
  let back := setCstate (onCtx (restoreClusters s (ctxClusters (partOf s p) c) im) p c fun y => { y with save := none }) p c
    (if im.stopped then Cs.stopped else Cs.running)
  have heq : restoreComplete s p c =
      lstat (revived back (ctxClusters (partOf s p) c) (ctxCores (partOf s p) c)) p c Status.ok := by
    rw [restoreComplete]
    simp only [hst, hsave, hpark, beq_self_eq_true, List.foldl_nil]
    rfl
  have hstate : (if im.stopped then Cs.stopped else Cs.running) < 16 := by split <;> decide
  rw [heq]
  refine ⟨?_, lstat_code _ _ _ _ (by decide), ?_, fun i h k hi hk => ?_⟩
  · rw [cstate_lstat, cstate, reg, partOf_revived]
    exact cstate_setCstate _ _ _ _ hstate
  · rw [ctxOf_lstat, ctxOf, partOf_revived]
    exact congrArg Ctx.save ((ctxOf_setCstate ..).trans (ctxOf_onCtx ..))
  · have hk' : coreOf back (16 * h + k) = restoredCore im.stopped (sget Core.zero im.cores (16 * i + k)) :=
      coreOf_restoreClusters s hn im hi hk
    rw [coreOf_lstat]
    refine sameRegisters_trans ?_ (sameCores_revived back _ _ (16 * h + k)).1
    rw [hk']
    exact ⟨rfl, rfl, rfl, rfl, rfl, rfl, rfl, rfl⟩

/-! ### A context ends (R242, R245) -/

/-- The clusters of a context stay without holder when its Ringmaster ends. -/
theorem clusOf_rmContextGone (s : State) (p c h : Nat) : clusOf (rmContextGone s p c) h = clusOf s h := by
  rw [clusOf, clusters_of_view (F := noClusters) (rmContextGone_view s p c rfl rfl rfl rfl rfl rfl rfl rfl rfl rfl
    (fun _ => rfl) rfl rfl) rfl, clusOf]

theorem reg_of_sameSettings {s t : State} (h : SameSettings s t) (p : Nat) {o : Nat} (hl : o < 0xA0000) (hh : o < 0x60000 ∨ 0x70000 ≤ o)
    (hi lo : Nat) : reg t p o hi lo = reg s p o hi lo := by
  rw [reg, Partition.get, h.reg p o hl hh, reg, Partition.get]

theorem fld_whole (w : Word) : fld w 63 0 = w.toNat := by
  simp only [fld, nfld, Nat.shiftRight_zero]
  exact Nat.mod_eq_of_lt w.isLt

/-- TEARDOWN_COMPLETE of a context of which nothing is outstanding. -/
theorem teardownComplete_spec {s : State} {p c : Nat} (hc : c < 64) (hst : cstate s p c = Cs.teardown)
    (hdone : teardownDone s p c = true) (hold : holdsNow s p c = true) :
    cstate (teardownComplete s p c) p c = Cs.ended ∧
    (∀ h ∈ ctxClusters (partOf s p) c, (clusOf (teardownComplete s p c) h).holder = none) ∧
    reg (teardownComplete s p c) p (R.cxFault c) 63 0 = (faultRecord (ctxOf s p c).cause (ctxOf s p c).more).toNat := by
  let recorded := onPart (releaseClusters s p c) p fun x =>
    x.setReg (R.cxFault c) (faultRecord (ctxOf s p c).cause (ctxOf s p c).more)
  let ended := setCstate (onCtx recorded p c fun _ => Ctx.fresh) p c Cs.ended
  obtain ⟨told, htold, heq⟩ : ∃ told, (told = lstat ended p c Status.ok ∨ told = ctxVector ended p c) ∧
      teardownComplete s p c = rmContextGone told p c := by
    rw [teardownComplete, if_pos ⟨hst, hdone⟩]
    refine ⟨_, ?_, rfl⟩
    split
    · exact .inl rfl
    · exact .inr rfl
  have hstate : cstate told p c = Cs.ended := by
    rcases htold with rfl | rfl
    · rw [cstate_lstat, cstate_setCstate _ _ _ _ (by decide)]
    · rw [cstate, reg_ctxVector]
      exact cstate_setCstate _ _ _ _ (by decide)
  have hfault : reg told p (R.cxFault c) 63 0 = (faultRecord (ctxOf s p c).cause (ctxOf s p c).more).toNat := by
    have hne : R.cxFault c ≠ R.cxStat c := by simp [R.cxFault, R.cxStat]
    have he : reg ended p (R.cxFault c) 63 0 = (faultRecord (ctxOf s p c).cause (ctxOf s p c).more).toNat := by
      refine (reg_putReg_ne _ _ _ _ _ _ _ _ _ hne).trans ?_
      rw [reg_onCtx, reg, partOf_onPart, Partition.get, Partition_reg_setReg, fld_whole]
    rcases htold with rfl | rfl
    · rw [lstat, reg_ctxVector, reg_putReg_ne _ _ _ _ _ _ _ _ _ hne, he]
    · rw [reg_ctxVector, he]
  have hclus (h : Nat) : clusOf told h = clusOf (releaseClusters s p c) h := by
    have he : clusOf ended h = clusOf (releaseClusters s p c) h := by
      rw [clusOf_setCstate, clusOf_onCtx, clusOf_onPart]
    rcases htold with rfl | rfl
    · rw [clusOf_lstat, he]
    · rw [clusOf_ctxVector, he]
  have hsame := sameSettings_rmContextGone told p c
  rw [heq]
  refine ⟨?_, fun h hh => ?_, ?_⟩
  · rw [cstate_of_sameSettings hsame p hc, hstate]
  · rw [clusOf_rmContextGone, hclus]
    exact holder_releaseClusters hold hh
  · rw [reg_of_sameSettings hsame p (by simp only [R.cxFault]; omega) (by simp only [R.cxFault]; omega), hfault]

/-- CONTEXT_HALTED of a running context whose every core has halted. -/
theorem contextHalted_spec {s : State} {p c : Nat} (hc : c < 64) (hst : cstate s p c = Cs.running)
    (hstill : ((ctxCores (partOf s p) c).all fun g =>
      (coreOf s g).run == .halted && (coreOf s g).mops == [] && (coreOf s g).dmas == []) = true)
    (hcolls : ((partOf s p).colls.any fun k => k.ctx == c) = false) (hold : holdsNow s p c = true) :
    cstate (contextHalted s p c) p c = Cs.halted ∧ reg (contextHalted s p c) p (R.cxStat c) 15 8 = Status.ok ∧
    (∀ h ∈ ctxClusters (partOf s p) c, (clusOf (contextHalted s p c) h).holder = none) := by
  have heq : contextHalted s p c =
      rmContextGone (lstat (setCstate (releaseClusters s p c) p c Cs.halted) p c Status.ok) p c := by
    rw [contextHalted]
    exact if_pos ⟨hst, hstill, by simp [hcolls]⟩
  have hsame := sameSettings_rmContextGone (lstat (setCstate (releaseClusters s p c) p c Cs.halted) p c Status.ok) p c
  rw [heq]
  refine ⟨?_, ?_, fun h hh => ?_⟩
  · rw [cstate_of_sameSettings hsame p hc, cstate_lstat, cstate_setCstate _ _ _ _ (by decide)]
  · rw [reg_of_sameSettings hsame p (by simp only [R.cxStat]; omega) (by simp only [R.cxStat]; omega)]
    exact lstat_code _ _ _ _ (by decide)
  · rw [clusOf_rmContextGone, clusOf_lstat, clusOf_setCstate]
    exact holder_releaseClusters hold hh

/-! ### A doorbell (R234) -/

theorem semRelease_of_nobody {s : State} {h sid : Nat} (fuel : Nat)
    (hnone : ∀ g ∈ coresOf h, semWaiting s sid g = none) : semRelease h sid fuel s = s := by
  cases fuel with
  | zero => rfl
  | succ fuel =>
    rw [semRelease]
    dsimp only
    rw [List.filter_eq_nil_iff.2 fun g hg => by simp [hnone g hg]]
    rfl

/-- A post to a semaphore on which no core waits is counted. -/
theorem semAdd_of_nobody {s : State} {h sid : Nat} (n : Nat) (hnone : ((coresOf h).all fun g => (semWaiting s sid g).isNone) = true) :
    semAdd s h sid n = onClus s h fun q =>
      { q with sem := sset 0 q.sem sid (BitVec.ofNat 16 ((sget 0 q.sem sid).toNat + n)) } :=
  semRelease_of_nobody 16 fun g hg => Option.isNone_iff_eq_none.1 (List.all_eq_true.1 hnone g hg)

/-- A doorbell of a live context with its state in its clusters is a post to its semaphore. -/
theorem ringDoorbell_eq {s : State} {p c h : Nat} {val : Word} (hlive : (partOf s p).ptstate = 1)
    (hst : cstate s p c = Cs.running ∨ cstate s p c = Cs.stopped ∨ cstate s p c = Cs.preempting ∨ cstate s p c = Cs.resuming)
    (hh : (ctxClusters (partOf s p) c)[fld val 25 16]? = some h) (hsave : (ctxOf s p c).save = none)
    (hsum : (sget 0 (clusOf s h).sem (fld val 5 0)).toNat + fld val 47 32 ≤ 65535) :
    ringDoorbell s p c val = semAdd s h (fld val 5 0) (fld val 47 32) := by
  have hheld : (cstate s p c == Cs.running || cstate s p c == Cs.stopped || cstate s p c == Cs.preempting ||
      cstate s p c == Cs.preempted || cstate s p c == Cs.resuming) = true := by
    rcases hst with e | e | e | e
    all_goals rw [e]; decide
  have hsave' : ((partOf s p).ctxOf c).save = none := hsave
  have hover : ¬65535 < (sget 0 (clusOf s h).sem (fld val 5 0)).toNat + fld val 47 32 := by omega
  rw [ringDoorbell, postSem]
  simp only [hlive, hheld, hh, hsave', hover, bne_self_eq_false, Bool.not_true, Bool.false_eq_true, if_false]

/-- Settles O37, by what each command makes of clusters and cores, one lemma per command. -/
theorem contextsRunAndEnd : Obligations.ContextsRunAndEnd := by
  unfold Obligations.ContextsRunAndEnd
  intro s p c hp hc x st hs free
  have hwf : ctxOk p c = true := by simp [ctxOk, hp, hc]
  refine ⟨fun hstart hwait => ?_, fun hst hready hold => ?_, fun im hst hsave hpark hn => ?_, fun hst hdone hold => ?_,
    fun hst hstill hcolls hold => ?_, fun val h hlive hh hsave hst hsum hnone => ?_⟩
  · obtain ⟨hstate, hcode, hstarted, hcores, hclus, hothers⟩ := startComplete_spec hstart hwait
    refine ⟨_, exec_next_of_eq rfl hwf rfl, hstate, hcode, hstarted, fun g hg => ?_, hclus, hothers⟩
    obtain ⟨snap, hcore⟩ := hcores g hg
    rw [hcore]
    exact ⟨rfl, rfl, rfl, rfl, rfl, rfl⟩
  · obtain ⟨hstate, hcode, hfree, hels, hbolts⟩ := saveComplete_spec hc hst hready hold
    refine ⟨_, exec_next_of_eq rfl hwf rfl, hstate, ?_, hcode, hfree, hels, fun hin => hbolts (of_decide_eq_true hin).1⟩
    rw [saveComplete_save hst hready]
    rfl
  · obtain ⟨hstate, hcode, hgone, hcores⟩ := restoreComplete_spec hst hsave hpark hn
    exact ⟨_, exec_next_of_eq rfl hwf rfl, hstate, hcode, hgone, hcores⟩
  · obtain ⟨hstate, hfree, hfault⟩ := teardownComplete_spec hc hst hdone hold
    exact ⟨_, exec_next_of_eq rfl hwf rfl, hstate, hfree, hfault⟩
  · obtain ⟨hstate, hcode, hfree⟩ := contextHalted_spec hc hst hstill hcolls hold
    exact ⟨_, exec_next_of_eq rfl hwf rfl, hstate, hcode, hfree⟩
  · have acts : ringDoorbell s p c val = onClus s h fun q =>
        { q with sem := sset 0 q.sem (fld val 5 0) (BitVec.ofNat 16 ((sget 0 q.sem (fld val 5 0)).toNat + fld val 47 32)) } := by
      rw [← semAdd_of_nobody _ hnone]
      exact ringDoorbell_eq hlive hst hh hsave hsum
    refine ⟨_, exec_next_of_eq rfl hwf acts, ?_, fun i hi => ?_, rfl, rfl, rfl, rfl⟩
    · rw [clusOf_onClus, sget_sset, BitVec.toNat_ofNat, Nat.mod_eq_of_lt (by omega)]
    · rw [clusOf_onClus]
      exact sget_sset_ne _ _ _ _ _ _ hi

end Sys2Proof.Proofs
end

section
/-! Proofs about the life of partitions. -/

namespace Sys2Proof.Proofs

open Sys2Proof.Machine Sys2Proof.Safety Sys2Proof.Laws

/-! ### Management commands for partitions (R404) -/

theorem number_pmArgs (s : State) : (pmArgs s).number < 16 := by
  show fld _ 19 16 < 16
  exact Nat.mod_lt _ (by decide)

/-- The condition under which a written `PMCMD` is ignored does not hold. -/
theorem pm_idle {s : State} (hs : serving s = true) (hidle : mreg s M.pmCmd 4 4 = 0) :
    ¬(!serving s || decide (mreg s M.pmCmd 4 4 = 1)) = true := by
  rw [hs, hidle]
  decide

/-- A command that has completed shows its status and runs no longer. -/
theorem pmEnd_done (s : State) {status : Nat} (h : status < 256) :
    mreg (pmEnd s status) M.pmCmd 4 4 = 0 ∧ mreg (pmEnd s status) M.pmCmd 15 8 = status := by
  refine ⟨mreg_putMreg _ _ _ _ _ (by decide) (by decide), ?_⟩
  rw [pmEnd, mreg_putMreg_fld _ _ _ _ _ _ _ (by decide) (by decide), mreg_putMreg _ _ _ _ _ (by decide) (by decide)]
  exact Nat.mod_eq_of_lt h

theorem partOf_pmEnd (s : State) (status q : Nat) : partOf (pmEnd s status) q = partOf s q := rfl

theorem pmBegin_runs (s : State) : mreg (pmBegin s) M.pmCmd 4 4 = 1 := mreg_putMreg _ _ _ _ _ (by decide) (by decide)

theorem partOf_pmBegin (s : State) (q : Nat) : partOf (pmBegin s) q = partOf s q := rfl

/-! ### What the reset of a partition leaves of the management space -/

theorem sameBindings_devWrite (s : State) (p a : Nat) (bs : List Byte) : SameBindings s (devWrite s p a bs) :=
  sameBindings_of_view (view_mono (fun f => by cases f <;> simp) (devWrite_deviceAccess s p a bs))

theorem sameBindings_contextsQuiet (s : State) (p : Nat) : SameBindings s (contextsQuiet s p) := by
  have hints (n : Nat) (t : State) : SameBindings t (abandonHints n t p) := by
    induction n generalizing t with
    | zero => exact sameBindings_refl t
    | succ n ih =>
      rw [abandonHints]
      split
      · exact sameBindings_refl t
      · refine sameBindings_trans ?_ (ih _)
        exact sameBindings_trans (sameBindings_trans (sameBindings_devWrite ..) (sameBindings_devWrite ..))
          (sameBindings_onPart _ _ _ fun _ => rfl)
  have written (t : State) (c a : Nat) (pay : List Byte) (col : Collar) : SameBindings t (engineWrite t p c a pay col).1 := by
    rw [engineWrite]
    split
    · split
      · next u hu =>
        refine sameBindings_trans (sameBindings_engineReady hu) ?_
        refine sameBindings_of_view (onPart_view u p _ rfl ?_)
        exact putTile_view _ _ _ _ rfl rfl
      · exact sameBindings_refl t
    · exact sameBindings_violation t p
  have ended (t : State) (k : Coll) : SameBindings t (endColl t p k Status.aborted) := by
    have put (k' : Coll) : SameBindings t (putColl t p k') := sameBindings_onPart _ _ _ fun _ => rfl
    have told (u : State) (bs : List Byte) (r : Nat) : SameBindings u (sendControl u p k 3 bs r) :=
      sameBindings_of_view (sendControl_view _ _ _ _ _ _ rfl rfl)
    rw [endColl]
    split
    · exact sameBindings_refl t
    · refine sameBindings_ite ?_ ?_
      · exact sameBindings_trans (put _) (sameBindings_foldl _ _ fun u r => told ..)
      · exact sameBindings_trans (sameBindings_trans (put _) (sameBindings_foldl _ _ fun u r => told ..))
          (sameBindings_foldl _ _ fun u i => written ..)
  rw [contextsQuiet]
  refine sameBindings_trans (sameBindings_trans (sameBindings_trans ?_ (hints _ _)) (sameBindings_foldl _ _ fun t k => ended ..))
    (sameBindings_foldl _ _ fun t c => ?_)
  · rw [pkAbandon]
    exact sameBindings_trans (sameBindings_foldl _ _ fun t i => sameBindings_devWrite ..) (sameBindings_onPart _ _ _ fun _ => rfl)
  · obtain ⟨cut, he⟩ := ctxReset_eq t p c
    have ends (st : Nat) (x : Partition) : (ctxEnded x c st cut).bound = x.bound := by
      simp only [ctxEnded]
      split
      · rfl
      · rfl
    rw [he]
    refine sameBindings_ite (sameBindings_trans ?_ (sameBindings_of_view (ctxVector_view _ _ _ rfl rfl rfl))) ?_
    · exact sameBindings_onPart _ _ _ (ends _)
    · exact sameBindings_onPart _ _ _ (ends _)

theorem sameBindings_unitsQuiet (s : State) (p : Nat) : SameBindings s (unitsQuiet s p) := ⟨fun _ _ => rfl, fun _ => rfl⟩

theorem sameBindings_quiescePart (s : State) (p : Nat) : SameBindings s (quiescePart s p) := by
  have voted (t : State) : SameBindings t (abortVotes t fun v => v.part == p) :=
    sameBindings_of_view (by simp only [abortVotes_view, implies_true])
  rw [quiescePart_eq]
  refine sameBindings_trans ?_ (voted _)
  refine sameBindings_trans ?_ (sameBindings_onPart _ _ _ fun _ => rfl)
  exact sameBindings_trans (sameBindings_contextsQuiet s p) (sameBindings_unitsQuiet _ p)

/-! ### CREATE, DESTROY, debug mode (R222, R403) -/

/-- A created partition. -/
structure Created (s : State) (a : Preset) (t : State) : Prop where
  made : ∃ k q m, partOf t a.number = { (partOf s a.number).shell with
    panels := a.panels, vbolts := a.v, qbolts := a.q, hwcap := a.hwcap, mac0 := a.mac0, mac1 := a.mac1, ptstate := 1
    xtsKey := k, pktKey := q, keyed := true, msix := m }
  others : ∀ q, q ≠ a.number → partOf t q = partOf s q
  stores : t.stores = s.stores

theorem created_createPart (s : State) (a : Preset) : Created s a (createPart s a) := by
  rw [createPart]
  refine ⟨?_, fun q hq => ?_, rfl⟩
  · obtain ⟨k, q, hk⟩ := partOf_newKeys (putPart s a.number { (partOf s a.number).shell with
      panels := a.panels, vbolts := a.v, qbolts := a.q, hwcap := a.hwcap, mac0 := a.mac0, mac1 := a.mac1 }) a.number
    rw [partOf_putPart] at hk
    exact ⟨k, q, _, by rw [partOf_setPtstate, hk]⟩
  · rw [partOf_setPtstate_ne _ _ _ hq, partOf_newKeys_ne _ _ hq, partOf_putPart_ne _ _ _ _ hq]

theorem pmCreate_accepted {s : State} (h : createStatus s (pmArgs s) = Status.ok) :
    pmCreate s = pmEnd (createPart s (pmArgs s)) Status.ok := by
  rw [pmCreate, h, if_pos rfl]

theorem pmCreate_refused {s : State} (h : createStatus s (pmArgs s) ≠ Status.ok) :
    pmCreate s = pmEnd s (createStatus s (pmArgs s)) := by
  rw [pmCreate, if_neg h]

theorem pmDestroy_live {s : State} (h : (partOf s (pmArgs s).number).ptstate = 1) :
    pmDestroy s = beginPartReset (pmBegin s) (pmArgs s).number false true := by
  rw [pmDestroy, if_neg (by rw [h]; decide), if_neg (by rw [h]; decide), if_neg (by rw [h]; decide)]

theorem pmDestroy_parked {s : State} (h : (partOf s (pmArgs s).number).ptstate = 3) :
    pmDestroy s = pmEnd (erasePart s (pmArgs s).number) Status.ok := by
  rw [pmDestroy, if_neg (by rw [h]; decide), if_neg (by rw [h]; decide), if_pos h]

/-- A partition that is gone. -/
theorem erasePart_spec (s : State) (p : Nat) : (partOf (erasePart s p) p).ptstate = 0 ∧ (partOf (erasePart s p) p).jkeys = [] ∧
    (partOf (erasePart s p) p).qbolts = 0 ∧ (∀ q, q ≠ p → partOf (erasePart s p) q = partOf s q) ∧
    (erasePart s p).stores = s.stores := by
  have gone : partOf (erasePart s p) p = { (partOf s p).shell with ptstate := 0, msix := setFld (partOf s p).shell.msix 0 0 1 } := by
    rw [erasePart, partOf_setPtstate, partOf_onPart]
  rw [gone]
  exact ⟨rfl, rfl, rfl, fun q hq => by rw [erasePart, partOf_setPtstate_ne _ _ _ hq, partOf_onPart_ne _ _ _ _ hq], rfl⟩

/-- The start of a reset that ends its partition (R222). -/
theorem destroy_spec {s : State} {p : Nat} (hl : (partOf s p).ptstate = 1) (hd : s.rel.dph = 0) :
    (partOf (beginPartReset s p false true) p).ptstate = 5 ∧ (partOf (beginPartReset s p false true) p).dying = true ∧
    mreg (beginPartReset s p false true) M.pmCmd 4 4 = mreg s M.pmCmd 4 4 := by
  obtain ⟨state, dying, -, -⟩ := resetBegun_spec (partOf (quiescePart s p) p) false true
  have begun (u : State) : mregOf (resetEvent (setPtstate (onPart u p fun x =>
      { x with dying := true, rcount := false, pph := 1 }) p 5) 0x16 p Status.ok) M.pmCmd = mregOf u M.pmCmd := by
    rw [mregOf, mregs_of_view (F := notesOnly) (resetEvent_view _ _ _ _ rfl rfl) rfl]
    rfl
  refine ⟨?_, ?_, ?_⟩
  · rw [partOf_beginPartReset_live hl hd, state]
  · rw [partOf_beginPartReset_live hl hd, dying]
  · rw [mreg, beginPartReset_live hl hd, begun, (sameBindings_quiescePart s p).word _ (by decide), mreg]

/-- Debug mode of a partition (R403). -/
def inDebugMode (s : State) (p : Nat) (on : Bool) : State := onPart s p fun x => { x with dbgen := on }

/-- The listed cores of the clusters of `x` without capture buffers. -/
def withoutCaptures (s : State) (x : Partition) : State :=
  (s.cores.filter fun e => hasCluster x (e.1 / 16)).foldl (fun t e => onCore t e.1 fun k => { k with caps := [] }) s

theorem pmDebug_on {s : State} (hlive : (partOf s (pmArgs s).number).ptstate = 1)
    (hidle : ctxsAre s (pmArgs s).number [Cs.free, Cs.halted, Cs.ended] = true) :
    pmDebug s true = pmEnd (inDebugMode s (pmArgs s).number true) Status.ok := by
  rw [pmDebug]
  exact if_neg (by simp [hlive, hidle])

theorem pmDebug_off {s : State} (hlive : (partOf s (pmArgs s).number).ptstate = 1)
    (hidle : ctxsAre s (pmArgs s).number [Cs.free, Cs.halted, Cs.ended] = true) : pmDebug s false =
      pmEnd (withoutCaptures (inDebugMode s (pmArgs s).number false) (partOf s (pmArgs s).number)) Status.ok := by
  rw [pmDebug]
  exact if_neg (by simp [hlive, hidle])

/-- A core that is not listed is at rest and holds no capture buffer either. -/
theorem caps_withoutCaptures (s : State) {x : Partition} {g : Nat} (hg : hasCluster x (g / 16) = true) :
    (coreOf (withoutCaptures s x) g).caps = [] := by
  by_cases hl : ∃ e ∈ s.cores.filter (fun e => hasCluster x (e.1 / 16)), e.1 = g
  · obtain ⟨e, he, rfl⟩ := hl
    refine foldl_of_mem (P := fun t => (coreOf t e.1).caps = []) he ?_ (fun t k ht => ?_) s
    · exact fun t => by rw [coreOf_onCore]
    · by_cases hk : e.1 = k.1
      · rw [hk, coreOf_onCore]
      · rwa [coreOf_onCore_ne _ _ _ _ hk]
  · have unlisted : coreOf s g = Core.zero := sget_absent _ _ _ fun e he heg =>
      hl ⟨e, List.mem_filter.2 ⟨he, by rw [heg]; exact hg⟩, heg⟩
    have same : coreOf (withoutCaptures s x) g = coreOf s g :=
      List.foldlRecOn (motive := fun t => coreOf t g = coreOf s g) _ _ rfl fun t ht e he => by
        rwa [coreOf_onCore_ne _ _ _ _ fun h => hl ⟨e, he, h.symm⟩]
    rw [same, unlisted]
    rfl

/-- The cores, and nothing else. -/
@[reducible] def coresOnly : Field → Bool
  | .cores => true
  | _ => false

theorem withoutCaptures_coresOnly (s : State) (x : Partition) : view coresOnly (withoutCaptures s x) = view coresOnly s :=
  view_foldl _ _ fun t e => onCore_view t e.1 _ rfl

/-! ### Parking (R296-R298) -/

theorem pmPark_accepted {s : State} (h : parkOk s (pmArgs s).number = true) : pmPark s =
    pmBegin (setPtstate (onPart s (pmArgs s).number fun x => { x with seam := .none_ }) (pmArgs s).number 2) :=
  if_pos h

theorem pmPark_refused {s : State} (h : parkOk s (pmArgs s).number = false) : pmPark s = pmEnd s Status.busy :=
  if_neg (by rw [h]; decide)

/-- The partition that takes panels again, its pinned bolts on their way (R298). -/
def unparking (s : State) : State :=
  (partOf s (pmArgs s).number).bolts.foldl
    (fun t e => if e.2.keep && e.2.st == .flash then giveFrame t (pmArgs s).number e.1 .in_ else t)
    (putPart s (pmArgs s).number { partOf s (pmArgs s).number with panels := (pmArgs s).panels })

theorem pmUnpark_accepted {s : State} (hst : (partOf s (pmArgs s).number).ptstate = 3)
    (hn : ((List.range 16).filter fun i => bit (pmArgs s).panels i).length = (partOf s (pmArgs s).number).parkP)
    (hfree : (pmArgs s).panels &&& (panelsHeld s ||| s.rel.fencedPanels) = 0) :
    pmUnpark s = pmBegin (setPtstate (unparking s) (pmArgs s).number 4) := by
  rw [pmUnpark]
  exact if_neg (by simp [hst, hn, hfree])

/-- The bolts of a partition, the record of one and free values. -/
@[reducible] def boltsOf (p : Nat) : Field → Bool
  | .hbm q => q == p
  | .parts | .freeIx => true
  | _ => false

theorem unparking_boltsOf (s : State) : view (boltsOf (pmArgs s).number) (unparking s) =
    view (boltsOf (pmArgs s).number) (putPart s (pmArgs s).number { partOf s (pmArgs s).number with panels := (pmArgs s).panels }) := by
  refine view_foldl _ _ fun t e => ?_
  split
  · exact giveFrame_view _ _ _ _ rfl rfl (beq_self_eq_true _)
  · rfl

theorem unparking_spec (s : State) : (partOf (unparking s) (pmArgs s).number).panels = (pmArgs s).panels ∧
    (partOf (unparking s) (pmArgs s).number).mem = (partOf s (pmArgs s).number).mem ∧ (unparking s).stores = s.stores := by
  have hv := unparking_boltsOf s
  refine ⟨?_, ?_, (stores_of_view hv rfl).trans rfl⟩
  · rw [part_of_view (fun x => x.panels) hv fun _ => rfl, partOf_putPart]
  · rw [part_of_view (fun x => x.mem) hv fun _ => rfl, partOf_putPart]

/-- A partition whose bolts have left HBM, its panels scrubbed and off (R297). -/
def panelsGivenUp (s : State) (p : Nat) : State :=
  let x := partOf s p
  let t := wakeChannels (scrubStores (x.bolts.foldl (fun t e => parkBolt t p e.1) s) x.panels) x.panels
  { t with
    cores := t.cores.filter fun e => !hasCluster x (e.1 / 16)
    clusters := t.clusters.filter fun e => !hasCluster x e.1
    rel := { t.rel with kernels := t.rel.kernels.filter fun e => !hasCluster x (e.1 / 16) } }

theorem parkComplete_eq {s : State} {q : Nat} (hst : (partOf s q).ptstate = 2) (hw : flashWritable s = true)
    (hroom : (dirtyBolts (partOf s q)).length ≤ (partOf s q).qbolts - blocksUsed (partOf s q)) :
    parkComplete s q = pmEnd (setPtstate (onPart (panelsGivenUp s q) q fun y =>
      { y with panels := 0, parkP := (panelList (partOf s q)).length }) q 3) Status.ok := by
  rw [parkComplete]
  refine (if_neg (by simp [hst])).trans ((if_neg ?_).trans rfl)
  rw [if_pos hw]
  omega

/-- A partition without panels (R297). -/
theorem parked_spec (u : State) (q n : Nat) :
    (partOf (setPtstate (onPart u q fun y => { y with panels := 0, parkP := n }) q 3) q).ptstate = 3 ∧
    (partOf (setPtstate (onPart u q fun y => { y with panels := 0, parkP := n }) q 3) q).panels = 0 ∧
    (partOf (setPtstate (onPart u q fun y => { y with panels := 0, parkP := n }) q 3) q).parkP = n := by
  rw [partOf_setPtstate, partOf_onPart]
  exact ⟨rfl, rfl, rfl⟩

theorem unparkComplete_eq {s : State} {q : Nat} (hst : (partOf s q).ptstate = 4)
    (hin : ((partOf s q).bolts.any fun e => e.2.keep && e.2.st == .in_) = false) : unparkComplete s q =
      pmEnd (sperWritten (setPtstate (onPart s q fun y => { y with parkP := 0 }) q 1) q 0) Status.ok := by
  rw [unparkComplete]
  exact if_neg (by simp [hst, hin])

theorem partOf_sperWritten (s : State) (p old : Nat) : ∃ m, partOf (sperWritten s p old) p = { partOf s p with seam := m } := by
  rw [sperWritten]
  split
  · exact ⟨_, rfl⟩
  · split
    · exact ⟨_, partOf_onPart ..⟩
    · exact ⟨_, partOf_onPart ..⟩

/-- Settles O35, by what each accepted command makes of its partition. -/
theorem partitionLifecycle : Obligations.PartitionLifecycle := by
  unfold Obligations.PartitionLifecycle
  intro s hserving a p x done
  have hp : p < 16 := number_pmArgs s
  have hdph : s.rel.dph = 0 := by
    simp only [serving, Bool.and_eq_true] at hserving
    exact dph_of_firmwareUp hserving.1
  refine ⟨fun hidle => ?_, fun q hq hst hw hroom => ?_, fun q hq hst hin => ?_⟩
  · have idle := pm_idle hserving hidle
    have begun : (partOf (pmBegin s) p).ptstate = x.ptstate := rfl
    refine ⟨fun hok => ?_, fun hno => ?_, fun hl => ?_, fun hparked => ?_, fun hok => ?_, fun hno => ?_,
      fun hparked hn hfree => ?_, fun hl hstill => ⟨?_, ?_⟩⟩
    · have acts : pmCommand s 1 = pmEnd (createPart s a) Status.ok :=
        (if_neg idle).trans (pmCreate_accepted hok)
      obtain ⟨⟨k, q, m, made⟩, others, stores⟩ := created_createPart s a
      refine ⟨_, exec_next_of_eq rfl rfl acts, ?_⟩
      rw [partOf_pmEnd, made]
      exact ⟨rfl, rfl, rfl, rfl, rfl, rfl, rfl, rfl, others, stores, pmEnd_done _ (by decide)⟩
    · exact exec_next_of_eq rfl rfl ((if_neg idle).trans (pmCreate_refused hno))
    · have acts : pmCommand s 2 = beginPartReset (pmBegin s) p false true :=
        (if_neg idle).trans (pmDestroy_live hl)
      obtain ⟨state, dying, runs⟩ := destroy_spec (s := pmBegin s) (begun.trans hl) hdph
      exact ⟨_, exec_next_of_eq rfl rfl acts, state, dying, runs.trans (pmBegin_runs s)⟩
    · have acts : pmCommand s 2 = pmEnd (erasePart s p) Status.ok :=
        (if_neg idle).trans (pmDestroy_parked hparked)
      obtain ⟨state, keys, quota, others, stores⟩ := erasePart_spec s p
      exact ⟨_, exec_next_of_eq rfl rfl acts, state, keys, quota, others, stores, pmEnd_done _ (by decide)⟩
    · have acts : pmCommand s 3 = pmBegin (setPtstate (onPart s p fun x => { x with seam := .none_ }) p 2) :=
        (if_neg idle).trans (pmPark_accepted hok)
      refine ⟨_, exec_next_of_eq rfl rfl acts, ?_⟩
      rw [partOf_pmBegin, partOf_setPtstate, partOf_onPart]
      exact ⟨rfl, rfl, rfl, pmBegin_runs _, rfl, rfl⟩
    · exact exec_next_of_eq rfl rfl ((if_neg idle).trans (pmPark_refused hno))
    · have acts : pmCommand s 4 = pmBegin (setPtstate (unparking s) p 4) :=
        (if_neg idle).trans (pmUnpark_accepted hparked hn hfree)
      obtain ⟨panels, mem, stores⟩ := unparking_spec s
      refine ⟨_, exec_next_of_eq rfl rfl acts, ?_⟩
      rw [partOf_pmBegin, partOf_setPtstate]
      exact ⟨rfl, panels, mem, pmBegin_runs _, stores⟩
    · have acts : pmCommand s 5 = pmEnd (inDebugMode s p true) Status.ok := (if_neg idle).trans (pmDebug_on hl hstill)
      refine ⟨_, exec_next_of_eq rfl rfl acts, ?_⟩
      rw [partOf_pmEnd, inDebugMode, partOf_onPart]
      exact ⟨rfl, hl, rfl, pmEnd_done _ (by decide)⟩
    · have acts : pmCommand s 6 = pmEnd (withoutCaptures (inDebugMode s p false) x) Status.ok :=
        (if_neg idle).trans (pmDebug_off hl hstill)
      have hv := withoutCaptures_coresOnly (inDebugMode s p false) x
      have hpart : partOf (withoutCaptures (inDebugMode s p false) x) p = { x with dbgen := false } := by
        rw [partOf, parts_of_view hv rfl, ← partOf, inDebugMode, partOf_onPart]
      refine ⟨_, exec_next_of_eq rfl rfl acts, ?_⟩
      rw [partOf_pmEnd, hpart]
      exact ⟨rfl, hl, fun g hg => caps_withoutCaptures (inDebugMode s p false) hg, (stores_of_view hv rfl).trans rfl, pmEnd_done _ (by decide)⟩
  · obtain ⟨state, panels, size⟩ := parked_spec (panelsGivenUp s q) q (panelList (partOf s q)).length
    exact ⟨_, exec_next_of_eq rfl (by simp [Instr.wf, partOk, hq]) (parkComplete_eq hst hw hroom), state, panels, size,
      pmEnd_done _ (by decide)⟩
  · obtain ⟨m, hm⟩ := partOf_sperWritten (setPtstate (onPart s q fun y => { y with parkP := 0 }) q 1) q 0
    refine ⟨_, exec_next_of_eq rfl (by simp [Instr.wf, partOk, hq]) (unparkComplete_eq hst hin), ?_⟩
    rw [partOf_pmEnd, hm, partOf_setPtstate, partOf_onPart]
    exact ⟨rfl, rfl, rfl, rfl, pmEnd_done _ (by decide)⟩

end Sys2Proof.Proofs
end

section
/-! Proofs about engine resets, restarts, known-answer kernels and votes: what they keep of the reliability records. -/

namespace Sys2Proof.Proofs

open Sys2Proof.Machine Sys2Proof.Safety Sys2Proof.Laws

/-! ### What no charge and no record changes of the state of reliability (R333, R344)

Votes, kernels, engine resets and silent roles are changed by their own commands alone; what they and the accesses to memory
beside them change is counted and recorded. -/

/-- The state of reliability without its counts and records. -/
def unrecorded (x : Rel) : Rel :=
  { x with counts := [], changed := [], hbmDies := [], hrseq := 0, lost := 0, lostNow := 0, evSec := 0, evCnt := 0 }

/-- What of the state of reliability stands when units are charged and records leave. -/
def standing (s : State) : Rel := unrecorded s.rel

theorem standing_of_rel {s t : State} (h : t.rel = s.rel) : standing t = standing s := by rw [standing, h, standing]

theorem votes_of_standing {s t : State} (h : standing t = standing s) : t.rel.votes = s.rel.votes := (congrArg Rel.votes h :)

theorem nextVid_of_standing {s t : State} (h : standing t = standing s) : t.rel.nextVid = s.rel.nextVid := (congrArg Rel.nextVid h :)

theorem kernels_of_standing {s t : State} (h : standing t = standing s) : t.rel.kernels = s.rel.kernels := (congrArg Rel.kernels h :)

theorem badKern_of_standing {s t : State} (h : standing t = standing s) : t.rel.badKern = s.rel.badKern := (congrArg Rel.badKern h :)

theorem engResets_of_standing {s t : State} (h : standing t = standing s) : t.rel.engResets = s.rel.engResets :=
  (congrArg Rel.engResets h :)

theorem fwSilent_of_standing {s t : State} (h : standing t = standing s) : t.rel.fwSilent = s.rel.fwSilent :=
  (congrArg Rel.fwSilent h :)

theorem dph_of_standing {s t : State} (h : standing t = standing s) : t.rel.dph = s.rel.dph := (congrArg Rel.dph h :)

theorem standing_foldl {α : Type} {f : State → α → State} (l : List α) (s : State)
    (keep : ∀ t e, standing (f t e) = standing t) : standing (l.foldl f s) = standing s :=
  List.foldlRecOn (motive := fun t => standing t = standing s) _ _ rfl fun t ht e _ => (keep t e).trans ht

theorem standing_ite {c : Prop} [Decidable c] {s t u : State} (ht : standing t = standing s) (hu : standing u = standing s) :
    standing (if c then t else u) = standing s := by
  split
  · exact ht
  · exact hu

theorem standing_getD {o : Option State} {s u : State} (step : ∀ t, o = some t → standing t = standing s)
    (other : standing u = standing s) : standing (o.getD u) = standing s := by
  cases o with
  | none => exact other
  | some t => exact step t rfl

theorem standing_onPart (s : State) (p : Nat) (f : Partition → Partition) : standing (onPart s p f) = standing s := rfl

theorem standing_errEvent (s : State) (p i : Nat) : standing (errEvent s p i) = standing s := standing_of_rel (errEvent_rel ..)

theorem standing_violationIf (b : Bool) (s : State) (p : Nat) : standing (violationIf b s p) = standing s :=
  standing_of_rel (violationIf_rel ..)

/-! #### Records and charges -/

theorem standing_healthRecord (kind fuel : Nat) (s : State) (es : List (List Byte)) :
    standing (healthRecord kind fuel s es) = standing s := by
  induction fuel generalizing s es with
  | zero => rfl
  | succ fuel ih => exact standing_ite rfl (standing_ite rfl ((ih _ _).trans rfl))

theorem standing_eventRecord (s : State) (cls ut idx flg det : Nat) : standing (eventRecord s cls ut idx flg det) = standing s :=
  standing_ite rfl (standing_ite rfl (standing_healthRecord ..))

theorem standing_chargeN (s : State) (cls ut idx n : Nat) : standing (chargeN s cls ut idx n) = standing s := by
  have recorded (t : State) (c : Bool) (flg : Nat) :
      standing (if c then eventRecord t cls ut idx flg 0 else t) = standing t :=
    standing_ite (standing_eventRecord ..) rfl
  unfold chargeN
  refine standing_ite ?_ (recorded ..)
  split
  · exact (standing_errEvent ..).trans (recorded ..)
  · exact recorded ..

theorem standing_charge (s : State) (cls ut idx : Nat) : standing (charge s cls ut idx) = standing s := standing_chargeN ..

theorem standing_chargeFlash (s : State) (cls n : Nat) : standing (chargeFlash s cls n) = standing s :=
  standing_ite rfl (standing_chargeN ..)

theorem standing_voteResult (s : State) (p : Nat) (vid : BitVec 32) (code cls core : Nat) :
    standing (voteResult s p vid code cls core) = standing s :=
  (standing_eventRecord ..).trans (standing_ite (standing_errEvent ..) rfl)

/-! #### Flash copies and frames -/

theorem standing_programBolt (s : State) (p b : Nat) : standing (programBolt s p b) = standing s := by
  have retired : standing (if freeBelow s 0 2 = 1 then retireBlock (spend s 2) (pickBlock (spend s 1)) else spend s 2) =
      standing s := standing_ite (standing_chargeFlash ..) rfl
  have told (t : State) (was : Wear) : standing (wearVectors t was) = standing t :=
    standing_ite ((standing_eventRecord ..).trans (standing_of_rel (foldl_rel _ _ fun u q => msix_rel ..))) rfl
  refine (told ..).trans (Eq.trans (standing_of_rel ?_) retired)
  rw [spend_rel, onWear_rel, levelWear_rel, spend_rel, programBlock_rel]

theorem standing_freeFrame {s t : State} {p b : Nat} (h : freeFrame s p b = some t) : standing t = standing s := by
  simp only [freeFrame] at h
  split at h
  · cases h; rfl
  · obtain ⟨v, -, rfl⟩ := Option.map_eq_some_iff.1 h
    split
    · rfl
    · exact standing_programBolt ..
    · exact standing_programBolt ..

theorem standing_readyWrite {s t : State} {p b : Nat} (h : readyWrite s p b = some t) : standing t = standing s := by
  simp only [readyWrite] at h
  split at h
  case h_5 | h_6 =>
    obtain ⟨u, hu, rfl⟩ := Option.map_eq_some_iff.1 h
    exact (standing_of_rel (s := u) rfl).trans (standing_freeFrame hu)
  all_goals cases h; rfl

theorem standing_beginFetch {s t : State} {p b : Nat} (h : beginFetch s p b = some t) : standing t = standing s := by
  unfold beginFetch at h
  split at h
  · obtain ⟨u, hu, rfl⟩ := Option.map_eq_some_iff.1 h
    exact (standing_of_rel (s := u) rfl).trans (standing_freeFrame hu)
  · cases h; rfl

theorem standing_stallOn {s t : State} {p b : Nat} {w : Stalled} (h : stallOn s p b w = some t) : standing t = standing s := by
  obtain ⟨u, hu, rfl⟩ := Option.map_eq_some_iff.1 h
  exact (standing_of_rel (s := u) rfl).trans (standing_beginFetch hu)

theorem standing_readyAll {f : State → Nat → Nat → Option State} {p : Nat} (bs : List Nat) {s t : State}
    (keep : ∀ u v b, f u p b = some v → standing v = standing u) (h : readyAll f s p bs = some t) : standing t = standing s := by
  refine List.foldlRecOn (motive := fun o : Option State => ∀ v, o = some v → standing v = standing s) bs _
    (fun v hv => by cases hv; rfl) (fun o ho b _ v hv => ?_) t h
  obtain ⟨u, hu, hv⟩ := Option.bind_eq_some_iff.1 hv
  exact (keep u v b hv).trans (ho u hu)

/-! #### Reads and writes of the device's memory -/

theorem standing_tileFailed (s : State) (p t : Nat) : standing (tileFailed s p t) = standing s :=
  (standing_chargeN ..).trans (standing_errEvent ..)

theorem standing_checkTiles (s : State) (p : Nat) (ts : List Nat) : standing (checkTiles s p ts) = standing s :=
  standing_foldl _ _ fun u t => standing_ite rfl (standing_tileFailed u p t)

theorem standing_spend (s : State) (n : Nat) : standing (spend s n) = standing s := rfl

theorem standing_onBlock (s : State) (k : Nat) (f : FlashBlock → FlashBlock) : standing (onBlock s k f) = standing s := rfl

theorem standing_rewriteBlock (s : State) (p b k : Nat) : standing (rewriteBlock s p b k) = standing s :=
  standing_of_rel (rewriteBlock_rel ..)

theorem standing_retireBlock (s : State) (k : Nat) : standing (retireBlock s k) = standing s := standing_chargeFlash ..

theorem standing_readFlash (s : State) (p b retries : Nat) : standing (readFlash s p b retries) = standing s := by
  have charged : standing (if retries ≤ 2 then s
      else chargeFlash (onWear s fun w => { w with retry := w.retry + 1 }) 0x06 1) = standing s :=
    standing_ite rfl (standing_chargeFlash ..)
  have rewritten (c : Prop) [Decidable c] (t : State) :
      standing (if c then rewriteBlock (spend t 1) p b (pickBlock t) else t) = standing t :=
    standing_ite (standing_rewriteBlock ..) rfl
  unfold readFlash
  dsimp only
  split
  · exact charged
  · next k found =>
    refine standing_ite ?_ ?_
    · rw [standing_retireBlock, standing_rewriteBlock, standing_spend, rewritten, standing_onBlock, charged]
    · rw [standing_spend, rewritten, standing_onBlock, charged]

theorem standing_undecoded (s : State) (p b : Nat) (bad : BitVec 16) : standing (undecoded s p b bad) = standing s := by
  refine standing_ite rfl ((standing_errEvent ..).trans ((standing_chargeFlash ..).trans ?_))
  exact standing_of_rel (foldl_rel _ _ fun t i => poisonedTile_rel ..)

theorem standing_hostReadAt (s : State) (p : Nat) (ps : List (Option Nat)) : standing (hostReadAt s p ps) = standing s := by
  refine standing_ite rfl (standing_ite (standing_of_rel (hostReadNone_rel ..)) (standing_ite rfl ?_))
  split
  · exact standing_getD (fun t => standing_stallOn) (standing_of_rel (hostReadNone_rel ..))
  · exact (standing_violationIf ..).trans ((standing_checkTiles ..).trans (standing_of_rel (touchTiles_rel ..)))

theorem standing_hostWriteAt (s : State) (p : Nat) (ps : List (Option Nat)) (data : List Byte) :
    standing (hostWriteAt s p ps data) = standing s := by
  refine standing_ite rfl (standing_ite (standing_errEvent ..) (standing_ite rfl ?_))
  split
  · exact standing_getD (fun t => standing_stallOn) (standing_errEvent ..)
  · split
    · exact standing_errEvent ..
    · next t ready =>
      exact (standing_violationIf ..).trans ((standing_of_rel (onPart_rel ..)).trans
        (standing_readyAll _ (fun _ _ _ => standing_readyWrite) ready))

theorem standing_serve (s : State) (p : Nat) (w : Stalled) : standing (serve s p w) = standing s := by
  unfold serve
  split
  · exact standing_hostReadAt ..
  · exact standing_hostWriteAt ..
  · rfl

theorem standing_fetchDone (s : State) (p b : Nat) (bad : BitVec 16) (retries us : Nat) :
    standing (fetchDone serve s p b bad retries us) = standing s := by
  have arrived (f g : Partition → Partition) : standing (onPart
      (checkTiles (readFlash (undecoded (onPart s p f) p b bad) p b retries) p (boltTiles b)) p g) = standing s :=
    (standing_of_rel (onPart_rel ..)).trans ((standing_checkTiles ..).trans
      ((standing_readFlash ..).trans ((standing_undecoded ..).trans (standing_of_rel (onPart_rel ..)))))
  have served (t : State) : standing (serveStalled serve t p b) = standing t :=
    (standing_foldl _ _ fun u w => standing_serve u p w).trans (standing_of_rel (onPart_rel ..))
  refine standing_ite ((served _).trans ?_) rfl
  exact standing_ite (arrived ..) ((standing_of_rel (putReg_rel ..)).trans (arrived ..))

theorem standing_fetchNow {s t : State} {p b : Nat} (h : fetchNow s p b = some t) : standing t = standing s := by
  unfold fetchNow at h
  split at h
  · obtain ⟨u, hu, rfl⟩ := Option.map_eq_some_iff.1 h
    refine (standing_of_rel (putReg_rel ..)).trans ((standing_fetchDone ..).trans ?_)
    exact (standing_of_rel (s := u) rfl).trans (standing_beginFetch hu)
  · cases h; rfl

theorem standing_engineReady {s t : State} {p b : Nat} (h : engineReady s p b = some t) : standing t = standing s := by
  obtain ⟨u, hu, ht⟩ := Option.bind_eq_some_iff.1 h
  exact (standing_readyWrite ht).trans (standing_fetchNow hu)

theorem standing_engineWrite (s : State) (p c a : Nat) (pay : List Byte) (col : Collar) :
    standing (engineWrite s p c a pay col).1 = standing s := by
  unfold engineWrite
  split
  · split
    · next t ready => exact (standing_of_rel (onPart_rel ..)).trans (standing_engineReady ready)
    · rfl
  · rfl

theorem standing_devWriteRun (base : Bool) (s : State) (p a : Nat) (bs : List Byte) :
    standing (devWriteRun base s p a bs).1 = standing s := by
  simp only [devWriteRun]
  split
  case h_1 => exact standing_of_rel (putStore_rel ..)
  case h_2 => exact standing_ite rfl rfl
  case h_3 =>
    split
    · rfl
    · split
      · next t ready => exact (standing_of_rel (onPart_rel ..)).trans (standing_readyWrite ready)
      · exact standing_errEvent ..
  case h_4 => rfl

theorem standing_devWrite (s : State) (p a : Nat) (bs : List Byte) : standing (devWrite s p a bs) = standing s := by
  refine (standing_violationIf ..).trans ?_
  refine List.foldlRecOn (motive := fun r : State × Bool => standing r.1 = standing s) _ _ rfl fun r hr e _ => ?_
  dsimp only
  split
  · exact (standing_devWriteRun ..).trans hr
  · exact hr

/-! #### QUIESCE up to the end of the contexts (R352) -/

theorem standing_abandonHints (n : Nat) (s : State) (p : Nat) : standing (abandonHints n s p) = standing s := by
  induction n generalizing s with
  | zero => rfl
  | succ n ih =>
    unfold abandonHints
    split
    · rfl
    · exact (ih _).trans ((standing_of_rel (onPart_rel ..)).trans ((standing_devWrite ..).trans (standing_devWrite ..)))

theorem standing_endColl (s : State) (p : Nat) (k : Coll) (status : Nat) : standing (endColl s p k status) = standing s := by
  have told (k1 : Coll) (bs : List Byte) : standing ((partners ((partOf s p).group k.gix)).foldl
      (fun t r => sendControl t p k 3 bs r) (putColl s p k1)) = standing s :=
    standing_of_rel (foldl_rel _ _ fun t r => sendControl_rel ..)
  refine standing_ite rfl (standing_ite (told ..) ?_)
  exact (standing_foldl _ _ fun t i => standing_engineWrite ..).trans (told ..)

theorem standing_contextsQuiet (s : State) (p : Nat) : standing (contextsQuiet s p) = standing s := by
  have abandoned : standing (pkAbandon s p) = standing s :=
    (standing_of_rel (onPart_rel ..)).trans (standing_foldl _ _ fun _ _ => standing_devWrite ..)
  refine (standing_of_rel (foldl_rel _ _ fun t c => ctxReset_rel t p c)).trans ?_
  exact (standing_foldl _ _ fun t k => standing_endColl t p k _).trans ((standing_abandonHints ..).trans abandoned)

/-! #### A host link that goes down (R226) -/

theorem standing_fetchPoison (s : State) (p : Nat) (o : Option Nat) : standing (fetchPoison s p o) = standing s := by
  unfold fetchPoison
  split
  · rfl
  · split
    · exact standing_errEvent ..
    · next t h => exact (standing_of_rel (poisonedTile_rel ..)).trans (standing_engineReady h)

theorem standing_fetchTile (s : State) (p : Nat) (pay : List Byte) (c : Collar) (o : Option Nat) :
    standing (fetchTile s p pay c o).1 = standing s := by
  unfold fetchTile
  split
  · rfl
  · split
    · split
      · next t h => exact (standing_of_rel (onPart_rel ..)).trans (standing_engineReady h)
      · exact standing_errEvent ..
    · exact (standing_fetchPoison ..).trans (standing_tileFailed ..)

theorem standing_hostAsk {s t : State} {p : Nat} {kind : HostKind} {a n : Nat} {e : Nat → Emit}
    (h : hostAsk s p kind a n e = some t) : standing t = standing s := by
  obtain ⟨k, -, rfl⟩ := Option.map_eq_some_iff.1 h
  rfl

/-- The fabric and what leaves the device. -/
@[reducible] def messages : Field → Bool
  | .fabric | .out => true
  | _ => false

theorem standing_sendRequest (s : State) (mask : BitVec 18) (p c : Nat) (kind : ReqKind) (m : Msg) :
    standing (sendRequest s mask p c kind m).1 = standing s :=
  standing_of_rel (rel_of_view (F := messages) (sendRequest_view _ _ _ _ _ _ rfl rfl) rfl)

theorem standing_stashRead (s : State) (p : Nat) (e : PkEntry) (o : PocketOp) (u : Nat) :
    standing (stashRead s p e o u).1 = standing s := by
  simp only [stashRead]
  split
  · rfl
  · split
    · rfl
    · next t h =>
      exact (standing_ite (standing_of_rel (touchTiles_rel ..)) (standing_of_rel (touchTiles_rel ..))).trans (standing_fetchNow h)

theorem standing_stashUnit (s : State) (p idx : Nat) (e : PkEntry) (o : PocketOp) (u : Nat) :
    standing (stashUnit s p idx e o u).1 = standing s := by
  have read := standing_stashRead s p e o u
  unfold stashUnit
  dsimp only
  split
  · rfl
  · split
    · rfl
    · next s1 tile e1 =>
      rw [e1] at read
      split
      · split
        · next s2 e2 => exact (standing_hostAsk e2).trans read
        · exact read
      · split
        · exact (standing_sendRequest ..).trans read
        · rfl

theorem standing_fetchUnit (s : State) (p idx : Nat) (e : PkEntry) (u : Nat) :
    standing (fetchUnit s p idx e u).1 = standing s := by
  unfold fetchUnit
  dsimp only
  split
  · split
    · next t h => exact standing_hostAsk h
    · rfl
  · split
    · exact standing_sendRequest ..
    · rfl

theorem standing_pkPump (p idx fuel : Nat) (s : State) : standing (pkPump p idx fuel s) = standing s := by
  induction fuel generalizing s with
  | zero => rfl
  | succ fuel ih =>
    have asked (b : Bool) (e : PkEntry) (o : PocketOp) (u : Nat) :
        standing (if b then fetchUnit s p idx e u else stashUnit s p idx e o u).1 = standing s := by
      cases b
      · exact standing_stashUnit ..
      · exact standing_fetchUnit ..
    rw [pkPump]
    dsimp only
    split
    · rfl
    · split
      · rfl
      · split
        · rfl
        · exact (ih _).trans ((standing_onPart ..).trans (asked ..))
        · refine (ih _).trans ((standing_onPart ..).trans (standing_ite ?_ (asked ..)))
          exact (standing_foldl _ _ fun t i => standing_fetchPoison t p i).trans (asked ..)

theorem standing_pkReply (s : State) (p idx : Nat) (fails : List Nat) : standing (pkReply s p idx fails) = standing s :=
  (standing_pkPump ..).trans (standing_onPart ..)

theorem standing_pkHostArrive (s : State) (p idx k : Nat) (data : List Byte) (bad : Bool) :
    standing (pkHostArrive s p idx k data bad) = standing s := by
  unfold pkHostArrive
  split
  · rfl
  · refine (standing_pkReply ..).trans ?_
    refine List.foldlRecOn (motive := fun r : State × Bool => standing r.1 = standing s) _ _ rfl fun r hr e _ => ?_
    dsimp only
    split
    · exact (standing_fetchTile ..).trans hr
    · exact (standing_fetchPoison ..).trans hr

theorem standing_txEnd (s : State) (p n status : Nat) : standing (txEnd s p n status) = standing s := by
  unfold txEnd
  dsimp only
  refine (standing_of_rel (msix_rel ..)).trans ((standing_of_rel (putReg_rel ..)).trans ?_)
  exact (standing_ite rfl (standing_of_rel (putReg_rel ..))).trans (standing_devWrite ..)

theorem standing_hostEnd (s : State) (p : Nat) (r : HostReq) (res : Option (List Byte × Bool)) :
    standing (hostEnd s p r res) = standing s := by
  unfold hostEnd
  dsimp only
  split
  · split
    · rfl
    · rfl
  · rfl
  · exact (standing_pkHostArrive ..).trans (standing_onPart ..)
  · exact (standing_pkReply ..).trans (standing_onPart ..)
  · exact standing_ite rfl rfl
  · refine Eq.trans (standing_ite (standing_txEnd ..) (standing_ite (standing_txEnd ..) ?_)) (standing_onPart s p _)
    exact standing_txEnd ..
  · rfl
  · exact standing_ite (standing_errEvent ..) rfl

theorem standing_hostDown (s : State) (h : Nat) : standing (hostDown s h) = standing s := by
  rw [hostDown_eq]
  refine (standing_foldl _ _ fun t p => ?_).trans (standing_ite (standing_charge ..) rfl)
  exact (standing_foldl _ _ fun u r => standing_hostEnd u p r none).trans (standing_onPart ..)

/-! ### Engine resets (R348, R351) -/

/-- An engine whose reset begins. -/
def engineStopped (s : State) (e : EngineId) : State :=
  let t := engineEvent s e Status.ok
  { t with rel := { t.rel with engResets := t.rel.engResets ++ [e] } }

theorem beginEngineReset_eq {s : State} {e : EngineId} (h : s.rel.engResets.contains e = false) : beginEngineReset s e =
    match e.kind with
    | 0 => resetPathUnit (engineStopped s e) (engineCluster e)
    | 1 => resetSequencer (engineStopped s e) (2560 * e.die + e.inst)
    | 2 => resetCollEngine (engineStopped s e)
    | 5 => hostDown (engineStopped s e) (e.die - 4)
    | 6 =>
      if mreg (engineStopped s e) (M.ptSvc (e.die - 4)) 1 0 = 3 then engineStopped s e
      else putMreg (engineStopped s e) (M.ptSvc (e.die - 4)) 1 0 0
    | _ => engineStopped s e := by
  rw [beginEngineReset]
  exact (if_neg (by rw [h]; decide)).trans rfl

theorem mem_engResets_engineStopped (s : State) (e : EngineId) : e ∈ (engineStopped s e).rel.engResets := by
  simp [engineStopped]

theorem engineStopped_notesOnly (s : State) (e : EngineId) : view notesOnly (engineStopped s e) = view notesOnly s :=
  Eq.trans (b := view notesOnly (engineEvent s e Status.ok)) rfl (engineEvent_view s e _ rfl rfl)

theorem rel_resetCollEngine (s : State) : (resetCollEngine s).rel = s.rel := by
  rw [resetCollEngine]
  split
  · rfl
  · rfl

/-- An engine whose watchdog fired is in reset, if it was not before. -/
theorem mem_engResets_beginEngineReset (s : State) (e : EngineId) : e ∈ (beginEngineReset s e).rel.engResets := by
  cases h : s.rel.engResets.contains e
  · have stopped := mem_engResets_engineStopped s e
    rw [beginEngineReset_eq h]
    split
    · rwa [rel_of_view (F := coresOnly) (resetPathUnit_view _ _ rfl) rfl]
    · rwa [rel_of_view (F := coresOnly) (resetSequencer_view _ _ rfl) rfl]
    · rwa [rel_resetCollEngine]
    · rwa [engResets_of_standing (standing_hostDown ..)]
    · split
      · exact stopped
      · exact stopped
    · exact stopped
  · rw [beginEngineReset, if_pos h]
    simpa using h

/-! #### No core's registers change -/

theorem sameCores_onDma (s : State) (g id : Nat) (f : Dma → Dma) : sameCores s (onDma s g id f) := by
  refine sameCores_onCore ?_ fun _ => rfl
  exact fun k => ⟨rfl, rfl, rfl, rfl, rfl, rfl, rfl, rfl⟩

theorem sameCores_txEnd (s : State) (p n status : Nat) : sameCores s (txEnd s p n status) := by
  unfold txEnd
  dsimp only
  refine sameCores_trans (t := devWrite s p (txAddr (partOf s p) n + 0x0B) [BitVec.ofNat 8 status])
    (sameCores_devWrite s p _ _) (sameCores_of_noCores ?_)
  simp only [msix_view, putReg_view, apply_ite (view noCores), ite_self]

theorem sameCores_svcReadDone (s : State) (p n : Nat) (data : List Byte) (poison : Bool) :
    sameCores s (svcReadDone s p n data poison) := by
  rw [svcReadDone]
  split
  · exact sameCores_txEnd _ _ _ _
  · rw [txSend]
    split
    · exact sameCores_txEnd _ _ _ _
    · refine sameCores_trans ?_ (sameCores_txEnd _ _ _ _)
      exact sameCores_of_cores_eq rfl

theorem sameCores_hostEnd (s : State) (p : Nat) (r : HostReq) (res : Option (List Byte × Bool)) :
    sameCores s (hostEnd s p r res) := by
  have dropped : sameCores s (dropHostReq s p r.id) := sameCores_of_cores_eq rfl
  refine sameCores_trans dropped ?_
  unfold hostEnd
  dsimp only
  split
  · split
    · exact sameCores_onDma _ _ _ _
    · refine sameCores_trans ?_ (sameCores_onDma _ _ _ _)
      exact sameCores_trans (sameCores_onDma _ _ _ _) (sameCores_of_noCores (spend_view _ _ rfl))
  · exact sameCores_onDma _ _ _ _
  · exact sameCores_of_noCores (by simp only [pkHostArrive_view, implies_true])
  · exact sameCores_of_noCores (by simp only [pkReply_view, implies_true])
  · split
    · exact sameCores_refl _
    · exact sameCores_of_cores_eq rfl
  · exact sameCores_svcReadDone _ _ _ _ _
  · exact sameCores_refl _
  · split
    · exact sameCores_of_noCores (by simp only [errEvent_view])
    · exact sameCores_refl _

theorem sameCores_hostDown (s : State) (h : Nat) : sameCores s (hostDown s h) := by
  have dropped : sameCores s (linkDropped s h) := by
    rw [linkDropped]
    split
    · exact sameCores_of_noCores (by simp only [charge_view, putMreg_view, implies_true])
    · exact sameCores_refl s
  rw [hostDown_eq]
  refine sameCores_trans dropped (sameCores_foldl _ _ fun t p => ?_)
  exact sameCores_trans (t := onPart t p (ldUnbound h)) (sameCores_of_cores_eq rfl)
    (sameCores_foldl _ _ fun u r => sameCores_hostEnd u p r none)

theorem sameCores_engineStopped (s : State) (e : EngineId) : sameCores s (engineStopped s e) :=
  sameCores_of_view (engineStopped_notesOnly s e) rfl

theorem sameCores_beginEngineReset (s : State) (e : EngineId) : sameCores s (beginEngineReset s e) := by
  cases h : s.rel.engResets.contains e
  · refine sameCores_trans (sameCores_engineStopped s e) ?_
    rw [beginEngineReset_eq h]
    split
    · refine sameCores_foldl _ _ fun t g => sameCores_onCore ?_ fun _ => rfl
      exact fun k => ⟨rfl, rfl, rfl, rfl, rfl, rfl, rfl, rfl⟩
    · refine sameCores_onCore ?_ fun _ => rfl
      exact fun k => ⟨rfl, rfl, rfl, rfl, rfl, rfl, rfl, rfl⟩
    · exact sameCores_of_noCores (by simp only [resetCollEngine_view, implies_true])
    · exact sameCores_hostDown _ _
    · split
      · exact sameCores_refl _
      · exact sameCores_of_cores_eq rfl
    · exact sameCores_refl _
  · rw [beginEngineReset, if_pos h]
    exact sameCores_refl s

/-- An engine reset other than a host port's leaves the stores. -/
theorem stores_beginEngineReset (s : State) {e : EngineId} (hk : e.kind ≠ 5) : (beginEngineReset s e).stores = s.stores := by
  cases h : s.rel.engResets.contains e
  · have stopped : (engineStopped s e).stores = s.stores := stores_of_view (engineStopped_notesOnly s e) rfl
    rw [beginEngineReset_eq h]
    split
    · rw [stores_of_view (F := coresOnly) (resetPathUnit_view _ _ rfl) rfl, stopped]
    · rw [stores_of_view (F := coresOnly) (resetSequencer_view _ _ rfl) rfl, stopped]
    · rw [stores_of_view (F := noStores) (resetCollEngine_view _ rfl rfl fun _ => rfl) rfl, stopped]
    · next h5 => exact absurd h5 hk
    · split
      · exact stopped
      · exact stopped
    · exact stopped
  · rw [beginEngineReset, if_pos h]

/-- A path unit in reset ends its DMAs TIMEOUT. -/
theorem resetPathUnit_spec {s : State} {h g : Nat} (hg : g ∈ coresOf h) :
    ∀ d ∈ (coreOf (resetPathUnit s h) g).dmas, d.finished = true ∧ Status.timeout ∈ d.status := by
  refine coreOf_onCores_made (P := fun k => ∀ d ∈ k.dmas, d.finished = true ∧ Status.timeout ∈ d.status) s hg _
    fun k d hd => ?_
  obtain ⟨d', -, rfl⟩ := List.mem_map.1 hd
  exact ⟨rfl, by simp⟩

/-- A sequencer in reset fails its operations. -/
theorem resetSequencer_spec (s : State) (g : Nat) : ∀ m ∈ (coreOf (resetSequencer s g) g).mops, m.failed = true := by
  intro m hm
  rw [resetSequencer, coreOf_onCore] at hm
  obtain ⟨m', -, rfl⟩ := List.mem_map.1 hm
  rfl

/-! ### Watchdogs and heartbeats (R348, R349, R354) -/

/-- The event of a row is noted. -/
theorem event_errEvent (s : State) (p i : Nat) (hi : i < 64) (hc : R.errEvents ≠ R.errCnt i) :
    reg (errEvent s p i) p R.errEvents i i = 1 := by
  have noted (t : State) : reg (putReg t p R.errEvents i i 1) p R.errEvents i i = 1 := by
    rw [reg_putReg _ _ _ _ _ _ (Nat.le_refl i) hi]
    simp
  rw [errEvent]
  split
  · rw [reg_msix, reg_putReg_ne _ _ _ _ _ _ _ _ _ hc, noted]
  · rw [reg_putReg_ne _ _ _ _ _ _ _ _ _ hc, noted]

theorem ptstate_errEvent (s : State) (p i q : Nat) : (partOf (errEvent s p i) q).ptstate = (partOf s q).ptstate :=
  part_of_view (F := noBindings) (fun x => x.ptstate) (errEvent_view _ _ _ rfl rfl rfl rfl) fun _ => rfl

/-- The start of a counted reset of a LIVE partition (R352, R355). -/
theorem countedReset_spec {s : State} {p : Nat} (hl : (partOf s p).ptstate = 1) (hd : s.rel.dph = 0) :
    (partOf (beginPartReset s p true false) p).ptstate = 5 ∧ (partOf (beginPartReset s p true false) p).rcount = true := by
  have begun (x : Partition) : (resetBegun x true false).ptstate = 5 ∧ (resetBegun x true false).rcount = true := ⟨rfl, rfl⟩
  rw [partOf_beginPartReset_live hl hd]
  exact begun _

/-- A role that missed its heartbeat is noted, with its partition and the time. -/
def silentNoted (s : State) (p role : Nat) : State :=
  let t := errEvent s p 16
  { t with rel := { t.rel with
    fwSilent := (s.rel.fwSilent.filter fun e => !(e.1 == p && e.2.1 == role)) ++ [(p, role, ioaNow s)] } }

theorem heartbeatMiss_eq {s : State} {p role : Nat} (hl : (partOf s p).ptstate = 1) (hf : firmwareUp s = true)
    (hserves : servesPart s p role = true) : heartbeatMiss s p role =
      if (s.rel.fwSilent.any fun e => e.1 == p && e.2.1 == role && decide (ioaNow s ≤ e.2.2 + 20000000)) then
        beginPartReset (errEvent s p 16) p true false
      else beginEngineReset (silentNoted s p role) (roleEngine role) := by
  rw [heartbeatMiss]
  exact if_neg (by simp [hl, hf, hserves])

/-- A firmware role is restarted by the reset of its core, which changes nothing beside. -/
theorem beginEngineReset_role (s : State) (role : Nat) :
    view notesOnly (beginEngineReset s (roleEngine role)) = view notesOnly s ∧
    (beginEngineReset s (roleEngine role)).rel.fwSilent = s.rel.fwSilent := by
  cases h : s.rel.engResets.contains (roleEngine role)
  · have heq : beginEngineReset s (roleEngine role) = engineStopped s (roleEngine role) := beginEngineReset_eq h
    have silent : (engineEvent s (roleEngine role) Status.ok).rel.fwSilent = s.rel.fwSilent :=
      fwSilent_of_standing (standing_eventRecord ..)
    rw [heq]
    exact ⟨engineStopped_notesOnly s _, silent⟩
  · rw [beginEngineReset, if_pos h]
    exact ⟨rfl, rfl⟩

theorem silentNoted_spec (s : State) (p role : Nat) : (p, role, ioaNow s) ∈ (silentNoted s p role).rel.fwSilent ∧
    (silentNoted s p role).parts = (errEvent s p 16).parts ∧ (silentNoted s p role).stores = (errEvent s p 16).stores := by
  refine ⟨?_, rfl, rfl⟩
  simp [silentNoted]

/-- An engine that was in reset is back (R350). -/
theorem engineBack_spec {s : State} {e : EngineId} (h : s.rel.engResets.contains e = true) :
    e ∉ (engineBack s e).rel.engResets ∧ (engineBack s e).cores = s.cores ∧ (engineBack s e).parts = s.parts ∧
    (engineBack s e).stores = s.stores := by
  have event (u : State) : view notesOnly (engineEvent u e Status.ok) = view notesOnly u := engineEvent_view _ _ _ rfl rfl
  have kept (u : State) : (engineEvent u e Status.ok).rel.engResets = u.rel.engResets :=
    engResets_of_standing (standing_eventRecord ..)
  have acts : engineBack s e = engineEvent
      { s with rel := { s.rel with engResets := s.rel.engResets.filter fun x => x != e } } e Status.ok := if_pos h
  rw [acts]
  refine ⟨?_, (cores_of_view (event _) rfl).trans rfl, (parts_of_view (event _) rfl).trans rfl,
    (stores_of_view (event _) rfl).trans rfl⟩
  rw [kept]
  simp

/-- Settles O49, by what an engine reset makes of each kind of engine and by the starts of partition and device resets. -/
theorem watchdogsRestartUnits : Obligations.WatchdogsRestartUnits := by
  unfold Obligations.WatchdogsRestartUnits
  intro s takes
  refine ⟨fun e he => ⟨fun hf hno => ?_, fun hyes => ?_, fun p hyes hpart hl hd => ?_, fun hyes hpart ht => ?_⟩,
    fun p role hp hrole hl hf hserves => ⟨fun hagain => ?_, fun hagain => ?_⟩, fun hf ht => ?_, rfl⟩
  · have hno' : (charge s 0x10 12 (engineIndex e)).rel.engResets.contains e = false := by
      rw [engResets_of_standing (standing_charge ..), hno]
    have charged : sameCores s (charge s 0x10 12 (engineIndex e)) := sameCores_of_view (charge_chargeOnly ..) rfl
    refine ⟨_, exec_next_of_eq rfl he (when_of_true hf), mem_engResets_beginEngineReset .., fun hk g hg => ?_, fun hk => ?_, fun g => ?_,
      fun hk => ?_⟩
    · rw [beginEngineReset_eq hno', hk]
      exact resetPathUnit_spec hg
    · rw [beginEngineReset_eq hno', hk]
      exact fun m hm => resetSequencer_spec _ _ m hm
    · exact (sameCores_trans charged (sameCores_beginEngineReset _ e) g).1
    · rw [stores_beginEngineReset _ hk, stores_of_view (charge_chargeOnly ..) rfl]
  · exact ⟨_, exec_next_of_eq rfl he rfl, engineBack_spec hyes⟩
  · have acts : when_ (s.rel.engResets.contains e) s (match enginePart s e with
        | some p => beginPartReset s p true false
        | none => beginDevReset s true) = beginPartReset s p true false := by rw [when_of_true hyes, hpart]
    exact ⟨_, exec_next_of_eq rfl he acts, countedReset_spec hl hd⟩
  · have acts : when_ (s.rel.engResets.contains e) s (match enginePart s e with
        | some p => beginPartReset s p true false
        | none => beginDevReset s true) = beginDevReset s true := by rw [when_of_true hyes, hpart]
    exact ⟨_, exec_next_of_eq rfl he acts, devReset_dph ht true⟩
  · have acts : heartbeatMiss s p role = beginEngineReset (silentNoted s p role) (roleEngine role) :=
      (heartbeatMiss_eq hl hf hserves).trans (if_neg (by rw [hagain]; decide))
    obtain ⟨hview, hsilent⟩ := beginEngineReset_role (silentNoted s p role) role
    obtain ⟨noted, parts, stores⟩ := silentNoted_spec s p role
    have part : partOf (beginEngineReset (silentNoted s p role) (roleEngine role)) p = partOf (errEvent s p 16) p := by
      rw [partOf, parts_of_view hview rfl, parts, partOf]
    refine ⟨_, exec_next_of_eq rfl (by simp [Instr.wf, partOk, hp, hrole]) acts, mem_engResets_beginEngineReset .., ?_,
      hsilent ▸ noted, ?_, ?_⟩
    · rw [reg, part]
      exact event_errEvent s p 16 (by decide) (by decide)
    · rw [part, ptstate_errEvent, hl]
    · rw [stores_of_view hview rfl, stores]
      exact stores_of_view (F := deviceRead p) (errEvent_view _ _ _ rfl rfl (beq_self_eq_true p) rfl) rfl
  · have acts : heartbeatMiss s p role = beginPartReset (errEvent s p 16) p true false :=
      (heartbeatMiss_eq hl hf hserves).trans (if_pos hagain)
    refine ⟨_, exec_next_of_eq rfl (by simp [Instr.wf, partOk, hp, hrole]) acts, countedReset_spec ?_ ?_⟩
    · rw [ptstate_errEvent, hl]
    · rw [errEvent_rel]
      exact dph_of_firmwareUp hf
  · exact ⟨_, exec_next_of_eq rfl rfl (when_of_true hf), devReset_dph ht true⟩

/-! ### Charges are counted (R333) -/

/-- The events of a class charged to a core. -/
def charged (s : State) (cls g : Nat) : Nat := (sget UnitCount.zero s.rel.counts (unitKey cls 1 g)).cnt.toNat

theorem counts_eventRecord (s : State) (cls ut idx flg det : Nat) : (eventRecord s cls ut idx flg det).rel.counts = s.rel.counts := by
  simp only [eventRecord, apply_ite State.rel, apply_ite Rel.counts, (counts_healthRecord _ _ _ _).2, ite_self]

theorem counts_voteResult (s : State) (p : Nat) (vid : BitVec 32) (code cls core : Nat) :
    (voteResult s p vid code cls core).rel.counts = s.rel.counts := by
  rw [voteResult, counts_eventRecord]
  split
  · rw [errEvent_rel]
    rfl
  · rfl

theorem counts_charge (s : State) (cls ut idx : Nat) : (charge s cls ut idx).rel.counts =
    sset .zero s.rel.counts (unitKey cls ut idx) ((sget .zero s.rel.counts (unitKey cls ut idx)).add 1 (weightOf s cls)) := by
  have recorded (t : State) (c : Bool) (flg : Nat) :
      (if c then eventRecord t cls ut idx flg 0 else t).rel.counts = t.rel.counts := by
    split
    · exact counts_eventRecord ..
    · rfl
  rw [charge, chargeN]
  dsimp only
  split
  · split
    · rw [errEvent_rel, recorded]
    · rw [recorded]
  · rw [recorded]

/-- A charge counts one event of its class, saturating. -/
theorem charged_charge (s : State) (cls g : Nat) : charged (charge s cls 1 g) cls g = satTo 32 (charged s cls g + 1) := by
  rw [charged, counts_charge, sget_sset, UnitCount.add, charged]
  refine Nat.mod_eq_of_lt ?_
  exact Nat.lt_of_le_of_lt (Nat.min_le_right _ _) (by decide)

theorem charged_voteResult (s : State) (p : Nat) (vid : BitVec 32) (code cls core k g : Nat) :
    charged (voteResult s p vid code cls core) k g = charged s k g := by
  rw [charged, counts_voteResult, charged]

/-! ### Votes (R341-R343) -/

theorem voteOf_eq_none {s : State} {vid : BitVec 32} : voteOf s vid = none ↔ ∀ v ∈ s.rel.votes, v.vid ≠ vid := by
  simp [voteOf]

theorem voteOf_of_standing {s t : State} (h : standing t = standing s) (vid : BitVec 32) : voteOf t vid = voteOf s vid := by
  rw [voteOf, votes_of_standing h, voteOf]

theorem voteOf_dropVote (s : State) (vid : BitVec 32) : voteOf (dropVote s vid) vid = none := by
  rw [voteOf_eq_none]
  intro v hv
  simpa using (List.mem_filter.1 hv).2

theorem vid_of_voteOf {s : State} {v : Vote} {vid : BitVec 32} (h : voteOf s vid = some v) : v.vid = vid := by
  simpa using List.find?_some h

theorem voteRecompute_eq {s : State} {v : Vote} {vid : BitVec 32} {r1 r2 : Recompute} {g1 g2 : Nat} (hv : voteOf s vid = some v)
    (hmay : mayVote s v g1 g2 = true) : voteRecompute s vid r1 r2 g1 g2 =
      voteDecide (dropVote s vid) v (agree v.tol (withP0 v r1) v.orig) (agree v.tol (withP0 v r2) v.orig)
        (agree v.tol (withP0 v r1) (withP0 v r2)) g1 g2 := by
  simp only [voteRecompute, hv, hmay, Bool.not_true, Bool.false_eq_true, if_false]

/-- What a vote's outcome touches without a reset. -/
theorem voteResult_chargeOnly (s : State) (p : Nat) (vid : BitVec 32) (code cls core : Nat) :
    view chargeOnly (voteResult s p vid code cls core) = view chargeOnly s := by
  simp only [voteResult_view]

theorem chargeChecker_chargeOnly (s : State) (v : Vote) : view chargeOnly (chargeChecker s v) = view chargeOnly s := by
  rw [chargeChecker]
  split
  · exact charge_chargeOnly ..
  · rfl

/-- Outcome CHECKER: a kernel is disabled, an audit charges the core (Table 14-5). -/
theorem chargeChecker_spec (s : State) (v : Vote) : (chargeChecker s v).rel.votes = s.rel.votes ∧
    (∀ k, v.kernel = some k → k ∈ (chargeChecker s v).rel.badKern) ∧
    (v.kernel = none → charged (chargeChecker s v) 0x11 v.core = satTo 32 (charged s 0x11 v.core + 1)) := by
  rw [chargeChecker]
  split
  next hk =>
    exact ⟨votes_of_standing (standing_charge ..), fun k h => by simp [hk] at h, fun _ => charged_charge ..⟩
  next j hk =>
    refine ⟨rfl, fun k h => ?_, fun h => by simp [hk] at h⟩
    obtain rfl : j = k := by simpa [hk] using h
    simp

theorem standing_resetEvent (s : State) (cls p status : Nat) : standing (resetEvent s cls p status) = standing s :=
  standing_eventRecord ..

theorem standing_setPtstate (s : State) (p v : Nat) : standing (setPtstate s p v) = standing s := rfl

theorem votes_quiesced (s : State) (p : Nat) : (onPart (unitsQuiet s p) p Partition.quiesced).rel.votes = s.rel.votes := rfl

/-- The votes that a partition's reset leaves are some of those before. -/
theorem votes_beginPartReset_live {s : State} {p : Nat} (hl : (partOf s p).ptstate = 1) (hd : s.rel.dph = 0)
    (counted dying : Bool) : ∃ pick, (beginPartReset s p counted dying).rel.votes = s.rel.votes.filter pick := by
  have aborted (t : State) (pick : Vote → Bool) : (abortVotes t pick).rel.votes = t.rel.votes.filter fun v => !pick v :=
    votes_of_standing (standing_foldl _ { t with rel := { t.rel with votes := t.rel.votes.filter fun v => !pick v } }
      fun u v => (standing_voteResult ..).trans (standing_spend u 1))
  have quiet : (quiescePart s p).rel.votes = s.rel.votes.filter fun v => !(v.part == p) := by
    rw [quiescePart_eq, aborted, votes_quiesced, votes_of_standing (standing_contextsQuiet s p)]
  have begun (u : State) : (resetEvent (setPtstate (onPart u p fun x =>
      { x with dying := dying, rcount := counted, pph := 1 }) p 5) 0x16 p Status.ok).rel.votes = u.rel.votes :=
    votes_of_standing ((standing_resetEvent ..).trans (standing_setPtstate ..))
  exact ⟨_, by rw [beginPartReset_live hl hd, begun, quiet]⟩

/-- The votes without one: a partition's reset brings none back. -/
theorem voteOf_beginPartReset_live {s : State} {p : Nat} (hl : (partOf s p).ptstate = 1) (hd : s.rel.dph = 0)
    (counted dying : Bool) {vid : BitVec 32} (h : voteOf s vid = none) : voteOf (beginPartReset s p counted dying) vid = none := by
  obtain ⟨pick, hvotes⟩ := votes_beginPartReset_live hl hd counted dying
  rw [voteOf_eq_none] at h ⊢
  intro v hv
  exact h v (List.mem_filter.1 (hvotes ▸ hv)).1

/-! #### The outcomes (Table 14-5) -/

/-- Both recomputes agree with the original: outcome CHECKER. -/
theorem voteDecide_checker (s : State) (v : Vote) (ab : Bool) (g1 g2 : Nat) : voteDecide s v true true ab g1 g2 =
    voteResult (chargeChecker s v) v.part v.vid Vout.checker 0x11 v.core := rfl

/-- The recomputes agree against the original: outcome ORIGINAL. -/
theorem voteDecide_original (s : State) (v : Vote) {a b : Bool} (h : (a && b) = false) (g1 g2 : Nat) :
    voteDecide s v a b true g1 g2 = voteResult (charge s 0x12 1 v.core) v.part v.vid Vout.original 0x12 v.core := by
  rw [voteDecide, h]
  rfl

/-- No two agree: outcome SPLIT, which charges all three cores. -/
def splitVote (s : State) (v : Vote) (g1 g2 : Nat) : State :=
  voteResult ([v.core, g1, g2].foldl (fun t g => charge t 0x13 1 g) s) v.part v.vid Vout.split 0x13 v.core

theorem voteDecide_split (s : State) {v : Vote} (h : v.part < 16) (g1 g2 : Nat) :
    voteDecide s v false false false g1 g2 = beginPartReset (splitVote s v g1 g2) v.part true false := by
  rw [voteDecide]
  exact if_pos h

theorem standing_splitVote (s : State) (v : Vote) (g1 g2 : Nat) : standing (splitVote s v g1 g2) = standing s :=
  (standing_voteResult ..).trans (standing_foldl _ _ fun t g => standing_charge t 0x13 1 g)

theorem ptstate_splitVote (s : State) (v : Vote) (g1 g2 p : Nat) :
    (partOf (splitVote s v g1 g2) p).ptstate = (partOf s p).ptstate :=
  part_of_view (F := chargeOnly) (fun x => x.ptstate)
    ((voteResult_chargeOnly ..).trans (view_foldl _ _ fun t g => charge_chargeOnly t 0x13 1 g)) fun _ => rfl

/-- Outcome NONE charges the core and changes neither core nor store. -/
theorem voteNone_spec (s : State) (p : Nat) (vid : BitVec 32) (g : Nat) : standing (voteNone s p vid g) = standing s ∧
    charged (voteNone s p vid g) 0x14 g = satTo 32 (charged s 0x14 g + 1) ∧
    view chargeOnly (voteNone s p vid g) = view chargeOnly s :=
  ⟨(standing_voteResult ..).trans (standing_charge ..), (charged_voteResult ..).trans (charged_charge ..),
    (voteResult_chargeOnly ..).trans (charge_chargeOnly ..)⟩

/-! ### Known-answer kernels (R339, R340) -/

theorem kernelStart_eq {s : State} {g k : Nat} (hs : serving s = true) (hslice : inSlice s g = true)
    (hidle : sget 0 s.rel.kernels g = 0) (hgood : s.rel.badKern.contains k = false)
    (hroom : s.rel.kernels.length < mreg s M.hrCfg 9 0) :
    kernelStart s g k = { s with rel := { s.rel with kernels := sset 0 s.rel.kernels g (k + 1) } } := by
  rw [kernelStart]
  have good : k ∉ s.rel.badKern := by simpa using hgood
  exact if_pos (by simp [hs, hslice, hidle, good, hroom])

/-- A slice core whose run has ended. -/
def kernelFreed (s : State) (g : Nat) : State := { s with rel := { s.rel with kernels := sset 0 s.rel.kernels g 0 } }

theorem kernelComplete_golden {s : State} {g k : Nat} (hrun : sget 0 s.rel.kernels g = k + 1) :
    kernelComplete s g (Config.goldenDigest k) = kernelFreed s g := by
  rw [kernelComplete, hrun]
  exact (if_neg (Nat.succ_ne_zero k)).trans (if_pos rfl)

/-- The vote that a wrong digest opens. -/
def kernelVote (s : State) (g k : Nat) (d : BitVec 384) : Vote :=
  { vid := s.rel.nextVid, part := (unitPart s 1 g).getD 16, core := g, kernel := some k, orig := .digest d
    check := .digest (Config.goldenDigest k), tol := [], p0 := [] }

theorem kernelComplete_wrong {s : State} {g k : Nat} (hrun : sget 0 s.rel.kernels g = k + 1) {d : BitVec 384}
    (hd : d ≠ Config.goldenDigest k) (hroom : ∀ p, unitPart s 1 g = some p → votesOf s p < 4) :
    kernelComplete s g d = { s with rel := { s.rel with
      kernels := sset 0 s.rel.kernels g 0, nextVid := s.rel.nextVid + 1, votes := s.rel.votes ++ [kernelVote s g k d] } } := by
  have free : ¬((unitPart s 1 g).getD 16 < 16 ∧ 4 ≤ votesOf s ((unitPart s 1 g).getD 16)) := by
    cases h : unitPart s 1 g with
    | none => simp
    | some p =>
      have := hroom p h
      simp only [Option.getD_some]
      omega
  rw [kernelComplete, hrun]
  exact (if_neg (Nat.succ_ne_zero k)).trans ((if_neg hd).trans ((if_neg free).trans rfl))

/-- Settles O48, by what each outcome of a vote charges, and by what charges and records leave alone. -/
theorem kernelsAndVotes : Obligations.KernelsAndVotes := by
  unfold Obligations.KernelsAndVotes
  constructor
  · intro s g k hg hk only
    refine ⟨fun hs hslice hidle hgood hroom => ?_, fun d hrun hroom => ?_⟩
    · refine ⟨_, exec_next_of_eq rfl (by simp [Instr.wf, coreOk, hg, hk]) (kernelStart_eq hs hslice hidle hgood hroom), ?_, ?_, rfl, rfl⟩
      · exact sget_sset ..
      · exact fun h hh => sget_sset_ne _ _ _ _ _ _ hh
    · have hwf : Instr.wf (.kernelComplete g d) = true := by simp [Instr.wf, coreOk, hg]
      by_cases hd : d = Config.goldenDigest k
      · subst hd
        exact ⟨_, exec_next_of_eq rfl hwf (kernelComplete_golden hrun), sget_sset .., fun _ => rfl, fun h => absurd rfl h, rfl, rfl,
          rfl, rfl, rfl⟩
      · exact ⟨_, exec_next_of_eq rfl hwf (kernelComplete_wrong hrun hd hroom), sget_sset .., fun h => absurd h hd,
          fun _ => ⟨_, rfl, rfl, rfl, rfl, rfl, rfl⟩, rfl, rfl, rfl, rfl, rfl⟩
  · intro s v vid r1 r2 g1 g2 hg1 hg2 hv count a b c
    refine ⟨fun hmay ha hb => ?_, fun hmay hab hc => ?_, fun hmay ha hb hc hpart hl hd => ?_, ?_⟩
    · have acts : voteRecompute s vid r1 r2 g1 g2 = voteResult (chargeChecker (dropVote s vid) v) v.part v.vid Vout.checker 0x11 v.core := by
        rw [voteRecompute_eq hv hmay, show agree v.tol (withP0 v r1) v.orig = true from ha,
          show agree v.tol (withP0 v r2) v.orig = true from hb, voteDecide_checker]
      have hwf : Instr.wf (.voteRecomputeComplete vid r1 r2 g1 g2) = true := by simp [Instr.wf, coreOk, hg1, hg2]
      obtain ⟨votes, disabled, counted⟩ := chargeChecker_spec (dropVote s vid) v
      have hv := (voteResult_chargeOnly (chargeChecker (dropVote s vid) v) v.part v.vid Vout.checker 0x11 v.core).trans
        (chargeChecker_chargeOnly ..)
      have hst := standing_voteResult (chargeChecker (dropVote s vid) v) v.part v.vid Vout.checker 0x11 v.core
      refine ⟨_, exec_next_of_eq rfl hwf acts, ?_, fun k hk => ?_, fun hk => ?_, (cores_of_view hv rfl).trans rfl,
        (stores_of_view hv rfl).trans rfl⟩
      · rw [voteOf_of_standing hst, voteOf, votes, ← voteOf, voteOf_dropVote]
      · rw [badKern_of_standing hst]
        exact disabled k hk
      · exact (charged_voteResult ..).trans (counted hk)
    · have acts : voteRecompute s vid r1 r2 g1 g2 =
          voteResult (charge (dropVote s vid) 0x12 1 v.core) v.part v.vid Vout.original 0x12 v.core := by
        rw [voteRecompute_eq hv hmay, show agree v.tol (withP0 v r1) (withP0 v r2) = true from hc, voteDecide_original _ _ hab]
      have hwf : Instr.wf (.voteRecomputeComplete vid r1 r2 g1 g2) = true := by simp [Instr.wf, coreOk, hg1, hg2]
      have hv := (voteResult_chargeOnly (charge (dropVote s vid) 0x12 1 v.core) v.part v.vid Vout.original 0x12 v.core).trans
        (charge_chargeOnly ..)
      have hst := (standing_voteResult (charge (dropVote s vid) 0x12 1 v.core) v.part v.vid Vout.original 0x12 v.core).trans
        (standing_charge ..)
      refine ⟨_, exec_next_of_eq rfl hwf acts, ?_, ?_, (badKern_of_standing hst).trans rfl, (cores_of_view hv rfl).trans rfl,
        (stores_of_view hv rfl).trans rfl⟩
      · rw [voteOf_of_standing hst, voteOf_dropVote]
      · exact (charged_voteResult ..).trans ((charged_charge ..).trans rfl)
    · have acts : voteRecompute s vid r1 r2 g1 g2 = beginPartReset (splitVote (dropVote s vid) v g1 g2) v.part true false := by
        rw [voteRecompute_eq hv hmay, show agree v.tol (withP0 v r1) v.orig = false from ha,
          show agree v.tol (withP0 v r2) v.orig = false from hb, show agree v.tol (withP0 v r1) (withP0 v r2) = false from hc,
          voteDecide_split _ hpart]
      have hwf : Instr.wf (.voteRecomputeComplete vid r1 r2 g1 g2) = true := by simp [Instr.wf, coreOk, hg1, hg2]
      have hst := standing_splitVote (dropVote s vid) v g1 g2
      have hl' : (partOf (splitVote (dropVote s vid) v g1 g2) v.part).ptstate = 1 := (ptstate_splitVote ..).trans hl
      have hd' : (splitVote (dropVote s vid) v g1 g2).rel.dph = 0 := (dph_of_standing hst).trans hd
      refine ⟨_, exec_next_of_eq rfl hwf acts, voteOf_beginPartReset_live hl' hd' _ _ ?_, (countedReset_spec hl' hd').1⟩
      rw [voteOf_of_standing hst, voteOf_dropVote]
    · have acts : (match voteOf s vid with
          | some v => voteNone (dropVote s vid) v.part vid v.core
          | none => s) = voteNone (dropVote s vid) v.part vid v.core := by rw [hv]
      obtain ⟨hst, counted, hview⟩ := voteNone_spec (dropVote s vid) v.part vid v.core
      refine ⟨_, exec_next_of_eq rfl rfl acts, ?_, counted, (cores_of_view hview rfl).trans rfl,
        (clusters_of_view hview rfl).trans rfl, (stores_of_view hview rfl).trans rfl⟩
      rw [voteOf_of_standing hst, voteOf_dropVote]

end Sys2Proof.Proofs
end

section
/-! Proofs about the Ringmaster of a partition: its start and end, its requests and its step records. -/

namespace Sys2Proof.Proofs

open Sys2Proof.Machine Sys2Proof.Safety Sys2Proof.Laws

/-! ### Requests of a Ringmaster (R300, R303 to R305) -/

/-- What the commands of the Ringmaster of partition `p` may change: the partition, pending vectors, wear, stores and the cores'
notes about code. -/
@[reducible] def instanceOf (p : Nat) : Field → Bool
  | .part q | .regs q | .mem q | .hbm q => q == p
  | .vec _ | .freeIx | .out | .cores | .stores | .tags | .parts | .wardrobe | .rel => true
  | .steady | .sec | .fuses | .clusters | .mregs | .dieCtr | .osc | .fabric | .pwr | .pattern | .tap => false

/-- What the requests of partition `p`'s Ringmaster are: the queue, the running sequences and the order of joining. -/
def requests (s : State) (p : Nat) : List QReq × Sparse Seq × Nat :=
  ((partOf s p).ring.queue, (partOf s p).ring.seqs, (partOf s p).ring.tick)

/-- What a command keeps beside its partition: cores' registers, clusters and the other partitions. -/
structure Beside (p : Nat) (s t : State) : Prop where
  cores : sameCores s t
  clusters : t.clusters = s.clusters
  others : elsewhere s t p

theorem beside_trans {p : Nat} {s t u : State} (h : Beside p s t) (h' : Beside p t u) : Beside p s u :=
  ⟨sameCores_trans h.cores h'.cores, h'.clusters.trans h.clusters, elsewhere_trans h.others h'.others⟩

theorem beside_refl (p : Nat) (s : State) : Beside p s s := ⟨sameCores_refl s, rfl, fun _ _ => rfl⟩

theorem beside_foldl {α : Type} {p : Nat} {f : State → α → State} (l : List α) (s : State) (step : ∀ t a, Beside p t (f t a)) :
    Beside p s (l.foldl f s) := by
  induction l generalizing s with
  | nil => exact beside_refl p s
  | cons a l ih => exact beside_trans (step s a) (ih (f s a))

theorem beside_onPart (s : State) (p : Nat) (f : Partition → Partition) : Beside p s (onPart s p f) :=
  ⟨sameCores_of_cores_eq rfl, rfl, fun q hq => by rw [partOf_onPart_ne _ _ _ _ hq]⟩

theorem beside_of_view {F : Field → Bool} {s t : State} {p : Nat} (h : view F t = view F s)
    (hF : F .cores = false ∧ F .clusters = false)
    (hq : ∀ q, q ≠ p → F (.part q) = false ∧ F (.regs q) = false ∧ F (.mem q) = false ∧ F (.hbm q) = false) : Beside p s t :=
  ⟨sameCores_of_view h hF.1, clusters_of_view h hF.2, elsewhere_of_view h hq⟩

theorem beside_devRead (s : State) (p a n : Nat) : Beside p s (devRead s p a n).2 :=
  beside_of_view (devRead_deviceRead s p a n) ⟨rfl, rfl⟩ fun q hq => by simp [deviceRead, hq]

theorem beside_devWrite (s : State) (p a : Nat) (bs : List Byte) : Beside p s (devWrite s p a bs) :=
  ⟨sameCores_devWrite s p a bs, clusters_of_view (devWrite_deviceAccess s p a bs) rfl,
    elsewhere_of_view (devWrite_deviceAccess s p a bs) fun _ hq => apart_deviceAccess hq⟩

theorem beside_msix (s : State) (p v : Nat) : Beside p s (msix s p v) :=
  beside_of_view (msix_view (F := registersOf p) s p v rfl rfl rfl) ⟨rfl, rfl⟩ fun _ hq => apart_registersOf hq

theorem beside_hostPut {s t : State} {p : Nat} {kind : HostKind} {a : Nat} {bs : List Byte} {poison : Bool}
    (h : hostPut s p kind a bs poison = some t) : Beside p s t := by
  obtain ⟨l, _, rfl⟩ := Option.map_eq_some_iff.1 h
  refine beside_trans ?_ (beside_of_view (F := registersOf p) (emit_view _ _ rfl) ⟨rfl, rfl⟩ fun _ hq => apart_registersOf hq)
  exact beside_onPart s p _

theorem beside_carWrite (s : State) (p : Nat) (q : QReq) (a : Nat) (bs : List Byte) : Beside p s (carWrite s p q a bs) := by
  unfold carWrite
  split
  · split
    · next t h => exact beside_hostPut h
    · exact beside_onPart ..
  · exact beside_devWrite ..

theorem beside_carEnd (s : State) (p : Nat) (q : QReq) (fork len reason status : Nat) :
    Beside p s (carEnd s p q fork len reason status) := by
  unfold carEnd carRecord
  exact beside_trans (beside_carWrite ..) (beside_onPart ..)

theorem beside_carFlush (s : State) (p : Nat) : Beside p s (carFlush s p) := by
  unfold carFlush
  exact beside_trans (beside_trans (beside_foldl _ _ fun t q => beside_carWrite ..) (beside_onPart ..))
    (beside_foldl _ _ fun t i => beside_msix ..)

theorem beside_noteFinished (s : State) (p : Nat) (id : BitVec 32) : Beside p s (noteFinished s p id) := by
  unfold noteFinished onRing
  exact beside_onPart ..

theorem rmRecordEnd_eq (s : State) (p a status : Nat) : ∃ hdr bs head, rmRecordEnd s p a status =
    onRing (carFlush (devWrite (devWrite s p (a + 8) (toLE 1 status)) p hdr bs) p) p fun y => { y with head := head } :=
  ⟨_, _, _, rfl⟩

theorem beside_rmRecordEnd (s : State) (p a status : Nat) : Beside p s (rmRecordEnd s p a status) := by
  obtain ⟨hdr, bs, head, h⟩ := rmRecordEnd_eq s p a status
  rw [h]
  exact beside_trans (beside_trans (beside_trans (beside_devWrite ..) (beside_devWrite ..)) (beside_carFlush ..)) (beside_onPart ..)

theorem requests_of_view {F : Field → Bool} {s t : State} {p : Nat} (h : view F t = view F s) (hF : F (.part p) = false) :
    requests t p = requests s p :=
  part_of_view (fun x => (x.ring.queue, x.ring.seqs, x.ring.tick)) h fun x => by simp [viewPart, hF]

theorem requests_foldl {α : Type} {p : Nat} {f : State → α → State} (l : List α) (s : State)
    (step : ∀ t a, requests (f t a) p = requests t p) : requests (l.foldl f s) p = requests s p := by
  induction l generalizing s with
  | nil => rfl
  | cons a l ih => exact (ih (f s a)).trans (step s a)

theorem requests_devWrite (s : State) (p a : Nat) (bs : List Byte) : requests (devWrite s p a bs) p = requests s p :=
  requests_of_view (devWrite_deviceAccess s p a bs) rfl

theorem requests_devRead (s : State) (p a n : Nat) : requests (devRead s p a n).2 p = requests s p :=
  requests_of_view (devRead_deviceRead s p a n) rfl

/-- A change of the Ringmaster that leaves queue, sequences and order. -/
theorem requests_onRing {s t : State} {p : Nat} {f : Ring → Ring} (h : requests t p = requests s p)
    (hf : ∀ r, (f r).queue = r.queue ∧ (f r).seqs = r.seqs ∧ (f r).tick = r.tick) : requests (onRing t p f) p = requests s p := by
  obtain ⟨hq, hs, ht⟩ := hf (partOf t p).ring
  rw [← h, requests, onRing, partOf_onPart, hq, hs, ht, requests]

theorem requests_hostPut {s t : State} {p : Nat} {kind : HostKind} {a : Nat} {bs : List Byte} {poison : Bool}
    (h : hostPut s p kind a bs poison = some t) : requests t p = requests s p := by
  obtain ⟨l, _, rfl⟩ := Option.map_eq_some_iff.1 h
  refine (requests_of_view (F := registersOf p) (emit_view _ _ rfl) rfl).trans ?_
  rw [requests, partOf_onPart, requests]

theorem requests_carWrite (s : State) (p : Nat) (q : QReq) (a : Nat) (bs : List Byte) :
    requests (carWrite s p q a bs) p = requests s p := by
  unfold carWrite
  split
  · split
    · next t h => exact requests_hostPut h
    · exact requests_onRing rfl fun r => ⟨rfl, rfl, rfl⟩
  · exact requests_devWrite ..

theorem requests_carEnd (s : State) (p : Nat) (q : QReq) (fork len reason status : Nat) :
    requests (carEnd s p q fork len reason status) p = requests s p := by
  unfold carEnd carRecord
  exact requests_onRing (requests_carWrite ..) fun r => ⟨rfl, rfl, rfl⟩

theorem requests_carFlush (s : State) (p : Nat) : requests (carFlush s p) p = requests s p := by
  unfold carFlush
  refine (requests_foldl _ _ fun t i => requests_of_view (msix_view (F := registersOf p) t p _ rfl rfl rfl) rfl).trans ?_
  exact requests_onRing (requests_foldl _ _ fun t q => requests_carWrite ..) fun r => ⟨rfl, rfl, rfl⟩

theorem requests_rmRecordEnd (s : State) (p a status : Nat) : requests (rmRecordEnd s p a status) p = requests s p := by
  obtain ⟨hdr, bs, head, h⟩ := rmRecordEnd_eq s p a status
  rw [h]
  exact requests_onRing ((requests_carFlush ..).trans ((requests_devWrite ..).trans (requests_devWrite ..)))
    fun r => ⟨rfl, rfl, rfl⟩

theorem requests_noteFinished (s : State) (p : Nat) (id : BitVec 32) : requests (noteFinished s p id) p = requests s p :=
  requests_onRing rfl fun r => by split <;> exact ⟨rfl, rfl, rfl⟩

/-! #### The Ringmaster starts and stops (R300) -/

/-- The registers that RM_ENABLE writes. -/
theorem rmEnable_idle {s : State} {p : Nat} (v : Word) (hl : (partOf s p).ptstate = 1) (he : (partOf s p).get R.rmCtl 0 0 = 0)
    {s1 : State} (hs : s1 = onPart s p fun y => y.setReg R.rmCtl (setFld ((bar0Reg R.rmCtl).write v ((partOf s p).reg R.rmCtl)) 0 0 1)) :
    rmEnable s p v = if rmChecks s1 p then
      rmStatus (onPart s1 p fun y => rmShow { y with ring := { y.ring.stopped with
        on := true, core := ringCore s, enAt := rmNow s, bint := y.get R.rmBint 5 0 } }) p Status.ok
    else rmStatus s1 p Status.notRun := by
  subst hs
  rw [rmEnable]
  exact if_neg (by simp [hl, he])

theorem get_rmShow_rmCtl (x : Partition) (hi lo : Nat) : (rmShow x).get R.rmCtl hi lo = x.get R.rmCtl hi lo := by
  rw [rmShow, Partition_get_put_ne, Partition_get_put_ne, Partition_get_put_ne] <;> decide

theorem rmStatus_spec (s : State) (p v : Nat) (hv : v < 256) : reg (rmStatus s p v) p R.rmStat 31 24 = v ∧
    reg (rmStatus s p v) p R.rmCtl 0 0 = reg s p R.rmCtl 0 0 ∧ (partOf (rmStatus s p v) p).ring = (partOf s p).ring ∧
    (partOf (rmStatus s p v) p).mem = (partOf s p).mem ∧ (rmStatus s p v).stores = s.stores ∧ Beside p s (rmStatus s p v) := by
  have h := rmStatus_view (F := registersOf p) s p v rfl rfl (beq_self_eq_true p) rfl
  refine ⟨?_, ?_, part_of_view Partition.ring h fun x => rfl, part_of_view Partition.mem h fun x => rfl, stores_of_view h rfl,
    beside_of_view h ⟨rfl, rfl⟩ fun _ hq => apart_registersOf hq⟩
  · rw [rmStatus]
    split
    · assumption
    · rw [reg_msix, reg_putReg _ _ _ _ _ _ (by decide) (by decide)]
      exact Nat.mod_eq_of_lt hv
  · rw [rmStatus]
    split
    · rfl
    · rw [reg_msix, reg_putReg_ne _ _ _ _ _ _ _ _ _ (by decide)]

/-- A Ringmaster that has started (R300). -/
theorem rmEnable_started {s : State} {p : Nat} (v : Word) (hl : (partOf s p).ptstate = 1) (he : (partOf s p).get R.rmCtl 0 0 = 0)
    {s1 : State} (hs : s1 = onPart s p fun y => y.setReg R.rmCtl (setFld ((bar0Reg R.rmCtl).write v ((partOf s p).reg R.rmCtl)) 0 0 1))
    (hc : rmChecks s1 p = true) : reg (rmEnable s p v) p R.rmCtl 0 0 = 1 ∧ reg (rmEnable s p v) p R.rmStat 31 24 = Status.ok ∧
      (partOf (rmEnable s p v) p).ring.on = true ∧ (partOf (rmEnable s p v) p).ring.queue = [] ∧
      (partOf (rmEnable s p v) p).ring.seqs = [] ∧ (partOf (rmEnable s p v) p).mem = (partOf s p).mem ∧
      (rmEnable s p v).stores = s.stores ∧ Beside p s (rmEnable s p v) := by
  rw [rmEnable_idle v hl he hs, if_pos hc]
  obtain ⟨hst, hctl, hring, hmem, hstores, hb⟩ := rmStatus_spec (onPart s1 p fun y => rmShow { y with ring := { y.ring.stopped with
        on := true, core := ringCore s, enAt := rmNow s, bint := y.get R.rmBint 5 0 } }) p Status.ok (by decide)
  subst hs
  refine ⟨hctl.trans ?_, hst, ?_, ?_, ?_, hmem.trans ?_, hstores.trans rfl,
    beside_trans (beside_trans (beside_onPart ..) (beside_onPart ..)) hb⟩
  · rw [reg, partOf_onPart, get_rmShow_rmCtl, Partition.get, partOf_onPart]
    exact (congrArg (fun w => fld w 0 0) (Partition_reg_setReg ..)).trans (fld_setFld _ 0 0 1 (by decide) (by decide))
  · rw [hring, partOf_onPart]; rfl
  · rw [hring, partOf_onPart]; rfl
  · rw [hring, partOf_onPart]; rfl
  · rw [partOf_onPart, partOf_onPart]; rfl

/-- A Ringmaster that failed its checks (R300). -/
theorem rmEnable_refused {s : State} {p : Nat} (v : Word) (hl : (partOf s p).ptstate = 1) (he : (partOf s p).get R.rmCtl 0 0 = 0)
    {s1 : State} (hs : s1 = onPart s p fun y => y.setReg R.rmCtl (setFld ((bar0Reg R.rmCtl).write v ((partOf s p).reg R.rmCtl)) 0 0 1))
    (hc : rmChecks s1 p = false) : reg (rmEnable s p v) p R.rmCtl 0 0 = 1 ∧ reg (rmEnable s p v) p R.rmStat 31 24 = Status.notRun ∧
      (partOf (rmEnable s p v) p).ring = (partOf s p).ring ∧ (rmEnable s p v).stores = s.stores ∧ Beside p s (rmEnable s p v) := by
  rw [rmEnable_idle v hl he hs, if_neg (by simp [hc])]
  obtain ⟨hst, hctl, hring, _, hstores, hb⟩ := rmStatus_spec s1 p Status.notRun (by decide)
  subst hs
  refine ⟨hctl.trans ?_, hst, ?_, hstores.trans rfl, beside_trans (beside_onPart ..) hb⟩
  · rw [reg, partOf_onPart]
    exact (congrArg (fun w => fld w 0 0) (Partition_reg_setReg ..)).trans (fld_setFld _ 0 0 1 (by decide) (by decide))
  · rw [hring, partOf_onPart]; rfl

/-- A Ringmaster that has been disabled (R300). -/
theorem rmDisable_spec {s : State} {p : Nat} (hl : (partOf s p).ptstate = 1) : reg (rmDisable s p) p R.rmCtl 0 0 = 0 ∧
    (partOf (rmDisable s p) p).ring = (partOf s p).ring.stopped ∧ (rmDisable s p).stores = s.stores ∧ Beside p s (rmDisable s p) := by
  have acts : rmDisable s p = onPart s p fun x => rmShow { x.put R.rmCtl 0 0 0 with ring := x.ring.stopped } := by
    rw [rmDisable]
    exact if_neg (by simp [hl])
  rw [acts]
  refine ⟨?_, by rw [partOf_onPart]; rfl, rfl, beside_onPart ..⟩
  rw [reg, partOf_onPart, get_rmShow_rmCtl]
  exact Partition_get_put (partOf s p) R.rmCtl 0 0 0 (by decide) (by decide)

/-! #### Records of the ring (R303 to R305) -/

theorem rmTake_taken {s : State} {p a cmd : Nat} (h : rmRecord s p = some a) (hc : (devReadLE s p (a + 6) 1).1 = cmd)
    (act : State → Nat → State) : rmTake s p cmd act = act s a := by
  rw [rmTake, h]
  exact if_pos hc

/-- A SUBMIT that is accepted. -/
theorem rmSubmit_accepted {s : State} {p a : Nat} (h : submitOk s p (devRead s p a 128).1 = true) :
    requests (rmSubmit s p a) p = ((partOf s p).ring.queue ++
      [{ reqOf (devRead s p a 128).1 with clock := rmNow s, order := (partOf s p).ring.tick }],
      (partOf s p).ring.seqs, (partOf s p).ring.tick + 1) ∧ Beside p s (rmSubmit s p a) := by
  have acts : rmSubmit s p a = rmRecordEnd (custCounts (onRing (devRead s p a 128).2 p fun r => { r with
      queue := r.queue ++ [{ reqOf (devRead s p a 128).1 with clock := rmNow s, order := r.tick }], tick := r.tick + 1
      finished := r.finished.filter (· != (reqOf (devRead s p a 128).1).reqid) }) p (reqOf (devRead s p a 128).1).cust) p a
      Status.ok := by
    rw [rmSubmit]
    exact if_pos h
  have hr := requests_devRead s p a 128
  simp only [requests, Prod.mk.injEq] at hr
  obtain ⟨hq, hs, ht⟩ := hr
  rw [acts]
  refine ⟨?_, beside_trans (beside_trans (beside_trans (beside_devRead ..) (beside_onPart ..)) (beside_devWrite ..))
    (beside_rmRecordEnd ..)⟩
  rw [requests_rmRecordEnd, custCounts, requests_devWrite, requests, onRing, partOf_onPart, ← hq, ← hs, ← ht]

/-- END records for every waiting fork of the requests of a list (R305). -/
def forksEnded (s : State) (p : Nat) (qs : List QReq) : State :=
  qs.foldl (fun t q => (joinForks q).foldl (fun u f =>
    carEnd u p q f (if q.fork.isSome then q.len else q.plen) End.cancel Status.aborted) t) s

theorem requests_forksEnded (s : State) (p : Nat) (qs : List QReq) : requests (forksEnded s p qs) p = requests s p :=
  requests_foldl _ _ fun _ _ => requests_foldl _ _ fun _ _ => requests_carEnd ..

theorem beside_forksEnded (s : State) (p : Nat) (qs : List QReq) : Beside p s (forksEnded s p qs) :=
  beside_foldl _ _ fun _ _ => beside_foldl _ _ fun _ _ => beside_carEnd ..

/-- The request `id` leaves the queue, and its running sequences are marked (R305). -/
def cancelledIn (id : BitVec 32) (y : Ring) : Ring :=
  { y with
    queue := y.queue.filter fun q => q.reqid != id
    seqs := y.seqs.map fun e => if e.2.req.reqid = id then (e.1, { e.2 with cancel := true }) else e }

/-- A CANCEL of a request that is alive. -/
theorem rmCancel_alive {s : State} {p a : Nat} {id : BitVec 32} (hid : id = BitVec.ofNat 32 (devReadLE s p a 4).1)
    (h : reqAlive (partOf s p).ring id = true) :
    (partOf (rmCancel s p a) p).ring.queue = (cancelledIn id (partOf s p).ring).queue ∧
      (partOf (rmCancel s p a) p).ring.seqs = (cancelledIn id (partOf s p).ring).seqs ∧ Beside p s (rmCancel s p a) := by
  have acts : ∃ qs : List QReq, rmCancel s p a = rmRecordEnd (noteFinished (qs.foldl (fun t q => custCounts t p q.cust)
      (onRing (forksEnded s p qs) p (cancelledIn id))) p id) p a Status.ok := by
    subst hid
    rw [rmCancel]
    exact ⟨_, if_pos h⟩
  obtain ⟨qs, acts⟩ := acts
  have hf := requests_forksEnded s p qs
  have ht : requests (rmCancel s p a) p = requests (onRing (forksEnded s p qs) p (cancelledIn id)) p := by
    rw [acts, requests_rmRecordEnd, requests_noteFinished]
    exact requests_foldl _ _ fun t q => requests_devWrite ..
  have hb : Beside p s (rmCancel s p a) := by
    rw [acts]
    refine beside_trans ?_ (beside_rmRecordEnd ..)
    refine beside_trans ?_ (beside_noteFinished ..)
    exact beside_trans (beside_trans (beside_forksEnded s p qs) (beside_onPart ..)) (beside_foldl _ _ fun t q => beside_devWrite ..)
  simp only [requests, Prod.mk.injEq, onRing, partOf_onPart, cancelledIn] at hf ht
  obtain ⟨hq, hs, _⟩ := hf
  obtain ⟨hq', hs', _⟩ := ht
  refine ⟨?_, ?_, hb⟩
  · rw [hq', hq, cancelledIn]
  · rw [hs', hs, cancelledIn]

/-! #### A structure written in a store (R439) -/

/-- One run of a device write in a store: its bytes, and no partition. -/
theorem devWriteRun_store {base : Bool} {s : State} {p a : Nat} (h : pvKind (partOf s p) a = .store) (bs : List Byte) :
    (devWriteRun base s p a bs).2 = false ∧ (devWriteRun base s p a bs).1.parts = s.parts ∧
      (devWriteRun base s p a bs).1.stores = mput s.stores a bs := by
  have hview : view coresOnly (noteCode s a bs.length) = view coresOnly s := noteCode_view _ _ _ rfl
  have hrun : devWriteRun base s p a bs = (setTags (putStore s a bs) a bs.length 0, false) := by rw [devWriteRun, h]
  rw [hrun]
  exact ⟨rfl, (parts_of_view hview rfl :), congrArg (mput · a bs) (stores_of_view hview rfl)⟩

/-- A run of a list, as a device write takes it from its bytes. -/
theorem mget_mput_run (m : Mem) (a off k b : Nat) (bs : List Byte) (hk : off + k ≤ bs.length) :
    mget (mput m a ((bs.drop off).take k)) b = if a ≤ b ∧ b < a + k then bs.getD (off + (b - a)) 0 else mget m b := by
  have hlen : ((bs.drop off).take k).length = k := by simp; omega
  split
  · obtain ⟨i, rfl⟩ := Nat.exists_eq_add_of_le (show a ≤ b by omega)
    rw [mget_mput _ _ _ _ (by omega)]
    have hi : i < k := by omega
    simp [List.getD, hi]
  · exact mget_mput_ne _ _ _ _ (by omega)

/-- One run of a device write, of its address, its place in the bytes and its length. -/
def writeRun (base : Bool) (p a : Nat) (bs : List Byte) (acc : State × Bool) (e : Nat × Nat × Nat) : State × Bool :=
  let w := if e.1 < windowEnd a then devWriteRun base acc.1 p e.1 ((bs.drop e.2.1).take e.2.2) else (acc.1, true)
  (w.1, acc.2 || w.2)

/-- The runs of a device write that lies in a store. -/
theorem writeRuns_store {base : Bool} {p a0 : Nat} {bs : List Byte} {x : Partition} (fuel : Nat) : ∀ (a n off : Nat) (s : State),
    partOf s p = x → n = 0 ∨ n + a % 32 ≤ 32 * fuel → off + n ≤ bs.length → a + n ≤ windowEnd a0 →
    (∀ b, a ≤ b → b < a + n → pvKind x b = .store) →
    let r := ((cutRuns 32 fuel a n).map fun e => (e.1, e.2.1 + off, e.2.2)).foldl (writeRun base p a0 bs) (s, false)
    r.2 = false ∧ r.1.parts = s.parts ∧
      ∀ b, mget r.1.stores b = if a ≤ b ∧ b < a + n then bs.getD (off + (b - a)) 0 else mget s.stores b := by
  induction fuel with
  | zero =>
    intro a n off s _ hn _ _ _
    have : n = 0 := by omega
    subst this
    refine ⟨rfl, rfl, fun b => ?_⟩
    rw [if_neg (by omega)]
    rfl
  | succ fuel ih =>
    intro a n off s hx hn hoff hend hkind
    by_cases h0 : n = 0
    · subst h0
      refine ⟨rfl, rfl, fun b => ?_⟩
      rw [if_neg (by omega)]
      rfl
    · obtain ⟨k, hk⟩ : ∃ k, k = min n (32 - a % 32) := ⟨_, rfl⟩
      have hfits : 0 < k ∧ k ≤ n ∧ (k = n ∨ k + a % 32 = 32) := by
        rcases Nat.le_total n (32 - a % 32) with h | h
        · rw [Nat.min_eq_left h] at hk; omega
        · rw [Nat.min_eq_right h] at hk; omega
      obtain ⟨hpos, hle, hcutAt⟩ := hfits
      obtain ⟨hquiet, hparts, hstores⟩ := devWriteRun_store (base := base) (hx.symm ▸ hkind a (by omega) (by omega))
        ((bs.drop off).take k)
      have hfirst : writeRun base p a0 bs (s, false) (a, 0 + off, k) =
          ((devWriteRun base s p a ((bs.drop off).take k)).1, false) := by
        rw [writeRun, if_pos (show a < windowEnd a0 by omega), Nat.zero_add]
        simp only [hquiet, Bool.or_false]
      have hcut : (cutRuns 32 (fuel + 1) a n).map (fun e => (e.1, e.2.1 + off, e.2.2)) =
          (a, 0 + off, k) :: (cutRuns 32 fuel (a + k) (n - k)).map fun e => (e.1, e.2.1 + (off + k), e.2.2) := by
        rw [cutRuns, if_neg h0, ← hk]
        simp only [List.map_cons, List.map_map, Function.comp_def, Nat.add_assoc, Nat.add_comm k off]
      clear hk
      obtain ⟨hq, hp, hb⟩ := ih (a + k) (n - k) (off + k) (devWriteRun base s p a ((bs.drop off).take k)).1
        (by rw [partOf, hparts, ← hx, partOf]) (by omega) (by omega) (by omega) fun b h1 h2 => hkind b (by omega) (by omega)
      simp only [hcut, List.foldl_cons, hfirst]
      refine ⟨hq, hp.trans hparts, fun b => ?_⟩
      rw [hb b, hstores, mget_mput_run _ _ _ _ _ _ (by omega)]
      by_cases h1 : a + k ≤ b ∧ b < a + k + (n - k)
      · rw [if_pos h1, if_pos (by omega), show off + k + (b - (a + k)) = off + (b - a) by omega]
      · rw [if_neg h1]
        by_cases h2 : a ≤ b ∧ b < a + k
        · rw [if_pos h2, if_pos (by omega)]
        · rw [if_neg h2, if_neg (by omega)]

/-- A structure that the device writes in a store: its bytes stand there, nothing else of a store or a partition changes. -/
theorem devWrite_store {s : State} {p a : Nat} {bs : List Byte} (ha : a < 0xA0000000 + 640 * 0x200000)
    (hend : a + bs.length ≤ windowEnd a) (hkind : ∀ b, a ≤ b → b < a + bs.length → pvKind (partOf s p) b = .store) :
    (devWrite s p a bs).parts = s.parts ∧
      ∀ b, mget (devWrite s p a bs).stores b = if a ≤ b ∧ b < a + bs.length then bs.getD (b - a) 0 else mget s.stores b := by
  obtain ⟨hq, hp, hb⟩ := writeRuns_store (base := false) (a0 := a) (bs := bs) (s := s) (bs.length / 32 + 2) a bs.length 0 rfl
    (by omega) (by omega) hend hkind
  have acts : devWrite s p a bs = violationIf
      (((cutRuns 32 (bs.length / 32 + 2) a bs.length).map fun e => (e.1, e.2.1 + 0, e.2.2)).foldl (writeRun false p a bs) (s, false)).2
      (((cutRuns 32 (bs.length / 32 + 2) a bs.length).map fun e => (e.1, e.2.1 + 0, e.2.2)).foldl (writeRun false p a bs) (s, false)).1
      p := by
    rw [devWrite, devWriteBy, if_pos (by omega)]
    simp only [Nat.add_zero, List.map_id']
    rfl
  rw [acts, hq]
  refine ⟨hp, fun b => (hb b).trans ?_⟩
  rw [Nat.zero_add]

/-- The run of at most 4,096 bytes at a multiple of 65,536 lies in one window of a store. -/
theorem store_of_aligned {x : Partition} {a n : Nat} (ha : a % 65536 = 0) (hk : pvKind x a = .store) (hn : n ≤ 4096) :
    a < 0xA0000000 + 640 * 0x200000 ∧ a + n ≤ windowEnd a ∧ ∀ b, a ≤ b → b < a + n → pvKind x b = .store := by
  by_cases hlow : a < 0xA0000000
  · refine ⟨by omega, ?_, fun b h1 h2 => ?_⟩
    · rw [windowEnd, if_pos hlow]; omega
    · rw [pvKind, if_pos hlow] at hk
      rw [pvKind, if_pos (show b < 0xA0000000 by omega), show b / 0x400000 = a / 0x400000 by omega]
      exact hk
  · by_cases hmid : a < 0xA0000000 + 640 * 0x200000
    · refine ⟨hmid, ?_, fun b h1 h2 => ?_⟩
      · rw [windowEnd, if_neg hlow, if_pos (by omega)]; omega
      · rw [pvKind, if_neg hlow, if_pos hmid] at hk
        rw [pvKind, if_neg (show ¬ b < 0xA0000000 by omega), if_pos (show b < 0xA0000000 + 640 * 0x200000 by omega),
          show (b - 0xA0000000) / 0x200000 = (a - 0xA0000000) / 0x200000 by omega]
        exact hk
    · rw [pvKind, if_neg hlow, if_neg hmid] at hk
      by_cases h1 : a < 0xF0000000
      · simp [h1] at hk
      by_cases h2 : a < 0xF0280000
      · simp only [h1, h2, if_true, if_false] at hk
        split at hk <;> contradiction
      by_cases h3 : a < boltBase
      · simp [h1, h2, h3] at hk
      by_cases h4 : a < boltBase + x.vbolts * boltSize <;> simp [h1, h2, h3, h4] at hk

/-! #### Step records (R301, R307) -/

/-- A posted semaphore changes of partitions a context's saved image or registers. -/
theorem part_postSem {α : Type} (π : Partition → α) (hreg : ∀ p x, π (viewPart (registersOf p) p x) = π x)
    (hctx : ∀ x c y, π (x.putCtx c y) = π x) (s : State) (p c cli sid n : Nat) :
    π (partOf (postSem s p c cli sid n) p) = π (partOf s p) := by
  have event (i : Nat) : π (partOf (errEvent s p i) p) = π (partOf s p) :=
    part_of_view π (errEvent_view (F := registersOf p) s p i rfl rfl (beq_self_eq_true p) rfl) (hreg p)
  simp only [postSem]
  split
  · exact event 9
  · split
    · exact event 9
    · split
      · refine (apply_ite (fun t => π (partOf t p)) _ _ _).trans ?_
        split
        · exact event 9
        · exact (congrArg π (partOf_onPart ..)).trans (hctx ..)
      · split
        · exact event 9
        · exact congrArg π (partOf_of_view (semAdd_view (F := semaphores) _ _ _ _ rfl rfl rfl) ⟨rfl, rfl, rfl, rfl, rfl⟩)

theorem ring_postSem (s : State) (p c cli sid n : Nat) : (partOf (postSem s p c cli sid n) p).ring = (partOf s p).ring :=
  part_postSem Partition.ring (fun _ _ => rfl) (fun _ _ _ => rfl) ..

theorem mem_postSem (s : State) (p c cli sid n : Nat) : (partOf (postSem s p c cli sid n) p).mem = (partOf s p).mem :=
  part_postSem Partition.mem (fun p x => by simp [viewPart, registersOf]) (fun _ _ _ => rfl) ..

/-- Every field but the stores. -/
@[reducible] def allButStores : Field → Bool
  | .stores => false
  | _ => true

theorem stores_postSem (s : State) (p c cli sid n : Nat) : (postSem s p c cli sid n).stores = s.stores :=
  stores_of_view (postSem_view (F := allButStores) s p c cli sid n rfl rfl rfl rfl rfl rfl rfl rfl) rfl

/-- A step record that the Ringmaster publishes (R301, R307). -/
theorem recordPublish_due {s : State} {p : Nat} {n : BitVec 32} (hl : (partOf s p).ptstate = 1) (hon : (partOf s p).ring.on = true)
    (hp : (partOf s p).ring.publish = true) (hs : (partOf s p).ring.curStep = some n) {u : State}
    (hu : u = onRing (writeRecord s p (recordBytes n (partOf s p).ring.cur)) p fun r => { r with publish := false }) :
    ∃ t, recordPublish s p = t ∧ view messages t = view messages u := by
  refine ⟨_, rfl, ?_⟩
  have acts : recordPublish s p = if Rm.role (partOf s p) = 1 then sendPieces u p n (recordBytes n (partOf s p).ring.cur) else u := by
    rw [recordPublish, hon, hp, hl, hs, hu]
    rfl
  rw [acts]
  split
  · exact sendPieces_view _ _ _ _ rfl rfl
  · rfl

theorem stores_onRing (s : State) (p : Nat) (f : Ring → Ring) : (onRing s p f).stores = s.stores := rfl

theorem stores_writeRecord (s : State) (p : Nat) (bs : List Byte) :
    (writeRecord s p bs).stores = (devWrite s p (Rm.srec (partOf s p)) bs).stores := stores_postSem ..

theorem stepRecordPublish_spec {s : State} {p : Nat} {n : BitVec 32} (hl : (partOf s p).ptstate = 1)
    (hon : (partOf s p).ring.on = true) (hp : (partOf s p).ring.publish = true) (hs : (partOf s p).ring.curStep = some n)
    {bs : List Byte} {a : Nat} (hbs : bs = recordBytes n (partOf s p).ring.cur) (ha : a = Rm.srec (partOf s p))
    (hk : pvKind (partOf s p) a = .store) (hlen : bs.length ≤ 4096) :
    (partOf (recordPublish s p) p).ring = { (partOf s p).ring with publish := false } ∧
      mread (recordPublish s p).stores a bs.length = bs ∧
      (∀ b, b < a ∨ a + bs.length ≤ b → mget (recordPublish s p).stores b = mget s.stores b) ∧
      (partOf (recordPublish s p) p).mem = (partOf s p).mem := by
  obtain ⟨t, acts, hview⟩ := recordPublish_due hl hon hp hs rfl
  obtain ⟨hlow, hend, hkind⟩ := store_of_aligned (show a % 65536 = 0 by rw [ha, Rm.srec]; exact Nat.mul_mod_left ..) hk hlen
  obtain ⟨hparts, hbytes⟩ := devWrite_store hlow hend hkind
  have hpart : partOf (devWrite s p a bs) p = partOf s p := by rw [partOf, hparts, partOf]
  have hpt := partOf_of_view hview (q := p) ⟨rfl, rfl, rfl, rfl, rfl⟩
  have hst : t.stores = (devWrite s p a bs).stores := by
    rw [stores_of_view hview rfl, stores_onRing, stores_writeRecord, hbs, ha]
  rw [acts, hpt, hst, onRing, partOf_onPart, writeRecord, ← hbs, ← ha]
  refine ⟨?_, mread_of_getD fun i hi => ?_, fun b hb => ?_, ?_⟩
  · rw [ring_postSem, hpart]
  · rw [hbytes, if_pos (by omega), Nat.add_sub_cancel_left]
  · rw [hbytes, if_neg (by omega)]
  · exact (mem_postSem ..).trans (congrArg Partition.mem hpart)

/-! #### A follower takes pieces of a record (R301) -/

/-- A COLL of the kind that its engine takes, inside the module and in the clear (R214). -/
theorem takeColl_known {s : State} {m : Msg} {p kind : Nat} (henc : m.enc = false) (hdst : m.dst = ownId s)
    (ht : m.mtype = Mt.coll) (hkind : Ca.kind m = kind) (hg : groupFor s m = some p)
    (hplan : planSlot (partOf s p) (Ca.gix m) = false) (f : State → Nat → Msg → State) :
    takeColl s none m kind f = f (takeInbox s m) p m := by
  have hfor : takeColl.forColl s m kind = true := by simp [takeColl.forColl, ht, hdst, hkind]
  have hacc : acceptMsg s none m = (some m, takeInbox s m) := by simp [acceptMsg, henc]
  have hgroup : groupFor (takeInbox s m) m = some p := hg
  have hslot : planSlot (partOf (takeInbox s m) p) (Ca.gix m) = false := hplan
  simp only [takeColl, hfor, hacc, hgroup, hslot, Bool.not_true, Bool.false_eq_true, if_false]

theorem ackColl_messages (s : State) (m : Msg) (status : Nat) : view messages (ackColl s m status) = view messages s :=
  ackColl_view _ _ _ rfl rfl

/-- The key of piece `i` of the record that a message belongs to. -/
def pieceKey (m : Msg) (i : Nat) : Nat := (Ca.opseq m).toNat * 2 ^ 20 + i

/-- The state with the piece of a message kept. -/
def pieceKept (s : State) (p : Nat) (m : Msg) : State :=
  onRing (ackColl s m Status.ok) p fun r => { r with pieces := sset [] r.pieces (pieceKey m (Ca.idx m)) m.payload }

theorem partOf_pieceKept (s : State) (p : Nat) (m : Msg) : partOf (pieceKept s p m) p =
    { partOf s p with ring := { (partOf s p).ring with
      pieces := sset [] (partOf s p).ring.pieces (pieceKey m (Ca.idx m)) m.payload } } := by
  rw [pieceKept, onRing, partOf_onPart, partOf_of_view (ackColl_messages s m Status.ok) ⟨rfl, rfl, rfl, rfl, rfl⟩]

/-- A piece of a record whose first piece has not come is kept. -/
theorem recordPiece_early {s : State} {p : Nat} {m : Msg} (hi : Ca.idx m ≠ 0)
    (h0 : sget [] (partOf s p).ring.pieces (pieceKey m 0) = []) : recordPiece s p m = pieceKept s p m := by
  have h : sget [] (partOf (pieceKept s p m) p).ring.pieces (pieceKey m 0) = [] := by
    rw [partOf_pieceKept]
    exact (sget_sset_ne _ _ _ _ _ _ (by simp only [pieceKey]; omega)).trans h0
  rw [recordPiece]
  exact if_pos h

/-- The pieces of a message's record are forgotten. -/
def piecesTaken (s : State) (p : Nat) (m : Msg) : State :=
  onRing (pieceKept s p m) p fun r => { r with pieces := r.pieces.filter fun e => e.1 / 2 ^ 20 != (Ca.opseq m).toNat }

/-- A record that is one piece is whole when the piece comes. -/
theorem recordPiece_whole {s : State} {p : Nat} {m : Msg} (hi : Ca.idx m = 0) (hp : m.payload ≠ []) {n : Nat}
    (hn : n = leAt m.payload 4 4 + leAt m.payload 8 4 + leAt m.payload 0x0C 4) (hlen : 64 + 16 * n ≤ 4096) :
    recordPiece s p m = recordWhole (piecesTaken s p m) p m.payload n := by
  have h : sget [] (partOf (pieceKept s p m) p).ring.pieces (pieceKey m 0) = m.payload := by
    rw [partOf_pieceKept, hi]
    exact sget_sset ..
  have hk : cdiv (64 + 16 * n) 4096 = 1 := by rw [cdiv]; omega
  simp only [pieceKept, pieceKey] at h
  simp only [recordPiece]
  rw [h, ← hn, hk, if_neg hp, if_neg (by omega), if_pos (by
    simp only [List.range_one, List.all_cons, List.all_nil, Bool.and_true, h, bne_iff_ne]
    exact hp)]
  simp only [piecesTaken, pieceKept, pieceKey, List.range_one, List.flatMap_cons, List.flatMap_nil, List.append_nil, h]

/-- What a Ringmaster holds of the step records. -/
def heldRecord (x : Partition) : List StepEntry × Option (BitVec 32) × Sparse (List Byte) :=
  (x.ring.cur, x.ring.curStep, x.ring.pieces)

theorem heldRecord_endBatches (x : Partition) (gone : Batch → Bool) : heldRecord (endBatches x gone) = heldRecord x :=
  (x.ring.batches.filter gone).foldlRecOn (fun z b => dropRef z b.slot) (motive := fun y => heldRecord y = heldRecord x) rfl
    fun _ h _ _ => h

/-- A follower's batches leave its record (R301). -/
theorem heldRecord_followBatches (x : Partition) (es : List StepEntry) : heldRecord (followBatches x es) = heldRecord x := by
  simp only [followBatches]
  refine List.foldlRecOn _ _ (motive := fun y => heldRecord y = heldRecord x) (heldRecord_endBatches ..) fun y h g _ => ?_
  split
  · exact h
  · split
    · exact h
    · exact h

theorem slotOfGen_of_bar0 {x y : Partition} (h : y.bar0 = x.bar0) (gen : Nat) : slotOfGen y gen = slotOfGen x gen := by
  simp only [slotOfGen, wstate, wgen, Partition.get, Partition.reg, h]

/-- A whole record whose generations the follower knows becomes its record (R301). -/
theorem recordWhole_known {s : State} {p : Nat} {bs : List Byte} {n : Nat}
    (h : ((entriesOf bs n).all fun e => (slotOfGen (partOf s p) e.gen.toNat).isSome) = true) :
    heldRecord (partOf (recordWhole s p bs n) p) =
      ((entriesOf bs n).map (fun e => { e with wsl := (slotOfGen (partOf s p) e.gen.toNat).getD 0 }),
        some (BitVec.ofNat 32 (leAt bs 0 4)), (partOf s p).ring.pieces) := by
  obtain ⟨es, hes⟩ : ∃ es, es = (entriesOf bs n).map fun e => { e with wsl := (slotOfGen (partOf s p) e.gen.toNat).getD 0 } := ⟨_, rfl⟩
  have acts : recordWhole s p bs n = onPart (writeRecord s p (slice bs 0 64 ++ es.flatMap entryBytes)) p fun y =>
      followBatches { y with ring := { y.ring with cur := es, curStep := some (BitVec.ofNat 32 (leAt bs 0 4)) } } es := by
    rw [hes]
    exact if_pos h
  have hring : (partOf (writeRecord s p (slice bs 0 64 ++ es.flatMap entryBytes)) p).ring = (partOf s p).ring :=
    (ring_postSem ..).trans (part_of_view Partition.ring (devWrite_deviceAccess ..) fun _ => rfl)
  rw [acts, partOf_onPart, heldRecord_followBatches, heldRecord, hring, ← hes]

/-- What keys a record's pieces keep when it is whole. -/
theorem piece_forgotten (l : Sparse (List Byte)) (n i : Nat) :
    sget [] (l.filter fun e => e.1 / 2 ^ 20 != n) i = if i / 2 ^ 20 = n then [] else sget [] l i := by
  split
  · next h =>
    refine sget_absent _ _ _ fun e he hi => ?_
    have hne := (List.mem_filter.1 he).2
    rw [hi, h] at hne
    simp at hne
  · next h =>
    have hf := sget_filter [] l [] (fun k => k / 2 ^ 20 != n) i (by simpa using h)
    simp only [List.append_nil] at hf
    rw [hf]
    split
    · rfl
    · next ha =>
      exact (sget_absent _ _ _ fun e he hi => ha ⟨e, he, hi⟩).symm

/-- Settles O47, by what the ring's records make of queue and sequences, and by device writes that lie in a store. -/
theorem ringmasterRunsItsInstance : Obligations.RingmasterRunsItsInstance := by
  refine ⟨fun s p a v hp hl => ?_, fun s p n hp hl hon hpub hstep => ?_, fun s m p hm henc hdst ht hkind hg hplan hon hrole hgix => ?_⟩
  · refine ⟨fun he hc => ?_, fun he hc => ?_, ?_, fun ha hcmd hok => ?_, ?_⟩
    · obtain ⟨hctl, hst, hring, hq, hs, hmem, hstores, hb⟩ := rmEnable_started v hl he rfl hc
      exact ⟨_, exec_next_of_eq rfl (by simp [Instr.wf, partOk, hp]) rfl, hctl, hst, hring, hq, hs, hmem, hstores, hb.cores,
        hb.clusters, hb.others⟩
    · obtain ⟨hctl, hst, hring, hstores, hb⟩ := rmEnable_refused v hl he rfl hc
      exact ⟨_, exec_next_of_eq rfl (by simp [Instr.wf, partOk, hp]) rfl, hctl, hst, hring, hstores, hb.cores, hb.clusters,
        hb.others⟩
    · obtain ⟨hctl, hring, hstores, hb⟩ := rmDisable_spec hl
      exact ⟨_, exec_next_of_eq rfl (by simp [Instr.wf, partOk, hp]) rfl, hctl, by rw [hring]; rfl, by rw [hring]; rfl,
        by rw [hring]; rfl, by rw [hring]; rfl, hstores, hb.cores, hb.clusters, hb.others⟩
    · obtain ⟨hreq, hb⟩ := rmSubmit_accepted hok
      simp only [requests, Prod.mk.injEq] at hreq
      obtain ⟨hq, hs, ht⟩ := hreq
      exact ⟨_, exec_next_of_eq rfl (by simp [Instr.wf, partOk, hp]) (rmTake_taken ha hcmd _), hq, ht, hs, hb.cores,
        hb.clusters, hb.others⟩
    · intro ha hcmd id hid
      obtain ⟨hq, hs, hb⟩ := rmCancel_alive rfl hid
      exact ⟨_, exec_next_of_eq rfl (by simp [Instr.wf, partOk, hp]) (rmTake_taken ha hcmd _), hq, hs, hb.cores,
        hb.clusters, hb.others⟩
  · intro bs a hk hlen
    exact ⟨_, exec_next_of_eq rfl (by simp [Instr.wf, partOk, hp]) rfl,
      stepRecordPublish_spec hl hon hpub hstep rfl rfl hk hlen⟩
  · have hwf : Instr.wf (.stepRecordReceive none m) = true := by simp [Instr.wf, hm, viaOk]
    have hpart : partOf (takeInbox s m) p = partOf s p := rfl
    have acts : recordReceive s none m = recordPiece (takeInbox s m) p m := by
      rw [recordReceive, takeColl_known henc hdst ht hkind hg hplan]
      exact if_pos (by simp [hpart, hon, hrole, hgix])
    refine ⟨fun hi h0 => ?_, fun hi hpay hlen hall => ?_⟩
    · have hearly : recordPiece (takeInbox s m) p m = pieceKept (takeInbox s m) p m := 
        recordPiece_early hi (by rw [hpart, pieceKey, Nat.add_zero]; exact h0)
      have hview : view messages (ackColl (takeInbox s m) m Status.ok) = view messages s :=
        (ackColl_messages (takeInbox s m) m Status.ok).trans (takeInbox_view s m rfl)
      have hstores : (ackColl (takeInbox s m) m Status.ok).stores = s.stores := stores_of_view hview rfl
      have hcores : (ackColl (takeInbox s m) m Status.ok).cores = s.cores := cores_of_view hview rfl
      have hclusters : (ackColl (takeInbox s m) m Status.ok).clusters = s.clusters := clusters_of_view hview rfl
      refine ⟨_, exec_next_of_eq rfl hwf (acts.trans hearly), ?_, fun i hne => ?_, ?_, hstores, hcores, hclusters⟩
      · rw [partOf_pieceKept]
        exact sget_sset ..
      · rw [partOf_pieceKept]
        exact sget_sset_ne _ _ _ _ _ _ hne
      · rw [partOf_pieceKept]
        rfl
    · have hwhole := recordPiece_whole (s := takeInbox s m) (p := p) hi hpay rfl hlen
      have htaken : partOf (piecesTaken (takeInbox s m) p m) p = { partOf s p with ring := { (partOf s p).ring with
          pieces := (sset [] (partOf s p).ring.pieces (pieceKey m (Ca.idx m)) m.payload).filter
            fun e => e.1 / 2 ^ 20 != (Ca.opseq m).toNat } } := by
        rw [piecesTaken, onRing, partOf_onPart, partOf_pieceKept, hpart]
      have hslot (gen : Nat) : slotOfGen (partOf (piecesTaken (takeInbox s m) p m) p) gen = slotOfGen (partOf s p) gen :=
        slotOfGen_of_bar0 (by rw [htaken]) gen
      have hheld := recordWhole_known (s := piecesTaken (takeInbox s m) p m) (p := p) (bs := m.payload)
        (n := leAt m.payload 4 4 + leAt m.payload 8 4 + leAt m.payload 0x0C 4) (by simp only [hslot]; exact hall)
      simp only [heldRecord, htaken, Prod.mk.injEq] at hheld
      obtain ⟨hcur, hstep, hpieces⟩ := hheld
      refine ⟨_, exec_next_of_eq rfl hwf (acts.trans hwhole), hstep, fun i => ?_, hcur⟩
      rw [hpieces, piece_forgotten]
      split
      · rfl
      · next h =>
        refine sget_sset_ne _ _ _ _ _ _ fun hk => h ?_
        rw [hk, pieceKey, hi]
        omega

end Sys2Proof.Proofs
end

section
/-! Proofs about the Pocket: a stash that a poll of the ring turns away. -/

namespace Sys2Proof.Proofs

open Sys2Proof.Machine Sys2Proof.Safety Sys2Proof.Laws

/-! ### A stash whose grant a poll forgets (R288) -/

/-- A LIVE partition of panel 0 whose Pocket has its table at 0x8000 of core store 0, its ring header in front of the cluster
stores, where there is nothing, and its target at offset 0 of this module. Its grant 0 exports other bolts to its own job. -/
def pocketOwner : Partition :=
  let x := { Partition.none_ with ptstate := 1, panels := 1, vbolts := 64, qbolts := 16, keyed := true }
  let x := (((x.put R.pkRbase 63 6 0x27FFFFF).put R.pkRsize 16 0 16).put R.pkCtl 0 0 1).put R.pkTbase 63 6 0x200
  let x := ((x.put R.pkTcnt 12 0 4).put R.pkTgt 63 16 (2 ^ 46)).put R.pkTsize 31 0 4096
  let x := ((x.put (R.gntCtl 0) 11 10 Gs.active).put (R.gntCtl 0) 63 20 0x1000000).put (R.gntJob 0) 33 32 3
  { x with pocket := { x.pocket with head := some 1 } }

/-- The same partition as a second entry of the table lists it: its grant 0 exports offset 0. -/
def pocketTwin : Partition :=
  (((Partition.none_.put (R.gntCtl 0) 11 10 Gs.active).put (R.gntSize 0) 31 0 16).put (R.gntJob 0) 33 32 3)

/-- A state that lists partition 0 twice, which its table does not exclude; record 1 of the ring is STASH of entry 0. -/
def twoEntries : State :=
  { State.reset with
    parts := [(0, pocketOwner), (0, pocketTwin)]
    stores := cellsOf 0x8000 (toLE 8 0x100020000 ++ toLE 4 1 ++ [1, 0, 0, 0] ++ zeros 48) ++ cellsOf 0xA0000010 ([1] ++ zeros 15) }

/-- The record, the entry and the checks that a STASH of that state meets. -/
theorem twoEntries_meets : 0 < reg twoEntries 0 R.pkTcnt 12 0 ∧ (pkEntry twoEntries 0 0).clean = true ∧
    (pkEntry twoEntries 0 0).kind = 1 ∧ pkRecord twoEntries 0 = some (0xA0000010, 1, 0) ∧
    stashOk twoEntries 0 (pkEntry twoEntries 0 0) = true ∧ (partOf twoEntries 0).pocket.sctr < 2 ^ 48 - 1 ∧
    (pkEntry twoEntries 0 0).estate = Pk.inn := by
  decide +kernel

/-- Ring and table of that state lie below the bolts, the table in a store. -/
theorem twoEntries_inStores : pkRing (partOf twoEntries 0) + 64 ≤ boltBase ∧
    pvKind (partOf twoEntries 0) (pkEntry twoEntries 0 0).addr = .store ∧
    (pkEntry twoEntries 0 0).addr + 64 ≤ pkRing (partOf twoEntries 0) ∧ pkRing (partOf twoEntries 0) + 64 ≤ 0xA0000010 ∧
    0xA0000010 + 16 ≤ boltBase := by
  decide +kernel

/-- `ESTATE` of entry 0 of partition 0 in what a command answers. -/
def estateAfter (r : Host.Outcome State Fault Refusal) : Option Nat :=
  match r with
  | .next t => some (pkEntry t 0 0).estate
  | _ => none

/-- The read of the ring is a violation, which is counted in one entry for partition 0; the grant that the checks went by is
gone with the other one, and the STASH is turned away. -/
theorem estateAfter_stash_twoEntries : estateAfter (exec (.stash 0) twoEntries) = some Pk.inn := by
  decide +kernel

/-- Refutes O46: the statement holds for any state, also for one whose table lists a partition twice (`tablesOk` excludes it);
there the STASH that its checks accept is turned away, since the poll of the ring leaves one of the entries. -/
theorem not_pocketRegionsMove : ¬ Obligations.PocketRegionsMove := by
  unfold Obligations.PocketRegionsMove
  rintro ⟨moves, -⟩
  obtain ⟨stashes, -⟩ := moves twoEntries 0 0 0xA0000010 (by decide)
  obtain ⟨hcount, hclean, hkind, hrecord, hchecks, hsctr, hestate⟩ := twoEntries_meets
  obtain ⟨hring, hstore, hapart, hbehind, hbelow⟩ := twoEntries_inStores
  obtain ⟨stash, -⟩ := stashes hcount hclean hkind
  obtain ⟨t, run, -, -, hstashing, -⟩ := stash hrecord hchecks hsctr hestate ⟨hring, hstore, .inl hapart, hbehind, hbelow⟩
  have hstays := estateAfter_stash_twoEntries
  rw [run, estateAfter, hstashing] at hstays
  exact absurd hstays (by decide)

end Sys2Proof.Proofs
end

section
/-! Proofs about host windows and requests to the host. -/

namespace Sys2Proof.Proofs

open Sys2Proof.Machine Sys2Proof.Safety Sys2Proof.Laws

/-! ### Host windows (R227, R228) -/

/-- A list whose bytes from `k` on are replaced. -/
theorem getD_spliced {old bs : List Byte} {k : Nat} (h : k + bs.length ≤ old.length) (i : Nat) :
    (old.take k ++ bs ++ old.drop (k + bs.length)).getD i 0 =
      if k ≤ i ∧ i < k + bs.length then bs.getD (i - k) 0 else old.getD i 0 := by
  have hlen : (old.take k).length = k := by simp; omega
  by_cases hlow : i < k
  · rw [if_neg (by omega), List.append_assoc, List.getD_append _ _ _ _ (by omega)]
    simp [List.getD, hlow]
  · rw [List.append_assoc, List.getD_append_right _ _ _ _ (by omega), hlen]
    by_cases hmid : i < k + bs.length
    · rw [if_pos (by omega), List.getD_append _ _ _ _ (by omega)]
    · rw [if_neg (by omega), List.getD_append_right _ _ _ _ (by omega)]
      simp only [List.getD_eq_getElem?_getD, List.getElem?_drop]
      congr 2
      omega

/-- Bytes written into one tile as plain data stand there, and every other byte of the partition stands as it was (R148). -/
theorem mget_plainTileWrite (x : Partition) {off : Nat} {bs : List Byte} (h : off % 4096 + bs.length ≤ 4096) (sat aud poi : Bool)
    (b : Nat) : mget (plainTileWrite x off bs sat aud poi).mem b =
      if off ≤ b ∧ b < off + bs.length then bs.getD (b - off) 0 else mget x.mem b := by
  obtain ⟨old, hold⟩ : ∃ old, old = tileBytes x (off / 4096) := ⟨_, rfl⟩
  have hlen : old.length = 4096 := by rw [hold]; exact mread_length ..
  have hget (i : Nat) (hi : i < 4096) : old.getD i 0 = mget x.mem (4096 * (off / 4096) + i) := by
    rw [hold]
    simp [tileBytes, mread_eq, List.getD, hi]
  have hmem : (plainTileWrite x off bs sat aud poi).mem = mput x.mem (4096 * (off / 4096))
      (old.take (off % 4096) ++ bs ++ old.drop (off % 4096 + bs.length)) := by rw [hold]; rfl
  have hnew : (old.take (off % 4096) ++ bs ++ old.drop (off % 4096 + bs.length)).length = 4096 := by
    simp only [List.length_append, List.length_take, List.length_drop, hlen]
    omega
  rw [hmem]
  by_cases hin : 4096 * (off / 4096) ≤ b ∧ b < 4096 * (off / 4096) + 4096
  · obtain ⟨i, rfl⟩ := Nat.exists_eq_add_of_le hin.1
    rw [mget_mput _ _ _ _ (by omega), getD_spliced (by omega)]
    by_cases hmid : off % 4096 ≤ i ∧ i < off % 4096 + bs.length
    · rw [if_pos hmid, if_pos (by omega)]
      congr 1
      omega
    · rw [if_neg hmid, if_neg (by omega), hget i (by omega)]
  · rw [mget_mput_ne _ _ _ _ (by omega), if_neg (by omega)]

/-- The bytes of a host write, one by one (R148). -/
theorem mget_hostPutBytes (data : List Byte) : ∀ (a : Nat) (x : Partition) (b : Nat),
    mget ((((List.range data.length).map fun i => some (a + i)).zip data).foldl (fun z e => match e.1 with
      | some a => hostPutByte z a e.2
      | none => z) x).mem b = if a ≤ b ∧ b < a + data.length then data.getD (b - a) 0 else mget x.mem b := by
  induction data with
  | nil =>
    intro a x b
    rw [if_neg (by simp)]
    rfl
  | cons v data ih =>
    intro a x b
    have hrange : (List.range (v :: data).length).map (fun i => some (a + i)) =
        some a :: (List.range data.length).map fun i => some (a + 1 + i) := by
      simp only [List.length_cons, List.range_succ_eq_map, List.map_cons, List.map_map, Nat.add_zero]
      congr 1
      exact List.map_congr_left fun i _ => by simp only [Function.comp_apply]; congr 1; omega
    rw [hrange, List.zip_cons_cons, List.foldl_cons, ih]
    have hbyte := mget_plainTileWrite x (off := a) (bs := [v]) (by simp; omega) false false false b
    simp only [hostPutByte, hbyte, List.length_cons, List.length_nil]
    by_cases h1 : a + 1 ≤ b ∧ b < a + 1 + data.length
    · rw [if_pos h1, if_pos (by omega), show b - a = (b - (a + 1)) + 1 by omega, List.getD_cons_succ]
    · rw [if_neg h1]
      by_cases h2 : b = a
      · subst h2
        simp
      · rw [if_neg (by omega), if_neg (by omega)]

/-- What touching tiles leaves of a partition: all but where its bolts stand. -/
theorem touchTile_content (x : Partition) (t : Nat) : (touchTile false x t).mem = x.mem ∧ (touchTile false x t).collars = x.collars ∧
    (touchTile false x t).bar0 = x.bar0 ∧ (touchTile false x t).viol = x.viol := by
  have lines (l : List Nat) : ∀ y : Partition, (l.foldl (touchLine false) y).mem = y.mem ∧
      (l.foldl (touchLine false) y).collars = y.collars ∧ (l.foldl (touchLine false) y).bar0 = y.bar0 ∧
      (l.foldl (touchLine false) y).viol = y.viol := by
    induction l with
    | nil => exact fun y => ⟨rfl, rfl, rfl, rfl⟩
    | cons a l ih => exact fun y => ih (touchLine false y a)
  rw [touchTile]
  split
  · exact ⟨rfl, rfl, rfl, rfl⟩
  · generalize collarLine (t / 16) :: (List.range 16).map (payloadLine t) = l
    exact lines l x

/-- What a read of tiles keeps of the state. -/
structure TilesTouched (p : Nat) (s t : State) : Prop where
  mem : (partOf t p).mem = (partOf s p).mem
  collars : (partOf t p).collars = (partOf s p).collars
  bar0 : (partOf t p).bar0 = (partOf s p).bar0
  viol : (partOf t p).viol = (partOf s p).viol
  others : ∀ q, q ≠ p → partOf t q = partOf s q
  rest : t = { s with parts := t.parts }

theorem tilesTouched_touchTiles (s : State) (p : Nat) (ts : List Nat) : TilesTouched p s (touchTiles s p ts) := by
  have content : ∀ x : Partition, (ts.foldl (touchTile false) x).mem = x.mem ∧ (ts.foldl (touchTile false) x).collars = x.collars ∧
      (ts.foldl (touchTile false) x).bar0 = x.bar0 ∧ (ts.foldl (touchTile false) x).viol = x.viol := by
    induction ts with
    | nil => exact fun x => ⟨rfl, rfl, rfl, rfl⟩
    | cons a ts ih =>
      intro x
      obtain ⟨hm, hc, hb, hv⟩ := touchTile_content x a
      obtain ⟨hm', hc', hb', hv'⟩ := ih (touchTile false x a)
      exact ⟨hm'.trans hm, hc'.trans hc, hb'.trans hb, hv'.trans hv⟩
  unfold touchTiles
  split
  · exact ⟨rfl, rfl, rfl, rfl, fun _ _ => rfl, rfl⟩
  · obtain ⟨hm, hc, hb, hv⟩ := content (partOf s p)
    refine ⟨?_, ?_, ?_, ?_, fun q hq => partOf_onPart_ne _ _ _ _ hq, rfl⟩
    · rw [partOf_onPart, hm]
    · rw [partOf_onPart, hc]
    · rw [partOf_onPart, hb]
    · rw [partOf_onPart, hv]

/-- Tiles that agree with their collars pass the check. -/
theorem checkTiles_sound {s : State} {p : Nat} {ts : List Nat}
    (h : ∀ t ∈ ts, crcOk (tileBytes (partOf s p) t) (tileCollar (partOf s p) t) = true) : checkTiles s p ts = s := by
  unfold checkTiles
  induction ts with
  | nil => rfl
  | cons a ts ih =>
    rw [List.foldl_cons, if_pos (h a List.mem_cons_self)]
    exact ih fun t ht => h t (List.mem_cons_of_mem _ ht)

/-- A read of the host whose every byte a window serves from sound resident tiles (R227). -/
theorem hostReadAt_served {s : State} {p : Nat} {as : List Nat} (hl : (partOf s p).ptstate = 1) (hf : panelFenced s p = false)
    (hsound : ((tilesTouched (as.map some)).all fun t => !stalls (partOf s p) (t / 16) && !tilePoisoned (partOf s p) t) = true) :
    hostReadAt s p (as.map some) =
      emit (touchTiles s p (tilesTouched (as.map some))) (.hdmData p (as.map (mget (partOf s p).mem)) false) := by
  obtain ⟨ts, hts⟩ : ∃ ts, ts = tilesTouched (as.map some) := ⟨_, rfl⟩
  simp only [← hts, List.all_eq_true, Bool.and_eq_true, Bool.not_eq_true'] at hsound
  have htouched := tilesTouched_touchTiles s p ts
  have hfind : ts.find? (fun t => stalls (partOf s p) (t / 16)) = none :=
    List.find?_eq_none.2 fun t ht => by simp [(hsound t ht).1]
  have hbad : ts.any (tilePoisoned (partOf s p)) = false := List.any_eq_false.2 fun t ht => by simp [(hsound t ht).2]
  have hcheck : checkTiles (touchTiles s p ts) p ts = touchTiles s p ts := by
    refine checkTiles_sound fun t ht => ?_
    rw [tileBytes, tileCollar, htouched.mem, htouched.collars]
    have hp := (hsound t ht).2
    simp only [tilePoisoned, Bool.or_eq_false_iff, Bool.not_eq_false'] at hp
    exact hp.1.2
  have hnone : (as.map some).any (·.isNone) = false := by simp
  rw [hostReadAt]
  simp only [hl, hostServed, hf, ← hts, hfind, hbad, hcheck, hnone, violationIf, List.map_map]
  rfl

/-- A read of the host that no window serves: zeros, and a violation (R227). -/
theorem hostReadAt_outside {s : State} {p : Nat} {ps : List (Option Nat)} (hl : (partOf s p).ptstate = 1) (hn : ps ≠ [])
    (hall : (ps.all fun q => q.isNone) = true) :
    hostReadAt s p ps = violation (emit s (.hdmData p (zeros ps.length) false)) p := by
  obtain ⟨n, rfl⟩ : ∃ n, ps = List.replicate n none := ⟨ps.length, List.eq_replicate_iff.2 ⟨rfl, fun q hq => by
    simpa using List.all_eq_true.1 hall q hq⟩⟩
  have hn : n ≠ 0 := by simpa using hn
  have htiles : tilesTouched (List.replicate n none) = [] := by
    have hnone : (List.replicate n (none : Option Nat)).filterMap (fun q => q.map (· / 4096)) = [] :=
      List.filterMap_eq_nil_iff.2 fun q hq => by rw [(List.mem_replicate.1 hq).2]; rfl
    rw [tilesTouched, hnone]
    rfl
  rw [hostReadAt]
  simp [hl, hostServed, htiles, violationIf, touchTiles, checkTiles, zeros, hn]

/-- A write of the host inside one resident dirty tile (R227, R228). -/
theorem hostWriteAt_served {s : State} {p a : Nat} {data : List Byte} (hl : (partOf s p).ptstate = 1)
    (hf : panelFenced s p = false) (h0 : 0 < data.length) (hin : a % 4096 + data.length ≤ 4096)
    (hst : ((partOf s p).bolt (a / boltSize)).st = .hbmDirty) :
    hostWriteAt s p ((List.range data.length).map fun i => some (a + i)) data =
      onPart s p fun y => (((List.range data.length).map fun i => some (a + i)).zip data).foldl (fun z e => match e.1 with
        | some a => hostPutByte z a e.2
        | none => z) y := by
  have hplaces : ((List.range data.length).map fun i => some (a + i)).filterMap (fun q => q.map (· / 4096)) =
      List.replicate data.length (a / 4096) := by
    refine List.eq_replicate_iff.2 ⟨?_, fun t ht => ?_⟩
    · rw [List.filterMap_map]
      simp
    · obtain ⟨q, hq, hqt⟩ := List.mem_filterMap.1 ht
      obtain ⟨i, hi, rfl⟩ := List.mem_map.1 hq
      have hi := List.mem_range.1 hi
      simp only [Option.map_some, Option.some.injEq] at hqt
      omega
  have hbolts : (tilesTouched ((List.range data.length).map fun i => some (a + i))).map (· / 16) = [a / boltSize] := by
    have hone : (List.replicate data.length (a / 4096)).eraseDups = [a / 4096] := by
      obtain ⟨n, hn⟩ := Nat.exists_eq_succ_of_ne_zero h0.ne'
      rw [hn, List.replicate_succ, List.eraseDups_cons]
      simp
    rw [tilesTouched, hplaces, hone]
    simp only [List.map_cons, List.map_nil, boltSize]
    congr 1
    omega
  have hstall : [a / boltSize].find? (stalls (partOf s p)) = none := by simp [stalls, hst]
  have hready : readyAll readyWrite s p [a / boltSize] = some s := by simp [readyAll, readyWrite, hst]
  have hnone : ((List.range data.length).map fun i => some (a + i)).any (·.isNone) = false := by simp
  rw [hostWriteAt]
  simp only [hl, hostServed, hf, hbolts, hstall, hready, hnone, violationIf]
  rfl

/-! ### Requests to the host (R225, R438) -/

theorem id_of_hostReq {s : State} {p id : Nat} {r : HostReq} (h : hostReq s p id = some r) : r.id = id := by
  simpa using List.find?_some h

/-- What the end of a request of a DMA of core `g` to the host keeps, the request being gone. -/
structure Answered (p id g : Nat) (s t : State) : Prop where
  requests : (partOf t p).hostReqs = (partOf s p).hostReqs.filter fun q => q.id != id
  others : ∀ q, q ≠ p → partOf t q = partOf s q
  cores : ∀ q, q ≠ g → coreOf t q = coreOf s q
  registers : sameRegisters (coreOf s g) (coreOf t g)
  stores : t.stores = s.stores
  clusters : t.clusters = s.clusters
  out : t.out = s.out

theorem answered_dropHostReq (s : State) (p id g : Nat) : Answered p id g s (dropHostReq s p id) :=
  ⟨by rw [dropHostReq, partOf_onPart], fun q hq => by rw [dropHostReq, partOf_onPart_ne _ _ _ _ hq], fun _ _ => rfl,
    ⟨rfl, rfl, rfl, rfl, rfl, rfl, rfl, rfl⟩, rfl, rfl, rfl⟩

theorem answered_onDma {p id g : Nat} {s t : State} (h : Answered p id g s t) (i : Nat) (f : Dma → Dma) :
    Answered p id g s (onDma t g i f) :=
  ⟨h.requests, h.others, fun q hq => (coreOf_onCore_ne _ _ _ _ hq).trans (h.cores q hq), by
    rw [onDma, coreOf_onCore]
    exact h.registers, h.stores, h.clusters, h.out⟩

theorem answered_spend {p id g : Nat} {s t : State} (h : Answered p id g s t) (n : Nat) : Answered p id g s (spend t n) :=
  ⟨h.requests, h.others, h.cores, h.registers, h.stores, h.clusters, h.out⟩

theorem dmas_onDma (s : State) (g i : Nat) (f : Dma → Dma) :
    (coreOf (onDma s g i f) g).dmas = (coreOf s g).dmas.map fun d => if d.id = i then f d else d := by
  rw [onDma, coreOf_onCore]

/-- A DMA of a changed list that has the changed number comes from one of the list before. -/
theorem mem_dmas_onDma {s : State} {g i : Nat} {f : Dma → Dma} {d : Dma} (hd : d ∈ (coreOf (onDma s g i f) g).dmas)
    (hi : d.id = i) : ∃ e ∈ (coreOf s g).dmas, e.id = i ∧ d = f e := by
  rw [dmas_onDma] at hd
  obtain ⟨e, he, rfl⟩ := List.mem_map.1 hd
  by_cases h : e.id = i
  · exact ⟨e, he, h, if_pos h⟩
  · rw [if_neg h] at hi
    exact absurd hi h

theorem slice_whole {bs : List Byte} {n : Nat} (h : bs.length = n) : slice bs 0 n = bs := by
  subst h
  simp [slice, zeros]

/-- A request whose time has passed stays as one whose completion comes too late. -/
theorem hostTimeout_eq {s : State} {p : Nat} {r : HostReq} (hk : r.kind ≠ .late) (hun : hostUnwanted s r = false) :
    hostTimeout s p r = onPart (hostEnd s p r none) p fun x => { x with hostReqs := x.hostReqs ++ [{ r with kind := .late }] } := by
  rw [hostTimeout, if_neg hk, hun, readAheadEnd]
  rfl

/-- An event that its mask lets pass without an interrupt is counted only (R399). -/
theorem errEvent_masked {s : State} {p i : Nat} (hc : R.errEvents ≠ R.errCnt i) (hm : R.errMask ≠ R.errCnt i)
    (h : (partOf s p).get R.errMask i i = 0) : (partOf (errEvent s p i) p).get (R.errCnt i) 31 0 =
      satTo 32 ((partOf s p).get (R.errCnt i) 31 0 + 1) := by
  have hmask : reg (putReg (putReg s p R.errEvents i i 1) p (R.errCnt i) 31 0
      (satTo 32 (reg (putReg s p R.errEvents i i 1) p (R.errCnt i) 31 0 + 1))) p R.errMask i i = 0 := by
    rw [reg_putReg_ne _ _ _ _ _ _ _ _ _ hm, reg_putReg_ne _ _ _ _ _ _ _ _ _ (by decide)]
    exact h
  have hcount : reg (errEvent s p i) p (R.errCnt i) 31 0 = satTo 32 (reg s p (R.errCnt i) 31 0 + 1) := by
    simp only [errEvent]
    rw [hmask, if_neg (by decide), reg_putReg _ _ _ _ _ _ (by decide) (by decide), reg_putReg_ne _ _ _ _ _ _ _ _ _ hc.symm]
    exact Nat.mod_eq_of_lt (by simp only [satTo]; omega)
  exact hcount

/-- Settles O40, by what a window serves and by what the end of a request makes of its DMA. -/
theorem hostWindowsAndRequests : Obligations.HostWindowsAndRequests := by
  refine ⟨fun s p off hp => ?_, fun s p id g i r hp hr => ?_⟩
  · have hwf (n : Nat) : Instr.wf (.hostWindowRead p off n) = true := by simp [Instr.wf, partOk, hp]
    refine ⟨fun as hl hf hplaces hsound => ?_, fun n hl hn hall => ?_, fun n h0 => ?_, fun a data hl hf h0 hin hplaces hst => ?_⟩
    · have acts : hostRead s p off as.length =
          emit (touchTiles s p (tilesTouched (as.map some))) (.hdmData p (as.map (mget (partOf s p).mem)) false) := by
        rw [hostRead, hplaces, hostReadAt_served hl hf hsound]
      obtain ⟨hmem, hcollars, hbar0, hviol, hothers, hrest⟩ := tilesTouched_touchTiles s p (tilesTouched (as.map some))
      have hout : (touchTiles s p (tilesTouched (as.map some))).out = s.out := by rw [hrest]
      have hstores : (touchTiles s p (tilesTouched (as.map some))).stores = s.stores := by rw [hrest]
      have hcores : (touchTiles s p (tilesTouched (as.map some))).cores = s.cores := by rw [hrest]
      exact ⟨_, exec_next_of_eq rfl (hwf _) acts, congrArg (· ++ _) hout, hmem, hcollars, hbar0, hviol, hothers, hstores, hcores⟩
    · have hlen : (hdmPlaces (partOf s p) false off n).length = n := by simp [hdmPlaces]
      have acts : hostRead s p off n = violation (emit s (.hdmData p (zeros n) false)) p := by
        rw [hostRead, hostReadAt_outside hl (List.ne_nil_of_length_pos (by omega)) hall, hlen]
      refine ⟨_, exec_next_of_eq rfl (hwf _) acts, rfl, ?_, ?_, rfl⟩
      · rw [violation, partOf_onPart]; rfl
      · rw [violation, partOf_onPart]; rfl
    · have hlen : (hdmPlaces (partOf s p) false off n).length = n := by simp [hdmPlaces]
      have acts : hostRead s p off n = devViolation (emit s (.hdmData p (zeros n) false)) := by
        rw [hostRead, hostReadAt, if_pos h0, hlen]
      refine ⟨_, exec_next_of_eq rfl (hwf _) acts, rfl, ?_, rfl⟩
      rw [devViolation, mreg_putMreg _ _ _ _ _ (by decide) (by decide)]
      exact Nat.mod_eq_of_lt (by simp only [satTo]; omega)
    · have acts : hostWrite s p off data = onPart s p fun y => (((List.range data.length).map fun i => some (a + i)).zip data).foldl
          (fun z e => match e.1 with
            | some a => hostPutByte z a e.2
            | none => z) y := by
        rw [hostWrite, hplaces, hostWriteAt_served hl hf h0 hin hst]
      have hbyte := mget_hostPutBytes data a (partOf s p)
      refine ⟨_, exec_next_of_eq rfl (by simp [Instr.wf, partOk, hp]) acts, mread_of_getD fun i hi => ?_, fun b hb => ?_,
        fun q hq => partOf_onPart_ne _ _ _ _ hq, rfl, rfl, rfl⟩
      · rw [partOf_onPart, hbyte, if_pos (by omega), Nat.add_sub_cancel_left]
      · rw [partOf_onPart, hbyte, if_neg (by omega)]
  · obtain rfl := id_of_hostReq hr
    have completes {u : State} (bs : List Byte) (b : Bool) (h : hostEnd s p r (some (bs, b)) = u) :
        exec (.hostCompletion p r.id bs b) s = .next u := by
      refine exec_next_of_eq rfl (by simp [Instr.wf, partOk, hp]) ?_
      rw [hr]
      exact h
    have times {u : State} (hk : r.kind ≠ .late) (hun : hostUnwanted s r = false) (h : hostEnd s p r none = u) :
        exec (.hostRequestTimeout p r.id) s =
          .next (onPart u p fun x => { x with hostReqs := x.hostReqs ++ [{ r with kind := .late }] }) := by
      refine exec_next_of_eq rfl (by simp [Instr.wf, partOk, hp]) ?_
      rw [hr]
      exact (hostTimeout_eq hk hun).trans (by rw [h])
    refine ⟨fun a bs hk hlen hlive => ?_, fun bs b hk => ?_, fun hk => ?_, fun a hk hun => ?_, fun bs b hk hx hmask => ?_⟩
    · obtain ⟨f, hf⟩ : ∃ f : Dma → Dma, f = fun d => (if d.aborted then d else d.stage a (slice bs 0 r.len) 0).reply Status.ok := ⟨_, rfl⟩
      have ends : hostEnd s p r (some (bs, false)) = onDma (dropHostReq s p r.id) g i f := by
        rw [hostEnd, hk, hf]
        rfl
      obtain ⟨hreqs, hparts, hcores, hregs, hstores, hclus, hout⟩ :=
        answered_onDma (answered_dropHostReq s p r.id g) i f
      refine ⟨_, completes bs false ends, ⟨hreqs.trans (List.append_nil _).symm, hparts, hcores, hregs, hstores, hclus, hout⟩,
        fun d hd hi => ?_⟩
      obtain ⟨e, he, hei, rfl⟩ := mem_dmas_onDma hd hi
      have hab : e.aborted = false := by simpa using List.all_eq_true.1 hlive e he
      have hbuf : (f e).buf = mput e.buf a bs := by
        rw [hf]
        simp only [hab, slice_whole hlen]
        rfl
      rw [hbuf, ← hlen]
      exact mread_mput ..
    · have ends : hostEnd s p r (some (bs, b)) = onDma (dropHostReq s p r.id) g i fun d => d.reply Status.ok := by
        rw [hostEnd, hk]
        rfl
      obtain ⟨hreqs, hparts, hcores, hregs, hstores, hclus, hout⟩ :=
        answered_onDma (answered_dropHostReq s p r.id g) i fun d => d.reply Status.ok
      exact ⟨_, completes bs b ends, ⟨hreqs.trans (List.append_nil _).symm, hparts, hcores, hregs, hstores, hclus, hout⟩,
        dmas_onDma ..⟩
    · have ends : hostEnd s p r none = onDma (dropHostReq s p r.id) g i fun d => d.reply Status.poison := by
        rw [hostEnd, hk]
        rfl
      obtain ⟨hreqs, hparts, hcores, hregs, hstores, hclus, hout⟩ :=
        answered_onDma (answered_dropHostReq s p r.id g) i fun d => d.reply Status.poison
      refine ⟨_, times (by simp [hk]) (by rw [hostUnwanted, hk]) ends, ⟨?_, fun q hq => ?_, hcores, hregs, hstores, hclus, hout⟩,
        dmas_onDma ..⟩
      · rw [partOf_onPart, ← hreqs]
      · rw [partOf_onPart_ne _ _ _ _ hq, hparts q hq]
    · obtain ⟨f, hf⟩ : ∃ f : Dma → Dma, f = fun d => if d.aborted then d else d.stage a (freeBytes (dropHostReq s p r.id) r.len) 1 := ⟨_, rfl⟩
      have ends : hostEnd s p r none =
          onDma (spend (onDma (dropHostReq s p r.id) g i f) (cdiv r.len 8)) g i fun d => d.reply Status.poison := by
        rw [hostEnd, hk, hf]
        rfl
      obtain ⟨hreqs, hparts, hcores, hregs, hstores, hclus, hout⟩ := answered_onDma (answered_spend
        (answered_onDma (answered_dropHostReq s p r.id g) i f) (cdiv r.len 8)) i fun d => d.reply Status.poison
      refine ⟨_, times (by simp [hk]) (by rw [hostUnwanted, hk]; exact hun) ends,
        ⟨?_, fun q hq => ?_, hcores, hregs, hstores, hclus, hout⟩, fun d hd hi => ?_⟩
      · rw [partOf_onPart, ← hreqs]
      · rw [partOf_onPart_ne _ _ _ _ hq, hparts q hq]
      · obtain ⟨u, hu, hui, rfl⟩ := mem_dmas_onDma hd hi
        obtain ⟨e, he, hei, rfl⟩ := mem_dmas_onDma hu hui
        have hkeep : (f e).waiting = e.waiting ∧ (f e).status = e.status := by
          rw [hf]
          dsimp only
          split
          · exact ⟨rfl, rfl⟩
          · exact ⟨rfl, rfl⟩
        obtain ⟨hw, hs⟩ := hkeep
        exact ⟨e, he, hei, congrArg (· - 1) hw, congrArg (· ++ [Status.poison]) hs⟩
    · have ends : hostEnd s p r (some (bs, b)) = errEvent (dropHostReq s p r.id) p 3 := by
        rw [hostEnd, hk]
        refine if_pos ?_
        have hpt : (partOf (dropHostReq s p r.id) p).ptstate = (partOf s p).ptstate := by rw [dropHostReq, partOf_onPart]
        simp [exists_, hpt, hx]
      have hpart : partOf (dropHostReq s p r.id) p = { partOf s p with hostReqs := (partOf s p).hostReqs.filter fun q => q.id != r.id } := by
        rw [dropHostReq, partOf_onPart]
      have hview := errEvent_view (F := registersOf p) (dropHostReq s p r.id) p 3 rfl rfl (beq_self_eq_true p) rfl
      refine ⟨_, completes bs b ends, ?_, ?_, (cores_of_view hview rfl :), (stores_of_view hview rfl :)⟩
      · rw [part_of_view Partition.hostReqs hview fun _ => rfl, hpart]
      · rw [errEvent_masked (by decide) (by decide) (by rw [hpart]; exact hmask), hpart]
        rfl

end Sys2Proof.Proofs
end

section
/-! Proofs about requests: responses, deadlines and tags that free (R188, R189, Table 8-15). -/

namespace Sys2Proof.Proofs

open Sys2Proof.Machine Sys2Proof.Safety Sys2Proof.Laws

/-! ### A tag that frees (R189) -/

/-- Nothing of a partition waits for a tag: no plan, and no message of a collective. -/
def Idle (s : State) (p : Nat) : Prop := planOf? s p = none ∧ ∀ k ∈ (partOf s p).colls, k.outq = []

/-- At most partitions differ, none in its memory, and what was idle is. -/
structure Pumped (s t : State) : Prop where
  rest : { t with parts := s.parts } = s
  mem : ∀ q, (partOf t q).mem = (partOf s q).mem
  idle : ∀ q, Idle s q → Idle t q

theorem pumped_refl (s : State) : Pumped s s := ⟨rfl, fun _ => rfl, fun _ h => h⟩

theorem pumped_trans {s t u : State} (a : Pumped s t) (b : Pumped t u) : Pumped s u where
  rest := by
    have h : { { u with parts := t.parts } with parts := s.parts } = { t with parts := s.parts } :=
      congrArg (fun x : State => { x with parts := s.parts }) b.rest
    exact h.trans a.rest
  mem q := (b.mem q).trans (a.mem q)
  idle q h := b.idle q (a.idle q h)

theorem pumped_fabric {s t : State} (h : Pumped s t) : t.fabric = s.fabric := (congrArg State.fabric h.rest :)
theorem pumped_cores {s t : State} (h : Pumped s t) : t.cores = s.cores := (congrArg State.cores h.rest :)
theorem pumped_clusters {s t : State} (h : Pumped s t) : t.clusters = s.clusters := (congrArg State.clusters h.rest :)
theorem pumped_stores {s t : State} (h : Pumped s t) : t.stores = s.stores := (congrArg State.stores h.rest :)
theorem pumped_out {s t : State} (h : Pumped s t) : t.out = s.out := (congrArg State.out h.rest :)

/-- With nothing queued a collective sends nothing. -/
theorem pump_of_idle {k : Coll} (p : Nat) (q : Group) (s : State) (h : k.outq = []) : pump p q s k = (s, k) := by
  have hk : { k with outq := [], unacked := k.unacked + 0 } = k := by rw [← h]; rfl
  rw [pump, h]
  exact congrArg (Prod.mk s) hk

theorem pumped_putColl (s : State) (p : Nat) {k : Coll} (h : k.outq = []) : Pumped s (putColl s p k) where
  rest := rfl
  mem q := by
    rw [putColl]
    by_cases hq : q = p
    · rw [hq, partOf_onPart]
    · rw [partOf_onPart_ne _ _ _ _ hq]
  idle q hi := by
    rw [Idle, planOf?, putColl]
    by_cases hq : q = p
    · subst hq
      rw [partOf_onPart]
      refine ⟨hi.1, fun j hj => ?_⟩
      obtain ⟨i, hmem, rfl⟩ := List.mem_map.1 hj
      split
      · exact h
      · exact hi.2 i hmem
    · rw [partOf_onPart_ne _ _ _ _ hq]
      exact hi

theorem pumped_onColl (s : State) (p g : Nat) (o : BitVec 16) (h : Idle s p) : Pumped s (onColl s p g o fun c => c) := by
  rw [onColl]
  split
  next k hk =>
    have hq : k.outq = [] := h.2 k (List.mem_of_find?_eq_some hk)
    rw [pump_of_idle p _ s hq]
    exact pumped_putColl s p hq
  next => exact pumped_refl s

theorem pumpSends_of_idle {s : State} {p : Nat} (h : Idle s p) : pumpSends s p = s := by
  rw [pumpSends, h.1]

/-- Where no message waits, a tag that frees lets none leave. -/
theorem pumped_tagFreed (s : State) (die : Bool) (h : nothingWaits s) : Pumped s (tagFreed s die) := by
  obtain ⟨hw, hidle⟩ := h
  have hs : sendWaited s die = s := by rw [sendWaited, hw]; rfl
  rw [tagFreed, hs]
  refine List.foldlRecOn (motive := Pumped s) _ _ (pumped_refl s) fun t ht p hp => ?_
  have hp : Idle t p := ht.idle p (hidle p (List.mem_range.1 hp))
  rw [pumpSends_of_idle hp]
  refine List.foldlRecOn (motive := Pumped s) _ _ ht fun u hu k _ => ?_
  exact pumped_trans hu (pumped_onColl u p _ _ (hu.idle p (hidle p (List.mem_range.1 ‹_›))))

/-! ### DMAs of a core (R86) -/

/-- No core's list of DMAs differs. -/
def sameDmas (s t : State) : Prop := ∀ g, (coreOf t g).dmas = (coreOf s g).dmas

theorem sameDmas_of_cores {s t : State} (h : t.cores = s.cores) : sameDmas s t := fun g => by rw [coreOf, h, coreOf]

theorem sameDmas_trans {s t u : State} (h : sameDmas s t) (h' : sameDmas t u) : sameDmas s u :=
  fun g => (h' g).trans (h g)

theorem sameDmas_of_view {F : Field → Bool} {s t : State} (h : view F t = view F s) (hF : F .cores = false) : sameDmas s t :=
  sameDmas_of_cores (cores_of_view h hF)

theorem sameDmas_onCore {s : State} {g : Nat} {f : Core → Core} (h : ∀ k, (f k).dmas = k.dmas) : sameDmas s (onCore s g f) := by
  intro j
  by_cases hj : j = g
  · rw [hj, coreOf_onCore, h]
  · rw [coreOf_onCore_ne _ _ _ _ hj]

theorem sameDmas_noteCode (s : State) (a n : Nat) : sameDmas s (noteCode s a n) := by
  simp only [noteCode]
  split
  · exact fun _ => rfl
  · split
    · exact fun _ => rfl
    · split
      · exact fun _ => rfl
      · exact List.foldlRecOn (motive := sameDmas s) _ _ (fun _ => rfl)
          fun t ht g _ => sameDmas_trans ht (sameDmas_onCore fun _ => rfl)

theorem sameDmas_devWriteRun (base : Bool) (s : State) (p a : Nat) (bs : List Byte) :
    sameDmas s (devWriteRun base s p a bs).1 := by
  simp only [devWriteRun]
  split
  · exact sameDmas_trans (sameDmas_noteCode s a bs.length) (sameDmas_of_cores rfl)
  · split <;> exact sameDmas_of_cores rfl
  · split
    · exact fun _ => rfl
    · split
      next t ht =>
        have hv : view (deviceRead p) t = view (deviceRead p) s :=
          readyWrite_view ht rfl rfl rfl rfl rfl (fun _ => rfl) (beq_self_eq_true p)
        exact sameDmas_trans (sameDmas_of_view hv rfl) (sameDmas_of_cores rfl)
      · exact sameDmas_of_view (F := deviceRead p) (errEvent_view _ _ _ rfl rfl (beq_self_eq_true p) rfl) rfl
  · exact fun _ => rfl

theorem sameDmas_devWrite (s : State) (p a : Nat) (bs : List Byte) : sameDmas s (devWrite s p a bs) := by
  simp only [devWrite, devWriteBy]
  refine sameDmas_trans (t := (List.foldl _ (s, false) _).1) ?_
    (sameDmas_of_view (F := deviceRead p) (violationIf_view _ _ _ rfl (beq_self_eq_true p)) rfl)
  refine List.foldlRecOn (motive := fun r : State × Bool => sameDmas s r.1) _ _ (fun _ => rfl) fun r hr e _ => ?_
  refine sameDmas_trans hr ?_
  dsimp only
  split
  · exact sameDmas_devWriteRun false r.1 p _ _
  · exact fun _ => rfl

theorem cores_scramble (s : State) (g off n : Nat) (l : List (Nat × Nat)) : (scramble s g off n l).cores = s.cores := by
  rw [scramble]; rfl

theorem sameDmas_storeHazard (s : State) (g a n : Nat) : sameDmas s (storeHazard s g a n) := by
  unfold storeHazard
  extract_lets hit k
  split
  next mark u _ =>
    have hu : sameDmas s u := sameDmas_onCore fun _ => rfl
    exact sameDmas_trans hu (sameDmas_of_cores (cores_scramble u g a n _))
  · exact fun _ => rfl

theorem sameDmas_amoResult (s : State) (p g res old st : Nat) : sameDmas s (amoResult s p g res old st) :=
  sameDmas_trans (sameDmas_devWrite s p _ _) (sameDmas_storeHazard _ g res 16)

theorem amoResult_deviceAccess (s : State) (p g res old st : Nat) :
    view (deviceAccess p) (amoResult s p g res old st) = view (deviceAccess p) s :=
  (storeHazard_view _ _ _ _ rfl rfl rfl).trans (devWrite_deviceAccess _ _ _ _)

/-! ### Responses (Table 8-15) -/

/-- What a device access of a partition leaves waiting for tags. -/
theorem nothingWaits_of_deviceAccess {p : Nat} {s t : State} (h : view (deviceAccess p) t = view (deviceAccess p) s)
    (hw : nothingWaits s) : nothingWaits t := by
  have hpl (q : Nat) : (partOf t q).tailor = (partOf s q).tailor := part_of_view Partition.tailor h fun _ => rfl
  have hco (q : Nat) : (partOf t q).colls = (partOf s q).colls := part_of_view Partition.colls h fun _ => rfl
  refine ⟨by rw [fabric_of_view h rfl]; exact hw.1, fun q hq => ?_⟩
  rw [planOf?, hpl, hco]
  exact hw.2 q hq

/-- A response that a request of the module waits for ends it, and its tag is free. -/
theorem takeResponse_of_req {s : State} {m : Msg} {t : Nat} {r : Req} (hm : m.mtype = t) (henc : m.enc = false)
    (hd : m.dst = ownId s) (hr : findReq s m = some r) (hl : r.timedOut = false) (hk : kindTakes r.kind t = true) :
    takeResponse s none m t =
      tagFreed (requestEnd (dropReq (takeInbox s m) r) r.kind (knownStatus m.status) (some m) none) r.die := by
  have hme : forMe s m t = true := by simp [forMe, hm, hd]
  have hacc : acceptMsg s none m = (some m, takeInbox s m) := by simp [acceptMsg, henc]
  have hr' : findReq (takeInbox s m) m = some r := hr
  simp only [takeResponse, hme, hacc, hr', hl, hk, Bool.not_true, Bool.or_self, Bool.false_eq_true, if_false]

/-- A response's message and request leave their lists; what waits does not change by that. -/
theorem nothingWaits_dropReq {s : State} (m : Msg) (r : Req) (h : nothingWaits s) : nothingWaits (dropReq (takeInbox s m) r) := h

theorem nothingWaits_onCore {s : State} (g : Nat) (f : Core → Core) (h : nothingWaits s) : nothingWaits (onCore s g f) := h

/-- A tile of a remote source, in the clear and whole, reaches its DMA (R182). -/
theorem requestEnd_dmaRead (s : State) (g id a : Nat) (m : Msg) :
    requestEnd s (.dmaRead g id a) Status.ok (some m) none =
      tileArrives s g id a m.payload (collarOf m.collar) Status.ok := by
  rw [requestEnd, if_pos rfl]; rfl

theorem requestEnd_dmaWrite (s : State) (g id st : Nat) (got : Option Msg) :
    requestEnd s (.dmaWrite g id) st got none = onDma s g id fun d => d.reply st := rfl

theorem requestEnd_amo (s : State) (g id res st : Nat) (got : Option Msg) :
    ∃ u, requestEnd s (.amo g id res) st got none = onDma u g id (fun d => d.reply st) ∧ sameDmas s u ∧
      u.fabric = s.fabric ∧ u.clusters = s.clusters ∧ (nothingWaits s → nothingWaits u) := by
  simp only [requestEnd]
  split
  next hd _ _ =>
    have hv := amoResult_deviceAccess s hd.part g res
      (if got.isSome && st = Status.ok then leAt ((got.map (·.payload)).getD []) 0 8 else 0) st
    exact ⟨_, rfl, sameDmas_amoResult _ _ _ _ _ _, fabric_of_view hv rfl, clusters_of_view hv rfl,
      nothingWaits_of_deviceAccess hv⟩
  next => exact ⟨s, rfl, fun _ => rfl, rfl, rfl, fun h => h⟩

/-! ### Deadlines (R188) -/

/-- POISON, and FENCED where a fenced port discarded flits, is what a late request ends with (log 139). -/
theorem lateStatus_eq (r : Req) : lateStatus r = if r.fenced then Status.fenced else Status.poison := by
  rw [lateStatus]
  cases r.fenced <;> decide

/-- Every request of the die and tag is TIMED_OUT. -/
theorem markTimedOut_reqs {s : State} {r x : Req} (hx : x ∈ (markTimedOut s r).fabric.reqs) (hd : x.die = r.die)
    (ht : x.tag = r.tag) : x.timedOut = true := by
  obtain ⟨y, -, rfl⟩ := List.mem_map.1 hx
  by_cases h : (y.die == r.die && y.tag == r.tag) = true
  · rw [if_pos h]
  · rw [if_neg h] at hd ht
    exact absurd (by simp [hd, ht]) h

/-- After a change of a DMA a tag frees: that is all. -/
theorem tagFreed_onDma {s : State} (g id : Nat) (f : Dma → Dma) (die : Bool) (h : nothingWaits s) :
    (tagFreed (onDma s g id f) die).fabric = s.fabric ∧
      (coreOf (tagFreed (onDma s g id f) die) g).dmas = (coreOf s g).dmas.map (fun d => if d.id = id then f d else d) ∧
      (∀ q, (partOf (tagFreed (onDma s g id f) die) q).mem = (partOf s q).mem) ∧
      (tagFreed (onDma s g id f) die).stores = s.stores ∧ (tagFreed (onDma s g id f) die).clusters = s.clusters ∧
      (tagFreed (onDma s g id f) die).out = s.out := by
  have hp := pumped_tagFreed (onDma s g id f) die (nothingWaits_onCore g _ h)
  refine ⟨(pumped_fabric hp :), ?_, hp.mem, (pumped_stores hp :), (pumped_clusters hp :), (pumped_out hp :)⟩
  rw [sameDmas_of_cores (pumped_cores hp), dmas_onDma]

/-- Settles O29, by the one kind of each request: a tag that frees where nothing waits sends nothing, and what an atomic's
result writes is no DMA. -/
theorem requestsEnd : Obligations.RequestsEnd := by
  unfold Obligations.RequestsEnd
  refine ⟨fun s m r g id hm henc hd hr hl hw => ⟨fun a ht hst hk hab => ?_, fun ht hk hst => ?_, fun res ht hk hst => ?_⟩,
    fun s die tag r hr => ⟨fun g id hl hk => ?_, fun hl hw => ?_⟩⟩
  · have hkn : knownStatus m.status = Status.ok := by rw [hst]; rfl
    have hres := takeResponse_of_req ht henc hd hr hl (by rw [hk]; rfl)
    rw [hk, hkn, requestEnd_dmaRead, tileArrives] at hres
    obtain ⟨hfab, hdmas, hmem, hsto, hclus, hout⟩ := tagFreed_onDma g id _ r.die (nothingWaits_dropReq m r hw)
    refine ⟨_, exec_next_of_eq rfl (by simp [Instr.wf, hm, viaOk]) hres, congrArg Fabric.reqs hfab, hdmas.trans ?_, hmem, hsto,
      hclus, hout⟩
    refine List.map_congr_left fun d hmem => ?_
    by_cases hi : d.id = id
    · simp [hi, Dma.reply, hab d hmem]
    · simp [hi]
  · have hres := takeResponse_of_req ht henc hd hr hl (by rw [hk]; rfl)
    rw [hk, hst, requestEnd_dmaWrite] at hres
    obtain ⟨hfab, hdmas, hmem, hsto, hclus, hout⟩ := tagFreed_onDma g id (fun d => d.reply m.status) r.die
      (nothingWaits_dropReq m r hw)
    exact ⟨_, exec_next_of_eq rfl (by simp [Instr.wf, hm, viaOk]) hres, congrArg Fabric.reqs hfab, hdmas, hmem, hsto, hclus, hout⟩
  · obtain ⟨u, hend, hdm, hfabu, hclusu, hwait⟩ :=
      requestEnd_amo (dropReq (takeInbox s m) r) g id res m.status (some m)
    have hres := takeResponse_of_req ht henc hd hr hl (by rw [hk]; rfl)
    rw [hk, hst, hend] at hres
    obtain ⟨hfab, hdmas, -, -, hclus, -⟩ := tagFreed_onDma g id (fun d => d.reply m.status) r.die
      (hwait (nothingWaits_dropReq m r hw))
    exact ⟨_, exec_next_of_eq rfl (by simp [Instr.wf, hm, viaOk]) hres, congrArg Fabric.reqs (hfab.trans hfabu),
      hdmas.trans (congrArg (List.map _) (hdm g)), hclus.trans hclusu⟩
  · have hres : requestDeadline s die tag = onDma (markTimedOut s r) g id fun d => d.reply (lateStatus r) := by
      simp only [requestDeadline, hr, hl, hk, requestEnd, reqUnwanted, readAheadEnd, Bool.false_eq_true, Bool.false_and, if_false]
    refine ⟨_, exec_next_of_eq rfl rfl hres, ?_, fun x => markTimedOut_reqs, List.length_map _, rfl, rfl⟩
    rw [dmas_onDma, lateStatus_eq]
    rfl
  · have hp := pumped_tagFreed (dropReq s r) die hw
    refine ⟨_, exec_next_of_eq rfl rfl (by simp only [tagReuse, hr, hl, if_true]), congrArg Fabric.reqs (pumped_fabric hp),
      (pumped_cores hp :), (pumped_stores hp :), (pumped_clusters hp :), (pumped_out hp :)⟩

end Sys2Proof.Proofs
end

section
/-! Proofs about gateways: the port that the checks of a datagram read (R195). -/

namespace Sys2Proof.Proofs

open Sys2Proof.Machine Sys2Proof.Safety Sys2Proof.Laws

/-! ### A datagram of no service port (R195) -/

/-- A gateway that the pattern names: device 1, by service port 0. -/
def namedPeer : TunnelPeer := { (default : TunnelPeer) with dev := 1 }

/-- A state whose host link 0 is UP. Its register stands where that of a third service port would, and `sst` reads there. -/
def hostLinkUp : State :=
  { putMreg State.reset (M.ptHost 0) 1 0 2 with pattern := some { (default : Pattern) with peers := [namedPeer] } }

/-- An acknowledgement from the gateway that names service port 2; the module has ports 0 and 1. -/
def strayTack : Datagram :=
  { sp := 2, tver := 1, tkind := 1, tseq := 0, tack := 0, sgw := 1, flits := [], fcsOk := true }

/-- The checks of R195 take host link 0 for the port. -/
theorem tunnelOk_strayTack : tunnelOk hostLinkUp strayTack = true := by decide +kernel

/-- The command names no unit of the device, and is no step. -/
theorem exec_strayTack : exec (.tunnelAck strayTack) hostLinkUp = .fault .noSuchUnit := rfl

/-- Refutes O27: the statement bounds no port number, so it claims a step for a datagram of port 2, which names no unit; the
checks pass where host link 0 is UP, whose register stands where that of a third service port would. -/
theorem not_gatewaysRetry : ¬ Obligations.GatewaysRetry := by
  unfold Obligations.GatewaysRetry
  rintro ⟨acknowledges, -⟩
  obtain ⟨t, run, -⟩ := acknowledges hostLinkUp strayTack tunnelOk_strayTack rfl
  rw [exec_strayTack] at run
  nomatch run

end Sys2Proof.Proofs
end

section
/-! Proofs about M operations: starts, segments, drains and capture buffers (R56 to R67, R107 to R112). -/

namespace Sys2Proof.Proofs

open Sys2Proof.Machine Sys2Proof.Safety Sys2Proof.Laws

/-! ### M operations: starts and segments (R56, R57, R65, R107) -/

theorem onCore_congr {s : State} {g : Nat} {f f' : Core → Core} (h : f (coreOf s g) = f' (coreOf s g)) :
    onCore s g f = onCore s g f' := by
  rw [onCore, h, onCore]

/-- The first operation takes its copy of the descriptor (R56). -/
theorem descriptorRead_eq {s : State} {g : Nat} {m : MOp} {rest : List MOp} (hk : (coreOf s g).mops = m :: rest)
    (hmul : m.multiplies = true) (hd : m.desc = none) : descriptorRead s g =
      onCore s g fun k => { k with mops := { m with desc := some (mread s.stores (g * 0x40000 + m.offS) 64) } :: rest } := by
  rw [descriptorRead]
  refine onCore_congr ?_
  simp [hk, updFirst, hmul, hd, cread, coreBase]

/-- A segment of the first operation ends (R107). -/
theorem segmentEnd_eq {s : State} {g : Nat} {m : MOp} {rest : List MOp} {d : List Byte} (hk : (coreOf s g).mops = m :: rest)
    (hd : m.desc = some d) (hst : m.started = true) (hl : m.segmentsLeft = true) : segmentEnd s g =
      onCore s g fun k => { k with mops := m.segmentStep s g d :: rest } := by
  rw [segmentEnd]
  refine onCore_congr ?_
  simp [hk, updFirst, hd, hst, hl]

/-- The operations before the first that has not started, and what is left with it. -/
theorem takeWhile_started {before rest : List MOp} {m : MOp} (hb : ∀ q ∈ before, q.started = true) (hm : m.started = false) :
    (before ++ m :: rest).takeWhile (·.started) = before ∧ (before ++ m :: rest).dropWhile (·.started) = m :: rest := by
  refine ⟨?_, ?_⟩
  · rw [List.takeWhile_append_of_pos hb, List.takeWhile_cons_of_neg (by simp [hm]), List.append_nil]
  · rw [List.dropWhile_append_of_pos hb, List.dropWhile_cons_of_neg (by simp [hm])]

/-- What a start does with the first multiplication that has its copy and has not started. -/
theorem mmaStart_eq {s : State} {g : Nat} {m : MOp} {before rest : List MOp} {d : List Byte}
    (hk : (coreOf s g).mops = before ++ m :: rest) (hb : ∀ q ∈ before, q.started = true) (hm : m.started = false)
    (hmul : m.multiplies = true) (hd : m.desc = some d) :
    mmaStart s g =
      if !m.checks d then onCore s g fun k => { k with mops := before ++ { m with started := true, failed := true } :: rest }
      else if m.mustWait (coreOf s g).cfg before then s
      else onCore (spend s (2 * m.m * m.n * m.k)) g fun k =>
        { k with mops := before ++ m.enter s g d :: rest, cfg := m.config, seeded := k.seeded &&& ~~~ m.arrays } := by
  obtain ⟨htake, hdrop⟩ := takeWhile_started (rest := rest) hb hm
  rw [mmaStart, hk, htake, hdrop]
  dsimp only
  rw [if_pos hmul, hd]

/-- Nothing before keeps an operation from the arrays (R67, R112). -/
theorem mopWaits_eq_false {m : MOp} {cfg : Nat} {before : List MOp}
    (h : ∀ q ∈ before, q.op ≠ 5 ∧ (m.config ≠ cfg → q.multiplies = false ∨ q.failed = true)) : m.mustWait cfg before = false := by
  rw [MOp.mustWait, List.any_eq_false]
  intro q hq
  obtain ⟨hop, hdrained⟩ := h q hq
  by_cases hc : m.config = cfg
  · simp [hop, hc]
  · obtain hmul | hfail := hdrained hc
    · simp [hop, hmul]
    · simp [hop, hfail]

/-- A shape switch waits for an operation that has not drained (R67). -/
theorem mopWaits_of_switch {m : MOp} {cfg : Nat} {before : List MOp} (hc : m.config ≠ cfg)
    (h : ∃ q ∈ before, q.multiplies = true ∧ q.failed = false ∧ q.hold = none) : m.mustWait cfg before = true := by
  obtain ⟨q, hq, hmul, hfail, hhold⟩ := h
  rw [MOp.mustWait, List.any_eq_true]
  exact ⟨q, hq, by simp [hc, hmul, hfail, hhold]⟩

theorem segmentsLeft_of_failed {m : MOp} (h : m.failed = true) : m.segmentsLeft = false := by
  simp [MOp.segmentsLeft, h]

theorem multiplies_of_op {m : MOp} (h : m.op = 1 ∨ m.op = 2) : m.multiplies = true := by
  obtain h | h := h <;> simp [MOp.multiplies, h]

/-! ### M operations: the end (R58) -/

/-- Of the cores at most core `g` differs, and not in its registers or its program counter. -/
structure KeepsRegisters (g : Nat) (s t : State) : Prop where
  others : ∀ q, q ≠ g → coreOf t q = coreOf s q
  registers : sameRegisters (coreOf s g) (coreOf t g)
  pc : (coreOf t g).pc = (coreOf s g).pc

theorem keepsRegisters_of_cores {g : Nat} {s t : State} (h : t.cores = s.cores) : KeepsRegisters g s t := by
  have hc (q : Nat) : coreOf t q = coreOf s q := by rw [coreOf, h, coreOf]
  exact ⟨fun q _ => hc q, by rw [hc]; exact ⟨rfl, rfl, rfl, rfl, rfl, rfl, rfl, rfl⟩, by rw [hc]⟩

theorem keepsRegisters_trans {g : Nat} {s t u : State} (h : KeepsRegisters g s t) (h' : KeepsRegisters g t u) :
    KeepsRegisters g s u :=
  ⟨fun q hq => (h'.others q hq).trans (h.others q hq), sameRegisters_trans h.registers h'.registers, h'.pc.trans h.pc⟩

theorem keepsRegisters_onCore {g : Nat} (s : State) {f : Core → Core} (hr : ∀ k, sameRegisters k (f k)) (hp : ∀ k, (f k).pc = k.pc) :
    KeepsRegisters g s (onCore s g f) :=
  ⟨fun q hq => coreOf_onCore_ne _ _ _ _ hq, by rw [coreOf_onCore]; exact hr _, by rw [coreOf_onCore]; exact hp _⟩

theorem popMop_eq (s : State) (g : Nat) : ∃ r, coreOf (popMop s g) g =
    { coreOf s g with mops := (coreOf s g).mops.drop 1, run := r } := by
  have hpop := coreOf_onCore s g fun k => { k with mops := k.mops.drop 1 }
  rw [popMop]
  split
  · obtain ⟨r, hr⟩ := endWaits_onlyRun (onCore s g fun k => { k with mops := k.mops.drop 1 }) g (fun w => w == .mwait) g
    exact ⟨r, by rw [hr, hpop]⟩
  · exact ⟨_, hpop⟩

theorem keepsRegisters_popMop (s : State) (g : Nat) : KeepsRegisters g s (popMop s g) := by
  obtain ⟨r, hr⟩ := popMop_eq s g
  refine ⟨fun q hq => ?_, by rw [hr]; exact ⟨rfl, rfl, rfl, rfl, rfl, rfl, rfl, rfl⟩, by rw [hr]⟩
  have hpop := coreOf_onCore_ne s g q (fun k => { k with mops := k.mops.drop 1 }) hq
  rw [popMop]
  split
  · unfold endWaits
    split
    · rw [coreOf_onCore_ne _ _ _ _ hq, hpop]
    · exact hpop
  · exact hpop

/-- What an operation's bytes and tags may change: no core. -/
@[reducible] def inStores : Field → Bool
  | .freeIx | .stores | .tags => true
  | _ => false

/-- What an operation may change: stores, tags and its core. -/
@[reducible] def inArrays : Field → Bool
  | .freeIx | .stores | .tags | .cores => true
  | _ => false

theorem stores_popMop (s : State) (g : Nat) : (popMop s g).stores = s.stores :=
  stores_of_view (F := inCores) (popMop_view s g rfl) rfl

/-- An operation that ends leaves its core's registers. -/
theorem keepsRegisters_finishMop (s : State) (g : Nat) (m : MOp) (d : List Byte) (w : BitVec 32) :
    KeepsRegisters g s (finishMop s g m d w) := by
  rw [finishMop]
  refine keepsRegisters_trans (keepsRegisters_of_cores ?_) (keepsRegisters_popMop _ g)
  exact cores_of_view (F := inStores) (spoil_view _ _ _ _ rfl rfl) rfl

theorem mops_finishMop (s : State) (g : Nat) (m : MOp) (d : List Byte) (w : BitVec 32) :
    (coreOf (finishMop s g m d w) g).mops = (coreOf s g).mops.drop 1 := by
  rw [finishMop]
  obtain ⟨r, hr⟩ := popMop_eq (spoil { s with stores := mput s.stores (coreBase g + m.offS + 0x30) (toLE 4 w.toNat) } g m d) g
  rw [hr]
  have hc : (spoil { s with stores := mput s.stores (coreBase g + m.offS + 0x30) (toLE 4 w.toNat) } g m d).cores = s.cores :=
    cores_of_view (F := inStores) (spoil_view _ _ _ _ rfl rfl) rfl
  rw [coreOf, hc, coreOf]

/-- Without a hazard the end writes the completion word and no other byte. -/
theorem stores_finishMop (s : State) (g : Nat) {m : MOp} (d : List Byte) (w : BitVec 32) (h : m.hazard = false) :
    (finishMop s g m d w).stores = mput s.stores (coreBase g + m.offS + 0x30) (toLE 4 w.toNat) := by
  rw [finishMop, stores_popMop, spoil, if_neg (by simp [h])]

theorem mle_mput_word (x : Mem) (a : Nat) (w : BitVec 32) : mle (mput x a (toLE 4 w.toNat)) a 4 = w.toNat := by
  have hread := mread_mput x a (toLE 4 w.toNat)
  rw [toLE_length] at hread
  rw [mle, hread, le_toLE]
  exact Nat.mod_eq_of_lt w.isLt

theorem mle_finishMop (s : State) (g : Nat) {m : MOp} (d : List Byte) (w : BitVec 32) (h : m.hazard = false) :
    mle (finishMop s g m d w).stores (coreBase g + m.offS + 0x30) 4 = w.toNat := by
  rw [stores_finishMop s g d w h, mle_mput_word]

theorem mmaComplete_of_started {s : State} {g : Nat} {m : MOp} {rest : List MOp} {d : List Byte}
    (hk : (coreOf s g).mops = m :: rest) (hst : m.started = true) (hh : m.hold = none) (hl : m.segmentsLeft = false)
    (hop : m.op = 1 ∨ m.op = 2) (hd : m.desc = some d) :
    mmaComplete s g = if m.failed then failMop s g m d else drainMop s g m d := by
  have h4 : m.op ≠ 4 := by omega
  have h5 : m.op ≠ 5 := by omega
  simp [mmaComplete, hk, hst, hh, hl, h4, h5, hd]

/-- The C of an operation that failed a check is marked, in tags only. -/
theorem failMop_eq (s : State) (g : Nat) (m : MOp) (d : List Byte) : ∃ u : State, view inStores u = view inStores s ∧
    u.stores = s.stores ∧ failMop s g m d =
      finishMop u g { m with hazard := m.hazard && spansInside (m.spansC d) } d (cword Status.poison false true false) := by
  refine ⟨_, ?_, ?_, rfl⟩
  · split
    · exact view_foldl _ _ fun t e => orTags_view _ _ _ _ rfl
    · rfl
  · split
    · exact List.foldlRecOn (motive := fun t : State => t.stores = s.stores) _ _ rfl fun t ht e _ => ht
    · rfl

/-- Settles O17, by the place of the operation in the list of its core: a start passes over those that have started, and the
end takes the first. -/
theorem matrixOperationsProceedAndFail : Obligations.MatrixOperationsProceedAndFail := by
  unfold Obligations.MatrixOperationsProceedAndFail
  refine ⟨fun s g m rest d hg => ⟨fun hk hmul hd => ?_, fun before hk hb hm hmul hd => ⟨fun hc => ?_, fun hc hq => ?_,
    fun hc hcfg hq => ?_⟩, fun hk hmul hd hst hfail hacc hlong hleft => ?_⟩, fun s g m rest d hg hk hst hh hfail hd hop => ?_⟩
  · exact exec_next_of_eq rfl (by simpa [Instr.wf, coreOk] using hg) (descriptorRead_eq hk hmul hd)
  · refine exec_next_of_eq rfl (by simpa [Instr.wf, coreOk] using hg) ((mmaStart_eq hk hb hm hmul hd).trans ?_)
    rw [hc]; rfl
  · refine exec_next_of_eq rfl (by simpa [Instr.wf, coreOk] using hg) ((mmaStart_eq hk hb hm hmul hd).trans ?_)
    rw [hc, mopWaits_eq_false hq]; rfl
  · refine exec_next_of_eq rfl (by simpa [Instr.wf, coreOk] using hg) ((mmaStart_eq hk hb hm hmul hd).trans ?_)
    rw [hc, mopWaits_of_switch hcfg hq]; rfl
  · exact exec_next_of_eq rfl (by simpa [Instr.wf, coreOk] using hg)
      (segmentEnd_eq hk hd hst (by simp [MOp.segmentsLeft, hmul, hfail, hacc, hlong, hleft]))
  · obtain ⟨u, hview, hstores, hend⟩ := failMop_eq s g m d
    have run := (mmaComplete_of_started hk hst hh (segmentsLeft_of_failed hfail) hop hd).trans (if_pos hfail)
    have hcores : u.cores = s.cores := cores_of_view hview rfl
    refine ⟨_, exec_next_of_eq rfl (by simpa [Instr.wf, coreOk] using hg) (run.trans hend), ?_, fun hz => ⟨?_, fun a ha => ?_⟩, ?_⟩
    · rw [mops_finishMop, coreOf, hcores, ← coreOf, hk]; rfl
    · exact mle_finishMop _ _ (m := { m with hazard := _ }) _ _ (by simp [hz])
    · rw [stores_finishMop _ _ _ _ (by simp [hz]), hstores]
      refine mget_mput_ne _ _ _ _ ?_
      rw [toLE_length]
      exact ha
    · obtain ⟨hothers, hregs, hpc⟩ := keepsRegisters_trans (keepsRegisters_of_cores (g := g) hcores)
        (keepsRegisters_finishMop u g { m with hazard := m.hazard && spansInside (m.spansC d) } d
          (cword Status.poison false true false))
      refine ⟨hregs, hpc, hothers, sameOutside_of_view ?_⟩
      rw [← hend]
      exact failMop_view _ _ _ _ rfl rfl rfl rfl

/-! ### M operations: the drain (R58, R94, R336) -/

/-- Segments change an operation's progress only. -/
theorem segmentSteps_progress (s : State) (g : Nat) (d : List Byte) (n : Nat) (m : MOp) :
    ∃ segs acc pairs tots, MOp.segmentSteps s g d n m = { m with segs := segs, acc := acc, pairs := pairs, tots := tots } := by
  induction n generalizing m with
  | zero => exact ⟨m.segs, m.acc, m.pairs, m.tots, rfl⟩
  | succ n ih =>
    obtain ⟨segs, acc, pairs, tots, h⟩ := ih (m.segmentStep s g d)
    refine ⟨segs, acc, pairs, tots, h.trans ?_⟩
    rw [MOp.segmentStep]
    dsimp only
    split <;> rfl

/-- C written and marked row by row, and the capture buffers taken. -/
def drainRows (s : State) (g : Nat) (m : MOp) (d : List Byte) (poison sat : Bool) : State :=
  onCore ((List.range m.m).foldl (fun t i => markRow t g m d (BitVec.ofNat 3 (tagWord poison sat false)) i)
    ((List.range m.m).foldl (fun t i => writeRow t g m d i) s)) g
    fun k => { k with caps := if capturing s g then captureCells m k.caps else k.caps }

/-- What the drain of a matrix does to its core: nothing but the capture buffers and the list of operations. -/
structure Drained (g : Nat) (s t : State) : Prop where
  keeps : KeepsRegisters g s t
  mops : (coreOf t g).mops = (coreOf s g).mops

theorem drained_trans {g : Nat} {s t u : State} (h : Drained g s t) (h' : Drained g t u) : Drained g s u :=
  ⟨keepsRegisters_trans h.keeps h'.keeps, h'.mops.trans h.mops⟩

theorem drained_of_cores {g : Nat} {s t : State} (h : t.cores = s.cores) : Drained g s t :=
  ⟨keepsRegisters_of_cores h, by rw [coreOf, h, coreOf]⟩

theorem drained_of_view {F : Field → Bool} {g : Nat} {s t : State} (h : view F t = view F s) (hF : F .cores = false) :
    Drained g s t := drained_of_cores (cores_of_view h hF)

theorem drained_onCaps (g : Nat) (s : State) (f : Core → Sparse CaptureCell) :
    Drained g s (onCore s g fun k => { k with caps := f k }) :=
  ⟨keepsRegisters_onCore s (fun _ => ⟨rfl, rfl, rfl, rfl, rfl, rfl, rfl, rfl⟩) fun _ => rfl, by rw [coreOf_onCore]⟩

theorem rows_inStores (s : State) (g : Nat) (m : MOp) (d : List Byte) (tag : BitVec 3) :
    view inStores ((List.range m.m).foldl (fun t i => markRow t g m d tag i)
      ((List.range m.m).foldl (fun t i => writeRow t g m d i) s)) = view inStores s :=
  (view_foldl _ _ fun _ _ => markRow_view _ _ _ _ _ _ rfl).trans (view_foldl _ _ fun _ _ => writeRow_view _ _ _ _ _ rfl)

theorem drained_drainRows (s : State) (g : Nat) (m : MOp) (d : List Byte) (poison sat : Bool) :
    Drained g s (drainRows s g m d poison sat) := by
  rw [drainRows]
  exact drained_trans (drained_of_view (rows_inStores s g m d _) rfl) (drained_onCaps g _ _)

theorem drainRows_inArrays (s : State) (g : Nat) (m : MOp) (d : List Byte) (poison sat : Bool) :
    view inArrays (drainRows s g m d poison sat) = view inArrays s := by
  rw [drainRows, onCore_view _ _ _ rfl]
  exact (view_foldl _ _ fun _ _ => markRow_view _ _ _ _ _ _ rfl).trans (view_foldl _ _ fun _ _ => writeRow_view _ _ _ _ _ rfl)

/-- The operation with what was left of its passes run. -/
def ranOut (s : State) (g : Nat) (m : MOp) (d : List Byte) : MOp := MOp.segmentSteps s g d (m.passes * m.segments - m.segs) m

/-- Whether an element's total saturated. -/
def saturated (m : MOp) : Bool := (List.range m.m).any fun i => (List.range m.n).any fun j => (m.totalOf i j).sat

theorem ranOut_fields (s : State) (g : Nat) (m : MOp) (d : List Byte) : (ranOut s g m d).audit = m.audit ∧
    (ranOut s g m d).hazard = m.hazard ∧ (ranOut s g m d).offS = m.offS ∧
    (ranOut s g m d).poisoned s g d = m.poisoned s g d := by
  obtain ⟨segs, acc, pairs, tots, h⟩ := segmentSteps_progress s g d (m.passes * m.segments - m.segs) m
  rw [ranOut, h]
  exact ⟨rfl, rfl, rfl, rfl⟩

/-- C's rows of an operation that has run out. -/
def drainedC (s : State) (g : Nat) (m : MOp) (d : List Byte) (n : Nat) : State :=
  drainRows (spend s n) g (ranOut s g m d) d (m.poisoned s g d) (saturated (ranOut s g m d))

theorem drained_drainedC (s : State) (g : Nat) (m : MOp) (d : List Byte) (n : Nat) : Drained g s (drainedC s g m d n) :=
  drained_trans (t := spend s n) (drained_of_cores rfl) (drained_drainRows _ _ _ _ _ _)

theorem drainedC_inArrays (s : State) (g : Nat) (m : MOp) (d : List Byte) (n : Nat) :
    view inArrays (drainedC s g m d n) = view inArrays s :=
  (drainRows_inArrays _ _ _ _ _ _).trans (spend_view _ _ rfl)

/-- An operation without an audit drains and ends with its completion word. -/
theorem drainMop_unaudited {m : MOp} (s : State) (g : Nat) (d : List Byte) (h : m.audit = false) :
    drainMop s g m d = finishMop (drainedC s g m d 0) g (ranOut s g m d) d
      (cword (if m.poisoned s g d then Status.poison else Status.ok) false (m.poisoned s g d) (saturated (ranOut s g m d))) := by
  obtain ⟨haud, -, -, hp⟩ := ranOut_fields s g m d
  rw [h] at haud
  rw [drainedC, ← hp]
  unfold ranOut at haud ⊢
  rw [drainMop]
  simp only [haud, Bool.false_and, Bool.false_eq_true, if_false]
  rfl

/-- What a vote that cannot be held may change: no core and no cluster. -/
@[reducible] def outsideCores : Field → Bool
  | .cores | .clusters => false
  | _ => true

/-- A vote beyond the fourth of a partition is charged and recorded, and C is marked: no core and no cluster (R337). -/
theorem unheldVote_cores (s : State) (g p : Nat) (l : List (Nat × Nat)) (vid next : BitVec 32) (a : Nat) (bs : List Byte) :
    let u := voteResult (charge { s with rel := { s.rel with nextVid := next } } 0x14 1 g) p vid Vout.none_ 0x14 g
    let t := l.foldl (fun t e => orTags t (coreBase g + e.1) e.2 4) { u with stores := mput u.stores a bs }
    t.cores = s.cores ∧ t.clusters = s.clusters := by
  intro u t
  have hu : view outsideCores u = view outsideCores { s with rel := { s.rel with nextVid := next } } :=
    (voteResult_view _ _ _ _ _ _ rfl rfl rfl rfl rfl).trans (charge_view _ _ _ _ rfl rfl rfl (fun _ => rfl) fun _ => rfl)
  have ht : view outsideCores t = view outsideCores { u with stores := mput u.stores a bs } :=
    view_foldl _ _ fun _ _ => orTags_view _ _ _ _ rfl
  exact ⟨(cores_of_view ht rfl).trans (cores_of_view hu rfl), (clusters_of_view ht rfl).trans (clusters_of_view hu rfl)⟩

/-- The end of an audited operation's drain: it leaves its core, or is held for the vote as the first of it. -/
def AuditEnd (g : Nat) (s t : State) : Prop :=
  ∃ (u : State) (m : MOp), Drained g s u ∧ u.clusters = s.clusters ∧
    ((∃ d w, t = finishMop u g m d w) ∨ m.hold ≠ none ∧ t = onCore u g fun k => { k with mops := m :: k.mops.drop 1 })

theorem drainMop_audited {m : MOp} (s : State) (g : Nat) (d : List Byte) (h : m.audit = true) :
    AuditEnd g s (drainMop s g m d) := by
  unfold drainMop
  extract_lets m' poison sat cols s' au s0 s2 s3 part st hold
  have haud : m'.audit = true := (ranOut_fields s g m d).1.trans h
  have hdr : Drained g s s3 := drained_trans (t := s') (drained_of_cores rfl) (drained_drainRows s' g m' d poison sat)
  have hcl : s3.clusters = s.clusters := clusters_of_view ((drainRows_inArrays s' g m' d poison sat).trans (spend_view s _ rfl)) rfl
  clear_value s3
  split
  · split
    · obtain ⟨hcores, hclus⟩ := unheldVote_cores s3 g part (m'.spansC d) s3.rel.nextVid (s3.rel.nextVid + 1)
        (coreBase g + Desc.audo d) (au.1.take 0x10 ++ toLE 4 s3.rel.nextVid.toNat ++ zeros 12)
      exact ⟨_, m', drained_trans hdr (drained_of_cores hcores), hclus.trans hcl, .inl ⟨d, _, rfl⟩⟩
    · exact ⟨s3, _, hdr, hcl, .inr ⟨Option.some_ne_none _, rfl⟩⟩
  next u _ =>
    have hu : u = { s3 with stores := mput s3.stores (coreBase g + Desc.audo d) au.1 } := if_pos haud
    exact ⟨u, m', drained_trans hdr (drained_of_cores (by rw [hu])), by rw [hu]; exact hcl, .inl ⟨d, _, rfl⟩⟩

/-! ### Capture buffers (R111, R112, Table 5-4) -/

/-- Of a run of bytes that is written, a part reads back. -/
theorem mread_mput_part (m : Mem) (a : Nat) (pre mid post : List Byte) :
    mread (mput m a (pre ++ mid ++ post)) (a + pre.length) mid.length = mid := by
  refine mread_of_getD fun i hi => ?_
  rw [Nat.add_assoc, mget_mput _ _ _ _ (by simp; omega), List.append_assoc, List.getD_append_right _ _ _ _ (by omega),
    Nat.add_sub_cancel_left, List.getD_append _ _ _ _ hi]

/-- Records of one length, one by one: record `i` follows `i` of them. -/
theorem flatMap_range_split {f : Nat → List Byte} {k n i : Nat} (hf : ∀ j, (f j).length = k) (h : i < n) :
    ∃ pre post, (List.range n).flatMap f = pre ++ f i ++ post ∧ pre.length = k * i := by
  obtain ⟨r, rfl⟩ := Nat.exists_eq_add_of_lt h
  refine ⟨(List.range i).flatMap f, ((List.range r).map (i + 1 + ·)).flatMap f, ?_, ?_⟩
  · rw [show i + r + 1 = i + 1 + r by omega, List.range_add, List.range_succ, List.flatMap_append, List.flatMap_append,
      List.flatMap_singleton]
  · simp [List.length_flatMap, hf, Nat.mul_comm]

/-- The record of a capture cell (Table 5-4). -/
def captureRecord (c : CaptureCell) : List Byte :=
  toLE 4 c.hi.toNat ++ toLE 4 c.lo.toNat ++ toLE 4 c.itot.toNat ++ toLE 4 c.cflg.toNat

theorem captureRecord_length (c : CaptureCell) : (captureRecord c).length = 16 := by simp [captureRecord]

/-- A word of a run of bytes that is written reads back. -/
theorem mle_mput_part (m : Mem) (a : Nat) (p q : List Byte) (w : BitVec 32) :
    mle (mput m a (p ++ toLE 4 w.toNat ++ q)) (a + p.length) 4 = w.toNat := by
  have hread := mread_mput_part m a p (toLE 4 w.toNat) q
  rw [toLE_length] at hread
  rw [mle, hread, le_toLE]
  exact Nat.mod_eq_of_lt w.isLt

/-- A record of a run of records reads back word by word. -/
theorem mle_mput_records (m : Mem) (a : Nat) {n i : Nat} (c : Nat → CaptureCell) (h : i < n) :
    let x := mput m a ((List.range n).flatMap fun i => captureRecord (c i))
    mle x (a + 16 * i) 4 = (c i).hi.toNat ∧ mle x (a + 16 * i + 4) 4 = (c i).lo.toNat ∧
      mle x (a + 16 * i + 8) 4 = (c i).itot.toNat ∧ mle x (a + 16 * i + 12) 4 = (c i).cflg.toNat := by
  intro x
  obtain ⟨pre, post, hsplit, hlen⟩ := flatMap_range_split (f := fun i => captureRecord (c i)) (fun j => captureRecord_length (c j)) h
  have word (p q : List Byte) (w : BitVec 32) (hx : pre ++ captureRecord (c i) ++ post = p ++ toLE 4 w.toNat ++ q) :
      mle x (a + p.length) 4 = w.toNat := by
    rw [← mle_mput_part m a p q w, ← hx, ← hsplit]
  refine ⟨?_, ?_, ?_, ?_⟩
  · simpa [hlen] using word pre _ (c i).hi (by simp only [captureRecord, List.append_assoc]; rfl)
  · simpa [hlen, Nat.add_assoc] using word (pre ++ toLE 4 (c i).hi.toNat) _ (c i).lo
      (by simp only [captureRecord, List.append_assoc]; rfl)
  · simpa [hlen, Nat.add_assoc] using word (pre ++ toLE 4 (c i).hi.toNat ++ toLE 4 (c i).lo.toNat) _ (c i).itot
      (by simp only [captureRecord, List.append_assoc]; rfl)
  · simpa [hlen, Nat.add_assoc] using word
      (pre ++ toLE 4 (c i).hi.toNat ++ toLE 4 (c i).lo.toNat ++ toLE 4 (c i).itot.toNat) post (c i).cflg
      (by simp only [captureRecord, List.append_assoc])

theorem sget_foldl_range {α : Type} [DecidableEq α] (d : α) (m : Sparse α) (b : Nat) (f : Nat → α) {n i : Nat} (h : i < n) :
    sget d ((List.range n).foldl (fun c i => sset d c (b + i) (f i)) m) (b + i) = f i := by
  induction n with
  | zero => omega
  | succ n ih =>
    rw [List.range_succ, List.foldl_append, List.foldl_cons, List.foldl_nil, sget_sset_if]
    by_cases hi : i = n
    · rw [if_pos (by rw [hi]), hi]
    · rw [if_neg (by omega), ih (by omega)]

theorem mmaComplete_of_capture {s : State} {g : Nat} {m : MOp} {rest : List MOp} (hk : (coreOf s g).mops = m :: rest)
    (hst : m.started = true) (hh : m.hold = none) (hop : m.op = 4 ∨ m.op = 5) :
    mmaComplete s g = if m.op = 4 then doMrd s g m else doMwr s g m := by
  have hmul : m.multiplies = false := by obtain h | h := hop <;> simp [MOp.multiplies, h]
  have hl : m.segmentsLeft = false := by simp [MOp.segmentsLeft, hmul]
  obtain h | h := hop <;> simp [mmaComplete, hk, hst, hh, hl, h]

theorem mops_popMop (s : State) (g : Nat) : (coreOf (popMop s g) g).mops = (coreOf s g).mops.drop 1 := by
  obtain ⟨r, hr⟩ := popMop_eq s g
  rw [hr]

theorem stores_doMrd {s : State} {g : Nat} {m : MOp} (h : m.hazard = false) : (doMrd s g m).stores =
    mput s.stores (g * 0x40000 + m.offC) ((List.range 64).flatMap fun i =>
      captureRecord (sget CaptureCell.zero (coreOf s g).caps (m.offA % 4 * 64 + i))) := by
  rw [doMrd, stores_popMop, spoil, if_neg (by simp [h])]
  rfl

theorem mops_doMrd {s : State} {g : Nat} {m : MOp} (h : m.hazard = false) :
    (coreOf (doMrd s g m) g).mops = (coreOf s g).mops.drop 1 := by
  rw [doMrd, mops_popMop, spoil, if_neg (by simp [h])]
  rfl

theorem seeds_popMop (s : State) (g : Nat) : (coreOf (popMop s g) g).seeds = (coreOf s g).seeds := by
  obtain ⟨r, hr⟩ := popMop_eq s g
  rw [hr]

/-- What `mwr` loads (R112). -/
theorem doMwr_seeds {s : State} {g : Nat} {m : MOp} {i : Nat} (h : m.hazard = false) (hi : i < 64) :
    sget CaptureCell.zero (coreOf (doMwr s g m) g).seeds (m.offA % 4 * 64 + i) =
      { hi := BitVec.ofNat 32 (mle s.stores (g * 0x40000 + m.offC + 16 * i) 4)
        lo := BitVec.ofNat 32 (mle s.stores (g * 0x40000 + m.offC + 16 * i + 4) 4)
        itot := BitVec.ofNat 32 (mle s.stores (g * 0x40000 + m.offC + 16 * i + 8) 4), cflg := 0 } := by
  unfold doMwr
  rw [if_neg (by simp [h])]
  extract_lets s' a at_ cell put
  rw [seeds_popMop, coreOf_onCore]
  refine (sget_foldl_range CaptureCell.zero (coreOf s g).seeds (m.offA % 4 * 64) cell hi).trans ?_
  simp only [s', cell, at_, cread, mle, coreBase, Nat.add_assoc, Nat.add_zero]

theorem mops_doMwr {s : State} {g : Nat} {m : MOp} (h : m.hazard = false) :
    (coreOf (doMwr s g m) g).mops = (coreOf s g).mops.drop 1 := by
  rw [doMwr, mops_popMop, coreOf_onCore, if_neg (by simp [h])]

theorem stores_doMwr {s : State} {g : Nat} {m : MOp} : (doMwr s g m).stores = s.stores := by
  rw [doMwr, stores_popMop]
  rfl

theorem toNat_mle (m : Mem) (a : Nat) : (BitVec.ofNat 32 (mle m a 4)).toNat = mle m a 4 := by
  have h := le_lt (mread m a 4)
  rw [mread_length] at h
  rw [BitVec.toNat_ofNat, mle]
  exact Nat.mod_eq_of_lt h

/-! ### The copy of a failed audit (R337) -/

/-- The vote that a held operation opens. -/
def heldVote (s : State) (g : Nat) (h : AuditHold) : Vote :=
  { vid := s.rel.nextVid, part := ((holderOf s g).map (·.part)).getD 16, core := g, kernel := none, orig := .audit h.cols
    check := .audit h.check, tol := h.tol, p0 := h.p0 }

/-- A held operation ends once its vote is opened. -/
theorem auditCopy_eq {s : State} {g : Nat} {m : MOp} {rest : List MOp} {d : List Byte} {h : AuditHold}
    (hk : (coreOf s g).mops = m :: rest) (hh : m.hold = some h) (hd : m.desc = some d) :
    ∃ u : State, auditCopy s g = finishMop u g m d h.cword ∧ u.cores = s.cores ∧ u.parts = s.parts ∧ u.out = s.out ∧
      u.rel = { s.rel with votes := s.rel.votes ++ [heldVote s g h], nextVid := s.rel.nextVid + 1 } := by
  rw [auditCopy, hk]
  dsimp only
  rw [hh, hd]
  dsimp only
  refine ⟨_, rfl, ?_⟩
  refine List.foldlRecOn (motive := fun t : State => t.cores = s.cores ∧ t.parts = s.parts ∧ t.out = s.out ∧
    t.rel = { s.rel with votes := s.rel.votes ++ [heldVote s g h], nextVid := s.rel.nextVid + 1 }) _ _ ⟨rfl, rfl, rfl, rfl⟩
    fun t ht e _ => ht

/-- The status of a completion word. -/
theorem status_cword (poison sat : Bool) :
    (cword (if poison then Status.poison else Status.ok) false poison sat).toNat / 2 ^ 24 = if poison then 4 else 0 := by
  cases poison <;> cases sat <;> rfl

/-- What stays within stores, tags and a core leaves the outside as it is. -/
theorem sameOutside_of_inArrays {s t : State} (h : view inArrays t = view inArrays s) : sameOutside s t :=
  ⟨out_of_view h rfl, parts_of_view h rfl, fabric_of_view h rfl, rel_of_view h rfl, sec_of_view h rfl,
    pwr_of_view h rfl, mregs_of_view h rfl, wardrobe_of_view h rfl, pattern_of_view h rfl, dieCtr_of_view h rfl,
    osc_of_view h rfl, tap_of_view h rfl, pending_of_view h⟩

/-- Settles O18, by what each end does to its core: all take the first operation off the list and write no register. -/
theorem matrixOperationsDrainAndVote : Obligations.MatrixOperationsDrainAndVote := by
  unfold Obligations.MatrixOperationsDrainAndVote
  refine ⟨fun s g m rest d hg hk hst hh hfail hd hop hl => ⟨fun haud => ?_, fun haud => ?_⟩,
    fun s g m rest d h hg hk hh hd => ?_, fun s g m rest i hg hk hst hh hz hi => ⟨fun hop => ?_, fun hop => ?_⟩⟩
  · have run := (mmaComplete_of_started hk hst hh hl hop hd).trans (if_neg (by simp [hfail]))
    have hend := drainMop_unaudited s g d haud
    obtain ⟨-, hhaz, hoff, -⟩ := ranOut_fields s g m d
    obtain ⟨hkeep, hmops⟩ := drained_drainedC s g m d 0
    obtain ⟨hothers, hregs, hpc⟩ := keepsRegisters_trans hkeep (keepsRegisters_finishMop _ g (ranOut s g m d) d
      (cword (if m.poisoned s g d then Status.poison else Status.ok) false (m.poisoned s g d) (saturated (ranOut s g m d))))
    have hview : view inArrays (drainMop s g m d) = view inArrays s := by
      rw [hend]
      exact (finishMop_view _ _ _ _ _ rfl rfl rfl).trans (drainedC_inArrays s g m d 0)
    rw [← hend] at hothers hregs hpc
    refine ⟨_, exec_next_of_eq rfl (by simpa [Instr.wf, coreOk] using hg) run, ?_, fun hz => ?_, hregs, hpc, hothers,
      clusters_of_view hview rfl, ?_⟩
    · rw [hend, mops_finishMop, hmops, hk]; rfl
    · rw [hend, ← hoff, ← status_cword _ (saturated (ranOut s g m d))]
      exact congrArg (· / 2 ^ 24) (mle_finishMop _ _ _ _ (hhaz.trans hz))
    · exact sameOutside_of_inArrays hview
  · have run := (mmaComplete_of_started hk hst hh hl hop hd).trans (if_neg (by simp [hfail]))
    obtain ⟨u, m', ⟨hkeep, hmops⟩, hclus, ⟨d', w, hend⟩ | ⟨hhold, hend⟩⟩ := drainMop_audited s g d haud
    · obtain ⟨-, hregs, hpc⟩ := keepsRegisters_trans hkeep (keepsRegisters_finishMop u g m' d' w)
      refine ⟨_, exec_next_of_eq rfl (by simpa [Instr.wf, coreOk] using hg) (run.trans hend), .inl ?_, hregs, hpc,
        (clusters_of_view (F := inArrays) (finishMop_view _ _ _ _ _ rfl rfl rfl) rfl).trans hclus⟩
      rw [mops_finishMop, hmops, hk]; rfl
    · obtain ⟨-, hregs, hpc⟩ := keepsRegisters_trans hkeep (keepsRegisters_onCore u (g := g)
        (f := fun k => { k with mops := m' :: k.mops.drop 1 }) (fun _ => ⟨rfl, rfl, rfl, rfl, rfl, rfl, rfl, rfl⟩) fun _ => rfl)
      refine ⟨_, exec_next_of_eq rfl (by simpa [Instr.wf, coreOk] using hg) (run.trans hend), .inr ⟨m', ?_, hhold⟩, hregs, hpc,
        hclus⟩
      rw [coreOf_onCore, hmops, hk]; rfl
  · obtain ⟨u, hend, hcores, hparts, hout, hrel⟩ := auditCopy_eq hk hh hd
    have hview : view inArrays (finishMop u g m d h.cword) = view inArrays u := finishMop_view _ _ _ _ _ rfl rfl rfl
    have hrel' := (rel_of_view hview rfl).trans hrel
    obtain ⟨-, hregs, -⟩ := keepsRegisters_trans (keepsRegisters_of_cores (g := g) hcores) (keepsRegisters_finishMop u g m d h.cword)
    refine ⟨_, heldVote s g h, exec_next_of_eq rfl (by simpa [Instr.wf, coreOk] using hg) hend, congrArg Machine.Rel.votes hrel',
      rfl, rfl, congrArg Machine.Rel.nextVid hrel', ?_, fun hz => mle_finishMop u g d h.cword hz, hregs,
      (parts_of_view hview rfl).trans hparts, (out_of_view hview rfl).trans hout⟩
    rw [mops_finishMop, coreOf, hcores, ← coreOf, hk]; rfl
  · have run := (mmaComplete_of_capture hk hst hh (.inl hop)).trans (if_pos hop)
    obtain ⟨hhi, hlo, htot, hflg⟩ := mle_mput_records s.stores (g * 0x40000 + m.offC)
      (fun i => sget CaptureCell.zero (coreOf s g).caps (m.offA % 4 * 64 + i)) hi
    rw [← stores_doMrd hz] at hhi hlo htot hflg
    have hview : view inArrays (doMrd s g m) = view inArrays s := doMrd_view _ _ _ rfl rfl rfl rfl
    refine ⟨_, exec_next_of_eq rfl (by simpa [Instr.wf, coreOk] using hg) run, ?_, hhi, hlo, htot, hflg,
      clusters_of_view hview rfl, sameOutside_of_inArrays hview⟩
    rw [mops_doMrd hz, hk]; rfl
  · have run := (mmaComplete_of_capture hk hst hh (.inr hop)).trans (if_neg (by omega))
    have hview : view inArrays (doMwr s g m) = view inArrays s := doMwr_view _ _ _ rfl rfl rfl
    refine ⟨_, exec_next_of_eq rfl (by simpa [Instr.wf, coreOk] using hg) run, ?_, ?_, ?_, ?_, stores_doMwr,
      clusters_of_view hview rfl, sameOutside_of_inArrays hview⟩
    · rw [mops_doMwr hz, hk]; rfl
    all_goals rw [doMwr_seeds hz hi]
    all_goals exact toNat_mle _ _

end Sys2Proof.Proofs
end

section
/-! Proofs about DMAs: the start with entry 0, the end, and the copy between core stores (R36, R86, R148). -/

namespace Sys2Proof.Proofs

open Sys2Proof.Machine Sys2Proof.Safety Sys2Proof.Laws

/-! ### DMAs: the start (R86, R88) -/

/-- A DMA with entry 0 that is ready for its first unit. -/
def entryZero (d : Dma) : Dma := { d with entry := some (zeros 32), active := 0 }

/-- What the start of a DMA with entry 0 does. -/
theorem dmaStart_entryZero {s : State} {g i : Nat} {d : Dma} {hd : Holder} (hat : dmaAt s g i = some d)
    (hh : holderOf s g = some hd) (he : d.entry = none) (hf : d.finished = false) (ha : d.aborted = false)
    (hr : dmaRuns s hd = true) (hp : pathDown s g = false) (hx : d.xf = 0) :
    dmaStart s g i =
      if dmaRejects s hd.part hd.ctx g (entryZero d) || windowRejects (entryZero d) || hostCut s hd.part (entryZero d) then
        dmaFinish (onDma s g d.id fun _ => entryZero d) g d.id Status.notRun
      else if totalUnits (entryZero d) = 0 then dmaFinish (onDma s g d.id fun _ => entryZero d) g d.id Status.ok
      else onDma s g d.id fun _ => entryZero d := by
  have hbytes : xfBytes s g d.xf = zeros 32 := if_pos hx
  have hxb : (d.xf != 0) = false := by simp [hx]
  have hgo : (d.entry.isSome || d.finished || d.aborted || !dmaRuns s hd || pathDown s g) = false := by
    simp [he, hf, ha, hr, hp]
  have hfold : foldRejectsLocal s hd.part hd.ctx (entryZero d) = false := by simp [foldRejectsLocal, entryZero, hxb]
  rw [dmaStart, hat, hh]
  dsimp only
  rw [if_neg (by rw [hgo]; decide), hxb, hbytes]
  simp only [Bool.false_and, Bool.false_eq_true, if_false]
  change (if (dmaRejects s hd.part hd.ctx g (entryZero d) || windowRejects (entryZero d) || hostCut s hd.part (entryZero d) ||
    foldRejectsLocal s hd.part hd.ctx (entryZero d)) = true then _ else _) = _
  rw [hfold, Bool.or_false]
  rfl

/-- Every DMA of the number is finished with one status more, none touches a register. -/
theorem dmas_dmaFinish {s : State} {g i st : Nat} {e q : Dma} (he : e.id = i) (hst : st ≠ Status.ok)
    (hq : q ∈ (coreOf (dmaFinish (onDma s g i fun _ => e) g i st) g).dmas) (hi : q.id = i) :
    q.finished = true ∧ q.status = e.status ++ [st] := by
  obtain ⟨x, hx, hxi, rfl⟩ := mem_dmas_onDma hq hi
  obtain ⟨-, -, -, rfl⟩ := mem_dmas_onDma hx hxi
  exact ⟨rfl, if_neg hst⟩

/-- A change of DMAs leaves registers and program counters. -/
theorem keepsRegisters_onDma (s : State) (g i : Nat) (f : Dma → Dma) : KeepsRegisters g s (onDma s g i f) :=
  keepsRegisters_onCore s (fun _ => ⟨rfl, rfl, rfl, rfl, rfl, rfl, rfl, rfl⟩) fun _ => rfl

/-- A DMA that is turned away touches no register and nothing outside its core. -/
theorem dmaFinish_started (s : State) (g : Nat) (d : Dma) :
    let t := dmaFinish (onDma s g d.id fun _ => entryZero d) g d.id Status.notRun
    KeepsRegisters g s t ∧ t.stores = s.stores ∧ t.clusters = s.clusters ∧ sameOutside s t :=
  ⟨keepsRegisters_trans (keepsRegisters_onDma s g d.id _) (keepsRegisters_onDma _ g d.id _), rfl, rfl,
    sameOutside_of_view ((onCore_view _ _ _ rfl).trans (onCore_view _ _ _ rfl))⟩

/-! ### DMAs: the end (R36) -/

/-- The core once a DMA has left it and the waits for it have ended. -/
def dmaLeft (s : State) (g : Nat) (d : Dma) : State :=
  let t := onCore s g fun k => { k with dmas := k.dmas.filter fun e => e.id != d.id }
  endWaits t g fun w => match w with
    | .dma m => !dmaBusy (coreOf t g) m
    | _ => false

theorem dmaLeft_inCores (s : State) (g : Nat) (d : Dma) : view inCores (dmaLeft s g d) = view inCores s :=
  (endWaits_view _ _ _ rfl).trans (onCore_view _ _ _ rfl)

theorem dmaLeft_core (s : State) (g : Nat) (d : Dma) :
    ∃ r, coreOf (dmaLeft s g d) g = { coreOf s g with dmas := (coreOf s g).dmas.filter (fun e => e.id != d.id), run := r } := by
  obtain ⟨r, hr⟩ := endWaits_onlyRun (onCore s g fun k => { k with dmas := k.dmas.filter fun e => e.id != d.id }) g
    (fun w => match w with
      | .dma m => !dmaBusy (coreOf (onCore s g fun k => { k with dmas := k.dmas.filter fun e => e.id != d.id }) g) m
      | _ => false) g
  exact ⟨r, by rw [dmaLeft, hr, coreOf_onCore]⟩

/-- A DMA without a semaphore whose context runs leaves, and a status other than OK is a fault of its core. -/
theorem dmaComplete_eq {s : State} {g i : Nat} {d : Dma} {hd : Holder} (hat : dmaAt s g i = some d)
    (hh : holderOf s g = some hd) (hf : d.finished = true) (ha : d.aborted = false) (hw : d.waiting = 0)
    (hs : d.semen = false) (hr : cstate s hd.part hd.ctx = Cs.running) : dmaComplete s g i =
      if worst d.status = Status.ok then dmaLeft s g d
      else coreFault (dmaLeft s g d) g Exc.dmaFault d.pc d.tag (worst d.status) := by
  have hp : (Cs.running == Cs.preempting) = false := rfl
  have ht : ¬Cs.running = Cs.teardown := by decide
  have hruns : dmaRuns s hd = true := by simp [dmaRuns, hr]
  rw [dmaComplete, hat, hh]
  simp only [hf, ha, hw, hr, hp, hruns, Bool.or_false, Bool.not_true, Bool.false_and, bne_self_eq_false, Bool.true_or,
    Bool.false_eq_true, if_false]
  rw [dmaRetire, hh]
  simp only [hr, ht, hs, ha, Bool.false_eq_true, if_false, or_false]
  rfl

/-- Settles O19, by the equations of the start with entry 0 and of the end in a running context. -/
theorem dmasStartAndComplete : Obligations.DmasStartAndComplete := by
  unfold Obligations.DmasStartAndComplete
  refine ⟨fun s g i d hd hg hat hh he hf ha hr hp hx => ⟨fun hrej hwin hcut hunits => ?_, fun hrej => ?_⟩,
    fun s g i d hd hg hat hh hf ha hw hs hr => ⟨fun hok => ?_, fun hbad => ?_⟩⟩
  · refine exec_next_of_eq rfl (by simpa [Instr.wf, coreOk] using hg) ((dmaStart_entryZero hat hh he hf ha hr hp hx).trans ?_)
    change dmaRejects s hd.part hd.ctx g (entryZero d) = false at hrej
    change windowRejects (entryZero d) = false at hwin
    change hostCut s hd.part (entryZero d) = false at hcut
    change 0 < totalUnits (entryZero d) at hunits
    rw [hrej, hwin, hcut, if_neg (by decide), if_neg (Nat.pos_iff_ne_zero.1 hunits)]
    rfl
  · have run := dmaStart_entryZero hat hh he hf ha hr hp hx
    change dmaRejects s hd.part hd.ctx g (entryZero d) = true at hrej
    rw [hrej, Bool.true_or, Bool.true_or, if_pos rfl] at run
    obtain ⟨hkeep, hstores, hclus, hout⟩ := dmaFinish_started s g d
    exact ⟨_, exec_next_of_eq rfl (by simpa [Instr.wf, coreOk] using hg) run,
      fun q hq hi => dmas_dmaFinish (e := entryZero d) rfl (by decide) hq hi, hkeep.registers, hstores, hclus, hout⟩
  · have run := (dmaComplete_eq hat hh hf ha hw hs hr).trans (if_pos hok)
    obtain ⟨r, hcore⟩ := dmaLeft_core s g d
    have hview := dmaLeft_inCores s g d
    exact ⟨_, exec_next_of_eq rfl (by simpa [Instr.wf, coreOk] using hg) run, by rw [hcore],
      by rw [hcore]; exact ⟨rfl, rfl, rfl, rfl, rfl, rfl, rfl, rfl⟩, stores_of_view hview rfl, clusters_of_view hview rfl,
      sameOutside_of_view ((endWaits_view _ _ _ rfl).trans (onCore_view _ _ _ rfl))⟩
  · have run := (dmaComplete_eq hat hh hf ha hw hs hr).trans (if_neg hbad)
    have hview := dmaLeft_inCores s g d
    have hparts : (dmaLeft s g d).parts = s.parts := parts_of_view hview rfl
    have hclus : (dmaLeft s g d).clusters = s.clusters := clusters_of_view hview rfl
    have hr' : cstate (dmaLeft s g d) hd.part hd.ctx = Cs.running := by rw [← hr, cstate, reg, partOf, hparts]; rfl
    have hh' : holderOf (dmaLeft s g d) g = some hd := (holderOf_of_clusters hclus g).trans hh
    have hfault : view noStores (coreFault (dmaLeft s g d) g Exc.dmaFault d.pc d.tag (worst d.status)) =
        view noStores (dmaLeft s g d) := coreFault_view _ _ _ _ _ _ rfl rfl rfl (fun _ => rfl) (fun _ => rfl) fun _ => rfl
    obtain ⟨-, -, hst, hcause⟩ := coreFault_running_spec Exc.dmaFault d.pc d.tag (worst d.status) hh' hr'
    refine ⟨_, exec_next_of_eq rfl (by simpa [Instr.wf, coreOk] using hg) run, hst, hcause, ?_,
      (stores_of_view hfault rfl).trans (stores_of_view hview rfl), (clusters_of_view hfault rfl).trans hclus⟩
    rw [coreFault_running _ _ _ _ hh' hr', cause_beginTeardown]
    rfl

/-! ### A copy between core stores (R87, R148) -/

/-- A run inside one unit is cut nowhere. -/
theorem cutRuns_one {unit_ fuel a n : Nat} (hn : 0 < n) (hu : 0 < unit_) (h : a / unit_ = (a + n - 1) / unit_) :
    cutRuns unit_ (fuel + 2) a n = [(a, 0, n)] := by
  have hfit : n ≤ unit_ - a % unit_ := by
    have hdiv := Nat.div_add_mod a unit_
    have hlast : a + n - 1 < unit_ * ((a + n - 1) / unit_) + unit_ := by
      have := Nat.lt_mul_div_succ (a + n - 1) hu
      rwa [Nat.mul_add, Nat.mul_one] at this
    rw [← h] at hlast
    omega
  simp [cutRuns, Nat.ne_of_gt hn, Nat.min_eq_left hfit]

/-- A core-store address of a partition that may be addressed lies in a store. -/
theorem pvKind_of_coreStore {x : Partition} {a : Nat} (hlt : a < 0xA0000000) (h : pvKind x a ≠ .outside) : pvKind x a = .store := by
  rw [pvKind, if_pos hlt] at h ⊢
  split
  · rfl
  next hc => rw [if_neg hc] at h; exact absurd rfl h

/-- What a DMA of a context may address is not outside. -/
theorem pvKind_of_mayByte {s : State} {p c a : Nat} (h : mayByte s p c a = true) : pvKind (partOf s p) a ≠ .outside := by
  simp only [mayByte, Bool.and_eq_true, bne_iff_ne] at h
  exact h.2

theorem isMemory_of_coreStore {a : Word} (hs : spaceOf a = .pv) (h : addrOff a < 0xA0000000) : isMemory a = false := by
  have hb : ¬boltBase ≤ addrOff a := by rw [boltBase]; omega
  simp [isMemory, hs, hb]

/-- Source bytes in one core store that may be read are those of the store, and no violation. -/
theorem copySource_coreStore {s : State} {p c n : Nat} {d : Dma} (hsp : spaceOf d.src = .pv) (hlt : addrOff d.src < 0xA0000000)
    (hone : addrOff d.src / 0x40000 = (addrOff d.src + n - 1) / 0x40000)
    (hmay : ∀ k, k < n → mayByte s p c (addrOff d.src + k) = true) :
    (copySource s p c d (addrOff d.src) n).1 = mread s.stores (addrOff d.src) n ∧
      (copySource s p c d (addrOff d.src) n).2.2 = false := by
  have hmem : isMemory d.src = false := isMemory_of_coreStore hsp hlt
  have hend {k : Nat} (hk : k < n) : addrOff d.src + k < windowEnd (addrOff d.src) := by
    rw [windowEnd, if_pos hlt]
    omega
  have hsrc {k : Nat} (hk : k < n) : maySrc s p c d (addrOff d.src + k) = true := by
    rw [maySrc, hmay k hk, decide_eq_true (hend hk)]; rfl
  have hbyte {k : Nat} (hk : k < n) : pvByte s (partOf s p) (addrOff d.src + k) = some (mget s.stores (addrOff d.src + k)) := by
    have hlt' : addrOff d.src + k < 0xA0000000 := by
      have := hend hk
      rw [windowEnd, if_pos hlt] at this
      omega
    rw [pvByte, pvKind_of_coreStore hlt' (pvKind_of_mayByte (hmay k hk))]
  simp only [copySource, hmem, Bool.false_eq_true, if_false, srcBytes, hsp]
  refine ⟨?_, ?_⟩
  · rw [pvPeek, mread_eq]
    simp only [List.map_map]
    refine List.map_congr_left fun k hk => ?_
    have hk := List.mem_range.1 hk
    simp [hsrc hk, hend hk, hbyte hk]
  · simp only [beq_self_eq_true, Bool.true_and, List.any_eq_false, List.mem_range]
    intro k hk
    rw [hsrc hk]
    decide

/-- A run of bytes that a DMA may write into a core store without M operations is written, and its tags with it. -/
theorem storeWrite_coreStore {s : State} {p c b : Nat} {d : Dma} {bs : List Byte} (tag : Nat → BitVec 3) (hn : 0 < bs.length)
    (hb : b < 0xA0000000) (hd : addrOff d.dst = b) (hone : b / 4096 = (b + bs.length - 1) / 4096)
    (hmay : mayWrite s p c b = true) (hidle : (coreOf s (b / 0x40000)).mops = []) :
    storeWrite s p c d b bs tag = (mergeTags { s with stores := mput s.stores b bs } b bs.length tag, false) := by
  have hkind : pvKind (partOf s p) b = .store := by
    simp only [mayWrite, Bool.and_eq_true] at hmay
    exact pvKind_of_coreStore hb (pvKind_of_mayByte hmay.1)
  have hend : b < windowEnd (addrOff d.dst) := by rw [hd, windowEnd, if_pos hb]; omega
  have hput : putStore s b bs = { s with stores := mput s.stores b bs } := by rw [putStore, noteCode, if_pos (.inl hb)]
  have hrun : storeRun s p c b bs tag = (mergeTags { s with stores := mput s.stores b bs } b bs.length tag, false) := by
    have hstill : storeHazard (mergeTags { s with stores := mput s.stores b bs } b bs.length tag) (b / 0x40000) (b % 0x40000)
        bs.length = mergeTags { s with stores := mput s.stores b bs } b bs.length tag := by
      have hno : (coreOf (mergeTags { s with stores := mput s.stores b bs } b bs.length tag) (b / 0x40000)).mops = [] := hidle
      rw [storeHazard, hno]
      rfl
    rw [storeRun, hmay, hkind, hput]
    simp only [Bool.not_true, Bool.false_eq_true, if_false, coreStoreAt, if_pos hb, hstill]
  rw [storeWrite]
  simp only [if_pos (show b < 0xF0000000 by omega), cutRuns_one hn (by decide) hone, List.foldl_cons, List.foldl_nil, if_pos hend,
    List.drop_zero, List.take_length, hrun, Bool.or_false]

theorem copySpan_whole {d : Dma} (h : d.len ≤ 4096) (hn : 0 < d.len)
    (hone : addrOff d.dst / 4096 = (addrOff d.dst + d.len - 1) / 4096) : copySpan d 0 = (0, d.len) := by
  rw [copySpan]
  simp only [if_true, Nat.sub_zero, Nat.add_zero, Prod.mk.injEq, true_and]
  omega

theorem tileTransfer_flat {s : State} {g i : Nat} {d : Dma} {hd : Holder} (hat : dmaAt s g i = some d)
    (hh : holderOf s g = some hd) (he : d.entry = some (zeros 32)) (hf : d.finished = false) (ha : d.aborted = false)
    (hr : dmaRuns s hd = true) (hp : pathDown s g = false) (hx : d.xf = 0) (hs : spaceOf d.src = .pv) (ht : spaceOf d.dst = .pv)
    (hsm : isMemory d.src = false) (htm : isMemory d.dst = false) :
    tileTransfer s g i [] = (copyUnit s hd.part hd.ctx g d).getD s := by
  have hthrough : throughRegs d = false := by simp [throughRegs, hs, ht]
  have haway : sendsAway s d = false := by simp [sendsAway, awayAddr, ht]
  have hchunks : unitChunks d (Entry.ofBytes (d.entry.getD [])) = [] := by simp [unitChunks, hs]
  have htiles : copyTiles d = [] := by simp [copyTiles, hsm, htm]
  have hgo : (d.entry.isNone || d.finished || d.aborted || !dmaRuns s hd || pathDown s g) = false := by
    simp [he, hf, ha, hr, hp]
  rw [tileTransfer, hat, hh]
  simp only [hgo, hchunks, haway, htiles, hx, memFaults, List.foldl_nil, List.filter_nil, bne_self_eq_false, Bool.false_and,
    Bool.and_false, Bool.false_eq_true, if_false, if_true, boltsReady, boltsOfTiles, List.map_nil, List.eraseDups_nil,
    List.find?_nil, touchTiles, hthrough]

/-- The one unit of a copy between core stores: the bytes are written, and the unit is done. -/
theorem copyUnit_coreStores {s : State} {p c g : Nat} {d : Dma} (hu : d.unit = 0) (hs : spaceOf d.src = .pv)
    (ht : spaceOf d.dst = .pv) (hn : 0 < d.len) (hlen : d.len ≤ 4096)
    (hsone : addrOff d.src / 0x40000 = (addrOff d.src + d.len - 1) / 0x40000) (hsrc : addrOff d.src < 0xA0000000)
    (htone : addrOff d.dst / 4096 = (addrOff d.dst + d.len - 1) / 4096) (hdst : addrOff d.dst < 0xA0000000)
    (hmay : ∀ k, k < d.len → mayByte s p c (addrOff d.src + k) = true) (hwrite : mayWrite s p c (addrOff d.dst) = true)
    (hidle : (coreOf s (addrOff d.dst / 0x40000)).mops = []) :
    ∃ tag, copyUnit s p c g d = some (unitDone (mergeTags
      { s with stores := mput s.stores (addrOff d.dst) (mread s.stores (addrOff d.src) d.len) } (addrOff d.dst) d.len tag)
        g d.id Status.ok) := by
  obtain ⟨hbytes, hviol⟩ := copySource_coreStore hs hsrc hsone hmay
  have hb : addrOff d.dst < boltBase := by rw [boltBase]; omega
  refine ⟨wordFlags (addrOff d.dst) d.len (copySource s p c d (addrOff d.src) d.len).2.1, ?_⟩
  have hwr := storeWrite_coreStore (s := s) (p := p) (c := c) (d := d) (bs := mread s.stores (addrOff d.src) d.len)
    (wordFlags (addrOff d.dst) d.len (copySource s p c d (addrOff d.src) d.len).2.1) (by rwa [mread_length]) hdst rfl
    (by rwa [mread_length]) hwrite hidle
  rw [mread_length] at hwr
  simp only [copyUnit, hu, copySpan_whole hlen hn htone, Nat.add_zero, isMemory_of_coreStore hs hsrc, hbytes, hviol, ht, if_pos hb,
    hwr, Bool.false_eq_true, if_false, Bool.or_false, Option.map_some, violationIf, countBad, List.foldl_nil]

/-- The one unit of a flat copy ends its DMA. -/
theorem finished_unitDone {s : State} {g i : Nat} {d : Dma} (hat : dmaAt s g i = some d) (hx : d.xf = 0) (hu : d.unit = 0)
    (hs : spaceOf d.src = .pv) (ht : spaceOf d.dst = .pv) (hn : 0 < d.len)
    (hone : addrOff d.dst / 4096 = (addrOff d.dst + d.len - 1) / 4096) :
    (dmaAt (unitDone s g d.id Status.ok) g i).map (·.finished) = some true := by
  have htotal : totalUnits d ≤ d.unit + 1 := by
    simp only [totalUnits, hx, copyUnits, throughRegs, hs, ht, hu, cdiv]
    simp only [if_true, Nat.ne_of_gt hn, if_false]
    have : (addrOff d.dst % 4096 + d.len + 4096 - 1) / 4096 ≤ 1 := by omega
    simpa using this
  rw [dmaAt] at hat
  rw [dmaAt, unitDone, dmas_onDma, List.getElem?_map, hat]
  simp [htotal]

/-- Settles O20, by the one run that the copy is: source and destination lie each in one core store, and no M operation of the
destination's core is in flight. -/
theorem storeCopyMovesBytes : Obligations.StoreCopyMovesBytes := by
  unfold Obligations.StoreCopyMovesBytes
  intro s g i d hd hg hat hh he hf ha hr hp hx hu hs ht hn hlen hsone hsrc htone hdst hmay hwrite hidle
  obtain ⟨tag, hcopy⟩ := copyUnit_coreStores (g := g) hu hs ht hn hlen hsone hsrc htone hdst hmay hwrite hidle
  have run := tileTransfer_flat hat hh he hf ha hr hp hx hs ht (isMemory_of_coreStore hs hsrc) (isMemory_of_coreStore ht hdst)
  rw [hcopy, Option.getD_some] at run
  refine ⟨_, exec_next_of_eq rfl (by simpa [Instr.wf, coreOk] using hg) run, ?_, fun a ha => ?_,
    finished_unitDone hat hx hu hs ht hn htone, (keepsRegisters_onDma _ g d.id _).registers, rfl, ?_⟩
  · have hread := mread_mput s.stores (addrOff d.dst) (mread s.stores (addrOff d.src) d.len)
    rw [mread_length] at hread
    exact hread
  · exact mget_mput_ne _ _ _ _ (by rwa [mread_length])
  · exact sameOutside_of_view ((onCore_view _ _ _ rfl).trans ((mergeTags_view _ _ _ _ rfl).trans
      (view_mk (.inr rfl) (.inr rfl) (.inr rfl) (.inr rfl) (.inr rfl) (.inr rfl) (.inl rfl) (.inr rfl) (.inr rfl) (.inr rfl)
        (.inr rfl) (.inr rfl) (.inr rfl) (.inr rfl) (.inr rfl) (.inr rfl))))

end Sys2Proof.Proofs
end

section
/-! Proofs about HBM errors: charges to dies and tiles that are marked POISON (R139). -/

namespace Sys2Proof.Proofs

open Sys2Proof.Machine Sys2Proof.Safety Sys2Proof.Laws

/-! ### Charges to HBM dies (R139, R333) -/

/-- The events of a class charged to a unit. -/
def unitCount (s : State) (cls ut idx : Nat) : Nat := (sget UnitCount.zero s.rel.counts (unitKey cls ut idx)).cnt.toNat

theorem unitCount_of_rel {s t : State} (h : t.rel = s.rel) (cls ut idx : Nat) : unitCount t cls ut idx = unitCount s cls ut idx := by
  rw [unitCount, h, unitCount]

theorem unitCount_charge (s : State) (cls ut idx : Nat) :
    unitCount (charge s cls ut idx) cls ut idx = satTo 32 (unitCount s cls ut idx + 1) := by
  rw [unitCount, counts_charge, sget_sset, UnitCount.add, unitCount]
  exact Nat.mod_eq_of_lt (Nat.lt_of_le_of_lt (Nat.min_le_right _ _) (by decide))

theorem unitCount_charge_other (s : State) {cls cls' : Nat} (ut idx : Nat) (h : cls' ≠ cls) :
    unitCount (charge s cls ut idx) cls' ut idx = unitCount s cls' ut idx := by
  rw [unitCount, counts_charge, sget_sset_ne _ _ _ _ _ _ (by rw [unitKey, unitKey]; omega), unitCount]

/-- A die belongs to no partition, so that its charges are no event of one (R399). -/
theorem parts_charge_die (s : State) (cls d : Nat) : (charge s cls 5 d).parts = s.parts := by
  have recorded (t : State) (c : Bool) (flg : Nat) (h : t.parts = s.parts) :
      (if c then eventRecord t cls 5 d flg 0 else t).parts = s.parts := by
    split
    · exact (parts_of_view (F := noParts) (eventRecord_view _ _ _ _ _ _ rfl rfl) rfl).trans h
    · exact h
  have hno (t : State) : unitPart t 5 d = none := rfl
  rw [charge, chargeN]
  simp only [hno]
  split <;> exact recorded _ _ _ rfl

/-- The failed mark of a die is a charge of its own class (R139). -/
theorem markDie_effects (s : State) (d : Nat) : (markDie s d).parts = s.parts ∧
    ∀ cls, cls ≠ 5 → unitCount (markDie s d) cls 5 d = unitCount s cls 5 d := by
  unfold markDie
  extract_lets x
  split
  · exact ⟨parts_charge_die _ _ _, fun cls h => unitCount_charge_other (putDie s d { x with failed := true }) 5 d h⟩
  · exact ⟨rfl, fun _ _ => rfl⟩

/-- A charged event of a die that is counted in a partition's view, and the mark that may follow. -/
theorem chargedDie (s : State) (x : HbmDie) (p i d : Nat) {cls : Nat} (h : cls ≠ 5) :
    let t := markDie (errEvent (charge (putDie s d x) cls 5 d) p i) d
    unitCount t cls 5 d = satTo 32 (unitCount s cls 5 d + 1) ∧ t.parts = (errEvent (charge (putDie s d x) cls 5 d) p i).parts ∧
      (charge (putDie s d x) cls 5 d).parts = s.parts := by
  intro t
  obtain ⟨hparts, hcount⟩ := markDie_effects (errEvent (charge (putDie s d x) cls 5 d) p i) d
  refine ⟨?_, hparts, parts_charge_die _ _ _⟩
  rw [hcount cls h, unitCount_of_rel (errEvent_rel _ _ _)]
  exact unitCount_charge (putDie s d x) cls 5 d

/-- What the event of a die leaves of a partition: all but registers and vectors. -/
theorem chargedDie_view (s : State) (x : HbmDie) (p i d cls : Nat) :
    view chargeOnly (markDie (errEvent (charge (putDie s d x) cls 5 d) p i) d) = view chargeOnly s :=
  (markDie_view _ _ rfl rfl rfl (fun _ => rfl) fun _ => rfl).trans ((errEvent_view _ _ _ rfl rfl rfl rfl).trans
    ((charge_view _ _ _ _ rfl rfl rfl (fun _ => rfl) fun _ => rfl).trans (putDie_view _ _ _ rfl)))

/-! ### Tiles that are marked POISON (R139) -/

theorem mem_markTile (x : Partition) (t : Nat) (pay : List Byte) (old : Collar) :
    (markTile x t pay old).mem = mput x.mem (4096 * t) pay := by
  rw [markTile]; split <;> rfl

theorem collar_markTile (x : Partition) (t : Nat) (pay : List Byte) (old : Collar) :
    (tileCollar (markTile x t pay old) t).poison = true := by
  have hput : tileCollar (putTile x t pay (setFld (setFld old 51 51 1) 31 0 (crc32c pay))) t =
      setFld (setFld old 51 51 1) 31 0 (crc32c pay) := sget_sset _ _ _ _
  have hkept : tileCollar (markTile x t pay old) t = setFld (setFld old 51 51 1) 31 0 (crc32c pay) := by
    rw [markTile]; split <;> exact hput
  rw [hkept, Collar.poison, bit_setFld_ne _ _ _ _ _ (by decide) (by decide)]
  exact bit_set old (by decide)

/-- A marked tile's bolt differs from what is in flash. -/
theorem bolt_markTile (x : Partition) (t : Nat) (pay : List Byte) (old : Collar) :
    ((markTile x t pay old).bolt (t / 16)).st ≠ .hbmClean := by
  rw [markTile]
  split
  · rw [Partition.bolt, Partition.setBolt, sget_sset]
    exact fun h => nomatch h
  next h => exact h

theorem getD_tileBytes (x : Partition) (t i : Nat) (hi : i < 4096) : (tileBytes x t).getD i 0 = mget x.mem (4096 * t + i) := by
  simp [tileBytes, mread_eq, List.getD, hi]

/-- A tile that keeps its bytes leaves the memory as it was. -/
theorem mget_mput_tileBytes (x : Partition) (t a : Nat) : mget (mput x.mem (4096 * t) (tileBytes x t)) a = mget x.mem a := by
  have hlen : (tileBytes x t).length = 4096 := mread_length ..
  by_cases hin : 4096 * t ≤ a ∧ a < 4096 * t + 4096
  · obtain ⟨i, rfl⟩ := Nat.exists_eq_add_of_le hin.1
    rw [mget_mput _ _ _ _ (by omega), getD_tileBytes _ _ _ (by omega)]
  · exact mget_mput_ne _ _ _ _ (by omega)

/-- A tile of which `n` bytes are lost keeps the others. -/
theorem mget_mput_brokenTile (s : State) (x : Partition) {t off n a : Nat} (hfit : off + n ≤ 4096)
    (hn : (freeBytes s n).length = n) (h : a < 4096 * t + off ∨ 4096 * t + off + n ≤ a) :
    mget (mput x.mem (4096 * t) (brokenTile s x t off n)) a = mget x.mem a := by
  have hlen : (tileBytes x t).length = 4096 := mread_length ..
  have hnew : (brokenTile s x t off n).length = 4096 := by
    simp only [brokenTile, List.length_append, List.length_take, List.length_drop, hlen, hn]
    omega
  by_cases hin : 4096 * t ≤ a ∧ a < 4096 * t + 4096
  · obtain ⟨i, rfl⟩ := Nat.exists_eq_add_of_le hin.1
    have hspl := getD_spliced (old := tileBytes x t) (bs := freeBytes s n) (k := off) (by omega) i
    rw [hn, if_neg (by omega)] at hspl
    rw [mget_mput _ _ _ _ (by omega), ← getD_tileBytes _ _ _ (by omega)]
    exact hspl
  · exact mget_mput_ne _ _ _ _ (by omega)

theorem length_freeBytes_block (s : State) : (freeBytes s 64).length = 64 := by
  simp [freeBytes, cdiv, List.length_flatMap]

/-- What a scrub may change of the state: no core, no cluster and no store. -/
@[reducible] def inMemory : Field → Bool
  | .freeIx | .out | .parts | .part _ | .regs _ | .vec _ | .rel => true
  | _ => false

theorem hbmEvent_corrected (s : State) (p t b d0 : Nat) : ∃ x : HbmDie, hbmEvent s p t b d0 .correctedByController =
    markDie (errEvent (charge (putDie s (dieOfTile (partOf s p) t d0) x) 0x03 5 (dieOfTile (partOf s p) t d0)) p 0)
      (dieOfTile (partOf s p) t d0) := ⟨_, rfl⟩

/-- The partition that an uncorrectable outcome leaves. -/
theorem hbmEvent_uncorrectable (s : State) (p t b d0 : Nat) {o : HbmOutcome}
    (ho : o = .uncorrectablePayload ∨ o = .uncorrectableCollar) :
    ∃ (u v : State) (x : HbmDie) (pay : List Byte) (old : Collar),
      u = markDie (errEvent (charge (putDie s (dieOfTile (partOf s p) t d0) x) 0x04 5 (dieOfTile (partOf s p) t d0)) p 1)
        (dieOfTile (partOf s p) t d0) ∧
      hbmEvent s p t b d0 o = v ∧ v.rel = u.rel ∧ partOf v p = markTile (partOf u p) t pay old ∧
      (pay = tileBytes (partOf u p) t ∧ o = .uncorrectableCollar ∨
        pay = brokenTile u (partOf u p) t (64 * (b % 64)) 64 ∧ o = .uncorrectablePayload) := by
  obtain rfl | rfl := ho
  · exact ⟨_, _, _, _, _, rfl, rfl, rfl, partOf_putPart .., .inr ⟨rfl, rfl⟩⟩
  · exact ⟨_, _, _, _, _, rfl, rfl, rfl, partOf_putPart .., .inl ⟨rfl, rfl⟩⟩

/-- Settles O21, by the charge of each outcome and the tile that an uncorrectable one marks. -/
theorem hbmErrorsAreCharged : Obligations.HbmErrorsAreCharged := by
  unfold Obligations.HbmErrorsAreCharged
  intro s p tile b d hp hb hd hex hbolt hframed die cnt
  have hcond : (exists_ s p && decide (tile / 16 < (partOf s p).vbolts) && ((partOf s p).bolt (tile / 16)).framed) = true := by
    simp [exists_, hex, hbolt, hframed]
  have hwf (o : HbmOutcome) : (Instr.hbmScrub p tile b d o).wf = true := by simp [Instr.wf, partOk, hp, hb, hd]
  have run (o : HbmOutcome) : hbmScrub s p tile b d o = hbmEvent s p tile b d o := when_of_true hcond
  refine ⟨exec_next_of_eq rfl (hwf _) (run _), ?_, fun o ho => ?_⟩
  · obtain ⟨x, hev⟩ : ∃ x : HbmDie, hbmEvent s p tile b d .correctedByController =
        markDie (errEvent (charge (putDie s die x) 0x03 5 die) p 0) die := hbmEvent_corrected s p tile b d
    obtain ⟨hcount, hparts, -⟩ := chargedDie s x p 0 die (cls := 3) (by decide)
    have hview := chargedDie_view s x p 0 die 3
    refine ⟨_, exec_next_of_eq rfl (hwf _) ((run _).trans hev), hcount, ?_, part_of_view Partition.mem hview fun _ => rfl, ?_,
      stores_of_view hview rfl, cores_of_view hview rfl⟩
    · rw [reg, partOf, hparts]
      exact event_errEvent _ p 0 (by decide) (by decide)
    · rw [tileCollar, part_of_view Partition.collars hview fun _ => rfl, tileCollar]
  · obtain ⟨u, v, x, pay, old, hu, hv, hrel, hpart, hpay⟩ := hbmEvent_uncorrectable s p tile b d ho
    obtain ⟨hcount, -, -⟩ := chargedDie s x p 1 die (cls := 4) (by decide)
    have hview := chargedDie_view s x p 1 die 4
    have hmem : (partOf u p).mem = (partOf s p).mem := by rw [hu]; exact part_of_view Partition.mem hview fun _ => rfl
    have hall : view inMemory v = view inMemory s := by
      rw [← hv]
      exact hbmEvent_view _ _ _ _ _ _ rfl rfl rfl rfl rfl (fun _ => rfl) fun _ => rfl
    refine ⟨v, exec_next_of_eq rfl (hwf _) ((run _).trans hv), ?_, ?_, ?_, fun a ha => ?_, stores_of_view hall rfl,
      cores_of_view hall rfl⟩
    · refine (unitCount_of_rel hrel 4 5 die).trans ?_
      rw [hu]
      exact hcount
    · rw [hpart]; exact collar_markTile _ _ _ _
    · rw [hpart]; exact bolt_markTile _ _ _ _
    · rw [hpart, mem_markTile, ← hmem]
      clear_value die
      obtain ⟨hsame, -⟩ | ⟨hbroken, rfl⟩ := hpay
      · rw [hsame, mget_mput_tileBytes]
      · rw [hbroken]
        refine mget_mput_brokenTile u (partOf u p) (by omega) (length_freeBytes_block u) ?_
        obtain ha | ha := ha
        · exact absurd ha (by decide)
        · rw [Nat.mod_eq_of_lt hb]
          exact ha

end Sys2Proof.Proofs
end

section
/-! Proofs about bolts: evictions, copies to flash, fetches from it and the figures they count (R151 to R153, R415). -/

namespace Sys2Proof.Proofs

open Sys2Proof.Machine Sys2Proof.Safety Sys2Proof.Laws

/-! ### Bolts one by one (R150) -/

@[simp] theorem bolt_setBolt (x : Partition) (b : Nat) (y : Bolt) : (x.setBolt b y).bolt b = y := sget_sset _ _ _ _

theorem bolt_setBolt_ne (x : Partition) {b c : Nat} (y : Bolt) (h : c ≠ b) : (x.setBolt b y).bolt c = x.bolt c :=
  sget_sset_ne _ _ _ _ _ _ h

theorem bolt_leaveHbm (x : Partition) (b : Nat) (st : BoltState) :
    (leaveHbm x b st).bolt b = { x.bolt b with st := st, frame := 0 } := sget_sset _ _ _ _

theorem bolt_leaveHbm_ne (x : Partition) {b c : Nat} (st : BoltState) (h : c ≠ b) : (leaveHbm x b st).bolt c = x.bolt c :=
  sget_sset_ne _ _ _ _ _ _ h

theorem bolts_touchLines (wr : Bool) (ls : List Nat) : ∀ x : Partition, (ls.foldl (touchLine wr) x).bolts = x.bolts := by
  induction ls with
  | nil => exact fun _ => rfl
  | cons a ls ih => exact fun x => ih (touchLine wr x a)

/-- An access to a tile changes of a bolt only when it was last seen. -/
theorem bolt_touchTile (wr : Bool) (x : Partition) (t b : Nat) :
    ∃ n, (touchTile wr x t).bolt b = { x.bolt b with seen := n } := by
  unfold touchTile
  split
  · exact ⟨_, rfl⟩
  · extract_lets y
    have hy (c : Nat) : y.bolt c = x.bolt c :=
      congrArg (fun l => sget Bolt.unwritten l c) (bolts_touchLines wr _ x)
    clear_value y
    by_cases hb : b = t / 16
    · refine ⟨y.clock + 1, ?_⟩
      subst hb
      exact (bolt_setBolt y _ _).trans (congrArg (fun z : Bolt => { z with seen := y.clock + 1 }) (hy _))
    · refine ⟨(x.bolt b).seen, ?_⟩
      exact (bolt_setBolt_ne y _ hb).trans (hy b)

theorem bolt_touchTiles (wr : Bool) (ts : List Nat) (b : Nat) :
    ∀ x : Partition, ∃ n, (ts.foldl (touchTile wr) x).bolt b = { x.bolt b with seen := n } := by
  induction ts with
  | nil => exact fun x => ⟨_, rfl⟩
  | cons a ts ih =>
    intro x
    obtain ⟨n, hn⟩ := ih (touchTile wr x a)
    obtain ⟨m, hm⟩ := bolt_touchTile wr x a b
    exact ⟨n, by rw [List.foldl_cons, hn, hm]⟩

/-! ### Flash and its figures (R158, R160) -/

/-- What work of the flash layer may change: figures, counts, records and vectors. -/
@[reducible] def flashOnly : Field → Bool
  | .freeIx | .out | .parts | .wardrobe | .rel | .regs _ | .vec _ => true
  | _ => false

/-- That and the places of the bolts of partition `p`. -/
@[reducible] def flashAndBolts (p : Nat) : Field → Bool
  | .freeIx | .out | .parts | .wardrobe | .rel | .regs _ | .vec _ => true
  | .hbm q => q == p
  | _ => false

/-- What the host moves: bytes written, read retries and pages lost (Table 16-9). -/
def hostFigures (s : State) : Nat × Nat × Nat :=
  (s.wardrobe.wear.gbw, s.wardrobe.wear.retry, s.wardrobe.wear.uncor)

theorem hostFigures_of_wardrobe {s t : State} (h : t.wardrobe = s.wardrobe) : hostFigures t = hostFigures s := by
  rw [hostFigures, h, hostFigures]

theorem hostFigures_chargeFlash (s : State) (cls n : Nat) : hostFigures (chargeFlash s cls n) = hostFigures s :=
  hostFigures_of_wardrobe (wardrobe_of_view (F := inMemory) (chargeFlash_view _ _ _ rfl rfl rfl) rfl)

theorem hostFigures_retireBlock (s : State) (k : Nat) : hostFigures (retireBlock s k) = hostFigures s :=
  hostFigures_chargeFlash _ _ _

theorem hostFigures_programBlock (s : State) (p b k : Nat) : hostFigures (programBlock s p b k) = hostFigures s := by
  unfold programBlock
  split <;> rfl

theorem hostFigures_rewriteBlock (s : State) (p b k : Nat) : hostFigures (rewriteBlock s p b k) = hostFigures s :=
  hostFigures_programBlock s p b k

theorem hostFigures_levelWear (s : State) : hostFigures (levelWear s) = hostFigures s := by
  unfold levelWear
  dsimp only
  split
  · split
    · split
      · exact hostFigures_rewriteBlock _ _ _ _
      · rfl
    · rfl
  · rfl

theorem gbw_wearVectors (s : State) (was : Wear) : (wearVectors s was).wardrobe.wear.gbw = s.wardrobe.wear.gbw :=
  congrArg (fun w : Wardrobe => w.wear.gbw)
    (wardrobe_of_view (F := inMemory) (wearVectors_view _ _ rfl rfl rfl fun _ => rfl) rfl)

/-- A bolt that is programmed adds its 64 KiB to what the host has written. -/
theorem gbw_programBolt (s : State) (p b : Nat) :
    (programBolt s p b).wardrobe.wear.gbw = s.wardrobe.wear.gbw + 65536 := by
  unfold programBolt
  extract_lets was s1 s2 s3
  have h1 : hostFigures s1 = hostFigures s := by
    by_cases hf : freeBelow s 0 2 = 1
    · exact (congrArg hostFigures (if_pos hf)).trans (hostFigures_retireBlock (spend s 2) (pickBlock (spend s 1)))
    · exact (congrArg hostFigures (if_neg hf)).trans rfl
  have h2 : hostFigures s2 = hostFigures s1 :=
    (hostFigures_levelWear _).trans (hostFigures_programBlock s1 p b (pickBlock s1))
  have hgbw : s2.wardrobe.wear.gbw = s.wardrobe.wear.gbw := congrArg (fun f => f.1) (h2.trans h1)
  have h3 : s3.wardrobe.wear.gbw = s2.wardrobe.wear.gbw + 65536 := rfl
  clear_value s3
  rw [gbw_wearVectors, ← hgbw, ← h3]
  rfl

/-- A bolt that is read from flash counts one retry where it took more than two. -/
theorem hostFigures_readFlash (s : State) (p b retries : Nat) : hostFigures (readFlash s p b retries) =
    (s.wardrobe.wear.gbw, s.wardrobe.wear.retry + (if 2 < retries then 1 else 0), s.wardrobe.wear.uncor) := by
  unfold readFlash
  extract_lets s0
  have h0 : hostFigures s0 =
      (s.wardrobe.wear.gbw, s.wardrobe.wear.retry + (if 2 < retries then 1 else 0), s.wardrobe.wear.uncor) := by
    by_cases hr : retries ≤ 2
    · exact (congrArg hostFigures (if_pos hr)).trans (by rw [if_neg (by omega)]; rfl)
    · exact (congrArg hostFigures (if_neg hr)).trans ((hostFigures_chargeFlash _ _ _).trans (by rw [if_pos (by omega)]; rfl))
  split
  · exact h0
  next k _ =>
    extract_lets s1 q s2
    have h2 : hostFigures s2 = hostFigures s0 := by
      by_cases hq : 200000 ≤ q.reads
      · exact (congrArg hostFigures (if_pos hq)).trans (hostFigures_rewriteBlock _ _ _ _)
      · exact (congrArg hostFigures (if_neg hq)).trans rfl
    split
    · exact ((hostFigures_retireBlock _ _).trans (hostFigures_rewriteBlock _ _ _ _)).trans (h2.trans h0)
    · exact h2.trans h0

/-- Without a failing page nothing is lost. -/
theorem undecoded_none (s : State) (p b : Nat) : undecoded s p b 0 = s := by
  have h : ((List.range 16).filter fun i => bit (0 : BitVec 16) i) = [] := by decide
  rw [undecoded, h]
  rfl

/-! ### Moves of the migration engine (R151 to R153) -/

/-- A copy to flash has ended: what it leaves of the bolt and of the partition. -/
theorem copiedOut_effects (s : State) (p b : Nat) (ts : List Nat) :
    let t := copiedOut (checkTiles s p ts) p b
    ((partOf t p).bolt b).st = .flash ∧ t.wardrobe.wear.gbw = s.wardrobe.wear.gbw + 65536 ∧
      view (flashAndBolts p) t = view (flashAndBolts p) s := by
  intro t
  have hcheck : view flashOnly (checkTiles s p ts) = view flashOnly s :=
    checkTiles_view _ _ _ rfl rfl rfl (fun _ => rfl) fun _ => rfl
  have hcheck' : view (flashAndBolts p) (checkTiles s p ts) = view (flashAndBolts p) s :=
    checkTiles_view _ _ _ rfl rfl rfl (fun _ => rfl) fun _ => rfl
  have hcounts : (checkTiles s p ts).wardrobe = s.wardrobe :=
    wardrobe_of_view (F := chargeOnly) (checkTiles_view _ _ _ rfl rfl rfl (fun _ => rfl) fun _ => rfl) rfl
  have hprog : view flashOnly t = view flashOnly (onPart (checkTiles s p ts) p fun x => leaveHbm x b .flash) :=
    programBolt_view _ _ _ rfl rfl rfl rfl rfl fun _ => rfl
  refine ⟨?_, ?_, (copiedOut_view _ _ _ rfl rfl rfl rfl rfl (fun _ => rfl) (beq_self_eq_true p)).trans hcheck'⟩
  · rw [Partition.bolt, part_of_view Partition.bolts hprog fun _ => rfl, partOf_onPart]
    exact congrArg Bolt.st (bolt_leaveHbm _ b .flash)
  · refine (gbw_programBolt _ p b).trans ?_
    exact congrArg (fun w : Wardrobe => w.wear.gbw + 65536) hcounts

/-- A fetch without a failing page has ended and no access waits: what it leaves of the bolt and of the partition. -/
theorem fetchDone_effects (f : State → Nat → Stalled → State) {s : State} {p b : Nat} (retries us : Nat)
    (hin : ((partOf s p).bolt b).st = .in_) (hno : ((partOf s p).bolt b).stalled = []) :
    let t := fetchDone f s p b 0 retries us
    ((partOf t p).bolt b).st = (if ((partOf s p).bolt b).wrote then .hbmDirty else .hbmClean) ∧
      hostFigures t = (s.wardrobe.wear.gbw, s.wardrobe.wear.retry + (if 2 < retries then 1 else 0), s.wardrobe.wear.uncor) ∧
      view (flashAndBolts p) t = view (flashAndBolts p) s := by
  intro t
  obtain ⟨y, hy⟩ : ∃ y : Bolt, y = { (partOf s p).bolt b with
      st := if ((partOf s p).bolt b).wrote then .hbmDirty else .hbmClean, wrote := false } := ⟨_, rfl⟩
  have hyst : y.st = (if ((partOf s p).bolt b).wrote then .hbmDirty else .hbmClean) := congrArg Bolt.st hy
  have hyno : y.stalled = [] := (congrArg Bolt.stalled hy).trans hno
  obtain ⟨s1, hs1⟩ : ∃ s1, s1 = onPart s p fun x => x.setBolt b y := ⟨_, rfl⟩
  obtain ⟨s2, hs2⟩ : ∃ s2, s2 = checkTiles (readFlash s1 p b retries) p (boltTiles b) := ⟨_, rfl⟩
  obtain ⟨s3, hs3⟩ : ∃ s3, s3 = onPart s2 p fun x => (boltTiles b).foldl (touchTile true) x := ⟨_, rfl⟩
  have ht : t = serveStalled f s3 p b := by
    rw [hs3, hs2, hs1, hy, ← undecoded_none (onPart s p _) p b]
    simp only [t, fetchDone, hin, hno, if_true]
  clear_value t
  have hflash : view flashOnly s2 = view flashOnly s1 := by
    rw [hs2]
    exact (checkTiles_view _ _ _ rfl rfl rfl (fun _ => rfl) fun _ => rfl).trans (readFlash_view _ _ _ _ rfl rfl rfl rfl)
  have hbolt2 : (partOf s2 p).bolt b = y := by
    rw [Partition.bolt, part_of_view Partition.bolts hflash fun _ => rfl, hs1, partOf_onPart]
    exact bolt_setBolt _ b y
  obtain ⟨n, hbolt3⟩ : ∃ n, (partOf s3 p).bolt b = { y with seen := n } := by
    rw [hs3, partOf_onPart, ← hbolt2]
    exact bolt_touchTiles true (boltTiles b) b (partOf s2 p)
  have hlast : t = onPart s3 p fun x => x.setBolt b { x.bolt b with stalled := [] } := by
    rw [ht, serveStalled, hbolt3, hyno]
    rfl
  refine ⟨?_, ?_, ?_⟩
  · rw [hlast, partOf_onPart, bolt_setBolt, hbolt3]
    exact hyst
  · have hfig : hostFigures t = hostFigures (readFlash s1 p b retries) := by
      have hcheck : hostFigures s2 = hostFigures (readFlash s1 p b retries) := by
        rw [hs2]
        exact hostFigures_of_wardrobe (wardrobe_of_view (F := chargeOnly)
          (checkTiles_view _ _ _ rfl rfl rfl (fun _ => rfl) fun _ => rfl) rfl)
      rw [hlast, ← hcheck, hs3]
      rfl
    rw [hfig, hostFigures_readFlash, hs1]
    rfl
  · have hself : flashAndBolts p (.hbm p) = true := beq_self_eq_true p
    calc view (flashAndBolts p) t
      _ = view (flashAndBolts p) s3 := by rw [hlast]; exact onPart_view _ _ _ rfl (Partition_setBolt_view _ _ _ hself)
      _ = view (flashAndBolts p) s2 := by
        rw [hs3]
        exact onPart_view _ _ _ rfl (viewPart_foldl _ _ fun _ _ => touchTile_view _ _ _ hself)
      _ = view (flashAndBolts p) s1 := by
        rw [hs2]
        exact (checkTiles_view _ _ _ rfl rfl rfl (fun _ => rfl) fun _ => rfl).trans (readFlash_view _ _ _ _ rfl rfl rfl rfl)
      _ = view (flashAndBolts p) s := by rw [hs1]; exact onPart_view _ _ _ rfl (Partition_setBolt_view _ _ _ hself)

/-- Settles O22, by the bolt that each move leaves and the figures that it counts. -/
theorem boltsMoveBetweenTiers : Obligations.BoltsMoveBetweenTiers := by
  unfold Obligations.BoltsMoveBetweenTiers
  refine ⟨⟨?_, ?_⟩, ?_, fun s => exec_next_of_eq rfl rfl rfl⟩
  · intro s p b hp hex hev hfirst hlow hkept moved
    have hcond : (exists_ s p && evictable ((partOf s p).bolt b) &&
        ((partOf s p).bolts.all fun e => !evictable e.2 || decide (evictClass ((partOf s p).bolt b) ≤ evictClass e.2)) &&
        !(decide (freeFrames (partOf s p) < freeLow (partOf s p)) && (partOf s p).pocket.kept != []) &&
        restoring (partOf s p)) = true := by
      rw [hev, hfirst, hkept]
      simp [exists_, hex, restoring, hlow]
    have run {x : Partition} (h : evictBolt s p b = some (putPart s p x)) : exec (.eviction p b) s = .next (putPart s p x) :=
      exec_next_of_eq rfl (by simp [Instr.wf, partOk, hp]) ((when_of_true hcond).trans (by rw [h]; rfl))
    refine ⟨fun hst => ⟨_, run (by rw [evictBolt, hst]), ?_, fun c hc => bolt_leaveHbm_ne _ _ hc, rfl, rfl⟩,
      fun hst hroom hspare => ?_⟩
    · exact congrArg Bolt.st (bolt_leaveHbm _ _ _)
    · have hrel : releaseForQuota (partOf s p) = partOf s p := if_pos hroom
      have hok : (flashWritable s && quotaRoom (partOf s p)) = true := by simp [flashWritable, quotaRoom, hspare, hroom]
      obtain ⟨y, hy⟩ : ∃ y, y = flushLines (partOf s p) b := ⟨_, rfl⟩
      have hact : evictBolt s p b = some (putPart s p (y.setBolt b { y.bolt b with st := .out })) := by
        rw [hy, evictBolt, hst]
        simp only [hok, hrel, if_true]
      refine ⟨_, run hact, congrArg Bolt.st (bolt_setBolt _ _ _), fun c hc => ?_, by rw [hy]; rfl, by rw [hy]; rfl⟩
      rw [bolt_setBolt_ne _ _ hc, hy]
      rfl
  · intro s p b hp hout
    obtain ⟨hst, hgbw, hview⟩ := copiedOut_effects s p b (boltTiles b)
    refine ⟨_, exec_next_of_eq rfl (by simp [Instr.wf, partOk, hp]) (when_of_true (by rw [hout]; rfl)), hst, hgbw,
      part_of_view Partition.mem hview fun _ => rfl, part_of_view Partition.collars hview fun _ => rfl,
      stores_of_view hview rfl, cores_of_view hview rfl, sec_of_view hview rfl⟩
  · intro s p b retries us hp hin hno
    obtain ⟨hst, hfig, hview⟩ := fetchDone_effects serveAny retries us hin hno
    exact ⟨_, exec_next_of_eq rfl (by simp [Instr.wf, partOk, hp]) rfl, hst, congrArg (fun f => f.2.1) hfig,
      congrArg (fun f => f.2.2) hfig, part_of_view Partition.mem hview fun _ => rfl,
      part_of_view Partition.collars hview fun _ => rfl, stores_of_view hview rfl, cores_of_view hview rfl⟩

end Sys2Proof.Proofs
end

section
/-! Proofs about hint records: what they do to their bolts and how they end (R156). -/

namespace Sys2Proof.Proofs

open Sys2Proof.Machine Sys2Proof.Safety Sys2Proof.Laws

/-! ### Registers that an access of the device leaves (R439, R440) -/

/-- A write of the device changes no register below the `ERR` block. -/
theorem reg_devWrite (s : State) (p a : Nat) (bs : List Byte) (q : Nat) {o : Nat} (hi lo : Nat) (ho : o < 0xB0000) :
    reg (devWrite s p a bs) q o hi lo = reg s q o hi lo := by
  have viewed {t u : State} (h : view noRegisters u = view noRegisters t) : reg u q o hi lo = reg t q o hi lo := by
    rw [reg, Partition.get, Partition.reg, bar0_of_viewPart (viewPart_of_view h q)]
    rfl
  have ready {t u : State} {b : Nat} (h : readyWrite t p b = some u) : reg u q o hi lo = reg t q o hi lo :=
    viewed (readyWrite_view h rfl rfl rfl rfl rfl (fun _ => rfl) rfl)
  have violated (b : Bool) (t : State) : reg (violationIf b t p) q o hi lo = reg t q o hi lo := by
    unfold violationIf
    split
    · by_cases hq : q = p
      · subst hq
        rw [violation, reg, partOf_onPart]
        rfl
      · rw [reg, violation, partOf_onPart_ne _ _ _ _ hq, reg]
    · rfl
  have run (t : State) (a : Nat) (bs : List Byte) : reg (devWriteRun false t p a bs).1 q o hi lo = reg t q o hi lo := by
    simp only [devWriteRun]
    split
    · exact viewed ((setTags_view _ _ _ _ rfl).trans (putStore_view _ _ _ rfl rfl))
    · split
      · rfl
      · rfl
    · split
      · rfl
      · split
        next u hu =>
          refine Eq.trans ?_ (ready hu)
          exact viewed (onPart_view _ _ _ rfl (plainTileWrite_view _ _ _ _ _ _ rfl rfl))
        · exact reg_errEvent (by simp only [R.errEvents]; omega) (by simp only [R.errCnt]; omega)
    · rfl
  simp only [devWrite, devWriteBy]
  refine (violated _ _).trans ?_
  refine List.foldlRecOn (motive := fun r : State × Bool => reg r.1 q o hi lo = reg s q o hi lo) _ _ rfl fun r hr e _ => ?_
  refine Eq.trans ?_ hr
  dsimp only
  split
  · exact run _ _ _
  · rfl

/-- A read of the device changes no register. -/
theorem reg_devRead (s : State) (p a n q o hi lo : Nat) : reg (devRead s p a n).2 q o hi lo = reg s q o hi lo := by
  have hbar : (partOf (devRead s p a n).2 q).bar0 = (partOf s q).bar0 := by
    unfold devRead
    dsimp only
    split
    · rfl
    next t ht =>
      have hview : view noRegisters (touchTiles t p (tilesOfSpan (partOf t p) a n)) = view noRegisters s :=
        (touchTiles_view _ _ _ rfl rfl).trans
          (readyAll_view ht fun e => readyRead_view e rfl rfl rfl rfl rfl (fun _ => rfl) rfl)
      refine Eq.trans ?_ (bar0_of_viewPart (viewPart_of_view hview q))
      unfold violationIf
      split
      · by_cases hq : q = p
        · subst hq
          rw [violation, partOf_onPart]
        · rw [violation, partOf_onPart_ne _ _ _ _ hq]
      · rfl
  rw [reg, Partition.get, Partition.reg, hbar]
  rfl

/-! ### Hint records that mark every bolt (R156) -/

theorem putPart_putPart (s : State) (p : Nat) (x y : Partition) : putPart (putPart s p x) p y = putPart s p y :=
  congrArg (fun l => { s with parts := l }) (sset_sset _ _ _ _ _)

theorem onPart_putPart (s : State) (p : Nat) (x : Partition) (f : Partition → Partition) :
    onPart (putPart s p x) p f = putPart s p (f x) := by
  rw [onPart, partOf_putPart, putPart_putPart]

theorem onPart_onPart (s : State) (p : Nat) (f g : Partition → Partition) :
    onPart (onPart s p f) p g = onPart s p fun x => g (f x) :=
  onPart_putPart s p (f (partOf s p)) g

/-- A step that every bolt takes acts on all of them. -/
theorem hintOver_onPart (g : Nat → Partition → Partition) (p : Nat) (bs : List Nat) :
    ∀ (s : State) (n : Nat), (hintOver (fun t q b => some (onPart t q (g b))) p bs s n).2 = (n + bs.length, false) ∧
      ∀ h : Partition → Partition, onPart (hintOver (fun t q b => some (onPart t q (g b))) p bs s n).1 p h =
        onPart s p fun x => h (bs.foldl (fun x b => g b x) x) := by
  induction bs with
  | nil => exact fun _ _ => ⟨rfl, fun _ => rfl⟩
  | cons b bs ih =>
    intro s n
    obtain ⟨hcount, hacts⟩ := ih (onPart s p (g b)) (n + 1)
    refine ⟨hcount.trans ?_, fun h => (hacts h).trans (onPart_onPart ..)⟩
    rw [List.length_cons, Nat.add_assoc, Nat.add_comm 1]

/-- What a hint does to a partition while its record is acted on. -/
def hinted (done : Nat) (x : Partition) : Partition := { x with hint := some { done, status := Status.ok } }

theorem bolts_length (r : HintRec) : r.bolts.length = r.nbolt := by
  rw [HintRec.bolts, List.length_map, List.length_range]

/-- A record whose step every bolt takes acts on all its bolts. -/
theorem hintPlace_all {s : State} {p k : Nat} {r : HintRec} (g : Nat → Partition → Partition) (h : hintTurn s p k = some r) :
    hintPlace s p k anyBolt (fun t q b => some (onPart t q (g b))) =
      putPart s p (hinted r.nbolt (r.bolts.foldl (fun x b => g b x) (partOf s p))) := by
  have hall : r.bolts.filter (anyBolt (partOf s p)) = r.bolts := List.filter_eq_self.2 fun _ _ => rfl
  obtain ⟨hcount, hacts⟩ := hintOver_onPart g p r.bolts s 0
  simp only [hintPlace, h, hall, hcount, hacts, bolts_length, Nat.zero_add]
  rfl

/-- A mark that is set on every bolt of a list. -/
def marked (m : Bolt → Bolt) (b : Nat) (x : Partition) : Partition := x.setBolt b (m (x.bolt b))

theorem bolt_marked (m : Bolt → Bolt) (b : Nat) (x : Partition) : (marked m b x).bolt b = m (x.bolt b) := bolt_setBolt ..

theorem bolt_marked_ne (m : Bolt → Bolt) {b c : Nat} (x : Partition) (h : c ≠ b) : (marked m b x).bolt c = x.bolt c :=
  bolt_setBolt_ne _ _ h

theorem bolt_hinted (done : Nat) (x : Partition) (b : Nat) : (hinted done x).bolt b = x.bolt b := rfl

theorem mem_hinted (done : Nat) (x : Partition) : (hinted done x).mem = x.mem := rfl

/-- What marking bolts does: each of them keeps the mark, the others and the bytes stay. -/
theorem marked_all (m : Bolt → Bolt) (good : Bolt → Prop) (hm : ∀ y, good (m y)) (bs : List Nat) :
    ∀ x : Partition, let y := bs.foldl (fun x b => marked m b x) x
      (∀ b ∈ bs, good (y.bolt b)) ∧ (∀ b, b ∉ bs → y.bolt b = x.bolt b) ∧ (∀ b, good (x.bolt b) → good (y.bolt b)) ∧
        y.mem = x.mem ∧ y.bar0 = x.bar0 := by
  induction bs with
  | nil => exact fun x => ⟨fun b hb => absurd hb List.not_mem_nil, fun _ _ => rfl, fun _ h => h, rfl, rfl⟩
  | cons a bs ih =>
    intro x
    obtain ⟨hall, hothers, hkept, hmem, hbar⟩ := ih (marked m a x)
    have hself := bolt_marked m a x
    refine ⟨fun b hb => ?_, fun b hb => ?_, fun b hg => ?_, hmem, hbar⟩
    · obtain rfl | hb := List.mem_cons.1 hb
      · exact hkept b (hself ▸ hm _)
      · exact hall b hb
    · obtain ⟨hne, hb⟩ := List.ne_and_not_mem_of_not_mem_cons hb
      exact (hothers b hb).trans (bolt_marked_ne m x hne)
    · refine hkept b ?_
      by_cases hb : b = a
      · rw [hb, hself]
        exact hm _
      · rw [bolt_marked_ne _ _ hb]
        exact hg

/-- A record whose step is a mark marks all its bolts and nothing else. -/
theorem hintPlace_marked {s : State} {p k : Nat} {r : HintRec} {i : Instr} (m : Bolt → Bolt) (good : Bolt → Prop)
    (hm : ∀ y, good (m y)) (h : hintTurn s p k = some r) (hi : exec i s = guarded i
      (hintPlace s p k anyBolt fun t q b => some (onPart t q (marked m b)))) (hwf : i.wf = true) :
    ∃ x, exec i s = .next (putPart s p x) ∧ x.hint = some { done := r.nbolt, status := Status.ok } ∧
      (∀ b ∈ r.bolts, good (x.bolt b)) ∧ (∀ b, b ∉ r.bolts → x.bolt b = (partOf s p).bolt b) ∧
      x.mem = (partOf s p).mem ∧ x.bar0 = (partOf s p).bar0 := by
  obtain ⟨hall, hothers, -, hmem, hbar⟩ := marked_all m good hm r.bolts (partOf s p)
  exact ⟨_, exec_next_of_eq hi hwf (hintPlace_all (marked m) h), rfl, hall, hothers, hmem, hbar⟩

/-! ### Hint records of one bolt (R156, Table 7-8) -/

/-- A record of one bolt that can be placed. -/
theorem hintPlace_one {s t : State} {p k b : Nat} {r : HintRec} {pick : Partition → Nat → Bool}
    {f : State → Nat → Nat → Option State} (h : hintTurn s p k = some r) (hb : r.bolts = [b])
    (hpick : pick (partOf s p) b = true) (hf : f s p b = some t) : hintPlace s p k pick f = onPart t p (hinted 1) := by
  have hone : r.bolts.filter (pick (partOf s p)) = [b] := by rw [hb, List.filter_cons_of_pos hpick, List.filter_nil]
  simp only [hintPlace, h, hone, hintOver, hf]
  rfl

/-- A record of one bolt whose move changes the partition only. -/
theorem hintPlace_onPart {s : State} {p k b : Nat} {r : HintRec} {pick : Partition → Nat → Bool}
    {f : State → Nat → Nat → Option State} {g : Partition → Partition} (h : hintTurn s p k = some r) (hb : r.bolts = [b])
    (hpick : pick (partOf s p) b = true) (hf : f s p b = some (onPart s p g)) :
    hintPlace s p k pick f = putPart s p (hinted 1 (g (partOf s p))) := by
  rw [hintPlace_one h hb hpick hf, onPart_onPart, onPart]

theorem mem_leaveHbm (x : Partition) (b : Nat) (st : BoltState) : (leaveHbm x b st).mem = x.mem := rfl

theorem wantBolt_flash {s : State} {p b : Nat} (hst : ((partOf s p).bolt b).st = .flash)
    (hroom : framesUsed (partOf s p) < usableBolts (partOf s p)) : wantBolt s p b = some (giveFrame s p b .in_) := by
  have hfree : freeFrame s p b = some s := if_pos hroom
  rw [wantBolt, beginFetch, hst]
  simp only [hfree, Option.map_some]

theorem keepBolt_dirty {s : State} {p b : Nat} (hst : ((partOf s p).bolt b).st = .hbmDirty)
    (hroom : pinnedCount (partOf s p) < usableBolts (partOf s p) - freeLow (partOf s p)) :
    keepBolt s p b = some (onPart s p (marked (fun y => { y with keep := true }) b)) := by
  have hheld : heldBolt s p b = some s := by rw [heldBolt, hst]; simp only [beginFetch, hst]
  have hlim : (!((partOf s p).bolt b).pinned && decide (usableBolts (partOf s p) - freeLow (partOf s p) ≤
      pinnedCount (partOf s p))) = false := by
    rw [decide_eq_false (by omega), Bool.and_false]
  rw [keepBolt, hheld]
  simp only [hlim, Bool.false_eq_true, if_false, Option.map_some]
  rfl

/-- The bytes of a discarded bolt read zero, the others stay. -/
theorem mget_clearBolt (x : Partition) (b a : Nat) :
    mget (clearBolt x b).mem a = if b * boltSize ≤ a ∧ a < b * boltSize + boltSize then 0 else mget x.mem a := by
  refine (mget_filter x.mem (fun k => decide (k < b * boltSize ∨ b * boltSize + boltSize ≤ k)) a).trans ?_
  simp only [decide_eq_true_eq]
  by_cases h : b * boltSize ≤ a ∧ a < b * boltSize + boltSize
  · rw [if_neg (by omega), if_pos h]
  · rw [if_pos (by omega), if_neg h]

theorem bolt_clearBolt (x : Partition) (b : Nat) :
    (clearBolt x b).bolt b = { x.bolt b with st := .zero, frame := 0 } := bolt_leaveHbm ..

theorem bolt_clearBolt_ne (x : Partition) {b c : Nat} (h : c ≠ b) : (clearBolt x b).bolt c = x.bolt c := bolt_leaveHbm_ne _ _ h

/-- The discard of a bolt, for which no access waits afterwards. -/
def discarded (b : Nat) (x : Partition) : Partition := marked (fun y => { y with stalled := [] }) b (clearBolt x b)

theorem st_discarded (b : Nat) (x : Partition) : ((discarded b x).bolt b).st = .zero := by
  rw [discarded, bolt_marked, bolt_clearBolt]

theorem bolt_discarded_ne (x : Partition) {b c : Nat} (h : c ≠ b) : (discarded b x).bolt c = x.bolt c := by
  rw [discarded, bolt_marked_ne _ _ h, bolt_clearBolt_ne _ h]

theorem mget_discarded (x : Partition) (b a : Nat) :
    mget (discarded b x).mem a = if b * boltSize ≤ a ∧ a < b * boltSize + boltSize then 0 else mget x.mem a :=
  mget_clearBolt x b a

/-- A DROP that no access waits for discards the bolt. -/
theorem dropBolt_quiet {s : State} {p b : Nat} (hno : ((partOf s p).bolt b).stalled = []) :
    dropBolt s p b = onPart s p (discarded b) := by
  have hbolt : ((clearBolt (partOf s p) b).bolt b).stalled = [] := (congrArg Bolt.stalled (bolt_clearBolt ..)).trans hno
  rw [dropBolt, serveStalled, partOf_onPart, hbolt, List.foldl_nil, onPart_onPart]
  rfl

/-- A record of kind DROP with one bolt that no access waits for. -/
theorem drop_one {s : State} {p b : Nat} {r : HintRec} (h : hintTurn s p 5 = some r) (hone : r.bolts = [b])
    (hpin : ((partOf s p).bolt b).pinned = false) (hno : ((partOf s p).bolt b).stalled = []) :
    execDropHint p s = guarded (.dropHint p) (putPart s p (hinted 1 (discarded b (partOf s p)))) := by
  have hpick : r.bolts.filter (fun b => !((partOf s p).bolt b).pinned) = [b] := by
    rw [hone, List.filter_cons_of_pos (by rw [hpin]; rfl), List.filter_nil]
  have hno' : ((partOf (putPart s p (hinted 1 (partOf s p))) p).bolt b).stalled = [] := by rw [partOf_putPart]; exact hno
  rw [execDropHint, h]
  dsimp only
  rw [hpick]
  refine congrArg (guarded (.dropHint p)) ((dropBolt_quiet hno').trans ?_)
  rw [onPart_putPart]
  rfl

/-- What a record completes with: its head advances and it is no longer acted on. -/
theorem hintEnd_effects (s : State) (p a status done : Nat) :
    let t := hintEnd s p a status done
    (partOf t p).hint = none ∧ reg t p R.migHqHead 31 0 = (reg s p R.migHqHead 31 0 + 1) % 2 ^ 32 ∧ Beside p s t := by
  intro t
  obtain ⟨s1, hs1⟩ : ∃ s1, s1 = devWrite (devWrite s p (a + 0x0D) [BitVec.ofNat 8 status]) p (a + 0x10) (toLE 4 done) := ⟨_, rfl⟩
  obtain ⟨s2, hs2⟩ : ∃ s2, s2 = onPart s1 p fun x =>
    { x.put R.migHqHead 31 0 (x.get R.migHqHead 31 0 + 1) with hint := none } := ⟨_, rfl⟩
  have ht : t = if reg s2 p R.migHqHead 31 0 = reg s2 p R.migHqTail 31 0 then msix s2 p 4 else s2 := by
    rw [hs2, hs1]
    rfl
  clear_value t
  have hhead : reg s2 p R.migHqHead 31 0 = (reg s p R.migHqHead 31 0 + 1) % 2 ^ 32 := by
    have h1 : reg s1 p R.migHqHead 31 0 = reg s p R.migHqHead 31 0 := by
      rw [hs1, reg_devWrite _ _ _ _ _ _ _ (by decide), reg_devWrite _ _ _ _ _ _ _ (by decide)]
    rw [hs2, ← h1, reg, partOf_onPart]
    exact Partition_get_put (partOf s1 p) R.migHqHead 31 0 _ (by decide) (by decide)
  have hbeside : Beside p s s2 := by
    rw [hs2, hs1]
    exact beside_trans (beside_trans (beside_devWrite ..) (beside_devWrite ..)) (beside_onPart ..)
  have hhint : (partOf s2 p).hint = none := by rw [hs2, partOf_onPart]
  split at ht
  · refine ⟨?_, ?_, ht ▸ beside_trans hbeside (beside_msix s2 p 4)⟩
    · rw [ht, ← hhint]
      exact part_of_view Partition.hint (msix_view (F := registersOf p) s2 p 4 rfl rfl rfl) fun _ => rfl
    · rw [ht, reg_msix, hhead]
  · exact ⟨ht ▸ hhint, ht ▸ hhead, ht ▸ hbeside⟩

/-- Settles O23, by the marks that a whole record sets, the move of a record's one bolt and the end of a record. -/
theorem hintRecordsActAndComplete : Obligations.HintRecordsActAndComplete := by
  unfold Obligations.HintRecordsActAndComplete
  refine ⟨fun s p r hp => ⟨fun h => ?_, fun h => ?_⟩, fun s p b r hp hone => ⟨fun h hst hroom => ?_, fun h hst _ hroom => ?_,
    fun h hst hpin => ?_, fun h hpin hno => ?_⟩, fun s p a r h hp ha hr hlive hok hrun hset => ?_⟩
  · exact hintPlace_marked (i := .unkeepHint p) (fun y => { y with keep := false }) (fun y => y.keep = false) (fun _ => rfl) h rfl
      (by simp [Instr.wf, partOk, hp])
  · exact hintPlace_marked (i := .spareHint p) (fun y => { y with spare := true }) (fun y => y.spare = true) (fun _ => rfl) h rfl
      (by simp [Instr.wf, partOk, hp])
  · have hact : hintPlace s p 0 anyBolt wantBolt = spend (putPart s p (hinted 1 (noteFrames
        (marked (fun y => { y with st := .in_, frame := pickFrame s p }) b (partOf s p))))) 1 :=
      (hintPlace_one h hone rfl (wantBolt_flash hst hroom)).trans (congrArg (spend · 1) (onPart_onPart s p _ _))
    exact ⟨_, exec_next_of_eq rfl (by simp [Instr.wf, partOk, hp]) hact, congrArg Bolt.st (bolt_setBolt ..), rfl, rfl,
      fun c hc => bolt_setBolt_ne _ _ hc⟩
  · have hact : hintPlace s p 1 anyBolt keepBolt =
        putPart s p (hinted 1 (marked (fun y => { y with keep := true }) b (partOf s p))) :=
      hintPlace_onPart h hone rfl (keepBolt_dirty hst hroom)
    refine ⟨_, exec_next_of_eq rfl (by simp [Instr.wf, partOk, hp]) hact, ?_, ?_, rfl, rfl, fun c hc => ?_⟩
    · rw [bolt_hinted, bolt_marked]
    · rw [bolt_hinted, bolt_marked, hst]
    · rw [bolt_hinted, bolt_marked_ne _ _ hc]
  · have hact : evictBolt s p b = some (onPart s p fun x => leaveHbm x b .flash) := by rw [evictBolt, hst]; rfl
    have hrun : hintPlace s p 4 (fun x b => !(x.bolt b).pinned) evictBolt =
        putPart s p (hinted 1 (leaveHbm (partOf s p) b .flash)) :=
      hintPlace_onPart h hone (by rw [hpin]; rfl) hact
    refine ⟨_, exec_next_of_eq rfl (by simp [Instr.wf, partOk, hp]) hrun, ?_, mem_leaveHbm _ b .flash, rfl, fun c hc => ?_⟩
    · rw [bolt_hinted, bolt_leaveHbm]
    · rw [bolt_hinted, bolt_leaveHbm_ne _ _ hc]
  · have hrun := drop_one h hone hpin hno
    refine ⟨_, exec_next_of_eq hrun (by simp [Instr.wf, partOk, hp]) rfl, st_discarded b _, fun a h1 h2 => ?_, fun a ha => ?_,
      rfl, fun c hc => ?_⟩
    · rw [mem_hinted, mget_discarded, if_pos (by simp only [boltSize]; omega)]
    · rw [mem_hinted, mget_discarded, if_neg (by simp only [boltSize]; omega)]
    · rw [bolt_hinted, bolt_discarded_ne _ hc]
  · have hs0 : reg (devRead s p a 32).2 p R.migHqHead 31 0 = reg s p R.migHqHead 31 0 := reg_devRead ..
    have hbeside0 := beside_devRead s p a 32
    obtain ⟨hhint, hhead, hbeside⟩ := hintEnd_effects (devRead s p a 32).2 p a h.status h.done
    have hall := beside_trans hbeside0 hbeside
    refine ⟨_, exec_next_of_eq rfl (by simp [Instr.wf, partOk, hp]) ?_, hhint, hhead.trans (by rw [hs0]), hall.cores, hall.clusters⟩
    simp only [hintRecordComplete, ha, hr, hlive, hok, hrun, hset, when_, bne_self_eq_false, Bool.false_eq_true, if_false,
      Bool.not_true, if_true]

end Sys2Proof.Proofs
end

section
/-! Proofs about the target's side of remote access: reads, writes, atomics and violations (R181 to R187). -/

namespace Sys2Proof.Proofs

open Sys2Proof.Machine Sys2Proof.Safety Sys2Proof.Laws

/-! ### Requests inside the module (R181, R182) -/

/-- A request of this module in the clear is taken as it stands. -/
theorem acceptMsg_clear {s : State} {m : Msg} (h : m.enc = false) : acceptMsg s none m = (some m, takeInbox s m) := by
  simp [acceptMsg, h]

/-- A target of this module takes a request of its type. -/
theorem forMe_of {s : State} {m : Msg} {t : Nat} (ht : m.mtype = t) (hd : m.dst = ownId s) : forMe s m t = true := by
  simp [forMe, ht, hd]

/-- An answer to this module is delivered in it. -/
theorem answer_here {u : State} {m : Msg} (h : m.src = ownId u) (t st : Nat) (pay col : List Byte) :
    answer u m t st pay col = deliver u (responseTo u m t st pay col) := if_pos h

/-- What an answer to this module changes: it stands in the inbox and is shown. -/
theorem answer_effects {s u : State} {m : Msg} (h : m.src = ownId s) (hpat : u.pattern = s.pattern) (t st : Nat) (pay col : List Byte) :
    (answer u m t st pay col).out = u.out ++ [.local_ (responseTo s m t st pay col)] ∧
      (answer u m t st pay col).parts = u.parts ∧ (answer u m t st pay col).stores = u.stores ∧
      (answer u m t st pay col).cores = u.cores ∧ (answer u m t st pay col).clusters = u.clusters := by
  have hid : ownId u = ownId s := by rw [ownId, hpat, ownId]
  have hresp : responseTo u m t st pay col = responseTo s m t st pay col := by rw [responseTo, hid, responseTo]
  rw [answer_here (hid ▸ h), hresp]
  exact ⟨rfl, rfl, rfl, rfl, rfl⟩

/-- A read at the target that is performed. -/
theorem serveRead_perform {s : State} {m : Msg} {p off : Nat} (ht : m.mtype = Mt.rdReq) (he : m.enc = false)
    (hd : m.dst = ownId s) (hv : verdict s m 32 m.len = .perform p off) :
    serveRead s none m = answer (touchTiles (takeInbox s m) p [off / 4096]) m Mt.rdRsp Status.ok
      (mread (partOf s p).mem off m.len) (collarBytes (tileCollar (partOf s p) (off / 4096))) := by
  have hv' : verdict (takeInbox s m) m 32 m.len = .perform p off := hv
  simp only [serveRead, forMe_of ht hd, acceptMsg_clear he, hv', Bool.not_true, Bool.false_eq_true, if_false]
  rfl

/-- A read at the target that is a violation. -/
theorem serveRead_violation {s : State} {m : Msg} {p : Option Nat} (ht : m.mtype = Mt.rdReq) (he : m.enc = false)
    (hd : m.dst = ownId s) (hv : verdict s m 32 m.len = .violation p) :
    serveRead s none m = answer (countViolation (takeInbox s m) p) m Mt.rdRsp Status.ok (zeros m.len) (collarBytes zeroCollar) := by
  have hv' : verdict (takeInbox s m) m 32 m.len = .violation p := hv
  simp only [serveRead, forMe_of ht hd, acceptMsg_clear he, hv', Bool.not_true, Bool.false_eq_true, if_false]

theorem freeFrame_isSome (s : State) (p b : Nat) : (freeFrame s p b).isSome =
    (decide (framesUsed (partOf s p) < usableBolts (partOf s p)) || (victim s p b).isSome) := by
  unfold freeFrame
  by_cases h : framesUsed (partOf s p) < usableBolts (partOf s p)
  · simp [h]
  · simp [h]

/-- Whether a bolt can be made ready does not depend on the messages that wait. -/
theorem readyWrite_takeInbox (s : State) (m : Msg) (p b : Nat) :
    (readyWrite (takeInbox s m) p b).isSome = (readyWrite s p b).isSome := by
  have hfree : (freeFrame (takeInbox s m) p b).isSome = (freeFrame s p b).isSome := by
    rw [freeFrame_isSome, freeFrame_isSome]
    rfl
  have hpart : partOf (takeInbox s m) p = partOf s p := rfl
  unfold readyWrite
  rw [hpart]
  cases ((partOf s p).bolt b).st with
  | zero | flash => exact (Option.isSome_map.trans hfree).trans Option.isSome_map.symm
  | hbmDirty | hbmClean | out | in_ => rfl

/-- A write at the target that is performed. -/
theorem serveWrite_perform {s t : State} {m : Msg} {p off : Nat} (ht : m.mtype = Mt.wrReq) (he : m.enc = false)
    (hd : m.dst = ownId s) (hv : baseVerdict s (verdict s m 33 m.len) = .perform p off)
    (hready : readyWrite (takeInbox s m) p (off / boltSize) = some t) :
    serveWrite s none m = answer (onPart t p fun x => applyWrite x off m) m Mt.wrAck Status.ok [] [] := by
  have hv' : baseVerdict (takeInbox s m) (verdict (takeInbox s m) m 33 m.len) = .perform p off := hv
  simp only [serveWrite, forMe_of ht hd, acceptMsg_clear he, hv', hready, Bool.not_true, Bool.false_eq_true, if_false]

/-- A write at the target that is a violation. -/
theorem serveWrite_violation {s : State} {m : Msg} {p : Option Nat} (ht : m.mtype = Mt.wrReq) (he : m.enc = false)
    (hd : m.dst = ownId s) (hv : baseVerdict s (verdict s m 33 m.len) = .violation p) :
    serveWrite s none m = answer (countViolation (takeInbox s m) p) m Mt.wrAck Status.ok [] [] := by
  have hv' : baseVerdict (takeInbox s m) (verdict (takeInbox s m) m 33 m.len) = .violation p := hv
  simp only [serveWrite, forMe_of ht hd, acceptMsg_clear he, hv', Bool.not_true, Bool.false_eq_true, if_false]

/-- A violation of a partition is counted there and changes nothing else. -/
theorem countViolation_effects (s : State) (p : Nat) : (countViolation s (some p)).out = s.out ∧
    (partOf (countViolation s (some p)) p).viol = BitVec.ofNat 32 (satTo 32 ((partOf s p).viol.toNat + 1)) ∧
    (partOf (countViolation s (some p)) p).mem = (partOf s p).mem := by
  have hpart : partOf (countViolation s (some p)) p =
      { partOf s p with viol := BitVec.ofNat 32 (satTo 32 ((partOf s p).viol.toNat + 1)) } := partOf_onPart ..
  exact ⟨rfl, by rw [hpart], by rw [hpart]⟩

/-! ### Atomics (R184) -/

theorem slice_length (bs : List Byte) (off n : Nat) : (slice bs off n).length = n := by
  simp only [slice, List.length_append, List.length_take, zeros, List.length_replicate]
  omega

/-- A part of a run of memory that is read. -/
theorem slice_mread (m : Mem) {a n k l : Nat} (h : k + l ≤ n) : slice (mread m a n) k l = mread m (a + k) l := by
  have hbytes : mread m (a + k) (slice (mread m a n) k l).length = slice (mread m a n) k l := by
    refine mread_of_getD fun i hi => ?_
    rw [slice_length] at hi
    rw [slice_getD _ hi, mread_eq, Nat.add_assoc]
    simp [List.getD, show k + i < n by omega]
  rw [slice_length] at hbytes
  exact hbytes.symm

/-- The partition after an atomic that leaves the 8 bytes of `v`. -/
def atomicDone (x : Partition) (off v : Nat) : Partition :=
  let pay := tileBytes x (off / 4096)
  let pay' := pay.take (off % 4096) ++ toLE 8 v ++ pay.drop (off % 4096 + 8)
  putTile x (off / 4096) pay' (setFld (tileCollar x (off / 4096)) 31 0 (crc32c pay'))

theorem mem_putTile (x : Partition) (t : Nat) (pay : List Byte) (c : Collar) :
    (putTile x t pay c).mem = mput x.mem (4096 * t) pay := rfl

theorem mget_atomicDone (x : Partition) {off : Nat} (v a : Nat) (h : off % 8 = 0) : mget (atomicDone x off v).mem a =
    if off ≤ a ∧ a < off + 8 then (toLE 8 v).getD (a - off) 0 else mget x.mem a := by
  have hplain : (atomicDone x off v).mem = (plainTileWrite x off (toLE 8 v) false false false).mem := by
    rw [atomicDone, plainTileWrite, mem_putTile, mem_putTile, toLE_length]
  have hbyte := mget_plainTileWrite x (off := off) (bs := toLE 8 v) (by rw [toLE_length]; omega) false false false a
  rw [toLE_length] at hbyte
  rw [hplain, hbyte]

theorem mle_atomicDone (x : Partition) {off : Nat} (v : Nat) (h : off % 8 = 0) :
    mle (atomicDone x off v).mem off 8 = v % 2 ^ 64 := by
  have hread : mread (atomicDone x off v).mem off (toLE 8 v).length = toLE 8 v := by
    refine mread_of_getD fun i hi => ?_
    rw [toLE_length] at hi
    rw [mget_atomicDone x v _ h, if_pos (by omega), Nat.add_sub_cancel_left]
  rw [toLE_length] at hread
  rw [mle, hread, le_toLE]

/-- An atomic that adds on 8 bytes of a sound resident tile. -/
theorem amoBolt_add {s : State} {p off : Nat} (a b : Nat) (hoff : off % 8 = 0) (hf : panelFenced s p = false)
    (hk : (partOf s p).keyed = true) (hst : ((partOf s p).bolt (off / boltSize)).st = .hbmDirty)
    (hcrc : crcOk (tileBytes (partOf s p) (off / 4096)) (tileCollar (partOf s p) (off / 4096)) = true)
    (hclean : collarClean (tileCollar (partOf s p) (off / 4096)) = true)
    (hpoison : (tileCollar (partOf s p) (off / 4096)).poison = false) : amoBolt s p off 0 64 a b =
      (putPart s p (atomicDone (partOf s p) off ((mle (partOf s p).mem off 8 + a % 2 ^ 64) % 2 ^ 64)), Status.ok,
        mle (partOf s p).mem off 8) := by
  have hready : readyWrite s p (off / boltSize) = some s := by rw [readyWrite, hst]
  have hold : le (slice (tileBytes (partOf s p) (off / 4096)) (off % 4096) 8) = mle (partOf s p).mem off 8 := by
    rw [tileBytes, slice_mread _ (by omega), mle, Nat.div_add_mod]
  have hnew : amoNew 0 64 (mle (partOf s p).mem off 8) a b = some ((mle (partOf s p).mem off 8 + a % 2 ^ 64) % 2 ^ 64) := rfl
  simp only [amoBolt, hf, hk, hready, hcrc, hclean, hpoison, hold, hnew, Bool.not_true, Bool.or_self, Bool.false_eq_true,
    if_false, Nat.reduceDiv]
  rfl

/-- An atomic at the target that adds on 8 bytes of a sound resident tile. -/
theorem serveAmo_add {s : State} {m : Msg} {p off : Nat} (ht : m.mtype = Mt.amoReq) (he : m.enc = false)
    (hd : m.dst = ownId s) (hasz : m.asz = true) (haop : m.aop = 0) (hv : baseVerdict s (verdict s m 34 8) = .perform p off)
    (hoff : off % 8 = 0) (hf : panelFenced s p = false) (hk : (partOf s p).keyed = true)
    (hst : ((partOf s p).bolt (off / boltSize)).st = .hbmDirty)
    (hcrc : crcOk (tileBytes (partOf s p) (off / 4096)) (tileCollar (partOf s p) (off / 4096)) = true)
    (hclean : collarClean (tileCollar (partOf s p) (off / 4096)) = true)
    (hpoison : (tileCollar (partOf s p) (off / 4096)).poison = false) : serveAmo s none m =
      answer (putPart (takeInbox s m) p
        (atomicDone (partOf s p) off ((mle (partOf s p).mem off 8 + leAt m.payload 0 8 % 2 ^ 64) % 2 ^ 64))) m Mt.amoRsp Status.ok
        (toLE 8 (mle (partOf s p).mem off 8)) [] := by
  have hv' : baseVerdict (takeInbox s m) (verdict (takeInbox s m) m 34 8) = .perform p off := hv
  have hact := amoBolt_add (s := takeInbox s m) (leAt m.payload 0 8) (leAt m.payload 8 8) hoff hf hk hst hcrc hclean hpoison
  have hzero : m.aop.toNat = 0 := by rw [haop]; rfl
  have htaken : (off % 8 != 0 || (amoNew 0 64 0 0 0).isNone) = false := by rw [hoff]; rfl
  simp only [serveAmo, forMe_of ht hd, acceptMsg_clear he, hasz, hzero, hv', hact, htaken, Bool.not_true, Bool.false_eq_true,
    if_false, if_true, Nat.reduceDiv]
  rfl

/-- Settles O28, by the verdict of the target and what it does then. -/
theorem targetsPerformRequests : Obligations.TargetsPerformRequests := by
  unfold Obligations.TargetsPerformRequests
  refine ⟨fun s m p off hm he hd hs => ⟨fun ht hv => ?_, fun ht hcol hv hlen hpos hfit hready => ?_,
    fun ht hasz haop hv hoff hf hk hst hcrc hclean hpoison => ?_⟩, fun s m p hm he hd hs => ⟨fun ht hv => ?_, fun ht hv => ?_⟩⟩
  · have htouched := tilesTouched_touchTiles (takeInbox s m) p [off / 4096]
    obtain ⟨hout, hparts, hstores, hcores, hclusters⟩ := answer_effects (u := touchTiles (takeInbox s m) p [off / 4096]) (s := s) hs
      (congrArg State.pattern htouched.rest :) Mt.rdRsp Status.ok (mread (partOf s p).mem off m.len)
      (collarBytes (tileCollar (partOf s p) (off / 4096)))
    refine ⟨_, exec_next_of_eq rfl (by simp [Instr.wf, hm, viaOk]) (serveRead_perform ht he hd hv), ?_, fun q => ?_, ?_, ?_, ?_⟩
    · exact hout.trans (congrArg (· ++ _) (congrArg State.out htouched.rest :))
    · rw [partOf, hparts]
      by_cases hq : q = p
      · subst hq
        exact ⟨htouched.mem, htouched.collars, htouched.bar0⟩
      · exact ⟨congrArg Partition.mem (htouched.others q hq), congrArg Partition.collars (htouched.others q hq),
          congrArg Partition.bar0 (htouched.others q hq)⟩
    · exact hstores.trans (congrArg State.stores htouched.rest :)
    · exact hcores.trans (congrArg State.cores htouched.rest :)
    · exact hclusters.trans (congrArg State.clusters htouched.rest :)
  · obtain ⟨t, ht'⟩ : ∃ t, readyWrite (takeInbox s m) p (off / boltSize) = some t :=
      Option.isSome_iff_exists.1 ((readyWrite_takeInbox s m p (off / boltSize)).trans hready)
    have hview : view (flashAndBolts p) t = view (flashAndBolts p) (takeInbox s m) :=
      readyWrite_view ht' rfl rfl rfl rfl rfl (fun _ => rfl) (beq_self_eq_true p)
    have hmem (q : Nat) : (partOf t q).mem = (partOf s q).mem := part_of_view Partition.mem hview fun _ => rfl
    obtain ⟨hout, hparts, hstores, hcores, hclusters⟩ := answer_effects (u := onPart t p fun x => applyWrite x off m) (s := s) hs
      (pattern_of_view hview rfl :) Mt.wrAck Status.ok [] []
    have hpart (q : Nat) : partOf (answer (onPart t p fun x => applyWrite x off m) m Mt.wrAck Status.ok [] []) q =
        partOf (onPart t p fun x => applyWrite x off m) q := by rw [partOf, hparts, partOf]
    have happly : applyWrite (partOf t p) off m = plainTileWrite (partOf t p) off m.payload false false false := by
      rw [applyWrite, hcol]
      rfl
    have hbyte (a : Nat) := mget_plainTileWrite (partOf t p) (off := off) (bs := m.payload) (by omega) false false false a
    rw [hlen] at hbyte
    refine ⟨_, exec_next_of_eq rfl (by simp [Instr.wf, hm, viaOk]) (serveWrite_perform ht he hd hv ht'), ?_, ?_, fun a ha => ?_,
      fun q hq => ?_, ?_, ?_, ?_⟩
    · rw [hout, List.getLast?_concat]
      rfl
    · rw [hpart, partOf_onPart, happly, ← hlen]
      refine mread_of_getD fun i hi => ?_
      rw [hbyte, if_pos (by omega), Nat.add_sub_cancel_left]
    · rw [hpart, partOf_onPart, happly, hbyte, if_neg (by omega), hmem]
    · rw [hpart, partOf_onPart_ne _ _ _ _ hq, hmem]
    · exact hstores.trans (stores_of_view hview rfl :)
    · exact hcores.trans (cores_of_view hview rfl :)
    · exact hclusters.trans (clusters_of_view hview rfl :)
  · obtain ⟨x, hx⟩ : ∃ x, x = atomicDone (partOf s p) off ((mle (partOf s p).mem off 8 + leAt m.payload 0 8 % 2 ^ 64) % 2 ^ 64) :=
      ⟨_, rfl⟩
    have hrun := serveAmo_add ht he hd hasz haop hv hoff hf hk hst hcrc hclean hpoison
    rw [← hx] at hrun
    obtain ⟨hout, hparts, hstores, hcores, -⟩ := answer_effects (u := putPart (takeInbox s m) p x) (s := s) hs rfl Mt.amoRsp
      Status.ok (toLE 8 (mle (partOf s p).mem off 8)) []
    have hpart (q : Nat) : partOf (answer (putPart (takeInbox s m) p x) m Mt.amoRsp Status.ok
        (toLE 8 (mle (partOf s p).mem off 8)) []) q = partOf (putPart (takeInbox s m) p x) q := by rw [partOf, hparts, partOf]
    refine ⟨_, exec_next_of_eq rfl (by simp [Instr.wf, hm, viaOk]) hrun, hout, ?_, fun a ha => ?_, fun q hq => ?_, hstores, hcores⟩
    · rw [hpart, partOf_putPart, hx, mle_atomicDone _ _ hoff]
      omega
    · rw [hpart, partOf_putPart, hx, mget_atomicDone _ _ _ hoff, if_neg (by omega)]
    · rw [hpart, partOf_putPart_ne _ _ _ _ hq]
      rfl
  · obtain ⟨hout', hviol, hmem⟩ := countViolation_effects (takeInbox s m) p
    obtain ⟨hout, hparts, hstores, hcores, -⟩ := answer_effects (u := countViolation (takeInbox s m) (some p)) (s := s) hs rfl
      Mt.rdRsp Status.ok (zeros m.len) (collarBytes zeroCollar)
    refine ⟨_, exec_next_of_eq rfl (by simp [Instr.wf, hm, viaOk]) (serveRead_violation ht he hd hv), hout, ?_, ?_, hstores, hcores⟩
    · rw [partOf, hparts]
      exact hviol
    · rw [partOf, hparts]
      exact hmem
  · obtain ⟨hout', hviol, hmem⟩ := countViolation_effects (takeInbox s m) p
    obtain ⟨hout, hparts, hstores, hcores, -⟩ := answer_effects (u := countViolation (takeInbox s m) (some p)) (s := s) hs rfl
      Mt.wrAck Status.ok [] []
    refine ⟨_, exec_next_of_eq rfl (by simp [Instr.wf, hm, viaOk]) (serveWrite_violation ht he hd hv), hout, ?_, ?_, hstores, hcores⟩
    · rw [partOf, hparts]
      exact hviol
    · rw [partOf, hparts]
      exact hmem

end Sys2Proof.Proofs
end

section
/-! Proofs about service ports: links, frames that arrive and frames that leave (R192, R193, R397). -/

namespace Sys2Proof.Proofs

open Sys2Proof.Machine Sys2Proof.Safety Sys2Proof.Laws

/-! ### What the device shows only grows -/

/-- Everything may change but what the device has shown. -/
@[reducible] def silent : Field → Bool
  | .out => false
  | _ => true

/-- What was shown before stays in front. -/
def Grows (s t : State) : Prop := s.out <+: t.out

theorem grows_refl (s : State) : Grows s s := List.prefix_refl _

theorem grows_trans {s t u : State} (h : Grows s t) (h' : Grows t u) : Grows s u := List.IsPrefix.trans h h'

theorem grows_of_out {s t : State} (h : t.out = s.out) : Grows s t := by rw [Grows, h]

theorem grows_congr {s t u : State} (h : t.out = s.out) (g : Grows t u) : Grows s u := grows_trans (grows_of_out h) g

theorem grows_of_view {s t : State} (h : view silent t = view silent s) : Grows s t := grows_of_out (out_of_view h rfl)

theorem grows_emit (s : State) (e : Emit) : Grows s (emit s e) := List.prefix_append _ _

theorem grows_ite {c : Prop} [Decidable c] {s a b : State} (ha : Grows s a) (hb : Grows s b) : Grows s (if c then a else b) := by
  split
  · exact ha
  · exact hb

theorem grows_foldl {α : Type} {f : State → α → State} (l : List α) (s : State) (step : ∀ t a, Grows t (f t a)) :
    Grows s (l.foldl f s) :=
  List.foldlRecOn (motive := fun t => Grows s t) _ _ (grows_refl s) fun t ht a _ => grows_trans ht (step t a)

theorem grows_msix (s : State) (p v : Nat) : Grows s (msix s p v) := by
  rw [Grows, msix_out]
  exact List.prefix_append _ _

theorem grows_errEvent (s : State) (p i : Nat) : Grows s (errEvent s p i) := by
  unfold errEvent
  exact grows_ite (grows_msix _ p 1) (grows_of_out rfl)

theorem grows_healthRecord (kind fuel : Nat) : ∀ (s : State) (es : List (List Byte)), Grows s (healthRecord kind fuel s es) := by
  induction fuel with
  | zero => exact fun s _ => grows_refl s
  | succ fuel ih =>
    intro s es
    have hsend : Grows s (healthSend s kind (es.take 40)) := grows_emit { s with rel := _ } _
    exact grows_ite (grows_refl s) (grows_ite hsend (grows_trans hsend (ih _ _)))

theorem grows_eventRecord (s : State) (cls ut idx flg det : Nat) : Grows s (eventRecord s cls ut idx flg det) := by
  unfold eventRecord
  refine grows_ite (grows_refl s) (grows_ite (grows_of_out rfl) ?_)
  exact grows_congr (by rfl) (grows_healthRecord ..)

theorem grows_chargeN (s : State) (cls ut idx n : Nat) : Grows s (chargeN s cls ut idx n) := by
  have recorded (u : Machine.Rel) (c : Prop) [Decidable c] (flg : Nat) :
      Grows s (if c then eventRecord { s with rel := u } cls ut idx flg 0 else { s with rel := u }) :=
    grows_ite (grows_eventRecord { s with rel := u } ..) (grows_of_out rfl)
  unfold chargeN
  refine grows_ite ?_ (recorded ..)
  split
  · exact grows_trans (recorded ..) (grows_errEvent ..)
  · exact recorded ..

theorem grows_chargeFlash (s : State) (cls n : Nat) : Grows s (chargeFlash s cls n) :=
  grows_ite (grows_refl s) (grows_chargeN (spend s 1) ..)

theorem grows_retireBlock (s : State) (k : Nat) : Grows s (retireBlock s k) :=
  grows_congr (by rfl) (grows_chargeFlash (spend (onWear (onBlock s k _) _) 1) 0x08 1)

theorem grows_wearVectors (s : State) (was : Wear) : Grows s (wearVectors s was) :=
  grows_ite (grows_trans (grows_foldl _ _ fun t p => grows_msix t p 4) (grows_eventRecord ..)) (grows_refl s)

theorem grows_programBolt (s : State) (p b : Nat) : Grows s (programBolt s p b) := by
  have retired : Grows s (if freeBelow s 0 2 = 1 then retireBlock (spend s 2) (pickBlock (spend s 1)) else spend s 2) :=
    grows_ite (grows_trans (grows_of_out rfl) (grows_retireBlock (spend s 2) _)) (grows_of_out rfl)
  unfold programBolt
  refine grows_trans retired (grows_trans (grows_of_view ?_) (grows_wearVectors ..))
  refine (spend_view _ _ rfl).trans ((onWear_view _ _ rfl).trans ((levelWear_view _ rfl).trans ?_))
  exact (spend_view _ _ rfl).trans (programBlock_view _ _ _ _ rfl)

theorem grows_freeFrame {s t : State} {p b : Nat} (h : freeFrame s p b = some t) : Grows s t := by
  unfold freeFrame at h
  dsimp only at h
  split at h
  · cases h
    exact grows_refl s
  · obtain ⟨v, -, rfl⟩ := Option.map_eq_some_iff.1 h
    split
    · exact grows_of_out rfl
    · exact grows_trans (grows_of_out rfl) (grows_programBolt (onPart s p _) p v)
    · exact grows_trans (grows_of_out rfl) (grows_programBolt (onPart (onPart s p releaseForQuota) p _) p v)

theorem grows_readyWrite {s t : State} {p b : Nat} (h : readyWrite s p b = some t) : Grows s t := by
  have placed (f : State → State) (hf : ∀ u, (f u).out = u.out) (hm : (freeFrame s p b).map f = some t) : Grows s t := by
    obtain ⟨u, hu, rfl⟩ := Option.map_eq_some_iff.1 hm
    exact grows_trans (grows_freeFrame hu) (grows_of_out (hf u))
  unfold readyWrite at h
  dsimp only at h
  split at h
  · cases h; exact grows_refl s
  · cases h; exact grows_of_out rfl
  · cases h; exact grows_of_out rfl
  · cases h; exact grows_of_out rfl
  · exact placed _ (fun u => (rfl : (giveFrame u p b .hbmDirty).out = u.out)) h
  · exact placed _ (fun u => (rfl : (onPart (giveFrame u p b .in_) p _).out = u.out)) h

theorem grows_devWriteRun (base : Bool) (s : State) (p a : Nat) (bs : List Byte) : Grows s (devWriteRun base s p a bs).1 := by
  simp only [devWriteRun]
  split
  · exact grows_of_view ((setTags_view _ _ _ _ rfl).trans (putStore_view _ _ _ rfl rfl))
  · split
    · exact grows_of_out rfl
    · exact grows_refl s
  · split
    · exact grows_refl s
    · split
      next t ht => exact grows_trans (grows_readyWrite ht) (grows_of_out rfl)
      · exact grows_errEvent ..
  · exact grows_refl s

theorem grows_devWrite (s : State) (p a : Nat) (bs : List Byte) : Grows s (devWrite s p a bs) := by
  simp only [devWrite, devWriteBy]
  refine grows_trans (t := (List.foldl _ (s, false) _).1) ?_ (grows_ite (grows_of_out rfl) (grows_refl _))
  refine List.foldlRecOn (motive := fun r : State × Bool => Grows s r.1) _ _ (grows_refl s) fun r hr e _ => ?_
  refine grows_trans hr ?_
  dsimp only
  split
  · exact grows_devWriteRun false r.1 p _ _
  · exact grows_refl r.1

/-! ### What a write of the device leaves in the stores (R439, R440) -/

theorem mget_devWriteRun_ne (base : Bool) (s : State) (p a : Nat) (bs : List Byte) {c : Nat} (h : c < a ∨ a + bs.length ≤ c) :
    mget (devWriteRun base s p a bs).1.stores c = mget s.stores c := by
  have viewed {u : State} (hu : view noStores u = view noStores s) : mget u.stores c = mget s.stores c :=
    congrArg (mget · c) (stores_of_view hu rfl)
  cases hk : pvKind (partOf s p) a with
  | store =>
    obtain ⟨-, -, hst⟩ := devWriteRun_store (base := base) hk bs
    rw [hst, mget_mput_ne _ _ _ _ h]
  | table w =>
    simp only [devWriteRun, hk]
    split
    · exact mget_mput_ne _ _ _ _ h
    · rfl
  | bolt =>
    simp only [devWriteRun, hk]
    split
    · rfl
    · split
      next t ht =>
        have hready := readyWrite_view (F := noStores) ht rfl rfl rfl rfl rfl (fun _ => rfl) rfl
        have hwrite : view noStores (onPart t p fun y => plainTileWrite y (a - boltBase) bs false false false) = view noStores t :=
          onPart_view _ _ _ rfl (plainTileWrite_view _ _ _ _ _ _ rfl rfl)
        exact viewed (hwrite.trans hready)
      · have herr : view noStores (errEvent s p 11) = view noStores s := errEvent_view s p 11 rfl rfl rfl rfl
        exact viewed herr
  | outside => simp only [devWriteRun, hk]

/-- A run of a span lies where its offset says. -/
theorem place_of_mem_cutRuns {unit_ fuel a n : Nat} {e : Nat × Nat × Nat} (h : e ∈ cutRuns unit_ fuel a n) :
    e.1 = a + e.2.1 ∧ e.2.1 + e.2.2 ≤ n := by
  induction fuel generalizing a n e with
  | zero => simp [cutRuns] at h
  | succ fuel ih =>
    rw [cutRuns] at h
    split at h
    · simp at h
    · rcases List.mem_cons.1 h with rfl | h
      · exact ⟨rfl, (Nat.zero_add _).trans_le (Nat.min_le_left _ _)⟩
      · obtain ⟨e', he', rfl⟩ := List.mem_map.1 h
        obtain ⟨hat, hfit⟩ := ih he'
        exact ⟨by dsimp only; omega, by dsimp only; omega⟩

/-- A write of the device changes no byte of a store outside its span. -/
theorem mget_devWrite_ne (s : State) (p a : Nat) (bs : List Byte) {c : Nat} (h : c < a ∨ a + bs.length ≤ c) :
    mget (devWrite s p a bs).stores c = mget s.stores c := by
  have violated (b : Bool) (t : State) : (violationIf b t p).stores = t.stores := by
    unfold violationIf
    split <;> rfl
  simp only [devWrite, devWriteBy]
  rw [violated]
  refine List.foldlRecOn (motive := fun r : State × Bool => mget r.1.stores c = mget s.stores c) _ _ rfl fun r hr e he => ?_
  refine Eq.trans ?_ hr
  dsimp only
  split
  · obtain ⟨hat, hfit⟩ := place_of_mem_cutRuns he
    refine mget_devWriteRun_ne false r.1 p e.1 _ ?_
    simp only [List.length_take, List.length_drop]
    omega
  · rfl

/-! ### Buffers of frames in a core store (R397) -/

/-- Bytes that lie in one core store of the partition. -/
structure InCoreStore (x : Partition) (b n : Nat) : Prop where
  below : b < 0xA0000000
  fits : b + n ≤ windowEnd b
  kind : ∀ c, b ≤ c → c < b + n → pvKind x c = .store

theorem inCoreStore_of {x : Partition} {b n : Nat} (hn : 0 < n) (hb : b < 0xA0000000)
    (hone : b / 0x40000 = (b + n - 1) / 0x40000) (hc : hasCluster x (b / 0x400000) = true) : InCoreStore x b n := by
  refine ⟨hb, ?_, fun c h1 h2 => ?_⟩
  · rw [windowEnd, if_pos hb]
    omega
  · rw [pvKind, if_pos (show c < 0xA0000000 by omega), show c / 0x400000 = b / 0x400000 by omega, if_pos hc]

/-- A read of a core store returns its bytes and changes nothing. -/
theorem devRead_coreStore {s : State} {p b n : Nat} (h : InCoreStore (partOf s p) b n) :
    devRead s p b n = (mread s.stores b n, s) := by
  have hend := h.fits
  rw [windowEnd, if_pos h.below] at hend
  have hlow : b + n ≤ boltBase := by have := h.below; simp only [boltBase]; omega
  have hbolts : Machine.boltsOf (partOf s p) b n = [] := by rw [Machine.boltsOf, if_pos hlow, ite_self]
  have htiles : tilesOfSpan (partOf s p) b n = [] := if_pos (.inr hlow)
  have hbyte (i : Nat) (hi : i < n) : (if (true && decide (b + i < windowEnd b)) = true then
      pvByte s (partOf s p) (b + i) else none) = some (mget s.stores (b + i)) := by
    have hlt : b + i < windowEnd b := by rw [windowEnd, if_pos h.below]; omega
    rw [pvByte, h.kind _ (by omega) (by omega), decide_eq_true hlt]
    rfl
  have hpeek : (List.range n).map (fun i => if (true && decide (b + i < windowEnd b)) = true then
      pvByte s (partOf s p) (b + i) else none) = (mread s.stores b n).map some := by
    rw [mread_eq, List.map_map]
    exact List.map_congr_left fun i hi => hbyte i (List.mem_range.1 hi)
  have hbytes : pvPeek s p (fun _ => true) b n = (mread s.stores b n, false) := by
    rw [pvPeek, hpeek, List.map_map, List.any_map]
    refine Prod.ext ?_ ?_
    · exact List.map_id _
    · exact List.any_eq_false.2 fun _ _ => by simp
  rw [devRead, hbytes, hbolts]
  dsimp only [readyAll, List.foldl_nil]
  rw [htiles]
  rfl

/-- A read of the device changes no store, and panels stay. -/
theorem inCoreStore_devRead {s : State} {p b n : Nat} (a k : Nat) (h : InCoreStore (partOf s p) b n) :
    InCoreStore (partOf (devRead s p a k).2 p) b n := by
  have hpanels : (partOf (devRead s p a k).2 p).panels = (partOf s p).panels :=
    part_of_view Partition.panels (devRead_deviceRead s p a k) fun _ => rfl
  refine ⟨h.below, h.fits, fun c h1 h2 => ?_⟩
  have hkind := h.kind c h1 h2
  have hc : c < 0xA0000000 := by
    have := h.fits
    have := h.below
    rw [windowEnd, if_pos h.below] at *
    omega
  rw [pvKind, if_pos hc, hasCluster] at hkind ⊢
  rw [hpanels]
  exact hkind

/-! ### Service ports (R192, R193) -/

/-- The state of a service port after its state field is written. -/
theorem sst_putMreg (s : State) (n v : Nat) (h : v < 4) : sst (putMreg s (M.ptSvc n) 1 0 v) n = v :=
  (mreg_putMreg s (M.ptSvc n) 1 0 v (by decide) (by decide)).trans (Nat.mod_eq_of_lt h)

/-- A frame that finds no posted buffer is counted (R397). -/
theorem rxDrop_effects (s : State) (p n : Nat) :
    reg (rxDrop s p n) p (R.svCnt n) 63 32 = min (reg s p (R.svCnt n) 63 32 + 1) (2 ^ 32 - 1) ∧
      (partOf (rxDrop s p n) p).mem = (partOf s p).mem ∧ (rxDrop s p n).stores = s.stores := by
  have hpart : partOf (rxDrop s p n) p =
      (partOf s p).put (R.svCnt n) 63 32 (satTo 32 (reg s p (R.svCnt n) 63 32 + 1)) := partOf_onPart ..
  refine ⟨?_, by rw [hpart]; rfl, rfl⟩
  rw [reg, hpart, Partition_get_put _ _ _ _ _ (by decide) (by decide)]
  exact Nat.mod_eq_of_lt (Nat.lt_of_le_of_lt (Nat.min_le_right _ _) (by decide))

/-- What a ring's advance changes: its head, and vector 7 is the last that is shown. -/
theorem ringTurn_effects (s : State) (p o hi lo v : Nat) : let t := msix (putReg s p o hi lo v) p 7
    t.out.getLast? = some (.msix p 7) ∧ Beside p s t ∧ t.stores = s.stores ∧
      ∀ k a b, reg t p k a b = reg (putReg s p o hi lo v) p k a b := by
  intro t
  refine ⟨?_, beside_trans (beside_onPart s p _) (beside_msix _ p 7), rfl, fun k a b => reg_msix ..⟩
  rw [msix_out, List.getLast?_concat]

/-- The upper bits of an address below 4 GiB are zero. -/
theorem fld_low {w : Word} {hi lo : Nat} (h : w.toNat < 2 ^ lo) : fld w hi lo = 0 := by
  rw [fld, nfld, Nat.shiftRight_eq_div_pow, Nat.div_eq_of_lt h, Nat.zero_mod]

/-- A frame into a posted buffer that lies in a core store, and what stands beside it. -/
theorem rxDeliver_effects {s : State} {p n : Nat} {f : SvcFrame} (hlive : (partOf s p).ptstate = 1)
    (hen : reg s p (R.svCtl n) 32 32 = 1) (hsize : reg s p (R.svCtl n) 28 16 ≠ 0)
    (hposted : reg s p (R.svRxp n) 63 32 ≠ reg s p (R.svRxp n) 31 0) (hn : n < 2)
    (hfit : f.bytes.length ≤ (svcDesc s p (rxAddr (partOf s p) n)).len)
    (hin : InCoreStore (partOf s p) (svcDesc s p (rxAddr (partOf s p) n)).addr.toNat f.bytes.length) :
    let a := rxAddr (partOf s p) n
    let b := (svcDesc s p a).addr.toNat
    let t := rxDeliver s p n f
    (a + 12 ≤ b ∨ b + f.bytes.length ≤ a + 8 → mread t.stores b f.bytes.length = f.bytes) ∧
      (∀ c, c < b ∨ b + f.bytes.length ≤ c → c < a + 8 ∨ a + 12 ≤ c → mget t.stores c = mget s.stores c) ∧
      reg t p (R.svRxp n) 63 32 = (reg s p (R.svRxp n) 63 32 + 1) % 2 ^ 32 ∧ t.out.getLast? = some (.msix p 7) ∧ Beside p s t := by
  intro a b t
  have hoff : R.svRxp n < 0xB0000 := by simp only [R.svRxp]; omega
  obtain ⟨s0, hs0⟩ : ∃ s0, s0 = svcLook s p a := ⟨_, rfl⟩
  obtain ⟨s1, hs1⟩ : ∃ s1, s1 = devWrite s0 p b f.bytes := ⟨_, rfl⟩
  obtain ⟨fl, hfl⟩ : ∃ fl, fl = toLE 2 f.bytes.length ++ toLE 1 (rxFlags f.udp) ++ toLE 1 Status.ok := ⟨_, rfl⟩
  obtain ⟨s2, hs2⟩ : ∃ s2, s2 = devWrite s1 p (a + 8) fl := ⟨_, rfl⟩
  have hlen : fl.length = 4 := by rw [hfl]; simp [toLE_length]
  have ht : t = msix (putReg s2 p (R.svRxp n) 63 32 (reg s2 p (R.svRxp n) 63 32 + 1)) p 7 := by
    have hturn : ((partOf s p).ptstate != 1 || (partOf s p).get (R.svCtl n) 32 32 == 0 ||
        (partOf s p).get (R.svCtl n) 28 16 == 0 ||
        !((partOf s p).get (R.svRxp n) 63 32 != (partOf s p).get (R.svRxp n) 31 0)) = false := by
      simp only [reg] at hen hsize hposted
      simp [hlive, hen, hsize, hposted]
    have hlow : fld (svcDesc s p a).addr 63 62 ≠ 2 := by
      rw [fld_low (Nat.lt_trans hin.below (by decide))]
      decide
    rw [hs2, hs1, hs0, hfl]
    simp only [t, rxDeliver, hturn, Bool.false_eq_true, if_false]
    rw [if_neg (by omega), if_neg hlow]
  clear_value t
  have hin0 : InCoreStore (partOf s0 p) b f.bytes.length := hs0 ▸ inCoreStore_devRead a 16 hin
  have hst0 : s0.stores = s.stores := by rw [hs0]; exact (stores_of_view (devRead_deviceRead s p a 16) rfl :)
  have hlt : b < 0xA0000000 := hin.below
  obtain ⟨-, hbytes⟩ := devWrite_store (s := s0) (p := p) (bs := f.bytes) (by omega) hin0.fits hin0.kind
  rw [← hs1] at hbytes
  obtain ⟨hlast, hbeside, hstores, hreg⟩ := ringTurn_effects s2 p (R.svRxp n) 63 32 (reg s2 p (R.svRxp n) 63 32 + 1)
  rw [← ht] at hlast hbeside hstores hreg
  have hbyte {c : Nat} (hc : c < a + 8 ∨ a + 12 ≤ c) : mget t.stores c =
      if b ≤ c ∧ c < b + f.bytes.length then f.bytes.getD (c - b) 0 else mget s.stores c := by
    rw [hstores, hs2, mget_devWrite_ne _ _ _ _ (by omega), hbytes, hst0]
  refine ⟨fun hapart => mread_of_getD fun i hi => ?_, fun c h1 h2 => ?_, ?_, hlast, ?_⟩
  · rw [hbyte (by omega), if_pos (by omega), Nat.add_sub_cancel_left]
  · rw [hbyte h2, if_neg (by omega)]
  · have hhead : reg s2 p (R.svRxp n) 63 32 = reg s p (R.svRxp n) 63 32 := by
      rw [hs2, hs1, hs0, reg_devWrite _ _ _ _ _ _ _ hoff, reg_devWrite _ _ _ _ _ _ _ hoff]
      exact reg_devRead ..
    rw [hreg, hhead, reg, putReg, partOf_onPart]
    exact Partition_get_put _ _ _ _ _ (by decide) (by decide)
  · refine beside_trans ?_ hbeside
    rw [hs2, hs1, hs0]
    exact beside_trans (beside_trans (beside_devRead s p a 16) (beside_devWrite ..)) (beside_devWrite ..)

/-- The end of a transmit descriptor: the head advances, a failed one is counted, and nothing shown is lost. -/
theorem txEnd_effects (s : State) (p : Nat) {n : Nat} (status : Nat) (hn : n < 2) : let t := txEnd s p n status
    reg t p (R.svTxp n) 63 32 = (reg s p (R.svTxp n) 63 32 + 1) % 2 ^ 32 ∧ t.out.getLast? = some (.msix p 7) ∧
      Beside p s t ∧ Grows s t ∧ reg t p (R.svCnt n) 31 0 =
        if status = Status.ok then reg s p (R.svCnt n) 31 0 else min (reg s p (R.svCnt n) 31 0 + 1) (2 ^ 32 - 1) := by
  intro t
  have hoff : R.svTxp n < 0xB0000 ∧ R.svCnt n < 0xB0000 ∧ R.svCnt n ≠ R.svTxp n := by
    simp only [R.svTxp, R.svCnt]
    omega
  obtain ⟨ht, hc, hne⟩ := hoff
  obtain ⟨s1, hs1⟩ : ∃ s1, s1 = devWrite s p (txAddr (partOf s p) n + 0x0B) [BitVec.ofNat 8 status] := ⟨_, rfl⟩
  obtain ⟨s2, hs2⟩ : ∃ s2, s2 = if status = Status.ok then s1
    else putReg s1 p (R.svCnt n) 31 0 (satTo 32 (reg s1 p (R.svCnt n) 31 0 + 1)) := ⟨_, rfl⟩
  have hturn : t = msix (putReg s2 p (R.svTxp n) 63 32 (reg s2 p (R.svTxp n) 63 32 + 1)) p 7 := by
    rw [hs2, hs1]
    rfl
  clear_value t
  have kept {k : Nat} (hi lo : Nat) (hk : k < 0xB0000) : reg s1 p k hi lo = reg s p k hi lo := by
    rw [hs1]
    exact reg_devWrite _ _ _ _ _ _ _ hk
  have hhead : reg s2 p (R.svTxp n) 63 32 = reg s p (R.svTxp n) 63 32 := by
    rw [hs2, ← kept 63 32 ht]
    split
    · rfl
    · exact reg_putReg_other (Ne.symm hne)
  have hcount : reg s2 p (R.svCnt n) 31 0 =
      if status = Status.ok then reg s p (R.svCnt n) 31 0 else min (reg s p (R.svCnt n) 31 0 + 1) (2 ^ 32 - 1) := by
    rw [hs2, ← kept 31 0 hc]
    split
    · rfl
    · rw [reg, putReg, partOf_onPart, Partition_get_put _ _ _ _ _ (by decide) (by decide)]
      exact Nat.mod_eq_of_lt (Nat.lt_of_le_of_lt (Nat.min_le_right _ _) (by decide))
  have hbeside : Beside p s s2 := by
    have h1 : Beside p s s1 := by rw [hs1]; exact beside_devWrite ..
    rw [hs2]
    split
    · exact h1
    · exact beside_trans h1 (beside_onPart ..)
  have hgrows : Grows s s2 := by
    have h1 : Grows s s1 := by rw [hs1]; exact grows_devWrite ..
    rw [hs2]
    exact grows_ite h1 (grows_trans h1 (grows_of_out rfl))
  obtain ⟨hlast, hbeside', -, hreg⟩ := ringTurn_effects s2 p (R.svTxp n) 63 32 (reg s2 p (R.svTxp n) 63 32 + 1)
  rw [← hturn] at hlast hbeside' hreg
  refine ⟨?_, hlast, beside_trans hbeside hbeside', ?_, ?_⟩
  · rw [hreg, hhead, reg, putReg, partOf_onPart]
    exact Partition_get_put _ _ _ _ _ (by decide) (by decide)
  · rw [hturn]
    exact grows_trans hgrows (grows_congr (by rfl) (grows_msix (putReg s2 p _ _ _ _) p 7))
  · rw [hreg, reg_putReg_other hne, hcount]

/-- A turn of a transmit ring whose descriptor is the next one. -/
theorem frameTransmit_turn {s : State} {p n : Nat} (hlive : (partOf s p).ptstate = 1) (hup : sst s n = 2)
    (hen : reg s p (R.svCtl n) 32 32 = 1) (hsize : reg s p (R.svCtl n) 12 0 ≠ 0)
    (hposted : reg s p (R.svTxp n) 63 32 ≠ reg s p (R.svTxp n) 31 0) (hwait : txWaiting (partOf s p) n = false)
    (hsends : svcSends s n (nfld (svcDesc s p (txAddr (partOf s p) n)).flg 3 1) = true) :
    ((partOf s p).ptstate != 1 || sst s n != 2 || (partOf s p).get (R.svCtl n) 32 32 == 0 ||
      (partOf s p).get (R.svCtl n) 12 0 == 0 || !((partOf s p).get (R.svTxp n) 63 32 != (partOf s p).get (R.svTxp n) 31 0) ||
      txWaiting (partOf s p) n || !svcSends s n (nfld (svcDesc s p (txAddr (partOf s p) n)).flg 3 1)) = false := by
  simp only [reg] at hen hsize hposted
  simp [hlive, hup, hen, hsize, hposted, hwait, hsends]

/-- A descriptor of a length that no frame has ends NOT_RUN. -/
theorem frameTransmit_badLength {s : State} {p n : Nat} (hlive : (partOf s p).ptstate = 1) (hup : sst s n = 2)
    (hen : reg s p (R.svCtl n) 32 32 = 1) (hsize : reg s p (R.svCtl n) 12 0 ≠ 0)
    (hposted : reg s p (R.svTxp n) 63 32 ≠ reg s p (R.svTxp n) 31 0) (hwait : txWaiting (partOf s p) n = false)
    (hsends : svcSends s n (nfld (svcDesc s p (txAddr (partOf s p) n)).flg 3 1) = true)
    (hlen : (svcDesc s p (txAddr (partOf s p) n)).len < 14 ∨ 9208 < (svcDesc s p (txAddr (partOf s p) n)).len) :
    frameTransmit s p n = txEnd s p n Status.notRun := by
  have hturn := frameTransmit_turn hlive hup hen hsize hposted hwait hsends
  have hbad : (decide ((svcDesc s p (txAddr (partOf s p) n)).len < 14) ||
      decide (9208 < (svcDesc s p (txAddr (partOf s p) n)).len)) = true := by
    simp [hlen]
  simp only [frameTransmit, hturn, hbad, Bool.true_or, Bool.false_eq_true, if_false, if_true]

/-- A good descriptor of a frame in a core store. -/
theorem frameTransmit_coreStore {s : State} {p n : Nat} (hlive : (partOf s p).ptstate = 1) (hup : sst s n = 2)
    (hen : reg s p (R.svCtl n) 32 32 = 1) (hsize : reg s p (R.svCtl n) 12 0 ≠ 0)
    (hposted : reg s p (R.svTxp n) 63 32 ≠ reg s p (R.svTxp n) 31 0) (hwait : txWaiting (partOf s p) n = false)
    (hsends : svcSends s n (nfld (svcDesc s p (txAddr (partOf s p) n)).flg 3 1) = true) {d : SvcDesc}
    (hd : svcDesc s p (txAddr (partOf s p) n) = d) (hlow : 14 ≤ d.len) (hhigh : d.len ≤ 9208) (hflg : d.flg < 16)
    (hresv : d.resv = 0) (hin : InCoreStore (partOf s p) d.addr.toNat d.len) (htag : bit (tagsOver s d.addr.toNat d.len) 0 = false)
    (htun : toTunnel s (mread s.stores d.addr.toNat d.len) = false) : frameTransmit s p n =
      txEnd (emit s (.frame n (wireFrame (partOf s p) n d.flg (mread s.stores d.addr.toNat d.len)))) p n Status.ok := by
  have hturn := frameTransmit_turn hlive hup hen hsize hposted hwait hsends
  rw [hd] at hturn
  have hbelow : d.addr.toNat < 0xA0000000 := hin.below
  have hhost : (fld d.addr 63 62 == 2) = false := by rw [fld_low (Nat.lt_trans hbelow (by decide))]; rfl
  have hinside : spanInside (partOf s p) d.addr.toNat d.len = true := by
    simp only [spanInside, List.all_eq_true, List.mem_range]
    intro i hi
    rw [hin.kind _ (by omega) (by omega)]
    rfl
  have hgood : (decide (d.len < 14) || decide (9208 < d.len) || decide (16 ≤ d.flg) || d.resv != 0 ||
      (false && fld d.addr 61 52 != 0) || (!false && (fld d.addr 63 44 != 0 || !spanInside (partOf s p) d.addr.toNat d.len))) =
      false := by
    rw [fld_low (lo := 52) (Nat.lt_trans hbelow (by decide)), fld_low (lo := 44) (Nat.lt_trans hbelow (by decide)), hinside,
      hresv, decide_eq_false (by omega), decide_eq_false (by omega),
      decide_eq_false (by omega)]
    rfl
  have hsound : spanPoison s p d.addr.toNat d.len = false := by
    rw [spanPoison, if_neg (by simp only [boltBase]; omega)]
    exact htag
  simp only [frameTransmit, hd, hturn, hhost, hgood, hsound, devRead_coreStore hin, txSend, htun, Bool.false_eq_true, if_false]

/-- Settles O30, by the path of a frame into a posted buffer and out of one. -/
theorem servicePortsMoveFrames : Obligations.ServicePortsMoveFrames := by
  unfold Obligations.ServicePortsMoveFrames
  refine ⟨fun s n hn => ⟨fun hf hp => ?_, fun hf => ?_, fun f hup hbad => ?_, fun f hup hfcs hpfc hpause hlen => ⟨fun hno => ?_,
    fun p hown hempty => ?_, fun p hown hlive hen hsize hposted => ?_⟩⟩, fun s p n hp hn hlive hup hen hsize hposted hwait => ?_⟩
  · have hcond : (sst s n != 3 && s.sec.pst == 0) = true := by simp [hf, hp]
    exact ⟨_, exec_next_of_eq rfl (by simp [Instr.wf, hn]) (when_of_true hcond), sst_putMreg s n 2 (by decide), rfl⟩
  · have hcond : (sst s n != 3) = true := by simp [hf]
    exact ⟨_, exec_next_of_eq rfl (by simp [Instr.wf, hn]) (when_of_true hcond), sst_putMreg s n 0 (by decide), rfl⟩
  · have hrun : frameReceive s n f = bumpMreg s (M.ptSvc n) 31 16 1 := by simp [frameReceive, hup, hbad]
    refine ⟨_, exec_next_of_eq rfl (by simp [Instr.wf, hn]) hrun, ?_, rfl, rfl⟩
    rw [bumpMreg, mreg_putMreg _ _ _ _ _ (by decide) (by decide)]
    exact Nat.mod_eq_of_lt (Nat.lt_of_le_of_lt (Nat.min_le_right _ _) (by decide))
  · have hrun : frameReceive s n f = strayFrame s n := by simp [frameReceive, hup, hfcs, hpfc, hpause, hlen, hno]
    exact ⟨_, exec_next_of_eq rfl (by simp [Instr.wf, hn]) hrun, sget_smod .., rfl, rfl, rfl⟩
  · have hrun : frameReceive s n f = rxDeliver s p n f := by simp [frameReceive, hup, hfcs, hpfc, hpause, hlen, hown]
    have hdrop : rxDeliver s p n f = rxDrop s p n := by
      simp only [reg] at hempty
      simp [rxDeliver, hempty]
    exact ⟨_, exec_next_of_eq rfl (by simp [Instr.wf, hn]) (hrun.trans hdrop), rxDrop_effects s p n⟩
  · intro a d b hpos hfit hlow hone hcl hapart
    have hrun : frameReceive s n f = rxDeliver s p n f := by simp [frameReceive, hup, hfcs, hpfc, hpause, hlen, hown]
    obtain ⟨hbytes, hothers, hhead, hlast, hbeside⟩ := rxDeliver_effects hlive hen hsize hposted hn hfit
      (inCoreStore_of hpos hlow hone hcl)
    exact ⟨_, exec_next_of_eq rfl (by simp [Instr.wf, hn]) hrun, hbytes hapart, hothers, hhead, hlast, hbeside.cores,
      hbeside.clusters⟩
  · intro d done hsends
    refine ⟨fun hbad => ?_, ?_⟩
    · have hrun := frameTransmit_badLength hlive hup hen hsize hposted hwait hsends hbad
      obtain ⟨hhead, hlast, hbeside, -, hcount⟩ := txEnd_effects s p Status.notRun hn
      exact ⟨_, exec_next_of_eq rfl (by simp [Instr.wf, partOk, hp, hn]) hrun, ⟨hhead, hlast, hbeside.cores, hbeside.clusters⟩, hcount⟩
    · intro hmin hmax hflg hresv b hlow hone hcl htag htun
      have hrun := frameTransmit_coreStore hlive hup hen hsize hposted hwait hsends rfl hmin hmax hflg hresv
        (inCoreStore_of (Nat.lt_of_lt_of_le (by decide) hmin) hlow hone hcl) htag htun
      obtain ⟨hhead, hlast, hbeside, hgrows, hcount⟩ :=
        txEnd_effects (emit s (.frame n (wireFrame (partOf s p) n d.flg (mread s.stores b d.len)))) p Status.ok hn
      obtain ⟨l, hl⟩ := hgrows
      refine ⟨_, l, exec_next_of_eq rfl (by simp [Instr.wf, partOk, hp, hn]) hrun, ⟨hhead, hlast, hbeside.cores, hbeside.clusters⟩, ?_,
        hcount⟩
      rw [← hl, emit_out, List.append_assoc]
      rfl

end Sys2Proof.Proofs
end

section
/-! Proofs about group slots: LOAD and CLEAR (R208). -/

namespace Sys2Proof.Proofs

open Sys2Proof.Machine Sys2Proof.Safety Sys2Proof.Laws

/-! ### Group commands (R208) -/

/-- What a group command leaves: all but its slot, registers and the places of bolts. -/
structure GroupOnly (p g : Nat) (s t : State) : Prop where
  others : ∀ h, h ≠ g → (partOf t p).group h = (partOf s p).group h
  colls : (partOf t p).colls = (partOf s p).colls
  mem : ∀ q, (partOf t q).mem = (partOf s q).mem
  stores : t.stores = s.stores
  cores : t.cores = s.cores
  clusters : t.clusters = s.clusters

theorem groupOnly_trans {p g : Nat} {s t u : State} (h : GroupOnly p g s t) (h' : GroupOnly p g t u) : GroupOnly p g s u where
  others k hk := (h'.others k hk).trans (h.others k hk)
  colls := h'.colls.trans h.colls
  mem q := (h'.mem q).trans (h.mem q)
  stores := h'.stores.trans h.stores
  cores := h'.cores.trans h.cores
  clusters := h'.clusters.trans h.clusters

theorem groupOnly_of_view {p g : Nat} {s t : State} (h : view (flashAndBolts p) t = view (flashAndBolts p) s) : GroupOnly p g s t where
  others k _ := congrArg (fun l => sget Group.empty l k) (part_of_view Partition.groups h fun _ => rfl)
  colls := part_of_view Partition.colls h fun _ => rfl
  mem _ := part_of_view Partition.mem h fun _ => rfl
  stores := stores_of_view h rfl
  cores := cores_of_view h rfl
  clusters := clusters_of_view h rfl

theorem groupOnly_putGroup (s : State) (p g : Nat) (q : Group) : GroupOnly p g s (putGroup s p g q) where
  others _ hk := group_putGroup_ne _ _ _ hk
  colls := by rw [putGroup, partOf_onPart]
  mem k := by
    by_cases hk : k = p
    · rw [hk, putGroup, partOf_onPart]
    · rw [putGroup, partOf_onPart_ne _ _ _ _ hk]
  stores := rfl
  cores := rfl
  clusters := rfl

/-- A slot that only registers and bolts' places could change is as it was. -/
theorem group_of_view {p : Nat} {s t : State} (h : view (flashAndBolts p) t = view (flashAndBolts p) s) (g : Nat) :
    (partOf t p).group g = (partOf s p).group g :=
  congrArg (fun l => sget Group.empty l g) (part_of_view Partition.groups h fun _ => rfl)

/-- What a group command ends with: `CGIX`, `CSTAT`, and nothing else of the groups. -/
theorem groupEnd_effects (s : State) (p : Nat) {g status : Nat} (hg : g < 64) (hst : status < 256) :
    let t := groupEnd s p g status
    reg t p R.cgrpCtl 13 8 = g ∧ reg t p R.cgrpCtl 23 16 = status ∧ GroupOnly p g s t ∧
      (partOf t p).group g = (partOf s p).group g := by
  intro t
  have hview : view (flashAndBolts p) t = view (flashAndBolts p) s := groupEnd_view _ _ _ _ rfl rfl rfl rfl
  refine ⟨?_, ?_, groupOnly_of_view hview, group_of_view hview g⟩
  · simp only [t, groupEnd, reg_msix]
    rw [reg_putReg_fld _ _ _ _ _ _ _ _ (by decide) (by decide), reg_putReg _ _ _ _ _ _ (by decide) (by decide)]
    exact Nat.mod_eq_of_lt hg
  · simp only [t, groupEnd, reg_msix]
    rw [reg_putReg _ _ _ _ _ _ (by decide) (by decide)]
    exact Nat.mod_eq_of_lt hst

/-- A slot that LOAD copies has a rank of a group of at least two, and counts from 0. -/
theorem loadedGroup_spec {s s1 : State} {p : Nat} {q : Group} (h : loadedGroup s p = (some q, s1)) :
    q.st = 1 ∧ q.opseq = 0 ∧ 2 ≤ q.n ∧ q.rank < q.n := by
  unfold loadedGroup at h
  extract_lets x rd d s1' job alg n r ml ports clean nOk entry used listOk s2 at h
  split at h
  next hc =>
    simp only [Bool.and_eq_true, decide_eq_true_eq] at hc
    obtain ⟨⟨⟨⟨⟨⟨⟨⟨-, hn⟩, hr⟩, -⟩, -⟩, -⟩, -⟩, -⟩, -⟩ := hc
    rw [← Option.some.inj (congrArg Prod.fst h)]
    exact ⟨rfl, rfl, (of_decide_eq_true hn).1, hr⟩
  · exact absurd (congrArg Prod.fst h) nofun

theorem loadedGroup_flashAndBolts (s : State) (p : Nat) : view (flashAndBolts p) (loadedGroup s p).2 = view (flashAndBolts p) s :=
  loadedGroup_view _ _ rfl rfl rfl rfl rfl rfl (fun _ => rfl) (beq_self_eq_true p)

/-- A slot in use drains no further. -/
theorem drainGroup_busy {s : State} {p g : Nat} (h : ((partOf s p).colls.any fun k => k.gix == g) = true) : drainGroup s p g = s := by
  simp only [drainGroup, h, Bool.not_true, Bool.and_false, Bool.false_eq_true, if_false]

/-- A slot without collectives that drains is EMPTY. -/
theorem drainGroup_free {s : State} {p g : Nat} (hst : ((partOf s p).group g).st = 2)
    (h : ((partOf s p).colls.any fun k => k.gix == g) = false) :
    GroupOnly p g s (drainGroup s p g) ∧ (partOf (drainGroup s p g) p).group g = .empty := by
  have hacts : drainGroup s p g = layoutDrain (layoutDrain (putGroup s p g .empty) p 0) p 1 := by
    simp only [drainGroup, hst, h, Bool.not_false, decide_true, Bool.and_true, if_true]
  have hview : view (flashAndBolts p) (drainGroup s p g) = view (flashAndBolts p) (putGroup s p g .empty) := by
    rw [hacts]
    exact (layoutDrain_view _ _ _ rfl rfl rfl rfl).trans (layoutDrain_view _ _ _ rfl rfl rfl rfl)
  exact ⟨groupOnly_trans (groupOnly_putGroup ..) (groupOnly_of_view hview), (group_of_view hview g).trans (group_putGroup ..)⟩

/-- A group command of a partition that runs. -/
theorem groupEnd_ended {s u : State} {p g status : Nat} (hg : g < 64) (hst : status < 256) (h : GroupOnly p g s u) :
    let t := groupEnd u p g status
    (reg t p R.cgrpCtl 13 8 = g ∧ reg t p R.cgrpCtl 23 16 = status ∧
      (∀ h, h ≠ g → (partOf t p).group h = (partOf s p).group h) ∧ (partOf t p).colls = (partOf s p).colls ∧
      (∀ q, (partOf t q).mem = (partOf s q).mem) ∧ t.stores = s.stores ∧ t.cores = s.cores ∧ t.clusters = s.clusters) ∧
      (partOf t p).group g = (partOf u p).group g := by
  intro t
  obtain ⟨hgix, hstat, hend, hgroup⟩ := groupEnd_effects u p hg hst
  have hall := groupOnly_trans h hend
  exact ⟨⟨hgix, hstat, hall.others, hall.colls, hall.mem, hall.stores, hall.cores, hall.clusters⟩, hgroup⟩

/-- LOAD and CLEAR of a group slot (R208). -/
theorem groupCommands {s : State} {p g : Nat} (hp : p < 16) (hg : g < 64) (hlive : (partOf s p).ptstate = 1) :
    let ended := fun (t : State) (status : Nat) => reg t p R.cgrpCtl 13 8 = g ∧ reg t p R.cgrpCtl 23 16 = status ∧
      (∀ h, h ≠ g → (partOf t p).group h = (partOf s p).group h) ∧ (partOf t p).colls = (partOf s p).colls ∧
      (∀ q, (partOf t q).mem = (partOf s q).mem) ∧ t.stores = s.stores ∧ t.cores = s.cores ∧ t.clusters = s.clusters
    let busy := (partOf s p).colls.any fun k => k.gix == g
    (∀ q s1, ((partOf s p).group g).st = 0 → loadedGroup s p = (some q, s1) → ∃ t, exec (.load p g) s = .next t ∧
      (partOf t p).group g = q ∧ q.st = 1 ∧ q.opseq = 0 ∧ 2 ≤ q.n ∧ q.rank < q.n ∧ ended t Status.ok) ∧
    (∀ s1, ((partOf s p).group g).st = 0 → loadedGroup s p = (none, s1) → ∃ t, exec (.load p g) s = .next t ∧
      (partOf t p).group g = (partOf s p).group g ∧ ended t Status.notRun) ∧
    (((partOf s p).group g).st ≠ 0 → ∃ t, exec (.load p g) s = .next t ∧
      (partOf t p).group g = (partOf s p).group g ∧ ended t Status.busy) ∧
    (((partOf s p).group g).st = 1 → busy = false → ∃ t, exec (.clear p g) s = .next t ∧
      (partOf t p).group g = Group.empty ∧ ended t Status.ok) ∧
    (((partOf s p).group g).st = 1 → busy = true → ∃ t, exec (.clear p g) s = .next t ∧
      (partOf t p).group g = { (partOf s p).group g with st := 2 } ∧ ended t Status.ok) := by
  intro ended busy
  have hwf : (partOk p && decide (g < 64)) = true := by simp [partOk, hp, hg]
  have hrefl : GroupOnly p g s s := ⟨fun _ _ => rfl, rfl, fun _ => rfl, rfl, rfl, rfl⟩
  have loaded {o : Option Group} {s1 : State} (h : loadedGroup s p = (o, s1)) : view (flashAndBolts p) s1 = view (flashAndBolts p) s :=
    (congrArg (fun r : Option Group × State => view (flashAndBolts p) r.2) h).symm.trans (loadedGroup_flashAndBolts s p)
  have clearing (h : ((partOf s p).group g).st = 1) : groupClear s p g =
      groupEnd (drainGroup (putGroup s p g { (partOf s p).group g with st := 2 }) p g) p g Status.ok := by
    simp only [groupClear, hlive, h, bne_self_eq_false, Bool.false_eq_true, if_false]
  have hset := groupOnly_putGroup s p g { (partOf s p).group g with st := 2 }
  refine ⟨fun q s1 hst hload => ?_, fun s1 hst hload => ?_, fun hst => ?_, fun hst hbusy => ?_, fun hst hbusy => ?_⟩
  · have hrun : groupLoad s p g = groupEnd (putGroup s1 p g q) p g Status.ok := by
      simp only [groupLoad, hlive, hst, hload, bne_self_eq_false, Bool.false_eq_true, if_false]
    obtain ⟨hended, hgroup⟩ := groupEnd_ended (status := Status.ok) hg (by decide)
      (groupOnly_trans (groupOnly_of_view (loaded hload)) (groupOnly_putGroup s1 p g q))
    obtain ⟨hq, hseq, hn, hr⟩ := loadedGroup_spec hload
    exact ⟨_, exec_next_of_eq rfl hwf hrun, hgroup.trans (group_putGroup ..), hq, hseq, hn, hr, hended⟩
  · have hrun : groupLoad s p g = groupEnd s1 p g Status.notRun := by
      simp only [groupLoad, hlive, hst, hload, bne_self_eq_false, Bool.false_eq_true, if_false]
    obtain ⟨hended, hgroup⟩ := groupEnd_ended (status := Status.notRun) hg (by decide) (groupOnly_of_view (g := g) (loaded hload))
    exact ⟨_, exec_next_of_eq rfl hwf hrun, hgroup.trans (group_of_view (loaded hload) g), hended⟩
  · have hrun : groupLoad s p g = groupEnd s p g Status.busy := by
      simp only [groupLoad, hlive, bne_self_eq_false, bne_iff_ne, ne_eq, hst, not_false_eq_true, Bool.false_eq_true, if_false, if_true]
    obtain ⟨hended, hgroup⟩ := groupEnd_ended (status := Status.busy) hg (by decide) hrefl
    exact ⟨_, exec_next_of_eq rfl hwf hrun, hgroup, hended⟩
  · have hcolls : ((partOf (putGroup s p g { (partOf s p).group g with st := 2 }) p).colls.any fun k => k.gix == g) = false := by
      rw [hset.colls]
      exact hbusy
    obtain ⟨hdrained, hempty⟩ := drainGroup_free (by rw [group_putGroup]) hcolls
    obtain ⟨hended, hgroup⟩ := groupEnd_ended (status := Status.ok) hg (by decide) (groupOnly_trans hset hdrained)
    exact ⟨_, exec_next_of_eq rfl hwf (clearing hst), hgroup.trans hempty, hended⟩
  · have hcolls : ((partOf (putGroup s p g { (partOf s p).group g with st := 2 }) p).colls.any fun k => k.gix == g) = true := by
      rw [hset.colls]
      exact hbusy
    have hdrain := drainGroup_busy hcolls
    obtain ⟨hended, hgroup⟩ := groupEnd_ended (status := Status.ok) hg (by decide) hset
    refine ⟨_, exec_next_of_eq rfl hwf ((clearing hst).trans (by rw [hdrain])), hgroup.trans (group_putGroup ..), hended⟩

end Sys2Proof.Proofs
end

section
/-! Proofs about collectives: their life and the messages that reach them (R210 to R218). -/

namespace Sys2Proof.Proofs

open Sys2Proof.Machine Sys2Proof.Safety Sys2Proof.Laws

/-! ### Collectives one by one (R210) -/

/-- What the engines of collectives may change: no collective, no register of a core and no store. -/
@[reducible] def byEngine : Field → Bool
  | .freeIx | .out | .parts | .fabric | .wardrobe | .rel | .mregs | .regs _ | .vec _ | .mem _ | .hbm _ => true
  | _ => false

theorem collOf_of_colls {s t : State} {p : Nat} (h : (partOf t p).colls = (partOf s p).colls) (g : Nat) (o : BitVec 16) :
    collOf t p g o = collOf s p g o := by
  rw [collOf, h, collOf]

theorem collOf_of_engine {s t : State} (h : view byEngine t = view byEngine s) (p g : Nat) (o : BitVec 16) :
    collOf t p g o = collOf s p g o :=
  collOf_of_colls (part_of_view Partition.colls h fun _ => rfl) g o

theorem key_of_collOf {s : State} {p g : Nat} {o : BitVec 16} {k : Coll} (h : collOf s p g o = some k) : k.gix = g ∧ k.opseq = o := by
  have hk := List.find?_some h
  simpa using hk

/-- The collective that is put back is found under its own key. -/
theorem collOf_putColl {s : State} {p g : Nat} {o : BitVec 16} {k j : Coll} (h : collOf s p g o = some k) (hg : j.gix = g)
    (ho : j.opseq = o) : collOf (putColl s p j) p g o = some j := by
  obtain ⟨hkg, hko⟩ := key_of_collOf h
  have hsame : (fun x : Coll => x.gix == g && x.opseq == o) ∘ (fun x => if x.gix == j.gix && x.opseq == j.opseq then j else x) =
      fun x => x.gix == g && x.opseq == o := by
    funext x
    simp only [Function.comp_apply, hg, ho]
    by_cases hx : (x.gix == g && x.opseq == o) = true
    · rw [if_pos hx, hg, ho, hx]
      simp
    · rw [if_neg hx]
  rw [collOf, putColl, partOf_onPart, List.find?_map, hsame]
  refine (congrArg (Option.map _) h).trans ?_
  simp [hkg, hko, hg, ho]

/-- Under every other key nothing changes. -/
theorem collOf_putColl_ne {s : State} {p g h : Nat} {o u : BitVec 16} {j : Coll} (hg : j.gix = g) (ho : j.opseq = o)
    (hne : (h, u) ≠ (g, o)) : collOf (putColl s p j) p h u = collOf s p h u := by
  have hneg {x : Coll} (hx : (x.gix == h && x.opseq == u) = true) : ¬ (x.gix == j.gix && x.opseq == j.opseq) = true := by
    intro hx'
    simp only [Bool.and_eq_true, beq_iff_eq] at hx hx'
    exact hne (by rw [← hx.1, ← hx.2, hx'.1, hx'.2, hg, ho])
  have hsame : (fun x : Coll => x.gix == h && x.opseq == u) ∘ (fun x => if x.gix == j.gix && x.opseq == j.opseq then j else x) =
      fun x => x.gix == h && x.opseq == u := by
    funext x
    simp only [Function.comp_apply]
    split
    next hx =>
      have hj : (j.gix == h && j.opseq == u) = false := Bool.eq_false_iff.2 fun hj => hneg hj (by simp)
      have hx' : (x.gix == h && x.opseq == u) = false := Bool.eq_false_iff.2 fun hx' => hneg hx' hx
      rw [hj, hx']
    · rfl
  rw [collOf, putColl, partOf_onPart, List.find?_map, hsame, ← collOf]
  cases hfind : collOf s p h u with
  | none => rfl
  | some k =>
    have hk := hneg (List.find?_some (p := fun x : Coll => x.gix == h && x.opseq == u) hfind)
    simp only [Option.map_some, if_neg hk]

/-- What the work on one collective leaves. -/
structure CollOnly (p g : Nat) (o : BitVec 16) (s t : State) : Prop where
  others : ∀ h u, (h, u) ≠ (g, o) → collOf t p h u = collOf s p h u
  stores : t.stores = s.stores
  cores : t.cores = s.cores
  clusters : t.clusters = s.clusters

theorem collOnly_trans {p g : Nat} {o : BitVec 16} {s t u : State} (h : CollOnly p g o s t) (h' : CollOnly p g o t u) :
    CollOnly p g o s u where
  others a b hab := (h'.others a b hab).trans (h.others a b hab)
  stores := h'.stores.trans h.stores
  cores := h'.cores.trans h.cores
  clusters := h'.clusters.trans h.clusters

theorem collOnly_of_engine {s t : State} (h : view byEngine t = view byEngine s) (p g : Nat) (o : BitVec 16) : CollOnly p g o s t where
  others a b _ := collOf_of_engine h p a b
  stores := stores_of_view h rfl
  cores := cores_of_view h rfl
  clusters := clusters_of_view h rfl

theorem collOnly_putColl {p g : Nat} {o : BitVec 16} (s : State) {k : Coll} (hg : k.gix = g) (ho : k.opseq = o) :
    CollOnly p g o s (putColl s p k) where
  others _ _ hab := collOf_putColl_ne hg ho hab
  stores := rfl
  cores := rfl
  clusters := rfl

/-! ### A collective that ends (R215) -/

/-- A collective with one more status, over. -/
def collEnded (k : Coll) (status : Nat) : Coll := { addStatus k status with ended := true, outq := [] }

/-- The end of a collective: what goes out after it has no effect on collectives. -/
theorem endColl_engine {s : State} {p : Nat} {k : Coll} (status : Nat) (h : k.ended = false) :
    view byEngine (endColl s p k status) = view byEngine (putColl s p (collEnded k status)) := by
  have controls (t : State) (k' : Coll) (kind : Nat) (bs : List Byte) (l : List Nat) :
      view byEngine (l.foldl (fun t r => sendControl t p k' kind bs r) t) = view byEngine t :=
    view_foldl _ _ fun _ _ => sendControl_view _ _ _ _ _ _ rfl rfl
  simp only [endColl, h, Bool.false_eq_true, if_false]
  split
  · exact controls ..
  · exact (view_foldl _ _ fun _ _ => engineWrite_view _ _ _ _ _ _ rfl rfl rfl rfl rfl rfl (fun _ => rfl) (fun _ => rfl)
      (fun _ => rfl) fun _ => rfl).trans (controls ..)

theorem endColl_effects {s : State} {p g : Nat} {o : BitVec 16} {k : Coll} (status : Nat) (hk : collOf s p g o = some k)
    (h : k.ended = false) : collOf (endColl s p k status) p g o = some (collEnded k status) ∧
      CollOnly p g o s (endColl s p k status) := by
  obtain ⟨hg, ho⟩ := key_of_collOf hk
  have hview := endColl_engine (s := s) (p := p) status h
  exact ⟨(collOf_of_engine hview p g o).trans (collOf_putColl hk hg ho),
    collOnly_trans (collOnly_putColl s (k := collEnded k status) hg ho) (collOnly_of_engine hview p g o)⟩

/-! ### What a running collective keeps of itself -/

/-- The key of a collective, and whether it runs or is over. -/
def courseOf (k : Coll) : Nat × BitVec 16 × Bool × Bool := (k.gix, k.opseq, k.running, k.ended)

theorem courseOf_sawPoison (b : Bool) (k : Coll) : courseOf (sawPoison b k) = courseOf k := by
  unfold sawPoison
  split <;> rfl

theorem courseOf_sawOwn (o : OwnTile) (k : Coll) : courseOf (sawOwn o k) = courseOf k := by
  have hp := courseOf_sawPoison o.pois k
  unfold sawOwn
  split
  · exact hp
  · exact hp

theorem courseOf_writeOut (s : State) (p : Nat) (q : Group) (k : Coll) (t : Nat) (pay : List Byte) (col : Collar) :
    courseOf (writeOut s p q k t pay col).2 = courseOf k := by
  unfold writeOut
  dsimp only
  split <;> rfl

theorem courseOf_startReduce (s : State) (p : Nat) (q : Group) (k : Coll) : courseOf (startReduce s p q k).2 = courseOf k := by
  unfold startReduce
  refine List.foldlRecOn (motive := fun r : State × Coll => courseOf r.2 = courseOf k) _ _ rfl fun r hr i _ => ?_
  dsimp only
  generalize ownCarrier r.1 p k.ctx k.desc i = w
  have own : courseOf (sawOwn w.1 r.2) = courseOf k := (courseOf_sawOwn _ _).trans hr
  split
  · exact hr
  · split
    · exact own
    · exact own

theorem courseOf_gather (q : Group) (k : Coll) (t : Nat) (pay col : List Byte) : courseOf (gather q k t pay col) = courseOf k := rfl

theorem courseOf_queued (k : Coll) (l : List CollSend) : courseOf { k with outq := l } = courseOf k := rfl

theorem courseOf_startMove (s : State) (p : Nat) (q : Group) (k : Coll) : courseOf (startMove s p q k).2 = courseOf k := by
  have written (u : State) (o : OwnTile) (j : Coll) (i : Nat) (pay : List Byte) (col : Collar) (h : courseOf j = courseOf k) :
      courseOf (writeOut u p q (sawOwn o j) i pay col).2 = courseOf k :=
    (courseOf_writeOut ..).trans ((courseOf_sawOwn o j).trans h)
  unfold startMove
  extract_lets d u read sg tpb
  split
  · refine List.foldlRecOn (motive := fun r : State × Coll => courseOf r.2 = courseOf k) _ _ rfl fun r hr i _ => ?_
    dsimp only [read]
    rw [courseOf_gather]
    exact written _ _ _ _ _ _ hr
  · refine List.foldlRecOn (motive := fun r : State × Coll => courseOf r.2 = courseOf k) _ _ rfl fun r hr i _ => ?_
    dsimp only [read]
    split
    · exact written _ _ _ _ _ _ hr
    · rw [courseOf_queued]
      exact (courseOf_sawOwn _ _).trans hr

theorem courseOf_ssqAdvance (f : Word) (q : Group) (k : Coll) : courseOf (ssqAdvance f q k) = courseOf k := by
  unfold ssqAdvance
  dsimp only
  repeat' split
  all_goals rfl

theorem courseOf_ssqRoot (q : Group) (k : Coll) : courseOf (ssqRoot q k) = courseOf k := by
  unfold ssqRoot
  split
  · dsimp only
    split <;> rfl
  · rfl

theorem courseOf_pump (p : Nat) (q : Group) (s : State) (k : Coll) : courseOf (pump p q s k).2 = courseOf k := rfl

/-! ### The life of a collective (R210, R212, R215 to R217) -/

/-- A collective whose key no other one has joins the list as it is. -/
theorem colls_putColl_new {s : State} {p : Nat} {k : Coll} {l : List Coll} (h : (partOf s p).colls = l ++ [k])
    (hnew : l.find? (fun j => j.gix == k.gix && j.opseq == k.opseq) = none) : (partOf (putColl s p k) p).colls = l ++ [k] := by
  have hold : l.map (fun j => if j.gix == k.gix && j.opseq == k.opseq then k else j) = l := by
    refine (List.map_congr_left fun j hj => ?_).trans (List.map_id l)
    rw [if_neg (List.find?_eq_none.1 hnew j hj)]
    rfl
  rw [putColl, partOf_onPart, h, List.map_append, hold]
  simp

/-- A descriptor that is accepted, of a collective that no message came for. -/
theorem collSubmit_effects {s : State} {p c h cli : Nat} {desc : List Byte}
    (hcli : (ctxClusters (partOf s p) c).idxOf? h = some cli) (hlive : (partOf s p).ptstate = 1)
    (hroom : (partOf s p).colls.length < 64)
    (hruns : collRuns (partOf s p) ((partOf s p).group (Cd.gix (slice desc 0 64))) (slice desc 0 64) = true)
    (hearly : (((partOf s p).group (Cd.gix (slice desc 0 64))).early.all fun e =>
      e.opseq != ((partOf s p).group (Cd.gix (slice desc 0 64))).opseq) = true)
    (hnew : collOf s p (Cd.gix (slice desc 0 64)) ((partOf s p).group (Cd.gix (slice desc 0 64))).opseq = none) :
    let d := slice desc 0 64
    let q := (partOf s p).group (Cd.gix d)
    let t := collSubmit s p c h desc
    ∃ k, (partOf t p).colls = (partOf s p).colls ++ [k] ∧ k.gix = Cd.gix d ∧ k.opseq = q.opseq ∧ k.ctx = c ∧ k.cluster = cli ∧
      k.desc = d ∧ k.running = false ∧ k.ended = false ∧ ((partOf t p).group (Cd.gix d)).opseq = q.opseq + 1 ∧ t.out = s.out ∧
      t.stores = s.stores ∧ t.cores = s.cores ∧ t.clusters = s.clusters := by
  intro d q t
  obtain ⟨k, hk⟩ : ∃ k : Coll, k =
      { gix := Cd.gix d, opseq := q.opseq, ctx := c, cluster := cli, desc := d, running := false, ready := []
        refused := false, acc := [], fin := [], pois := [], outq := [], statuses := [], cflags := 0, ssqOwn := none
        ssqIn := [], ssqTot := none, unacked := 0, aborted := false, ended := false } := ⟨_, rfl⟩
  obtain ⟨s1, hs1⟩ : ∃ s1, s1 = putPart s p { partOf s p with colls := (partOf s p).colls ++ [k] } := ⟨_, rfl⟩
  obtain ⟨q1, hq1⟩ : ∃ q1 : Group, q1 = { q with opseq := q.opseq + 1 } := ⟨_, rfl⟩
  obtain ⟨q2, hq2⟩ : ∃ q2 : Group, q2 = { q1 with early := q1.early.filter fun e => e.opseq != k.opseq } := ⟨_, rfl⟩
  have hmine : (q1.early.filter fun e => e.opseq == k.opseq) = [] := by
    refine List.filter_eq_nil_iff.2 fun e he => ?_
    rw [hq1] at he
    have := List.all_eq_true.1 hearly e he
    rw [hk]
    simpa using this
  have ht : t = putColl (putGroup (putGroup s1 p (Cd.gix d) q1) p (Cd.gix d) q2) p k := by
    have hsub : t = takeEarly (putGroup s1 p (Cd.gix d) q1) p q1 k := by
      rw [hs1, hq1, hk]
      simp only [t, collSubmit, hcli, hlive, hruns, bne_self_eq_false, Bool.false_or, decide_eq_true_eq, Nat.not_le.2 hroom,
        if_false, if_true, Bool.not_true, d, q]
    have hready : { k with ready := [] } = k := by rw [hk]
    rw [hsub, takeEarly, hmine]
    simp only [List.any_nil, Bool.false_eq_true, if_false, List.filter_nil, List.map_nil, hready, ← hq2]
    rw [hk]
  clear_value t
  have hcolls : (partOf (putGroup (putGroup s1 p (Cd.gix d) q1) p (Cd.gix d) q2) p).colls = (partOf s p).colls ++ [k] := by
    rw [(groupOnly_putGroup ..).colls, (groupOnly_putGroup ..).colls, hs1, partOf_putPart]
  refine ⟨k, ?_, ?_⟩
  · rw [ht]
    refine colls_putColl_new hcolls ?_
    rw [hk]
    exact hnew
  · have hgroup : (partOf t p).group (Cd.gix d) = q2 := by
      rw [ht, putColl, partOf_onPart]
      exact group_putGroup ..
    have hseq : ((partOf t p).group (Cd.gix d)).opseq = q.opseq + 1 := by rw [hgroup, hq2, hq1]
    have hrest : t.out = s.out ∧ t.stores = s.stores ∧ t.cores = s.cores ∧ t.clusters = s.clusters := by
      rw [ht, hs1]
      exact ⟨rfl, rfl, rfl, rfl⟩
    rw [hk]
    exact ⟨rfl, rfl, rfl, rfl, rfl, rfl, rfl, hseq, hrest⟩

theorem groupOnly_drainGroup (s : State) (p g : Nat) : GroupOnly p g s (drainGroup s p g) := by
  have hrefl : GroupOnly p g s s := ⟨fun _ _ => rfl, rfl, fun _ => rfl, rfl, rfl, rfl⟩
  have drained : GroupOnly p g s (layoutDrain (layoutDrain (putGroup s p g .empty) p 0) p 1) :=
    groupOnly_trans (groupOnly_putGroup s p g .empty) (groupOnly_of_view
      ((layoutDrain_view _ _ _ rfl rfl rfl rfl).trans (layoutDrain_view _ _ _ rfl rfl rfl rfl)))
  unfold drainGroup
  dsimp only
  split
  · exact drained
  · exact hrefl

/-- A collective that is over leaves the list. -/
theorem retireColl_effects {s : State} {p g : Nat} {o : BitVec 16} {k : Coll} (hk : collOf s p g o = some k)
    (hsem : Cd.semen k.desc = false) : let t := retireColl s p k
    collOf t p g o = none ∧ (∀ h u, (h, u) ≠ (g, o) → collOf t p h u = collOf s p h u) ∧ sameCores s t ∧ t.clusters = s.clusters := by
  intro t
  obtain ⟨hg, ho⟩ := key_of_collOf hk
  obtain ⟨s1, hs1⟩ : ∃ s1, s1 = devWrite s p (Cd.crec k.desc) (collRecord k) := ⟨_, rfl⟩
  obtain ⟨s3, hs3⟩ : ∃ s3, s3 = onPart s1 p fun x =>
    { x with colls := x.colls.filter fun j => !(j.gix == k.gix && j.opseq == k.opseq) } := ⟨_, rfl⟩
  have ht : t = drainGroup s3 p k.gix := by
    rw [hs3, hs1]
    simp only [t, retireColl, hsem, Bool.false_eq_true, if_false]
  clear_value t
  have hdrain := groupOnly_drainGroup s3 p k.gix
  rw [← ht] at hdrain
  have hbeside : Beside p s s1 := by rw [hs1]; exact beside_devWrite ..
  have hcolls1 : (partOf s1 p).colls = (partOf s p).colls := by
    rw [hs1]
    exact part_of_view Partition.colls (devWrite_deviceAccess s p _ _) fun _ => rfl
  have hcolls : (partOf t p).colls = (partOf s p).colls.filter fun j => !(j.gix == g && j.opseq == o) := by
    rw [hdrain.colls, hs3, partOf_onPart, ← hcolls1, hg, ho]
  refine ⟨?_, fun h u hne => ?_, ?_, ?_⟩
  · rw [collOf, hcolls]
    refine List.find?_eq_none.2 fun j hj => ?_
    have hgone := (List.mem_filter.1 hj).2
    rw [Bool.not_eq_true'] at hgone
    rw [hgone]
    exact Bool.false_ne_true
  · rw [collOf, hcolls, List.find?_filter, collOf]
    refine congrArg (fun f => (partOf s p).colls.find? f) (funext fun j => ?_)
    by_cases hj : (j.gix == h && j.opseq == u) = true
    · have hjk : (j.gix == g && j.opseq == o) = false := by
        refine Bool.eq_false_iff.2 fun hj' => ?_
        simp only [Bool.and_eq_true, beq_iff_eq] at hj hj'
        exact hne (by rw [← hj.1, ← hj.2, hj'.1, hj'.2])
      rw [hj, hjk]
      rfl
    · simp [hj]
  · refine sameCores_trans hbeside.cores (sameCores_of_cores_eq ?_)
    rw [hdrain.cores, hs3]
    rfl
  · rw [hdrain.clusters, hs3]
    exact hbeside.clusters

/-- The start of a collective: what its engines and messages do, and then the collective as it runs. -/
theorem collStart_effects {s : State} {p g : Nat} {o : BitVec 16} {k : Coll} (hk : collOf s p g o = some k)
    (hrun : k.running = false) (hend : k.ended = false) (habort : k.aborted = false)
    (hfirst : ((partOf s p).colls.find? fun j => !j.running && !j.ended) = some k) (hfree : enginesBusy s < 8)
    (hturn : nextServed s = some p) : ∃ j, collOf (collStart s p g o) p g o = some j ∧ j.running = true ∧ j.ended = false ∧
      CollOnly p g o s (collStart s p g o) := by
  obtain ⟨hg, ho⟩ := key_of_collOf hk
  obtain ⟨q, hq⟩ : ∃ q, q = (partOf s p).group g := ⟨_, rfl⟩
  obtain ⟨k1, hk1⟩ : ∃ k1 : Coll, k1 = { k with running := true } := ⟨_, rfl⟩
  obtain ⟨s0, hs0⟩ : ∃ s0, s0 = putColl (serveTurn s p) p k1 := ⟨_, rfl⟩
  obtain ⟨s1, hs1⟩ : ∃ s1, s1 = (partners q).foldl (fun t r => sendControl t p k1 2 (readyBytes k1.desc) r) s0 := ⟨_, rfl⟩
  obtain ⟨r, hr⟩ : ∃ r, r = if Cd.reduces k1.desc then startReduce s1 p q k1 else startMove s1 p q k1 := ⟨_, rfl⟩
  obtain ⟨k2, hk2⟩ : ∃ k2, k2 = ssqRoot q (ssqAdvance (freeAt r.1 0) q { r.2 with unacked := r.2.unacked + (partners q).length }) :=
    ⟨_, rfl⟩
  obtain ⟨r2, hr2⟩ : ∃ r2, r2 = pump p q (spend r.1 1) k2 := ⟨_, rfl⟩
  have ht : collStart s p g o = putColl r2.1 p r2.2 := by
    have hcond : (k.running || k.ended || k.aborted ||
        !(((partOf s p).colls.find? fun j => !j.running && !j.ended) == some k) || decide (8 ≤ enginesBusy s) ||
        nextServed s != some p) = false := by
      rw [hrun, hend, habort, hfirst, hturn, decide_eq_false (by omega)]
      simp
    rw [hr2, hk2, hr, hs1, hs0, hk1, hq]
    simp only [collStart, hk, hcond, Bool.false_eq_true, if_false]
  have hview : view byEngine r2.1 = view byEngine s0 := by
    have hsent : view byEngine s1 = view byEngine s0 := by
      rw [hs1]
      exact view_foldl _ _ fun _ _ => sendControl_view _ _ _ _ _ _ rfl rfl
    have hbegun : view byEngine r.1 = view byEngine s1 := by
      rw [hr]
      split
      · exact startReduce_view _ _ _ _ rfl rfl rfl rfl rfl rfl (fun _ => rfl) (fun _ => rfl) (fun _ => rfl) fun _ => rfl
      · exact startMove_view _ _ _ _ rfl rfl rfl rfl rfl rfl (fun _ => rfl) (fun _ => rfl) (fun _ => rfl) fun _ => rfl
    rw [hr2]
    exact (pump_view _ _ _ _ rfl rfl).trans ((spend_view _ _ rfl).trans (hbegun.trans hsent))
  have hcourse : courseOf r2.2 = courseOf k1 := by
    have hbegun : courseOf r.2 = courseOf k1 := by
      rw [hr]
      split
      · exact courseOf_startReduce ..
      · exact courseOf_startMove ..
    rw [hr2, courseOf_pump, hk2, courseOf_ssqRoot, courseOf_ssqAdvance]
    exact hbegun
  simp only [courseOf, hk1, hend, Prod.mk.injEq] at hcourse
  obtain ⟨hgix, hseq, hruns, hends⟩ := hcourse
  have hput : collOf s0 p g o = some k1 := by
    rw [hs0]
    refine collOf_putColl (s := serveTurn s p) (k := k) hk ?_ ?_
    · rw [hk1]; exact hg
    · rw [hk1]; exact ho
  rw [ht]
  refine ⟨r2.2, collOf_putColl ((collOf_of_engine hview p g o).trans hput) (hgix.trans hg) (hseq.trans ho), hruns, hends, ?_⟩
  have hbefore : CollOnly p g o s s0 := by
    rw [hs0]
    refine collOnly_trans (t := serveTurn s p) ⟨fun _ _ _ => rfl, rfl, rfl, rfl⟩ (collOnly_putColl _ ?_ ?_)
    · rw [hk1]; exact hg
    · rw [hk1]; exact ho
  exact collOnly_trans hbefore (collOnly_trans (collOnly_of_engine hview p g o)
    (collOnly_putColl _ (hgix.trans hg) (hseq.trans ho)))

/-- Settles O32, by the group commands and the life of one collective. -/
theorem groupsAndCollectives : Obligations.GroupsAndCollectives := by
  unfold Obligations.GroupsAndCollectives
  refine ⟨fun s p g hp hg hlive => groupCommands hp hg hlive, fun s p c h cli desc hp hc hh => ?_, fun s p g o k hp hg hk => ?_⟩
  · intro d q hcli hlive hroom hruns hearly hnew
    obtain ⟨j, heffects⟩ := collSubmit_effects hcli hlive hroom hruns hearly hnew
    exact ⟨_, j, exec_next_of_eq rfl (by simp [Instr.wf, ctxOk, clusterOk, hp, hc, hh]) rfl, heffects⟩
  · intro others
    have hwf : (partOk p && decide (g < 64)) = true := by simp [partOk, hp, hg]
    refine ⟨fun hrun hend habort hfirst hfree hturn => ?_, fun hend hlim => ?_, fun hend hsem => ?_⟩
    · obtain ⟨j, hj, hruns, hends, honly⟩ := collStart_effects hk hrun hend habort hfirst hfree hturn
      refine ⟨_, exec_next_of_eq rfl hwf rfl, ?_, ⟨honly.others, sameCores_of_cores_eq honly.cores⟩, honly.stores, honly.clusters⟩
      rw [hj, Option.map_some, hruns, hends]
    · have hact : wlimTimeout s p g o = endColl s p k Status.timeout := by
        simp only [wlimTimeout, hk, if_neg hlim]
      obtain ⟨hj, honly⟩ := endColl_effects Status.timeout hk hend
      refine ⟨_, exec_next_of_eq rfl hwf hact, ?_, ⟨honly.others, sameCores_of_cores_eq honly.cores⟩, honly.stores, honly.clusters⟩
      rw [hj]
      rfl
    · have hact : collComplete s p g o = retireColl s p k := by
        simp only [collComplete, hk, hend, Bool.true_or, if_true]
      obtain ⟨hgone, hothers, hcores, hclusters⟩ := retireColl_effects hk hsem
      exact ⟨_, exec_next_of_eq rfl hwf hact, hgone, ⟨hothers, hcores⟩, hclusters⟩

/-! ### A collective that sends what it can (R213) -/

theorem mem_putColl (s : State) (p : Nat) (k : Coll) (c : Nat) : (partOf (putColl s p k) c).mem = (partOf s c).mem := by
  by_cases hc : c = p
  · rw [hc, putColl, partOf_onPart]
  · rw [putColl, partOf_onPart_ne _ _ _ _ hc]

/-- Of a collective that sends only its queue and its count of messages change. -/
theorem pump_coll (p : Nat) (q : Group) (s : State) (k : Coll) :
    ∃ l n, (pump p q s k).2 = { k with outq := l, unacked := n } := ⟨_, _, rfl⟩

/-- A collective that is changed, and then sends: it stands in the list as it is then, and partitions do not differ but by it. -/
theorem sent_effects {s : State} {p g : Nat} {o : BitVec 16} {k j : Coll} (q : Group) (hk : collOf s p g o = some k)
    (hg : j.gix = g) (ho : j.opseq = o) : let t := putColl (pump p q s j).1 p (pump p q s j).2
    (∃ l n, collOf t p g o = some { j with outq := l, unacked := n }) ∧ CollOnly p g o s t ∧
      ∀ c, (partOf t c).mem = (partOf s c).mem := by
  intro t
  have hengine : view byEngine (pump p q s j).1 = view byEngine s := pump_view _ _ _ _ rfl rfl
  have hmessages : view messages (pump p q s j).1 = view messages s := pump_view _ _ _ _ rfl rfl
  refine ⟨⟨_, _, collOf_putColl ((collOf_of_engine hengine p g o).trans hk) hg ho⟩,
    collOnly_trans (collOnly_of_engine hengine p g o) (collOnly_putColl (pump p q s j).1 (k := (pump p q s j).2) hg ho), fun c => ?_⟩
  rw [mem_putColl, partOf_of_view hmessages ⟨rfl, rfl, rfl, rfl, rfl⟩]

/-! ### Messages that reach a collective (R213, R215) -/

/-- A message that is taken and acknowledged: what its effect starts from. -/
theorem acked_effects (s : State) (m : Msg) (st : Nat) : view messages (ackColl (takeInbox s m) m st) = view messages s :=
  ackColl_view (takeInbox s m) m st rfl rfl

theorem collOf_of_messages {s t : State} (h : view messages t = view messages s) (p g : Nat) (o : BitVec 16) :
    collOf t p g o = collOf s p g o := by
  rw [collOf, partOf_of_view h ⟨rfl, rfl, rfl, rfl, rfl⟩, collOf]

theorem collOnly_of_messages {s t : State} (h : view messages t = view messages s) (p g : Nat) (o : BitVec 16) :
    CollOnly p g o s t where
  others a b _ := collOf_of_messages h p a b
  stores := stores_of_view h rfl
  cores := cores_of_view h rfl
  clusters := clusters_of_view h rfl

/-- A READY with the descriptor's fields makes its rank ready. -/
theorem takeReady_effects {s : State} {m : Msg} {p r : Nat} {k : Coll} (hr : rankOf ((partOf s p).group (Ca.gix m)) m.src = some r)
    (hk : collOf s p (Ca.gix m) (Ca.opseq m) = some k) (hpay : m.payload = readyBytes k.desc) :
    let t := takeReady (takeInbox s m) p m
    ∃ j, collOf t p (Ca.gix m) (Ca.opseq m) = some j ∧ r ∈ j.ready ∧ (∀ u ∈ k.ready, u ∈ j.ready) ∧ j.desc = k.desc ∧
      j.ended = k.ended ∧ j.statuses = k.statuses ∧ CollOnly p (Ca.gix m) (Ca.opseq m) s t := by
  intro t
  obtain ⟨hg, ho⟩ := key_of_collOf hk
  have hmsg := acked_effects s m Status.ok
  obtain ⟨s1, hs1⟩ : ∃ s1, s1 = ackColl (takeInbox s m) m Status.ok := ⟨_, rfl⟩
  rw [← hs1] at hmsg
  have hk1 : collOf s1 p (Ca.gix m) (Ca.opseq m) = some k := (collOf_of_messages hmsg ..).trans hk
  obtain ⟨j, hj⟩ : ∃ j : Coll, j = { k with ready := if k.ready.contains r then k.ready else k.ready ++ [r] } := ⟨_, rfl⟩
  have hr' : rankOf ((partOf (takeInbox s m) p).group (Ca.gix m)) m.src = some r := hr
  have ht : t = putColl (pump p ((partOf s1 p).group (Ca.gix m)) s1 j).1 p (pump p ((partOf s1 p).group (Ca.gix m)) s1 j).2 := by
    have hsame : (m.payload != readyBytes k.desc) = false := by rw [hpay]; simp
    simp only [t, takeReady, ← hs1, hr', hk1, hsame, onColl, hj, Bool.false_eq_true, if_false]
  have hready : r ∈ j.ready ∧ ∀ u ∈ k.ready, u ∈ j.ready := by
    rw [hj]
    dsimp only
    split
    next hin => exact ⟨List.contains_iff_mem.1 hin, fun _ h => h⟩
    · exact ⟨List.mem_append_right _ (List.mem_singleton_self r), fun _ h => List.mem_append_left _ h⟩
  obtain ⟨⟨l, n, hfound⟩, honly, -⟩ := sent_effects (p := p) (j := j) ((partOf s1 p).group (Ca.gix m)) hk1 (by rw [hj]; exact hg)
    (by rw [hj]; exact ho)
  rw [← ht] at hfound honly
  exact ⟨_, hfound, hready.1, hready.2, by rw [hj], by rw [hj], by rw [hj], collOnly_trans (collOnly_of_messages hmsg ..) honly⟩

/-- An ABORT ends a collective that is not over. -/
theorem takeAbort_effects {s : State} {m : Msg} {p : Nat} {k : Coll} (hk : collOf s p (Ca.gix m) (Ca.opseq m) = some k)
    (hend : k.ended = false) : let t := takeAbort (takeInbox s m) p m
    collOf t p (Ca.gix m) (Ca.opseq m) = some (collEnded k Status.aborted) ∧ CollOnly p (Ca.gix m) (Ca.opseq m) s t := by
  intro t
  have hmsg := acked_effects s m Status.ok
  obtain ⟨s1, hs1⟩ : ∃ s1, s1 = ackColl (takeInbox s m) m Status.ok := ⟨_, rfl⟩
  rw [← hs1] at hmsg
  have hk1 : collOf s1 p (Ca.gix m) (Ca.opseq m) = some k := (collOf_of_messages hmsg ..).trans hk
  have ht : t = endColl s1 p k Status.aborted := by simp only [t, takeAbort, ← hs1, hk1]
  obtain ⟨hj, honly⟩ := endColl_effects Status.aborted hk1 hend
  rw [ht]
  exact ⟨hj, collOnly_trans (collOnly_of_messages hmsg ..) honly⟩

/-- A tile of a rank under DIRECT while another member's is missing: it is kept. -/
theorem takeDataR_effects {s : State} {m : Msg} {p r u : Nat} {k : Coll}
    (hr : rankOf ((partOf s p).group (Ca.gix m)) m.src = some r) (hk : collOf s p (Ca.gix m) (Ca.opseq m) = some k)
    (hrun : k.running = true) (hend : k.ended = false) (habort : k.aborted = false)
    (halg : ((partOf s p).group (Ca.gix m)).alg = 2) (hred : Cd.reduces k.desc = true) (hidx : Ca.idx m < Cd.carriers k.desc)
    (hu : u < ((partOf s p).group (Ca.gix m)).n) (hur : u ≠ r) (hmiss : sget [] k.acc (accKey (Ca.idx m) u) = []) :
    let t := takeDataR none (takeInbox s m) p m
    ∃ j, collOf t p (Ca.gix m) (Ca.opseq m) = some j ∧ sget [] j.acc (accKey (Ca.idx m) r) = carrierRead k.desc m.payload ∧
      (∀ a, a ≠ accKey (Ca.idx m) r → sget [] j.acc a = sget [] k.acc a) ∧ j.fin = k.fin ∧
      CollOnly p (Ca.gix m) (Ca.opseq m) s t := by
  intro t
  obtain ⟨hg, ho⟩ := key_of_collOf hk
  obtain ⟨q, hq⟩ : ∃ q, q = (partOf s p).group (Ca.gix m) := ⟨_, rfl⟩
  rw [← hq] at hr halg hu
  obtain ⟨fl, hfl⟩ : ∃ fl, fl = arrivalFails (takeInbox s m) p none m.payload (collarOf m.collar) := ⟨_, rfl⟩
  obtain ⟨s1, hs1⟩ : ∃ s1, s1 = ackColl fl.2 m Status.ok := ⟨_, rfl⟩
  have hview : view byEngine s1 = view byEngine s := by
    have hinbox : view byEngine (takeInbox s m) = view byEngine s := takeInbox_view _ _ rfl
    rw [hs1, hfl]
    exact (ackColl_view _ _ _ rfl rfl).trans ((arrivalFails_view _ _ _ _ _ rfl rfl rfl (fun _ => rfl) fun _ => rfl).trans hinbox)
  have hk1 : collOf s1 p (Ca.gix m) (Ca.opseq m) = some k := (collOf_of_engine hview ..).trans hk
  obtain ⟨j, hj⟩ : ∃ j : Coll, j = { k with
      acc := sset [] k.acc (accKey (Ca.idx m) r) (carrierRead k.desc m.payload)
      pois := if (fl.1 || (collarOf m.collar).poison) && !k.pois.contains (Ca.idx m) then k.pois ++ [Ca.idx m] else k.pois } :=
    ⟨_, rfl⟩
  have hacc : j.acc = sset [] k.acc (accKey (Ca.idx m) r) (carrierRead k.desc m.payload) := by rw [hj]
  have hothers (a : Nat) (ha : a ≠ accKey (Ca.idx m) r) : sget [] j.acc a = sget [] k.acc a := by
    rw [hacc, sget_sset_ne _ _ _ _ _ _ ha]
  have hfew : ¬ (((List.range q.n).map fun i => sget [] j.acc (accKey (Ca.idx m) i)).filter (· != [])).length = q.n := by
    have hgap : sget [] j.acc (accKey (Ca.idx m) u) = [] := by
      rw [hothers _ (by simp only [accKey]; omega), hmiss]
    have hlt := List.length_filter_lt_length_iff_exists (p := (· != []))
      (l := (List.range q.n).map fun i => sget [] j.acc (accKey (Ca.idx m) i)) |>.2
      ⟨_, List.mem_map.2 ⟨u, List.mem_range.2 hu, rfl⟩, by rw [hgap]; simp⟩
    simp only [List.length_map, List.length_range] at hlt
    omega
  have ht : t = putColl s1 p j := by
    have hq' : (partOf (takeInbox s m) p).group (Ca.gix m) = q := hq.symm
    have hgo : (!k.running || k.ended || k.aborted || !Cd.reduces k.desc || decide (Cd.carriers k.desc ≤ Ca.idx m)) = false := by
      rw [hrun, hend, habort, hred, decide_eq_false (by omega)]
      rfl
    rw [hj] at hfew
    simp only [t, takeDataR, ← hfl, ← hs1, hk1, hq', hr, hgo, halg, if_neg hfew, Bool.false_eq_true, if_false, if_true, hj]
  have hjg : j.gix = Ca.gix m := by rw [hj]; exact hg
  have hjo : j.opseq = Ca.opseq m := by rw [hj]; exact ho
  rw [ht]
  refine ⟨j, collOf_putColl hk1 hjg hjo, by rw [hacc, sget_sset], hothers, by rw [hj],
    collOnly_trans (collOnly_of_engine hview ..) (collOnly_putColl s1 hjg hjo)⟩

/-- A pair that reaches a rank other than 0 under DIRECT is the total (R277). -/
theorem takePair_effects {s : State} {m : Msg} {p r : Nat} {k : Coll}
    (hr : rankOf ((partOf s p).group (Ca.gix m)) m.src = some r) (hk : collOf s p (Ca.gix m) (Ca.opseq m) = some k)
    (hrun : k.running = true) (hend : k.ended = false) (habort : k.aborted = false)
    (halg : ((partOf s p).group (Ca.gix m)).alg = 2) (hcol : m.col = false) (hrank : ((partOf s p).group (Ca.gix m)).rank ≠ 0) :
    let t := takeDataG none (takeInbox s m) p m
    ∃ j, collOf t p (Ca.gix m) (Ca.opseq m) = some j ∧
      j.ssqTot = some (BitVec.ofNat 32 (leAt m.payload 0 4), BitVec.ofNat 32 (leAt m.payload 4 4)) ∧
      j.fin = k.fin ∧ j.acc = k.acc ∧ CollOnly p (Ca.gix m) (Ca.opseq m) s t := by
  intro t
  obtain ⟨hg, ho⟩ := key_of_collOf hk
  obtain ⟨q, hq⟩ : ∃ q, q = (partOf s p).group (Ca.gix m) := ⟨_, rfl⟩
  rw [← hq] at hr halg hrank
  have hmsg := acked_effects s m Status.ok
  obtain ⟨s1, hs1⟩ : ∃ s1, s1 = ackColl (takeInbox s m) m Status.ok := ⟨_, rfl⟩
  rw [← hs1] at hmsg
  have hk1 : collOf s1 p (Ca.gix m) (Ca.opseq m) = some k := (collOf_of_messages hmsg ..).trans hk
  obtain ⟨x, hx⟩ : ∃ x, x = (BitVec.ofNat 32 (leAt m.payload 0 4), BitVec.ofNat 32 (leAt m.payload 4 4)) := ⟨_, rfl⟩
  obtain ⟨j, hj⟩ : ∃ j : Coll, j = { k with ssqTot := some x } := ⟨_, rfl⟩
  have ht : t = putColl (pump p q s1 j).1 p (pump p q s1 j).2 := by
    have hq' : (partOf (takeInbox s m) p).group (Ca.gix m) = q := hq.symm
    have hgo : (!k.running || k.ended || k.aborted) = false := by rw [hrun, hend, habort]; rfl
    have hpair : ssqTake q k r x = j := by rw [ssqTake, if_pos halg, if_neg hrank, hj]
    simp only [t, takeDataG, ← hs1, hk1, hq', hr, hgo, hcol, ← hx, hpair, Bool.false_eq_true, if_false]
  obtain ⟨⟨l, n, hfound⟩, honly, -⟩ := sent_effects (p := p) (j := j) q hk1 (by rw [hj]; exact hg) (by rw [hj]; exact ho)
  rw [← ht] at hfound honly
  exact ⟨_, hfound, by rw [hj, hx], by rw [hj], by rw [hj], collOnly_trans (collOnly_of_messages hmsg ..) honly⟩

/-! ### A gathered tile (R206, R211) -/

/-- What a collective may address depends on partitions and clusters only. -/
theorem ctxMay_congr {s t : State} (hparts : t.parts = s.parts) (hclusters : t.clusters = s.clusters) (p c a : Nat) :
    ctxMay t p c a = ctxMay s p c a := by
  have hpart : partOf t p = partOf s p := by rw [partOf, hparts, partOf]
  have hclus (h : Nat) : clusOf t h = clusOf s h := by rw [clusOf, hclusters, clusOf]
  simp only [ctxMay, hpart, hclus]

/-- Whether a bolt can be made ready depends on partitions and flash only. -/
theorem readyWrite_isSome_congr {s t : State} (hparts : t.parts = s.parts) (hw : t.wardrobe = s.wardrobe) (p b : Nat) :
    (readyWrite t p b).isSome = (readyWrite s p b).isSome := by
  have hpart : partOf t p = partOf s p := by rw [partOf, hparts, partOf]
  have hfree : (freeFrame t p b).isSome = (freeFrame s p b).isSome := by
    rw [freeFrame_isSome, freeFrame_isSome, hpart]
    simp only [victim, flashWritable, hpart, hw]
  unfold readyWrite
  rw [hpart]
  cases ((partOf s p).bolt b).st with
  | zero | flash => exact (Option.isSome_map.trans hfree).trans Option.isSome_map.symm
  | hbmDirty | hbmClean | out | in_ => rfl

/-- A tile that an engine writes into a bolt that is there. -/
theorem engineWrite_ready {s u : State} {p c a : Nat} (pay : List Byte) (col : Collar) (hmay : ctxMay s p c a = true)
    (hbase : inBase (partOf s p) a = false) (hhere : stalls (partOf s p) ((a - boltBase) / boltSize) = false)
    (hready : readyWrite s p ((a - boltBase) / boltSize) = some u) :
    engineWrite s p c a pay col = (onPart u p fun x => putTile x ((a - boltBase) / 4096) pay col, true) := by
  have hfetch : fetchNow s p ((a - boltBase) / boltSize) = some s := by
    rw [fetchNow, hhere]
    rfl
  have heng : engineReady s p ((a - boltBase) / boltSize) = some u := by
    rw [engineReady, hfetch]
    exact hready
  simp only [engineWrite, hmay, hbase, heng, Bool.not_false, Bool.and_self, if_true]

/-- A sound tile of an AG that stands at its place, and goes on. -/
theorem takeTile_gathered {s u : State} {p r i a : Nat} {q : Group} {k : Coll} {pay : List Byte} {col : Collar} {idx : Nat}
    (hop : Cd.op k.desc = 1) (hi : i = idxTile (Cd.bolts k.desc * 16) idx (fun b =>
      !k.fin.contains b && comesFrom q r (tileWay q k.desc b).1 (tileWay q k.desc b).2)) (ha : a = dstAddr q k.desc i)
    (hcrc : crcOk pay col = true) (hclean : collarClean col = true) (hpoison : col.poison = false)
    (hwrite : engineWrite s p k.ctx a pay col = (u, true)) : takeTile s p q k r idx pay col =
      (u, gather q { k with fin := if k.fin.contains i then k.fin else k.fin ++ [i] } i pay (toLE 16 col.toNat)) := by
  have hsound : sawPoison (col.poison || !crcOk pay col || !collarClean col) k = k := by
    rw [hpoison, hcrc, hclean]
    rfl
  have hop3 : ¬ Cd.op k.desc = 3 := by omega
  have hout : writeOut s p q k i pay col = (u, { k with fin := if k.fin.contains i then k.fin else k.fin ++ [i] }) := by
    rw [writeOut, ← ha, hwrite]
    rfl
  simp only [takeTile, hsound, if_neg hop3, ← hi, hout]

/-- A gathered tile stands at its place in the destination. -/
theorem takeGathered_effects {s : State} {m : Msg} {p r i a : Nat} {k : Coll}
    (hr : rankOf ((partOf s p).group (Ca.gix m)) m.src = some r) (hk : collOf s p (Ca.gix m) (Ca.opseq m) = some k)
    (hrun : k.running = true) (hend : k.ended = false) (habort : k.aborted = false) (hcol : m.col = true)
    (hop : Cd.op k.desc = 1) (hlen : m.payload.length = 4096)
    (hi : i = idxTile (Cd.bolts k.desc * 16) (Ca.idx m) (fun b => !k.fin.contains b &&
      comesFrom ((partOf s p).group (Ca.gix m)) r (tileWay ((partOf s p).group (Ca.gix m)) k.desc b).1
        (tileWay ((partOf s p).group (Ca.gix m)) k.desc b).2))
    (ha : a = dstAddr ((partOf s p).group (Ca.gix m)) k.desc i) (hmay : ctxMay s p k.ctx a = true)
    (hbase : inBase (partOf s p) a = false) (hlow : boltBase ≤ a) (hal : a % 4096 = 0)
    (hcrc : crcOk m.payload (collarOf m.collar) = true) (hclean : collarClean (collarOf m.collar) = true)
    (hpoison : (collarOf m.collar).poison = false) (hhere : stalls (partOf s p) ((a - boltBase) / boltSize) = false)
    (hready : (readyWrite s p ((a - boltBase) / boltSize)).isSome = true) :
    let t := takeDataG none (takeInbox s m) p m
    ∃ j, collOf t p (Ca.gix m) (Ca.opseq m) = some j ∧ i ∈ j.fin ∧ j.statuses = k.statuses ∧
      tileBytes (partOf t p) ((a - boltBase) / 4096) = m.payload ∧
      (∀ b, b < a - boltBase ∨ a - boltBase + 4096 ≤ b → mget (partOf t p).mem b = mget (partOf s p).mem b) ∧
      CollOnly p (Ca.gix m) (Ca.opseq m) s t := by
  intro t
  obtain ⟨hg, ho⟩ := key_of_collOf hk
  obtain ⟨q, hq⟩ : ∃ q, q = (partOf s p).group (Ca.gix m) := ⟨_, rfl⟩
  rw [← hq] at hr hi ha
  have hmsg := acked_effects s m Status.ok
  obtain ⟨s1, hs1⟩ : ∃ s1, s1 = ackColl (takeInbox s m) m Status.ok := ⟨_, rfl⟩
  rw [← hs1] at hmsg
  have hk1 : collOf s1 p (Ca.gix m) (Ca.opseq m) = some k := (collOf_of_messages hmsg ..).trans hk
  have hpart : partOf s1 p = partOf s p := partOf_of_view hmsg ⟨rfl, rfl, rfl, rfl, rfl⟩
  have hparts : s1.parts = s.parts := parts_of_view hmsg rfl
  obtain ⟨u, hu⟩ : ∃ u, readyWrite s1 p ((a - boltBase) / boltSize) = some u := Option.isSome_iff_exists.1
    ((readyWrite_isSome_congr hparts (wardrobe_of_view hmsg rfl) p _).trans hready)
  have hwrite := engineWrite_ready m.payload (collarOf m.collar)
    ((ctxMay_congr hparts (clusters_of_view hmsg rfl) p k.ctx a).trans hmay) (by rw [hpart]; exact hbase) (by rw [hpart]; exact hhere) hu
  obtain ⟨v, hv⟩ : ∃ v, v = onPart u p fun x => putTile x ((a - boltBase) / 4096) m.payload (collarOf m.collar) := ⟨_, rfl⟩
  rw [← hv] at hwrite
  obtain ⟨j, hj⟩ : ∃ j : Coll, j = gather q { k with fin := if k.fin.contains i then k.fin else k.fin ++ [i] } i m.payload
      (toLE 16 (collarOf m.collar).toNat) := ⟨_, rfl⟩
  have hfields : j.gix = k.gix ∧ j.opseq = k.opseq ∧ j.statuses = k.statuses ∧
      j.fin = if k.fin.contains i then k.fin else k.fin ++ [i] := by
    rw [hj]
    exact ⟨rfl, rfl, rfl, rfl⟩
  obtain ⟨hjg, hjo, hjs, hjf⟩ := hfields
  have htile := takeTile_gathered hop hi ha hcrc hclean hpoison hwrite
  rw [← hj] at htile
  have ht : t = putColl (pump p q v j).1 p (pump p q v j).2 := by
    have hq' : (partOf (takeInbox s m) p).group (Ca.gix m) = q := hq.symm
    have hgo : (!k.running || k.ended || k.aborted) = false := by rw [hrun, hend, habort]; rfl
    have hsound : arrivalFails s1 p none m.payload (collarOf m.collar) = (false, s1) := by
      rw [arrivalFails, hcrc, hclean]
      rfl
    simp only [t, takeDataG, ← hs1, hk1, hq', hr, hgo, hcol, hsound, htile, Bool.false_eq_true, if_false, if_true]
  have hview : view byEngine v = view byEngine s1 := by
    have hwork := engineWrite_view (F := byEngine) s1 p k.ctx a m.payload (collarOf m.collar) rfl rfl rfl rfl rfl rfl (fun _ => rfl)
      (fun _ => rfl) (fun _ => rfl) fun _ => rfl
    rw [hwrite] at hwork
    exact hwork
  have hmemu : (partOf u p).mem = (partOf s p).mem := by
    rw [← hpart]
    exact part_of_view Partition.mem (readyWrite_view (F := flashAndBolts p) hu rfl rfl rfl rfl rfl (fun _ => rfl)
      (beq_self_eq_true p)) fun _ => rfl
  have hmemv : (partOf v p).mem = mput (partOf s p).mem (a - boltBase) m.payload := by
    have hat : 4096 * ((a - boltBase) / 4096) = a - boltBase := by simp only [boltBase] at hlow ⊢; omega
    rw [hv, partOf_onPart, mem_putTile, hat, hmemu]
  obtain ⟨⟨l, n, hfound⟩, honly, hmem⟩ := sent_effects (p := p) (j := j) q ((collOf_of_engine hview ..).trans hk1) (hjg.trans hg)
    (hjo.trans ho)
  rw [← ht] at hfound honly hmem
  refine ⟨_, hfound, ?_, hjs, ?_, fun b hb => ?_,
    collOnly_trans (collOnly_of_messages hmsg ..) (collOnly_trans (collOnly_of_engine hview ..) honly)⟩
  · dsimp only
    rw [hjf]
    split
    next hin => exact List.contains_iff_mem.1 hin
    · exact List.mem_append_right _ (List.mem_singleton_self i)
  · have hat : 4096 * ((a - boltBase) / 4096) = a - boltBase := by simp only [boltBase] at hlow ⊢; omega
    have hread := mread_mput (partOf s p).mem (a - boltBase) m.payload
    rw [hlen] at hread
    rw [tileBytes, hmem, hmemv, hat, hread]
  · rw [hmem, hmemv, mget_mput_ne _ _ _ _ (by omega)]

/-! ### An acknowledgement (R182, R213) -/

/-- A collective that is put back as it is leaves every collective. -/
theorem collOf_putColl_self {s : State} {p g : Nat} {o : BitVec 16} {k : Coll} (hk : collOf s p g o = some k) (c h : Nat)
    (u : BitVec 16) : collOf (putColl s p k) c h u = collOf s c h u := by
  obtain ⟨hg, ho⟩ := key_of_collOf hk
  by_cases hc : c = p
  · subst hc
    by_cases hkey : (h, u) = (g, o)
    · obtain ⟨rfl, rfl⟩ := Prod.mk.inj hkey
      rw [collOf_putColl hk hg ho, hk]
    · exact collOf_putColl_ne hg ho hkey
  · rw [collOf, putColl, partOf_onPart_ne _ _ _ _ hc, collOf]

/-- A tag that frees where nothing waits leaves every collective. -/
theorem collOf_tagFreed {s : State} (die : Bool) (h : nothingWaits s) (c g : Nat) (o : BitVec 16) :
    collOf (tagFreed s die) c g o = collOf s c g o := by
  obtain ⟨hw, hidle⟩ := h
  have hs : sendWaited s die = s := by rw [sendWaited, hw]; rfl
  rw [tagFreed, hs]
  suffices hall : Pumped s ((List.range 16).foldl (fun t p => ((partOf t p).colls.map fun k => (k.gix, k.opseq)).foldl
      (fun u k => onColl u p k.1 k.2 fun c => c) (pumpSends t p)) s) ∧
      collOf ((List.range 16).foldl (fun t p => ((partOf t p).colls.map fun k => (k.gix, k.opseq)).foldl
        (fun u k => onColl u p k.1 k.2 fun c => c) (pumpSends t p)) s) c g o = collOf s c g o from hall.2
  refine List.foldlRecOn (motive := fun t => Pumped s t ∧ collOf t c g o = collOf s c g o) _ _ ⟨pumped_refl s, rfl⟩
    fun t ht p hp => ?_
  have hidleS : Idle s p := hidle p (List.mem_range.1 hp)
  rw [pumpSends_of_idle (ht.1.idle p hidleS)]
  refine List.foldlRecOn (motive := fun t => Pumped s t ∧ collOf t c g o = collOf s c g o) _ _ ht fun u hu k _ => ?_
  have hidleU : Idle u p := hu.1.idle p hidleS
  refine ⟨pumped_trans hu.1 (pumped_onColl u p _ _ hidleU), Eq.trans ?_ hu.2⟩
  rw [onColl]
  split
  next j hj =>
    rw [pump_of_idle p _ u (hidleU.2 j (List.mem_of_find?_eq_some hj))]
    exact collOf_putColl_self hj c g o
  · rfl

/-- Where nothing waits, nothing waits after a collective's count of messages falls. -/
theorem nothingWaits_putColl {s : State} {p g : Nat} {o : BitVec 16} {k : Coll} (n : Nat) (h : nothingWaits s)
    (hk : collOf s p g o = some k) : nothingWaits (putColl s p { k with unacked := n }) := by
  refine ⟨h.1, fun c hc => ?_⟩
  obtain ⟨hplan, hqueues⟩ := h.2 c hc
  rw [planOf?, putColl]
  by_cases hcp : c = p
  · subst hcp
    rw [partOf_onPart]
    refine ⟨hplan, fun j hj => ?_⟩
    obtain ⟨i, hi, rfl⟩ := List.mem_map.1 hj
    split
    · exact hqueues k (List.mem_of_find?_eq_some hk)
    · exact hqueues i hi
  · rw [partOf_onPart_ne _ _ _ _ hcp]
    exact ⟨hplan, hqueues⟩

/-- An acknowledgement with status OK leaves one message less to wait for. -/
theorem collAck_effects {s : State} {m : Msg} {w : Req} {p h : Nat} {o : BitVec 16} {k : Coll} (ht : m.mtype = Mt.collAck)
    (henc : m.enc = false) (hdst : m.dst = ownId s) (hw : findReq s m = some w) (hlate : w.timedOut = false)
    (hkind : w.kind = .coll p h o) (hst : m.status = 0) (hwait : nothingWaits s) (hk : collOf s p h o = some k) :
    let t := takeResponse s none m Mt.collAck
    collOf t p h o = some { k with unacked := k.unacked - 1 } ∧
      t.fabric.reqs = s.fabric.reqs.filter (fun x => !(x.die == w.die && x.tag == w.tag)) ∧
      t.out = s.out ∧ t.stores = s.stores ∧ t.cores = s.cores ∧ t.clusters = s.clusters := by
  intro t
  obtain ⟨hg, ho⟩ := key_of_collOf hk
  have hres := takeResponse_of_req ht henc hdst hw hlate (by rw [hkind]; rfl)
  obtain ⟨s0, hs0⟩ : ∃ s0, s0 = dropReq (takeInbox s m) w := ⟨_, rfl⟩
  have hk0 : collOf s0 p h o = some k := by rw [hs0]; exact hk
  have hend : requestEnd s0 w.kind (knownStatus m.status) (some m) none = putColl s0 p { k with unacked := k.unacked - 1 } := by
    have hknown : knownStatus m.status = Status.ok := by rw [hst]; rfl
    simp only [hkind, hknown, requestEnd, collMsgEnd, hk0, true_or, if_true]
  rw [← hs0, hend] at hres
  have hwait0 : nothingWaits s0 := by rw [hs0]; exact nothingWaits_dropReq m w hwait
  have hwait1 := nothingWaits_putColl (k.unacked - 1) hwait0 hk0
  have hpumped := pumped_tagFreed (putColl s0 p { k with unacked := k.unacked - 1 }) w.die hwait1
  have hfound := collOf_tagFreed w.die hwait1 p h o
  have htt : t = tagFreed (putColl s0 p { k with unacked := k.unacked - 1 }) w.die := hres
  rw [htt]
  have hstart : s0.fabric.reqs = s.fabric.reqs.filter (fun x => !(x.die == w.die && x.tag == w.tag)) ∧ s0.out = s.out ∧
      s0.stores = s.stores ∧ s0.cores = s.cores ∧ s0.clusters = s.clusters := by
    rw [hs0]
    exact ⟨rfl, rfl, rfl, rfl, rfl⟩
  obtain ⟨hreqs, hout, hstores, hcores, hclusters⟩ := hstart
  exact ⟨hfound.trans (collOf_putColl hk0 hg ho), (congrArg Fabric.reqs (pumped_fabric hpumped)).trans hreqs,
    (pumped_out hpumped).trans hout, (pumped_stores hpumped).trans hstores, (pumped_cores hpumped).trans hcores,
    (pumped_clusters hpumped).trans hclusters⟩

/-- Settles O33, by the effect of each message on the collective that it names. -/
theorem collectiveMessagesArrive : Obligations.CollectiveMessagesArrive := by
  unfold Obligations.CollectiveMessagesArrive
  intro s m p r k hm henc hdst g q now still
  have hwf (c : Instr) (h : c.wf = (viaOk none && msgOk m)) : c.wf = true := by rw [h, hm]; rfl
  refine ⟨fun ht hgroup hplan hr hk => ⟨fun hkind hpay => ?_, fun hkind hend => ?_, fun hrun hend habort halg => ⟨?_, ?_, ?_⟩⟩, ?_⟩
  · obtain ⟨j, hj, hready, hkept, hdesc, hends, hstats, honly⟩ := takeReady_effects hr hk hpay
    exact ⟨_, j, exec_next_of_eq rfl (hwf _ rfl) (takeColl_known henc hdst ht hkind hgroup hplan _), hj, hready, hkept, hdesc, hends,
      hstats, honly.others, honly.stores, honly.cores, honly.clusters⟩
  · obtain ⟨hj, honly⟩ := takeAbort_effects hk hend
    refine ⟨_, exec_next_of_eq rfl (hwf _ rfl) (takeColl_known henc hdst ht hkind hgroup hplan _), ?_, honly.others, honly.stores,
      honly.cores, honly.clusters⟩
    exact congrArg (Option.map fun j : Coll => (j.ended, j.statuses)) hj
  · intro u hkind hred hidx hu hur hmiss
    obtain ⟨j, hj, hacc, hothers, hfin, honly⟩ := takeDataR_effects hr hk hrun hend habort halg hred hidx hu hur hmiss
    exact ⟨_, j, exec_next_of_eq rfl (hwf _ rfl) (takeColl_known henc hdst ht hkind hgroup hplan _), hj, hacc, hothers, hfin,
      honly.others, honly.stores, honly.cores, honly.clusters⟩
  · intro hkind hcol hrank
    obtain ⟨j, hj, htot, hfin, hacc, honly⟩ := takePair_effects hr hk hrun hend habort halg hcol hrank
    exact ⟨_, j, exec_next_of_eq rfl (hwf _ rfl) (takeColl_known henc hdst ht hkind hgroup hplan _), hj, htot, hfin, hacc,
      honly.others, honly.stores, honly.cores, honly.clusters⟩
  · intro i a hkind hcol hop hlen hi ha hmay hbase hlow hal hcrc hclean hpoison hhere hready
    obtain ⟨j, hj, hfin, hstats, htile, hothers, honly⟩ := takeGathered_effects hr hk hrun hend habort hcol hop hlen hi ha hmay hbase
      hlow hal hcrc hclean hpoison hhere hready
    exact ⟨_, j, exec_next_of_eq rfl (hwf _ rfl) (takeColl_known henc hdst ht hkind hgroup hplan _), hj, hfin, hstats, htile, hothers,
      honly.others, honly.stores, honly.cores, honly.clusters⟩
  · intro w h o ht hw hlate hkind hst hwait hk
    exact ⟨_, exec_next_of_eq rfl (hwf _ rfl) rfl, collAck_effects ht henc hdst hw hlate hkind hst hwait hk⟩

end Sys2Proof.Proofs
end

section
/-! Proofs about shard plans: how they are submitted, run, end, and are told of. -/

namespace Sys2Proof.Proofs

open Sys2Proof.Machine Sys2Proof.Safety Sys2Proof.Laws

/-! ### What the Tailor of a partition may touch (R252, R263) -/

/-- The Tailor of partition `p` changes that partition, what waits to leave, flash and charges; no store, core or cluster. -/
@[reducible] def tailoring (p : Nat) : Field → Bool
  | .part q | .regs q | .mem q | .hbm q => q == p
  | .vec _ | .freeIx | .out | .parts | .fabric | .wardrobe | .rel => true
  | .steady | .sec | .fuses | .clusters | .mregs | .dieCtr | .osc | .pwr | .pattern | .tap | .cores | .stores | .tags => false

/-- What a step of a Tailor leaves: the partitions beside its own, stores, cores and clusters. -/
def TailorOnly (p : Nat) (s t : State) : Prop :=
  elsewhere s t p ∧ t.stores = s.stores ∧ t.cores = s.cores ∧ t.clusters = s.clusters

theorem tailorOnly_of_view {s t : State} {p : Nat} (h : view (tailoring p) t = view (tailoring p) s) : TailorOnly p s t :=
  ⟨elsewhere_of_view h fun q hq => by simp [tailoring, hq], stores_of_view h rfl, cores_of_view h rfl, clusters_of_view h rfl⟩

/-! ### The plan and its state (Table 11-8) -/

theorem planOf?_of_part {s t : State} {p : Nat} (h : partOf t p = partOf s p) : planOf? t p = planOf? s p := by
  rw [planOf?, h, planOf?]

theorem reg_of_part {s t : State} {p : Nat} (h : partOf t p = partOf s p) (o hi lo : Nat) : reg t p o hi lo = reg s p o hi lo := by
  rw [reg, h, reg]

theorem partOf_of_messages {s t : State} (h : view messages t = view messages s) (p : Nat) : partOf t p = partOf s p :=
  partOf_of_view h ⟨rfl, rfl, rfl, rfl, rfl⟩

theorem planOf?_msix (s : State) (p v : Nat) : planOf? (msix s p v) p = planOf? s p := by
  rw [planOf?, planOf?, part_of_view Partition.tailor (msix_vectorsOnly s p v) fun _ => rfl]

theorem planOf?_putReg (s : State) (p o hi lo v : Nat) : planOf? (putReg s p o hi lo v) p = planOf? s p := by
  rw [planOf?, putReg, partOf_onPart]
  rfl

theorem planOf?_putPlan (s : State) (p : Nat) (pl : Option Plan) : planOf? (putPlan s p pl) p = pl := by
  rw [planOf?, putPlan, partOf_onPart]

theorem planOf?_onPlan (s : State) (p : Nat) (f : Plan → Plan) : planOf? (onPlan s p f) p = (planOf? s p).map f := by
  rw [planOf?, onPlan, partOf_onPart]
  rfl

theorem reg_onPlan (s : State) (p : Nat) (f : Plan → Plan) (o hi lo : Nat) : reg (onPlan s p f) p o hi lo = reg s p o hi lo := by
  rw [reg, onPlan, partOf_onPart]
  rfl

theorem get_setWstate {x : Partition} {i v o hi lo : Nat} (hw : o ≠ R.wsStat i) (hq : o ≠ R.qcCur) :
    (setWstate x i v).get o hi lo = x.get o hi lo := by
  have hforget (y : Partition) : (forgetRecords y i).get o hi lo = y.get o hi lo := rfl
  have hcur (y : Partition) (w : Word) : (y.setReg R.qcCur w).get o hi lo = y.get o hi lo := by
    rw [Partition.get, Partition_reg_setReg_ne _ _ _ _ hq, Partition.get]
  unfold setWstate
  extract_lets x1 x2
  have hx2 : x2.get o hi lo = x.get o hi lo := by
    have hx1 : x1.get o hi lo = x.get o hi lo := Partition_get_put_ne _ _ _ _ _ _ _ _ hw
    by_cases hv : v = Ws.free ∨ v = Ws.loading
    · simp only [x2, if_pos hv, hforget, hx1]
    · simp only [x2, if_neg hv, hx1]
  split
  · exact (hcur _ _).trans hx2
  · exact (hcur _ _).trans hx2

/-- The plan's slots given back leave the answer to an abort. -/
theorem get_undoPlan (x : Partition) (pl : Plan) (h : x.get R.tpCtl 19 12 = 0) : (undoPlan x pl).get R.tpCtl 19 12 = 0 := by
  have hslot (y : Partition) (i v : Nat) : (setWstate y i v).get R.tpCtl 19 12 = y.get R.tpCtl 19 12 :=
    get_setWstate (by simp only [R.tpCtl, R.wsStat]; omega) (by decide)
  have hlay (i : Nat) (hi : lstate x i = 1) : (x.put (R.tlLay i) 19 18 0).get R.tpCtl 19 12 = 0 := by
    by_cases ho : R.tpCtl = R.tlLay i
    · rw [lstate, ← ho] at hi
      simp only [Partition.get, fld, nfld] at h hi
      omega
    · exact (Partition_get_put_ne _ _ _ _ _ _ _ _ ho).trans h
  unfold undoPlan
  extract_lets y
  have hy : y.get R.tpCtl 19 12 = 0 := by
    simp only [y]
    split
    · split
      next i _ hi => exact hlay i hi
      · exact h
    · exact h
  split
  · split
    · exact (hslot _ _ _).trans hy
    · exact hy
  · exact hy

theorem tailor_undoPlan (x : Partition) (pl : Plan) : (undoPlan x pl).tailor.plan = x.tailor.plan := by
  have hset (y : Partition) (i v : Nat) : (setWstate y i v).tailor.plan = y.tailor.plan := by
    unfold setWstate
    extract_lets x1 x2
    have hx2 : x2.tailor.plan = y.tailor.plan := by
      by_cases hv : v = Ws.free ∨ v = Ws.loading
      · simp only [x2, if_pos hv]
        rfl
      · simp only [x2, if_neg hv]
        rfl
    split
    · exact hx2
    · exact hx2
  unfold undoPlan
  extract_lets y
  have hy : y.tailor.plan = x.tailor.plan := by
    simp only [y]
    split
    · split
      · rfl
      · rfl
    · rfl
  split
  · split
    · exact (hset _ _ _).trans hy
    · exact hy
  · exact hy

/-- A plan that ends without commit: no plan, IDLE, its status, and the answer to an abort as it was if that was OK. -/
theorem planEnd_effects {s : State} {p st : Nat} {pl : Plan} (hpl : planOf? s p = some pl) (hst : st < 256) :
    let t := planEnd s p st
    (planOf? t p = none ∧ pstate t p = 0 ∧ reg t p R.tpCtl 31 24 = st) ∧
      (reg s p R.tpCtl 19 12 = 0 → reg t p R.tpCtl 19 12 = 0) := by
  intro t
  obtain ⟨y, hy⟩ : ∃ y, y = undoPlan { partOf s p with tailor := { (partOf s p).tailor with plan := none } } pl := ⟨_, rfl⟩
  obtain ⟨s1, hs1⟩ : ∃ s1, s1 = onPart s p fun x =>
    ((undoPlan { x with tailor := { x.tailor with plan := none } } pl).put R.tpCtl 31 24 st).put R.tpCtl 23 20 0 := ⟨_, rfl⟩
  have hpart : partOf s1 p = (y.put R.tpCtl 31 24 st).put R.tpCtl 23 20 0 := by rw [hs1, hy, partOf_onPart]
  obtain ⟨freed, ht⟩ : ∃ freed : Bool, t = if freed then msix (msix s1 p 2) p 2 else msix s1 p 2 :=
    ⟨_, by simp only [t, planEnd, hpl, ← hs1]; rfl⟩
  clear_value t
  have hreg (a b : Nat) : reg t p R.tpCtl a b = ((y.put R.tpCtl 31 24 st).put R.tpCtl 23 20 0).get R.tpCtl a b := by
    rw [← hpart, ht]
    cases freed with
    | true => exact (reg_msix ..).trans (reg_msix ..)
    | false => exact reg_msix ..
  have hplan : planOf? t p = y.tailor.plan := by
    have hy1 : planOf? s1 p = y.tailor.plan := by
      rw [planOf?, hpart]
      rfl
    rw [ht, ← hy1]
    cases freed with
    | true => exact (planOf?_msix ..).trans (planOf?_msix ..)
    | false => exact planOf?_msix ..
  refine ⟨⟨?_, ?_, ?_⟩, fun h => ?_⟩
  · rw [hplan, hy, tailor_undoPlan]
  · rw [pstate, hreg, Partition_get_put _ _ _ _ _ (by decide) (by decide)]
    rfl
  · rw [hreg, Partition_get_put_fld _ _ _ _ _ _ _ (by decide) (by decide), Partition_get_put _ _ _ _ _ (by decide) (by decide)]
    omega
  · rw [hreg, Partition_get_put_fld _ _ _ _ _ _ _ (by decide) (by decide),
      Partition_get_put_fld _ _ _ _ _ _ _ (by decide) (by decide), hy]
    exact get_undoPlan _ pl h

/-- A plan that fails ends the same way, whoever is told. -/
theorem planFail_effects {s : State} {p st : Nat} {pl : Plan} (hpl : planOf? s p = some pl) (hst : st < 256) :
    let t := planFail s p st
    (planOf? t p = none ∧ pstate t p = 0 ∧ reg t p R.tpCtl 31 24 = st) ∧
      (reg s p R.tpCtl 19 12 = 0 → reg t p R.tpCtl 19 12 = 0) := by
  intro t
  obtain ⟨s1, hs1⟩ : ∃ s1, s1 = if pl.rank = 0 then tellAll s p pl tFail st 0 else planCtrl s p pl tFail st 0 0 0 0 0 :=
    ⟨_, rfl⟩
  have ht : t = planEnd s1 p st := by simp only [t, planFail, hpl, hs1]
  have hsame : planOf? s1 p = planOf? s p ∧ reg s1 p R.tpCtl 19 12 = reg s p R.tpCtl 19 12 := by
    rw [hs1]
    split
    · obtain ⟨w, s2, hs2, hview⟩ : ∃ w, ∃ s2, s2 = onPart s p (fun x => { x with tailor := { x.tailor with
          told := x.tailor.told ++ [w] } }) ∧ view messages (tellAll s p pl tFail st 0) = view messages s2 :=
        ⟨_, _, rfl, view_foldl _ _ fun a e => sendTold_view a p _ e rfl rfl⟩
      have hpart : partOf s2 p = { partOf s p with tailor := { (partOf s p).tailor with
          told := (partOf s p).tailor.told ++ [w] } } := by rw [hs2, partOf_onPart]
      rw [planOf?_of_part (partOf_of_messages hview p), reg_of_part (partOf_of_messages hview p), planOf?, reg, hpart]
      exact ⟨rfl, rfl⟩
    · have hview : view messages (planCtrl s p pl tFail st 0 0 0 0 0) = view messages s := planCtrl_view _ _ _ _ _ _ _ _ _ _ rfl rfl
      exact ⟨planOf?_of_part (partOf_of_messages hview p), reg_of_part (partOf_of_messages hview p) _ _ _⟩
  obtain ⟨hplan, habort⟩ := planEnd_effects (s := s1) (hsame.1.trans hpl) hst
  rw [ht]
  exact ⟨hplan, fun h => habort (hsame.2.trans h)⟩

theorem planEnd_only (s : State) (p st : Nat) : TailorOnly p s (planEnd s p st) :=
  tailorOnly_of_view (planEnd_view _ _ _ rfl rfl (beq_self_eq_true p) rfl)

theorem planFail_only (s : State) (p st : Nat) : TailorOnly p s (planFail s p st) :=
  tailorOnly_of_view (planFail_view _ _ _ rfl rfl rfl (beq_self_eq_true p) rfl)

/-! ### A plan that is submitted (R252, R256, R265) -/

theorem tailorOnly_trans {s t u : State} {p : Nat} (h : TailorOnly p s t) (h' : TailorOnly p t u) : TailorOnly p s u := by
  obtain ⟨hparts, hstores, hcores, hclusters⟩ := h
  obtain ⟨hparts', hstores', hcores', hclusters'⟩ := h'
  exact ⟨elsewhere_trans hparts hparts', hstores'.trans hstores, hcores'.trans hcores, hclusters'.trans hclusters⟩

theorem readPlan_reads (s : State) (p : Nat) : view (deviceRead p) (readPlan s p).2 = view (deviceRead p) s :=
  readPlan_view _ _ rfl rfl rfl rfl rfl (beq_self_eq_true p) (fun _ => rfl) (beq_self_eq_true p)

theorem reg_readPlan (s : State) (p o hi lo : Nat) : reg (readPlan s p).2 p o hi lo = reg s p o hi lo := by
  unfold readPlan
  extract_lets a h nm nt ml tl dig ids x
  exact ((reg_devRead ..).trans (reg_devRead ..)).trans (reg_devRead ..)

theorem doneBy_readPlan (s : State) (p : Nat) : (readPlan s p).1.doneBy = [] := by
  unfold readPlan
  extract_lets
  rfl

/-- What a plan waits for is told by the slots' registers. -/
theorem planFree_congr {x y : Machine.Partition} (pl : Plan) (hl : ∀ i < 2, lstate x i = lstate y i)
    (hw : ∀ i < 2, wstate x i = wstate y i) : planFree x pl = planFree y pl := by
  have hslot (v : Nat) : slotIn x v = slotIn y v := by
    simp only [slotIn, List.find?, hw 0 (by decide), hw 1 (by decide)]
  have hfree : freeLayout x = freeLayout y := by
    simp only [freeLayout, List.find?, hl 0 (by decide), hl 1 (by decide)]
  unfold planFree activeSlot slotToLoad
  rw [hfree, hslot, hslot]

/-- Rank 0 of a plan that is not SEALED commits nothing. -/
theorem planAgreed_of_not_sealed {s : State} {p : Nat} (h : pstate s p ≠ 3) : planAgreed s p = s := by
  have hst : (pstate s p == 3) = false := by rw [beq_eq_false_iff_ne]; exact h
  unfold planAgreed
  split
  · rfl
  · rw [hst, Bool.and_false, Bool.false_and]
    rfl

/-- Nothing that came early: the plan stands as it was submitted. -/
theorem planEarly_none {s : State} {p : Nat} {pl : Plan} (hpl : planOf? s p = some pl)
    (hearly : (partOf s p).tailor.early = []) (hdone : pl.doneBy = []) (hst : pstate s p ≠ 3) :
    planOf? (planEarly s p) p = some pl ∧ (∀ o hi lo, reg (planEarly s p) p o hi lo = reg s p o hi lo) ∧
      TailorOnly p s (planEarly s p) := by
  obtain ⟨s1, hs1⟩ : ∃ s1, s1 = onPart s p fun x => { x with tailor := { x.tailor with
      early := x.tailor.early.filter fun e => e.planid != pl.planid } } := ⟨_, rfl⟩
  have hpl1 : planOf? s1 p = some pl := by
    rw [← hpl, hs1, planOf?, partOf_onPart]
    rfl
  have hreg1 (o hi lo : Nat) : reg s1 p o hi lo = reg s p o hi lo := by
    rw [hs1, reg, partOf_onPart]
    rfl
  have honly1 : TailorOnly p s s1 := by
    rw [hs1]
    exact tailorOnly_of_view (onPart_view_part _ _ _ rfl (beq_self_eq_true p))
  by_cases hrank : pl.rank = 0
  · have ht : planEarly s p = onPlan s1 p fun q => { q with doneBy := (q.doneBy ++ []).eraseDups } := by
      have hnot : pstate (onPlan s1 p fun q => { q with doneBy := (q.doneBy ++ []).eraseDups }) p ≠ 3 := by
        rw [pstate, reg_onPlan, hreg1]
        exact hst
      rw [← planAgreed_of_not_sealed hnot]
      simp only [planEarly, hpl, hearly, ← hs1, hrank, List.filter_nil]
      rfl
    rw [ht]
    refine ⟨?_, fun o hi lo => (reg_onPlan ..).trans (hreg1 ..), ?_⟩
    · rw [planOf?_onPlan, hpl1, Option.map_some, hdone]
      exact congrArg some (by rw [List.append_nil, List.eraseDups_nil, ← hdone])
    · exact tailorOnly_trans honly1 (tailorOnly_of_view (onPlan_view _ _ _ rfl (beq_self_eq_true p)))
  · have ht : planEarly s p = s1 := by
      have hne : (pl.rank != 0) = true := by rw [bne_iff_ne]; exact hrank
      simp only [planEarly, hpl, ← hs1, hne, if_true]
    rw [ht]
    exact ⟨hpl1, hreg1, honly1⟩

/-- SUBMIT of a valid plan that has to wait. -/
theorem planSubmit_waits {s : State} {p : Nat} (hlive : (partOf s p).ptstate = 1) (hidle : pstate s p = 0)
    (hok : planRefused (putReg (readPlan s p).2 p R.tpCtl 63 32 (readPlan s p).1.planid.toNat) p (readPlan s p).1 = none)
    (hwait : planFree (partOf s p) (readPlan s p).1 = false) (hearly : (partOf s p).tailor.early = []) :
    let t := planSubmit s p
    planOf? t p = some (readPlan s p).1 ∧ pstate t p = 1 ∧ reg t p R.tpCtl 63 32 = (readPlan s p).1.planid.toNat ∧
      TailorOnly p s t := by
  intro t
  have hview := readPlan_reads s p
  have hregs := reg_readPlan s p
  have hdone := doneBy_readPlan s p
  obtain ⟨pl, s0, hr⟩ : ∃ pl s0, readPlan s p = (pl, s0) := ⟨_, _, rfl⟩
  rw [hr] at hview hregs hok hwait hdone ⊢
  dsimp only at hview hregs hok hwait hdone ⊢
  obtain ⟨s1, hs1⟩ : ∃ s1, s1 = putReg s0 p R.tpCtl 63 32 pl.planid.toNat := ⟨_, rfl⟩
  rw [← hs1] at hok
  obtain ⟨s2, hs2⟩ : ∃ s2, s2 = onPart (putPlan s1 p (some pl)) p fun x =>
      x.setReg R.tpCnt (BitVec.ofNat 64 (reg s1 p R.tpCnt 0 0)) := ⟨_, rfl⟩
  obtain ⟨s3, hs3⟩ : ∃ s3, s3 = putReg s2 p R.tpCtl 23 20 1 := ⟨_, rfl⟩
  have hpl3 : planOf? s3 p = some pl := by
    rw [hs3, planOf?_putReg, hs2, planOf?, partOf_onPart]
    exact planOf?_putPlan s1 p (some pl)
  have hother {o : Nat} (hi lo : Nat) (hctl : o ≠ R.tpCtl) (hcnt : o ≠ R.tpCnt) : reg s3 p o hi lo = reg s p o hi lo := by
    have h2 : reg s2 p o hi lo = reg s1 p o hi lo := by
      rw [hs2, reg, partOf_onPart, Partition.get, Partition_reg_setReg_ne _ _ _ _ hcnt, putPlan, partOf_onPart]
      rfl
    rw [hs3, reg_putReg_other hctl, h2, hs1, reg_putReg_other hctl, hregs]
  have hctl2 : reg s2 p R.tpCtl 63 32 = pl.planid.toNat := by
    have h1 : reg s1 p R.tpCtl 63 32 = pl.planid.toNat := by
      rw [hs1, reg_putReg _ _ _ _ _ _ (by decide) (by decide)]
      exact Nat.mod_eq_of_lt pl.planid.isLt
    rw [← h1, hs2, reg, partOf_onPart, Partition.get, Partition_reg_setReg_ne _ _ _ _ (by decide), putPlan, partOf_onPart]
    rfl
  have hstate3 : pstate s3 p = 1 := by
    rw [hs3, pstate, reg_putReg _ _ _ _ _ _ (by decide) (by decide)]
    rfl
  have hwait3 : planFree (partOf s3 p) pl = false := by
    rw [← hwait]
    have hlay {i : Nat} (hi : i < 2) : R.tlLay i ≠ R.tpCtl ∧ R.tlLay i ≠ R.tpCnt := by
      simp only [R.tlLay, R.tpCtl, R.tpCnt]
      omega
    have hslot (i : Nat) : R.wsStat i ≠ R.tpCtl ∧ R.wsStat i ≠ R.tpCnt := by
      simp only [R.wsStat, R.tpCtl, R.tpCnt]
      omega
    exact planFree_congr pl (fun i hi => hother 19 18 (hlay hi).1 (hlay hi).2) fun i _ => hother 22 20 (hslot i).1 (hslot i).2
  have hearly3 : (partOf s3 p).tailor.early = [] := by
    have hread : (partOf s0 p).tailor = (partOf s p).tailor := part_of_view Partition.tailor hview fun _ => rfl
    rw [← hearly, ← hread, hs3, putReg, partOf_onPart, hs2, partOf_onPart, putPlan, partOf_onPart, hs1, putReg, partOf_onPart]
    rfl
  have ht : t = planEarly s3 p := by
    have hlive' : ((partOf s p).ptstate != 1) = false := by rw [hlive]; rfl
    have hidle' : (pstate s p != 0) = false := by rw [hidle]; rfl
    simp only [t, planSubmit, hlive', hidle', hr, ← hs1, hok, ← hs2, ← hs3, hwait3, Bool.false_eq_true, if_false]
  obtain ⟨hpl, hreg, honly⟩ := planEarly_none hpl3 hearly3 hdone (by omega)
  rw [ht]
  refine ⟨hpl, (hreg ..).trans hstate3, ?_, ?_⟩
  · rw [hreg, hs3]
    exact (reg_putReg_fld _ p R.tpCtl 23 20 1 63 32 (by decide) (by decide)).trans hctl2
  · have hself : tailoring p (.part p) = true := beq_self_eq_true p
    have hregs' : tailoring p (.regs p) = true := beq_self_eq_true p
    refine tailorOnly_trans (tailorOnly_of_view ?_) honly
    calc view (tailoring p) s3
      _ = view (tailoring p) s2 := by rw [hs3]; exact putReg_view _ _ _ _ _ _ rfl hregs'
      _ = view (tailoring p) s1 := by
        rw [hs2]
        exact (onPart_view_part _ _ _ rfl hself).trans (putPlan_view _ _ _ rfl hself)
      _ = view (tailoring p) s0 := by rw [hs1]; exact putReg_view _ _ _ _ _ _ rfl hregs'
      _ = view (tailoring p) s := by
        have hs0 : s0 = (readPlan s p).2 := by rw [hr]
        rw [hs0]
        exact readPlan_view _ _ rfl rfl rfl rfl rfl hregs' (fun _ => rfl) hself

/-- SUBMIT of a plan that is not valid. -/
theorem planSubmit_refused {s : State} {p st : Nat} (hlive : (partOf s p).ptstate = 1) (hidle : pstate s p = 0)
    (hst : planRefused (putReg (readPlan s p).2 p R.tpCtl 63 32 (readPlan s p).1.planid.toNat) p (readPlan s p).1 = some st) :
    let t := planSubmit s p
    planOf? t p = planOf? s p ∧ pstate t p = 0 ∧ reg t p R.tpCtl 31 24 = st ∧ TailorOnly p s t := by
  intro t
  have hsmall : st < 256 := by
    simp only [planRefused] at hst
    split at hst
    · cases hst; decide
    · split at hst
      · cases hst; decide
      · cases hst
  obtain ⟨s1, hs1⟩ : ∃ s1, s1 = putReg (readPlan s p).2 p R.tpCtl 63 32 (readPlan s p).1.planid.toNat := ⟨_, rfl⟩
  rw [← hs1] at hst
  have ht : t = msix (putReg s1 p R.tpCtl 31 24 st) p 2 := by
    have hlive' : ((partOf s p).ptstate != 1) = false := by rw [hlive]; rfl
    have hidle' : (pstate s p != 0) = false := by rw [hidle]; rfl
    simp only [t, planSubmit, hlive', hidle', ← hs1, hst, Bool.false_eq_true, if_false]
  clear_value t
  have hself : tailoring p (.part p) = true := beq_self_eq_true p
  have hregs : tailoring p (.regs p) = true := hself
  subst ht
  refine ⟨?_, ?_, ?_, tailorOnly_of_view ?_⟩
  · rw [planOf?_msix, planOf?_putReg, hs1, planOf?_putReg, planOf?, planOf?,
      part_of_view Partition.tailor (readPlan_reads s p) fun _ => rfl]
  · have h1 : pstate s1 p = 0 := by
      rw [← hidle, pstate, pstate, hs1, reg_putReg_fld _ p R.tpCtl 63 32 _ 23 20 (by decide) (by decide), reg_readPlan]
    rw [pstate, reg_msix, reg_putReg_fld _ p R.tpCtl 31 24 _ 23 20 (by decide) (by decide)]
    exact h1
  · rw [reg_msix, reg_putReg _ _ _ _ _ _ (by decide) (by decide)]
    exact Nat.mod_eq_of_lt hsmall
  · rw [hs1]
    calc view (tailoring p) (msix (putReg (putReg (readPlan s p).2 p R.tpCtl 63 32 _) p R.tpCtl 31 24 st) p 2)
      _ = view (tailoring p) (putReg (putReg (readPlan s p).2 p R.tpCtl 63 32 _) p R.tpCtl 31 24 st) := msix_view _ _ _ rfl rfl rfl
      _ = view (tailoring p) (readPlan s p).2 :=
        (putReg_view _ _ _ _ _ _ rfl hregs).trans (putReg_view _ _ _ _ _ _ rfl hregs)
      _ = view (tailoring p) s := readPlan_view _ _ rfl rfl rfl rfl rfl hregs (fun _ => rfl) hself

/-- SUBMIT while a plan is under way. -/
theorem planSubmit_busy {s : State} {p : Nat} (hlive : (partOf s p).ptstate = 1) (hbusy : pstate s p ≠ 0) :
    let t := planSubmit s p
    planOf? t p = planOf? s p ∧ pstate t p = pstate s p ∧ reg t p R.tpCtl 31 24 = Status.busy ∧ TailorOnly p s t := by
  intro t
  have ht : t = putReg s p R.tpCtl 31 24 Status.busy := by
    have hlive' : ((partOf s p).ptstate != 1) = false := by rw [hlive]; rfl
    have hbusy' : (pstate s p != 0) = true := by rw [bne_iff_ne]; exact hbusy
    simp only [t, planSubmit, hlive', hbusy', Bool.false_eq_true, if_false, if_true]
  rw [ht]
  refine ⟨planOf?_putReg .., ?_, ?_, tailorOnly_of_view (putReg_view _ _ _ _ _ _ rfl (beq_self_eq_true p))⟩
  · exact reg_putReg_fld s p R.tpCtl 31 24 _ 23 20 (by decide) (by decide)
  · rw [reg_putReg _ _ _ _ _ _ (by decide) (by decide)]
    rfl

/-! ### A member that holds no destination (R263, R265) -/

/-- A plan that runs with nothing to fetch and nothing to send is SEALED at once. -/
theorem planRun_seals {s : State} {p : Nat} {pl : Plan} (hpl : planOf? s p = some pl) (hx : planXfers pl = [])
    (hsends : pl.sends = []) (hrank : pl.rank ≠ 0) :
    let t := planRun s p
    pstate t p = 3 ∧ (planOf? t p).map (·.planid) = some pl.planid ∧ TailorOnly p s t := by
  intro t
  obtain ⟨x2, lay, slot, ht⟩ : ∃ x2 lay slot, t = planSeal (pumpSends (putReg (putPlan (putPart s p x2) p
      (some { pl with layout := lay, slot := slot, xfers := [] })) p R.tpCtl 23 20 2) p) p :=
    ⟨_, _, _, by simp only [t, planRun, hpl, hx, List.length_nil, List.range_zero, List.foldl_nil]; rfl⟩
  clear_value t
  obtain ⟨pl1, hpl1eq⟩ : ∃ pl1 : Plan, pl1 = { pl with layout := lay, slot := slot, xfers := [] } := ⟨_, rfl⟩
  have hxfers : pl1.xfers = [] := by rw [hpl1eq]
  have hsends1 : pl1.sends = [] := by rw [hpl1eq]; exact hsends
  have hrank1 : pl1.rank = pl.rank := by rw [hpl1eq]
  have hid : pl1.planid = pl.planid := by rw [hpl1eq]
  obtain ⟨s1, hs1⟩ : ∃ s1, s1 = putReg (putPlan (putPart s p x2) p (some pl1)) p R.tpCtl 23 20 2 := ⟨_, rfl⟩
  rw [← hpl1eq, ← hs1] at ht
  have hself : tailoring p (.part p) = true := beq_self_eq_true p
  have hpl1 : planOf? s1 p = some pl1 := by rw [hs1, planOf?_putReg, planOf?_putPlan]
  have hst1 : pstate s1 p = 2 := by
    rw [hs1, pstate, reg_putReg _ _ _ _ _ _ (by decide) (by decide)]
    rfl
  obtain ⟨s2, hs2⟩ : ∃ s2, s2 = onPlan s1 p fun q => { q with sends := [] } := ⟨_, rfl⟩
  have hpump : pumpSends s1 p = s2 := by
    simp only [pumpSends, hpl1, hst1, hsends1, List.foldl_nil, hs2]
    rfl
  have hpl2 : planOf? s2 p = some { pl1 with sends := [] } := by rw [hs2, planOf?_onPlan, hpl1, Option.map_some]
  have hst2 : pstate s2 p = 2 := by
    rw [hs2, pstate, reg_onPlan]
    exact hst1
  obtain ⟨s3, hs3⟩ : ∃ s3, s3 = putReg s2 p R.tpCtl 23 20 3 := ⟨_, rfl⟩
  obtain ⟨pl3, hpl3⟩ : ∃ q, q = { pl1 with sends := [] } := ⟨_, rfl⟩
  have hseal : planSeal s2 p = planCtrl s3 p pl3 tAllDone 0 0 0 0 0 0 := by
    have hone : pl1.rank ≠ 0 := by omega
    simp only [planSeal, hpl2, hst2, hxfers, if_neg hone, hs3, hpl3]
    rfl
  have hview : view messages t = view messages s3 := by
    rw [ht, hpump, hseal]
    exact planCtrl_view _ _ _ _ _ _ _ _ _ _ rfl rfl
  have hpart := partOf_of_messages hview p
  refine ⟨?_, ?_, tailorOnly_of_view ?_⟩
  · rw [pstate, reg_of_part hpart, hs3, reg_putReg _ _ _ _ _ _ (by decide) (by decide)]
    rfl
  · rw [planOf?_of_part hpart, hs3, planOf?_putReg, hpl2]
    exact congrArg some hid
  · calc view (tailoring p) t
      _ = view (tailoring p) s3 := by
        rw [ht, hpump, hseal]
        exact planCtrl_view _ _ _ _ _ _ _ _ _ _ rfl rfl
      _ = view (tailoring p) s2 := by rw [hs3]; exact putReg_view _ _ _ _ _ _ rfl hself
      _ = view (tailoring p) s1 := by rw [hs2]; exact onPlan_view _ _ _ rfl hself
      _ = view (tailoring p) s := by
        rw [hs1]
        exact (putReg_view _ _ _ _ _ _ rfl hself).trans
          ((putPlan_view _ _ _ rfl hself).trans (putPart_view_part _ _ _ rfl hself))

/-! ### A message of a plan that leaves (R189, R258) -/

theorem reqs_enqueue (s : State) (c vc : Nat) (dl : Bool) (bs : List Byte) : (enqueue s c vc dl bs).fabric.reqs = s.fabric.reqs := by
  unfold enqueue
  split
  · rfl
  · rfl

theorem reqs_tunnelOut (s : State) (sp : Nat) (gw src dst : DevId) (fs : List Flit) :
    (tunnelOut s sp gw src dst fs).fabric.reqs = s.fabric.reqs := by
  refine List.foldlRecOn (motive := fun t : State => t.fabric.reqs = s.fabric.reqs) _ _ rfl fun t ht l _ => ?_
  have hgram (u : State) (g : TunnelGram) : (sendGram u gw 0 g).fabric = u.fabric := by
    unfold sendGram
    split
    · rfl
    · rfl
  dsimp only
  split
  · rw [hgram]
    exact ht
  · exact ht

theorem reqs_routeOut (s : State) (mask : BitVec 18) (m wire : Msg) : (routeOut s mask m wire).fabric.reqs = s.fabric.reqs := by
  unfold routeOut
  extract_lets vc
  split
  · rfl
  · exact reqs_enqueue ..
  · split
    · rfl
    · exact reqs_tunnelOut ..
  · split
    · rfl
    · split
      · rfl
      · rfl

/-- What leaves a die is no request of its own. -/
theorem reqs_sendOnDie (s : State) (mask : BitVec 18) (die : Bool) (m : Msg) : (sendOnDie s mask die m).fabric.reqs = s.fabric.reqs := by
  have hcount : (countMsg s die).fabric.reqs = s.fabric.reqs := by
    unfold countMsg
    split
    · rfl
    · rfl
  unfold sendOnDie
  split
  · rfl
  · extract_lets m1
    split
    · exact (reqs_routeOut ..).trans hcount
    · split
      · rfl
      · exact (reqs_routeOut ..).trans hcount

/-- A message for which a tag is free becomes one outstanding request to its device. -/
theorem sendWaiting_reqs {s : State} {die : Bool} (htag : (freeTag s die).isSome = true) (mask : BitVec 18) (p c : Nat)
    (kind : ReqKind) (m : Msg) : ∃ q : Req, (sendWaiting s mask die p c kind m).fabric.reqs = s.fabric.reqs ++ [q] ∧
      q.dst = m.dst ∧ q.kind = kind := by
  obtain ⟨tag, ht⟩ := Option.isSome_iff_exists.1 htag
  have hsent : (sendRequestOn s mask die p c kind m).2 = true := by simp only [sendRequestOn, ht]
  rw [sendWaiting, hsent]
  simp only [sendRequestOn, ht, if_true]
  rw [reqs_sendOnDie]
  exact ⟨_, rfl, rfl, rfl⟩

/-- COMMIT_RESEND to a member that the only outcome still waits for. -/
theorem commitResend_one {s : State} {p : Nat} {w : Told} {e : Nat × DevId} (hw : (partOf s p).tailor.told = [w])
    (he : (w.left.find? fun d => d.1 == e.1) = some e) : commitResend s p e.1 = sendTold s p w e := by
  simp only [commitResend, hw, List.foldl_cons, List.foldl_nil, he]

/-! ### Aborts and deadlines (R262, R263) -/

theorem planAbort_ends {s : State} {p : Nat} {pl : Plan} (hpl : planOf? s p = some pl) (hlive : (partOf s p).ptstate = 1)
    (hst : pstate s p = 1 ∨ pstate s p = 2) : let t := planAbort s p
    (planOf? t p = none ∧ pstate t p = 0 ∧ reg t p R.tpCtl 31 24 = Status.aborted) ∧ reg t p R.tpCtl 19 12 = Status.ok ∧
      TailorOnly p s t := by
  intro t
  obtain ⟨s1, hs1⟩ : ∃ s1, s1 = planAstat s p Status.ok := ⟨_, rfl⟩
  have ht : t = planFail s1 p Status.aborted := by
    have hlive' : ((partOf s p).ptstate != 1) = false := by rw [hlive]; rfl
    rcases hst with h | h
    · simp only [t, planAbort, hlive', h, hs1, Bool.false_eq_true, if_false]
    · simp only [t, planAbort, hlive', h, hs1, Bool.false_eq_true, if_false]
  have hok : reg s1 p R.tpCtl 19 12 = 0 := by
    rw [hs1, planAstat, reg_putReg _ _ _ _ _ _ (by decide) (by decide)]
    rfl
  have hpl1 : planOf? s1 p = some pl := by rw [hs1, planAstat, planOf?_putReg, hpl]
  obtain ⟨hend, hstat⟩ := planFail_effects hpl1 (st := Status.aborted) (by decide)
  rw [ht]
  refine ⟨hend, hstat hok, tailorOnly_trans (tailorOnly_of_view ?_) (planFail_only s1 p Status.aborted)⟩
  rw [hs1]
  exact planAstat_view _ _ _ rfl (beq_self_eq_true p)

theorem planDeadline_ends {s : State} {p : Nat} {pl : Plan} (hpl : planOf? s p = some pl)
    (hst : pstate s p = 1 ∨ pstate s p = 2 ∨ pstate s p = 3 ∧ pl.rank = 0) : planDeadline s p = planFail s p Status.timeout := by
  have hdue : (pstate s p == 1 || pstate s p == 2 || (pstate s p == 3 && pl.rank == 0)) = true := by
    simp only [Bool.or_eq_true, Bool.and_eq_true, beq_iff_eq]
    tauto
  simp only [planDeadline, hpl]
  exact when_of_true hdue

/-- Settles O43, by what each command makes of the plan and of `TPCTL`. -/
theorem plansBeginAndEnd : Obligations.PlansBeginAndEnd := by
  unfold Obligations.PlansBeginAndEnd
  intro s p hp finished still
  have hpart : partOk p = true := decide_eq_true hp
  refine ⟨?_, ?_, ?_, ?_⟩
  · intro hlive hidle r s1
    have run : exec (.submit p) s = .next (planSubmit s p) := exec_next_of_eq rfl hpart rfl
    refine ⟨fun hok hwait hearly => ⟨_, run, planSubmit_waits hlive hidle hok hwait hearly⟩, fun st hst =>
      ⟨_, run, planSubmit_refused hlive hidle hst⟩⟩
  · exact fun hlive hbusy => ⟨_, exec_next_of_eq rfl hpart rfl, planSubmit_busy hlive hbusy⟩
  · intro pl hpl
    refine ⟨?_, ?_, ?_, ?_⟩
    · intro hst hfree hx hsends hrank
      refine ⟨planRun s p, exec_next_of_eq rfl hpart ?_, planRun_seals hpl hx hsends hrank⟩
      have hgo : (pstate s p == 1 && planFree (partOf s p) pl) = true := by rw [hst, hfree]; rfl
      simp only [hpl]
      exact when_of_true hgo
    · exact fun hlive hst => ⟨_, exec_next_of_eq rfl hpart rfl, planAbort_ends hpl hlive hst⟩
    · intro hst
      obtain ⟨hend, -⟩ := planFail_effects hpl (st := Status.timeout) (by decide)
      exact ⟨_, exec_next_of_eq rfl hpart (planDeadline_ends hpl hst), hend, planFail_only s p Status.timeout⟩
    · intro hst
      obtain ⟨hend, -⟩ := planEnd_effects hpl (st := Status.timeout) (by decide)
      have hdue : (pstate s p == 3) = true := by rw [hst]; rfl
      exact ⟨_, exec_next_of_eq rfl hpart (when_of_true hdue), hend, planEnd_only s p Status.timeout⟩
  · intro w e hw he htags
    obtain ⟨q, hreqs, hdst, hkind⟩ := sendWaiting_reqs (htags _) ((partOf s p).group w.gix).ports p 0
      (.plan p w.planid w.phash w.code 0 e.1)
      (planMsg w.gix w.job w.epoch e.2 0 0 0 (ctrlBytes w.code w.status w.planid w.phash 0 0 w.swseam.toNat 0) [])
    refine ⟨sendTold s p w e, q, exec_next_of_eq rfl hpart (commitResend_one hw he), hreqs, hdst, hkind, ?_, ?_⟩
    · exact parts_of_view (F := messages) (sendTold_view _ _ _ _ rfl rfl) rfl
    · exact tailorOnly_of_view (sendTold_view _ _ _ _ rfl rfl)

end Sys2Proof.Proofs
end

section
/-! Proofs about ports: the flits that leave and arrive. -/

namespace Sys2Proof.Proofs

open Sys2Proof.Machine Sys2Proof.Safety Sys2Proof.Laws

/-! ### What a port changes when a flit passes (R164, R167) -/

/-- A port that sends or receives a flit changes what is under way, charges and counts; no store and no core. -/
@[reducible] def carrying : Field → Bool
  | .freeIx | .out | .parts | .fabric | .rel | .mregs | .regs _ | .vec _ => true
  | _ => false

theorem flitTransmit_carrying (s : State) (c : Nat) : view carrying (flitTransmit s c) = view carrying s :=
  flitTransmit_view _ _ rfl rfl rfl rfl rfl (fun _ => rfl) fun _ => rfl

theorem flitReceive_carrying (s : State) (c : Nat) (w : RxCodeword) : view carrying (flitReceive s c w) = view carrying s :=
  flitReceive_view _ _ _ rfl rfl rfl rfl rfl rfl (fun _ => rfl) fun _ => rfl

/-- A codeword is striped over the active lanes, whatever else a port holds. -/
theorem codeword_congr {q u : Port} (h : u.lanes = q.lanes) (f : Flit) : codeword u f = codeword q f := by
  simp only [codeword, h]

/-- What does not speak of receive buffers stands where some become free. -/
theorem portOf_freeHomes {α : Type} (π : Port → α) (s : State) (l : List Home) (c : Nat)
    (hπ : ∀ (q : Port) a b d e f, π { q with rxSh := a, rxDed := b, dcredRx := d, scredRx := e, lctl := f } = π q) :
    π (portOf (freeHomes s l) c) = π (portOf s c) := by
  refine List.foldlRecOn (motive := fun t => π (portOf t c) = π (portOf s c)) _ _ rfl fun t ht h _ => ?_
  by_cases hc : c = h.port
  · rw [← ht, freeHome, ← hc, portOf_onPort]
    by_cases hs : h.shared = true
    · rw [if_pos hs]
      exact hπ (portOf t c) _ _ _ _ _
    · rw [if_neg hs]
      exact hπ (portOf t c) _ _ _ _ _
  · rw [freeHome, portOf_onPort_ne _ _ _ _ hc]
    exact ht

/-- A port none of whose buffers becomes free stands. -/
theorem portOf_freeHomes_ne {s : State} {l : List Home} {c : Nat} (h : ∀ x ∈ l, x.port ≠ c) :
    portOf (freeHomes s l) c = portOf s c := by
  refine List.foldlRecOn (motive := fun t => portOf t c = portOf s c) _ _ rfl fun t ht x hx => ?_
  rw [freeHome, portOf_onPort_ne _ _ _ _ (h x hx).symm]
  exact ht

/-! ### A flit that leaves (R167 to R169) -/

/-- A flit that leaves on a port is driven out, and what it acknowledges needs no other one. -/
theorem putFlit_effects (s : State) (c : Nat) (f : Flit) : let t := putFlit s c f
    t.out = s.out ++ [.flit c (codeword (portOf s c) f)] ∧ portOf t c = { portOf s c with ackOut := false } ∧
      (∀ e, e ≠ c → portOf t e = portOf s e) ∧ t.parts = s.parts := by
  refine ⟨rfl, ?_, fun e he => ?_, rfl⟩
  · rw [putFlit, portOf_emit, portOf_onPort]
  · rw [putFlit, portOf_emit, portOf_onPort_ne _ _ _ _ he]

theorem flitTransmit_of_up {s : State} {c : Nat} (hup : portUp s c = true) :
    (!(portUp s c || (portOf s c).pstate == 7 || ((portOf s c).pstate == 10 && (portOf s c).lanes != 0))) = false := by
  rw [hup, Bool.true_or, Bool.true_or]
  rfl

/-- A NAK or credits that are due leave first. -/
theorem flitTransmit_control {s : State} {c : Nat} (hup : portUp s c = true)
    (hdue : (portOf s c).nakOut = true ∨ (portOf s c).lctl = true) : let t := flitTransmit s c
    (portOf t c).nakOut = false ∧ (portOf t c).lctl = false ∧ (portOf t c).replay = (portOf s c).replay ∧
      t.out.getLast? = some (.flit c (codeword (portOf s c) (lctlFlit (portOf s c)))) := by
  intro t
  obtain ⟨s1, hs1⟩ : ∃ s1, s1 = if (portOf s c).nakOut then charge (bumpMreg s (M.ptReplay c) 63 32 1) 0x0A 7 c else s := ⟨_, rfl⟩
  have hport : portOf s1 c = portOf s c := by
    rw [hs1]
    split
    · exact (portOf_of_view (charge_chargeOnly ..) rfl c).trans (portOf_putMreg ..)
    · rfl
  have hcontrol : ((portOf s c).nakOut || (portOf s c).lctl) = true := by rw [Bool.or_eq_true]; exact hdue
  obtain ⟨s2, hs2⟩ : ∃ s2, s2 = onPort s1 c fun q => { q with nakOut := false, lctl := false } := ⟨_, rfl⟩
  have ht : t = putFlit s2 c (lctlFlit (portOf s c)) := by
    simp only [t, flitTransmit, flitTransmit_of_up hup, hcontrol, hs2, hs1, Bool.false_eq_true, if_false, if_true]
  have hport2 : portOf s2 c = { portOf s c with nakOut := false, lctl := false } := by rw [hs2, portOf_onPort, hport]
  obtain ⟨hout, hself, -, -⟩ := putFlit_effects s2 c (lctlFlit (portOf s c))
  rw [ht, hself, hport2]
  refine ⟨rfl, rfl, rfl, ?_⟩
  rw [hout, List.getLast?_concat, hport2]
  rfl

/-- The next flit of the channel whose turn it is. -/
theorem flitTransmit_data {s : State} {c v wv wl : Nat} {f : Flit} {rest : List Flit} (hup : portUp s c = true)
    (hnak : (portOf s c).nakOut = false) (hlctl : (portOf s c).lctl = false) (hresend : (portOf s c).resend = [])
    (hnext : nextVc s c = some (v, wv, wl)) (hqueue : queueOf (portOf s c) v = f :: rest) :
    let f' : Flit := { f with seq := (portOf s c).txNext, ack := ackOf (portOf s c), home := none }
    let t := flitTransmit s c
    t.out = s.out ++ [.flit c (codeword (portOf s c) f')] ∧ (portOf t c).replay = (portOf s c).replay ++ [f'] ∧
      (portOf t c).txNext = ((portOf s c).txNext + 1) % 4096 ∧ queueOf (portOf t c) v = rest ∧
      (∀ e, e ≠ c → (∀ h, f.home = some h → h.port ≠ e) → portOf t e = portOf s e) ∧ t.parts = s.parts := by
  intro f' t
  obtain ⟨q', ht, hlanes, hreplay, htx, hrest⟩ : ∃ q' : Port,
      t = freeHomes (putFlit (putPort s c q') c f') f.home.toList ∧ q'.lanes = (portOf s c).lanes ∧
      q'.replay = (portOf s c).replay ++ [f'] ∧ q'.txNext = ((portOf s c).txNext + 1) % 4096 ∧ queueOf q' v = rest := by
    have hsend : t = sendData s c v wv wl := by
      simp only [t, flitTransmit, flitTransmit_of_up hup, hnak, hlctl, resendNext, hresend, hnext, Bool.or_self, Bool.false_eq_true,
        if_false]
    rw [hsend, sendData]
    simp only [hqueue]
    refine ⟨_, rfl, rfl, rfl, rfl, ?_⟩
    unfold queueOf
    by_cases hv : v = 8
    · simp only [if_pos hv]
    · simp only [if_neg hv, sget_sset]
  clear_value t
  obtain ⟨hout, hself, hothers, hparts⟩ := putFlit_effects (putPort s c q') c f'
  obtain ⟨u, hu⟩ : ∃ u, u = putFlit (putPort s c q') c f' := ⟨_, rfl⟩
  rw [← hu] at ht hout hself hothers hparts
  rw [portOf_putPort] at hself hout
  have hfreed := freeHomes_view (F := fabricOnly) u f.home.toList rfl
  rw [ht]
  refine ⟨?_, ?_, ?_, ?_, fun e he hhome => ?_, (parts_of_view hfreed rfl).trans hparts⟩
  · rw [out_of_view hfreed rfl, hout, codeword_congr hlanes]
    rfl
  · rw [portOf_freeHomes Port.replay _ _ _ fun _ _ _ _ _ _ => rfl, hself]
    exact hreplay
  · rw [portOf_freeHomes Port.txNext _ _ _ fun _ _ _ _ _ _ => rfl, hself]
    exact htx
  · rw [portOf_freeHomes (fun q => queueOf q v) _ _ _ fun _ _ _ _ _ _ => rfl, hself]
    exact hrest
  · rw [portOf_freeHomes_ne fun x hx => hhome x (Option.mem_toList.1 hx), hothers e he, portOf_putPort_ne _ _ _ _ he]

/-- With nothing to send, IDLE leaves. -/
theorem flitTransmit_idle {s : State} {c : Nat} (hup : portUp s c = true) (hnak : (portOf s c).nakOut = false)
    (hlctl : (portOf s c).lctl = false) (hresend : (portOf s c).resend = []) (hnext : nextVc s c = none) :
    flitTransmit s c = putFlit s c (idleFlit (portOf s c)) := by
  simp only [flitTransmit, flitTransmit_of_up hup, hnak, hlctl, resendNext, hresend, hnext, Bool.or_self, Bool.false_eq_true,
    if_false]

/-! ### A flit that arrives (R164, R169, R191) -/

/-- Corrected bytes are counted; else the port stands. -/
theorem portOf_laneCorrected (s : State) (c lane n : Nat) :
    ∃ x, portOf (laneCorrected s c lane n) c = { portOf s c with fec := x } := by
  unfold laneCorrected
  extract_lets k s1
  have hs1 : portOf s1 c = { portOf s c with fec := sset 0 (portOf s c).fec lane (k % 1000) } := portOf_onPort ..
  refine ⟨_, Eq.trans ?_ hs1⟩
  split
  · rfl
  · have hcharge := chargeN_view (F := chargeOnly) (bumpMreg s1 (M.ptLane c) (16 * lane + 15) (16 * lane) (k / 1000)) 0x09 6
      (c * 4 + lane) (k / 1000) rfl rfl rfl (fun _ => rfl) fun _ => rfl
    exact (portOf_of_view hcharge rfl c).trans (portOf_putMreg ..)

/-- The bytes that the four lanes of a codeword corrected. -/
def lanesCorrected (s : State) (c : Nat) (w : RxCodeword) : State :=
  laneCorrected (laneCorrected (laneCorrected (laneCorrected s c 0 w.corr0) c 1 w.corr1) c 2 w.corr2) c 3 w.corr3

theorem portOf_lanesCorrected (s : State) (c : Nat) (w : RxCodeword) :
    ∃ x, portOf (lanesCorrected s c w) c = { portOf s c with fec := x } := by
  obtain ⟨x0, h0⟩ := portOf_laneCorrected s c 0 w.corr0
  obtain ⟨x1, h1⟩ := portOf_laneCorrected (laneCorrected s c 0 w.corr0) c 1 w.corr1
  obtain ⟨x2, h2⟩ := portOf_laneCorrected (laneCorrected (laneCorrected s c 0 w.corr0) c 1 w.corr1) c 2 w.corr2
  obtain ⟨x3, h3⟩ := portOf_laneCorrected
    (laneCorrected (laneCorrected (laneCorrected s c 0 w.corr0) c 1 w.corr1) c 2 w.corr2) c 3 w.corr3
  exact ⟨x3, by rw [lanesCorrected, h3, h2, h1, h0]⟩

theorem flitReceive_of_up {s : State} {c : Nat} (hup : portUp s c = true) :
    (!(portUp s c || (portOf s c).pstate == 7 || (portOf s c).pstate == 10)) = false := by
  rw [hup, Bool.true_or, Bool.true_or]
  rfl

/-- A port in one of its UP states carries every channel. -/
theorem helloOnly_of_up {s : State} {c : Nat} (hup : portUp s c = true) {q : Port} (hq : q.pstate = (portOf s c).pstate) :
    helloOnly q = false := by
  simp only [portUp, Bool.and_eq_true, decide_eq_true_eq] at hup
  simp only [helloOnly, hq, Bool.or_eq_false_iff, beq_eq_false_iff_ne]
  omega

/-- What a discarded flit leaves of a port that has counted corrected bytes. -/
theorem flitDiscard_effects {s s1 : State} {c : Nat} {x : Sparse Nat} (h : portOf s1 c = { portOf s c with fec := x }) :
    let t := flitDiscard s1 c
    (portOf t c).rxNext = (portOf s c).rxNext ∧ (portOf t c).rx = (portOf s c).rx ∧
      (portOf t c).replay = (portOf s c).replay ∧ (portOf t c).discard = true ∧
      ((portOf s c).discard = false → (portOf t c).nakOut = true) := by
  intro t
  have ht : portOf t c = { portOf s c with fec := x, nakOut := (portOf s c).nakOut || !(portOf s c).discard, discard := true } := by
    simp only [t, flitDiscard, portOf_onPort, h]
  rw [ht]
  exact ⟨rfl, rfl, rfl, rfl, fun hd => by simp only [hd, Bool.not_false, Bool.or_true]⟩

/-- A codeword that is not corrected, or a flit whose FCRC fails, is discarded. -/
theorem flitReceive_bad {s : State} {c : Nat} {w : RxCodeword} (hup : portUp s c = true)
    (hbad : w.bytes = none ∨ 7 < w.corr0 + w.corr1 + w.corr2 + w.corr3 ∨
      ∃ bs, w.bytes = some bs ∧ flitCrc (slice bs 0 252) ≠ leAt bs 252 4) :
    ∃ s1 x, portOf s1 c = { portOf s c with fec := x } ∧ flitReceive s c w = flitDiscard s1 c := by
  have hgo := flitReceive_of_up hup
  cases hbs : w.bytes with
  | none => exact ⟨s, _, rfl, by simp only [flitReceive, hgo, hbs, Bool.false_eq_true, if_false]⟩
  | some bs =>
    by_cases hmany : 7 < w.corr0 + w.corr1 + w.corr2 + w.corr3
    · exact ⟨s, _, rfl, by simp only [flitReceive, hgo, hbs, hmany, Bool.false_eq_true, if_false, if_true]⟩
    · have hcrc : (flitCrc (slice bs 0 252) != leAt bs 252 4) = true := by
        rw [bne_iff_ne]
        rcases hbad with h | h | ⟨cs, h, hne⟩
        · rw [hbs] at h
          cases h
        · exact absurd h hmany
        · rw [hbs] at h
          cases h
          exact hne
      obtain ⟨x, hx⟩ := portOf_lanesCorrected s c w
      exact ⟨lanesCorrected s c w, x, hx, by
        simp only [flitReceive, hgo, hbs, hmany, hcrc, Bool.false_eq_true, if_false, if_true, lanesCorrected]⟩

/-! ### A BODY flit in order -/

/-- A flit stands in the queue that it joins. -/
theorem mem_joinQueue (cur : Nat) (l : List Flit) (f : Flit) : f ∈ joinQueue cur l f := by
  unfold joinQueue
  split
  · exact List.mem_append_right _ List.mem_cons_self
  · split
    · exact List.mem_cons_self
    · exact List.mem_append_right _ List.mem_cons_self

/-- A BODY flit neither begins nor ends its message. -/
theorem takeFlit_body {f : Flit} (hf : f.ftype = 2) (s : State) (via : Option Nat) (r : RxMsg) (h : Home) :
    takeFlit s via r (some h) f = match r.way with
      | .drop => (.idle, freeHomes s [h])
      | .gather => ({ r with bytes := r.bytes ++ f.payload, homes := r.homes ++ [h] }, s)
      | .out c m a => (r, passFlit s c { f with dl := dateline a f.dl, held := r.held, mid := m, home := some h })
      | .tunnel _ _ => ({ r with flits := r.flits ++ [f], homes := r.homes ++ [h] }, s) := by
  unfold takeFlit
  rw [hf]
  cases hway : r.way <;> simp [hway]

/-- What a flit that passes through does not touch on any port: all but its queues and its receive buffers. -/
theorem portOf_takeFlit_body {α : Type} (π : Port → α) {f : Flit} (hf : f.ftype = 2) (s : State) (via : Option Nat) (r : RxMsg)
    (h : Home) (c : Nat)
    (hπ : ∀ (q : Port) a b d e k l, π { q with rxSh := a, rxDed := b, dcredRx := d, scredRx := e, lctl := k, txq := l } = π q) :
    π (portOf (takeFlit s via r (some h) f).2 c) = π (portOf s c) := by
  rw [takeFlit_body hf]
  cases r.way with
  | drop => exact portOf_freeHomes π s [h] c fun q a b d e k => hπ q a b d e k q.txq
  | gather => rfl
  | tunnel => rfl
  | out d m a =>
    dsimp only
    by_cases hc : c = d
    · rw [passFlit, ← hc, portOf_onPort]
      exact hπ (portOf s c) _ _ _ _ _ _
    · rw [passFlit, portOf_onPort_ne _ _ _ _ hc]

/-- A BODY flit in order for which a buffer is free. -/
theorem takeInOrder_effects {s : State} {c : Nat} {f : Flit} {h : Home} (hhello : helloOnly (portOf s c) = false)
    (hf : f.ftype = 2) : let r := sget RxMsg.idle (portOf s c).rx f.vc
    let t := takeInOrder s c h f
    (portOf t c).rxNext = ((portOf s c).rxNext + 1) % 4096 ∧ (portOf t c).replay = (portOf s c).replay ∧
      (portOf t c).ackOut = true ∧
      (r.way = .gather → (sget RxMsg.idle (portOf t c).rx f.vc).bytes = r.bytes ++ f.payload) ∧
      ∀ d m a, r.way = .out d m a → ∃ x ∈ sget [] (portOf t d).txq f.vc, x.mid = m ∧ x.payload = f.payload := by
  intro r t
  obtain ⟨s1, hs1⟩ : ∃ s1, s1 = onPort s c fun q =>
    { q with
      rxNext := (q.rxNext + 1) % 4096
      discard := false
      ackOut := true
      rxDed := if h.shared then q.rxDed else smod 0 q.rxDed (2 * h.vc + b2n h.dl) (· + 1)
      rxSh := if h.shared then smod 0 q.rxSh h.vc (· + 1) else q.rxSh } := ⟨_, rfl⟩
  have hport1 : (portOf s1 c).rxNext = ((portOf s c).rxNext + 1) % 4096 ∧ (portOf s1 c).replay = (portOf s c).replay ∧
      (portOf s1 c).ackOut = true ∧ (portOf s1 c).rx = (portOf s c).rx ∧ rxSlot (portOf s1 c) f = f.vc := by
    rw [hs1, portOf_onPort]
    exact ⟨rfl, rfl, rfl, rfl, if_neg (by rw [Bool.not_eq_true]; exact hhello)⟩
  obtain ⟨hnext, hreplay, hack, hrx, hslot⟩ := hport1
  obtain ⟨k, u, hk⟩ : ∃ k u, takeFlit s1 (some c) r (some h) f = (k, u) := ⟨_, _, rfl⟩
  have ht : t = onPort u c fun q => { q with rx := sset .idle q.rx f.vc k } := by
    simp only [t, takeInOrder, ← hs1, joinMsg, hslot, hrx]
    rw [hk]
  clear_value t
  have hu : u = (takeFlit s1 (some c) r (some h) f).2 := by rw [hk]
  have hself : portOf t c = { portOf u c with rx := sset .idle (portOf u c).rx f.vc k } := by rw [ht, portOf_onPort]
  have hkept {α : Type} (π : Port → α) (hπ : ∀ (q : Port) a b d e k l,
      π { q with rxSh := a, rxDed := b, dcredRx := d, scredRx := e, lctl := k, txq := l } = π q) :
      π (portOf u c) = π (portOf s1 c) := by
    rw [hu]
    exact portOf_takeFlit_body π hf s1 (some c) r h c hπ
  have hqueues (d : Nat) : (portOf t d).txq = (portOf u d).txq := by
    by_cases hd : d = c
    · rw [hd, hself]
    · rw [ht, portOf_onPort_ne _ _ _ _ hd]
  rw [hself]
  refine ⟨(hkept Port.rxNext fun _ _ _ _ _ _ _ => rfl).trans hnext, (hkept Port.replay fun _ _ _ _ _ _ _ => rfl).trans hreplay,
    (hkept Port.ackOut fun _ _ _ _ _ _ _ => rfl).trans hack, fun hway => ?_, fun d m a hway => ?_⟩
  · have hgather : k.bytes = r.bytes ++ f.payload := by
      have hbody := takeFlit_body hf s1 (some c) r h
      rw [hway, hk] at hbody
      exact congrArg (fun e : RxMsg × State => e.1.bytes) hbody
    rw [sget_sset]
    exact hgather
  · have hbody := takeFlit_body hf s1 (some c) r h
    rw [hway, hk] at hbody
    have hpass : u = passFlit s1 d { f with dl := dateline a f.dl, held := r.held, mid := m, home := some h } :=
      congrArg Prod.snd hbody
    refine ⟨{ f with dl := dateline a f.dl, held := r.held, mid := m, home := some h }, ?_, rfl, rfl⟩
    rw [hqueues, hpass, passFlit, portOf_onPort]
    dsimp only
    rw [sget_smod]
    exact mem_joinQueue ..

/-- A good BODY flit of a port that is UP is taken in order after its acknowledgement. -/
theorem flitReceive_good {s : State} {c : Nat} {w : RxCodeword} {bs : List Byte} {h : Home} (hup : portUp s c = true)
    (hbs : w.bytes = some bs) (hfew : w.corr0 + w.corr1 + w.corr2 + w.corr3 ≤ 7) (hcrc : flitCrc (slice bs 0 252) = leAt bs 252 4)
    (htype : (parseFlit bs).ftype = 2) (hseq : (parseFlit bs).seq = (portOf s c).rxNext)
    (hhome : homeFor (portOf s c) c (parseFlit bs) = some h) :
    ∃ s2 x, portOf s2 c = { takeAck (portOf s c) (parseFlit bs).ack with fec := x } ∧
      flitReceive s c w = takeInOrder s2 c h (parseFlit bs) := by
  obtain ⟨x, hx⟩ := portOf_lanesCorrected s c w
  obtain ⟨s2, hs2⟩ : ∃ s2, s2 = onPort (lanesCorrected s c w) c fun q => takeAck q (parseFlit bs).ack := ⟨_, rfl⟩
  have hport : portOf s2 c = { takeAck (portOf s c) (parseFlit bs).ack with fec := x } := by
    rw [hs2, portOf_onPort, hx]
    rfl
  have hhello : helloOnly (portOf s2 c) = false := helloOnly_of_up hup (by rw [hport]; rfl)
  have hhome2 : homeFor (portOf s2 c) c (parseFlit bs) = some h := by
    rw [hport, ← hhome]
    rfl
  have hnext2 : (portOf s2 c).rxNext = (portOf s c).rxNext := by
    rw [hport]
    rfl
  have hseqd : takeSequenced s2 c (parseFlit bs) = takeInOrder s2 c h (parseFlit bs) := by
    simp only [takeSequenced, hhome2, hhello, hseq, hnext2, Bool.false_and, Bool.false_eq_true, if_false, if_true]
  refine ⟨s2, x, hport, ?_⟩
  have hmany : ¬ 7 < w.corr0 + w.corr1 + w.corr2 + w.corr3 := by omega
  have hcrc' : (flitCrc (slice bs 0 252) != leAt bs 252 4) = false := by rw [hcrc, bne_self_eq_false]
  have hkinds : ¬ 5 < (parseFlit bs).ftype ∧ (parseFlit bs).ftype ≠ 5 ∧ (parseFlit bs).ftype ≠ 0 := by omega
  obtain ⟨hreserved, hcontrol, hidle⟩ := hkinds
  rw [← hseqd, hs2]
  simp only [flitReceive, flitReceive_of_up hup, hbs, if_neg hmany, hcrc', if_neg hreserved, if_neg hcontrol, if_neg hidle,
    Bool.false_eq_true, if_false, lanesCorrected]

/-- Settles O24, by what a flit that leaves or arrives makes of its port, and of the one that it passes to. -/
theorem portsCarryFlits : Obligations.PortsCarryFlits := by
  unfold Obligations.PortsCarryFlits
  refine ⟨?_, ?_⟩
  · intro s c hc hup q
    have run : exec (.flitTransmit c) s = .next (flitTransmit s c) := exec_next_of_eq rfl (decide_eq_true hc) rfl
    have hview := flitTransmit_carrying s c
    have hstores := stores_of_view hview rfl
    have hcores := cores_of_view hview rfl
    refine ⟨fun hdue => ?_, ?_, fun hnak hlctl hresend hnext => ?_⟩
    · obtain ⟨hnak, hlctl, hreplay, hout⟩ := flitTransmit_control hup hdue
      exact ⟨_, run, hnak, hlctl, hreplay, hout, hstores, hcores⟩
    · intro v wv wl f rest hnak hlctl hresend hnext hqueue f'
      obtain ⟨hout, hreplay, htx, hrest, hothers, hparts⟩ := flitTransmit_data hup hnak hlctl hresend hnext hqueue
      exact ⟨_, run, hout, hreplay, htx, hrest, hothers, hparts, hstores, hcores⟩
    · obtain ⟨hout, hself, hothers, hparts⟩ := putFlit_effects s c (idleFlit q)
      rw [flitTransmit_idle hup hnak hlctl hresend hnext] at run
      exact ⟨_, run, hout, by rw [hself], by rw [hself], hothers, hparts, rfl, rfl⟩
  · intro s c w hc hup q
    have run : exec (.flitReceive c w) s = .next (flitReceive s c w) := exec_next_of_eq rfl (decide_eq_true hc) rfl
    have hview := flitReceive_carrying s c w
    have hstores := stores_of_view hview rfl
    have hcores := cores_of_view hview rfl
    refine ⟨?_, fun hbad => ?_⟩
    · intro bs h hbs hfew hcrc htype hseq hhome f r
      obtain ⟨s2, x, hport, ht⟩ := flitReceive_good hup hbs hfew hcrc htype hseq hhome
      have hhello : helloOnly (portOf s2 c) = false := helloOnly_of_up hup (by rw [hport]; rfl)
      obtain ⟨hnext, hreplay, hack, hgather, hpass⟩ := takeInOrder_effects (h := h) hhello htype
      rw [ht] at run hstores hcores
      rw [hport] at hnext hreplay hgather hpass
      exact ⟨_, run, hnext, hreplay, hack, hgather, hpass, hstores, hcores⟩
    · obtain ⟨s1, x, hport, ht⟩ := flitReceive_bad hup hbad
      obtain ⟨hnext, hrx, hreplay, hdiscard, hnak⟩ := flitDiscard_effects hport
      rw [ht] at run hstores hcores
      exact ⟨_, run, hnext, hrx, hreplay, hdiscard, hnak, hstores, hcores⟩

end Sys2Proof.Proofs
end

section
/-! Proofs about charges, and a digest scrub whose fetch warns another partition. -/

namespace Sys2Proof.Proofs

open Sys2Proof.Machine Sys2Proof.Safety Sys2Proof.Laws

/-! ### The warning that a charge may raise (R344) -/

/-- Whether bit 14 of `ERR` stands in a partition: a unit of it has crossed its warning level. -/
def Warned (s : State) (q : Nat) : Prop := reg s q R.errEvents 14 14 = 1

/-- Registers of a partition stand where at most other partitions differ. -/
theorem reg_of_elsewhere {s t : State} {p q : Nat} (h : elsewhere s t p) (hq : q ≠ p) (o hi lo : Nat) :
    reg t q o hi lo = reg s q o hi lo := by
  have hget := congrArg (fun x : Partition => x.get o hi lo) (h q hq)
  exact hget

theorem warned_of_elsewhere {s t : State} {p q : Nat} (h : elsewhere s t p) (hq : q ≠ p) (hw : Warned s q) : Warned t q :=
  (reg_of_elsewhere h hq ..).trans hw

theorem warned_of_parts {s t : State} {q : Nat} (h : t.parts = s.parts) (hw : Warned s q) : Warned t q := by
  rw [Warned, reg, partOf, h]
  exact hw

theorem errEvent_elsewhere (s : State) (p i : Nat) : elsewhere s (errEvent s p i) p :=
  elsewhere_of_view (F := registersOf p) (errEvent_view _ _ _ rfl rfl (beq_self_eq_true p) rfl) fun _ hq => apart_registersOf hq

/-- The event of a crossed warning level stands, and takes away none that stood. -/
theorem warned_errEvent_warning {s : State} {p q : Nat} (h : q = p ∨ Warned s q) : Warned (errEvent s p 14) q := by
  by_cases hq : q = p
  · subst hq
    have hother : R.errEvents ≠ R.errCnt 14 := by decide
    unfold Warned errEvent
    simp only [apply_ite (fun t => reg t q R.errEvents 14 14), reg_msix, reg_putReg_other hother, ite_self]
    exact reg_putReg _ _ _ _ _ _ (by decide) (by decide)
  · exact warned_of_elsewhere (errEvent_elsewhere s p 14) hq (h.resolve_left hq)

/-- What a charge does: the count of its unit rises, and when that crosses the warning level the partition that holds the unit
is warned. -/
theorem chargeN_steps (s : State) (cls ut idx n : Nat) : ∃ s2 : State, s2.parts = s.parts ∧
    s2.rel.counts = sset .zero s.rel.counts (unitKey cls ut idx)
      ((sget .zero s.rel.counts (unitKey cls ut idx)).add n (weightOf s cls)) ∧
    chargeN s cls ut idx n = if (sget .zero s.rel.counts (unitKey cls ut idx)).wwin < warnOf s ut ∧
        warnOf s ut ≤ ((sget .zero s.rel.counts (unitKey cls ut idx)).add n (weightOf s cls)).wwin then
      (unitPart s ut idx).elim s2 fun p => errEvent s2 p 14
    else s2 := by
  obtain ⟨k, hk⟩ : ∃ k, k = unitKey cls ut idx := ⟨_, rfl⟩
  obtain ⟨u, hu⟩ : ∃ u, u = (sget .zero s.rel.counts k).add n (weightOf s cls) := ⟨_, rfl⟩
  obtain ⟨r, hr⟩ : ∃ r : Machine.Rel, r = { s.rel with
      counts := sset .zero s.rel.counts k u
      changed := if s.rel.changed.contains k then s.rel.changed else s.rel.changed ++ [k] } := ⟨_, rfl⟩
  have hcounts : r.counts = sset .zero s.rel.counts k u := by rw [hr]
  have recorded (b : Bool) (flg : Nat) :
      (if b then eventRecord { s with rel := r } cls ut idx flg 0 else { s with rel := r }).parts = s.parts ∧
      (if b then eventRecord { s with rel := r } cls ut idx flg 0 else { s with rel := r }).rel.counts =
        sset .zero s.rel.counts k u := by
    cases b with
    | true => exact ⟨parts_of_view (F := noParts) (eventRecord_view _ _ _ _ _ _ rfl rfl) rfl, (counts_eventRecord ..).trans hcounts⟩
    | false => exact ⟨rfl, hcounts⟩
  rw [← hk, ← hu]
  obtain ⟨c, hc⟩ : ∃ c, c = decide ((sget .zero s.rel.counts k).wwin < warnOf s ut ∧ warnOf s ut ≤ u.wwin) := ⟨_, rfl⟩
  refine ⟨_, (recorded (c || s.rel.prob) (2 * b2n c + b2n !c)).1, (recorded _ _).2, ?_⟩
  rw [hc]
  simp only [chargeN, ← hk, ← hu, ← hr, decide_eq_true_eq]
  cases unitPart s ut idx with
  | some p => rfl
  | none => rfl

/-- A charge takes no warning away. -/
theorem warned_chargeN {s : State} {q : Nat} (cls ut idx n : Nat) (h : Warned s q) : Warned (chargeN s cls ut idx n) q := by
  obtain ⟨s2, hparts, -, ht⟩ := chargeN_steps s cls ut idx n
  have hs2 : Warned s2 q := warned_of_parts hparts h
  rw [ht]
  split
  · cases unitPart s ut idx with
    | some p => exact warned_errEvent_warning (.inr hs2)
    | none => exact hs2
  · exact hs2

/-- The first event of a unit that crosses its warning level warns the partition that holds it. -/
theorem warned_charge_first {s : State} {cls ut idx q : Nat} (hcount : sget .zero s.rel.counts (unitKey cls ut idx) = .zero)
    (hweight : weightOf s cls = 1) (hlevel : warnOf s ut = 1) (hunit : unitPart s ut idx = some q) : Warned (charge s cls ut idx) q := by
  obtain ⟨s2, -, -, ht⟩ := chargeN_steps s cls ut idx 1
  rw [charge, ht, hcount, hweight, hlevel, if_pos (by decide), hunit]
  exact warned_errEvent_warning (.inl rfl)

/-- The counts of other units stand. -/
theorem count_chargeN_ne {s : State} {cls ut idx n k : Nat} (h : k ≠ unitKey cls ut idx) :
    sget .zero (chargeN s cls ut idx n).rel.counts k = sget .zero s.rel.counts k := by
  obtain ⟨s2, -, hcounts, ht⟩ := chargeN_steps s cls ut idx n
  have hs2 : sget .zero s2.rel.counts k = sget .zero s.rel.counts k := by
    rw [hcounts]
    exact sget_sset_ne _ _ _ _ _ _ h
  rw [ht]
  split
  · cases unitPart s ut idx with
    | some p =>
      rw [Option.elim_some, errEvent_rel]
      exact hs2
    | none => exact hs2
  · exact hs2

/-! ### A scrub whose fetch warns another partition (R272, R344) -/

/-- What a fetch of a bolt of partition `p` may change. -/
@[reducible] def fetching (p : Nat) : Field → Bool
  | .freeIx | .out | .parts | .wardrobe | .rel | .regs _ | .vec _ => true
  | .mem q | .hbm q => q == p
  | _ => false

/-- A collar whose `CRC` is not that of the payload. -/
def wrongCollar (pay : List Byte) : Collar := BitVec.ofNat 128 ((crc32c pay + 1) % 2 ^ 32)

theorem crcOk_wrongCollar (pay : List Byte) : crcOk pay (wrongCollar pay) = false := by
  have hcrc : (wrongCollar pay).crc = (crc32c pay + 1) % 2 ^ 32 := by
    simp only [Collar.crc, wrongCollar, fld, nfld, BitVec.toNat_ofNat]
    omega
  rw [crcOk, hcrc]
  simp only [beq_eq_false_iff_ne, ne_eq]
  omega

/-- The bytes of a digest record that a scrub looks at: one tile, and valid. -/
def recordBytes : Mem := cellsOf 0x34 [1] ++ cellsOf 0x3C [1]

/-- The payload of tile 16. -/
def staleTile : List Byte := mread recordBytes (4096 * 16) 4096

/-- A partition of panel 0 whose weight slot A is ACTIVE and has a digest record of tile 0, at the front of that tile. Its bolt 0
is on its way in from flash, and a host read of tile 16 waits for it, whose `CRC` is wrong. -/
def scrubbed : Partition :=
  let x := { Partition.none_ with ptstate := 1, panels := 1, vbolts := 64, qbolts := 16, keyed := true }
  let x := (x.put R.tlDgint 15 0 1).put (R.wsStat 0) 22 20 Ws.active
  { x with bolts := [(0, { Bolt.unwritten with st := .in_, stalled := [.hostRead [some 65536]] })], mem := recordBytes,
           collars := [(16, wrongCollar staleTile)], tailor := { x.tailor with records := [⟨boltBase, 0, some 0⟩] } }

/-- A state that gives panel 0 to partition 0 as well, where one failed tile is enough to warn of a panel. -/
def sharedPanel : State :=
  let s := { State.reset with parts := [(0, { Partition.none_ with ptstate := 1, panels := 1 }), (1, scrubbed)] }
  putMreg (putMreg s (M.hrWgt 3) 47 32 1) (M.hrHwarn 0) 63 48 1

/-- The failed tile stands where the host will read it, in a bolt that is not on its way. -/
def Spotted (l : List Stalled) (x : Partition) : Prop :=
  (x.bolt 0).stalled = l ∧ tileBytes x 16 = staleTile ∧ tileCollar x 16 = wrongCollar staleTile ∧ (x.bolt 1).st = .zero

/-- A state of that fetch: partition 0 is warned, or no failed tile has been counted yet. -/
structure Primed (l : List Stalled) (s : State) : Prop where
  view : view (fetching 1) s = view (fetching 1) sharedPanel
  spot : Spotted l (partOf s 1)
  blocks : s.wardrobe.blocks = []
  count : Warned s 0 ∨ sget .zero s.rel.counts (unitKey 0x0E 3 0) = .zero

section
variable {l : List Stalled}

/-- Partition 0 is not the one that is scrubbed. -/
theorem warned_onPart {s : State} (f : Partition → Partition) (h : Warned s 0) : Warned (onPart s 1 f) 0 := by
  rw [Warned, reg, partOf_onPart_ne _ _ _ _ (by decide)]
  exact h

theorem primed_onPart {l' : List Stalled} {s : State} (h : Primed l s) {f : Partition → Partition}
    (hview : viewPart (fetching 1) 1 (f (partOf s 1)) = viewPart (fetching 1) 1 (partOf s 1))
    (hspot : Spotted l (partOf s 1) → Spotted l' (f (partOf s 1))) : Primed l' (onPart s 1 f) where
  view := (onPart_view _ _ _ rfl hview).trans h.view
  spot := by
    rw [partOf_onPart]
    exact hspot h.spot
  blocks := h.blocks
  count := h.count.imp (warned_onPart f) id

theorem primed_putReg {s : State} (h : Primed l s) (o hi lo v : Nat) : Primed l (putReg s 1 o hi lo v) :=
  primed_onPart h (by simp only [Partition.put, Partition.setReg, viewPart_mk, true_or, or_true]) id

theorem primed_countStall {s : State} (h : Primed l s) : Primed l (countStall s 1) :=
  primed_onPart h (by simp only [Partition.put, Partition.setReg, viewPart_mk, true_or, or_true]) id

theorem primed_spend {s : State} (h : Primed l s) (n : Nat) : Primed l (spend s n) where
  view := (spend_view _ _ rfl).trans h.view
  spot := h.spot
  blocks := h.blocks
  count := h.count

theorem primed_onWear {s : State} (h : Primed l s) (f : Wear → Wear) : Primed l (onWear s f) where
  view := (onWear_view _ _ rfl).trans h.view
  spot := h.spot
  blocks := h.blocks
  count := h.count

theorem spotted_of_flashOnly {s t : State} (hview : Proofs.view flashOnly t = Proofs.view flashOnly s)
    (h : Spotted l (partOf s 1)) : Spotted l (partOf t 1) := by
  have hmem := part_of_view Partition.mem hview (q := 1) fun _ => rfl
  have hcollars := part_of_view Partition.collars hview (q := 1) fun _ => rfl
  have hbolts := part_of_view Partition.bolts hview (q := 1) fun _ => rfl
  unfold Spotted tileBytes tileCollar Partition.bolt
  rw [hmem, hcollars, hbolts]
  exact h

theorem primed_errEvent {s : State} (h : Primed l s) (i : Nat) : Primed l (errEvent s 1 i) where
  view := (errEvent_view _ _ _ rfl rfl rfl rfl).trans h.view
  spot := spotted_of_flashOnly (errEvent_view _ _ _ rfl rfl rfl rfl) h.spot
  blocks := by
    rw [← h.blocks]
    exact congrArg Wardrobe.blocks (wardrobe_of_view (F := chargeOnly) (errEvent_view _ _ _ rfl rfl rfl rfl) rfl)
  count := by
    rw [errEvent_rel]
    exact h.count.imp (warned_of_elsewhere (errEvent_elsewhere s 1 i) (by decide)) id

theorem primed_chargeN {s : State} (h : Primed l s) (cls ut idx n : Nat)
    (hcount : sget UnitCount.zero s.rel.counts (unitKey 0x0E 3 0) = .zero → Warned (chargeN s cls ut idx n) 0 ∨
      sget UnitCount.zero (chargeN s cls ut idx n).rel.counts (unitKey 0x0E 3 0) = .zero) : Primed l (chargeN s cls ut idx n) where
  view := (chargeN_view _ _ _ _ _ rfl rfl rfl (fun _ => rfl) fun _ => rfl).trans h.view
  spot := spotted_of_flashOnly (chargeN_view _ _ _ _ _ rfl rfl rfl (fun _ => rfl) fun _ => rfl) h.spot
  blocks := by
    rw [← h.blocks]
    exact congrArg Wardrobe.blocks (wardrobe_of_view (F := chargeOnly)
      (chargeN_view _ _ _ _ _ rfl rfl rfl (fun _ => rfl) fun _ => rfl) rfl)
  count := h.count.elim (fun hw => .inl (warned_chargeN _ _ _ _ hw)) hcount

/-- An event of a flash package is none of a panel. -/
theorem primed_chargeFlash {s : State} (h : Primed l s) (cls n : Nat) : Primed l (chargeFlash s cls n) := by
  unfold chargeFlash
  split
  · exact h
  · refine primed_chargeN (primed_spend h 1) _ _ _ _ fun hz => .inr ((count_chargeN_ne ?_).trans hz)
    have hfree : freeBelow s 0 4 < 4 := Nat.mod_lt _ (by decide)
    simp only [unitKey]
    omega

/-- A tile of the scrubbed partition that fails warns partition 0, which has its panel too. -/
theorem warned_tileFailed {s : State} (h : Primed l s) (t : Nat) : Warned (tileFailed s 1 t) 0 ∧ Primed l (tileFailed s 1 t) := by
  have hpanel : (tileChannel (partOf s 1) t).1 = 0 := by
    have hone : (partOf s 1).panels = 1 := part_of_view Partition.panels h.view fun _ => rfl
    have hlist : panelList (partOf s 1) = [0] := by
      rw [panelList, hone]
      decide
    have hget (i : Nat) : ([0] : List Nat).getD i 0 = 0 := by cases i <;> rfl
    simp only [tileChannel, channelAt, hlist, hget]
  have hev := primed_errEvent h 2
  have hwarned : Warned (tileFailed s 1 t) 0 := by
    rw [tileFailed, hpanel]
    refine hev.count.elim (fun hw => warned_chargeN _ _ _ _ hw) fun hz => warned_charge_first hz ?_ ?_ ?_
    · rw [weightOf, mreg_of_view hev.view rfl]
      decide +kernel
    · rw [warnOf, mreg_of_view hev.view rfl]
      decide +kernel
    · have hpt : (partOf (errEvent s 1 2) 0).ptstate = 1 := part_of_view Partition.ptstate hev.view fun _ => rfl
      have hpn : (partOf (errEvent s 1 2) 0).panels = 1 := part_of_view Partition.panels hev.view fun _ => rfl
      have hrange : List.range 16 = 0 :: List.range' 1 15 := by decide
      have hfirst : ((partOf (errEvent s 1 2) 0).ptstate != 0 && bit (partOf (errEvent s 1 2) 0).panels 0) = true := by
        rw [hpt, hpn]
        decide
      simp only [unitPart, hrange, Option.bind_some]
      exact List.find?_cons_of_pos hfirst
  exact ⟨hwarned, primed_chargeN hev _ _ _ _ fun _ => .inl hwarned⟩

theorem primed_checkTiles {s : State} (h : Primed l s) (ts : List Nat) : Primed l (checkTiles s 1 ts) := by
  refine List.foldlRecOn (motive := Primed l) _ _ h fun u hu t _ => ?_
  split
  · exact hu
  · exact (warned_tileFailed hu t).2

/-! ### The fetch, step by step -/

theorem spotted_touchTiles (wr : Bool) (ts : List Nat) {x : Machine.Partition} (h : Spotted l x) :
    Spotted l (ts.foldl (touchTile wr) x) := by
  obtain ⟨hwait, hpay, hcol, hbolt⟩ := h
  have hview (y : Machine.Partition) : viewPart (flashAndBolts 1) 1 (ts.foldl (touchTile wr) y) = viewPart (flashAndBolts 1) 1 y :=
    viewPart_foldl _ _ fun _ _ => touchTile_view _ _ _ rfl
  have hmem : (ts.foldl (touchTile wr) x).mem = x.mem := by
    have hm := congrArg Partition.mem (hview x)
    exact hm
  have hcollars : (ts.foldl (touchTile wr) x).collars = x.collars := by
    have hc := congrArg Partition.collars (hview x)
    exact hc
  obtain ⟨n, hseen⟩ := bolt_touchTiles wr ts 1 x
  obtain ⟨n0, hseen0⟩ := bolt_touchTiles wr ts 0 x
  exact ⟨by rw [hseen0]; exact hwait, by rw [tileBytes, hmem]; exact hpay, by rw [tileCollar, hcollars]; exact hcol,
    by rw [hseen]; exact hbolt⟩

theorem spotted_setBolt {x : Machine.Partition} (h : Spotted l x) (y : Bolt) : Spotted y.stalled (x.setBolt 0 y) := by
  obtain ⟨-, hpay, hcol, hbolt⟩ := h
  exact ⟨by rw [bolt_setBolt], hpay, hcol, by rw [bolt_setBolt_ne _ _ (by decide)]; exact hbolt⟩

/-- A tile of bolt 0 that is written does not reach tile 16. -/
theorem spotted_putTile {x : Machine.Partition} (h : Spotted l x) {t : Nat} (ht : t < 16) {pay : List Byte} (hpay : pay.length ≤ 4096)
    (c : Collar) : Spotted l (putTile x t pay c) := by
  obtain ⟨hwait, hbytes, hcol, hbolt⟩ := h
  obtain ⟨n, hseen⟩ := bolt_touchTile true x t 1
  obtain ⟨n0, hseen0⟩ := bolt_touchTile true x t 0
  have hbolts (b : Nat) : (putTile x t pay c).bolt b = (touchTile true x t).bolt b := rfl
  refine ⟨by rw [hbolts, hseen0]; exact hwait, ?_, ?_, by rw [hbolts, hseen]; exact hbolt⟩
  · rw [tileBytes, mem_putTile, mread_mput_ne _ _ _ _ _ (.inr (by omega))]
    exact hbytes
  · rw [tileCollar, putTile, sget_sset_ne _ _ _ _ _ _ (by omega)]
    exact hcol

theorem primed_poisonedTile {s : State} (h : Primed l s) {t : Nat} (ht : t < 16) : Primed l (poisonedTile s 1 t) := by
  obtain ⟨pay, hpay⟩ : ∃ pay, pay = freeBytes s 4096 := ⟨_, rfl⟩
  have hlen : pay.length ≤ 4096 := by
    rw [hpay]
    exact List.length_take_le ..
  obtain ⟨f, hf⟩ : ∃ f : Machine.Partition → Machine.Partition,
      f = fun x => putTile x t pay (setFld (setFld (tileCollar x t) 51 51 1) 31 0 (crc32c pay)) := ⟨_, rfl⟩
  have hput : Primed l (onPart s 1 f) := by
    refine primed_onPart h ?_ fun hs => ?_
    · rw [hf]
      exact putTile_view _ _ _ _ rfl rfl
    · rw [hf]
      exact spotted_putTile hs ht hlen _
  have hs : poisonedTile s 1 t = spend (onPart s 1 f) 512 := by
    rw [hf, hpay]
    rfl
  rw [hs]
  exact primed_spend hput 512

theorem primed_undecoded {s : State} (h : Primed l s) (bad : BitVec 16) : Primed l (undecoded s 1 0 bad) := by
  have htiles : Primed l (((List.range 16).filter fun i => bit bad i).foldl (fun t i => poisonedTile t 1 (16 * 0 + i)) s) := by
    refine List.foldlRecOn (motive := Primed l) _ _ h fun u hu i hi => ?_
    have hlt : i < 16 := List.mem_range.1 (List.mem_of_mem_filter hi)
    exact primed_poisonedTile hu (by omega)
  unfold undecoded
  extract_lets tiles s1 pages
  split
  · exact h
  · exact primed_errEvent (primed_chargeFlash (primed_onWear (primed_spend htiles 1) _) 0x07 _) 1

theorem primed_readFlash {s : State} (h : Primed l s) (retries : Nat) : Primed l (readFlash s 1 0 retries) := by
  have h0 : Primed l (if retries ≤ 2 then s else chargeFlash (onWear s fun w => { w with retry := w.retry + 1 }) 0x06 1) := by
    split
    · exact h
    · exact primed_chargeFlash (primed_onWear h _) 0x06 1
  have hnone : blockFor (if retries ≤ 2 then s else chargeFlash (onWear s fun w => { w with retry := w.retry + 1 }) 0x06 1) 1 0 =
      none := by
    rw [blockFor, h0.blocks]
    rfl
  unfold readFlash
  simp only [hnone]
  exact h0

/-- A host read of the failed tile warns partition 0. -/
theorem warned_hostRead {s : State} (h : Primed l s) : Warned (serve s 1 (.hostRead [some 65536])) 0 := by
  obtain ⟨-, hpay, hcol, hbolt⟩ := h.spot
  have hlive : (partOf s 1).ptstate = 1 := part_of_view Partition.ptstate h.view fun _ => rfl
  have hfence : panelFenced s 1 = false := by
    have hrel : s.rel.fencedPanels = 0 :=
      congrArg (fun r : (List Nat × BitVec 16 × BitVec 18 × BitVec 2 × BitVec 2 × BitVec 20 × BitVec 16 × Bool) ×
        (Nat × Bool × List Nat × Nat × Nat × Bool × Nat × Nat × Nat × BitVec 32 × Bool) => r.1.2.1) (steady_of_view h.view rfl)
    simp [panelFenced, hrel]
  have hthere : stalls (partOf s 1) 1 = false := by rw [stalls, hbolt]
  have htiles : tilesTouched [some 65536] = [16] := by decide
  obtain ⟨u, hu⟩ : ∃ u, u = touchTiles s 1 [16] := ⟨_, rfl⟩
  have hu' : Primed l u := by
    rw [hu, touchTiles, if_neg (by decide)]
    exact primed_onPart h (viewPart_foldl _ _ fun _ _ => touchTile_view _ _ _ rfl) (spotted_touchTiles false [16])
  have hcheck : checkTiles u 1 [16] = tileFailed u 1 16 := by
    obtain ⟨-, hpay', hcol', -⟩ := hu'.spot
    simp only [checkTiles, List.foldl_cons, List.foldl_nil, hpay', hcol', crcOk_wrongCollar, Bool.false_eq_true, if_false]
  have hfailed := (warned_tileFailed hu' 16).1
  have hfind : ([16] : List Nat).find? (fun t => stalls (partOf s 1) (t / 16)) = none := by
    simp only [List.find?_cons, List.find?_nil, Nat.reduceDiv, hthere]
  have hserved : hostServed (partOf s 1) = true := by rw [hostServed, hlive]; rfl
  have hnot : (partOf s 1).ptstate ≠ 0 := by omega
  simp only [serve, hostReadAt, if_neg hnot, hserved, hfence, htiles, hfind, ← hu, hcheck, Bool.not_true, Bool.false_and,
    Bool.false_eq_true, if_false]
  exact warned_of_parts rfl hfailed

/-- The fetch of bolt 0 warns partition 0, whichever of its pages fail. -/
theorem warned_fetchDone {s : State} (h : Primed [.hostRead [some 65536]] s) (hin : ((partOf s 1).bolt 0).st = .in_)
    (bad : BitVec 16) (retries us : Nat) :
    Warned (fetchDone serve s 1 0 bad retries us) 0 := by
  obtain ⟨y, hy⟩ : ∃ y : Bolt, y = { (partOf s 1).bolt 0 with
      st := if ((partOf s 1).bolt 0).wrote then .hbmDirty else .hbmClean, wrote := false } := ⟨_, rfl⟩
  have hstalled : ((partOf s 1).bolt 0).stalled = [.hostRead [some 65536]] := h.spot.1
  have hystalled : y.stalled = [.hostRead [some 65536]] := (congrArg Bolt.stalled hy).trans hstalled
  obtain ⟨s1, hs1⟩ : ∃ s1, s1 = onPart s 1 fun x => x.setBolt 0 y := ⟨_, rfl⟩
  obtain ⟨s2, hs2⟩ : ∃ s2, s2 = checkTiles (readFlash (undecoded s1 1 0 bad) 1 0 retries) 1 (boltTiles 0) := ⟨_, rfl⟩
  obtain ⟨s3, hs3⟩ : ∃ s3, s3 = onPart s2 1 fun x => (boltTiles 0).foldl (touchTile true) x := ⟨_, rfl⟩
  obtain ⟨v, hv⟩ : ∃ v, v = max (reg s3 1 R.migStall 31 0) (satTo 32 us) := ⟨_, rfl⟩
  obtain ⟨s4, hs4⟩ : ∃ s4, s4 = putReg s3 1 R.migStall 31 0 v := ⟨_, rfl⟩
  have hdone : fetchDone serve s 1 0 bad retries us = serveStalled serve s4 1 0 := by
    have hnil : ([.hostRead [some 65536]] : List Stalled) ≠ [] := by simp
    rw [hs4, hv, hs3, hs2, hs1, hy]
    simp only [fetchDone, hin, hstalled, if_true, if_neg hnil]
  have hprimed1 : Primed [.hostRead [some 65536]] s1 := by
    rw [hs1, ← hystalled]
    exact primed_onPart h (Partition_setBolt_view _ _ _ rfl) fun hs => spotted_setBolt hs y
  have hprimed2 : Primed [.hostRead [some 65536]] s2 := by
    rw [hs2]
    exact primed_checkTiles (primed_readFlash (primed_undecoded hprimed1 bad) retries) _
  have hprimed3 : Primed [.hostRead [some 65536]] s3 := by
    rw [hs3]
    exact primed_onPart hprimed2 (viewPart_foldl _ _ fun _ _ => touchTile_view _ _ _ rfl) (spotted_touchTiles true _)
  have hprimed4 : Primed [.hostRead [some 65536]] s4 := by
    rw [hs4]
    exact primed_putReg hprimed3 ..
  rw [hdone, serveStalled, hprimed4.spot.1]
  exact warned_hostRead (primed_onPart hprimed4 (Partition_setBolt_view _ _ _ rfl) fun hs => spotted_setBolt hs _)

end

/-- That state after the read of the digest record. -/
def recordRead : State := (devRead sharedPanel 1 boltBase 64).2

/-- What a scrub asks of that state, and what the record says. -/
theorem sharedPanel_meets : (partOf sharedPanel 1).ptstate = 1 ∧ (partOf sharedPanel 1).get R.tlDgint 15 0 ≠ 0 ∧
    wstate (partOf sharedPanel 1) 0 = Ws.active ∧ nfld (leAt (devRead sharedPanel 1 boltBase 64).1 0x3C 1) 0 0 = 1 ∧
    ((List.range (leAt (devRead sharedPanel 1 boltBase 64).1 0x34 4)).map fun t => (0 + t) / 16).eraseDups = [0] ∧
    reg sharedPanel 0 R.errEvents 14 14 = 0 := by
  decide +kernel

theorem recordRead_bolts : ((partOf recordRead 1).bolt 0).st = .in_ ∧
    ((partOf recordRead 1).bolt 0).stalled = [.hostRead [some 65536]] ∧ ((partOf recordRead 1).bolt 1).st = .zero ∧
    recordRead.wardrobe.blocks = [] ∧ sget .zero recordRead.rel.counts (unitKey 0x0E 3 0) = .zero := by
  decide +kernel

theorem scrubbed_mem : scrubbed.mem = recordBytes := rfl

theorem scrubbed_collars : scrubbed.collars = [(16, wrongCollar staleTile)] := rfl

theorem sget_single {α : Type} (d a : α) (k : Nat) : sget d [(k, a)] k = a := by simp [sget]

theorem partOf_sharedPanel : partOf sharedPanel 1 = scrubbed := rfl

theorem primed_recordRead : Primed [.hostRead [some 65536]] recordRead := by
  obtain ⟨-, hstalled, hbolt, hblocks, hcount⟩ := recordRead_bolts
  have hview : view (flashAndBolts 1) recordRead = view (flashAndBolts 1) sharedPanel :=
    devRead_view _ _ _ _ rfl rfl rfl rfl rfl rfl (fun _ => rfl) rfl
  have hmem := part_of_view Partition.mem hview (q := 1) fun _ => rfl
  have hcollars := part_of_view Partition.collars hview (q := 1) fun _ => rfl
  refine ⟨devRead_view _ _ _ _ rfl rfl rfl rfl rfl rfl (fun _ => rfl) rfl, ⟨hstalled, ?_, ?_, hbolt⟩, hblocks, .inr hcount⟩
  · rw [tileBytes, hmem, partOf_sharedPanel, scrubbed_mem, staleTile]
  · rw [tileCollar, hcollars, partOf_sharedPanel, scrubbed_collars, sget_single]

/-- The fetch that the scrub waits for warns partition 0. -/
theorem warned_fetchNow_recordRead : ∃ u, fetchNow recordRead 1 0 = some u ∧ Warned u 0 := by
  obtain ⟨hin, -, -, -, -⟩ := recordRead_bolts
  have hstalls : stalls (partOf recordRead 1) 0 = true := by rw [stalls, hin]
  have hbegin : beginFetch recordRead 1 0 = some recordRead := by rw [beginFetch, hin]
  have hprimed : Primed [.hostRead [some 65536]] (spend (countStall recordRead 1) 4) :=
    primed_spend (primed_countStall primed_recordRead) 4
  have hin' : ((partOf (spend (countStall recordRead 1) 4) 1).bolt 0).st = .in_ := by decide +kernel
  have hfetch : ∃ bad retries us v, fetchNow recordRead 1 0 =
      some (putReg (fetchDone serve (spend (countStall recordRead 1) 4) 1 0 bad retries us) 1 R.migStall 31 0 v) :=
    ⟨_, _, _, _, by simp only [fetchNow, hstalls, hbegin, if_true, Option.map_some]; rfl⟩
  obtain ⟨bad, retries, us, v, hfetch⟩ := hfetch
  exact ⟨_, hfetch, warned_onPart _ (warned_fetchDone hprimed hin' bad retries us)⟩

/-- What a scrub does after its fetch stays in its partition. -/
theorem digestScrub_elsewhere {s u : State} {p k i : Nat} {r : DigestRec} (hr : (partOf s p).tailor.records[k]? = some r)
    (hi : r.slot = some i) (hlive : (partOf s p).ptstate = 1) (hint : (partOf s p).get R.tlDgint 15 0 ≠ 0)
    (hactive : wstate (partOf s p) i = Ws.active) (hvalid : nfld (leAt (devRead s p r.addr 64).1 0x3C 1) 0 0 = 1)
    (hu : readyAll fetchNow (devRead s p r.addr 64).2 p
      ((List.range (leAt (devRead s p r.addr 64).1 0x34 4)).map fun t => (r.tile + t) / 16).eraseDups = some u) :
    elsewhere u (digestScrub s p k) p := by
  obtain ⟨ts, hts⟩ : ∃ ts, ts = (List.range (leAt (devRead s p r.addr 64).1 0x34 4)).map (r.tile + ·) := ⟨_, rfl⟩
  have hself : deviceAccess p (.regs p) = true := beq_self_eq_true p
  have htouch : view (deviceAccess p) (touchTiles u p ts) = view (deviceAccess p) u := touchTiles_view _ _ _ rfl hself
  have hint' : ((partOf s p).get R.tlDgint 15 0 == 0) = false := by rw [beq_eq_false_iff_ne]; exact hint
  unfold digestScrub
  simp only [hr, hi, hu, hlive, hint', hactive, hvalid, Option.getD_some, ← hts, bne_self_eq_false, beq_self_eq_true, Bool.true_or,
    Bool.not_true, Bool.or_self, Bool.false_eq_true, if_false]
  refine elsewhere_of_view (F := deviceAccess p) ?_ fun _ hq => apart_deviceAccess hq
  split
  · exact htouch
  · refine (msix_view _ _ _ rfl rfl rfl).trans
      ((errEvent_view _ _ _ rfl rfl hself rfl).trans ((putReg_view _ _ _ _ _ _ rfl hself).trans ?_))
    exact (devWriteBy_view _ _ _ _ _ rfl rfl rfl rfl rfl rfl rfl rfl hself (fun _ => rfl) hself hself).trans htouch

/-- Refutes O44: the statement is about any state, also one that gives a panel to two partitions, as no CREATE does; there the fetch
that a DIGEST_SCRUB of the second one waits for raises `ERR` bit 14 of the first. -/
theorem not_planMessagesArrive : ¬ Obligations.PlanMessagesArrive := by
  unfold Obligations.PlanMessagesArrive
  rintro ⟨-, -, scrub⟩
  obtain ⟨hlive, hint, hactive, hvalid, hbolts, hcold⟩ := sharedPanel_meets
  obtain ⟨u, hfetch, hwarned⟩ := warned_fetchNow_recordRead
  have hready : readyAll fetchNow recordRead 1 [0] = some u := hfetch
  have hready' := hready
  rw [← hbolts] at hready'
  obtain ⟨t, run, -, -, hothers, -, -⟩ := scrub sharedPanel u 1 0 0 ⟨boltBase, 0, some 0⟩ (by decide) (by decide) hlive rfl
    hint rfl hactive hvalid hready'
  have hrun : exec (.digestScrub 1 0) sharedPanel = .next (digestScrub sharedPanel 1 0) := exec_next_of_eq rfl rfl rfl
  have ht : digestScrub sharedPanel 1 0 = t := by
    rw [hrun] at run
    exact Host.Outcome.next.inj run
  have hafter : elsewhere u t 1 := by
    rw [← ht]
    exact digestScrub_elsewhere rfl rfl hlive hint hactive hvalid hready'
  have hwarn : Warned sharedPanel 0 :=
    (reg_of_elsewhere hothers (by decide) ..).symm.trans (warned_of_elsewhere hafter (by decide) hwarned)
  rw [Warned, hcold] at hwarn
  exact absurd hwarn (by decide)

end Sys2Proof.Proofs
end
